-- ==== Sys2Proof/Word.lean ====
section
/-! DEFINITION. The word types of the block: bytes, and the sparse tables that hold every piece of state that is
indexed by a number (R5 gives the byte order; the tables are plain data). -/

namespace Sys2Proof

/-- One byte of memory or of a structure. -/
abbrev Byte := BitVec 8

/-- A sparse table: pairs of a key and a value, keys strictly rising. -/
abbrev Tbl (α : Type) := List (Nat × α)

end Sys2Proof
end

