-- ==== Sys2Proof/Syntax.lean ====
section
/-! DEFINITION. The commands of the block: one constructor for each row of the operation table, with the operands
that the row's rules take from outside the block (a descriptor that was fetched, a reading, a verdict, a message). -/

namespace Sys2Proof

/-- Bytes that the host has stored in its own memory and that the device may now read (R52, R40). -/
structure HostStore where
  addr : Nat
  bytes : List Byte
deriving DecidableEq, Repr

/-- A residue or control mismatch on a core during one operation (R112, R124, R450, R457): `group` is the 16-lane
group 0-3, 255 for a residue mismatch in the shared issue logic, or 256 for a mismatch of R457; `segment` the 16-wide depth
segment 0-3 that the group's checker names; `item` an output element of the tile or fill that mismatched; `fails` counts the
executions of that tile or fill that mismatched. -/
structure CoreFault where
  core : Nat
  group : Nat
  segment : Nat
  item : Nat
  fails : Nat
deriving DecidableEq, Repr

/-- What the run of one core operation brings that no rule computes: the handshake count of its completion record
(R86), the mismatches met, and the tiles or fills that have passed their verdict by now, by output elements in them (R142,
R157). With `more` only those drain: the operation goes on, and a later run or a stop ends it. -/
structure Work where
  cycles : Nat
  faults : List CoreFault
  drained : List Nat
  more : Bool := false
deriving DecidableEq, Repr

/-- How a memory controller finds one codeword of an access (R460). -/
inductive EccFinding where
  | clean
  | corrected (byteIdx : Nat)
  | uncorrectableOnce
  | uncorrectableTwice
deriving DecidableEq, Repr

/-- What the units of one near-bank window find that no rule computes (R230-R232): destination codewords with the number of
executions whose check failed, and source codewords as the code finds them. -/
structure WindowWork where
  faults : List (Nat × Nat)
  found : List (Nat × EccFinding)
deriving DecidableEq, Repr

/-- What lies behind a bus of the management island for its masters (R413, R415). -/
inductive Target where
  | telemetry | log | training | phy | scrubber
  | record (id : Nat)
  | policy | fences | grainTable | cuff | keyStore | debugState | mittenFence
  | bank (n : Nat)
  | adminRing | sram
deriving DecidableEq, Repr

/-- A request of one master (R339): `device` requests carry a virtual address of the partition. With `target` it is an access to the
management island instead, at offset `va` of that target (R413, R415). -/
structure MemReq where
  master : Nat
  part : Nat
  cls : Nat
  deadline : Nat
  va : Nat
  len : Nat
  write : Option (List Byte)
  hint : Nat
  prefetch : Bool
  found : EccFinding
  by_ : Option Nat := none
  target : Option Target := none
deriving DecidableEq, Repr

/-- A message between two devices (R401). The data of a message gives its data units; `increment` holds those an RD
asks for. -/
structure RemMsg where
  type : Nat
  cls : Nat
  tag : Nat
  sendPart : Nat
  targetPart : Nat
  exportId : Nat
  offset : Nat
  streamSeq : Nat
  status : Nat
  op : Nat
  format : Nat
  epochSender : Nat
  epochTarget : Nat
  increment : Nat
  data : List Byte
deriving DecidableEq, Repr

/-- A Plauf flit as the code delivers it (R385, R389): its 256 bytes; `codeOk` is the verdict of the code, and `badWave` a
wavelength that holds more than half of the erroneous symbols (R397). -/
structure Flit where
  bytes : List Byte
  codeOk : Bool
  badWave : Option Nat
deriving DecidableEq, Repr

/-- A dense-fabric frame as received (R359, R360): its 200 bytes, and the lanes whose bits differ from the replayed copy (R362). -/
structure Frame where
  bytes : List Byte
  badLanes : List Nat
deriving DecidableEq, Repr

/-- What a THERMAL or SENSOR_TRIM calibration measured (R511): ΔP0 in Pa; θ_l0 and θ_f0 by tower and the inlet temperature as FP32 bits;
the flow in mL/min; node offsets and diode trims in 1/64 °C by (tower, number), those of nodes and diodes in its scope. -/
structure ThermalCal where
  dp0 : Nat
  thetaL : List Nat
  thetaF : List Nat
  inlet : Nat
  flow : Nat
  offsets : List (Nat × Nat × Int)
  trims : List (Nat × Nat × Int)
deriving DecidableEq, Repr

/-- What a finished self-test or calibration found (R563): the failing channels as (kind, a, b), how many resources
were tested, what a calibration measured, and the entries of TRAIN_MEM that a training found, by element. -/
structure TestVerdict where
  failing : List (Nat × Nat × Nat)
  tested : Nat
  incomplete : Bool
  cal : ThermalCal
  trained : List (Nat × List Byte)
deriving DecidableEq, Repr

/-- One node of a tower's thermal model (R488, R489): kind 0 logic, 1 tier F, 2 stack, 3 engine, with the stack's or engine's number in
its tower; the model's value before its offset, and its sensors' readings, none for one that is open or shorted. Temperatures in
1/64 °C. -/
structure NodeValue where
  node : Nat
  kind : Nat
  unit : Nat
  model : Int
  sensors : List (Nat × Option Int)
deriving DecidableEq, Repr

/-- What one 2 µs update gives of one tower: the nodes whose values have changed, and power in W, now and over 100 µs. -/
structure TowerInput where
  nodes : List NodeValue
  power : Nat
  power100 : Nat
deriving DecidableEq, Repr

/-- The readings in force of one tower after an update, temperatures in 1/64 °C, power in W (R488-R490). -/
structure TowerReading where
  hotLogic : Int
  hotF : Int
  hotStack : Int
  hotEng : Int
  lowLogic : Int
  stackTemps : List Int
  engines : List Int
  power : Nat
  power100 : Nat
deriving DecidableEq, Repr

/-- The coolant and package readings of one update (R489, R502). -/
structure PkgReading where
  inlet : Int
  outlet : Int
  dp : Nat
  power : Nat
  inletFailed : Bool
deriving DecidableEq, Repr

/-- A die as it answers discovery (R370). -/
structure DieAnswer where
  kind : Nat
  position : Nat
  revision : Nat
  ident : Nat
  repair : Nat
  lanes : Nat
  lanesLow : Nat
deriving DecidableEq, Repr

/-- One command of the block. `d` names a fetched descriptor by its number in the table of held descriptors. -/
inductive Instr where
  -- Host rings, doorbell counters (02)
  | pollingPass (stores : List HostStore) (failing : List (Nat × Nat))
  | hotIdleEvict (q : Nat)
  | descriptorStart (d : Nat)
  | descriptorComplete (d : Nat)
  | irqCoalTimer (q : Nat)
  | queueEnable (fn q : Nat)
  | queueDisable (fn q : Nat)
  | queueClear (fn q : Nat)
  | queueDrainDone (q : Nat)
  | aqEnable
  | aqDisable
  | vfFlr (vf : Nat)
  | pf0Flr
  -- Admin commands and what ends them (02, 12, 15, 18, 19)
  | identify (d : Nat)
  | vfBind (d : Nat)
  | vfUnbind (d : Nat)
  | vfUnbindDone (vf : Nat)
  | eventWait (d : Nat)
  | partCreate (d : Nat)
  | partDestroy (d : Nat)
  | partReset (d : Nat)
  | partState (d : Nat)
  | partStateDone (p : Nat)
  | pkgState (d : Nat)
  | levelSlewDone
  | readyDrainTimeout
  | powerCap (d : Nat)
  | tripAck (d : Nat)
  | bwRegister (d : Nat)
  | bwRelease (d : Nat)
  | bwMonitor (d : Nat)
  | store (d : Nat) (badReadback : List Nat)
  | settingWrite (d : Nat)
  | settingRead (d : Nat)
  | ownerMsgClaim (d : Nat) (commitOk : Bool)
  | ownerMsgPolicy (d : Nat) (commitOk : Bool)
  | ownerMsgPairing (d : Nat) (commitOk : Bool)
  | ownerMsgDebug (d : Nat) (commitOk : Bool)
  | ownerMsgKeyRelease (d : Nat)
  | debugEntered
  | zeroFillDone (p : Nat)
  | fwStage (d : Nat)
  | fwActivate (d : Nat)
  | liveActivationCheck (refreshed : Bool)
  | topoRead (d : Nat)
  | topoAccept (d : Nat) (readbackOk : Bool)
  | reset (d : Nat)
  | holidayGrant (d : Nat)
  | holidayExpire
  | selftest (d : Nat)
  | calibrate (d : Nat)
  | testDone (v : TestVerdict)
  | retirePage (d : Nat)
  | retireBank (d : Nat)
  | retireMoveDone (target : Nat)
  | snapArm (d : Nat)
  | snapTrigger (d : Nat)
  | equinoxInput
  | snapRead (d : Nat)
  -- MOVE (06)
  | copy (d : Nat)
  | fill (d : Nat)
  | toHost (d : Nat)
  | fromHost (d : Nat)
  | map (d : Nat)
  | unmap (d : Nat)
  | tpoolAdd (d : Nat)
  -- MATRIX, ELEMENT, ATTEND, NEAR, REDUCE (04, 05, 07, 08, 06)
  | matmul (d : Nat) (w : Work)
  | conv1d (d : Nat) (w : Work)
  | conv2d (d : Nat) (w : Work)
  | laneModeChange (core : Nat)
  | chain (d : Nat) (w : Work)
  | softmax (d : Nat) (w : Work)
  | sample (d : Nat) (w : Work)
  | attend (d : Nat) (w : Work)
  | poolRestart (d : Nat)
  | nearList (d : Nat)
  | acc (d : Nat)
  | orderedStagingGrant (stack : Nat)
  | windowOpen (stack pc group : Nat) (d : Nat)
  | windowClose (stack pc group : Nat) (x : WindowWork)
  | windowCut (stack pc group : Nat) (x : WindowWork)
  | bankGroupRefresh (stack pc group : Nat)
  -- STEP (11)
  | rotaBind (d : Nat)
  | rotaUnbind (d : Nat)
  | run (d : Nat)
  | stepRelease (d : Nat)
  | rotaEntryDispatch (d : Nat)
  | stepCommit (d : Nat) (energyA energyB duration : Nat)
  | trickleCfg (d : Nat)
  | trickleSave (d : Nat)
  | trickleResume (d : Nat)
  | trickleTimeout (d : Nat)
  -- KV (08)
  | seqOpen (d : Nat)
  | seqClose (d : Nat)
  | seqFork (d : Nat)
  | seqRead (d : Nat)
  | kvHeldResume (slot : Nat)
  | poolConfig (d : Nat)
  | poolAdd (d : Nat)
  | swapOut (d : Nat)
  | swapOutDone (slot : Nat)
  | swapIn (d : Nat)
  | swapInDone (slot : Nat)
  -- SYNC (10)
  | syncNop (d : Nat)
  | syncAdd (d : Nat)
  | syncWaitAll (d : Nat)
  | syncPair (d : Nat)
  | syncUnpair (d : Nat)
  | syncRead (d : Nat)
  | signalAdd (p c n : Nat)
  -- REMOTE (14, 15)
  | remoteRead (d : Nat)
  | remoteWrite (d : Nat)
  | remoteAtomic (d : Nat)
  | remoteSignal (d : Nat)
  | winExport (d : Nat)
  | winUnexport (d : Nat)
  | winUnexportDone (d : Nat)
  | winImport (d : Nat)
  | winUnimport (d : Nat)
  | sealIn (d : Nat)
  | sealOut (d : Nat)
  -- DIAG (19)
  | kat (d : Nat) (failing : List Nat)
  | repairRead (d : Nat)
  | rowRemap (d : Nat)
  | ppr (d : Nat) (fuseOk : Bool)
  | tap (d : Nat)
  | engineCtrl (d : Nat)
  | arrayRead (d : Nat) (found : List (Nat × EccFinding))
  | scanDump (d : Nat)
  -- Memory, bandwidth (06, 12, 16)
  | memoryAccess (r : MemReq)
  | scrubRead (pa : Nat) (found : EccFinding)
  | scrubLag
  | ceLeak
  | grantReturn (port cls res : Nat)
  | heldRequestRelease (res : Nat)
  | prefetchDrop (req : Nat)
  | requestDeadlinePass (req : Nat)
  | capacityRecompute (res : Nat)
  | missInterval (waited : List (Nat × Nat))
  | guaranteeMissedWindow (handle : Nat)
  -- Fabric, Lining, dies, clocks (13)
  | frameReceive (bundle dir : Nat) (f : Frame)
  | laneRetire (bundle dir lane : Nat)
  | liningMessage (link : Nat) (seq prio : Nat) (crcOk : Bool) (payload : List Byte)
  | dieLost (die : Nat)
  | dieResetInput (die : Nat)
  | dieBack (die : Nat) (failing badSeasons : List Nat)
  | refclkLost (tower : Nat)
  | refclkRestored (tower : Nat)
  -- The Cuff (13)
  | cuffRead (tag window offset len : Nat)
  | cuffWrite (tag window offset : Nat) (data : List Byte)
  | cuffSignal (tag slot inc : Nat)
  | cuffCread (tag slot : Nat)
  | cuffWatch (tag slot target : Nat)
  | guestLinkDown
  -- Plauf ports (14)
  | flitReceive (port : Nat) (f : Flit)
  | portTrainTimeout (port : Nat)
  | portTrainDone (port : Nat)
  | hello (port version hash farPort nonce : Nat)
  | auth (port : Nat) (chain sig : List Byte) (ecdh : Nat)
  | topo (port hash farPort ownerHash pkgState waves : Nat)
  | keyReplace (port dir : Nat)
  | ringRecalibrate (port line : Nat) (ringOk : Bool)
  | laserLineLow (engine line : Nat)
  | laserLineRestored (engine line : Nat)
  | laserLost (engine : Nat)
  | wavelengthRetire (port wave : Nat)
  | rd (port : Nat) (m : RemMsg)
  | rdData (port : Nat) (m : RemMsg)
  | wr (port : Nat) (m : RemMsg)
  | wrAck (port : Nat) (m : RemMsg)
  | atom (port : Nat) (m : RemMsg)
  | atomAck (port : Nat) (m : RemMsg)
  | sig (port : Nat) (m : RemMsg)
  | sigAck (port : Nat) (m : RemMsg)
  | impQ (port : Nat) (m : RemMsg)
  | impR (port : Nat) (m : RemMsg)
  | rdResend (req : Nat)
  | remoteRetry (req : Nat)
  | neighbourLost (hash : Nat)
  -- Sealed VFs and SPDM (15)
  | tdiLeaveRun (vf : Nat)
  | getVersion (path : Nat)
  | getCapabilities (path : Nat) (caps : List Byte)
  | negotiateAlgorithms (path : Nat) (ecdsa384 sha384 secp384 aes256 : Bool)
  | getDigests (path : Nat)
  | getCertificate (path slot offset len : Nat)
  | challenge (path slot : Nat) (nonce : List Byte)
  | getMeasurements (path index : Nat) (sign : Bool) (nonce : List Byte)
  | keyExchange (path : Nat) (exchange : List Byte)
  | finish (path : Nat) (sig mac : List Byte)
  | keyUpdate (path : Nat)
  | heartbeat (path : Nat)
  | endSession (path : Nat)
  | vendorDefinedRequest (path proto arg : Nat)
  -- The tray's sideband (18)
  | getIdentity
  | getState
  | getTelemetry
  | getLog (fromSeq : Nat)
  | getLifetime
  -- Cores, spares, watchdogs (16, 18)
  | sliceCopyDone (core : Nat) (unreadable : List Nat) (spareOk seasonOk : Bool)
  | staleSpeaker (site season : Nat)
  | spareTest (site : Nat) (pass : Bool)
  | mittenWatchdog
  | gauntletWatchdog
  -- Heat and power (17, 22)
  | thermalModelUpdate (a b : TowerInput) (p : PkgReading)
  | thermalLimiterTick (tower : Nat)
  | thermalCapCompute (tower : Nat)
  | offsetAdjust (tower : Nat)
  | sensorCheck (disagree agree : List Nat)
  | hostLimiterTick
  | almanacForecast (tower : Nat) (hotLogic hotF : Int) (idle : Nat)
  | imonSample (mvA mvB : Nat)
  | coolantTimeout
  | telemetryRefresh (rateA rateB : Nat)
  | energyRefresh (energies : List (Nat × Nat × Nat))
  | lifetimeHourly
  | ptmDialogue (ok : Bool) (hostTime : Nat)
  -- Power-up, resets, bring-up (18, 22)
  | vaonApplied
  | pkgRstInput
  | perst
  | bootMgmtDone (badImages : List (Nat × Nat)) (badCopies : List (Nat × Nat))
  | bootNetDone (answers : List (Nat × DieAnswer))
  | bootMemDone (badRows : List (Nat × Nat)) (badPcs : List (Nat × Nat)) (trained : List (Nat × List Byte)) (silent : Nat)
  | bootLinkDone (badLanes : List (Nat × Nat × Nat)) (lateEngines : List Nat) (trained : List (Nat × List Byte)) (silent : Nat)
  | bootCoreDone (failing badSeasons : List Nat)
  | checkDone
  | bootPhaseLimit (answers : List (Nat × DieAnswer)) (out : List Nat)
  | powerGoodReturn (group : Nat)
  | powerGoodTimeout (group : Nat)
  | powerGoodLost (group : Nat)
  | vaonLost
  | enableRetry
  -- Registers (21)
  | qctlWriteBusy (fn : Nat)
  | dbellConfigWrite (fn offset size value : Nat)
  | logpControlWrite (value : Nat)
  | setupLockWrite (value : Nat)
  | bwMissClear (fn part value : Nat)
  | reg64LowRead (fn offset : Nat)
  | registerWrite (fn offset size value : Nat)
  -- Added rows
  | lossOfLight (port : Nat)
  | lightDetected (port : Nat)
  | laserInputRestored (engine : Nat)
  | guestLinkUp
  | resetInputRelease (input : Nat)
  | busMasterEnable (fn : Nat) (on : Bool)
  | negotiatedWidthChange (width : Nat)
  | laneRecalibration (bundle dir lane : Nat)
deriving DecidableEq, Repr

end Sys2Proof
end

