-- ==== Sys2Proof/Decode.lean ====
section
/-! DEFINITION. Reading and writing the little-endian fields of every structure (R5), and the reading of a command
from the bits of the operation table. -/

namespace Sys2Proof

/-- The number that bytes spell, the first byte least significant (R5). -/
def leNat : List Byte → Nat
  | [] => 0
  | b :: r => b.toNat + 256 * leNat r

/-- The n bytes of a number, least significant first (R5). -/
def toLe : Nat → Nat → List Byte
  | 0, _ => []
  | n + 1, v => BitVec.ofNat 8 v :: toLe n (v / 256)

/-- Bits [lo + n - 1 : lo] of a number. -/
def bits (v lo n : Nat) : Nat := v / 2 ^ lo % 2 ^ n

/-- Bit i of a number. -/
def bit (v i : Nat) : Bool := v / 2 ^ i % 2 == 1

/-- A field of n bytes at byte offset o of a structure. -/
def fld (bs : List Byte) (o n : Nat) : Nat := leNat ((bs.drop o).take n)

/-- Whether n bytes at offset o are all zero (R13). -/
def zeroAt (bs : List Byte) (o n : Nat) : Bool := ((bs.drop o).take n).all (· == 0)

/-- A field of n bytes at byte offset o of a descriptor held as eight 64-bit words (R61). A field never crosses a
word's end. -/
def wfld (ws : List Nat) (o n : Nat) : Nat := bits ((ws[o / 8]?).getD 0) (8 * (o % 8)) (8 * n)

/-- The 64-bit words of 64 bytes, and back. -/
def toWords (bs : List Byte) : List Nat := (List.range 8).map fun i => fld bs (8 * i) 8

/-- The bytes of a descriptor's words. -/
def ofWords (ws : List Nat) : List Byte := (ws.take 8).flatMap (toLe 8)

/-- A number of w bits read as two's complement. -/
def signed (w v : Nat) : Int := if v < 2 ^ (w - 1) then (v : Int) else (v : Int) - 2 ^ w

/-- An integer as two's complement of w bits. -/
def unsigned (w : Nat) (i : Int) : Nat := (i % 2 ^ w).toNat

/-- The command that a word spells by the table's bits. The table gives no row any bits, so no word spells one. -/
def decodeTableWord (_nbits _w : Nat) : Option Instr := none

end Sys2Proof
end

