-- ==== Sys2Proof/Machine/Fp.lean ====
section
/-! DEFINITION. The arithmetic of the block (03): exact binary values, the formats of R87, correctly rounded
operations in binary32 (R99), group sums (R92-R95), conversions (R100-R104, R108), Philox (R105) and reductions
(R101, R109). A binary32 value is held as its 32 bits. -/

namespace Sys2Proof.Machine

/-- A value: NaN, an infinity, or (-1)^neg · m · 2^e. -/
inductive Fv where
  | nan
  | inf (neg : Bool)
  | fin (neg : Bool) (m : Nat) (e : Int)
deriving DecidableEq, Repr

/-- A floating-point format (R87): exponent and significand bits, bias, whether it has infinities, and the largest
finite value's exponent and significand fields. -/
structure Fmt where
  es : Nat
  ms : Nat
  bias : Nat
  hasInf : Bool
  hasNan : Bool
  maxE : Nat
  maxF : Nat
  nan : Nat

def fmt32 : Fmt := { es := 8, ms := 23, bias := 127, hasInf := true, hasNan := true, maxE := 254, maxF := 0x7FFFFF, nan := 0x7FC00000 }
def fmtBf16 : Fmt := { es := 8, ms := 7, bias := 127, hasInf := true, hasNan := true, maxE := 254, maxF := 0x7F, nan := 0x7FC0 }
def fmtFp16 : Fmt := { es := 5, ms := 10, bias := 15, hasInf := true, hasNan := true, maxE := 30, maxF := 0x3FF, nan := 0x7E00 }
def fmtE4m3 : Fmt := { es := 4, ms := 3, bias := 7, hasInf := false, hasNan := true, maxE := 15, maxF := 6, nan := 0x7F }
def fmtE5m2 : Fmt := { es := 5, ms := 2, bias := 15, hasInf := true, hasNan := true, maxE := 30, maxF := 3, nan := 0x7E }
def fmtE2m1 : Fmt := { es := 2, ms := 1, bias := 1, hasInf := false, hasNan := false, maxE := 3, maxF := 1, nan := 0 }

/-- The value of a code of a format (R87, R88, R89). -/
def fdec (f : Fmt) (v : Nat) : Fv :=
  let s := bit v (f.es + f.ms)
  let e := bits v f.ms f.es
  let m := bits v 0 f.ms
  if e > f.maxE ∨ (e = f.maxE ∧ m > f.maxF) then
    (if f.hasInf && m == 0 then .inf s else .nan)
  else if e = 0 then .fin s m (1 - (f.bias : Int) - f.ms)
  else .fin s (2 ^ f.ms + m) ((e : Int) - f.bias - f.ms)

/-- The value of an E8M0 scale as a power of two; none for 0xFF, which is NaN (R87, R90). -/
def scaleExp (s : Nat) : Option Int := if s = 0xFF then none else some ((s : Int) - 127)

/-- How a conversion rounds: to nearest even, or stochastically with a generator word (R104). -/
inductive Rnd where
  | rne
  | sr (u : Nat)

/-- m / 2^s rounded under a mode; stochastic rounding keeps the 32 most significant discarded bits (R104). -/
def shiftRound (r : Rnd) (m s : Nat) : Nat :=
  let q := m / 2 ^ s
  let rem := m % 2 ^ s
  match r with
  | .rne =>
    if s = 0 then q
    else
      let half := 2 ^ (s - 1)
      if half < rem ∨ (rem = half ∧ q % 2 = 1) then q + 1 else q
  | .sr u =>
    let f := if 32 ≤ s then rem / 2 ^ (s - 32) else rem * 2 ^ (32 - s)
    if 2 ^ 32 ≤ f + u then q + 1 else q

/-- The code of (-1)^neg · m · 2^e in a format after rounding; none when the result exceeds the largest finite value. -/
def fenc (f : Fmt) (r : Rnd) (neg : Bool) (m : Nat) (e : Int) : Option Nat :=
  let sgn := if neg then 2 ^ (f.es + f.ms) else 0
  if m = 0 then some sgn
  else
    let x := (Nat.log2 m : Int) + e
    let q := (if x < 1 - (f.bias : Int) then 1 - (f.bias : Int) else x) - f.ms
    let mant := if q ≤ e then m * 2 ^ (e - q).toNat else shiftRound r m (q - e).toNat
    let mant' := if mant = 2 ^ (f.ms + 1) then 2 ^ f.ms else mant
    let q' := if mant = 2 ^ (f.ms + 1) then q + 1 else q
    if mant' < 2 ^ f.ms then some (sgn + mant')
    else
      let be := (q' + f.ms + f.bias).toNat
      let fr := mant' - 2 ^ f.ms
      if be > f.maxE ∨ (be = f.maxE ∧ fr > f.maxF) then none else some (sgn + be * 2 ^ f.ms + fr)

/-- An exact value rounded to a format by the IEEE rule: overflow gives infinity (R89, R99). -/
def ieee (f : Fmt) (r : Rnd) (v : Fv) : Nat :=
  let inf (neg : Bool) := (if neg then 2 ^ (f.es + f.ms) else 0) + (f.maxE + 1) * 2 ^ f.ms
  match v with
  | .nan => f.nan
  | .inf n => inf n
  | .fin n m e => (fenc f r n m e).getD (inf n)

/-- The value of binary32 bits, and the bits of a value rounded to nearest even. -/
def d32 (v : Nat) : Fv := fdec fmt32 v
def e32 (v : Fv) : Nat := ieee fmt32 .rne v
def nan32 : Nat := 0x7FC00000

/-- The signed mantissa of a finite value at a common exponent e0 ≤ e. -/
def mantAt (neg : Bool) (m : Nat) (e e0 : Int) : Int :=
  let a : Int := (m * 2 ^ (e - e0).toNat : Nat)
  if neg then -a else a

/-- The value of a signed mantissa and an exponent. -/
def ofMant (i : Int) (e : Int) : Fv := .fin (decide (i < 0)) i.natAbs e

/-- Negation. -/
def vneg : Fv → Fv
  | .nan => .nan
  | .inf n => .inf (!n)
  | .fin n m e => .fin (!n) m e

/-- The exact sum of two values; a zero sum of non-negative-zero operands is +0. -/
def vadd : Fv → Fv → Fv
  | .nan, _ => .nan
  | _, .nan => .nan
  | .inf a, .inf b => if a = b then .inf a else .nan
  | .inf a, .fin .. => .inf a
  | .fin .., .inf b => .inf b
  | .fin a m e, .fin b n g =>
    let e0 := min e g
    let t := mantAt a m e e0 + mantAt b n g e0
    if t = 0 then .fin (a && b) 0 0 else ofMant t e0

/-- The exact product. -/
def vmul : Fv → Fv → Fv
  | .nan, _ => .nan
  | _, .nan => .nan
  | .inf a, .inf b => .inf (a != b)
  | .inf a, .fin b m _ => if m = 0 then .nan else .inf (a != b)
  | .fin a m _, .inf b => if m = 0 then .nan else .inf (a != b)
  | .fin a m e, .fin b n g => .fin (a != b) (m * n) (e + g)

/-- Square root of a natural number, rounded down, by its bits from the highest. -/
def isqrtGo (n : Nat) : Nat → Nat → Nat
  | 0, r => r
  | k + 1, r => let r' := r + 2 ^ k; if r' * r' ≤ n then isqrtGo n k r' else isqrtGo n k r
def isqrt (n : Nat) : Nat := isqrtGo n (Nat.log2 n / 2 + 1) 0

/-- A quotient as a value with a last sticky bit, so that rounding it once is rounding the exact quotient. -/
def vdiv : Fv → Fv → Fv
  | .nan, _ => .nan
  | _, .nan => .nan
  | .inf _, .inf _ => .nan
  | .inf a, .fin b _ _ => .inf (a != b)
  | .fin a _ _, .inf b => .fin (a != b) 0 0
  | .fin a m e, .fin b n g =>
    if n = 0 then (if m = 0 then .nan else .inf (a != b))
    else
      let k := Nat.log2 n + 70
      let num := m * 2 ^ k
      .fin (a != b) (2 * (num / n) + (if num % n = 0 then 0 else 1)) (e - g - k - 1)

/-- A square root with a sticky bit. -/
def vsqrt : Fv → Fv
  | .nan => .nan
  | .inf false => .inf false
  | .inf true => .nan
  | .fin n m e =>
    if m = 0 then .fin n 0 0
    else if n then .nan
    else
      let m1 := if e % 2 = 0 then m else 2 * m
      let e1 := if e % 2 = 0 then e else e - 1
      let s := isqrt (m1 * 2 ^ 140)
      .fin false (2 * s + (if s * s = m1 * 2 ^ 140 then 0 else 1)) (e1 / 2 - 71)

/-- A reciprocal square root with a sticky bit. -/
def vrsqrt : Fv → Fv
  | .nan => .nan
  | .inf false => .fin false 0 0
  | .inf true => .nan
  | .fin n m e =>
    if m = 0 then .inf n
    else if n then .nan
    else
      let m1 := if e % 2 = 0 then m else 2 * m
      let e1 := if e % 2 = 0 then e else e - 1
      let k := Nat.log2 m1 + 70
      let s := isqrt (2 ^ (2 * k) / m1)
      .fin false (2 * s + (if s * s * m1 = 2 ^ (2 * k) then 0 else 1)) (-(e1 / 2) - k - 1)

/-- 2^f for a fraction f of `b` bits, as a number over 2^160, by one square root for each bit (assumption 31). -/
def pow2Frac : Nat → Nat → Nat → Nat → Nat
  | 0, _, _, acc => acc
  | b + 1, f, root, acc =>
    let root' := isqrt (root * 2 ^ 160)
    let acc' := if bit f b then acc * root' / 2 ^ 160 else acc
    pow2Frac b f root' acc'

/-- 2^x, correctly rounded once it is rounded: exact for an integer x, else irrational, so a sticky bit stands for the
rest of its expansion. -/
def vexp2 : Fv → Fv
  | .nan => .nan
  | .inf false => .inf false
  | .inf true => .fin false 0 0
  | .fin n m e =>
    if m = 0 then .fin false 1 0
    else if (Nat.log2 m : Int) + e ≥ 12 then (if n then .fin false 1 (-100000) else .inf false)
    else if (Nat.log2 m : Int) + e < -40 then .fin false (2 ^ 40 + (if n then 0 else 2) - 1) (-40)
    else
      -- x as an integer over 2^70
      let t : Int := if -70 ≤ e then mantAt n m e (-70) else mantAt n (m / 2 ^ (-70 - e).toNat) (-70) (-70)
      let k := t / 2 ^ 70
      let f := (t % 2 ^ 70).toNat
      if f = 0 then .fin false 1 k
      else .fin false (2 * pow2Frac 70 f (2 * 2 ^ 160) (2 ^ 160) + 1) (k - 161)

/-- The binary digits of log2 of y / 2^300 in [1, 2), by repeated squaring (assumption 31). -/
def log2Frac : Nat → Nat → Nat → Nat
  | 0, _, acc => acc
  | k + 1, y, acc =>
    let y2 := y * y / 2 ^ 300
    if 2 ^ 301 ≤ y2 then log2Frac k (y2 / 2) (2 * acc + 1) else log2Frac k y2 (2 * acc)

/-- log2 x: exact for a power of two, else irrational, with a sticky bit. log2 of ±0 is −∞ and of a negative number
NaN, as IEEE 754-2019 gives them. -/
def vlog2 : Fv → Fv
  | .nan => .nan
  | .inf false => .inf false
  | .inf true => .nan
  | .fin n m e =>
    if m = 0 then .inf true
    else if n then .nan
    else
      let l := Nat.log2 m
      let k : Int := (l : Int) + e
      if m = 2 ^ l then ofMant k 0
      else
        let y := if l ≤ 300 then m * 2 ^ (300 - l) else m / 2 ^ (l - 300)
        let fb := log2Frac 120 y 0
        ofMant (2 * (k * 2 ^ 120 + (fb : Int)) + 1) (-121)

/-- Binary32 operations, each rounded once (R99). -/
def fadd (a b : Nat) : Nat := e32 (vadd (d32 a) (d32 b))
def fsub (a b : Nat) : Nat := e32 (vadd (d32 a) (vneg (d32 b)))
def fmul (a b : Nat) : Nat := e32 (vmul (d32 a) (d32 b))
def ffma (a b c : Nat) : Nat := e32 (vadd (vmul (d32 a) (d32 b)) (d32 c))
def fdiv (a b : Nat) : Nat := e32 (vdiv (d32 a) (d32 b))
def fsqrt (a : Nat) : Nat := e32 (vsqrt (d32 a))
def frecip (a : Nat) : Nat := e32 (vdiv (.fin false 1 0) (d32 a))
def frsqrt (a : Nat) : Nat := e32 (vrsqrt (d32 a))
def fexp2 (a : Nat) : Nat := e32 (vexp2 (d32 a))
def flog2 (a : Nat) : Nat := e32 (vlog2 (d32 a))
def fneg (a : Nat) : Nat := if d32 a = .nan then nan32 else (a + 2 ^ 31) % 2 ^ 32
def fabs (a : Nat) : Nat := if d32 a = .nan then nan32 else a % 2 ^ 31

/-- The order of values with −0 below +0; nothing is ordered with NaN. -/
def vlt : Fv → Fv → Bool
  | .nan, _ => false
  | _, .nan => false
  | .inf a, .inf b => a && !b
  | .inf a, .fin .. => a
  | .fin .., .inf b => !b
  | .fin a m e, .fin b n g =>
    let e0 := min e g
    let x := mantAt a m e e0
    let y := mantAt b n g e0
    decide (x < y) || (decide (x = y) && a && !b && m == 0)

/-- Whether two values compare equal; +0 equals −0, NaN equals nothing. -/
def veq : Fv → Fv → Bool
  | .nan, _ => false
  | _, .nan => false
  | .inf a, .inf b => a == b
  | .fin a m e, .fin b n g => let e0 := min e g; decide (mantAt a m e e0 = mantAt b n g e0)
  | _, _ => false

/-- Min and max of R101 on values: NaN if either operand is NaN. -/
def vmin (a b : Fv) : Fv := if a = .nan ∨ b = .nan then .nan else if vlt b a then b else a
def vmax (a b : Fv) : Fv := if a = .nan ∨ b = .nan then .nan else if vlt a b then b else a
def fmin (a b : Nat) : Nat := e32 (vmin (d32 a) (d32 b))
def fmax (a b : Nat) : Nat := e32 (vmax (d32 a) (d32 b))
/-- Less than, for binary32 bits, with −0 equal to +0. -/
def flt (a b : Nat) : Bool := vlt (d32 a) (d32 b) && !veq (d32 a) (d32 b)

/-! Tensor formats (R66, R87). -/

/-- The floating-point format of a tensor code; none for the integers. -/
def fmtOf (c : Nat) : Option Fmt :=
  match c with
  | 0x00 => some fmt32
  | 0x01 => some fmtBf16
  | 0x02 => some fmtFp16
  | 0x03 => some fmtE4m3
  | 0x04 => some fmtE5m2
  | 0x10 => some fmtE2m1
  | 0x11 => some fmtE4m3
  | 0x12 => some fmtE5m2
  | _ => none

/-- Whether a tensor code is an MX format. -/
def isMx (c : Nat) : Bool := c == 0x10 || c == 0x11 || c == 0x12
/-- Whether a tensor code is an integer format, and its width. -/
def isInt (c : Nat) : Bool := c == 0x05 || c == 0x06 || c == 0x07
def intBits (c : Nat) : Nat := if c = 0x05 then 8 else if c = 0x06 then 32 else 64
/-- Whether a tensor code is one of R66. -/
def fmtOk (c : Nat) : Bool := (fmtOf c).isSome || isInt c
/-- Half bytes of an element of a format. -/
def nibbles (c : Nat) : Nat :=
  if c = 0x10 then 1
  else if c = 0x00 ∨ c = 0x06 then 8
  else if c = 0x01 ∨ c = 0x02 then 4
  else if c = 0x07 then 16
  else 2

/-- The exact value of an element with its block scale, if its format has one (R87, R90). -/
def elemVal (c v scale : Nat) : Fv :=
  match fmtOf c with
  | none => ofMant (signed (intBits c) v) 0
  | some f =>
    let x := fdec f v
    if isMx c then
      match scaleExp scale, x with
      | none, _ => .nan
      | some _, .nan => .nan
      | some _, .inf n => .inf n
      | some k, .fin n m e => .fin n m (e + k)
    else x

/-- An element widened to binary32 (R100). -/
def widen (c v scale : Nat) : Nat := e32 (elemVal c v scale)

/-! Group sums (R92-R95). -/

/-- floor(log2 |v|) of a finite non-zero value. -/
def vlog (m : Nat) (e : Int) : Int := (Nat.log2 m : Int) + e

/-- What special products decide (R95); none where the sum decides. -/
def specialSum (ps : List Fv) : Option Nat :=
  if ps.any (· == .nan) then some nan32
  else if ps.any (· == .inf false) && ps.any (· == .inf true) then some nan32
  else if ps.any (· == .inf false) then some 0x7F800000
  else if ps.any (· == .inf true) then some 0xFF800000
  else if ps.all (fun p => match p with | .fin _ 0 _ => true | _ => false) then
    some (if ps.all (fun p => match p with | .fin true 0 _ => true | _ => false) then 0x80000000 else 0)
  else none

/-- The group result of the exact class: the exact sum rounded once (R93, R95). A zero sum is +0. -/
def groupExact (ps : List Fv) : Nat :=
  (specialSum ps).getD (e32 (ps.foldl vadd (.fin false 0 0)))

/-- An integer value. -/
def fvInt : Fv → Int
  | .fin n m e => let a : Int := ((m * 2 ^ e.toNat : Nat) : Int); if n then -a else a
  | _ => 0

/-- The group result of INT8 products without IACC: the exact integer sum, which binary32 holds; an integer zero is +0 (R95,
R97). -/
def groupInt (ps : List Fv) : Nat :=
  let v := ps.foldl (fun a p => a + fvInt p) (0 : Int)
  e32 (.fin (decide (v < 0)) v.natAbs 0)

/-- The group result of the 96-bit aligned class (R94). -/
def groupHalf (ps : List Fv) : Nat :=
  (specialSum ps).getD (
    let tops := ps.filterMap fun p => match p with
      | .fin _ m e => if m = 0 then none else some (vlog m e)
      | _ => none
    let emax := tops.foldl max ((tops.head?).getD 0)
    let lsb := emax - 88
    let acc : Int := ps.foldl (fun a p => match p with
      | .fin n m e =>
        let t : Int := ((if lsb ≤ e then m * 2 ^ (e - lsb).toNat else m / 2 ^ (lsb - e).toNat) : Nat)
        if n then a - t else a + t
      | _ => a) 0
    if acc = 0 then 0 else e32 (ofMant acc lsb))

/-- Groups of n consecutive items (R92). -/
def chunksGo {α : Type} (n : Nat) : Nat → List α → List (List α)
  | 0, _ => []
  | _ + 1, [] => []
  | k + 1, l => l.take n :: chunksGo n k (l.drop n)
def chunks {α : Type} (n : Nat) (l : List α) : List (List α) := chunksGo n l.length l

/-- The accumulator over group results in order, from C or from group 0 (R96). -/
def accumulate (c : Option Nat) (gs : List Nat) : Nat :=
  match c, gs with
  | none, [] => 0
  | none, g :: r => r.foldl fadd g
  | some x, l => l.foldl fadd x

/-! Philox4x32-10 (R105). -/

/-- One round on four counter words and two key words. -/
def philoxRound (c0 c1 c2 c3 k0 k1 : Nat) : Nat × Nat × Nat × Nat :=
  let p0 := 0xD2511F53 * c0
  let p1 := 0xCD9E8D57 * c2
  ((p1 / 2 ^ 32) ^^^ c1 ^^^ k0, p1 % 2 ^ 32, (p0 / 2 ^ 32) ^^^ c3 ^^^ k1, p0 % 2 ^ 32)

def philoxGo : Nat → Nat → Nat → Nat → Nat → Nat → Nat → Nat × Nat × Nat × Nat
  | 0, c0, c1, c2, c3, _, _ => (c0, c1, c2, c3)
  | n + 1, c0, c1, c2, c3, k0, k1 =>
    let r := philoxRound c0 c1 c2 c3 k0 k1
    philoxGo n r.1 r.2.1 r.2.2.1 r.2.2.2 ((k0 + 0x9E3779B9) % 2 ^ 32) ((k1 + 0xBB67AE85) % 2 ^ 32)

/-- The generator word of element index E (R105). -/
def genWord (seed ident stream position e : Nat) : Nat :=
  let q := e / 4
  let r := philoxGo 10 (q % 2 ^ 32) (stream % 2 ^ 16 * 2 ^ 16 + q / 2 ^ 32 % 2 ^ 16) (position % 2 ^ 32) (ident % 2 ^ 32)
    (seed % 2 ^ 32) (seed / 2 ^ 32 % 2 ^ 32)
  match e % 4 with
  | 0 => r.1
  | 1 => r.2.1
  | 2 => r.2.2.1
  | _ => r.2.2.2

/-! Output conversion (R102, R103, R108). -/

/-- An integer saturated to a signed width. -/
def satInt (w : Nat) (i : Int) : Int :=
  let hi : Int := 2 ^ (w - 1) - 1
  let lo : Int := -(2 ^ (w - 1))
  if hi < i then hi else if i < lo then lo else i

/-- A finite value rounded to an integer under a mode. -/
def roundInt (r : Rnd) (neg : Bool) (m : Nat) (e : Int) : Int :=
  let a : Nat := if 0 ≤ e then m * 2 ^ e.toNat else shiftRound r m (-e).toNat
  if neg then -(a : Int) else a

/-- The element code of a value in a floating format: overflow under SAT, or always when `mx` (R103). -/
def convFp (f : Fmt) (r : Rnd) (sat mx : Bool) (v : Fv) : Nat :=
  let sgn (n : Bool) := if n then 2 ^ (f.es + f.ms) else 0
  let big (n : Bool) := sgn n + f.maxE * 2 ^ f.ms + f.maxF
  let above (n : Bool) :=
    if sat || mx then big n else if f.hasInf then sgn n + (f.maxE + 1) * 2 ^ f.ms else f.nan
  match v with
  | .nan => f.nan
  | .inf n => above n
  | .fin n m e => (fenc f r n m e).getD (above n)

/-- A binary32 value converted to a non-MX format (R103). Conversion to FP32 is the value itself with canonical NaN. -/
def convert (c : Nat) (r : Rnd) (sat : Bool) (x : Nat) : Nat :=
  if c = 0x00 then (if d32 x = .nan then nan32 else x)
  else
    match fmtOf c with
    | some f => convFp f r sat false (d32 x)
    | none =>
      let w := intBits c
      match d32 x with
      | .nan => 0
      | .inf n => unsigned w (if n then -(2 ^ (w - 1)) else 2 ^ (w - 1) - 1)
      | .fin n m e =>
        unsigned w (if (w : Int) + 2 ≤ vlog m e then (if n then -(2 ^ (w - 1)) else 2 ^ (w - 1) - 1)
          else satInt w (roundInt r n m e))

/-- The scale of an MX block and its element codes (R103, R108). `us` gives a generator word for each element. -/
def mxBlock (c : Nat) (us : Option (List Nat)) (xs : List Nat) : Nat × List Nat :=
  let f := (fmtOf c).getD fmtE2m1
  let vs := xs.map d32
  if vs.any (fun v => match v with | .fin .. => false | _ => true) then (0xFF, xs.map fun _ => 0)
  else
    let tops := vs.filterMap fun v => match v with
      | .fin _ m e => if m = 0 then none else some (vlog m e)
      | _ => none
    let emax : Int := (f.maxE : Int) - f.bias
    let k : Int := match tops with
      | [] => 0
      | t :: r => max (-127) (min 127 (r.foldl max t - emax))
    let codes := vs.zipIdx.map fun (v, i) =>
      let rnd := match us with | none => Rnd.rne | some l => .sr ((l[i]?).getD 0)
      match v with
      | .fin n m e => convFp f rnd true true (.fin n m (e - k))
      | _ => 0
    ((k + 127).toNat, codes)

/-! Reductions (R101, R109): op 0 ADD, 1 MIN, 2 MAX on element codes. -/

/-- One combining step of the reduction adders in a tensor format. -/
def reduceOp (c op a b : Nat) : Nat :=
  match fmtOf c with
  | some f =>
    let x := fdec f a
    let y := fdec f b
    ieee f .rne (if op = 0 then vadd x y else if op = 1 then vmin x y else vmax x y)
  | none =>
    let w := intBits c
    let x := signed w a
    let y := signed w b
    if op = 0 then (a + b) % 2 ^ w else unsigned w (if op = 1 then min x y else max x y)

/-- The fixed tree of ordered mode over the contributions in index order (R207). -/
def pairUp (c op : Nat) : List Nat → List Nat
  | a :: b :: r => reduceOp c op a b :: pairUp c op r
  | l => l
def orderedTree (c op : Nat) : Nat → List Nat → Nat
  | 0, l => (l.head?).getD 0
  | _ + 1, [a] => a
  | n + 1, l => orderedTree c op n (pairUp c op l)

end Sys2Proof.Machine
end

