-- ==== Sys2Proof/Config.lean ====
section
/-! DEFINITION. What an implementation or the outside fixes and the spec does not: free values, and the cryptographic
functions the spec names by their standards. Each is an opaque constant: no proof can see what it is. -/

namespace Sys2Proof.Config

/-- A value the spec leaves undefined or unstated, by the number of free values taken before it (assumption 4). -/
opaque freeByte : Nat → Byte
/-- As freeByte, for a number of 32 bits or more (assumption 4). -/
opaque freeNat : Nat → Nat
/-- A draw of Gauntlet's entropy source (R417), by the number of draws before it. -/
opaque entropy : Nat → Nat

/-- The hash of R407 that chooses a port of a group, by export id and the offset's 2 KiB block (assumption 32). -/
opaque portHash : Nat → Nat → Nat

/-- The hash of R361 that chooses a bundle for a 2 KiB block (assumption 164). -/
opaque blockHash : Nat → Nat
/-- The queue engine's estimate of a descriptor's energy hint (R338), whose figures the spec does not give: opcode, operand formats
and work count, to the energy of tower A and of tower B in 10 µJ and the duration in 128 ns (assumption 170). -/
opaque energyEstimate : Nat → List Nat → Nat → Nat × Nat × Nat
/-- The check bytes of R212 for 32 bytes of data, whose code the spec does not give in full (assumption 165). -/
opaque checkBytes : List Byte → Nat

/-- ECDSA P-384 verification: key, message, signature (R411, R420, R537). -/
opaque ecdsaVerify : List Byte → List Byte → List Byte → Bool
/-- ML-DSA-87 verification: key, message, signature (R411, R420, R537). -/
opaque mldsaVerify : List Byte → List Byte → List Byte → Bool
/-- ECDSA P-384 signing by a key of the key store, named by number (R417, R422). -/
opaque ecdsaSign : Nat → List Byte → List Byte
/-- SHA-384 (R417), 48 bytes. -/
opaque sha384 : List Byte → List Byte
/-- HMAC-SHA-384 under the storage key (R417, R425), 48 bytes. -/
opaque hmac384 : List Byte → List Byte
/-- The public key of a key pair of the key store (R417). -/
opaque publicKey : Nat → List Byte
/-- HKDF-SHA-384 with secret, salt and info (R417, R434). -/
opaque hkdf : Nat → List Byte → List Byte → Nat
/-- The ECDH P-384 secret of a private key and a public one (R393, R434). -/
opaque ecdh : Nat → List Byte → Nat
/-- The keystream of AES-GCM-256: key, IV, index of the byte (R270, R436). GCM enciphers and deciphers by adding it modulo 2. -/
opaque gcmStream : Nat → List Byte → Nat → Byte
/-- The tag of AES-GCM-256: key, IV, additional data, ciphertext; 16 bytes. -/
opaque gcmTag : Nat → List Byte → List Byte → List Byte → List Byte
/-- The vendor's public keys by index (R529, R537): ECDSA P-384 and ML-DSA-87. -/
opaque vendorEcdsa : Nat → List Byte
opaque vendorMldsa : Nat → List Byte
/-- The vendor certificates of slot 0 (R417). -/
opaque certChain : List Byte
/-- The digest of Gauntlet's ROM (R431). -/
opaque romDigest : List Byte
/-- The number under which the key store names the unique device secret (R417). -/
opaque deviceSecret : Nat
/-- Whether an IEEE 1500 instruction lies in a stack's repair and fuse ranges, which no rule lists (R570). -/
opaque tapRepair : List Byte → Bool
/-- The identity public key that a certificate chain certifies (R393, R395). -/
opaque chainKey : List Byte → List Byte
/-- Whether a neighbour's chain roots in the vendor root (R393). -/
opaque chainValid : List Byte → Bool

end Sys2Proof.Config
end

