-- ==== Sys2Proof/Machine/State.lean ====
section
/-! DEFINITION. The state of the block: every register, table, queue, mode and record that the spec gives the device,
as plain data. Reset values that no rule states are zero or empty (assumption 5). -/

namespace Sys2Proof.Machine

/-- Queue states, in the codes of R46. -/
inductive QState where
  | disabled | enabled | draining | error
deriving DecidableEq, Repr

/-- A queue's context (R43, R44, R46, R56, R72); queue 0 of PF0 is the admin queue (R41, R592). `checkDue` says that a check
of the queue fell while it was not fetched, and is still owed (R53). -/
structure QCtx where
  st : QState := .disabled
  fn : Nat := 0
  sqBase : Nat := 0
  cqBase : Nat := 0
  rcb : Nat := 0
  sqLog2 : Nat := 0
  cqLog2 : Nat := 0
  part : Nat := 0
  classMask : Nat := 0
  vector : Nat := 0
  coalCount : Nat := 0
  coalTime : Nat := 0
  irqEn : Bool := false
  skipOk : Bool := false
  sqCons : Nat := 0
  prodSeen : Nat := 0
  written : Nat := 0
  pendingIrq : Nat := 0
  oldestPending : Nat := 0
  qerr : Nat := 0
  idlePasses : Nat := 0
  trickArea : Nat := 0
  trickSaveAfter : Nat := 50
  trickTimeout : Nat := 0
  trickCells : Nat := 0
  checkDue : Bool := false
deriving DecidableEq, Repr

/-- Where a fetched descriptor stands. `held` is a descriptor that has passed its checks and waits for a running
step, a pool, a Holiday or a drain; `ended` has its status and waits for its completion record (R63, R70). -/
inductive FPhase where
  | fetched | started | running | held | stopped | parked | ended
deriving DecidableEq, Repr

/-- Progress of a TRICKLE descriptor (R335); `seen` is the stream counter at `since`, and `check` the number of the first free byte
of its saved cell, which stands for the cell's check value (R336). -/
structure Trickle where
  asleep : Bool := false
  since : Nat := 0
  cell : Option Nat := none
  tilesDone : Nat := 0
  seen : Nat := 0
  check : Nat := 0
deriving DecidableEq, Repr

/-- A descriptor the device holds (R47, R61). `words` are its eight 64-bit words; `stepOf` names the STEP that replays
it (R329); `remote` holds the bytes that RD answers brought for its remote leaves, by virtual address (R402); `answers`
says that its work is done but for answers to its messages (R404); `reserved` that it holds a completion slot (R49). `begun` says that it has been granted units or buffers of its `cores` and
keeps them (R114, R167), the lane-row units of each core in `units`; `done` names output elements of the tiles or fills it has drained (R142, R157). -/
structure Flight where
  fn : Nat := 0
  q : Nat := 0
  slot : Nat := 0
  part : Nat := 0
  words : List Nat := []
  fetchTime : Nat := 0
  phase : FPhase := .fetched
  status : Nat := 0
  extra : Nat := 0
  stepOf : Option Nat := none
  noRecord : Bool := false
  noSignal : Bool := false
  cores : List Nat := []
  remote : Tbl Byte := []
  answers : Bool := false
  trickle : Trickle := {}
  reserved : Bool := false
  begun : Bool := false
  units : Tbl Nat := []
  done : List Nat := []
deriving DecidableEq, Repr

/-- Per-function state (R41, R51, R53, R54, R593, R595). `latchHigh` holds latched high halves by offset (R587); `undef` holds the groups whose seen values are undefined. -/
structure FnState where
  qtValid : Bool := false
  qtBase : Nat := 0
  dbValid : Bool := false
  dbBase : Nat := 0
  dbCfgErr : Bool := false
  seenSec : Tbl Nat := []
  seenGrp : Tbl Nat := []
  allUndef : Bool := true
  undef : List Nat := []
  qctlResult : Nat := 0
  qctlDropped : Bool := false
  qlast : Nat := 0
  msgSent : Nat := 0
  bme : Bool := false
  latchHigh : Tbl Nat := []
  msix : Tbl Nat := []
  msixPending : Tbl Nat := []
deriving DecidableEq, Repr

/-- The queue engine (02). -/
structure QueueEngine where
  fns : Tbl FnState := []
  ctx : Tbl QCtx := []
  hot : List Nat := []
  hotNext : Nat := 0
  flights : Tbl Flight := []
  nextFlight : Nat := 0
  msgs : List (Nat × Nat) := []
  pollPeriod : Nat := 10
  hotSize : Nat := 256
  hotReads : Nat := 16
  hotIdle : Nat := 2048
  pollPasses : Nat := 0
deriving DecidableEq, Repr

/-- The registers of ADMINQ and IRQ, and SETUP_LOCK (R590, R592, R597). -/
structure Regs where
  setupLock : Bool := false
  aqSqBase : Nat := 0
  aqCqBase : Nat := 0
  aqRcb : Nat := 0
  aqSqLog2 : Nat := 0
  aqCqLog2 : Nat := 0
  aqCfgErr : Bool := false
  aqCoalCount : Nat := 1
  aqCoalTime : Nat := 0
  linkWidth : Nat := 16
deriving DecidableEq, Repr

/-- Partition states (R78, R598). -/
inductive PState where
  | online | parked | offline
deriving DecidableEq, Repr

/-- A bandwidth monitor and its counters for one class (R355, R598). -/
structure BwClass where
  mode : Nat := 0
  bytes : Nat := 0
  misses : Nat := 0
deriving DecidableEq, Repr

/-- A partition that exists (R78, R427, R598). `fences` holds the fence causes of R598; `destroyAt` has no meaning
outside PART_DESTROY. -/
structure Part where
  st : PState := .offline
  target : Option (PState × Nat) := none
  sealed : Bool := false
  hotSubst : Bool := false
  rows : Nat := 0
  waysA : Nat := 0
  waysB : Nat := 0
  firstSlot : Nat := 0
  slotCount : Nat := 0
  rangeLog2 : Nat := 30
  fences : List Nat := []
  inReset : Bool := false
  vf : Nat := 0
  hadVf : Bool := false
  signalsDropped : Nat := 0
  prefetchDrop : Nat := 0
  bwMiss : Nat := 0
  bw : Tbl BwClass := []
  energy : Nat := 0
  power : Nat := 0
  energySeq : Nat := 0
  fetchStopped : Bool := false
deriving DecidableEq, Repr

/-- A VF's binding (R41, R78) and the state of its TDI (R431, R432): 0 none, 1 CONFIG_UNLOCKED, 2 CONFIG_LOCKED, 3 RUN,
4 ERROR. `ide` says that its IDE selective stream runs (R433); `unbindBy` is the VF_UNBIND that waits for the drain. -/
structure Vf where
  part : Nat := 0
  firstGroup : Nat := 0
  groups : Nat := 0
  tdi : Nat := 0
  unbindBy : Option Nat := none
deriving DecidableEq, Repr

/-- A declared producer-consumer pair (R309). -/
structure Pair where
  producer : Nat
  consumer : Nat
  n : Nat
deriving DecidableEq, Repr

/-- Sync counters by physical number, and pairs by 256 × partition + index (R298, R307). -/
structure Sync where
  counters : Tbl Nat := []
  pairs : Tbl Pair := []
deriving DecidableEq, Repr

/-- One sector of the shared cache (R182, R186): the 2 KiB block it holds, valid and dirty bits of its eight lines,
its KEEP mark, and the number of its last use for the replacement order. -/
structure Sector where
  block : Nat
  valid : Nat
  dirty : Nat
  keep : Bool
  used : Nat
deriving DecidableEq, Repr

/-- An ordered-mode reduction group (R207): contributions by index, each with its descriptor, its element
bits and whether each element held poison. `dst` holds
the addresses of the destination's rows, of `e0` elements each. -/
structure RGroup where
  op : Nat
  count : Nat
  format : Nat
  dst : List Nat
  e0 : Nat
  bytes : Nat
  stack : Nat
  staged : Bool
  contrib : List (Nat × Nat × List (Nat × Bool))
deriving DecidableEq, Repr

/-- A near-bank window or the refresh state of one bank group (R222-R226). -/
structure BankGroup where
  open_ : Bool := false
  desc : Nat := 0
  openedAt : Nat := 0
  closeAt : Nat := 0
  lastRefresh : Nat := 0
  held : List Nat := []
  blocks : List Nat := []
  refreshTo : Nat := 0
deriving DecidableEq, Repr

/-- An operation word of a chain record (R150). -/
structure ChainOp where
  code : Nat
  dst : Nat
  s1 : Nat
  s2 : Nat
  s3 : Nat
deriving DecidableEq, Repr

/-- A chain record (R150). -/
structure Chain where
  first : Nat
  count : Nat
  cvt : Nat
  side : Nat
  ops : List ChainOp
  ks : List Nat
deriving DecidableEq, Repr

/-- A set of operands of a near-bank chain: formats of D and of inputs A, B and side; the inputs with one element, read once, as
binary32 with poison (R217); and whether D's range is left undefined (R220). -/
structure NearSet where
  fmt : Nat
  fmts : List Nat
  once : List (Option (Nat × Bool))
  junk : Bool
deriving DecidableEq, Repr

/-- An element of a near-bank destination: physical addresses of it and of its inputs A, B and side, 0 for none or one read
once. -/
structure NearElem where
  d : Nat
  srcs : List Nat
deriving DecidableEq, Repr

/-- A destination codeword of a near-bank chain (R217, R228): its set, its virtual address, its elements, and the count that a
TRICKLE chain's stream counter needs for its inputs. -/
structure NearWord where
  cw : Nat
  entry : Nat
  va : Nat
  elems : List NearElem
  need : Nat
deriving DecidableEq, Repr

/-- A chain that runs near-bank (R216-R222): its stack, chain and sets, the destination codewords still to be computed, when its
first window opened, and the first destination address that met poison. -/
structure NearRun where
  stack : Nat
  chain : Chain
  sets : List NearSet
  left : List NearWord
  begun : Option Nat := none
  poisoned : Option Nat := none
deriving DecidableEq, Repr

/-- Device memory and what guards it (06, 07), by device physical address; `poison` holds 32-byte codewords (R459), `past` what
the 32-byte units of tier S have held before, the newest first (R187), `behind` what the stacks hold of lines dirty in a cache
(R182), `tlbUp` the upper-level translations (R194), and `uses` counts cache accesses (R186). -/
structure DevMem where
  bytes : Tbl Byte := []
  poison : List Nat := []
  roots : Tbl Nat := []
  tableTag : List Nat := []
  tpool : Tbl (List Nat) := []
  kvTag : List Nat := []
  grainOwner : Tbl Nat := []
  tlb : Tbl (List Nat) := []
  cache : Tbl Sector := []
  plru : Tbl Nat := []
  groups : Tbl RGroup := []
  staging : Tbl Nat := []
  bank : Tbl BankGroup := []
  near : Tbl NearRun := []
  past : Tbl (List (List Byte)) := []
  behind : Tbl (List Byte) := []
  tlbUp : Tbl (List Nat) := []
  uses : Nat := 0
deriving DecidableEq, Repr

/-- Slot states, in the order of R236. -/
inductive SlotSt where
  | free | open_ | swappingOut | swapped | swappingIn | failed
deriving DecidableEq, Repr

/-- A page of a sequence (R243): its frame by pool index, and the increment formed for its thin score, which lies in the thin-score
range (R240, R265). `staging` is a remote page's staging frame (R294). -/
structure KvPage where
  frame : Nat
  thinInc : Nat := 0
  staging : Option Nat := none
deriving DecidableEq, Repr

/-- A sequence slot (R236, R245, R274). Pages and thinned pages are keyed 2^32 × layer + page; `thinFrames` holds the frames of
the mapped pages of its thin-score range, by page (R239). `imaged` says that the cells of its swap-out are written; `fetched` holds
the bytes of its remote pages that a swap-out has read, by virtual address, or of its remote cells that a swap-in has read, by
offset in the swap area. -/
structure Slot where
  st : SlotSt := .free
  seed : Nat := 0
  ident : Nat := 0
  layers : Nat := 0
  latent : Nat := 0
  rope : Nat := 0
  format : Nat := 0
  chunkPages : Nat := 0
  home : Nat := 0
  boundAtOpen : Nat := 0
  priority : Nat := 0
  flags : Nat := 0
  thinThreshold : Nat := 0
  thinDecay : Nat := 0
  thinWindow : Nat := 0
  settled : Nat := 0
  eve : Tbl Nat := []
  pages : Tbl KvPage := []
  thinned : List Nat := []
  lastCommit : Nat := 0
  inStep : Option Nat := none
  swapCells : List Nat := []
  swapRemote : Bool := false
  swapCount : Nat := 0
  swapTag : Nat := 0
  swapBy : Option Nat := none
  imaged : Bool := false
  thinFrames : Tbl Nat := []
  fetched : Tbl Byte := []
deriving DecidableEq, Repr

/-- A frame-table entry (R249): STATE 0 FREE, 1 LIVE, 2 COPY, 3 RETIRED. `where_`: physical address, or, remote, import
slot and window page. -/
structure KvFrame where
  where_ : Nat
  remote : Option (Nat × Nat) := none
  state : Nat := 0
  evew : Bool := false
  refs : Nat := 0
deriving DecidableEq, Repr

/-- A partition's page-keeper pool (R247, R248, R251). `stopped` lists the work stopped for want of frames (R267): its
descriptor, the frames it needs, each by the lists that may give it, and whether a table page was lacking. -/
structure Pool where
  configured : Bool := false
  ftab : Nat := 0
  ftabFrames : Nat := 0
  victim : Nat := 0
  target : Nat := 3
  remoteSlot : Nat := 0
  hostBase : Nat := 0
  hostCells : Nat := 0
  remoteCells : Nat := 0
  remotePage : Nat := 0
  bitmap : Nat := 0
  low : Nat := 0
  resume : Nat := 0
  frames : List KvFrame := []
  extents : Nat := 0
  lowLatched : Bool := false
  hostUsed : List Nat := []
  remoteUsed : List Nat := []
  swapCount : Nat := 0
  stopped : List (Nat × List Nat × Bool) := []
deriving DecidableEq, Repr

/-- The page keeper: slots by physical number, pools by partition (08). -/
structure Keeper where
  slots : Tbl Slot := []
  pools : Tbl Pool := []
deriving DecidableEq, Repr

/-- A rota table entry (R319, R332), keyed 256 × partition + id. -/
structure Rota where
  base : Nat
  entries : Nat
  firstPriv : Nat
  privCount : Nat
  learnedA : Nat := 0
  learnedB : Nat := 0
  learnedDur : Nat := 0
deriving DecidableEq, Repr

/-- A sequence of a step (R322, R323, R290): its entry's fields and what SAMPLE formed for its rows. -/
structure StepSeq where
  slot : Nat
  companion : Nat
  n : Nat
  depth : Nat
  rule : Nat
  x : Nat
  outHost : Bool
  tokens : List Nat
  qd : Nat
  output : Nat
  firstRow : Nat
  cand : List (List (Nat × Nat)) := []
deriving DecidableEq, Repr

/-- A STEP that has passed its checks (R326-R331), keyed by its descriptor; `vocab` is the vocabulary that its SAMPLE has met. -/
structure StepRun where
  rota : Nat
  verify : Bool
  rows : Nat
  seqs : List StepSeq
  rowTokens : Nat
  rowPositions : Nat
  sample : Nat
  energy : Nat
  bases : List Nat
  vocab : Nat := 0
  next : Nat := 0
  done : List (Nat × Nat) := []
  live : List (Nat × Nat) := []
  begun : Bool := false
  started : Bool := false
  commit : Bool := false
deriving DecidableEq, Repr

/-- The step sequencers (11). -/
structure Steps where
  rotas : Tbl Rota := []
  runs : Tbl StepRun := []
deriving DecidableEq, Repr

/-- A bandwidth registration (R350, R352, R357). -/
structure Reg where
  part : Nat
  cls : Nat
  res : Nat
  rate : Nat
  burst : Nat
  eff : Nat
  missUntil : Nat := 0
  missed : Nat := 0
deriving DecidableEq, Repr

/-- A request held at its port, or waiting at an arbitration point in a tier of R348 (R226, R347): the resources it is
charged on and their bytes; `heldSince` while it is held at its port. -/
structure WaitReq where
  req : MemReq
  use : List (Nat × Nat)
  tier : Nat
  heldSince : Option Nat
deriving DecidableEq, Repr

/-- Bandwidth regulation (12). Buckets and grants hold tokens at even keys, in thousandths of a byte and in bytes, and the
time of their last use at the odd key above; `reduced` holds the resources with a reduced
registration (R353); `capacity` the current capacity last applied; `noWindow` the stacks in which no window opens (R223). -/
structure Bandwidth where
  regs : Tbl Reg := []
  buckets : Tbl Nat := []
  grants : Tbl Nat := []
  waiting : Tbl WaitReq := []
  nextReq : Nat := 0
  reduced : List Nat := []
  capacity : Tbl Nat := []
  hotBand : List Nat := []
  throttled : List Nat := []
  noWindow : List Nat := []
deriving DecidableEq, Repr

/-- One direction of a dense-fabric bundle (R359-R365). `map` lists failed lanes; `half`: none full width, some 0 lanes
0-33, some 1 lanes 34-67. `recal` is (lane, spare) while a spare carries a lane that is recalibrated; `routed` counts the 64-byte
units that R361 has put on it. -/
structure Bundle where
  failed : List Nat := []
  half : Option Nat := none
  retired : Bool := false
  expectSeq : Nat := 0
  nak : Bool := false
  replays : Nat := 0
  lastBad : List Nat := []
  recal : Option (Nat × Nat) := none
  delivered : Nat := 0
  acked : Nat := 0
  routed : Nat := 0
deriving DecidableEq, Repr

/-- A Lining link (R22, R368). -/
structure LLink where
  expectSeq : Nat := 0
  acked : Nat := 0
  nak : Bool := false
  inbox : List (Nat × List Byte) := []
deriving DecidableEq, Repr

/-- The dense fabric, the Lining, dies and reference clocks (13). Dies: 0 base A, 1 base B, 2 compute A, 3 compute B; those in
reset, and those lost by their code in R542. `refBack` holds when a restored clock's fences lift; `dieResetBy` the RESET
that waits for a die. -/
structure Fabric where
  bundles : Tbl Bundle := []
  links : Tbl LLink := []
  severed : Bool := false
  dieReset : List Nat := []
  dieLost : List Nat := []
  refLost : List Nat := []
  refBack : Tbl Nat := []
  dieResetBy : Tbl Nat := []
deriving DecidableEq, Repr

/-- A Cuff window (R377) and a counter slot. -/
structure CuffWin where
  valid : Bool
  r : Bool
  w : Bool
  cls : Nat
  sizeLog2 : Nat
  rate : Nat
  base : Nat
deriving DecidableEq, Repr

structure CuffSlot where
  counter : Nat
  sig : Bool
  rd : Bool
  watch : Bool
deriving DecidableEq, Repr

/-- A reply of the Cuff to the guest (R376): DATA, ACK, VALUE, NOTIFY and the error replies. -/
inductive CuffReply where
  | data (tag : Nat) (bytes : List Byte)
  | ack (tag : Nat)
  | value (tag v : Nat)
  | notify (slot v : Nat)
  | denied (tag : Nat)
  | retry (tag : Nat)
  | offline (tag : Nat)
  | poison (tag : Nat) (bytes : List Byte)
deriving DecidableEq, Repr

/-- The Cuff (R376-R380). `paced` holds when each cap lets the next request pass, by 2 × window + direction and 32 + direction for
the aggregate cap (R377). -/
structure Cuff where
  part : Option Nat := none
  cap : Nat := 0
  paced : Tbl Nat := []
  wins : Tbl CuffWin := []
  slots : Tbl CuffSlot := []
  watches : Tbl Nat := []
  denied : Nat := 0
  lastDenied : Option Nat := none
  guestReset : Bool := true
  linkUp : Bool := false
  replies : List CuffReply := []
deriving DecidableEq, Repr

/-- Port states (R392), in the codes of R516. -/
inductive PortSt where
  | down | train | hello | auth | up | unexpected | retired
deriving DecidableEq, Repr

/-- A Plauf port (R381-R398). `holds` lists why it stays DOWN: 0 cold, 1 laser, 2 Holiday, 3 debug, 4 hot, 5 light, 6 power, 7 reference clock,
8 die reset. `keys` and `salts` are those of sending and receiving, `txPairs` and `rxPairs` the pairs under them, and `prevRx` the
receiving key, salt and count before the last replacement (R388, R394). `unacked` holds the flits sent and not acknowledged by
sequence number, `resends` how often the oldest has been sent again (R389, R390); `even` is the first flit of a pair whose second is
awaited, `rx` the bytes of messages received and not yet served, and `owed` the credit to be returned (R391). -/
structure Port where
  st : PortSt := .down
  holds : List Nat := [5, 6]
  seqExp : Nat := 0
  ackOut : Nat := 0
  nak : Bool := false
  replays : Nat := 0
  trainSince : Nat := 0
  fromUp : Bool := false
  keyed : Bool := false
  phase : Bool := false
  keySince : Nat := 0
  farHash : Nat := 0
  farPort : Nat := 0
  farNonce : Nat := 0
  farOwner : Nat := 0
  farPkg : Nat := 0
  farWaves : Nat := 0
  nonce : Nat := 0
  keys : List Nat := []
  farPhase : Bool := false
  retiredWaves : List Nat := []
  credits : List Nat := [4096, 4096, 1024]
  spareRing : Bool := true
  lastRing : Nat := 0
  salts : List Nat := []
  txSeq : Nat := 0
  txPairs : Nat := 0
  rxPairs : Nat := 0
  prevRx : Option (Nat × Nat × Nat) := none
  unacked : List (Nat × List Byte) := []
  resends : Nat := 0
  even : Option (List Byte) := none
  rx : List Byte := []
  owed : List Nat := [0, 0, 0]
  authRetryAt : Nat := 0
deriving DecidableEq, Repr

/-- An export (R399); `open_` is false once UNEXPORT or a removed pairing stops it; `inUse` counts accepted requests. -/
structure Export where
  rights : Nat
  cls : Nat
  sizeLog2 : Nat
  handle : Nat
  firstCounter : Nat
  base : Nat
  counters : Nat
  open_ : Bool := true
  inUse : Nat := 0
  unexportBy : Option Nat := none
deriving DecidableEq, Repr

/-- An import slot (R399); `bound` once IMP_R has confirmed it. -/
structure Import where
  handle : Nat
  exportId : Nat
  bound : Bool := false
  sizeLog2 : Nat := 0
  rights : Nat := 0
  counters : Nat := 0
  by_ : Nat := 0
deriving DecidableEq, Repr

/-- Stream state as a target (R405): the sender half held, the sequence below which all are applied, those applied above
it, and the signals that wait for lower sequences (R404). -/
structure StreamIn where
  sender : Nat := 0
  applied : Nat := 0
  above : List Nat := []
  held : List RemMsg := []
deriving DecidableEq, Repr

/-- Stream state as a sender (R405). -/
structure StreamOut where
  target : Nat := 0
  next : Nat := 0
deriving DecidableEq, Repr

/-- An unanswered message this device sent (R404, R408); `port` is 255 while it waits for credit or for a port. `kind`
says what its answer is for: 0 READ, 1 a read through a remote leaf, 2 a write, atomic or signal, 3 a swap image, 4 IMPORT,
5 the write-through of a commit (R294), 6 a remote page read for a swap-out, 7 a remote swap cell read back. For 3 and 6
`desc` is the slot. Kind 8 is an answer of this device that waits for credit, with the neighbour's hash in `local_`. A
port of 254 is a request that the far end answered RETRY. -/
structure OutReq where
  desc : Nat
  part : Nat
  handle : Nat
  msg : RemMsg
  port : Nat
  sentAt : Nat
  local_ : Nat
  kind : Nat
  resent : Bool := false
  retryFrom : Option Nat := none
deriving DecidableEq, Repr

/-- The optical ports, windows and streams (14). Exports and imports are keyed 256 × partition + number, streams by 256 ×
identity hash + 16 × sending partition + target partition. `denied` holds, by export key, when a denial was last
recorded and how many have followed (R400); `sent`, `wire` and `ctrl` list what has left: messages, the flits that carry them, and CTRL exchanges as
(port, code) with codes 1 TOPO, 2 keys replaced, 3 wavelength removal agreed. -/
structure Plauf where
  ports : Tbl Port := []
  lowLines : List (Nat × Nat) := []
  laserOut : List Nat := []
  exports : Tbl Export := []
  imports : Tbl Import := []
  streamsIn : Tbl StreamIn := []
  streamsOut : Tbl StreamOut := []
  targetEpoch : Tbl Nat := []
  senderEpoch : Tbl Nat := []
  out : Tbl OutReq := []
  nextReq : Nat := 0
  sent : List (Nat × RemMsg) := []
  wire : List (Nat × List Byte) := []
  ctrl : List (Nat × Nat) := []
  lostSince : Tbl Nat := []
  denied : Tbl (Nat × Nat) := []
deriving DecidableEq, Repr

/-- A pairing entry (R445). -/
structure Pairing where
  farPart : Nat
  ceiling : Nat
  farHash : Nat
deriving DecidableEq, Repr

/-- A partition rule (R427). -/
structure Rule where
  flags : Nat := 0x79
  maxA : Nat := 24
  maxB : Nat := 24
  rows : Nat := 0xFFFFFFFF
  slots : Nat := 32768
deriving DecidableEq, Repr

/-- A library entry (R428). -/
structure LibEnt where
  grain : Nat
  readers : Nat
  writer : Nat
  va : Nat
  off : Nat
  len : Nat
deriving DecidableEq, Repr

/-- The owner policy record (R425). Flags: [0] CLAIMED, [1] SEALED_OK, [2] GUEST_EN, [3] TEST_UNLOCK, [4] REPAIR_UNLOCK. -/
structure Policy where
  flags : Nat := 0
  debugCount : Nat := 0
  ownerSeq : Nat := 0
  ownerHash : Nat := 0
  ecdsaKey : List Byte := []
  mldsaKey : List Byte := []
  grains : Tbl Nat := []
  rules : Tbl Rule := []
  library : Tbl LibEnt := []
  cuffPart : Nat := 0xFF
  cuffCap : Nat := 0
  cuffWins : Tbl CuffWin := []
  cuffSlots : Tbl CuffSlot := []
  pairings : Tbl Pairing := []
deriving DecidableEq, Repr

/-- A released key slot (R434): use bits, session nonce and transfer counter. The key's value is a number of the key
store and never leaves it (R418). -/
structure KeySlot where
  use : Nat
  key : Nat
  nonce : Nat
  counter : Nat := 0
deriving DecidableEq, Repr

/-- A partition's keys (R417). -/
structure PartKeys where
  sealing : Option Nat := none
  swap : Option Nat := none
  slots : Tbl KeySlot := []
deriving DecidableEq, Repr

/-- A zero-fill set recorded by one PART_DESTROY (R438). -/
structure Fill where
  part : Nat
  slices : List Nat
  grains : List Nat
deriving DecidableEq, Repr

/-- An SPDM connection of one path (R430): 0 none, 1 version, 2 capabilities, 3 negotiated; the session's stage 0 none,
1 exchanged, 2 established, its secret and the bytes exchanged; `owner` once the owner's key has authenticated it (R441). -/
structure Spdm where
  stage : Nat := 0
  session : Nat := 0
  keyGen : Nat := 0
  secret : Nat := 0
  transcript : List Byte := []
  owner : Bool := false
deriving DecidableEq, Repr

/-- An answer of the device on a management path (R430, R527): the path, a code and its bytes. -/
structure Reply where
  path : Nat
  code : Nat
  bytes : List Byte
deriving DecidableEq, Repr

/-- An IDE stream of the endpoint (R38, R417), keyed 2 × function for its selective stream; 1 is the link stream. `path` is the
connection whose session programmed its key. -/
structure IdeStream where
  key : Nat := 0
  path : Nat := 0
  on : Bool := false
deriving DecidableEq, Repr

/-- Gauntlet: policy, keys, debug state, fills, SPDM (15). -/
structure Gauntlet where
  policy : Policy := {}
  keys : Tbl PartKeys := []
  streams : Tbl IdeStream := []
  mittenFence : Bool := false
  keysZeroised : Bool := false
  debugPending : Bool := false
  debug : Bool := false
  debugScope : Nat := 0
  fills : List Fill := []
  spdm : Tbl Spdm := []
  replies : List Reply := []
  drawn : Nat := 0
deriving DecidableEq, Repr

/-- A core's binding (R30-R34, R475): its column, or none when absent; state 0 bound at BOOT_CORE, 1 absent, 2 by
substitution. -/
structure Binding where
  column : Option Nat
  state : Nat := 0
  season : Nat := 0
deriving DecidableEq, Repr

/-- A core's own state (R113, R123, R458): lane-row mode 0 FULL, 1 QUARTER, 2 SIXTEENTH; retired groups; the descriptors of
its intake in order. -/
structure CoreSt where
  mode : Nat := 0
  groups : List Nat := []
  intake : List Nat := []
deriving DecidableEq, Repr

/-- A physical site (R472, R477), keyed tower × 272 + row × 17 + column. `scanned` is set from a SCAN_DUMP until a passing
CORE_FULL (R566). -/
structure Site where
  fenced : Bool := false
  bad : Bool := false
  passes : Nat := 0
  lastTest : Nat := 0
  lastStale : Option Nat := none
  scanned : Bool := false
deriving DecidableEq, Repr

/-- A hot substitution, rebinding or move under way (R473). -/
structure Subst where
  core : Nat
  column : Nat
  hot : Bool
deriving DecidableEq, Repr

/-- A remapped row's chain (R466, R467, R569): the spares it has used; `ppr` when it lies on the PPR row. -/
structure Remap where
  spares : List Nat
  ppr : Bool := false
deriving DecidableEq, Repr

/-- A channel's charges (R452), by channel code. -/
structure Charge where
  times : List Nat := []
  permanent : Bool := false
deriving DecidableEq, Repr

/-- Faults, repair and retirement (16). `outBanks` are the banks and pseudo-channels out of service for this start (R515);
`scrubBack` the addresses in windows that the scrubber returns to before its lap ends (R464). -/
structure Faults where
  bindings : Tbl Binding := []
  cores : Tbl CoreSt := []
  sites : Tbl Site := []
  subst : List Subst := []
  charges : Tbl Charge := []
  nearUnits : List Nat := []
  nearOut : List Nat := []
  ce : Tbl Nat := []
  ceLast : Tbl Nat := []
  ceSince : Tbl Nat := []
  ceAt : Tbl Nat := []
  remaps : Tbl Remap := []
  badSpares : List (Nat × Nat) := []
  pprUsed : List Nat := []
  sticky : Tbl Nat := []
  retiredPages : List Nat := []
  retiredBanks : List (Nat × Nat) := []
  outBanks : List (Nat × Nat) := []
  moving : List (Nat × Nat × Nat) := []
  scrubAt : Nat := 0
  scrubBack : List Nat := []
  scrubPoison : Nat := 0
  scrubStart : Nat := 0
  scrubLagged : Bool := false
  linkStale : Nat := 0
  replace : List Nat := []
deriving DecidableEq, Repr

/-- Package states (R484). -/
inductive Pkg where
  | off | boot | standby | ready | run | held | trip
deriving DecidableEq, Repr

/-- Package and level state, TRIP and power groups (17, 22). Power groups: 0 BASE, 1 MEM, 2 OPT, 3 CORE_A, 4 CORE_B. `tripWas`
holds the causes of a TRIP that a package reset ended; held inputs are 0 PKG_RST_N, 1 PERST_N, 2-4 the reset inputs of dies
1-3, and 10 + g the lost power-good of group g. -/
structure Power where
  pkg : Pkg := .boot
  level : Nat := 0
  slewTo : Option (Nat × Nat) := none
  drainAt : Option Nat := none
  drainTo : Option (Pkg × Nat) := none
  tripCauses : List Nat := []
  tripStandby : Bool := false
  tripWas : List Nat := []
  hostCap : Nat := 0
  enabled : List Nat := []
  good : List Nat := []
  retryAt : Option Nat := none
  heldInputs : List Nat := []
deriving DecidableEq, Repr

/-- A fraction; its denominator is not 0. -/
structure Frac where
  num : Int := 0
  den : Nat := 1
deriving DecidableEq, Repr

/-- One tower's readings and limiters (R488-R505, R610), temperatures in 1/64 °C, power in W, current in A. Sums are those of
the running 10 ms; `theta` is θ_l and θ_f in 1/64 °C per W, `rho` is ρ of R503, and `cap` the thermal cap. `excess` lists E of R504, the newest
first. `tripSeen` has bits 0-2 for a logic, tier-F or stack reading that stood at its limit at the last update. -/
structure Tower where
  r : TowerReading := { hotLogic := 1600, hotF := 1600, hotStack := 1600, hotEng := 1600, lowLogic := 1600, stackTemps := [], engines := [], power := 0, power100 := 0 }
  nodes : Tbl NodeValue := []
  current : Nat := 0
  lvlTh : Nat := 0
  lvlHost : Nat := 0
  lvlAlm : Nat := 0
  sinceStep : Option Nat := none
  sinceHost : Option Nat := none
  sumLogic : Int := 0
  sumF : Int := 0
  sumPower : Nat := 0
  sumInlet : Int := 0
  samples : Nat := 0
  theta : Option (Frac × Frac) := none
  cap : Option Frac := none
  rise15 : Nat := 0
  rise30 : Nat := 0
  normal : Nat := 0
  thetaLevel : Nat := 0
  rho : Option Frac := none
  atTop : Option Nat := none
  unreach : Tbl Nat := []
  lastCurrent : Option Nat := none
  overSince : Option Nat := none
  badSince : Option Nat := none
  goodSince : Option Nat := none
  imonFault : Bool := false
  excess : List Frac := []
  tripSeen : Nat := 0
  offsets : Tbl Int := []
  driftSince : Tbl Nat := []
  masked : List Nat := []
  disagree : Tbl Nat := []
  agree : Tbl Nat := []
deriving DecidableEq, Repr

/-- Telemetry fields of GLOBAL (R590, R591). `hot` holds the hottest logic, tier F, stack and engine of tower A, then of B;
`ladder` the level and setter of each tower; `sums` the sums of the samples since the last refresh. -/
structure Telem where
  seq : Nat := 0
  powerPkg : Nat := 0
  inlet : Int := 0
  outlet : Int := 0
  dp : Nat := 0
  flow : Nat := 0
  powerA : Nat := 0
  powerB : Nat := 0
  hot : List Int := [0, 0, 0, 0, 0, 0, 0, 0]
  lowLogic : Int := 0
  rateA : Nat := 0
  rateB : Nat := 0
  ladder : List Nat := [0, 3, 0, 3]
  samples : Nat := 0
  sums : List Int := []
deriving DecidableEq, Repr

/-- Heat and coolant (17). -/
structure Thermal where
  a : Tower := {}
  b : Tower := {}
  p : PkgReading := { inlet := 1920, outlet := 2240, dp := 45000, power := 0, inletFailed := false }
  dpHigh : Option Nat := none
  dpLow : Bool := false
  coolantLoss : Bool := false
  lossAt : Nat := 0
  okSince : Option Nat := none
  flowOkSince : Option Nat := none
  condensation : Bool := false
  inletOut : Bool := false
  inletBackSince : Option Nat := none
  telem : Telem := {}
deriving DecidableEq, Repr

/-- One copy of a record in the store (R531). -/
structure Copy where
  gen : Nat
  valid : Bool
  body : Tbl Byte
deriving DecidableEq, Repr

/-- A record: its shadow body and its two copies; `edited` marks a settings edit not yet stored (R530-R533). -/
structure Rec where
  shadow : Tbl Byte := []
  edited : Bool := false
  a : Copy := { gen := 1, valid := true, body := [] }
  b : Copy := { gen := 0, valid := true, body := [] }
deriving DecidableEq, Repr

/-- A firmware image in a slot (R536-R539). -/
structure Image where
  version : Nat
  level : Nat
  digest : Nat
deriving DecidableEq, Repr

/-- An image type's two slots (R536): 0 A, 1 B. `fresh` says that the active one was activated at this start (R539). -/
structure FwType where
  slots : Tbl Image := []
  active : Nat := 0
  armed : Bool := false
  fresh : Bool := false
  fuse : Nat := 0
  fuseDue : Bool := false
  liveFrom : Option Nat := none
  liveAt : Nat := 0
deriving DecidableEq, Repr

/-- One field of a log payload (R543): its size in bytes and its value. -/
abbrev PField := Nat × Nat

/-- A log record (R542). -/
structure LogRec where
  time : Nat
  cls : Nat
  ev : Nat
  die : Nat
  unit : Nat
  season : Nat
  part : Nat
  critical : Bool
  event : Bool
  seq : Nat
  payload : List PField
deriving DecidableEq, Repr

/-- The log and events (R80, R542-R545, R600). `held` are the records formed while Mitten is stopped (R416). -/
structure Log where
  ring : List LogRec := []
  seq : Nat := 1
  critlog : List LogRec := []
  held : List LogRec := []
  parked : List Nat := []
  undelivered : List LogRec := []
  lost : Nat := 0
  base : Nat := 0
  sizeLog2 : Nat := 0
  mask : Nat := 0
  en : Bool := false
  written : Nat := 0
  skipped : Nat := 0
  cfgErr : Bool := false
  writeErr : Bool := false
deriving DecidableEq, Repr

/-- LIFETIME counters (R535). -/
structure Lifetime where
  poweredSeconds : Nat := 0
  coldStarts : Nat := 1
  warmResets : Nat := 0
  trips : List Nat := [0, 0, 0, 0, 0]
  stores : Nat := 0
  compactServed : Nat := 0
  highest : Int := 0
deriving DecidableEq, Repr

/-- Bring-up phases (R513). `ended` is PHASE code 6. -/
inductive Phase where
  | bootMgmt | bootNet | bootMem | bootLink | bootCore | check | ended
deriving DecidableEq, Repr

/-- The topology as discovered (R516): dies by entry, data lanes by 2b + d, ports as (state, far port, waves, hash), absent map. -/
structure Topo where
  flags : Nat := 0
  bound : Nat := 0
  holes : Nat := 0
  dies : Tbl DieAnswer := []
  lanes : Tbl Nat := []
  ports : Tbl (Nat × Nat × Nat × Nat) := []
  absent : List Nat := []
deriving DecidableEq, Repr

/-- The stored repair map (R454, R530): bindings by logical core, a hole as 0xFF, the retire table, retired banks and pseudo-channels,
remaps, bad spare rows, bad sites, retired groups, near-bank units, bundle directions, wavelengths and ports. -/
structure RepairMap where
  binds : Tbl Nat := []
  pages : List Nat := []
  banks : List (Nat × Nat) := []
  remaps : Tbl Remap := []
  badSpares : List (Nat × Nat) := []
  badSites : List Nat := []
  groups : Tbl (List Nat) := []
  units : List Nat := []
  lanes : Tbl (List Nat) := []
  waves : Tbl (List Nat) := []
  ports : List Nat := []
deriving DecidableEq, Repr

/-- The content of the copies not in force of the records whose content the model holds as data (R531). -/
structure Older where
  repair : RepairMap := {}
  expected : Option Topo := none
  life : Lifetime := {}
  seasons : Tbl Nat := []
  policy : Policy := {}
  fills : List Fill := []
deriving DecidableEq, Repr

/-- The management island (18). `waitNet` says that BOOT_MGMT has done its work and waits for its power-goods (R612),
`netDone` that BOOT_NET has done its work and waits for a TRIP condition to end (R509); `trained` lists the elements trained in full at this
start (R514), 1024 × cache + element. -/
structure Mgmt where
  phase : Phase := .bootMgmt
  phaseStart : Nat := 0
  resetCause : Nat := 0
  cold : Bool := true
  resetTime : Nat := 0
  recovery : Bool := false
  mittenDown : Bool := false
  mittenRestarts : List Nat := []
  gauntletWdt : Bool := false
  records : Tbl Rec := []
  fw : Tbl FwType := []
  life : Lifetime := {}
  lifeAt : Nat := 0
  topo : Topo := {}
  expected : Option Topo := some {}
  topoShadow : Option Topo := none
  serial : Nat := 0
  idHash : Nat := 0
  firstStart : Bool := true
  repairStored : RepairMap := {}
  lifeStored : Lifetime := {}
  seasonStore : Tbl Nat := []
  older : Older := {}
  waitNet : Bool := false
  netDone : Bool := false
  trained : List Nat := []
deriving DecidableEq, Repr

/-- A section entry of an image (R548): the block, its flags, its handshake count or time, and the bytes of its C, T and D fields. -/
structure BankSec where
  die : Nat
  kind : Nat
  unit : Nat
  season : Nat
  flags : Nat
  count : Nat
  lenC : Nat
  lenT : Nat
  lenD : Nat
deriving DecidableEq, Repr

/-- A snapshot bank (R548, R554): 0 EMPTY, 1 FULL, 2 READ. -/
structure Bank where
  st : Nat := 0
  scope : Nat := 0
  source : Nat := 0
  debug : Bool := false
  late : Bool := false
  tCleared : Bool := false
  size : Nat := 0
  time : Nat := 0
  dropped : Nat := 0
  detail : List Nat := []
  sections : List BankSec := []
  areaC : List Byte := []
  areaT : List Byte := []
  areaD : List Byte := []
deriving DecidableEq, Repr

/-- Equinox snapshots (19). `heldTrigger` is a partition-scope trigger, with its source and detail, that waits for the end of
the partition's reset (R583). -/
structure Snap where
  banks : List Bank := [{}, {}]
  dropped : Nat := 0
  armed : Nat := 0
  scope : Nat := 0xFF
  faultClass : Nat := 0
  counter : Nat := 0
  value : Nat := 0
  latches : Nat := 0
  heldTrigger : Option (Nat × Nat × List Nat) := none
deriving DecidableEq, Repr

/-- A self-test or calibration under way (R562). `by_` is its descriptor while one waits for it. -/
structure TestRun where
  tag : Nat
  set : Nat
  calibrate : Bool
  force : Bool
  parts : Nat
  by_ : Option Nat
deriving DecidableEq, Repr

/-- The open Holiday (R559) and the deferred list (R562). -/
structure Holiday where
  open_ : Bool := false
  parts : Nat := 0
  stackSet : Nat := 0
  ports : Nat := 0
  endAt : Nat := 0
  testsRun : Nat := 0
  deferred : List TestRun := []
  running : Option TestRun := none
deriving DecidableEq, Repr

/-- Time base and PTM (R8, R373, R601). -/
structure Time where
  now : Nat := 0
  ptmEn : Bool := false
  ptmPeriod : Nat := 10
  locked : Bool := false
  holdover : Bool := false
  lastAdj : Int := 0
  lastAdjTime : Nat := 0
  first : Bool := true
  slew : Int := 0
  ticks : Nat := 0
deriving DecidableEq, Repr

/-- The state of the block. `pending` is the queue of waiting commands, first in, first out; `free` is the model's
own counter of free values taken, not the spec's. -/
structure State where
  pending : List Instr
  free : Nat
  guestSite : Bool
  host : Tbl Byte
  hostFail : List (Nat × Nat)
  time : Time
  qe : QueueEngine
  regs : Regs
  parts : Tbl Part
  vfs : Tbl Vf
  sync : Sync
  mem : DevMem
  kv : Keeper
  steps : Steps
  bw : Bandwidth
  fab : Fabric
  cuff : Cuff
  plauf : Plauf
  gnt : Gauntlet
  flt : Faults
  pwr : Power
  th : Thermal
  mgmt : Mgmt
  log : Log
  snap : Snap
  hol : Holiday
deriving DecidableEq, Repr

/-- Why the machine stops. No rule of the spec stops this block, so nothing raises it: a fault of the device is
a next state with its status, record or mode. -/
inductive Fault where
  /-- Raised by nothing; kept so that the type is not empty. Safe: no run ends in it. -/
  | none
deriving DecidableEq, Repr

/-- Why a command has no meaning. -/
inductive Refusal where
  /-- Raised by an arm of exec whose command has no meaning yet. Safe: the run ends there. -/
  | notModelled (mnemonic : String)
deriving DecidableEq, Repr

/-- The record bodies of R530 with content at the factory: FAULT's defaults (R455), BOOT's (R534) and format 1 of
THERMAL's defaults (R511); every other byte of every record is zero. -/
def factoryRecords : Tbl Rec :=
  let body8 : Tbl Byte := [(0, 1), (2, 3), (4, 0x80), (5, 0x51), (6, 1), (8, 0x80), (9, 0x51), (10, 1), (13, 1), (14, 60),
    (16, 4), (17, 4), (18, 1)]
  let body9 : Tbl Byte := [(0, 1), (8, 0x58), (9, 2)]
  let body4 : Tbl Byte := [(0, 1), (4, 0xC8), (5, 0xAF), (8, 0x6F), (9, 0x12), (10, 0x83), (11, 0x3D), (12, 0x93), (13, 0xA9),
    (14, 0x71), (15, 0x3D), (16, 0x6F), (17, 0x12), (18, 0x83), (19, 0x3D), (20, 0x93), (21, 0xA9), (22, 0x71), (23, 0x3D)]
  let mk (body : Tbl Byte) : Rec :=
    { shadow := body, a := { gen := 1, valid := true, body := body }, b := { gen := 0, valid := true, body := body } }
  (List.range 12).map fun i => (i, if i = 8 then mk body8 else if i = 9 then mk body9 else if i = 4 then mk body4 else mk [])

/-- The expected topology a part leaves the factory with (R516), for a part without holes; die identifiers, which
are the part's own, are 0 here (assumption 6). -/
def factoryTopo : Topo :=
  { bound := 512
    dies := (List.range 24).map fun i =>
      (i, { kind := if i < 2 then 1 else if i < 4 then 2 else if i < 8 then 3 else if i < 16 then 4 else 5,
            position := 0, revision := 0, ident := 0, repair := 0, lanes := 0, lanesLow := 0 })
    lanes := (List.range 48).map fun i => (i, 64) }

/-- The records that the start of BOOT_MGMT writes after a cold reset: BOOT_PHASE with phase 0 and RESET_CAUSE with cause 0
(R513, R521). -/
def bootLog : Log :=
  let r (ev seq : Nat) (c : Bool) : LogRec :=
    { time := 0, cls := 7, ev := ev, die := 0xFF, unit := 0, season := 0, part := 0xFF, critical := c, event := false, seq := seq
      payload := [(1, 0)] }
  { ring := [r 2 1 false, r 1 2 true], seq := 3, critlog := [r 1 2 true] }

/-- The machine right after a cold reset of a new part (R11, R521, R522, R611): bring-up stands at the start of
BOOT_MGMT, the time base at 0, no partition exists, every table is empty, and every register is at its reset value. -/
def State.reset : State :=
  { pending := [], free := 0, guestSite := false, host := [], hostFail := [], time := {}
    qe := {}, regs := {}, parts := [], vfs := [], sync := {}, mem := {}, kv := {}, steps := {}, bw := {}, fab := {}
    cuff := {}, plauf := {}, gnt := {}, flt := {}, pwr := {}, th := {}
    mgmt := { records := factoryRecords
              fw := [(1, { slots := [(0, { version := 1, level := 0, digest := 0 })] }),
                     (2, { slots := [(0, { version := 1, level := 0, digest := 0 })] }),
                     (3, { slots := [(0, { version := 1, level := 0, digest := 0 })] }),
                     (4, { slots := [(0, { version := 1, level := 0, digest := 0 })] })]
              expected := some factoryTopo
              older := { expected := some factoryTopo } }
    log := bootLog, snap := {}, hol := {} }

end Sys2Proof.Machine
end

