-- ==== Sys2Proof/Machine/Ops.lean ====
section
/-! DEFINITION. The named operations over tables, memories and held descriptors, which every meaning uses. -/

namespace Sys2Proof.Machine

/-! Tables and memories. -/

/-- The value a table holds at a key. -/
def tfind {α : Type} : Tbl α → Nat → Option α
  | [], _ => none
  | (k, v) :: r, i => if i = k then some v else tfind r i

/-- A table with a value put at a key; keys stay strictly rising. -/
def tput {α : Type} : Tbl α → Nat → α → Tbl α
  | [], i, x => [(i, x)]
  | (k, v) :: r, i, x =>
    if i < k then (i, x) :: (k, v) :: r else if i = k then (i, x) :: r else (k, v) :: tput r i x

/-- A table without a key. -/
def tdel {α : Type} (t : Tbl α) (i : Nat) : Tbl α := t.filter fun e => e.1 != i

/-- The keys of a table. -/
def tkeys {α : Type} (t : Tbl α) : List Nat := t.map Prod.fst

/-- The table with the entries that satisfy p. -/
def tfilter {α : Type} (t : Tbl α) (p : Nat → α → Bool) : Tbl α := t.filter fun e => p e.1 e.2

/-- The table with every value changed. -/
def tmap {α : Type} (t : Tbl α) (f : Nat → α → α) : Tbl α := t.map fun e => (e.1, f e.1 e.2)

/-- The byte a sparse memory reads at an address: an unlisted address reads 0 (assumption 2). -/
def mread (m : Tbl Byte) (a : Nat) : Byte := (tfind m a).getD 0

/-- A sparse memory with one byte written, in its canonical form: a byte of 0 is not listed. -/
def mwrite (m : Tbl Byte) (a : Nat) (b : Byte) : Tbl Byte := if b = 0 then tdel m a else tput m a b

/-- n bytes from an address. -/
def mreadN (m : Tbl Byte) (a n : Nat) : List Byte := (List.range n).map fun i => mread m (a + i)

/-- Bytes written at an address and onward. -/
def mwriteN (m : Tbl Byte) (a : Nat) : List Byte → Tbl Byte
  | [] => m
  | b :: r => mwriteN (mwrite m a b) (a + 1) r

/-- Whether keys rise strictly. -/
def rising : List Nat → Bool
  | [] => true
  | [_] => true
  | a :: b :: r => decide (a < b) && rising (b :: r)

/-- The canonical form of a sparse memory: addresses strictly rising, no byte equal to what an unlisted one reads. -/
def memWf (m : Tbl Byte) : Bool := rising (tkeys m) && m.all fun e => e.2 != 0

/-! Host memory (R40). A range in `hostFail` answers with an error (R48). -/

/-- Whether an access to n bytes at a host address fails. -/
def hostBad (s : State) (a n : Nat) : Bool := s.hostFail.any fun r => decide (a < r.2 ∧ r.1 < a + n)

/-- n bytes of host memory, none on an error. -/
def hread (s : State) (a n : Nat) : Option (List Byte) := if hostBad s a n then none else some (mreadN s.host a n)

/-- Bytes written to host memory; a write that fails changes nothing. -/
def hwrite (s : State) (a : Nat) (bs : List Byte) : State :=
  if hostBad s a bs.length then s else { s with host := mwriteN s.host a bs }

/-- Bytes enciphered, or deciphered, under AES-GCM-256 (R270, R436): key and IV. -/
def gcmCrypt (key : Nat) (iv bs : List Byte) : List Byte := bs.zipIdx.map fun e => e.1 ^^^ Config.gcmStream key iv e.2

/-! Held descriptors (R47, R61). -/

/-- The held descriptor of a number. -/
def getF (s : State) (d : Nat) : Option Flight := tfind s.qe.flights d

/-- The state with a held descriptor replaced. -/
def putF (s : State) (d : Nat) (f : Flight) : State :=
  { s with qe := { s.qe with flights := tput s.qe.flights d f } }

/-- The state without a held descriptor. -/
def delF (s : State) (d : Nat) : State := { s with qe := { s.qe with flights := tdel s.qe.flights d } }

/-- The descriptor's opcode (R61). -/
def Flight.opcode (f : Flight) : Nat := wfld f.words 0 2
/-- The descriptor's flags (R62). -/
def Flight.flags (f : Flight) : Nat := wfld f.words 2 1
/-- The descriptor's class (R61). -/
def Flight.cls (f : Flight) : Nat := wfld f.words 3 1 % 8
/-- The descriptor's deadline field (R61). -/
def Flight.deadline (f : Flight) : Nat := wfld f.words 4 4
/-- The descriptor's wait counter (R61). -/
def Flight.waitC (f : Flight) : Nat := wfld f.words 8 2
/-- The descriptor's signal counter (R61). -/
def Flight.sigC (f : Flight) : Nat := wfld f.words 10 2
/-- The descriptor's signal increment (R61). -/
def Flight.sigInc (f : Flight) : Nat := wfld f.words 12 2
/-- The descriptor's sequence slot (R61). -/
def Flight.slotF (f : Flight) : Nat := wfld f.words 14 2
/-- The descriptor's wait target (R61). -/
def Flight.waitT (f : Flight) : Nat := wfld f.words 16 8
/-- The descriptor's tag (R61). -/
def Flight.tag (f : Flight) : Nat := wfld f.words 24 8
/-- An operation field of n bytes at byte offset o of the descriptor. -/
def Flight.op (f : Flight) (o n : Nat) : Nat := wfld f.words o n
/-- Whether the operation bytes from o to the end are zero (R13). -/
def Flight.zeroFrom (f : Flight) (o : Nat) : Bool := zeroAt (ofWords f.words) o (64 - o)
/-- Whether n bytes at o are zero (R13). -/
def Flight.zero (f : Flight) (o n : Nat) : Bool := zeroAt (ofWords f.words) o n

/-- Flag bits of R61. -/
def Flight.fWait (f : Flight) : Bool := bit f.flags 0
def Flight.fSignal (f : Flight) : Bool := bit f.flags 1
def Flight.fEve (f : Flight) : Bool := bit f.flags 2
def Flight.fFence (f : Flight) : Bool := bit f.flags 3
def Flight.fCmpl (f : Flight) : Bool := bit f.flags 4
def Flight.fIrq (f : Flight) : Bool := bit f.flags 5
def Flight.fTrickle (f : Flight) : Bool := bit f.flags 6

/-- The absolute deadline of a descriptor (R340); none when its field is 0. -/
def Flight.absDeadline (f : Flight) : Option Nat :=
  if f.deadline = 0 then none else some (f.fetchTime + 128 * f.deadline)

/-! Status codes (R71) and refusal reasons (R76). -/

def stOk : Nat := 0x0000
def stEveRejected : Nat := 0x0100
def stPreempted : Nat := 0x0200
def stDeadline : Nat := 0x0300
def stDeferred : Nat := 0x0400
def stTranslation : Nat := 0x1000
def stPermission : Nat := 0x1100
def stMalformed : Nat := 0x1200
def stRefused : Nat := 0x1400
def stArith : Nat := 0x2000
def stPoisoned : Nat := 0x2100
def stCoreLost : Nat := 0x2200
def stOverrun : Nat := 0x2300
def stAborted : Nat := 0x3000
def stOffline : Nat := 0x3100

def rBadField : Nat := 0x001
def rWrongState : Nat := 0x002
def rPolicy : Nat := 0x003
def rBusy : Nat := 0x004
def rNoResource : Nat := 0x005
def rExists : Nat := 0x006
def rNotFound : Nat := 0x007
def rAuth : Nat := 0x008
def rRollback : Nat := 0x009
def rCapacity : Nat := 0x00A
def rTripped : Nat := 0x00B
def rCold : Nat := 0x00C
def rStoreFail : Nat := 0x00D

/-- The order in which several refusal reasons are reported (R623): the object's own WRONG_STATE stands apart from
that of the package state, which is tested before. -/
def refusalOrder : List Nat :=
  [rBadField, rNotFound, rExists, rWrongState, rTripped, rCold, rPolicy, rAuth, rRollback, rBusy, rNoResource,
   rCapacity, rStoreFail]

/-- The reason reported among those that apply (R623). -/
def firstRefusal (applies : List (Nat × Bool)) : Option Nat :=
  refusalOrder.find? fun r => applies.any fun e => e.1 == r && e.2

/-- Whether a descriptor has reads, writes, atomics or signals to a neighbour that are not answered (R404). -/
def unansweredOf (s : State) (d : Nat) : Bool :=
  s.plauf.out.any fun e => e.2.desc == d && (e.2.kind == 0 || e.2.kind == 2)

/-- A held descriptor with its work ended in a status and an extra field, saturating at 28 bits (R69). It has ended once
every one of its messages is answered (R404). -/
def endF (s : State) (d st extra : Nat) : State :=
  match getF s d with
  | none => s
  | some f =>
    let w := unansweredOf s d
    putF s d { f with phase := if w then .running else .ended, answers := w, status := st, extra := min extra 0x0FFFFFFF }

/-- The descriptor ended REFUSED with a reason in extra[11:0] (R76). -/
def refuseF (s : State) (d r : Nat) : State := endF s d stRefused r

/-! Time (R8). -/

/-- The time base. -/
def nowOf (s : State) : Nat := s.time.now

/-! Free values (assumption 4). -/

/-- A free byte, and the state with the model's counter advanced. -/
def takeByte (s : State) : Byte × State := (Config.freeByte s.free, { s with free := s.free + 1 })
/-- A free number. -/
def takeNat (s : State) : Nat × State := (Config.freeNat s.free, { s with free := s.free + 1 })
/-- n free bytes. -/
def takeBytes (s : State) (n : Nat) : List Byte × State :=
  ((List.range n).map fun i => Config.freeByte (s.free + i), { s with free := s.free + n })

/-! Small tables with defaults. -/

def getFn (s : State) (fn : Nat) : FnState := (tfind s.qe.fns fn).getD {}
def putFn (s : State) (fn : Nat) (x : FnState) : State := { s with qe := { s.qe with fns := tput s.qe.fns fn x } }
def getQ (s : State) (q : Nat) : QCtx := (tfind s.qe.ctx q).getD {}
def putQ (s : State) (q : Nat) (x : QCtx) : State := { s with qe := { s.qe with ctx := tput s.qe.ctx q x } }
def getP (s : State) (p : Nat) : Option Part := tfind s.parts p
def putP (s : State) (p : Nat) (x : Part) : State := { s with parts := tput s.parts p x }
def getSlot (s : State) (i : Nat) : Slot := (tfind s.kv.slots i).getD {}
def putSlot (s : State) (i : Nat) (x : Slot) : State := { s with kv := { s.kv with slots := tput s.kv.slots i x } }
def getPool (s : State) (p : Nat) : Pool := (tfind s.kv.pools p).getD {}
def putPool (s : State) (p : Nat) (x : Pool) : State := { s with kv := { s.kv with pools := tput s.kv.pools p x } }
def getPort (s : State) (p : Nat) : Port := (tfind s.plauf.ports p).getD {}
def putPort (s : State) (p : Nat) (x : Port) : State :=
  { s with plauf := { s.plauf with ports := tput s.plauf.ports p x } }
def getCore (s : State) (c : Nat) : CoreSt := (tfind s.flt.cores c).getD {}
def putCore (s : State) (c : Nat) (x : CoreSt) : State := { s with flt := { s.flt with cores := tput s.flt.cores c x } }
def getBind (s : State) (c : Nat) : Binding := (tfind s.flt.bindings c).getD { column := none, state := 1 }
def putBind (s : State) (c : Nat) (x : Binding) : State :=
  { s with flt := { s.flt with bindings := tput s.flt.bindings c x } }
def getSite (s : State) (c : Nat) : Site := (tfind s.flt.sites c).getD {}
def putSite (s : State) (c : Nat) (x : Site) : State := { s with flt := { s.flt with sites := tput s.flt.sites c x } }
def getBundle (s : State) (b : Nat) : Bundle := (tfind s.fab.bundles b).getD {}
def putBundle (s : State) (b : Nat) (x : Bundle) : State :=
  { s with fab := { s.fab with bundles := tput s.fab.bundles b x } }
def getRule (s : State) (p : Nat) : Rule := (tfind s.gnt.policy.rules p).getD {}
def getKeys (s : State) (p : Nat) : PartKeys := (tfind s.gnt.keys p).getD {}
def putKeys (s : State) (p : Nat) (x : PartKeys) : State := { s with gnt := { s.gnt with keys := tput s.gnt.keys p x } }
def getRec (s : State) (i : Nat) : Rec := (tfind s.mgmt.records i).getD {}
def putRec (s : State) (i : Nat) (x : Rec) : State :=
  { s with mgmt := { s.mgmt with records := tput s.mgmt.records i x } }
/-- The copy of a record that a write goes to, written with its body (R531): the invalid copy or that of lower generation. -/
def writeCopy (r : Rec) (ok : Bool) : Rec :=
  let gen := max r.a.gen r.b.gen + 1
  let c : Copy := { gen := gen, valid := ok, body := r.shadow }
  let intoB := if !r.b.valid then true else if !r.a.valid then false else decide (r.b.gen < r.a.gen)
  let r1 := if intoB then { r with b := if ok then c else { r.b with valid := false } }
    else { r with a := if ok then c else { r.a with valid := false } }
  if ok then { r1 with edited := false } else r1
/-- A record written to the store. -/
def putStored (s : State) (i : Nat) : State := putRec s i (writeCopy (getRec s i) true)
/-- The content of the copies not in force changed. -/
def putOlder (s : State) (f : Older → Older) : State := { s with mgmt := { s.mgmt with older := f s.mgmt.older } }
def getFw (s : State) (i : Nat) : FwType := (tfind s.mgmt.fw i).getD {}
def putFw (s : State) (i : Nat) (x : FwType) : State := { s with mgmt := { s.mgmt with fw := tput s.mgmt.fw i x } }
def ctrOf (s : State) (p c : Nat) : Nat := (tfind s.sync.counters (1024 * p + c)).getD 0
def getTower (s : State) (t : Nat) : Tower := if t = 0 then s.th.a else s.th.b
def putTower (s : State) (t : Nat) (x : Tower) : State :=
  if t = 0 then { s with th := { s.th with a := x } } else { s with th := { s.th with b := x } }

/-! Cores and partitions (R30, R33, R135). -/

/-- Whether a logical core is bound. -/
def bound (s : State) (c : Nat) : Bool := (getBind s c).column.isSome
/-- The logical cores of a partition's rows that are bound, in logical order (R135). -/
def boundCores (s : State) (p : Nat) : List Nat :=
  match getP s p with
  | none => []
  | some x => (List.range 512).filter fun c => bit x.rows (c / 16) && bound s c
/-- Whether a core's die is in reset; a full reset of base die B resets tower B's cores (R372). -/
def coreDown (s : State) (c : Nat) : Bool := s.fab.dieReset.contains (2 + c / 256) || (decide (256 ≤ c) && s.fab.dieReset.contains 1)
/-- The partition whose rows hold a logical core. -/
def coreOwner (s : State) (c : Nat) : Option Nat :=
  (s.parts.find? fun e => bit e.2.rows (c / 16)).map Prod.fst
/-- The logical cores of the package that are bound. -/
def boundCount (s : State) : Nat := ((List.range 512).filter (bound s)).length
/-- Whether a slot is allocated to a partition (R235). -/
def slotOf (s : State) (p i : Nat) : Bool :=
  match getP s p with
  | none => false
  | some x => decide (x.firstSlot ≤ i ∧ i < x.firstSlot + x.slotCount)
/-- Whether a partition is fenced (R366, R367). -/
def fenced (s : State) (p : Nat) : Bool :=
  match getP s p with
  | none => false
  | some x => !x.fences.isEmpty
/-- Whether the owner has claimed the device (R425). -/
def claimed (s : State) : Bool := bit s.gnt.policy.flags 0
/-- Whether a package has ended its bring-up (R588). -/
def bootEnded (s : State) : Bool := s.mgmt.phase == .ended

/-! Codes of states (R46, R516, R590, R598). -/

def b2n (b : Bool) : Nat := if b then 1 else 0

/-- PHASE of R590. -/
def phaseCode (s : State) : Nat := match s.mgmt.phase with
  | .bootMgmt => 0 | .bootNet => 1 | .bootMem => 2 | .bootLink => 3 | .bootCore => 4 | .check => 5 | .ended => 6

/-- PKG_STATE of R590: STANDBY while TRIP is latched over it. -/
def pkgCode (s : State) : Nat := match s.pwr.pkg with
  | .off => 0 | .boot => 0 | .standby => 1 | .ready => 2 | .run => 3 | .held => 4
  | .trip => if s.pwr.tripStandby then 1 else 5

/-- The partition state's code in PART, IDENTIFY and the measurements (R79, R431, R598). -/
def pstateCode (x : Part) : Nat := match x.st with | .offline => 1 | .online => 2 | .parked => 3

/-- A queue state's code (R46). -/
def qstateCode (q : QState) : Nat := match q with | .disabled => 0 | .enabled => 1 | .draining => 2 | .error => 3

/-- Port states in the codes of R516. -/
def portCode (x : PortSt) : Nat := match x with
  | .down => 0 | .train => 1 | .hello => 2 | .auth => 3 | .up => 4 | .unexpected => 5 | .retired => 6

/-- The mask of a port's wavelengths in service. -/
def waveMask (s : State) (p : Nat) : Nat :=
  ((List.range 16).filter fun w => !(getPort s p).retiredWaves.contains w && !s.plauf.lowLines.contains (p / 4, w)).foldl
    (fun n w => n + 2 ^ w) 0

/-- The ladder level of a tower: the highest of its limiters (R494). -/
def ladderLevel (t : Tower) : Nat := max t.lvlTh (max t.lvlHost t.lvlAlm)

/-! Token buckets, and units of cores (R114, R345, R347). -/

/-- The combination of partition, class and resource as one number. -/
def combo (p c r : Nat) : Nat := (p * 8 + c) * 4096 + r
/-- The registrations of a combination. -/
def regsOf (s : State) (p c r : Nat) : Tbl Reg := s.bw.regs.filter fun e => e.2.part == p && e.2.cls == c && e.2.res == r
/-- The rate and the depth of a combination's bucket (R345, R350). -/
def comboEff (s : State) (p c r : Nat) : Nat := ((regsOf s p c r).map fun e => e.2.eff).foldl (· + ·) 0
def comboBurst (s : State) (p c r : Nat) : Nat := ((regsOf s p c r).map fun e => e.2.burst).foldl (· + ·) 0

/-- A bucket's tokens now, in thousandths of a byte: a rate in MB/s fills as many in each nanosecond (R345). A bucket
that has not been used is full (assumption 42). -/
def bucketNow (s : State) (p c r : Nat) : Nat :=
  let k := 2 * combo p c r
  let cap := 1000 * comboBurst s p c r
  match tfind s.bw.buckets k with
  | none => cap
  | some t => min cap (t + comboEff s p c r * (s.time.now - (tfind s.bw.buckets (k + 1)).getD 0))

/-- The conforming backlog of a resource in bytes (R347). -/
def backlog (s : State) (r : Nat) : Nat :=
  ((s.bw.waiting.filter fun e => e.2.heldSince.isNone && decide (e.2.tier ≤ 3)).map fun e =>
    ((e.2.use.filter fun u => u.1 == r).map Prod.snd).foldl (· + ·) 0).foldl (· + ·) 0

/-- Units of a core that other descriptors hold: those that have begun and not ended, a sleeping TRICKLE among them (R114, R335). -/
def unitsHeld (s : State) (core d : Nat) : Nat :=
  ((s.qe.flights.filter fun e => e.1 != d && e.2.begun && e.2.phase != .ended).map fun e =>
    (tfind e.2.units core).getD 0).foldl (· + ·) 0

end Sys2Proof.Machine
end

