-- ==== Sys2Proof/Machine/Equinox.lean ====
section
/-! DEFINITION. Equinox snapshots: the fields of every block, and one latch of them (R547-R554). A field of an area is written as 8
bytes (assumption 20). -/

namespace Sys2Proof.Machine

/-- The fields of one block for a snapshot (R547, R548): its die, kind, unit and Season, its handshake count where it is no
synchronous block, then the fields of class C and of class T. -/
structure Section where
  die : Nat
  kind : Nat
  unit : Nat := 0
  season : Nat := 0
  count : Option Nat := none
  c : List Nat
  t : List Nat := []
  unpowered : Bool := false
  asleep : Bool := false

/-- Whether a die is in reset or lost, so that its blocks are absent (R552). -/
def dieGone (s : State) (die : Nat) : Bool := s.fab.dieReset.contains die || s.fab.dieLost.contains die

/-- Whether a tower's compute die, or a base die but for the blocks that STANDBY keeps, is power-gated (R485, R507). -/
def computeGated (s : State) : Bool := s.pwr.pkg == .standby || s.pwr.pkg == .trip
def baseGated (s : State) : Bool := s.pwr.pkg == .standby || (s.pwr.pkg == .trip && s.pwr.tripStandby)

/-- Whether the cores of a logical row are power-gated: those of a PARKED or OFFLINE partition (R486). -/
def rowGated (s : State) (row : Nat) : Bool :=
  s.parts.any fun e => bit e.2.rows row && e.2.st != .online

/-- The core at a physical site: its binding, Season, split mode, units held, intake occupancy and ladder level, and, of class T, tag,
queue, ring slot and handshake count of each intake slot. The counts are free values. -/
def coreSection (s : State) (tower row col : Nat) : Section :=
  let first := 256 * tower + 16 * row
  let core := ((List.range 16).map (first + ·)).find? fun n => (getBind s n).column == some col
  let site := tower * 272 + row * 17 + col
  let gated := computeGated s || rowGated s (16 * tower + row)
  let x := (core.map (getCore s)).getD {}
  let season := (core.map fun n => (getBind s n).season).getD 0
  let slots := x.intake.filterMap (getF s)
  { die := 2 + tower, kind := 1, unit := row * 17 + col, season := season, count := some (Config.freeNat (s.free + 9 * site))
    c := [core.getD 0xFFFF, season, x.mode, (core.map fun n => unitsHeld s n 0xFFFFFFFF).getD 0, x.intake.length, ladderLevel (getTower s tower)]
    t := slots.zipIdx.flatMap fun f => [f.1.tag, f.1.q, f.1.slot, Config.freeNat (s.free + 9 * site + 1 + f.2)]
    unpowered := gated
    asleep := !slots.isEmpty && slots.all fun f => f.trickle.asleep
      || (f.phase == .started && !f.begun && f.fWait && decide (ctrOf s f.part f.waitC < f.waitT)) }

/-- The free values that the cores' handshake counts take. -/
def coreCounts : Nat := 9 * 544

/-- The queue engine: queues by number with their states, and the indices of each enabled one. -/
def queueSection (s : State) (mine : Nat → Bool) (g : Bool) : Section :=
  let qs := s.qe.ctx.filter fun e => mine e.2.part
  { die := 0, kind := 2
    c := (if g then [s.qe.hot.length, s.qe.pollPasses] else []) ++ qs.flatMap fun e => [e.1, qstateCode e.2.st]
    t := (qs.filter fun e => e.2.st == .enabled).flatMap fun e => [e.1, e.2.sqCons, e.2.written] }

/-- Slot states in the order of R236. -/
def slotCode (x : SlotSt) : Nat := match x with
  | .free => 0 | .open_ => 1 | .swappingOut => 2 | .swapped => 3 | .swappingIn => 4 | .failed => 5

/-- The list of R250 on which a frame stands: a bound core's slice, 512 for tier S, 513 for remote windows. -/
def frameList (f : KvFrame) : Nat := if f.remote.isSome then 513 else if f.where_ < 2 ^ 38 then f.where_ / 2 ^ 27 else 512

/-- The page keeper: slots with state, settled length and Eve count, then the free frames of each list of a partition's pool. -/
def keeperSection (s : State) (scope : Nat) (g : Bool) : Section :=
  let slots := s.kv.slots.filter fun e => g || slotOf s scope e.1
  let pools := s.kv.pools.filter fun e => g || e.1 == scope
  { die := 0, kind := 3
    c := (slots.flatMap fun e => [e.1, slotCode e.2.st, e.2.settled, (e.2.eve.map Prod.snd).foldl max 0])
      ++ pools.flatMap fun e =>
        let free := (e.2.frames.filter fun f => f.state == 0).map frameList
        (List.range 514).flatMap fun i => let n := free.count i
          if n = 0 then [] else [e.1, i, n]
    t := slots.flatMap fun e => [e.1, e.2.ident, e.2.pages.length] }

/-- The translation unit of a tower: leaf and upper-level entries in use per partition, and the virtual page numbers. -/
def xlateSection (s : State) (tower : Nat) (mine : Nat → Bool) : Section :=
  let own (t : Tbl (List Nat)) := t.filter fun e => e.1 / 16 == tower && mine (e.1 % 16)
  { die := tower, kind := 4
    c := (own s.mem.tlb).flatMap fun e => [e.1 % 16, e.2.length, ((tfind s.mem.tlbUp e.1).getD []).length]
    t := (own s.mem.tlb).flatMap fun e => e.2 }

/-- Whether a descriptor waits at a counter's home: the waiting head of its queue, a waiter of a core's intake, or a sleeping TRICKLE
(R305). -/
def waitsAt (s : State) (d : Nat) (f : Flight) : Bool :=
  f.trickle.asleep || (f.fWait && decide (ctrOf s f.part f.waitC < f.waitT)
    && ((f.phase == .started && !f.begun) || (f.phase == .fetched
      && !(s.qe.flights.any fun e => decide (e.1 < d) && e.2.q == f.q && e.2.fn == f.fn && e.2.phase == .fetched))))

/-- A counter home: pairs declared, waiters registered, and the counters. -/
def counterSection (s : State) (die : Nat) (mine : Nat → Bool) : Section :=
  { die := die, kind := 5
    c := [(s.sync.pairs.filter fun e => mine (e.1 / 256) && e.2.producer / 512 == die).length,
      (s.qe.flights.filter fun e => mine e.2.part && e.2.waitC / 512 == die && waitsAt s e.1 e.2).length]
    t := (s.sync.counters.filter fun e => mine (e.1 / 1024) && e.1 % 1024 / 512 == die).flatMap fun e => [e.1, e.2] }

/-- A stack's memory controller: refresh rate as a multiple, band of R344 (2 throttled), the open windows, and of class T the open
groups of ordered reductions. -/
def stackSection (s : State) (k : Nat) : Section :=
  let hot := s.bw.hotBand.contains k
  { die := 4 + k, kind := 6, unit := k
    c := [if hot then 2 else 1, if s.bw.throttled.contains k then 2 else if hot then 1 else 0]
      ++ (s.mem.bank.filter fun e => e.1 / 65536 == k && e.2.open_).flatMap fun e => [e.1 % 65536, e.2.openedAt, e.2.closeAt]
    t := (s.mem.groups.filter fun e => e.2.stack == k).map Prod.fst }

/-- The base die that owns a resource of R342. -/
def resourceDie (r : Nat) : Nat := if r < 8 then r / 4 else if r = 0x11 then 1 else if 0x110 ≤ r ∧ r < 0x120 then 1 else 0

/-- The regulation unit of a base die: bucket level in bytes, effective rate and slack signal of each registration, by its handle. -/
def regulationSection (s : State) (die : Nat) (mine : Nat → Bool) (g : Bool) : Section :=
  let rs := s.bw.regs.filter fun e => mine e.2.part && resourceDie e.2.res == die
  { die := die, kind := 7
    c := rs.flatMap fun e => [bucketNow s e.2.part e.2.cls e.2.res / 1000, e.2.eff] ++ (if !g then [] else
      [b2n (backlog s e.2.res == 0 || decide (backlog s e.2.res < 2 * (tfind s.bw.capacity e.2.res).getD 0))])
    t := rs.flatMap fun e => [e.2.part, e.1] }

/-- Lanes of a bundle as two words of a mask. -/
def laneMask (l : List Nat) : List Nat :=
  [0, 1].map fun w => ((List.range 64).filter fun i => l.contains (64 * w + i)).foldl (fun n i => n + 2 ^ i) 0

/-- The mesh and fabric of a base die: no packet stands in a router between commands; the bundles in the direction that leaves it,
each with its failed lanes, half and replays; and LINK_STALE. -/
def meshSection (s : State) (die : Nat) : Section :=
  { die := die, kind := 8
    c := 0 :: ((s.fab.bundles.filter fun e => e.1 % 2 == die).flatMap fun e =>
      [e.1 / 2] ++ laneMask e.2.failed ++ [(e.2.half.map (· + 1)).getD 0, b2n e.2.retired, e.2.replays]) ++ [s.flt.linkStale] }

/-- A Plauf port, and of class T its streams as sender and target with the neighbour's pairings. -/
def portSection (s : State) (p : Nat) (x : Port) : Section :=
  { die := 12 + p / 4, kind := 9, unit := p
    c := [portCode x.st, waveMask s p, x.txSeq, x.seqExp, x.ackOut, b2n x.phase] ++ x.credits
    t := ((s.plauf.streamsOut.filter fun e => e.1 / 256 == x.farHash && x.keyed).flatMap fun e => [e.1 % 256, e.2.target, e.2.next])
      ++ (s.plauf.streamsIn.filter fun e => e.1 / 256 == x.farHash && x.keyed).flatMap fun e => [e.1 % 256, e.2.sender, e.2.applied] }

/-- The thermal model engine of a base die: the hottest node of each kind, the limiters' levels, ρ as a fraction, and the masks. -/
def thermalSection (s : State) (die : Nat) : Section :=
  let x := getTower s die
  let rho := x.rho.getD {}
  { die := die, kind := 0xA
    c := ([x.r.hotLogic, x.r.hotF, x.r.hotStack, x.r.hotEng].map (unsigned 64)) ++ [x.lvlTh, x.lvlHost, x.lvlAlm, unsigned 64 rho.num, rho.den]
      ++ x.masked }

/-- The step sequencer of a base die: rota, next entry and entries replayed of each step, and the bases of its private counters. -/
def stepSection (s : State) (die scope : Nat) (g : Bool) : Section :=
  let runs := s.steps.runs.filter fun e => g || ((getF s e.1).map (·.part)) == some scope
  { die := die, kind := 0xB, c := runs.flatMap fun e => [e.2.rota, e.2.next, e.2.done.length], t := runs.flatMap fun e => e.2.bases }

/-- The Cuff, which answers each request at once and so has no tag outstanding. -/
def cuffSection (s : State) : Section :=
  { die := 0, kind := 0xC, c := s.cuff.wins.map (fun e => b2n e.2.valid) ++ [b2n s.cuff.linkUp, s.cuff.denied] }

/-- The management island. -/
def islandSection (s : State) : Section :=
  { die := 0, kind := 0xD, c := [pkgCode s, phaseCode s, b2n s.hol.open_] }

/-- The blocks of the package that latch, or those of one partition (R547, R553). A block of a die in reset or lost is absent
(R552); a power-gated one is unpowered (R551). -/
def sections (s : State) (scope : Nat) : List Section :=
  let g := scope == 0xFF
  let mine (p : Nat) := g || p == scope
  let both (f : Nat → Section) : List Section := ([0, 1].map f).filter fun x => !dieGone s x.die
  let base := baseGated s
  let off (x : Section) : Section := { x with unpowered := base }
  let rows := (List.range 32).filter fun r => !dieGone s (2 + r / 16) && !coreDown s (16 * r)
    && (g || bit (((getP s scope).map (·.rows)).getD 0) r)
  let cores := rows.flatMap fun r => ((List.range 17).map fun c => coreSection s (r / 16) (r % 16) c).filter fun x =>
    g || x.c.head? != some 0xFFFF
  let shared := [queueSection s mine g, off (keeperSection s scope g)] ++ (both (xlateSection s · mine)).map off
    ++ both (counterSection s · mine) ++ (both (regulationSection s · mine g)).map off ++ (both (stepSection s · scope g)).map off
  let others := ((List.range 8).filter fun k => !dieGone s (4 + k) && !dieGone s (k / 4)).map (off ∘ stackSection s)
    ++ (both (meshSection s)).map off
    ++ ((s.plauf.ports.filter fun e => !dieGone s (12 + e.1 / 4) && !dieGone s (e.1 / 16)).map fun e => off (portSection s e.1 e.2))
    ++ (both (thermalSection s)).map off ++ [off (cuffSection s), islandSection s]
  cores ++ shared ++ (if g then others else if s.cuff.part == some scope then [off (cuffSection s)] else [])

/-- The tower on whose side a die stands. -/
def dieTower (die : Nat) : Nat :=
  if die < 4 then die % 2 else if die < 12 then (die - 4) / 4 else if die < 20 then (die - 12) / 4 else 0

/-- Whether the trigger reaches a die as a Lining message (R552): its tower is fenced, or cut off from base die A. -/
def lateDie (s : State) (die : Nat) : Bool := s.fab.refLost.contains (dieTower die) || (s.fab.severed && dieTower die == 1)

/-- The bank a trigger latches into (R554): the lowest EMPTY one, else the lowest READ one. -/
def freeBank (s : State) : Option Nat :=
  match s.snap.banks.findIdx? (fun b => b.st == 0) with
  | some i => some i
  | none => s.snap.banks.findIdx? fun b => b.st == 2

/-- Whether a partition is in reset (R312). -/
def inReset (s : State) (p : Nat) : Bool := ((getP s p).map (·.inReset)).getD false

/-- A section's entry, with the bytes of D latched for it: none outside debug state under UNFILTERED_SNAP; else those of a core or a
memory controller, whose layout no rule gives, as free bytes of a free number (R443, R571). -/
def bankEntry (late open_ : Bool) (acc : List BankSec × List Byte × State) (x : Section) : List BankSec × List Byte × State :=
  let s := acc.2.2
  let n := if open_ && !x.unpowered && (x.kind == 1 || x.kind == 6) then takeNat s else (0, s)
  let ds := takeBytes n.2 (n.1 % 2 ^ (if x.kind = 1 then 17 else 20))
  let len (l : List Nat) : Nat := if x.unpowered then 0 else 8 * l.length
  let e : BankSec :=
    { die := x.die, kind := x.kind, unit := x.unit, season := x.season
      flags := b2n late + 2 * b2n x.unpowered + 4 * b2n x.asleep
      count := if x.unpowered then 0 else x.count.getD s.time.now
      lenC := len x.c, lenT := len x.t, lenD := ds.1.length }
  (acc.1 ++ [e], acc.2.1 ++ ds.1, ds.2)

/-- The bytes of a whole latched image, before what SNAP_READ filters (R599). -/
def imageSize (b : Bank) : Nat := 64 + 32 * b.sections.length + b.areaC.length + b.areaT.length + b.areaD.length

/-- One latch into a free bank (R551-R554): every block of the scope latches one copy, or the trigger is dropped and counted. -/
def latch (s : State) (scope source : Nat) (detail : List Nat) : State :=
  match freeBank s with
  | none => { s with snap := { s.snap with dropped := s.snap.dropped + 1 } }
  | some i =>
    let secs := sections s scope
    let shown := secs.filter fun x => !x.unpowered
    let r := secs.foldl (fun acc x => bankEntry (lateDie s x.die) (s.gnt.debug && bit s.gnt.debugScope 0 && scope == 0xFF) acc x)
      ([], [], { s with free := s.free + coreCounts })
    let b : Bank :=
      { st := 1, scope := scope, source := source, debug := s.gnt.debug, late := secs.any fun x => lateDie s x.die, tCleared := false
        time := s.time.now, dropped := s.snap.dropped, detail := detail, sections := r.1
        areaC := shown.flatMap fun x => x.c.flatMap (toLe 8), areaT := shown.flatMap fun x => x.t.flatMap (toLe 8), areaD := r.2.1 }
    { r.2.2 with snap := { s.snap with
      banks := s.snap.banks.set i { b with size := imageSize b }, dropped := 0, latches := s.snap.latches + 1 } }

/-- One Equinox; one for a partition in reset is held until the reset's end (R583). -/
def equinox (s : State) (scope source : Nat) (detail : List Nat) : State :=
  if scope ≠ 0xFF ∧ inReset s scope then { s with snap := { s.snap with heldTrigger := some (scope, source, detail) } }
  else latch s scope source detail

end Sys2Proof.Machine
end

