-- ==== Sys2Proof/Machine/Log.lean ====
section
/-! DEFINITION. The log, its records and their delivery (R80, R542-R545, R600). -/

namespace Sys2Proof.Machine

/-! The log (R80, R542-R545). -/

/-- The bytes of a payload: each field aligned to its size, then zeros to 32 bytes (R543). -/
def payloadBytes (fs : List PField) : List Byte :=
  let pack : List Byte := fs.foldl (fun (acc : List Byte) f =>
    let pad := (f.1 - acc.length % f.1) % f.1
    acc ++ List.replicate pad 0 ++ toLe f.1 f.2) []
  (pack ++ List.replicate 32 0).take 32

/-- The 64 bytes of a log record (R542). -/
def LogRec.bytes (r : LogRec) : List Byte :=
  toLe 8 r.time ++ toLe 4 (r.cls * 2 ^ 24 + r.ev) ++ toLe 1 r.die ++ toLe 1 0 ++ toLe 2 r.unit ++ toLe 2 r.season
    ++ toLe 1 r.part ++ toLe 1 ((if r.critical then 1 else 0) + (if r.event then 2 else 0)) ++ toLe 4 r.seq
    ++ toLe 8 0 ++ payloadBytes r.payload

/-- Critical events († of R544). -/
def isCritical (cls ev : Nat) : Bool :=
  ev == 0xFF || (cls, ev) ∈ [(1, 1), (1, 3), (3, 0xF), (4, 6), (5, 5), (6, 3), (6, 0xC), (7, 1), (7, 8), (7, 9), (7, 0xB),
    (7, 0xC)]

/-- Events delivered to the host (* of R544). -/
def isEvent (cls ev : Nat) : Bool :=
  ev == 0xFF || (cls, ev) ∈ [(1, 1), (1, 2), (1, 3), (1, 4), (1, 5), (1, 6), (1, 7), (1, 8), (2, 2), (3, 4), (3, 5), (3, 6),
    (3, 7), (3, 9), (3, 0xB), (3, 0xD), (3, 0xF), (3, 0x13), (3, 0x14), (3, 0x15), (3, 0x16), (3, 0x17), (4, 4), (4, 5),
    (4, 6), (4, 7), (4, 8), (4, 9), (4, 0xA), (4, 0xB), (4, 0xC), (4, 0xE), (4, 0x10), (5, 2), (5, 3), (5, 5), (5, 6), (5, 7),
    (5, 8), (6, 3), (6, 0xB), (6, 0xC), (7, 4), (7, 6), (7, 9), (7, 0xA), (7, 0xB), (7, 0xD)]

/-- Whether the host log ring takes records now (R545, R600). -/
def ringOpen (s : State) : Bool :=
  s.log.en && !s.log.writeErr && !s.log.cfgErr && (getFn s 0).bme && decide (6 ≤ s.log.sizeLog2 ∧ s.log.sizeLog2 ≤ 20)

/-- One record written to the host ring at slot sequence mod size; a failing write pauses the ring (R545, R600). -/
def ringWrite (s : State) (r : LogRec) : State :=
  if !ringOpen s || r.seq ≤ s.log.written then s
  else if !bit s.log.mask (r.cls - 1) then s
  else
    let a := s.log.base + 64 * (r.seq % 2 ^ s.log.sizeLog2)
    if hostBad s a 64 then { s with log := { s.log with writeErr := true } }
    else { (hwrite s a r.bytes) with log := { s.log with written := r.seq } }

/-- The records of the island ring that the host ring has not taken yet, written in order (R545, R600). -/
def ringDrain (s : State) : State := s.log.ring.foldl ringWrite s

/-- An event record completes the oldest parked EVENT_WAIT, or is held undelivered, or counted lost (R80). -/
def deliver (s : State) (r : LogRec) : State :=
  match s.log.parked with
  | d :: rest =>
    let s1 := { s with log := { s.log with parked := rest } }
    match getF s1 d with
    | none => s1
    | some f => endF (hwrite s1 (f.op 0x20 8) r.bytes) d (if hostBad s1 (f.op 0x20 8) 64 then stTranslation else stOk) 0
  | [] =>
    if s.log.undelivered.length < 256 then
      { s with log := { s.log with undelivered := s.log.undelivered ++ [r] } }
    else { s with log := { s.log with lost := s.log.lost + 1 } }

/-- Which fields a log record names beside its payload (R542, R625). -/
structure Who where
  die : Nat := 0xFF
  unit : Nat := 0
  season : Nat := 0
  part : Nat := 0xFF

/-- A record appended to the log (R535, R542-R545): sequence, island ring of 16,384, CRITLOG, host ring, event delivery, and an
armed FAULT source of the snapshot (R549, R550). -/
def appendRec (s : State) (r0 : LogRec) : State :=
  let r := { r0 with seq := s.log.seq }
  let ring := s.log.ring ++ [r]
  let above := ring.length - 16384
  let lostUnwritten := ((ring.take above).filter fun x => s.log.en && bit s.log.mask (x.cls - 1)
    && decide (s.log.written < x.seq)).length
  let s1 := { s with log := { s.log with
    ring := ring.drop above, seq := (if s.log.seq + 1 = 2 ^ 32 then 1 else s.log.seq + 1)
    skipped := s.log.skipped + lostUnwritten
    critlog := if r.critical then (s.log.critlog ++ [r]).drop (s.log.critlog.length + 1 - 16384) else s.log.critlog } }
  let s2 := ringWrite s1 r
  let s3 := if r.event then deliver s2 r else s2
  if r.event && bit s3.snap.armed 1 && (s3.snap.faultClass == 0 || s3.snap.faultClass == r.cls)
      && (s3.snap.scope == 0xFF || s3.snap.scope == r.part) then
    equinox { s3 with snap := { s3.snap with armed := s3.snap.armed - 2 } } s3.snap.scope 2
      [r.seq, r.cls * 2 ^ 24 + r.ev]
  else s3

/-- A log record formed now and appended; while Mitten is stopped it waits (R416, assumption 177), but for GAUNTLET_WATCHDOG, which
island hardware writes (R524). -/
def emit (s : State) (cls ev : Nat) (w : Who) (payload : List PField) : State :=
  let r : LogRec :=
    { time := s.time.now, cls := cls, ev := ev, die := w.die, unit := w.unit, season := w.season, part := w.part
      critical := isCritical cls ev, event := isEvent cls ev, seq := 0, payload := payload }
  if s.mgmt.mittenDown && !(cls == 7 && ev == 0xB) then { s with log := { s.log with held := s.log.held ++ [r] } }
  else appendRec s r

/-- The records that waited while Mitten was stopped, appended in the order they were formed. -/
def appendHeld (s : State) : State := s.log.held.foldl appendRec { s with log := { s.log with held := [] } }

/-- A record about a logical core (R625): the compute die of its tower, the core's number and its binding's Season. -/
def coreWho (s : State) (c : Nat) (p : Option Nat) : Who :=
  { die := 2 + c / 256, unit := c, season := (getBind s c).season, part := p.getD 0xFF }

end Sys2Proof.Machine
end

