-- ==== Sys2Proof/Machine/Physical.lean ====
section
/-! DEFINITION. Device memory by physical address (06, 07): the map, ownership, poison, the shared cache, and what holds an
access. -/

namespace Sys2Proof.Machine

/-! The physical map (R171, R175, R178-R180, R469, R470). -/

/-- Where a device physical address lies. -/
inductive Loc where
  | slice (n off : Nat)
  | stack (k off : Nat)
  | unbacked
deriving DecidableEq, Repr

/-- The place of a device physical address in the map of R178. -/
def locate (pa : Nat) : Loc :=
  if pa < 2 ^ 36 then .slice (pa / 2 ^ 27) (pa % 2 ^ 27)
  else if 2 ^ 38 ≤ pa ∧ pa < 2 ^ 38 + 8 * 2 ^ 37 then .stack ((pa - 2 ^ 38) / 2 ^ 37) ((pa - 2 ^ 38) % 2 ^ 37)
  else .unbacked

/-- Whether a stack is a near-bank stack (R26). -/
def nearStack (k : Nat) : Bool := k == 3 || k == 7
/-- Whether an address lies in tower B (R178). -/
def inTowerB (pa : Nat) : Bool := match locate pa with
  | .slice n _ => decide (256 ≤ n)
  | .stack k _ => decide (4 ≤ k)
  | .unbacked => false
/-- The bytes a stack backs (R26). -/
def stackSize (k : Nat) : Nat := (if nearStack k then 48 else 72) * 2 ^ 30
/-- Banks or pseudo-channels retired in a slice (0-511) or a stack (0x8000 + k) (R469). -/
def retiredIn (s : State) (target : Nat) : Nat := ((s.flt.retiredBanks ++ s.flt.outBanks).filter fun e => e.1 == target).length
/-- The bytes in service of a slice and of a stack (R469, R470). -/
def sliceLimit (s : State) (n : Nat) : Nat := (32 - retiredIn s n) * 2 ^ 22
def stackLimit (s : State) (k : Nat) : Nat := stackSize k - retiredIn s (0x8000 + k) * (stackSize k / 64)

/-- Whether an address is backed and in service (R179, R469, R470). -/
def backed (s : State) (pa : Nat) : Bool :=
  match locate pa with
  | .slice n off => bound s n && decide (off < sliceLimit s n)
  | .stack k off => decide (off < stackLimit s k)
  | .unbacked => false

/-- The grain of a stack offset (R180). -/
def grainOf (k off : Nat) : Nat := 16 * k + off / 2 ^ 33
/-- Whether a grain is backed (R426). -/
def grainBacked (g : Nat) : Bool := decide (g < 128 ∧ (g % 16) * 2 ^ 33 < stackSize (g / 16))
/-- The grain table's entry (R180, R424, R426): ANY for a backed grain that the policy does not list. -/
def grainEntry (s : State) (g : Nat) : Nat :=
  (tfind s.gnt.policy.grains g).getD (if grainBacked g then 0x80 else 0xFF)
/-- Whether a resource's zero-fill is pending (R438). -/
def sliceFilling (s : State) (n : Nat) : Bool := s.gnt.fills.any fun f => f.slices.contains n
def grainFilling (s : State) (g : Nat) : Bool := s.gnt.fills.any fun f => f.grains.contains g

/-- Whether a partition owns the memory at an address (R181); with `claim`, an unclaimed ANY grain counts as its own. -/
def owns (s : State) (p pa : Nat) (claim : Bool) : Bool :=
  match locate pa with
  | .slice n _ => coreOwner s n == some p && !sliceFilling s n
  | .stack k off =>
    let g := grainOf k off
    let e := grainEntry s g
    !grainFilling s g && (e == p || (e == 0x80 && (match tfind s.mem.grainOwner g with
      | some q => q == p
      | none => claim)))
  | .unbacked => false

/-- The partition that owns the memory at an address, for log records (R442); 0xFF for none. -/
def ownerOf (s : State) (pa : Nat) : Nat := ((tkeys s.parts).find? fun p => owns s p pa false).getD 0xFF

/-- An ANY grain claimed by the first partition that maps in it (R180). -/
def claimGrain (s : State) (p pa : Nat) : State :=
  match locate pa with
  | .stack k off =>
    let g := grainOf k off
    if grainEntry s g = 0x80 ∧ tfind s.mem.grainOwner g = none then
      { s with mem := { s.mem with grainOwner := tput s.mem.grainOwner g p } }
    else s
  | _ => s

/-- The frame number of an address, and whether its page is retired (R468). -/
def frameNo (pa : Nat) : Nat := pa / 8192
def pageRetired (s : State) (pa : Nat) : Bool := s.flt.retiredPages.contains (frameNo pa)

/-- The check of a leaf's frame at a walk (R193). `seq` says that the virtual address lies in a sequence range. -/
def frameOk (s : State) (p pa : Nat) (seq lib claim : Bool) : Bool :=
  backed s pa && !pageRetired s pa && !s.mem.tableTag.contains (frameNo pa)
    && (seq || !s.mem.kvTag.contains (frameNo pa))
    && (owns s p pa claim || (lib && (match locate pa with
      | .stack k off => grainEntry s (grainOf k off) == 0x81
      | _ => false)))

/-! Memory by physical address, with poison by 32-byte codeword (R459-R461). -/

def codeword (pa : Nat) : Nat := pa / 32
def poisoned (s : State) (pa : Nat) : Bool := s.mem.poison.contains (codeword pa)
def pread (s : State) (pa n : Nat) : List Byte := mreadN s.mem.bytes pa n

/-- A number of n bytes at a physical address. -/
def pnat (s : State) (pa n : Nat) : Nat := leNat (pread s pa n)

/-- The contents that the 32-byte units of a tier-S range have held, with those that a write of n bytes replaces put first (R187). -/
def pastOf (s : State) (pa n : Nat) : Tbl (List (List Byte)) :=
  match locate pa with
  | .stack .. => (List.range ((pa + n + 31) / 32 - pa / 32)).foldl (fun t i =>
      tput t (pa / 32 + i) (pread s (32 * (pa / 32 + i)) 32 :: (tfind t (pa / 32 + i)).getD [])) s.mem.past
  | _ => s.mem.past

/-- Bytes written from a physical address on; a codeword written whole loses its poison, one written in part keeps it
(R461). -/
def pwrite (s : State) (pa : Nat) (bs : List Byte) : State :=
  let whole (c : Nat) := decide (pa ≤ 32 * c ∧ 32 * c + 32 ≤ pa + bs.length)
  { s with mem := { s.mem with
    bytes := mwriteN s.mem.bytes pa bs, poison := s.mem.poison.filter fun c => !whole c, past := pastOf s pa bs.length } }

/-- A codeword made poison (R460, R461). -/
def pwritePoison (s : State) (c : Nat) : State :=
  if s.mem.poison.contains c then s else { s with mem := { s.mem with poison := c :: s.mem.poison } }

/-- n bytes of zeros from a physical address on: the range is unlisted, its poison cleared, and what it held before gone. -/
def pzero (s : State) (pa n : Nat) : State :=
  { s with mem := { s.mem with
    bytes := tfilter s.mem.bytes fun a _ => !decide (pa ≤ a ∧ a < pa + n)
    poison := s.mem.poison.filter fun c => !decide (pa ≤ 32 * c ∧ 32 * c + 32 ≤ pa + n)
    past := tfilter s.mem.past fun c _ => !decide (pa ≤ 32 * c ∧ 32 * c + 32 ≤ pa + n)
    behind := tfilter s.mem.behind fun l _ => !decide (pa ≤ 256 * l ∧ 256 * l + 256 ≤ pa + n) } }

/-! The shared cache (R182-R187). Memory holds the newest bytes; while a line is dirty in a cache, `behind` keeps those of the
stack's array. -/

/-- A line is about to become dirty: what its stack holds of it is kept. -/
def noteBehind (s : State) (line : Nat) : State :=
  if (tfind s.mem.behind line).isSome then s
  else { s with mem := { s.mem with behind := tput s.mem.behind line (pread s (256 * line) 256) } }

/-- n bytes within one line as its array holds them. -/
def arrayBytes (s : State) (pa n : Nat) : List Byte := match tfind s.mem.behind (pa / 256) with
  | some b => (b.drop (pa % 256)).take n
  | none => pread s pa n

/-- Whether a sector holds a line dirty. -/
def Sector.dirtyAt (x : Sector) (line : Nat) : Bool := x.block == line / 8 && bit x.dirty (line % 8)

/-- The dirty lines of cached sectors written back to their stacks. -/
def writeBack (s : State) (t : Nat → Sector → Bool) : State :=
  { s with mem := { s.mem with
    behind := tfilter s.mem.behind fun l _ => !s.mem.cache.any fun e => t e.1 e.2 && e.2.dirtyAt l } }

/-- The dirty lines of cached sectors lost: memory holds again what their stacks hold (R188). -/
def loseDirty (s : State) (t : Nat → Sector → Bool) : State :=
  s.mem.behind.foldl (fun u e =>
    if s.mem.cache.any fun c => t c.1 c.2 && c.2.dirtyAt e.1 then
      let v := pwrite u (256 * e.1) e.2
      { v with mem := { v.mem with behind := tdel v.mem.behind e.1 } }
    else u) s

/-- A line whose content a LAST read leaves undefined: each of its 32-byte units holds now some value that it has held (R187),
chosen by a free number (assumption 33). -/
def undefineLine (s : State) (line : Nat) : State :=
  let t : State := { s with mem := { s.mem with behind := tdel s.mem.behind line } }
  (List.range 8).foldl (fun u i =>
    let pa := 256 * line + 32 * i
    let had := pread u pa 32 :: (tfind u.mem.past (pa / 32)).getD []
    let n := takeNat u
    pwrite n.2 pa ((had[n.1 % had.length]?).getD [])) t

/-- Ways of a partition in a tower. -/
def waysOf (s : State) (p t : Nat) : Nat := match getP s p with
  | some x => if t = 0 then x.waysA else x.waysB
  | none => 0

/-- The set of a block, taken from its low address bits (assumption 43), and keys of a set and of a sector. -/
def setKey (t p blk : Nat) : Nat := (t * 16 + p) * 2 ^ 20 + blk % 4096 * 32
/-- The way that holds a block. -/
def findWay (s : State) (t p blk : Nat) : Option Nat :=
  (List.range (waysOf s p t)).find? fun w => match tfind s.mem.cache (setKey t p blk + w) with
    | some x => x.block == blk
    | none => false

/-- The tree bits after a use of way w: each node on its path points to the other side. Ways are the leaves of a full
tree of 32; a side without ways is passed over (assumption 43). -/
def touchBits (bits_ node lo n w : Nat) : Nat → Nat
  | 0 => bits_
  | f + 1 =>
    let half := n / 2
    let right := decide (lo + half ≤ w)
    let b := if right then (if bit bits_ node then bits_ - 2 ^ node else bits_) else if bit bits_ node then bits_ else bits_ + 2 ^ node
    if right then touchBits b (2 * node + 1) (lo + half) half w f else touchBits b (2 * node) lo half w f

/-- The way a tree points to among those allowed. -/
def walkTree (bits_ node lo n : Nat) (ok : Nat → Bool) : Nat → Nat
  | 0 => lo
  | f + 1 =>
    let half := n / 2
    let has (a : Nat) := (List.range half).any fun i => ok (a + i)
    let right := if bit bits_ node then has (lo + half) || !has lo else !has lo && has (lo + half)
    if right then walkTree bits_ (2 * node + 1) (lo + half) half ok f else walkTree bits_ (2 * node) lo half ok f

/-- A use of a way noted for replacement. -/
def touchWay (s : State) (t p blk w : Nat) : State :=
  let k := setKey t p blk
  { s with mem := { s.mem with plru := tput s.mem.plru k (touchBits ((tfind s.mem.plru k).getD 0) 1 0 32 w 5) } }

/-- A sector allocated for a block in a partition's ways (R183, R186); none without ways. The victim is a free way, else
the tree's choice among ways that do not hold KEEP, or among all when every way does. -/
def allocate (s : State) (t p blk valid dirty : Nat) (keep : Bool) : State :=
  let n := waysOf s p t
  if n = 0 then s
  else
    let k := setKey t p blk
    let at_ (w : Nat) := tfind s.mem.cache (k + w)
    let free := (List.range n).find? fun w => (at_ w).isNone
    let keeps (w : Nat) := n != 1 && ((at_ w).map (·.keep)).getD false
    let allKeep := (List.range n).all keeps
    let w := free.getD (walkTree ((tfind s.mem.plru k).getD 0) 1 0 32 (fun w => decide (w < n) && (allKeep || !keeps w)) 5)
    let others := (List.range n).filter (· != w)
    -- an allocation that would make every way KEEP demotes the least recently used one (R186)
    let demote := if keep && n != 1 && others.all keeps then
        (others.foldl (fun (b : Option (Nat × Nat)) v =>
          let u := ((at_ v).map (·.used)).getD 0
          match b with | none => some (v, u) | some y => if u < y.2 then some (v, u) else b) none).map Prod.fst
      else none
    let c1 := match demote with
      | some v => (match at_ v with | some x => tput s.mem.cache (k + v) { x with keep := false } | none => s.mem.cache)
      | none => s.mem.cache
    let s1 := writeBack s fun i _ => i == k + w
    touchWay { s1 with mem := { s1.mem with
      cache := tput c1 (k + w) { block := blk, valid := valid, dirty := dirty, keep := keep, used := s.mem.uses } } } t p blk w

/-- A line's bit within its sector. -/
def lineBit (pa : Nat) : Nat := pa / 256 % 8

/-- The hint in force for a partition's access: STREAM in a tower where it has no ways (R183). -/
def effHint (s : State) (p pa hint : Nat) : Nat := if waysOf s p (if inTowerB pa then 1 else 0) = 0 then 1 else hint

/-- What one access to a line does in its partition's ways (R185): the state, and whether the stack is read or written. Each
access takes the next number of use (R186). -/
def cacheLine (s0 : State) (p pa : Nat) (write : Bool) (hint0 : Nat) : State × Bool :=
  let t := if inTowerB pa then 1 else 0
  let blk := pa / 2048
  let hint := effHint s0 p pa hint0
  let b := lineBit pa
  let s1 : State := { s0 with mem := { s0.mem with uses := s0.mem.uses + 1 } }
  let s := if write && (hint == 0 || hint == 2 || (match findWay s1 t p blk with
      | some w => ((tfind s1.mem.cache (setKey t p blk + w)).map fun x => bit x.valid b).getD false
      | none => false)) then noteBehind s1 (pa / 256) else s1
  match findWay s t p blk with
  | some w =>
    match tfind s.mem.cache (setKey t p blk + w) with
    | none => (s, true)
    | some x =>
      let put (y : Sector) := touchWay { s with mem := { s.mem with cache := tput s.mem.cache (setKey t p blk + w) y } } t p blk w
      let hit := bit x.valid b
      if write then
        let y := { x with valid := if hit then x.valid else x.valid + 2 ^ b, dirty := if bit x.dirty b then x.dirty else x.dirty + 2 ^ b
                          keep := x.keep || hint == 2, used := s.mem.uses }
        if hit || hint = 0 || hint = 2 then (put y, false) else (s, true)
      else if hit then
        if hint = 3 then
          (put { x with valid := x.valid - 2 ^ b, dirty := if bit x.dirty b then x.dirty - 2 ^ b else x.dirty }, false)
        else if hint = 1 then (s, false)
        else (put { x with keep := x.keep || hint == 2, used := s.mem.uses }, false)
      else if hint = 0 ∨ hint = 2 then (put { x with valid := 255, keep := x.keep || hint == 2, used := s.mem.uses }, true)
      else (s, true)
  | none =>
    if hint = 0 ∨ hint = 2 then
      if write then (allocate s t p blk (2 ^ b) (2 ^ b) (hint == 2), false) else (allocate s t p blk 255 0 (hint == 2), true)
    else (s, true)

/-- The bank group of an address: 65536 × stack + 8 × pseudo-channel + group (R210, R211). -/
def groupKey (pa : Nat) : Option Nat :=
  match locate pa with
  | .stack k off => some (65536 * k + 8 * Nat.xor (bits off 11 6) (bits off 17 6) + Nat.xor (bits off 17 5) (bits off 22 5) / 4)
  | _ => none

/-! What holds an access (R179, R222, R225). -/

/-- A bank group's key, and its place in the state. -/
def bgKey (k pc g : Nat) : Nat := 65536 * k + 8 * pc + g
def getBg (s : State) (key : Nat) : BankGroup := (tfind s.mem.bank key).getD {}
def putBg (s : State) (key : Nat) (x : BankGroup) : State := { s with mem := { s.mem with bank := tput s.mem.bank key x } }

/-- Whether a line of a partition is valid in its ways. -/
def lineCached (s : State) (p pa : Nat) : Bool :=
  let t := if inTowerB pa then 1 else 0
  match findWay s t p (pa / 2048) with
  | some w => ((tfind s.mem.cache (setKey t p (pa / 2048) + w)).map fun x => bit x.valid (lineBit pa)).getD false
  | none => false

/-- Whether a window of a pseudo-channel is opening or closing now, so that no ordinary request to it issues (R222). -/
def pathBusy (s : State) (key : Nat) : Bool :=
  (List.range 8).any fun g =>
    let b := getBg s (key / 8 * 8 + g)
    b.open_ && decide (s.time.now < b.openedAt + 40 ∨ b.closeAt ≤ s.time.now + 40)

/-- The bank group that holds back an access to the array at an address, in a window or behind the command path. -/
def windowHolds (s : State) (pa : Nat) : Option Nat :=
  match groupKey pa with
  | some g => if (getBg s g).open_ || pathBusy s g then some g else none
  | none => none

/-- Whether an address lies in a slice that is being copied to a substitute (R179). -/
def underCopy (s : State) (pa : Nat) : Bool :=
  match locate pa with
  | .slice n _ => s.flt.subst.any fun u => u.core == n
  | _ => false

/-- Whether an address lies in a stack of the open Holiday that a test step is using, so that every other request to it is held until
the step ends (R560). -/
def underTest (s : State) (pa : Nat) : Bool :=
  match locate pa, s.hol.running with
  | .stack k _, some t => s.hol.open_ && bit s.hol.stackSet k && Nat.land t.set (if t.calibrate then 4 else 0xB0) != 0
  | _, _ => false

/-- Whether an access of a partition's descriptor to an address is held now. -/
def heldAt (s : State) (p pa : Nat) : Bool := underCopy s pa || underTest s pa || ((windowHolds s pa).isSome && !lineCached s p pa)

end Sys2Proof.Machine
end

