-- ==== Sys2Proof/Machine/Flits.lean ====
section
/-! DEFINITION. The bytes of what crosses a Plauf port (14): message headers, flits, and the pairs that a link's keys protect. -/

namespace Sys2Proof.Machine

/-- n bytes of a list, zeros after its end. -/
def fit (n : Nat) (bs : List Byte) : List Byte := (bs ++ List.replicate n 0).take n

/-! Messages (R401). -/

/-- The header of a message. IMP_R has the window's size, rights and counter count in the field that a SIG has its increment in
(assumption 174). -/
def msgHeader (m : RemMsg) : List Byte :=
  toLe 1 m.type ++ toLe 1 (m.cls % 8) ++ toLe 2 m.tag ++ toLe 1 (m.sendPart % 16 + 16 * m.targetPart) ++ toLe 1 m.exportId
    ++ toLe 2 (if m.type = 1 then m.increment else m.data.length / 64) ++ toLe 8 m.offset ++ toLe 4 m.streamSeq ++ toLe 1 m.status
    ++ toLe 1 (if m.type = 0x11 then 0 else m.op % 16 + 16 * m.format) ++ toLe 2 (m.epochTarget % 256 + 256 * m.epochSender)
    ++ toLe 8 (if m.type = 0x11 then m.op % 256 + 2 ^ 8 * (m.format % 256) + 2 ^ 16 * m.increment
        else if m.type = 7 then m.increment else 0)

/-- The types of messages. -/
def msgTypes : List Nat := [1, 2, 3, 4, 5, 6, 7, 8, 0x10, 0x11]

/-- Bytes of data that follow a header: an RD asks for its units and carries none. -/
def msgData (b : List Byte) : Nat := if fld b 0 1 = 1 then 0 else 64 * min 32 (fld b 6 2)

/-- The message that bytes begin with. -/
def msgOf (b : List Byte) : RemMsg :=
  let type := fld b 0 1
  let w := fld b 0x18 8
  let imp := type == 0x11
  { type := type, cls := fld b 1 1 % 8, tag := fld b 2 2, sendPart := fld b 4 1 % 16, targetPart := fld b 4 1 / 16, exportId := fld b 5 1
    offset := fld b 8 8 % 2 ^ 40, streamSeq := fld b 0x10 4, status := fld b 0x14 1
    op := if imp then bits w 0 8 else fld b 0x15 1 % 16, format := if imp then bits w 8 8 else fld b 0x15 1 / 16
    epochTarget := fld b 0x16 1, epochSender := fld b 0x17 1
    increment := if imp then bits w 16 11 else if type = 1 then min 32 (fld b 6 2) else w
    data := (b.drop 32).take (msgData b) }

/-! Flits (R385, R387, R388). -/

/-- What one flit carries: its type, where its first message starts, and its body. -/
structure FlitBody where
  type : Nat
  first : Nat
  body : List Byte

/-- An IDLE flit. -/
def idleBody : FlitBody := { type := 0, first := 0xFF, body := List.replicate 240 0 }

/-- The flits of a message, the first of which it starts (assumption 174). -/
def msgFlits (m : RemMsg) : List FlitBody :=
  (chunks 240 (msgHeader m ++ m.data)).zipIdx.map fun e => { type := 1, first := if e.2 = 0 then 0 else 0xFF, body := fit 240 e.1 }

/-- Credit units that a port's next flit returns (R391). -/
def owedNow (x : Port) : List Nat := x.owed.map (min 255)

/-- The header of a flit of a port. -/
def flitHead (x : Port) (type seq first : Nat) (credit : List Nat) : List Byte :=
  toLe 4 (type % 16 + 2 ^ 4 * (seq % 4096) + 2 ^ 16 * ((x.seqExp + 4095) % 4096) + (if x.nak then 2 ^ 28 else 0) + (if x.phase then 2 ^ 29 else 0))
    ++ ([0, 1, 2].flatMap fun i => toLe 1 ((credit[i]?).getD 0)) ++ toLe 1 first

/-- The CRC-64 of a plain flit's trailer, most significant bit first from 0 (R387, assumption 174). -/
def crc64Step : Nat → Nat → Nat
  | 0, c => c
  | n + 1, c => crc64Step n (if 2 ^ 63 ≤ c then Nat.xor (2 * c % 2 ^ 64) 0x42F0E1EBA9EA3693 else 2 * c)
def crc64 (bs : List Byte) : Nat := bs.foldl (fun c b => crc64Step 8 (Nat.xor c (b.toNat * 2 ^ 56))) 0

/-- The IV of a pair: the direction's salt and the count of pairs under its key (R388). -/
def pairIv (salt count : Nat) : List Byte := toLe 4 salt ++ toLe 8 count

/-- A pair's two flits: both bodies encrypted, both headers authenticated, half of the tag in each trailer (R388). -/
def sealPair (key salt count : Nat) (h0 h1 body : List Byte) : List (List Byte) :=
  let ct := fit 480 (gcmCrypt key (pairIv salt count) body)
  let tag := fit 16 (Config.gcmTag key (pairIv salt count) (h0 ++ h1) ct)
  [h0 ++ ct.take 240 ++ tag.take 8, h1 ++ ct.drop 240 ++ tag.drop 8]

/-- The parts of a flit. -/
def flitHeader (b : List Byte) : List Byte := b.take 8
def flitBody (b : List Byte) : List Byte := (b.drop 8).take 240
def flitTrailer (b : List Byte) : List Byte := b.drop 0xF8

/-- The bodies of a received pair, none where its tag fails. -/
def openPair (key salt count : Nat) (a b : List Byte) : Option (List Byte) :=
  let ct := flitBody a ++ flitBody b
  if fit 16 (Config.gcmTag key (pairIv salt count) (flitHeader a ++ flitHeader b) ct) = flitTrailer a ++ flitTrailer b then
    some (fit 480 (gcmCrypt key (pairIv salt count) ct))
  else none

/-- The key and the salt of a direction: 0 sends, 1 receives (R393). -/
def linkKey (x : Port) (dir : Nat) : Nat := (x.keys[dir]?).getD 0
def linkSalt (x : Port) (dir : Nat) : Nat := (x.salts[dir]?).getD 0

/-- A pair sent on a port, kept until it is acknowledged (R388, R389). -/
def sendPair (s : State) (p : Nat) (a b : FlitBody) : State :=
  let x := getPort s p
  let h0 := flitHead x a.type x.txSeq a.first (owedNow x)
  let h1 := flitHead x b.type (x.txSeq + 1) b.first []
  let l := sealPair (linkKey x 0) (linkSalt x 0) x.txPairs h0 h1 (a.body ++ b.body)
  let s1 := putPort s p { x with
    txSeq := (x.txSeq + 2) % 4096, txPairs := x.txPairs + 1, owed := x.owed.map fun n => n - min 255 n
    unacked := x.unacked ++ l.zipIdx.map fun e => ((x.txSeq + e.2) % 4096, e.1) }
  { s1 with plauf := { s1.plauf with wire := s1.plauf.wire ++ l.map fun b => (p, b) } }

/-- Flits sent on a port, an IDLE flit making up the last pair. -/
def sendFlits (s : State) (p : Nat) : List FlitBody → State
  | [] => s
  | [a] => sendPair s p a idleBody
  | a :: b :: r => sendFlits (sendPair s p a b) p r

/-- The unacknowledged flits of a port sent again, as they were first sent (R389). -/
def resendFlits (s : State) (p : Nat) : State :=
  { s with plauf := { s.plauf with wire := s.plauf.wire ++ (getPort s p).unacked.map fun e => (p, e.2) } }

/-- Wavelengths of a port in service: neither retired nor dark (R344, R384). -/
def portWaves (s : State) (p : Nat) : Nat :=
  ((List.range 16).filter fun w => !(getPort s p).retiredWaves.contains w && !s.plauf.lowLines.contains (p / 4, w)).length

end Sys2Proof.Machine
end

