-- ==== Sys2Proof/Machine/Operands.lean ====
section
/-! DEFINITION. Where operands lie: page tables and translation (06), memory accesses with poison, messages to a neighbour for
remote leaves (14), and tensor records (R66-R68). -/

namespace Sys2Proof.Machine

/-! Page tables (R189-R192). -/

/-- Fields of a page-table entry (R191). -/
def pteV (e : Nat) : Bool := bit e 0
def pteKind (e : Nat) : Nat := bits e 1 2
def pteW (e : Nat) : Bool := bit e 3
def pteLib (e : Nat) : Bool := bit e 4
def pteFrame (e : Nat) : Nat := bits e 13 31 * 8192
def pteWpage (e : Nat) : Nat := bits e 16 32
def pteImport (e : Nat) : Nat := bits e 48 8
/-- A local leaf, a table entry and a remote leaf. -/
def mkLeaf (pa : Nat) (w lib kvp : Bool) : Nat :=
  3 + (if w then 8 else 0) + (if lib then 16 else 0) + (if kvp then 32 else 0) + pa / 8192 * 8192
def mkTable (pa : Nat) : Nat := 1 + pa / 8192 * 8192
def mkRemote (imp wpage : Nat) (w kvp : Bool) : Nat :=
  5 + (if w then 8 else 0) + (if kvp then 32 else 0) + wpage * 2 ^ 16 + imp * 2 ^ 48

/-- The low virtual-address bit of a level's index (R190). -/
def levelBit (l : Nat) : Nat := 13 + 10 * l
/-- The index of an address at levels 0-2. -/
def levelIdx (va l : Nat) : Nat := va / 2 ^ levelBit l % 1024

/-- The root entry of an address. -/
def rootOf (s : State) (p va : Nat) : Nat := (tfind s.mem.roots (32 * p + va / 2 ^ 43 % 32)).getD 0

/-- A walk from a table page at a level: the valid leaf and its level (R190). -/
def walkFrom (s : State) (table va : Nat) : Nat → Option (Nat × Nat)
  | 0 =>
    let e := pnat s (table + 8 * levelIdx va 0) 8
    if pteV e && (pteKind e == 1 || pteKind e == 2) then some (e, 0) else none
  | l + 1 =>
    let e := pnat s (table + 8 * levelIdx va (l + 1)) 8
    if !pteV e then none
    else if pteKind e = 0 then walkFrom s (pteFrame e) va l
    else if pteKind e = 1 then some (e, l + 1) else none

/-- Whether a virtual address lies in the library range (R189). -/
def inLibrary (va : Nat) : Bool := decide (0x7F0000000000 ≤ va ∧ va < 2 ^ 47)

/-- The leaf of a library address, which Gauntlet maps from the owner policy (R428): writable for the entry's writer,
LIB for its readers once no writer is named (assumption 38). -/
def libLeaf (s : State) (p va : Nat) : Option (Nat × Nat) :=
  if (getP s p).isNone then none
  else (s.gnt.policy.library.find? fun e => decide (e.2.va ≤ va ∧ va < e.2.va + e.2.len)
      && (e.2.writer == p || (e.2.writer == 0xFF && bit e.2.readers p))).map fun e =>
    let pa := 2 ^ 38 + e.2.grain / 16 * 2 ^ 37 + e.2.grain % 16 * 2 ^ 33 + e.2.off + (va - e.2.va) / 2 ^ 23 * 2 ^ 23
    (mkLeaf pa (e.2.writer == p) (e.2.writer != p) false, 1)

/-- The leaf that a virtual address reaches. -/
def leafOf (s : State) (p va : Nat) : Option (Nat × Nat) :=
  if 2 ^ 48 ≤ va then none
  else if inLibrary va then libLeaf s p va
  else
    let r := rootOf s p va
    if pteV r then walkFrom s (pteFrame r) va 2 else none

/-- A translated byte: local, or at an offset of an imported window. -/
inductive Xl where
  | loc (pa : Nat) (w : Bool)
  | rem (imp off : Nat) (w : Bool)
deriving DecidableEq, Repr

/-- Why an access stops: an untranslated address, a leaf that is not writable, poison, a remote byte not
brought yet, an array or slice that holds accesses now (R179, R225), a pool (or, with the flag, a table pool) that is empty, with the kinds of the frames needed, or a status of
its own. -/
inductive Stop where
  | trans (va : Nat)
  | denied (va : Nat)
  | poison
  | need (va : Nat)
  | wait
  | pool (needs : List Nat) (table : Bool)
  | st (code : Nat)
deriving DecidableEq, Repr

/-- Translation of one byte of a partition's space with the check of R193 (R190-R196). -/
def xlate (s : State) (p va : Nat) : Except Stop Xl :=
  match leafOf s p va with
  | none => .error (.trans va)
  | some (e, l) =>
    if pteKind e = 2 then .ok (.rem (pteImport e) (pteWpage e * 8192 + va % 8192) (pteW e))
    else
      let pa := pteFrame e + va % 2 ^ levelBit l
      if s.fab.severed && inTowerB pa then .error (.st stOffline)
      else if frameOk s p pa (decide (2 ^ 47 ≤ va)) (inLibrary va) false then .ok (.loc pa (pteW e))
      else .error (.trans va)

/-- A list of results in order, stopping at the first error. -/
def seqE {ε α : Type} : List (Except ε α) → Except ε (List α)
  | [] => .ok []
  | .error e :: _ => .error e
  | .ok a :: r => match seqE r with
    | .error e => .error e
    | .ok l => .ok (a :: l)

/-- The access context of a descriptor: its partition, its number, the remote bytes brought for it, and the row count of
the step that replays it (R318). -/
structure Cx where
  part : Nat
  desc : Nat
  rem : Tbl Byte
  rows : Option Nat := none

/-- The pairing of a partition's handle (R445). -/
def pairingOf (s : State) (p handle : Nat) : Option Pairing := tfind s.gnt.policy.pairings (64 * p + handle)
/-- An import of a partition (R399). -/
def importOf (s : State) (p slot : Nat) : Option Import := tfind s.plauf.imports (256 * p + slot)
/-- Whether an import slot is bound, its pairing stands and it holds a right (R403, R446). -/
def importAllows (s : State) (p slot right : Nat) : Bool :=
  match importOf s p slot with
  | some im => im.bound && bit im.rights right && (pairingOf s p im.handle).isSome
  | none => false

/-- One byte at a virtual address. -/
def vbyte (s : State) (cx : Cx) (va : Nat) : Except Stop Byte :=
  match xlate s cx.part va with
  | .error e => .error e
  | .ok (.loc pa _) => if heldAt s cx.part pa then .error .wait else if poisoned s pa then .error .poison
    else .ok (mread s.mem.bytes pa)
  | .ok (.rem imp ..) => match tfind cx.rem va with
    | some b => .ok b
    | none => if importAllows s cx.part imp 0 then .error (.need va) else .error (.st stPermission)

/-- n bytes at a virtual address. -/
def vread (s : State) (cx : Cx) (va n : Nat) : Except Stop (List Byte) :=
  seqE ((List.range n).map fun i => vbyte s cx (va + i))

/-- n bytes at a virtual address, each with whether its codeword is poisoned; a poisoned byte reads as zero (R461). -/
def vreadP (s : State) (cx : Cx) (va n : Nat) : Except Stop (List (Byte × Bool)) :=
  seqE ((List.range n).map fun i => match vbyte s cx (va + i) with
    | .error .poison => .ok ((0 : Byte), true)
    | .error e => .error e
    | .ok b => .ok (b, false))

/-! Messages to a neighbour (R391, R401, R405, R407). -/

/-- The 64-byte units of a message that count against credit. -/
def msgUnits (m : RemMsg) : Nat := (32 + m.data.length + 63) / 64
/-- The virtual channel of a message (R391). -/
def msgVc (m : RemMsg) : Nat :=
  if m.type = 2 ∨ m.type = 4 ∨ m.type = 6 ∨ m.type = 8 ∨ m.type = 0x11 then 1 else if m.cls ≤ 1 then 2 else 0
/-- The UP ports of a neighbour's group (R396). -/
def groupOf (s : State) (hash : Nat) : List Nat :=
  (s.plauf.ports.filter fun e => e.2.st == .up && e.2.farHash == hash).map Prod.fst
/-- The ports of a group in hash order for a message, from the one that the hash of its export and 2 KiB block chooses, weighted by
the wavelengths in service (R407). -/
def portOrder (s : State) (g : List Nat) (m : RemMsg) : List Nat :=
  let seats := g.flatMap fun p => List.replicate (portWaves s p) p
  match seats[Config.portHash m.exportId (m.offset / 2048) % max 1 seats.length]? with
  | none => g
  | some p => g.dropWhile (· != p) ++ g.takeWhile (· != p)
/-- Whether a port's sending key is within 1 s of its limit of 10 minutes or of 2^34 pairs, at the full rate of R386, so that it stops
sending DATA (R394). -/
def keyDue (s : State) (x : Port) : Bool := decide (x.keySince + 599000000000 ≤ s.time.now ∨ 2 ^ 34 ≤ x.txPairs + 833500000)
/-- The first port of the group in hash order with credit for a message and room for its flits among those unacknowledged (R389,
R391, R407); one whose keys fall due sends none (R394), nor does one across a severed fabric (R366). -/
def choosePort (s : State) (hash : Nat) (m : RemMsg) : Option Nat :=
  (portOrder s (groupOf s hash) m).find? fun p =>
    let x := getPort s p
    decide (msgUnits m ≤ (x.credits[msgVc m]?).getD 0 ∧ x.unacked.length + (msgFlits m).length < 2048) && !keyDue s x
      && !(s.fab.severed && decide (16 ≤ p))
/-- A message put on a port, taking its credit: its flits leave (R385, R388). -/
def putOn (s : State) (p : Nat) (m : RemMsg) : State :=
  let x := getPort s p
  let c := x.credits.set (msgVc m) ((x.credits[msgVc m]?).getD 0 - msgUnits m)
  let s1 := sendFlits (putPort s p { x with credits := c }) p (msgFlits m)
  { s1 with plauf := { s1.plauf with sent := s1.plauf.sent ++ [(p, m)] } }
/-- A stream's key: the neighbour, the sending partition and the target partition (R405). -/
def streamKey (hash p far : Nat) : Nat := hash * 256 + p * 16 + far
/-- The sender half of a partition's stream epoch (R405). -/
def senderHalf (s : State) (p : Nat) : Nat := (tfind s.plauf.senderEpoch p).getD 0
/-- Messages of one stream that are unanswered (R405). -/
def unanswered (s : State) (p handle : Nat) : Nat :=
  (s.plauf.out.filter fun e => e.2.part == p && e.2.handle == handle && e.2.port != 255).length

/-- An unsent message put on a port of its group, if one has credit and the stream admits it (R391, R405, R407); while the
group is empty the time it is held from is kept (R408). -/
def trySend (s : State) (n : Nat) : State :=
  match tfind s.plauf.out n with
  | none => s
  | some o =>
    match (if o.kind = 8 then some o.local_ else (pairingOf s o.part o.handle).map (·.farHash)) with
    | none => s
    | some hash =>
      match choosePort s hash o.msg with
      | none =>
        if (groupOf s hash).isEmpty ∧ (tfind s.plauf.lostSince hash).isNone then
          { s with plauf := { s.plauf with lostSince := tput s.plauf.lostSince hash s.time.now } }
        else s
      | some p =>
        if o.kind = 8 then
          let s1 := putOn s p o.msg
          { s1 with plauf := { s1.plauf with out := tdel s1.plauf.out n } }
        else if 4096 ≤ unanswered s o.part o.handle then s
        else
          let s1 := putOn s p o.msg
          { s1 with plauf := { s1.plauf with out := tput s1.plauf.out n { o with port := p, sentAt := s.time.now } } }

/-- A request of a descriptor or of the page keeper sent through an import slot: WR, ATOM and SIG take the next number
of their stream (R401, R404, R405). Data that holds poison leaves with the status POISON (R461). -/
def request (s : State) (desc p slot type : Nat) (cls kind local_ offset op format increment : Nat)
    (data : List Byte) (status : Nat := 0) : State :=
  match importOf s p slot with
  | none => s
  | some im =>
    match pairingOf s p im.handle with
    | none => s
    | some pr =>
      let n := s.plauf.nextReq
      let key := streamKey pr.farHash p pr.farPart
      let st := (tfind s.plauf.streamsOut key).getD {}
      let seqd := type == 3 || type == 5 || type == 7
      let m : RemMsg :=
        { type := type, cls := cls, tag := n % 65536, sendPart := p, targetPart := pr.farPart
          exportId := im.exportId, offset := offset, streamSeq := if seqd then st.next else 0, status := status, op := op
          format := format, epochSender := senderHalf s p, epochTarget := st.target, increment := increment, data := data }
      let so := if seqd then tput s.plauf.streamsOut key { st with next := (st.next + 1) % 2 ^ 32 } else s.plauf.streamsOut
      let o : OutReq := { desc := desc, part := p, handle := im.handle, msg := m, port := 255, sentAt := s.time.now,
                          local_ := local_, kind := kind }
      trySend { s with plauf := { s.plauf with out := tput s.plauf.out n o, nextReq := n + 1, streamsOut := so } } n

/-- Whether a descriptor waits for answers to its messages (R404); the write-through of a commit is not waited for (R582). -/
def hasOut (s : State) (d : Nat) : Bool :=
  s.plauf.out.any fun e => e.2.desc == d && e.2.kind != 3 && e.2.kind != 5 && e.2.kind != 6

/-! Writes by virtual address. -/

/-- The 64-byte unit of an imported window that holds a virtual address, as it will be after a write: bytes of the write
where it covers them, else bytes brought before. -/
def remUnit (cx : Cx) (va0 va : Nat) (bs : List Byte) : Except Stop (List Byte) :=
  let u := va / 64 * 64
  seqE ((List.range 64).map fun i =>
    if va0 ≤ u + i ∧ u + i < va0 + bs.length then .ok ((bs[u + i - va0]?).getD 0)
    else match tfind cx.rem (u + i) with
      | some b => .ok b
      | none => .error (.need u))

/-- Bytes with their addresses, in order, as runs that lie together in one codeword: a codeword written whole is one run. -/
def byteRuns : List (Nat × Byte) → List (Nat × List Byte)
  | [] => []
  | (pa, b) :: r =>
    match byteRuns r with
    | [] => [(pa, [b])]
    | (pb, bs) :: rest => if pb = pa + 1 ∧ pb % 32 ≠ 0 then (pa, b :: bs) :: rest else (pa, [b]) :: (pb, bs) :: rest

/-- Bytes written at a virtual address: every byte must translate to a writable leaf, else nothing is written (R196).
Bytes in a remote leaf leave as WR messages of 64-byte units (R402); the units of `bad` hold poison (R461). -/
def vwrite (s : State) (cx : Cx) (va : Nat) (bs : List Byte) (bad : List Nat := []) : Except Stop State :=
  match seqE ((List.range bs.length).map fun i => match xlate s cx.part (va + i) with
    | .error e => .error e
    | .ok (.loc pa w) => if !w then .error (.denied (va + i)) else if heldAt s cx.part pa then .error .wait else .ok (i, some pa)
    | .ok (.rem imp _ w) =>
      if !w then .error (.denied (va + i)) else if importAllows s cx.part imp 1 then .ok (i, none) else .error (.st stPermission)) with
  | .error e => .error e
  | .ok l =>
    let units := (l.filterMap fun e => if e.2.isNone then some ((va + e.1) / 64) else none).eraseDups
    match seqE (units.map fun u => remUnit cx va (64 * u) bs) with
    | .error e => .error e
    | .ok datas =>
      let s1 := (byteRuns (l.filterMap fun e => e.2.map fun pa => (pa, (bs[e.1]?).getD 0))).foldl
        (fun t e => pwrite t e.1 e.2) s
      .ok ((units.zip datas).foldl (fun (t : State) ud =>
        match xlate s cx.part (64 * ud.1) with
        | .ok (.rem imp off _) =>
          request t cx.desc cx.part imp 3 (((getF s cx.desc).map Flight.cls).getD 6) 2 0 off 0 0 0 ud.2 (if bad.contains ud.1 then 2 else 0)
        | _ => t) s1)

/-! Ending a descriptor. -/

/-- The access context of a held descriptor. -/
def cxOf (s : State) (f : Flight) (d : Nat) : Cx :=
  { part := f.part, desc := d, rem := f.remote
    rows := match f.stepOf with
      | none => none
      | some k => (tfind s.steps.runs k).map (·.rows) }

/-- The status and log record of a stop (R196, R461, R468); a need for remote bytes sends the RD of their unit and
leaves the descriptor running (R402), and an access that is held leaves it to be tried again (R179, R225). -/
def stopWith (s : State) (d : Nat) (x : Stop) (extra : Nat := 0) : State :=
  match getF s d with
  | none => s
  | some f =>
    let w : Who := { part := f.part }
    match x with
    | .trans va => endF (emit s 3 1 w [(8, va)]) d stTranslation extra
    | .denied va => endF (emit s 3 2 w [(8, va)]) d stPermission extra
    | .poison => endF s d stPoisoned extra
    | .wait => s
    | .st c => endF s d c extra
    | .pool needs table =>
      -- the stopped work waits for POOL_RESTART (R267); a child of a STEP stops its step
      let s1 := emit s 3 6 w []
      let s2 := if table then emit s1 3 3 w [] else s1
      let top := f.stepOf.getD d
      let s3 := putPool s2 f.part { getPool s2 f.part with
        stopped := (getPool s2 f.part).stopped.filter (fun e => e.1 != top) ++ [(top, needs, table)] }
      match f.stepOf with
      | some _ => endF s3 d stPreempted 0
      | none => putF s3 d { f with phase := .stopped }
    | .need va =>
      let u := va / 64 * 64
      if s.plauf.out.any (fun e => e.2.desc == d && e.2.kind == 1 && e.2.local_ == u) then s
      else match xlate s f.part u with
        | .ok (.rem imp off _) =>
          match importOf s f.part imp with
          | some im => if importAllows s f.part imp 0 && im.bound then
              request s d f.part imp 1 f.cls 1 u off 0 0 1 []
            else endF s d stPermission 0
          | none => endF s d stPermission 0
        | _ => s

/-- The descriptor of an operation that has started and has this opcode: the operation runs; otherwise nothing happens
(assumption 7). -/
def withOp (s : State) (d op : Nat) (k : Flight → State) : State :=
  match getF s d with
  | none => s
  | some f => if f.phase == .started && f.opcode == op then k f else s

/-- A result that ends the descriptor OK with an extra field, or stops it. The extra of an operation that runs on no core is 0, a
choice (R69, assumption 53). -/
def finishE (s : State) (d extra : Nat) : Except Stop State → State
  | .ok t => endF t d stOk extra
  | .error x => stopWith s d x

/-! Tensor records (R66-R68). -/

/-- A tensor record. -/
structure Tensor where
  base : Nat
  scale : Nat
  fmt : Nat
  hint : Nat
  place : Nat
  ext : List Nat
  str : List Nat
deriving DecidableEq, Repr

/-- Elements of a tensor. -/
def Tensor.count (t : Tensor) : Nat := t.ext.foldl (· * ·) 1
/-- The innermost extent. -/
def Tensor.e0 (t : Tensor) : Nat := (t.ext.head?).getD 1
/-- Bytes of one innermost row. -/
def Tensor.rowBytes (t : Tensor) : Nat := t.e0 * nibbles t.fmt / 2
/-- Bytes of the elements. -/
def Tensor.bytes (t : Tensor) : Nat := t.count * nibbles t.fmt / 2
/-- Scale bytes of one innermost row (R67). -/
def Tensor.rowScales (t : Tensor) : Nat := (t.e0 + 31) / 32

/-- A tensor record read from its 64 bytes, or MALFORMED (R68). -/
def parseTensor (b : List Byte) : Option Tensor :=
  let base := fld b 0 8
  let scale := fld b 8 8
  let fmt := fld b 0x10 1
  let shape := fld b 0x11 1
  let rank := shape % 8
  let ext := (List.range 5).map fun i => fld b (0x14 + 4 * i) 4
  let str := (List.range 4).map fun i => fld b (0x28 + 6 * i) 6
  let place := bits shape 5 2
  if base < 2 ^ 48 ∧ fmtOk fmt ∧ 1 ≤ rank ∧ rank ≤ 5 ∧ shape < 128 ∧ place < 3 ∧ zeroAt b 0x12 2
      ∧ (ext.take rank).all (· != 0) ∧ (ext.drop rank).all (· == 0) ∧ (str.drop (rank - 1)).all (· == 0)
      ∧ (if fmt = 0x10 then (ext.head?).getD 0 % 2 = 0 else base % (nibbles fmt / 2) = 0)
      ∧ (isMx fmt ∨ scale = 0) then
    some { base := base, scale := scale, fmt := fmt, hint := bits shape 3 2, place := place, ext := ext.take rank
           str := str.take (rank - 1) }
  else none

/-- A record of n bytes at an aligned, non-zero address (R68). -/
def recordAt (s : State) (cx : Cx) (va n align : Nat) : Except Stop (List Byte) :=
  if va = 0 ∨ va % align ≠ 0 then .error (.st stMalformed) else vread s cx va n

/-- The rows marker of a tensor record: the outermost extent stands for the step's rows; outside a replay it is
MALFORMED (R318). -/
def Tensor.withRows (t : Tensor) (rows : Option Nat) : Option Tensor :=
  if (t.ext.getLast?).getD 0 = 0xFFFFFFFF then rows.map fun r => { t with ext := t.ext.dropLast ++ [r] } else some t

/-- The tensor record at a pointer (R66, R68, R318). -/
def tensorAt (s : State) (cx : Cx) (va : Nat) : Except Stop Tensor :=
  match recordAt s cx va 64 64 with
  | .error e => .error e
  | .ok b => match (parseTensor b).bind (·.withRows cx.rows) with
    | none => .error (.st stMalformed)
    | some t => .ok t

/-- Byte offsets of a tensor's innermost rows, in row-major order. -/
def rowOffs : List (Nat × Nat) → List Nat
  | [] => [0]
  | (e, st) :: r => (rowOffs r).flatMap fun o => (List.range e).map fun i => o + i * st

/-- The addresses of a tensor's innermost rows. -/
def Tensor.rows (t : Tensor) : List Nat := (rowOffs ((t.ext.drop 1).zip t.str)).map (t.base + ·)

/-- The virtual addresses of a tensor's elements, in order. -/
def elemVas (t : Tensor) : List Nat := t.rows.flatMap fun a => (List.range t.e0).map fun i => a + i * (nibbles t.fmt / 2)

/-- Element codes of a row's bytes (R90). -/
def unpack (fmt : Nat) (b : List Byte) : List Nat :=
  if fmt = 0x10 then b.flatMap fun x => [x.toNat % 16, x.toNat / 16]
  else (chunks (nibbles fmt / 2) b).map leNat

/-- Pairs of half bytes. -/
def nibblePairs : List Nat → List Byte
  | a :: b :: r => BitVec.ofNat 8 (a % 16 + 16 * (b % 16)) :: nibblePairs r
  | [a] => [BitVec.ofNat 8 (a % 16)]
  | [] => []

/-- The bytes of a row's element codes. -/
def packRow (fmt : Nat) (l : List Nat) : List Byte :=
  if fmt = 0x10 then nibblePairs l else l.flatMap (toLe (nibbles fmt / 2))

/-- The bytes of a tensor's scale array (R67). -/
def Tensor.scaleBytes (t : Tensor) : Nat := t.count / t.e0 * t.rowScales

/-- The places that n bytes from a virtual address occupy, page by page: physical addresses, and imported windows above
2^60. -/
def placesOf (s : State) (cx : Cx) (va n : Nat) : List (Nat × Nat) :=
  if n = 0 then []
  else (List.range ((va + n - 1) / 8192 - va / 8192 + 1)).filterMap fun i =>
    let lo := max va ((va / 8192 + i) * 8192)
    let hi := min (va + n) ((va / 8192 + i + 1) * 8192)
    match xlate s cx.part lo with
    | .ok (.loc pa _) => some (pa, pa + (hi - lo))
    | .ok (.rem imp off _) => some (2 ^ 60 + imp * 2 ^ 50 + off, 2 ^ 60 + imp * 2 ^ 50 + off + (hi - lo))
    | .error _ => none

/-- The places of a tensor's elements and scales. -/
def Tensor.places (s : State) (cx : Cx) (t : Tensor) : List (Nat × Nat) :=
  (t.rows.flatMap fun a => placesOf s cx a t.rowBytes)
    ++ (if isMx t.fmt then placesOf s cx t.scale t.scaleBytes else [])

/-- The 256-byte lines of tier S among places. -/
def linesOf (l : List (Nat × Nat)) : List Nat :=
  (l.flatMap fun e => match locate e.1 with
    | .stack .. => (List.range ((e.2 + 255) / 256 - e.1 / 256)).map fun i => e.1 / 256 + i
    | _ => []).eraseDups

/-- A tensor operand read through its partition's ways under its hint; after a LAST read its lines hold undefined content
(R185, R187). -/
def touchRead (s : State) (cx : Cx) (t : Tensor) : State :=
  (linesOf (t.places s cx)).foldl (fun u l =>
    let c := (cacheLine u cx.part (256 * l) false t.hint).1
    if effHint u cx.part (256 * l) t.hint = 3 then undefineLine c l else c) s

/-- Bytes of a tensor operand written under its hint (R185). -/
def vwriteH (s : State) (cx : Cx) (hint va : Nat) (bs : List Byte) (bad : List Nat := []) : Except Stop State :=
  vwrite ((linesOf (placesOf s cx va bs.length)).foldl (fun u l => (cacheLine u cx.part (256 * l) true hint).1) s) cx va bs bad

/-- Bytes of an operand written at a virtual address; the codeword of each flagged byte becomes poison, and a remote unit that holds one
is sent as poison (R461, assumption 52). -/
def vwriteP (s : State) (cx : Cx) (hint va : Nat) (bs : List (Byte × Bool)) : Except Stop State :=
  let bad := (bs.zipIdx.filterMap fun e => if e.1.2 then some ((va + e.2) / 64) else none).eraseDups
  (vwriteH s cx hint va (bs.map Prod.fst) bad).map fun t =>
    bs.zipIdx.foldl (fun u (b, i) =>
      if !b.2 then u
      else match xlate u cx.part (va + i) with
        | .ok (.loc pa _) => pwritePoison u (codeword pa)
        | _ => u) t

/-- A tensor's element codes and, for each, its block's scale byte (0 for a format without scales), row-major. -/
def readT (s : State) (cx : Cx) (t : Tensor) : Except Stop (List (Nat × Nat)) :=
  match seqE (t.rows.zipIdx.map fun (a, r) =>
    match vread s cx a t.rowBytes with
    | .error e => .error e
    | .ok b =>
      if isMx t.fmt then
        match vread s cx (t.scale + r * t.rowScales) t.rowScales with
        | .error e => .error e
        | .ok sc => .ok ((unpack t.fmt b).zipIdx.map fun (v, i) => (v, ((sc[i / 32]?).getD 0).toNat))
      else .ok ((unpack t.fmt b).map fun v => (v, 0))) with
  | .error e => .error e
  | .ok l => .ok l.flatten

/-- A tensor's exact values (R87, R90) and its values widened to binary32 (R100). -/
def valuesT (s : State) (cx : Cx) (t : Tensor) : Except Stop (List Fv) :=
  (readT s cx t).map fun l => l.map fun e => elemVal t.fmt e.1 e.2
def widenT (s : State) (cx : Cx) (t : Tensor) : Except Stop (List Nat) :=
  (readT s cx t).map fun l => l.map fun e => widen t.fmt e.1 e.2

/-- States threaded through a list, stopping at the first error. -/
def foldE {α : Type} (f : State → α → Except Stop State) : State → List α → Except Stop State
  | s, [] => .ok s
  | s, a :: r => match f s a with
    | .error e => .error e
    | .ok t => foldE f t r

/-- The bytes of a tensor's rows with their poison, and those of its scales (R461). -/
def rowsP (s : State) (cx : Cx) (t : Tensor) : Except Stop (List (List (Byte × Bool))) :=
  seqE (t.rows.map fun a => vreadP s cx a t.rowBytes)
/-- Rows of bytes with their poison written to a tensor. -/
def writeRowsP (s : State) (cx : Cx) (t : Tensor) (rows : List (List (Byte × Bool))) : Except Stop State :=
  foldE (fun u (e : Nat × List (Byte × Bool)) => vwriteP u cx t.hint e.1 e.2) s (t.rows.zip rows)

/-- As readT, each element with whether it or its scale held poison (R461). -/
def readTP (s : State) (cx : Cx) (t : Tensor) : Except Stop (List ((Nat × Nat) × Bool)) :=
  match seqE (t.rows.zipIdx.map fun (a, r) =>
    match vreadP s cx a t.rowBytes with
    | .error e => .error e
    | .ok b =>
      let per := if t.fmt = 0x10 then 1 else nibbles t.fmt / 2
      let two := if t.fmt = 0x10 then 2 else 1
      let codes := (unpack t.fmt (b.map Prod.fst)).zipIdx.map fun (v, i) =>
        (v, ((b.drop (i / two * per)).take per).any Prod.snd)
      if isMx t.fmt then
        match vreadP s cx (t.scale + r * t.rowScales) t.rowScales with
        | .error e => .error e
        | .ok sc => .ok (codes.zipIdx.map fun (v, i) =>
          let x := (sc[i / 32]?).getD (0, false)
          ((v.1, x.1.toNat), v.2 || x.2))
      else .ok (codes.map fun v => ((v.1, 0), v.2))) with
  | .error e => .error e
  | .ok l => .ok l.flatten

/-- Values of a list of elements that poison flags accompany, and the flags as numbers. -/
def flagsOf (l : List ((Nat × Nat) × Bool)) : List Nat := l.map fun e => if e.2 then 1 else 0
def widenL (t : Tensor) (l : List ((Nat × Nat) × Bool)) : List Nat := l.map fun e => widen t.fmt e.1.1 e.1.2
def valuesL (t : Tensor) (l : List ((Nat × Nat) × Bool)) : List Fv := l.map fun e => elemVal t.fmt e.1.1 e.1.2
/-- An optional operand with its poison. -/
def readOptP (s : State) (cx : Cx) : Option Tensor → Except Stop (List ((Nat × Nat) × Bool))
  | none => .ok []
  | some t => readTP s cx t

/-- Element codes written to a tensor, row by row. -/
def writeCodes (s : State) (cx : Cx) (t : Tensor) (codes : List Nat) : Except Stop State :=
  foldE (fun u (e : Nat × List Nat) => vwriteH u cx t.hint e.1 (packRow t.fmt e.2)) s (t.rows.zip (chunks t.e0 codes))

/-- The conversion control word CVT (R102). -/
def cvtRnd (c : Nat) : Nat := bits c 0 2
def cvtSat (c : Nat) : Bool := bit c 2
def cvtIacc (c : Nat) : Bool := bit c 3
def cvtStream (c : Nat) : Nat := bits c 16 16
def cvtPos (c : Nat) : Nat := bits c 32 32

/-- The generator keys of an output's element (R105, R106): by row of the outermost dimension under a step, else one
key for the whole output. `rowLen` is the count of elements in one index of the outermost dimension. -/
structure GenKey where
  stream : Nat
  whole : Option (Nat × Nat × Nat)
  rows : List (Nat × Nat × Nat)
  rowLen : Nat

/-- The generator word of an output's element (R105, R106). An index of the outermost dimension that the step record
assigns to no token has no stated key: its word is free (assumption 44). -/
def keyWord (k : GenKey) (e : Nat) : Nat :=
  match k.whole with
  | some (seed, ident, pos) => genWord seed ident k.stream pos e
  | none =>
    match k.rows[e / k.rowLen]? with
    | some (seed, ident, pos) => genWord seed ident k.stream pos (e % k.rowLen)
    | none => Config.freeNat e % 2 ^ 32

/-- binary32 results converted and written to a tensor (R102-R104, R108). -/
def writeF32 (s : State) (cx : Cx) (t : Tensor) (sat : Bool) (key : Option GenKey) (xs : List Nat) :
    Except Stop State :=
  if isMx t.fmt then
    foldE (fun u (e : (Nat × Nat) × List Nat) =>
      let row := e.1.2
      let blocks := (chunks 32 e.2).zipIdx.map fun (b, j) =>
        mxBlock t.fmt (key.map fun k => (List.range b.length).map fun i => keyWord k (row * t.e0 + 32 * j + i)) b
      match vwriteH u cx t.hint e.1.1 (packRow t.fmt (blocks.flatMap Prod.snd)) with
      | .error x => .error x
      | .ok u1 => vwriteH u1 cx t.hint (t.scale + row * t.rowScales) (blocks.map fun b => BitVec.ofNat 8 b.1))
      s (t.rows.zipIdx.zip (chunks t.e0 xs))
  else
    writeCodes s cx t (xs.zipIdx.map fun (x, i) =>
      convert t.fmt (match key with | none => .rne | some k => .sr (keyWord k i)) sat x)

/-- Whether any element of a tensor lies at a virtual address that satisfies p. -/
def Tensor.anyVa (t : Tensor) (p : Nat → Bool) : Bool :=
  t.rows.any fun a => p a || p (a + t.rowBytes - 1)

/-- Whether a tensor touches the sequence ranges (R189, R241). -/
def Tensor.inSeq (t : Tensor) : Bool := t.anyVa fun a => decide (2 ^ 47 ≤ a)

/-! Operands of operations outside the KV family (R140, R156, R241). -/

/-- A record of an operation; one in the sequence ranges is refused (R241). -/
def recordIn (s : State) (cx : Cx) (va n align : Nat) : Except Stop (List Byte) :=
  if 2 ^ 47 ≤ va ∧ va < 2 ^ 48 then .error (.st stPermission) else recordAt s cx va n align

/-- A tensor operand; one that lies in the sequence ranges is refused (R241). -/
def operand (s : State) (cx : Cx) (va : Nat) : Except Stop Tensor :=
  if 2 ^ 47 ≤ va ∧ va < 2 ^ 48 then .error (.st stPermission)
  else match tensorAt s cx va with
    | .error e => .error e
    | .ok t => if t.inSeq ∨ (isMx t.fmt ∧ 2 ^ 47 ≤ t.scale + t.scaleBytes - 1) then .error (.st stPermission) else .ok t

/-- An operand whose pointer may be 0. -/
def operandOpt (s : State) (cx : Cx) (va : Nat) : Except Stop (Option Tensor) :=
  if va = 0 then .ok none else (operand s cx va).map some

/-- Whether two lists of places meet. -/
def meets (a b : List (Nat × Nat)) : Bool := a.any fun x => b.any fun y => decide (x.1 < y.2 ∧ y.1 < x.2)

/-- Whether two records name the same tensor (R140, R156). -/
def sameTensor (a b : Tensor) : Bool := a.base == b.base && a.fmt == b.fmt && a.ext == b.ext && a.str == b.str

/-- A tensor's range filled with free bytes: what the spec leaves undefined within it (R140, R156). -/
def writeFree (s : State) (cx : Cx) (t : Tensor) : Except Stop State :=
  let fill (u : State) (a n : Nat) : Except Stop State :=
    let b := takeBytes u n
    vwriteH b.2 cx t.hint a b.1
  match foldE (fun u a => fill u a t.rowBytes) s t.rows with
  | .error e => .error e
  | .ok u => if isMx t.fmt then fill u t.scale t.scaleBytes else .ok u

/-- Rows of a sequence in a step (R321, R323). -/
def seqRows (r : StepRun) (q : StepSeq) : Nat := if r.verify then q.depth + 1 else q.n

/-- The generator keys of a step's rows (R106, R323): seed, identifier and position. -/
def stepKeys (s : State) (k : Nat) : List (Nat × Nat × Nat) :=
  match tfind s.steps.runs k with
  | none => []
  | some r => r.seqs.flatMap fun q =>
    let x := getSlot s q.slot
    (List.range (seqRows r q)).map fun i => (x.seed, x.ident, x.settled + i)

/-- Whether a conversion control word is allowed for an output (R97, R102, R107). Under a STEP, where the slot must be
0xFFFF (R317), the keys come from the step record (assumption 45). -/
def cvtOk (f : Flight) (fmt count c : Nat) : Bool :=
  if fmt = 0 then c == 0
  else
    decide (cvtRnd c < 2) && bits c 3 13 == 0
      && (cvtRnd c == 0
        || (decide (cvtStream c < 0xFF00 ∧ count < 2 ^ 48)
          && (if cvtPos c = 0xFFFFFFFF then f.stepOf.isSome else f.slotF != 0xFFFF)))

/-- The generator keys of an output under its conversion control word (R105, R106). -/
def genKeyOf (s : State) (f : Flight) (c : Nat) (t : Tensor) : Option GenKey :=
  if cvtRnd c = 0 then none
  else if cvtPos c = 0xFFFFFFFF then
    some { stream := cvtStream c, whole := none, rows := stepKeys s (f.stepOf.getD 0)
           rowLen := t.count / max 1 ((t.ext.getLast?).getD 1) }
  else
    let x := getSlot s f.slotF
    some { stream := cvtStream c, whole := some (x.seed, x.ident, cvtPos c), rows := [], rowLen := 1 }

/-- Selected parts of binary32 results written (R125, R142): in every row, the blocks of 16 elements (32 for an MX format)
all of whose elements are kept. -/
def writeParts (s : State) (cx : Cx) (t : Tensor) (sat : Bool) (key : Option GenKey) (keep : Nat → Bool) (xs : List Nat) :
    Except Stop State :=
  let g := if isMx t.fmt then 32 else 16
  foldE (fun u (e : (Nat × Nat) × List Nat) =>
    let row := e.1.2
    foldE (fun v (b : List Nat × Nat) =>
      let first := row * t.e0 + g * b.2
      if !((List.range b.1.length).all fun i => keep (first + i)) then .ok v
      else if isMx t.fmt then
        let m := mxBlock t.fmt (key.map fun k => (List.range b.1.length).map fun i => keyWord k (first + i)) b.1
        match vwriteH v cx t.hint (e.1.1 + g * b.2 * nibbles t.fmt / 2) (packRow t.fmt m.2) with
        | .error x => .error x
        | .ok w => vwriteH w cx t.hint (t.scale + row * t.rowScales + b.2) [BitVec.ofNat 8 m.1]
      else vwriteH v cx t.hint (e.1.1 + g * b.2 * nibbles t.fmt / 2) (packRow t.fmt (b.1.zipIdx.map fun (x, i) =>
        convert t.fmt (match key with | none => .rne | some k => .sr (keyWord k (first + i))) sat x)))
      u (chunks g e.2).zipIdx)
    s (t.rows.zipIdx.zip (chunks t.e0 xs))

end Sys2Proof.Machine
end

