-- ==== Sys2Proof/Machine/Signals.lean ====
section
/-! DEFINITION. Sync counters (10): additions, saturation, pair checks, and what a wait compares. -/

namespace Sys2Proof.Machine

/-- A counter index of a partition as a physical counter (R298). -/
def physCounter (p c : Nat) : Nat := 1024 * p + c

/-- The pair of a partition that a counter belongs to, with its index (R307). -/
def pairOf (s : State) (p c : Nat) : Option (Nat × Pair) :=
  (s.sync.pairs.find? fun e => e.1 / 256 == p && (e.2.producer == c || e.2.consumer == c)).map
    fun e => (e.1 % 256, e.2)

/-- Whether a pair is breached after an addition to one of its counters (R309). -/
def breached (s : State) (p c : Nat) (x : Pair) : Bool :=
  if c = x.producer then decide (ctrOf s p x.consumer + x.n < ctrOf s p x.producer)
  else decide (ctrOf s p x.producer < ctrOf s p x.consumer)

/-- The COUNTER source of an armed Equinox, tested at an addition (R549, R550). -/
def counterTrigger (s : State) (p c : Nat) : State :=
  let phys := if s.snap.scope = 0xFF then s.snap.counter else physCounter s.snap.scope s.snap.counter
  if bit s.snap.armed 0 && phys == physCounter p c && decide (s.snap.value ≤ ctrOf s p c) then
    equinox { s with snap := { s.snap with armed := s.snap.armed - 1 } } s.snap.scope 1 [s.snap.counter, ctrOf s p c]
  else s

/-- WATCHes of the guest on a counter that is at or above their target: the Cuff sends NOTIFY and drops them (R376). -/
def notifyWatches (s : State) (p c : Nat) : State :=
  if s.cuff.part ≠ some p then s
  else
    let met := s.cuff.watches.filter fun w => ((tfind s.cuff.slots w.1).map (·.counter)) == some c && decide (w.2 ≤ ctrOf s p c)
    { s with cuff := { s.cuff with
      replies := s.cuff.replies ++ met.map fun w => CuffReply.notify w.1 (ctrOf s p c)
      watches := s.cuff.watches.filter fun w => !met.any fun m => m.1 == w.1 } }

/-- One signal: an atomic addition at the counter's home, saturating (R299, R301), with the pair check of R309; the flag
says that the pair was breached. A partition in reset drops and counts it (R313). `by_` is the partition that signals
from another device (R311). -/
def addCounter (s : State) (p c n : Nat) (by_ : Option Nat) : State × Bool :=
  match getP s p with
  | some { inReset := true, .. } =>
    (putP s p (((getP s p).map fun y => { y with signalsDropped := y.signalsDropped + 1 }).getD {}), false)
  | _ =>
    if n = 0 then (s, false)
    else
      let sum := ctrOf s p c + n
      let v := min sum (2 ^ 64 - 1)
      let s1 := { s with sync := { s.sync with counters := tput s.sync.counters (physCounter p c) v } }
      let s2 := if sum ≤ 2 ^ 64 - 1 then s1 else emit s1 8 1 { die := c / 512, part := p } []
      let s3 := counterTrigger (notifyWatches s2 p c) p c
      match pairOf s3 p c with
      | none => (s3, false)
      | some (i, x) =>
        if breached s3 p c x then
          (emit s3 8 2 { die := c / 512, part := p } ([(2, i), (8, ctrOf s3 p x.producer), (8, ctrOf s3 p x.consumer), (4, x.n)]
            ++ (match by_ with | none => [] | some q => [(1, q)])), true)
        else (s3, false)

/-- Whether a counter's home lies across a severed fabric from the queue engine (R298, R366). -/
def counterFar (s : State) (c : Nat) : Bool := s.fab.severed && decide (512 ≤ c)

/-- The header signal of a held descriptor, at its completion (R62, R300, R310): added unless it was aborted or its counter lies
across a severed fabric (R306); a breach makes the descriptor SYNC_OVERRUN. -/
def headerSignal (s : State) (d : Nat) (f : Flight) : State :=
  if f.fSignal && f.status != stAborted && !f.noSignal && !counterFar s f.sigC then
    let r := addCounter s f.part f.sigC f.sigInc none
    if r.2 then endF r.1 d stOverrun f.extra else r.1
  else s

/-- Whether a counter of a descriptor's header lies across a severed fabric (R366). -/
def acrossFabric (s : State) (f : Flight) : Bool := (f.fWait && counterFar s f.waitC) || (f.fSignal && counterFar s f.sigC)

/-- Whether a wait is met (R303). -/
def waitMet (s : State) (p c t : Nat) : Bool := decide (t ≤ ctrOf s p c)

end Sys2Proof.Machine
end

