-- ==== Sys2Proof/Machine/Tables.lean ====
section
/-! DEFINITION. Editing page tables and the table pool (R191, R192, R199, R200): shared by MAP, UNMAP, the page keeper and
Gauntlet's library leaves. -/

namespace Sys2Proof.Machine

/-- A table page taken from a partition's pool and zeroed; none when the pool is empty (R192). -/
def takeTable (s : State) (p : Nat) : Option (Nat × State) :=
  match (tfind s.mem.tpool p).getD [] with
  | [] => none
  | fr :: rest => some (fr * 8192, pzero { s with mem := { s.mem with tpool := tput s.mem.tpool p rest } } (fr * 8192) 8192)

/-- A table page returned to its partition's pool. -/
def freeTable (s : State) (p table : Nat) : State :=
  { s with mem := { s.mem with tpool := tput s.mem.tpool p ((tfind s.mem.tpool p).getD [] ++ [table / 8192]) } }

/-- A page-table entry written. -/
def putPte (s : State) (table va l e : Nat) : State := pwrite s (table + 8 * levelIdx va l) (toLe 8 e)

/-- An entry set at level `target` below a table of level `l`, taking table pages as needed; none when the pool is empty
or a larger leaf is in the way. -/
def setLeaf (s : State) (p va target e table : Nat) : Nat → Option State
  | 0 => some (putPte s table va 0 e)
  | l + 1 =>
    if l + 1 = target then some (putPte s table va (l + 1) e)
    else
      let x := pnat s (table + 8 * levelIdx va (l + 1)) 8
      if !pteV x then
        match takeTable s p with
        | none => none
        | some (t, s1) => setLeaf (putPte s1 table va (l + 1) (mkTable t)) p va target e t l
      else if pteKind x = 0 then setLeaf s p va target e (pteFrame x) l
      else none

/-- A leaf mapped at a level of a partition's space. -/
def mapLeaf (s : State) (p va target e : Nat) : Option State :=
  let r := rootOf s p va
  if pteV r then setLeaf s p va target e (pteFrame r) 2
  else match takeTable s p with
    | none => none
    | some (t, s1) =>
      setLeaf { s1 with mem := { s1.mem with roots := tput s1.mem.roots (32 * p + va / 2 ^ 43 % 32) (mkTable t) } }
        p va target e t 2

/-- Whether a table page holds no entry. -/
def tableEmpty (s : State) (table : Nat) : Bool :=
  !s.mem.bytes.any fun e => decide (table ≤ e.1 ∧ e.1 < table + 8192)

/-- The leaf that covers an address removed below a table of level l, and table pages that become empty returned to the
pool (R200). -/
def clearLeaf (s : State) (p va table : Nat) : Nat → State
  | 0 => putPte s table va 0 0
  | l + 1 =>
    let x := pnat s (table + 8 * levelIdx va (l + 1)) 8
    if !pteV x then s
    else if pteKind x = 0 then
      let s1 := clearLeaf s p va (pteFrame x) l
      if tableEmpty s1 (pteFrame x) then freeTable (putPte s1 table va (l + 1) 0) p (pteFrame x) else s1
    else putPte s table va (l + 1) 0

/-- Cached translations of a page removed from both towers, with the upper-level ones on its path (R194, R200). -/
def dropTlb (s : State) (p vpn : Nat) : State :=
  let va := 8192 * vpn
  { s with mem := { s.mem with
    tlb := tmap s.mem.tlb fun k l => if k % 16 = p then l.filter (· != vpn) else l
    tlbUp := tmap s.mem.tlbUp fun k l => if k % 16 = p then
      l.filter fun e => e != 4 * (va / 2 ^ levelBit 1) + 1 && e != 4 * (va / 2 ^ levelBit 2) + 2 else l } }

/-- A leaf unmapped from a partition's space. -/
def unmapLeaf (s : State) (p va : Nat) : State :=
  let r := rootOf s p va
  if !pteV r then s
  else
    let t := pteFrame r
    let s1 := clearLeaf s p va t 2
    let s2 := if tableEmpty s1 t then
        freeTable { s1 with mem := { s1.mem with roots := tdel s1.mem.roots (32 * p + va / 2 ^ 43 % 32) } } p t
      else s1
    dropTlb s2 p (va / 8192)

/-- The valid leaves of a table of level l, as (virtual address of the page, level, entry). -/
def leavesBelow (s : State) (table base : Nat) : Nat → List (Nat × Nat × Nat)
  | 0 => (List.range 1024).filterMap fun i =>
    let e := pnat s (table + 8 * i) 8
    if pteV e then some (base + i * 8192, 0, e) else none
  | l + 1 => (List.range 1024).flatMap fun i =>
    let e := pnat s (table + 8 * i) 8
    let va := base + i * 2 ^ levelBit (l + 1)
    if !pteV e then [] else if pteKind e = 0 then leavesBelow s (pteFrame e) va l else [(va, l + 1, e)]

/-- The valid leaves of a partition. -/
def leavesOf (s : State) (p : Nat) : List (Nat × Nat × Nat) :=
  s.mem.roots.flatMap fun e =>
    if e.1 / 32 = p ∧ pteV e.2 then leavesBelow s (pteFrame e.2) (e.1 % 32 * 2 ^ 43) 2 else []

/-- Whether a frame lies under a local leaf of any partition. -/
def frameMapped (s : State) (fr : Nat) : Bool :=
  (tkeys s.parts).any fun p => (leavesOf s p).any fun x =>
    pteKind x.2.2 == 1 && decide (pteFrame x.2.2 ≤ fr * 8192 ∧ fr * 8192 < pteFrame x.2.2 + 2 ^ levelBit x.2.1)

/-- Pages of 8 KiB of a partition mapped in a physical range (R471). -/
def mappedIn (s : State) (p lo hi : Nat) : Nat :=
  ((leavesOf s p).map fun x =>
    if pteKind x.2.2 = 1 then
      let a := pteFrame x.2.2
      let b := a + 2 ^ levelBit x.2.1
      (min b hi - max a lo) / 8192
    else 0).foldl (· + ·) 0

/-- One RETIRED_FRAME_MAPPED record for each partition with pages in a range taken out of service (R471). -/
def reportRange (s : State) (lo hi : Nat) : State :=
  (tkeys s.parts).foldl (fun t p =>
    let n := mappedIn t p lo hi
    if n = 0 then t else emit t 3 0x10 { part := p } [(8, lo), (4, (hi - lo) / 8192), (4, n)]) s

end Sys2Proof.Machine
end

