-- ==== Sys2Proof/Machine/Keeper.lean ====
section
/-! DEFINITION. What the page keeper does for every command (08, 09): where pages lie, frames and their references, the
writing of entries with copy-on-write and staging, and how a step ends for a sequence. -/

namespace Sys2Proof.Machine

/-! Layout (R239, R240, R242). -/

def rangeLog (s : State) (p : Nat) : Nat := ((getP s p).map (·.rangeLog2)).getD 30
/-- Pages of one layer of a sequence (R240). -/
def pagesPerLayer (s : State) (p : Nat) (x : Slot) : Nat := 2 ^ (rangeLog s p - 13) / max 1 x.layers
/-- A slot's sequence range (R239). -/
def seqBase (s : State) (p slot : Nat) : Nat := 2 ^ 47 + slot * 2 ^ rangeLog s p
/-- The size of an entry in bytes (R242). -/
def Slot.entrySize (x : Slot) : Nat := (x.latent + 2 * x.rope + 63) / 64 * 64
def pageKey (l pg : Nat) : Nat := 2 ^ 32 * l + pg
/-- The virtual address of a page of a sequence (R240). -/
def pageVa (s : State) (p slot : Nat) (x : Slot) (key : Nat) : Nat :=
  seqBase s p slot + (key / 2 ^ 32 * pagesPerLayer s p x + key % 2 ^ 32) * 8192
/-- The virtual address of an entry (R240). -/
def entryVa (s : State) (p slot : Nat) (x : Slot) (l pos : Nat) : Nat :=
  pageVa s p slot x (pageKey l (pos / 16)) + pos % 16 * x.entrySize
/-- The base of a slot's thin-score range (R239). -/
def thinBase (s : State) (p slot : Nat) : Nat := 0xC00000000000 + slot * 2 ^ (rangeLog s p - 11)
/-- The place of a page's thin score in the thin-score range, in scores of 4 bytes (R240). -/
def scoreIdx (s : State) (p : Nat) (x : Slot) (key : Nat) : Nat := key / 2 ^ 32 * pagesPerLayer s p x + key % 2 ^ 32
/-- The page of the thin-score range that holds a page's score. -/
def thinPageOf (s : State) (p : Nat) (x : Slot) (key : Nat) : Nat := scoreIdx s p x key / 2048
/-- The Eve entries the running step has written in one layer (R274). -/
def Slot.eveCount (x : Slot) : Nat := (x.eve.map Prod.snd).foldl max 0
/-- The current length in a layer: settled plus Eve (R254, R258). -/
def Slot.lenIn (x : Slot) (l : Nat) : Nat := x.settled + (tfind x.eve l).getD 0

/-! Frames (R249-R252). -/

def getFrame (s : State) (p i : Nat) : KvFrame := ((getPool s p).frames[i]?).getD { where_ := 0 }
def setFrame (s : State) (p i : Nat) (x : KvFrame) : State :=
  putPool s p { getPool s p with frames := (getPool s p).frames.set i x }
/-- Free frames of a pool. -/
def freeFrames (s : State) (p : Nat) : Nat := ((getPool s p).frames.filter fun f => f.state == 0).length

/-- POOL_LOW below the low watermark, once, and POOL_OK at the resume watermark (R251). -/
def watermarks (s : State) (p : Nat) : State :=
  let x := getPool s p
  let n := freeFrames s p
  if x.lowLatched then
    if x.resume ≤ n then emit (putPool s p { x with lowLatched := false }) 3 5 { part := p } [] else s
  else if n < x.low then emit (putPool s p { x with lowLatched := true }) 3 4 { part := p } []
  else s

/-- The home core of a chunk of a layer (R250): an index among the bound cores at opening, reduced by their count now. -/
def homeCore (s : State) (p : Nat) (x : Slot) (l chunk : Nat) : Nat :=
  let cores := boundCores s p
  (cores[(x.home + 16 * l + chunk) % max 1 x.boundAtOpen % max 1 cores.length]?).getD 0

/-- The place of a frame in the order of R250 for a page, smaller first; none for a list that is not permitted. -/
def frameRank (s : State) (p : Nat) (x : Slot) (home : Nat) (f : KvFrame) : Option Nat :=
  match f.remote with
  | some (slot, _) =>
    if bit x.flags 3 && (match importOf s p slot with
      | some im => im.bound && (match pairingOf s p im.handle with
        | some pr => !(groupOf s pr.farHash).isEmpty
        | none => false)
      | none => false) then some 100000 else none
  | none =>
    match locate f.where_ with
    | .slice n _ => some (if n = home then 0 else if n / 256 = home / 256 then 1 + n else 1000 + n)
    | .stack .. => if bit x.flags 2 then some 10000 else none
    | .unbacked => none

/-- The free frames of the lists that may serve: slices, tier S, and remote windows whose neighbour is reached (R250, R582). -/
def freeLists (s : State) (p : Nat) : Nat × Nat × Nat :=
  let rank (f : KvFrame) := if f.state ≠ 0 then none else frameRank s p { flags := 12 } 0 f
  let n (t : Nat → Bool) := ((getPool s p).frames.filter fun f => ((rank f).map t).getD false).length
  (n fun r => decide (r < 10000), n fun r => r == 10000, n fun r => r == 100000)

/-- The kind of a frame that a page of a sequence needs: bit 0 that tier S may give it, bit 1 a remote window, whose page is then
staged in a local frame (R250, R294). Bit 2 marks those of a SWAP_IN, which stages nothing. -/
def kindOf (x : Slot) (localOnly : Bool) : Nat := (if bit x.flags 2 then 1 else 0) + (if bit x.flags 3 && !localOnly then 2 else 0)

/-- Whether free frames of slices, tier S and remote windows serve every need, each from a list permitted to it (R250, R267). -/
def fits (a b c : Nat) (needs : List Nat) : Bool :=
  let n (k : Nat) := (needs.filter (· == k)).length
  decide (n 0 ≤ a ∧ n 0 + n 2 ≤ a + min b c ∧ n 0 + n 1 + n 2 + n 3 ≤ a + b ∧ n 4 ≤ a ∧ n 5 ≤ a + b ∧ n 6 ≤ a + c ∧ n 7 ≤ a + b + c)

/-- The free frame of the first list permitted for a page (R250): the lowest index of that list (assumption 35). -/
def pickFrame (s : State) (p : Nat) (x : Slot) (key : Nat) (localOnly : Bool) : Option Nat :=
  let home := homeCore s p x (key / 2 ^ 32) (key % 2 ^ 32 / max 1 x.chunkPages)
  let cands := (getPool s p).frames.zipIdx.filterMap fun (f, i) =>
    if f.state ≠ 0 ∨ (localOnly ∧ f.remote.isSome) then none else (frameRank s p x home f).map fun r => (r, i)
  (cands.foldl (fun (b : Option (Nat × Nat)) c => match b with
    | none => some c
    | some y => if c.1 < y.1 then some c else b) none).map Prod.snd

/-- A frame taken: LIVE with one reference; a local one is zero-filled (R243, R252). -/
def takeFrame (s : State) (p i : Nat) : State :=
  let f := getFrame s p i
  let s1 := setFrame s p i { f with state := 1, refs := 1, evew := false }
  watermarks (if f.remote.isNone then pzero s1 f.where_ 8192 else s1) p

/-- A reference dropped; at 0 the frame is FREE (R252). -/
def derefFrame (s : State) (p i : Nat) : State :=
  let f := getFrame s p i
  if f.refs ≤ 1 then watermarks (setFrame s p i { f with refs := 0, evew := false, state := if f.state = 3 then 3 else 0 }) p
  else setFrame s p i { f with refs := f.refs - 1 }

/-- The leaf of a page whose entries lie in a frame (R241). -/
def pageLeaf (s : State) (p i : Nat) : Nat :=
  let f := getFrame s p i
  match f.remote with
  | some (slot, pg) => mkRemote slot pg false true
  | none => mkLeaf f.where_ false false true

/-- The frame a page's entries lie in now: its staging frame during a step, else its own (R294). -/
def KvPage.at (g : KvPage) : Nat := g.staging.getD g.frame

/-- A page mapped into a slot; none when the table pool is empty. -/
def mapPage (s : State) (p slot key : Nat) (g : KvPage) : Option State :=
  let x := getSlot s slot
  match mapLeaf s p (pageVa s p slot x key) 0 (pageLeaf s p g.at) with
  | none => none
  | some s1 => some (dropTlb (putSlot s1 slot { getSlot s1 slot with pages := tput (getSlot s1 slot).pages key g }) p
      (pageVa s p slot x key / 8192))

/-! Thin scores (R239, R240, R265). -/

/-- The address of a page of a slot's thin-score range. -/
def thinVa (s : State) (p slot tp : Nat) : Nat := thinBase s p slot + 8192 * tp
/-- Where a page's thin score lies, once its page of the thin-score range is mapped. -/
def scoreAt (s : State) (p slot key : Nat) : Option Nat :=
  let x := getSlot s slot
  (tfind x.thinFrames (thinPageOf s p x key)).map fun i => (getFrame s p i).where_ + scoreIdx s p x key % 2048 * 4
/-- A page's thin score. -/
def scoreOf (s : State) (p slot key : Nat) : Nat := ((scoreAt s p slot key).map fun a => pnat s a 4).getD 0
/-- A page's thin score written. -/
def putScore (s : State) (p slot key v : Nat) : State := match scoreAt s p slot key with
  | some a => pwrite s a (toLe 4 v)
  | none => s

/-- A page of a slot's thin-score range mapped to a frame; none when the table pool is empty. -/
def mapThinLeaf (s : State) (p slot tp i : Nat) : Option State :=
  (mapLeaf s p (thinVa s p slot tp) 0 (pageLeaf s p i)).map fun t =>
    dropTlb (putSlot t slot { getSlot t slot with thinFrames := tput (getSlot t slot).thinFrames tp i }) p (thinVa s p slot tp / 8192)

/-- As mapThinLeaf, of a frame taken for it. -/
def mapThinPage (s : State) (p slot tp i : Nat) : Option State := mapThinLeaf (takeFrame s p i) p slot tp i

/-- Under THIN, the thin score of a page that is newly mapped, +0, its page of the thin-score range mapped first. That page takes a
local frame, by the order of R250 for the page it is first mapped for (assumption 166). -/
def mapThin (s : State) (p slot key : Nat) : Except Stop State :=
  let x := getSlot s slot
  let tp := thinPageOf s p x key
  if !bit x.flags 0 then .ok s
  else if (tfind x.thinFrames tp).isSome then .ok (putScore s p slot key 0)
  else match pickFrame s p x key true with
    | none => .error (.pool [] false)
    | some i => match mapThinPage s p slot tp i with
      | none => .error (.pool [] true)
      | some t => .ok t

/-- A page of a slot's thin-score range unmapped, and its frame's reference dropped. -/
def unmapThin (s : State) (p slot tp : Nat) : State :=
  match tfind (getSlot s slot).thinFrames tp with
  | none => s
  | some i =>
    let s1 := unmapLeaf s p (thinVa s p slot tp)
    derefFrame (putSlot s1 slot { getSlot s1 slot with thinFrames := tdel (getSlot s1 slot).thinFrames tp }) p i

/-- A page unmapped from a slot and its references dropped (R252); a page of the thin-score range goes with the last page whose
score it holds. -/
def unmapPage (s : State) (p slot key : Nat) : State :=
  let x := getSlot s slot
  match tfind x.pages key with
  | none => s
  | some g =>
    let s1 := unmapLeaf s p (pageVa s p slot x key)
    let s2 := putSlot s1 slot { x with pages := tdel x.pages key }
    let s3 := match g.staging with
      | some i => derefFrame s2 p i
      | none => s2
    let s4 := derefFrame s3 p g.frame
    let tp := thinPageOf s p x key
    if (tdel x.pages key).any fun e => thinPageOf s p x e.1 == tp then s4 else unmapThin s4 p slot tp

/-- The frames that hold a sequence: its pages' own and those of its thin scores. -/
def Slot.frames (x : Slot) : List Nat := x.pages.map (fun e => e.2.frame) ++ x.thinFrames.map Prod.snd

/-! Copies (R254, R461). -/

/-- Bytes copied between local frames, poisoned codewords as poison (R254, R461); the flag says that poison was met. -/
def copyFrame (s : State) (src dst n : Nat) : State × Bool :=
  let s1 := pwrite s dst (pread s src n)
  let bad := s.mem.poison.filter fun c => decide (src / 32 ≤ c ∧ 32 * c < src + n)
  (bad.foldl (fun t c => pwritePoison t (dst / 32 + (c - src / 32))) s1, !bad.isEmpty)

/-- Bytes of a local frame from its start, with their poison (R461). -/
def frameBytes (s : State) (a n : Nat) : List (Byte × Bool) :=
  (List.range n).map fun i => (mread s.mem.bytes (a + i), poisoned s (a + i))

/-- The first bytes of a page of a slot, from its frame, or through its remote leaf (R254). -/
def pageBytes (s : State) (cx : Cx) (slot key n : Nat) (g : KvPage) : Except Stop (List (Byte × Bool)) :=
  let f := getFrame s cx.part g.at
  if f.remote.isNone then .ok (frameBytes s f.where_ n) else vreadP s cx (pageVa s cx.part slot (getSlot s slot) key) n

/-- Bytes put into a frame from its start: in place, or by WR messages of 64-byte units; poison is put as poison (R241, R294,
R461). -/
def fillFrame (s : State) (cx : Cx) (i : Nat) (bs : List (Byte × Bool)) : State :=
  let f := getFrame s cx.part i
  match f.remote with
  | none => bs.zipIdx.foldl (fun t e => if e.1.2 then pwritePoison t (codeword (f.where_ + e.2)) else t)
      (pwrite s f.where_ (bs.map Prod.fst))
  | some (imp, pg) => (chunks 64 bs).zipIdx.foldl (fun t e =>
      request t cx.desc cx.part imp 3 6 5 0 (pg * 8192 + 64 * e.2) 0 0 0 (e.1.map Prod.fst) (if e.1.any Prod.snd then 2 else 0)) s

/-- A page's bytes made up to a whole frame with zeros. -/
def wholePage (bs : List (Byte × Bool)) : List (Byte × Bool) := bs ++ List.replicate (8192 - bs.length) (0, false)

/-- A frame's Eve mark (R293). -/
def markEve (s : State) (p i : Nat) (e : Bool) : State := setFrame s p i { getFrame s p i with evew := e }

/-- A page whose frame is remote staged in any free local frame, with the bytes it holds (R294). -/
def stagePage (s : State) (cx : Cx) (slot key : Nat) (bs : List (Byte × Bool)) : Except Stop State :=
  let p := cx.part
  let x := getSlot s slot
  match tfind x.pages key, pickFrame s p { x with flags := 4 } key true with
  | some g, some i => match mapPage (fillFrame (takeFrame s p i) cx i bs) p slot key { g with staging := some i } with
    | some t => .ok t
    | none => .error (.pool [] true)
  | _, _ => .error (.pool [] false)

/-- A page that no one holds yet given a frame, with its thin score, and staged when the frame is remote (R250, R294). -/
def newPage (s : State) (cx : Cx) (slot key : Nat) : Except Stop State :=
  let p := cx.part
  match pickFrame s p (getSlot s slot) key false with
  | none => .error (.pool [] false)
  | some i => match mapPage (takeFrame s p i) p slot key { frame := i } with
    | none => .error (.pool [] true)
    | some s1 => match mapThin s1 p slot key with
      | .error e => .error e
      | .ok s2 => if (getFrame s p i).remote.isSome then stagePage s2 cx slot key [] else .ok s2

/-- A shared page given a fresh frame with a copy of its first bytes, zeros after them (R254); a fresh frame that is remote is
staged as well (R294). -/
def copyPage (s : State) (cx : Cx) (slot key : Nat) (g : KvPage) (bs : List (Byte × Bool)) : Except Stop State :=
  let p := cx.part
  match pickFrame s p (getSlot s slot) key false with
  | none => .error (.pool [] false)
  | some i => match mapPage (fillFrame (takeFrame s p i) cx i (wholePage bs)) p slot key { g with frame := i, staging := none } with
    | none => .error (.pool [] true)
    | some s1 =>
      let s2 := derefFrame s1 p g.frame
      if (getFrame s p i).remote.isSome then stagePage s2 cx slot key bs else .ok s2

/-- A page made ready for an entry at a position (R254, R258, R294): it is allocated, copied when it is shared, or staged when it
is remote. Poison in what is copied stops the work, with the copy made. -/
def readyPage (s : State) (cx : Cx) (slot key n : Nat) : State × Option Stop :=
  match tfind (getSlot s slot).pages key with
  | none => match newPage s cx slot key with
    | .ok t => (t, none)
    | .error e => (s, some e)
  | some g =>
    let f := getFrame s cx.part g.at
    if f.refs ≤ 1 ∧ f.remote.isNone then (s, none)
    else match pageBytes s cx slot key n g with
      | .error e => (s, some e)
      | .ok bs => match (if 1 < f.refs then copyPage s cx slot key g bs else stagePage s cx slot key bs) with
        | .error e => (s, some e)
        | .ok t => (t, if bs.any Prod.snd then some .poison else none)

/-- One entry written at a position of a layer by the running step (R254, R258, R293, R294). -/
def writeEntry (s : State) (cx : Cx) (slot l pos : Nat) (bs : List Byte) : State × Option Stop :=
  let p := cx.part
  let x := getSlot s slot
  let key := pageKey l (pos / 16)
  let ready := readyPage s cx slot key ((x.lenIn l - pos / 16 * 16) * x.entrySize)
  match ready.2 with
  | some e => (ready.1, some e)
  | none =>
    let s1 := ready.1
    match tfind (getSlot s1 slot).pages key with
    | none => (s1, some (.st stTranslation))
    | some g =>
      let f := getFrame s1 p g.at
      let s2 := pwrite (markEve s1 p g.at true) (f.where_ + pos % 16 * x.entrySize) bs
      (s2, none)

/-- Entries of n rows appended at the current length of a layer (R258): the Eve count of the layer rises as they are
written. -/
def appendEntries (s : State) (cx : Cx) (slot l : Nat) : List (List Byte) → State × Option Stop
  | [] => (s, none)
  | b :: r =>
    let x := getSlot s slot
    let w := writeEntry s cx slot l (x.lenIn l) b
    match w.2 with
    | some e => (w.1, some e)
    | none =>
      let y := getSlot w.1 slot
      appendEntries (putSlot w.1 slot { y with eve := tput y.eve l ((tfind y.eve l).getD 0 + 1) }) cx slot l r

/-! How a step ends for a sequence (R283). -/

/-- Pages wholly at or beyond a length unmapped (R283). -/
def trimPages (s : State) (p slot len : Nat) : State :=
  ((tkeys (getSlot s slot).pages).filter fun k => decide (len ≤ k % 2 ^ 32 * 16)).foldl (fun t k => unmapPage t p slot k) s

/-- A staged page settled: at commit its entries below the settled length are written through to the remote frame; in
either case the staging frame is freed (R294), unless the neighbour has no port at a commit (R582). -/
def unstage (s : State) (cx : Cx) (slot len : Nat) (commit : Bool) (key : Nat) : State :=
  let p := cx.part
  let x := getSlot s slot
  match tfind x.pages key with
  | some { frame := fr, thinInc := ti, staging := some i } =>
    let src := (getFrame s p i).where_
    let n := min 16 (len - key % 2 ^ 32 * 16) * x.entrySize
    let lost := match (getFrame s p fr).remote with
      | some (imp, _) => (match (importOf s p imp).bind fun im => pairingOf s p im.handle with
        | some pr => (groupOf s pr.farHash).isEmpty
        | none => true)
      | none => false
    -- with no port to the neighbour the staging frame becomes the page's own (R582)
    if commit && lost && decide (0 < n) then
      derefFrame (putSlot s slot { x with pages := tput x.pages key { frame := i, thinInc := ti, staging := none } }) p fr
    else
    let s1 := if commit then fillFrame s cx fr (frameBytes s src n) else s
    match mapPage s1 p slot key { frame := fr, thinInc := ti, staging := none } with
    | none => s1
    | some s2 => derefFrame s2 p i
  | _ => s

/-- Thin scores updated, then pages evicted, at a commit (R265, R266). -/
def thinCommit (s : State) (p slot : Nat) : State :=
  let x := getSlot s slot
  if !bit x.flags 0 then s
  else
    let s1 := x.pages.foldl (fun t e => putScore t p slot e.1 (ffma (scoreOf s p slot e.1) x.thinDecay e.2.thinInc)) s
    let out := x.pages.filter fun e =>
      decide (e.1 % 2 ^ 32 * 16 + 16 ≤ x.settled ∧ e.1 % 2 ^ 32 * 16 + 15 + 16 * x.thinWindow < x.settled)
        && (getFrame s p e.2.frame).refs == 1 && flt (scoreOf s1 p slot e.1) x.thinThreshold
    (tkeys out).foldl (fun t k =>
      let u := unmapPage t p slot k
      putSlot u slot { getSlot u slot with thinned := (getSlot u slot).thinned ++ [k] })
      (putSlot s1 slot { x with pages := tmap x.pages fun _ g => { g with thinInc := 0 } })

/-- Entries of a layer that a step leaves dead, at positions from lo to below hi: where their pages stay mapped, their bytes are
undefined (R281). -/
def deadEntries (s : State) (p slot l lo hi : Nat) : State :=
  (List.range (hi - lo)).foldl (fun t i =>
    let x := getSlot t slot
    match tfind x.pages (pageKey l ((lo + i) / 16)) with
    | none => t
    | some g =>
      let f := getFrame t p g.frame
      let b := takeBytes t x.entrySize
      if f.remote.isSome then t else pwrite b.2 (f.where_ + (lo + i) % 16 * x.entrySize) b.1) s

/-- A step ended for one sequence (R283): the settled length, Eve marks, staging, thin scores, pages beyond the length, and the
bytes of dead entries. -/
def endSequence (s : State) (cx : Cx) (slot len : Nat) (commit : Bool) : State :=
  let p := cx.part
  let s0 := (tkeys (getSlot s slot).pages).foldl (fun t k => unstage t cx slot len commit k) s
  let x := getSlot s0 slot
  let s1 := x.pages.foldl (fun t e => if (getFrame t p e.2.frame).evew then markEve t p e.2.frame false else t) s0
  let s2 := putSlot s1 slot { x with
    settled := len, eve := [], inStep := none
    lastCommit := if commit then s.time.now else x.lastCommit
    pages := if commit then x.pages else tmap x.pages fun _ g => { g with thinInc := 0 } }
  let s3 := if commit then thinCommit s2 p slot else s2
  x.eve.foldl (fun t e => deadEntries t p slot e.1 len (x.settled + e.2)) (trimPages s3 p slot len)

/-- Every sequence in a step of a descriptor, rolled back (R282, R283, R296). -/
def rollbackStep (s : State) (part d : Nat) : State :=
  (s.kv.slots.filter fun e => e.2.inStep == some d).foldl (fun t e =>
    endSequence t { part := part, desc := d, rem := [] } e.1 e.2.settled false) s

/-- The page keeper's pool of a partition and its slots at a partition reset (R238): every slot FREE, every frame free
but retired ones, every image discarded; pages unmapped. -/
def resetKv (s : State) (p : Nat) : State :=
  match getP s p with
  | none => s
  | some x =>
    let mine := (tkeys s.kv.slots).filter fun i => decide (x.firstSlot ≤ i ∧ i < x.firstSlot + x.slotCount)
    let s1 := mine.foldl (fun t i =>
      (tkeys (getSlot t i).pages).foldl (fun u k => unmapPage u p i k) t) s
    let s2 := { s1 with kv := { s1.kv with slots := tfilter s1.kv.slots fun i _ => !mine.contains i } }
    let pl := getPool s2 p
    if pl.frames.isEmpty && !pl.configured then s2
    else putPool s2 p { pl with
      frames := pl.frames.map fun f => { f with state := if f.state = 3 then 3 else 0, refs := 0, evew := false }
      hostUsed := [], remoteUsed := [], stopped := [], lowLatched := pl.lowLatched }

/-! Swap images (R269-R273, R406). -/

/-- The sequence parameter record of a slot (R245). -/
def Slot.record (x : Slot) : List Byte :=
  fit 64 (toLe 8 x.seed ++ toLe 4 x.ident ++ toLe 2 x.layers ++ toLe 2 x.latent ++ toLe 1 x.rope ++ toLe 1 x.format
    ++ toLe 2 x.chunkPages ++ toLe 2 x.home ++ toLe 1 x.priority ++ toLe 1 x.flags ++ toLe 4 x.thinThreshold
    ++ toLe 4 x.thinDecay ++ toLe 2 x.thinWindow)

/-- The pages that hold settled positions, in (layer, page) order (R272). -/
def Slot.settledPages (x : Slot) : Tbl KvPage := x.pages.filter fun e => decide (e.1 % 2 ^ 32 * 16 < x.settled)
/-- Settled entries of a page. -/
def Slot.settledIn (x : Slot) (key : Nat) : Nat := min 16 (x.settled - key % 2 ^ 32 * 16)
/-- The thin-score pages of a sequence's settled pages, under THIN only (R272). -/
def thinPages (s : State) (p : Nat) (x : Slot) : List Nat :=
  if bit x.flags 0 then (x.settledPages.map fun e => thinPageOf s p x e.1).eraseDups else []

/-- Index cells for a count of page cells (R271). -/
def indexCells (e : Nat) : Nat := (e + 254) / 255
/-- The cells of a swap image: header, index cells, page cells (R269, R272). -/
def imageCells (s : State) (p : Nat) (x : Slot) : Nat :=
  let e := x.settledPages.length + (thinPages s p x).length
  1 + indexCells e + e

/-- The n lowest free cells of an area (assumption 35). -/
def freeCells (total : Nat) (used : List Nat) (n : Nat) : Option (List Nat) :=
  let l := ((List.range (min total (n + used.length))).filter fun c => !used.contains c).take n
  if l.length = n then some l else none

/-- The frames a sequence maps marked as being copied, or live again (R249). -/
def markCopy (s : State) (p slot : Nat) (copying : Bool) : State :=
  (getSlot s slot).frames.foldl (fun t i =>
    let f := getFrame t p i
    if copying then (if f.state = 1 then setFrame t p i { f with state := 2 } else t)
    else if f.state = 2 then setFrame t p i { f with state := 1 } else t) s

/-- The reads that bring a sequence's remote pages for its swap-out. -/
def readRemotePages (s : State) (p slot : Nat) : State :=
  let x := getSlot s slot
  x.settledPages.foldl (fun t e =>
    match (getFrame t p e.2.frame).remote with
    | none => t
    | some (imp, pg) =>
      let n := (x.settledIn e.1 * x.entrySize + 63) / 64
      (List.range ((n + 31) / 32)).foldl (fun u i =>
        request u slot p imp 1 6 6 (pageVa s p slot x e.1 + 2048 * i) (pg * 8192 + 2048 * i) 0 0 (min 32 (n - 32 * i)) []) t) s

/-- Whether the first n bytes of a frame cannot be read: it is retired, or holds poison there (R461, R468). -/
def frameBad (s : State) (p i n : Nat) : Bool :=
  let f := getFrame s p i
  f.remote.isNone && (f.state == 3 || s.mem.poison.any fun c => decide (f.where_ ≤ 32 * c ∧ 32 * c < f.where_ + n))

/-- Whether a page of a sequence cannot be read for its image: a settled page below the settled length, or a page of thin scores
(R461, R468). -/
def swapPoisoned (s : State) (p : Nat) (x : Slot) : Bool :=
  (x.settledPages.any fun e => frameBad s p e.2.frame (x.settledIn e.1 * x.entrySize))
    || (thinPages s p x).any fun tp => ((tfind x.thinFrames tp).map fun i => frameBad s p i 8192).getD false

/-- A swap-out started in the area its target permits: cells taken, the swap count raised, the slot SWAPPING_OUT; the number
is then 0. With poison (2) or too few cells (1) it stops and the slot stays OPEN (R269, R270, R461). -/
def startSwap (s : State) (p slot : Nat) (by_ : Option Nat) (hostOnly : Bool) : State × Nat :=
  let x := getSlot s slot
  let pl := getPool s p
  if swapPoisoned s p x then (s, 2) else
  let n := imageCells s p x
  let host := (freeCells pl.hostCells pl.hostUsed n).map fun l => (false, l)
  let remote := if hostOnly || (importOf s p pl.remoteSlot).isNone then none
    else (freeCells pl.remoteCells pl.remoteUsed n).map fun l => (true, l)
  let pick : Option (Bool × List Nat) := match pl.target with
    | 0 => host
    | 1 => remote
    | 2 => (match remote with | some l => some l | none => host)
    | _ => none
  match pick with
  | none => (emit s 3 8 { part := p } [], 1)
  | some (rem, cells) =>
    let s1 := putPool s p { pl with
      hostUsed := if rem then pl.hostUsed else pl.hostUsed ++ cells
      remoteUsed := if rem then pl.remoteUsed ++ cells else pl.remoteUsed, swapCount := pl.swapCount + 1 }
    let s2 := putSlot s1 slot { x with st := .swappingOut, swapCells := cells, swapRemote := rem
                                       swapCount := pl.swapCount + 1, swapBy := by_, imaged := false, fetched := [] }
    (readRemotePages (markCopy s2 p slot true) p slot, 0)

/-- The messages of a slot's swap image taken back. -/
def dropSwapOut (s : State) (slot : Nat) : State :=
  { s with plauf := { s.plauf with
    out := s.plauf.out.filter fun e => e.2.desc != slot || (e.2.kind != 3 && e.2.kind != 6) } }

/-- A slot's cells given back to the bitmap. -/
def freeImage (s : State) (p slot : Nat) : State :=
  let x := getSlot s slot
  let pl := getPool s p
  putSlot (putPool s p (if x.swapRemote then { pl with remoteUsed := pl.remoteUsed.filter fun c => !x.swapCells.contains c }
    else { pl with hostUsed := pl.hostUsed.filter fun c => !x.swapCells.contains c })) slot
    { x with swapCells := [], imaged := false, fetched := [] }

/-- A swap-out ended without an image: the slot is OPEN again and its cells are free (R269, R461, R578). -/
def swapReopen (s : State) (p slot : Nat) : State :=
  let s1 := freeImage (markCopy (dropSwapOut s slot) p slot false) p slot
  putSlot s1 slot { getSlot s1 slot with st := .open_, swapBy := none }
/-- As swapReopen, for lack of space or at a stop, with its record (R269, R578). -/
def swapBack (s : State) (p slot : Nat) : State := emit (swapReopen s p slot) 3 8 { part := p } []

/-- A swap-in ended before its last cell: its frames are freed and the slot is SWAPPED again (R578, R580, R582). -/
def swapInBack (s : State) (p slot : Nat) : State :=
  let s1 := (tkeys (getSlot s slot).pages).foldl (fun t k => unmapPage t p slot k) s
  putSlot s1 slot { getSlot s1 slot with st := .swapped, swapBy := none }

/-- The pages of a swap image in order, as (layer, page, settled entries, 8 KiB): the settled entries of every page with zeros
after them, then the pages of thin scores (R271, R272). -/
def imagePages (s : State) (p slot : Nat) (x : Slot) : List (Nat × Nat × Nat × List Byte) :=
  (x.settledPages.map fun e =>
    let f := getFrame s p e.2.frame
    let n := x.settledIn e.1 * x.entrySize
    (e.1 / 2 ^ 32, e.1 % 2 ^ 32, x.settledIn e.1,
      fit 8192 (if f.remote.isSome then mreadN x.fetched (pageVa s p slot x e.1) n else pread s f.where_ n)))
    ++ (thinPages s p x).map fun tp =>
      (0xFFFF, tp, 16, ((tfind x.thinFrames tp).map fun i => pread s (getFrame s p i).where_ 8192).getD (List.replicate 8192 0))

/-- The IV and the additional data of a cell (R270). -/
def swapIv (count place : Nat) : List Byte := toLe 8 count ++ toLe 4 place
def swapAad (p slot : Nat) (x : Slot) : List Byte := toLe 1 p ++ toLe 2 slot ++ toLe 4 x.ident ++ toLe 8 x.swapCount

/-- The sealed cells of an image, as (cell number, its 8 KiB), and the header's tag (R270, R271). -/
def sealedCells (s : State) (p slot : Nat) : List (Nat × List Byte) × Nat :=
  let x := getSlot s slot
  let key := (getKeys s p).swap.getD 0
  let aad := swapAad p slot x
  let sealC (place : Nat) (pt : List Byte) : List Byte × List Byte :=
    let ct := gcmCrypt key (swapIv x.swapCount place) pt
    (ct, fit 16 (Config.gcmTag key (swapIv x.swapCount place) aad ct))
  let pages := imagePages s p slot x
  let k := indexCells pages.length
  let cell (i : Nat) := (x.swapCells[i]?).getD 0
  let sealedPages := pages.zipIdx.map fun (e, i) => (cell (1 + k + i), e, sealC (1 + k + i) e.2.2.2)
  let entries := sealedPages.map fun e =>
    toLe 4 e.1 ++ toLe 2 e.2.1.1 ++ toLe 2 0 ++ toLe 4 e.2.1.2.1 ++ toLe 4 e.2.1.2.2.1 ++ e.2.2.2
  let idx := (chunks 255 entries).zipIdx.map fun (l, i) =>
    let c := sealC (1 + i) (fit 8176 l.flatten)
    (cell (1 + i), c.1 ++ c.2)
  let head := sealC 0 (fit 8192 (fit 0x50 (x.record ++ toLe 4 x.settled ++ toLe 4 pages.length ++ toLe 2 k)
    ++ fit 0x30 (toLe 8 x.swapCount) ++ (List.range k).flatMap fun i => toLe 4 (cell (1 + i))))
  ((sealedPages.map fun e => (e.1, e.2.2.1)) ++ idx ++ [(cell 0, head.1)], leNat head.2)

/-- The cells of an image written to their area: posted writes to the host, or WR messages of 2 KiB (R272). -/
def writeImage (s : State) (p slot : Nat) : State :=
  let x := getSlot s slot
  let pl := getPool s p
  let c := sealedCells s p slot
  let s1 := putSlot s slot { x with swapTag := c.2, imaged := true }
  c.1.foldl (fun t e =>
    if x.swapRemote then
      (chunks 2048 e.2).zipIdx.foldl (fun u (b, j) =>
        request u slot p pl.remoteSlot 3 6 3 0 ((pl.remotePage + e.1) * 8192 + 2048 * j) 0 0 0 b) t
    else hwrite t (pl.hostBase + 8192 * e.1) e.2) s1

/-- A slot SWAPPED: every frame it mapped loses its reference (R252, R272). -/
def swapAway (s : State) (p slot : Nat) : State :=
  let s1 := markCopy s p slot false
  let s2 := (tkeys (getSlot s1 slot).pages).foldl (fun t k => unmapPage t p slot k) s1
  let x := getSlot s2 slot
  let s3 := putSlot s2 slot { x with st := .swapped, swapBy := none, fetched := [] }
  match x.swapBy with
  | some d => endF s3 d stOk 0
  | none => s3

/-! Pre-emption (R267, R268). -/

/-- The frames of a sequence that its swap-out would free. -/
def privateFrames (s : State) (p slot : Nat) : Nat :=
  ((getSlot s slot).frames.filter fun i => (getFrame s p i).refs == 1).length

/-- Whether victim a comes before victim b (R268). -/
def victimBefore (a b : Nat × Slot) : Bool :=
  decide (b.2.priority < a.2.priority
    ∨ (a.2.priority = b.2.priority ∧ (a.2.lastCommit < b.2.lastCommit ∨ (a.2.lastCommit = b.2.lastCommit ∧ a.1 < b.1))))

/-- The slots that work stopped for frames names. -/
def stoppedNames (s : State) (p : Nat) : List Nat :=
  (getPool s p).stopped.flatMap fun e => ((getF s e.1).map Flight.slotF).toList
    ++ ((tfind s.steps.runs e.1).map fun r => r.seqs.flatMap fun q => [q.slot, q.companion]).getD []

/-- The next victim: an OPEN slot of the partition that is not PIN and that no running step names, nor the stopped work itself,
which would find it swapped out (assumption 167). -/
def victimOf (s : State) (p : Nat) (tried : List Nat) : Option Nat :=
  let named := ((s.steps.runs.filter fun e => e.2.started).flatMap fun e => e.2.seqs.flatMap fun q => [q.slot, q.companion])
    ++ stoppedNames s p ++ tried
  ((s.kv.slots.filter fun e => slotOf s p e.1 && e.2.st == .open_ && !bit e.2.flags 1 && e.2.inStep.isNone
      && !named.contains e.1).foldl (fun (b : Option (Nat × Slot)) e => match b with
    | none => some e
    | some y => if victimBefore e y then some e else b) none).map Prod.fst

/-- Victims swapped out until enough frames are released or pending; one without space for its image is passed over
(R268, R269). -/
def preemptGo (p goal : Nat) : Nat → State → Nat → List Nat → State × Nat
  | 0, s, got, _ => (s, got)
  | n + 1, s, got, tried =>
    if goal ≤ got then (s, got)
    else match victimOf s p tried with
      | none => (s, got)
      | some v =>
        let x := getSlot s v
        let frames := privateFrames s p v
        let r := startSwap s p v none false
        if r.2 = 0 then preemptGo p goal n (emit r.1 3 7 { part := p } [(2, v), (4, x.ident)]) (got + frames) tried
        else preemptGo p goal n r.1 got (v :: tried)

/-- Slots of a partition that are being swapped out. -/
def swappingOut (s : State) (p : Nat) : List Nat :=
  (s.kv.slots.filter fun e => slotOf s p e.1 && e.2.st == .swappingOut).map Prod.fst

/-- Whether work that stopped for frames finds what it needs, each frame in a list permitted to it (R267). -/
def needMet (s : State) (p : Nat) (needs : List Nat) (table : Bool) : Bool :=
  let l := freeLists s p
  fits l.1 l.2.1 l.2.2 needs && (!table || !((tfind s.mem.tpool p).getD []).isEmpty)

/-- Pre-emption for work that needs frames, or a table page: the flag says that victims are being swapped out, or that what it
needs is free (R268). -/
def preempt (s : State) (p : Nat) (needs : List Nat) (table : Bool) : State × Bool :=
  let pl := getPool s p
  if pl.victim = 1 ∨ 3 ≤ pl.target then (s, false)
  else
    let pend := ((swappingOut s p).map (privateFrames s p)).foldl (· + ·) 0
    let r := preemptGo p (max (max 1 needs.length) (pl.low - freeFrames s p)) 32768 s pend []
    (r.1, !(swappingOut r.1 p).isEmpty || needMet r.1 p needs table)

/-- Work taken off the list of work that waits for frames. -/
def unstop (s : State) (p d : Nat) : State :=
  putPool s p { getPool s p with stopped := (getPool s p).stopped.filter fun e => e.1 != d }

/-- The kinds of the frames that n new positions of one layer need from a length on: of pages not mapped, of shared pages, of
remote ones, which are staged in any local frame, and of thin scores (R250, R254, R294). -/
def pageNeeds (s : State) (p slot l len n : Nat) : List Nat :=
  if n = 0 then []
  else
    let x := getSlot s slot
    let keys := (List.range ((len + n - 1) / 16 - len / 16 + 1)).map fun i => pageKey l (len / 16 + i)
    let pages := keys.flatMap fun k => match tfind x.pages k with
      | none => [kindOf x false]
      | some g =>
        let f := getFrame s p g.at
        if 1 < f.refs then [kindOf x false] else if f.remote.isSome then [1] else []
    let thin := if bit x.flags 0 then (keys.map (thinPageOf s p x)).eraseDups.filter fun tp => (tfind x.thinFrames tp).isNone else []
    pages ++ thin.map fun _ => kindOf x true

/-! The frame table and the cell bitmap in their backing (R247, R249). The state holds their content in the pool; their bytes are
formed where they are observed. -/

/-- The free list that a frame belongs to (R250): a slice's core, 512 for tier S, 1024 for remote windows. -/
def listOf (f : KvFrame) : Nat := match f.remote with
  | some _ => 1024
  | none => match locate f.where_ with
    | .slice n _ => n
    | _ => 512

/-- A frame-table entry (R249). A free list is in the order of its indices (assumption 35). -/
def ftabEntry (x : Pool) (i : Nat) : Nat := match x.frames[i]? with
  | none => 0
  | some f =>
    if f.state = 0 then 4 * (((x.frames.zipIdx.drop (i + 1)).find? fun e => e.1.state == 0 && listOf e.1 == listOf f).map
      Prod.snd).getD 0x3FFFFFFF
    else if f.state = 3 then 3
    else f.state + (if f.evew then 4 else 0) + f.refs * 2 ^ 16

/-- A byte of the cell bitmap (R247): one bit per cell, of the host area and then of the remote window. -/
def bitmapByte (x : Pool) (o : Nat) : Byte :=
  let used := if o < 2 ^ 21 then x.hostUsed else x.remoteUsed
  BitVec.ofNat 8 (((List.range 8).map fun b => if used.contains (8 * (o % 2 ^ 21) + b) then 2 ^ b else 0).foldl (· + ·) 0)

/-- The byte of a pool's backing at an address. -/
def backingByte (x : Pool) (pa : Nat) : Option Byte :=
  if !x.configured then none
  else if x.ftab ≤ pa ∧ pa < x.ftab + 8192 * x.ftabFrames then (toLe 4 (ftabEntry x ((pa - x.ftab) / 4)))[(pa - x.ftab) % 4]?
  else if x.bitmap ≤ pa ∧ pa < x.bitmap + 2 ^ 22 then some (bitmapByte x (pa - x.bitmap))
  else none

/-- A pool's backing given up: its frames keep the bytes they held. -/
def leaveBacking (s : State) (x : Pool) : State :=
  if !x.configured then s
  else
    let s1 := (List.range x.frames.length).foldl (fun t i => pwrite t (x.ftab + 4 * i) (toLe 4 (ftabEntry x i)))
      (pzero (pzero s x.ftab (8192 * x.ftabFrames)) x.bitmap (2 ^ 22))
    (x.hostUsed.map (· / 8) ++ x.remoteUsed.map fun c => 2 ^ 21 + c / 8).foldl (fun t o => pwrite t (x.bitmap + o) [bitmapByte x o]) s1

end Sys2Proof.Machine
end

