-- ==== Sys2Proof/Machine/Capacity.lean ====
section
/-! DEFINITION. Current capacities and effective rates (R343, R344, R352, R353), which every change to a resource's
channels applies at once. -/

namespace Sys2Proof.Machine

/-- The resource codes of R342. -/
def resourceOk (r : Nat) : Bool :=
  decide (r < 8) || r == 0x10 || r == 0x11 || decide (0x100 ≤ r ∧ r < 0x120) || r == 0x200 || r == 0x201

/-- Data lanes in service of one direction of a bundle (R362, R516). -/
def bundleLanes (b : Bundle) : Nat := if b.retired then 0 else if b.half.isSome then 32 else 64
/-- Data lanes in service of the fabric in a direction (R344). -/
def fabricLanes (s : State) (dir : Nat) : Nat :=
  ((List.range 24).map fun b => bundleLanes (getBundle s (2 * b + dir))).foldl (· + ·) 0
/-- Pseudo-channels of a stack in service (R344, R470): one whose move has not ended still counts. -/
def stackPcs (s : State) (k : Nat) : Nat :=
  64 - min 64 (((s.flt.retiredBanks ++ s.flt.outBanks).filter fun e => e.1 == 0x8000 + k
    && !s.flt.moving.any fun m => m.1 == e.1 && m.2.1 == e.2).length)

/-- The derated capacity of a stack for its band and state (R343, R500). -/
def stackDerated (s : State) (k : Nat) : Nat :=
  if s.bw.throttled.contains k then 1158000
  else
    let near := nearStack k && (tkeys s.parts).any fun p => bit (getRule s p).flags (if k = 3 then 5 else 6)
    match near, s.bw.hotBand.contains k with
    | true, false => 2026500
    | true, true => 1953000
    | false, false => 2316000
    | false, true => 2232000

/-- The current capacity of a resource in MB/s (R344); 0 for a stack or port a Holiday names (R560)
and for a lost stack (R369, R515). -/
def capacity (s : State) (r : Nat) : Nat :=
  if r < 8 then (if (s.hol.open_ && bit s.hol.stackSet r) || s.fab.dieLost.contains (4 + r) then 0 else stackDerated s r * stackPcs s r / 64)
  else if r = 0x10 then 5898240 * fabricLanes s 0 / 1536
  else if r = 0x11 then 5898240 * fabricLanes s 1 / 1536
  else if 0x100 ≤ r ∧ r < 0x120 then
    (if (getPort s (r - 0x100)).st == .up then 392000 * portWaves s (r - 0x100) / 16 else 0)
  else 121000 * s.regs.linkWidth / 16

/-- The registrations on a resource. -/
def regsOn (s : State) (r : Nat) : Tbl Reg := s.bw.regs.filter fun e => e.2.res == r
/-- A sum of registered rates. -/
def rateSum (t : Tbl Reg) : Nat := (t.map fun e => e.2.rate).foldl (· + ·) 0

/-- The cuts of R352 from class c downwards: the class, the sum kept and the total of each class that is cut. -/
def classCuts (t : Tbl Reg) (excess : Nat) : Nat → List (Nat × Nat × Nat)
  | 0 => []
  | n + 1 =>
    let total := rateSum (t.filter fun e => e.2.cls == n)
    if excess = 0 ∨ total = 0 then classCuts t excess n
    else
      let cut := min excess total
      (n, total - cut, total) :: classCuts t (excess - cut) n

/-- The effective rate of a registration under the cuts (R352). -/
def effOf (cuts : List (Nat × Nat × Nat)) (r : Reg) : Nat :=
  match cuts.find? fun c => c.1 == r.cls with
  | some (_, keep, total) => r.rate * keep / total
  | none => r.rate

/-- The effective rates of a resource recomputed for its current capacity, with the records of R353. -/
def recompute (s : State) (r : Nat) : State :=
  let cap := capacity s r
  let on := regsOn s r
  let cuts := classCuts on (rateSum on - 85 * cap / 100) 6
  let new := tmap on fun _ x => { x with eff := effOf cuts x }
  let changed := new.filter fun e => (tfind on e.1).map (·.eff) != some e.2.eff
  let cut := (new.filter fun e => decide (e.2.eff < e.2.rate)).length
  let was := s.bw.reduced.contains r
  let w : Who := { die := if r < 8 then 4 + r else 0xFF }
  let s1 := { s with bw := { s.bw with
    regs := tmap s.bw.regs fun k x => (tfind new k).getD x
    capacity := tput s.bw.capacity r cap
    reduced := if cut = 0 then s.bw.reduced.filter (· != r) else if was then s.bw.reduced else r :: s.bw.reduced } }
  let s2 := if 0 < cut ∧ !was then emit s1 3 0x14 w [(2, r), (4, cap), (4, cut)] else s1
  let s3 := changed.foldl (fun t e =>
    emit t 3 0x15 { w with part := e.2.part } [(2, e.1), (1, e.2.part), (1, e.2.cls), (4, e.2.rate), (4, e.2.eff)]) s2
  if cut = 0 ∧ was then emit s3 3 0x16 w [] else s3

/-- Recomputation when the capacity of a resource differs from the one last applied (R344, R352). -/
def recap (s : State) (r : Nat) : State :=
  if (tfind s.bw.capacity r) = some (capacity s r) then s else recompute s r

end Sys2Proof.Machine
end

