-- ==== Sys2Proof/Machine/Flags.lean ====
section
/-! DEFINITION. The status fields that the block computes from its state: phase and package codes, the fault and trip
outputs, trip causes, ladder setters, fence causes, and the flags of partitions and queues (R525, R590, R598). -/

namespace Sys2Proof.Machine

/-- Whether REPLACE_ADVISED is set (R478). -/
def replaceAdvised (s : State) : Bool := !s.flt.replace.isEmpty

/-- The fault output (R525, R612). -/
def faultOut (s : State) : Bool :=
  s.mgmt.recovery || s.mgmt.gauntletWdt || !s.fab.dieLost.isEmpty || replaceAdvised s
    || (s.pwr.retryAt.isSome && s.mgmt.phase == .bootMgmt)

/-- The thermal-trip output (R507, R509). -/
def thermTrip (s : State) : Bool := s.pwr.pkg == .trip

/-- The core rail's set-point in mV at a performance level, and the lowest one in READY and HELD (R480, R608). -/
def coreMv (l : Nat) : Nat := ([600, 640, 680, 730, 780, 820, 860, 900][l]?).getD 600

/-- TRIP_CAUSE of R590: the first cause. -/
def tripCause (s : State) : Nat := (s.pwr.tripCauses.head?).getD 0

/-- The STATUS register (R590). -/
def statusReg (s : State) : Nat :=
  phaseCode s + pkgCode s * 2 ^ 4 + s.pwr.level * 2 ^ 8 + b2n s.mgmt.recovery * 2 ^ 11 + b2n s.mgmt.mittenDown * 2 ^ 12
    + b2n (replaceAdvised s) * 2 ^ 13 + b2n s.mgmt.gauntletWdt * 2 ^ 14 + b2n (faultOut s) * 2 ^ 15
    + s.mgmt.resetCause * 2 ^ 16 + tripCause s * 2 ^ 20 + b2n s.th.coolantLoss * 2 ^ 24 + b2n s.fab.severed * 2 ^ 25

/-- The limiter that sets a tower's level (R590): 3 when none does; on a tie the lowest code. -/
def ladderSetter (t : Tower) : Nat :=
  let l := ladderLevel t
  if l = 0 then 3 else if t.lvlTh = l then 0 else if t.lvlHost = l then 1 else 2

/-- The issue fraction of a ladder level, as issued slots over 48048 (R493). -/
def issueSlots (l : Nat) : Nat := if l ≤ 8 then 48048 * (16 - l) / 16 else 48048 / (l - 6)

/-- Whether a partition is named in the open Holiday (R598). -/
def inHoliday (s : State) (p : Nat) : Bool := s.hol.open_ && bit s.hol.parts p

/-- The bytes of tier F that bound slices hold and of tier S in service (R79, R469, R470). -/
def tierFBytes (s : State) : Nat := (((List.range 512).filter (bound s)).map (sliceLimit s)).foldl (· + ·) 0
def tierSBytes (s : State) : Nat := ((List.range 8).map (stackLimit s)).foldl (· + ·) 0

end Sys2Proof.Machine
end

