-- ==== Sys2Proof/Machine/Chain.lean ====
section
/-! DEFINITION. Element chains (05): the operations of R146 and R147, horizontal reductions, chain records, and their value
for one element. -/

namespace Sys2Proof.Machine

/-! Operations (R146, R147). -/

def one32 : Nat := 0x3F800000
def l2e : Nat := 0x3FB8AA3B
def ln2 : Nat := 0x3F317218

/-- The largest integral value not above a value, and the one nearest to it, ties to even (R146). -/
def vround (nearest : Bool) : Fv → Fv
  | .fin n m e =>
    if 0 ≤ e then .fin n m e
    else
      let k := (-e).toNat
      let q := if nearest then shiftRound .rne m k else if n ∧ m % 2 ^ k ≠ 0 then m / 2 ^ k + 1 else m / 2 ^ k
      .fin n q 0
  | v => v

/-- A value rounded to a format and held in binary32 (R146). -/
def fround (c x : Nat) : Nat := widen c (convert c .rne false x) 0

/-- The composites of R147. -/
def fexp (x : Nat) : Nat := fexp2 (fmul x l2e)
def flog (x : Nat) : Nat := fmul (flog2 x) ln2
def fsigmoid (x : Nat) : Nat := frecip (fadd (fexp2 (fmul x (fneg l2e))) one32)
def fsilu (x : Nat) : Nat := fmul x (fsigmoid x)
def ftanh (x : Nat) : Nat := ffma 0x40000000 (fsigmoid (fmul x 0x40000000)) (fneg one32)
def fgelu (x : Nat) : Nat :=
  let u := fmul (fmul (ffma (fmul x x) 0x3D372713 one32) x) 0x3F4C422A
  let h := fmul x 0x3F000000
  ffma h (ftanh u) h

/-- The result of a chain operation that is not a reduction. -/
def chainOp (code a b c : Nat) : Nat :=
  match code with
  | 0x01 => fadd a b
  | 0x02 => fsub a b
  | 0x03 => fmul a b
  | 0x04 => ffma a b c
  | 0x05 => fmin a b
  | 0x06 => fmax a b
  | 0x07 => fabs a
  | 0x08 => fneg a
  | 0x09 => e32 (vround false (d32 a))
  | 0x0A => e32 (vround true (d32 a))
  | 0x0B => if flt a b then one32 else 0
  | 0x0C => if veq (d32 a) (d32 b) then one32 else 0
  | 0x0D => if d32 a = .nan ∨ flt a 0 then c else b
  | 0x0E => fround 0x01 a
  | 0x0F => fround 0x03 a
  | 0x10 => fround 0x04 a
  | 0x18 => fexp2 a
  | 0x19 => flog2 a
  | 0x1A => frecip a
  | 0x1B => frsqrt a
  | 0x1C => fdiv a b
  | 0x1D => fsqrt a
  | 0x20 => fexp a
  | 0x21 => flog a
  | 0x22 => fsigmoid a
  | 0x23 => fsilu a
  | 0x24 => ftanh a
  | 0x25 => fgelu a
  | 0x26 => fmax a 0
  | _ => a

/-- How many sources an operation uses; none for a reserved code. -/
def opArity (code : Nat) : Option Nat :=
  if [0x01, 0x02, 0x03, 0x05, 0x06, 0x0B, 0x0C, 0x1C].contains code then some 2
  else if code = 0x04 ∨ code = 0x0D then some 3
  else if [0x07, 0x08, 0x09, 0x0A, 0x0E, 0x0F, 0x10, 0x18, 0x19, 0x1A, 0x1B, 0x1D, 0x20, 0x21, 0x22, 0x23, 0x24, 0x25,
    0x26, 0x30, 0x31, 0x32].contains code then some 1
  else none

/-- Whether an operation is a horizontal reduction. -/
def isReduction (code : Nat) : Bool := code == 0x30 || code == 0x31 || code == 0x32

/-- Vector and transcendental slots of an operation (R144, R146). -/
def opSlots (code : Nat) : Nat × Nat :=
  match code with
  | 0x18 => (0, 1)
  | 0x19 => (0, 1)
  | 0x1A => (0, 1)
  | 0x1B => (0, 1)
  | 0x1C => (0, 2)
  | 0x1D => (0, 2)
  | 0x20 => (1, 1)
  | 0x21 => (1, 1)
  | 0x22 => (2, 2)
  | 0x23 => (3, 2)
  | 0x24 => (4, 2)
  | 0x25 => (10, 2)
  | _ => (1, 0)

/-- Two lists of partials combined; an absent one leaves the other unchanged (R148). -/
def zipKeep (op : Nat → Nat → Nat) : List Nat → List Nat → List Nat
  | a :: r, b :: t => op a b :: zipKeep op r t
  | l, [] => l
  | [], l => l

/-- A horizontal reduction in the order of R148. -/
def hreduce (op : Nat → Nat → Nat) (xs : List Nat) : Nat :=
  let parts := match chunks 64 xs with
    | [] => []
    | c :: r => r.foldl (zipKeep op) c
  (([32, 16, 8, 4, 2, 1].foldl (fun p w => zipKeep op (p.take w) (p.drop w)) parts).head?).getD 0

/-- The reduction of a code. -/
def reduceRow (code : Nat) (xs : List Nat) : Nat :=
  hreduce (if code = 0x30 then fadd else if code = 0x31 then fmax else fmin) xs

/-! Chain records (R150, R151, R155). -/

/-- An operation word read; none where a reserved bit is set. -/
def chainWord (w : Nat) : Option ChainOp :=
  if bit w 11 || bits w 30 2 != 0 then none
  else some { code := bits w 0 8, dst := bits w 8 3, s1 := bits w 12 6, s2 := bits w 18 6, s3 := bits w 24 6 }

/-- Where a chain stands: inputs A and B, the side input, and an epilogue's accumulator. -/
structure ChainUse where
  a : Bool
  b : Bool
  side : Bool
  acc : Bool

/-- Whether a source may be read, given the temporaries written before. -/
def sourceOk (u : ChainUse) (done : List Nat) (x : Nat) : Bool :=
  if x < 8 then done.contains x
  else if x = 8 then u.a else if x = 9 then u.b else if x = 0x0A then u.acc else if x = 0x0B then u.side
  else x == 0x0C || decide (0x10 ≤ x ∧ x ≤ 0x1D)

/-- Whether an operation's sources fill what it uses and leave the rest 0x3F. -/
def sourcesOk (u : ChainUse) (done : List Nat) (o : ChainOp) : Bool :=
  match opArity o.code with
  | none => false
  | some n =>
    let s (i x : Nat) := if i < n then sourceOk u done x else x == 0x3F
    s 0 o.s1 && s 1 o.s2 && s 2 o.s3

/-- Whether every operation of a chain is allowed in its place. -/
def opsOk (u : ChainUse) (done : List Nat) : List ChainOp → Bool
  | [] => true
  | o :: r => sourcesOk u done o && (!isReduction o.code || (r.isEmpty && !u.acc)) && opsOk u (o.dst :: done) r

/-- The chain of a record's 128 bytes; none where it breaks R150, R151 or R155. -/
def parseChain (b : List Byte) (u0 : ChainUse) : Option Chain :=
  let n := fld b 0 1
  let words := (List.range 12).map fun i => fld b (0x18 + 4 * i) 4
  let ops := (words.take n).filterMap chainWord
  let side := fld b 0x10 8
  let u := { u0 with side := u0.side || side != 0 }
  if 1 ≤ n ∧ n ≤ 12 ∧ fld b 1 1 = 0 ∧ fld b 6 2 = 0 ∧ (words.drop n).all (· == 0) ∧ ops.length = n ∧ opsOk u [] ops
      ∧ (u0.acc = false ∨ (fld b 2 2 = 0 ∧ fld b 4 2 = 0 ∧ fld b 8 8 = 0)) then
    some { first := fld b 2 2, count := fld b 4 2, cvt := fld b 8 8, side := side, ops := ops
           ks := (List.range 14).map fun i => fld b (0x48 + 4 * i) 4 }
  else none

/-- The reduction code that ends a chain, if one does. -/
def Chain.reduction (c : Chain) : Option Nat :=
  match c.ops.getLast? with
  | some o => if isReduction o.code then some o.code else none
  | none => none

/-- The element inputs of one evaluation. -/
structure ElemIn where
  a : Nat
  b : Nat
  acc : Nat
  side : Nat
  idx : Nat

/-- The chain's value for one element; a final reduction leaves its source's value (R150). -/
def Chain.eval (c : Chain) (x : ElemIn) : Nat :=
  let src (t : Tbl Nat) (k : Nat) : Nat :=
    if k < 8 then (tfind t k).getD 0
    else if k = 8 then x.a else if k = 9 then x.b else if k = 0x0A then x.acc else if k = 0x0B then x.side
    else if k = 0x0C then convert 0x00 .rne false (e32 (ofMant x.idx 0))
    else (c.ks[k - 0x10]?).getD 0
  (c.ops.foldl (fun (acc : Tbl Nat × Nat) o =>
    let v := chainOp o.code (src acc.1 o.s1) (src acc.1 o.s2) (src acc.1 o.s3)
    (tput acc.1 o.dst v, v)) ([], 0)).2

/-- Whether each input extent equals the output's or is 1 (R153). -/
def bcastOk (dext ext : List Nat) : Bool := dext.length == ext.length && (dext.zip ext).all fun e => e.1 == e.2 || e.2 == 1

/-- The index in an input of the output's element e, extents of 1 serving every index (R153). -/
def bcastIdx : List (Nat × Nat) → Nat → Nat → Nat
  | [], _, _ => 0
  | (n, x) :: r, e, mul => (if x = 1 then 0 else e % n * mul) + bcastIdx r (e / n) (mul * x)

/-- An input's value at the output's element e. -/
def bcast (dext : List Nat) (t : Tensor) (vals : List Nat) (e : Nat) : Nat := (vals[bcastIdx (dext.zip t.ext) e 1]?).getD 0

/-- The slots of a chain (R168). -/
def Chain.slots (c : Chain) : Nat × Nat :=
  c.ops.foldl (fun acc o => (acc.1 + (opSlots o.code).1, acc.2 + (opSlots o.code).2)) (0, 0)

/-! Division of work over cores (R136, R154). -/

/-- The share of core i of t among u units (R136). -/
def shareOf (i t u : Nat) : Nat × Nat := (i * u / t, (i + 1) * u / t)

/-- The cores of a set with work, with their shares of `units` units (R136, R154). -/
def sharesOf (cores : List Nat) (units : Nat) : List (Nat × Nat × Nat) :=
  cores.zipIdx.filterMap fun (c, i) =>
    let sh := shareOf i cores.length units
    if sh.1 < sh.2 then some (c, sh.1, sh.2) else none

/-- The share that holds a unit. -/
def shareAt (l : List (Nat × Nat × Nat)) (u : Nat) : Nat × Nat × Nat := (l.find? fun e => decide (e.2.1 ≤ u ∧ u < e.2.2)).getD (0, 0, 0)

end Sys2Proof.Machine
end

