-- ==== Sys2Proof/Machine/Near.lean ====
section
/-! DEFINITION. Near-bank work (07): destination codewords, their times in a window, their values, and how windows end. -/

namespace Sys2Proof.Machine

/-! Banks and units (R211, R217, R218). -/

/-- The bank of a codeword within its pseudo-channel (R211). -/
def cwBank (c : Nat) : Nat := match locate (32 * c) with
  | .stack _ off => Nat.xor (bits off 17 5) (bits off 22 5)
  | _ => 0

/-- Whether the unit of a codeword's bank is retired (R456). -/
def unitRetired (s : State) (c : Nat) : Bool := match locate (32 * c) with
  | .stack k off => s.flt.nearUnits.contains
      (2048 * (k / 4) + 32 * Nat.xor (bits off 11 6) (bits off 17 6) + Nat.xor (bits off 17 5) (bits off 22 5))
  | _ => false

/-- The bank whose unit computes a codeword (R217, R218). -/
def workBank (s : State) (c : Nat) : Nat := if unitRetired s c then Nat.xor (cwBank c) 1 else cwBank c

/-- The codewords of a destination codeword's inputs. -/
def NearWord.sources (w : NearWord) : List Nat := (w.elems.flatMap fun e => (e.srcs.filter (· != 0)).map codeword).eraseDups

/-- Whether a codeword's block lies in a retired pseudo-channel and so has moved (R470). -/
def blockMoved (s : State) (c : Nat) : Bool := match locate (32 * c) with
  | .stack k off => s.flt.retiredBanks.contains (0x8000 + k, Nat.xor (bits off 11 6) (bits off 17 6))
  | _ => false

/-- Whether a source is read inside the bank of the unit that computes; any other is carried. -/
def inBank (s : State) (w : NearWord) (c : Nat) : Bool :=
  !unitRetired s w.cw && !blockMoved s c && groupKey (32 * c) == groupKey (32 * w.cw) && cwBank c == cwBank w.cw
def NearWord.carried (w : NearWord) (s : State) : List Nat := w.sources.filter fun c => !inBank s w c

/-- The slots of a chain for one element in a unit (R213). -/
def nearSlots (ch : Chain) : Nat :=
  (ch.ops.map fun o => match o.code with | 0x22 => 4 | 0x23 => 5 | 0x25 => 12 | _ => 1).foldl (· + ·) 0

/-- The time of one destination codeword in ns (R229): array accesses in its bank, or slots. -/
def cwTime (s : State) (r : NearRun) (w : NearWord) : Nat :=
  let size := ((r.sets[w.entry]?).map fun t => nibbles t.fmt / 2).getD 4
  max (2 * ((w.sources.filter (inBank s w)).length + 1)) (32 / size * nearSlots r.chain / 8)

/-! A window's share of the work (R226, R229, R334). -/

/-- The destination codewords of a descriptor still to be computed in a bank group, with their inputs present. -/
def groupLeft (s : State) (d key : Nat) : List NearWord :=
  match tfind s.mem.near d, getF s d with
  | some r, some f => r.left.filter fun w => groupKey (32 * w.cw) == some key
      && (w.need == 0 || decide (w.need ≤ ctrOf s f.part f.waitC))
  | _, _ => []

/-- The codewords of one unit that a window of some work time begins: each in turn while time is left. -/
def unitShare (s : State) (r : NearRun) (ws : List NearWord) (len : Nat) : List NearWord :=
  (ws.foldl (fun (acc : Nat × List NearWord) w =>
    if acc.1 < len then (acc.1 + cwTime s r w, acc.2 ++ [w]) else acc) (0, [])).2

/-- The codewords that a window of some work time begins. -/
def windowWords (s : State) (d key len : Nat) : List NearWord :=
  match tfind s.mem.near d with
  | some r => (List.range 32).flatMap fun k => unitShare s r ((groupLeft s d key).filter fun w => workBank s w.cw == k) len
  | none => []

/-! Values (R213, R214, R217, R228, R231). -/

/-- An input of an element as binary32, with whether it is poison. -/
def nearInput (s : State) (t : NearSet) (e : NearElem) (i : Nat) : Nat × Bool :=
  match (t.once[i]?).getD none with
  | some v => v
  | none =>
    let pa := (e.srcs[i]?).getD 0
    let fmt := (t.fmts[i]?).getD 0
    if pa = 0 then (0, false) else (widen fmt (pnat s pa (nibbles fmt / 2)) 0, poisoned s pa)

/-- One destination codeword computed from its operands as they are now, and written in one operation; poison in any makes it
poison. A range that R220 leaves undefined gets free bytes. -/
def nearWord (s : State) (ch : Chain) (t : NearSet) (w : NearWord) : State × Bool :=
  let size := nibbles t.fmt / 2
  let put (u : State) (bs : List Byte) : State :=
    (byteRuns ((w.elems.flatMap fun e => (List.range size).map fun i => e.d + i).zip bs)).foldl (fun v e => pwrite v e.1 e.2) u
  let ins := w.elems.map fun e => (List.range 3).map (nearInput s t e)
  if t.junk then
    let b := takeBytes s (size * w.elems.length)
    (put b.2 b.1, false)
  else if ins.any fun l => l.any Prod.snd then (pwritePoison s w.cw, true)
  else (put s (ins.flatMap fun l =>
    let at_ (i : Nat) := ((l[i]?).getD (0, false)).1
    toLe size (convert t.fmt .rne (cvtSat ch.cvt) (ch.eval { a := at_ 0, b := at_ 1, acc := 0, side := at_ 2, idx := 0 }))), false)

/-! The cache around windows (R227). -/

/-- Dirty lines of blocks written back, and lines of blocks invalidated, in every way. -/
def cleanBlocks (s : State) (blks : List Nat) : State :=
  let s1 := writeBack s fun _ x => blks.contains x.block
  { s1 with mem := { s1.mem with cache := tmap s1.mem.cache fun _ x => if blks.contains x.block then { x with dirty := 0 } else x } }
def dropBlocks (s : State) (blks : List Nat) : State :=
  let s1 := writeBack s fun _ x => blks.contains x.block
  { s1 with mem := { s1.mem with cache := tfilter s1.mem.cache fun _ x => !blks.contains x.block } }

/-! Ending windows (R226, R228, R232, R233). -/

/-- Codewords of a descriptor computed and written; the run keeps what is left and the first destination that met poison. -/
def nearDrain (s : State) (d : Nat) (ws : List NearWord) : State :=
  match tfind s.mem.near d with
  | none => s
  | some r =>
    let out := ws.foldl (fun (acc : State × Option Nat) w => match r.sets[w.entry]? with
      | none => acc
      | some t =>
        let x := nearWord acc.1 r.chain t w
        (x.1, if x.2 then some (acc.2.getD w.va) else acc.2)) (s, r.poisoned)
    let u := dropBlocks out.1 (ws.map fun w => w.cw / 64)
    { u with mem := { u.mem with near := tput u.mem.near d { r with left := r.left.filter fun w => !ws.contains w, poisoned := out.2 } } }

/-- A bank group without a window; what it holds is released by its WINDOW_CLOSE. -/
def shutGroup (s : State) (key : Nat) : State := putBg s key { getBg s key with open_ := false, blocks := [] }

/-- The windows of a descriptor ended after the codewords in progress. -/
def shutWindows (s : State) (d : Nat) : State :=
  (s.mem.bank.filter fun e => e.2.open_ && e.2.desc == d).foldl (fun t e =>
    shutGroup (nearDrain t d (windowWords t d e.1 (t.time.now - e.2.openedAt - 40))) e.1) s

/-- The time from a near-bank descriptor's first window to now (R221). -/
def nearTime (s : State) (d : Nat) : Nat :=
  match (tfind s.mem.near d).bind (·.begun) with
  | some t => s.time.now - t
  | none => 0

end Sys2Proof.Machine
end

