-- ==== Sys2Proof/Machine/Control.lean ====
section
/-! DEFINITION. What stops work: descriptors stopped or dropped (R142, R282, R312), partition reset and destruction
(R312, R438), ports leaving UP (R408), tests stopped (R563, R564), and TRIP (R507). -/

namespace Sys2Proof.Machine

/-! Stopping descriptors. -/

/-- The held descriptors that satisfy a test, by number. -/
def flightsOf (s : State) (t : Flight → Bool) : List Nat := (s.qe.flights.filter fun e => t e.2).map Prod.fst

/-- Every trace of a held descriptor's work taken back: its place in core intakes, its contributions to reduction
groups, its near-bank windows, whose codewords in progress are written (R233), its step's Eve entries, its messages, and its
wait for a pool (R142, R282, R312, R410). -/
def cleanF (s : State) (d : Nat) : State :=
  match getF s d with
  | none => s
  | some f =>
    let s1 := rollbackStep (shutWindows s d) f.part d
    { s1 with
      flt := { s1.flt with cores := tmap s1.flt.cores fun _ c =>
        { c with intake := c.intake.filter (· != d) } }
      mem := { s1.mem with
        groups := tmap s1.mem.groups fun _ g => { g with contrib := g.contrib.filter fun x => x.2.1 != d }
        near := tdel s1.mem.near d }
      steps := { s1.steps with runs := tdel s1.steps.runs d }
      plauf := { s1.plauf with out := s1.plauf.out.filter fun e => e.2.desc != d || e.2.kind == 3 || e.2.kind == 5 || e.2.kind == 6 }
      kv := { s1.kv with pools := tmap s1.kv.pools fun _ p => { p with stopped := p.stopped.filter fun e => e.1 != d } }
      log := { s1.log with parked := s1.log.parked.filter (· != d) } }

/-- The entries of a STEP that run are dropped with it (R330). -/
def dropChildren (s : State) (k : Nat) : State :=
  (flightsOf s fun f => f.stepOf == some k).foldl (fun t d => delF (cleanF t d) d) s

/-- A swap of a slot whose descriptor stops goes back to where it began, with SWAP_SPACE at a TRIP (R578, R580). -/
def stopSwaps (s : State) (d : Nat) (record : Bool) : State :=
  let p := ((getF s d).map (·.part)).getD 0
  (s.kv.slots.filter fun e => e.2.swapBy == some d).foldl (fun t e =>
    match e.2.st with
    | .swappingOut => if record then swapBack t p e.1 else swapReopen t p e.1
    | .swappingIn => if record then emit (swapInBack t p e.1) 3 8 { part := p } [] else swapInBack t p e.1
    | _ => t) s

/-- A held descriptor stopped with a status: an entry of a STEP stops its STEP (R282, R330). The extra field of one stopped
near-bank is its time in windows (R221). -/
def stopF (s : State) (d st : Nat) : State :=
  match getF s d with
  | none => s
  | some f =>
    let k := f.stepOf.getD d
    endF (cleanF (stopSwaps (dropChildren s k) k (st == stPreempted)) k) k st (nearTime s k)

/-- Whether a STEP's commit is done: it has ended, or only its output records' answers are out (R81, R285). -/
def committedF (f : Flight) : Bool :=
  f.opcode == 0x6001 && (f.phase == .ended || f.answers)
    && (f.status == stOk || f.status == stEveRejected || f.status == stDeadline)

/-- A held descriptor dropped without a record (R81). A STEP whose commit is done keeps its output records, whose messages stay
out, and its signal. -/
def dropF (s : State) (d : Nat) : State :=
  match getF s d with
  | none => s
  | some f =>
    if committedF f then
      let t := headerSignal s d f
      let u := delF (cleanF t d) d
      { u with plauf := { u.plauf with out := t.plauf.out } }
    else delF (cleanF (stopSwaps (dropChildren s d) d false) d) d

/-- Whether a descriptor has started and has not ended (R62, R507). A STEP or a KV operation that is held behind a running
step has not started its work (R246, R327). -/
def Flight.live (f : Flight) : Bool := f.phase == .started || f.phase == .running || f.phase == .stopped

/-- A descriptor stopped if its work has not ended. -/
def stopLive (s : State) (d st : Nat) : State := if ((getF s d).map (·.live)).getD false then stopF s d st else s

/-- Every descriptor that has started and satisfies a test stopped with a status, STEPs through their entries. -/
def stopWhere (s : State) (st : Nat) (t : Flight → Bool) : State :=
  (flightsOf s fun f => f.live && f.stepOf.isNone && t f).foldl (fun u d => stopF u d st) s

/-- Whether a descriptor sleeps on its header wait, at the head of its queue or in a core's intake (R304, R305). -/
def asleepAtHead (s : State) (d : Nat) (f : Flight) : Bool :=
  f.phase == .fetched && f.fWait && !waitMet s f.part f.waitC f.waitT
    && !(s.qe.flights.any fun e => decide (e.1 < d) && e.2.q == f.q && e.2.fn == f.fn && e.2.phase == .fetched)

/-! Queues leaving the hot list (R56, R59). -/

/-- HOT = 0 written and the queue taken off the hot list. -/
def hotOff (s : State) (q : Nat) : State :=
  if s.qe.hot.contains q then
    let s1 := hwrite s ((getQ s q).rcb + 0x24) [0]
    { s1 with qe := { s1.qe with hot := s1.qe.hot.filter (· != q) } }
  else s

/-- A queue's state set and written to its RCB (R44, R46). -/
def setQState (s : State) (q : Nat) (st : QState) : State :=
  let x := getQ s q
  let code : Nat := match st with | .disabled => 0 | .enabled => 1 | .draining => 2 | .error => 3
  putQ (hwrite s (x.rcb + 0x25) (toLe 1 code)) q { x with st := st }

/-- A queue in ERROR with its code and the producer index read (R46, R48, R59). Where SQ_PROD was not read as the error was
found, ERR_PROD is the value last read (assumption 156). -/
def queueError (s : State) (q code prod : Nat) : State :=
  let s1 := hotOff (setQState s q .error) q
  let x := getQ s1 q
  putQ (hwrite s1 (x.rcb + 0x26) (toLe 2 code ++ toLe 4 prod)) q { x with qerr := code }

/-- Bytes written to the RCB of a queue that is served; a write that fails puts the queue into ERROR (R48). The code of an RCB
that cannot be written is RCB_READ, as R59 has it (assumption 186). -/
def rcbWrite (s : State) (q off : Nat) (bs : List Byte) : State :=
  let x := getQ s q
  if hostBad s (x.rcb + off) bs.length then queueError s q 4 x.prodSeen else hwrite s (x.rcb + off) bs

/-- A queue evicted from the hot list (R57); the write of HOT = 0 may fail as any write to the RCB. -/
def hotEvict (s : State) (q : Nat) : State :=
  if hostBad s ((getQ s q).rcb + 0x24) 1 then queueError s q 4 (getQ s q).prodSeen else hotOff s q

/-- A queue disabled by the device: fetching stops, HOT = 0, DRAINING (R44, R59). -/
def drainQueue (s : State) (q : Nat) : State :=
  match (getQ s q).st with
  | .enabled => hotOff (setQState s q .draining) q
  | .error => hotOff (setQState s q .draining) q
  | _ => s

/-! Sequence and stream state at resets. -/

/-- A message held at this device answered (R404): the answer leaves on the neighbour's group, or waits for credit. -/
def answerTo (s : State) (hash : Nat) (m : RemMsg) (status : Nat) (data : List Byte) : State :=
  let half := (tfind s.plauf.targetEpoch m.targetPart).getD 0
  let a := { m with type := m.type + 1, status := status, data := data, epochTarget := half }
  let n := s.plauf.nextReq
  let o : OutReq := { desc := 2 ^ 40, part := 255, handle := 0, msg := a, port := 255, sentAt := s.time.now,
                      local_ := hash, kind := 8 }
  trySend { s with plauf := { s.plauf with out := tput s.plauf.out n o, nextReq := n + 1 } } n

/-- Both epoch halves of a partition raised: as a sender its streams begin again at 0 and its unanswered messages are
dropped; as a target its records of applied sequences are cleared and signals held are answered OFFLINE (R405, R410). -/
def raiseSender (s0 : State) (p : Nat) : State :=
  let s := s0.plauf.streamsIn.foldl (fun t e =>
    if e.1 % 16 = p then e.2.held.foldl (fun u m => answerTo u (e.1 / 256) m 3 []) t else t) s0
  { s with plauf := { s.plauf with
    streamsIn := tmap s.plauf.streamsIn fun k x => if k % 16 = p then { sender := x.sender } else x
    exports := tmap s.plauf.exports fun k x => if k / 256 = p then { x with inUse := 0 } else x
    senderEpoch := tput s.plauf.senderEpoch p ((senderHalf s p + 1) % 256)
    targetEpoch := tput s.plauf.targetEpoch p (((tfind s.plauf.targetEpoch p).getD 0 + 1) % 256)
    streamsOut := tmap s.plauf.streamsOut fun k x => if k / 16 % 16 = p then { x with next := 0 } else x
    out := s.plauf.out.filter fun e => e.2.part != p } }

/-- Snapshot banks of a partition's scope emptied (R558). -/
def emptyBanks (s : State) (p : Nat) : State :=
  { s with snap := { s.snap with banks := s.snap.banks.map fun b => if b.scope == p && b.st != 0 then {} else b } }

/-- The partition of a cache key and of a translation key. -/
def ofPart (p k : Nat) : Bool := k / 2 ^ 20 % 16 == p

/-- The lines of a partition's ways invalidated, with its translations. -/
def dropWays (s : State) (p : Nat) : State :=
  { s with mem := { s.mem with
    cache := tfilter s.mem.cache fun k _ => !ofPart p k
    tlb := tfilter s.mem.tlb fun k _ => k % 16 != p
    tlbUp := tfilter s.mem.tlbUp fun k _ => k % 16 != p } }

/-- The dirty lines of a partition's ways written back, and its ways invalidated (R188). -/
def flushCache (s : State) (p : Nat) : State := dropWays (writeBack s fun k _ => ofPart p k) p

/-- The ways of a partition invalidated without write-back: the data of its dirty lines is lost (R188). -/
def loseCache (s : State) (p : Nat) : State := dropWays (loseDirty s fun k _ => ofPart p k) p

/-- The state of a partition that a reset or its destruction clears (R312, R438): dirty lines of its ways are written back, or,
at its destruction, lost (R188). -/
def clearWith (s : State) (p : Nat) (destroyed : Bool) : State :=
  -- running and sleeping descriptors, as they stand when the reset begins
  let own := (s.qe.flights.filter fun e => e.2.part == p && e.2.q != 0 && e.2.stepOf.isNone
    && (e.2.live || e.2.phase == .held || e.2.phase == .parked || asleepAtHead s e.1 e.2)).map Prod.fst
  let s1 := own.foldl (fun t d => stopF t d stAborted) s
  let s2 := { s1 with
    sync := { counters := tfilter s1.sync.counters fun k _ => k / 1024 != p
              pairs := tfilter s1.sync.pairs fun k _ => k / 256 != p }
    steps := { s1.steps with rotas := tfilter s1.steps.rotas fun k _ => k / 256 != p }
    mem := { s1.mem with
      staging := tmap s1.mem.staging fun k v =>
        v - ((s1.mem.groups.filter fun e => e.1 / 256 == p && e.2.stack == k && e.2.staged).map
          fun e => e.2.count * e.2.bytes).foldl (· + ·) 0
      groups := tfilter s1.mem.groups fun k _ => k / 256 != p } }
  let s3 := if destroyed then loseCache (resetKv s2 p) p else flushCache (resetKv s2 p) p
  let s4 := match getP s3 p with
    | some x => putP s3 p { x with prefetchDrop := 0, bwMiss := 0, bw := tmap x.bw fun _ b => { b with bytes := 0, misses := 0 } }
    | none => s3
  emptyBanks (raiseSender s4 p) p

/-- The state of a partition that a reset clears (R312). -/
def clearPart (s : State) (p : Nat) : State := clearWith s p false

/-! Ports leaving UP (R392, R408). -/

/-- Unsent requests tried again, in order. -/
def pumpOut (s : State) : State :=
  (s.plauf.out.filter fun e => e.2.port == 255).foldl (fun t e => trySend t e.1) s

/-- The unanswered requests of a port resent on its group (R408). -/
def rerouteFrom (s : State) (p : Nat) : State :=
  let s1 := { s with plauf := { s.plauf with
    out := tmap s.plauf.out fun _ o => if o.port = p then { o with port := 255 } else o } }
  pumpOut s1

/-- A port taken to a state that is not UP, losing its keys when it goes DOWN or is retired (R384, R417). -/
def portLeave (s : State) (p : Nat) (st : PortSt) (hold : Option Nat) : State :=
  let x := getPort s p
  if x.st = .retired then s
  else
    let wasUp := x.st == .up
    let keep := st == .train
    let s1 := putPort s p { x with
      st := st, keyed := x.keyed && keep, fromUp := wasUp && keep, trainSince := s.time.now
      keys := if keep then x.keys else [], salts := if keep then x.salts else [], prevRx := if keep then x.prevRx else none
      credits := if keep then x.credits else [4096, 4096, 1024]
      holds := match hold with | none => x.holds | some h => if x.holds.contains h then x.holds else h :: x.holds }
    if wasUp then recap (rerouteFrom s1 p) (0x100 + p) else s1

/-- A cause that held a port DOWN removed; with none left it may train (R383, R384, R501). -/
def portRelease (s : State) (p hold : Nat) : State :=
  let x := getPort s p
  let holds := x.holds.filter (· != hold)
  putPort s p { x with
    holds := holds
    st := if x.st == .down && x.holds.contains hold && holds.isEmpty then .train else x.st
    trainSince := if x.st == .down then s.time.now else x.trainSince }

/-! Tests (R562-R564). -/

/-- A finished or stopped test reported: to the command that waits for it, or by its done record (R562, R563). -/
def reportTest (s : State) (t : TestRun) (extra : Nat) : State :=
  match t.by_ with
  | some d => endF s d stOk extra
  | none => emit s 5 (if t.calibrate then 7 else 6) {} [(8, t.tag), (4, extra), (2, t.set)]

/-- The test under way stopped INCOMPLETE (R563, R564). -/
def stopTest (s : State) : State :=
  match s.hol.running with
  | none => s
  | some t =>
    let s1 := { s with hol := { s.hol with running := none, testsRun := s.hol.testsRun + 1 } }
    let s2 := (tkeys s1.parts).foldl (fun u p => match getP u p with
      | some x => putP u p { x with fetchStopped := false }
      | none => u) s1
    reportTest s2 t 0x1000

/-! TRIP (R506-R508). -/

/-- The save cell of a queue that no descriptor uses (R333, R335). -/
def freeCell (s : State) (q : Nat) : Option Nat :=
  let used := (s.qe.flights.filter fun e => e.2.q == q).filterMap fun e => e.2.trickle.cell
  (List.range (getQ s q).trickCells).find? fun c => !used.contains c

/-- The bytes of a save cell (R333). -/
def saveCellBytes : Nat := 73728

/-- A sleeping TRICKLE descriptor's accumulators and progress written to a cell of 72 KiB, whose layout is opaque, and its
units released (R335, R336). -/
def saveCell (s : State) (d : Nat) (f : Flight) (c : Nat) : State :=
  let b := takeBytes s saveCellBytes
  let s1 := match vwrite b.2 { part := f.part, desc := d, rem := [] } ((getQ s f.q).trickArea + saveCellBytes * c) b.1 with
    | .ok t => t
    | .error _ => b.2
  let s2 := putF s1 d { f with begun := false, trickle := { f.trickle with cell := some c, check := s.free } }
  { s2 with flt := { s2.flt with cores := tmap s2.flt.cores fun _ x => { x with intake := x.intake.filter (· != d) } } }

/-- A TRICKLE descriptor that sleeps saves its progress if a cell is free, else it completes PREEMPTED (R337). -/
def trickleSaveOrStop (s : State) (d st : Nat) : State :=
  match getF s d with
  | none => s
  | some f =>
    if f.trickle.cell.isSome then s
    else match freeCell s f.q with
      | some c => saveCell s d f c
      | none => stopF s d st

/-- Started descriptors stopped with a status, sleeping TRICKLE descriptors saving (R485, R507). -/
def stopAllWork (s : State) (st : Nat) (t : Flight → Bool) : State :=
  let s1 := (flightsOf s fun f => f.live && f.trickle.asleep && f.q != 0 && t f).foldl
    (fun u d => trickleSaveOrStop u d st) s
  stopWhere s1 st fun f => f.q != 0 && !f.trickle.asleep && t f

/-- The record area of LIFETIME that TRIP raises (R535). -/
def countTrip (s : State) (cause : Nat) : State :=
  { s with mgmt := { s.mgmt with life := { s.mgmt.life with
    trips := s.mgmt.life.trips.set (cause - 1) (((s.mgmt.life.trips[cause - 1]?).getD 0) + 1) } } }

/-- The THERMAL source of an armed Equinox (R549): it leaves the mask and latches. -/
def thermalTrigger (s : State) (detail : Nat) : State :=
  if bit s.snap.armed 2 then
    equinox { s with snap := { s.snap with armed := s.snap.armed - 4 } } s.snap.scope 3 [detail]
  else s

/-- TRIP entered for a cause, or a further cause recorded (R506, R507, R512). Causes: 1 LOGIC, 2 TIERF, 3 STACK,
4 COOLANT, 5 CURRENT. -/
def enterTrip (s : State) (cause : Nat) : State :=
  if s.pwr.tripCauses.contains cause then s
  else if !s.pwr.tripCauses.isEmpty then
    emit (countTrip { s with pwr := { s.pwr with tripCauses := s.pwr.tripCauses ++ [cause] } } cause) 1 1 {} [(1, cause)]
  else
    let s1 := thermalTrigger s cause
    -- commands that change the package's or a partition's state end TRIPPED (R512)
    let s2 := (flightsOf s1 fun f => f.q == 0 && (f.phase == .held || f.phase == .running)
        && (f.opcode == 0xF110 || f.opcode == 0xF103)).foldl (fun t d => refuseF t d rTripped) s1
    let s3 := stopAllWork (stopTest s2) stPreempted fun _ => true
    -- swaps of pre-emption, which no descriptor waits for
    let s4 := (s3.kv.slots.filter fun e => e.2.st == .swappingOut && e.2.swapBy.isNone).foldl
      (fun t e => swapBack t (((t.parts.find? fun q => decide (q.2.firstSlot ≤ e.1 ∧ e.1 < q.2.firstSlot + q.2.slotCount)).map
        Prod.fst).getD 0) e.1) s3
    let s5 := { s4 with
      mem := { s4.mem with bank := tmap s4.mem.bank fun _ b => { b with open_ := false } }
      pwr := { s4.pwr with pkg := .trip, tripStandby := decide (s4.pwr.pkg = .standby), tripCauses := [cause], level := 0
                           slewTo := none, drainAt := none, drainTo := none
                           enabled := s4.pwr.enabled.filter (· < 3), good := s4.pwr.good.filter (· < 3) }
      parts := tmap s4.parts fun _ x => match x.target with
        | some (old, _) => { x with st := old, target := none }
        | none => x }
    emit (countTrip s5 cause) 1 1 {} [(1, cause)]

/-! Package states (R484, R485, R608). -/

/-- The package in a state without tenant work, with its power groups and ports (R484, R608): in STANDBY the engines and
the cores lose power and every port is DOWN. -/
def enterPkg (s : State) (dest : Pkg) : State :=
  let s1 := { s with pwr := { s.pwr with
    pkg := dest, level := 0
    enabled := if dest = .standby then s.pwr.enabled.filter (· < 2) else [0, 1, 2, 3, 4]
    good := if dest = .standby then s.pwr.good.filter (· < 2) else s.pwr.good } }
  if dest = .standby then (List.range 32).foldl (fun t p => portLeave t p .down (some 6)) s1 else s1

/-- A drain of RUN that has ended: no started descriptor runs, so the package reaches its target (R485). -/
def settleDrain (s : State) : State :=
  match s.pwr.drainTo with
  | none => s
  | some (dest, d) =>
    if s.qe.flights.any fun e => e.2.live && e.2.q != 0 && !e.2.trickle.asleep then s
    else
      let s1 := enterPkg s dest
      endF { s1 with pwr := { s1.pwr with drainAt := none, drainTo := none } } d stOk 0

/-! Fences (R366, R367, R369, R372). -/

/-- Whether a partition holds a logical row of a tower, or a grain of a stack. -/
def rowsIn (x : Part) (t : Nat) : Bool := decide (x.rows / 2 ^ (16 * t) % 65536 ≠ 0)
def grainIn (s : State) (p k : Nat) : Bool :=
  (List.range 16).any fun i =>
    let e := grainEntry s (16 * k + i)
    e == p || (e == 0x80 && tfind s.mem.grainOwner (16 * k + i) == some p)
def grainsIn (s : State) (p t : Nat) : Bool := (List.range 4).any fun i => grainIn s p (4 * t + i)

/-- Whether a partition needs a die, by the die's code in R542. -/
def needsDie (s : State) (p : Nat) (x : Part) (die : Nat) : Bool :=
  if die = 1 then rowsIn x 1 || grainsIn s p 1
  else if die = 2 ∨ die = 3 then rowsIn x (die - 2)
  else decide (4 ≤ die ∧ die < 12) && grainIn s p (die - 4)

/-- Whether the fabric is severed (R366, R372): every bundle retired in some direction, or one side of it fenced. -/
def severedNow (s : State) : Bool :=
  ((List.range 24).all fun b => (getBundle s (2 * b)).retired || (getBundle s (2 * b + 1)).retired)
    || !s.fab.refLost.isEmpty || s.fab.dieReset.contains 1 || s.fab.dieLost.contains 1

/-- The fence causes of a partition now, in the codes of R598: 1 fabric severed, 2 reference clock lost, 3 die lost, 4 die
reset. -/
def fenceCauses (s : State) (p : Nat) (x : Part) : List Nat :=
  (if s.fab.dieLost.any fun d => needsDie s p x d then [3] else [])
    ++ (if s.fab.dieReset.contains 1 && rowsIn x 1 then [4] else [])
    ++ (if s.fab.refLost.any fun t => rowsIn x t || grainsIn s p t then [2] else [])
    ++ (if s.fab.severed && rowsIn x 1 then [1] else [])

/-- A partition's fences brought up to date; as the first one falls, its running and fetched descriptors complete with a
status. -/
def fencePart (st : Nat) (s : State) (p : Nat) : State :=
  match getP s p with
  | none => s
  | some x =>
    let now := fenceCauses s p x
    let l := (x.fences.filter fun c => now.contains c) ++ now.filter fun c => !x.fences.contains c
    let s1 := putP s p { x with fences := l }
    if x.fences.isEmpty && !l.isEmpty then
      (flightsOf s1 fun f => f.part == p && f.q != 0 && f.stepOf.isNone && f.phase != .ended).foldl (fun u d => stopF u d st) s1
    else s1

/-- Severance and every fence brought up to date, with the records of R366. As severance starts, a running descriptor whose header
names a counter across the fabric completes PARTITION_OFFLINE. -/
def settleFences (s : State) (st : Nat) : State :=
  let sev := severedNow s
  let s0 : State := { s with fab := { s.fab with severed := sev } }
  let s1 := if sev && !s.fab.severed then emit s0 4 4 {} [] else if !sev && s.fab.severed then emit s0 4 5 {} [] else s0
  let s2 := (tkeys s1.parts).foldl (fencePart st) s1
  if sev && !s.fab.severed then stopWhere s2 stOffline fun f => f.q != 0 && acrossFabric s2 f else s2

end Sys2Proof.Machine
end

