-- ==== Sys2Proof/Machine/Queues.lean ====
section
/-! DEFINITION. Queues (02, 21): polling, the hot list, starting and completing descriptors, interrupts, queue operations,
and function resets. -/

namespace Sys2Proof.Machine

/-! Ownership (R41). -/

/-- The function that owns a group: the VF it is bound to, else PF0. -/
def groupFn (s : State) (g : Nat) : Nat :=
  ((s.vfs.find? fun e => decide (e.2.firstGroup ≤ g ∧ g < e.2.firstGroup + e.2.groups)).map Prod.fst).getD 0
/-- The function that owns a queue. -/
def queueFn (s : State) (q : Nat) : Nat := groupFn s (q / 64)
/-- Queues of a function that are not DISABLED. -/
def activeQueues (s : State) (fn : Nat) : List Nat :=
  (s.qe.ctx.filter fun e => e.2.st != .disabled && queueFn s e.1 == fn).map Prod.fst
/-- Enabled queues of a function. -/
def enabledQueues (s : State) (fn : Nat) : List Nat :=
  (s.qe.ctx.filter fun e => e.2.st == .enabled && queueFn s e.1 == fn).map Prod.fst

/-! Fetching (R47, R48, R53, R56, R57). -/

/-- Whether a queue is fetched now (R78, R313, R484, R565): the admin queue always, a tenant queue in RUN unless its
partition is PARKED, in reset or lent to a FORCE test. -/
def fetchable (s : State) (q : Nat) : Bool :=
  if q = 0 then true
  else decide (s.pwr.pkg = .run) && s.pwr.drainAt.isNone && (match getP s (getQ s q).part with
    | none => true
    | some x => x.st != .parked && !x.inReset && !x.fetchStopped)

/-- Descriptors of slots from index i on, held as fetched now (R47, R340). -/
def holdSlots (s : State) (q : Nat) : List (Nat × List Byte) → State
  | [] => s
  | (slot, bs) :: r =>
    let x := getQ s q
    let f : Flight := { fn := queueFn s q, q := q, slot := slot, part := if q = 0 then 0xFF else x.part
                        words := toWords bs, fetchTime := s.time.now }
    holdSlots { s with qe := { s.qe with
      flights := tput s.qe.flights s.qe.nextFlight f, nextFlight := s.qe.nextFlight + 1 } } q r

/-- Descriptors that a producer index p makes new for a queue whose consumer index is c (R47). -/
def newCount (p c : Nat) : Nat := (p + 2 ^ 32 - c) % 2 ^ 32

/-- The descriptors of a queue's next n slots, with their slots; none where a read fails (R47, R48). -/
def fetchSlots (s : State) (x : QCtx) (n : Nat) : Option (List (Nat × List Byte)) :=
  ((List.range n).map fun i =>
    let j := (x.sqCons + i) % 2 ^ x.sqLog2
    (hread s (x.sqBase + 64 * j) 64).map fun b => (j, b)).foldr
      (fun o acc => match o, acc with | some v, some l => some (v :: l) | _, _ => none) (some [])

/-- A queue put last in the hot set, with HOT = 1 written when it enters (R56); a queue whose write fails is in ERROR and
does not enter. -/
def makeHot (s : State) (q : Nat) : State :=
  let others := s.qe.hot.filter (· != q)
  if s.qe.hot.contains q then { s with qe := { s.qe with hot := others ++ [q] } }
  else
    let t := rcbWrite s q 0x24 [1]
    if (getQ t q).st = .error then t else { t with qe := { t.qe with hot := others ++ [q] } }

/-- The insertion of a fetched queue in the hot set, with the eviction it asks for (R56, R57), as the queue evicted. -/
def hotInsert (s : State) (q : Nat) : State × Option Nat :=
  if s.qe.hotSize = 0 ∨ (getQ s q).st = .error then (s, none)
  else
    let t := makeHot s q
    if t.qe.hotSize < t.qe.hot.length then
      match t.qe.hot with
      | v :: _ => (hotEvict t v, some v)
      | [] => (t, none)
    else (t, none)

/-- Fetched descriptors held, with the consumer index they leave written to the RCB (R46-R48). -/
def takeSlots (s : State) (q p : Nat) (l : List (Nat × List Byte)) : State :=
  let x := getQ s q
  rcbWrite (putQ (holdSlots s q l) q { x with sqCons := p, prodSeen := p, idlePasses := 0, checkDue := false }) q 0x20 (toLe 4 p)

/-- check(q) of R53, with the queue that the hot set evicts for it. The check of a queue that is not fetched now stays owed
until it is: no ring is lost, and no descriptor left behind by an eviction (R53, R54, R57). -/
def checkOnce (s : State) (q : Nat) : State × Option Nat :=
  let x := getQ s q
  if x.st ≠ .enabled then (s, none)
  else if !fetchable s q then (putQ s q { x with checkDue := true }, none)
  else match hread s x.rcb 4 with
    | none => (queueError s q 4 x.prodSeen, none)
    | some b =>
      let p := leNat b
      if p = x.prodSeen then (putQ s q { x with checkDue := false }, none)
      else if 2 ^ x.sqLog2 < newCount p x.sqCons then (queueError s q 1 p, none)
      else match fetchSlots s x (newCount p x.sqCons) with
        | none => (queueError s q 2 p, none)
        | some l => hotInsert (takeSlots s q p l) q

/-- check(q) with the checks of the queues that evictions bring (R57). The number bounds their chain. -/
def checkQueue : Nat → State → Nat → State
  | 0, s, _ => s
  | n + 1, s, q => match checkOnce s q with
    | (t, some v) => checkQueue n t v
    | (t, none) => t

/-- check(q) with a chain long enough for every hot queue. -/
def checkQ (s : State) (q : Nat) : State := checkQueue 1026 s q

/-- Queues beyond HOT_SIZE evicted, least recently fetched first (R596). -/
def trimHot (s : State) : Nat → State
  | 0 => s
  | n + 1 =>
    if s.qe.hot.length ≤ s.qe.hotSize then s
    else match s.qe.hot with
      | q :: _ => trimHot (checkQ (hotEvict s q) q) n
      | [] => s

/-- The enabled queues of a group. -/
def groupQueues (s : State) (g : Nat) : List Nat :=
  (s.qe.ctx.filter fun e => e.1 / 64 == g && e.2.st == .enabled).map Prod.fst

/-- The groups of a sector that a function owns: for PF0 those with a queue context or the admin queue, which are the
ones its table can name with effect. -/
def ownedGroups (s : State) (fn sector : Nat) : List Nat :=
  (List.range 64).filterMap fun i => if groupFn s (64 * sector + i) = fn then some (64 * sector + i) else none

/-- One group of one function in a polling pass (R53, R54): a value that is undefined is recorded without comparing. A group
counter that cannot be read leaves its seen value undefined, so that the next pass finds its rings (assumption 36). -/
def pollGroup (fn : Nat) (s : State) (g : Nat) : State :=
  let f := getFn s fn
  match hread s (f.dbBase + 0x2000 + 8 * g) 8 with
  | none => putFn s fn { f with undef := f.undef.filter (· != g) ++ [g] }
  | some b =>
    let v := leNat b
    if !f.undef.contains g && (tfind f.seenGrp g).getD 0 == v then s
    else (groupQueues s g).foldl checkQ
      (putFn s fn { f with seenGrp := tput f.seenGrp g v, undef := f.undef.filter (· != g) })

/-- One sector of one function in a polling pass (R53, R54): its groups are read when it has changed, and those whose seen
value is undefined in any case. A sector counter that cannot be read is passed over (assumption 36). -/
def pollSector (fn : Nat) (s : State) (sec : Nat) : State :=
  let f := getFn s fn
  let owned := ownedGroups s fn sec
  if owned.isEmpty then s
  else match hread s (f.dbBase + 8 * sec) 8 with
    | none => s
    | some b =>
      let v := leNat b
      let same := (tfind f.seenSec sec).getD 0 == v
      (if same then owned.filter fun g => f.undef.contains g else owned).foldl (pollGroup fn)
        (if same then s else putFn s fn { f with seenSec := tput f.seenSec sec v })

/-- The enabled queues of a function whose check is owed. -/
def dueQueues (s : State) (fn : Nat) : List Nat :=
  (s.qe.ctx.filter fun e => e.2.st == .enabled && e.2.checkDue && queueFn s e.1 == fn).map Prod.fst

/-- One function in a polling pass: where all its seen values are undefined, those of each of its groups are. -/
def pollFn (s : State) (fn : Nat) : State :=
  if (enabledQueues s fn).isEmpty then s
  else
    let f := getFn s fn
    let s0 := if f.allUndef then
        putFn s fn { f with allUndef := false, undef := (List.range 1024).filter fun g => groupFn s g == fn }
      else s
    let s1 := (List.range 16).foldl (pollSector fn) s0
    (dueQueues s1 fn).foldl checkQ s1

/-- The next hot queue in the round robin (R56): by queue number from the last one read. -/
def hotNextQ (s : State) : Option Nat :=
  let after := s.qe.hot.filter (s.qe.hotNext < ·)
  match after with
  | [] => (s.qe.hot.foldl (fun (b : Option Nat) q => some (match b with | none => q | some y => min y q)) none)
  | _ => after.foldl (fun (b : Option Nat) q => some (match b with | none => q | some y => min y q)) none

/-- HOT_READS checks of hot queues. -/
def pollHot : Nat → State → State
  | 0, s => s
  | n + 1, s => match hotNextQ s with
    | none => s
    | some q => pollHot n (checkQ { s with qe := { s.qe with hotNext := q } } q)

/-- POLLING_PASS (R53): stores of the host that are now visible, then the pass. -/
def pollingPass (stores : List HostStore) (failing : List (Nat × Nat)) (s : State) : State :=
  let s1 := { s with
    host := stores.foldl (fun m x => mwriteN m x.addr x.bytes) s.host
    hostFail := failing
    qe := { s.qe with
      pollPasses := s.qe.pollPasses + 1
      ctx := tmap s.qe.ctx fun q x => if s.qe.hot.contains q then { x with idlePasses := x.idlePasses + 1 } else x } }
  let s2 := (0 :: ((tkeys s1.vfs).filter (· != 0))).foldl pollFn s1
  pollHot s2.qe.hotReads s2

def execPollingPass (stores : List HostStore) (failing : List (Nat × Nat)) (s : State) :
    Host.Outcome State Fault Refusal := .next (pollingPass stores failing s)

/-- HOT_IDLE_EVICT (R56, R57): HOT = 0 written, then SQ_PROD read once more. -/
def hotIdleEvict (q : Nat) (s : State) : State :=
  if s.qe.hot.contains q && decide (s.qe.hotIdle ≤ (getQ s q).idlePasses) then checkQ (hotEvict s q) q else s
def execHotIdleEvict (q : Nat) (s : State) : Host.Outcome State Fault Refusal := .next (hotIdleEvict q s)

/-! Starting a descriptor (R49, R62-R65, R74, R77, R237). -/

/-- The operations of R78, R197, R204, R244, R256, R307, R319, R325, R333, R399, R402, R435 and R566 and those of the
MATRIX, ELEMENT and NEAR chapters; every other code is reserved. -/
def opcodes : List Nat :=
  [0x0001, 0x0002, 0x0010, 0x0011, 0x0020, 0x0021, 0x0022, 0x1001, 0x1010, 0x1011, 0x2001, 0x2010, 0x2020, 0x3001, 0x4001,
   0x5001, 0x6001, 0x6010, 0x6011, 0x6020, 0x7001, 0x7002, 0x7003, 0x7004, 0x7010, 0x7011, 0x7020, 0x7021, 0x8000, 0x8001,
   0x8002, 0x8010, 0x8011, 0x8020, 0x9001, 0x9002, 0x9003, 0x9004, 0x9010, 0x9011, 0x9012, 0x9013, 0x9020, 0x9021, 0xE001,
   0xE010, 0xE011, 0xE012, 0xE020, 0xE021, 0xE030, 0xE031, 0xF001, 0xF010, 0xF011, 0xF020, 0xF100, 0xF101, 0xF102, 0xF103,
   0xF110, 0xF111, 0xF112, 0xF120, 0xF121, 0xF122, 0xF130, 0xF131, 0xF132, 0xF140, 0xF141, 0xF142, 0xF150, 0xF151, 0xF160,
   0xF170, 0xF171, 0xF180, 0xF181, 0xF182, 0xF190, 0xF191, 0xF1A0]

/-- Commands the admin queue accepts in the present package state (R77, R541). PART_STATE to ONLINE in TRIP is not among them,
so WRONG_STATE comes before TRIPPED, as R623 orders them (assumption 158). -/
def adminAccepts (s : State) (f : Flight) : Bool :=
  let op := f.opcode
  let held := [0xF001, 0xF170, 0xF020, 0xF190, 0xF191, 0xF132, 0xF131, 0xF130, 0xF171, 0xF1A0]
  if s.mgmt.recovery then op == 0xF001 || (op == 0xF170 && (f.op 0x2C 1 == 1 || f.op 0x2C 1 == 2))
  else match s.pwr.pkg with
  | .off => false
  | .boot => s.mgmt.phase != .bootMgmt && (op == 0xF001 || op == 0xF170)
  | .held => held.contains op
  | .standby => !([0xF100, 0xF101, 0xF102, 0xF103, 0xF120, 0xF121, 0xF122, 0xF140, 0xF141, 0xF142, 0xF150, 0xF151, 0xF181].contains op)
  | .ready => true
  | .run => true
  | .trip => [0xF001, 0xF020, 0xF112, 0xF182, 0xF132, 0xF190, 0xF1A0].contains op
      || (op == 0xF103 && (f.op 0x21 1 == 1 || f.op 0x21 1 == 2)) || (op == 0xF110 && f.op 0x20 1 == 1)

/-- The first failed header check (R65, R74, R77): a status and its extra field. -/
def headerCheck (s : State) (f : Flight) : Option (Nat × Nat) :=
  let fam := f.opcode / 4096
  if f.q = 0 then
    if !opcodes.contains f.opcode then some (stMalformed, 0)
    else if f.fWait || f.fSignal || f.fEve || f.fTrickle || bit f.flags 7 || f.slotF != 0xFFFF then some (stMalformed, 0)
    else if !adminAccepts s f then some (stRefused, rWrongState)
    -- a tenant family is permitted, but the admin queue is bound to no partition; only NOP needs none (assumption 121)
    else if fam < 0xE ∧ f.opcode ≠ 0x8000 then some (stOffline, 0)
    else none
  else
    let x := getQ s f.q
    if !opcodes.contains f.opcode || bit f.flags 7 || 8 ≤ f.op 3 1 || decide (0x8000 ≤ f.slotF ∧ f.slotF ≠ 0xFFFF) then
      some (stMalformed, 0)
    else if fam = 0xF ∨ (fam = 0xE ∧ f.opcode ≠ 0xE001) then some (stPermission, 0)
    else if !bit x.classMask f.cls then some (stPermission, 0)
    else if (f.fWait && decide (1023 < f.waitC)) || (f.fSignal && decide (1023 < f.sigC)) then some (stPermission, 0)
    else if f.slotF ≠ 0xFFFF && !slotOf s f.part f.slotF then some (stPermission, 0)
    else match getP s f.part with
      | none => some (stOffline, 0)
      | some y =>
        if y.st = .offline ∨ !y.fences.isEmpty ∨ acrossFabric s f then some (stOffline, 0) else none

/-- The status of a descriptor that names a slot and is not of the KV family, by the slot's state as it starts (R237). -/
def slotCheck (s : State) (f : Flight) : Option Nat :=
  if f.q = 0 ∨ f.slotF = 0xFFFF ∨ f.opcode / 4096 = 7 then none
  else match (getSlot s f.slotF).st with
    | .free => some stMalformed
    | .swappingOut => some stPreempted
    | .swapped => some stPreempted
    | .swappingIn => some stPreempted
    | .failed => some stPoisoned
    | .open_ => none

/-- Whether nothing before a descriptor in its queue keeps it from starting (R63, R74, R327). -/
def headOfQueue (s : State) (d : Nat) (f : Flight) : Bool :=
  !(s.qe.flights.any fun e => e.2.q == f.q && e.2.fn == f.fn && e.2.stepOf.isNone && e.1 != d &&
    (if f.q = 0 then (e.2.phase != .fetched && e.2.phase != .parked) || (e.2.phase == .fetched && decide (e.1 < d))
     else decide (e.1 < d) && (e.2.phase == .fetched || (e.2.phase == .held && e.2.opcode == 0x6001))))

/-- Whether the FENCE of a descriptor is met (R62). -/
def fenceMet (s : State) (d : Nat) (f : Flight) : Bool :=
  !f.fFence || !(s.qe.flights.any fun e => e.2.q == f.q && e.2.fn == f.fn && e.2.stepOf.isNone && decide (e.1 < d))

/-- Whether a queue's completion ring has room for one more reserved slot, by the CQ_CONS read (R49). -/
def slotRoom (s : State) (q cons : Nat) : Bool :=
  let x := getQ s q
  let held := (s.qe.flights.filter fun e => e.2.q == q && e.2.stepOf.isNone && e.2.reserved).length
  decide (held + (x.written + 2 ^ 32 - cons) % 2 ^ 32 < 2 ^ x.cqLog2)

/-- A completion slot for a descriptor (R49): whether it holds one, or is given one now; an RCB that cannot be read puts the
queue into ERROR, and no descriptor is given one there (R48). -/
def takeSlot (s : State) (d : Nat) (f : Flight) : State × Bool :=
  if f.reserved then (s, true)
  else
    let x := getQ s f.q
    match hread s (x.rcb + 8) 4 with
    | none => (if x.st = .error then s else queueError s f.q 4 x.prodSeen, false)
    | some b => if slotRoom s f.q (leNat b) then (putF s d { f with reserved := true }, true) else (s, false)

/-- The logical cores that core_first and core_count name among the partition's bound cores (R135); count 0 names all. -/
def coreSet (s : State) (p first count : Nat) : List Nat :=
  let l := boundCores s p
  if count = 0 then l.drop first else (l.drop first).take count

/-! Completing a descriptor (R62, R69, R70, R72, R73). -/

/-- The message of a vector (R72, R597): sent, or pending while its table entry is masked, as PCIe leaves it at reset. -/
def sendMsix (s : State) (fn vec : Nat) : State :=
  let f := getFn s fn
  if bit ((tfind f.msix (4 * vec + 3)).getD 1) 0 then putFn s fn { f with msixPending := tput f.msixPending vec 1 }
  else
    let s1 := putFn s fn { f with msgSent := f.msgSent + 1 }
    { s1 with qe := { s1.qe with msgs := s1.qe.msgs ++ [(fn, vec)] } }

/-- A queue's interrupt sent: pending is cleared (R72). -/
def fireIrq (s : State) (q : Nat) : State :=
  let x := getQ s q
  sendMsix (putQ s q { x with pendingIrq := 0 }) (queueFn s q) x.vector

/-- The interrupt moderation of one record (R72). -/
def countIrq (s : State) (q st : Nat) (irq : Bool) : State :=
  let x := getQ s q
  if !x.irqEn then s
  else
    let n := if irq then x.pendingIrq + 1 else x.pendingIrq
    let s1 := putQ s q { x with pendingIrq := n, oldestPending := if x.pendingIrq = 0 then s.time.now else x.oldestPending }
    if 0x1000 ≤ st ∨ (irq ∧ max 1 x.coalCount ≤ n) then fireIrq s1 q else s1

/-- The 16 bytes of a completion record (R50, R69). -/
def recordBytes (f : Flight) (phase : Bool) : List Byte :=
  toLe 8 f.tag ++ toLe 2 f.status ++ toLe 2 f.slot ++ toLe 4 (f.extra % 2 ^ 28 + (if phase then 2 ^ 28 else 0))

/-- A completion record written at the next slot of the ring (R46, R48, R50, R70). -/
def writeRecord (s : State) (f : Flight) : State :=
  let x := getQ s f.q
  let size := 2 ^ x.cqLog2
  let a := x.cqBase + 16 * (x.written % size)
  let phase := x.written / size % 2 == 0
  if hostBad s a 16 then queueError s f.q 3 x.prodSeen
  else
    let s1 := putQ (hwrite s a (recordBytes f phase)) f.q { x with written := (x.written + 1) % 2 ^ 32 }
    countIrq s1 f.q f.status f.fIrq

/-- The status a descriptor completes with: DEADLINE_MISSED in place of OK after its deadline, and, for a STEP that has
committed, in place of EVE_REJECTED (R71, R287, R341). One whose signal's counter has come to lie across a severed fabric is OFFLINE
(R366), unless it is a STEP, which has committed. -/
def finalStatus (s : State) (f : Flight) : Nat :=
  if f.status = stOk && f.fSignal && counterFar s f.sigC && f.opcode != 0x6001 then stOffline
  else match f.absDeadline with
  | some t => if (f.status = stOk ∨ f.status = stEveRejected) ∧ f.q ≠ 0 ∧ t < s.time.now then stDeadline else f.status
  | none => f.status

/-- A step of which an entry has failed or stopped stops its running entries and ends: with the status of its lowest-indexed failure,
or PREEMPTED; a step stopped for pool exhaustion waits for POOL_RESTART once victims have freed frames (R267, R268,
R330). -/
def stepSettle (s : State) (k : Nat) : State :=
  match tfind s.steps.runs k with
  | none => s
  | some r =>
    if !(r.done.any fun e => e.2 == stPreempted || decide (0x1000 ≤ e.2)) then s
    else
      let st := ((r.done.filter fun e => decide (0x1000 ≤ e.2)).foldl (fun (b : Option (Nat × Nat)) e => match b with
        | none => some e
        | some y => if e.1 < y.1 then some e else b) none).map Prod.snd
      let waits := (getF s k).bind fun g => ((getPool s g.part).stopped.find? fun e => e.1 == k).map fun e => (g, e.2)
      match st, waits with
      | none, some (g, need, table) =>
        let s2 := rollbackStep (dropChildren s k) g.part k
        let r2 := { r with started := false, begun := false, next := 0, done := [], live := [] }
        let s3 := preempt { (putF s2 k { g with phase := .stopped }) with
          steps := { s2.steps with runs := tput s2.steps.runs k r2 } } g.part need table
        if s3.2 then s3.1 else stopF s3.1 k stPreempted
      | _, _ => stopF s k (st.getD stPreempted)

/-- A step entry that has completed: its outcome is kept for the step (R329, R330). -/
def childDone (s : State) (d k : Nat) (f : Flight) : State :=
  match tfind s.steps.runs k with
  | none => delF s d
  | some r =>
    let r1 := { r with done := r.done ++ [(f.slot, f.status)], live := r.live.filter fun e => e.1 != f.slot }
    stepSettle (delF { s with
      steps := { s.steps with runs := tput s.steps.runs k r1 }
      flt := { s.flt with cores := tmap s.flt.cores fun _ c => { c with intake := c.intake.filter (· != d) } } } d) k

/-- A trigger held for a partition's reset latched at its end (R583). -/
def endReset (s : State) (p : Nat) : State :=
  match s.snap.heldTrigger with
  | some (scope, source, detail) =>
    if scope = p then latch { s with snap := { s.snap with heldTrigger := none } } scope source detail else s
  | none => s

/-- A PART_RESET that completes ends its partition's reset (R313). -/
def endPartReset (s : State) (f : Flight) : State :=
  match f.opcode, getP s (f.op 0x20 1) with
  | 0xF102, some x => if f.q = 0 then endReset (putP s (f.op 0x20 1) { x with inReset := false }) (f.op 0x20 1) else s
  | _, _ => s

/-- Whether a descriptor's completion is recorded (R70, R74). -/
def needsRecord (f : Flight) : Bool := !f.noRecord && (f.fCmpl || f.status != stOk || f.q == 0)

/-- Whether the completion ring has a slot for a record: the descriptor's own, or, for one that ended before it was started, a
free one (R49). A ring whose CQ_CONS cannot be read holds nothing back (assumption 159). -/
def recordRoom (s : State) (f : Flight) : Bool :=
  f.stepOf.isSome || f.reserved || !needsRecord { f with status := finalStatus s f }
    || (match hread s ((getQ s f.q).rcb + 8) 4 with
      | none => true
      | some b => slotRoom s f.q (leNat b))

/-- The end of the step that a lone ATTEND is (R264, R282, R284): committed when it completes OK or DEADLINE_MISSED, with the
entries it has written; otherwise its entries are dead. -/
def settleAttend (s : State) (d : Nat) (f : Flight) : State :=
  let x := getSlot s f.slotF
  if f.opcode ≠ 0x3001 ∨ f.stepOf.isSome ∨ x.inStep ≠ some d then s
  else if f.status = stOk ∨ f.status = stDeadline then
    endSequence s { part := f.part, desc := d, rem := [] } f.slotF (x.settled + x.eveCount) true
  else rollbackStep s f.part d

/-- DESCRIPTOR_COMPLETE (R70): a lone ATTEND's commit, the header signal, the completion record, its interrupt; the descriptor is no longer
held. -/
def descriptorComplete (d : Nat) (s : State) : State :=
  match getF s d with
  | none => s
  | some f0 =>
    if f0.phase ≠ .ended ∨ hasOut s d ∨ !recordRoom s f0 then s
    else
      let f1 := { f0 with status := finalStatus s f0 }
      let s0 := settleAttend (putF s d f1) d f1
      let s1 := match getF s0 d with
        | some f => headerSignal s0 d f
        | none => s0
      match getF s1 d with
      | none => s1
      | some f =>
        match f.stepOf with
        | some k => childDone s1 d k f
        | none =>
          let s2 := if needsRecord f then writeRecord s1 f else s1
          let s3 := endPartReset s2 f
          -- a failed SWAP_IN that has been reported leaves its slot FREE (R236, R273)
          let s4 := if f.opcode = 0x7021 ∧ (getSlot s3 f.slotF).st = .failed ∧ (getSlot s3 f.slotF).swapBy = some d then
              let t := freeImage s3 f.part f.slotF
              { t with kv := { t.kv with slots := tdel t.kv.slots f.slotF } }
            else s3
          settleDrain (delF { s4 with flt := { s4.flt with cores := tmap s4.flt.cores fun _ c =>
            { c with intake := c.intake.filter (· != d) } } } d)
def execDescriptorComplete (d : Nat) (s : State) : Host.Outcome State Fault Refusal := .next (descriptorComplete d s)

/-- IRQ_COAL_TIMER (R72): coal_time µs after the oldest pending completion. -/
def irqCoalTimer (q : Nat) (s : State) : State :=
  let x := getQ s q
  if x.irqEn ∧ 0 < x.pendingIrq ∧ 0 < x.coalTime ∧ x.oldestPending + 1000 * x.coalTime ≤ s.time.now then fireIrq s q else s
def execIrqCoalTimer (q : Nat) (s : State) : Host.Outcome State Fault Refusal := .next (irqCoalTimer q s)

/-! Queue operations (R44, R594, R592). -/

/-- The vectors of a function's MSI-X table (R72). -/
def vectors (fn : Nat) : Nat := if fn = 0 then 2048 else 128

/-- Whether a configuration entry breaks R43. -/
def entryBad (fn : Nat) (b : List Byte) : Bool :=
  let l1 := fld b 0x18 1
  let l2 := fld b 0x19 1
  decide (fld b 0 8 % 4096 ≠ 0 ∨ fld b 8 8 % 4096 ≠ 0 ∨ fld b 0x10 8 % 64 ≠ 0 ∨ l1 < 4 ∨ 16 < l1 ∨ l2 < 4 ∨ 16 < l2
    ∨ 15 < fld b 0x1A 1 ∨ vectors fn ≤ fld b 0x1C 2 ∨ fld b 0x1F 1 ≠ 0 ∨ 4 ≤ fld b 0x22 2) || !zeroAt b 0x24 28

/-- Whether a function's IDE selective stream is on (R38, R433). -/
def streamOn (s : State) (fn : Nat) : Bool := ((tfind s.gnt.streams (2 * fn)).map (·.on)).getD false

/-- The first failing check of an enable (R594), or the entry. -/
def enableCheck (s : State) (fn q : Nat) : Except Nat (List Byte) :=
  let f := getFn s fn
  if q = 0 ∨ queueFn s q ≠ fn then .error 1
  else if !bootEnded s then .error 2
  else if (getQ s q).st ≠ .disabled then .error 3
  else if !f.qtValid || !f.dbValid then .error 4
  else
    let first := if fn = 0 then 0 else 64 * ((tfind s.vfs fn).map (·.firstGroup)).getD 0
    match hread s (f.qtBase + 64 * (q - first)) 64 with
    | none => .error 5
    | some b =>
      let p := fld b 0x1A 1
      if entryBad fn b then .error 6
      else match getP s p with
        | none => .error 7
        | some x =>
          let vf := (tfind s.vfs fn).getD {}
          if fn ≠ 0 ∧ vf.part ≠ p then .error 7
          else if fn = 0 ∧ (x.sealed ∨ !bit (getRule s p).flags 3) then .error 7
          else if x.sealed ∧ ¬(vf.tdi = 3 ∧ streamOn s fn = true) then .error 8
          else .ok b

/-- The result of a queue operation. -/
def qctlDone (s : State) (fn q result : Nat) : State :=
  putFn s fn { getFn s fn with qctlResult := result, qlast := q }

/-- QUEUE_ENABLE (R44, R594): the entry loaded, the producer index taken as seen and consumed, QSTATE and HOT = 0
written. An RCB that cannot be read leaves the queue DISABLED with READ_ERROR (assumption 37). -/
def queueEnable (fn q : Nat) (s : State) : State :=
  match enableCheck s fn q with
  | .error e => qctlDone s fn q e
  | .ok b =>
    let rcb := fld b 0x10 8
    match hread s rcb 4 with
    | none => qctlDone s fn q 5
    | some pb =>
      let p := leNat pb
      let x : QCtx :=
        { st := .enabled, fn := fn, sqBase := fld b 0 8, cqBase := fld b 8 8, rcb := rcb, sqLog2 := fld b 0x18 1
          cqLog2 := fld b 0x19 1, part := fld b 0x1A 1, classMask := fld b 0x1B 1, vector := fld b 0x1C 2
          coalCount := fld b 0x1E 1, coalTime := fld b 0x20 2, irqEn := bit (fld b 0x22 2) 0
          skipOk := bit (fld b 0x22 2) 1, sqCons := p, prodSeen := p }
      qctlDone (putQ (hwrite s (rcb + 0x20) (toLe 4 p ++ [0, 1] ++ toLe 2 0)) q x) fn q 0
def execQueueEnable (fn q : Nat) (s : State) : Host.Outcome State Fault Refusal := .next (queueEnable fn q s)

/-- The common checks of disable and clear (R594). -/
def stopCheck (s : State) (fn q : Nat) (ok : QState → Bool) : Nat :=
  if q = 0 ∨ queueFn s q ≠ fn then 1 else if !bootEnded s then 2 else if !ok (getQ s q).st then 3 else 0

/-- QUEUE_DISABLE (R44). -/
def queueDisable (fn q : Nat) (s : State) : State :=
  let r := stopCheck s fn q fun st => st == .enabled || st == .error
  qctlDone (if r = 0 then drainQueue s q else s) fn q r
def execQueueDisable (fn q : Nat) (s : State) : Host.Outcome State Fault Refusal := .next (queueDisable fn q s)

/-- QUEUE_CLEAR (R44): as a disable, from ERROR only. -/
def queueClear (fn q : Nat) (s : State) : State :=
  let r := stopCheck s fn q fun st => st == .error
  qctlDone (if r = 0 then drainQueue s q else s) fn q r
def execQueueClear (fn q : Nat) (s : State) : Host.Outcome State Fault Refusal := .next (queueClear fn q s)

/-- QUEUE_DRAIN_DONE (R44): the last in-flight descriptor has completed. -/
def queueDrainDone (q : Nat) (s : State) : State :=
  if (getQ s q).st = .draining ∧ (flightsOf s fun f => f.q == q).isEmpty then
    let s1 := setQState s q .disabled
    putQ s1 q { getQ s1 q with trickArea := 0, trickSaveAfter := 50, trickTimeout := 0, trickCells := 0, pendingIrq := 0 }
  else s
def execQueueDrainDone (q : Nat) (s : State) : Host.Outcome State Fault Refusal := .next (queueDrainDone q s)

/-- AQ_ENABLE (R592): sizes 4-12 and a valid doorbell area, else CFG_ERR. -/
def aqEnable (s : State) : State :=
  let r := s.regs
  if (getQ s 0).st ≠ .disabled then s
  else if r.aqSqLog2 < 4 ∨ 12 < r.aqSqLog2 ∨ r.aqCqLog2 < 4 ∨ 12 < r.aqCqLog2 ∨ !(getFn s 0).dbValid then
    { s with regs := { r with aqCfgErr := true } }
  else match hread s r.aqRcb 4 with
    | none => queueError (putQ s 0 { getQ s 0 with rcb := r.aqRcb }) 0 4 0
    | some pb =>
      let p := leNat pb
      let x : QCtx :=
        { st := .enabled, fn := 0, sqBase := r.aqSqBase, cqBase := r.aqCqBase, rcb := r.aqRcb, sqLog2 := r.aqSqLog2
          cqLog2 := r.aqCqLog2, part := 0xFF, classMask := 0xFF, vector := 0, coalCount := r.aqCoalCount
          coalTime := r.aqCoalTime, irqEn := true, sqCons := p, prodSeen := p }
      putQ (hwrite s (r.aqRcb + 0x20) (toLe 4 p ++ [0, 1] ++ toLe 2 0)) 0 x
def execAqEnable (s : State) : Host.Outcome State Fault Refusal := .next (aqEnable s)

/-- AQ_DISABLE (R592, R44). -/
def aqDisable (s : State) : State := drainQueue s 0
def execAqDisable (s : State) : Host.Outcome State Fault Refusal := .next (aqDisable s)

/-! Function resets (R81, R82, R589). -/

/-- The queues of a function disabled without draining, their descriptors dropped (R81). The reset has stopped bus
mastering, so no RCB is written (R59). -/
def dropQueues (s : State) (fn : Nat) : State :=
  let qs := activeQueues s fn
  let s1 := (flightsOf s fun f => qs.contains f.q && f.stepOf.isNone).foldl dropF s
  { s1 with qe := { s1.qe with
    hot := s1.qe.hot.filter fun q => !qs.contains q
    ctx := tmap s1.qe.ctx fun q x => if qs.contains q then { x with st := .disabled, pendingIrq := 0 } else x } }

/-- As dropQueues where the function may still write: HOT = 0 and QSTATE go to each RCB (R44, R59). -/
def dropQueuesTold (s : State) (fn : Nat) : State :=
  dropQueues ((activeQueues s fn).foldl (fun t q => setQState (hotOff t q) q .disabled) s) fn

/-- A VF's TDI put in a state; when that of a sealed partition leaves RUN its queues are disabled (R433). -/
def setTdi (s : State) (vf dest : Nat) : State :=
  match tfind s.vfs vf with
  | none => s
  | some v =>
    let s1 := { s with vfs := tput s.vfs vf { v with tdi := dest } }
    if v.tdi = 3 ∧ dest ≠ 3 ∧ ((getP s v.part).map (·.sealed)).getD false then dropQueuesTold s1 vf else s1

/-- An IDE stream's entry, or its removal. A VF's interface runs only with its selective stream: one that loses it goes to
ERROR. -/
def setStream (s : State) (k : Nat) (x : Option IdeStream) : State :=
  let s1 : State := { s with gnt := { s.gnt with streams := match x with
    | some y => tput s.gnt.streams k y
    | none => tdel s.gnt.streams k } }
  if k % 2 = 0 ∧ ((tfind s1.vfs (k / 2)).map (·.tdi)) = some 3 ∧ streamOn s1 (k / 2) = false then setTdi s1 (k / 2) 4 else s1

/-- The streams that the session of a connection programmed, gone with its keys (R417). -/
def dropStreams (s : State) (path : Nat) : State :=
  ((s.gnt.streams.filter fun e => e.2.path == path).map Prod.fst).foldl (fun t k => setStream t k none) s

/-- The registers of a function after its reset; the values seen in its doorbell area are undefined (R54, R589). -/
def resetFn (s : State) (fn : Nat) : State :=
  if fn = 0 then
    let f := getFn s 0
    let r : Regs := { s.regs with aqSqBase := 0, aqCqBase := 0, aqRcb := 0, aqSqLog2 := 0, aqCqLog2 := 0, aqCfgErr := false, aqCoalCount := 1, aqCoalTime := 0 }
    let g : FnState := { f with bme := false, allUndef := true, msix := [], msixPending := [], latchHigh := [], msgSent := 0 }
    putFn { s with regs := r } 0 g
  else putFn s fn {}

/-- VF_FLR (R81). -/
def vfFlr (vf : Nat) (s : State) : State :=
  if vf = 0 ∨ 16 < vf then s else resetFn (dropQueues s vf) vf
def execVfFlr (vf : Nat) (s : State) : Host.Outcome State Fault Refusal := .next (vfFlr vf s)

/-- Admin commands under way stopped (R81, R82): a change of the package's or a partition's state and a VF_UNBIND are given up,
so that package state, partitions and VF bindings are as they were; a partition reset that is done ends. -/
def stopAdmin (s : State) : State :=
  let s1 := (s.qe.flights.filter fun e => e.2.q == 0 && e.2.phase == .ended).foldl (fun t e => endPartReset t e.2) s
  { s1 with
    pwr := { s1.pwr with drainAt := none, drainTo := none, slewTo := none }
    vfs := tmap s1.vfs fun _ v => { v with unbindBy := none }
    parts := tmap s1.parts fun _ x => match x.target with
      | some (old, _) => { x with st := old, target := none }
      | none => x }

/-- PF0_FLR (R82): every PF0 queue, the admin commands under way, deferred commands and parked EVENT_WAITs. A test under way
runs on and reports by its record (R585). -/
def pf0Flr (s : State) : State :=
  let h : Holiday := { s.hol with deferred := [], running := s.hol.running.map fun t => { t with by_ := none } }
  let s1 : State := { s with hol := h, log := { s.log with parked := [] } }
  resetFn (dropQueues (stopAdmin s1) 0) 0
def execPf0Flr (s : State) : Host.Outcome State Fault Refusal := .next (pf0Flr s)

end Sys2Proof.Machine
end

