-- ==== Sys2Proof/Machine/Admin.lean ====
section
/-! DEFINITION. Admin commands on identity, functions, events and partitions (R78-R80, R312, R427, R438). -/

namespace Sys2Proof.Machine

/-- As withOp, for a command that goes to Gauntlet's mailbox (R414): it stays pending while Gauntlet's watchdog has
expired (R524). -/
def withGnt (s : State) (d op : Nat) (k : Flight → State) : State := if s.mgmt.gauntletWdt then s else withOp s d op k

/-- The first refusal that applies ends the command; otherwise the command goes on (R623). -/
def refuseIf (s : State) (d : Nat) (checks : List (Nat × Bool)) (k : State) : State :=
  match firstRefusal checks with
  | some r => refuseF s d r
  | none => k

/-- Bytes written to a host buffer, and the command ended OK with their count; a buffer that cannot be written gives
TRANSLATION_FAULT (R71). -/
def hostOut (s : State) (d a : Nat) (bs : List Byte) : State :=
  if hostBad s a bs.length then endF s d stTranslation 0 else endF (hwrite s a bs) d stOk bs.length

/-! IDENTIFY (R79). -/

/-- Bytes padded with zeros to n. -/
def padTo (n : Nat) (bs : List Byte) : List Byte := bs ++ List.replicate (n - bs.length) 0

/-- The image entry of a type (R79). -/
def imageEntry (s : State) (ty : Nat) : List Byte :=
  let f := getFw s ty
  let other := 1 - f.active
  let a := (tfind f.slots f.active).getD { version := 0, level := 0, digest := 0 }
  let b := tfind f.slots other
  toLe 1 ty ++ toLe 1 f.active ++ toLe 1 f.fuse ++ toLe 1 (b2n f.armed + 2 * b2n b.isSome) ++ toLe 4 a.version
    ++ toLe 1 a.level ++ toLe 3 0 ++ toLe 4 ((b.map (·.version)).getD 0)

/-- Page 0, identity. -/
def identPage0 (s : State) : List Byte :=
  padTo 256 (toLe 2 0x0960 ++ toLe 1 0xB1
    ++ toLe 1 (b2n s.guestSite + 2 * b2n (claimed s) + 4 * b2n s.gnt.debug + 8 * b2n s.mgmt.recovery)
    ++ toLe 1 (phaseCode s) ++ toLe 1 (pkgCode s) ++ toLe 1 s.mgmt.resetCause ++ toLe 1 0 ++ toLe 8 s.mgmt.serial
    ++ toLe 16 s.mgmt.idHash ++ toLe 16 s.gnt.policy.ownerHash ++ imageEntry s 1 ++ imageEntry s 2 ++ imageEntry s 3
    ++ imageEntry s 4 ++ toLe 8 s.mgmt.resetTime)

/-- The format mask: bit c for each tensor format code c accepted (R66). -/
def formatMask : Nat := ((List.range 32).filter fmtOk).foldl (fun n c => n + 2 ^ c) 0

/-- Page 1, capabilities. -/
def identPage1 (s : State) : List Byte :=
  padTo 256 (toLe 2 1 ++ toLe 2 0 ++ toLe 4 65536 ++ toLe 1 16 ++ toLe 1 16 ++ toLe 2 2048 ++ toLe 2 128 ++ toLe 1 12
    ++ toLe 1 16 ++ toLe 4 16384 ++ toLe 4 32768 ++ toLe 2 256 ++ toLe 2 4096 ++ toLe 4 16384 ++ toLe 2 1200 ++ toLe 2 1024
    ++ toLe 2 5 ++ toLe 2 2000 ++ toLe 2 0xC3FF ++ toLe 4 formatMask ++ toLe 2 0 ++ toLe 8 (tierFBytes s)
    ++ toLe 8 (tierSBytes s) ++ toLe 1 24 ++ toLe 1 8 ++ toLe 1 32 ++ toLe 1 24 ++ toLe 2 (boundCount s)
    ++ toLe 2 (512 - boundCount s) ++ toLe 1 (if s.guestSite then 16 else 0) ++ toLe 1 (if s.guestSite then 64 else 0)
    ++ toLe 2 256)

/-- Bits of the absent logical cores (R33). -/
def absentMap (s : State) : List Byte :=
  (List.range 64).map fun i => BitVec.ofNat 8 (((List.range 8).map fun j => if bound s (8 * i + j) then 0 else 2 ^ j).foldl (· + ·) 0)

/-- Whether BOOT_CORE has ended (R79). -/
def coresKnown (s : State) : Bool := s.mgmt.phase == .check || s.mgmt.phase == .ended

/-- Page 2, bound-core and hole map. -/
def identPage2 (s : State) : List Byte :=
  if !coresKnown s then List.replicate 2176 0
  else padTo 0x80 (toLe 2 512 ++ toLe 2 (boundCount s) ++ toLe 2 (512 - boundCount s) ++ toLe 2 0 ++ absentMap s)
    ++ (List.range 512).flatMap fun n =>
      let b := getBind s n
      match b.column with
      | some c => toLe 1 c ++ toLe 1 b.state ++ toLe 2 b.season
      | none => toLe 1 0xFF ++ toLe 1 1 ++ toLe 2 0

/-- Page 3, partition summary. -/
def identPage3 (s : State) : List Byte :=
  if !coresKnown s then List.replicate 1040 0
  else padTo 0x10 (toLe 1 s.parts.length) ++ (List.range 16).flatMap fun p => match getP s p with
    | none => List.replicate 64 0
    | some x =>
      let v := (tfind s.vfs x.vf).getD {}
      padTo 64 (toLe 1 (pstateCode x)
        ++ toLe 1 (b2n x.sealed + 2 * b2n x.hotSubst + 4 * b2n (fenced s p) + 8 * b2n x.inReset) ++ toLe 1 x.vf
        ++ toLe 1 x.rangeLog2 ++ toLe 4 x.rows ++ toLe 1 x.waysA ++ toLe 1 x.waysB ++ toLe 2 x.firstSlot
        ++ toLe 2 x.slotCount ++ toLe 2 (boundCores s p).length ++ toLe 2 v.firstGroup ++ toLe 2 v.groups
        ++ toLe 2 (s.bw.regs.filter fun e => e.2.part == p).length
        ++ toLe 2 (s.plauf.exports.filter fun e => e.1 / 256 == p).length)

/-- IDENTIFY. -/
def identify (d : Nat) (s : State) : State :=
  withOp s d 0xF001 fun f =>
    let pg := f.op 0x28 1
    refuseIf s d [(rBadField, 3 < pg || !f.zeroFrom 0x29)] <|
    hostOut s d (f.op 0x20 8) (if pg = 0 then identPage0 s else if pg = 1 then identPage1 s
      else if pg = 2 then identPage2 s else identPage3 s)
def execIdentify (d : Nat) (s : State) : Host.Outcome State Fault Refusal := .next (identify d s)

/-! Virtual functions (R41, R54, R78, R432, R433). -/

/-- The values a function has seen of some groups become undefined (R54). -/
def forgetGroups (s : State) (fn first n : Nat) : State :=
  let f := getFn s fn
  let gs := (List.range n).map (first + ·)
  putFn s fn { f with undef := f.undef.filter (fun g => !gs.contains g) ++ gs }

/-- VF_BIND. A partition that has a VF already is EXISTS (assumption 39), a sealed one that has had one POLICY (R433). -/
def vfBind (d : Nat) (s : State) : State :=
  withGnt s d 0xF010 fun f =>
    let vf := f.op 0x20 1
    let p := f.op 0x21 1
    let g := f.op 0x22 2
    let n := f.op 0x24 2
    let x := (getP s p).getD {}
    let overlap := s.vfs.any fun e => decide (e.2.firstGroup < g + n ∧ g < e.2.firstGroup + e.2.groups)
    let busyQ := s.qe.ctx.any fun e => e.2.st != .disabled && decide (g ≤ e.1 / 64 ∧ e.1 / 64 < g + n)
    refuseIf s d [(rBadField, vf == 0 || decide (16 < vf ∨ 15 < p ∨ g = 0 ∨ n = 0 ∨ 1024 < g + n) || !f.zeroFrom 0x26),
      (rNotFound, (getP s p).isNone), (rExists, (tfind s.vfs vf).isSome || (x.vf != 0 && !x.sealed)), (rPolicy, x.sealed && x.hadVf),
      (rBusy, overlap || busyQ)] <|
    let s1 := { s with vfs := tput s.vfs vf { part := p, firstGroup := g, groups := n, tdi := 1 } }
    let s2 := putP s1 p { x with vf := vf, hadVf := true }
    endF (forgetGroups (forgetGroups s2 0 g n) vf g n) d stOk 0
def execVfBind (d : Nat) (s : State) : Host.Outcome State Fault Refusal := .next (vfBind d s)

/-- VF_UNBIND: the VF's queues drain; a locked or running TDI goes to ERROR (R432). -/
def vfUnbind (d : Nat) (s : State) : State :=
  withGnt s d 0xF011 fun f =>
    let vf := f.op 0x20 1
    match tfind s.vfs vf with
    | none => refuseF s d (if f.zeroFrom 0x21 then rNotFound else rBadField)
    | some v =>
      if !f.zeroFrom 0x21 then refuseF s d rBadField
      else
        let s0 := if v.tdi = 2 ∨ v.tdi = 3 then setTdi s vf 4 else s
        let s1 := (activeQueues s0 vf).foldl drainQueue s0
        let s2 := { s1 with vfs := tmap s1.vfs fun k x => if k = vf then { x with unbindBy := some d } else x }
        putF s2 d { f with phase := .running }
def execVfUnbind (d : Nat) (s : State) : Host.Outcome State Fault Refusal := .next (vfUnbind d s)

/-- VF_UNBIND_DONE: once every queue of the VF is DISABLED its groups return to PF0, and the VF's registers take their
reset values (R78, R589). -/
def vfUnbindDone (vf : Nat) (s : State) : State :=
  match tfind s.vfs vf with
  | some { part := p, firstGroup := g, groups := n, tdi := _, unbindBy := some d } =>
    if !(activeQueues s vf).isEmpty then s
    else
      let s1 := { s with vfs := tdel s.vfs vf }
      let s2 := match getP s1 p with
        | some x => putP s1 p { x with vf := 0 }
        | none => s1
      endF (forgetGroups (putFn s2 vf {}) 0 g n) d stOk 0
  | _ => s
def execVfUnbindDone (vf : Nat) (s : State) : Host.Outcome State Fault Refusal := .next (vfUnbindDone vf s)

/-! Events (R80). -/

/-- EVENT_WAIT: the oldest undelivered event at once, else parked. A slot freed lets EVENTS_LOST in. -/
def eventWait (d : Nat) (s : State) : State :=
  withOp s d 0xF020 fun f =>
    refuseIf s d [(rBadField, !f.zeroFrom 0x28), (rNoResource, decide (16 ≤ s.log.parked.length))] <|
    match s.log.undelivered with
    | r :: rest =>
      let s1 := { s with log := { s.log with undelivered := rest, lost := 0 } }
      let a := f.op 0x20 8
      let s2 := endF (hwrite s1 a r.bytes) d (if hostBad s1 a 64 then stTranslation else stOk) 0
      if s.log.lost = 0 then s2 else emit s2 7 0xD {} [(4, s.log.lost)]
    | [] => putF { s with log := { s.log with parked := s.log.parked ++ [d] } } d { f with phase := .parked }
def execEventWait (d : Nat) (s : State) : Host.Outcome State Fault Refusal := .next (eventWait d s)

/-! Partitions (R78, R180, R235, R312, R343, R427, R438). -/

/-- Recomputation of every resource whose capacity has changed (R344). -/
def recapAll (s : State) : State :=
  (List.range 8 ++ [0x10, 0x11] ++ (List.range 32).map (0x100 + ·) ++ [0x200, 0x201]).foldl recap s

/-- The lowest contiguous block of n free sequence slots (R235): a block begins at 0 or where another block ends. -/
def slotBlock (s : State) (n : Nat) : Option Nat :=
  let starts := 0 :: (s.parts.map fun e => e.2.firstSlot + e.2.slotCount)
  (starts.filter fun a => decide (a + n ≤ 32768) && s.parts.all fun e =>
    decide (n = 0 ∨ e.2.slotCount = 0 ∨ a + n ≤ e.2.firstSlot ∨ e.2.firstSlot + e.2.slotCount ≤ a)).foldl
    (fun (b : Option Nat) a => some (match b with | none => a | some y => min y a)) none

/-- Whether PART_CREATE breaks the partition's rule (R427, R448). -/
def createPolicy (s : State) (p fl wa wb rows slots : Nat) : Bool :=
  let r := getRule s p
  !bit r.flags 0 || decide (rows ≠ Nat.land rows r.rows) || decide (r.maxA < wa ∨ r.maxB < wb ∨ r.slots < slots)
    || (bit fl 1 && !bit r.flags 4)
    || (bit fl 0 && (!bit s.gnt.policy.flags 1 || !bit r.flags 1 || !claimed s || s.gnt.debug))
    || (!bit fl 0 && bit r.flags 2)

/-- The logical cores of a row mask. -/
def coresOfRows (rows : Nat) : List Nat := (List.range 512).filter fun c => bit rows (c / 16)

/-- PART_CREATE. Ways held by others are BUSY; more ways than a tower has are NO_RESOURCE (assumption 40). -/
def partCreate (d : Nat) (s : State) : State :=
  withGnt s d 0xF100 fun f =>
    let p := f.op 0x20 1
    let fl := f.op 0x21 1
    let wa := f.op 0x22 1
    let wb := f.op 0x23 1
    let rows := f.op 0x24 4
    let slots := f.op 0x28 2
    let sum (g : Part → Nat) := (s.parts.map fun e => g e.2).foldl (· + ·) 0
    refuseIf s d [(rBadField, decide (15 < p ∨ 3 < fl ∨ rows = 0) || !f.zeroFrom 0x2A), (rExists, (getP s p).isSome),
      (rPolicy, createPolicy s p fl wa wb rows slots),
      (rBusy, (s.parts.any fun e => Nat.land e.2.rows rows != 0)
        || (s.gnt.fills.any fun x => x.slices.any fun c => bit rows (c / 16))
        || decide ((24 < sum (·.waysA) + wa ∧ wa ≤ 24) ∨ (24 < sum (·.waysB) + wb ∧ wb ≤ 24))),
      (rNoResource, decide (24 < wa ∨ 24 < wb) || (slotBlock s slots).isNone)] <|
    let x : Part := { sealed := bit fl 0, hotSubst := bit fl 1, rows := rows, waysA := wa, waysB := wb
                      firstSlot := (slotBlock s slots).getD 0, slotCount := slots }
    -- every counter is 0 (R299)
    let s1 := putP { s with sync := { s.sync with counters := tfilter s.sync.counters fun k _ => k / 1024 != p } } p x
    -- the keys a new partition draws (R417)
    let k : PartKeys := { swap := some (Config.entropy s1.gnt.drawn)
                          sealing := if bit fl 0 then some (Config.entropy (s1.gnt.drawn + 1)) else none }
    let s2 := putKeys { s1 with gnt := { s1.gnt with drawn := s1.gnt.drawn + 2 } } p k
    endF (fencePart stOffline (recapAll s2) p) d stOk 0
def execPartCreate (d : Nat) (s : State) : Host.Outcome State Fault Refusal := .next (partCreate d s)

/-- The tests on a destroyed partition's rows stop, and its deferred commands report NOT_RUN (R563, R585). -/
def dropTests (s : State) (p : Nat) : State :=
  let s1 := match s.hol.running with
    | some t => if bit t.parts p then stopTest s else s
    | none => s
  let gone := s1.hol.deferred.filter fun t => bit t.parts p
  gone.foldl (fun u t => reportTest u t 0x2000)
    { s1 with hol := { s1.hol with deferred := s1.hol.deferred.filter fun t => !bit t.parts p } }

/-- A partition destroyed (R312, R438, R604): its tests stop, its queues are disabled, its state is cleared, its keys are
zeroised, its zero-fill is recorded, and its records are removed. -/
def destroyPart (s : State) (p : Nat) : State :=
  match getP s p with
  | none => s
  | some x =>
    let s1 := clearWith (dropTests s p) p true
    let s2 := (tkeys (tfilter s1.qe.ctx fun q c => q != 0 && c.part == p && c.st != .disabled)).foldl drainQueue s1
    let grains := (List.range 128).filter fun g => grainEntry s2 g == p
      || (grainEntry s2 g == 0x80 && tfind s2.mem.grainOwner g == some p)
    let mem := { s2.mem with
      roots := tfilter s2.mem.roots fun k _ => k / 32 != p
      tableTag := s2.mem.tableTag.filter fun fr => !owns s2 p (fr * 8192) false
      kvTag := s2.mem.kvTag.filter fun fr => !owns s2 p (fr * 8192) false
      tpool := tdel s2.mem.tpool p
      grainOwner := tfilter s2.mem.grainOwner fun _ q => q != p }
    let s3 := { s2 with
      mem := mem, parts := tdel s2.parts p
      kv := { s2.kv with pools := tdel s2.kv.pools p }
      bw := { s2.bw with regs := tfilter s2.bw.regs fun _ r => r.part != p }
      plauf := { s2.plauf with
        exports := tfilter s2.plauf.exports fun k _ => k / 256 != p
        imports := tfilter s2.plauf.imports fun k _ => k / 256 != p }
      gnt := { s2.gnt with
        keys := tdel s2.gnt.keys p
        fills := s2.gnt.fills ++ [{ part := p, slices := (coresOfRows x.rows).filter (bound s2), grains := grains }] }
      snap :=
        let held := match s2.snap.heldTrigger with
          | some (q, x) => if q = p then none else some (q, x)
          | none => none
        if s2.snap.scope == p then { s2.snap with armed := 0, scope := 0xFF, heldTrigger := held }
        else { s2.snap with heldTrigger := held }
      cuff := if s2.cuff.part == some p then { s2.cuff with guestReset := true, linkUp := false, watches := [], wins := [], slots := [] } else s2.cuff }
    recapAll (putStored (putOlder s3 fun o => { o with fills := s.gnt.fills }) 10)

/-- PART_DESTROY. -/
def partDestroy (d : Nat) (s : State) : State :=
  withGnt s d 0xF101 fun f =>
    let p := f.op 0x20 1
    let x := (getP s p).getD {}
    refuseIf s d [(rBadField, 15 < p || !f.zeroFrom 0x21), (rNotFound, (getP s p).isNone),
      (rBusy, x.st != .offline || x.vf != 0)] <|
    endF (destroyPart s p) d stOk 0
def execPartDestroy (d : Nat) (s : State) : Host.Outcome State Fault Refusal := .next (partDestroy d s)

/-- PART_RESET: the partition is in reset until the command completes (R312, R313). -/
def partReset (d : Nat) (s : State) : State :=
  withOp s d 0xF102 fun f =>
    let p := f.op 0x20 1
    refuseIf s d [(rBadField, 15 < p || !f.zeroFrom 0x21), (rNotFound, (getP s p).isNone)] <|
    match getP s p with
    | none => s
    | some x => endF (clearPart (putP s p { x with inReset := true }) p) d stOk 0
def execPartReset (d : Nat) (s : State) : Host.Outcome State Fault Refusal := .next (partReset d s)

/-- The lowest logic junction in force over both towers, in 1/64 °C (R487). -/
def lowestLogic (s : State) : Int := min s.th.a.r.lowLogic s.th.b.r.lowLogic

/-- PART_STATE: the target is taken when the partition's in-flight work has drained; during a fence it is applied at once
(R78, R337, R367, R486, R487, R508). -/
def partState (d : Nat) (s : State) : State :=
  withOp s d 0xF103 fun f =>
    let p := f.op 0x20 1
    let t := f.op 0x21 1
    refuseIf s d [(rBadField, decide (15 < p ∨ 2 < t) || !f.zeroFrom 0x22), (rNotFound, (getP s p).isNone),
      (rTripped, t == 0 && s.pwr.pkg == .trip), (rCold, t == 0 && decide (lowestLogic s < 320))] <|
    match getP s p with
    | none => s
    | some x =>
      let dest : PState := if t = 0 then .online else if t = 1 then .parked else .offline
      if !x.fences.isEmpty then endF (putP s p { x with st := dest }) d stOk 0
      else
        let s1 := putF (putP s p { x with st := dest, target := some (x.st, d) }) d { f with phase := .running }
        -- sleeping TRICKLE descriptors save (R337)
        if t = 0 then s1
        else (flightsOf s1 fun g => g.part == p && g.q != 0 && g.live && g.trickle.asleep).foldl
          (fun u e => trickleSaveOrStop u e (if t = 2 then stOffline else stPreempted)) s1
def execPartState (d : Nat) (s : State) : Host.Outcome State Fault Refusal := .next (partState d s)

/-- PART_STATE_DONE: no descriptor of the partition runs any more. -/
def partStateDone (p : Nat) (s : State) : State :=
  match getP s p with
  | some x => match x.target with
    | some (_, d) =>
      if x.st != .online && s.qe.flights.any (fun e => e.2.part == p && e.2.q != 0 && e.2.live && !e.2.trickle.asleep) then s
      else endF (putP s p { x with target := none }) d stOk 0
    | none => s
  | none => s
def execPartStateDone (p : Nat) (s : State) : Host.Outcome State Fault Refusal := .next (partStateDone p s)

end Sys2Proof.Machine
end

