-- ==== Sys2Proof/Machine/Repair.lean ====
section
/-! DEFINITION. Faults, charges, permanent channels, row remapping, retirement of pages, and the loss of a core (16). -/

namespace Sys2Proof.Machine

/-! The fault policy record (R455), whose shadow is in force. -/

/-- A field of n bytes at offset o of a record's shadow. -/
def recField (s : State) (i o n : Nat) : Nat := leNat (mreadN (getRec s i).shadow o n)
def polThreshold (s : State) : Nat := recField s 8 2 1
def polWindow (s : State) : Nat := recField s 8 4 4 * 1000000000
def polScrubBound (s : State) : Nat := recField s 8 8 4 * 1000000000
def polCeDepth (s : State) : Nat := recField s 8 12 2
def polHoles (s : State) : Nat := recField s 8 16 1
def polPorts (s : State) : Nat := recField s 8 17 1
def polRemap (s : State) : Bool := recField s 8 18 2 % 2 == 1

/-! Channels (R450). -/

def chGroup (core g : Nat) : Nat := 4 * core + g
def chCore (core : Nat) : Nat := 2 ^ 20 + core
def chBank (core bank : Nat) : Nat := 2 * 2 ^ 20 + 32 * core + bank
def chPc (k pc : Nat) : Nat := 3 * 2 ^ 20 + 64 * k + pc
def chLane (b d lane : Nat) : Nat := 4 * 2 ^ 20 + (2 * b + d) * 68 + lane
def chWave (port w : Nat) : Nat := 5 * 2 ^ 20 + 16 * port + w
def chPort (port : Nat) : Nat := 6 * 2 ^ 20 + port
def chUnit (k pc bank : Nat) : Nat := 7 * 2 ^ 20 + 2048 * (k / 4) + 32 * pc + bank

/-- The log class of a channel's resource and the record's die, unit and payload head (R452, R542, R625). -/
def channelWho (s : State) (ch : Nat) : Nat × Who × List PField :=
  let i := ch % 2 ^ 20
  match ch / 2 ^ 20 with
  | 0 => (5, coreWho s (i / 4) (coreOwner s (i / 4)), [(1, i % 4)])
  | 1 => (5, coreWho s i (coreOwner s i), [])
  | 2 => (3, coreWho s (i / 32) (coreOwner s (i / 32)), [(2, i % 32)])
  | 3 => (3, { die := 4 + i / 64, unit := i % 64 }, [])
  | 4 => (4, { unit := i % 68 }, [(2, i / 136), (1, i / 68 % 2)])
  | 5 => (4, { die := 12 + i / 64, unit := i / 16 }, [(2, i % 16)])
  | _ => (4, { die := 12 + i / 4, unit := i }, [])

/-- A channel's charges within the window (R452). -/
def recentCharges (s : State) (ch : Nat) : List Nat :=
  ((tfind s.flt.charges ch).getD {}).times.filter fun t => decide (s.time.now < t + polWindow s)

/-- A channel taken as permanent: recorded once, with its last charges (R452). -/
def markPermanent (s : State) (ch : Nat) : State :=
  let c := (tfind s.flt.charges ch).getD {}
  if c.permanent then s
  else
    let s1 := { s with flt := { s.flt with charges := tput s.flt.charges ch { c with permanent := true } } }
    let w := channelWho s ch
    emit s1 w.1 0xFF w.2.1 (w.2.2 ++ (c.times.drop (c.times.length - 3)).map fun t => (8, t))

/-- One charge to a channel; the flag says that the channel is now permanent: a failed retry, save in the memory
channels, or the threshold within the window (R451, R452). -/
def chargeChannel (s : State) (ch : Nat) (retryFailed : Bool) : State × Bool :=
  let c := (tfind s.flt.charges ch).getD {}
  let times := recentCharges s ch ++ [s.time.now]
  let s1 := { s with flt := { s.flt with charges := tput s.flt.charges ch { c with times := times } } }
  let memory := ch / 2 ^ 20 == 2 || ch / 2 ^ 20 == 3
  if (retryFailed && !memory) || decide (polThreshold s ≤ times.length) then (markPermanent s1 ch, true) else (s1, c.permanent)

/-! Advice (R478). -/

/-- The conditions of R478 that hold now. -/
def adviceNow (s : State) : List Nat :=
  (if s.fab.dieLost.any (· < 4) then [1] else [])
    ++ (if coresKnown s && decide (polHoles s ≤ 512 - boundCount s) then [2] else [])
    ++ (if (List.range 8).any fun k => decide (stackPcs s k ≤ 56) then [3] else [])
    ++ (if (List.range 2).any fun d => decide (((List.range 24).filter fun b => !(getBundle s (2 * b + d)).retired).length < 20) then [4] else [])
    ++ (if polPorts s ≤ (s.plauf.ports.filter fun e => e.2.st == .retired).length then [5] else [])
    ++ (if 3687 ≤ s.flt.retiredPages.length then [6] else [])
    ++ (if s.flt.nearUnits.any fun u => u % 2 == 0 && s.flt.nearUnits.contains (u + 1) then [7] else [])

/-- REPLACE_ADVISED written for each condition that has come to hold (R478). -/
def advise (s : State) : State :=
  let fresh := (adviceNow s).filter fun c => !s.flt.replace.contains c
  fresh.foldl (fun t c => emit { t with flt := { t.flt with replace := t.flt.replace ++ [c] } } 5 5 {} [(1, c)]) s

/-! Cores (R472-R475). -/

/-- The key of a site: tower, physical row and column. -/
def siteKey (core col : Nat) : Nat := core / 256 * 272 + core % 256 / 16 * 17 + col

/-- The lowest free passing site of a core's physical row (R31); none for a number whose Season has reached 0xFFFF (R475). -/
def freeSite (s : State) (core : Nat) : Option Nat :=
  if 0xFFFF < (tfind s.mgmt.seasonStore core).getD 0 + 1 then none
  else (List.range 17).find? fun col =>
    let x := getSite s (siteKey core col)
    !x.fenced && !x.bad
      && !((List.range 16).any fun i => (getBind s (core / 16 * 16 + i)).column == some col)
      && !(s.flt.subst.any fun u => u.core / 16 == core / 16 && u.column == col)

/-- The SEASON record's next value for a core (R475). -/
def nextSeason (s : State) (core : Nat) : Nat := (tfind s.mgmt.seasonStore core).getD 0 + 1

/-- A core bound to a column under a new Season, which reaches the store at once (R475). -/
def bindCore (s : State) (core col st : Nat) : State :=
  let n := nextSeason s core
  let s1 := putStored (putOlder s fun o => { o with seasons := s.mgmt.seasonStore }) 11
  putBind { s1 with mgmt := { s1.mgmt with
    seasonStore := tput s1.mgmt.seasonStore core n } } core
    { column := some col, state := st, season := n }

/-- A descriptor that waits in its cores' intakes taken out of them; it enters the intakes of its cores as they are then, at
its next start. -/
def leaveIntake (s : State) (d : Nat) : State :=
  if ((getF s d).map fun f => f.phase == .fetched && f.stepOf.isNone).getD false then
    { s with flt := { s.flt with cores := tmap s.flt.cores fun _ c => { c with intake := c.intake.filter (· != d) } } }
  else s

/-- Descriptors that run or sleep on a core stopped (R473); those that wait there for their first test leave its intake. -/
def stopOnCore (s : State) (core st : Nat) : State :=
  (flightsOf s fun f => f.live && f.cores.contains core).foldl (fun t d => stopF t d st)
    (((getCore s core).intake).foldl (fun t d => leaveIntake (stopLive t d st) d) s)

/-- Frames of a pool in a physical range taken out of service (R249, R468, R471): free ones become RETIRED; a live page is
copied to a fresh frame and remapped in every holder; with no frame free it stays where it lies, RETIRED. So is a page of thin
scores. The free count falls as free frames go (R251). -/
def retireFrame (s : State) (p i : Nat) : State :=
  let f := getFrame s p i
  if f.state = 3 ∨ f.remote.isSome then s
  else if f.state = 0 then watermarks (setFrame s p i { f with state := 3 }) p
  else
    let thin := s.kv.slots.flatMap fun e => (e.2.thinFrames.filter fun g => slotOf s p e.1 && g.2 == i).map fun g => (e.1, g.1)
    let holders := s.kv.slots.flatMap fun e => (e.2.pages.filter fun g => slotOf s p e.1 && g.2.at == i).map fun g => (e.1, g.1)
    match holders with
    | [] => (match thin with
      | [] => setFrame s p i { f with state := 3 }
      | t :: _ => match pickFrame s p { getSlot s t.1 with flags := 4 } 0 true with
        | none => setFrame s p i { f with state := 3 }
        | some j =>
          let s1 := fillFrame (takeFrame s p j) { part := p, desc := 0, rem := [] } j (frameBytes s f.where_ 8192)
          let s2 := setFrame s1 p j { getFrame s1 p j with state := f.state }
          setFrame ((mapThinLeaf s2 p t.1 t.2 j).getD s2) p i { f with state := 3, refs := 0 })
    | h :: _ =>
      match pickFrame s p (getSlot s h.1) h.2 true with
      | none => setFrame s p i { f with state := 3 }
      | some j =>
        let s1 := setFrame (takeFrame s p j) p j { getFrame s p j with state := f.state, refs := f.refs, evew := f.evew }
        let s2 := (copyFrame s1 f.where_ (getFrame s1 p j).where_ 8192).1
        let s3 := holders.foldl (fun t e =>
          match tfind (getSlot t e.1).pages e.2 with
          | some g =>
            let g' : KvPage := if g.staging = some i then { g with staging := some j } else { g with frame := j }
            (mapPage t p e.1 e.2 g').getD t
          | none => t) s2
        setFrame s3 p i { f with state := 3, refs := 0, evew := false }

/-- Pool frames whose place lies in a physical range, retired. -/
def retireRange (s : State) (lo hi : Nat) : State :=
  (tkeys s.kv.pools).foldl (fun t p =>
    (List.range (getPool t p).frames.length).foldl (fun u i =>
      let f := getFrame u p i
      if f.remote.isNone && decide (lo ≤ f.where_ ∧ f.where_ < hi) then retireFrame u p i else u) t) s

/-- A hole made at run time (R474): the slice is unbacked, its pool frames RETIRED where they lie. -/
def makeHole (s : State) (core : Nat) : State :=
  let p := coreOwner s core
  let w := coreWho s core p
  let s1 := putBind s core { column := none, state := 1 }
  let s2 := (tkeys s1.kv.pools).foldl (fun t q =>
    putPool t q { getPool t q with frames := (getPool t q).frames.map fun f =>
      if f.remote.isNone && f.where_ / 2 ^ 27 == core && decide (f.where_ < 2 ^ 36) then { f with state := 3 } else f }) s1
  let s3 := { s2 with flt := { s2.flt with subst := s2.flt.subst.filter fun u => u.core != core } }
  advise ((tkeys s3.kv.pools).foldl watermarks (emit s3 5 3 w []))

/-- A site fenced. -/
def fenceSite (s : State) (site : Nat) : State := putSite s site { getSite s site with fenced := true, passes := 0 }

/-- The site a permanent core gets: a free one, or one that a higher number of its row is still taking, which then
becomes a hole (R31, R479). -/
def siteFor (s : State) (core : Nat) : Option (Nat × State) :=
  match freeSite s core with
  | some c => some (c, s)
  | none =>
    match s.flt.subst.find? fun u => u.core / 16 == core / 16 && decide (core < u.core) with
    | none => none
    | some u => if 0xFFFF < (tfind s.mgmt.seasonStore core).getD 0 + 1 then none else some (u.column, makeHole s u.core)

/-- A permanent core: its site is fenced at once, its work stops, and it is substituted, rebound or lost (R472, R473). One whose slice
is being copied has left its site already. -/
def loseCore (s : State) (core : Nat) : State :=
  match (getBind s core).column, s.flt.subst.any fun u => u.core == core with
  | none, _ => s
  | some _, true => s
  | some col, false =>
    let s1 := stopOnCore (fenceSite s (siteKey core col)) core stCoreLost
    let s2 := putCore s1 core { getCore s1 core with intake := [] }
    let may : Bool := match coreOwner s2 core with
      | some p => ((getP s2 p).map (·.hotSubst)).getD false
      | none => true
    match (if may then siteFor s2 core else none) with
    | some (c, s3) =>
      { s3 with flt := { s3.flt with
        subst := s3.flt.subst ++ [{ core := core, column := c, hot := (coreOwner s2 core).isSome }] } }
    | none => makeHole s2 core

/-- A fault charged to a core (R450, R457). -/
def chargeCore (s : State) (core : Nat) (retryFailed : Bool) : State :=
  let r := chargeChannel s (chCore core) retryFailed
  if r.2 then loseCore r.1 core else r.1

/-- A fault charged to a 16-lane group; a second permanent group makes the core permanent (R458). -/
def chargeGroup (s : State) (core g : Nat) (retryFailed : Bool) : State :=
  let r := chargeChannel s (chGroup core g) retryFailed
  if !r.2 || (getCore r.1 core).groups.contains g then r.1
  else if (getCore r.1 core).groups.isEmpty then putCore r.1 core { getCore r.1 core with groups := [g] }
  else loseCore (markPermanent r.1 (chCore core)) core

/-- The unit of a mode that uses a 16-lane group at a 16-wide depth segment (R119, R124). -/
def faultUnit (mode group segment : Nat) : Nat :=
  if mode = 0 then 0 else if mode = 1 then group % 4 / 2 + 2 * (segment % 4 / 2) else group % 4 + 4 * (segment % 4)

/-- The RESIDUE record of each execution that mismatched (R112, R124, R625), with the unit of the core's mode, 0xFF for the
shared issue logic; a control mismatch (R457) has none. -/
def residue (s : State) (x : CoreFault) : State :=
  if x.group = 256 then s
  else
    let m := (getCore s x.core).mode
    (List.range (min x.fails 3)).foldl (fun t _ => emit t 5 1 (coreWho t x.core (coreOwner t x.core))
      (if x.group < 4 then [(1, x.group), (1, m), (1, faultUnit m x.group x.segment)] else [(1, 0xFF), (1, m), (1, 0xFF)])) s

/-- The other descriptors that hold a unit of a core, whose current tiles a mismatch of the shared issue or control logic takes
with it, ended ARITH_CHECK when the retries fail (R112, R124, R457). -/
def loseSharers (s : State) (d core : Nat) : State :=
  (s.qe.flights.filter fun e => e.1 != d && e.2.begun && e.2.cores.contains core && e.2.phase != .ended).foldl
    (fun t e => stopF t e.1 stArith) s

/-- The mismatches of one operation (R112, R124, R450, R457): each executes again at most twice; the operation ends
ARITH_CHECK when one fails three times, and with it those that share the failing logic. The flag says so. -/
def coreFaults (s : State) (d : Nat) (l : List CoreFault) : State × Bool :=
  l.foldl (fun (acc : State × Bool) x =>
    if x.fails = 0 then acc
    else
      let failed := decide (3 ≤ x.fails)
      let s1 := residue acc.1 x
      let s2 := if x.group < 4 then chargeGroup s1 x.core x.group failed
        else chargeCore (if failed then loseSharers s1 d x.core else s1) x.core failed
      (s2, acc.2 || failed)) (s, false)

/-! Array codewords (R459-R467). -/

/-- The bank of an address, as a number of all banks, its channel, and its row (R171, R175, R211, R459, R467). -/
def bankOf (pa : Nat) : Option (Nat × Nat × Nat) :=
  match locate pa with
  | .slice n off =>
    let b := Nat.xor (bits off 9 5) (bits off 14 5)
    some (32 * n + b, chBank n b, off / 65536)
  | .stack k off =>
    let pc := Nat.xor (bits off 11 6) (bits off 17 6)
    let b := Nat.xor (bits off 17 5) (bits off 22 5)
    some (16384 + 2048 * k + 32 * pc + b, chPc k pc, off / 2 ^ 22)
  | .unbacked => none

/-- The row of an address as one number. -/
def rowOf (pa : Nat) : Nat := match bankOf pa with | some (b, _, r) => b * 65536 + r | none => 0

/-- The 8 KiB pages that hold a row of an address (R467). -/
def rowPages (pa : Nat) : List Nat :=
  match locate pa with
  | .slice n off =>
    let b := Nat.xor (bits off 9 5) (bits off 14 5)
    let r := off / 65536
    (List.range 4).map fun k => (n * 2 ^ 27 + r * 65536 + k * 16384 + 512 * Nat.xor b ((4 * (r % 8) + k) % 32)) / 8192 * 8192
  | _ => [pa / 8192 * 8192]

/-- Spare rows of a bank (R466). -/
def spareRows (bank : Nat) : Nat := if bank < 16384 then 32 else 2

/-- A free spare row of a bank. -/
def freeSpare (s : State) (bank : Nat) : Option Nat :=
  (List.range (spareRows bank)).find? fun i => !s.flt.badSpares.contains (bank, i)
    && !(s.flt.remaps.any fun e => e.1 / 65536 == bank && e.2.spares.contains i)

/-- A record about an array address (R442): its die, its unit and its owner. -/
def arrayWho (s : State) (pa : Nat) : Who :=
  match locate pa with
  | .slice n _ => { coreWho s n none with part := ownerOf s pa }
  | .stack k off => { die := 4 + k, unit := Nat.xor (bits off 11 6) (bits off 17 6), part := ownerOf s pa }
  | .unbacked => {}

/-- A channel charged for its memory fault; a fifth permanent bank of a slice makes the core permanent (R450, R469). -/
def chargeMemory (s : State) (ch : Nat) (exhausted : Bool) : State :=
  let was := ((tfind s.flt.charges ch).getD {}).permanent
  let r := chargeChannel s ch false
  let s1 := if exhausted then markPermanent r.1 ch else r.1
  if ch / 2 ^ 20 = 2 ∧ !was ∧ (r.2 ∨ exhausted) then
    let core := ch % 2 ^ 20 / 32
    let bad := (s1.flt.charges.filter fun e => e.1 / 2 ^ 20 == 2 && e.1 % 2 ^ 20 / 32 == core && e.2.permanent).length
    if 5 ≤ bad then loseCore (markPermanent s1 (chCore core)) core else s1
  else s1

/-- A row that qualifies for remapping, with its one charge (R452, R466, R467). -/
def remapRow (s : State) (pa : Nat) : State :=
  match bankOf pa with
  | none => s
  | some (bank, ch, _) =>
    if !polRemap s then chargeMemory s ch false
    else
      let key := rowOf pa
      let x := (tfind s.flt.remaps key).getD { spares := [] }
      let s1 := match x.spares.getLast? with
        | some i => { s with flt := { s.flt with badSpares := (bank, i) :: s.flt.badSpares } }
        | none => s
      match (if x.spares.length < 2 then freeSpare s1 bank else none) with
      | some i =>
        let s2 := { s1 with flt := { s1.flt with remaps := tput s1.flt.remaps key { x with spares := x.spares ++ [i] } } }
        emit (chargeMemory s2 ch false) 3 0xE (arrayWho s pa) [(8, pa / 2048 * 2048)]
      | none => chargeMemory (emit s 3 0xF (arrayWho s pa) ((rowPages pa).map fun a => (8, a))) ch true

/-- The CE record of a bank with corrections since its last one: their number and the address of the latest; at most one a second
(R463). -/
def ceRecord (s : State) (bank : Nat) : State :=
  let n := (tfind s.flt.ceSince bank).getD 0
  let soon : Bool := match tfind s.flt.ceLast bank with
    | some t => decide (s.time.now < t + 1000000000)
    | none => false
  if n = 0 ∨ soon then s
  else
    let pa := (tfind s.flt.ceAt bank).getD 0
    emit { s with flt := { s.flt with ceSince := tdel s.flt.ceSince bank, ceLast := tput s.flt.ceLast bank s.time.now } }
      3 0xA (arrayWho s pa) [(4, n), (8, pa)]

/-- One correction counted in its bank's bucket, with its records (R463). -/
def countCe (s : State) (pa : Nat) : State :=
  match bankOf pa with
  | none => s
  | some (bank, _, _) =>
    let lvl := (tfind s.flt.ce bank).getD 0
    let above := decide (polCeDepth s ≤ lvl)
    let s1 := { s with flt := { s.flt with
      ce := tput s.flt.ce bank (if above then polCeDepth s / 2 else lvl + 1)
      ceSince := tput s.flt.ceSince bank ((tfind s.flt.ceSince bank).getD 0 + 1), ceAt := tput s.flt.ceAt bank pa } }
    ceRecord (if above then emit s1 3 0xB (arrayWho s pa) [] else s1) bank

/-- What a controller does with a codeword as it finds it (R460); a re-read that corrects is a correction too (R463). -/
def findCodeword (s : State) (pa : Nat) (found : EccFinding) : State :=
  match found, bankOf pa with
  | .corrected _, _ => countCe s pa
  | .uncorrectableOnce, some (_, ch, _) => countCe (chargeMemory s ch false) pa
  | .uncorrectableTwice, some _ =>
    remapRow (emit (pwritePoison s (codeword pa)) 3 9 (arrayWho s pa) [(8, pa)]) pa
  | _, _ => s

/-! Near-bank units (R456). -/

/-- An ARITH_CHECK charged to a near-bank unit; the unit is retired at the threshold. -/
def chargeUnit (s : State) (k pc bank : Nat) : State :=
  let ch := chUnit k pc bank
  let c := (tfind s.flt.charges ch).getD {}
  let times := recentCharges s ch ++ [s.time.now]
  let s1 := { s with flt := { s.flt with charges := tput s.flt.charges ch { c with times := times } } }
  let u := ch % 2 ^ 20
  if times.length < polThreshold s ∨ s.flt.nearUnits.contains u then s1
  else
    let s2 := emit { s1 with flt := { s1.flt with nearUnits := s1.flt.nearUnits ++ [u] } } 3 0x12
      { die := 4 + k, unit := pc } [(2, bank)]
    if s2.flt.nearUnits.contains (Nat.xor u 1) && !s2.flt.nearOut.contains k then
      advise (emit { s2 with flt := { s2.flt with nearOut := k :: s2.flt.nearOut } } 3 0x13 { die := 4 + k } [])
    else advise s2

end Sys2Proof.Machine
end

