-- ==== Sys2Proof/Machine/Bandwidth.lean ====
section
/-! DEFINITION. Bandwidth registrations, regulation, and the requests of masters: translation, cache, codewords (06, 12). -/

namespace Sys2Proof.Machine

/-! Registration (R350-R355). -/

/-- The lowest handle that no registration holds (R350). -/
def freeHandle (s : State) : Nat :=
  ((List.range (s.bw.regs.length + 1)).find? fun h => (tfind s.bw.regs h).isNone).getD 0

/-- A bucket set to a number of tokens now. -/
def setBucket (s : State) (p c r v : Nat) : State :=
  let k := 2 * combo p c r
  { s with bw := { s.bw with buckets := tput (tput s.bw.buckets k v) (k + 1) s.time.now } }

/-- The buckets of a resource brought up to now, before its rates change. -/
def settleBuckets (s : State) (r : Nat) : State :=
  (regsOn s r).foldl (fun t e => setBucket t e.2.part e.2.cls r (bucketNow s e.2.part e.2.cls r)) s

/-- A recomputation with the buckets kept (R352). -/
def recomputeNow (s : State) (r : Nat) : State := recompute (settleBuckets s r) r

/-- BW_REGISTER. -/
def bwRegister (d : Nat) (s : State) : State :=
  withOp s d 0xF120 fun f =>
    let p := f.op 0x20 1
    let c := f.op 0x21 1
    let r := f.op 0x22 2
    let rate := f.op 0x24 4
    let burst := f.op 0x28 4
    refuseIf s d [(rBadField, decide (15 < p ∨ 5 < c ∨ rate = 0 ∨ burst < 2048 ∨ 64 * 2 ^ 20 < burst ∨ burst % 2048 ≠ 0)
        || !resourceOk r || !f.zeroFrom 0x2C),
      (rNotFound, (getP s p).isNone), (rNoResource, decide (4096 ≤ s.bw.regs.length)),
      (rCapacity, decide (85 * capacity s r < 100 * (rateSum (regsOn s r) + rate)))] <|
    let h := freeHandle s
    let s1 := settleBuckets s r
    let s2 := { s1 with bw := { s1.bw with
      regs := tput s1.bw.regs h { part := p, cls := c, res := r, rate := rate, burst := burst, eff := rate } } }
    endF (recompute s2 r) d stOk h
def execBwRegister (d : Nat) (s : State) : Host.Outcome State Fault Refusal := .next (bwRegister d s)

/-- BW_RELEASE. -/
def bwRelease (d : Nat) (s : State) : State :=
  withOp s d 0xF121 fun f =>
    let h := f.op 0x20 2
    match tfind s.bw.regs h with
    | none => refuseF s d (if f.zeroFrom 0x22 then rNotFound else rBadField)
    | some x =>
      if !f.zeroFrom 0x22 then refuseF s d rBadField
      else
        let s1 := settleBuckets s x.res
        endF (recompute { s1 with bw := { s1.bw with regs := tdel s1.bw.regs h } } x.res) d stOk 0
def execBwRelease (d : Nat) (s : State) : Host.Outcome State Fault Refusal := .next (bwRelease d s)

/-- BW_MONITOR (R355). -/
def bwMonitor (d : Nat) (s : State) : State :=
  withOp s d 0xF122 fun f =>
    let p := f.op 0x20 1
    let c := f.op 0x21 1
    let m := f.op 0x22 1
    refuseIf s d [(rBadField, decide (15 < p ∨ 7 < c ∨ 3 < m) || !f.zeroFrom 0x23), (rNotFound, (getP s p).isNone)] <|
    match getP s p with
    | none => s
    | some x => endF (putP s p { x with bw := tput x.bw c { (tfind x.bw c).getD {} with mode := m } }) d stOk 0
def execBwMonitor (d : Nat) (s : State) : Host.Outcome State Fault Refusal := .next (bwMonitor d s)

/-- CAPACITY_RECOMPUTE (R352, R353). -/
def capacityRecompute (res : Nat) (s : State) : State := if resourceOk res then recomputeNow s res else s
def execCapacityRecompute (res : Nat) (s : State) : Host.Outcome State Fault Refusal := .next (capacityRecompute res s)

/-! Monitoring (R355-R357). -/

/-- A miss of a registration counted, and reported as its mode asks. -/
def recordMiss (s : State) (h : Nat) : State :=
  match tfind s.bw.regs h with
  | none => s
  | some r =>
    match getP s r.part with
    | none => s
    | some x =>
      let b := (tfind x.bw r.cls).getD {}
      let b1 := if b.mode % 2 = 1 then { b with misses := (b.misses + 1) % 2 ^ 64 } else b
      let s1 := putP s r.part { x with
        bw := if b.mode = 0 then x.bw else tput x.bw r.cls b1
        bwMiss := if 2 ≤ b.mode ∧ !bit x.bwMiss r.cls then x.bwMiss + 2 ^ r.cls else x.bwMiss }
      if b.mode < 2 then s1
      else if r.missUntil = 0 then
        emit { s1 with bw := { s1.bw with regs := tput s1.bw.regs h { r with missUntil := s.time.now + 1000000, missed := 0 } } }
          3 0x17 { part := r.part } [(2, h), (1, r.part), (1, r.cls), (2, r.res)]
      else { s1 with bw := { s1.bw with regs := tput s1.bw.regs h { r with missed := r.missed + 1 } } }

/-- MISS_INTERVAL (R356): the registrations of classes 2-5 whose requests waited throughout, with the bytes served. -/
def missInterval (waited : List (Nat × Nat)) (s : State) : State :=
  waited.foldl (fun t e => match tfind t.bw.regs e.1 with
    | some r => if 2 ≤ r.cls ∧ e.2 + 2048 < r.eff * 100 then recordMiss t e.1 else t
    | none => t) s
def execMissInterval (waited : List (Nat × Nat)) (s : State) : Host.Outcome State Fault Refusal :=
  .next (missInterval waited s)

/-- GUARANTEE_MISSED_WINDOW (R357): 1 ms after a record, the next one carries the misses counted meanwhile. -/
def guaranteeMissedWindow (handle : Nat) (s : State) : State :=
  match tfind s.bw.regs handle with
  | none => s
  | some r =>
    if r.missUntil = 0 ∨ s.time.now < r.missUntil then s
    else if r.missed = 0 then { s with bw := { s.bw with regs := tput s.bw.regs handle { r with missUntil := 0 } } }
    else
      emit { s with bw := { s.bw with regs := tput s.bw.regs handle { r with missUntil := s.time.now + 1000000, missed := 0 } } }
        3 0x17 { part := r.part } [(2, handle), (1, r.part), (1, r.cls), (2, r.res), (4, r.missed)]
def execGuaranteeMissedWindow (handle : Nat) (s : State) : Host.Outcome State Fault Refusal :=
  .next (guaranteeMissedWindow handle s)

/-! Requests (R339, R345-R348). -/

/-- The tower of a master: cores 0-511, the host DMA engine 512, the near-bank sequencers 513 and 514, ports 515-546, Mitten
547, the guest 548. -/
def masterTower (m : Nat) : Nat :=
  if m < 512 then m / 256 else if m = 514 then 1 else if 515 ≤ m ∧ m < 547 then (m - 515) / 16 else 0

/-- The tower whose translations a master uses: a core's own, and base die A for one that holds no row (R194). -/
def tlbTower (m : Nat) : Nat := if m < 512 then m / 256 else 0

/-- Stack time of n bytes within one 2 KiB block (R176). -/
def blockCharge (n : Nat) : Nat := if n = 2048 then 2048 else if 512 ≤ n then n + 256 else 512
/-- Stack time of n bytes from an address: one access for each 2 KiB block touched. -/
def stackCharge (pa n : Nat) : Nat :=
  if n = 0 then 0
  else ((List.range ((pa + n - 1) / 2048 - pa / 2048 + 1)).map fun i =>
    let lo := max pa ((pa / 2048 + i) * 2048)
    let hi := min (pa + n) ((pa / 2048 + i + 1) * 2048)
    blockCharge (hi - lo)).foldl (· + ·) 0

/-- The grant of a port for a combination. -/
def grantKey (port p c r : Nat) : Nat := 2 * ((port * 16 + p) * 32768 + c * 4096 + r)

/-- A port's tokens after a refill on demand, up to 4 KiB (R345): the state and the tokens. -/
def refill (s : State) (port p c r need : Nat) : State × Nat :=
  let g := (tfind s.bw.grants (grantKey port p c r)).getD 0
  if need ≤ g then (s, g)
  else
    let have_ := bucketNow s p c r / 1000
    let take := min (4096 - g) have_
    (setBucket s p c r (bucketNow s p c r - 1000 * take), g + take)

/-- A charge tried at a port: conforming when the port holds the tokens (R345). -/
def chargePort (s : State) (port p c : Nat) (use : Nat × Nat) : State × Bool :=
  if 5 < c ∨ (regsOf s p c use.1).isEmpty then (s, use.2 == 0)
  else
    let x := refill s port p c use.1 use.2
    let ok := decide (use.2 ≤ x.2)
    let k := grantKey port p c use.1
    ({ x.1 with bw := { x.1.bw with
      grants := tput (tput x.1.bw.grants k (if ok then x.2 - use.2 else x.2)) (k + 1) s.time.now } }, ok)

/-- The deadline has passed (R340, R348). -/
def latePast (s : State) (m : MemReq) : Bool := decide (0 < m.deadline ∧ m.deadline < s.time.now)

/-- A request served (R460, R461, R355, R356): its codewords as found, its write, and its counts. `conf` says that it
was conforming. -/
def serveReq (s : State) (m : MemReq) (use : List (Nat × Nat)) (conf : Bool) : State :=
  let cx : Cx := { part := m.part, desc := 2 ^ 64, rem := [] }
  let s1 := match xlate s m.part m.va with
    | .ok (.loc pa _) => findCodeword s pa m.found
    | _ => s
  let s2 := match m.write with
    | some bs => (match vwrite s1 cx m.va bs with | .ok t => t | .error _ => s1)
    | none => s1
  -- the lines of a LAST read hold undefined content (R187)
  let s3 := match m.write, xlate s2 m.part m.va with
    | none, .ok (.loc pa _) => (match locate pa with
      | .stack .. => if effHint s2 m.part pa m.hint = 3 then
          (List.range ((pa + max 1 m.len - 1) / 256 - pa / 256 + 1)).foldl (fun t i => undefineLine t (pa / 256 + i)) s2
        else s2
      | _ => s2)
    | _, _ => s2
  let s4 := match getP s3 m.part with
    | some x =>
      let b := (tfind x.bw m.cls).getD {}
      if b.mode % 2 = 1 then putP s3 m.part { x with
        bw := tput x.bw m.cls { b with bytes := (b.bytes + (use.map Prod.snd).foldl (· + ·) 0) % 2 ^ 64 } } else s3
    | none => s3
  if conf && decide (m.cls ≤ 1) && latePast s m then
    match use.findSome? fun u => ((regsOf s4 m.part m.cls u.1).head?).map Prod.fst with
    | some h => recordMiss s4 h
    | none => s4
  else s4

/-- A waiting request put among those that its bank group holds, for its WINDOW_CLOSE. -/
def holdAt (s : State) (g id : Nat) : State :=
  let b := getBg s g
  putBg s g { b with held := b.held.filter (· != id) ++ [id] }

/-- A request of a waiting entry served and removed; one that goes to a bank group in a window is held there (R225, R234), and one
for a slice under copy or a stack under test stays (R179, R560). -/
def serveWaiting (s : State) (id : Nat) : State :=
  match tfind s.bw.waiting id with
  | none => s
  | some w =>
    let go (_ : Unit) : State :=
      serveReq { s with bw := { s.bw with waiting := tdel s.bw.waiting id } } w.req w.use (decide (w.tier ≤ 3))
    match xlate s w.req.part w.req.va with
    | .ok (.loc pa _) =>
      if underCopy s pa || underTest s pa then s
      else match windowHolds s pa with
        | some g => if w.use.any fun u => u.1 < 8 then holdAt s g id else go ()
        | none => go ()
    | _ => go ()

/-- The bytes a waiting request is charged. -/
def WaitReq.charge (w : WaitReq) : Nat := (w.use.map Prod.snd).foldl (· + ·) 0

/-- Whether two waiting requests share a combination of partition, class and resource. -/
def WaitReq.sameCombo (a b : WaitReq) : Bool :=
  a.req.part == b.req.part && a.req.cls == b.req.cls && (a.use.head?).map Prod.fst == (b.use.head?).map Prod.fst

/-- The place of a waiting request in the order of R348, compared number by number: its tier, then the order within the tier. A
deficit round-robin whose combinations each add their effective rate in bytes a round serves a request in the round in which
its combination's charges so far are covered (assumption 172). -/
def servePlace (s : State) (l : List (Nat × WaitReq)) (id : Nat) (w : WaitReq) : List Nat :=
  let before (t : WaitReq → Bool) := (l.filter fun e => decide (e.1 < id) && t e.2).map Prod.snd
  match (if w.tier = 1 ∧ latePast s w.req then 3 else w.tier) with
  | 1 => [1, if w.req.deadline = 0 then 2 ^ 64 else w.req.deadline, w.req.cls, id]
  | 2 =>
    let res := ((w.use.head?).map Prod.fst).getD 0
    let sum := ((before w.sameCombo).map WaitReq.charge).foldl (· + ·) w.charge
    let eff := max 1 (comboEff s w.req.part w.req.cls res)
    [2, (sum + eff - 1) / eff, combo w.req.part w.req.cls res, id]
  | 3 => [3, id]
  | _ =>
    if w.req.cls = 7 then [4, (before fun v => v.tier == 4 && v.req.cls == 7).length, 1, id]
    else [4, (before fun v => v.tier == 4 && v.req.cls != 7).length / 4, 0, id]

/-- Whether one place comes no later than another. -/
def placeLe : List Nat → List Nat → Bool
  | [], _ => true
  | _ :: _, [] => false
  | a :: r, b :: t => decide (a < b) || (a == b && placeLe r t)

/-- A request put at its place among others. -/
def putPlace (x : Nat × List Nat) : List (Nat × List Nat) → List (Nat × List Nat)
  | [] => [x]
  | y :: r => if placeLe x.2 y.2 then x :: y :: r else y :: putPlace x r

/-- Waiting requests of a resource served in the order of R348. -/
def serveAll (s : State) (ids : List Nat) : State :=
  let l := ids.filterMap fun i => (tfind s.bw.waiting i).map fun w => (i, w)
  ((l.map fun e => (e.1, servePlace s l e.1 e.2)).foldr putPlace []).foldl (fun t e => serveWaiting t e.1) s

/-- The conforming requests that a slice copy or a test held, served once it has ended (R179, R560). -/
def serveFreed (s : State) : State := serveAll s ((s.bw.waiting.filter fun e => e.2.heldSince.isNone).map Prod.fst)

/-- A request entered as waiting. -/
def addWaiting (s : State) (w : WaitReq) : State × Nat :=
  ({ s with bw := { s.bw with waiting := tput s.bw.waiting s.bw.nextReq w, nextReq := s.bw.nextReq + 1 } }, s.bw.nextReq)

/-- An entry put last among those of a partition in a tower, the oldest making room. -/
def tlbPut (t : Tbl (List Nat)) (k cap v : Nat) : Tbl (List Nat) :=
  let old := ((tfind t k).getD []).filter (· != v)
  tput t k (old.drop (old.length + 1 - cap) ++ [v])

/-- A translation cached in the tower of a master (R194): each row of the partition there reserves 1,024 leaf entries and 64
upper-level entries, which are named by the level and the range of the table they point to. A master that holds no row has those
of one row in base die A. -/
def cacheLeaf (s : State) (m : MemReq) : State :=
  match leafOf s m.part m.va with
  | none => s
  | some (_, l) =>
    let t := tlbTower m.master
    let rows := (List.range 16).filter fun r => bit (((getP s m.part).map (·.rows)).getD 0) (16 * t + r)
    let n := max 1 rows.length
    let k := 16 * t + m.part
    let up := (([2, 1].filter (l < ·)).foldl (fun u j => tlbPut u k (64 * n) (4 * (m.va / 2 ^ levelBit j) + j)) s.mem.tlbUp)
    { s with mem := { s.mem with
      tlb := tlbPut s.mem.tlb k (1024 * n) (m.va / 2 ^ levelBit l * 2 ^ levelBit l / 8192), tlbUp := up } }

/-- The shared-cache lookups of a request in tier S, with the time its stack is charged (R176, R177, R182): a DEFAULT or KEEP
read that misses fetches its whole 2 KiB block, any other access meets the stack as it was issued. -/
def memCache (s : State) (r : MemReq) (pa : Nat) : State × Nat :=
  match locate pa with
  | .stack .. => (List.range ((pa + max 1 r.len - 1) / 2048 - pa / 2048 + 1)).foldl (fun (acc : State × Nat) i =>
      let lo := max pa ((pa / 2048 + i) * 2048)
      let hi := min (pa + max 1 r.len) ((pa / 2048 + i + 1) * 2048)
      let h := effHint s r.part lo r.hint
      let y := (List.range ((hi - 1) / 256 - lo / 256 + 1)).foldl (fun (a : State × Bool) j =>
        let z := cacheLine a.1 r.part ((lo / 256 + j) * 256) r.write.isSome r.hint
        (z.1, a.2 || z.2)) (acc.1, false)
      (y.1, acc.2 + (if !y.2 then 0 else if r.write.isNone && (h == 0 || h == 2) then 2048 else blockCharge (hi - lo)))) (s, 0)
  | _ => (s, 0)

/-- The bundle that carries a request of n bytes between the towers, by a hash of its 2 KiB block over the 24 of its
direction: a bundle at half width takes a half share, and a retired one none (R361). -/
def bundleOf (s : State) (dir pa : Nat) : Option Nat :=
  let seats := (List.range 24).flatMap fun b =>
    let x := getBundle s (2 * b + dir)
    if x.retired then [] else if x.half.isSome then [b] else [b, b]
  seats[Config.blockHash (pa / 2048) % max 1 seats.length]?

/-- A request's 64-byte units put on the bundle that R361 chooses, when it crosses the fabric: the data of a write goes from the
master's tower, that of a read comes to it. -/
def routeUnits (s : State) (r : MemReq) (pa : Nat) : State :=
  let t := if inTowerB pa then 1 else 0
  let mt := masterTower r.master
  if t = mt then s
  else
    let dir := if r.write.isSome then mt else t
    match bundleOf s dir pa with
    | some b =>
      let x := getBundle s (2 * b + dir)
      putBundle s (2 * b + dir) { x with routed := (x.routed + (r.len + 63) / 64) % 2 ^ 64 }
    | none => s

/-- The resources a request is charged on, with their bytes (R342, R343); `stack` is the time its stack is charged. The host DMA
engine's data crosses the host link, and what a port's ingress reads leaves through that port. -/
def memUse (r : MemReq) (pa stack : Nat) : List (Nat × Nat) :=
  let t := if inTowerB pa then 1 else 0
  let mt := masterTower r.master
  let stackUse := match locate pa with
    | .stack k _ => if 0 < stack then [(k, stack)] else []
    | _ => []
  stackUse ++ (if t = mt then [] else [(if r.write.isSome then 0x10 + mt else 0x10 + t, r.len)])
    ++ (if r.master = 512 then [(if r.write.isSome then 0x201 else 0x200, r.len)] else [])
    ++ (if 515 ≤ r.master ∧ r.master < 547 ∧ r.write.isNone then [(0x100 + (r.master - 515), r.len)] else [])

/-- A conforming request served, or held until the close of the window its bank group is in, or while a window of its
pseudo-channel opens or closes (R222, R225, R226), or while its slice is copied (R179). -/
def memServe (s : State) (r : MemReq) (pa stack : Nat) : State :=
  let use := memUse r pa stack
  let tier := if r.cls ≤ 1 then (if latePast s r then 3 else 1) else 2
  let enter (_ : Unit) := addWaiting s { req := r, use := use, tier := tier, heldSince := none }
  if underCopy s pa || underTest s pa then (enter ()).1
  else match windowHolds s pa with
    | some g => if 0 < stack then holdAt (enter ()).1 g (enter ()).2 else serveReq s r use true
    | none => serveReq s r use true

/-- A request charged at its port on every resource it uses: conforming when the port holds the tokens of each. -/
def chargeAll (s : State) (r : MemReq) (use : List (Nat × Nat)) : State × Bool :=
  use.foldl (fun (acc : State × Bool) u => if acc.2 then chargePort acc.1 r.master r.part r.cls u else acc) (s, true)

/-- A fault that a request finds in a cached line (R462): an uncorrectable clean line is invalidated, to be fetched again; a dirty one is
written back with its codeword as poison. Either is charged to the pseudo-channel of the home block. -/
def cacheFault (s : State) (p pa : Nat) : State :=
  let k := setKey (if inTowerB pa then 1 else 0) p (pa / 2048)
  match findWay s (if inTowerB pa then 1 else 0) p (pa / 2048), bankOf pa with
  | some w, some (_, ch, _) =>
    let x := tfind s.mem.cache (k + w)
    let dirty := (x.map fun y => y.dirtyAt (pa / 256)).getD false
    let s1 := writeBack s fun a y => a == k + w && y.block == pa / 2048
    let s2 := chargeMemory (if dirty then pwritePoison s1 (codeword pa) else s1) ch false
    let b := 2 ^ lineBit pa
    { s2 with mem := { s2.mem with cache := tmap s2.mem.cache fun a y =>
      if a = k + w then { y with valid := y.valid - (if bit y.valid (lineBit pa) then b else 0), dirty := 0 } else y } }
  | _, _ => s

/-- What a request finds in the shared cache, with the finding that is left for its array (R460, R462). -/
def cacheFinding (s : State) (r : MemReq) (pa : Nat) : State × MemReq :=
  if r.found = .clean ∨ !lineCached s r.part pa then (s, r)
  else
    let r1 := { r with found := .clean }
    match r.found with
    | .uncorrectableOnce | .uncorrectableTwice => (cacheFault s r.part pa, r1)
    | _ => (s, r1)

/-- A translated request: served when it conforms at its port, else held there (R345, R347). -/
def memRequest (s0 : State) (r0 : MemReq) (pa : Nat) : State :=
  let x := cacheFinding s0 r0 pa
  let s := x.1
  let r := x.2
  let c := memCache s r pa
  let ch := chargeAll c.1 r (memUse r pa c.2)
  if ch.2 then memServe (routeUnits ch.1 r pa) r pa c.2
  else (addWaiting c.1 { req := r, use := memUse r pa c.2, tier := 4, heldSince := some s.time.now }).1

/-- A prefetch dropped and counted (R295, R347). -/
def countDrop (s : State) (p : Nat) : State :=
  match getP s p with
  | some x => putP s p { x with prefetchDrop := (x.prefetchDrop + 1) % 2 ^ 64 }
  | none => s

/-- What a prefetch may not read (R295): a sequence in a running step of another queue, and a page with EVEW of another
step. -/
def prefetchBarred (s : State) (r : MemReq) (pa : Nat) : Bool :=
  if r.va < 2 ^ 47 then false
  else
    let x := getSlot s ((r.va - 2 ^ 47) / 2 ^ rangeLog s r.part)
    let mine := r.by_.bind (getF s)
    let top := (mine.bind (·.stepOf)).or r.by_
    let other := (match x.inStep with
      | none => false
      | some k => (((getF s k).map fun f => (f.fn, f.q)) != mine.map fun f => (f.fn, f.q)))
    other || (x.inStep != top && ((getPool s r.part).frames.any fun f => f.evew && f.remote.isNone && f.where_ == pa / 8192 * 8192))

/-- A request as its master stamps it (R339, R340): a core's with the partition that owns the core, a descriptor's with its
partition, class and deadline, a port's with 1 µs from its arrival, Mitten's with class 7, the guest's with the designated
partition. -/
def stamp (s : State) (r : MemReq) : MemReq :=
  let x := match r.by_.bind (getF s) with
    | some f => { r with part := f.part, cls := f.cls, deadline := f.absDeadline.getD 0 }
    | none => r
  if x.master < 512 then { x with part := (coreOwner s x.master).getD x.part }
  else if 515 ≤ x.master ∧ x.master < 547 then { x with deadline := if x.cls ≤ 1 then s.time.now + 1000 else 0 }
  else if x.master = 547 then { x with cls := 7, deadline := 0 }
  else if x.master = 548 then { x with part := s.cuff.part.getD x.part, deadline := 0 }
  else x

/-- A master's request for memory (R169-R196, R339, R345-R348, R460). A request that does not translate or may
not write is recorded and does nothing more; one that is not conforming is held at its port; one for a bank group in a window
waits for its close (R225); any other is served. A prefetch reads local frames under the DEFAULT hint; it never faults, and one
whose translation fails is counted (R295). -/
def memAccess (r0 : MemReq) (s : State) : State :=
  let r1 := stamp s r0
  let r := if r1.prefetch then { r1 with hint := 0, write := none } else r1
  let w : Who := { part := r.part }
  match xlate s r.part r.va with
  | .error (.st _) => if r.prefetch then countDrop s r.part else s
  | .error _ => if r.prefetch then countDrop s r.part else emit s 3 1 w [(8, r.va)]
  | .ok (.rem _ _ wr) => if r.prefetch then s else if r.write.isSome && !wr then emit s 3 2 w [(8, r.va)] else cacheLeaf s r
  | .ok (.loc pa wr) =>
    if r.prefetch && prefetchBarred s r pa then s
    else if r.write.isSome && !wr then emit s 3 2 w [(8, r.va)]
    else memRequest (cacheLeaf s r) r pa

/-- GRANT_RETURN (R345): a grant unused for 1 µs returns to its bucket. -/
def grantReturn (port cls res : Nat) (s : State) : State :=
  (List.range 16).foldl (fun t p =>
    let k := grantKey port p cls res
    match tfind t.bw.grants k with
    | none => t
    | some g =>
      if t.time.now < (tfind t.bw.grants (k + 1)).getD 0 + 1000 then t
      else
        let t1 := setBucket t p cls res (min (1000 * comboBurst t p cls res) (bucketNow t p cls res + 1000 * g))
        { t1 with bw := { t1.bw with grants := tdel (tdel t1.bw.grants k) (k + 1) } }) s
def execGrantReturn (port cls res : Nat) (s : State) : Host.Outcome State Fault Refusal := .next (grantReturn port cls res s)

/-- The slack signal of a resource: its conforming backlog is below 2 µs of work (R347). -/
def slackOn (s : State) (r : Nat) : Bool := decide (backlog s r < 2 * capacity s r ∨ backlog s r = 0)

/-- HELD_REQUEST_RELEASE (R347, R348): while the conforming backlog is below 2 µs of work, held requests are released and
served as class 6, those of class 7 in their turn. -/
def heldRequestRelease (res : Nat) (s : State) : State :=
  if !slackOn s res then s
  else
    let l := s.bw.waiting.filter fun e => e.2.use.any fun u => u.1 == res
    serveAll { s with bw := { s.bw with waiting := l.foldl (fun t e => tput t e.1 { e.2 with heldSince := none }) s.bw.waiting } }
      (l.map Prod.fst)
def execHeldRequestRelease (res : Nat) (s : State) : Host.Outcome State Fault Refusal := .next (heldRequestRelease res s)

/-- PREFETCH_DROP (R347): a prefetch held for more than 200 ns is dropped and counted. -/
def prefetchDrop (req : Nat) (s : State) : State :=
  match tfind s.bw.waiting req with
  | some { req := m, use := _, tier := _, heldSince := some t } =>
    if m.prefetch ∧ t + 200 < s.time.now then
      countDrop { s with bw := { s.bw with waiting := tdel s.bw.waiting req } } m.part
    else s
  | _ => s
def execPrefetchDrop (req : Nat) (s : State) : Host.Outcome State Fault Refusal := .next (prefetchDrop req s)

/-- REQUEST_DEADLINE_PASS (R348): a waiting request of tier 1 whose deadline passes moves to tier 3. -/
def requestDeadlinePass (req : Nat) (s : State) : State :=
  match tfind s.bw.waiting req with
  | some w => if w.tier = 1 ∧ latePast s w.req then
      { s with bw := { s.bw with waiting := tput s.bw.waiting req { w with tier := 3 } } } else s
  | none => s
def execRequestDeadlinePass (req : Nat) (s : State) : Host.Outcome State Fault Refusal := .next (requestDeadlinePass req s)

/-! Scrubbing (R464, R465). -/

/-- The codeword after an address in the order of the scrubber: tier F, then the stacks; none at the end of a lap. -/
def scrubNext (pa : Nat) : Option Nat :=
  let n := pa + 32
  if n < 2 ^ 36 then some n
  else if n = 2 ^ 36 then some (2 ^ 38)
  else
    let k := (n - 2 ^ 38) / 2 ^ 37
    if (n - 2 ^ 38) % 2 ^ 37 < stackSize k then some n
    else if k < 7 then some (2 ^ 38 + (k + 1) * 2 ^ 37) else none

/-- Whether the scrubber passes over an address (R464). -/
def scrubPasses (s : State) (pa : Nat) : Bool :=
  !backed s pa || (match locate pa with | .stack k _ => s.hol.open_ && bit s.hol.stackSet k | _ => false) || pageRetired s pa || (tfind s.flt.remaps (rowOf pa)).isSome
    || (match bankOf pa with
      | some (_, ch, _) => ch / 2 ^ 20 == 3 && (s.flt.retiredBanks ++ s.flt.outBanks).contains (0x8000 + ch % 2 ^ 20 / 64, ch % 64)
      | none => true)

/-- A codeword as the scrubber finds it (R461, R464): poison is counted and left; one is sticky when the same byte was in error a lap
before, and its row is then remapped under AUTO_REMAP and only logged without it (R466). -/
def scrubFinds (s : State) (pa : Nat) (found : EccFinding) : State :=
  let cw := pa / 32
  if scrubPasses s pa then s
  else if poisoned s pa then { s with flt := { s.flt with scrubPoison := s.flt.scrubPoison + 1 } }
  else match found with
    | .corrected i =>
      let s2 := countCe s pa
      if tfind s.flt.sticky cw = some i ∧ polRemap s then
        remapRow { s2 with flt := { s2.flt with sticky := tdel s2.flt.sticky cw } } pa
      else { s2 with flt := { s2.flt with sticky := tput s2.flt.sticky cw i } }
    | .clean => { s with flt := { s.flt with sticky := tdel s.flt.sticky cw } }
    | x => findCodeword s pa x

/-- A lap of the scrubber ended, once nothing is left to return to (R464). -/
def scrubEnd (s : State) : State :=
  if !s.flt.scrubBack.isEmpty then s
  else
    let s3 := emit s 3 0xC {} [(8, s.time.now - s.flt.scrubStart)]
    { s3 with flt := { s3.flt with scrubAt := 0, scrubStart := s.time.now, scrubLagged := false } }

/-- The address after the last one of a lap. -/
def scrubTop : Nat := 2 ^ 38 + 2 ^ 40

/-- SCRUB_READ (R464): the codeword at the scrubber's place, found as the command says. A bank group in a window is passed over and
returned to before the lap ends (R234). -/
def scrubRead (pa : Nat) (found : EccFinding) (s : State) : State :=
  let inWindow := (windowHolds s pa).isSome
  if pa % 32 ≠ 0 then s
  else if s.flt.scrubBack.contains pa then
    if inWindow then s
    else
      let s1 := scrubFinds { s with flt := { s.flt with scrubBack := s.flt.scrubBack.filter (· != pa) } } pa found
      if s1.flt.scrubAt = scrubTop then scrubEnd s1 else s1
  else if pa ≠ s.flt.scrubAt then s
  else
    let s1 := if inWindow then { s with flt := { s.flt with scrubBack := s.flt.scrubBack ++ [pa] } } else scrubFinds s pa found
    match scrubNext pa with
    | some n => { s1 with flt := { s1.flt with scrubAt := n } }
    | none => scrubEnd { s1 with flt := { s1.flt with scrubAt := scrubTop } }
def execScrubRead (pa : Nat) (found : EccFinding) (s : State) : Host.Outcome State Fault Refusal := .next (scrubRead pa found s)

/-- SCRUB_LAG (R465). -/
def scrubLag (s : State) : State :=
  if polScrubBound s = 0 ∨ s.flt.scrubLagged ∨ s.time.now ≤ s.flt.scrubStart + polScrubBound s then s
  else emit { s with flt := { s.flt with scrubLagged := true } } 3 0xD {} []
def execScrubLag (s : State) : Host.Outcome State Fault Refusal := .next (scrubLag s)

/-- CE_LEAK (R463): each bucket loses one unit, and corrections not yet logged are. -/
def ceLeak (s : State) : State :=
  (tkeys s.flt.ceSince).foldl ceRecord { s with flt := { s.flt with ce := tmap s.flt.ce fun _ n => n - 1 } }
def execCeLeak (s : State) : Host.Outcome State Fault Refusal := .next (ceLeak s)

end Sys2Proof.Machine
end

