-- ==== Sys2Proof/Machine/Cores.lean ====
section
/-! DEFINITION. Cores at work (04, 05): ranges of cores, the mismatches of an operation's run, and the order in which units and
buffers are granted. -/

namespace Sys2Proof.Machine

/-! Cores of an operation (R135, R136, R458, R473). -/

/-- Whether a set of cores is in range of the partition's bound cores and not empty: a set that names no core is out of range, a
choice (R155, assumption 129). -/
def coreRangeOk (s : State) (p first count : Nat) : Bool :=
  decide (first + count ≤ (boundCores s p).length) && !(coreSet s p first count).isEmpty

/-- The mismatches of an operation's run settled: the state, and whether the operation is lost to ARITH_CHECK (R112). The
operation itself leaves its cores first: its own status is ARITH_CHECK (assumption 46). An entry of a STEP stays on them, so that a
core that becomes permanent ends its STEP CORE_LOST (R297). -/
def runFaults (s : State) (d : Nat) (w : Work) : State × Bool :=
  if (w.faults.any fun x => decide (3 ≤ x.fails)) && !((getF s d).map fun f => f.stepOf.isSome).getD false then
    let s1 := match getF s d with
      | some f => putF s d { f with cores := [], begun := false }
      | none => s
    coreFaults { s1 with flt := { s1.flt with cores := tmap s1.flt.cores fun _ c =>
      { c with intake := c.intake.filter (· != d) } } } d w.faults
  else coreFaults s d w.faults

/-! Units and buffers (R114, R167). -/

/-- Whether an earlier descriptor of a core's intake is still to be granted its units or buffers, and so holds the later ones
(R114). One that sleeps on its header wait asks for none yet (assumption 160). -/
def intakeAhead (s : State) (core d : Nat) : Bool :=
  ((getCore s core).intake.takeWhile (· != d)).any fun e => ((getF s e).map fun g => g.phase == .started && !g.begun).getD false

/-- A descriptor granted its buffers, or the units given, on its cores (R114); those it holds already it keeps. -/
def beginF (s : State) (d : Nat) (f : Flight) (cores : List Nat) (units : Tbl Nat) : State :=
  putF s d { f with begun := true, cores := cores, units := if f.begun then f.units else units }

end Sys2Proof.Machine
end

