-- ==== Sys2Proof/Machine/Move.lean ====
section
/-! DEFINITION. The MOVE family (R197-R201). -/

namespace Sys2Proof.Machine

/-- A descriptor's own field checks: reserved bytes, else MALFORMED (R13). -/
def needs (ok : Bool) : Except Stop Unit := if ok then .ok () else .error (.st stMalformed)

/-- What must hold before an operation can go on; until then it is tried again (R114). -/
def holdsUntil (ok : Bool) : Except Stop Unit := if ok then .ok () else .error .wait

/-- A result that says whether poison was met: the descriptor ends OK or DATA_POISONED (R461). -/
def finishP (s : State) (d : Nat) : Except Stop (State × Bool) → State
  | .ok (t, bad) => endF t d (if bad then stPoisoned else stOk) 0
  | .error x => stopWith s d x

/-- Copies a tensor's elements and scales (R198), poisoned codewords as poison (R461). An overlap of the two, or of the
destination with a record, leaves the destination's range undefined (R140, assumption 47). -/
def copyOp (s : State) (d : Nat) (f : Flight) : Except Stop (State × Bool) := do
  let cx := cxOf s f d
  needs (f.zeroFrom 0x30)
  let a ← operand s cx (f.op 0x20 8)
  let b ← operand s cx (f.op 0x28 8)
  needs (a.fmt == b.fmt && a.ext == b.ext)
  let data ← rowsP s cx a
  let sc ← if isMx a.fmt then vreadP s cx a.scale a.scaleBytes else .ok []
  let bad := data.any (fun r => r.any Prod.snd) || sc.any Prod.snd
  let u := touchRead s cx a
  let recs := placesOf s cx (f.op 0x20 8) 64 ++ placesOf s cx (f.op 0x28 8) 64
  if meets (b.places s cx) (a.places s cx ++ recs) then (writeFree u cx b).map fun v => (v, bad)
  else
    let v ← writeRowsP u cx b data
    if isMx b.fmt then (vwriteP v cx b.hint b.scale sc).map fun x => (x, bad) else .ok (v, bad)

/-- COPY. -/
def copy (d : Nat) (s : State) : State := withOp s d 0x0001 fun f => finishP s d (copyOp s d f)
def execCopy (d : Nat) (s : State) : Host.Outcome State Fault Refusal := .next (copy d s)

/-- The element codes of a fill pattern: its low bytes; for MXFP4 the low byte to each pair (R198). -/
def fillCodes (t : Tensor) (pattern : Nat) : List Nat :=
  if t.fmt = 0x10 then (List.range t.count).map fun i => if i % 2 = 0 then pattern % 16 else pattern / 16 % 16
  else List.replicate t.count (pattern % 2 ^ (4 * nibbles t.fmt))

/-- FILL's work. -/
def fillOp (s : State) (d : Nat) (f : Flight) : Except Stop State := do
  let cx := cxOf s f d
  needs (f.zero 0x20 8 && f.zeroFrom 0x38)
  let t ← operand s cx (f.op 0x28 8)
  if meets (t.places s cx) (placesOf s cx (f.op 0x28 8) 64) then writeFree s cx t
  else writeCodes s cx t (fillCodes t (f.op 0x30 8))

/-- FILL. -/
def fill (d : Nat) (s : State) : State := withOp s d 0x0002 fun f => finishE s d 0 (fillOp s d f)
def execFill (d : Nat) (s : State) : Host.Outcome State Fault Refusal := .next (fill d s)

/-- Whether a partition is sealed (R198). -/
def isSealed (s : State) (p : Nat) : Bool := ((getP s p).map (·.sealed)).getD false

/-- TO_HOST's work: element codes, row-major, poisoned codewords as zeros (R461); a host range that cannot be written is
TRANSLATION_FAULT. -/
def toHostOp (s : State) (d : Nat) (f : Flight) : Except Stop (State × Bool) := do
  let cx := cxOf s f d
  needs (f.zeroFrom 0x30)
  if isSealed s f.part then .error (.st stPermission)
  else
    let t ← operand s cx (f.op 0x20 8)
    let data ← rowsP s cx t
    let bs := data.flatten
    if hostBad s (f.op 0x28 8) bs.length then .error (.st stTranslation)
    else .ok (hwrite (touchRead s cx t) (f.op 0x28 8) (bs.map Prod.fst), bs.any Prod.snd)

/-- TO_HOST. -/
def toHost (d : Nat) (s : State) : State := withOp s d 0x0010 fun f => finishP s d (toHostOp s d f)
def execToHost (d : Nat) (s : State) : Host.Outcome State Fault Refusal := .next (toHost d s)

/-- FROM_HOST's work. -/
def fromHostOp (s : State) (d : Nat) (f : Flight) : Except Stop State := do
  let cx := cxOf s f d
  needs (f.zeroFrom 0x30)
  if isSealed s f.part then .error (.st stPermission)
  else
    let t ← operand s cx (f.op 0x28 8)
    match hread s (f.op 0x20 8) t.bytes with
    | none => .error (.st stTranslation)
    | some bs =>
      if meets (t.places s cx) (placesOf s cx (f.op 0x28 8) 64) then writeFree s cx t
      else writeCodes s cx t ((chunks t.rowBytes bs).flatMap (unpack t.fmt))

/-- FROM_HOST. -/
def fromHost (d : Nat) (s : State) : State := withOp s d 0x0011 fun f => finishE s d 0 (fromHostOp s d f)
def execFromHost (d : Nat) (s : State) : Host.Outcome State Fault Refusal := .next (fromHost d s)

/-! MAP and UNMAP (R199, R200). -/

/-- The size of a page and its level (R190). -/
def pageSize (level : Nat) : Nat := 2 ^ levelBit level

/-- What stands in a partition's tables for a page of a level: the entry at that level, 0 where no table reaches it, or the
larger leaf that covers it. -/
def entryFrom (s : State) (table va target : Nat) : Nat → Nat
  | 0 => pnat s (table + 8 * levelIdx va 0) 8
  | l + 1 =>
    let e := pnat s (table + 8 * levelIdx va (l + 1)) 8
    if l + 1 = target ∨ !pteV e ∨ pteKind e ≠ 0 then e else entryFrom s (pteFrame e) va target l
def entryAt (s : State) (p va target : Nat) : Nat :=
  if pteV (rootOf s p va) then entryFrom s (pteFrame (rootOf s p va)) va target 2 else 0

/-- Whether a page of 2^n bytes at an address passes R193 for a partition, in every 8 KiB frame of it. -/
def pageOk (s : State) (p pa size : Nat) : Bool :=
  let fr := frameNo pa
  let inside (x : Nat) := decide (fr ≤ x ∧ x < fr + size / 8192)
  frameOk s p pa false false true && backed s (pa + size - 1)
    && !s.flt.retiredPages.any inside && !s.mem.tableTag.any inside && !s.mem.kvTag.any inside

/-- Whether a large page crosses a slice or a grain (R190). -/
def crosses (pa size : Nat) : Bool :=
  match locate pa with
  | .slice _ off => decide (2 ^ 27 < off + size)
  | .stack _ off => decide (2 ^ 33 < off % 2 ^ 33 + size)
  | .unbacked => false

/-- The addresses of a run of pages. -/
def pagesOf (va count size : Nat) : List Nat := (List.range count).map fun i => va + i * size

/-- MAP's work. -/
def mapOp (s : State) (f : Flight) : Except Stop State := do
  let p := f.part
  let va := f.op 0x20 8
  let fr := f.op 0x28 8
  let n := f.op 0x30 4
  let lv := f.op 0x34 1
  let fl := f.op 0x35 1
  let w := bit fl 0
  let rem := bit fl 1
  let size := pageSize lv
  let imp := fr % 256
  let wp := fr / 2 ^ 32
  needs (decide (lv ≤ 2 ∧ fl < 4 ∧ n ≠ 0 ∧ va % size = 0) && f.zero 0x36 2 && f.zeroFrom 0x38
    && (if rem then lv == 0 && decide (fr % 2 ^ 32 < 256) else decide (fr % size = 0)))
  if 0x7F0000000000 < va + n * size then .error (.st stPermission)
  else
    needs ((pagesOf va n size).all fun a => !pteV (entryAt s p a lv))
    needs (rem || lv == 0 || !((List.range n).any fun i => crosses (fr + i * size) size))
    let ok : Bool := if rem then
        match importOf s p imp with
        | some im => im.bound && decide ((wp + n) * 8192 ≤ 2 ^ im.sizeLog2 ∧ wp + n ≤ 2 ^ 32)
        | none => false
      else (List.range n).all fun i => pageOk s p (fr + i * size) size
    if !ok then .error (.st stPermission)
    else foldE (fun u i =>
      let u1 := if rem then u else claimGrain u p (fr + i * size)
      match mapLeaf u1 p (va + i * size) lv (if rem then mkRemote imp (wp + i) w false else mkLeaf (fr + i * size) w false false) with
      | some v => .ok v
      | none => .error (.pool [] true)) s (List.range n)

/-- MAP. A table pool that runs dry changes nothing and is recorded (R199). -/
def map (d : Nat) (s : State) : State :=
  withOp s d 0x0020 fun f =>
    match mapOp s f with
    | .error (.pool _ _) => endF (emit s 3 3 { part := f.part } []) d stTranslation 0
    | r => finishE s d 0 r
def execMap (d : Nat) (s : State) : Host.Outcome State Fault Refusal := .next (map d s)

/-- Whether an access that uses a translation of a page has not finished (R200): a request that waits, or a message to a neighbour
that is not answered. -/
def pageInUse (s : State) (p va size : Nat) : Bool :=
  (s.bw.waiting.any fun e => e.2.req.part == p && decide (va ≤ e.2.req.va ∧ e.2.req.va < va + size))
    || (match xlate s p va with
      | .ok (.rem imp off _) => (match importOf s p imp with
        | some im => s.plauf.out.any fun e => e.2.part == p && e.2.handle == im.handle && e.2.msg.exportId == im.exportId
            && decide (off ≤ e.2.msg.offset ∧ e.2.msg.offset < off + size)
        | none => false)
      | _ => false)

/-- UNMAP's work. It waits for accesses that use what it removes (R200). -/
def unmapOp (s : State) (f : Flight) : Except Stop State := do
  let p := f.part
  let va := f.op 0x20 8
  let n := f.op 0x30 4
  let lv := f.op 0x34 1
  let size := pageSize lv
  needs (decide (lv ≤ 2 ∧ n ≠ 0 ∧ va % size = 0) && f.zero 0x28 8 && f.zero 0x35 3 && f.zeroFrom 0x38)
  if 0x7F0000000000 < va + n * size then .error (.st stPermission)
  else
    -- an entry that is valid must be a leaf of this size: a larger leaf that covers it, or a table of smaller ones, is not
    needs ((pagesOf va n size).all fun a =>
      let e := entryAt s p a lv
      !pteV e || (match leafOf s p a with | some (_, l) => l == lv | none => false))
    holdsUntil ((pagesOf va n size).all fun a => !pageInUse s p a size)
    .ok ((pagesOf va n size).foldl (fun u a => if pteV (entryAt u p a lv) then unmapLeaf u p a else u) s)

/-- UNMAP. -/
def unmap (d : Nat) (s : State) : State := withOp s d 0x0021 fun f => finishE s d 0 (unmapOp s f)
def execUnmap (d : Nat) (s : State) : Host.Outcome State Fault Refusal := .next (unmap d s)

/-- TPOOL_ADD's work (R201). -/
def tpoolAddOp (s : State) (f : Flight) : Except Stop State := do
  let p := f.part
  let pa := f.op 0x20 8
  let n := f.op 0x30 4
  needs (decide (n ≠ 0 ∧ pa % 8192 = 0) && f.zero 0x28 8 && f.zero 0x34 4 && f.zeroFrom 0x38)
  let frames := (List.range n).map fun i => pa / 8192 + i
  if frames.all fun fr => frameOk s p (fr * 8192) false false true && !frameMapped s fr then
    let s1 := frames.foldl (fun u fr => claimGrain u p (fr * 8192)) s
    .ok { s1 with mem := { s1.mem with
      tableTag := s1.mem.tableTag ++ frames, tpool := tput s1.mem.tpool p ((tfind s1.mem.tpool p).getD [] ++ frames) } }
  else .error (.st stPermission)

/-- TPOOL_ADD. -/
def tpoolAdd (d : Nat) (s : State) : State := withOp s d 0x0022 fun f => finishE s d 0 (tpoolAddOp s f)
def execTpoolAdd (d : Nat) (s : State) : Host.Outcome State Fault Refusal := .next (tpoolAdd d s)

end Sys2Proof.Machine
end

