-- ==== Sys2Proof/Machine/Reduce.lean ====
section
/-! DEFINITION. Reductions at the memory controllers (R204-R209). -/

namespace Sys2Proof.Machine

/-- Staging of a stack in use (R207). -/
def stagingUsed (s : State) (k : Nat) : Nat := (tfind s.mem.staging k).getD 0
/-- The staging store of a stack. -/
def stagingSize : Nat := 4 * 2 ^ 20

/-- Rows of bytes as element codes, each with whether any of its bytes is poisoned. -/
def codesP (fmt : Nat) (rows : List (List (Byte × Bool))) : List (Nat × Bool) :=
  rows.flatMap fun r => (chunks (nibbles fmt / 2) r).map fun e => (leNat (e.map Prod.fst), e.any Prod.snd)
/-- Element codes with their poison as rows of bytes. -/
def bytesP (fmt e0 : Nat) (codes : List (Nat × Bool)) : List (List (Byte × Bool)) :=
  (chunks e0 codes).map fun l => l.flatMap fun e => (toLe (nibbles fmt / 2) e.1).map fun b => (b, e.2)

/-- The codes at a group's destination, and codes written there. -/
def readRows (s : State) (cx : Cx) (fmt e0 : Nat) (rows : List Nat) : Except Stop (List (Nat × Bool)) :=
  (seqE (rows.map fun a => vreadP s cx a (e0 * nibbles fmt / 2))).map (codesP fmt)
def writeRows (s : State) (cx : Cx) (fmt e0 : Nat) (rows : List Nat) (codes : List (Nat × Bool)) : Except Stop State :=
  foldE (fun u (e : Nat × List (Byte × Bool)) => vwriteP u cx 1 e.1 e.2) s (rows.zip (bytesP fmt e0 codes))

/-- A complete ordered group combined into its destination, its contributors ended and its staging released (R207, R208).
A poisoned element leaves its codeword poison, and its contributor ends DATA_POISONED, all of them when the destination
held it (R461). -/
def finishGroup (s : State) (key : Nat) : State :=
  match tfind s.mem.groups key with
  | none => s
  | some g =>
    if !g.staged || g.contrib.length != g.count then s
    else
      let cx : Cx := { part := key / 256, desc := 0, rem := [] }
      let s0 := { s with mem := { s.mem with
        groups := tdel s.mem.groups key
        staging := tput s.mem.staging g.stack (stagingUsed s g.stack - g.count * g.bytes) } }
      let byIndex := (List.range g.count).filterMap fun i => (g.contrib.find? fun c => c.1 == i).map fun c => c.2.2
      let done : Except Stop (State × Bool) := do
        let old ← readRows s cx g.format g.e0 g.dst
        let u ← writeRows s0 cx g.format g.e0 g.dst (old.zipIdx.map fun (v, i) =>
          let xs := byIndex.map fun l => (l[i]?).getD (0, false)
          (reduceOp g.format g.op v.1 (orderedTree g.format g.op 6 (xs.map Prod.fst)), v.2 || xs.any Prod.snd))
        .ok (u, old.any Prod.snd)
      match done with
      | .ok (u, bad) => g.contrib.foldl (fun t c => endF t c.2.1 (if bad || c.2.2.any Prod.snd then stPoisoned else stOk) 0) u
      | .error e => g.contrib.foldl (fun t c => stopWith t c.2.1 e) s0

/-- Whether every byte of a tensor lies in the local tier S; an untranslated byte stops (R205, R196). -/
def inTierS (s : State) (cx : Cx) (t : Tensor) : Except Stop Bool :=
  (seqE (t.rows.flatMap fun a => (List.range ((a + t.rowBytes - 1) / 8192 - a / 8192 + 1)).map fun i =>
    match xlate s cx.part (max a ((a / 8192 + i) * 8192)) with
    | .ok (.loc pa _) => .ok (match locate pa with | .stack .. => true | _ => false)
    | .ok (.rem ..) => .ok false
    | .error e => .error e)).map fun l => l.all id

/-- The stack of a tensor's first byte, whose staging an ordered group uses. -/
def stackOfT (s : State) (cx : Cx) (t : Tensor) : Nat :=
  match xlate s cx.part t.base with
  | .ok (.loc pa _) => (match locate pa with | .stack k _ => k | _ => 0)
  | _ => 0

/-- One ordered contribution entered into its group (R207, R208): the first reserves staging, or waits for it. -/
def contribute (s : State) (d : Nat) (f : Flight) (src dst : Tensor) (codes : List (Nat × Bool)) : State :=
  let w := f.op 0x30 4
  let op := bits w 0 4
  let idx := bits w 16 8
  let count := bits w 24 8
  let key := 256 * f.part + bits w 8 8
  let running := putF (touchRead s (cxOf s f d) src) d { f with phase := .running }
  match tfind s.mem.groups key with
  | some g =>
    if g.op ≠ op ∨ g.count ≠ count ∨ g.format ≠ dst.fmt ∨ g.dst ≠ dst.rows ∨ g.e0 ≠ dst.e0 ∨ g.contrib.any (fun c => c.1 == idx) then
      endF s d stMalformed 0
    else
      finishGroup { running with mem := { running.mem with
        groups := tput running.mem.groups key { g with contrib := g.contrib ++ [(idx, d, codes)] } } } key
  | none =>
    let k := stackOfT s (cxOf s f d) dst
    let need := count * dst.bytes
    let room := decide (stagingUsed s k + need ≤ stagingSize)
    let g : RGroup := { op := op, count := count, format := dst.fmt, dst := dst.rows, e0 := dst.e0, bytes := dst.bytes
                        stack := k, staged := room, contrib := [(idx, d, codes)] }
    finishGroup { running with mem := { running.mem with
      groups := tput running.mem.groups key g
      staging := if room then tput running.mem.staging k (stagingUsed s k + need) else running.mem.staging } } key

/-- Elements combined into their destinations one by one, each with a read, a combination and a write that nothing comes between
(R206), so that destinations which coincide take every contribution; the flag says that poison was met. -/
def accEach (cx : Cx) (fmt op : Nat) : List (Nat × Nat × Bool) → State → Bool → Except Stop (State × Bool)
  | [], s, bad => .ok (s, bad)
  | (va, x, p) :: r, s, bad =>
    let n := nibbles fmt / 2
    match vreadP s cx va n with
    | .error e => .error e
    | .ok b =>
      let q := p || b.any Prod.snd
      match vwriteP s cx 1 va ((toLe n (reduceOp fmt op (leNat (b.map Prod.fst)) x)).map fun y => (y, q)) with
      | .error e => .error e
      | .ok u => accEach cx fmt op r u (bad || q)

/-- ACC's work (R204-R206). In free mode the elements are combined in the order of the commands: the order of arrival
(assumption 48); an index there must be 0 as group and count must (assumption 185). -/
def accOp (s : State) (d : Nat) (f : Flight) : Except Stop State := do
  let cx := cxOf s f d
  let w := f.op 0x30 4
  let ordered := bit w 4
  if f.fEve then .error (.st stPermission)
  else
    let a ← operand s cx (f.op 0x20 8)
    let b ← operand s cx (f.op 0x28 8)
    needs (decide (bits w 0 4 ≤ 2) && bits w 5 3 == 0 && f.zeroFrom 0x34 && a.fmt == b.fmt && a.ext == b.ext
      && [0, 1, 6, 7].contains b.fmt
      && (if ordered then decide (1 ≤ bits w 24 8 ∧ bits w 24 8 ≤ 32 ∧ bits w 16 8 < bits w 24 8)
          else bits w 8 24 == 0)
      && decide (bits w 24 8 * b.bytes ≤ stagingSize))
    let here ← inTierS s cx b
    needs here
    let codes := codesP a.fmt (← rowsP s cx a)
    if ordered then .ok (contribute s d f a b codes)
    else
      let u ← accEach cx b.fmt (bits w 0 4) ((elemVas b).zip codes) (touchRead s cx a) false
      .ok (endF u.1 d (if u.2 then stPoisoned else stOk) 0)

/-- ACC. -/
def acc (d : Nat) (s : State) : State :=
  withOp s d 0x5001 fun f => match accOp s d f with
    | .ok t => t
    | .error e => stopWith s d e
def execAcc (d : Nat) (s : State) : Host.Outcome State Fault Refusal := .next (acc d s)

/-- ORDERED_STAGING_GRANT (R207): the group of a stack that has waited longest, by its first contribution, is staged when its
space is free. -/
def orderedStagingGrant (stack : Nat) (s : State) : State :=
  let waiting := s.mem.groups.filter fun e => e.2.stack == stack && !e.2.staged
  let first (g : RGroup) : Nat := ((g.contrib.map fun c => c.2.1).foldl (fun (b : Option Nat) d => match b with
    | none => some d
    | some y => some (min y d)) none).getD 0
  match waiting.foldl (fun (b : Option (Nat × RGroup)) e => match b with
    | none => some e
    | some y => if first e.2 < first y.2 then some e else b) none with
  | none => s
  | some (key, g) =>
    if stagingSize < stagingUsed s stack + g.count * g.bytes then s
    else finishGroup { s with mem := { s.mem with
      groups := tput s.mem.groups key { g with staged := true }
      staging := tput s.mem.staging stack (stagingUsed s stack + g.count * g.bytes) } } key
def execOrderedStagingGrant (stack : Nat) (s : State) : Host.Outcome State Fault Refusal := .next (orderedStagingGrant stack s)

end Sys2Proof.Machine
end

