-- ==== Sys2Proof/Machine/Sync.lean ====
section
/-! DEFINITION. The SYNC family (R307-R310) and the addition of a signal at its counter's home (R301). -/

namespace Sys2Proof.Machine

/-- A field of the descriptor that names a counter: above 1,023 it is not permitted (R307). -/
def counterOk (c : Nat) : Bool := decide (c < 1024)

/-- NOP: only the header's WAIT and SIGNAL act. -/
def syncNop (d : Nat) (s : State) : State :=
  withOp s d 0x8000 fun f => endF s d (if f.zeroFrom 0x20 then stOk else stMalformed) 0
def execSyncNop (d : Nat) (s : State) : Host.Outcome State Fault Refusal := .next (syncNop d s)

/-- The four entries of ADD and WAIT_ALL: counter and amount, unused where the amount is 0. -/
def syncEntries (f : Flight) : List (Nat × Nat) :=
  ((List.range 4).map fun i => let w := f.op (0x20 + 8 * i) 8; (w % 65536, w / 65536)).filter fun e => e.2 != 0

/-- ADD: each increment in entry order; a breach makes the descriptor SYNC_OVERRUN (R308, R310). -/
def syncAdd (d : Nat) (s : State) : State :=
  withOp s d 0x8001 fun f =>
    let es := syncEntries f
    if es.any fun e => !counterOk e.1 then endF s d stPermission 0
    else if es.any fun e => counterFar s e.1 then endF s d stOffline 0
    else
      let r := es.foldl (fun (acc : State × Bool) e =>
        let x := addCounter acc.1 f.part e.1 e.2 none
        (x.1, acc.2 || x.2)) (s, false)
      endF r.1 d (if r.2 then stOverrun else stOk) 0
def execSyncAdd (d : Nat) (s : State) : Host.Outcome State Fault Refusal := .next (syncAdd d s)

/-- The target of a wait of a descriptor: within a replay, one on a private counter of the rota counts from that counter's
base (R329). -/
def waitTarget (s : State) (f : Flight) (c t : Nat) : Nat :=
  match f.stepOf with
  | none => t
  | some k =>
    match tfind s.steps.runs k with
    | none => t
    | some r => match tfind s.steps.rotas (256 * f.part + r.rota) with
      | none => t
      | some x => if x.firstPriv ≤ c ∧ c < x.firstPriv + x.privCount then t + (r.bases[c - x.firstPriv]?).getD 0 else t

/-- Whether every used wait of a WAIT_ALL is met now (R307). -/
def waitsMet (s : State) (f : Flight) : Bool := (syncEntries f).all fun e => waitMet s f.part e.1 (waitTarget s f e.1 e.2)

/-- WAIT_ALL: OK when every used wait is met at one comparison; until then it runs on. -/
def syncWaitAll (d : Nat) (s : State) : State :=
  withOp s d 0x8002 fun f =>
    if (syncEntries f).any fun e => !counterOk e.1 then endF s d stPermission 0
    else if (syncEntries f).any fun e => counterFar s e.1 then endF s d stOffline 0
    else if waitsMet s f then endF s d stOk 0 else putF s d { f with begun := true }
def execSyncWaitAll (d : Nat) (s : State) : Host.Outcome State Fault Refusal := .next (syncWaitAll d s)

/-- PAIR. -/
def syncPair (d : Nat) (s : State) : State :=
  withOp s d 0x8010 fun f =>
    let p := f.part
    let i := f.op 0x20 1
    let a := f.op 0x22 2
    let b := f.op 0x24 2
    let n := f.op 0x26 2
    if !counterOk a || !counterOk b then endF s d stPermission 0
    else if counterFar s a || counterFar s b then endF s d stOffline 0
    else
      refuseIf s d [(rExists, (tfind s.sync.pairs (256 * p + i)).isSome),
        (rBadField, decide (n = 0 ∨ a = b ∨ a / 512 ≠ b / 512) || (pairOf s p a).isSome || (pairOf s p b).isSome
          || !f.zero 0x21 1 || !f.zeroFrom 0x28),
        (rWrongState, decide (ctrOf s p a < ctrOf s p b ∨ ctrOf s p b + n < ctrOf s p a))] <|
      endF { s with sync := { s.sync with pairs := tput s.sync.pairs (256 * p + i) { producer := a, consumer := b, n := n } } } d stOk 0
def execSyncPair (d : Nat) (s : State) : Host.Outcome State Fault Refusal := .next (syncPair d s)

/-- UNPAIR. -/
def syncUnpair (d : Nat) (s : State) : State :=
  withOp s d 0x8011 fun f =>
    let k := 256 * f.part + f.op 0x20 1
    refuseIf s d [(rBadField, !f.zeroFrom 0x21), (rNotFound, (tfind s.sync.pairs k).isNone)] <|
    endF { s with sync := { s.sync with pairs := tdel s.sync.pairs k } } d stOk 0
def execSyncUnpair (d : Nat) (s : State) : Host.Outcome State Fault Refusal := .next (syncUnpair d s)

/-- READ: the values as they are now (R308). -/
def syncRead (d : Nat) (s : State) : State :=
  withOp s d 0x8020 fun f =>
    let va := f.op 0x20 8
    let c := f.op 0x28 2
    let n := f.op 0x2A 2
    if !counterOk c || decide (2 ^ 47 ≤ va ∧ va < 2 ^ 48) then endF s d stPermission 0
    else if counterFar s (c + n - 1) then endF s d stOffline 0
    else
      refuseIf s d [(rBadField, decide (n = 0 ∨ 256 < n ∨ 1024 < c + n ∨ va % 8 ≠ 0) || !f.zeroFrom 0x2C)] <|
      finishE s d 0 (vwrite s (cxOf s f d) va ((List.range n).flatMap fun i => toLe 8 (ctrOf s f.part (c + i))))
def execSyncRead (d : Nat) (s : State) : Host.Outcome State Fault Refusal := .next (syncRead d s)

/-- SIGNAL_ADD (R299, R301, R309): one signal reaches the counter's home, which none does across a severed fabric (R306). -/
def signalAdd (p c n : Nat) (s : State) : State :=
  if p < 16 ∧ c < 1024 ∧ counterFar s c = false then (addCounter s p c n none).1 else s
def execSignalAdd (p c n : Nat) (s : State) : Host.Outcome State Fault Refusal := .next (signalAdd p c n s)

end Sys2Proof.Machine
end

