-- ==== Sys2Proof/Machine/Matrix.lean ====
section
/-! DEFINITION. The lane row (04): MATMUL, CONV1D and CONV2D, their division over cores and units, the split modes, and the
start and sleep of a TRICKLE descriptor (R333-R335). -/

namespace Sys2Proof.Machine

/-! Parameters (R133-R135, R139). -/

/-- A checked MATRIX descriptor. A MATMUL has height and kernel 1; `kw`, `kh` and the padding are those of a convolution;
`recs` are its records, by address and length. -/
structure MatPlan where
  conv : Bool
  x : Tensor
  w : Tensor
  d : Tensor
  c : Option Tensor
  cvt : Nat
  epi : Option Chain
  side : Option Tensor
  split : Nat
  units : Nat
  dist : Nat
  first : Nat
  count : Nat
  kw : Nat
  kh : Nat
  padL : Nat
  padT : Nat
  wIn : Nat
  hIn : Nat
  wOut : Nat
  hOut : Nat
  recs : List (Nat × Nat)
deriving DecidableEq, Repr

/-- The operand pairs of the lane row (R91). -/
def pairOk (a b : Nat) : Bool :=
  (isMx a && isMx b) || ((a == 3 || a == 4) && (b == 3 || b == 4)) || (a == b && (a == 1 || a == 2 || a == 5))

/-- Rows broadcast in a handshake cycle (R115). -/
def rowsPerCycle (a b : Nat) : Nat := if a = 1 ∨ a = 2 then 1 else if a = 0x10 ∧ b = 0x10 then 4 else 2

/-- ceil(a / b). -/
def cdiv (a b : Nat) : Nat := (a + b - 1) / b

/-- Units, lanes, depth and most tile rows of a mode: 0 FULL, 1 QUARTER, 2 SIXTEENTH (R119). -/
def modeUnits (m : Nat) : Nat := if m = 0 then 1 else if m = 1 then 4 else 16
def modeWidth (m : Nat) : Nat := if m = 0 then 64 else if m = 1 then 32 else 16
def modeRows (m : Nat) : Nat := if m = 2 then 32 else 64

/-- Line-buffer space fits a mode (R130). -/
def lineFits (p : MatPlan) (m : Nat) : Bool :=
  !p.conv || decide ((p.kh + 1) * (modeWidth m + p.kw - 1) * 64 * (nibbles p.x.fmt / 2) ≤ 262144 / modeUnits m)

/-- A conversion control word that asks for integer accumulation (R97). -/
def iacc (c : Nat) : Bool := bit c 3

/-- The descriptor's records read and checked (R134, R135, R138, R139). -/
def matPlan (s : State) (d : Nat) (f : Flight) : Except Stop MatPlan := do
  let cx := cxOf s f d
  let b ← recordIn s cx (f.op 0x38 8) 64 64
  let x ← operand s cx (f.op 0x20 8)
  let w ← operand s cx (f.op 0x28 8)
  let o ← operand s cx (f.op 0x30 8)
  let c ← operandOpt s cx (fld b 0 8)
  let cvt := fld b 8 8
  let epiPtr := fld b 0x10 8
  let split := fld b 0x18 1
  let units := fld b 0x19 1
  let dist := fld b 0x1A 1
  let pad := fld b 0x20 2
  let pl := bits pad 0 4
  let pr := bits pad 4 4
  let pt := bits pad 8 4
  let pb := bits pad 12 4
  let conv := f.opcode != 0x1001
  let two := f.opcode == 0x1011
  let at_ (t : Tensor) (i : Nat) := (t.ext[i]?).getD 1
  let kw := if conv then at_ w 1 else 1
  let kh := if two then at_ w 2 else 1
  let wIn := if conv then at_ x 1 else 1
  let hIn := if two then at_ x 2 else 1
  let wOut := if conv then wIn + pl + pr + 1 - kw else 1
  let hOut := if two then hIn + pt + pb + 1 - kh else 1
  let dims : List Nat := if !conv then [at_ w 1, at_ x 1] ++ x.ext.drop 2
    else if two then [at_ w 3, wOut, hOut] ++ x.ext.drop 3 else [at_ w 2, wOut] ++ x.ext.drop 2
  let shape : Bool :=
    if !conv then decide (2 ≤ x.ext.length) && w.ext.length == x.ext.length && at_ w 0 == at_ x 0
      && ((x.ext.drop 2).zip (w.ext.drop 2)).all fun e => e.1 == e.2 || e.2 == 1
    else if two then decide (3 ≤ x.ext.length ∧ x.ext.length ≤ 4) && w.ext.length == 4 && at_ w 0 == at_ x 0
    else decide (2 ≤ x.ext.length ∧ x.ext.length ≤ 3) && w.ext.length == 3 && at_ w 0 == at_ x 0
  let convOk : Bool := if conv then
      !isMx x.fmt && decide (kw ≤ 15 ∧ kh ≤ 15 ∧ pl < kw ∧ pr < kw ∧ 0 < wOut ∧ 0 < hOut)
        && (if two then decide (pt < kh ∧ pb < kh) else decide (pt = 0 ∧ pb = 0))
    else pad == 0
  let unitsOk : Bool := match split with
    | 0 => decide (units ≤ 1)
    | 1 => decide (units ≤ 4)
    | 2 => decide (units ≤ 16)
    | _ => decide (split = 3 ∧ units ≤ 16)
  let intAcc := iacc cvt
  let cOk : Bool := match c with
    | none => true
    | some t => t.ext == o.ext && (if intAcc then t.fmt == 6 else t.fmt == 0 || t.fmt == 1 || t.fmt == 2)
  let cvtGood : Bool := if intAcc then cvt == 8 && o.fmt == 6 && epiPtr == 0 && x.fmt == 5 && w.fmt == 5
    else cvtOk f o.fmt o.count cvt
  let batch := ((x.ext.drop (if two then 3 else 2)).foldl (· * ·) 1)
  needs (shape && o.ext == dims && pairOk x.fmt w.fmt && convOk && unitsOk && decide (dist ≤ 2)
    && !(dist == 2 && batch == 1) && zeroAt b 0x1B 1 && zeroAt b 0x22 30 && cOk && cvtGood
    && !(split == 2 && isMx o.fmt) && coreRangeOk s f.part (fld b 0x1C 2) (fld b 0x1E 2))
  let mk (e : Option Chain) (sd : Option Tensor) : MatPlan :=
    { conv := conv, x := x, w := w, d := o, c := c, cvt := cvt, epi := e, side := sd, split := split, units := units
      dist := dist, first := fld b 0x1C 2, count := fld b 0x1E 2, kw := kw, kh := kh, padL := pl, padT := pt, wIn := wIn
      hIn := hIn, wOut := wOut, hOut := hOut
      recs := ([f.op 0x20 8, f.op 0x28 8, f.op 0x30 8, f.op 0x38 8] ++ (if c.isSome then [fld b 0 8] else [])
          ++ (match e with | some ch => if sd.isSome then [ch.side] else [] | none => [])).map (fun a => (a, 64))
        ++ (if e.isSome then [(epiPtr, 128)] else []) }
  needs (split == 3 || lineFits (mk none none) split)
  if epiPtr = 0 then .ok (mk none none)
  else do
    let eb ← recordIn s cx epiPtr 128 64
    match parseChain eb { a := false, b := false, side := false, acc := true } with
    | none => .error (.st stMalformed)
    | some ch => do
      let sd ← operandOpt s cx ch.side
      needs (match sd with | none => true | some t => bcastOk o.ext t.ext)
      .ok (mk (some ch) sd)

/-! Values (R92-R97, R128, R129). -/

/-- An operand's exact values with an index. -/
def valAt (l : Array Fv) (i : Nat) : Fv := (l[i]?).getD (.fin false 0 0)

/-- The products of one output element, by groups (R92, R128). `e` is the element's index in D. -/
def products (p : MatPlan) (xs ws : Array Fv) (e : Nat) : List (List Fv) :=
  let k := p.x.e0
  let e0 := p.d.e0
  if !p.conv then
    let n := e % e0
    let m := e / e0 % (p.d.ext[1]?).getD 1
    let b := e / e0 / (p.d.ext[1]?).getD 1
    let wb := bcastIdx ((p.d.ext.drop 2).zip (p.w.ext.drop 2)) b 1
    let rows := (p.x.ext[1]?).getD 1
    chunks 64 ((List.range k).map fun i =>
      vmul (valAt xs (i + k * (m + rows * b))) (valAt ws (i + k * (n + e0 * wb))))
  else
    let co := e % e0
    let x := e / e0 % p.wOut
    let y := e / e0 / p.wOut % p.hOut
    let b := e / e0 / p.wOut / p.hOut
    let width := (p.x.ext[1]?).getD 1
    (List.range (cdiv k 64)).flatMap fun blk => (List.range p.kh).flatMap fun kh => (List.range p.kw).map fun kw =>
      (List.range (min 64 (k - 64 * blk))).map fun c0 =>
        let c := 64 * blk + c0
        let inside := decide (p.padL ≤ x + kw ∧ x + kw - p.padL < p.wIn ∧ p.padT ≤ y + kh ∧ y + kh - p.padT < p.hIn)
        let xv := if inside then valAt xs (c + k * (x + kw - p.padL + width * (y + kh - p.padT + p.hIn * b)))
          else .fin false 0 0
        vmul xv (valAt ws (c + k * (kw + p.kw * (kh + p.kh * co))))

/-- The accumulator of one output element (R96, R97): binary32, or INT32 under IACC. -/
def accumElem (p : MatPlan) (xs ws : Array Fv) (cs : Option (List Nat)) (e : Nat) : Nat :=
  let gs := products p xs ws e
  let c := cs.map fun l => (l[e]?).getD 0
  if iacc p.cvt then
    unsigned 32 (gs.flatten.foldl (fun a v => a + fvInt v) (match c with | some v => signed 32 v | none => 0))
  else
    let half := p.x.fmt == 1 || p.x.fmt == 2
    accumulate c (gs.map fun g => if half then groupHalf g else if p.x.fmt = 5 then groupInt g else groupExact g)

/-- The result of one output element before conversion: the accumulator, through the epilogue (R158). -/
def matElem (p : MatPlan) (xs ws : Array Fv) (cs : Option (List Nat)) (sd : List Nat) (e : Nat) : Nat :=
  let a := accumElem p xs ws cs e
  match p.epi with
  | none => a
  | some ch => ch.eval { a := 0, b := 0, acc := a, idx := e % p.d.e0, side := match p.side with
      | none => 0
      | some t => bcast p.d.ext t sd e }

/-! Division over cores and choice of mode (R119-R123, R131, R136, R137, R143, R458). -/

/-- Batch indices of a descriptor. -/
def MatPlan.batch (p : MatPlan) : Nat := (p.d.ext.drop (if !p.conv then 2 else if p.d.ext.length = 4 ∨ p.w.ext.length = 4 then 3 else 2)).foldl (· * ·) 1
/-- Units of division along dist (R136). -/
def MatPlan.unitCount (p : MatPlan) : Nat :=
  match p.dist with
  | 0 => if p.conv then cdiv p.wOut 64 * p.hOut else cdiv p.d.e0 64
  | 1 => if p.conv then cdiv p.d.e0 64 else cdiv ((p.d.ext[1]?).getD 1) 64
  | _ => p.batch

/-- The sizes of consecutive tiles of k over n. -/
def sizes (n k : Nat) : List Nat := (List.range (cdiv n k)).map fun i => min k (n - i * k)

/-- The cycles of a tile of mt rows in a mode (R121, R131, R143). -/
def tileCycles (p : MatPlan) (m mt : Nat) : Nat :=
  let r := rowsPerCycle p.x.fmt p.w.fmt
  let depth (kg : Nat) := if m = 0 then 1 else cdiv kg (modeWidth m)
  if !p.conv then ((sizes p.x.e0 64).map fun kg => depth kg * max (cdiv mt r) (16 / r)).foldl (· + ·) 0
  else ((sizes p.x.e0 64).flatMap fun kg => (List.range p.kh).flatMap fun _ => (List.range p.kw).map fun kw =>
    max (depth kg * cdiv mt r) (if kw = 0 then 4 else 1)).foldl (· + ·) 0

/-- The unit tiles of units [lo, hi) of a descriptor in a mode, as (rows, lanes), in the order batch, row, column. -/
def tilesIn (p : MatPlan) (m lo hi : Nat) : List (Nat × Nat) :=
  let w := modeWidth m
  let r := modeRows m
  let span (n : Nat) := min n (64 * hi) - 64 * lo
  let nb := if p.dist = 2 then hi - lo else p.batch
  if !p.conv then
    let rows := if p.dist = 1 then span ((p.d.ext[1]?).getD 1) else (p.d.ext[1]?).getD 1
    let cols := if p.dist = 0 then span p.d.e0 else p.d.e0
    (List.range nb).flatMap fun _ => (sizes rows r).flatMap fun a => (sizes cols w).map fun b => (a, b)
  else
    let chans := if p.dist = 1 then span p.d.e0 else p.d.e0
    let per := cdiv p.wOut 64
    let segs := (List.range (per * p.hOut)).filter fun u => p.dist != 0 || decide (lo ≤ u ∧ u < hi)
    (List.range nb).flatMap fun _ => (sizes chans r).flatMap fun a => segs.flatMap fun u =>
      (sizes (min 64 (p.wOut - u % per * 64)) w).map fun b => (a, b)

/-- Units a core has in a mode (R119, R458). -/
def unitsLeft (s : State) (core m : Nat) : Nat :=
  if (getCore s core).groups.isEmpty then modeUnits m else if m = 0 then 0 else if m = 1 then 2 else 12
/-- Units a descriptor may hold on a core in a mode (R135, R458). -/
def unitsFor (s : State) (p : MatPlan) (core m : Nat) : Nat :=
  let n := unitsLeft s core m
  if p.units = 0 then n else min n p.units

/-- Tiles dealt in order to the unit that is free first: the largest unit time (R143). -/
def deal (units : Nat) (costs : List Nat) : Nat :=
  (costs.foldl (fun (loads : List Nat) c =>
    let i := ((List.range loads.length).foldl (fun b i => if (loads[i]?).getD 0 < (loads[b]?).getD 0 then i else b) 0)
    loads.set i ((loads[i]?).getD 0 + c)) (List.replicate units 0)).foldl max 0

/-- The estimate of a core's time in a mode (R137, R143). -/
def estimate (s : State) (p : MatPlan) (core m lo hi : Nat) : Nat :=
  let ts := tilesIn p m lo hi
  let epi := match p.epi with
    | none => 0
    | some ch => (ts.map fun t => t.1 * cdiv t.2 64).foldl (· + ·) 0 * max ch.slots.1 (4 * ch.slots.2)
  max (deal (unitsFor s p core m) (ts.map fun t => tileCycles p m t.1)) epi + (if (getCore s core).mode = m then 0 else 8)

/-- The mode a descriptor needs on a core for its share: the explicit one, or the lowest estimate among those permitted, the
fewer units on a tie (R130, R137, R138, R458). -/
def neededMode (s : State) (p : MatPlan) (core lo hi : Nat) : Nat :=
  if p.split < 3 ∧ !(p.split = 0 ∧ unitsLeft s core 0 = 0) then p.split
  else
    let ok := [0, 1, 2].filter fun m => unitsLeft s core m != 0 && lineFits p m && !(m == 2 && isMx p.d.fmt)
    match ok with
    | [] => 0
    | m :: r => r.foldl (fun b x => if estimate s p core x lo hi < estimate s p core b lo hi then x else b) m

/-- The cores of a descriptor that take part, with their shares and the modes they need (R136). -/
def takingPart (s : State) (part : Nat) (p : MatPlan) : List (Nat × Nat × Nat × Nat) :=
  let cores := coreSet s part p.first p.count
  cores.zipIdx.filterMap fun (c, i) =>
    let sh := shareOf i cores.length p.unitCount
    if sh.1 < sh.2 then some (c, sh.1, sh.2, neededMode s p c sh.1 sh.2) else none

/-- Whether every core that takes part stands in the mode needed, has a unit free, and holds no earlier descriptor that is
still to be granted one (R114, R123). -/
def granted (s : State) (d part : Nat) (p : MatPlan) : Bool :=
  (takingPart s part p).all fun e =>
    (getCore s e.1).mode == e.2.2.2 && decide (unitsHeld s e.1 d < unitsLeft s e.1 e.2.2.2) && !intakeAhead s e.1 d

/-- The units that a descriptor is granted on each core that takes part. -/
def unitsOf (s : State) (p : MatPlan) (tp : List (Nat × Nat × Nat × Nat)) : Tbl Nat := tp.map fun e => (e.1, unitsFor s p e.1 e.2.2.2)

/-- LANE_MODE_CHANGE (R123): the first descriptor of a core's intake that is still to be granted its units needs another mode,
and every unit is idle. -/
def laneModeChange (core : Nat) (s : State) : State :=
  match (getCore s core).intake.find? fun d => ((getF s d).map fun f => f.phase == .started && !f.begun).getD false with
  | none => s
  | some d =>
    match getF s d with
    | none => s
    | some f => if f.opcode / 4096 ≠ 1 then s
      else match matPlan s d f with
      | .error _ => s
      | .ok p => match (takingPart s f.part p).find? fun e => e.1 == core with
        | some e => if unitsHeld s core d = 0 then putCore s core { getCore s core with mode := e.2.2.2 } else s
        | none => s
def execLaneModeChange (core : Nat) (s : State) : Host.Outcome State Fault Refusal := .next (laneModeChange core s)

/-! TRICKLE (R334, R335). -/

/-- Indices of the streamed dimension that are present (R334). -/
def presentOf (s : State) (f : Flight) (e1 : Nat) : Nat :=
  if f.fTrickle then min e1 (ctrOf s f.part f.waitC + e1 - f.waitT) else e1

/-- A TRICKLE descriptor asleep on the index its next tile needs (R335). -/
def sleepF (s : State) (d : Nat) (f : Flight) (core done : Nat) (units : Tbl Nat) : State :=
  let tr : Trickle := { f.trickle with asleep := true, since := s.time.now, tilesDone := done, seen := ctrOf s f.part f.waitC }
  putF s d { f with
    phase := .running, begun := true, cores := [core], units := if f.begun then f.units else units, trickle := tr }

/-- Tiles of a stream that run now: those from the first one not done on whose indices are all present. -/
def streamRun (needs_ : List Nat) (done present : Nat) : Nat :=
  done + ((needs_.drop done).takeWhile fun n => decide (n ≤ present)).length

/-- The indices each tile of the stream needs: row tiles of a MATMUL, position tiles of a CONV1D, batch by batch. -/
def matNeeds (p : MatPlan) (mode : Nat) : List Nat :=
  (List.range p.batch).flatMap fun _ =>
    if !p.conv then
      let rows := (p.d.ext[1]?).getD 1
      (List.range (cdiv rows (modeRows mode))).map fun j => min rows ((j + 1) * modeRows mode)
    else
      (List.range (cdiv p.wOut (modeWidth mode))).map fun j =>
        min p.wIn (min p.wOut ((j + 1) * modeWidth mode) + p.kw - 1 - p.padL)

/-- The stream tile of an output element. -/
def streamTile (p : MatPlan) (mode e : Nat) : Nat :=
  let n1 := (p.d.ext[1]?).getD 1
  let size := if p.conv then modeWidth mode else modeRows mode
  e / p.d.e0 / n1 * cdiv n1 size + e / p.d.e0 % n1 / size

/-! Running (R139-R142). -/

/-- The unit tile of an output element, among those of the cores that take part: its core, batch index, row tile, and column
tile, which in a convolution is the output row, its 64-wide segment and the part of it (R117, R119, R136, R142). -/
def tileKey (tp : List (Nat × Nat × Nat × Nat)) (p : MatPlan) (e : Nat) : List Nat :=
  let n := e % p.d.e0
  let m := e / p.d.e0
  let e1 := (p.d.ext[1]?).getD 1
  let x := m % e1
  let y := if p.conv then m / e1 % p.hOut else 0
  let b := if p.conv then m / e1 / p.hOut else m / e1
  let u := match p.dist with
    | 0 => if p.conv then y * cdiv p.wOut 64 + x / 64 else n / 64
    | 1 => if p.conv then n / 64 else x / 64
    | _ => b
  let c := (tp.find? fun t => decide (t.2.1 ≤ u ∧ u < t.2.2.1)).getD (0, 0, 0, 0)
  let w := modeWidth c.2.2.2
  let r := modeRows c.2.2.2
  let from_ := 64 * c.2.1
  if p.conv then [c.1, b, (if p.dist = 1 then n - from_ else n) / r, y, x / 64, x % 64 / w]
  else [c.1, b, (if p.dist = 1 then x - from_ else x) / r, (if p.dist = 0 then n - from_ else n) / w]

/-- The result written to D, or the parts of it that are kept (R97, R102, R125). -/
def writeMat (s : State) (cx : Cx) (f : Flight) (p : MatPlan) (keep : Option (Nat → Bool)) (vals : List Nat) :
    Except Stop State :=
  let key := genKeyOf s f p.cvt p.d
  if iacc p.cvt then
    match keep with
    | none => writeCodes s cx p.d vals
    | some k => foldE (fun u (e : Nat × List Nat) =>
        foldE (fun v (c : Nat × Nat) => if k c.2 then vwriteH v cx p.d.hint (e.1 + 4 * (c.2 % p.d.e0)) (toLe 4 c.1) else .ok v) u
          (e.2.zipIdx.map fun (x, i) => (x, (p.d.rows.idxOf e.1) * p.d.e0 + i))) s (p.d.rows.zip (chunks p.d.e0 vals))
  else match keep with
    | none => writeF32 s cx p.d (cvtSat p.cvt) key vals
    | some k => writeParts s cx p.d (cvtSat p.cvt) key k vals

/-- The places of a MATRIX descriptor's records and inputs, which D may not overlap (R140): C only when it is not D. -/
def matSources (s : State) (cx : Cx) (p : MatPlan) : List (Nat × Nat) :=
  p.x.places s cx ++ p.w.places s cx ++ (match p.side with | some t => t.places s cx | none => [])
    ++ (match p.c with | some t => if sameTensor t p.d then [] else t.places s cx | none => [])
    ++ p.recs.flatMap fun a => placesOf s cx a.1 a.2

/-- Whether an output element reads a poisoned input: a poisoned factor stands as NaN among ones. -/
def matTaint (p : MatPlan) (xl wl cl sl : List ((Nat × Nat) × Bool)) (e : Nat) : Bool :=
  let mark (l : List ((Nat × Nat) × Bool)) := (l.map fun x => if x.2 then Fv.nan else .fin false 1 0).toArray
  (products p (mark xl) (mark wl) e).flatten.any (· == .nan) || ((cl[e]?).map Prod.snd).getD false
    || (match p.side with
      | none => false
      | some t => bcast p.d.ext t (flagsOf sl) e == 1)

/-- The work of a MATRIX descriptor whose units are granted. -/
def matRun (s : State) (d : Nat) (f : Flight) (p : MatPlan) (w : Work) : Except Stop State := do
  let cx := cxOf s f d
  let e1 := (p.x.ext[1]?).getD 1
  let here := presentOf s f e1
  let xr : Tensor := if here < e1 then { p.x with ext := p.x.ext.set 1 here } else p.x
  let xl ← if here = 0 then .ok [] else readTP s cx xr
  let wl ← readTP s cx p.w
  let cl ← readOptP s cx p.c
  let sl ← readOptP s cx p.side
  let cs := p.c.map fun t => if iacc p.cvt then cl.map fun e => e.1.1 else widenL t cl
  let sd := match p.side with
    | none => []
    | some t => widenL t sl
  let plan := { p with x := xr }
  let vals := (List.range p.d.count).map (matElem plan (valuesL p.x xl).toArray (valuesL p.w wl).toArray cs sd)
  let tp := takingPart s f.part p
  let key := tileKey tp p
  -- tiles drained before, those drained now, and those that failed their check, which never leave their buffer (R111)
  let before := f.done.map key
  let now_ := w.drained.map key
  let failed := (w.faults.filter fun x => decide (3 ≤ x.fails)).map fun x => key x.item
  let fresh (e : Nat) : Bool := now_.contains (key e) && !before.contains (key e) && !failed.contains (key e)
  let run := runFaults s d w
  let clash := meets (p.d.places s cx) (matSources s cx p)
  let put (t : State) (keep : Option (Nat → Bool)) : Except Stop State :=
    if clash then writeFree t cx p.d else writeMat t cx f p keep vals
  if (xl ++ wl ++ cl ++ sl).any Prod.snd then
    -- a tile that read poison is never written; drained ones stay (R461)
    let bad := (((List.range p.d.count).filter (matTaint plan xl wl cl sl)).map key).eraseDups
    let u ← put run.1 (some fun e => fresh e && !bad.contains (key e))
    .ok (endF u d stPoisoned w.cycles)
  else if run.2 then
    let u ← put run.1 (some fresh)
    .ok (endF u d stArith w.cycles)
  else if f.fTrickle then
    let core := ((coreSet s f.part p.first p.count).head?).getD 0
    let mode := (getCore s core).mode
    let ns := matNeeds p mode
    let done := streamRun ns f.trickle.tilesDone here
    let u ← put run.1 (some fun e => decide (f.trickle.tilesDone ≤ streamTile p mode e ∧ streamTile p mode e < done))
    .ok (if done = ns.length then endF u d stOk w.cycles else sleepF u d f core done (unitsOf s p tp))
  else if w.more then
    let u ← put run.1 (some fresh)
    .ok (beginF u d { f with done := f.done ++ w.drained } (tp.map Prod.fst) (unitsOf s p tp))
  else
    let read := (p.x :: p.w :: (p.c.toList ++ p.side.toList)).foldl (fun t x => touchRead t cx x) run.1
    let u ← put read (if f.done.isEmpty then none else some fun e => !before.contains (key e))
    .ok (endF u d stOk w.cycles)

/-- A MATRIX descriptor: refused where a record breaks a rule, run once its units are granted, in the mode it needs; it keeps
them until it completes (R114). -/
def matrixOp (s : State) (d : Nat) (f : Flight) (w : Work) : State :=
  match matPlan s d f with
  | .error e => stopWith s d e
  | .ok p =>
    if !f.begun && !granted s d f.part p then s
    else match matRun s d f p w with
      | .ok t => t
      | .error e => stopWith s d e

/-- MATMUL. -/
def matmul (d : Nat) (w : Work) (s : State) : State := withOp s d 0x1001 fun f => matrixOp s d f w
def execMatmul (d : Nat) (w : Work) (s : State) : Host.Outcome State Fault Refusal := .next (matmul d w s)

/-- CONV1D. -/
def conv1d (d : Nat) (w : Work) (s : State) : State := withOp s d 0x1010 fun f => matrixOp s d f w
def execConv1d (d : Nat) (w : Work) (s : State) : Host.Outcome State Fault Refusal := .next (conv1d d w s)

/-- CONV2D. -/
def conv2d (d : Nat) (w : Work) (s : State) : State := withOp s d 0x1011 fun f => matrixOp s d f w
def execConv2d (d : Nat) (w : Work) (s : State) : Host.Outcome State Fault Refusal := .next (conv2d d w s)

end Sys2Proof.Machine
end

