-- ==== Sys2Proof/Machine/Element.lean ====
section
/-! DEFINITION. The element engine and near-bank chains (05, 07): CHAIN on cores or near-bank, SOFTMAX, SAMPLE, LIST, and the
windows of the near-bank sequencers. -/

namespace Sys2Proof.Machine

/-! CHAIN (R150-R157). -/

/-- One set of operands of a chain, with the records of a list's entry by address and length. -/
structure ChainSet where
  a : Tensor
  b : Option Tensor
  side : Option Tensor
  d : Tensor
  recs : List (Nat × Nat) := []
deriving DecidableEq, Repr

/-- The inputs that are given. -/
def ChainSet.inputs (p : ChainSet) : List Tensor := p.a :: (p.b.toList ++ p.side.toList)

/-- The length of the rows a reduction chain reduces (R153). -/
def ChainSet.rowLen (p : ChainSet) : Nat := (p.inputs.map Tensor.e0).foldl max 1

/-- The extents a chain loops over: D's, with the row length for a reduction (R153). -/
def ChainSet.loop (p : ChainSet) (red : Bool) : List Nat := if red then p.rowLen :: p.d.ext.drop 1 else p.d.ext

/-- Whether a chain's operands and record fit together (R153, R155). -/
def chainShapeOk (f : Flight) (ch : Chain) (p : ChainSet) : Bool :=
  let red := ch.reduction.isSome
  (!red || p.d.e0 == 1) && p.inputs.all (fun t => bcastOk (p.loop red) t.ext) && cvtOk f p.d.fmt p.d.count ch.cvt

/-- A chain record and operands of a CHAIN. -/
def chainPlan (s : State) (d : Nat) (f : Flight) : Except Stop (Chain × ChainSet) := do
  let cx := cxOf s f d
  let rec_ ← recordIn s cx (f.op 0x38 8) 128 64
  let a ← operand s cx (f.op 0x20 8)
  let b ← operandOpt s cx (f.op 0x28 8)
  let o ← operand s cx (f.op 0x30 8)
  match parseChain rec_ { a := true, b := b.isSome, side := false, acc := false } with
  | none => .error (.st stMalformed)
  | some ch => do
    let sd ← operandOpt s cx ch.side
    needs (chainShapeOk f ch { a := a, b := b, side := sd, d := o })
    .ok (ch, { a := a, b := b, side := sd, d := o })

/-- The records of a CHAIN, by address and length. -/
def chainRecs (f : Flight) (ch : Chain) (p : ChainSet) : List (Nat × Nat) :=
  [(f.op 0x20 8, 64), (f.op 0x30 8, 64), (f.op 0x38 8, 128)] ++ (if p.b.isSome then [(f.op 0x28 8, 64)] else [])
    ++ (if p.side.isSome then [(ch.side, 64)] else [])

/-- The input lists of a chain, as binary32. -/
structure ChainIn where
  a : List Nat
  b : List Nat
  side : List Nat

/-- The chain's value at element e of its loop (R150). -/
def chainAt (ch : Chain) (p : ChainSet) (red : Bool) (v : ChainIn) (e : Nat) : Nat :=
  let ext := p.loop red
  let of (t : Option Tensor) (l : List Nat) := match t with | none => 0 | some x => bcast ext x l e
  ch.eval { a := of (some p.a) v.a, b := of p.b v.b, acc := 0, side := of p.side v.side, idx := e % (ext.head?).getD 1 }

/-- The results of a chain, in D's order (R148, R153). -/
def chainVals (ch : Chain) (p : ChainSet) (v : ChainIn) : List Nat :=
  match ch.reduction with
  | none => (List.range p.d.count).map (chainAt ch p false v)
  | some code =>
    let n := p.rowLen
    (List.range p.d.count).map fun r => reduceRow code ((List.range n).map fun i => chainAt ch p true v (r * n + i))

/-- Whether an output element reads a poisoned input; the lists hold 1 for a poisoned element. -/
def chainTaint (ch : Chain) (p : ChainSet) (v : ChainIn) (r : Nat) : Bool :=
  let red := ch.reduction.isSome
  let of (t : Option Tensor) (l : List Nat) (e : Nat) := match t with
    | none => 0
    | some x => bcast (p.loop red) x l e
  let hit (e : Nat) := of (some p.a) v.a e + of p.b v.b e + of p.side v.side e != 0
  if red then (List.range p.rowLen).any fun i => hit (r * p.rowLen + i) else hit r

/-- The places that D may not overlap (R156): an input it is not identical to, any input of a reduction, the side input, and the
operation's records. -/
def chainSources (s : State) (cx : Cx) (ch : Chain) (p : ChainSet) (recs : List (Nat × Nat)) : List (Nat × Nat) :=
  let own (t : Tensor) := if sameTensor t p.d && ch.reduction.isNone then [] else t.places s cx
  own p.a ++ (match p.b with | some t => own t | none => [])
    ++ (match p.side with | some t => t.places s cx | none => [])
    ++ recs.flatMap fun a => placesOf s cx a.1 a.2

/-! Fills (R154, R157, R167). -/

/-- The core and the fill of 64 groups in which an output element leaves the engine (R154, R157): `per` groups to a row, and rows
undivided when `whole`; the result of a row that is reduced comes with its last group. A row or share shorter than 64 groups makes
a fill of its own length, a choice (assumption 183). -/
def fillKey (l : List (Nat × Nat × Nat)) (per : Nat) (whole red : Bool) (e0 e : Nat) : List Nat :=
  let row := e / e0
  let g := if red then per - 1 else e % e0 / 64
  let u := if whole then row else row * per + g
  let c := shareAt l u
  [c.1, (if whole then (row - c.2.1) * per + g else u - c.2.1) / 64]

/-- Whether no other ELEMENT descriptor holds T4-T5 of cores, and none before it in their intakes is still to be granted what it
needs (R167). -/
def buffersFree (s : State) (d : Nat) (cores : List Nat) : Bool :=
  cores.all fun c => !intakeAhead s c d && !(s.qe.flights.any fun e => e.1 != d && e.2.begun && e.2.cores.contains c
    && e.2.phase != .ended && e.2.opcode / 4096 == 2)

/-- An element operation's output, value by value: which elements read poison, the fill of each, the places D may not overlap, the
tensors read, and, for a stream, what each fill needs and how much is present. -/
structure FillPlan where
  d : Tensor
  sat : Bool
  key : Option GenKey
  vals : List Nat
  taint : Nat → Bool
  fill : Nat → List Nat
  clash : Bool
  reads : List Tensor
  cores : List Nat
  stream : Option (List Nat × Nat)

/-- The work of an element operation whose buffers are granted: fills that have passed their verdict are written (R157), those
that failed it never leave their buffer (R111). -/
def fillRun (s : State) (d : Nat) (f : Flight) (w : Work) (p : FillPlan) : Except Stop State := do
  let cx := cxOf s f d
  let before := f.done.map p.fill
  let now_ := w.drained.map p.fill
  let failed := (w.faults.filter fun x => decide (3 ≤ x.fails)).map fun x => p.fill x.item
  let fresh (e : Nat) : Bool := now_.contains (p.fill e) && !before.contains (p.fill e) && !failed.contains (p.fill e)
  let run := runFaults s d w
  let put (t : State) (keep : Option (Nat → Bool)) : Except Stop State :=
    if p.clash then writeFree t cx p.d
    else match keep with
      | none => writeF32 t cx p.d p.sat p.key p.vals
      | some k => writeParts t cx p.d p.sat p.key k p.vals
  let bad := (((List.range p.d.count).filter p.taint).map p.fill).eraseDups
  if !bad.isEmpty then
    -- a fill that read poison is never written; drained ones stay (R461)
    let u ← put run.1 (some fun e => fresh e && !bad.contains (p.fill e))
    .ok (endF u d stPoisoned w.cycles)
  else if run.2 then
    let u ← put run.1 (some fresh)
    .ok (endF u d stArith w.cycles)
  else match p.stream with
  | some (ns, here) =>
    let done := streamRun ns f.trickle.tilesDone here
    let at_ (e : Nat) := ((p.fill e)[1]?).getD 0
    let u ← put run.1 (some fun e => decide (f.trickle.tilesDone ≤ at_ e ∧ at_ e < done))
    .ok (if done = ns.length then endF u d stOk w.cycles else sleepF u d f ((p.cores.head?).getD 0) done [])
  | none =>
    if w.more then
      let u ← put run.1 (some fresh)
      .ok (beginF u d { f with done := f.done ++ w.drained } p.cores [])
    else
      let u ← put (p.reads.foldl (fun t x => touchRead t cx x) run.1)
        (if f.done.isEmpty then none else some fun e => !before.contains (p.fill e))
      .ok (endF u d stOk w.cycles)

/-- The units of division of a chain's work (R154), with the groups of a row. -/
def chainUnits (ch : Chain) (p : ChainSet) : Nat × Nat :=
  if ch.reduction.isSome then (p.d.count, cdiv p.rowLen 64)
  else
    let per := cdiv p.d.e0 64
    (p.d.count / p.d.e0 * per, per)

/-- The cores that take part in a chain, with their shares. -/
def chainShares (s : State) (part : Nat) (ch : Chain) (p : ChainSet) : List (Nat × Nat × Nat) :=
  sharesOf (coreSet s part ch.first ch.count) (chainUnits ch p).1

/-- The core and fill of each output element of a chain. -/
def chainFill (s : State) (part : Nat) (ch : Chain) (p : ChainSet) : Nat → List Nat :=
  fillKey (chainShares s part ch p) (chainUnits ch p).2 ch.reduction.isSome ch.reduction.isSome p.d.e0

/-- The indices of A's dimension 1 that each fill of a stream needs (R334, R335). -/
def fillNeeds (p : ChainSet) (fill : Nat → List Nat) (groups : Nat) : List Nat :=
  let e1 := (p.a.ext[1]?).getD 1
  let n1 := (p.d.ext[1]?).getD 1
  (List.range (cdiv groups 64)).map fun i =>
    (((List.range p.d.count).filter fun e => ((fill e)[1]?).getD 0 == i).map fun e => min e1 (e / p.d.e0 % n1 + 1)).foldl max 0

/-- A tensor cut to the indices of dimension 1 that are present, when its extent there is the stream's. -/
def cutTo (e1 here : Nat) (t : Tensor) : Tensor :=
  if here < e1 ∧ (t.ext[1]?).getD 1 = e1 then { t with ext := t.ext.set 1 here } else t

/-- A chain's work on cores. -/
def chainRun (s : State) (d : Nat) (f : Flight) (ch : Chain) (p : ChainSet) (w : Work) : Except Stop State := do
  let cx := cxOf s f d
  needs (coreRangeOk s f.part ch.first ch.count)
  let cores := (chainShares s f.part ch p).map Prod.fst
  holdsUntil (f.begun || buffersFree s d cores)
  let e1 := (p.a.ext[1]?).getD 1
  let here := presentOf s f e1
  -- A is read as far as the stream is present
  let p1 : ChainSet := { p with a := cutTo e1 here p.a }
  let la ← if here = 0 then .ok [] else readTP s cx p1.a
  let lb ← readOptP s cx p.b
  let ls ← readOptP s cx p.side
  let wide (t : Option Tensor) (l : List ((Nat × Nat) × Bool)) := match t with
    | none => []
    | some x => widenL x l
  let v : ChainIn := { a := widenL p.a la, b := wide p.b lb, side := wide p.side ls }
  let fill := chainFill s f.part ch p
  let poison := (la ++ lb ++ ls).any Prod.snd
  fillRun s d f w
    { d := p.d, sat := cvtSat ch.cvt, key := genKeyOf s f ch.cvt p.d, vals := chainVals ch p1 v
      taint := fun e => poison && chainTaint ch p1 { a := flagsOf la, b := flagsOf lb, side := flagsOf ls } e
      fill := fill, clash := meets (p.d.places s cx) (chainSources s cx ch p (chainRecs f ch p)), reads := p.inputs, cores := cores
      stream := if f.fTrickle then some (fillNeeds p fill (chainUnits ch p).1, here) else none }

/-! Placement near-bank (R213-R220). -/

/-- Whether a near-bank unit performs an operation, on sources without IDX (R213). -/
def nearOp (o : ChainOp) : Bool :=
  [0x01, 0x02, 0x03, 0x04, 0x0E, 0x0F, 0x10, 0x26, 0x22, 0x23, 0x25].contains o.code && o.s1 != 0x0C && o.s2 != 0x0C
    && o.s3 != 0x0C

/-- The near-bank stack that holds every place of a list, if one does. -/
def nearStackOf (ps : List (Nat × Nat)) : Option Nat :=
  match ps with
  | [] => none
  | x :: _ => match locate x.1 with
    | .stack k _ => if nearStack k && ps.all (fun y => match locate y.1 with | .stack j _ => j == k | _ => false) then some k
        else none
    | _ => none

/-- Conditions 1-5 and 7 of R215 for a set of operands: the stack. -/
def nearFit (s : State) (cx : Cx) (f : Flight) (ch : Chain) (p : ChainSet) : Option Nat :=
  let fmtOk_ (t : Tensor) := [0, 1, 3, 4].contains t.fmt
  let shape (t : Tensor) := t.ext == p.d.ext || t.ext.all (· == 1)
  let all_ := p.d :: p.inputs
  if !f.fEve && ch.reduction.isNone && ch.ops.all nearOp && all_.all fmtOk_ && cvtRnd ch.cvt == 0 && p.inputs.all shape then
    match nearStackOf (all_.flatMap fun t => t.places s cx) with
    | some k => if s.flt.nearOut.contains k then none else some k
    | none => none
  else none

/-- Condition 6 of R215: the owner policy allows a partition near-bank work in a stack (R427). -/
def nearAllowed (s : State) (p k : Nat) : Bool := bit (getRule s p).flags (if k = 3 then 5 else 6)

/-- Whether a CHAIN runs near-bank, or is refused there, and not on cores (R216). -/
def nearPlaced (s : State) (cx : Cx) (f : Flight) (ch : Chain) (p : ChainSet) : Bool :=
  p.d.place == 2 || (p.d.place == 0 && (match nearFit s cx f ch p with
    | some k => nearAllowed s f.part k
    | none => false))

/-- Whether every byte of a tensor's range may be written (R196). -/
def writable (s : State) (cx : Cx) (t : Tensor) : Except Stop Unit :=
  (seqE (t.rows.flatMap fun a => (List.range t.rowBytes).map fun i => match xlate s cx.part (a + i) with
    | .error e => .error e
    | .ok (.loc _ w) => if w then .ok () else .error (.denied (a + i))
    | .ok (.rem _ _ w) => if w then .ok () else .error (.denied (a + i)))).map fun _ => ()

/-- One chain set read again for its entry, from the list (R219). -/
def listSets (s : State) (d : Nat) (f : Flight) : Except Stop (Chain × List ChainSet) := do
  let cx := cxOf s f d
  let n := f.op 0x28 4
  needs (decide (1 ≤ n ∧ n ≤ 4096) && f.zero 0x2C 4 && f.zero 0x38 8)
  let rec_ ← recordIn s cx (f.op 0x30 8) 128 64
  let body ← recordIn s cx (f.op 0x20 8) (32 * n) 64
  match parseChain rec_ { a := true, b := true, side := true, acc := false } with
  | none => .error (.st stMalformed)
  | some ch => do
    needs (ch.side == 0)
    let uses (x : Nat) := ch.ops.any fun o => o.s1 == x || o.s2 == x || o.s3 == x
    let sets ← seqE ((List.range n).map fun i => (do
      let p (o : Nat) := fld body (32 * i + o) 8
      needs (p 0 != 0 && p 0x10 != 0 && !(uses 9 && p 8 == 0) && !(uses 0x0B && p 0x18 == 0))
      let a ← operand s cx (p 0)
      let b ← operandOpt s cx (p 8)
      let o ← operand s cx (p 0x10)
      let sd ← operandOpt s cx (p 0x18)
      let x : ChainSet :=
        { a := a, b := b, side := sd, d := o, recs := ([0, 8, 0x10, 0x18].map p).filterMap fun r => if r = 0 then none else some (r, 64) }
      needs (ch.reduction.isNone && chainShapeOk f ch x)
      (.ok x : Except Stop ChainSet)))
    .ok (ch, sets)

/-- The records of a near-bank descriptor, by address and length: those of its chain or its list, and of every set (R220). -/
def nearRecs (f : Flight) (ch : Chain) (sets : List ChainSet) : List (Nat × Nat) :=
  (if f.opcode = 0x4001 then [(f.op 0x20 8, 32 * f.op 0x28 4), (f.op 0x30 8, 128)]
    else (sets.head?).elim [] (chainRecs f ch)) ++ sets.flatMap (·.recs)

/-- Whether D of a set overlaps what it may not (R220): what R156 names, or another set's operands. -/
def setClash (s : State) (cx : Cx) (f : Flight) (ch : Chain) (sets : List ChainSet) (i : Nat) : Bool :=
  match sets[i]? with
  | none => false
  | some p =>
    let d := p.d.places s cx
    meets d (chainSources s cx ch p (nearRecs f ch sets))
      || sets.zipIdx.any fun (q, j) => j != i && (meets d (q.d.places s cx) || q.inputs.any fun t => meets d (t.places s cx))


/-- The physical address of a byte of a near-bank operand, whose leaves are local. -/
def paOf (s : State) (cx : Cx) (va : Nat) : Nat := match xlate s cx.part va with
  | .ok (.loc pa _) => pa
  | _ => 0

/-- Whether a near-bank input is read once and supplied as a constant (R217). -/
def readOnce (t : Tensor) : Bool := t.ext.all (· == 1)

/-- An input's one element as binary32, with whether it is poison. -/
def onceValue (s : State) (cx : Cx) : Option Tensor → Option (Nat × Bool)
  | none => some (0, false)
  | some t =>
    let pa := paOf s cx t.base
    if readOnce t then some (widen t.fmt (pnat s pa (nibbles t.fmt / 2)) 0, poisoned s pa) else none

/-- A set of operands as the near-bank sequencer keeps it. -/
def nearSet (s : State) (cx : Cx) (f : Flight) (ch : Chain) (sets : List ChainSet) (p : ChainSet) (i : Nat) : NearSet :=
  { fmt := p.d.fmt, fmts := [p.a.fmt, (p.b.map (·.fmt)).getD 0, (p.side.map (·.fmt)).getD 0]
    once := [onceValue s cx (some p.a), onceValue s cx p.b, onceValue s cx p.side], junk := setClash s cx f ch sets i }

/-- The destination codewords of a set (R217), each with every element of it that D holds, whatever its row (R228). -/
def nearWords (s : State) (cx : Cx) (f : Flight) (entry : Nat) (p : ChainSet) : List NearWord :=
  let n := p.d.count
  let srcs (t : Option Tensor) : List Nat := match t with
    | none => List.replicate n 0
    | some x => if readOnce x then List.replicate n 0 else (elemVas x).map (paOf s cx)
  let e1 := (p.a.ext[1]?).getD 1
  let need (e : Nat) : Nat := if f.fTrickle then f.waitT - e1 + 1 + (if e1 = 1 then 0 else e / p.d.e0 % e1) else 0
  let elems := (elemVas p.d).zipIdx.zip ((srcs (some p.a)).zip ((srcs p.b).zip (srcs p.side)))
  let es : List (Nat × Nat × NearElem) := elems.map fun x =>
    (x.1.1, need x.1.2, { d := paOf s cx x.1.1, srcs := [x.2.1, x.2.2.1, x.2.2.2] })
  ((es.map fun x => codeword x.2.2.d).eraseDups).map fun c =>
    let mine := es.filter fun x => codeword x.2.2.d == c
    { cw := c, entry := entry, va := ((mine.head?).map Prod.fst).getD 0, elems := mine.map fun x => x.2.2
      need := (mine.map fun x => x.2.1).foldl max 0 }

/-- A near-bank chain started: its destination codewords wait for windows (R222). -/
def nearStart (s : State) (d : Nat) (f : Flight) (k : Nat) (ch : Chain) (sets : List ChainSet) : State :=
  let cx := cxOf s f d
  let r : NearRun :=
    { stack := k, chain := ch, sets := sets.zipIdx.map fun (p, i) => nearSet s cx f ch sets p i
      left := sets.zipIdx.flatMap fun (p, i) => nearWords s cx f i p }
  putF { s with mem := { s.mem with near := tput s.mem.near d r } } d { f with phase := .running }

/-- A near-bank run begun, or refused (R216, R220): every set in one stack, which the owner allows. -/
def nearBegin (s : State) (d : Nat) (f : Flight) (ch : Chain) (sets : List ChainSet) : Except Stop State := do
  let cx := cxOf s f d
  let ks := sets.map fun p => nearFit s cx f ch p
  match (ks.head?).bind id with
  | none => .error (.st stMalformed)
  | some k =>
    if ks.any fun x => x != some k then .error (.st stMalformed)
    else if !nearAllowed s f.part k then .error (.st stPermission)
    else
      let _ ← seqE (sets.map fun p => writable s cx p.d)
      .ok (nearStart s d f k ch sets)

/-- CHAIN: placed as R216 says. -/
def chain (d : Nat) (w : Work) (s : State) : State :=
  withOp s d 0x2001 fun f =>
    let r : Except Stop State := do
      let cp ← chainPlan s d f
      if nearPlaced s (cxOf s f d) f cp.1 cp.2 then nearBegin s d f cp.1 [cp.2] else chainRun s d f cp.1 cp.2 w
    match r with
    | .ok t => t
    | .error e => stopWith s d e
def execChain (d : Nat) (w : Work) (s : State) : Host.Outcome State Fault Refusal := .next (chain d w s)

/-- LIST. -/
def nearList (d : Nat) (s : State) : State :=
  withOp s d 0x4001 fun f =>
    let r : Except Stop State := do
      let cs ← listSets s d f
      nearBegin s d f cs.1 cs.2
    match r with
    | .ok t => t
    | .error e => stopWith s d e
def execNearList (d : Nat) (s : State) : Host.Outcome State Fault Refusal := .next (nearList d s)

/-! Windows (R222-R231). -/

/-- When a group's refresh falls due (R224). -/
def refreshDue (s : State) (k : Nat) (b : BankGroup) : Nat := b.lastRefresh + (if s.bw.hotBand.contains k then 1950 else 3900)

/-- Whether a bank group could take a window now: out of a window and of its refresh, with time before the next one (R224). -/
def groupReady (s : State) (stack key : Nat) : Bool :=
  let b := getBg s key
  !b.open_ && decide (b.refreshTo ≤ s.time.now ∧ s.time.now + 176 ≤ refreshDue s stack b)

/-- Whether another descriptor's window in a pseudo-channel comes first: class 0-1 before others, and by deadline (R226). -/
def nearRival (s : State) (stack key d : Nat) (f : Flight) : Bool :=
  s.mem.near.any fun e => e.1 != d && (match getF s e.1 with
    | none => false
    | some g => decide (g.cls ≤ 1) && (decide (2 ≤ f.cls) || (match g.absDeadline, f.absDeadline with
        | some x, some y => decide (x < y)
        | some _, none => true
        | none, _ => false))
      && (List.range 8).any fun i => !(groupLeft s e.1 (key / 8 * 8 + i)).isEmpty && groupReady s stack (key / 8 * 8 + i))

/-- WINDOW_OPEN (R222-R224, R226): a bank group given to a descriptor's work, within the group's time to its refresh, in a
free window of its pseudo-channel, class 0-1 work first by deadline; the blocks it reads and writes are written back first
(R227). Work shorter than 100 ns is worth a window when it is all that is left (assumption 49). -/
def windowOpen (stack pc group d : Nat) (s : State) : State :=
  let key := bgKey stack pc group
  let b := getBg s key
  let openNow := ((List.range 8).filter fun g => (getBg s (bgKey stack pc g)).open_).length
  let most := if s.bw.hotBand.contains stack then 1 else 2
  match getF s d, tfind s.mem.near d with
  | some f, some r =>
    let mine := groupLeft s d key
    let work := ((List.range 32).map fun k =>
      ((mine.filter fun w => workBank s w.cw == k).map (cwTime s r)).foldl (· + ·) 0).foldl max 0
    let room := refreshDue s stack b - s.time.now - 80
    let len := min 1200 (min room work)
    if mine.isEmpty ∨ !groupReady s stack key ∨ most ≤ openNow ∨ s.bw.throttled.contains stack ∨ s.bw.noWindow.contains stack
        ∨ nearRival s stack key d f ∨ (len < 100 ∧ len < work) then s
    else
      let dst := (mine.map fun w => w.cw / 64).eraseDups
      let s1 := cleanBlocks s (dst ++ mine.flatMap fun w => w.sources.map (· / 64))
      putBg { s1 with mem := { s1.mem with near := tput s1.mem.near d { r with begun := some (r.begun.getD s.time.now) } } } key
        { b with open_ := true, desc := d, openedAt := s.time.now, closeAt := s.time.now + 80 + len, blocks := dst }
  | _, _ => s
def execWindowOpen (stack pc group : Nat) (d : Nat) (s : State) : Host.Outcome State Fault Refusal :=
  .next (windowOpen stack pc group d s)

/-- Requests held for a bank group served, in the order of R348 (R225). -/
def releaseHeld (s : State) (key : Nat) : State :=
  let b := getBg s key
  serveAll (putBg s key { b with held := [] }) b.held

/-- The time that a window's carries cost their pseudo-channel (R176, R217, R229): a whole 2 KiB block at once, any other codeword
by itself. -/
def carryCharge (s : State) (ws : List NearWord) : Nat :=
  let cws := (ws.flatMap fun w => w.carried s).eraseDups
  ((cws.map (· / 64)).eraseDups.map fun blk =>
    let n := (cws.filter fun c => c / 64 == blk).length
    if n = 64 then blockCharge 2048 else n * blockCharge 32).foldl (· + ·) 0

/-- A near-bank descriptor ended with a status, its windows shut. -/
def nearEnd (s : State) (d st : Nat) : State :=
  let e := nearTime s d
  let t := shutWindows s d
  endF { t with mem := { t.mem with near := tdel t.mem.near d } } d st e

/-- A near-bank descriptor ended when none of its codewords is left (R221, R231). -/
def nearSettle (s : State) (d : Nat) (f : Flight) : State :=
  match tfind s.mem.near d with
  | none => s
  | some r =>
    if !r.left.isEmpty then s
    else match r.poisoned with
      | some va => nearEnd (emit s 3 0x11 { part := f.part } [(8, va)]) d stPoisoned
      | none => nearEnd s d stOk

/-- A window ended after `len` of work, with what its units found (R226-R232): source codewords found as the code finds them, and
codewords whose check failed three times, which are not written and end the descriptor. -/
def endWindow (s : State) (key len : Nat) (x : WindowWork) : State :=
  let d := (getBg s key).desc
  match getF s d with
  | none => shutGroup s key
  | some f =>
    let ws := windowWords s d key len
    let read := ws.flatMap NearWord.sources
    let s1 := (x.found.filter fun e => read.contains e.1 && !s.mem.poison.contains e.1).foldl (fun t e => findCodeword t (32 * e.1) e.2) s
    let lost := (x.faults.filter fun e => decide (3 ≤ e.2)).map Prod.fst
    let bad := ws.filter fun w => lost.contains w.cw
    let stack := key / 65536
    let s2 := (chargePort s1 (513 + stack / 4) f.part f.cls (stack, carryCharge s ws)).1
    let s3 := shutGroup (nearDrain s2 d (ws.filter fun w => !lost.contains w.cw)) key
    if bad.isEmpty then nearSettle s3 d f
    else nearEnd (bad.foldl (fun t w => chargeUnit t stack (key % 65536 / 8) (workBank s w.cw)) s3) d stArith

/-- WINDOW_CLOSE: at the planned close; a group whose window has been ended otherwise releases what it holds. -/
def windowClose (stack pc group : Nat) (x : WindowWork) (s : State) : State :=
  let key := bgKey stack pc group
  let b := getBg s key
  if b.open_ && decide (s.time.now < b.closeAt) then s
  else releaseHeld (if b.open_ then endWindow s key (b.closeAt - b.openedAt - 80) x else s) key
def execWindowClose (stack pc group : Nat) (x : WindowWork) (s : State) : Host.Outcome State Fault Refusal :=
  .next (windowClose stack pc group x s)

/-- WINDOW_CUT (R226): a held request of class 0-1 would miss its deadline at the planned close. -/
def windowCut (stack pc group : Nat) (x : WindowWork) (s : State) : State :=
  let key := bgKey stack pc group
  let b := getBg s key
  let urgent := b.held.any fun i => match tfind s.bw.waiting i with
    | some w => decide (w.req.cls ≤ 1 ∧ 0 < w.req.deadline ∧ w.req.deadline < b.closeAt)
    | none => false
  if b.open_ && urgent then releaseHeld (endWindow s key (s.time.now - b.openedAt - 40) x) key else s
def execWindowCut (stack pc group : Nat) (x : WindowWork) (s : State) : Host.Outcome State Fault Refusal :=
  .next (windowCut stack pc group x s)

/-- BANK_GROUP_REFRESH (R224): between windows, once the refresh is near; it takes 136 ns, in which no window opens. -/
def bankGroupRefresh (stack pc group : Nat) (s : State) : State :=
  let key := bgKey stack pc group
  let b := getBg s key
  if b.open_ ∨ s.time.now + 176 ≤ refreshDue s stack b then s
  else putBg s key { b with lastRefresh := s.time.now, refreshTo := s.time.now + 136 }
def execBankGroupRefresh (stack pc group : Nat) (s : State) : Host.Outcome State Fault Refusal :=
  .next (bankGroupRefresh stack pc group s)

/-! SOFTMAX (R159). -/

/-- One row of SOFTMAX. -/
def softRow (c : Nat) (xs : List Nat) : List Nat :=
  let t := xs.map fun x => fmul x c
  let m := hreduce fmax t
  let e := t.map fun x => fexp2 (fsub x m)
  let r := frecip (hreduce fadd e)
  e.map fun x => fmul x r

/-- SOFTMAX's work (R159): rows are divided among the cores, never within one (R154). D identical to X gets the defined result
(assumption 161). -/
def softmaxOp (s : State) (d : Nat) (f : Flight) (w : Work) : Except Stop State := do
  let cx := cxOf s f d
  let b ← recordIn s cx (f.op 0x38 8) 64 64
  let x ← operand s cx (f.op 0x20 8)
  let o ← operand s cx (f.op 0x30 8)
  let first := fld b 0x10 2
  let count := fld b 0x12 2
  needs (f.zero 0x28 8 && zeroAt b 4 4 && zeroAt b 0x14 44 && x.ext == o.ext && decide (x.e0 ≤ 65536)
    && cvtOk f o.fmt o.count (fld b 8 8) && coreRangeOk s f.part first count)
  let shares := sharesOf (coreSet s f.part first count) (o.count / o.e0)
  let cores := shares.map Prod.fst
  holdsUntil (f.begun || buffersFree s d cores)
  let xl ← readTP s cx x
  let c := fmul (fld b 0 4) l2e
  let bad := ((chunks x.e0 xl).zipIdx.filter fun r => r.1.any Prod.snd).map Prod.snd
  let recs := [f.op 0x20 8, f.op 0x30 8, f.op 0x38 8].flatMap fun a => placesOf s cx a 64
  fillRun s d f w
    { d := o, sat := cvtSat (fld b 8 8), key := genKeyOf s f (fld b 8 8) o, vals := (chunks x.e0 (widenL x xl)).flatMap (softRow c)
      taint := fun e => bad.contains (e / o.e0), fill := fillKey shares (cdiv o.e0 64) true false o.e0
      clash := meets (o.places s cx) ((if sameTensor x o then [] else x.places s cx) ++ recs), reads := [x], cores := cores
      stream := none }

/-- SOFTMAX. -/
def softmax (d : Nat) (w : Work) (s : State) : State :=
  withOp s d 0x2010 fun f => match softmaxOp s d f w with
    | .ok t => t
    | .error e => stopWith s d e
def execSoftmax (d : Nat) (w : Work) (s : State) : Host.Outcome State Fault Refusal := .next (softmax d w s)

/-! SAMPLE (R162-R166). -/

/-- A row's sampling parameters. -/
structure RowParam where
  temp : Nat
  topP : Nat
  pen : Nat
  topK : Nat

/-- A row entry; none when it is invalid (R162, R165). -/
def rowParam (b : List Byte) (o : Nat) : Option RowParam :=
  let r : RowParam := { temp := fld b o 4, topP := fld b (o + 4) 4, pen := fld b (o + 8) 4, topK := fld b (o + 12) 2 }
  let nan (x : Nat) := d32 x == .nan
  if nan r.temp ∨ flt r.temp 0 ∨ nan r.topP ∨ !flt 0 r.topP ∨ flt one32 r.topP ∨ nan r.pen ∨ flt r.pen one32 ∨ 256 < r.topK then none
  else some r

/-- The largest first, equal values by lower index, -0 below +0 (R163). -/
def candBefore (a b : Nat × Nat) : Bool :=
  vlt (d32 b.1) (d32 a.1) || (!vlt (d32 a.1) (d32 b.1) && decide (a.2 < b.2))
/-- An item put in its place among sorted candidates. -/
def candInsert (x : Nat × Nat) : List (Nat × Nat) → List (Nat × Nat)
  | [] => [x]
  | y :: r => if candBefore x y then x :: y :: r else y :: candInsert x r
/-- The first k candidates of values with their indices, in candidate order. -/
def candidates (k : Nat) (ys : List Nat) : List (Nat × Nat) :=
  ys.zipIdx.foldl (fun acc e => (candInsert e acc).take k) []

/-- What a row's sampling forms: the token, its probability, and the candidates up to J with their probabilities (R163,
R290). -/
structure Sampled where
  token : Nat
  prob : Nat
  cand : List (Nat × Nat)

/-- A row without a valid token (R165). -/
def noToken : Sampled := { token := 0xFFFFFFFF, prob := nan32, cand := [] }

/-- Running sums c[j] of the candidates' e (R163). -/
def runSums (es : List Nat) : List Nat :=
  match es with
  | [] => []
  | e :: r => (r.foldl (fun (acc : Nat × List Nat) x => (fadd acc.1 x, acc.2 ++ [fadd acc.1 x])) (e, [e])).2

/-- f = (u >> 8) × 2^-24 (R163). -/
def drawF (u : Nat) : Nat := e32 (.fin false (u / 256) (-24))

/-- The cumulative draw over candidates with weights e, cut at J, with fraction f (R163): the place drawn. -/
def drawAt (cs : List Nat) (j f : Nat) : Nat :=
  let r := fmul ((cs[j]?).getD 0) f
  ((List.range (j + 1)).find? fun i => flt r ((cs[i]?).getD 0)).getD j

/-- One row sampled: penalised logits z, its parameters and its generator word. -/
def sampleRow (zs : List Nat) (r : RowParam) (u : Nat) : Sampled :=
  let greedy := veq (d32 r.temp) (d32 0)
  let inv := frecip r.temp
  let ys := if greedy then zs else zs.map fun z => fmul z inv
  if ys.any fun y => d32 y == .nan then noToken
  else
    let k := min (if r.topK = 0 then 256 else r.topK) zs.length
    let top := candidates k ys
    match top with
    | [] => noToken
    | y0 :: _ =>
      if d32 y0.1 = .inf true then noToken
      else if greedy then { token := y0.2, prob := one32, cand := [(y0.2, one32)] }
      else
        let infs := top.filter fun y => d32 y.1 == .inf false
        let cs_ := if infs.isEmpty then top else infs
        let es := if infs.isEmpty then cs_.map fun y => fexp2 (fmul (fsub y.1 y0.1) l2e) else cs_.map fun _ => one32
        let sums := runSums es
        let cut := fmul r.topP ((sums.getLast?).getD 0)
        let j := ((List.range sums.length).find? fun i => !flt ((sums[i]?).getD 0) cut).getD (sums.length - 1)
        let i := drawAt sums j (drawF u)
        let pr (n : Nat) := fdiv ((es[n]?).getD 0) ((sums[j]?).getD 0)
        { token := ((cs_[i]?).getD (0, 0)).2, prob := pr i
          cand := (List.range (j + 1)).map fun n => (((cs_[n]?).getD (0, 0)).2, pr n) }

/-- Penalised logits (R163): each listed token of the vocabulary once. -/
def penalise (zs : List Nat) (listed : List Nat) (pen : Nat) : List Nat :=
  zs.zipIdx.map fun (z, i) => if listed.contains i then (if flt 0 z then fdiv z pen else fmul z pen) else z

/-- The row-parameter entry, generator word and drafts of a row under a step: entry k for every row of the k-th sequence
(R323). -/
def stepRowOf (r : StepRun) (row : Nat) : Nat × Nat :=
  ((r.seqs.zipIdx.flatMap fun (q, k) => (List.range (seqRows r q)).map fun i => (k, i))[row]?).getD (0, 0)

/-- The cores of a SAMPLE with work (R166): row i goes to group i mod the number of groups of `per` consecutive cores, and a row's
vocabulary is divided within its group in units of 64 logits. -/
def sampleCores (s : State) (part first count per v rows : Nat) : List Nat :=
  let cores := coreSet s part first count
  let n := max 1 per
  ((List.range (cores.length / n)).filter (· < rows)).flatMap fun g =>
    (sharesOf ((cores.drop (n * g)).take n) (cdiv v 64)).map Prod.fst

/-- SAMPLE's work (R162-R166). Under a step the candidates of each row are kept for the acceptance of R290. A count 0 stands for
every bound core from the first on, which per_row must divide too (assumption 162); under a step an explicit position has no
key, and is MALFORMED (assumption 163). -/
def sampleOp (s : State) (d : Nat) (f : Flight) (w : Work) : Except Stop State := do
  let cx := cxOf s f d
  let b ← recordIn s cx (f.op 0x38 8) 64 64
  let z ← operand s cx (f.op 0x20 8)
  let pl ← operandOpt s cx (f.op 0x28 8)
  let o ← operand s cx (f.op 0x30 8)
  let pr ← operandOpt s cx (fld b 8 8)
  let v := z.e0
  let rows := (z.ext[1]?).getD 1
  let rp := fld b 0 8
  let pos := fld b 0x10 4
  let per := fld b 0x18 1
  let count := if fld b 0x16 2 = 0 then (coreSet s f.part (fld b 0x14 2) 0).length else fld b 0x16 2
  needs ((z.fmt == 0 || z.fmt == 1) && z.ext.length == 2 && decide (v ≤ 1048576)
    && (match pl with | none => true | some t => t.fmt == 6 && t.ext.length == 2 && (t.ext[1]?).getD 0 == rows && decide (t.e0 ≤ 1024))
    && o.fmt == 6 && o.ext == [1, rows]
    && (match pr with | none => true | some t => t.fmt == 0 && t.ext == [1, rows])
    && decide (1 ≤ per ∧ per ≤ 16 ∧ count % per = 0) && zeroAt b 0x19 39 && coreRangeOk s f.part (fld b 0x14 2) (fld b 0x16 2)
    && decide (rp ≠ 0 ∧ rp % 16 = 0)
    && (if f.stepOf.isSome ∧ pos = 0xFFFFFFFF then true else f.slotF != 0xFFFF && pos != 0xFFFFFFFF))
  let cores := sampleCores s f.part (fld b 0x14 2) (fld b 0x16 2) per v rows
  holdsUntil (f.begun || buffersFree s d cores)
  let run_ := f.stepOf.bind fun k => tfind s.steps.runs k
  let entryOf (i : Nat) := match run_ with | some r => (stepRowOf r i).1 | none => i
  let zs ← widenT s cx z
  let ls ← match pl with
    | none => .ok []
    | some t => (readT s cx t).map fun l => l.map Prod.fst
  let params ← seqE ((List.range rows).map fun i =>
    let va := rp + 16 * entryOf i
    if 2 ^ 47 ≤ va ∧ va < 2 ^ 48 then .error (.st stPermission) else vread s cx va 16)
  let keys := match run_ with | some _ => stepKeys s (f.stepOf.getD 0) | none => []
  let out := (List.range rows).map fun i =>
    let row := (zs.drop (i * v)).take v
    let listed := match pl with | none => [] | some t => (ls.drop (i * t.e0)).take t.e0
    match rowParam ((params[i]?).getD []) 0 with
    | none => noToken
    | some r =>
      let u := if pos = 0xFFFFFFFF then
          (match keys[i]? with
          | some (sd, id_, p) => genWord sd id_ 0xFF00 p 0
          | none => Config.freeNat i % 2 ^ 32)
        else genWord (getSlot s f.slotF).seed (getSlot s f.slotF).ident 0xFF00 pos i
      sampleRow (penalise row listed r.pen) r u
  needs ((List.range rows).all fun i => zeroAt ((params[i]?).getD []) 14 2)
  let run := runFaults s d w
  if run.2 then .ok (endF run.1 d stArith w.cycles)
  else if w.more then .ok (beginF run.1 d f cores [])
  else
    let recs := [f.op 0x20 8, f.op 0x28 8, f.op 0x30 8, f.op 0x38 8, fld b 8 8].flatMap fun a => if a = 0 then [] else placesOf s cx a 64
    let clash (t : Tensor) := meets (t.places s cx) (z.places s cx ++ recs)
    let u0 ← if clash o then writeFree run.1 cx o else writeCodes run.1 cx o (out.map (·.token))
    let u1 ← match pr with
      | none => .ok u0
      | some t => if clash t then writeFree u0 cx t else writeCodes u0 cx t (out.map (·.prob))
    let u2 := match f.stepOf, run_ with
      | some k, some r =>
        let seqs := r.seqs.zipIdx.map fun (q, j) =>
          { q with cand := (out.zipIdx.filter fun e => (stepRowOf r e.2).1 == j).map fun e => e.1.cand }
        { u1 with steps := { u1.steps with runs := tput u1.steps.runs k { r with seqs := seqs, vocab := z.e0 } } }
      | _, _ => u1
    .ok (endF (touchRead u2 cx z) d stOk w.cycles)

/-- SAMPLE. -/
def sample (d : Nat) (w : Work) (s : State) : State :=
  withOp s d 0x2020 fun f => match sampleOp s d f w with
    | .ok t => t
    | .error e => stopWith s d e
def execSample (d : Nat) (w : Work) (s : State) : Host.Outcome State Fault Refusal := .next (sample d w s)

end Sys2Proof.Machine
end

