-- ==== Sys2Proof/Machine/Attend.lean ====
section
/-! DEFINITION. ATTEND (R256-R265), and the restart of work that stopped for want of frames (R267). -/

namespace Sys2Proof.Machine

/-- A checked ATTEND descriptor (R256, R257). -/
structure AttPlan where
  q : Tensor
  new : Tensor
  out : Tensor
  wuk : Tensor
  wuv : Tensor
  scale : Nat
  layer : Nat
  heads : Nat
  form : Nat
  cvt : Nat
  n : Nat
  hd : Nat

/-- The descriptor's records read and checked, as far as no sequence's layout enters. -/
def attPlan (s : State) (d : Nat) (f : Flight) : Except Stop AttPlan := do
  let cx := cxOf s f d
  let b ← recordIn s cx (f.op 0x38 8) 64 64
  let q ← operand s cx (f.op 0x20 8)
  let nw ← operand s cx (f.op 0x28 8)
  let o ← operand s cx (f.op 0x30 8)
  let uk ← operand s cx (fld b 8 8)
  let uv ← operand s cx (fld b 0x10 8)
  let n := fld b 0x20 2
  let h := fld b 6 1
  let hd := fld b 0x22 2
  needs (zeroAt b 0x24 28 && decide (1 ≤ h ∧ h ≤ 64 ∧ fld b 7 1 ≤ 1 ∧ 16 ≤ hd ∧ hd ≤ 256)
    && (if f.stepOf.isSome then n == 0 else decide (1 ≤ n ∧ n ≤ 4096))
    && q.fmt == 1 && nw.fmt == 5 && uk.fmt == 1 && uv.fmt == 1 && cvtOk f o.fmt o.count (fld b 0x18 8)
    && q.ext.length == 2 && nw.ext.length == 2 && o.ext == [h * hd, (q.ext[1]?).getD 0]
    && (nw.ext[1]?).getD 0 == (q.ext[1]?).getD 0)
  .ok { q := q, new := nw, out := o, wuk := uk, wuv := uv, scale := fld b 0 4, layer := fld b 4 2, heads := h
        form := fld b 7 1, cvt := fld b 0x18 8, n := n, hd := hd }

/-- The sequences of the descriptor, each with its first row and its rows (R258, R323). -/
def attSeqs (s : State) (f : Flight) (p : AttPlan) : List (Nat × Nat × Nat) :=
  match f.stepOf.bind fun k => tfind s.steps.runs k with
  | none => [(f.slotF, 0, p.n)]
  | some r => (r.seqs.foldl (fun (acc : Nat × List (Nat × Nat × Nat)) x =>
      (acc.1 + seqRows r x, acc.2 ++ [(x.slot, acc.1, seqRows r x)])) (0, [])).2

/-- Whether the records agree with a sequence's layout and its positions stay in range (R240, R263). -/
def layoutOk (s : State) (part : Nat) (p : AttPlan) (x : Slot) (n : Nat) : Bool :=
  decide (p.layer < x.layers ∧ x.lenIn p.layer + n ≤ 16 * pagesPerLayer s part x)
    && (p.q.ext.head?).getD 0 == p.heads * (p.hd + x.rope) && (p.new.ext.head?).getD 0 == x.entrySize
    && p.wuk.ext == [p.hd, x.latent, p.heads] && p.wuv.ext == [x.latent, p.hd, p.heads]

/-- The status of a slot that is not OPEN (R237). -/
def slotStatus (x : SlotSt) : Option Nat :=
  match x with
  | .free => some stMalformed
  | .swappingOut => some stPreempted
  | .swapped => some stPreempted
  | .swappingIn => some stPreempted
  | .failed => some stPoisoned
  | .open_ => none

/-! Values (R259, R260, R265). -/

/-- A present position: its number, its latent and its rotary key. -/
structure AttEntry where
  pos : Nat
  lat : List Fv
  rope : List Fv

/-- A head's weights over one chunk: the reference, the sums with the running sum last, and the mass of each page with the
reference its weights were formed under. -/
structure HeadRun where
  m : Nat
  acc : List Nat
  mass : List (Nat × Nat × Nat)

/-- Products of two lists of values, one for one. -/
def zipMul (a b : List Fv) : List Fv := (a.zip b).map fun e => vmul e.1 e.2

/-- One score: latent groups in the exact class, then the rotary group. -/
def attScore (qa rope : List Fv) (e : AttEntry) : Nat :=
  accumulate none ((chunks 64 (zipMul qa e.lat)).map groupExact
    ++ (if rope.isEmpty then [] else [groupHalf (zipMul rope e.rope)]))

/-- The weights of a block's present positions as MXFP8 E4M3, half by half (R108, R259). -/
def mxWeights (l : List (AttEntry × Nat)) : List Fv :=
  let half (h : List (AttEntry × Nat)) : List Fv :=
    let b := mxBlock 0x11 none (h.map Prod.snd)
    b.2.map fun c => elemVal 0x11 c b.1
  half (l.filter fun e => decide (e.1.pos % 64 < 32)) ++ half (l.filter fun e => decide (32 ≤ e.1.pos % 64))

/-- The weighted sums of a block: one group for each latent element, then the running sum. -/
def blockSums (latent : Nat) (ws : List Fv) (es : List AttEntry) : List Nat :=
  (List.range latent).map (fun j => groupExact ((ws.zip es).map fun e => vmul e.1 ((e.2.lat[j]?).getD (.fin false 0 0))))
    ++ [groupExact ws]

/-- The mass of each page of a block (R265). -/
def blockMass (m : Nat) (ws : List Fv) (es : List AttEntry) : List (Nat × Nat × Nat) :=
  ((es.map fun e => e.pos / 16).eraseDups).map fun pg =>
    (pg, groupExact (((ws.zip es).filter fun e => e.2.pos / 16 == pg).map Prod.fst), m)

/-- One block of the online form (R160 steps 1 to 3, R259). Before its first block a head has no reference. -/
def onlineBlock (latent : Nat) (h : Option HeadRun) (blk : List (AttEntry × Nat)) : Option HeadRun :=
  match blk with
  | [] => h
  | b0 :: rest =>
    let big (xs : List Nat) (x : Nat) := xs.foldl fmax x
    let es := blk.map Prod.fst
    match h with
    | none =>
      let m := big (rest.map Prod.snd) b0.2
      let ws := mxWeights (blk.map fun e => (e.1, fexp2 (fsub e.2 m)))
      some { m := m, acc := blockSums latent ws es, mass := blockMass m ws es }
    | some r =>
      let ds := blk.map fun e => fsub e.2 r.m
      let D := big (ds.drop 1) ((ds.head?).getD 0)
      let rebase := flt 0x42800000 D
      let m := if rebase then fadd r.m D else r.m
      let acc := if rebase then r.acc.map fun a => fmul a (fexp2 (fneg D)) else r.acc
      let ds' := if rebase then ds.map fun x => fsub x D else ds
      let ws := mxWeights ((blk.zip ds').map fun e => (e.1.1, fexp2 e.2))
      some { m := m, acc := (acc.zip (blockSums latent ws es)).map fun e => fadd e.1 e.2
             mass := r.mass ++ blockMass m ws es }

/-- Items grouped by a number, in increasing order of it. -/
def groupBy {α : Type} (key : α → Nat) (l : List α) : List (List α) :=
  ((l.map key).eraseDups).map fun k => l.filter fun e => key e == k

/-- The merge of two chunks (R259). -/
def mergeRuns (a b : HeadRun) : HeadRun :=
  let n := fmax a.m b.m
  let f := fexp2 (fsub a.m n)
  let g := fexp2 (fsub b.m n)
  { m := n, acc := (a.acc.zip b.acc).map fun e => ffma e.1 f (fmul e.2 g), mass := a.mass ++ b.mass }

/-- What one head of one row yields: the latent-space output and each page's increment before the sum over heads. -/
structure HeadOut where
  o : List Nat
  inc : List (Nat × Nat)

/-- The online form over scored positions (R259). -/
def onlineHead (latent chunk c : Nat) (l : List (AttEntry × Nat)) : HeadOut :=
  let xs := l.map fun e => (e.1, fmul e.2 c)
  let runs := (groupBy (fun e : AttEntry × Nat => e.1.pos / chunk) xs).filterMap fun ch =>
    (groupBy (fun e : AttEntry × Nat => e.1.pos / 64) ch).foldl (onlineBlock latent) none
  match runs with
  | [] => { o := List.replicate latent nan32, inc := [] }
  | r :: rest =>
    let t := rest.foldl mergeRuns r
    let inv := frecip ((t.acc.getLast?).getD 0)
    { o := (t.acc.take latent).map fun a => fmul a inv
      inc := t.mass.map fun e => (e.1, fmul (fmul e.2.1 (fexp2 (fsub e.2.2 t.m))) inv) }

/-- The two-pass form over scored positions (R260). -/
def twoPassHead (latent chunk c : Nat) (l : List (AttEntry × Nat)) : HeadOut :=
  let ps := (l.map Prod.fst).zip (softRow c (l.map Prod.snd))
  let chunksOf := (groupBy (fun e : AttEntry × Nat => e.1.pos / chunk) ps).map fun ch =>
    (groupBy (fun e : AttEntry × Nat => e.1.pos / 64) ch).map fun blk => (mxWeights blk, blk.map Prod.fst)
  let sums := chunksOf.map fun bs =>
    let per := bs.map fun b => (blockSums latent b.1 b.2).take latent
    (List.range latent).map fun j => accumulate none (per.map fun v => (v[j]?).getD 0)
  { o := match sums with
      | [] => List.replicate latent nan32
      | a :: r => r.foldl (fun acc v => (acc.zip v).map fun e => fadd e.1 e.2) a
    inc := chunksOf.flatten.flatMap fun b => (blockMass 0 b.1 b.2).map fun e => (e.1, e.2.1) }

/-- One row of one sequence: the output of every head, and each page's increment (R259, R260, R265). -/
def attRow (p : AttPlan) (x : Slot) (q uk uv : Array Fv) (row : Nat) (es : List AttEntry) : List Nat × List (Nat × Nat) :=
  let c := fmul p.scale l2e
  let width := p.hd + x.rope
  let zero : Fv := .fin false 0 0
  let at_ (a : Array Fv) (i : Nat) := (a[i]?).getD zero
  let heads := (List.range p.heads).map fun h =>
    let qh := (List.range width).map fun i => at_ q (row * p.heads * width + h * width + i)
    let qa := (List.range x.latent).map fun j =>
      let ws := (List.range p.hd).map fun i => at_ uk (i + p.hd * (j + x.latent * h))
      fdec fmtE4m3 (convert 0x03 .rne true (accumulate none ((chunks 64 (zipMul (qh.take p.hd) ws)).map groupHalf)))
    let l := es.map fun e => (e, attScore qa (qh.drop p.hd) e)
    let r := if p.form = 0 then onlineHead x.latent (16 * x.chunkPages) c l else twoPassHead x.latent (16 * x.chunkPages) c l
    let o := r.o.map fun v => fdec fmtBf16 (convert 0x01 .rne false v)
    ((List.range p.hd).map fun i =>
      let ws := (List.range x.latent).map fun j => at_ uv (j + x.latent * (i + p.hd * h))
      accumulate none ((chunks 64 (zipMul o ws)).map groupHalf), r.inc)
  let pages := ((heads.flatMap fun e => e.2.map Prod.fst).eraseDups)
  (heads.flatMap Prod.fst, pages.map fun pg =>
    (pg, match heads.filterMap fun e => (e.2.find? fun i => i.1 == pg).map Prod.snd with
      | [] => 0
      | a :: r => r.foldl fadd a))

/-! Running. -/

/-- The entries of the present positions of a layer below a length: those whose page no thin eviction has taken (R258). A page
whose frame is retired is lost to its holders (R468, R474), and so is a page whose score lies in such a frame. -/
def attEntries (s : State) (cx : Cx) (slot layer len : Nat) : Except Stop (List AttEntry) :=
  let x := getSlot s slot
  let keys := ((List.range ((len + 15) / 16)).map (pageKey layer)).filter fun k => !x.thinned.contains k
  (seqE (keys.flatMap fun k => (List.range (min 16 (len - k % 2 ^ 32 * 16))).map fun i =>
    let pos := k % 2 ^ 32 * 16 + i
    let lost := match tfind x.pages k with
      | some g => (getFrame s cx.part g.at).state == 3
      | none => false
    let score := ((tfind x.thinFrames (thinPageOf s cx.part x k)).map fun i => frameBad s cx.part i 8192).getD false
    if lost || score then .error .poison
    else match vread s cx (entryVa s cx.part slot x layer pos) (x.latent + 2 * x.rope) with
      | .error e => .error e
      | .ok b => .ok { pos := pos, lat := (b.take x.latent).map fun v => elemVal x.format v.toNat 0
                       rope := (chunks 2 (b.drop x.latent)).map fun v => fdec fmtBf16 (leNat v) }))

/-- The new entries of every sequence appended at its length (R258). -/
def attAppend (s : State) (cx : Cx) (p : AttPlan) (rows : List (List Byte)) : List (Nat × Nat × Nat) → State × Option Stop
  | [] => (s, none)
  | (slot, first, n) :: r =>
    let x := getSlot s slot
    let lost := (tkeys x.pages).any fun k => k / 2 ^ 32 == p.layer
      && decide (x.lenIn p.layer / 16 ≤ k % 2 ^ 32 ∧ k % 2 ^ 32 * 16 < x.lenIn p.layer + n)
      && (match tfind x.pages k with
        | some g => (getFrame s cx.part g.at).state == 3
        | none => false)
    if lost then (s, some .poison)
    else
      let w := appendEntries s cx slot p.layer ((rows.drop first).take n)
      match w.2 with
      | some e => (w.1, some e)
      | none => attAppend w.1 cx p rows r

/-- The frames that stopped work needs: for an ATTEND those of its layer; for a STEP those of every layer (R267). -/
def stopNeeds (s : State) (f : Flight) (p : AttPlan) : List Nat :=
  match f.stepOf.bind fun k => tfind s.steps.runs k with
  | none => pageNeeds s f.part f.slotF p.layer (getSlot s f.slotF).settled p.n
  | some r => r.seqs.flatMap fun q =>
      let x := getSlot s q.slot
      (List.range x.layers).flatMap fun l => pageNeeds s f.part q.slot l x.settled (seqRows r q)

/-- The step of a lone ATTEND begun for its slot, unless another step runs there (R275, R278). -/
def enterStep (s : State) (d : Nat) (f : Flight) : State :=
  let x := getSlot s f.slotF
  if f.opcode = 0x3001 ∧ f.stepOf.isNone ∧ f.slotF ≠ 0xFFFF ∧ x.st = .open_ ∧ x.inStep.isNone then
    putSlot s f.slotF { x with inStep := some d }
  else s

/-- A state in which what an ATTEND outside a STEP has written is dead (R264). -/
def attDead (s : State) (d : Nat) (f : Flight) : State := if f.stepOf.isSome then s else rollbackStep s f.part d

/-- An ATTEND that ends in a status, or waits, with the handshake cycles it has used (R263); outside a STEP its step ends with
it. -/
def attQuit (s : State) (d : Nat) (f : Flight) (extra : Nat) (e : Stop) : State :=
  match e with
  | .need va => stopWith s d (.need va)
  | .wait => s
  | x => stopWith (attDead s d f) d x extra

/-- An ATTEND that stops in its work. For want of a frame it waits for POOL_RESTART, or completes PREEMPTED when no victim can
be found (R267, R268). `s0` is the state before it wrote. -/
def attStop (s0 s : State) (d : Nat) (f : Flight) (p : AttPlan) (extra : Nat) (e : Stop) : State :=
  match e with
  | .need va => stopWith s0 d (.need va)
  | .wait => s0
  | .pool _ table =>
    let dead := attDead s d f
    let needs := stopNeeds dead f p
    let t := stopWith dead d (.pool needs table)
    if f.stepOf.isSome then t
    else
      let r := preempt t f.part needs table
      if r.2 then r.1 else endF (unstop r.1 f.part d) d stPreempted 0
  | x => attQuit s d f extra x

/-- What every row gives, and the first row that stops. -/
structure AttOut where
  rows : List (Nat × Except Stop (List Nat))
  incs : List (Nat × List (Nat × Nat))

/-- The rows of every sequence computed. -/
def attCompute (s : State) (cx : Cx) (p : AttPlan) (q uk uv : Array Fv) (seqs : List (Nat × Nat × Nat)) : AttOut :=
  let per := seqs.map fun (slot, first, n) =>
    let x := getSlot s slot
    let len := x.lenIn p.layer - n
    match attEntries s cx slot p.layer (len + n) with
    | .error e => ((List.range n).map fun i => (first + i, (.error e : Except Stop (List Nat))), (slot, []))
    | .ok es =>
      let rs := (List.range n).map fun i =>
        (first + i, attRow p x q uk uv (first + i) (es.filter fun e => decide (e.pos ≤ len + i)))
      let inc := match rs with
        | [] => []
        | r :: _ => r.2.2
      (rs.map fun r => (r.1, .ok r.2.1), (slot, inc))
  { rows := per.flatMap Prod.fst, incs := per.map Prod.snd }

/-- The thin increments of a layer set in the pages of the sequences that have THIN (R265). -/
def setIncs (s : State) (layer : Nat) (incs : List (Nat × List (Nat × Nat))) : State :=
  incs.foldl (fun t (slot, l) =>
    let x := getSlot t slot
    if !bit x.flags 0 then t
    else putSlot t slot { x with pages := tmap x.pages fun k g =>
      if k / 2 ^ 32 = layer then
        match (l.find? fun e => e.1 == k % 2 ^ 32) with
        | some e => { g with thinInc := e.2 }
        | none => g
      else g }) s

/-- An ATTEND whose checks have passed. A stop by poison or by ARITH_CHECK leaves whole rows of the output drained
(R142, R461, assumption 51). -/
def attRun (s : State) (d : Nat) (f : Flight) (p : AttPlan) (w : Work) (seqs : List (Nat × Nat × Nat)) : State :=
  let cx := cxOf s f d
  let inputs : Except Stop (List Fv × List Fv × List Fv × List (List Byte)) := do
    let q ← valuesT s cx p.q
    let uk ← valuesT s cx p.wuk
    let uv ← valuesT s cx p.wuv
    let rows ← seqE (p.new.rows.map fun a => vread s cx a p.new.rowBytes)
    .ok (q, uk, uv, rows)
  match inputs with
  | .error e => attStop s s d f p w.cycles e
  | .ok (q, uk, uv, rows) =>
    let ap := attAppend s cx p rows seqs
    match ap.2 with
    | some e => attStop s ap.1 d f p w.cycles e
    | none =>
      let r := attCompute ap.1 cx p q.toArray uk.toArray uv.toArray seqs
      let first := r.rows.findSome? fun e => (match e.2 with | .error x => some x | .ok _ => none)
      let run := runFaults ap.1 d w
      let key := genKeyOf s f p.cvt p.out
      let vals := r.rows.flatMap fun e => match e.2 with
        | .ok v => v
        | .error _ => List.replicate p.out.e0 0
      let good (i : Nat) : Bool := match r.rows[i]? with
        | some (_, .ok _) => true
        | _ => false
      let part := writeParts run.1 cx p.out (cvtSat p.cvt) key (fun i => w.drained.contains (i / p.out.e0) && good (i / p.out.e0)) vals
      match first, run.2 with
      | some .poison, _ => (match part with
        | .ok t => attStop s t d f p w.cycles .poison
        | .error e => attStop s run.1 d f p w.cycles e)
      | some e, _ => attStop s run.1 d f p w.cycles e
      | none, true => (match part with
        | .ok t => endF (attDead t d f) d stArith w.cycles
        | .error e => attStop s run.1 d f p w.cycles e)
      | none, false => match writeF32 run.1 cx p.out (cvtSat p.cvt) key vals with
        | .error e => attStop s run.1 d f p w.cycles e
        | .ok t =>
          endF ([p.q, p.new, p.wuk, p.wuv].foldl (fun u x => touchRead u cx x) (setIncs t p.layer r.incs)) d stOk w.cycles

/-- ATTEND's checks in the order of R263, then its work; before its layout is judged, a sequence in another running step holds it
(R278). Outside a STEP its own step commits as it completes (R264, R282). -/
def attendOp (s : State) (d : Nat) (f : Flight) (w : Work) : State :=
  if f.stepOf.isNone && (f.fEve || f.slotF == 0xFFFF) then attQuit s d f 0 (.st stMalformed)
  else match attPlan s d f with
    | .error e => attQuit s d f 0 e
    | .ok p =>
      let seqs := attSeqs s f p
      let top := f.stepOf.getD d
      match (seqs.findSome? fun e => slotStatus (getSlot s e.1).st) with
      | some c => attQuit s d f 0 (.st c)
      | none =>
        if seqs.any fun e => (getSlot s e.1).inStep.isSome && (getSlot s e.1).inStep != some top then s
        else
          let s1 := enterStep s d f
          if !(seqs.all fun e => layoutOk s1 f.part p (getSlot s1 e.1) e.2.2)
              || (seqs.map fun e => e.2.2).foldl (· + ·) 0 != (p.q.ext[1]?).getD 0 then attQuit s1 d f 0 (.st stMalformed)
          else attRun s1 d f p w seqs

/-- ATTEND. -/
def attend (d : Nat) (w : Work) (s : State) : State := withOp s d 0x3001 fun f => attendOp s d f w
def execAttend (d : Nat) (w : Work) (s : State) : Host.Outcome State Fault Refusal := .next (attend d w s)

/-- POOL_RESTART (R267): the stopped work begins again once what it needs is free; when its victims' swap-outs have ended
without giving it, the next victims are taken (R269). A STEP begins again at its start; a SWAP_IN that has waited for
victims begins again too (R273). -/
def poolRestart (d : Nat) (s : State) : State :=
  match getF s d with
  | none => s
  | some f =>
    match ((getPool s f.part).stopped.find? fun e => e.1 == d) with
    | none => s
    | some (_, needs, table) =>
      if f.phase ≠ .stopped then s
      else if needMet s f.part needs table then
        let s1 := unstop s f.part d
        if f.opcode = 0x6001 then putF s1 d { f with phase := .held }
        else enterStep (putF s1 d { f with phase := .started, remote := [] }) d f
      else if (swappingOut s f.part).isEmpty then
        let r := preempt s f.part needs table
        if r.2 then r.1
        else if f.opcode = 0x7021 then refuseF (unstop r.1 f.part d) d rNoResource
        else if f.opcode = 0x3001 then endF (unstop r.1 f.part d) d stPreempted 0
        else stopF r.1 d stPreempted
      else s
def execPoolRestart (d : Nat) (s : State) : Host.Outcome State Fault Refusal := .next (poolRestart d s)

end Sys2Proof.Machine
end

