-- ==== Sys2Proof/Machine/Kv.lean ====
section
/-! DEFINITION. The KV family: sequences, the pool, and swap images (R244-R255, R268-R274). -/

namespace Sys2Proof.Machine

/-- Whether the header's slot field is as the operation needs it (R244). -/
def kvSlotOk (f : Flight) : Bool := (f.opcode == 0x7010 || f.opcode == 0x7011) == (f.slotF == 0xFFFF)

/-- Whether a KV operation on a slot waits: for an earlier one of the slot, or for a swap under way (R246, R255). -/
def kvBusy (s : State) (d : Nat) (f : Flight) : Bool :=
  let st := (getSlot s f.slotF).st
  st == .swappingOut || st == .swappingIn
    || s.qe.flights.any fun e => e.1 != d && e.2.opcode / 4096 == 7 && e.2.slotF == f.slotF
      && (e.2.phase == .held || e.2.phase == .running || e.2.phase == .stopped)

/-- A KV operation on a slot: its header checked, held while the slot is busy. -/
def kvOp (s : State) (d op : Nat) (k : Flight → State) : State :=
  withOp s d op fun f =>
    if !kvSlotOk f then endF s d stMalformed 0
    else if kvBusy s d f then s
    else k f

/-! SEQ_OPEN, SEQ_CLOSE (R245, R246). -/

/-- The fields of a sequence parameter record, put into a slot (R245). -/
def seqFields (b : List Byte) (x : Slot) : Slot :=
  { x with
    seed := fld b 0 8, ident := fld b 8 4, layers := fld b 0xC 2, latent := fld b 0xE 2, rope := fld b 0x10 1
    format := fld b 0x11 1, chunkPages := fld b 0x12 2, home := fld b 0x14 2, priority := fld b 0x16 1, flags := fld b 0x17 1
    thinThreshold := fld b 0x18 4, thinDecay := fld b 0x1C 4, thinWindow := fld b 0x20 2 }

/-- A sequence parameter record read; none where a field breaks R245. -/
def parseSeq (s : State) (p : Nat) (b : List Byte) : Option Slot :=
  let x := seqFields b { st := .open_, boundAtOpen := (boundCores s p).length }
  let decay := d32 x.thinDecay
  let thin : Bool := decide (1 ≤ x.thinWindow) && decay != .nan && !flt x.thinDecay 0 && !flt one32 x.thinDecay
  if 1 ≤ x.layers ∧ x.layers ≤ 256 ∧ 64 ≤ x.latent ∧ x.latent ≤ 448 ∧ x.latent % 64 = 0 ∧ x.rope ≤ 64 ∧ x.rope % 2 = 0
      ∧ x.entrySize ≤ 512 ∧ (x.format = 3 ∨ x.format = 4) ∧ 4 ≤ x.chunkPages ∧ x.chunkPages ≤ 256 ∧ x.chunkPages % 4 = 0
      ∧ x.home < x.boundAtOpen ∧ x.priority ≤ 7 ∧ x.flags < 16 ∧ thin ∧ zeroAt b 0x22 30 then some x
  else none

/-- SEQ_OPEN. -/
def seqOpen (d : Nat) (s : State) : State :=
  kvOp s d 0x7001 fun f =>
    if !f.zeroFrom 0x28 then refuseF s d rBadField
    else match recordIn s (cxOf s f d) (f.op 0x20 8) 64 64 with
      | .error e => stopWith s d e
      | .ok b =>
        let x := parseSeq s f.part b
        refuseIf s d [(rBadField, x.isNone), (rExists, (getSlot s f.slotF).st != .free)] <|
        endF (putSlot s f.slotF (x.getD {})) d stOk 0
def execSeqOpen (d : Nat) (s : State) : Host.Outcome State Fault Refusal := .next (seqOpen d s)

/-- Whether a running step names a slot (R246, R278). -/
def slotStepped (s : State) (i : Nat) : Bool :=
  (getSlot s i).inStep.isSome
    || s.steps.runs.any fun e => e.2.started && e.2.seqs.any fun q => q.slot == i || q.companion == i

/-- A sequence closed: every page's reference dropped, its image discarded, its slot FREE (R246, R252). -/
def closeSeq (s : State) (p slot : Nat) : State :=
  let s1 := (tkeys (getSlot s slot).pages).foldl (fun t k => unmapPage t p slot k) s
  let s2 := freeImage s1 p slot
  { s2 with kv := { s2.kv with slots := tdel s2.kv.slots slot } }

/-- SEQ_CLOSE: held until a running step that names the slot ends. -/
def seqClose (d : Nat) (s : State) : State :=
  kvOp s d 0x7002 fun f =>
    refuseIf s d [(rBadField, !f.zeroFrom 0x20), (rNotFound, (getSlot s f.slotF).st == .free)] <|
    if slotStepped s f.slotF then putF s d { f with phase := .held }
    else endF (closeSeq s f.part f.slotF) d stOk 0
def execSeqClose (d : Nat) (s : State) : Host.Outcome State Fault Refusal := .next (seqClose d s)

/-! SEQ_FORK (R246, R253). -/

/-- Whether a page of the parent is shared with the child: it lies wholly below the length, or no entry of a running step
stands in it. -/
def forkShares (s : State) (p len : Nat) (key : Nat) (g : KvPage) : Bool :=
  decide (key % 2 ^ 32 * 16 + 16 ≤ len) || (!(getFrame s p g.at).evew && g.staging.isNone)

/-- The thin score of a page of the child, a copy of the parent's (R253); none for want of a frame or a table page. -/
def forkScore (s : State) (p parent child key : Nat) : Option State :=
  match mapThin s p child key with
  | .error _ => none
  | .ok t => some (putScore t p child key (scoreOf t p parent key))

/-- One page of the parent given to the child; the flag says that poison was copied. -/
def forkPage (s : State) (cx : Cx) (parent child len key : Nat) (g : KvPage) : Option (State × Bool) :=
  let p := cx.part
  let y := getSlot s child
  if forkShares s p len key g then
    let f := getFrame s p g.frame
    if 65535 ≤ f.refs then none
    else ((mapPage (setFrame s p g.frame { f with refs := f.refs + 1 }) p child key { frame := g.frame }).bind
      fun t => forkScore t p parent child key).map fun t => (t, false)
  else
    match pickFrame s p y key false with
    | none => none
    | some i =>
      let bs := frameBytes s (getFrame s p g.at).where_ ((len - key % 2 ^ 32 * 16) * (getSlot s parent).entrySize)
      ((mapPage (fillFrame (takeFrame s p i) cx i (wholePage bs)) p child key { frame := i }).bind
        fun t => forkScore t p parent child key).map fun t => (t, bs.any Prod.snd)

/-- The pages of the parent below the length given to the child. -/
def forkPages (s : State) (cx : Cx) (parent child len : Nat) : List (Nat × KvPage) → Option (State × Bool)
  | [] => some (s, false)
  | (k, g) :: r =>
    match forkPage s cx parent child len k g with
    | none => none
    | some (t, bad) => (forkPages t cx parent child len r).map fun u => (u.1, bad || u.2)

/-- The child's parameters: its record's, or the parent's. -/
def forkChild (s : State) (p len : Nat) (par : Slot) (rec_ : Option Slot) : Slot :=
  let x := rec_.getD par
  { st := .open_, seed := x.seed, ident := x.ident, layers := x.layers, latent := x.latent, rope := x.rope, format := x.format
    chunkPages := x.chunkPages, home := x.home, boundAtOpen := (boundCores s p).length, priority := x.priority, flags := x.flags
    thinThreshold := x.thinThreshold, thinDecay := x.thinDecay, thinWindow := x.thinWindow, settled := len
    thinned := par.thinned.filter fun k => decide (k % 2 ^ 32 * 16 < len) }

/-- SEQ_FORK. -/
def seqFork (d : Nat) (s : State) : State :=
  kvOp s d 0x7003 fun f =>
    let parent := f.op 0x20 2
    let len := f.op 0x24 4
    let ptr := f.op 0x28 8
    if 0x8000 ≤ parent then endF s d stMalformed 0
    else if !slotOf s f.part parent then endF s d stPermission 0
    else if !(f.zero 0x22 2 && f.zeroFrom 0x30) then refuseF s d rBadField
    else match (if ptr = 0 then .ok none else (recordIn s (cxOf s f d) ptr 64 64).map some) with
      | .error e => stopWith s d e
      | .ok b =>
        let rec_ := b.bind (parseSeq s f.part)
        let par := getSlot s parent
        let y := rec_.getD par
        let layout := y.layers == par.layers && y.latent == par.latent && y.rope == par.rope && y.format == par.format
        let pages := par.pages.filter fun e => decide (e.1 % 2 ^ 32 * 16 < len)
        let made := forkPages (putSlot s f.slotF (forkChild s f.part len par rec_)) (cxOf s f d) parent f.slotF len pages
        refuseIf s d [(rBadField, (b.isSome && rec_.isNone) || (par.st != .free && (decide (par.settled < len) || !layout))),
          (rNotFound, par.st == .free), (rExists, (getSlot s f.slotF).st != .free), (rWrongState, par.st != .open_),
          (rNoResource, made.isNone)] <|
        match made with
        | some (t, bad) => endF t d (if bad then stPoisoned else stOk) 0
        | none => s
def execSeqFork (d : Nat) (s : State) : Host.Outcome State Fault Refusal := .next (seqFork d s)

/-! SEQ_READ (R274). -/

/-- The readback record of a slot. -/
def readback (s : State) (p i : Nat) : List Byte :=
  let x := getSlot s i
  let code : Nat := match x.st with
    | .free => 0 | .open_ => 1 | .swappingOut => 2 | .swapped => 3 | .swappingIn => 4 | .failed => 5
  fit 64 (toLe 4 x.ident ++ toLe 1 code
    ++ toLe 1 (x.flags % 4 + (if x.inStep.isSome then 4 else 0)) ++ toLe 1 x.priority ++ toLe 1 0 ++ toLe 8 x.seed
    ++ toLe 4 x.settled ++ toLe 2 x.eveCount ++ toLe 2 x.layers ++ toLe 4 x.pages.length
    ++ toLe 4 (x.pages.filter fun e => decide (1 < (getFrame s p e.2.frame).refs)).length ++ toLe 4 x.thinned.length
    ++ toLe 4 x.swapCells.length ++ toLe 8 x.lastCommit ++ toLe 2 x.home ++ toLe 2 x.chunkPages)

/-- SEQ_READ. -/
def seqRead (d : Nat) (s : State) : State :=
  kvOp s d 0x7004 fun f =>
    refuseIf s d [(rBadField, !f.zeroFrom 0x28), (rNotFound, (getSlot s f.slotF).st == .free)] <|
    finishE s d 0 (vwrite s (cxOf s f d) (f.op 0x20 8) (readback s f.part f.slotF))
def execSeqRead (d : Nat) (s : State) : Host.Outcome State Fault Refusal := .next (seqRead d s)

/-! POOL_CONFIG, POOL_ADD (R247, R248). -/

/-- The physical ranges that local leaves of any partition map. -/
def leafRanges (s : State) : List (Nat × Nat) :=
  (tkeys s.parts).flatMap fun p => ((leavesOf s p).filter fun x => pteKind x.2.2 == 1).map fun x =>
    (pteFrame x.2.2, pteFrame x.2.2 + 2 ^ levelBit x.2.1)

/-- Whether frames are the partition's own, free of any use (R192, R193, R248). -/
def framesFree (s : State) (p : Nat) (frames : List Nat) : Bool :=
  let maps := leafRanges s
  frames.all fun fr => frameOk s p (fr * 8192) false false true
    && !maps.any fun r => decide (r.1 ≤ fr * 8192 ∧ fr * 8192 < r.2)

/-- The frames of a pool's backing: the frame table and the cell bitmap. -/
def backing (x : Pool) : List Nat :=
  if x.configured then ((List.range x.ftabFrames).map fun i => x.ftab / 8192 + i)
    ++ (List.range 512).map fun i => x.bitmap / 8192 + i
  else []

/-- A pool record read over a partition's pool; none where a field breaks R247. -/
def parsePool (x : Pool) (b : List Byte) : Option (Pool × Nat) :=
  let y : Pool := { x with
    configured := true, ftab := fld b 0 8, ftabFrames := fld b 8 4, victim := fld b 0xD 1, target := fld b 0xE 1
    remoteSlot := fld b 0xF 1, hostBase := fld b 0x10 8, hostCells := fld b 0x18 4, remoteCells := fld b 0x1C 4
    remotePage := fld b 0x20 4, bitmap := fld b 0x28 8, low := fld b 0x30 4, resume := fld b 0x34 4 }
  let range := fld b 0xC 1
  if y.ftab % 8192 = 0 ∧ y.bitmap % 8192 = 0 ∧ y.hostBase % 8192 = 0 ∧ 28 ≤ range ∧ range ≤ 31 ∧ y.victim ≤ 1 ∧ y.target ≤ 3
      ∧ y.hostCells ≤ 2 ^ 24 ∧ y.remoteCells ≤ 2 ^ 24 ∧ y.low ≤ y.resume ∧ zeroAt b 0x24 4 ∧ zeroAt b 0x38 8
      ∧ x.frames.length ≤ 2048 * y.ftabFrames then some (y, range)
  else none

/-- Whether two pool records differ in a structural field (R247). -/
def poolDiffers (x y : Pool) : Bool :=
  x.ftab != y.ftab || x.ftabFrames != y.ftabFrames || x.bitmap != y.bitmap || x.hostBase != y.hostBase
    || x.hostCells != y.hostCells || x.remoteSlot != y.remoteSlot || x.remoteCells != y.remoteCells
    || x.remotePage != y.remotePage

/-- POOL_CONFIG. Its frames make the partition owner of an unclaimed ANY grain, as a mapping would (R180, assumption 184). -/
def poolConfig (d : Nat) (s : State) : State :=
  withOp s d 0x7010 fun f =>
    if !kvSlotOk f then endF s d stMalformed 0
    else if !f.zeroFrom 0x28 then refuseF s d rBadField
    else match recordIn s (cxOf s f d) (f.op 0x20 8) 64 64 with
      | .error e => stopWith s d e
      | .ok b =>
        let p := f.part
        let x := getPool s p
        match parsePool x b with
        | none => refuseF s d rBadField
        | some (y, range) =>
          let changed := !x.configured || poolDiffers x y || range != rangeLog s p
          let old := backing x
          let new := backing y
          let s1 := { s with mem := { s.mem with tableTag := s.mem.tableTag.filter fun fr => !old.contains fr } }
          let used := s.kv.slots.any fun e => slotOf s p e.1 && e.2.st != .free
          refuseIf s d [(rPolicy, changed && !framesFree s1 p new), (rBusy, changed && used)] <|
          if !changed then endF (putPool s p y) d stOk 0
          else
            let s2 := new.foldl (fun t fr => claimGrain t p (fr * 8192)) (leaveBacking s1 x)
            let s3 := { s2 with mem := { s2.mem with tableTag := s2.mem.tableTag ++ new } }
            let s4 := putPool s3 p { y with hostUsed := [], remoteUsed := [] }
            let s5 := match getP s4 p with
              | some q => putP s4 p { q with rangeLog2 := range }
              | none => s4
            endF s5 d stOk 0
def execPoolConfig (d : Nat) (s : State) : Host.Outcome State Fault Refusal := .next (poolConfig d s)

/-- Whether pages of an imported window may back pool frames: the import holds POOL, and none is pooled (R248, R406). -/
def remoteFramesOk (s : State) (p imp pg n : Nat) : Bool :=
  (match importOf s p imp with
    | some im => im.bound && bit im.rights 4 && decide ((pg + n) * 8192 ≤ 2 ^ im.sizeLog2)
    | none => false)
    && !(getPool s p).frames.any fun f => match f.remote with
      | some (i, q) => i == imp && decide (pg ≤ q ∧ q < pg + n)
      | none => false

/-- POOL_ADD: one extent of frames, each FREE on its list; an unclaimed ANY grain becomes the partition's (assumption 184). -/
def poolAdd (d : Nat) (s : State) : State :=
  withOp s d 0x7011 fun f =>
    let p := f.part
    let first := f.op 0x20 8
    let n := f.op 0x28 4
    let fl := f.op 0x2C 1
    let rem := fl == 1
    let x := getPool s p
    let imp := first % 256
    let pg := first / 2 ^ 32
    let frames := (List.range n).map fun i => first / 8192 + i
    if !kvSlotOk f then endF s d stMalformed 0
    else
      refuseIf s d [(rBadField, decide (n = 0 ∨ 1 < fl) || !f.zeroFrom 0x2D
          || (if rem then decide (first / 256 % 2 ^ 24 ≠ 0) else decide (first % 8192 ≠ 0))),
        (rNoResource, decide (min (2 ^ 22) (2048 * (if x.configured then x.ftabFrames else 0)) < x.frames.length + n ∨ 256 ≤ x.extents)),
        (rPolicy, if rem then !remoteFramesOk s p imp pg n else decide (n ≤ 2 ^ 22) && !framesFree s p frames)] <|
      let new : List KvFrame := if rem then (List.range n).map fun i => { where_ := 0, remote := some (imp, pg + i) }
        else frames.map fun fr => { where_ := fr * 8192 }
      let s1 := if rem then s else frames.foldl (fun t fr => claimGrain t p (fr * 8192)) s
      let s2 := if rem then s1 else { s1 with mem := { s1.mem with kvTag := s1.mem.kvTag ++ frames } }
      endF (watermarks (putPool s2 p { x with frames := x.frames ++ new, extents := x.extents + 1 }) p) d stOk 0
def execPoolAdd (d : Nat) (s : State) : Host.Outcome State Fault Refusal := .next (poolAdd d s)

/-! SWAP_OUT, SWAP_IN (R246, R269-R273). -/

/-- A SWAP_OUT whose slot is OPEN and in no running step. -/
def swapOutNow (s : State) (d : Nat) (f : Flight) : State :=
  let r := startSwap s f.part f.slotF (some d) false
  match r.2 with
  | 0 => putF r.1 d { f with phase := .running }
  | 1 => refuseF r.1 d rNoResource
  | _ => endF r.1 d stPoisoned 0

/-- SWAP_OUT: held until a running step that names the slot ends. -/
def swapOut (d : Nat) (s : State) : State :=
  kvOp s d 0x7020 fun f =>
    refuseIf s d [(rBadField, !f.zeroFrom 0x20), (rWrongState, (getSlot s f.slotF).st != .open_)] <|
    if slotStepped s f.slotF then putF s d { f with phase := .held } else swapOutNow s d f
def execSwapOut (d : Nat) (s : State) : Host.Outcome State Fault Refusal := .next (swapOut d s)

/-- The partition that a slot belongs to. -/
def slotPart (s : State) (i : Nat) : Nat := ((tkeys s.parts).find? fun p => slotOf s p i).getD 0

/-- A swap-out that met poison: the slot is OPEN again (R461). -/
def swapPoison (s : State) (p slot : Nat) : State :=
  let by_ := (getSlot s slot).swapBy
  let s1 := swapReopen s p slot
  match by_ with
  | some d => endF s1 d stPoisoned 0
  | none => s1

/-- Whether messages of a slot's swap-out are unanswered. -/
def swapWaits (s : State) (slot kind : Nat) : Bool := s.plauf.out.any fun e => e.2.desc == slot && e.2.kind == kind

/-- SWAP_OUT_DONE (R272): the image formed and written, then, once every area has taken it, the frames released. -/
def swapOutDone (slot : Nat) (s : State) : State :=
  let x := getSlot s slot
  let p := slotPart s slot
  if x.st ≠ .swappingOut ∨ swapWaits s slot 6 then s
  else if !x.imaged then
    if swapPoisoned s p x then swapPoison s p slot
    else if x.swapRemote then writeImage s p slot else swapAway (writeImage s p slot) p slot
  else if swapWaits s slot 3 then s
  else swapAway s p slot
def execSwapOutDone (slot : Nat) (s : State) : Host.Outcome State Fault Refusal := .next (swapOutDone slot s)

/-- The reads of an image's cells in the remote window. -/
def readRemoteCells (s : State) (d p slot : Nat) : State :=
  let x := getSlot s slot
  let pl := getPool s p
  if !x.swapRemote then s
  else x.swapCells.foldl (fun t c => (List.range 4).foldl (fun u j =>
    request u d p pl.remoteSlot 1 6 7 slot ((pl.remotePage + c) * 8192 + 2048 * j) 0 0 32 []) t) s

/-- The pages of an image of n cells: n less its header and its index cells (R271). -/
def pagesOfCells (n : Nat) : Nat := ((List.range n).find? fun e => 1 + indexCells e + e == n).getD 0

/-- A SWAP_IN that finds too few frames or no table page: under MAY_PREEMPT, with victims to be had, it waits for them; else it
is refused (R246, R273). -/
def swapInShort (s : State) (d : Nat) (f : Flight) (needs : List Nat) (table : Bool) : State :=
  let p := f.part
  let r := preempt s p needs table
  if f.op 0x20 1 = 1 ∧ r.2 then
    putF (putPool r.1 p { getPool r.1 p with stopped := (getPool r.1 p).stopped ++ [(d, needs, table)] }) d { f with phase := .stopped }
  else refuseF s d rNoResource

/-- SWAP_IN: started once the frames its pages need are free; with too few, MAY_PREEMPT swaps victims out first. -/
def swapIn (d : Nat) (s : State) : State :=
  kvOp s d 0x7021 fun f =>
    let x := getSlot s f.slotF
    let p := f.part
    let fl := f.op 0x20 1
    refuseIf s d [(rBadField, decide (1 < fl) || !f.zeroFrom 0x21), (rWrongState, x.st != .swapped)] <|
    let needs := List.replicate (pagesOfCells x.swapCells.length) (4 + kindOf x false)
    if needMet s p needs false then
      readRemoteCells (putF (putSlot s f.slotF { x with st := .swappingIn, swapBy := some d }) d { f with phase := .running })
        d p f.slotF
    else swapInShort s d f needs false
def execSwapIn (d : Nat) (s : State) : Host.Outcome State Fault Refusal := .next (swapIn d s)

/-- A cell of a swap image as it is read back, from the host area or as the remote window has answered; none on a host error. -/
def cellRead (s : State) (p : Nat) (x : Slot) (c : Nat) : Option (List Byte) :=
  if x.swapRemote then some (mreadN x.fetched (8192 * c) 8192) else hread s ((getPool s p).hostBase + 8192 * c) 8192

/-- Bytes of a cell at a place of the image checked against a tag and deciphered; none when the tag fails (R270, R273). -/
def openCell (s : State) (p slot place : Nat) (ct tag : List Byte) : Option (List Byte) :=
  let x := getSlot s slot
  let key := (getKeys s p).swap.getD 0
  let iv := swapIv x.swapCount place
  if fit 16 (Config.gcmTag key iv (swapAad p slot x) ct) = tag then some (gcmCrypt key iv ct) else none

/-- Results that are all there, or none. -/
def allSome {α : Type} : List (Option α) → Option (List α)
  | [] => some []
  | a :: r => a.bind fun v => (allSome r).map fun l => v :: l

/-- The index entries of an image of k index cells, from the plaintext of its header (R271). -/
def imageIndex (s : State) (p slot k : Nat) (head : List Byte) : Option (List (List Byte)) :=
  (allSome ((List.range k).map fun i =>
    (cellRead s p (getSlot s slot) (fld head (0x80 + 4 * i) 4)).bind fun b =>
      openCell s p slot (1 + i) (b.take 8176) (b.drop 8176))).map fun l => l.flatMap fun b => chunks 32 (b.take 8160)

/-- A swap image read back and checked, cell by cell: its header's plaintext, and its pages as (layer, page, 8 KiB). None where a tag
fails, or a host read, whose bytes no tag can pass (R271, R273, assumption 168). -/
def openImage (s : State) (p slot : Nat) : Option (List Byte × List (Nat × Nat × List Byte)) :=
  let x := getSlot s slot
  (cellRead s p x ((x.swapCells.head?).getD 0)).bind fun hb =>
  (openCell s p slot 0 hb (toLe 16 x.swapTag)).bind fun head =>
  let e := fld head 0x44 4
  let k := fld head 0x48 2
  (imageIndex s p slot k head).bind fun idx =>
  (allSome ((idx.take e).zipIdx.map fun (en, i) =>
    (cellRead s p x (fld en 0 4)).bind fun b =>
      (openCell s p slot (1 + k + i) b (en.drop 16)).map fun pt => (fld en 4 2, fld en 8 4, pt))).map fun l => (head, l)

/-- The pages of an image put into fresh frames and mapped as private pages; none for want of a frame or a table page (R250,
R273). -/
def restorePages (s : State) (cx : Cx) (slot : Nat) : List (Nat × Nat × List Byte) → Option State
  | [] => some s
  | (l, pg, bs) :: r =>
    let p := cx.part
    let thin := l == 0xFFFF
    match pickFrame s p (getSlot s slot) (if thin then pageKey 0 pg else pageKey l pg) thin with
    | none => none
    | some i =>
      let put (t : State) := fillFrame t cx i (bs.map fun b => (b, false))
      (if thin then (mapThinPage s p slot pg i).map put
        else mapPage (put (takeFrame s p i)) p slot (pageKey l pg) { frame := i }).bind fun t => restorePages t cx slot r

/-- A slot restored from its image: OPEN with the stored parameters and settled length, its cells free again (R273). -/
def swapInOpen (s : State) (p slot : Nat) (head : List Byte) : State :=
  let y := seqFields (head.take 64) (getSlot s slot)
  freeImage (putSlot s slot { y with st := .open_, swapBy := none, settled := fld head 0x40 4 }) p slot

/-- SWAP_IN_DONE (R273): every cell is read and checked. With every tag good the pages are put into fresh frames; else the slot
is FAILED. -/
def swapInDone (slot : Nat) (s : State) : State :=
  let x := getSlot s slot
  let p := slotPart s slot
  match x.st, x.swapBy with
  | .swappingIn, some d =>
    if s.plauf.out.any fun e => e.2.desc == d && e.2.kind == 7 then s
    else match openImage s p slot with
      | none => endF (emit (putSlot s slot { x with st := .failed }) 6 7 { part := p } []) d stPoisoned 0
      | some (head, pages) => match restorePages s { part := p, desc := slot, rem := [] } slot pages with
        | some t => endF (swapInOpen t p slot head) d stOk 0
        | none => match getF s d with
          | none => s
          | some f => swapInShort (swapInBack s p slot) d f (pages.map fun _ => 4 + kindOf x false)
              ((tfind s.mem.tpool p).getD []).isEmpty
  | _, _ => s
def execSwapInDone (slot : Nat) (s : State) : Host.Outcome State Fault Refusal := .next (swapInDone slot s)

/-- KV_HELD_RESUME (R246): the step that named the slot has ended, so the oldest operation held behind it runs. -/
def kvHeldResume (slot : Nat) (s : State) : State :=
  match (s.qe.flights.find? fun e => e.2.phase == .held && (e.2.opcode == 0x7002 || e.2.opcode == 0x7020) && e.2.slotF == slot) with
  | none => s
  | some (d, f) =>
    if slotStepped s slot || s.pwr.pkg == .trip then s
    else
      let s1 := putF s d { f with phase := .started }
      if f.opcode = 0x7002 then seqClose d s1 else swapOut d s1
def execKvHeldResume (slot : Nat) (s : State) : Host.Outcome State Fault Refusal := .next (kvHeldResume slot s)

end Sys2Proof.Machine
end

