-- ==== Sys2Proof/Machine/Start.lean ====
section
/-! DEFINITION. Starting a descriptor (02, 04, 10): the cores that take it in, its wait, and its start. -/

namespace Sys2Proof.Machine

/-- Whether a descriptor may carry TRICKLE (R334): a MATMUL, CONV1D or element-wise CHAIN on one core, with WAIT, not
replayed. A record that cannot be read stops it as R68 says. -/
def trickleOk (s : State) (d : Nat) (f : Flight) : Except Stop Bool :=
  if !(f.fWait && f.stepOf.isNone && (f.opcode == 0x2001 || f.opcode == 0x1001 || f.opcode == 0x1010)) then .ok false
  else (recordIn s (cxOf s f d) (f.op 0x38 8) (if f.opcode = 0x2001 then 128 else 64) 64).map fun b =>
    let lastCode := fld b (0x18 + 4 * (fld b 0 1 - 1)) 1
    if f.opcode = 0x2001 then fld b 4 2 == 1 && !decide (0x30 ≤ lastCode ∧ lastCode ≤ 0x32) else fld b 0x1E 2 == 1

/-- The count the stream counter needs for index 0 of a TRICKLE descriptor (R334). -/
def trickleStart (s : State) (d : Nat) (f : Flight) : Except Stop Nat :=
  match trickleOk s d f with
  | .error e => .error e
  | .ok false => .error (.st stMalformed)
  | .ok true => match operand s (cxOf s f d) (f.op 0x20 8) with
    | .error e => .error e
    | .ok t =>
      let e1 := (t.ext[1]?).getD 1
      if f.waitT < e1 then .error (.st stMalformed) else .ok (f.waitT - e1 + 1)

/-- The count that the wait of a descriptor needs to start (R62, R303, R334). -/
def startTarget (s : State) (d : Nat) (f : Flight) : Except Stop Nat :=
  if f.fTrickle then trickleStart s d f else .ok f.waitT

/-- Whether the wait of a descriptor is met at its first test (R62, R303, R334); one across a severed fabric is not
tested (R306). -/
def startWait (s : State) (f : Flight) (target : Nat) : Bool :=
  !f.fWait || (!counterFar s f.waitC && waitMet s f.part f.waitC target)

/-- The cores that take part in an ATTEND (R261): the home cores of the chunks it attends, and those with a share of the absorption
and of the merge, whose units are one sequence's row of one head. -/
def attCores (s : State) (f : Flight) (p : AttPlan) : List Nat :=
  let seqs := attSeqs s f p
  let homes := seqs.flatMap fun e =>
    let x := getSlot s e.1
    (List.range (cdiv (x.lenIn p.layer + e.2.2) (16 * max 1 x.chunkPages))).map fun k => homeCore s f.part x p.layer k
  let rows := (seqs.map fun e => e.2.2).foldl (· + ·) 0
  (homes ++ (sharesOf (boundCores s f.part) (rows * p.heads)).map Prod.fst).eraseDups

/-- The cores whose sequencers take a descriptor in (R113): those that its work is divided among (R136, R154, R166, R261); none for
a chain placed near-bank (R216), or one whose records cannot be read, which its operation refuses. -/
def descCores (s : State) (d : Nat) (f : Flight) : List Nat :=
  let cx := cxOf s f d
  if f.opcode / 4096 = 1 then match matPlan s d f with
    | .ok p => (takingPart s f.part p).map Prod.fst
    | .error _ => []
  else if f.opcode = 0x2001 then match chainPlan s d f with
    | .ok (ch, p) => if nearPlaced s cx f ch p then [] else (chainShares s f.part ch p).map Prod.fst
    | .error _ => []
  else if f.opcode = 0x2010 then match recordIn s cx (f.op 0x38 8) 64 64, operand s cx (f.op 0x30 8) with
    | .ok b, .ok o => (sharesOf (coreSet s f.part (fld b 0x10 2) (fld b 0x12 2)) (o.count / o.e0)).map Prod.fst
    | _, _ => []
  else if f.opcode = 0x2020 then match recordIn s cx (f.op 0x38 8) 64 64, operand s cx (f.op 0x20 8) with
    | .ok b, .ok z => sampleCores s f.part (fld b 0x14 2) (fld b 0x16 2) (fld b 0x18 1) z.e0 ((z.ext[1]?).getD 1)
    | _, _ => []
  else if f.opcode = 0x3001 then match attPlan s d f with
    | .ok p => attCores s f p
    | .error _ => []
  else []

/-- Whether the intakes of a descriptor's cores have a free slot, and none is being substituted or waits for
its die (R113, R372, R473). -/
def intakeFree (s : State) (d : Nat) (f : Flight) : Bool :=
  (descCores s d f).all fun c => decide ((getCore s c).intake.length < 8) && !coreDown s c && !s.flt.subst.any fun u => u.core == c

/-- A descriptor put into the intakes of its cores. -/
def enterIntake (s : State) (d : Nat) (f : Flight) : State :=
  (descCores s d f).foldl (fun t c => putCore t c { getCore t c with intake := (getCore t c).intake ++ [d] }) s

/-- Whether a descriptor holds a place in a core's intake. -/
def inIntake (s : State) (d : Nat) : Bool := s.flt.cores.any fun e => e.2.intake.contains d

/-- Whether tenant work of a partition is held back now (R78, R313, R484, R565). -/
def startHeld (s : State) (f : Flight) : Bool :=
  f.q != 0 && (s.pwr.pkg != .run || (match getP s f.part with
    | some x => x.st == .parked || x.inReset || x.fetchStopped
    | none => false))

/-- A checked descriptor whose fence is met: it enters its cores' intakes, and starts there once its wait is met; one for no
core waits in the queue engine (R63, R113, R303, R305). -/
def startChecked (s : State) (d : Nat) (f : Flight) (target : Nat) : State :=
  let here := inIntake s d
  let met := startWait s f target
  if !met then (if here || !intakeFree s d f then s else enterIntake s d f)
  else match slotCheck s f with
    | some st => endF s d st 0
    | none =>
      if here then enterStep (putF s d { f with phase := .started }) d f
      else if !intakeFree s d f then s else enterStep (enterIntake (putF s d { f with phase := .started }) d f) d f

/-- DESCRIPTOR_START (R63): at the head of its queue, with a completion slot, the header is checked; then the fence must be
met, and the descriptor enters the intakes of its cores, where its wait is tested (R303). -/
def descriptorStart (d : Nat) (s : State) : State :=
  match getF s d with
  | none => s
  | some f0 =>
    if f0.phase ≠ .fetched ∨ f0.stepOf.isSome then s
    else if !headOfQueue s d f0 || startHeld s f0 then s
    else
      let (t, ok) := takeSlot s d f0
      match getF t d with
      | none => t
      | some f =>
        if !ok then t
        else match headerCheck t f with
          | some (st, ex) => endF t d st ex
          | none => match startTarget t d f with
            | .error e => stopWith t d e
            | .ok target => if !fenceMet t d f then t else startChecked t d f target
def execDescriptorStart (d : Nat) (s : State) : Host.Outcome State Fault Refusal := .next (descriptorStart d s)

end Sys2Proof.Machine
end

