-- ==== Sys2Proof/Machine/Rota.lean ====
section
/-! DEFINITION. Rotas, steps and TRICKLE (R275-R338). -/

namespace Sys2Proof.Machine

/-! ROTA_BIND, ROTA_UNBIND (R315-R319). -/

/-- The operations a rota may hold (R316). -/
def rotaOps : List Nat :=
  [0x0001, 0x0002, 0x1001, 0x1010, 0x1011, 0x2001, 0x2002, 0x2003, 0x2010, 0x2020, 0x3001, 0x4001, 0x5001, 0x8000, 0x8001,
   0x8002, 0x9001, 0x9002, 0x9003, 0x9004, 0x9010, 0x9011, 0x9012, 0x9013, 0x9020, 0x9021]

/-- The status a rota entry fails with by R65 checks 1 and 4, R316 and R317, if it does. -/
def rotaEntryBad (e : Flight) (first count : Nat) : Option Nat :=
  if !rotaOps.contains e.opcode || !opcodes.contains e.opcode || bit e.flags 7 || decide (8 ≤ e.op 3 1)
      || e.slotF != 0xFFFF || e.fTrickle then some stMalformed
  else if (e.fWait && decide (1023 < e.waitC)) || (e.fSignal && decide (1023 < e.sigC)) then some stPermission
  else if e.fWait && !decide (first ≤ e.waitC ∧ e.waitC < first + count) then some stMalformed
  else none

/-- A rota's entry as a descriptor. -/
def entryOf (b : List Byte) : Flight := { words := toWords b }

/-- Whether an ATTEND entry names a parameter record that holds an n (R317); one that cannot be read yet is judged when it is
replayed (assumption 173). -/
def attendBad (s : State) (cx : Cx) (e : Flight) : Bool :=
  e.opcode == 0x3001 && (match vread s cx (e.op 0x38 8 + 0x20) 2 with
    | .ok b => leNat b != 0
    | .error _ => false)

/-- The index of the first entry of a rota that breaks a rule. -/
def badEntry (s : State) (cx : Cx) (b : List Byte) (first count : Nat) : Option Nat :=
  (chunks 64 b).findIdx? fun e => (rotaEntryBad (entryOf e) first count).isSome || attendBad s cx (entryOf e)

/-- ROTA_BIND. A refusal that names an entry holds its index in extra[27:12]. -/
def rotaBind (d : Nat) (s : State) : State :=
  withOp s d 0x6010 fun f =>
    let id_ := f.op 0x20 1
    let first := f.op 0x22 2
    let count := f.op 0x24 2
    let n := f.op 0x26 2
    let base := f.op 0x28 8
    let key := 256 * f.part + id_
    let overlap := s.steps.rotas.any fun e => e.1 / 256 == f.part && e.1 != key && decide (0 < count ∧ 0 < e.2.privCount
      ∧ first < e.2.firstPriv + e.2.privCount ∧ e.2.firstPriv < first + count)
    let field : Bool := !f.zero 0x21 1 || !f.zeroFrom 0x30 || overlap
      || decide (64 < count ∨ 1024 < first + count ∨ 1023 < first ∨ n < 1 ∨ 4096 < n ∨ base = 0 ∨ base % 64 ≠ 0)
    if field then refuseF s d rBadField
    -- a rota in the sequence ranges (R241)
    else if 2 ^ 47 < base + 64 * n ∧ base < 2 ^ 48 then endF s d stPermission 0
    else match vread s (cxOf s f d) base (64 * n) with
      | .error e => stopWith s d e
      | .ok b => match badEntry s (cxOf s f d) b first count with
        | some i => refuseF s d (rBadField + i * 4096)
        | none =>
          refuseIf s d [(rExists, (tfind s.steps.rotas key).isSome)] <|
          endF { s with steps := { s.steps with
            rotas := tput s.steps.rotas key { base := base, entries := n, firstPriv := first, privCount := count } } } d stOk 0
def execRotaBind (d : Nat) (s : State) : Host.Outcome State Fault Refusal := .next (rotaBind d s)

/-- Whether a running STEP names a rota. -/
def rotaRuns (s : State) (p id_ : Nat) : Bool :=
  s.steps.runs.any fun e => e.2.started && e.2.rota == id_ && ((getF s e.1).map (·.part)) == some p

/-- ROTA_UNBIND. -/
def rotaUnbind (d : Nat) (s : State) : State :=
  withOp s d 0x6011 fun f =>
    let key := 256 * f.part + f.op 0x20 1
    refuseIf s d [(rBadField, !f.zeroFrom 0x21), (rNotFound, (tfind s.steps.rotas key).isNone),
      (rBusy, rotaRuns s f.part (f.op 0x20 1))] <|
    endF { s with steps := { s.steps with rotas := tdel s.steps.rotas key } } d stOk 0
def execRotaUnbind (d : Nat) (s : State) : Host.Outcome State Fault Refusal := .next (rotaUnbind d s)

/-! RUN (R321-R328). -/

/-- What a step record asks for, with each row's token and position. -/
structure StepPlan where
  run : StepRun
  tokens : List Nat
  positions : List Nat
  embed : Option (Tensor × Tensor)

/-- Whether n bytes at an address translate outside the sequence ranges (R241, R326). -/
def rangeOk (s : State) (cx : Cx) (va n : Nat) : Except Stop Unit :=
  if 2 ^ 47 < va + n then (if va < 2 ^ 48 then .error (.st stPermission) else .error (.trans va))
  else if n = 0 then .ok ()
  else (seqE ((List.range ((va + n - 1) / 8192 - va / 8192 + 1)).map fun i =>
    xlate s cx.part (max va ((va / 8192 + i) * 8192)))).map fun _ => ()

/-- 32-bit numbers at an address outside the sequence ranges. -/
def intsAt (s : State) (cx : Cx) (va n : Nat) : Except Stop (List Nat) :=
  match rangeOk s cx va (4 * n) with
  | .error e => .error e
  | .ok () => (vread s cx va (4 * n)).map fun b => (chunks 4 b).map leNat

/-- The fields of a sequence entry checked (R322); its tokens are read later. -/
def seqEntry (verify : Bool) (b : List Byte) : Option StepSeq :=
  let q : StepSeq :=
    { slot := fld b 0 2, companion := fld b 2 2, n := fld b 4 2, depth := fld b 6 1, rule := fld b 7 1, x := fld b 8 4
      outHost := bit (fld b 0xC 4) 0, tokens := [], qd := fld b 0x18 8, output := fld b 0x20 8, firstRow := fld b 0x10 8 }
  let tok := fld b 0x10 8
  let ok : Bool := zeroAt b 0x28 24 && decide (fld b 0xC 4 < 2)
    && (if verify then q.n == 0 && decide (1 ≤ q.depth ∧ q.depth ≤ 15 ∧ q.rule ≤ 1) && (q.rule == 1) == (q.qd != 0)
        else decide (1 ≤ q.n ∧ q.n ≤ 4096) && q.depth == 0 && q.rule == 0 && q.companion == 0xFFFF && q.qd == 0
          && (decide (1 < q.n) || tok == 0))
  if ok then some q else none

/-- The slots and companions a step names. -/
def stepNames (l : List StepSeq) : List Nat :=
  l.flatMap fun q => q.slot :: (if q.companion = 0xFFFF then [] else [q.companion])

/-- Whether no number stands twice in a list. -/
def distinct : List Nat → Bool
  | [] => true
  | a :: r => !r.contains a && distinct r

/-- The tokens of a sequence's rows, after its drafts or input tokens are read (R323). -/
def rowTokens (s : State) (cx : Cx) (verify : Bool) (q : StepSeq) : Except Stop StepSeq :=
  if verify then (intsAt s cx q.firstRow q.depth).map fun l => { q with tokens := l }
  else if 1 < q.n then (intsAt s cx q.firstRow q.n).map fun l => { q with tokens := l }
  else .ok q

/-- A step record read and checked (R321-R326). -/
def stepPlan (s : State) (d : Nat) (f : Flight) : Except Stop StepPlan := do
  let cx := cxOf s f d
  let rid := f.op 0x28 1
  needs (f.slotF == 0xFFFF && !f.fTrickle && f.zeroFrom 0x29 && (tfind s.steps.rotas (256 * f.part + rid)).isSome)
  let h ← recordIn s cx (f.op 0x20 8) 64 64
  let count := fld h 0 2
  let rows := fld h 4 4
  let verify := fld h 2 1 == 1
  let sample := fld h 0x30 8
  needs (decide (1 ≤ count ∧ count ≤ 1024 ∧ fld h 2 1 ≤ 1 ∧ 1 ≤ rows ∧ rows ≤ 65536) && zeroAt h 3 1
    && decide (fld h 8 8 ≠ 0 ∧ (fld h 0x20 8 ≠ 0 ∨ fld h 0x28 8 = 0)) && !(verify && sample == 0))
  rangeOk s cx (fld h 8 8) (64 * count)
  let eb ← vread s cx (fld h 8 8) (64 * count)
  let raw := (chunks 64 eb).filterMap (seqEntry verify)
  needs (raw.length == count && distinct (stepNames raw)
    && ((raw.map fun q => if verify then q.depth + 1 else q.n).foldl (· + ·) 0) == rows)
  -- PERMISSION, then the states of R237
  (if (stepNames raw).all (fun i => decide (i < 0x8000) && slotOf s f.part i) && !(isSealed s f.part && raw.any (·.outHost)) then .ok ()
    else .error (.st stPermission))
  (match (stepNames raw).findSome? fun i => slotStatus (getSlot s i).st with
    | some c => .error (.st c)
    | none => .ok ())
  let seqs ← seqE (raw.map (rowTokens s cx verify))
  rangeOk s cx (fld h 0x10 8) (4 * rows)
  rangeOk s cx (fld h 0x18 8) (4 * rows)
  if sample = 0 then .ok () else rangeOk s cx sample (4 * rows)
  let _ ← seqE (seqs.map fun q => if q.outHost then .ok () else rangeOk s cx q.output 128)
  let _ ← seqE (seqs.map fun q => if q.qd = 0 then .ok () else do
    let t ← operand s cx q.qd
    needs (t.fmt == 0 && t.ext.length == 2 && (t.ext[1]?).getD 0 == q.depth))
  let emb ← if fld h 0x20 8 = 0 then .ok none else do
    let cx1 := { cx with rows := some rows }
    let t ← operand s cx1 (fld h 0x20 8)
    let o ← operand s cx1 (fld h 0x28 8)
    needs (t.ext.length == 2 && o.fmt == t.fmt && o.ext == [t.e0, rows])
    .ok (some (t, o))
  let toks := seqs.flatMap fun q => if verify then q.x :: q.tokens else if q.n = 1 then [q.x] else q.tokens
  let pos := seqs.flatMap fun q => (List.range (if verify then q.depth + 1 else q.n)).map fun i => (getSlot s q.slot).settled + i
  .ok { run := { rota := rid, verify := verify, rows := rows, seqs := seqs, rowTokens := fld h 0x10 8
                 rowPositions := fld h 0x18 8, sample := sample, energy := fld h 0x38 8, bases := [] }
        tokens := toks, positions := pos, embed := emb }

/-- Whether a running step keeps a STEP from starting: it replays the same rota, or names one of the same sequences (R278,
R327). -/
def stepConflict (s : State) (d : Nat) (f : Flight) (r : StepRun) : Bool :=
  (s.steps.runs.any fun e => e.1 != d && e.2.started && ((getF s e.1).map (·.part)) == some f.part
    && (e.2.rota == r.rota || (stepNames e.2.seqs).any fun i => (stepNames r.seqs).contains i))
    || (stepNames r.seqs).any fun i => (getSlot s i).inStep.isSome && (getSlot s i).inStep != some d

/-- The embedding rows gathered (R328). A token outside the vocabulary has no column: its row is free (assumption 54). -/
def gather (s : State) (cx : Cx) (t o : Tensor) (tokens : List Nat) : Except Stop State :=
  foldE (fun u (e : Nat × Nat) =>
    let vocab := (t.ext[1]?).getD 1
    let src := (t.rows[e.1]?).getD 0
    let dst := (o.rows[e.2]?).getD 0
    let free := decide (vocab ≤ e.1)
    let fb := takeBytes u (t.rowBytes + t.rowScales)
    match (if free then .ok (fb.1.take t.rowBytes) else vread u cx src t.rowBytes) with
    | .error x => .error x
    | .ok b => match vwrite (if free then fb.2 else u) cx dst b with
      | .error x => .error x
      | .ok v =>
        if !isMx t.fmt then .ok v
        else match (if free then .ok (fb.1.drop t.rowBytes) else vread u cx (t.scale + e.1 * t.rowScales) t.rowScales) with
          | .error x => .error x
          | .ok sc => vwrite v cx (o.scale + e.2 * t.rowScales) sc) s tokens.zipIdx

/-- A STEP started (R328): rows and positions written, embeddings gathered, the bases recorded, its sequences in the step. -/
def startStep (s : State) (d : Nat) (f : Flight) (p : StepPlan) : Except Stop State := do
  let cx := cxOf s f d
  let u ← vwrite s cx p.run.rowTokens (p.tokens.flatMap (toLe 4))
  let v ← vwrite u cx p.run.rowPositions (p.positions.flatMap (toLe 4))
  let w ← match p.embed with
    | none => .ok v
    | some (t, o) => gather v cx t o p.tokens
  let x := (tfind w.steps.rotas (256 * f.part + p.run.rota)).getD { base := 0, entries := 0, firstPriv := 0, privCount := 0 }
  let run := { p.run with started := true, begun := true
                          bases := (List.range x.privCount).map fun i => ctrOf w f.part (x.firstPriv + i) }
  let t := putF { w with steps := { w.steps with runs := tput w.steps.runs d run } } d { f with phase := .running }
  .ok ((stepNames run.seqs).foldl (fun a i => putSlot a i { getSlot a i with inStep := some d }) t)

/-- A STEP checked, then started or held (R326-R328). -/
def beginStep (s : State) (d : Nat) (f : Flight) : State :=
  match stepPlan s d f with
  | .error e => stopWith { s with steps := { s.steps with runs := tdel s.steps.runs d } } d e
  | .ok p =>
    if stepConflict s d f p.run then
      putF { s with steps := { s.steps with runs := tput s.steps.runs d p.run } } d { f with phase := .held }
    else match startStep s d f p with
      | .ok t => t
      | .error e => stopWith { s with steps := { s.steps with runs := tdel s.steps.runs d } } d e

/-- RUN. -/
def run (d : Nat) (s : State) : State := withOp s d 0x6001 fun f => beginStep s d f
def execRun (d : Nat) (s : State) : Host.Outcome State Fault Refusal := .next (run d s)

/-- STEP_RELEASE (R327): a held STEP starts once the steps it waited for have ended; its checks are made again, so that one
whose binding is gone ends MALFORMED. -/
def stepRelease (d : Nat) (s : State) : State :=
  match getF s d with
  | none => s
  | some f =>
    if f.opcode = 0x6001 ∧ f.phase = .held ∧ s.pwr.pkg = .run then
      match getP s f.part with
      | none => s
      | some x =>
        if x.st = .parked then s
        else if x.st = .offline ∨ !x.fences.isEmpty then
          endF { s with steps := { s.steps with runs := tdel s.steps.runs d } } d stOffline 0
        else match tfind s.steps.runs d with
          | some r => if stepConflict s d f r then s else beginStep s d f
          | none => beginStep s d f
    else s
def execStepRelease (d : Nat) (s : State) : Host.Outcome State Fault Refusal := .next (stepRelease d s)

/-! Replay (R329, R330). -/

/-- The words of a replayed entry: the STEP's class and deadline; WAIT is tested here, and CMPL and IRQ do not count (R317). -/
def replayWords (b : List Byte) (f : Flight) : List Nat :=
  let flags := ((b[2]?).getD 0).toNat
  let keep := (if bit flags 1 then 2 else 0) + (if bit flags 2 then 4 else 0) + (if bit flags 3 then 8 else 0)
  toWords (b.take 2 ++ toLe 1 keep ++ toLe 1 f.cls ++ toLe 4 f.deadline ++ b.drop 8)

/-- A rota entry that cannot be dispatched fails the step (R320, R330). -/
def failEntry (s : State) (k idx st : Nat) (r : StepRun) : State :=
  stepSettle { s with steps := { s.steps with runs := tput s.steps.runs k { r with done := r.done ++ [(idx, st)] } } } k

/-- The status code of a stop, for an entry that could not be read. -/
def stopCode (x : Stop) : Nat :=
  match x with
  | .trans _ => stTranslation
  | .denied _ => stPermission
  | .poison => stPoisoned
  | .need _ => stTranslation
  | .wait => stTranslation
  | .pool .. => stPreempted
  | .st c => c

/-- Whether an entry is issued by the step sequencer of base die A and runs on no core (R329). -/
def issued (e : Flight) : Bool := [0, 4, 5, 8, 9].contains (e.opcode / 4096)

/-- The entries of a STEP that have been dispatched and have not started. -/
def unstarted (s : State) (r : StepRun) : List (Nat × Flight) :=
  r.live.filterMap fun e => (getF s e.2).bind fun g => if g.phase == .started && !g.begun then some (e.1, g) else none

/-- Whether an entry may be dispatched after those not yet started: at most 64 ahead of the earliest, and an issued entry in its turn
(R329). -/
def mayDispatch (s : State) (r : StepRun) (e : Flight) : Bool :=
  let l := unstarted s r
  (match l with
    | [] => true
    | x :: _ => decide (r.next ≤ x.1 + 64)) && !(issued e && l.any fun x => issued x.2)

/-- ROTA_ENTRY_DISPATCH: the next entry of a STEP in replay, once its FENCE, its WAIT, the entries before it and its cores' intakes
admit it. -/
def rotaEntryDispatch (d : Nat) (s : State) : State :=
  match getF s d, tfind s.steps.runs d with
  | some f, some r =>
    match tfind s.steps.rotas (256 * f.part + r.rota) with
    | none => s
    | some x =>
      if !r.started || f.phase != .running || decide (x.entries ≤ r.next) then s
      else match vread s (cxOf s f d) (x.base + 64 * r.next) 64 with
        | .error (.need va) => stopWith s d (.need va)
        | .error .wait => s
        | .error e => failEntry s d r.next (stopCode e) r
        | .ok b =>
          let e := entryOf b
          match rotaEntryBad e x.firstPriv x.privCount with
          | some c => failEntry s d r.next c r
          | none =>
            if acrossFabric s e then failEntry s d r.next stOffline r else
            let child : Flight := { fn := f.fn, q := f.q, slot := r.next, part := f.part, words := replayWords b f
                                    fetchTime := f.fetchTime, phase := .started, stepOf := some d, noRecord := true }
            let n := s.qe.nextFlight
            let waits := !mayDispatch s r e || (e.fFence && !r.live.isEmpty)
              || (e.fWait && !waitMet s f.part e.waitC (waitTarget s child e.waitC e.waitT))
            if waits then s
            else
              let s1 := putF { s with
                qe := { s.qe with nextFlight := n + 1 }
                steps := { s.steps with runs := tput s.steps.runs d { r with next := r.next + 1, live := r.live ++ [(r.next, n)] } } }
                n child
              if intakeFree s1 n child then enterIntake s1 n child else s
  | _, _ => s
def execRotaEntryDispatch (d : Nat) (s : State) : Host.Outcome State Fault Refusal := .next (rotaEntryDispatch d s)

/-! Commit (R282-R292, R324, R331, R332). -/

/-- What a sequence confirms: accepted drafts, the tokens, and how far its settled length advances. -/
structure Accepted where
  a : Nat
  tokens : List Nat
  advance : Nat

/-- Drafts accepted under MATCH (R289). A token outside every vocabulary never equals a sample. -/
def matchCount : List Nat → List Nat → Nat
  | x :: r, t :: u => if x = t ∧ t ≠ 0xFFFFFFFF then 1 + matchCount r u else 0
  | _, _ => 0

/-- A draft probability; a token outside the tensor has none. -/
def draftProb (t : Tensor) (qd : List Nat) (i tok : Nat) : Nat := if tok < t.e0 then (qd[i * t.e0 + tok]?).getD 0 else 0

/-- Drafts accepted under RATIO from row i on (R290). -/
def ratioCount (x : Slot) (s0 : Nat) (t : Tensor) (qd : List Nat) (cand : List (List (Nat × Nat))) (i : Nat) : List Nat → Nat
  | [] => 0
  | tok :: r =>
    let p := (((cand[i]?).getD []).find? fun c => c.1 == tok).map Prod.snd
    let f := drawF (genWord x.seed x.ident 0xFF01 (s0 + i) 0)
    if flt (fmul f (draftProb t qd i tok)) (p.getD 0) then 1 + ratioCount x s0 t qd cand (i + 1) r else 0

/-- The token after the first rejected draft under RATIO. -/
def ratioToken (x : Slot) (s0 : Nat) (t : Tensor) (qd : List Nat) (row : List (Nat × Nat)) (a sample : Nat) : Nat :=
  let rs := row.map fun c => fmax (fsub c.2 (draftProb t qd a c.1)) 0
  if rs.all fun v => veq (d32 v) (d32 0) then sample
  else
    let sums := runSums rs
    let i := drawAt sums (sums.length - 1) (drawF (genWord x.seed x.ident 0xFF00 (s0 + a) 0))
    ((row[i]?).getD (sample, 0)).1

/-- The acceptance of one sequence from the samples of its rows (R288-R291, R324). -/
def acceptSeq (s : State) (cx : Cx) (r : StepRun) (q : StepSeq) (samples : List Nat) : Except Stop Accepted :=
  if !r.verify then
    .ok { a := 0, tokens := if r.sample = 0 then [] else [(samples[q.n - 1]?).getD 0], advance := q.n }
  else
    let x := getSlot s q.slot
    let at_ (i : Nat) := (samples[i]?).getD 0
    if q.rule = 0 then
      let a := matchCount q.tokens samples
      .ok { a := a, tokens := q.tokens.take a ++ [at_ a], advance := a + 1 }
    else do
      let t ← operand s cx q.qd
      needs (r.vocab == 0 || t.e0 == r.vocab)
      let qd ← widenT s cx t
      let a := ratioCount x x.settled t qd q.cand 0 q.tokens
      let tok := if a = q.depth then at_ a else ratioToken x x.settled t qd ((q.cand[a]?).getD []) a (at_ a)
      .ok { a := a, tokens := q.tokens.take a ++ [tok], advance := a + 1 }

/-- The output record of a sequence (R324). -/
def outputRecord (s : State) (slot : Nat) (v : Accepted) : List Byte :=
  fit 128 (toLe 1 v.tokens.length ++ toLe 1 v.a ++ toLe 2 0 ++ toLe 4 (getSlot s slot).settled ++ toLe 8 s.time.now
    ++ fit 64 (v.tokens.flatMap (toLe 4)))

/-- One sequence committed, with its companion (R283, R291, R292). -/
def commitSeq (s : State) (cx : Cx) (q : StepSeq) (v : Accepted) : State :=
  let s1 := endSequence s cx q.slot ((getSlot s q.slot).settled + v.advance) true
  if q.companion = 0xFFFF then s1
  else
    let y := getSlot s1 q.companion
    endSequence s1 cx q.companion (y.settled + min v.advance y.eveCount) true

/-- An output record written; one that cannot be is dropped (R331). -/
def writeOutput (s : State) (cx : Cx) (q : StepSeq) (v : Accepted) : State :=
  let b := outputRecord s q.slot v
  let drop := emit s 4 0x13 { part := cx.part } []
  if q.outHost then (if hostBad s q.output 128 then drop else hwrite s q.output b)
  else match vwrite s cx q.output b with
    | .ok t => t
    | .error _ => drop

/-- What keeps an output record from being written for now: memory that is held, or a remote unit to be read first. -/
def outputWaits (s : State) (cx : Cx) (q : StepSeq) : Option Stop :=
  if q.outHost then none
  else match vwrite s cx q.output (List.replicate 128 0) with
    | .error .wait => some .wait
    | .error (.need va) => some (.need va)
    | _ => none

/-- The samples of each sequence's rows, in entry order. -/
def splitRows : List Nat → List Nat → List (List Nat)
  | [], _ => []
  | n :: r, l => l.take n :: splitRows r (l.drop n)

/-- STEP_COMMIT: acceptance, the commit of every sequence, the output records, the learned energy, and the STEP's status
(R287). -/
def stepCommit (d energyA energyB duration : Nat) (s : State) : State :=
  match getF s d, tfind s.steps.runs d with
  | some f, some r =>
    match tfind s.steps.rotas (256 * f.part + r.rota) with
    | none => s
    | some x =>
      if !r.started || f.phase != .running || !r.live.isEmpty || decide (r.next < x.entries) then s
      else
        let cx := cxOf s f d
        let acc : Except Stop (List (StepSeq × Accepted)) := do
          let samples ← if r.sample = 0 then .ok [] else intsAt s cx r.sample r.rows
          seqE ((r.seqs.zip (splitRows (r.seqs.map (seqRows r)) samples)).map fun e =>
            (acceptSeq s cx r e.1 e.2).map fun v => (e.1, v))
        -- a signal across a severed fabric fails the step before its commit (R366)
        if f.fSignal && counterFar s f.sigC then stopF s d stOffline
        else match acc with
        | .error (.need va) => stopWith s d (.need va)
        | .error .wait => s
        | .error e => stopF s d (stopCode e)
        | .ok l =>
          match r.seqs.findSome? (outputWaits s cx) with
          | some e => stopWith s d e
          | none =>
          let s1 := l.foldl (fun t e => commitSeq t cx e.1 e.2) s
          let s2 := l.foldl (fun t e => writeOutput t cx e.1 e.2) s1
          let s3 := { s2 with steps := { s2.steps with
            runs := tdel s2.steps.runs d
            rotas := tput s2.steps.rotas (256 * f.part + r.rota) { x with
              learnedA := energyA, learnedB := energyB, learnedDur := duration } } }
          let late : Bool := match f.absDeadline with
            | some t => decide (t < s.time.now)
            | none => false
          let st := if late then stDeadline else if r.verify && l.all (fun e => e.2.a == 0) then stEveRejected else stOk
          endF s3 d st ((l.map fun e => e.2.tokens.length).foldl (· + ·) 0)
  | _, _ => s
def execStepCommit (d energyA energyB duration : Nat) (s : State) : Host.Outcome State Fault Refusal :=
  .next (stepCommit d energyA energyB duration s)

/-! TRICKLE (R333-R337). -/

/-- Whether a save area's cells are mapped writable in tier F (R333). -/
def areaOk (s : State) (p area cells : Nat) : Bool :=
  (List.range ((cells * 73728 + 8191) / 8192)).all fun i => match xlate s p (area + 8192 * i) with
    | .ok (.loc pa w) => w && (match locate pa with | .slice .. => true | _ => false)
    | _ => false

/-- TRICKLE_CFG. -/
def trickleCfg (d : Nat) (s : State) : State :=
  withOp s d 0x6020 fun f =>
    let area := f.op 0x20 8
    let save := f.op 0x28 4
    let tmo := f.op 0x2C 4
    let cells := f.op 0x30 2
    let saved := s.qe.flights.any fun e => e.2.q == f.q && e.2.trickle.cell.isSome
    refuseIf s d [(rBadField, decide (area % 8192 ≠ 0 ∨ save < 1 ∨ 1000000 < save ∨ 86400000 < tmo ∨ 64 < cells)
        || !f.zeroFrom 0x32 || (decide (cells ≤ 64) && !areaOk s f.part area cells)), (rBusy, saved)] <|
    endF (putQ s f.q { getQ s f.q with trickArea := area, trickSaveAfter := save, trickTimeout := tmo, trickCells := cells }) d stOk 0
def execTrickleCfg (d : Nat) (s : State) : Host.Outcome State Fault Refusal := .next (trickleCfg d s)

/-- TRICKLE_SAVE: after save_after µs of sleep, if a cell is free (R335). -/
def trickleSave (d : Nat) (s : State) : State :=
  match getF s d with
  | none => s
  | some f =>
    if !f.trickle.asleep || f.trickle.cell.isSome || decide (s.time.now < f.trickle.since + 1000 * (getQ s f.q).trickSaveAfter) then s
    else match freeCell s f.q with
      | some c => saveCell s d f c
      | none => s
def execTrickleSave (d : Nat) (s : State) : Host.Outcome State Fault Refusal := .next (trickleSave d s)

/-- Whether the next tile of a sleeping TRICKLE descriptor has every index it needs (R334, R335). -/
def trickleReady (s : State) (d : Nat) (f : Flight) : Bool :=
  if counterFar s f.waitC then false else
  let next (l : List Nat) (e1 : Nat) := decide ((l[f.trickle.tilesDone]?).getD 0 ≤ presentOf s f e1)
  if f.opcode = 0x2001 then match chainPlan s d f with
    | .ok (ch, p) => next (fillNeeds p (chainFill s f.part ch p) (chainUnits ch p).1) ((p.a.ext[1]?).getD 1)
    | .error _ => true
  else match matPlan s d f with
    | .ok p => next (matNeeds p (getCore s ((f.cores.head?).getD 0)).mode) ((p.x.ext[1]?).getD 1)
    | .error _ => true

/-- Whether the save cell of a TRICKLE descriptor no longer holds what was saved in it (R336); none while its memory is held. -/
def cellChanged (s : State) (f : Flight) : Option Bool :=
  match f.trickle.cell with
  | none => some false
  | some c => match vread s { part := f.part, desc := 0, rem := [] } ((getQ s f.q).trickArea + saveCellBytes * c) saveCellBytes with
    | .ok b => some (b != (List.range saveCellBytes).map fun i => Config.freeByte (f.trickle.check + i))
    | .error .wait => none
    | .error _ => some true

/-- TRICKLE_RESUME: units granted on the same logical core, the cell reloaded. A cell found changed is DATA_POISONED (R335,
R336). -/
def trickleResume (d : Nat) (s : State) : State :=
  match getF s d with
  | none => s
  | some f =>
    let online : Bool := match getP s f.part with
      | some x => x.st == .online && x.fences.isEmpty
      | none => false
    if !f.trickle.asleep || f.phase != .running || s.pwr.pkg != .run || !online || !trickleReady s d f then s
    else match cellChanged s f with
    | none => s
    | some true => endF (emit s 6 8 { part := f.part } []) d stPoisoned 0
    | some false =>
      let g := { f with phase := .started, trickle := { f.trickle with asleep := false, cell := none } }
      if f.trickle.cell.isNone then putF s d g
      else if intakeFree s d f then enterIntake (putF s d g) d f else s
def execTrickleResume (d : Nat) (s : State) : Host.Outcome State Fault Refusal := .next (trickleResume d s)

/-- TRICKLE_TIMEOUT (R337): no new index for timeout ms ends the descriptor PREEMPTED; a new one starts the time again. -/
def trickleTimeout (d : Nat) (s : State) : State :=
  match getF s d with
  | none => s
  | some f =>
    let t := (getQ s f.q).trickTimeout
    let c := ctrOf s f.part f.waitC
    if !f.trickle.asleep || t = 0 then s
    else if f.trickle.seen < c then putF s d { f with trickle := { f.trickle with since := s.time.now, seen := c } }
    else if s.time.now < f.trickle.since + 1000000 * t then s
    else stopF s d stPreempted
def execTrickleTimeout (d : Nat) (s : State) : Host.Outcome State Fault Refusal := .next (trickleTimeout d s)

end Sys2Proof.Machine
end

