-- ==== Sys2Proof/Machine/Remote.lean ====
section
/-! DEFINITION. Windows, the REMOTE family, messages of both directions, streams and rerouting (R399-R408, R581, R582). -/

namespace Sys2Proof.Machine

/-! Windows (R399, R446). -/

/-- Whether any pairing of a partition exists. -/
def anyPairing (s : State) (p : Nat) : Bool := (tkeys s.gnt.policy.pairings).any fun k => k / 64 == p

/-- EXPORT. -/
def winExport (d : Nat) (s : State) : State :=
  withOp s d 0x9010 fun f =>
    let key := 256 * f.part + f.op 0x20 1
    let rights := f.op 0x21 1
    let h := f.op 0x24 1
    let size := f.op 0x23 1
    let first := f.op 0x26 2
    let n := f.op 0x30 2
    let base := f.op 0x28 8
    let bad := decide (32 ≤ rights ∨ 7 < f.op 0x22 1 ∨ size < 13 ∨ 40 < size ∨ (64 ≤ h ∧ h ≠ 0xFF) ∨ base % 8192 ≠ 0
      ∨ 0x7F0000000000 < base + 2 ^ size ∨ 1024 < first + n) || (bit rights 3 && n == 0) || !f.zero 0x25 1 || !f.zeroFrom 0x32
    let unpaired := if h = 0xFF then !anyPairing s f.part
      else match pairingOf s f.part h with
        | none => true
        | some x => (List.range 5).any fun i => bit rights i && !bit x.ceiling i
    refuseIf s d [(rBadField, bad), (rExists, (tfind s.plauf.exports key).isSome), (rPolicy, unpaired)] <|
    let e : Export := { rights := rights, cls := f.op 0x22 1, sizeLog2 := size, handle := h, firstCounter := first
                        base := base, counters := n }
    endF { s with plauf := { s.plauf with exports := tput s.plauf.exports key e } } d stOk 0
def execWinExport (d : Nat) (s : State) : Host.Outcome State Fault Refusal := .next (winExport d s)

/-- UNEXPORT: later requests are answered DENIED (R410). -/
def winUnexport (d : Nat) (s : State) : State :=
  withOp s d 0x9011 fun f =>
    let key := 256 * f.part + f.op 0x20 1
    match tfind s.plauf.exports key with
    | none => refuseF s d (if f.zeroFrom 0x21 then rNotFound else rBadField)
    | some e =>
      refuseIf s d [(rBadField, !f.zeroFrom 0x21), (rNotFound, e.unexportBy.isSome)] <|
      putF { s with plauf := { s.plauf with
        exports := tput s.plauf.exports key { e with open_ := false, unexportBy := some d } } } d { f with phase := .running }
def execWinUnexport (d : Nat) (s : State) : Host.Outcome State Fault Refusal := .next (winUnexport d s)

/-- UNEXPORT_DONE: every access accepted under the export has been served. -/
def winUnexportDone (d : Nat) (s : State) : State :=
  match s.plauf.exports.find? fun e => e.2.unexportBy == some d with
  | none => s
  | some (key, e) =>
    if e.inUse ≠ 0 then s
    else endF { s with plauf := { s.plauf with exports := tdel s.plauf.exports key } } d stOk 0
def execWinUnexportDone (d : Nat) (s : State) : Host.Outcome State Fault Refusal := .next (winUnexportDone d s)

/-- IMPORT: the far end is asked, and the slot is bound by its IMP_R. -/
def winImport (d : Nat) (s : State) : State :=
  withOp s d 0x9012 fun f =>
    let slot := f.op 0x20 1
    let h := f.op 0x21 1
    let key := 256 * f.part + slot
    let pr := pairingOf s f.part h
    let noPort := match pr with
      | none => false
      | some x => (groupOf s x.farHash).isEmpty
    refuseIf s d [(rBadField, decide (64 ≤ h) || !f.zeroFrom 0x23), (rNotFound, noPort),
      (rExists, (tfind s.plauf.imports key).isSome), (rPolicy, pr.isNone)] <|
    let im : Import := { handle := h, exportId := f.op 0x22 1, by_ := d }
    let s1 := putF { s with plauf := { s.plauf with imports := tput s.plauf.imports key im } } d { f with phase := .running }
    request s1 d f.part slot 0x10 f.cls 4 slot 0 0 0 0 []
def execWinImport (d : Nat) (s : State) : Host.Outcome State Fault Refusal := .next (winImport d s)

/-- Whether a remote leaf or a pool extent of a partition uses an import slot. -/
def importUsed (s : State) (p slot : Nat) : Bool :=
  (leavesOf s p).any (fun e => pteKind e.2.2 == 2 && pteImport e.2.2 == slot)
    || (getPool s p).frames.any fun x => match x.remote with
      | some (i, _) => i == slot
      | none => false

/-- UNIMPORT. -/
def winUnimport (d : Nat) (s : State) : State :=
  withOp s d 0x9013 fun f =>
    let slot := f.op 0x20 1
    let unbound := match importOf s f.part slot with
      | none => true
      | some im => !im.bound
    refuseIf s d [(rBadField, !f.zeroFrom 0x21), (rNotFound, unbound), (rBusy, importUsed s f.part slot)] <|
    endF { s with plauf := { s.plauf with imports := tdel s.plauf.imports (256 * f.part + slot) } } d stOk 0
def execWinUnimport (d : Nat) (s : State) : Host.Outcome State Fault Refusal := .next (winUnimport d s)

/-! Data (R402, R403). -/

/-- The bound import of a REMOTE descriptor that holds a right; otherwise PERMISSION. -/
def importWith (s : State) (p slot right : Nat) : Except Stop Import :=
  match importOf s p slot with
  | some im => if importAllows s p slot right then .ok im else .error (.st stPermission)
  | none => .error (.st stPermission)

/-- The fields that READ and WRITE share (R402). -/
def moveFields (f : Flight) : Bool :=
  let n := f.op 0x38 4
  let a := f.op 0x20 8
  !f.fEve && f.zero 0x29 7 && f.zeroFrom 0x3C && n % 64 == 0 && decide (64 ≤ n ∧ n ≤ 2 ^ 26) && a % 64 == 0
    && f.op 0x30 8 % 64 == 0

/-- READ and WRITE reach no sequence range (R241). -/
def outOfSeq (f : Flight) : Except Stop Unit :=
  if 2 ^ 47 < f.op 0x20 8 + f.op 0x38 4 ∧ f.op 0x20 8 < 2 ^ 48 then .error (.st stPermission) else .ok ()

/-- The state with a descriptor's work done; its messages may still be unanswered. -/
def sentAll (s : State) (d : Nat) : State := endF s d stOk 0

/-- READ: one RD for each 2 KiB. -/
def remoteReadOp (s : State) (d : Nat) (f : Flight) : Except Stop State := do
  needs (moveFields f)
  outOfSeq f
  let slot := f.op 0x28 1
  let _ ← importWith s f.part slot 0
  let n := f.op 0x38 4
  .ok (sentAll ((List.range ((n + 2047) / 2048)).foldl (fun t i =>
    request t d f.part slot 1 f.cls 0 (f.op 0x20 8 + 2048 * i) (f.op 0x30 8 + 2048 * i) 0 0 (min 32 ((n - 2048 * i) / 64)) []) s) d)

/-- READ. -/
def remoteRead (d : Nat) (s : State) : State :=
  withOp s d 0x9001 fun f => match remoteReadOp s d f with
    | .ok t => t
    | .error e => stopWith s d e
def execRemoteRead (d : Nat) (s : State) : Host.Outcome State Fault Refusal := .next (remoteRead d s)

/-- The parts of a transfer: runs of units without poison of at most 2 KiB, and poisoned units, as (offset, bytes,
poisoned) (R461, assumption 52). -/
def transferParts (bs : List (Byte × Bool)) : List (Nat × List Byte × Bool) :=
  (chunks 2048 bs).zipIdx.flatMap fun (c, i) =>
    if c.any Prod.snd then
      (chunks 64 c).zipIdx.map fun (u, j) => (2048 * i + 64 * j, u.map Prod.fst, u.any Prod.snd)
    else [(2048 * i, c.map Prod.fst, false)]

/-- WRITE: poisoned units leave marked POISON, and the descriptor is DATA_POISONED (R461). -/
def remoteWriteOp (s : State) (d : Nat) (f : Flight) : Except Stop State := do
  needs (moveFields f)
  outOfSeq f
  let slot := f.op 0x28 1
  let _ ← importWith s f.part slot 1
  let bs ← vreadP s (cxOf s f d) (f.op 0x20 8) (f.op 0x38 4)
  let u := (transferParts bs).foldl (fun t e =>
    request t d f.part slot 3 f.cls 2 0 (f.op 0x30 8 + e.1) 0 0 0 e.2.1 (if e.2.2 then 2 else 0)) s
  .ok (endF u d (if bs.any Prod.snd then stPoisoned else stOk) 0)

/-- WRITE. -/
def remoteWrite (d : Nat) (s : State) : State :=
  withOp s d 0x9002 fun f => match remoteWriteOp s d f with
    | .ok t => t
    | .error e => stopWith s d e
def execRemoteWrite (d : Nat) (s : State) : Host.Outcome State Fault Refusal := .next (remoteWrite d s)

/-- Whether a tensor's elements lie one after another. -/
def Tensor.contiguous (t : Tensor) : Bool := t.rows == (List.range t.rows.length).map fun i => t.base + i * t.rowBytes

/-- ATOMIC: the source's elements leave in messages of up to 2 KiB. -/
def remoteAtomicOp (s : State) (d : Nat) (f : Flight) : Except Stop State := do
  let cx := cxOf s f d
  let op := f.op 0x38 1
  let fmt := f.op 0x39 1
  needs (!f.fEve && f.zero 0x29 7 && f.zeroFrom 0x3A && decide (op ≤ 2) && [0, 1, 6, 7].contains fmt
    && f.op 0x30 8 % 64 == 0)
  let t ← operand s cx (f.op 0x20 8)
  needs (t.fmt == fmt && t.contiguous && t.base % 64 == 0 && t.bytes % 64 == 0 && decide (t.bytes ≤ 2 ^ 26))
  let slot := f.op 0x28 1
  let _ ← importWith s f.part slot 2
  let bs ← vreadP s cx t.base t.bytes
  let u := (transferParts bs).foldl (fun t e =>
    request t d f.part slot 5 f.cls 2 0 (f.op 0x30 8 + e.1) op fmt 0 e.2.1 (if e.2.2 then 2 else 0)) s
  .ok (endF u d (if bs.any Prod.snd then stPoisoned else stOk) 0)

/-- ATOMIC. -/
def remoteAtomic (d : Nat) (s : State) : State :=
  withOp s d 0x9003 fun f => match remoteAtomicOp s d f with
    | .ok t => t
    | .error e => stopWith s d e
def execRemoteAtomic (d : Nat) (s : State) : Host.Outcome State Fault Refusal := .next (remoteAtomic d s)

/-- SIGNAL (R311, R402): one SIG, whose acknowledgement the descriptor's header signal waits for. -/
def remoteSignalOp (s : State) (d : Nat) (f : Flight) : Except Stop State := do
  let slot := f.op 0x20 1
  let c := f.op 0x22 2
  let n := f.op 0x28 8
  let out := match importOf s f.part slot with
    | some im => im.bound && decide (im.counters ≤ c)
    | none => false
  needs (!f.fEve && f.zero 0x21 1 && f.zero 0x24 4 && f.zeroFrom 0x30 && decide (1 ≤ n ∧ n < 2 ^ 48) && !out)
  let _ ← importWith s f.part slot 3
  .ok (sentAll (request s d f.part slot 7 f.cls 2 0 c 0 0 n []) d)

/-- SIGNAL. -/
def remoteSignal (d : Nat) (s : State) : State :=
  withOp s d 0x9004 fun f => match remoteSignalOp s d f with
    | .ok t => t
    | .error e => stopWith s d e
def execRemoteSignal (d : Nat) (s : State) : Host.Outcome State Fault Refusal := .next (remoteSignal d s)

/-! Answers (R403-R405, R581, R582). -/

/-- The place of a status in the table of R403, smaller first. -/
def statusRank (st : Nat) : Nat :=
  if st = stMalformed then 0 else if st = stPermission then 1 else if st = stPoisoned then 2 else if st = stOffline then 3
  else if st = stTranslation then 4 else 5

/-- The status that an answer's status gives a descriptor. -/
def answerStatus (a : Nat) : Nat :=
  if a = 0 then stOk else if a = 1 then stPermission else if a = 2 then stPoisoned else stOffline

/-- An unanswered message taken off the list. -/
def delOut (s : State) (n : Nat) : State := { s with plauf := { s.plauf with out := tdel s.plauf.out n } }

/-- A descriptor whose work is done ends when its last message is answered (R404). -/
def settleF (s : State) (d : Nat) : State :=
  match getF s d with
  | none => s
  | some f => if f.answers && !unansweredOf s d then endF s d f.status f.extra else s

/-- A message of a descriptor that failed with a status, with the record of R403. That of a STEP's output record drops the record,
whose commit stands (R286, R331). -/
def failF (s : State) (d st : Nat) : State :=
  match getF s d with
  | none => s
  | some f =>
    if committedF f then settleF (emit s 4 0x13 { part := f.part } []) d else
    let s1 := if 2 ≤ statusRank st then emit s 4 0x11 { part := f.part } [] else s
    if f.answers then
      settleF (if statusRank st < statusRank f.status then putF s1 d { f with status := st } else s1) d
    else if f.phase = .ended then s1
    else stopF s1 d st

/-- A swap-out to a remote window that failed (R269, R581, R582): the slot is OPEN again; under target 2 it starts again to
the host area. -/
def swapFailed (s : State) (slot : Nat) : State :=
  let by_ := (getSlot s slot).swapBy
  let p := slotPart s slot
  if (getSlot s slot).st ≠ .swappingOut then s
  else
    let s1 := swapBack s p slot
    let r := if (getPool s1 p).target = 2 then startSwap s1 p slot by_ true else (s1, 1)
    match r.2, by_ with
    | 0, _ => r.1
    | 1, some d => refuseF r.1 d rNoResource
    | _, some d => endF r.1 d stPoisoned 0
    | _, none => r.1

/-- A message that got no good answer: it failed with a status of R71. -/
def failOut (s : State) (n : Nat) (o : OutReq) (st : Nat) : State :=
  let s1 := delOut s n
  match o.kind with
  | 0 | 1 | 2 => failF s1 o.desc st
  | 3 => swapFailed s1 o.desc
  | 4 => refuseF { s1 with plauf := { s1.plauf with imports := tdel s1.plauf.imports (256 * o.part + o.local_) } } o.desc rNotFound
  | 6 => if st = stPoisoned then swapPoison s1 (slotPart s1 o.desc) o.desc else
      (match (getSlot s1 o.desc).st, (getSlot s1 o.desc).swapBy with
        | .swappingOut, some d => refuseF (swapBack s1 o.part o.desc) d rNoResource
        | .swappingOut, none => swapBack s1 o.part o.desc
        | _, _ => s1)
  | 7 => match (getSlot s1 o.local_).st with
    | .swappingIn =>
      let s2 := swapInBack s1 o.part o.local_
      let out := s2.plauf.out.filter fun e => e.2.desc != o.desc || e.2.kind != 7
      failF { s2 with plauf := { s2.plauf with out := out } } o.desc st
    | _ => s1
  | _ => s1

/-- The request that an answer on a port belongs to. -/
def requestOf (s : State) (port type tag : Nat) : Option (Nat × OutReq) :=
  s.plauf.out.find? fun e => e.2.port == port && e.2.msg.type == type && e.2.msg.tag == tag && e.2.kind != 8

/-- A good answer to a request: data read goes to its place, and the descriptor ends with its last one. -/
def goodAnswer (s : State) (n : Nat) (o : OutReq) (m : RemMsg) : State :=
  let s1 := delOut s n
  match o.kind with
  | 0 => match getF s1 o.desc with
    | none => s1
    | some f => match vwrite s1 (cxOf s1 f o.desc) o.local_ m.data with
      | .ok t => settleF t o.desc
      | .error (.trans va) => failF (emit s1 3 1 { part := f.part } [(8, va)]) o.desc stTranslation
      | .error (.denied va) => failF (emit s1 3 2 { part := f.part } [(8, va)]) o.desc stPermission
      | .error (.st c) => failF s1 o.desc c
      | .error .wait => s
      | .error _ => failF s1 o.desc stPoisoned
  | 1 => match getF s1 o.desc with
    | none => s1
    | some f => putF s1 o.desc { f with remote := m.data.zipIdx.foldl (fun t e => tput t (o.local_ + e.2) e.1) f.remote }
  | 2 => settleF s1 o.desc
  | 4 => match importOf s1 o.part o.local_ with
    | none => s1
    | some im =>
      let key := match pairingOf s1 o.part o.handle with
        | some pr => streamKey pr.farHash o.part pr.farPart
        | none => 0
      let st := (tfind s1.plauf.streamsOut key).getD {}
      let s2 := { s1 with plauf := { s1.plauf with
        imports := tput s1.plauf.imports (256 * o.part + o.local_)
          { im with bound := true, sizeLog2 := m.op, rights := m.format, counters := m.increment }
        streamsOut := if st.target = m.epochTarget then s1.plauf.streamsOut
          else tput s1.plauf.streamsOut key { target := m.epochTarget, next := 0 } } }
      endF s2 o.desc stOk (m.op + 2 ^ 8 * m.format + 2 ^ 16 * m.increment)
  | 6 => putSlot s1 o.desc { getSlot s1 o.desc with fetched := mwriteN (getSlot s1 o.desc).fetched o.local_ m.data }
  | 7 => putSlot s1 o.local_ { getSlot s1 o.local_ with
      fetched := mwriteN (getSlot s1 o.local_).fetched (o.msg.offset - 8192 * (getPool s1 o.part).remotePage) m.data }
  | _ => s1

/-- An answer as the sender takes it (R403-R405, R408): RETRY waits, STALE brings the target's half, with which the stream
starts again at sequence 0. -/
def takeAnswer (type : Nat) (port : Nat) (m : RemMsg) (s : State) : State :=
  match requestOf s port type m.tag with
  | none => s
  | some (n, o) =>
    let s1 := match m.status with
      | 0 => goodAnswer s n o m
      | 4 =>
        let o1 := { o with port := 254, sentAt := s.time.now, retryFrom := some (o.retryFrom.getD s.time.now) }
        { s with plauf := { s.plauf with out := tput s.plauf.out n o1 } }
      | 5 =>
        let key := match pairingOf s o.part o.handle with
          | some pr => streamKey pr.farHash o.part pr.farPart
          | none => 0
        let st := (tfind s.plauf.streamsOut key).getD {}
        let fresh : StreamOut := { target := m.epochTarget, next := 0 }
        let t := if st.target = m.epochTarget then s
          else { s with plauf := { s.plauf with streamsOut := tput s.plauf.streamsOut key fresh } }
        failOut t n o stOffline
      | a => failOut s n o (answerStatus a)
    pumpOut s1

/-- RD_DATA. -/
def rdData (port : Nat) (m : RemMsg) (s : State) : State := takeAnswer 1 port m s
def execRdData (port : Nat) (m : RemMsg) (s : State) : Host.Outcome State Fault Refusal := .next (rdData port m s)
/-- WR_ACK. -/
def wrAck (port : Nat) (m : RemMsg) (s : State) : State := takeAnswer 3 port m s
def execWrAck (port : Nat) (m : RemMsg) (s : State) : Host.Outcome State Fault Refusal := .next (wrAck port m s)
/-- ATOM_ACK. -/
def atomAck (port : Nat) (m : RemMsg) (s : State) : State := takeAnswer 5 port m s
def execAtomAck (port : Nat) (m : RemMsg) (s : State) : Host.Outcome State Fault Refusal := .next (atomAck port m s)
/-- SIG_ACK. -/
def sigAck (port : Nat) (m : RemMsg) (s : State) : State := takeAnswer 7 port m s
def execSigAck (port : Nat) (m : RemMsg) (s : State) : Host.Outcome State Fault Refusal := .next (sigAck port m s)
/-- IMP_R. -/
def impR (port : Nat) (m : RemMsg) (s : State) : State := takeAnswer 0x10 port m s
def execImpR (port : Nat) (m : RemMsg) (s : State) : Host.Outcome State Fault Refusal := .next (impR port m s)

/-! Requests from a neighbour (R400, R404, R405). -/

/-- A denial recorded at most once per millisecond and export, with the count of those since the last record (R400). -/
def recordDenied (s : State) (key : Nat) : State :=
  let e := tfind s.plauf.denied key
  let n := (e.map Prod.snd).getD 0 + 1
  let due := match e with
    | none => true
    | some (t, _) => decide (t + 1000000 ≤ s.time.now)
  let set (v : Nat × Nat) (t : State) : State := { t with plauf := { t.plauf with denied := tput t.plauf.denied key v } }
  if due then set (s.time.now, 0) (emit s 6 0xA { part := key / 256 } [(4, n)])
  else set ((e.map Prod.fst).getD 0, n) s

/-- The handles of a target partition's pairings that join it to a neighbour's partition (R400, R446). -/
def joining (s : State) (hash : Nat) (m : RemMsg) : List (Nat × Pairing) :=
  s.gnt.policy.pairings.filterMap fun e =>
    if e.1 / 64 = m.targetPart ∧ e.2.farHash = hash ∧ e.2.farPart = m.sendPart then some (e.1 % 64, e.2) else none

/-- The export that a request may use, by steps 1-3 of R400, with its rights under the pairing's ceiling. -/
def exportFor (s : State) (hash : Nat) (m : RemMsg) : Option (Export × Nat) :=
  match tfind s.plauf.exports (256 * m.targetPart + m.exportId) with
  | none => none
  | some e =>
    if !e.open_ then none
    else ((joining s hash m).find? fun x => e.handle == 0xFF || e.handle == x.1).map fun x => (e, Nat.land e.rights x.2.ceiling)

/-- Bytes that a request touches. -/
def reqBytes (m : RemMsg) : Nat := if m.type = 1 then 64 * m.increment else m.data.length

/-- Steps 4 and 5 of R400. -/
def inWindow (e : Export) (rights : Nat) (m : RemMsg) : Bool :=
  if m.type = 7 then bit rights 3 && decide (m.offset < e.counters)
  else bit rights (if m.type = 1 then 0 else if m.type = 3 then 1 else 2) && decide (m.offset + reqBytes m ≤ 2 ^ e.sizeLog2)

/-- Step 6 of R400: the physical pages of a request's range, or the status it is answered with. A write needs a writable
leaf, and an atomic the local tier S (R402). -/
def ingressPages (s : State) (e : Export) (m : RemMsg) : Except Nat Unit :=
  let va := e.base + m.offset
  let n := reqBytes m
  if m.type = 7 then (if counterFar s (e.firstCounter + m.offset) then .error 3 else .ok ())
  else if n = 0 then .ok ()
  else (seqE ((List.range ((va + n - 1) / 8192 - va / 8192 + 1)).map fun i =>
    match xlate s m.targetPart (max va ((va / 8192 + i) * 8192)) with
    | .ok (.loc pa w) =>
      if m.type = 1 then .ok ()
      else if !w then .error 1
      else if m.type = 5 ∧ !(match locate pa with | .stack .. => true | _ => false) then .error 1 else .ok ()
    | .ok (.rem ..) => .error 1
    | .error (.st _) => .error 3
    | .error _ => .error 1)).map fun _ => ()

/-- Whether a target partition cannot serve requests now: it is not ONLINE, in reset, or fenced. -/
def targetOff (s : State) (p : Nat) : Bool :=
  match getP s p with
  | none => false
  | some x => x.st != .online || x.inReset || !x.fences.isEmpty

/-- The checks of an ingress request, in order: the export, or the status of the answer. -/
def ingress (s : State) (hash : Nat) (m : RemMsg) : Except Nat Export :=
  if s.pwr.pkg = .trip then .error 4
  else match exportFor s hash m with
    | none => .error 1
    | some (e, rights) =>
      if !inWindow e rights m then .error 1
      else if targetOff s m.targetPart then .error 3
      else match ingressPages s e m with
        | .ok _ => .ok e
        | .error a => .error a

/-- A request answered with a failing status. -/
def turnAway (s : State) (hash : Nat) (m : RemMsg) (status : Nat) : State :=
  answerTo (if status = 1 then recordDenied s (256 * m.targetPart + m.exportId) else s) hash m status []

/-- The access context of an ingress request. -/
def ingressCx (m : RemMsg) : Cx := { part := m.targetPart, desc := 2 ^ 40, rem := [] }

/-- RD. -/
def rd (port : Nat) (m : RemMsg) (s : State) : State :=
  let x := getPort s port
  if x.st ≠ .up ∨ m.type ≠ 1 then s
  else if s.fab.severed ∧ 16 ≤ port then turnAway s x.farHash m 3
  else match ingress s x.farHash m with
    | .error a => turnAway s x.farHash m a
    | .ok e => match vreadP s (ingressCx m) (e.base + m.offset) (reqBytes m) with
      | .ok bs => answerTo s x.farHash m (if bs.any Prod.snd then 2 else 0) (if bs.any Prod.snd then [] else bs.map Prod.fst)
      | .error .wait => s
      | .error _ => turnAway s x.farHash m 1
def execRd (port : Nat) (m : RemMsg) (s : State) : Host.Outcome State Fault Refusal := .next (rd port m s)

/-- Serial comparison modulo 256: whether half a is newer than half b (R405). -/
def newerHalf (a b : Nat) : Bool := decide (0 < (a + 256 - b) % 256 ∧ (a + 256 - b) % 256 < 128)

/-- A sequence number marked in a stream's record, and the record advanced over those already applied. -/
def advance : Nat → StreamIn → StreamIn
  | 0, x => x
  | n + 1, x =>
    if x.above.contains x.applied then
      advance n { x with applied := (x.applied + 1) % 2 ^ 32, above := x.above.filter (· != x.applied) }
    else x
def markSeq (x : StreamIn) (q : Nat) : StreamIn := advance 4097 { x with above := q :: x.above }

/-- Whether a sequence number has been applied. -/
def wasApplied (x : StreamIn) (q : Nat) : Bool := decide (2 ^ 31 ≤ (q + 2 ^ 32 - x.applied) % 2 ^ 32) || x.above.contains q

/-- A stream's record of a neighbour. -/
def streamIn (s : State) (key : Nat) : StreamIn := (tfind s.plauf.streamsIn key).getD {}
def putStream (s : State) (key : Nat) (x : StreamIn) : State :=
  { s with plauf := { s.plauf with streamsIn := tput s.plauf.streamsIn key x } }

/-- The effect of a WR, ATOM or SIG that has passed its checks, with the status of its answer. -/
def applyReq (s : State) (e : Export) (m : RemMsg) : State × Nat :=
  let va := e.base + m.offset
  let cx := ingressCx m
  if m.type = 7 then
    ((addCounter s m.targetPart (e.firstCounter + m.offset) m.increment (some m.sendPart)).1, 0)
  else if m.type = 3 then
    match vwriteP s cx 1 va (m.data.map fun b => (b, m.status == 2)) with
    | .ok t => (t, 0)
    | .error _ => (s, 1)
  else
    match vreadP s cx va m.data.length with
    | .error _ => (s, 1)
    | .ok old =>
      let codes (l : List (Byte × Bool)) := codesP m.format [l]
      let new := ((codes old).zip (codes (m.data.map fun b => (b, m.status == 2)))).map fun (v, x) =>
        (reduceOp m.format m.op v.1 x.1, v.2 || x.2)
      match vwriteP s cx 1 va (bytesP m.format new.length new).flatten with
      | .ok t => (t, if new.any Prod.snd then 2 else 0)
      | .error _ => (s, 1)

/-- A numbered request carried out once and answered (R404, R405). A request turned away also passes its number on, so
that the stream goes on. -/
def serveSeq (s : State) (hash key : Nat) (m : RemMsg) : State :=
  match ingress s hash m with
  | .error 4 => turnAway s hash m 4
  | .error a => turnAway (putStream s key (markSeq (streamIn s key) m.streamSeq)) hash m a
  | .ok e =>
    let r := applyReq s e m
    answerTo (putStream r.1 key (markSeq (streamIn r.1 key) m.streamSeq)) hash m r.2 []

/-- An export's count of accepted requests that wait. -/
def countUse (s : State) (m : RemMsg) (up : Bool) : State :=
  let k := 256 * m.targetPart + m.exportId
  match tfind s.plauf.exports k with
  | none => s
  | some e => { s with plauf := { s.plauf with
      exports := tput s.plauf.exports k { e with inUse := if up then e.inUse + 1 else e.inUse - 1 } } }

/-- A held signal's export still serves it, although UNEXPORT may have closed it (R410). -/
def serveHeld (s : State) (hash key : Nat) (m : RemMsg) : State :=
  let s1 := countUse s m false
  match tfind s1.plauf.exports (256 * m.targetPart + m.exportId) with
  | none => turnAway (putStream s1 key (markSeq (streamIn s1 key) m.streamSeq)) hash m 1
  | some e =>
    let r := applyReq s1 e m
    answerTo (putStream r.1 key (markSeq (streamIn r.1 key) m.streamSeq)) hash m r.2 []

/-- Held signals whose turn has come, in order (R404). -/
def releaseSignals : Nat → State → Nat → State
  | 0, s, _ => s
  | n + 1, s, key =>
    let x := streamIn s key
    match x.held.find? fun m => m.streamSeq == x.applied with
    | none => s
    | some m =>
      releaseSignals n (serveHeld (putStream s key { x with held := x.held.filter (· != m) }) (key / 256) key m) key

/-- Whether the memory that a WR or ATOM names is held now, so that the request waits (R179, R225). -/
def ingressHeld (s : State) (hash : Nat) (m : RemMsg) : Bool :=
  m.type != 7 && (match exportFor s hash m with
    | some (e, _) => (match vreadP s (ingressCx m) (e.base + m.offset) (reqBytes m) with
      | .error .wait => true
      | _ => false)
    | none => false)

/-- A WR, ATOM or SIG as the target takes it: its epoch, then its number (R404, R405). -/
def takeNumbered (type : Nat) (port : Nat) (m : RemMsg) (s : State) : State :=
  let p := getPort s port
  if p.st ≠ .up ∨ m.type ≠ type ∨ ingressHeld s p.farHash m then s
  else
    let hash := p.farHash
    let key := streamKey hash m.sendPart m.targetPart
    let x := streamIn s key
    if s.pwr.pkg = .trip then turnAway s hash m 4
    else if s.fab.severed ∧ 16 ≤ port then turnAway s hash m 3
    else if m.epochTarget ≠ (tfind s.plauf.targetEpoch m.targetPart).getD 0 then turnAway s hash m 5
    else if newerHalf x.sender m.epochSender then turnAway s hash m 5
    else
      let x1 := if m.epochSender = x.sender then x else { sender := m.epochSender }
      let s1 := putStream s key x1
      if wasApplied x1 m.streamSeq then answerTo s1 hash m 0 []
      else if m.type = 7 ∧ m.streamSeq ≠ x1.applied then
        match ingress s1 hash m with
        | .ok _ => if x1.held.any fun h => h.streamSeq == m.streamSeq then s1
            else countUse (putStream s1 key { x1 with held := x1.held ++ [m] }) m true
        | .error _ => serveSeq s1 hash key m
      else releaseSignals 4097 (serveSeq s1 hash key m) key

/-- WR. -/
def wr (port : Nat) (m : RemMsg) (s : State) : State := takeNumbered 3 port m s
def execWr (port : Nat) (m : RemMsg) (s : State) : Host.Outcome State Fault Refusal := .next (wr port m s)
/-- ATOM. -/
def atom (port : Nat) (m : RemMsg) (s : State) : State := takeNumbered 5 port m s
def execAtom (port : Nat) (m : RemMsg) (s : State) : Host.Outcome State Fault Refusal := .next (atom port m s)
/-- SIG. -/
def sig (port : Nat) (m : RemMsg) (s : State) : State := takeNumbered 7 port m s
def execSig (port : Nat) (m : RemMsg) (s : State) : Host.Outcome State Fault Refusal := .next (sig port m s)

/-- IMP_Q (R399, R405): the answer carries the window's size, rights and counter count in its op, format and increment
fields, and the target half. -/
def impQ (port : Nat) (m : RemMsg) (s : State) : State :=
  let x := getPort s port
  if x.st ≠ .up ∨ m.type ≠ 0x10 then s
  else if s.pwr.pkg = .trip then turnAway s x.farHash m 4
  else match exportFor s x.farHash m with
    | none => turnAway s x.farHash m 1
    | some (e, rights) =>
      answerTo s x.farHash { m with op := e.sizeLog2, format := rights, increment := e.counters } 0 []
def execImpQ (port : Nat) (m : RemMsg) (s : State) : Host.Outcome State Fault Refusal := .next (impQ port m s)

/-! Resending and loss (R408). -/

/-- The port after one in a group, or the first. -/
def nextInGroup (g : List Nat) (p : Nat) : Option Nat :=
  match g.find? fun q => decide (p < q) with
  | some q => some q
  | none => g.head?

/-- RD_RESEND. -/
def rdResend (req : Nat) (s : State) : State :=
  match tfind s.plauf.out req with
  | none => s
  | some o =>
    if o.msg.type ≠ 1 ∨ o.resent ∨ (getPort s o.port).st ≠ .up ∨ 253 < o.port ∨ s.time.now < o.sentAt + 1000000 then s
    else match nextInGroup (groupOf s (getPort s o.port).farHash) o.port with
      | none => s
      | some q =>
        let s1 := putOn s q o.msg
        { s1 with plauf := { s1.plauf with out := tput s1.plauf.out req { o with port := q, sentAt := s.time.now, resent := true } } }
def execRdResend (req : Nat) (s : State) : Host.Outcome State Fault Refusal := .next (rdResend req s)

/-- REMOTE_RETRY. -/
def remoteRetry (req : Nat) (s : State) : State :=
  match tfind s.plauf.out req with
  | none => s
  | some o =>
    match o.retryFrom with
    | none => s
    | some t =>
      if o.port ≠ 254 ∨ s.time.now < o.sentAt + 10000 then s
      else if t + 100000000 ≤ s.time.now then failOut s req o stTranslation
      else trySend { s with plauf := { s.plauf with out := tput s.plauf.out req { o with port := 255 } } } req
def execRemoteRetry (req : Nat) (s : State) : Host.Outcome State Fault Refusal := .next (remoteRetry req s)

/-- Whether a message goes to a neighbour. -/
def goesTo (s : State) (hash : Nat) (o : OutReq) : Bool :=
  if o.kind = 8 then o.local_ == hash
  else match pairingOf s o.part o.handle with
    | some pr => pr.farHash == hash
    | none => false

/-- NEIGHBOUR_LOST: 100 ms with an empty group. -/
def neighbourLost (hash : Nat) (s : State) : State :=
  match tfind s.plauf.lostSince hash with
  | none => s
  | some t =>
    if !(groupOf s hash).isEmpty ∨ s.time.now < t + 100000000 then s
    else
      let s1 := { s with plauf := { s.plauf with lostSince := tdel s.plauf.lostSince hash } }
      let s2 := emit s1 4 0xC {} []
      ((s1.plauf.out.filter fun e => goesTo s1 hash e.2).map Prod.fst).foldl (fun u n => match tfind u.plauf.out n with
        | some o => failOut u n o stTranslation
        | none => u) s2
def execNeighbourLost (hash : Nat) (s : State) : Host.Outcome State Fault Refusal := .next (neighbourLost hash s)

end Sys2Proof.Machine
end

