-- ==== Sys2Proof/Machine/Seal.lean ====
section
/-! DEFINITION. Sealed transfers (R435-R437). -/

namespace Sys2Proof.Machine

/-- A key slot of a partition (R417, R434). -/
def keySlot (s : State) (p slot : Nat) : Option KeySlot := tfind (getKeys s p).slots slot

/-- A sealed transfer record (R435). -/
structure SealRec where
  local_ : Nat
  host : Nat
  tags : Nat
  object : Nat
  first : Nat
  cells : Nat
  slot : Nat
deriving DecidableEq, Repr

/-- A sealed transfer record from its bytes; none where a field breaks its range. -/
def parseSeal (b : List Byte) : Option SealRec :=
  let r : SealRec := { local_ := fld b 0 8, host := fld b 8 8, tags := fld b 0x10 8, object := fld b 0x18 8
                       first := fld b 0x20 4, cells := fld b 0x24 4, slot := fld b 0x28 1 }
  if r.local_ % 8192 = 0 ∧ r.host % 64 = 0 ∧ r.tags % 16 = 0 ∧ 1 ≤ r.cells ∧ r.cells ≤ 1048576 ∧ r.slot ≤ 15
      ∧ zeroAt b 0x29 23 then some r else none

/-- Where the local memory of a sealed transfer may lie (R241, R435): not in the sequence ranges, and in the general range. -/
def sealRange (r : SealRec) : Except Stop Unit :=
  let hi := r.local_ + 8192 * r.cells
  if hi ≤ 0x7F0000000000 then .ok ()
  else .error (.st (if 2 ^ 47 < hi ∧ r.local_ < 2 ^ 48 then stPermission else stMalformed))

/-- The IV of a cell (R436). -/
def sealIv (object cell : Nat) : List Byte := toLe 8 object ++ toLe 4 cell

/-- The record and the key slot of a sealed transfer, or the first failing status of R403 (R437). -/
def sealStart (s : State) (d : Nat) (f : Flight) (use : Nat) : Except Stop (SealRec × KeySlot) := do
  needs (!f.fEve && f.zeroFrom 0x28)
  match recordIn s (cxOf s f d) (f.op 0x20 8) 64 64 with
  | .error e => if isSealed s f.part then .error e else .error (.st stPermission)
  | .ok b =>
    match parseSeal b with
    | none => .error (.st stMalformed)
    | some r =>
      sealRange r
      match keySlot s f.part r.slot with
      | some k => if isSealed s f.part && bit k.use use then .ok (r, k) else .error (.st stPermission)
      | none => .error (.st stPermission)

/-- The bytes of a cell (R436). -/
def cellBytes : Nat := 8192

/-- A host-memory error of a sealed transfer, with the record of R403. -/
def sealHostFail (s : State) (d p : Nat) : State := endF (emit s 4 0x11 { part := p } []) d stTranslation 0

/-- Cells of SEAL_IN from number i on: each is verified, then written (R436). -/
def sealInCells (d : Nat) (f : Flight) (r : SealRec) (k : KeySlot) : Nat → Nat → State → State
  | 0, _, s => endF s d stOk 0
  | n + 1, i, s =>
    match hread s (r.host + cellBytes * i) cellBytes, hread s (r.tags + 16 * i) 16 with
    | some ct, some tag =>
      let iv := sealIv r.object (r.first + i)
      if fit 16 (Config.gcmTag k.key iv [] ct) = tag then
        match vwrite s (cxOf s f d) (r.local_ + cellBytes * i) (fit cellBytes (gcmCrypt k.key iv ct)) with
        | .ok t => sealInCells d f r k n (i + 1) t
        | .error e => stopWith s d e
      else endF (emit s 6 6 { part := f.part } [(8, r.local_ + cellBytes * i)]) d stPoisoned 0
    | _, _ => sealHostFail s d f.part

/-- SEAL_IN. -/
def sealIn (d : Nat) (s : State) : State :=
  withOp s d 0x9020 fun f => match sealStart s d f 0 with
    | .error e => stopWith s d e
    | .ok (r, k) => sealInCells d f r k r.cells 0 s
def execSealIn (d : Nat) (s : State) : Host.Outcome State Fault Refusal := .next (sealIn d s)

/-- One cell of SEAL_OUT encrypted and written with its tag, with whether it held poison, which leaves as zeros (R461); none
where it stops the descriptor. -/
def sealOutCell (d : Nat) (f : Flight) (r : SealRec) (k : KeySlot) (i : Nat) (s : State) : State × Option Bool :=
  match vreadP s (cxOf s f d) (r.local_ + cellBytes * i) cellBytes with
  | .error e => (stopWith s d e, none)
  | .ok bs =>
    let iv := sealIv k.counter (r.first + i)
    let ct := fit cellBytes (gcmCrypt k.key iv (bs.map Prod.fst))
    if hostBad s (r.host + cellBytes * i) cellBytes || hostBad s (r.tags + 16 * i) 16 then (sealHostFail s d f.part, none)
    else
      (hwrite (hwrite s (r.host + cellBytes * i) ct) (r.tags + 16 * i) (fit 16 (Config.gcmTag k.key iv [] ct)),
        some (bs.any Prod.snd))

/-- The cells of SEAL_OUT in order, until one stops the descriptor; poison makes it DATA_POISONED (R461). -/
def sealOutCells (d : Nat) (f : Flight) (r : SealRec) (k : KeySlot) (n : Nat) (s : State) : State :=
  let x := (List.range n).foldl (fun (acc : State × Option Bool) i => match acc.2 with
    | none => acc
    | some bad =>
      let y := sealOutCell d f r k i acc.1
      (y.1, y.2.map (bad || ·))) (s, some false)
  match x.2 with
  | none => x.1
  | some bad => endF x.1 d (if bad then stPoisoned else stOk) 0

/-- SEAL_OUT: the slot's transfer counter is the object, and is raised at the start whatever the outcome. -/
def sealOut (d : Nat) (s : State) : State :=
  withOp s d 0x9021 fun f => match sealStart s d f 1 with
    | .error e => stopWith s d e
    | .ok (r, k) =>
      let ks := getKeys s f.part
      let s1 := putKeys s f.part { ks with slots := tput ks.slots r.slot { k with counter := (k.counter + 1) % 2 ^ 64 } }
      match vwrite s1 (cxOf s1 f d) (f.op 0x20 8 + 0x18) (toLe 8 k.counter) with
      | .error e => stopWith s1 d e
      | .ok s2 => sealOutCells d f r k r.cells s2
def execSealOut (d : Nat) (s : State) : Host.Outcome State Fault Refusal := .next (sealOut d s)

end Sys2Proof.Machine
end

