-- ==== Sys2Proof/Machine/Topology.lean ====
section
/-! DEFINITION. The topology record: its bytes, what is discovered, the check, and HELD (R396, R516-R520). -/

namespace Sys2Proof.Machine

/-- The discovered topology as it stands now (R370, R371, R395, R519). -/
def discovered (s : State) : Topo :=
  { flags := b2n s.guestSite + 2 * b2n s.cuff.linkUp, bound := boundCount s, holes := 512 - boundCount s
    dies := s.mgmt.topo.dies
    lanes := (List.range 48).map fun i => (i, bundleLanes (getBundle s i))
    ports := (List.range 32).map fun p =>
      let x := getPort s p
      if x.st = .up ∨ x.st = .unexpected then (p, (portCode x.st, x.farPort, waveMask s p, x.farHash))
      else (p, (portCode x.st, 0, 0, 0))
    absent := (List.range 512).filter fun c => !bound s c }

/-- The 32 bytes of a die entry (R370, R516). -/
def dieEntry (t : Topo) (i : Nat) : List Byte :=
  match tfind t.dies i with
  | none => List.replicate 32 0
  | some a => toLe 1 a.kind ++ toLe 1 a.position ++ toLe 2 a.revision ++ toLe 8 a.ident ++ toLe 4 a.repair
      ++ toLe 8 a.lanesLow ++ toLe 8 a.lanes

/-- The 32 bytes of a port entry. -/
def portEntry (t : Topo) (p : Nat) : List Byte :=
  let e := (tfind t.ports p).getD (0, 0, 0, 0)
  toLe 1 e.1 ++ toLe 1 e.2.1 ++ toLe 2 e.2.2.1 ++ toLe 4 0 ++ toLe 16 e.2.2.2 ++ toLe 8 0

/-- A bit map of 512 numbers. -/
def bitmap512 (l : List Nat) : List Byte :=
  (List.range 64).map fun i => BitVec.ofNat 8 (((List.range 8).map fun j => if l.contains (8 * i + j) then 2 ^ j else 0).foldl (· + ·) 0)

/-- The 4 KiB of a topology (R516). -/
def topoBytes (t : Topo) : List Byte :=
  let head := padTo 0x10 (toLe 2 1 ++ toLe 2 t.flags ++ toLe 2 t.bound ++ toLe 2 t.holes)
  let dies := (List.range 25).flatMap (dieEntry t)
  let lanes := (List.range 48).flatMap fun i => toLe 1 ((tfind t.lanes i).getD 0)
  let ports := (List.range 32).flatMap (portEntry t)
  padTo 4096 (head ++ dies ++ lanes ++ ports ++ bitmap512 t.absent)

/-- A topology read from its bytes; none where a field breaks its range (R13, R516, R533). -/
def parseTopo (b : List Byte) : Option Topo :=
  let ok := fld b 0 2 == 1 && decide (fld b 2 2 < 4) && zeroAt b 8 8 && zeroAt b 0x7A0 (0x1000 - 0x7A0)
    && ((List.range 25).all fun i => decide (fld b (0x10 + 32 * i) 1 ≤ 5))
    && ((List.range 48).all fun i => [0, 32, 64].contains (fld b (0x330 + i) 1))
    && ((List.range 32).all fun p => decide (fld b (0x360 + 32 * p) 1 ≤ 6) && zeroAt b (0x364 + 32 * p) 4
      && zeroAt b (0x378 + 32 * p) 8)
  if !ok then none
  else some
    { flags := fld b 2 2, bound := fld b 4 2, holes := fld b 6 2
      dies := (List.range 25).filterMap fun i =>
        let o := 0x10 + 32 * i
        if zeroAt b o 32 then none
        else some (i, { kind := fld b o 1, position := fld b (o + 1) 1, revision := fld b (o + 2) 2, ident := fld b (o + 4) 8
                        repair := fld b (o + 12) 4, lanesLow := fld b (o + 16) 8, lanes := fld b (o + 24) 8 })
      lanes := (List.range 48).map fun i => (i, fld b (0x330 + i) 1)
      ports := (List.range 32).filterMap fun p =>
        let o := 0x360 + 32 * p
        if zeroAt b o 32 then none else some (p, (fld b o 1, fld b (o + 1) 1, fld b (o + 2) 2, fld b (o + 8) 16))
      absent := (List.range 512).filter fun n => bit (fld b (0x760 + n / 8) 1) (n % 8) }

/-- The mismatches of R517 as (code, index, expected, found). -/
def mismatches (s : State) (x found : Topo) : List (Nat × Nat × Nat × Nat) :=
  ((List.range 25).filterMap fun i => match tfind x.dies i with
    | some e =>
      if e.kind = 0 then none
      else match tfind found.dies i with
        | some a => if a.kind = 0 then some (1, i, 0, 0) else if a.ident ≠ e.ident then some (2, i, 0, 0) else none
        | none => some (1, i, 0, 0)
    | none => none)
  ++ ((List.range 48).filterMap fun i =>
    let e := (tfind x.lanes i).getD 0
    let a := (tfind found.lanes i).getD 0
    if a < e then some (3, i, e, a) else none)
  ++ ((List.range 32).filterMap fun p => match tfind x.ports p with
    | some e =>
      let y := getPort s p
      if e = (0, 0, 0, 0) ∨ !(y.st == .up || y.keyed) then none
      else if e.2.2.2 ≠ y.farHash ∨ e.2.1 ≠ y.farPort then some (4, p, e.2.1, y.farPort) else none
    | none => none)
  ++ ((List.range 512).filterMap fun n => if found.absent.contains n && !x.absent.contains n then some (5, n, 0, 0) else none)
  ++ (if x.flags % 2 ≠ found.flags % 2 then [(6, 0, 0, 0)] else [])

/-- The result of the check: 0 MATCH, 1 MISMATCH, 2 NO_RECORD (R519). -/
def checkResult (s : State) : Nat × List (Nat × Nat × Nat × Nat) :=
  match s.mgmt.expected with
  | none => (2, [])
  | some x => let l := mismatches s x (discovered s); (if l.isEmpty then 0 else 1, l)

/-- Whether a port's neighbour is the one the stored expected record names; a zero entry names none (R396, R517). -/
def expectedPort (s : State) (p : Nat) : Bool :=
  match s.mgmt.expected.bind fun x => tfind x.ports p with
  | none => true
  | some e => e == (0, 0, 0, 0) || (e.2.2.2 == (getPort s p).farHash && e.2.1 == (getPort s p).farPort)

/-- UNEXPECTED ports evaluated again after a new expected record (R396). -/
def evalPorts (s : State) : State :=
  (List.range 32).foldl (fun t p =>
    let x := getPort t p
    if x.st = .unexpected ∧ expectedPort t p then pumpOut (recap (putPort t p { x with st := .up }) (0x100 + p)) else t) s

/-- The package leaving bring-up for READY or HELD (R518). -/
def judgeTopo (s : State) : State :=
  let r := checkResult s
  if r.1 = 0 then { s with pwr := { s.pwr with pkg := .ready } }
  else emit { s with pwr := { s.pwr with pkg := .held } } 7 4 {} []

/-- TOPO_READ (R519). -/
def topoRead (d : Nat) (s : State) : State :=
  withOp s d 0xF190 fun f =>
    if !f.zeroFrom 0x28 then endF s d stMalformed 0
    else
      let r := checkResult s
      let head := padTo 0x40 (toLe 1 r.1 ++ toLe 1 0 ++ toLe 2 r.2.length)
      let list := padTo (0x1000 - 0x40) ((r.2.take 496).flatMap fun e =>
        toLe 1 e.1 ++ toLe 1 0 ++ toLe 2 e.2.1 ++ toLe 2 e.2.2.1 ++ toLe 2 e.2.2.2)
      let exp := match s.mgmt.expected with
        | some x => topoBytes x
        | none => List.replicate 4096 0
      let bs := head ++ list ++ topoBytes (discovered s) ++ exp
      let a := f.op 0x20 8
      if hostBad s a bs.length then endF s d stTranslation 0 else endF (hwrite s a bs) d stOk 0
def execTopoRead (d : Nat) (s : State) : Host.Outcome State Fault Refusal := .next (topoRead d s)

/-- TOPO_ACCEPT (R520). -/
def topoAccept (d : Nat) (readbackOk : Bool) (s : State) : State :=
  withOp s d 0xF191 fun f =>
    refuseIf s d [(rBadField, decide (1 < f.op 0x20 1) || !f.zeroFrom 0x21), (rWrongState, s.pwr.pkg != .held)] <|
    let s1 := { s with pwr := { s.pwr with pkg := .ready } }
    if f.op 0x20 1 = 0 then endF s1 d stOk 0
    else
      let s2 := putRec { s1 with mgmt := { s1.mgmt with
        topoShadow := some (discovered s), expected := if readbackOk then some (discovered s) else s1.mgmt.expected
        older := if readbackOk then { s1.mgmt.older with expected := s1.mgmt.expected } else s1.mgmt.older } } 3
        (writeCopy (getRec s1 3) readbackOk)
      if readbackOk then endF (evalPorts s2) d stOk 0 else endF (emit s2 7 6 {} [(1, 3)]) d stOk 0
def execTopoAccept (d : Nat) (readbackOk : Bool) (s : State) : Host.Outcome State Fault Refusal :=
  .next (topoAccept d readbackOk s)

end Sys2Proof.Machine
end

