-- ==== Sys2Proof/Machine/Store.lean ====
section
/-! DEFINITION. The persistent store: records and their bodies, STORE, SETTING_WRITE and SETTING_READ (R425, R455, R511,
R530-R535). -/

namespace Sys2Proof.Machine

/-- Body sizes of the records (R530). -/
def recSize (i : Nat) : Nat :=
  ([2 ^ 21, 2 ^ 22, 2 ^ 20, 4096, 32768, 40960, 4096, 2 ^ 20, 64, 64, 65536, 1024][i]?).getD 0
/-- Settings records (R530). -/
def isSetting (i : Nat) : Bool := decide (i ≤ 4) || i == 8 || i == 9

/-- CRC-32C of bytes, reflected (R531, R535). -/
def crcByte (c : Nat) : Nat → Nat
  | 0 => c
  | n + 1 => crcByte (if c % 2 = 1 then Nat.xor (c / 2) 0x82F63B78 else c / 2) n
def crc32c (bs : List Byte) : Nat := Nat.xor (bs.foldl (fun c b => crcByte (Nat.xor c b.toNat) 8) 0xFFFFFFFF) 0xFFFFFFFF

/-- LIFETIME brought up to now (R535). -/
def lifeNow (s : State) : Lifetime :=
  { s.mgmt.life with poweredSeconds := s.mgmt.life.poweredSeconds + (s.time.now - s.mgmt.lifeAt) / 1000000000 }
/-- LIFETIME written to the store (R535). -/
def writeLife (s : State) : State :=
  let l := lifeNow s
  let s1 := putStored (putOlder s fun o => { o with life := s.mgmt.lifeStored }) 6
  { s1 with mgmt := { s1.mgmt with
    life := l, lifeStored := l, lifeAt := s.mgmt.lifeAt + (s.time.now - s.mgmt.lifeAt) / 1000000000 * 1000000000 } }

/-- The body of LIFETIME (R535). -/
def lifeBytes (l : Lifetime) : List Byte :=
  padTo 4096 (toLe 2 1 ++ toLe 2 0 ++ toLe 8 l.poweredSeconds ++ toLe 4 l.coldStarts ++ toLe 4 l.warmResets
    ++ l.trips.flatMap (toLe 4) ++ toLe 4 l.stores ++ toLe 4 l.compactServed ++ toLe 2 (unsigned 16 l.highest))

/-- A CRITLOG entry (R535): the record with its CRC at +0x18 and a copy of its sequence at +0x1C. -/
def critEntry (r : LogRec) : List Byte :=
  let b := r.bytes
  let z := b.take 0x18 ++ toLe 4 0 ++ toLe 4 r.seq ++ b.drop 0x20
  b.take 0x18 ++ toLe 4 (crc32c z) ++ toLe 4 r.seq ++ b.drop 0x20

/-- A Cuff window's 32 bytes (R377). -/
def cuffWinBytes (w : CuffWin) : List Byte :=
  toLe 1 (b2n w.valid + 2 * b2n w.r + 4 * b2n w.w) ++ toLe 1 w.cls ++ toLe 1 w.sizeLog2 ++ toLe 1 0 ++ toLe 4 w.rate
    ++ toLe 8 w.base ++ List.replicate 16 0
/-- A Cuff counter slot's 4 bytes (R425). -/
def cuffSlotBytes (c : CuffSlot) : List Byte :=
  toLe 4 (c.counter + b2n c.sig * 2 ^ 16 + b2n c.rd * 2 ^ 17 + b2n c.watch * 2 ^ 18)
/-- A partition rule's 16 bytes (R427). -/
def ruleBytes (r : Rule) : List Byte :=
  padTo 16 (toLe 1 r.flags ++ toLe 1 r.maxA ++ toLe 1 r.maxB ++ toLe 1 0 ++ toLe 4 r.rows ++ toLe 2 r.slots)
/-- A library entry's 32 bytes (R428). -/
def libBytes (e : LibEnt) : List Byte :=
  toLe 1 1 ++ toLe 1 e.grain ++ toLe 2 e.readers ++ toLe 1 e.writer ++ toLe 3 0 ++ toLe 8 e.va ++ toLe 8 e.off ++ toLe 8 e.len
/-- A pairing entry's 32 bytes (R445). -/
def pairBytes (k : Nat) (x : Pairing) : List Byte :=
  padTo 32 (toLe 1 1 ++ toLe 1 (k / 64) ++ toLe 1 (k % 64) ++ toLe 1 x.farPart ++ toLe 1 x.ceiling ++ toLe 3 0 ++ toLe 16 x.farHash)

/-- Bytes +0x0080 to +0x090F of the owner policy record (R425, R429). -/
def policyImage (p : Policy) : List Byte :=
  ((List.range 128).flatMap fun g => toLe 1 ((tfind p.grains g).getD (if grainBacked g then 0x80 else 0xFF)))
    ++ ((List.range 16).flatMap fun i => ruleBytes ((tfind p.rules i).getD {}))
    ++ ((List.range 32).flatMap fun i => match tfind p.library i with | some e => libBytes e | none => List.replicate 32 0)
    ++ padTo 16 (toLe 1 p.cuffPart ++ toLe 3 0 ++ toLe 4 p.cuffCap)
    ++ ((List.range 16).flatMap fun i => match tfind p.cuffWins i with | some w => cuffWinBytes w | none => List.replicate 32 0)
    ++ ((List.range 64).flatMap fun i => match tfind p.cuffSlots i with | some c => cuffSlotBytes c | none => List.replicate 4 0)

/-- The owner policy record up to its HMAC (R425). -/
def policyBody (p : Policy) : List Byte :=
  padTo 0x80 (toLe 2 1 ++ toLe 2 p.flags ++ toLe 4 p.debugCount ++ toLe 8 p.ownerSeq ++ toLe 16 p.ownerHash)
    ++ padTo (0x1000 - 0x80) (policyImage p)
    ++ ((List.range 1024).flatMap fun k => match tfind p.pairings k with | some x => pairBytes k x | none => List.replicate 32 0)
    ++ padTo 96 p.ecdsaKey ++ padTo 2592 p.mldsaKey
/-- The body of the OWNER record. -/
def policyBytes (p : Policy) : List Byte := padTo 40960 (policyBody p ++ Config.hmac384 (policyBody p))

/-- The copy of a record in force (R531). -/
def inForce (r : Rec) : Option Copy :=
  if r.a.valid && r.b.valid then some (if r.a.gen < r.b.gen then r.b else r.a)
  else if r.a.valid then some r.a else if r.b.valid then some r.b else none

/-- n bytes of a record's body, and the state with the free values taken: bytes whose layout or content the spec does
not give (the training caches, the repair map, the fill ledger) are free where SETTING_WRITE has not written them. -/
def recBytes (s : State) (i : Nat) (stored : Bool) (n : Nat) : List Byte × State :=
  let r := getRec s i
  let table (t : Tbl Byte) : List Byte × State :=
    if i = 4 ∨ i = 8 ∨ i = 9 then (mreadN t 0 n, s)
    else
      let fr := takeBytes s n
      ((List.range n).map fun k => (tfind t k).getD ((fr.1[k]?).getD 0), fr.2)
  if i = 3 then
    let t := if stored then s.mgmt.expected else (match s.mgmt.topoShadow with | some x => some x | none => s.mgmt.expected)
    ((match t with | some x => topoBytes x | none => List.replicate 4096 0).take n, s)
  else if i = 5 then ((policyBytes s.gnt.policy).take n, s)
  else if i = 6 then ((lifeBytes (if stored then s.mgmt.lifeStored else lifeNow s)).take n, s)
  else if i = 7 then ((padTo (2 ^ 20) (s.log.critlog.flatMap critEntry)).take n, s)
  else if i = 11 then (((List.range 512).flatMap fun c => toLe 2 ((tfind s.mgmt.seasonStore c).getD 0)).take n, s)
  else if stored then
    match inForce r with
    | some c => table c.body
    | none => table []
  else table r.shadow

/-- Whether a body keeps every field of a settings record in its range (R455, R511, R516, R534). -/
def bodyOk (i : Nat) (b : List Byte) : Bool :=
  if i = 8 then
    fld b 0 2 == 1 && decide (2 ≤ fld b 2 1 ∧ fld b 2 1 ≤ 15) && zeroAt b 3 1
      && decide (3600 ≤ fld b 4 4 ∧ fld b 4 4 ≤ 2592000)
      && (fld b 8 4 == 0 || decide (600 ≤ fld b 8 4 ∧ fld b 8 4 ≤ 2592000))
      && decide (1 ≤ fld b 12 2 ∧ 1 ≤ fld b 14 2 ∧ fld b 14 2 ≤ 3600)
      && decide (1 ≤ fld b 16 1 ∧ fld b 16 1 ≤ 32 ∧ 1 ≤ fld b 17 1 ∧ fld b 17 1 ≤ 32) && decide (fld b 18 2 < 2) && zeroAt b 20 44
  else if i = 9 then
    fld b 0 2 == 1 && decide (fld b 2 2 < 2 ∧ fld b 8 2 ≤ 5000) && zeroAt b 10 54
  else if i = 4 then fld b 0 2 == 1 && zeroAt b 2 2 && zeroAt b 0x1E 34
  else if i = 3 then (parseTopo b).isSome
  else true

/-- Bytes edited into the shadow of a settings record (R530, R533). -/
def editShadow (s : State) (i off : Nat) (data : List Byte) : State :=
  let small := i == 3 || i == 4 || i == 8 || i == 9
  let size := recSize i
  let old := if small then (recBytes s i false size).1 else []
  let s1 := if i = 3 then { s with mgmt := { s.mgmt with topoShadow := parseTopo (old.take off ++ data ++ old.drop (off + data.length)) } }
    else s
  let r := getRec s1 i
  let sh := if i = 3 then r.shadow
    else if small then mwriteN r.shadow off data
    else data.zipIdx.foldl (fun t e => tput t (off + e.2) e.1) r.shadow
  putRec s1 i { r with shadow := sh, edited := true }

/-- Whether an edit keeps the record's fields in their ranges. -/
def editOk (s : State) (i off : Nat) (data : List Byte) : Bool :=
  !(i == 3 || i == 4 || i == 8 || i == 9)
    || (let old := (recBytes s i false (recSize i)).1
        bodyOk i (old.take off ++ data ++ old.drop (off + data.length)))

/-- SETTING_WRITE (R530, R533). -/
def settingWrite (d : Nat) (s : State) : State :=
  withOp s d 0xF131 fun f =>
    let i := f.op 0x20 1
    let off := 64 * f.op 0x22 2
    let n := f.op 0x24 4
    let size := recSize i
    if 12 ≤ i ∨ size < off + n ∨ !(f.zero 0x21 1) ∨ !(f.zeroFrom 0x30) then refuseF s d rBadField
    else match hread s (f.op 0x28 8) n with
      | none => endF s d stTranslation 0
      | some data =>
        let policy := !isSetting i || i == 0 || i == 1 || (i == 2 && !bit s.gnt.policy.flags 4)
        refuseIf s d [(rBadField, !editOk s i off data), (rPolicy, policy)] <|
        endF (editShadow s i off data) d stOk 0
def execSettingWrite (d : Nat) (s : State) : Host.Outcome State Fault Refusal := .next (settingWrite d s)

/-- SETTING_READ (R533). -/
def settingRead (d : Nat) (s : State) : State :=
  withOp s d 0xF132 fun f =>
    let i := f.op 0x20 1
    let n := f.op 0x24 4
    refuseIf s d [(rBadField, decide (12 ≤ i ∨ 1 < f.op 0x21 1 ∨ n = 0) || !f.zero 0x22 2 || !f.zeroFrom 0x30)] <|
    let r := recBytes s i (f.op 0x21 1 == 1) (min n (recSize i))
    hostOut r.2 d (f.op 0x28 8) r.1
def execSettingRead (d : Nat) (s : State) : Host.Outcome State Fault Refusal := .next (settingRead d s)

/-- The repair map as it stands (R454): what its shadow holds. Once the cores are bound a hole stands there as 0xFF. -/
def liveMap (s : State) : RepairMap :=
  { binds := if s.flt.bindings.isEmpty then [] else (List.range 512).map fun n => (n, ((getBind s n).column).getD 0xFF)
    pages := s.flt.retiredPages, banks := s.flt.retiredBanks, remaps := s.flt.remaps, badSpares := s.flt.badSpares
    badSites := (s.flt.sites.filter fun e => e.2.bad).map Prod.fst
    groups := (s.flt.cores.filter fun e => !e.2.groups.isEmpty).map fun e => (e.1, e.2.groups)
    units := s.flt.nearUnits
    lanes := (s.fab.bundles.filter fun e => !e.2.failed.isEmpty).map fun e => (e.1, e.2.failed)
    waves := (s.plauf.ports.filter fun e => !e.2.retiredWaves.isEmpty).map fun e => (e.1, e.2.retiredWaves)
    ports := (s.plauf.ports.filter fun e => e.2.st == .retired).map Prod.fst }

/-- Whether a settings record has edits that are not stored. -/
def isEdited (s : State) (i : Nat) : Bool := (getRec s i).edited || (i == 2 && liveMap s != s.mgmt.repairStored)

/-- One record stored (R531, R532); the flag says that its read-back failed twice. -/
def storeOne (s : State) (bad : List Nat) (i : Nat) : State × Bool :=
  let ok := !bad.contains i
  let s1 := putRec s i (writeCopy (getRec s i) ok)
  if !ok then (s1, true)
  else if i = 2 then ({ s1 with mgmt := { s1.mgmt with
    repairStored := liveMap s1, older := { s1.mgmt.older with repair := s1.mgmt.repairStored } } }, false)
  else if i = 3 then ({ s1 with mgmt := { s1.mgmt with
    older := { s1.mgmt.older with expected := s1.mgmt.expected }
    expected := match s1.mgmt.topoShadow with | some x => some x | none => s1.mgmt.expected } }, false)
  else (s1, false)

/-- Records stored in order until one fails. -/
def storeList (s : State) (bad : List Nat) : List Nat → State × Bool
  | [] => (s, false)
  | i :: r =>
    let x := storeOne s bad i
    if x.2 then x else storeList x.1 bad r

/-- STORE (R518, R532, R535). Mask bits 12-15 name no record and are ignored as those of device records are (R530, assumption 120). -/
def store (d : Nat) (badReadback : List Nat) (s : State) : State :=
  withOp s d 0xF130 fun f =>
    let m := f.op 0x20 2
    refuseIf s d [(rBadField, !f.zeroFrom 0x22)] <|
    let l := (List.range 12).filter fun i => isSetting i && (if m = 0 then isEdited s i else bit m i)
    let x := storeList s badReadback l
    let s1 := { x.1 with mgmt := { x.1.mgmt with life := { x.1.mgmt.life with stores := x.1.mgmt.life.stores + 1 } } }
    let s2 := emit (writeLife s1) 7 5 {} []
    if x.2 then refuseF s2 d rStoreFail
    else
      let s3 := if l.contains 3 then evalPorts s2 else s2
      let s4 := if l.contains 3 && s3.pwr.pkg == .held && (checkResult s3).1 == 0 then
          { s3 with pwr := { s3.pwr with pkg := .ready } } else s3
      endF s4 d stOk 0
def execStore (d : Nat) (badReadback : List Nat) (s : State) : Host.Outcome State Fault Refusal :=
  .next (store d badReadback s)

/-- LIFETIME_HOURLY (R535). -/
def lifetimeHourly (s : State) : State := writeLife s
def execLifetimeHourly (s : State) : Host.Outcome State Fault Refusal := .next (lifetimeHourly s)

end Sys2Proof.Machine
end

