-- ==== Sys2Proof/Machine/Owner.lean ====
section
/-! DEFINITION. Owner messages, the owner policy record, debug entry and zero-fills (R419-R429, R434, R438, R445-R448). -/

namespace Sys2Proof.Machine

/-- ASCII text as bytes, from its codes. -/
def ascii (l : List Nat) : List Byte := l.map fun n => BitVec.ofNat 8 n

/-! Keys (R417). -/

/-- The active image of a type (R536). -/
def activeImage (s : State) (ty : Nat) : Option Image := tfind (getFw s ty).slots (getFw s ty).active
/-- Measurement 2: the active Gauntlet stage and its version (R431). -/
def stageDigest (s : State) : List Byte :=
  match activeImage s 1 with
  | some i => Config.sha384 (toLe 48 i.digest ++ toLe 4 i.version)
  | none => Config.sha384 []
/-- The device identity key, derived with the label "TMD DEVICE ID". -/
def identityKey : Nat := Config.hkdf Config.deviceSecret [] (ascii [84, 77, 68, 32, 68, 69, 86, 73, 67, 69, 32, 73, 68])
/-- The alias key, derived with measurements 1 and 2. -/
def aliasKey (s : State) : Nat := Config.hkdf Config.deviceSecret [] (fit 48 Config.romDigest ++ fit 48 (stageDigest s))
/-- 96 bytes of a signature by a key, free once the keys are zeroised (R447). -/
def signBy (s : State) (key : Nat) (m : List Byte) : List Byte × State :=
  if s.gnt.keysZeroised then takeBytes s 96 else (fit 96 (Config.ecdsaSign key m), s)

/-! The guest (R377, R380). -/

/-- The Cuff configured from the owner policy, with the guest out of reset where the policy enables it. -/
def loadCuff (s : State) : State :=
  let p := s.gnt.policy
  if bit p.flags 2 && s.guestSite then
    { s with cuff := { s.cuff with
      part := if p.cuffPart = 0xFF then none else some p.cuffPart
      cap := p.cuffCap, wins := p.cuffWins, slots := p.cuffSlots, guestReset := false } }
  else { s with cuff := { s.cuff with guestReset := true, linkUp := false, watches := [] } }
/-- The guest held in reset: its WATCHes are discarded. -/
def holdGuest (s : State) : State :=
  { s with cuff := { s.cuff with guestReset := true, linkUp := false, watches := [] } }

/-! Messages (R419-R422). -/

/-- An owner message's fields. -/
structure Owner where
  buf : Nat
  all : List Byte
  seq : Nat
  body : List Byte

/-- Bytes of both signatures. -/
def sigBytes : Nat := 96 + 4627

/-- Check 1 of R420. -/
def parseOwner (b : List Byte) (buf kind : Nat) : Option Owner :=
  let n := fld b 4 4
  if b.length = 0x40 + n + sigBytes ∧ fld b 0 1 = kind ∧ 1 ≤ kind ∧ kind ≤ 5 ∧ fld b 1 1 = 1 ∧ zeroAt b 2 2 ∧ zeroAt b 0x20 32 then
    some { buf := buf, all := b, seq := fld b 8 8, body := (b.drop 0x40).take n }
  else none

/-- The op of a claim body (R423). -/
def Owner.op (m : Owner) : Nat := if m.body.isEmpty then 0xFF else fld m.body 0 1

/-- Check 2 of R420. -/
def kindOk (s : State) (kind : Nat) (m : Owner) : Bool :=
  !s.gnt.debug && (if claimed s then (kind != 1 || m.op == 1 || m.op == 2) else (kind == 1 && m.op == 0))

/-- Check 4 of R420, with the keys in the body for CLAIM. -/
def signedOk (s : State) (kind : Nat) (m : Owner) : Bool :=
  let own := kind == 1 && m.op == 0
  let e := if own then (m.body.drop 8).take 96 else s.gnt.policy.ecdsaKey
  let q := if own then (m.body.drop 0x68).take 2592 else s.gnt.policy.mldsaKey
  let signed := m.all.take (0x40 + m.body.length)
  let sigs := m.all.drop (0x40 + m.body.length)
  Config.ecdsaVerify e (Config.sha384 signed) (sigs.take 96) && Config.mldsaVerify q signed (sigs.drop 96)

/-- The reply of R422 written at the start of the buffer, and the command ended. -/
def ownerReply (s : State) (d kind : Nat) (m : Owner) (area : List Byte) : State :=
  let head := toLe 1 kind ++ toLe 1 1 ++ toLe 2 0 ++ toLe 4 area.length ++ toLe 8 s.gnt.policy.ownerSeq
    ++ toLe 16 s.mgmt.idHash ++ fit 32 (Config.sha384 m.all) ++ area
  let r := signBy s (aliasKey s) head
  hostOut r.2 d m.buf (head ++ r.1)

/-- The record OWNER written, or its copy lost (R421, R531). -/
def commitOwner (s : State) (ok : Bool) : State := putRec s 5 (writeCopy (getRec s 5) ok)

/-- An owner message received and checked (R420, R421): `body` is check 6 with the message's effect, `after` what follows
its commit and gives the reply's area. -/
def ownerMsg (s : State) (d kind : Nat) (commitOk : Bool) (body : Owner → Option State)
    (after : Owner → State → List Byte × State) : State :=
  withGnt s d 0xF160 fun f =>
    let n := f.op 0x28 4
    if f.op 0x2C 1 ≠ kind ∧ !(kind = 1 ∧ (f.op 0x2C 1 = 0 ∨ 5 < f.op 0x2C 1)) then s
    else if !f.zeroFrom 0x2D then refuseF s d rBadField
    else if n < 0x40 + sigBytes ∨ 65536 < n then refuseF s d rAuth
    else match hread s (f.op 0x20 8) n with
      | none => endF s d stTranslation 0
      | some b => match parseOwner b (f.op 0x20 8) (f.op 0x2C 1) with
        | none => refuseF s d rAuth
        | some m =>
          if !kindOk s kind m then refuseF s d rPolicy
          else if fld b 0x10 16 ≠ s.mgmt.idHash ∨ !signedOk s kind m then refuseF s d rAuth
          else if kind ≤ 4 ∧ m.seq ≤ s.gnt.policy.ownerSeq then refuseF s d rRollback
          else match body m with
            | none => refuseF s d rPolicy
            | some t =>
              if kind ≤ 4 ∧ !commitOk then refuseF (emit (commitOwner s false) 6 2 {} []) d rPolicy
              else
                let r := after m (if kind ≤ 4 then commitOwner (putOlder t fun o => { o with policy := s.gnt.policy }) true else t)
                ownerReply r.2 d kind m r.1

/-- A policy put in force. -/
def setPolicy (s : State) (p : Policy) : State := { s with gnt := { s.gnt with policy := p } }

/-! Claim (R423, R424). -/

/-- Every partition destroyed as by PART_DESTROY, with the VFs bound to them (R423). -/
def destroyAll (s : State) : State :=
  (tkeys s.parts).foldl (fun t p =>
    let u := destroyPart t p
    { u with vfs := tfilter u.vfs fun _ v => v.part != p }) s

/-- The first 16 bytes of SHA-384 over the owner's ECDSA key. -/
def ownerHashOf (key : List Byte) : Nat := leNat ((Config.sha384 key).take 16)

/-- OWNER_MSG kind 1: CLAIM, TRANSFER and RELEASE. RELEASE keeps the stored owner sequence. -/
def ownerMsgClaim (d : Nat) (commitOk : Bool) (s : State) : State :=
  ownerMsg s d 1 commitOk
    (fun m =>
      let b := m.body
      let e := (b.drop 8).take 96
      let q := (b.drop 0x68).take 2592
      let old := s.gnt.policy
      if b.length ≠ 0xA88 ∨ !zeroAt b 1 7 then none
      else if m.op = 2 then
        if zeroAt b 8 2688 then some (setPolicy s { debugCount := old.debugCount, ownerSeq := old.ownerSeq }) else none
      else some (setPolicy s { flags := 1, debugCount := old.debugCount, ownerSeq := m.seq, ownerHash := ownerHashOf e
                               ecdsaKey := e, mldsaKey := q }))
    (fun m t =>
      let u := if m.op = 0 then t else setPolicy (destroyAll (setPolicy t s.gnt.policy)) t.gnt.policy
      ([], recapAll (loadCuff u)))
def execOwnerMsgClaim (d : Nat) (commitOk : Bool) (s : State) : Host.Outcome State Fault Refusal :=
  .next (ownerMsgClaim d commitOk s)

/-! Policy (R425-R429). -/

/-- Entries of a range that give a value. -/
def entriesOf {α : Type} (n : Nat) (f : Nat → Option α) : Tbl α := (List.range n).filterMap fun i => (f i).map fun x => (i, x)

/-- A partition rule from its bytes at an offset; none where a reserved field is set (R427). -/
def ruleOk (b : List Byte) (o : Nat) : Bool :=
  decide (fld b o 1 < 128) && zeroAt b (o + 3) 1 && zeroAt b (o + 10) 6
def ruleAt (b : List Byte) (o : Nat) : Rule :=
  { flags := fld b o 1, maxA := fld b (o + 1) 1, maxB := fld b (o + 2) 1, rows := fld b (o + 4) 4, slots := fld b (o + 8) 2 }

/-- A library entry from its bytes (R428). -/
def libOk (b : List Byte) (o : Nat) : Bool :=
  decide (fld b o 1 < 2) && zeroAt b (o + 5) 3
    && (fld b o 1 == 0 || (grainBacked (fld b (o + 1) 1) && (decide (fld b (o + 4) 1 < 16) || fld b (o + 4) 1 == 0xFF)
      && inLibrary (fld b (o + 8) 8) && fld b (o + 8) 8 % 2 ^ 23 == 0 && fld b (o + 16) 8 % 2 ^ 23 == 0
      && fld b (o + 24) 8 % 2 ^ 23 == 0 && decide (fld b (o + 16) 8 + fld b (o + 24) 8 ≤ 2 ^ 33)
      && decide (fld b (o + 8) 8 + fld b (o + 24) 8 ≤ 2 ^ 47)))
def libAt (b : List Byte) (o : Nat) : Option LibEnt :=
  if fld b o 1 = 1 then
    some { grain := fld b (o + 1) 1, readers := fld b (o + 2) 2, writer := fld b (o + 4) 1, va := fld b (o + 8) 8
           off := fld b (o + 16) 8, len := fld b (o + 24) 8 }
  else none

/-- A Cuff window and a counter slot from their bytes (R377, R425). -/
def winOk (b : List Byte) (o : Nat) : Bool :=
  decide (fld b o 1 < 8) && zeroAt b (o + 3) 1 && zeroAt b (o + 16) 16
    && (!bit (fld b o 1) 0 || (decide (2 ≤ fld b (o + 1) 1 ∧ fld b (o + 1) 1 ≤ 7 ∧ 13 ≤ fld b (o + 2) 1 ∧ fld b (o + 2) 1 ≤ 36)
      && fld b (o + 8) 8 % 2 ^ fld b (o + 2) 1 == 0 && decide (fld b (o + 8) 8 + 2 ^ fld b (o + 2) 1 ≤ 0x7F0000000000)))
def winAt (b : List Byte) (o : Nat) : Option CuffWin :=
  if zeroAt b o 32 then none
  else some { valid := bit (fld b o 1) 0, r := bit (fld b o 1) 1, w := bit (fld b o 1) 2, cls := fld b (o + 1) 1
              sizeLog2 := fld b (o + 2) 1, rate := fld b (o + 4) 4, base := fld b (o + 8) 8 }
def cuffSlotAt (b : List Byte) (o : Nat) : Option CuffSlot :=
  let w := fld b o 4
  if w = 0 then none else some { counter := w % 65536, sig := bit w 16, rd := bit w 17, watch := bit w 18 }

/-- The body of a policy message as a policy beside the one in force; none where a reserved value is set (R429). The
CLAIMED flag, keys, pairings and the debug count stay. Offsets are those of the record less 0x70. -/
def parsePolicy (old : Policy) (b : List Byte) : Option Policy :=
  let grain (g : Nat) := fld b (0x10 + g) 1
  let ok := b.length == 2208 && decide (fld b 0 2 < 32) && zeroAt b 2 14
    && ((List.range 128).all fun g =>
      if grainBacked g then decide (grain g < 16 ∨ (0x80 ≤ grain g ∧ grain g ≤ 0x82)) else grain g == 0xFF)
    && ((List.range 16).all fun i => ruleOk b (0x90 + 16 * i)) && ((List.range 32).all fun i => libOk b (0x190 + 32 * i))
    && (decide (fld b 0x590 1 < 16) || fld b 0x590 1 == 0xFF) && zeroAt b 0x591 3 && decide (fld b 0x594 4 ≤ 64000)
    && zeroAt b 0x598 8 && ((List.range 16).all fun i => winOk b (0x5A0 + 32 * i))
    && ((List.range 64).all fun i => let w := fld b (0x7A0 + 4 * i) 4
      decide (w < 2 ^ 19) && (w / 65536 == 0 || decide (w % 65536 < 1024)))
  if ok then
    some { old with
      flags := fld b 0 2 / 2 * 2 + old.flags % 2
      grains := entriesOf 128 fun g => if grainBacked g && grain g != 0x80 then some (grain g) else none
      rules := entriesOf 16 fun i => some (ruleAt b (0x90 + 16 * i))
      library := entriesOf 32 fun i => libAt b (0x190 + 32 * i)
      cuffPart := fld b 0x590 1, cuffCap := fld b 0x594 4
      cuffWins := entriesOf 16 fun i => winAt b (0x5A0 + 32 * i)
      cuffSlots := entriesOf 64 fun i => cuffSlotAt b (0x7A0 + 4 * i) }
  else none

/-- Whether a policy withdraws from an existing partition what it holds (R429). -/
def withdraws (s : State) (new : Policy) : Bool :=
  let old := s.gnt.policy
  let grain (p : Policy) (g : Nat) := (tfind p.grains g).getD 0x80
  s.parts.any fun e =>
    let p := e.1
    let r : Rule := (tfind new.rules p).getD {}
    let was := getRule s p
    ((List.range 128).any fun g => (grain old g == p && grain new g != p)
      || (tfind s.mem.grainOwner g == some p && grain new g != 0x80 && grain new g != p))
    || Nat.land e.2.rows r.rows != e.2.rows || decide (r.maxA < e.2.waysA ∨ r.maxB < e.2.waysB ∨ r.slots < e.2.slotCount)
    || (bit was.flags 5 && !bit r.flags 5) || (bit was.flags 6 && !bit r.flags 6)
    || old.library.any fun l => (l.2.writer == p || bit l.2.readers p) && !(new.library.any fun n =>
        n.2.grain == l.2.grain && n.2.va == l.2.va && n.2.off == l.2.off && n.2.len == l.2.len
          && (!bit l.2.readers p || bit n.2.readers p) && (l.2.writer != p || n.2.writer == p || n.2.writer == 0xFF))

/-- Whether two policies configure the Cuff alike. -/
def sameCuff (a b : Policy) : Bool :=
  a.cuffPart == b.cuffPart && a.cuffCap == b.cuffCap && a.cuffWins == b.cuffWins && a.cuffSlots == b.cuffSlots

/-- OWNER_MSG kind 2. -/
def ownerMsgPolicy (d : Nat) (commitOk : Bool) (s : State) : State :=
  ownerMsg s d 2 commitOk
    (fun m => match parsePolicy s.gnt.policy m.body with
      | none => none
      | some new =>
        if withdraws s new || (!s.cuff.guestReset && !sameCuff s.gnt.policy new) then none
        else some (setPolicy s { new with ownerSeq := m.seq }))
    (fun _ t => ([], recapAll (if s.cuff.guestReset then loadCuff t else if bit t.gnt.policy.flags 2 then t else holdGuest t)))
def execOwnerMsgPolicy (d : Nat) (commitOk : Bool) (s : State) : Host.Outcome State Fault Refusal :=
  .next (ownerMsgPolicy d commitOk s)

/-! Pairing (R445, R446). -/

/-- The pairing entries of a body, as (key, entry, VALID); none where one breaks its range. -/
def pairEntries (b : List Byte) : Option (List (Nat × Pairing)) :=
  let n := fld b 1 1
  let o (i : Nat) := 8 + 32 * i
  let ok := b.length == 8 + 32 * n && decide (1 ≤ n ∧ n ≤ 16 ∧ fld b 0 1 ≤ 1) && zeroAt b 2 6
    && (List.range n).all fun i => fld b (o i) 1 == 1 && decide (fld b (o i + 1) 1 < 16 ∧ fld b (o i + 2) 1 < 64
      ∧ fld b (o i + 3) 1 < 16 ∧ fld b (o i + 4) 1 < 32) && zeroAt b (o i + 5) 3 && zeroAt b (o i + 24) 8
  if ok then
    some ((List.range n).map fun i => (64 * fld b (o i + 1) 1 + fld b (o i + 2) 1,
      { farPart := fld b (o i + 3) 1, ceiling := fld b (o i + 4) 1, farHash := fld b (o i + 8) 16 }))
  else none

/-- Pairings added or removed one by one; none when a handle is already valid, or is not (R445). -/
def pairStep (remove : Bool) : List (Nat × Pairing) → Tbl Pairing → Option (Tbl Pairing)
  | [], t => some t
  | (k, x) :: r, t =>
    if (tfind t k).isSome = remove then pairStep remove r (if remove then tdel t k else tput t k x) else none

/-- A removed pairing: exports that name its handle stop accepting, and requests through it that have not left are
DENIED (R446). -/
def unpair (s : State) (k : Nat) : State :=
  let s1 := { s with plauf := { s.plauf with
    exports := tmap s.plauf.exports fun i e => if i / 256 = k / 64 ∧ e.handle = k % 64 then { e with open_ := false } else e } }
  (s1.plauf.out.filter fun e => e.2.kind != 8 && e.2.part == k / 64 && e.2.handle == k % 64 && decide (253 < e.2.port)).foldl
    (fun t e => failOut t e.1 e.2 stPermission) s1

/-- OWNER_MSG kind 3. -/
def ownerMsgPairing (d : Nat) (commitOk : Bool) (s : State) : State :=
  ownerMsg s d 3 commitOk
    (fun m => (pairEntries m.body).bind fun l =>
      (pairStep (fld m.body 0 1 == 1) l s.gnt.policy.pairings).map fun t =>
        setPolicy s { s.gnt.policy with pairings := t, ownerSeq := m.seq })
    (fun m t => ([], if fld m.body 0 1 = 1 then ((pairEntries m.body).getD []).foldl (fun u e => unpair u e.1) t else t))
def execOwnerMsgPairing (d : Nat) (commitOk : Bool) (s : State) : Host.Outcome State Fault Refusal :=
  .next (ownerMsgPairing d commitOk s)

/-! Debug entry (R447). -/

/-- Steps 1-5 of R447. -/
def enterDebug (s : State) (scope : Nat) : State :=
  let s1 := (tkeys s.parts).foldl (fun t p => if isSealed t p then
      let u := destroyPart t p
      { u with vfs := tfilter u.vfs fun _ v => v.part != p }
    else clearPart t p) s
  let s2 := (List.range 32).foldl (fun t p => portLeave t p .down (some 3)) (holdGuest s1)
  { s2 with
    vfs := tmap s2.vfs fun _ v => if v.tdi = 2 ∨ v.tdi = 3 then { v with tdi := 4 } else v
    gnt := { s2.gnt with keys := [], streams := [], keysZeroised := true, spdm := [], debugPending := true, debugScope := scope } }

/-- OWNER_MSG kind 4. -/
def ownerMsgDebug (d : Nat) (commitOk : Bool) (s : State) : State :=
  ownerMsg s d 4 commitOk
    (fun m =>
      if m.body.length = 8 ∧ fld m.body 0 1 < 8 ∧ zeroAt m.body 1 7 then
        some (setPolicy s { s.gnt.policy with debugCount := (s.gnt.policy.debugCount + 1) % 2 ^ 32, ownerSeq := m.seq })
      else none)
    (fun m t => ([], enterDebug t (fld m.body 0 1)))
def execOwnerMsgDebug (d : Nat) (commitOk : Bool) (s : State) : Host.Outcome State Fault Refusal :=
  .next (ownerMsgDebug d commitOk s)

/-- DEBUG_ENTERED (step 6 of R447). -/
def debugEntered (s : State) : State :=
  if s.gnt.debugPending && s.gnt.fills.isEmpty then
    emit { s with gnt := { s.gnt with debug := true, debugPending := false } } 6 0xC {} []
  else s
def execDebugEntered (s : State) : Host.Outcome State Fault Refusal := .next (debugEntered s)

/-! Key release (R434). -/

/-- One entry of a key release unwrapped: its slot, use and key; none where it breaks its rules or its tag fails. -/
def unwrapEntry (wrap : Nat) (e : List Byte) : Option (Nat × Nat × Nat) :=
  let slot := fld e 0 1
  let use := fld e 1 1
  let iv := toLe 1 slot ++ List.replicate 11 0
  let ct := (e.drop 16).take 32
  if 15 < slot ∨ 7 < use ∨ !zeroAt e 2 14 ∨ (bit use 0 ∧ 1 < use) then none
  else if Config.gcmTag wrap iv (e.take 16) ct = e.drop 48 then some (slot, use, leNat (gcmCrypt wrap iv ct))
  else none

/-- A list of results, none if one is none. -/
def seqO {α : Type} : List (Option α) → Option (List α)
  | [] => some []
  | none :: _ => none
  | some x :: r => (seqO r).map (x :: ·)

/-- A released key put in its slot; OUT and SNAP draw a session nonce and derive the working key (R434). -/
def releaseKey (p : Nat) (x : State × List (Nat × Nat)) (e : Nat × Nat × Nat) : State × List (Nat × Nat) :=
  let s := x.1
  let ks := getKeys s p
  let put (t : State) (k : KeySlot) : State := putKeys t p { ks with slots := tput ks.slots e.1 k }
  if bit e.2.1 1 || bit e.2.1 2 then
    let nonce := Config.entropy s.gnt.drawn % 2 ^ 128
    let key := Config.hkdf e.2.2 (toLe 16 nonce) (ascii [84, 77, 68, 32, 83, 69, 65, 76, 32, 79, 85, 84])
    (put { s with gnt := { s.gnt with drawn := s.gnt.drawn + 1 } } { use := e.2.1, key := key, nonce := nonce },
      x.2 ++ [(e.1, nonce)])
  else (put s { use := e.2.1, key := e.2.2, nonce := 0 }, x.2)

/-- The keys that a key release unwraps, with its partition; none where the body breaks R434. -/
def releaseBody (s : State) (b : List Byte) : Option (Nat × List (Nat × Nat × Nat)) :=
  let p := fld b 0 1
  let n := fld b 1 1
  match (getKeys s p).sealing with
  | none => none
  | some k =>
    let digest := (Config.sha384 (fit 96 (Config.publicKey k))).take 16
    let wrap := Config.hkdf (Config.ecdh k ((b.drop 0x18).take 96)) digest
      (ascii [84, 77, 68, 32, 75, 69, 89, 32, 82, 69, 76, 69, 65, 83, 69] ++ toLe 1 p)
    if isSealed s p && b.length == 0x80 + 64 * n && decide (1 ≤ n ∧ n ≤ 16) && zeroAt b 2 6 && zeroAt b 0x78 8
        && (b.drop 8).take 16 == digest then
      (seqO ((chunks 64 (b.drop 0x80)).map (unwrapEntry wrap))).map fun l => (p, l)
    else none

/-- OWNER_MSG kind 5; for a partition in reset it is applied after the reset (R449). -/
def ownerMsgKeyRelease (d : Nat) (s : State) : State :=
  let waits (m : Owner) : Bool := ((getP s (fld m.body 0 1)).map (·.inReset)).getD false
  let held := match getF s d with
    | none => false
    | some f => match hread s (f.op 0x20 8) (min 65536 (f.op 0x28 4)) with
      | some b => match parseOwner b 0 5 with
        | some m => waits m
        | none => false
      | none => false
  if held then s
  else ownerMsg s d 5 true (fun m => (releaseBody s m.body).map fun _ => s)
    (fun m t => match releaseBody t m.body with
      | none => ([], t)
      | some (p, l) =>
        let r := l.foldl (releaseKey p) (t, [])
        let area := if r.2.isEmpty then [] else (List.range 16).flatMap fun i =>
          toLe 16 (((r.2.find? fun e => e.1 == i).map Prod.snd).getD 0)
        (area, r.1))
def execOwnerMsgKeyRelease (d : Nat) (s : State) : Host.Outcome State Fault Refusal := .next (ownerMsgKeyRelease d s)

/-! Zero-fills (R438). -/

/-- The memory of a set of slices and grains filled with zeros. -/
def fillZero (s : State) (x : Fill) : State :=
  let s1 := x.slices.foldl (fun t n => pzero t (n * 2 ^ 27) (2 ^ 27)) s
  x.grains.foldl (fun t g => pzero t (2 ^ 38 + g / 16 * 2 ^ 37 + g % 16 * 2 ^ 33) (2 ^ 33)) s1

/-- A set of fills completed, with its record. -/
def endFill (s : State) (x : Fill) : State :=
  let s1 := putStored (putOlder (fillZero s x) fun o => { o with fills := s.gnt.fills }) 10
  emit { s1 with gnt := { s1.gnt with fills := s1.gnt.fills.erase x } } 6 0xB { part := x.part }
    [(4, x.slices.length), (4, x.grains.length)]

/-- ZERO_FILL_DONE: the oldest set of a partition; fills pause in TRIP (R578). -/
def zeroFillDone (p : Nat) (s : State) : State :=
  if s.pwr.pkg = .trip then s
  else match s.gnt.fills.find? fun x => x.part == p with
    | none => s
    | some x => endFill s x
def execZeroFillDone (p : Nat) (s : State) : Host.Outcome State Fault Refusal := .next (zeroFillDone p s)

end Sys2Proof.Machine
end

