-- ==== Sys2Proof/Machine/PowerOps.lean ====
section
/-! DEFINITION. Package states, performance levels, the host's cap and TRIP_ACK (R78, R482, R485, R487, R496, R508, R509). -/

namespace Sys2Proof.Machine

/-- Whether a fuse may be programmed now (R578). -/
def fuseAllowed (s : State) : Bool := !s.th.coolantLoss && s.pwr.pkg != .trip

/-- A type's fuse counter brought to the level of its active image, if that is higher; held while R578 forbids it. -/
def blowFuse (s : State) (ty : Nat) : State :=
  let x := getFw s ty
  match tfind x.slots x.active with
  | none => s
  | some i =>
    if !fuseAllowed s then putFw s ty { x with fuseDue := true }
    else putFw s ty { x with fuse := max x.fuse i.level, fuseDue := false }

/-- Fuses that fell due while R578 forbade them. -/
def blowDue (s : State) : State :=
  (tkeys s.mgmt.fw).foldl (fun t ty => if (getFw t ty).fuseDue then blowFuse t ty else t) s

/-- Whether a partition is ONLINE. -/
def anyOnline (s : State) : Bool := s.parts.any fun e => e.2.st == .online

/-- PKG_STATE (R485): a level change slews and completes at LEVEL_SLEW_DONE; a state other than RUN is entered once the
started work has drained; in TRIP, STANDBY lies beneath the latched TRIP (R508). While an earlier PKG_STATE is under way it waits. While RUN drains the state shown is
READY (assumption 41). -/
def pkgState (d : Nat) (s : State) : State :=
  withOp s d 0xF110 fun f =>
    let t := f.op 0x20 1
    let l := f.op 0x21 1
    refuseIf s d [(rBadField, decide (t < 1 ∨ 3 < t ∨ (t = 3 ∧ 7 < l)) || !f.zeroFrom 0x22),
      (rTripped, s.pwr.pkg == .trip && t != 1),
      (rCold, t == 3 && s.pwr.pkg != .run && decide (lowestLogic s < 320)), (rBusy, t == 1 && anyOnline s)] <|
    if s.pwr.slewTo.isSome || s.pwr.drainTo.isSome then s
    else if s.pwr.pkg = .trip then
      let s1 := (List.range 32).foldl (fun u p => portLeave u p .down (some 6)) s
      endF { s1 with pwr := { s1.pwr with tripStandby := true, enabled := s1.pwr.enabled.filter (· < 2)
                                          good := s1.pwr.good.filter (· < 2) } } d stOk 0
    else if t = 3 then
      if s.pwr.pkg = .run then putF { s with pwr := { s.pwr with slewTo := some (l, d) } } d { f with phase := .running }
      else
        let s1 := enterPkg s .run
        endF { s1 with pwr := { s1.pwr with level := l } } d stOk l
    else
      let dest : Pkg := if t = 1 then .standby else .ready
      if s.pwr.pkg = .run then
        let s1 := putF { s with pwr := { s.pwr with
          pkg := .ready, level := 0, drainAt := some (s.time.now + 5000000), drainTo := some (dest, d) } } d { f with phase := .running }
        settleDrain ((flightsOf s1 fun g => g.live && g.trickle.asleep && g.q != 0).foldl
          (fun u e => trickleSaveOrStop u e stPreempted) s1)
      else endF (enterPkg s dest) d stOk 0
def execPkgState (d : Nat) (s : State) : Host.Outcome State Fault Refusal := .next (pkgState d s)

/-- LEVEL_SLEW_DONE (R482): both rails are within 5 mV of the new level. -/
def levelSlewDone (s : State) : State :=
  match s.pwr.slewTo with
  | none => s
  | some (l, d) => endF { s with pwr := { s.pwr with level := l, slewTo := none } } d stOk l
def execLevelSlewDone (s : State) : Host.Outcome State Fault Refusal := .next (levelSlewDone s)

/-- READY_DRAIN_TIMEOUT (R485): what still runs 5 ms after RUN was left completes PREEMPTED. -/
def readyDrainTimeout (s : State) : State :=
  match s.pwr.drainAt with
  | none => s
  | some t => if s.time.now < t then s else settleDrain (stopWhere s stPreempted fun f => f.q != 0 && !f.trickle.asleep)
def execReadyDrainTimeout (s : State) : Host.Outcome State Fault Refusal := .next (readyDrainTimeout s)

/-- POWER_CAP (R496). -/
def powerCap (d : Nat) (s : State) : State :=
  withOp s d 0xF111 fun f =>
    let w := f.op 0x20 2
    refuseIf s d [(rBadField, decide (0 < w ∧ w < 1200) || !f.zeroFrom 0x22)] <|
    let off (t : Tower) : Tower := if w = 0 then { t with lvlHost := 0 } else t
    endF { s with pwr := { s.pwr with hostCap := w }, th := { s.th with a := off s.th.a, b := off s.th.b } } d stOk 0
def execPowerCap (d : Nat) (s : State) : Host.Outcome State Fault Refusal := .next (powerCap d s)

/-- The conditions of R509 for leaving TRIP: readings in force, and restored flow when a cause was COOLANT. -/
def tripClear (s : State) : Bool :=
  let cool (t : Tower) : Bool := decide (t.r.hotLogic ≤ 85 * 64 ∧ t.r.hotF ≤ 80 * 64 ∧ t.r.hotStack ≤ 80 * 64)
    && t.r.stackTemps.all fun x => decide (x ≤ 80 * 64)
  cool s.th.a && cool s.th.b && (!(s.pwr.tripCauses ++ s.pwr.tripWas).contains 4 || (match s.th.flowOkSince with
    | some t => decide (t + 1000000000 ≤ s.time.now)
    | none => false))

/-- TRIP left for READY, or for STANDBY when that was reached (R509). -/
def leaveTrip (s : State) : State :=
  let s1 := { s with th := { s.th with
    coolantLoss := if s.pwr.tripCauses.contains 4 then false else s.th.coolantLoss
    a := { s.th.a with tripSeen := 0 }, b := { s.th.b with tripSeen := 0 } } }
  let s2 := { s1 with pwr := { s1.pwr with
    pkg := if !bootEnded s1 then .boot else if s1.pwr.tripStandby then .standby else .ready, tripCauses := [], tripStandby := false
    enabled := if s1.pwr.tripStandby then s1.pwr.enabled else [0, 1, 2, 3, 4] } }
  blowDue s2

/-- A bring-up phase begun, with its record (R513). -/
def startPhase (s : State) (p : Phase) : State :=
  let s1 := { s with mgmt := { s.mgmt with phase := p, phaseStart := s.time.now, waitNet := false, netDone := false } }
  emit s1 7 2 {} [(1, phaseCode s1)]

/-- BOOT_NET at its end: once no TRIP condition holds, BOOT_MEM starts, with TRIP_CLEARED when a package reset ended a TRIP
(R509, R515). -/
def endNet (s : State) : State :=
  if s.mgmt.phase = .bootNet && s.mgmt.netDone && tripClear s then
    let s1 := if s.pwr.tripWas.isEmpty then s
      else emit { s with pwr := { s.pwr with tripWas := [] }
                         th := { s.th with coolantLoss := if s.pwr.tripWas.contains 4 then false else s.th.coolantLoss } } 1 2 {} []
    startPhase s1 .bootMem
  else s

/-- TRIP_ACK. -/
def tripAck (d : Nat) (s : State) : State :=
  withOp s d 0xF112 fun f =>
    refuseIf s d [(rBadField, !f.zeroFrom 0x20), (rWrongState, s.pwr.pkg != .trip), (rBusy, !tripClear s)] <|
    endF (leaveTrip s) d stOk 0
def execTripAck (d : Nat) (s : State) : Host.Outcome State Fault Refusal := .next (tripAck d s)

end Sys2Proof.Machine
end

