-- ==== Sys2Proof/Machine/Firmware.lean ====
section
/-! DEFINITION. Firmware images (R536-R541). -/

namespace Sys2Proof.Machine

/-- Slot sizes of the image types (R536); none for another code. -/
def slotSize (ty : Nat) : Option Nat :=
  match ty with
  | 1 => some (512 * 2 ^ 10)
  | 2 => some (8 * 2 ^ 20)
  | 3 => some (2 * 2 ^ 20)
  | 4 => some (2 ^ 20)
  | _ => none

/-- The inactive slot of a type (R538). -/
def inactiveSlot (x : FwType) : Nat := 1 - x.active

/-- Check 1 of R538 on an image of n bytes. -/
def imageShape (b : List Byte) (ty n : Nat) : Bool :=
  let pl := fld b 0xC 4
  fld b 0 4 == 0x4D465254 && fld b 5 1 == 1 && zeroAt b 0x40 64 && fld b 4 1 == ty && n == 128 + pl + sigBytes
    && (match slotSize ty with | some m => decide (pl ≤ m) | none => false)

/-- Check 2 of R538. -/
def imageSigned (b : List Byte) : Bool :=
  let pl := fld b 0xC 4
  let head := b.take 128
  let sigs := b.drop (128 + pl)
  let k := fld b 6 1
  decide (k ≤ 3) && Config.ecdsaVerify (Config.vendorEcdsa k) (Config.sha384 head) (sigs.take 96)
    && Config.mldsaVerify (Config.vendorMldsa k) head (sigs.drop 96)
    && (b.drop 0x10).take 48 == Config.sha384 ((b.drop 128).take pl)

/-- FW_STAGE: the image in the inactive slot of its type, with any armed activation cancelled; in RECOVERY it is armed at
once, and only GAUNTLET and MITTEN images are served (R541). -/
def fwStage (d : Nat) (s : State) : State :=
  withGnt s d 0xF170 fun f =>
    let n := f.op 0x28 4
    let ty := f.op 0x2C 1
    if s.mgmt.recovery ∧ 2 < ty then refuseF s d rWrongState
    else if n < 128 + sigBytes ∨ (slotSize ty).isNone ∨ !f.zeroFrom 0x2D then refuseF s d rBadField
    else match hread s (f.op 0x20 8) n with
      | none => endF s d stTranslation 0
      | some b =>
        let x := getFw s ty
        if !imageShape b ty n then refuseF s d rBadField
        else if !imageSigned b then refuseF s d rAuth
        else if fld b 7 1 < x.fuse then refuseF s d rRollback
        else
          let i : Image := { version := fld b 8 4, level := fld b 7 1, digest := fld b 0x10 48 }
          let s1 := putFw s ty { x with slots := tput x.slots (inactiveSlot x) i, armed := s.mgmt.recovery }
          endF (emit s1 7 7 {} []) d stOk 0
def execFwStage (d : Nat) (s : State) : Host.Outcome State Fault Refusal := .next (fwStage d s)

/-- FW_ACTIVATE: the staged image armed for the next package reset, or, with LIVE, Mitten started on it (R539, R540). -/
def fwActivate (d : Nat) (s : State) : State :=
  withGnt s d 0xF171 fun f =>
    let ty := f.op 0x20 1
    let live := f.op 0x21 1
    let x := getFw s ty
    refuseIf s d [(rBadField, (slotSize ty).isNone || decide (1 < live) || (live == 1 && ty != 2) || !f.zeroFrom 0x22),
      (rNotFound, (tfind x.slots (inactiveSlot x)).isNone)] <|
    if live = 0 then endF (putFw s ty { x with armed := true }) d stOk 0
    else
      let s1 := putFw s ty { x with active := inactiveSlot x, armed := false, liveFrom := some x.active, liveAt := s.time.now }
      endF (appendHeld { s1 with mgmt := { s1.mgmt with mittenDown := false } }) d stOk 0
def execFwActivate (d : Nat) (s : State) : Host.Outcome State Fault Refusal := .next (fwActivate d s)

/-- LIVE_ACTIVATION_CHECK: fuses advance after 60 s of refreshes; after 5 s without one the previous image returns. -/
def liveActivationCheck (refreshed : Bool) (s : State) : State :=
  let x := getFw s 2
  match x.liveFrom with
  | none => s
  | some old =>
    if refreshed then
      if s.time.now < x.liveAt + 60000000000 then s
      else blowFuse (putFw s 2 { x with liveFrom := none }) 2
    else if s.time.now < x.liveAt + 5000000000 then s
    else emit (putFw s 2 { x with active := old, liveFrom := none }) 7 9 {} []
def execLiveActivationCheck (refreshed : Bool) (s : State) : Host.Outcome State Fault Refusal :=
  .next (liveActivationCheck refreshed s)

end Sys2Proof.Machine
end

