-- ==== Sys2Proof/Machine/Holiday.lean ====
section
/-! DEFINITION. Holidays, self-tests and calibrations, page and bank retirement, and snapshots (R468-R471, R479,
R548-R565, R584). -/

namespace Sys2Proof.Machine

/-! Tests (R561-R565). -/

/-- The sets of a test that apply to core rows, and those that apply to stacks or ports (R561). -/
def coreSets (t : TestRun) : Nat := if t.calibrate then Nat.land t.set 0xB else Nat.land t.set 0xF
def deviceSets (t : TestRun) : Nat := if t.calibrate then Nat.land t.set 4 else Nat.land t.set 0xF0

/-- Whether the open Holiday, or rows of no partition, cover a test's scope (R562). -/
def covered (s : State) (t : TestRun) : Bool :=
  (coreSets t == 0 || t.parts == 0 || (s.hol.open_ && Nat.land t.parts s.hol.parts == t.parts))
    && (deviceSets t == 0 || s.hol.open_)

/-- The first deferred test that the open Holiday covers starts, when none runs (R562). -/
def startDeferred (s : State) : State :=
  if s.hol.running.isSome || !s.hol.open_ then s
  else match s.hol.deferred.find? (covered s) with
    | none => s
    | some t => { s with hol := { s.hol with running := some t, deferred := s.hol.deferred.erase t } }

/-- The open Holiday ended (R560, R564): its test stops, its ports begin bring-up, its stacks return. -/
def endHoliday (s : State) : State :=
  if !s.hol.open_ then s
  else
    let s1 := stopTest s
    let ports := s1.hol.ports
    let s2 := { s1 with hol := { s1.hol with open_ := false, parts := 0, stackSet := 0, ports := 0, endAt := 0 } }
    let s3 := (List.range 32).foldl (fun t p => if bit ports p then portRelease t p 2 else t) s2
    emit (serveFreed (recapAll { s3 with hol := { s3.hol with testsRun := 0 } })) 5 8 {} [(4, s2.hol.testsRun), (4, s2.hol.deferred.length)]

/-- Whether a stack holds a grain owned by, or a library region mapped into, a partition that is ONLINE or not named (R559). -/
def stackHeld (s : State) (parts k : Nat) : Bool :=
  s.parts.any fun e => (e.2.st == .online || !bit parts e.1)
    && ((List.range 16).any (fun i => let g := 16 * k + i
        grainEntry s g == e.1 || (grainEntry s g == 0x80 && tfind s.mem.grainOwner g == some e.1))
      || s.gnt.policy.library.any fun l => l.2.grain / 16 == k && (l.2.writer == e.1 || (l.2.writer == 0xFF && bit l.2.readers e.1)))

/-- HOLIDAY_GRANT. -/
def holidayGrant (d : Nat) (s : State) : State :=
  withOp s d 0xF140 fun f =>
    let parts := f.op 0x20 2
    let stackSet := f.op 0x22 1
    let ports := f.op 0x24 4
    let dur := f.op 0x28 4
    let ends := dur == 0 && parts == 0 && stackSet == 0 && ports == 0
    refuseIf s d [(rBadField, !f.zero 0x23 1 || !f.zeroFrom 0x2C || (!ends && decide (dur < 1000 ∨ 3600000000 < dur))),
      (rBusy, !ends && (s.hol.open_ || (s.parts.any fun e => e.2.st == .online && bit parts e.1)
        || (List.range 8).any fun k => bit stackSet k && stackHeld s parts k))] <|
    if ends then endF (endHoliday s) d stOk 0
    else
      let s1 := { s with hol := { s.hol with
        open_ := true, parts := parts, stackSet := stackSet, ports := ports, endAt := s.time.now + 1000 * dur, testsRun := 0 } }
      let s2 := (List.range 32).foldl (fun t p => if bit ports p then portLeave t p .down (some 2) else t) s1
      endF (startDeferred (recapAll s2)) d stOk 0
def execHolidayGrant (d : Nat) (s : State) : Host.Outcome State Fault Refusal := .next (holidayGrant d s)

/-- HOLIDAY_EXPIRE. -/
def holidayExpire (s : State) : State := if s.hol.open_ && decide (s.hol.endAt ≤ s.time.now) then endHoliday s else s
def execHolidayExpire (s : State) : Host.Outcome State Fault Refusal := .next (holidayExpire s)

/-- SELFTEST and CALIBRATE: within a Holiday, over rows of no partition, or under FORCE, the test runs; else it is
deferred. While a test runs the command waits. -/
def testCommand (s : State) (d op : Nat) (cal : Bool) : State :=
  withOp s d op fun f =>
    let set := f.op 0x20 2
    let force := f.op 0x22 1
    let t : TestRun := { tag := f.tag, set := set, calibrate := cal, force := force == 1, parts := f.op 0x24 2, by_ := some d }
    let bad := decide ((if cal then 15 else 255) < set ∨ 1 < force) || !f.zero 0x23 1 || !f.zeroFrom 0x26
      || (force == 1 && deviceSets t != 0) || (!cal && bit set 3 && t.parts != 0)
    let now := covered s t || t.force
    refuseIf s d [(rBadField, bad), (rNoResource, !now && decide (256 ≤ s.hol.deferred.length))] <|
    if !now then endF { s with hol := { s.hol with deferred := s.hol.deferred ++ [{ t with by_ := none }] } } d stDeferred 0
    else if s.hol.running.isSome then s
    else
      let mine (p : Nat) : Bool := bit t.parts p
      let s1 := if !t.force then s
        else (stopWhere s stPreempted fun x => x.q != 0 && mine x.part)
      let s2 := if !t.force then s1
        else { s1 with parts := tmap s1.parts fun p x => if mine p then { x with fetchStopped := true } else x }
      putF { s2 with hol := { s2.hol with running := some t } } d { f with phase := .running }

/-- SELFTEST. -/
def selftest (d : Nat) (s : State) : State := testCommand s d 0xF141 false
def execSelftest (d : Nat) (s : State) : Host.Outcome State Fault Refusal := .next (selftest d s)
/-- CALIBRATE. -/
def calibrate (d : Nat) (s : State) : State := testCommand s d 0xF142 true
def execCalibrate (d : Nat) (s : State) : Host.Outcome State Fault Refusal := .next (calibrate d s)

/-- A failure of a test charged to its channel (R450, R563): kind 0 a core, 1 a slice bank, 2 a pseudo-channel, 3 a
wavelength, 4 a near-bank unit as stack and 32 × pseudo-channel + bank. -/
def chargeFailure (s : State) (e : Nat × Nat × Nat) : State :=
  match e.1 with
  | 0 => chargeCore s e.2.1 false
  | 1 => chargeMemory s (chBank e.2.1 e.2.2) false
  | 2 => chargeMemory s (chPc e.2.1 e.2.2) false
  | 3 => (chargeChannel s (chWave e.2.1 e.2.2) false).1
  | _ => chargeUnit s e.2.1 (e.2.2 / 32) (e.2.2 % 32)

/-- The logical rows in a test's scope: those of its partitions, or those of no partition (R561). -/
def scopeRow (s : State) (t : TestRun) (row : Nat) : Bool :=
  if t.parts = 0 then !(s.parts.any fun e => bit e.2.rows row) else s.parts.any fun e => bit t.parts e.1 && bit e.2.rows row
/-- Whether a test's scope holds every row of a tower. -/
def scopeTower (s : State) (t : TestRun) (tower : Nat) : Bool := (List.range 16).all fun r => scopeRow s t (16 * tower + r)

/-- Bytes put into a record's shadow, which is then edited. -/
def putShadow (s : State) (i : Nat) (l : List (Nat × List Byte)) : State :=
  let r := getRec s i
  putRec s i { r with edited := true, shadow := l.foldl (fun t e => mwriteN t e.1 e.2) r.shadow }

/-- Training entries put into the shadow of a training cache, in slots of one size (R514, R561). -/
def putTrained (s : State) (i slot : Nat) (l : List (Nat × List Byte)) : State :=
  let r := getRec s i
  putRec s i { r with edited := true, shadow := l.foldl (fun t e =>
    (e.2.take slot).zipIdx.foldl (fun u b => tput u (slot * e.1 + b.2) b.1) t) r.shadow }

/-- The diode trims of a calibration for its scope (R511, R561): two diodes a site in site order, then a base die's, which are in scope
with every row of the tower. -/
def trimBytes (s : State) (t : TestRun) (x : ThermalCal) : List (Nat × List Byte) :=
  (x.trims.filter fun e => decide (e.1 < 2 ∧ e.2.1 < 608)
    && (if e.2.1 < 544 then scopeRow s t (16 * e.1 + e.2.1 / 34) else scopeTower s t e.1)).map fun e =>
      (0x4040 + 2 * (608 * e.1 + e.2.1), toLe 2 (unsigned 16 e.2.2))

/-- What a THERMAL calibration leaves in the THERMAL shadow (R511, R561): the node offsets and trims of its scope, and, with every row of
a tower in it, θ_l0, θ_f0 and ΔP0 with the inlet temperature and the flow. The nodes return to their stored offsets (R491). -/
def storeThermal (s : State) (t : TestRun) (x : ThermalCal) : State :=
  let towers := [0, 1].filter (scopeTower s t)
  let nodes := x.offsets.filter fun e => decide (e.1 < 2 ∧ e.2.1 < 4096)
  let base := towers.map fun i => (8 + 8 * i, toLe 4 ((x.thetaL[i]?).getD 0) ++ toLe 4 ((x.thetaF[i]?).getD 0))
  let all := if towers.isEmpty then [] else [(4, toLe 4 x.dp0), (0x18, toLe 4 x.inlet ++ toLe 2 x.flow)]
  let s1 := putShadow s 4 (base ++ all ++ (nodes.map fun e => (0x40 + 2 * (4096 * e.1 + e.2.1), toLe 2 (unsigned 16 e.2.2))) ++ trimBytes s t x)
  nodes.foldl (fun u e => let w := getTower u e.1
    putTower u e.1 { w with offsets := tdel w.offsets e.2.1, driftSince := tdel w.driftSince e.2.1 }) s1

/-- Whether an element of TRAIN_MEM is trained by a calibration: a stack of the open Holiday, or a slice in scope (R561). -/
def trains (s : State) (t : TestRun) (e : Nat) : Bool :=
  if e < 8 then bit t.set 2 && bit s.hol.stackSet e else bit t.set 1 && decide (e < 520) && scopeRow s t ((e - 8) / 16)

/-- The content that a finished test leaves: zeros in the slices of a march, the shadow records of a calibration, and sites
that a passing CORE_FULL releases after a SCAN_DUMP. -/
def testContent (s : State) (t : TestRun) (v : TestVerdict) : State :=
  if t.calibrate then
    if v.incomplete then s
    else
      let s1 := if bit t.set 0 then storeThermal s t v.cal else s
      let s2 := if bit t.set 3 then putShadow s1 4 (trimBytes s1 t v.cal) else s1
      if bit t.set 1 || bit t.set 2 then putTrained s2 1 4096 (v.trained.filter fun e => trains s2 t e.1) else s2
  else
    let free := (List.range 512).filter fun c => (coreOwner s c).isNone && bound s c
    let s1 := if bit t.set 3 then free.foldl (fun u c => pzero u (c * 2 ^ 27) (2 ^ 27)) s else s
    if bit t.set 1 && !v.incomplete then
      { s1 with flt := { s1.flt with sites := tmap s1.flt.sites fun k x =>
        if x.scanned && !(v.failing.any fun e => e.1 == 0 && ((getBind s1 e.2.1).column.map (siteKey e.2.1)) == some k) then
          { x with fenced := false, scanned := false }
        else x } }
    else s1

/-- TEST_DONE. -/
def testDone (v : TestVerdict) (s : State) : State :=
  match s.hol.running with
  | none => s
  | some t =>
    let s1 := { s with
      hol := { s.hol with running := none, testsRun := s.hol.testsRun + 1 }
      parts := tmap s.parts fun _ x => { x with fetchStopped := false } }
    let s2 := v.failing.foldl chargeFailure (testContent s1 t v)
    startDeferred (reportTest (serveFreed s2) t (min v.failing.length 0xFFF + 0x1000 * b2n v.incomplete + min v.tested 0x3FFF * 2 ^ 14))
def execTestDone (v : TestVerdict) (s : State) : Host.Outcome State Fault Refusal := .next (testDone v s)

/-! Retirement (R468-R471). -/

/-- Whether an address is backed by an array, in service or not (R178, R179). -/
def arrayAddress (s : State) (pa : Nat) : Bool :=
  match locate pa with
  | .slice n _ => bound s n
  | .stack k off => decide (off < stackSize k)
  | .unbacked => false

/-- RETIRE_PAGE. -/
def retirePage (d : Nat) (s : State) : State :=
  withOp s d 0xF150 fun f =>
    let pa := f.op 0x20 8
    let known := s.flt.retiredPages.contains (frameNo pa)
    refuseIf s d [(rBadField, pa % 8192 != 0 || !arrayAddress s pa || !f.zeroFrom 0x28),
      (rNoResource, !known && decide (4096 ≤ s.flt.retiredPages.length))] <|
    if known then endF s d stOk 0
    else
      let s1 := reportRange (retireRange s pa (pa + 8192)) pa (pa + 8192)
      endF (advise { s1 with flt := { s1.flt with retiredPages := s1.flt.retiredPages ++ [frameNo pa] } }) d stOk 0
def execRetirePage (d : Nat) (s : State) : Host.Outcome State Fault Refusal := .next (retirePage d s)

/-- The range that the next retired channel of a slice or stack takes out of service (R469, R470). -/
def retiringRange (s : State) (target : Nat) : Nat × Nat :=
  let m := retiredIn s target
  if target < 512 then
    let hi := (target + 1) * 2 ^ 27 - m * 2 ^ 22
    (hi - 2 ^ 22, hi)
  else
    let k := target - 0x8000
    let hi := 2 ^ 38 + k * 2 ^ 37 + stackSize k - m * (stackSize k / 64)
    (hi - stackSize k / 64, hi)

/-- RETIRE_BANK: held during a substitution of the slice's core (R479); it completes when the move has ended. -/
def retireBank (d : Nat) (s : State) : State :=
  withOp s d 0xF151 fun f =>
    let t := f.op 0x20 2
    let b := f.op 0x22 2
    let slice := decide (t < 512 ∧ b < 32)
    let stack := decide (0x8000 ≤ t ∧ t < 0x8008 ∧ b < 64)
    let known := s.flt.retiredBanks.contains (t, b)
    if s.flt.subst.any fun u => u.core == t then s
    else
      refuseIf s d [(rBadField, !(slice || stack) || !f.zeroFrom 0x24),
        (rNoResource, !known && decide ((if slice then 4 else 16) ≤ retiredIn s t))] <|
      if known then endF s d stOk 0
      else
        let r := retiringRange s t
        let s1 := reportRange (retireRange s r.1 r.2) r.1 r.2
        putF { s1 with flt := { s1.flt with
          retiredBanks := s1.flt.retiredBanks ++ [(t, b)], moving := s1.flt.moving ++ [(t, b, d)] } } d { f with phase := .running }
def execRetireBank (d : Nat) (s : State) : Host.Outcome State Fault Refusal := .next (retireBank d s)

/-- RETIRE_MOVE_DONE: the oldest move of a slice or stack has ended; the capacity changes with it. A move in TRIP pauses
(R578). -/
def retireMoveDone (target : Nat) (s : State) : State :=
  match s.flt.moving.find? fun m => m.1 == target with
  | none => s
  | some m =>
    if s.pwr.pkg = .trip then s
    else
      let s1 := { s with flt := { s.flt with moving := s.flt.moving.erase m } }
      endF (advise (if 0x8000 ≤ target then recap s1 (target - 0x8000) else s1)) m.2.2 stOk 0
def execRetireMoveDone (target : Nat) (s : State) : Host.Outcome State Fault Refusal := .next (retireMoveDone target s)

/-! Snapshots (R549-R558). -/

/-- SNAP_ARM: the arming replaced; a COUNTER source whose counter is there already fires at once. -/
def snapArm (d : Nat) (s : State) : State :=
  withOp s d 0xF180 fun f =>
    let p := f.op 0x22 1
    let c := f.op 0x24 2
    let bad := decide (15 < f.op 0x20 1 ∨ 8 < f.op 0x21 1) || !(p == 0xFF || (getP s p).isSome)
      || decide (c ≥ (if p = 0xFF then 16384 else 1024)) || !f.zero 0x23 1 || !f.zero 0x26 2 || !f.zeroFrom 0x30
    refuseIf s d [(rBadField, bad)] <|
    let s1 := { s with snap := { s.snap with
      armed := f.op 0x20 1, scope := p, faultClass := f.op 0x21 1, counter := c, value := f.op 0x28 8 } }
    let phys := if p = 0xFF then c else physCounter p c
    endF (counterTrigger s1 (phys / 1024) (phys % 1024)) d stOk 0
def execSnapArm (d : Nat) (s : State) : Host.Outcome State Fault Refusal := .next (snapArm d s)

/-- SNAP_TRIGGER: for a partition in reset it waits for the reset's end (R583). -/
def snapTrigger (d : Nat) (s : State) : State :=
  withOp s d 0xF181 fun f =>
    let p := f.op 0x20 1
    refuseIf s d [(rBadField, (p != 0xFF && decide (15 < p)) || !f.zeroFrom 0x21),
      (rNotFound, p != 0xFF && (getP s p).isNone)] <|
    if p ≠ 0xFF ∧ inReset s p then s else endF (latch s p 0 []) d stOk 0
def execSnapTrigger (d : Nat) (s : State) : Host.Outcome State Fault Refusal := .next (snapTrigger d s)

/-- EQUINOX_INPUT. -/
def equinoxInput (s : State) : State :=
  if bit s.snap.armed 3 then equinox { s with snap := { s.snap with armed := s.snap.armed - 8 } } s.snap.scope 4 [] else s
def execEquinoxInput (s : State) : Host.Outcome State Fault Refusal := .next (equinoxInput s)

/-- The detail field of an image (R548). -/
def detailBytes (b : Bank) : List Byte :=
  fit 16 (match b.source, b.detail with
    | 1, [c, v] => toLe 2 c ++ toLe 8 v
    | 2, [q, e] => toLe 4 q ++ toLe 4 e
    | 3, [c] => toLe 1 c
    | _, _ => [])

/-- The slot of a partition whose use holds SNAP (R434, R556). -/
def snapSlot (s : State) (p : Nat) : Option (Nat × KeySlot) := (getKeys s p).slots.find? fun e => bit e.2.use 2

/-- The T area as SNAP_READ writes it for a sealed partition, and the state with the slot's counter raised (R556). -/
def sealedT (s : State) (b : Bank) : List Byte × State :=
  match snapSlot s b.scope with
  | none => (List.replicate (b.areaT.length + 24) 0, s)
  | some (i, k) =>
    let ct := fit b.areaT.length (gcmCrypt k.key (sealIv k.counter 0) b.areaT)
    let tag := fit 16 (Config.gcmTag k.key (sealIv k.counter 0) [] ct)
    let ks := getKeys s b.scope
    (ct ++ toLe 8 k.counter ++ tag,
      putKeys s b.scope { ks with slots := tput ks.slots i { k with counter := (k.counter + 1) % 2 ^ 64 } })

/-- The image of a bank as SNAP_READ writes it (R444, R548), and the state with the transfer counter it raised. -/
def imageOf (s : State) (b : Bank) : List Byte × State :=
  let isGlobal := b.scope == 0xFF
  let sealed_ := !isGlobal && isSealed s b.scope
  let t := if isGlobal && !b.debug then ([], s) else if sealed_ then sealedT s b else (b.areaT, s)
  let showT := !isGlobal || b.debug
  let entries := b.sections.flatMap fun e =>
    toLe 1 e.die ++ toLe 1 e.kind ++ toLe 2 e.unit ++ toLe 2 e.season ++ toLe 1 e.flags ++ toLe 1 0 ++ toLe 8 e.count
      ++ toLe 4 e.lenC ++ toLe 4 (if showT then e.lenT else 0) ++ toLe 4 e.lenD ++ toLe 4 0
  let flags := b2n b.debug + 2 * b2n b.late + 4 * b2n sealed_ + 8 * b2n b.tCleared
  let size := 64 + entries.length + b.areaC.length + t.1.length + b.areaD.length
  let head := toLe 2 1 ++ toLe 1 b.scope ++ toLe 1 b.source ++ toLe 2 flags ++ toLe 2 b.sections.length ++ toLe 8 b.time
    ++ toLe 4 size ++ toLe 4 b.dropped ++ toLe 4 b.areaC.length ++ toLe 4 t.1.length ++ toLe 4 b.areaD.length ++ toLe 4 0
    ++ detailBytes b ++ List.replicate 8 0
  (head ++ entries ++ b.areaC ++ t.1 ++ b.areaD, t.2)

/-- SNAP_READ (R555). -/
def snapRead (d : Nat) (s : State) : State :=
  withOp s d 0xF182 fun f =>
    let i := f.op 0x20 1
    let b := (s.snap.banks[i]?).getD {}
    let set (t : State) (x : Bank) : State := { t with snap := { t.snap with banks := t.snap.banks.set i x } }
    let above := b.debug && !s.gnt.debug
    if 1 < i ∨ !f.zero 0x21 3 ∨ !f.zeroFrom 0x30 then refuseF s d rBadField
    else if b.st = 0 then refuseF s d rNotFound
    else if above then refuseF (set s {}) d rPolicy
    else
      let r := imageOf s b
      if f.op 0x24 4 < r.1.length then endF s d stOk r.1.length
      else if hostBad s (f.op 0x28 8) r.1.length then endF s d stTranslation 0
      else endF (set (hwrite r.2 (f.op 0x28 8) r.1) { b with st := 2 }) d stOk r.1.length
def execSnapRead (d : Nat) (s : State) : Host.Outcome State Fault Refusal := .next (snapRead d s)

end Sys2Proof.Machine
end

