-- ==== Sys2Proof/Machine/Diag.lean ====
section
/-! DEFINITION. The DIAG family (R566-R571). -/

namespace Sys2Proof.Machine

/-- KAT: `failing` lists the logical cores whose answers were wrong. Bit i of the result names the i-th core of the set. -/
def katOp (s : State) (d : Nat) (f : Flight) (failing : List Nat) : Except Stop State := do
  let cores := coreSet s f.part (f.op 0x28 2) (f.op 0x2A 2)
  let n := (boundCores s f.part).length
  needs (f.zeroFrom 0x2D && decide (f.op 0x2C 1 < 8 ∧ f.op 0x20 8 % 64 = 0 ∧ f.op 0x28 2 + f.op 0x2A 2 ≤ n) && !cores.isEmpty)
  let bad := cores.zipIdx.filter fun e => failing.contains e.1
  let mask := (bad.map fun e => 2 ^ e.2).foldl (· + ·) 0
  let u ← vwrite s (cxOf s f d) (f.op 0x20 8) (toLe 64 mask)
  let v := bad.foldl (fun t e => chargeCore t e.1 false) (endF u d (if bad.isEmpty then stOk else stArith) 0)
  .ok v

/-- KAT. -/
def kat (d : Nat) (failing : List Nat) (s : State) : State :=
  withOp s d 0xE001 fun f => match katOp s d f failing with
    | .ok t => t
    | .error e => stopWith s d e
def execKat (d : Nat) (failing : List Nat) (s : State) : Host.Outcome State Fault Refusal := .next (kat d failing s)

/-- Whether a target and a channel name a bank of a slice or a pseudo-channel of a stack (R566). -/
def targetSlice (t ch : Nat) : Bool := decide (t < 512 ∧ ch < 32)
def targetStack (t ch : Nat) : Bool := decide (0x8000 ≤ t ∧ t < 0x8008 ∧ ch < 64)
/-- The number of a target's bank among all banks. -/
def bankNo (t ch bank : Nat) : Nat := if t < 512 then 32 * t + ch else 16384 + 2048 * (t - 0x8000) + 32 * ch + bank

/-- The spare rows of a bank as REPAIR_READ lists them: state 0 free, 1 in use, 2 bad, and the original row. -/
def spareEntries (s : State) (n bank : Nat) : List Byte :=
  (List.range (spareRows n)).flatMap fun i =>
    let user := s.flt.remaps.find? fun e => e.1 / 65536 == n && e.2.spares.getLast? == some i && !e.2.ppr
    let st : Nat := if s.flt.badSpares.contains (n, i) then 2 else if user.isSome then 1 else 0
    toLe 1 bank ++ toLe 1 0 ++ toLe 1 i ++ toLe 1 st ++ toLe 4 ((user.map fun e => e.1 % 65536).getD 0)

/-- The PPR row of a tier-S bank as REPAIR_READ lists it. -/
def pprEntry (s : State) (n bank : Nat) : List Byte :=
  let user := s.flt.remaps.find? fun e => e.1 / 65536 == n && e.2.ppr
  toLe 1 bank ++ toLe 1 1 ++ toLe 1 0 ++ toLe 1 (b2n (s.flt.pprUsed.contains n))
    ++ toLe 4 ((user.map fun e => e.1 % 65536).getD 0)

/-- REPAIR_READ (R568). -/
def repairRead (d : Nat) (s : State) : State :=
  withOp s d 0xE010 fun f =>
    let t := f.op 0x20 2
    let ch := f.op 0x22 2
    refuseIf s d [(rBadField, !(targetSlice t ch || targetStack t ch) || !f.zero 0x24 4 || !f.zeroFrom 0x30)] <|
    let body := if t < 512 then spareEntries s (bankNo t ch 0) ch
      else (List.range 32).flatMap fun b => spareEntries s (bankNo t ch b) b ++ pprEntry s (bankNo t ch b) b
    let bs := padTo 16 (toLe 2 t ++ toLe 2 ch ++ toLe 2 (body.length / 8)) ++ body
    if hostBad s (f.op 0x28 8) bs.length then endF s d stTranslation 0 else endF (hwrite s (f.op 0x28 8) bs) d stOk 0
def execRepairRead (d : Nat) (s : State) : Host.Outcome State Fault Refusal := .next (repairRead d s)

/-- Whether a slice's rows or a stack lie in the open Holiday (R559, R566). -/
def targetInHoliday (s : State) (t : Nat) : Bool :=
  if t < 512 then (match coreOwner s t with
    | some p => inHoliday s p
    | none => true)
  else s.hol.open_ && bit s.hol.stackSet (t - 0x8000)

/-- The address of a row's first codeword (R467, R211, R459). -/
def rowAddress (t ch bank row : Nat) : Nat :=
  if t < 512 then t * 2 ^ 27 + row * 65536 + 512 * Nat.xor ch (4 * (row % 8))
  else
    let lo := Nat.xor bank (row % 32)
    let six := row % 2 * 32 + lo
    2 ^ 38 + (t - 0x8000) * 2 ^ 37 + row * 2 ^ 22 + lo * 2 ^ 17 + Nat.xor ch six * 2 ^ 11

/-- Whether the fields of ROW_REMAP or PPR name a row. -/
def rowFields (f : Flight) (stackOnly : Bool) : Bool :=
  let t := f.op 0x20 2
  let ch := f.op 0x22 2
  let bank := f.op 0x24 1
  let row := f.op 0x28 4
  f.zero 0x25 3 && f.zeroFrom 0x2C
    && ((!stackOnly && targetSlice t ch && bank == 0 && decide (row < 2048))
      || (targetStack t ch && decide (bank < 32 ∧ row < (if nearStack (t - 0x8000) then 12288 else 18432))))

/-- ROW_REMAP (R466, R467): a row with no spare left is REPAIR_EXHAUSTED. -/
def rowRemap (d : Nat) (s : State) : State :=
  withOp s d 0xE011 fun f =>
    let t := f.op 0x20 2
    refuseIf s d [(rBadField, !rowFields f false), (rPolicy, !bit s.gnt.policy.flags 4 || !targetInHoliday s t)] <|
    let pa := rowAddress t (f.op 0x22 2) (f.op 0x24 1) (f.op 0x28 4)
    let n := bankNo t (f.op 0x22 2) (f.op 0x24 1)
    let key := rowOf pa
    let x := (tfind s.flt.remaps key).getD { spares := [] }
    let s1 := match x.spares.getLast? with
      | some i => { s with flt := { s.flt with badSpares := (n, i) :: s.flt.badSpares } }
      | none => s
    let ch := if t < 512 then chBank t (f.op 0x22 2) else chPc (t - 0x8000) (f.op 0x22 2)
    match (if x.spares.length < 2 then freeSpare s1 n else none) with
    | some i =>
      let s2 := { s1 with flt := { s1.flt with remaps := tput s1.flt.remaps key { x with spares := x.spares ++ [i] } } }
      endF (emit (chargeMemory s2 ch false) 3 0xE (arrayWho s pa) [(8, pa / 2048 * 2048)]) d stOk 0
    | none => refuseF (chargeMemory (emit s 3 0xF (arrayWho s pa) ((rowPages pa).map fun a => (8, a))) ch true) d rNoResource
def execRowRemap (d : Nat) (s : State) : Host.Outcome State Fault Refusal := .next (rowRemap d s)

/-- PPR (R569): the chain is released, a spare in use is free again, a bad one stays bad. -/
def ppr (d : Nat) (fuseOk : Bool) (s : State) : State :=
  withOp s d 0xE012 fun f =>
    let t := f.op 0x20 2
    let n := bankNo t (f.op 0x22 2) (f.op 0x24 1)
    refuseIf s d [(rBadField, !rowFields f true), (rPolicy, !bit s.gnt.policy.flags 4 || !targetInHoliday s t),
      (rNoResource, s.flt.pprUsed.contains n), (rStoreFail, !fuseOk)] <|
    let pa := rowAddress t (f.op 0x22 2) (f.op 0x24 1) (f.op 0x28 4)
    let s1 := { s with flt := { s.flt with
      pprUsed := s.flt.pprUsed ++ [n], remaps := tput s.flt.remaps (rowOf pa) { spares := [], ppr := true } } }
    endF (emit s1 3 0xE (arrayWho s pa) [(8, pa / 2048 * 2048), (1, 1)]) d stOk 0
def execPpr (d : Nat) (fuseOk : Bool) (s : State) : Host.Outcome State Fault Refusal := .next (ppr d fuseOk s)

/-- TAP (R570): the bits shifted out are the stack's own, and free here. -/
def tap (d : Nat) (s : State) : State :=
  withOp s d 0xE020 fun f =>
    let k := f.op 0x20 1
    let op := f.op 0x21 1
    let n := f.op 0x22 2
    let bytes := (n + 7) / 8
    let bad := decide (7 < k ∨ 1 < op ∨ n = 0 ∨ 4096 < n) || !f.zero 0x24 4 || !f.zeroFrom 0x30
    match hread s (f.op 0x28 8) bytes with
    | none => if bad then refuseF s d rBadField else endF s d stTranslation 0
    | some b =>
      refuseIf s d [(rBadField, bad), (rPolicy, !bit s.gnt.policy.flags 3 || !(s.hol.open_ && bit s.hol.stackSet k)
        || (op == 0 && Config.tapRepair b && !bit s.gnt.policy.flags 4))] <|
      let r := takeBytes s bytes
      endF (hwrite r.2 (f.op 0x28 8) r.1) d stOk 0
def execTap (d : Nat) (s : State) : Host.Outcome State Fault Refusal := .next (tap d s)

/-- ENGINE_CTRL (R566): no rule gives the engine controllers' registers, so the value read is free. -/
def engineCtrl (d : Nat) (s : State) : State :=
  withOp s d 0xE021 fun f =>
    let e := f.op 0x20 1
    let bad := decide (7 < e ∨ 1 < f.op 0x28 1) || !f.zero 0x21 1 || !f.zeroFrom 0x29
    let ports := s.hol.open_ && (List.range 4).all fun i => bit s.hol.ports (4 * e + i)
    refuseIf s d [(rBadField, bad), (rPolicy, !bit s.gnt.policy.flags 3 || !ports)] <|
    let n := takeNat s
    endF n.2 d stOk (n.1 % 2 ^ 28)
def execEngineCtrl (d : Nat) (s : State) : Host.Outcome State Fault Refusal := .next (engineCtrl d s)

/-- Whether a codeword lies in a frame with EVEW set (R293). -/
def inEveFrame (s : State) (pa : Nat) : Bool :=
  s.kv.pools.any fun e => e.2.frames.any fun x => x.evew && x.remote.isNone && decide (x.where_ ≤ pa ∧ pa < x.where_ + 8192)

/-- Whether a codeword lies in a free pool frame, whose content is undefined until the page keeper writes it (R252, R281). -/
def inFreeFrame (s : State) (pa : Nat) : Bool :=
  s.kv.pools.any fun e => e.2.frames.any fun x => x.state == 0 && x.remote.isNone && decide (x.where_ ≤ pa ∧ pa < x.where_ + 8192)

/-- The 32 bytes of a codeword as its array holds them; those of a pool's backing are the frame table's and the cell bitmap's
(R247, R249). -/
def wordBytes (s : State) (pa : Nat) : List Byte :=
  (arrayBytes s pa 32).zipIdx.map fun e => (s.kv.pools.findSome? fun x => backingByte x.2 (pa + e.2)).getD e.1

/-- One codeword as ARRAY_READ writes it (R212, R459, R566): its data as the array holds it, its check bytes, and its status. A
poison codeword holds any data, with check bytes that differ from the correct ones by 0xC396_693C. One found uncorrectable gives the
36 bytes that stand in the array, which are free. -/
def arrayWord (acc : List Byte × State) (pa : Nat) (found : EccFinding) : List Byte × State :=
  let s := acc.2
  if inEveFrame s pa then (acc.1 ++ List.replicate 36 0 ++ toLe 1 4 ++ toLe 3 0, s)
  else if poisoned s pa then
    let r := takeBytes s 32
    (acc.1 ++ r.1 ++ toLe 4 (Nat.xor (Config.checkBytes r.1) 0xC396693C) ++ toLe 1 3 ++ toLe 3 0, r.2)
  else if inFreeFrame s pa then
    let r := takeBytes s 32
    (acc.1 ++ r.1 ++ toLe 4 (Config.checkBytes r.1) ++ toLe 1 0 ++ toLe 3 0, r.2)
  else
    let u := findCodeword s pa found
    if found = .uncorrectableTwice then
      let r := takeBytes u 36
      (acc.1 ++ r.1 ++ toLe 1 2 ++ toLe 3 0, r.2)
    else
      let b := wordBytes s pa
      (acc.1 ++ b ++ toLe 4 (Config.checkBytes b) ++ toLe 1 (b2n (found != .clean)) ++ toLe 3 0, u)

/-- ARRAY_READ; `found` names the codewords, by their place among those read, that the code does not find clean. -/
def arrayRead (d : Nat) (found : List (Nat × EccFinding)) (s : State) : State :=
  withOp s d 0xE030 fun f =>
    let pa := f.op 0x20 8
    let n := f.op 0x28 4
    let bad := pa % 32 != 0 || decide (n = 0 ∨ 65536 < n) || !f.zero 0x2C 4 || !f.zeroFrom 0x38
    let out := !bad && (List.range n).any fun i => !arrayAddress s (pa + 32 * i)
    refuseIf s d [(rBadField, bad || out), (rPolicy, !(s.gnt.debug && bit s.gnt.debugScope 1))] <|
    let r := (List.range n).foldl (fun acc i => arrayWord acc (pa + 32 * i) (((found.find? fun e => e.1 == i).map Prod.snd).getD .clean)) ([], s)
    if hostBad s (f.op 0x30 8) r.1.length then endF s d stTranslation 0
    else endF (hwrite r.2 (f.op 0x30 8) r.1) d stOk 0
def execArrayRead (d : Nat) (found : List (Nat × EccFinding)) (s : State) : Host.Outcome State Fault Refusal :=
  .next (arrayRead d found s)

/-- Whether a site's row lies in the open Holiday. -/
def siteInHoliday (s : State) (tower row : Nat) : Bool :=
  (List.range 16).any fun i => match coreOwner s (256 * tower + 16 * row + i) with
    | some p => inHoliday s p
    | none => true

/-- SCAN_DUMP: the chains' content is free; the site stays fenced until a passing CORE_FULL. -/
def scanDump (d : Nat) (s : State) : State :=
  withOp s d 0xE031 fun f =>
    let tower := f.op 0x20 1
    let row := f.op 0x21 1
    let col := f.op 0x22 1
    let site := tower * 272 + row * 17 + col
    let x := getSite s site
    let bad := decide (1 < tower ∨ 15 < row ∨ 16 < col) || !f.zero 0x23 5 || !f.zeroFrom 0x30
    refuseIf s d [(rBadField, bad), (rPolicy, !(s.gnt.debug && bit s.gnt.debugScope 2)
      || !(x.fenced || siteInHoliday s tower row))] <|
    let r := takeBytes (putSite s site { x with fenced := true, scanned := true }) 262144
    if hostBad s (f.op 0x28 8) 262144 then endF s d stTranslation 0
    else endF (hwrite r.2 (f.op 0x28 8) r.1) d stOk 0
def execScanDump (d : Nat) (s : State) : Host.Outcome State Fault Refusal := .next (scanDump d s)

end Sys2Proof.Machine
end

