-- ==== Sys2Proof/Machine/Fabric.lean ====
section
/-! DEFINITION. The dense fabric, the Lining, and what dies and reference clocks do (R359-R374). -/

namespace Sys2Proof.Machine

/-! Lanes (R362-R365). -/

/-- A list of numbers in rising order. -/
def sortNat (l : List Nat) : List Nat := l.foldr (fun x acc => acc.takeWhile (· < x) ++ x :: acc.dropWhile (· < x)) []

/-- A change of a bundle direction recorded with the bundle, the direction and its failed lanes, then capacity, severance and
advice (R344, R364, R366, R478). -/
def bundleChange (s : State) (b d ev lane : Nat) : State :=
  let failed := (sortNat (getBundle s (2 * b + d)).failed).take 14
  let s1 := emit s 4 ev { unit := lane } ([(2, b), (1, d)] ++ failed.map fun x => (2, x))
  advise (settleFences (recap s1 (0x10 + d)) stOffline)

/-- A bundle direction retired. -/
def retireBundle (s : State) (b d lane : Nat) : State :=
  let x := getBundle s (2 * b + d)
  bundleChange (putBundle s (2 * b + d) { x with retired := true, recal := none, nak := false, replays := 0 }) b d 3 lane

/-- The half that runs alone after a step-down: the one with fewer failed lanes, lanes 0-33 on a tie. -/
def betterHalf (failed : List Nat) : Nat :=
  let lo := (failed.filter fun x => decide (x < 34)).length
  if lo ≤ failed.length - lo then 0 else 1

/-- A bundle direction with one more failed lane (R362). Four failed lanes leave 64 lanes, the spares among them. -/
def failLane (x : Bundle) (lane : Nat) : Bundle :=
  if x.retired ∨ x.failed.contains lane then x
  else
    let y : Bundle := { x with failed := x.failed ++ [lane], replays := 0, lastBad := [], recal := none }
    match x.half with
    | none => if y.failed.length ≤ 4 then y else { y with half := some (betterHalf y.failed) }
    | some h => if lane / 34 = h then { y with retired := true, nak := false } else y

/-- A permanent lane of a bundle direction retired, with the record of what it did (R362). -/
def retireLane (s : State) (b d lane : Nat) : State :=
  let x := getBundle s (2 * b + d)
  let y := failLane x lane
  let s1 := putBundle s (2 * b + d) y
  if x.retired ∨ x.failed.contains lane then s
  else if y.retired then bundleChange s1 b d 3 lane
  else if y.half ≠ x.half then bundleChange s1 b d 2 lane
  else if x.half = none then bundleChange s1 b d 1 lane
  else s1

/-- LANE_RETIRE: a lane declared permanent is replaced, or its bundle direction steps down or is retired. -/
def laneRetire (bundle dir lane : Nat) (s : State) : State :=
  if 24 ≤ bundle ∨ 2 ≤ dir ∨ 68 ≤ lane then s
  else retireLane (markPermanent s (chLane bundle dir lane)) bundle dir lane
def execLaneRetire (bundle dir lane : Nat) (s : State) : Host.Outcome State Fault Refusal :=
  .next (laneRetire bundle dir lane s)

/-- The spares of a bundle direction that carry no lane: the passing ones, less one for each failed data lane. -/
def freeSpares (x : Bundle) : List Nat :=
  ([64, 65, 66, 67].filter fun l => !x.failed.contains l).drop (x.failed.filter fun l => decide (l < 64)).length

/-- LANE_RECALIBRATION: a free spare takes a data lane over, and at the next one for that direction hands it back; with no
free spare the receiver adapts alone (R362). -/
def laneRecalibration (bundle dir lane : Nat) (s : State) : State :=
  if 24 ≤ bundle ∨ 2 ≤ dir ∨ 64 ≤ lane then s
  else
    let x := getBundle s (2 * bundle + dir)
    match x.recal with
    | some _ => putBundle s (2 * bundle + dir) { x with recal := none }
    | none =>
      if x.retired ∨ x.half.isSome ∨ x.failed.contains lane then s
      else match freeSpares x with
        | [] => s
        | sp :: _ => putBundle s (2 * bundle + dir) { x with recal := some (lane, sp) }
def execLaneRecalibration (bundle dir lane : Nat) (s : State) : Host.Outcome State Fault Refusal :=
  .next (laneRecalibration bundle dir lane s)

/-! Frames (R359-R363). -/

/-- The lanes of a failed copy charged; one charged in two consecutive failed copies is permanent at once (R362). -/
def chargeLanes (s : State) (b d : Nat) (bad last : List Nat) : State :=
  (bad.filter fun l => decide (l < 68)).foldl (fun t l => (chargeChannel t (chLane b d l) (last.contains l)).1) s

/-- The fields of a frame's header, which stands before the payload as the CRC-32C stands after it (R359, assumption 175). -/
def frameSeq (f : Frame) : Nat := bits (fld f.bytes 0 4) 0 12
def frameAck (f : Frame) : Nat := bits (fld f.bytes 0 4) 12 12
/-- Whether a frame's CRC-32C stands. -/
def frameCrcOk (f : Frame) : Bool := f.bytes.length == 200 && crc32c (f.bytes.take 196) == fld f.bytes 196 4

/-- FRAME_RECEIVE: a sound frame in sequence is delivered; any other is asked for again; the ninth failed copy of one
frame retires the bundle direction (R360, R363). A fenced or retired direction receives none. -/
def frameReceive (bundle dir : Nat) (f : Frame) (s : State) : State :=
  let k := 2 * bundle + dir
  let x := getBundle s k
  if 24 ≤ bundle ∨ 2 ≤ dir ∨ x.retired ∨ !s.fab.refLost.isEmpty ∨ s.fab.dieReset.contains 1 then s
  else if !frameCrcOk f then
    let s1 := chargeLanes (putBundle s k { x with nak := true, replays := x.replays + 1, lastBad := f.badLanes }) bundle dir f.badLanes
      x.lastBad
    let declared := f.badLanes.any fun l => ((tfind s1.flt.charges (chLane bundle dir l)).map (·.permanent)).getD false
    if 8 < x.replays + 1 ∧ !declared then retireBundle s1 bundle dir 0 else s1
  else
    let y := getBundle s (2 * bundle + (1 - dir))
    let s1 := putBundle s (2 * bundle + (1 - dir)) { y with acked := frameAck f }
    if frameSeq f = x.expectSeq then
      putBundle s1 k { x with expectSeq := (x.expectSeq + 1) % 4096, nak := false, replays := 0, lastBad := []
                              delivered := x.delivered + 1 }
    else if (x.expectSeq + 4096 - frameSeq f) % 4096 < 2048 then s1
    else putBundle s1 k { x with nak := true }
def execFrameReceive (bundle dir : Nat) (f : Frame) (s : State) : Host.Outcome State Fault Refusal :=
  .next (frameReceive bundle dir f s)

/-! The Lining (R22, R368). -/

/-- A message put among those of a link that wait, in strict priority. -/
def inbox (l : List (Nat × List Byte)) (prio : Nat) (b : List Byte) : List (Nat × List Byte) :=
  l.takeWhile (fun e => decide (e.1 ≤ prio)) ++ (prio, b) :: l.dropWhile fun e => decide (e.1 ≤ prio)

/-- LINING_MESSAGE: a sound message in sequence is taken and acknowledged; one taken before is acknowledged again; any other
is asked for again. -/
def liningMessage (link seq prio : Nat) (crcOk : Bool) (payload : List Byte) (s : State) : State :=
  if 22 ≤ link ∨ 4 < prio ∨ 240 < payload.length then s
  else
    let x := (tfind s.fab.links link).getD {}
    let y : LLink :=
      if !crcOk ∨ x.expectSeq < seq then { x with nak := true }
      else if seq < x.expectSeq then { x with acked := seq }
      else { expectSeq := seq + 1, acked := seq, nak := false, inbox := inbox x.inbox prio payload }
    { s with fab := { s.fab with links := tput s.fab.links link y } }
def execLiningMessage (link seq prio : Nat) (crcOk : Bool) (payload : List Byte) (s : State) :
    Host.Outcome State Fault Refusal := .next (liningMessage link seq prio crcOk payload s)

/-! Dies (R369, R372-R374). -/

/-- Ports from a to b - 1 taken DOWN under a hold, and released. -/
def portsDown (s : State) (a n hold : Nat) : State := (List.range n).foldl (fun t i => portLeave t (a + i) .down (some hold)) s
def portsBack (s : State) (a n hold : Nat) : State := (List.range n).foldl (fun t i => portRelease t (a + i) hold) s

/-- A tower's cores reset: what runs or sleeps on them stops with a status, and every core is in FULL mode with empty intakes
(R123, R372). -/
def stopTower (s : State) (t st : Nat) : State :=
  let held := (s.flt.cores.filter fun e => e.1 / 256 == t).flatMap fun e => e.2.intake
  let s1 := (flightsOf s (fun f => f.live && f.cores.any fun c => c / 256 == t) ++ held).foldl
    (fun u d => leaveIntake (stopLive u d st) d) s
  { s1 with flt := { s1.flt with
    cores := tmap s1.flt.cores fun c x => if c / 256 = t then { x with mode := 0, intake := [] } else x } }

/-- The cached lines and translations that base die B holds, written back and dropped. -/
def dropBaseB (s0 : State) : State :=
  let s := writeBack s0 fun k _ => k / 2 ^ 24 != 0
  { s with mem := { s.mem with
    cache := tfilter s.mem.cache fun k _ => k / 2 ^ 24 == 0
    tlb := tfilter s.mem.tlb fun k _ => k / 16 == 0
    tlbUp := tfilter s.mem.tlbUp fun k _ => k / 16 == 0 } }

/-- A die reset begun (R372): 1 base die B in full, 2 and 3 the compute dies. -/
def startDieReset (s : State) (die : Nat) : State :=
  if s.fab.dieReset.contains die then s
  else
    let s1 := emit { s with fab := { s.fab with dieReset := s.fab.dieReset ++ [die] } } 4 7 { die := die } []
    if die = 1 then settleFences (portsDown (dropBaseB (stopTower s1 1 stAborted)) 16 16 8) stAborted
    else stopTower s1 (die - 2) stAborted

/-- Whether a die's reset input or its lost power-good holds it in reset (R614, R615). Held inputs: 2-4 the reset inputs of
dies 1-3, 13 and 14 the power-goods of compute dies A and B. -/
def dieHeld (s : State) (die : Nat) : Bool := s.pwr.heldInputs.any fun i => decide (i = die + 1 ∨ i = die + 11)

/-- An input that is held asserted. -/
def holdInput (s : State) (i : Nat) : State :=
  if s.pwr.heldInputs.contains i then s else { s with pwr := { s.pwr with heldInputs := s.pwr.heldInputs ++ [i] } }

/-- DIE_RESET_INPUT: a die's reset input has been held for 10 µs (R615, R616). -/
def dieResetInput (die : Nat) (s : State) : State :=
  if die = 0 ∨ 3 < die ∨ s.pwr.pkg = .off then s else startDieReset (holdInput s (die + 1)) die
def execDieResetInput (die : Nat) (s : State) : Host.Outcome State Fault Refusal := .next (dieResetInput die s)

/-- A binding's Season advanced at its die's return; a number whose Season is used up, or whose SEASON write fails, becomes absent
(R475). -/
def newSeason (badSeasons : List Nat) (s : State) (c : Nat) : State :=
  match (getBind s c).column with
  | none => s
  | some col =>
    if badSeasons.contains c then emit (makeHole s c) 7 6 {} [(1, 11)]
    else if 0xFFFF < nextSeason s c then makeHole s c
    else bindCore s c col (getBind s c).state

/-- The RESET that waits for a die ended with a status (R78). -/
def endDieReset (s : State) (die st : Nat) : State :=
  match tfind s.fab.dieResetBy die with
  | some d => endF { s with fab := { s.fab with dieResetBy := tdel s.fab.dieResetBy die } } d st 0
  | none => s

/-- DIE_BACK: the die has run its self-test, whose failing cores are lost; its bindings take new Seasons. -/
def dieBack (die : Nat) (failing badSeasons : List Nat) (s : State) : State :=
  if die = 0 ∨ 3 < die ∨ !(s.fab.dieReset.contains die || s.fab.dieLost.contains die) ∨ dieHeld s die then s
  else
    let s1 : State := { s with fab := { s.fab with
      dieReset := s.fab.dieReset.filter (· != die), dieLost := s.fab.dieLost.filter (· != die) } }
    let t := if die = 2 then 0 else 1
    let s2 := ((List.range 256).filter fun i => !coreDown s1 (256 * t + i)).foldl (fun u i => newSeason badSeasons u (256 * t + i)) s1
    let s3 := (failing.filter fun c => c / 256 == t && bound s2 c).foldl (fun u c => chargeCore u c true) s2
    let s4 := emit s3 4 8 { die := die } []
    let s5 := if die = 1 then portsBack s4 16 16 8 else s4
    endDieReset (settleFences s5 stOffline) die stOk
def execDieBack (die : Nat) (failing badSeasons : List Nat) (s : State) : Host.Outcome State Fault Refusal :=
  .next (dieBack die failing badSeasons s)

/-- DIE_LOST: neither the fabric nor the Lining reaches the die (codes of R542): what needs it is fenced (R369, R374). -/
def dieLost (die : Nat) (s : State) : State :=
  if die = 0 ∨ 20 ≤ die ∨ s.fab.dieLost.contains die then s
  else
    let s1 := emit { s with fab := { s.fab with
      dieReset := s.fab.dieReset.filter (· != die), dieLost := s.fab.dieLost ++ [die] } } 4 6 { die := die } []
    let s2 := if die = 1 then portsDown s1 16 16 8 else if 12 ≤ die then portsDown s1 (4 * (die - 12)) 4 8 else s1
    let s3 := if 4 ≤ die ∧ die < 12 then recap s2 (die - 4) else s2
    endDieReset (advise (settleFences s3 stOffline)) die stAborted
def execDieLost (die : Nat) (s : State) : Host.Outcome State Fault Refusal := .next (dieLost die s)

/-! Reference clocks (R372, R373). -/

/-- REFCLK_LOST: a tower's clock is out of band. -/
def refclkLost (tower : Nat) (s : State) : State :=
  if 2 ≤ tower ∨ (s.fab.refLost.contains tower ∧ (tfind s.fab.refBack tower).isNone) then s
  else
    let s0 : State := { s with
      fab := { s.fab with refLost := if s.fab.refLost.contains tower then s.fab.refLost else s.fab.refLost ++ [tower]
                          refBack := tdel s.fab.refBack tower }
      time := { s.time with holdover := s.time.holdover || tower == 0 } }
    settleFences (portsDown (emit s0 4 9 { die := tower } []) (16 * tower) 16 7) stOffline
def execRefclkLost (tower : Nat) (s : State) : Host.Outcome State Fault Refusal := .next (refclkLost tower s)

/-- REFCLK_RESTORED: the clock has been in band for 10 ms; its fences lift 50 ms later, at the tick of that time. -/
def refclkRestored (tower : Nat) (s : State) : State :=
  if 2 ≤ tower ∨ !s.fab.refLost.contains tower ∨ (tfind s.fab.refBack tower).isSome then s
  else
    let s0 : State := { s with
      fab := { s.fab with refBack := tput s.fab.refBack tower (s.time.now + 50000000) }
      time := { s.time with holdover := s.time.holdover && tower != 0 } }
    emit s0 4 0xA { die := tower } []
def execRefclkRestored (tower : Nat) (s : State) : Host.Outcome State Fault Refusal := .next (refclkRestored tower s)

/-- The fences of one restored clock lifted when they are due. -/
def liftClock (s : State) (tower : Nat) : State :=
  match tfind s.fab.refBack tower with
  | none => s
  | some t =>
    if s.time.now < t then s
    else
      let s1 : State := { s with fab := { s.fab with
        refLost := s.fab.refLost.filter (· != tower), refBack := tdel s.fab.refBack tower } }
      settleFences (portsBack s1 (16 * tower) 16 7) stOffline

/-- One nanosecond on the 64-bit time base, slewed by at most one in 10,000 while a correction stands (R8, R601). -/
def passTime (t : Time) : Time :=
  let turn := t.ticks % 10000 == 0
  if turn && decide (0 < t.slew) then { t with now := (t.now + 2) % 2 ^ 64, ticks := t.ticks + 1, slew := t.slew - 1 }
  else if turn && decide (t.slew < 0) then { t with ticks := t.ticks + 1, slew := t.slew + 1 }
  else { t with now := (t.now + 1) % 2 ^ 64, ticks := t.ticks + 1 }

/-- What the passing of 1 ns does: the time base counts, and the fences of restored clocks lift (R8, R372). -/
def tick (s : State) : State :=
  let s1 : State := { s with time := passTime s.time }
  if s1.fab.refBack.isEmpty then s1 else liftClock (liftClock s1 0) 1

end Sys2Proof.Machine
end

