-- ==== Sys2Proof/Machine/Ports.lean ====
section
/-! DEFINITION. The Plauf ports: flits, link states, keys, light and retirement (R381-R398). -/

namespace Sys2Proof.Machine

/-- A record about a port: its engine and its number. -/
def portWho (p : Nat) : Who := { die := 12 + p / 4, unit := p }

/-- A port that has come UP: its group is not empty, its unacknowledged flits are sent again, and what waits for it leaves (R390, R392,
R408). -/
def portUp (s : State) (p : Nat) : State :=
  let x := getPort s p
  let s1 := resendFlits (putPort s p { x with st := .up, fromUp := false, replays := 0, resends := 0 }) p
  pumpOut (recap { s1 with plauf := { s1.plauf with lostSince := tdel s1.plauf.lostSince x.farHash } } (0x100 + p))

/-- A port retired (R398). -/
def retirePort (s : State) (p : Nat) : State :=
  if (getPort s p).st = .retired then s
  else advise (emit (portLeave s p .retired none) 4 0xE (portWho p) [])

/-- A port's entry to TRAIN charged to the port (R450); a permanent one is retired. -/
def chargeTrain (s : State) (p : Nat) (failed : Bool) : State :=
  let r := chargeChannel s (chPort p) failed
  if r.2 then retirePort r.1 p else r.1

/-! Flits (R385-R391). -/

/-- Fields of a flit's header (R385). -/
def flitWord (f : Flit) : Nat := fld f.bytes 0 4
def flitType (f : Flit) : Nat := bits (flitWord f) 0 4
def flitSeq (f : Flit) : Nat := bits (flitWord f) 4 12
def flitAck (f : Flit) : Nat := bits (flitWord f) 16 12
def flitNak (f : Flit) : Bool := bit (flitWord f) 28
def flitPhase (f : Flit) : Bool := bit (flitWord f) 29
/-- Whether the CRC-64 of a plain flit stands (R387). -/
def flitCrcOk (f : Flit) : Bool := crc64 (f.bytes.take 0xF8) == fld f.bytes 0xF8 8

/-- Credits returned by a flit, up to the initial credit of each virtual channel (R391). -/
def returnCredits (l : List Nat) (f : Flit) : List Nat :=
  [min 4096 ((l[0]?).getD 0 + fld f.bytes 4 1), min 4096 ((l[1]?).getD 0 + fld f.bytes 5 1), min 1024 ((l[2]?).getD 0 + fld f.bytes 6 1)]

/-- An IDLE pair sent, which carries acknowledgements, NAK and credits, while there is room for it (R385, R389). -/
def sendIdle (s : State) (p : Nat) : State :=
  let x := getPort s p
  if x.keyed ∧ x.unacked.length + 2 ≤ 2048 then sendFlits s p [idleBody, idleBody] else s

/-- A corrupted or missing flit asked for again with the pair it belongs to; when a ninth attempt would be needed the port goes to
TRAIN (R389, R390, R397). -/
def nakFlit (s : State) (p : Nat) (f : Flit) (corrupt : Bool) : State :=
  let x := getPort s p
  let last := decide (8 ≤ x.replays)
  let s1 := putPort s p { x with nak := true, replays := x.replays + 1, even := none }
  let s2 := match corrupt && !f.codeOk, f.badWave with
    | true, some w => if w < 16 then (chargeChannel s1 (chWave p w) last).1 else s1
    | _, _ => s1
  let s3 := if corrupt && f.codeOk && x.keyed then emit s2 6 4 (portWho p) [] else s2
  if !last then sendIdle s3 p
  else
    let s4 := portLeave (putPort s3 p { getPort s3 p with replays := 0 }) p .train none
    if x.st = .up then chargeTrain s4 p false else s4

/-- What a sound flit's header says to the sender of this end: credits returned, flits acknowledged, and, with NAK, those that remain
sent again, at most eight times (R389-R391). -/
def takeHeader (s : State) (p : Nat) (f : Flit) : State :=
  let x := getPort s p
  let left := x.unacked.filter fun e => decide (0 < (e.1 + 4096 - flitAck f) % 4096 ∧ (e.1 + 4096 - flitAck f) % 4096 < 2049)
  let tries := (if left.length < x.unacked.length then 0 else x.resends) + (if flitNak f && !left.isEmpty then 1 else 0)
  let s1 := putPort s p { x with ackOut := flitAck f, credits := returnCredits x.credits f, unacked := left, resends := tries }
  if !flitNak f ∨ left.isEmpty then s1
  else if tries ≤ 8 then resendFlits s1 p
  else
    let s2 := portLeave (putPort s1 p { getPort s1 p with resends := 0 }) p .train none
    if x.st = .up then chargeTrain s2 p false else s2

/-- A message that a port has delivered, served as its kind asks. -/
def serveMsg (s : State) (p : Nat) (m : RemMsg) : State :=
  match m.type with
  | 1 => rd p m s
  | 2 => rdData p m s
  | 3 => wr p m s
  | 4 => wrAck p m s
  | 5 => atom p m s
  | 6 => atomAck p m s
  | 7 => sig p m s
  | 8 => sigAck p m s
  | 0x10 => impQ p m s
  | _ => impR p m s

/-- The messages in a port's received bytes served in order, each returning its credit; filling between messages is passed over,
and one whose memory is held waits with those behind it (R391, R401). -/
def serveRx : Nat → State → Nat → State
  | 0, s, _ => s
  | n + 1, s, p =>
    let x := getPort s p
    let m := msgOf x.rx
    if x.rx.isEmpty ∨ x.st ≠ .up then s
    else if !msgTypes.contains (fld x.rx 0 1) then serveRx n (putPort s p { x with rx := x.rx.drop 16 }) p
    else if x.rx.length < 32 + msgData x.rx ∨ ingressHeld s x.farHash m then s
    else
      let c := (x.owed[msgVc m]?).getD 0 + msgUnits m
      serveRx n (serveMsg (putPort s p { x with rx := x.rx.drop (32 + msgData x.rx), owed := x.owed.set (msgVc m) c }) p m) p

/-- The key, the salt and the count of the received pair of a phase: the current ones, or those before the last replacement
(R394). -/
def rxKey (x : Port) (phase : Bool) : Option (Nat × Nat × Nat) :=
  if phase = x.farPhase then some (linkKey x 1, linkSalt x 1, x.rxPairs) else x.prevRx

/-- The second flit of a pair: its tag is checked, and the bodies of DATA flits join the port's received bytes (R388). -/
def takePair (s : State) (p : Nat) (a f : Flit) : State :=
  let x := getPort s p
  match (rxKey x (flitPhase a)).bind fun k => openPair k.1 k.2.1 k.2.2 a.bytes f.bytes with
  | none => nakFlit s p f true
  | some body =>
    let cur := decide (flitPhase a = x.farPhase)
    let s1 := putPort s p { x with
      seqExp := (x.seqExp + 2) % 4096, even := none, nak := false, replays := 0
      rxPairs := if cur then x.rxPairs + 1 else x.rxPairs
      prevRx := if cur then x.prevRx else x.prevRx.map fun k => (k.1, k.2.1, k.2.2 + 1)
      rx := x.rx ++ (if flitType a = 1 then body.take 240 else []) ++ (if flitType f = 1 then body.drop 240 else []) }
    let s2 := takeHeader (takeHeader s1 p a) p f
    let s3 := serveRx (getPort s2 p).rx.length s2 p
    let s4 := if (getPort s3 p).st = .up then pumpOut s3 else s3
    if s4.plauf.wire.length = s.plauf.wire.length then sendIdle s4 p else s4

/-- A plain flit of a port without keys (R387). -/
def takePlain (s : State) (p : Nat) (f : Flit) : State :=
  let x := getPort s p
  takeHeader (putPort s p { x with seqExp := (x.seqExp + 1) % 4096, nak := false, replays := 0 }) p f

/-- FLIT_RECEIVE: a flit received before is dropped, and one out of turn is asked for again; with keys installed an even flit waits
for the next, and without, or at an odd number with none waiting, the CRC decides (R387-R389). -/
def flitReceive (port : Nat) (f : Flit) (s : State) : State :=
  let x := getPort s port
  let on := match x.st with | .hello => true | .auth => true | .up => true | .unexpected => true | _ => false
  let next := (x.seqExp + (if x.even.isSome then 1 else 0)) % 4096
  let behind := (next + 4096 - flitSeq f) % 4096
  if !on ∨ 32 ≤ port ∨ f.bytes.length ≠ 256 then s
  else if !f.codeOk then nakFlit s port f true
  else if 0 < behind ∧ behind < 2049 then s
  else if behind ≠ 0 then nakFlit s port f false
  else match x.even with
    | some a => takePair s port { f with bytes := a } f
    | none =>
      if x.keyed ∧ flitSeq f % 2 = 0 then putPort s port { x with even := some f.bytes }
      else if flitCrcOk f then takePlain s port f
      else nakFlit s port f true
def execFlitReceive (port : Nat) (f : Flit) (s : State) : Host.Outcome State Fault Refusal := .next (flitReceive port f s)

/-! Link states (R390, R392-R396). -/

/-- PORT_TRAIN_TIMEOUT: retraining from UP has not ended within 100 ms; the failed retry makes the port permanent (R390,
R450, R452). -/
def portTrainTimeout (port : Nat) (s : State) : State :=
  let x := getPort s port
  if x.st ≠ .train ∨ s.time.now < x.trainSince + 100000000 then s
  else
    let s1 := portLeave s port .down none
    if x.fromUp then chargeTrain s1 port true else s1
def execPortTrainTimeout (port : Nat) (s : State) : Host.Outcome State Fault Refusal := .next (portTrainTimeout port s)

/-- PORT_TRAIN_DONE: back to UP with its keys, or on to HELLO with a fresh nonce; a port that failed AUTH may try again
after 1 s (R393). -/
def portTrainDone (port : Nat) (s : State) : State :=
  let x := getPort s port
  if 32 ≤ port then s
  else if x.st = .train ∧ x.fromUp ∧ x.keyed then portUp s port
  else if x.st = .train ∨ (x.st = .down ∧ x.holds.isEmpty ∧ 0 < x.authRetryAt ∧ x.authRetryAt ≤ s.time.now) then
    let s1 : State := { s with gnt := { s.gnt with drawn := s.gnt.drawn + 1 } }
    putPort s1 port { x with
      st := .hello, keyed := false, fromUp := false, seqExp := 0, ackOut := 0, nak := false, replays := 0
      credits := [4096, 4096, 1024], nonce := Config.entropy s.gnt.drawn, keys := [], phase := false, farPhase := false
      salts := [], txSeq := 0, txPairs := 0, rxPairs := 0, prevRx := none, unacked := [], resends := 0, even := none, rx := []
      owed := [0, 0, 0] }
  else s
def execPortTrainDone (port : Nat) (s : State) : Host.Outcome State Fault Refusal := .next (portTrainDone port s)

/-- A failed exchange: DOWN, with PLAUF_AUTH_FAIL, and no retry for 1 s (R393). -/
def authFailed (s : State) (p : Nat) : State :=
  let s1 := portLeave s p .down none
  emit (putPort s1 p { getPort s1 p with authRetryAt := s.time.now + 1000000000 }) 6 5 (portWho p) []

/-- HELLO. The protocol version of this revision is 1 (assumption 67). -/
def hello (port version hash farPort nonce : Nat) (s : State) : State :=
  let x := getPort s port
  if x.st ≠ .hello then s
  else if version ≠ 1 then authFailed s port
  else putPort s port { x with st := .auth, farHash := hash, farPort := farPort, farNonce := nonce }
def execHello (port version hash farPort nonce : Nat) (s : State) : Host.Outcome State Fault Refusal :=
  .next (hello port version hash farPort nonce s)

/-- The HELLO and AUTH transcript that the far end signs (R393). -/
def linkTranscript (s : State) (p : Nat) (chain : List Byte) (pub : Nat) : List Byte :=
  let x := getPort s p
  toLe 16 x.farHash ++ toLe 1 x.farPort ++ toLe 32 x.farNonce ++ toLe 16 s.mgmt.idHash ++ toLe 1 p ++ toLe 32 x.nonce ++ chain
    ++ toLe 97 pub

/-- The direction keys and salts of a link by HKDF (R393): those of the end whose hash is first come first. -/
def linkKeys (s : State) (p priv pub : Nat) : List Nat × List Nat :=
  let x := getPort s p
  let mine := s.mgmt.idHash
  let first := decide (mine < x.farHash)
  let salt := if first then toLe 32 x.nonce ++ toLe 32 x.farNonce else toLe 32 x.farNonce ++ toLe 32 x.nonce
  let info := ascii [80, 76, 65, 85, 70, 32, 76, 73, 78, 75] ++ (if first then toLe 16 mine ++ toLe 16 x.farHash else toLe 16 x.farHash ++ toLe 16 mine)
    ++ (if first then toLe 1 p ++ toLe 1 x.farPort else toLe 1 x.farPort ++ toLe 1 p)
  let secret := Config.ecdh priv (toLe 97 pub)
  let k (d : Nat) := Config.hkdf secret salt (info ++ toLe 1 d)
  let salt (d : Nat) := k (2 + d) % 2 ^ 32
  if first then ([k 0, k 1], [salt 0, salt 1]) else ([k 1, k 0], [salt 1, salt 0])

/-- What a port's TOPO carries (R395), in the order of that rule (assumption 174). -/
def topoBody (s : State) (p : Nat) : FlitBody :=
  { type := 2, first := 0, body := fit 240 (toLe 16 s.mgmt.idHash ++ toLe 1 p ++ toLe 16 s.gnt.policy.ownerHash ++ toLe 1 (pkgCode s)
      ++ toLe 2 (waveMask s p)) }

/-- AUTH: Gauntlet verifies the far end's chain and signature and installs the keys; TOPO leaves as the first encrypted
message (R393, R395). -/
def auth (port : Nat) (chain sig : List Byte) (pub : Nat) (s : State) : State :=
  let x := getPort s port
  if x.st ≠ .auth ∨ x.keyed ∨ s.mgmt.gauntletWdt then s
  else
    let key := Config.chainKey chain
    let good := Config.chainValid chain && leNat ((Config.sha384 key).take 16) == x.farHash
      && Config.ecdsaVerify key (linkTranscript s port chain pub) sig
    if !good then authFailed s port
    else
      let k := linkKeys s port (Config.entropy s.gnt.drawn) pub
      let s0 := putPort s port { x with keyed := true, keySince := s.time.now, keys := k.1, salts := k.2 }
      let s1 := sendFlits s0 port [topoBody s0 port]
      { s1 with gnt := { s1.gnt with drawn := s1.gnt.drawn + 1 }, plauf := { s1.plauf with ctrl := s1.plauf.ctrl ++ [(port, 1)] } }
def execAuth (port : Nat) (chain sig : List Byte) (ecdh : Nat) (s : State) : Host.Outcome State Fault Refusal :=
  .next (auth port chain sig ecdh s)

/-- TOPO: UP to the neighbour that the expected record names or leaves open, else UNEXPECTED, with NEIGHBOUR_CHANGED after
CHECK (R395, R396). -/
def topo (port hash farPort ownerHash pkg waves : Nat) (s : State) : State :=
  let x := getPort s port
  if x.st ≠ .auth ∨ !x.keyed then s
  else
    let s1 := putPort s port { x with farHash := hash, farPort := farPort, farOwner := ownerHash, farPkg := pkg, farWaves := waves }
    if expectedPort s1 port then portUp s1 port
    else
      let s2 := putPort s1 port { getPort s1 port with st := .unexpected }
      if bootEnded s2 then emit s2 4 0xB (portWho port) [] else s2
def execTopo (port hash farPort ownerHash pkgState waves : Nat) (s : State) : Host.Outcome State Fault Refusal :=
  .next (topo port hash farPort ownerHash pkgState waves s)

/-- KEY_REPLACE: direction 0 sends, 1 receives; the phase bit of the direction flips, its pairs are counted from 0, and the receiver
keeps the previous key for replays (R394). -/
def keyReplace (port dir : Nat) (s : State) : State :=
  let x := getPort s port
  if !x.keyed ∨ 2 ≤ dir then s
  else
    let y : Port := { x with
      keys := x.keys.set dir (Config.entropy s.gnt.drawn)
      salts := x.salts.set dir (Config.hkdf (Config.entropy s.gnt.drawn) [] (toLe 1 dir) % 2 ^ 32)
      phase := if dir = 0 then !x.phase else x.phase, farPhase := if dir = 1 then !x.farPhase else x.farPhase
      txPairs := if dir = 0 then 0 else x.txPairs, rxPairs := if dir = 1 then 0 else x.rxPairs
      prevRx := if dir = 1 then some (linkKey x 1, linkSalt x 1, x.rxPairs) else x.prevRx
      keySince := if dir = 0 then s.time.now else x.keySince }
    let s1 := putPort s port y
    let s2 : State := { s1 with gnt := { s1.gnt with drawn := s1.gnt.drawn + 1 }
                                plauf := { s1.plauf with ctrl := s1.plauf.ctrl ++ [(port, 2)] } }
    if x.st = .up then pumpOut s2 else s2
def execKeyReplace (port dir : Nat) (s : State) : Host.Outcome State Fault Refusal := .next (keyReplace port dir s)

/-! Wavelengths and light (R382, R384, R397, R398). -/

/-- A wavelength retired; a port with fewer than 8 left is retired. -/
def retireWave (s : State) (p w : Nat) : State :=
  let x := getPort s p
  if x.st = .retired ∨ x.retiredWaves.contains w then s
  else
    let s1 := putPort (markPermanent s (chWave p w)) p { x with retiredWaves := x.retiredWaves ++ [w] }
    let s2 := emit { s1 with plauf := { s1.plauf with ctrl := s1.plauf.ctrl ++ [(p, 3)] } } 4 0xD (portWho p) [(2, w)]
    if 16 - (x.retiredWaves.length + 1) < 8 then retirePort s2 p else recap s2 (0x100 + p)

/-- WAVELENGTH_RETIRE. -/
def wavelengthRetire (port wave : Nat) (s : State) : State := if 32 ≤ port ∨ 16 ≤ wave then s else retireWave s port wave
def execWavelengthRetire (port wave : Nat) (s : State) : Host.Outcome State Fault Refusal := .next (wavelengthRetire port wave s)

/-- RING_RECALIBRATE: the relieved ring becomes the spare; one that fails is replaced by the spare, and with no spare its
wavelength is retired. -/
def ringRecalibrate (port line : Nat) (ringOk : Bool) (s : State) : State :=
  let x := getPort s port
  if 32 ≤ port ∨ 16 ≤ line ∨ x.st = .retired ∨ x.st = .down then s
  else if ringOk then putPort s port { x with lastRing := if x.spareRing then line else x.lastRing }
  else if x.spareRing then putPort s port { x with spareRing := false, lastRing := line }
  else retireWave s port line
def execRingRecalibrate (port line : Nat) (ringOk : Bool) (s : State) : Host.Outcome State Fault Refusal :=
  .next (ringRecalibrate port line ringOk s)

/-- The capacities of an engine's four ports recomputed. -/
def recapEngine (s : State) (e : Nat) : State := (List.range 4).foldl (fun t i => recap t (0x100 + 4 * e + i)) s

/-- LASER_LINE_LOW: the wavelength is dark in the engine's ports. -/
def laserLineLow (engine line : Nat) (s : State) : State :=
  if 8 ≤ engine ∨ 16 ≤ line ∨ s.plauf.lowLines.contains (engine, line) then s
  else
    let s1 := emit s 4 0xF { die := 12 + engine, unit := line } []
    recapEngine { s1 with plauf := { s1.plauf with lowLines := s1.plauf.lowLines ++ [(engine, line)] } } engine
def execLaserLineLow (engine line : Nat) (s : State) : Host.Outcome State Fault Refusal := .next (laserLineLow engine line s)

/-- LASER_LINE_RESTORED: the line has stayed within 3 dB for 1 s. -/
def laserLineRestored (engine line : Nat) (s : State) : State :=
  if !s.plauf.lowLines.contains (engine, line) then s
  else recapEngine { s with plauf := { s.plauf with lowLines := s.plauf.lowLines.filter (· != (engine, line)) } } engine
def execLaserLineRestored (engine line : Nat) (s : State) : Host.Outcome State Fault Refusal :=
  .next (laserLineRestored engine line s)

/-- LASER_LOST: the engine's four ports go DOWN. -/
def laserLost (engine : Nat) (s : State) : State :=
  if 8 ≤ engine ∨ s.plauf.laserOut.contains engine then s
  else
    let s1 := portsDown { s with plauf := { s.plauf with laserOut := s.plauf.laserOut ++ [engine] } } (4 * engine) 4 1
    emit s1 4 0x10 { die := 12 + engine } []
def execLaserLost (engine : Nat) (s : State) : Host.Outcome State Fault Refusal := .next (laserLost engine s)

/-- LASER_INPUT_RESTORED: the engine's ports begin bring-up again. -/
def laserInputRestored (engine : Nat) (s : State) : State :=
  if !s.plauf.laserOut.contains engine then s
  else portsBack { s with plauf := { s.plauf with laserOut := s.plauf.laserOut.filter (· != engine) } } (4 * engine) 4 1
def execLaserInputRestored (engine : Nat) (s : State) : Host.Outcome State Fault Refusal := .next (laserInputRestored engine s)

/-- LOSS_OF_LIGHT: the port goes DOWN and no channel is charged (R451). -/
def lossOfLight (port : Nat) (s : State) : State := if 32 ≤ port then s else portLeave s port .down (some 5)
def execLossOfLight (port : Nat) (s : State) : Host.Outcome State Fault Refusal := .next (lossOfLight port s)

/-- LIGHT_DETECTED: a DOWN port that nothing else holds begins to train. -/
def lightDetected (port : Nat) (s : State) : State :=
  let x := getPort s port
  if 32 ≤ port then s
  else
    let holds := x.holds.filter (· != 5)
    let go := x.st == .down && holds.isEmpty
    putPort s port { x with holds := holds, st := if go then .train else x.st, trainSince := if go then s.time.now else x.trainSince }
def execLightDetected (port : Nat) (s : State) : Host.Outcome State Fault Refusal := .next (lightDetected port s)

end Sys2Proof.Machine
end

