-- ==== Sys2Proof/Machine/Cuff.lean ====
section
/-! DEFINITION. The Cuff: what it does with each transaction of the guest (R2, R376-R380). -/

namespace Sys2Proof.Machine

/-- Whether the guest's link carries transactions: a populated site, out of reset, its link up (R2, R380). -/
def guestActive (s : State) : Bool := s.guestSite && !s.cuff.guestReset && s.cuff.linkUp

/-- A reply to the guest. -/
def reply (s : State) (r : CuffReply) : State := { s with cuff := { s.cuff with replies := s.cuff.replies ++ [r] } }

/-- What the designated partition's state makes of a transaction (R379): served, or RETRY or OFFLINE. -/
inductive Gate where
  | serve (p : Nat)
  | retry
  | offline
deriving DecidableEq, Repr

/-- The table of R379. -/
def gate (s : State) : Gate :=
  if s.pwr.pkg = .trip then .retry
  else match s.cuff.part with
    | none => .offline
    | some p => match getP s p with
      | none => .offline
      | some x =>
        if x.st = .offline ∨ !x.fences.isEmpty ∨ s.fab.refLost.contains 0 then .offline
        else if x.st = .parked ∨ x.inReset then .retry
        else .serve p

/-- A DENIED transaction counted, and the first of each millisecond recorded (R378). -/
def denyGuest (s : State) (tag win off : Nat) : State :=
  let s1 := reply { s with cuff := { s.cuff with denied := s.cuff.denied + 1 } } (.denied tag)
  let due := match s1.cuff.lastDenied with
    | none => true
    | some t => decide (t + 1000000 ≤ s.time.now)
  if due then
    emit { s1 with cuff := { s1.cuff with lastDenied := some s.time.now } } 6 9 { die := 20 }
      [(1, win), (8, off), (4, s1.cuff.denied)]
  else s1

/-- A transaction of the guest passed through R379. -/
def guestOp (s : State) (tag : Nat) (k : Nat → State) : State :=
  if !guestActive s then s
  else match gate s with
    | .retry => reply s (.retry tag)
    | .offline => reply s (.offline tag)
    | .serve p => k p

/-- Whether an access to a window has a length and alignment of R376. -/
def guestLen (off n : Nat) : Bool := decide (64 ≤ n ∧ n ≤ 512 ∧ n % 64 = 0 ∧ off % 64 = 0)

/-- The virtual address of an access, none where the window, its right or its range denies it (R378). -/
def guestVa (s : State) (win off n : Nat) (write : Bool) : Option Nat :=
  match tfind s.cuff.wins win with
  | none => none
  | some w =>
    if w.valid && (if write then w.w else w.r) && guestLen off n && decide (off + n ≤ 2 ^ w.sizeLog2) then some (w.base + off) else none

/-- Whether the translation unit passes an access of up to 512 bytes: every unit in local memory, with W for a write (R193,
R196, R378). -/
def guestXlate (s : State) (p va n : Nat) (write : Bool) : Bool :=
  (List.range (n / 64)).all fun i => match xlate s p (va + 64 * i) with
    | .ok (.loc _ w) => w || !write
    | _ => false

/-- Whether an access translates to a page across a severed fabric, where no request is issued (R306, R366): the Cuff answers it
as it answers work that the fabric keeps out (assumption 169). -/
def guestFar (s : State) (p va n : Nat) : Bool :=
  (List.range (n / 64)).any fun i => match xlate s p (va + 64 * i) with
    | .error (.st c) => c == stOffline
    | _ => false

/-- The access context of the guest. -/
def guestCx (p : Nat) : Cx := { part := p, desc := 2 ^ 40, rem := [] }

/-! Rates (R345-R347, R377). -/

/-- Whether a cap lets a request pass now: one of 0 lets none. -/
def capFree (s : State) (key rate : Nat) : Bool := decide (0 < rate ∧ (tfind s.cuff.paced key).getD 0 ≤ s.time.now)
/-- A cap's next request put off by the time that n bytes take at its rate. -/
def pace (s : State) (key rate n : Nat) : State :=
  { s with cuff := { s.cuff with paced := tput s.cuff.paced key (s.time.now + (1000 * n + rate - 1) / max 1 rate) } }

/-- The keys and rates of the caps of a window in a direction. -/
def guestCaps (s : State) (win : Nat) (write : Bool) : List (Nat × Nat) :=
  let dir := if write then 1 else 0
  [(2 * win + dir, ((tfind s.cuff.wins win).map (·.rate)).getD 0), (32 + dir, s.cuff.cap)]

/-- The requests of an access, one for each page it touches, as the Cuff stamps them (R339). -/
def guestReqs (s : State) (p win va n : Nat) (data : Option (List Byte)) : List MemReq :=
  let m := min n (8192 - va % 8192)
  let one (a k : Nat) (d : Option (List Byte)) : MemReq :=
    { master := 548, part := p, cls := ((tfind s.cuff.wins win).map (·.cls)).getD 7, deadline := 0, va := a, len := k, write := d
      hint := 0, prefetch := false, found := .clean }
  one va m (data.map (·.take m)) :: (if n = m then [] else [one (va + m) (n - m) (data.map (·.drop m))])

/-- A request of the guest regulated and served; none where it is not conforming and a resource has no slack (R347). -/
def guestServe (s : State) (r : MemReq) : Option State :=
  match xlate s r.part r.va with
  | .ok (.loc pa _) =>
    let c := memCache (cacheLeaf s r) r pa
    let use := memUse r pa c.2
    let ch := chargeAll c.1 r use
    if ch.2 || use.all fun u => slackOn s u.1 then some (serveReq ch.1 r use ch.2) else none
  | _ => none

/-- An access of the guest passed by its caps and its regulation; none where one of them holds it, which the link then does
(assumption 176). -/
def guestPass (s : State) (p win va n : Nat) (data : Option (List Byte)) : Option State :=
  let caps := guestCaps s win data.isSome
  if !caps.all fun c => capFree s c.1 c.2 then none
  else ((guestReqs s p win va n data).foldl (fun (t : Option State) r => t.bind fun u => guestServe u r) (some s)).map fun t =>
    caps.foldl (fun u c => pace u c.1 c.2 n) t

/-- CUFF_READ: DATA, or zeros with POISON. -/
def cuffRead (tag window offset len : Nat) (s : State) : State :=
  guestOp s tag fun p => match guestVa s window offset len false with
    | none => denyGuest s tag window offset
    | some va =>
      if guestFar s p va len then reply s (.offline tag)
      else if !guestXlate s p va len false then denyGuest s tag window offset
      else match vreadP s (guestCx p) va len with
        | .ok bs => match guestPass s p window va len none with
          | none => s
          | some t => reply t (if bs.any Prod.snd then .poison tag (List.replicate len 0) else .data tag (bs.map Prod.fst))
        | .error .wait => s
        | .error _ => denyGuest s tag window offset
def execCuffRead (tag window offset len : Nat) (s : State) : Host.Outcome State Fault Refusal :=
  .next (cuffRead tag window offset len s)

/-- CUFF_WRITE. -/
def cuffWrite (tag window offset : Nat) (data : List Byte) (s : State) : State :=
  guestOp s tag fun p => match guestVa s window offset data.length true with
    | none => denyGuest s tag window offset
    | some va =>
      if guestFar s p va data.length then reply s (.offline tag)
      else if !guestXlate s p va data.length true then denyGuest s tag window offset
      else match vwrite s (guestCx p) va data with
        | .ok _ => match guestPass s p window va data.length (some data) with
          | none => s
          | some t => reply t (.ack tag)
        | .error .wait => s
        | .error _ => denyGuest s tag window offset
def execCuffWrite (tag window offset : Nat) (data : List Byte) (s : State) : Host.Outcome State Fault Refusal :=
  .next (cuffWrite tag window offset data s)

/-- A counter slot that holds a right. -/
def guestSlot (s : State) (slot : Nat) (right : CuffSlot → Bool) : Option Nat :=
  match tfind s.cuff.slots slot with
  | none => none
  | some x => if right x then some x.counter else none

/-- A signal of the guest that its partition's state drops, counted under R313 (R379). -/
def dropGuestSignal (s : State) : State :=
  match s.cuff.part with
  | none => s
  | some p => match getP s p with
    | none => s
    | some x => putP s p { x with signalsDropped := x.signalsDropped + 1 }

/-- CUFF_SIGNAL. -/
def cuffSignal (tag slot inc : Nat) (s : State) : State :=
  if guestActive s ∧ gate s = .retry ∧ s.pwr.pkg ≠ .trip then reply (dropGuestSignal s) (.retry tag)
  else guestOp s tag fun p => match guestSlot s slot (·.sig) with
    | none => denyGuest s tag slot 0
    | some c =>
      if inc = 0 ∨ 65535 < inc then denyGuest s tag slot 0
      else if counterFar s c then reply s (.offline tag)
      else reply (addCounter s p c inc none).1 (.ack tag)
def execCuffSignal (tag slot inc : Nat) (s : State) : Host.Outcome State Fault Refusal := .next (cuffSignal tag slot inc s)

/-- CUFF_CREAD. -/
def cuffCread (tag slot : Nat) (s : State) : State :=
  guestOp s tag fun p => match guestSlot s slot (·.rd) with
    | none => denyGuest s tag slot 0
    | some c => reply s (if counterFar s c then .offline tag else .value tag (ctrOf s p c))
def execCuffCread (tag slot : Nat) (s : State) : Host.Outcome State Fault Refusal := .next (cuffCread tag slot s)

/-- CUFF_WATCH: one WATCH per slot, replaced by a new one; NOTIFY follows at once when it is met (R376). -/
def cuffWatch (tag slot target : Nat) (s : State) : State :=
  guestOp s tag fun p => match guestSlot s slot (·.watch) with
    | none => denyGuest s tag slot 0
    | some c =>
      if counterFar s c then reply s (.offline tag) else
      let s1 := reply s (.ack tag)
      notifyWatches { s1 with cuff := { s1.cuff with watches := tput s1.cuff.watches slot target } } p c
def execCuffWatch (tag slot target : Nat) (s : State) : Host.Outcome State Fault Refusal := .next (cuffWatch tag slot target s)

/-- GUEST_LINK_DOWN: outstanding transactions and WATCHes end without reply (R380). -/
def guestLinkDown (s : State) : State := { s with cuff := { s.cuff with linkUp := false, watches := [] } }
def execGuestLinkDown (s : State) : Host.Outcome State Fault Refusal := .next (guestLinkDown s)

/-- GUEST_LINK_UP: the guest is out of reset and its link has trained. -/
def guestLinkUp (s : State) : State :=
  if s.guestSite && !s.cuff.guestReset then { s with cuff := { s.cuff with linkUp := true } } else s
def execGuestLinkUp (s : State) : Host.Outcome State Fault Refusal := .next (guestLinkUp s)

end Sys2Proof.Machine
end

