-- ==== Sys2Proof/Machine/Thermal.lean ====
section
/-! DEFINITION. Heat, current and coolant: readings, limiters, records and the conditions of TRIP (R483-R506, R610), telemetry
and the time base's alignment (R591, R601, R603). -/

namespace Sys2Proof.Machine

/-! Fractions and the thermal calibration record (R511). -/

def fracLt (a b : Frac) : Bool := decide (a.num * (b.den : Int) < b.num * (a.den : Int))
def fracLe (a b : Frac) : Bool := !fracLt b a
def fracMin (a b : Frac) : Frac := if fracLt b a then b else a
def fracSub (a b : Frac) : Frac := { num := a.num * (b.den : Int) - b.num * (a.den : Int), den := a.den * b.den }
def ofInt (i : Int) : Frac := { num := i }

/-- The value of a positive binary32 number. -/
def f32Frac (b : Nat) : Frac :=
  let e := bits b 23 8
  let m := if e = 0 then bits b 0 23 else 2 ^ 23 + bits b 0 23
  let x := if e = 0 then 1 else e
  if 150 ≤ x then { num := m * 2 ^ (x - 150) } else { num := m, den := 2 ^ (150 - x) }

/-- A tower's baselines θ_l0 and θ_f0 in 1/64 °C per W. -/
def baseTheta (s : State) (t : Nat) : Frac × Frac :=
  let f (o : Nat) : Frac := let x := f32Frac (recField s 4 o 4); { x with num := 64 * x.num }
  (f (8 + 8 * t), f (12 + 8 * t))

/-- ΔP0 in Pa; the default where the record holds 0. -/
def dp0 (s : State) : Nat := if recField s 4 4 4 = 0 then 45000 else recField s 4 4 4

/-- The inlet temperature; 40 °C when its sensor has failed (R495). -/
def inletNow (s : State) : Int := if s.th.p.inletFailed then 2560 else s.th.p.inlet

/-- A cap that limits nothing, for a θ that is not positive. -/
def noCap : Frac := { num := 1000000000 }
/-- The thermal cap of a pair of θ values (R495), in W. -/
def capOf (theta : Frac × Frac) (tin : Int) : Frac :=
  let one (top : Int) (x : Frac) : Frac := if x.num ≤ 0 then noCap else { num := (top - tin) * x.den, den := x.num.toNat }
  fracMin (one (93 * 64) theta.1) (one (83 * 64) theta.2)

/-- The thermal cap in force: before the first computation, that of the baselines. -/
def thermalCap (s : State) (t : Nat) : Frac :=
  ((getTower s t).cap).getD (capOf (((getTower s t).theta).getD (baseTheta s t)) (inletNow s))

/-! Calibration under stress (R584). -/

/-- A THERMAL calibration under way ended INCOMPLETE. -/
def stopThermalCal (s : State) : State :=
  match s.hol.running with
  | some t => if t.calibrate && bit t.set 0 then stopTest s else s
  | none => s

/-- The same, when a tower has left ladder level L0. -/
def leftL0 (old s : State) : State :=
  let up (t : Nat) := ladderLevel (getTower old t) == 0 && ladderLevel (getTower s t) != 0
  if up 0 || up 1 then stopThermalCal s else s

/-! The model's readings (R488-R490, R506). -/

/-- A node's offset in force: that of the calibration record until it has moved (R491, R511). -/
def nodeOffset (s : State) (t node : Nat) : Int :=
  (tfind (getTower s t).offsets node).getD (signed 16 (recField s 4 (0x40 + 2 * (4096 * t + node)) 2))

/-- A sensor's reading corrected by its trim, which the 608 diodes have (R489, R511). -/
def trimmed (s : State) (t i : Nat) (x : Int) : Int :=
  if i < 608 then x + signed 16 (recField s 4 (0x4040 + 2 * (608 * t + i)) 2) else x

/-- The value of the model at a node. -/
def modelAt (s : State) (t : Nat) (n : NodeValue) : Int := n.model + nodeOffset s t n.node

/-- What a sensor counts as: a masked one the model's value plus 3 °C, an open or shorted diode its kind's target plus 5 °C; a
stack's or engine's sensor that gives nothing counts as the model (R490, R492). -/
def sensorAt (s : State) (t : Nat) (n : NodeValue) (e : Nat × Option Int) : Int :=
  if (getTower s t).masked.contains e.1 then modelAt s t n + 192
  else match e.2 with
    | some x => trimmed s t e.1 x
    | none => if n.kind = 0 then 100 * 64 else if n.kind = 1 then 90 * 64 else modelAt s t n

/-- The reading in force of a node: the largest of the model's value and its sensors (R490). -/
def inForceAt (s : State) (t : Nat) (n : NodeValue) : Int :=
  n.sensors.foldl (fun m e => max m (sensorAt s t n e)) (modelAt s t n)

/-- The greatest of some readings, 25 °C where there is none. -/
def hottest : List Int → Int
  | [] => 1600
  | a :: r => r.foldl max a

/-- The least of some readings, 25 °C where there is none. -/
def coolest : List Int → Int
  | [] => 1600
  | a :: r => r.foldl min a

/-- The nodes of a tower with those of an update put in. -/
def nodesAfter (s : State) (t : Nat) (inp : TowerInput) : Tbl NodeValue :=
  (inp.nodes.filter fun n => decide (n.node < 4096)).foldl (fun u n => tput u n.node n) (getTower s t).nodes

/-- The readings in force of a tower after an update (R488, R490). -/
def readingOf (s : State) (t : Nat) (inp : TowerInput) : TowerReading :=
  let l := (nodesAfter s t inp).map Prod.snd
  let kind (k : Nat) : List Int := (l.filter fun n => n.kind == k).map (inForceAt s t)
  let each (k : Nat) : List Int :=
    (List.range 4).map fun u => hottest ((l.filter fun n => n.kind == k && n.unit == u).map (inForceAt s t))
  let logic := kind 0
  { hotLogic := hottest logic, hotF := hottest (kind 1), hotStack := hottest (kind 2), hotEng := hottest (kind 3)
    lowLogic := coolest logic, stackTemps := each 2, engines := each 3
    power := inp.power, power100 := inp.power100 }

/-- The hottest stack reading of a tower. -/
def hotStackOf (r : TowerReading) : Int := r.stackTemps.foldl max r.hotStack

/-- The temperature limits of R506 that a tower's readings stand at. -/
def tripMarks (r : TowerReading) : Nat :=
  (if 105 * 64 ≤ r.hotLogic then 1 else 0) + (if 100 * 64 ≤ r.hotF then 2 else 0) + (if 100 * 64 ≤ hotStackOf r then 4 else 0)

/-- TRIP for each limit reached by two consecutive readings. -/
def judgeTrip (s : State) (old new : Nat) : State :=
  [0, 1, 2].foldl (fun t i => if bit old i && bit new i then enterTrip t (i + 1) else t) s

/-- A stack's temperature band and throttled state (R344, R500). -/
def judgeStack (s : State) (k : Nat) (x : Int) : State :=
  let hot := if s.bw.hotBand.contains k then decide (83 * 64 ≤ x) else decide (85 * 64 ≤ x)
  let thr := if s.bw.throttled.contains k then decide (93 * 64 ≤ x) else decide (95 * 64 < x)
  let was := s.bw.throttled.contains k
  let put (l : List Nat) (b : Bool) := if b then (if l.contains k then l else l ++ [k]) else l.filter (· != k)
  -- near-bank windows stop opening at 95 °C itself (R223)
  let shut := if s.bw.noWindow.contains k then decide (93 * 64 ≤ x) else decide (95 * 64 ≤ x)
  let s1 : State := { s with bw := { s.bw with
    hotBand := put s.bw.hotBand hot, throttled := put s.bw.throttled thr, noWindow := put s.bw.noWindow shut } }
  let s2 := if thr && !was then emit s1 1 0xC { die := 4 + k } [] else if was && !thr then emit s1 1 0xD { die := 4 + k } [] else s1
  recap s2 k

/-- The ports of an engine held DOWN for a cause. -/
def engineHeld (s : State) (e hold : Nat) : Bool := (List.range 4).any fun i => (getPort s (4 * e + i)).holds.contains hold

/-- An engine's cold and hot limits (R383, R501). A port that is UP stays so down to 12 °C. -/
def judgeEngine (s : State) (e : Nat) (x : Int) : State :=
  let cold (p : Nat) : Bool := (getPort s p).st != .retired && decide (x < (if (getPort s p).st = .up then 12 * 64 else 15 * 64))
  let l := (List.range 4).map (4 * e + ·)
  let s1 := (l.filter cold).foldl (fun t p => portLeave t p .down (some 0)) s
  let s2 := if engineHeld s1 e 0 && !engineHeld s e 0 then emit s1 1 0xE { die := 12 + e } [] else s1
  let s3 := if 15 * 64 ≤ x then l.foldl (fun t p => portRelease t p 0) s2 else s2
  if 90 * 64 < x then
    if engineHeld s3 e 4 then s3 else emit (l.foldl (fun t p => portLeave t p .down (some 4)) s3) 1 0xF { die := 12 + e } []
  else if x < 85 * 64 then l.foldl (fun t p => portRelease t p 4) s3 else s3

/-- The records of the inlet temperature (R487). -/
def judgeInlet (s : State) : State :=
  let x := s.th.p.inlet
  let now := s.time.now
  if s.th.p.inletFailed then s
  else
    let s1 := if x < 12 * 64 ∧ !s.th.condensation then emit { s with th := { s.th with condensation := true } } 1 7 {} []
      else if 13 * 64 ≤ x then { s with th := { s.th with condensation := false } } else s
    if x < 15 * 64 ∨ 40 * 64 < x then
      let s2 : State := { s1 with th := { s1.th with inletOut := true, inletBackSince := none } }
      if s1.th.inletOut then s2 else emit s2 1 8 {} []
    else match s1.th.inletOut, s1.th.inletBackSince with
      | true, none => { s1 with th := { s1.th with inletBackSince := some now } }
      | true, some t => if t + 60000000000 ≤ now then { s1 with th := { s1.th with inletOut := false, inletBackSince := none } } else s1
      | false, _ => s1

/-- The excess E of a tower (R504), in 1/64 °C. -/
def excessOf (s : State) (t : Nat) : Frac :=
  let r := (getTower s t).r
  let b := (baseTheta s t).1
  { num := (r.hotLogic - inletNow s) * b.den - b.num * r.power, den := b.den }

/-- How far E has risen over the last 0.5 ms, which is 250 updates. -/
def rise (x : Tower) : Frac :=
  match x.excess, x.excess.getLast? with
  | a :: _, some b => fracSub a b
  | _, _ => {}

/-- Coolant loss declared (R504). -/
def declareLoss (s : State) : State :=
  let s1 := thermalTrigger (emit { s with th := { s.th with coolantLoss := true, lossAt := s.time.now } } 1 3 {} []) 0xFF
  let top (x : Tower) : Tower := { x with lvlTh := 22, sinceStep := some s1.time.now }
  stopThermalCal { s1 with th := { s1.th with a := top s1.th.a, b := top s1.th.b } }

/-- Coolant loss declared or ended by the newest readings (R504, R505). -/
def judgeCoolant (s : State) : State :=
  let now := s.time.now
  let dp := s.th.p.dp
  let low := decide (10 * dp < dp0 s)
  let fell := low && s.th.dpLow && (match s.th.dpHigh with | some t => decide (now ≤ t + 100000000) | none => false)
  let rose (x : Tower) : Bool := match x.excess with
    | e :: _ => fracLt (ofInt 128) e && fracLt (ofInt 64) (rise x)
    | [] => false
  let flat (x : Tower) : Bool := fracLt (rise x) (ofInt 16)
  let ok := decide (dp0 s ≤ 2 * dp) && flat s.th.a && flat s.th.b
  let okSince := if ok then some ((s.th.okSince).getD now) else none
  let long := match okSince with | some t => decide (t + 200000 ≤ now) | none => false
  let s1 : State := { s with th := { s.th with
    dpLow := low, dpHigh := if dp0 s < 2 * dp then some now else s.th.dpHigh, okSince := okSince
    flowOkSince := if long then some ((s.th.flowOkSince).getD now) else none } }
  if !s1.th.coolantLoss then (if fell || rose s1.th.a || rose s1.th.b then declareLoss s1 else s1)
  else if long && decide (now ≤ s1.th.lossAt + 2000000) && !s1.pwr.tripCauses.contains 4 then
    blowDue (emit { s1 with th := { s1.th with coolantLoss := false } } 1 4 {} [])
  else s1

/-- The values that telemetry averages (R591). -/
def telemSample (s : State) : List Int :=
  let f (r : TowerReading) : List Int := [r.hotLogic, r.hotF, hotStackOf r, r.hotEng]
  [(s.th.p.power : Int), s.th.a.r.power, s.th.b.r.power, s.th.p.inlet, s.th.p.outlet, s.th.p.dp] ++ f s.th.a.r ++ f s.th.b.r
    ++ [min s.th.a.r.lowLogic s.th.b.r.lowLogic]

/-- A tower with the readings of one update. -/
def takeReading (s : State) (t : Nat) (r : TowerReading) : State :=
  let x := getTower s t
  putTower s t { x with
    r := r, sumLogic := x.sumLogic + r.hotLogic, sumF := x.sumF + r.hotF, sumPower := x.sumPower + r.power
    sumInlet := x.sumInlet + inletNow s, samples := x.samples + 1, tripSeen := tripMarks r }

/-- A tower with its newest E, of which 0.5 ms are kept. -/
def takeExcess (s : State) (t : Nat) : State :=
  let x := getTower s t
  putTower s t { x with excess := (excessOf s t :: x.excess).take 251 }

/-- The readings of a millisecond taken: the nodes, the towers' readings, the excesses and the highest temperature of the
life record (R490, R492, R530). -/
def takeInputs (s : State) (ia ib : TowerInput) (p : PkgReading) : State :=
  let a := readingOf s 0 ia
  let b := readingOf s 1 ib
  let s0 : State := { s with th := { s.th with
    p := p, a := { s.th.a with nodes := nodesAfter s 0 ia }, b := { s.th.b with nodes := nodesAfter s 1 ib } } }
  let s1 := takeExcess (takeExcess (takeReading (takeReading s0 0 a) 1 b) 0) 1
  { s1 with mgmt := { s1.mgmt with life := { s1.mgmt.life with
    highest := max s1.mgmt.life.highest (max a.hotLogic b.hotLogic) } } }

/-- A sample added to the telemetry of the interval (R591). -/
def addSample (s : State) : State :=
  let z := telemSample s
  let te := s.th.telem
  { s with th := { s.th with telem := { te with
    samples := te.samples + 1, sums := if te.samples = 0 then z else (te.sums.zip z).map fun e => e.1 + e.2 } } }

/-- The stacks, the engines and the coolant judged by the readings of both towers. -/
def judgeReadings (s : State) (a b : TowerReading) : State :=
  let s1 := ((a.stackTemps.take 4).zipIdx ++ (b.stackTemps.take 4).zipIdx 4).foldl (fun u e => judgeStack u e.2 e.1) s
  let s2 := ((a.engines.take 4).zipIdx ++ (b.engines.take 4).zipIdx 4).foldl (fun u e => judgeEngine u e.2 e.1) s1
  judgeCoolant (judgeInlet s2)

/-- THERMAL_MODEL_UPDATE: the readings in force of one 2 µs update, and every condition judged on them. In BOOT_MGMT
none is (R546). -/
def thermalModelUpdate (ia ib : TowerInput) (p : PkgReading) (s : State) : State :=
  if s.pwr.pkg = .off then s
  else
    let s2 := takeInputs s ia ib p
    if s.mgmt.phase = .bootMgmt then s2
    else
      let a := readingOf s 0 ia
      let b := readingOf s 1 ib
      let s6 := judgeReadings (addSample s2) a b
      endNet (judgeTrip (judgeTrip s6 s.th.a.tripSeen (tripMarks a)) s.th.b.tripSeen (tripMarks b))
def execThermalModelUpdate (a b : TowerInput) (p : PkgReading) (s : State) : Host.Outcome State Fault Refusal :=
  .next (thermalModelUpdate a b p s)

/-! Limiters (R494-R498). -/

/-- The core current a limiter acts on: 1,100 A while its monitor is invalid (R610). -/
def coreCurrent (x : Tower) : Nat := if x.imonFault then 1100 else x.current

/-- Whether 20 µs or 100 µs have passed since a time; at the start, they have. -/
def since (s : State) (t : Option Nat) (d : Nat) : Bool := match t with | none => true | some x => decide (x + d ≤ s.time.now)

/-- The thermal limiter's next level (R495). -/
def thermalLevel (s : State) (t : Nat) : Nat :=
  let x := getTower s t
  let r := x.r
  let cap := thermalCap s t
  let p := ofInt (r.power100 : Int)
  if s.th.coolantLoss then 22
  else if decide (95 * 64 < r.hotLogic ∨ 88 * 64 < r.hotF ∨ 90 * 64 < hotStackOf r ∨ 1050 < coreCurrent x) then min (x.lvlTh + 1) 22
  else if fracLt cap p && since s x.sinceStep 20000 then min (x.lvlTh + 1) 22
  else if decide (0 < x.lvlTh) && fracLt { p with num := 100 * p.num } { cap with num := 97 * cap.num }
      && decide (r.hotLogic < 93 * 64 ∧ r.hotF < 86 * 64 ∧ hotStackOf r < 88 * 64) && since s x.sinceStep 100000 then x.lvlTh - 1
  else x.lvlTh

/-- THERMAL_LIMITER_TICK, with CURRENT_LIMIT at most once per second (R483). -/
def thermalLimiterTick (tower : Nat) (s : State) : State :=
  if 2 ≤ tower ∨ s.pwr.pkg = .off then s
  else
    let x := getTower s tower
    let l := thermalLevel s tower
    let y : Tower := { x with lvlTh := l, sinceStep := if l = x.lvlTh then x.sinceStep else some s.time.now }
    let z : Tower := { y with atTop := if ladderLevel y < 22 then none else some ((x.atTop).getD s.time.now) }
    let above := decide (1050 < coreCurrent x) && since s x.lastCurrent 1000000000
    let s1 := putTower s tower (if above then { z with lastCurrent := some s.time.now } else z)
    leftL0 s (if above then emit s1 2 1 { die := tower } [] else s1)
def execThermalLimiterTick (tower : Nat) (s : State) : Host.Outcome State Fault Refusal := .next (thermalLimiterTick tower s)

/-- The THETA records after a computation (R503): level 15 and 30 once per crossing, then THETA_NORMAL. -/
def judgeTheta (s : State) (t : Nat) (theta : Frac × Frac) : State :=
  let b := baseTheta s t
  let atLeast (n : Nat) : Bool :=
    let f (x y : Frac) : Bool := fracLe { y with num := n * y.num } { x with num := 100 * x.num }
    f theta.1 b.1 || f theta.2 b.2
  let x := getTower s t
  let ratio (x y : Frac) : Frac := { num := x.num * (y.den : Int), den := x.den * y.num.toNat }
  let rl := ratio theta.1 b.1
  let rf := ratio theta.2 b.2
  let y : Tower := { x with
    rho := some (if fracLt rl rf then rf else rl)
    rise15 := if atLeast 115 then x.rise15 + 1 else 0, rise30 := if atLeast 130 then x.rise30 + 1 else 0
    normal := if atLeast 110 then 0 else x.normal + 1 }
  let up (u : State) (n lvl : Nat) : State :=
    if 3 ≤ n ∧ (getTower u t).thetaLevel < lvl then
      stopThermalCal (emit (putTower u t { getTower u t with thetaLevel := lvl }) 1 5 { die := t } [(1, lvl)])
    else u
  let s1 := up (up (putTower s t y) y.rise15 15) y.rise30 30
  if 3 ≤ y.normal ∧ 0 < (getTower s1 t).thetaLevel then
    emit (putTower s1 t { getTower s1 t with thetaLevel := 0 }) 1 6 { die := t } []
  else s1

/-- CAP_UNREACHABLE, once per second for each limit: 0 the thermal cap, 1 the host cap (R498). -/
def judgeUnreach (s : State) (t k : Nat) (bad : Bool) : State :=
  let x := getTower s t
  let long := match x.atTop with | some u => decide (u + 10000000 ≤ s.time.now) | none => false
  if bad && long && since s (tfind x.unreach k) 1000000000 then
    emit (putTower s t { x with unreach := tput x.unreach k s.time.now }) 2 2 { die := t } [(1, k)]
  else s

/-- THERMAL_CAP_COMPUTE: θ from the means of the 10 ms where tower power averaged at least 300 W, the thermal cap, and the
records (R495, R498, R503). -/
def thermalCapCompute (tower : Nat) (s : State) : State :=
  if 2 ≤ tower ∨ s.pwr.pkg = .off then s
  else
    let x := getTower s tower
    let on := decide (0 < x.samples ∧ 300 * x.samples ≤ x.sumPower)
    let f (sum : Int) : Frac := { num := sum - x.sumInlet, den := x.sumPower }
    let theta := if on then some (f x.sumLogic, f x.sumF) else x.theta
    let y : Tower := { x with
      theta := theta, cap := some (capOf (theta.getD (baseTheta s tower)) (inletNow s))
      sumLogic := 0, sumF := 0, sumPower := 0, sumInlet := 0, samples := 0 }
    let s1 := putTower s tower y
    let s2 := match on, theta with
      | true, some th => judgeTheta s1 tower th
      | _, _ => s1
    let s3 := judgeUnreach s2 tower 0 (fracLt (thermalCap s2 tower) (ofInt (x.r.power100 : Int)))
    judgeUnreach s3 tower 1 (s.pwr.hostCap != 0 && decide (s.pwr.hostCap < s.th.p.power))
def execThermalCapCompute (tower : Nat) (s : State) : Host.Outcome State Fault Refusal := .next (thermalCapCompute tower s)

/-- HOST_LIMITER_TICK (R496): package power, averaged over 100 µs, against the cap. -/
def hostLimiterTick (s : State) : State :=
  let p := s.th.p.power
  let c := s.pwr.hostCap
  let go (x : Tower) : Tower :=
    if c < p ∧ x.lvlHost < 22 ∧ since s x.sinceHost 20000 then { x with lvlHost := x.lvlHost + 1, sinceHost := some s.time.now }
    else if 100 * p < 97 * c ∧ 0 < x.lvlHost ∧ since s x.sinceHost 100000 then
      { x with lvlHost := x.lvlHost - 1, sinceHost := some s.time.now }
    else x
  if c = 0 then s else leftL0 s { s with th := { s.th with a := go s.th.a, b := go s.th.b } }
def execHostLimiterTick (s : State) : Host.Outcome State Fault Refusal := .next (hostLimiterTick s)

/-! Energy hints (R338). -/

/-- An energy hint: tower A's and tower B's energy in units of 10 µJ, the duration in units of 128 ns. -/
structure Hint where
  a : Nat
  b : Nat
  dur : Nat

/-- A hint of 64 bits, as a step record holds it (R321). -/
def hintOf (n : Nat) : Hint := { a := bits n 0 16, b := bits n 16 16, dur := bits n 32 32 }

/-- The operand formats and the work count of a descriptor, as far as its records can be read: multiply-accumulates of MATRIX,
elements of other tensor operations, bytes of REMOTE (assumption 170). -/
def workOf (s : State) (d : Nat) (f : Flight) : List Nat × Nat :=
  match f.opcode / 4096 with
  | 1 => match matPlan s d f with
    | .ok p => ([p.x.fmt, p.w.fmt, p.d.fmt], p.d.count * (p.kw * p.kh * p.x.e0))
    | .error _ => ([], 0)
  | 9 => ([], f.op 0x38 4)
  | k =>
    if 6 ≤ k then ([], 0)
    else
      let ts := [0x20, 0x28, 0x30].filterMap fun o => match operand s (cxOf s f d) (f.op o 8) with
        | .ok t => some t
        | .error _ => none
      (ts.map (·.fmt), (ts.map (·.count)).foldl max 0)

/-- The queue engine's estimate of a descriptor's hint. -/
def estimateHint (s : State) (d : Nat) (f : Flight) : Hint :=
  let w := workOf s d f
  let e := Config.energyEstimate f.opcode w.1 w.2
  { a := e.1, b := e.2.1, dur := e.2.2 }

/-- The energy field of a STEP's record: as it was read when the step was checked, or as it stands. -/
def stepEnergy (s : State) (d : Nat) (f : Flight) : Nat :=
  match tfind s.steps.runs d with
  | some r => r.energy
  | none => match recordIn s (cxOf s f d) (f.op 0x20 8) 64 64 with
    | .ok h => fld h 0x38 8
    | .error _ => 0

/-- The hint of a fetched descriptor: for a STEP the record's field, the rota's learned values where that is 0, and the estimate on
a first replay; for any other the estimate. -/
def energyHint (s : State) (d : Nat) (f : Flight) : Hint :=
  if f.opcode ≠ 0x6001 then estimateHint s d f
  else if stepEnergy s d f ≠ 0 then hintOf (stepEnergy s d f)
  else match tfind s.steps.rotas (256 * f.part + f.op 0x28 1) with
    | some x =>
      if x.learnedA = 0 ∧ x.learnedB = 0 ∧ x.learnedDur = 0 then estimateHint s d f
      else { a := x.learnedA, b := x.learnedB, dur := x.learnedDur }
    | none => estimateHint s d f

/-- The hints of the fetched work that has not completed, in the order it was fetched. -/
def hints (s : State) : List Hint :=
  (s.qe.flights.filter fun e => e.2.stepOf.isNone && e.2.phase != .ended).map fun e => energyHint s e.1 e.2

/-! The Almanac (R497). -/

def fracAdd (a b : Frac) : Frac := { num := a.num * (b.den : Int) + b.num * (a.den : Int), den := a.den * b.den }
def fracMax (a b : Frac) : Frac := if fracLt a b then b else a

/-- The power in W that a tower's work, one piece after another from time t, adds to the 100 µs bin that starts at lo, with the
time it leaves uncovered at idle power (assumption 171). -/
def binPower (tower idle lo : Nat) : Nat → List Hint → Frac
  | t, [] => { num := idle * (lo + 100000 - max lo (min t (lo + 100000))), den := 100000 }
  | t, h :: r =>
    let e := if tower = 0 then h.a else h.b
    let d := 128 * h.dur
    let shared := min (t + d) (lo + 100000) - max t lo
    let here : Frac := if d = 0 then (if lo ≤ t ∧ t < lo + 100000 then { num := e, den := 10 } else {}) else { num := e * shared, den := 10 * d }
    fracAdd here (binPower tower idle lo (t + d) r)

/-- The highest of the 20 bins of a tower's forecast. -/
def peakPower (s : State) (tower idle : Nat) : Frac :=
  let l := hints s
  ((List.range 20).map fun i => binPower tower idle (100000 * i) 0 l).foldl fracMax (ofInt 0)

/-- The Almanac's level for a forecast (R497): the lowest level whose issue fraction is at most
(P_alm - P_static) / (P_peak - P_static). -/
def almanacLevel (s : State) (hotLogic hotF : Int) (peak : Frac) (idle : Nat) : Nat :=
  let tin := inletNow s
  let logic := decide (hotF - 83 * 64 ≤ hotLogic - 93 * 64)
  let tf := if logic then hotLogic else hotF
  let lim : Int := if logic then 93 * 64 else 83 * 64
  if tf ≤ lim then 0
  else
    let d := tf - tin
    if d ≤ 0 then 22
    else
      let still := (idle : Int) * peak.den
      let room := peak.num * (lim - tin) - still * d
      ((List.range 23).find? fun l => decide ((issueSlots l : Int) * (peak.num - still) * d ≤ 48048 * room)).getD 22

/-- ALMANAC_FORECAST: the forecast formed from the hints; the hottest values that the reduced model reaches under it and the
tower's idle power are given (assumption 90). -/
def almanacForecast (tower : Nat) (hotLogic hotF : Int) (idle : Nat) (s : State) : State :=
  if 2 ≤ tower then s
  else leftL0 s (putTower s tower { getTower s tower with
    lvlAlm := almanacLevel s hotLogic hotF (peakPower s tower idle) idle })
def execAlmanacForecast (tower : Nat) (hotLogic hotF : Int) (idle : Nat) (s : State) : Host.Outcome State Fault Refusal :=
  .next (almanacForecast tower hotLogic hotF idle s)

/-! Sensors (R491, R492). -/

/-- How far a node's unmasked sensors lie from the model before its offset: their mean, rounded down, less the model's value; none
without one that reads (assumption 178). -/
def nodeDiff (s : State) (t : Nat) (n : NodeValue) : Option Int :=
  let l := (n.sensors.filter fun e => !(getTower s t).masked.contains e.1).filterMap fun e => e.2.map (trimmed s t e.1)
  if l.isEmpty then none else some (Int.fdiv (l.foldl (· + ·) 0) l.length - n.model)

/-- One node's offset moved toward a difference, with MODEL_DRIFT once it has stayed at its limit for 1 s. -/
def adjustNode (t : Nat) (s : State) (e : Nat × Int) : State :=
  let old := nodeOffset s t e.1
  let step := max (-16) (min 16 (e.2 - old))
  let new := max (-384) (min 384 (old + step))
  let x := getTower s t
  if new = 384 ∨ new = -384 then
    let from_ := (tfind x.driftSince e.1).getD s.time.now
    let due := decide (from_ + 1000000000 ≤ s.time.now)
    let s1 := putTower s t { x with
      offsets := tput x.offsets e.1 new, driftSince := tput x.driftSince e.1 (if due then 2 ^ 80 else from_) }
    if due then emit s1 1 9 { die := t, unit := e.1 } [] else s1
  else putTower s t { x with offsets := tput x.offsets e.1 new, driftSince := tdel x.driftSince e.1 }

/-- OFFSET_ADJUST: every sensed node of a tower. -/
def offsetAdjust (tower : Nat) (s : State) : State :=
  if 2 ≤ tower then s
  else ((getTower s tower).nodes.filterMap fun e => (nodeDiff s tower e.2).map fun x => (e.1, x)).foldl (adjustNode tower) s
def execOffsetAdjust (tower : Nat) (s : State) : Host.Outcome State Fault Refusal := .next (offsetAdjust tower s)

/-- Times kept for the numbers of a list, and dropped for others. -/
def keepSince (now : Nat) (old : Tbl Nat) (l : List Nat) : Tbl Nat :=
  l.foldl (fun t i => tput t i ((tfind old i).getD now)) []

/-- Whether the sensor hub accepts a mask: the sensor's present reading differs from the model by more than 8 °C. -/
def hubAccepts (s : State) (t i : Nat) : Bool :=
  (getTower s t).nodes.any fun e => e.2.sensors.any fun x => x.1 == i
    && decide (8 * 64 < (sensorAt s t e.2 x - modelAt s t e.2).natAbs)

/-- One tower's sensors checked: masked after 1 s of disagreement by more than 8 °C where the hub accepts it, unmasked after 60 s of
agreement within 4 °C. -/
def checkTower (s : State) (t : Nat) (disagree agree : List Nat) : State :=
  let x := getTower s t
  let now := s.time.now
  let dis := keepSince now x.disagree (disagree.filter fun i => !x.masked.contains i)
  let agr := keepSince now x.agree (agree.filter fun i => x.masked.contains i)
  let mask := (dis.filter fun e => decide (e.2 + 1000000000 ≤ now) && hubAccepts s t e.1).map Prod.fst
  let unmask := (agr.filter fun e => decide (e.2 + 60000000000 ≤ now)).map Prod.fst
  let s1 := putTower s t { x with
    disagree := dis.filter fun e => !mask.contains e.1, agree := agr.filter fun e => !unmask.contains e.1
    masked := (x.masked.filter fun i => !unmask.contains i) ++ mask }
  let s2 := mask.foldl (fun u i => emit u 1 0xA { die := t, unit := i } []) s1
  let s3 := unmask.foldl (fun u i => emit u 1 0xB { die := t, unit := i } []) s2
  if mask.isEmpty && unmask.isEmpty then s3 else stopThermalCal s3

/-- SENSOR_CHECK: the sensors that disagree by more than 8 °C with their neighbours' median and the model now, and those that agree within 4 °C, as 4,096 × tower + sensor.
While Mitten is stopped nothing changes. -/
def sensorCheck (disagree agree : List Nat) (s : State) : State :=
  let of (t : Nat) (l : List Nat) := (l.filter fun i => i / 4096 == t).map (· % 4096)
  if s.mgmt.mittenDown then s else checkTower (checkTower s 0 (of 0 disagree) (of 0 agree)) 1 (of 1 disagree) (of 1 agree)
def execSensorCheck (disagree agree : List Nat) (s : State) : Host.Outcome State Fault Refusal :=
  .next (sensorCheck disagree agree s)

/-! Current and coolant (R483, R505, R506, R610). -/

/-- One tower's current monitor sampled, at 1 mV per ampere. -/
def imonTower (s : State) (t mv : Nat) : State :=
  let x := getTower s t
  let now := s.time.now
  let on := s.pwr.enabled.contains (3 + t)
  let bad := on && decide (1200 < mv ∨ mv < 5)
  let badSince := if bad then some ((x.badSince).getD now) else none
  let long := match badSince with | some u => decide (u + 10000 ≤ now) | none => false
  let goodSince := if x.imonFault && !bad then some ((x.goodSince).getD now) else none
  let back := match goodSince with | some u => decide (u + 1000000 ≤ now) | none => false
  let fault := long || (x.imonFault && !back)
  let above := on && !bad && !fault && decide (1150 < mv)
  let overSince := if above then some ((x.overSince).getD now) else none
  let s1 := putTower s t { x with
    current := mv, badSince := badSince, goodSince := if back then none else goodSince, imonFault := fault, overSince := overSince }
  match overSince with
  | some u => if u + 5000 ≤ now then enterTrip s1 5 else s1
  | none => s1

/-- IMON_SAMPLE. -/
def imonSample (mvA mvB : Nat) (s : State) : State :=
  if s.pwr.pkg = .off ∨ s.mgmt.phase = .bootMgmt then s else imonTower (imonTower s 0 mvA) 1 mvB
def execImonSample (mvA mvB : Nat) (s : State) : Host.Outcome State Fault Refusal := .next (imonSample mvA mvB s)

/-- COOLANT_TIMEOUT: flow has not been restored within 2 ms of the declaration. -/
def coolantTimeout (s : State) : State :=
  if s.th.coolantLoss && decide (s.th.lossAt + 2000000 ≤ s.time.now) && s.pwr.pkg != .off && s.mgmt.phase != .bootMgmt then
    enterTrip s 4
  else s
def execCoolantTimeout (s : State) : Host.Outcome State Fault Refusal := .next (coolantTimeout s)

/-! Telemetry (R441, R591, R603). -/

/-- The flow in mL/min derived from ΔP (R502), rounded down (assumption 68). -/
def flowOf (s : State) (dp : Nat) : Nat := Nat.sqrt (4000000 * dp / dp0 s)

/-- TELEMETRY_REFRESH: the means of the last 1 ms, rounded down (assumption 68), with the towers' mean issued handshake rates. -/
def telemetryRefresh (rateA rateB : Nat) (s : State) : State :=
  if s.pwr.pkg = .off ∨ s.mgmt.phase = .bootMgmt ∨ s.mgmt.mittenDown then s
  else
    let te := s.th.telem
    let now := telemSample s
    let mean (i : Nat) : Int :=
      if te.samples = 0 then (now[i]?).getD 0 else Int.fdiv ((te.sums[i]?).getD 0) te.samples
    let dp := (mean 5).toNat
    { s with th := { s.th with telem := { te with
      seq := te.seq + 2, powerPkg := (mean 0).toNat, powerA := (mean 1).toNat, powerB := (mean 2).toNat, inlet := mean 3
      outlet := mean 4, dp := dp / 10, flow := flowOf s dp, hot := (List.range 8).map fun i => mean (6 + i), lowLogic := mean 14
      rateA := rateA, rateB := rateB
      ladder := [ladderLevel s.th.a, ladderSetter s.th.a, ladderLevel s.th.b, ladderSetter s.th.b]
      samples := 0, sums := [] } } }
def execTelemetryRefresh (rateA rateB : Nat) (s : State) : Host.Outcome State Fault Refusal := .next (telemetryRefresh rateA rateB s)

/-- ENERGY_REFRESH: partition, energy in µJ and mean power in mW over the last 10 µs. -/
def energyRefresh (energies : List (Nat × Nat × Nat)) (s : State) : State :=
  energies.foldl (fun t e => match getP t e.1 with
    | some x => putP t e.1 { x with energy := e.2.1, power := e.2.2, energySeq := x.energySeq + 2 }
    | none => t) s
def execEnergyRefresh (energies : List (Nat × Nat × Nat)) (s : State) : Host.Outcome State Fault Refusal :=
  .next (energyRefresh energies s)

/-! The time base (R373, R601). -/

/-- PTM_PERIOD in ns; 0 is taken as 1. -/
def ptmPeriod (s : State) : Nat := max 1 s.time.ptmPeriod * 1000000

/-- LOCKED: the last dialogue succeeded within three periods. -/
def ptmLocked (s : State) : Bool := s.time.locked && decide (s.time.now ≤ s.time.lastAdjTime + 3 * ptmPeriod s)

/-- PTM_DIALOGUE: a host clock that is ahead at the first dialogue is reached by one step; any other correction slews. -/
def ptmDialogue (ok : Bool) (hostTime : Nat) (s : State) : State :=
  if !s.time.ptmEn ∨ s.pwr.pkg = .off then s
  else if !ok then { s with time := { s.time with locked := ptmLocked s } }
  else
    let host : Nat := hostTime % 2 ^ 64
    let off : Int := (host : Int) - s.time.now
    let jump := s.time.first && decide (0 < off)
    let now := if jump then host else s.time.now
    { s with time := { s.time with
      now := now, slew := if jump then 0 else off, first := false, locked := true, lastAdj := off, lastAdjTime := now } }
def execPtmDialogue (ok : Bool) (hostTime : Nat) (s : State) : Host.Outcome State Fault Refusal := .next (ptmDialogue ok hostTime s)

end Sys2Proof.Machine
end

