-- ==== Sys2Proof/Machine/Spdm.lean ====
section
/-! DEFINITION. The SPDM responder, measurements, TDIs and the tray's sideband (R430-R433, R441, R448, R527, R528). Paths are
0 the DOE of PF0, 1-16 those of the VFs, 17 MCTP on PCIe VDM, 18 MCTP on I3C, and 19 the tray's vendor messages. Codes of
requests and replies are those of SPDM 1.3 and TDISP (assumption 69). -/

namespace Sys2Proof.Machine

/-! TDIs (R432, R433). -/

/-- TDI_LEAVE_RUN: the TDI goes to ERROR (assumption 70). -/
def tdiLeaveRun (vf : Nat) (s : State) : State :=
  if ((tfind s.vfs vf).map (·.tdi)) = some 3 then setTdi s vf 4 else s
def execTdiLeaveRun (vf : Nat) (s : State) : Host.Outcome State Fault Refusal := .next (tdiLeaveRun vf s)

/-! Replies. -/

/-- An answer appended to what the device has sent. -/
def answer (s : State) (path code : Nat) (bytes : List Byte) : State :=
  { s with gnt := { s.gnt with replies := s.gnt.replies ++ [{ path := path, code := code, bytes := bytes }] } }

/-- The connection of a path. -/
def getSpdm (s : State) (path : Nat) : Spdm := (tfind s.gnt.spdm path).getD {}
def putSpdm (s : State) (path : Nat) (x : Spdm) : State :=
  { s with gnt := { s.gnt with spdm := tput s.gnt.spdm path x } }

/-- Whether Gauntlet answers: BOOT_MGMT has ended, and neither RECOVERY nor an expired watchdog stops it (R524, R541). -/
def spdmUp (s : State) : Bool := s.mgmt.phase != .bootMgmt && !s.mgmt.recovery && !s.mgmt.gauntletWdt && s.pwr.pkg != .off

/-- A request served when its connection and session have reached a stage; else ERROR UnexpectedRequest. -/
def spdmAt (s : State) (path stage session : Nat) (k : Spdm → State) : State :=
  if !spdmUp s || decide (18 < path) then s
  else
    let x := getSpdm s path
    if x.stage < stage ∨ x.session < session then answer s path 0x7F [4] else k x

/-- A signature by the alias key, or none in debug state (R448). -/
def aliasSign (s : State) (m : List Byte) : List Byte :=
  if s.gnt.keysZeroised then [] else fit 96 (Config.ecdsaSign (aliasKey s) m)

/-- The chain of certificate slot 0: the vendor's, and the alias certificate signed by the identity key (R417). -/
def slotChain (s : State) : List Byte :=
  let key := fit 96 (Config.publicKey (aliasKey s))
  Config.certChain ++ key ++ fit 96 (Config.ecdsaSign identityKey key)

/-! Connections. -/

/-- GET_VERSION: a new connection, answered with version 1.3. -/
def getVersion (path : Nat) (s : State) : State :=
  spdmAt s path 0 0 fun _ => answer (putSpdm s path { stage := 1 }) path 0x04 [0x13]
def execGetVersion (path : Nat) (s : State) : Host.Outcome State Fault Refusal := .next (getVersion path s)

/-- GET_CAPABILITIES. -/
def getCapabilities (path : Nat) (_caps : List Byte) (s : State) : State :=
  spdmAt s path 1 0 fun x => answer (putSpdm s path { x with stage := max x.stage 2 }) path 0x61 []
def execGetCapabilities (path : Nat) (caps : List Byte) (s : State) : Host.Outcome State Fault Refusal :=
  .next (getCapabilities path caps s)

/-- NEGOTIATE_ALGORITHMS: the four algorithms that the device offers, or ERROR InvalidRequest. -/
def negotiateAlgorithms (path : Nat) (ecdsa384 sha384 secp384 aes256 : Bool) (s : State) : State :=
  spdmAt s path 2 0 fun x =>
    if ecdsa384 && sha384 && secp384 && aes256 then answer (putSpdm s path { x with stage := 3 }) path 0x63 []
    else answer s path 0x7F [1]
def execNegotiateAlgorithms (path : Nat) (ecdsa384 sha384 secp384 aes256 : Bool) (s : State) :
    Host.Outcome State Fault Refusal := .next (negotiateAlgorithms path ecdsa384 sha384 secp384 aes256 s)

/-- GET_DIGESTS: the digest of slot 0's chain. -/
def getDigests (path : Nat) (s : State) : State :=
  spdmAt s path 3 0 fun _ => answer s path 0x01 (fit 48 (Config.sha384 (slotChain s)))
def execGetDigests (path : Nat) (s : State) : Host.Outcome State Fault Refusal := .next (getDigests path s)

/-- GET_CERTIFICATE: bytes of slot 0's chain. -/
def getCertificate (path slot offset len : Nat) (s : State) : State :=
  spdmAt s path 3 0 fun _ =>
    if slot ≠ 0 ∨ (slotChain s).length ≤ offset then answer s path 0x7F [1]
    else answer s path 0x02 (((slotChain s).drop offset).take len)
def execGetCertificate (path slot offset len : Nat) (s : State) : Host.Outcome State Fault Refusal :=
  .next (getCertificate path slot offset len s)

/-- CHALLENGE: the chain's digest and a nonce, signed over them and the requester's nonce; unsigned in debug state. -/
def challenge (path slot : Nat) (nonce : List Byte) (s : State) : State :=
  spdmAt s path 3 0 fun _ =>
    if slot ≠ 0 then answer s path 0x7F [1]
    else
      let own := toLe 32 (Config.entropy s.gnt.drawn)
      let body := fit 48 (Config.sha384 (slotChain s)) ++ own
      let s1 := { s with gnt := { s.gnt with drawn := s.gnt.drawn + 1 } }
      answer s1 path 0x03 (body ++ aliasSign s (nonce ++ body))
def execChallenge (path slot : Nat) (nonce : List Byte) (s : State) : Host.Outcome State Fault Refusal :=
  .next (challenge path slot nonce s)

/-! Measurements (R431). -/

/-- Measurement 3: the active Mitten image and its version. -/
def mittenDigest (s : State) : List Byte :=
  match activeImage s 2 with
  | some i => Config.sha384 (toLe 48 i.digest ++ toLe 4 i.version)
  | none => Config.sha384 []
/-- Measurement 4: the list of every other active image type and its digest. -/
def otherDigest (s : State) : List Byte :=
  Config.sha384 ([3, 4].flatMap fun ty => match activeImage s ty with
    | some i => toLe 1 ty ++ toLe 48 i.digest
    | none => [])
/-- Measurement 6: the lifecycle bits and the debug count. -/
def lifecycle (s : State) : List Byte :=
  let p := s.gnt.policy
  padTo 16 (toLe 4 (b2n (claimed s) + 2 * b2n s.gnt.debugPending + 4 * b2n s.gnt.debug + 8 * b2n (bit p.flags 3)
    + 16 * b2n (bit p.flags 4) + 32 * b2n (!s.cuff.guestReset)) ++ toLe 4 p.debugCount)
/-- The Cuff's configuration as bytes, with the state of the guest's link. -/
def cuffBytes (s : State) : List Byte :=
  let c := s.cuff
  toLe 1 (c.part.getD 0xFF) ++ toLe 3 0 ++ toLe 4 c.cap
    ++ ((List.range 16).flatMap fun i => match tfind c.wins i with | some w => cuffWinBytes w | none => List.replicate 32 0)
    ++ ((List.range 64).flatMap fun i => match tfind c.slots i with | some x => cuffSlotBytes x | none => List.replicate 4 0)
    ++ toLe 1 (b2n c.linkUp)
/-- The library entries mapped into a partition. -/
def libraryOf (s : State) (p : Nat) : List Byte :=
  (s.gnt.policy.library.filter fun e => bit e.2.readers p || e.2.writer == p).flatMap fun e => libBytes e.2
/-- Measurement 0x10 + p. -/
def partMeasure (s : State) (p : Nat) : List Byte :=
  match getP s p with
  | none => padTo 192 (toLe 1 p)
  | some x =>
    let r := getRule s p
    let k := getKeys s p
    padTo 192 (toLe 1 p ++ toLe 1 (pstateCode x)
      ++ toLe 1 (b2n x.sealed + 2 * b2n x.hotSubst + 4 * b2n (bit r.flags 5) + 8 * b2n (bit r.flags 6)) ++ toLe 1 x.vf
      ++ toLe 1 (((tfind s.vfs x.vf).map (·.tdi)).getD 0) ++ toLe 3 0
      ++ toLe 4 x.rows ++ toLe 1 x.waysA ++ toLe 1 x.waysB ++ toLe 2 0
      ++ toLe 2 x.firstSlot ++ toLe 2 x.slotCount ++ toLe 1 x.rangeLog2 ++ toLe 3 0
      ++ fit 48 (Config.sha384 (libraryOf s p))
      ++ (match k.sealing with | some n => fit 96 (Config.publicKey n) | none => List.replicate 96 0)
      ++ toLe 2 ((tkeys k.slots).foldl (fun n i => n + 2 ^ i) 0)
      ++ toLe 1 (s.gnt.policy.pairings.filter fun e => e.1 / 64 == p).length)

/-- A measurement's content; none where the table has no such index. -/
def measurement (s : State) (i : Nat) : Option (List Byte) :=
  match i with
  | 1 => some (fit 48 Config.romDigest)
  | 2 => some (fit 48 (stageDigest s))
  | 3 => some (fit 48 (mittenDigest s))
  | 4 => some (fit 48 (otherDigest s))
  | 5 => some ((List.range 4).flatMap fun k => toLe 1 (getFw s (k + 1)).fuse)
  | 6 => some (lifecycle s)
  | 7 => some (fit 48 (Config.sha384 (fit 0x9A80 (policyBody s.gnt.policy))))
  | 8 => some (fit 48 (Config.sha384 (cuffBytes s)))
  | _ => if 0x10 ≤ i ∧ i < 0x20 then some (partMeasure s (i - 0x10)) else none

/-- The indices that a path returns. -/
def pathIndices (s : State) (path : Nat) : List Nat :=
  [1, 2, 3, 4, 5, 6, 7, 8] ++ (if 1 ≤ path ∧ path ≤ 16 then
    match tfind s.vfs path with
    | some v => [0x10 + v.part]
    | none => []
  else (List.range 16).map (0x10 + ·))

/-- GET_MEASUREMENTS: index 0 gives their number, 0xFF every one that the path returns; signed when asked, but not in
debug state (R448). -/
def getMeasurements (path index : Nat) (sign : Bool) (nonce : List Byte) (s : State) : State :=
  spdmAt s path 3 0 fun _ =>
    let is := pathIndices s path
    let block (i : Nat) : List Byte := match measurement s i with
      | some b => toLe 1 i ++ toLe 2 b.length ++ b
      | none => []
    let out (bs : List Byte) : State := answer s path 0x60 (bs ++ if sign then aliasSign s (nonce ++ bs) else [])
    if index = 0 then out (toLe 1 is.length)
    else if index = 0xFF then out (is.flatMap block)
    else if is.contains index then out (block index)
    else answer s path 0x7F [1]
def execGetMeasurements (path index : Nat) (sign : Bool) (nonce : List Byte) (s : State) : Host.Outcome State Fault Refusal :=
  .next (getMeasurements path index sign nonce s)

/-! Sessions. -/

/-- KEY_EXCHANGE: a secret from a drawn key pair and the requester's share; none in debug state (R448). -/
def keyExchange (path : Nat) (exchange : List Byte) (s : State) : State :=
  spdmAt s path 3 0 fun x =>
    if s.gnt.debug || s.gnt.keysZeroised then answer s path 0x7F [4]
    else
      let pair := Config.entropy s.gnt.drawn
      let share := fit 96 (Config.publicKey pair)
      let y : Spdm := { stage := x.stage, session := 1, secret := Config.ecdh pair exchange, transcript := exchange ++ share }
      let s1 := { s with gnt := { s.gnt with drawn := s.gnt.drawn + 1 } }
      answer (putSpdm s1 path y) path 0x64 (share ++ aliasSign s (exchange ++ share))
def execKeyExchange (path : Nat) (exchange : List Byte) (s : State) : Host.Outcome State Fault Refusal :=
  .next (keyExchange path exchange s)

/-- The code that FINISH carries: a key derived from the session's secret, over the exchange. -/
def finishMac (x : Spdm) : List Byte := toLe 48 (Config.hkdf x.secret x.transcript (ascii [70, 73, 78, 73, 83, 72]))

/-- FINISH: the session is established when its code is right; a signature by the owner's key over the exchange makes it the
owner's (R441). A wrong code ends the handshake with ERROR DecryptError (assumption 71). -/
def finish (path : Nat) (sig mac : List Byte) (s : State) : State :=
  spdmAt s path 3 1 fun x =>
    if x.session ≠ 1 then answer s path 0x7F [4]
    else if mac ≠ finishMac x then answer (putSpdm s path { stage := x.stage }) path 0x7F [6]
    else
      let owner := claimed s && Config.ecdsaVerify s.gnt.policy.ecdsaKey (Config.sha384 x.transcript) sig
      answer (putSpdm s path { x with session := 2, owner := owner }) path 0x65 []
def execFinish (path : Nat) (sig mac : List Byte) (s : State) : Host.Outcome State Fault Refusal := .next (finish path sig mac s)

/-- KEY_UPDATE: the next generation of the session's keys. -/
def keyUpdate (path : Nat) (s : State) : State :=
  spdmAt s path 3 2 fun x => answer (putSpdm s path { x with keyGen := x.keyGen + 1 }) path 0x69 []
def execKeyUpdate (path : Nat) (s : State) : Host.Outcome State Fault Refusal := .next (keyUpdate path s)

/-- HEARTBEAT. -/
def heartbeat (path : Nat) (s : State) : State := spdmAt s path 3 2 fun _ => answer s path 0x68 []
def execHeartbeat (path : Nat) (s : State) : Host.Outcome State Fault Refusal := .next (heartbeat path s)

/-- END_SESSION: its keys are gone, and those of the IDE streams it programmed (R417). -/
def endSession (path : Nat) (s : State) : State :=
  spdmAt s path 3 2 fun x => answer (dropStreams (putSpdm s path { stage := x.stage }) path) path 0x6C []
def execEndSession (path : Nat) (s : State) : Host.Outcome State Fault Refusal := .next (endSession path s)

/-! IDE_KM, TDISP and PART_POWER. -/

/-- The VF that a vendor request concerns: that of its path, or bits 15-8 of its argument. -/
def vdrVf (path arg : Nat) : Nat := if 1 ≤ path ∧ path ≤ 16 then path else arg / 256 % 256

/-- IDE_KM for the stream that bits 23-16 of the argument name, 0 the selective stream of a function and 1 the endpoint's link
stream (R38): 2 KEY_PROG with the key above bit 23, 4 K_SET_GO, which needs a programmed key, 5 K_SET_STOP. The argument's layout is the model's
(assumption 188). -/
def ideKm (s : State) (path arg : Nat) : State :=
  let fn := vdrVf path arg
  let kind := arg / 65536 % 256
  let k := if kind = 1 then 1 else 2 * fn
  let wrong : Bool := decide (1 < kind ∨ 16 < fn ∨ (kind = 1 ∧ 1 ≤ path ∧ path ≤ 16))
  if wrong then answer s path 0x7F [1]
  else match arg % 256, tfind s.gnt.streams k with
    | 2, x => answer (setStream s k (some { key := arg / 2 ^ 24 % 2 ^ 256, path := path, on := (x.map (·.on)).getD false })) path 0x7E [3]
    | 4, some x => answer (setStream s k (some { x with on := true })) path 0x7E [6]
    | 5, some x => answer (setStream s k (some { x with on := false })) path 0x7E [6]
    | _, _ => answer s path 0x7F [1]

/-- TDISP: 0x83 LOCK, 0x85 GET_DEVICE_INTERFACE_STATE, 0x86 START, 0x87 STOP; a wrong state answers TDISP ERROR. -/
def tdisp (s : State) (path arg : Nat) : State :=
  let vf := vdrVf path arg
  match tfind s.vfs vf with
  | none => answer s path 0x7F [1]
  | some v => match arg % 256 with
    | 0x83 => if v.tdi = 1 then answer (setTdi s vf 2) path 0x7E [3] else answer s path 0x7E [0x7F]
    | 0x85 => answer s path 0x7E [5, BitVec.ofNat 8 v.tdi]
    | 0x86 => if v.tdi = 2 ∧ streamOn s vf = true then answer (setTdi s vf 3) path 0x7E [6] else answer s path 0x7E [0x7F]
    | 0x87 => answer (setTdi s vf 1) path 0x7E [7]
    | _ => answer s path 0x7E [0x7F]

/-- VENDOR_DEFINED_REQUEST inside a session: protocol 0 IDE_KM, 1 TDISP, 2 PART_POWER with its partition, for the owner
alone. -/
def vendorDefinedRequest (path proto arg : Nat) (s : State) : State :=
  spdmAt s path 3 2 fun x =>
    if proto = 0 then ideKm s path arg
    else if proto = 1 then tdisp s path arg
    else if proto = 2 ∧ x.owner then
      match getP s arg with
      | some p => answer s path 0x7E (toLe 8 p.energy ++ toLe 4 p.power)
      | none => answer s path 0x7F [1]
    else answer s path 0x7F [1]
def execVendorDefinedRequest (path proto arg : Nat) (s : State) : Host.Outcome State Fault Refusal :=
  .next (vendorDefinedRequest path proto arg s)

/-! The tray's vendor messages (R527, R528). -/

/-- A vendor message's answer: completion code 0 with the reply's bytes, or 3 BUSY while Mitten is stopped. -/
def sideband (s : State) (bytes : List Byte) : State :=
  if s.pwr.pkg = .off then s
  else if s.mgmt.mittenDown || s.mgmt.recovery || (s.mgmt.phase == .bootMgmt && !s.mgmt.waitNet) then answer s 19 3 [] else answer s 19 0 bytes

/-- GET_IDENTITY: part, revision, serial number, device identity hash, in the widths of IDENTIFY (R79). -/
def getIdentity (s : State) : State :=
  sideband s (toLe 2 0x0960 ++ toLe 1 0xB1 ++ toLe 8 s.mgmt.serial ++ toLe 16 s.mgmt.idHash)
def execGetIdentity (s : State) : Host.Outcome State Fault Refusal := .next (getIdentity s)

/-- GET_STATE: phase, package state, TRIP cause and the flags RECOVERY, MITTEN_DOWN and REPLACE_ADVISED. -/
def getState (s : State) : State :=
  sideband s (toLe 1 (phaseCode s) ++ toLe 1 (pkgCode s) ++ toLe 1 (tripCause s)
    ++ toLe 1 (b2n s.mgmt.recovery + 2 * b2n s.mgmt.mittenDown + 4 * b2n (replaceAdvised s)))
def execGetState (s : State) : Host.Outcome State Fault Refusal := .next (getState s)

/-- The telemetry that leaves by the sideband: power of the package and the towers, the hottest logic, tier F and stack of each tower,
inlet, outlet, ΔP and flow, in the widths of GLOBAL (R590). -/
def telemetryBytes (s : State) : List Byte :=
  let t := s.th.telem
  let hot (i : Nat) : List Byte := toLe 2 (unsigned 16 ((t.hot[i]?).getD 0))
  (toLe 2 t.powerPkg ++ toLe 2 t.powerA ++ toLe 2 t.powerB ++ [0, 1, 2, 4, 5, 6].flatMap hot
    ++ toLe 2 (unsigned 16 t.inlet) ++ toLe 2 (unsigned 16 t.outlet) ++ toLe 2 t.dp ++ toLe 2 t.flow)

/-- GET_TELEMETRY. -/
def getTelemetry (s : State) : State := sideband s (telemetryBytes s)
def execGetTelemetry (s : State) : Host.Outcome State Fault Refusal := .next (getTelemetry s)

/-- GET_LOG: up to 8 records of the ring from a sequence number onward. -/
def getLog (fromSeq : Nat) (s : State) : State :=
  sideband s (((s.log.ring.filter fun r => decide (fromSeq ≤ r.seq)).take 8).flatMap fun r => r.bytes)
def execGetLog (fromSeq : Nat) (s : State) : Host.Outcome State Fault Refusal := .next (getLog fromSeq s)

/-- GET_LIFETIME: the lifetime record. -/
def getLifetime (s : State) : State := sideband s (lifeBytes (lifeNow s))
def execGetLifetime (s : State) : Host.Outcome State Fault Refusal := .next (getLifetime s)

end Sys2Proof.Machine
end

