-- ==== Sys2Proof/Machine/Spares.lean ====
section
/-! DEFINITION. Slice copies, stale speakers, tests of fenced sites, and the watchdogs of Mitten and Gauntlet (R472-R477, R479,
R523, R524). -/

namespace Sys2Proof.Machine

/-! Substitution (R473, R475, R479). -/

/-- A core's charges and retired groups dropped: its new site starts afresh. -/
def freshCore (s : State) (core : Nat) : State :=
  let s1 := { s with flt := { s.flt with
    charges := tfilter s.flt.charges fun k _ => !(k == chCore core || (List.range 4).any fun g => k == chGroup core g) } }
  putCore s1 core { getCore s1 core with groups := [] }

/-- The next free site taken for a core whose spare failed, or a hole (R472, R479). -/
def nextSite (s : State) (u : Subst) : State :=
  let drop := s.flt.subst.filter fun v => v.core != u.core
  match freeSite s u.core with
  | some c => { s with flt := { s.flt with subst := drop ++ [{ u with column := c }] } }
  | none => makeHole s u.core

/-- SLICE_COPY_DONE: `unreadable` holds the offsets in the slice of codewords that could not be read, which become poison. The
copy waits in TRIP. A spare that fails its quick self-test or is no longer sound gives way to the next free site; a SEASON write that
fails its read-back twice leaves a hole (R475). -/
def sliceCopyDone (core : Nat) (unreadable : List Nat) (spareOk seasonOk : Bool) (s : State) : State :=
  match s.flt.subst.find? fun u => u.core == core, (getBind s core).column with
  | some u, some old =>
    let x := getSite s (siteKey core u.column)
    let drop := s.flt.subst.filter fun v => v.core != core
    if s.pwr.pkg = .trip then s
    else if !spareOk then nextSite (fenceSite s (siteKey core u.column)) u
    else if x.fenced || x.bad then nextSite s u
    else if !seasonOk then emit (makeHole s core) 7 6 {} [(1, 11)]
    else if 0xFFFF < nextSeason s core then makeHole s core
    else
      let s1 := unreadable.foldl (fun t o => pwritePoison t (codeword (core * 2 ^ 27 + o % 2 ^ 27))) s
      let s2 := bindCore { s1 with flt := { s1.flt with subst := drop } } core u.column 2
      let row := core % 256 / 16 * 17
      serveFreed (emit (freshCore s2 core) 5 2 (coreWho s2 core (coreOwner s2 core)) [(2, row + old), (2, row + u.column)])
  | _, _ => s
def execSliceCopyDone (core : Nat) (unreadable : List Nat) (spareOk seasonOk : Bool) (s : State) :
    Host.Outcome State Fault Refusal := .next (sliceCopyDone core unreadable spareOk seasonOk s)

/-! Stale speakers (R476). -/

/-- The core bound to a site, and not to one it is leaving. -/
def siteCore (s : State) (site : Nat) : Option Nat :=
  (List.range 512).find? fun c => match (getBind s c).column with
    | some col => siteKey c col == site && !s.flt.subst.any fun u => u.core == c
    | none => false

/-- STALE_SPEAKER: the packet is dropped and counted, and recorded at most once per second per site. -/
def staleSpeaker (site season : Nat) (s : State) : State :=
  if ((siteCore s site).map fun c => (getBind s c).season) = some season then s
  else
    let s1 := { s with flt := { s.flt with linkStale := s.flt.linkStale + 1 } }
    let x := getSite s site
    let due := match x.lastStale with
      | none => true
      | some t => decide (t + 1000000000 ≤ s.time.now)
    if due then
      emit (putSite s1 site { x with lastStale := some s.time.now }) 4 0x12
        { die := 2 + site / 272, unit := site % 272, season := season } []
    else s1
def execStaleSpeaker (site season : Nat) (s : State) : Host.Outcome State Fault Refusal := .next (staleSpeaker site season s)

/-! Tests of fenced sites (R477). -/

/-- SPARE_TEST: a fenced and unbound site of a running die, tested by Mitten at most once every 10 minutes. -/
def spareTest (site : Nat) (pass : Bool) (s : State) : State :=
  let x := getSite s site
  let die := 2 + site / 272
  if !x.fenced ∨ x.bad ∨ (siteCore s site).isSome ∨ s.mgmt.mittenDown ∨ s.fab.dieReset.contains die ∨ s.fab.dieLost.contains die
    ∨ (x.lastTest ≠ 0 ∧ s.time.now < x.lastTest + 600000000000) then s
  else if !pass then putSite s site { x with bad := true, passes := 0, lastTest := s.time.now }
  else if x.passes + 1 < 3 then putSite s site { x with passes := x.passes + 1, lastTest := s.time.now }
  else emit (putSite s site { x with fenced := false, passes := 0, lastTest := s.time.now }) 5 4
    { die := die, unit := site % 272 } []
def execSpareTest (site : Nat) (pass : Bool) (s : State) : Host.Outcome State Fault Refusal := .next (spareTest site pass s)

/-! Watchdogs (R523, R524). -/

/-- MITTEN_WATCHDOG: a restart, or, after the third within 10 minutes, the image of the other slot, or no Mitten. -/
def mittenWatchdog (s : State) : State :=
  if s.pwr.pkg = .off ∨ s.mgmt.phase = .bootMgmt ∨ s.mgmt.mittenDown ∨ s.mgmt.recovery ∨ s.mgmt.gauntletWdt then s
  else
    let recent := s.mgmt.mittenRestarts.filter fun t => decide (s.time.now < t + 600000000000)
    if recent.length < 3 then
      emit { s with mgmt := { s.mgmt with mittenRestarts := recent ++ [s.time.now] } } 7 0xA {} []
    else
      let x := getFw s 2
      let s1 := { s with mgmt := { s.mgmt with mittenRestarts := [] } }
      if ((tfind x.slots (inactiveSlot x)).map fun i => decide (x.fuse ≤ i.level)) = some true then
        putFw s1 2 { x with active := inactiveSlot x, armed := false, liveFrom := none }
      else { s1 with mgmt := { s1.mgmt with mittenDown := true } }
def execMittenWatchdog (s : State) : Host.Outcome State Fault Refusal := .next (mittenWatchdog s)

/-- GAUNTLET_WATCHDOG: only a package reset clears what it sets. -/
def gauntletWatchdog (s : State) : State :=
  if s.pwr.pkg = .off ∨ s.mgmt.gauntletWdt then s
  else emit { s with mgmt := { s.mgmt with gauntletWdt := true } } 7 0xB {} []
def execGauntletWatchdog (s : State) : Host.Outcome State Fault Refusal := .next (gauntletWatchdog s)

end Sys2Proof.Machine
end

