-- ==== Sys2Proof/Machine/Fence.lean ====
section
/-! DEFINITION. The masters of the management island: the fences that only Gauntlet writes, and the Mitten fence (R412-R416, R557).
MEMORY_ACCESS carries a request of any master. -/

namespace Sys2Proof.Machine

/-- What only Gauntlet's bus master writes (R413). Its own writes are the effects of its commands. -/
def gauntletOnly : Target → Bool
  | .policy | .fences | .grainTable | .cuff | .keyStore | .debugState | .mittenFence => true
  | _ => false

/-- The fence rows of the partitions: rows, cache ways, sequence slots, in the widths of PART (R598). -/
def fenceBytes (s : State) : List Byte :=
  (List.range 16).flatMap fun p => match getP s p with
    | none => List.replicate 16 0
    | some x => padTo 16 (toLe 4 x.rows ++ toLe 1 x.waysA ++ toLe 1 x.waysB ++ toLe 2 x.firstSlot ++ toLe 2 x.slotCount)

/-- What a read by Mitten gives through its fence, and the state with free values taken (R415, R557): none where it has no read
access. The registers of the training engines, of the PHYs and of the scrubber have no stated layout, and read free values. -/
def mittenRead (s : State) (t : Target) (off n : Nat) : Option (List Byte × State) :=
  let at_ (b : List Byte) : Option (List Byte × State) := some (fit n (b.drop off), s)
  match t with
  | .telemetry => at_ (telemetryBytes s)
  | .log => at_ (s.log.ring.flatMap fun r => r.bytes)
  | .training | .phy | .scrubber => some (takeBytes s n)
  | .record i => if i = 5 ∨ 12 ≤ i then none else
    let r := recBytes s i false (off + n)
    some (fit n (r.1.drop off), r.2)
  | .policy => at_ (policyBytes s.gnt.policy)
  | .fences => at_ (fenceBytes s)
  | .grainTable => at_ ((List.range 128).flatMap fun g => toLe 1 ((tfind s.mem.grainOwner g).getD 0xFF))
  | .cuff => at_ (cuffBytes s)
  | .bank i => at_ (((s.snap.banks[i]?).getD {}).areaC)
  | .adminRing => (hread s (s.regs.aqSqBase + off) n).map fun b => (b, s)
  | .keyStore | .debugState | .mittenFence | .sram => none

/-- What a write by Mitten does through its fence (R415): a record appended to the log, whose bytes give its class and event in the
places of R542, and its payload after them; a settings record edited as the store's path does. The engines that have no stated
registers take the write. -/
def mittenWrite (s : State) (t : Target) (off : Nat) (b : List Byte) : State :=
  match t with
  | .log => emit s (fld b 0xB 1) (fld b 8 2) { die := fld b 0xC 1, unit := fld b 0xE 2, season := fld b 0x10 2, part := fld b 0x12 1 }
      ((List.range 32).map fun i => (1, fld b (0x20 + i) 1))
  | .record i => if isSetting i && decide (off + b.length ≤ recSize i) && editOk s i off b then editShadow s i off b else s
  | _ => s

/-- Whether Mitten runs: BOOT_MGMT has started it behind its fence. -/
def mittenRuns (s : State) : Bool :=
  s.gnt.mittenFence && !s.mgmt.mittenDown && !s.mgmt.recovery && !(s.mgmt.phase == .bootMgmt && !s.mgmt.waitNet) && s.pwr.pkg != .off

/-- The code of a target in Mitten's answers. -/
def targetCode : Target → Nat
  | .telemetry => 0 | .log => 1 | .training => 2 | .phy => 3 | .scrubber => 4 | .record i => 0x100 + i | .policy => 5 | .fences => 6
  | .grainTable => 7 | .cuff => 8 | .keyStore => 9 | .debugState => 10 | .mittenFence => 11 | .bank n => 0x200 + n
  | .adminRing => 12 | .sram => 13

/-- An access of a master to the management island (R413, R415). A write to what only Gauntlet writes is dropped and recorded; what
Mitten reads goes to it; no other master has a path. -/
def islandAccess (s : State) (r : MemReq) (t : Target) : State :=
  if s.pwr.pkg = .off ∨ (r.master = 547 ∧ !mittenRuns s) then s
  else if r.write.isSome && gauntletOnly t then emit s 6 1 {} []
  else if r.master ≠ 547 then s
  else match r.write with
    | some b => mittenWrite s t r.va b
    | none => match mittenRead s t r.va r.len with
      | some x => answer x.2 20 (targetCode t) x.1
      | none => s

/-- MEMORY_ACCESS: the request of a master. The fence gives Mitten no reach to tier F, tier S, the shared cache or any table. -/
def memoryAccess (r : MemReq) (s : State) : State :=
  match r.target with
  | some t => islandAccess s r t
  | none => if r.master = 547 then s else memAccess r s
def execMemoryAccess (r : MemReq) (s : State) : Host.Outcome State Fault Refusal := .next (memoryAccess r s)

end Sys2Proof.Machine
end

