-- ==== Sys2Proof/Machine/Boot.lean ====
section
/-! DEFINITION. Power groups, package resets and bring-up (R78, R509, R513-R522, R531, R534, R539, R541, R608, R611-R616, R624). -/

namespace Sys2Proof.Machine

/-! Loading the store (R425, R454, R531). -/

/-- A record's copies after those that the check found bad are marked. -/
def markCopies (r : Rec) (i : Nat) (bad : List (Nat × Nat)) : Rec :=
  { r with a := { r.a with valid := r.a.valid && !bad.contains (i, 0) }
           b := { r.b with valid := r.b.valid && !bad.contains (i, 1) } }

/-- Which content a record has after its load: 0 that of the copy in force before, 1 that of the other copy, 2 none. -/
def loadKind (before after : Rec) : Nat :=
  match inForce after with
  | none => 2
  | some c => if ((inForce before).map (·.gen)) = some c.gen then 0 else 1

/-- A record's default body. -/
def defaultBody (i : Nat) : Tbl Byte := ((tfind factoryRecords i).map (·.shadow)).getD []

/-- The content of a record that the model holds as data, chosen by kind. -/
def pick {α : Type} (k : Nat) (now older default : α) : α := if k = 0 then now else if k = 1 then older else default

/-- The content that the model holds as data of a record loaded by a kind. -/
def loadData (s : State) (i k : Nat) : State :=
  let m := s.mgmt
  let o := m.older
  if i = 2 then { s with mgmt := { m with repairStored := pick k m.repairStored o.repair {} } }
  else if i = 3 then { s with mgmt := { m with expected := pick k m.expected o.expected none, topoShadow := none } }
  else if i = 5 then { s with gnt := { s.gnt with policy := pick k s.gnt.policy o.policy {} } }
  else if i = 6 ∧ k ≠ 0 then
    { s with mgmt := { m with life := pick k m.life o.life { coldStarts := 0 }, lifeStored := pick k m.lifeStored o.life { coldStarts := 0 } } }
  else if i = 10 then { s with gnt := { s.gnt with fills := pick k s.gnt.fills o.fills [] } }
  else if i = 11 then { s with mgmt := { m with seasonStore := pick k m.seasonStore o.seasons [] } }
  else s

/-- One record loaded into its shadow; both copies invalid give its defaults and STORE_FAIL, or POLICY_LOST for OWNER. The
critical log has no copies. -/
def loadRecord (bad : List (Nat × Nat)) (s : State) (i : Nat) : State :=
  if i = 7 then s
  else
    let r0 := getRec s i
    let r := markCopies r0 i bad
    let k := loadKind r0 r
    let body := match inForce r with
      | some c => c.body
      | none => defaultBody i
    let s2 := loadData (putRec s i { r with shadow := body, edited := false }) i k
    if k ≠ 2 ∨ (r0.a.valid = false ∧ r0.b.valid = false ∧ i = 5) then s2
    else if i = 5 then emit s2 6 3 {} []
    else emit s2 7 6 {} [(1, i)]

/-- Whether the stored repair map names a channel's resource. -/
def mapNames (m : RepairMap) (ch : Nat) : Bool :=
  let i := ch % 2 ^ 20
  match ch / 2 ^ 20 with
  | 0 => ((tfind m.groups (i / 4)).getD []).contains (i % 4)
  | 2 => m.banks.contains (i / 32, i % 32)
  | 3 => m.banks.contains (0x8000 + i / 64, i % 64)
  | 4 => ((tfind m.lanes (i / 68)).getD []).contains (i % 68)
  | 5 => ((tfind m.waves (i / 16)).getD []).contains (i % 16)
  | 6 => m.ports.contains i
  | 7 => m.units.contains i
  | _ => false

/-- The stored repair map in force: what had not reached it is tested again, and taken as sound until a fault says otherwise
(R365, R454, R624). Rows that PPR repaired stay repaired in the stack. -/
def applyMap (s : State) : State :=
  let m := s.mgmt.repairStored
  let out (k : Nat) : Bool := m.units.any fun u => u / 2048 == k / 4 && u % 2 == 0 && m.units.contains (u + 1)
  let waves := m.waves.foldl (fun t e => tput t e.1 { (tfind t e.1).getD {} with retiredWaves := e.2 }) s.plauf.ports
  let ports := m.ports.foldl (fun t p => tput t p { (tfind t p).getD {} with st := PortSt.retired }) waves
  let fl := s.flt.remaps.filter fun e => e.2.ppr && (tfind m.remaps e.1).isNone
  { s with
    flt := { s.flt with
      retiredPages := m.pages, retiredBanks := m.banks, remaps := fl.foldl (fun t e => tput t e.1 e.2) m.remaps
      badSpares := m.badSpares, sites := m.badSites.map fun k => (k, { bad := true })
      cores := m.groups.map fun e => (e.1, { groups := e.2 }), nearUnits := m.units
      nearOut := [3, 7].filter out
      charges := tmap s.flt.charges fun ch c => { c with permanent := c.permanent && mapNames m ch } }
    fab := { s.fab with bundles := m.lanes.map fun e => (e.1, e.2.foldl failLane {}) }
    plauf := { s.plauf with ports := ports } }

/-! Images (R515, R539, R541). -/

/-- One type's active image chosen: an armed image that passes becomes active; one that fails gives way to the other slot,
with FW_FALLBACK. The flag says that an image passed. -/
def verifyType (bad : List (Nat × Nat)) (s : State) (ty : Nat) : State × Bool :=
  let x := getFw s ty
  let ok (k : Nat) : Bool := match tfind x.slots k with
    | some i => !bad.contains (ty, k) && decide (x.fuse ≤ i.level)
    | none => false
  let other := inactiveSlot x
  let base : FwType := { x with armed := false, fresh := false, liveFrom := none }
  if x.armed && ok other then (emit (putFw s ty { base with active := other, fresh := true }) 7 8 {} [], true)
  else if ok x.active then
    (let s1 := putFw s ty base
     if x.armed then emit s1 7 9 {} [] else s1, true)
  else if ok other then (emit (putFw s ty { base with active := other }) 7 9 {} [], true)
  else (putFw s ty base, false)

/-! Package resets (R521, R522, R614-R616). -/

/-- Whether an input holds the package in reset. -/
def pkgHeld (s : State) : Bool := s.pwr.heldInputs.any fun i => i == 0 || i == 1 || i == 10 || i == 11

/-- What every package reset leaves of a state: the store and the fuses, the world outside, and the counts of free and drawn
values. Every port is DOWN until its group has power. -/
def afterReset (s : State) : State :=
  let r := State.reset
  let keep (x : Port) : Port := { holds := 6 :: x.holds.filter fun h => h == 0 || h == 1 || h == 4 || h == 5 || h == 7 }
  { r with
    pending := s.pending, free := s.free, guestSite := s.guestSite, host := s.host, hostFail := s.hostFail
    regs := { linkWidth := s.regs.linkWidth }
    fab := { refLost := s.fab.refLost, refBack := s.fab.refBack }
    cuff := { replies := s.cuff.replies }
    plauf := { ports := tmap s.plauf.ports fun _ x => keep x, lowLines := s.plauf.lowLines, laserOut := s.plauf.laserOut
               sent := s.plauf.sent, wire := s.plauf.wire, ctrl := s.plauf.ctrl }
    gnt := { policy := s.gnt.policy, fills := s.gnt.fills, replies := s.gnt.replies, drawn := s.gnt.drawn }
    flt := { pprUsed := s.flt.pprUsed, remaps := tfilter s.flt.remaps fun _ x => x.ppr }
    th := { a := { r := s.th.a.r }, b := { r := s.th.b.r }, p := s.th.p }
    mgmt := { r.mgmt with
      records := s.mgmt.records
      fw := s.mgmt.fw, life := s.mgmt.lifeStored, expected := s.mgmt.expected, serial := s.mgmt.serial
      idHash := s.mgmt.idHash, firstStart := s.mgmt.firstStart, repairStored := s.mgmt.repairStored
      lifeStored := s.mgmt.lifeStored, seasonStore := s.mgmt.seasonStore, older := s.mgmt.older }
    log := { critlog := s.log.critlog } }

/-- BOOT_MGMT begun, with the cause of the reset (R513, R521). Gauntlet's ROM sets the Mitten fence, which stands until the next
package reset (R415). -/
def startMgmt (s : State) : State :=
  emit (startPhase { s with gnt := { s.gnt with mittenFence := true } } .bootMgmt) 7 1 {} [(1, s.mgmt.resetCause)]

/-- A snapshot bank after a warm reset (R522, R558). -/
def warmBank (b : Bank) : Bank :=
  if b.st = 0 then b
  else { b with
    tCleared := true, sections := b.sections.map fun e => { e with lenT := 0, lenD := 0 }, areaT := [], areaD := []
    size := b.size - b.areaT.length - b.areaD.length }

/-- A package warm reset: the management island, the time base and what R522 keeps stay; both halves of every stream epoch are
raised (R405). Bring-up starts at once, or when the last input that holds the package is released. -/
def packageReset (s0 : State) (cause : Nat) : State :=
  let s := appendHeld s0
  let t := afterReset s
  let half (x : Tbl Nat) : Tbl Nat := (List.range 16).map fun p => (p, ((tfind x p).getD 0 + 1) % 256)
  let s1 : State := { t with
    time := { s.time with ptmEn := false, ptmPeriod := 10, first := true }
    plauf := { t.plauf with targetEpoch := half s.plauf.targetEpoch, senderEpoch := half s.plauf.senderEpoch }
    flt := { t.flt with charges := s.flt.charges }
    pwr := { enabled := s.pwr.enabled, good := s.pwr.good, heldInputs := s.pwr.heldInputs.filter (· < 13)
             tripWas := if s.pwr.tripCauses.isEmpty then s.pwr.tripWas else s.pwr.tripCauses }
    th := { s.th with telem := {} }
    mgmt := { t.mgmt with
      phaseStart := s.time.now, resetTime := s.time.now, resetCause := cause, cold := false
      life := { s.mgmt.life with warmResets := s.mgmt.life.warmResets + 1 }, lifeAt := s.mgmt.lifeAt }
    log := { ring := s.log.ring, seq := s.log.seq, critlog := s.log.critlog, written := s.log.written, skipped := s.log.skipped }
    snap := { banks := s.snap.banks.map warmBank, dropped := s.snap.dropped } }
  let s2 := writeLife s1
  if pkgHeld s2 then s2 else startMgmt s2

/-- An input that puts the package in reset; while one already holds it there, the reset and its cause are those of the earlier
input (R616). -/
def holdPackage (s : State) (input cause : Nat) : State :=
  if s.pwr.pkg = .off then s
  else
    let t := holdInput s input
    if pkgHeld s then t else packageReset t cause

/-- PKG_RST_INPUT. -/
def pkgRstInput (s : State) : State := holdPackage s 0 2
def execPkgRstInput (s : State) : Host.Outcome State Fault Refusal := .next (pkgRstInput s)

/-- PERST. -/
def perst (s : State) : State := holdPackage s 1 3
def execPerst (s : State) : Host.Outcome State Fault Refusal := .next (perst s)

/-- A held input let go: bring-up starts once none holds the package. -/
def releaseInput (s : State) (i : Nat) : State :=
  if !s.pwr.heldInputs.contains i then s
  else
    let t : State := { s with pwr := { s.pwr with heldInputs := s.pwr.heldInputs.filter (· != i) } }
    if pkgHeld s && !pkgHeld t then startMgmt t else t

/-- RESET_INPUT_RELEASE: 0 PKG_RST_N, 1 PERST_N, 2-4 the reset inputs of dies 1-3. -/
def resetInputRelease (input : Nat) (s : State) : State := if 4 < input then s else releaseInput s input
def execResetInputRelease (input : Nat) (s : State) : Host.Outcome State Fault Refusal := .next (resetInputRelease input s)

/-- RESET: scope 0 a package warm reset, which takes the command with it; 1-3 a die reset, OK when the die is back (R78,
R616). -/
def reset (d : Nat) (s : State) : State :=
  withOp s d 0xF1A0 fun f =>
    let n := f.op 0x20 1
    refuseIf s d [(rBadField, 3 < n || !f.zeroFrom 0x21), (rBusy, !s.fab.dieResetBy.isEmpty || !s.fab.dieReset.isEmpty)] <|
    if n = 0 then packageReset s 1
    else
      let s1 := putF { s with fab := { s.fab with dieResetBy := tput s.fab.dieResetBy n d } } d { f with phase := .running }
      startDieReset s1 n
def execReset (d : Nat) (s : State) : Host.Outcome State Fault Refusal := .next (reset d s)

/-! Power (R608, R611-R614). -/

/-- VAON_APPLIED: a cold reset. -/
def vaonApplied (s : State) : State :=
  if s.pwr.pkg ≠ .off then s
  else
    let t := afterReset s
    let l := t.mgmt.lifeStored
    startMgmt (writeLife { t with
      log := { critlog := s.log.critlog }
      mgmt := { t.mgmt with life := { l with coldStarts := l.coldStarts + 1 } } })
def execVaonApplied (s : State) : Host.Outcome State Fault Refusal := .next (vaonApplied s)

/-- VAON_LOST: the package is OFF. -/
def vaonLost (s : State) : State :=
  let t := afterReset s
  { t with pwr := { pkg := .off }, log := { critlog := s.log.critlog } }
def execVaonLost (s : State) : Host.Outcome State Fault Refusal := .next (vaonLost s)

/-- Groups enabled. -/
def enable (s : State) (l : List Nat) : State :=
  { s with pwr := { s.pwr with enabled := s.pwr.enabled ++ l.filter fun g => !s.pwr.enabled.contains g } }

/-- BOOT_NET begun once the power of BASE and MEM is good: the core groups are enabled, and telemetry starts (R591, R608). -/
def startNet (s : State) : State :=
  if s.mgmt.phase = .bootMgmt && s.mgmt.waitNet && s.pwr.good.contains 0 && s.pwr.good.contains 1 then
    let s1 : State := { s with pwr := { s.pwr with retryAt := none }, th := { s.th with telem := {} } }
    enable (startPhase s1 .bootNet) [3, 4]
  else s

/-- POWER_GOOD_RETURN: a group's power-good returned; one that had fallen has been back for 1 ms (R614). -/
def powerGoodReturn (group : Nat) (s : State) : State :=
  if 5 ≤ group ∨ !s.pwr.enabled.contains group ∨ s.pwr.good.contains group then s
  else
    let s1 : State := { s with pwr := { s.pwr with good := s.pwr.good ++ [group] } }
    if group = 2 then portsBack { s1 with pwr := { s1.pwr with retryAt := none } } 0 32 6
    else startNet (releaseInput s1 (10 + group))
def execPowerGoodReturn (group : Nat) (s : State) : Host.Outcome State Fault Refusal := .next (powerGoodReturn group s)

/-- POWER_GOOD_TIMEOUT: 20 ms have passed since an enable without its power-good (R612). -/
def powerGoodTimeout (group : Nat) (s : State) : State :=
  if 5 ≤ group ∨ !s.pwr.enabled.contains group ∨ s.pwr.good.contains group then s
  else
    let off (l : List Nat) : State := { s with pwr := { s.pwr with
      enabled := s.pwr.enabled.filter fun g => !l.contains g, good := s.pwr.good.filter fun g => !l.contains g } }
    let again (t : State) : State := { t with pwr := { t.pwr with retryAt := some (s.time.now + 1000000000) } }
    if group < 2 then (if s.mgmt.waitNet then again (off [0, 1]) else s)
    else if group = 2 then again (off [2])
    else dieLost (group - 1) (off [group])
def execPowerGoodTimeout (group : Nat) (s : State) : Host.Outcome State Fault Refusal := .next (powerGoodTimeout group s)

/-- ENABLE_RETRY: BASE and MEM, or OPT, enabled again after 1 s. -/
def enableRetry (s : State) : State :=
  match s.pwr.retryAt with
  | none => s
  | some t =>
    if s.time.now < t then s
    else
      let s1 : State := { s with pwr := { s.pwr with retryAt := some (s.time.now + 1000000000) } }
      if s.mgmt.phase = .bootMgmt then enable s1 [0, 1]
      else if s.pwr.pkg = .standby ∨ s.pwr.tripStandby then s
      else enable s1 [2]
def execEnableRetry (s : State) : Host.Outcome State Fault Refusal := .next (enableRetry s)

/-- POWER_GOOD_LOST: a power-good fell while its group was enabled (R614). -/
def powerGoodLost (group : Nat) (s : State) : State :=
  if 5 ≤ group ∨ !s.pwr.enabled.contains group ∨ !s.pwr.good.contains group then s
  else
    let s1 : State := { s with pwr := { s.pwr with good := s.pwr.good.filter (· != group) } }
    if group < 2 then holdPackage s1 (10 + group) 2
    else if group = 2 then portsDown s1 0 32 6
    else startDieReset (holdInput s1 (10 + group)) (group - 1)
def execPowerGoodLost (group : Nat) (s : State) : Host.Outcome State Fault Refusal := .next (powerGoodLost group s)

/-! Bring-up (R513-R518). -/

/-- Whether a phase runs: no input holds the package. -/
def inPhase (s : State) (p : Phase) : Bool := s.mgmt.phase == p && !pkgHeld s && s.pwr.pkg != .off

/-- The work of BOOT_MGMT: images verified, or RECOVERY entered (R541); records loaded, the repair map and the Cuff in
force; then BASE and MEM are enabled. -/
def mgmtWork (badImages badCopies : List (Nat × Nat)) (s : State) : State :=
  let v := [1, 2, 3, 4].foldl (fun (acc : State × List Nat) ty =>
    let r := verifyType badImages acc.1 ty
    (r.1, if r.2 then acc.2 else acc.2 ++ [ty])) (s, [])
  if v.2.contains 1 || v.2.contains 2 then emit { v.1 with mgmt := { v.1.mgmt with recovery := true } } 7 0xC {} []
  else
    let s1 := (List.range 12).foldl (loadRecord badCopies) v.1
    let s2 := loadCuff (applyMap s1)
    startNet (enable { s2 with mgmt := { s2.mgmt with waitNet := true } } [0, 1])

/-- BOOT_MGMT_DONE: images, as (type, slot), and copies of records, as (record, copy), that failed their checks. -/
def bootMgmtDone (badImages badCopies : List (Nat × Nat)) (s : State) : State :=
  if inPhase s .bootMgmt && !s.mgmt.waitNet && !s.mgmt.recovery then mgmtWork badImages badCopies s else s
def execBootMgmtDone (badImages badCopies : List (Nat × Nat)) (s : State) : Host.Outcome State Fault Refusal :=
  .next (bootMgmtDone badImages badCopies s)

/-- The code of R542 of a die entry of R516, for the dies that can be lost. -/
def entryDie (i : Nat) : Option Nat :=
  if 1 ≤ i ∧ i ≤ 3 then some i else if 8 ≤ i ∧ i < 24 then some (i - 4) else none

/-- The work of BOOT_NET: the dies that answered; one that did not is lost, unless it is held in reset (R369, R370, R515,
R615). -/
def netWork (answers : List (Nat × DieAnswer)) (s : State) : State :=
  let found := answers.foldl (fun t e => if e.1 < 25 ∧ e.2.kind ≠ 0 then tput t e.1 e.2 else t) ([] : Tbl DieAnswer)
  let held := [1, 2, 3].filter (dieHeld s)
  let s1 : State := { s with
    mgmt := { s.mgmt with topo := { s.mgmt.topo with dies := found } }
    fab := { s.fab with dieReset := held } }
  let s2 := if held.contains 1 then portsDown s1 16 16 8 else s1
  let gone := (List.range 25).filterMap fun i => if (tfind found i).isSome then none else entryDie i
  let s3 := (gone.filter fun x => !held.contains x).foldl (fun t x => dieLost x t) s2
  endNet { s3 with mgmt := { s3.mgmt with netDone := true } }

/-- BOOT_NET_DONE: each die's answer by its entry of R516. -/
def bootNetDone (answers : List (Nat × DieAnswer)) (s : State) : State :=
  if inPhase s .bootNet && !s.mgmt.netDone then netWork answers s else s
def execBootNetDone (answers : List (Nat × DieAnswer)) (s : State) : Host.Outcome State Fault Refusal :=
  .next (bootNetDone answers s)

/-- A bank of a slice or a pseudo-channel of a stack out of service for this start; a stack with none left counts as an absent
die (R515). -/
def outOfService (s : State) (t ch : Nat) : State :=
  let s1 : State := if s.flt.outBanks.contains (t, ch) ∨ s.flt.retiredBanks.contains (t, ch) then s
    else { s with flt := { s.flt with outBanks := s.flt.outBanks ++ [(t, ch)] } }
  if 0x8000 ≤ t ∧ stackPcs s1 (t - 0x8000) = 0 then dieLost (4 + (t - 0x8000)) s1 else s1

/-- A tier-F row that failed its self-test: remapped; a bank without a spare is out of service for this start. -/
def badRow (s : State) (bank row : Nat) : State :=
  if 16384 ≤ bank ∨ 2048 ≤ row then s
  else
    let none_ := (freeSpare s bank).isNone
    let s1 := remapRow s (rowAddress (bank / 32) (bank % 32) 0 row)
    if none_ then outOfService s1 (bank / 32) (bank % 32) else s1

/-- The rows, and the pseudo-channels as (stack, pseudo-channel), that BOOT_MEM found bad. -/
def memBad (badRows badPcs : List (Nat × Nat)) (s : State) : State :=
  badPcs.foldl (fun t e => if e.1 < 8 ∧ e.2 < 64 then outOfService t (0x8000 + e.1) e.2 else t)
    (badRows.foldl (fun t e => badRow t e.1 e.2) s)

/-- Every fill still owed done over memory without content (R438, R624). -/
def memFills (s : State) : State := s.gnt.fills.foldl endFill { s with mem := {} }

/-- A PHY or OPTIC image that was activated at this start and stops answering in its phase: the slot before it returns, and the phase is
repeated (R539). None when the image was not so activated. -/
def fallBack (s : State) (ty : Nat) : Option State :=
  let x := getFw s ty
  if x.fresh then some (emit (putFw s ty { x with active := inactiveSlot x, fresh := false }) 7 9 {} []) else none

/-- The elements of a training cache, of n in slots of one size, trained in full: every one under FULL_TRAIN, else those whose entry or
cached training failed, as `given` lists them. Their results go into the cache's shadow (R371, R514). -/
def trainFull (s : State) (i n slot : Nat) (given : List (Nat × List Byte)) : State :=
  let l := if recField s 9 2 2 % 2 = 1 then List.range n else (given.filter fun e => decide (e.1 < n)).map Prod.fst
  if l.isEmpty then s
  else
    let s1 := putTrained s i slot (given.filter fun e => decide (e.1 < n))
    { s1 with mgmt := { s1.mgmt with trained := s1.mgmt.trained ++ l.map (1024 * i + ·) } }

/-- The work of BOOT_MEM: rows, as (bank, row), remapped; pseudo-channels, as (stack, pseudo-channel), taken out; pending fills
completed; every array reads zeros (R515, R624). BOOT_LINK begins and enables OPT. -/
def memWork (badRows badPcs : List (Nat × Nat)) (s : State) : State :=
  let s4 := enable (startPhase (recapAll (advise (memFills (memBad badRows badPcs s)))) .bootLink) [2]
  if s4.pwr.good.contains 2 then portsBack s4 0 32 6 else s4

/-- BOOT_MEM_DONE, with the interfaces trained in full, stacks 0-7 and slices from 8 on, and their new entries. `silent` names an image
type that stopped answering: PHY here. -/
def bootMemDone (badRows badPcs : List (Nat × Nat)) (trained : List (Nat × List Byte)) (silent : Nat) (s : State) : State :=
  if !inPhase s .bootMem then s
  else match (if silent = 3 then fallBack s 3 else none) with
    | some t => t
    | none => memWork badRows badPcs (trainFull s 1 520 4096 trained)
def execBootMemDone (badRows badPcs : List (Nat × Nat)) (trained : List (Nat × List Byte)) (silent : Nat) (s : State) :
    Host.Outcome State Fault Refusal := .next (bootMemDone badRows badPcs trained silent s)

/-- The work of BOOT_LINK: lanes, as (bundle, direction, lane), that failed; engines below 15 °C or late go on in the
background (R362, R365, R383, R515). -/
def linkWork (badLanes : List (Nat × Nat × Nat)) (lateEngines : List Nat) (s : State) : State :=
  let s1 := badLanes.foldl (fun t e => laneRetire e.1 e.2.1 e.2.2 t) (settleFences s stOffline)
  let s2 := (lateEngines.filter (· < 8)).foldl (fun t e => portsDown t (4 * e) 4 0) s1
  startPhase s2 .bootCore

/-- BOOT_LINK_DONE, with the bundle directions 0-47 and ports, from 48 on, trained in full and their new entries. `silent` names an
image type that stopped answering: PHY or OPTIC. -/
def bootLinkDone (badLanes : List (Nat × Nat × Nat)) (lateEngines : List Nat) (trained : List (Nat × List Byte)) (silent : Nat)
    (s : State) : State :=
  if !inPhase s .bootLink then s
  else match (if silent = 3 ∨ silent = 4 then fallBack s silent else none) with
    | some t => t
    | none => linkWork badLanes lateEngines (trainFull s 0 80 16384 trained)
def execBootLinkDone (badLanes : List (Nat × Nat × Nat)) (lateEngines : List Nat) (trained : List (Nat × List Byte)) (silent : Nat)
    (s : State) : Host.Outcome State Fault Refusal := .next (bootLinkDone badLanes lateEngines trained silent s)

/-- The column the repair map stores for a logical core: its default one while the map stores no binding (R32); none for a
stored hole, which moves only at an ordered start (R33, R34, assumption 187). -/
def storedColumn (m : RepairMap) (n : Nat) : Option Nat :=
  match tfind m.binds n with
  | none => some (n % 16)
  | some c => if c = 0xFF then none else some c

/-- The bindings of one logical row (R31-R34): compacted, or the stored ones whose sites pass; then the positions whose stored
site fails take the free passing sites. Both pairings go by rising position and column, an order the spec leaves open
(assumption 157). -/
def bindRow (s : State) (passing : Nat → Bool) (compact : Bool) (row : Nat) : List (Nat × Nat) :=
  let ok := (List.range 17).filter fun c => passing (siteKey (16 * row) c)
  let cores := (List.range 16).map (16 * row + ·)
  if compact then cores.zip ok
  else
    let stored := cores.filterMap fun n => (storedColumn s.mgmt.repairStored n).map fun c => (n, c)
    let kept := stored.filter fun e => ok.contains e.2
    let free := ok.filter fun c => !kept.any fun e => e.2 == c
    kept ++ ((stored.filter fun e => !ok.contains e.2).map Prod.fst).zip free

/-- The work of BOOT_CORE: sites that fail are fenced, logical cores are bound, each under a new Season, and holes compacted
when the host has ordered it (R32-R34, R475, R534). A core whose SEASON write failed twice is not bound. -/
def coreWork (failing badSeasons : List Nat) (s : State) : State :=
  let want := recField s 9 4 4
  let compact := s.mgmt.cold && want != s.mgmt.life.compactServed
  let s0 := (failing.filter (· < 544)).foldl fenceSite s
  let passing (k : Nat) : Bool := !(getSite s0 k).fenced && !(getSite s0 k).bad && !s0.fab.dieLost.contains (2 + k / 272)
  let binds := (List.range 32).flatMap (bindRow s0 passing compact)
  let s1 := binds.foldl (fun t e => if 0xFFFF < nextSeason t e.1 then t
    else if badSeasons.contains e.1 then emit t 7 6 {} [(1, 11)] else bindCore t e.1 e.2 0) s0
  let s2 : State := if compact then
      writeLife { s1 with mgmt := { s1.mgmt with life := { s1.mgmt.life with compactServed := want } } }
    else s1
  let s3 := startPhase (recapAll { s2 with mgmt := { s2.mgmt with firstStart := false } }) .check
  advise s3

/-- BOOT_CORE_DONE: the sites that failed their self-test, and the cores whose SEASON write failed its read-back twice. -/
def bootCoreDone (failing badSeasons : List Nat) (s : State) : State :=
  if inPhase s .bootCore then coreWork failing badSeasons s else s
def execBootCoreDone (failing badSeasons : List Nat) (s : State) : Host.Outcome State Fault Refusal :=
  .next (bootCoreDone failing badSeasons s)

/-- The work of CHECK: READY or HELD, or TRIP kept; then the fuses of the images that run (R518, R539). -/
def checkWork (s : State) : State :=
  let s1 : State := { s with mgmt := { s.mgmt with phase := .ended, cold := false } }
  let j := judgeTopo s1
  let s2 := if s.pwr.pkg = .trip then { j with pwr := { j.pwr with pkg := .trip } } else j
  [1, 2, 3, 4].foldl blowFuse s2

/-- CHECK_DONE. -/
def checkDone (s : State) : State := if inPhase s .check then checkWork s else s
def execCheckDone (s : State) : Host.Outcome State Fault Refusal := .next (checkDone s)

/-- BOOT_PHASE_LIMIT: the phase ends at its limit, and what it has not brought into service stays out: at BOOT_NET the dies
without an answer, at BOOT_MEM pseudo-channels 64 × stack + number, at BOOT_LINK bundle directions, at BOOT_CORE sites. -/
def bootPhaseLimit (answers : List (Nat × DieAnswer)) (out : List Nat) (s : State) : State :=
  let slow (t : State) : State := emit t 7 3 {} [(1, phaseCode s)]
  let dark (t : State) (k : Nat) : State :=
    bundleChange (putBundle t k { getBundle t k with retired := true }) (k / 2) (k % 2) 3 0
  if s.mgmt.phase = .ended ∨ !inPhase s s.mgmt.phase ∨ s.mgmt.waitNet ∨ s.mgmt.recovery ∨ s.mgmt.netDone then s
  else match s.mgmt.phase with
    | .bootMgmt => mgmtWork [] [] (slow s)
    | .bootNet => netWork answers (slow s)
    | .bootMem => memWork [] (out.map fun k => (k / 64, k % 64)) (slow s)
    | .bootLink => linkWork [] [] ((out.filter (· < 48)).foldl dark (slow s))
    | .bootCore => coreWork out [] (slow s)
    | .check => checkWork (slow s)
    | .ended => s
def execBootPhaseLimit (answers : List (Nat × DieAnswer)) (out : List Nat) (s : State) : Host.Outcome State Fault Refusal :=
  .next (bootPhaseLimit answers out s)

end Sys2Proof.Machine
end

