-- ==== Sys2Proof/Machine/Registers.lean ====
section
/-! DEFINITION. The registers of PF0's BAR0 and of each VF's BAR0: what they read, and their writes (R587-R603). An offset of
a register command other than REG64_LOW_READ and REGISTER_WRITE is one within its block. -/

namespace Sys2Proof.Machine

/-! Values. A register is its size in bytes and its value. -/

abbrev RegVal := Nat × Nat

def lo16 (i : Int) : Nat := unsigned 16 i
def pack2 (a b : Nat) : Nat := a % 65536 + b % 65536 * 65536

/-- GLOBAL (R590). -/
def globalReg (s : State) (o : Nat) : Option RegVal :=
  let t := s.th.telem
  let hot (i : Nat) : Nat := lo16 ((t.hot[i]?).getD 0)
  let lad (i : Nat) : Nat := (t.ladder[i]?).getD 0
  match o with
  | 0x000 => some (4, 0x0960 + 0xB1 * 2 ^ 16 + b2n s.guestSite * 2 ^ 24)
  | 0x008 => some (8, s.mgmt.serial)
  | 0x010 => some (4, statusReg s)
  | 0x014 => some (4, b2n s.regs.setupLock)
  | 0x018 => some (8, s.flt.linkStale)
  | 0x020 => some (4, t.seq)
  | 0x024 => some (4, t.powerPkg % 65536)
  | 0x028 => some (4, pack2 t.powerA t.powerB)
  | 0x02C => some (4, pack2 (lo16 t.inlet) (lo16 t.outlet))
  | 0x030 => some (4, pack2 t.dp t.flow)
  | 0x034 => some (4, pack2 (hot 0) (hot 1))
  | 0x038 => some (4, pack2 (hot 2) (hot 3))
  | 0x03C => some (4, pack2 (hot 4) (hot 5))
  | 0x040 => some (4, pack2 (hot 6) (hot 7))
  | 0x044 => some (4, lo16 t.lowLogic)
  | 0x048 => some (4, pack2 t.rateA t.rateB)
  | 0x04C => some (4, lad 0 + lad 1 * 2 ^ 5 + lad 2 * 2 ^ 8 + lad 3 * 2 ^ 13)
  | _ => none

/-- ADMINQ (R592). -/
def adminqReg (s : State) (o : Nat) : Option RegVal :=
  let r := s.regs
  let x := getQ s 0
  match o with
  | 0x000 => some (8, r.aqSqBase)
  | 0x008 => some (8, r.aqCqBase)
  | 0x010 => some (8, r.aqRcb)
  | 0x018 => some (4, r.aqSqLog2 + r.aqCqLog2 * 2 ^ 8)
  | 0x01C => some (4, 0)
  | 0x020 => some (4, qstateCode x.st + x.qerr * 2 ^ 8 + b2n r.aqCfgErr * 2 ^ 16)
  | _ => none

/-- One word of QSTATES: the states of sixteen queues, 0 where the function does not own one, and 0 for the admin queue, whose
state AQ_STATE gives. -/
def qstatesWord (s : State) (fn w : Nat) : Nat :=
  ((List.range 16).map fun i =>
    let q := 16 * w + i
    if q ≠ 0 ∧ queueFn s q = fn then qstateCode (getQ s q).st * 4 ^ i else 0).foldl (· + ·) 0

/-- QTAB and VQTAB (R593). A queue operation is one step, so BUSY reads 0. -/
def qtabReg (s : State) (fn o : Nat) : Option RegVal :=
  let f := getFn s fn
  match o with
  | 0x000 => some (8, b2n f.qtValid + f.qtBase)
  | 0x008 => some (4, 0)
  | 0x00C => some (4, f.qctlResult * 2 ^ 8 + b2n f.qctlDropped * 2 ^ 16)
  | 0x010 => some (4, f.qlast)
  | _ => if 0x10000 ≤ o ∧ o < 0x14000 ∧ o % 4 = 0 then some (4, qstatesWord s fn ((o - 0x10000) / 4)) else none

/-- DBELL, and the part of it that a VF has (R595, R602). -/
def dbellReg (s : State) (fn o : Nat) : Option RegVal :=
  let f := getFn s fn
  match o with
  | 0x000 => some (8, b2n f.dbValid + f.dbBase)
  | 0x020 => some (4, b2n f.dbCfgErr)
  | _ => if fn ≠ 0 then none else match o with
    | 0x008 => some (4, s.qe.pollPeriod)
    | 0x00C => some (4, s.qe.hotSize + s.qe.hotReads * 2 ^ 16)
    | 0x010 => some (4, s.qe.hotIdle)
    | 0x014 => some (4, s.qe.hot.length)
    | 0x018 => some (8, s.qe.pollPasses)
    | _ => none

/-- The MSI-X table's doubleword k, and the pending bits of 32 vectors (R597). Vector control reads masked until it is
written. -/
def msixWord (s : State) (fn k : Nat) : Nat := (tfind (getFn s fn).msix k).getD (if k % 4 = 3 then 1 else 0)
def pbaWord (s : State) (fn w : Nat) : Nat :=
  ((List.range 32).filter fun i => (tfind (getFn s fn).msixPending (32 * w + i)).isSome).foldl (fun n i => n + 2 ^ i) 0

/-- The MSI-X structures of a function at their offsets: n vectors, the pending bits at p. -/
def msixReg (s : State) (fn n p o : Nat) : Option RegVal :=
  if o < 16 * n ∧ o % 4 = 0 then some (4, msixWord s fn (o / 4))
  else if p ≤ o ∧ o < p + n / 8 ∧ o % 4 = 0 then some (4, pbaWord s fn ((o - p) / 4))
  else none

/-- IRQ (R597). -/
def irqReg (s : State) (o : Nat) : Option RegVal :=
  match o with
  | 0x000 => some (4, s.regs.aqCoalCount + s.regs.aqCoalTime * 2 ^ 16)
  | 0x008 => some (8, (getFn s 0).msgSent)
  | _ => if 0x10000 ≤ o then msixReg s 0 2048 0x8000 (o - 0x10000) else none

/-- A PART entry (R598); that of an absent partition reads 0. ABSENT shows the partition's own absent cores (R33). -/
def partReg (s : State) (p o : Nat) : Option RegVal :=
  let x := (getP s p).getD {}
  let there (n : Nat) : Nat := if (getP s p).isSome then n else 0
  let cls (k : Nat) : BwClass := (tfind x.bw k).getD {}
  match o with
  | 0x000 => some (4, there (pstateCode x + b2n x.sealed * 2 ^ 2 + b2n x.hotSubst * 2 ^ 3 + b2n (fenced s p) * 2 ^ 4
      + (x.fences.head?).getD 0 * 2 ^ 5 + b2n x.inReset * 2 ^ 8 + b2n (inHoliday s p) * 2 ^ 9 + x.vf * 2 ^ 16))
  | 0x004 => some (4, there x.rows)
  | 0x008 => some (4, there (x.waysA + x.waysB * 2 ^ 8))
  | 0x00C => some (4, there (pack2 x.firstSlot x.slotCount))
  | 0x010 => some (4, there ((boundCores s p).length + x.rangeLog2 * 2 ^ 16))
  | 0x018 => some (8, there x.signalsDropped)
  | 0x020 => some (8, there x.prefetchDrop)
  | 0x028 => some (4, there x.bwMiss)
  | _ =>
    if 0x040 ≤ o ∧ o < 0x080 ∧ o % 4 = 0 then
      some (4, there (((List.range 32).filter fun i => let n := 8 * (o - 0x40) + i
        bit x.rows (n / 16) && !bound s n).foldl (fun a i => a + 2 ^ i) 0))
    else if 0x100 ≤ o ∧ o < 0x140 ∧ o % 8 = 0 then some (8, there (cls ((o - 0x100) / 8)).bytes)
    else if 0x140 ≤ o ∧ o < 0x180 ∧ o % 8 = 0 then some (8, there (cls ((o - 0x140) / 8)).misses)
    else none

/-- SNAP (R599). -/
def snapReg (s : State) (o : Nat) : Option RegVal :=
  let b := (s.snap.banks[o / 16]?).getD {}
  match o with
  | 0x020 => some (4, s.snap.dropped)
  | 0x024 => some (4, s.snap.armed + s.snap.scope * 2 ^ 8)
  | 0x028 => some (4, s.snap.latches)
  | _ =>
    if 0x20 ≤ o then none
    else match o % 16 with
      | 0 => some (4, b.st + b.scope * 2 ^ 8 + b.source * 2 ^ 16 + b2n b.debug * 2 ^ 19 + b2n b.late * 2 ^ 20)
      | 4 => some (4, b.size)
      | 8 => some (8, b.time)
      | _ => none

/-- LOGP (R600). -/
def logpReg (s : State) (o : Nat) : Option RegVal :=
  let l := s.log
  match o with
  | 0x000 => some (8, l.base)
  | 0x008 => some (4, l.sizeLog2 + l.mask * 2 ^ 8 + b2n l.en * 2 ^ 16)
  | 0x010 => some (4, l.written)
  | 0x014 => some (4, ((l.ring.getLast?).map (·.seq)).getD 0)
  | 0x018 => some (4, l.skipped)
  | 0x01C => some (4, b2n l.cfgErr + b2n (!(getFn s 0).bme) * 2 + b2n l.writeErr * 4)
  | _ => none

/-- TIME (R601). -/
def timeReg (s : State) (o : Nat) : Option RegVal :=
  let t := s.time
  match o with
  | 0x000 => some (8, t.now)
  | 0x008 => some (4, b2n t.ptmEn + t.ptmPeriod * 2 ^ 8)
  | 0x00C => some (4, b2n (ptmLocked s) + b2n t.holdover * 2)
  | 0x010 => some (8, unsigned 64 t.lastAdj)
  | 0x018 => some (8, t.lastAdjTime)
  | _ => none

/-- VIDENT (R602). -/
def videntReg (s : State) (vf o : Nat) : Option RegVal :=
  let v := tfind s.vfs vf
  match o with
  | 0x000 => some (4, vf + ((v.map (·.part)).getD 0xFF) * 2 ^ 8 + ((v.map (·.groups)).getD 0) * 2 ^ 16)
  | 0x004 => some (4, (v.map (·.firstGroup)).getD 0)
  | 0x008 => some (8, s.time.now)
  | _ => none

/-- VSTATUS: the bound partition's entry with its energy (R603). -/
def vstatusReg (s : State) (vf o : Nat) : Option RegVal :=
  let p := (tfind s.vfs vf).map (·.part)
  let x := (p.bind (getP s)).getD {}
  match o with
  | 0x200 => some (8, x.energy)
  | 0x208 => some (4, x.power)
  | 0x20C => some (4, x.energySeq)
  | _ => if o < 0x200 then partReg s (p.getD 16) o else none

/-- Blocks of PF0 (R39): 0 GLOBAL, 1 ADMINQ, 2 QTAB, 3 DBELL, 4 IRQ, 5 PART, 6 SNAP, 7 LOGP, 8 TIME; of a VF: 9 VIDENT, 10
VQTAB, 11 VDBELL, 12 VIRQ, 13 VSTATUS; each with the offset in it. -/
def blockOf (fn off : Nat) : Nat × Nat :=
  if fn = 0 then
    if off < 0x10000 then (0, off) else if off < 0x20000 then (1, off - 0x10000) else if off < 0x40000 then (2, off - 0x20000)
    else if off < 0x80000 then (3, off - 0x40000) else if off < 0x100000 then (4, off - 0x80000)
    else if off < 0x200000 then (5, off - 0x100000) else if off < 0x400000 then (6, off - 0x200000)
    else if off < 0x800000 then (7, off - 0x400000) else (8, off - 0x800000)
  else
    if off < 0x10000 then (9, off) else if off < 0x20000 then (10, off - 0x10000) else if off < 0x30000 then (11, off - 0x20000)
    else if off < 0x40000 then (12, off - 0x30000) else (13, off - 0x40000)

/-- Whether a block is usable now (R588); the reads of QTAB are from BOOT_NET on. -/
def usable (s : State) (blk : Nat) (reading : Bool) : Bool :=
  if s.pwr.pkg = .off then false
  else if s.mgmt.recovery then blk == 0 || blk == 1 || blk == 3 || blk == 4 || blk == 8
  else if s.mgmt.phase = .bootMgmt then false
  else if bootEnded s then true
  else blk == 0 || blk == 1 || blk == 3 || blk == 4 || blk == 7 || blk == 8 || (blk == 2 && reading)

/-- The register that begins at an offset of a function's BAR0. -/
def regAt (s : State) (fn off : Nat) : Option RegVal :=
  let b := blockOf fn off
  if !usable s b.1 true then none
  else match b.1 with
    | 0 => globalReg s b.2
    | 1 => adminqReg s b.2
    | 2 => qtabReg s 0 b.2
    | 3 => dbellReg s 0 b.2
    | 4 => irqReg s b.2
    | 5 => partReg s (b.2 / 4096) (b.2 % 4096)
    | 6 => snapReg s b.2
    | 7 => logpReg s b.2
    | 8 => timeReg s b.2
    | 9 => videntReg s fn b.2
    | 10 => qtabReg s fn b.2
    | 11 => dbellReg s fn b.2
    | 12 => msixReg s fn 128 0x800 b.2
    | _ => vstatusReg s fn b.2

/-- What a 4-byte read at an aligned offset returns: the latched high half when the low half was read last (R587). An offset
without a register reads 0. -/
def read32 (s : State) (fn off : Nat) : Nat :=
  match tfind (getFn s fn).latchHigh off with
  | some v => v
  | none => regWord s fn off
where
  regWord (s : State) (fn off : Nat) : Nat :=
    match regAt s fn off with
    | some (_, v) => v % 2 ^ 32
    | none => match regAt s fn (off - 4) with
      | some (8, v) => if 4 ≤ off then v / 2 ^ 32 % 2 ^ 32 else 0
      | _ => 0

/-- What a read of `size` bytes at an offset within a register returns (R587): an 8-byte read of a 64-bit register reads it
whole, a 4-byte read takes a latched high half, and any other read returns the bytes it addresses. -/
def registerRead (s : State) (fn off size : Nat) : Nat :=
  if size = 4 ∧ off % 4 = 0 then read32 s fn off
  else
    let a := off / 4 * 4
    (read32.regWord s fn a + 2 ^ 32 * read32.regWord s fn (a + 4)) / 2 ^ (8 * (off - a)) % 2 ^ (8 * size)

/-- REG64_LOW_READ: a 4-byte read of a low half latches the high half for the function's next read of it; a 4-byte read of
a high half takes the latched value, after which the half reads as the register stands. -/
def reg64LowRead (fn offset : Nat) (s : State) : State :=
  match regAt s fn offset with
  | some (8, v) => putFn s fn { getFn s fn with latchHigh := tput (getFn s fn).latchHigh (offset + 4) (v / 2 ^ 32 % 2 ^ 32) }
  | some _ => s
  | none =>
    match tfind (getFn s fn).latchHigh offset with
    | some _ => putFn s fn { getFn s fn with latchHigh := tdel (getFn s fn).latchHigh offset }
    | none => s
def execReg64LowRead (fn offset : Nat) (s : State) : Host.Outcome State Fault Refusal := .next (reg64LowRead fn offset s)

/-! Writes. -/

/-- SETUP_LOCK_WRITE: bit 0 set locks every RWL field, itself included (R589, R590). -/
def setupLockWrite (value : Nat) (s : State) : State :=
  if s.regs.setupLock || !usable s 0 false then s else { s with regs := { s.regs with setupLock := bit value 0 } }
def execSetupLockWrite (value : Nat) (s : State) : Host.Outcome State Fault Refusal := .next (setupLockWrite value s)

/-- Whether a function has a queue, the admin queue included, that is not DISABLED. -/
def queuesActive (s : State) (fn : Nat) : Bool := s.qe.ctx.any fun e => e.2.st != .disabled && (if e.1 = 0 then fn == 0 else queueFn s e.1 == fn)

/-- DBELL_CONFIG_WRITE: a field out of range, and a doorbell area changed while the function has an active queue, are ignored
and set CFG_ERR (R595, R596). -/
def dbellConfigWrite (fn offset size value : Nat) (s : State) : State :=
  let f := getFn s fn
  let err (t : State) : State := putFn t fn { getFn t fn with dbCfgErr := true }
  let put (ok : Bool) (q : QueueEngine) (t : State) : State := if ok then { t with qe := q } else err t
  if !usable s (if fn = 0 then 3 else 11) false ∨ 16 < fn then s
  else if offset = 0 ∧ size = 8 then
    if queuesActive s fn then err s
    else if fn = 0 ∧ s.regs.setupLock then s
    else
      let base := value % 2 ^ 64 / 2 ^ 14 * 2 ^ 14
      putFn s fn { f with dbValid := bit value 0, dbBase := base, allUndef := f.allUndef || base != f.dbBase }
  else if offset = 0x20 ∧ size = 4 then (if bit value 0 then putFn s fn { f with dbCfgErr := false } else s)
  else if fn ≠ 0 ∨ size ≠ 4 then s
  else match offset with
    | 0x08 =>
      let n := value % 2 ^ 11
      put (decide (5 ≤ n ∧ n ≤ 2000)) { s.qe with pollPeriod := n } s
    | 0x0C =>
      let n := value % 2 ^ 11
      let r := value / 2 ^ 16 % 2 ^ 7
      let s1 := put (decide (n ≤ 1024)) { s.qe with hotSize := n } s
      let s2 := put (decide (1 ≤ r ∧ r ≤ 64)) { s1.qe with hotReads := r } s1
      trimHot s2 1025
    | 0x10 =>
      let n := value % 2 ^ 16
      put (decide (1 ≤ n)) { s.qe with hotIdle := n } s
    | _ => s
def execDbellConfigWrite (fn offset size value : Nat) (s : State) : Host.Outcome State Fault Refusal :=
  .next (dbellConfigWrite fn offset size value s)

/-- QCTL_WRITE_BUSY. -/
def qctlWriteBusy (fn : Nat) (s : State) : State :=
  if !usable s (if fn = 0 then 2 else 10) false ∨ 16 < fn then s else putFn s fn { getFn s fn with qctlDropped := true }
def execQctlWriteBusy (fn : Nat) (s : State) : Host.Outcome State Fault Refusal := .next (qctlWriteBusy fn s)

/-- LOGP_CONTROL_WRITE: the class mask and LOG_EN are taken; SIZE_LOG2 only while LOG_EN is 0 and no lock stands. A write with
LOG_EN = 1 clears WRITE_ERR, and the ring takes the records it has missed (R545, R600). -/
def logpControlWrite (value : Nat) (s : State) : State :=
  if !usable s 7 false then s
  else
    let l := s.log
    let n := value % 32
    let en := bit value 16
    let size := if l.en || s.regs.setupLock then l.sizeLog2 else n
    let bad := (l.en && n != l.sizeLog2) || (en && !decide (6 ≤ size ∧ size ≤ 20))
    ringDrain { s with log := { l with
      mask := value / 2 ^ 8 % 2 ^ 8, en := en, sizeLog2 := size, cfgErr := l.cfgErr || bad, writeErr := l.writeErr && !en } }
def execLogpControlWrite (value : Nat) (s : State) : Host.Outcome State Fault Refusal := .next (logpControlWrite value s)

/-- Bits of BW_MISS cleared. -/
def clearMiss (s : State) (p value : Nat) : State :=
  match getP s p with
  | some x => putP s p { x with bwMiss := ((List.range 8).filter fun c => bit x.bwMiss c && !bit value c).foldl (fun n c => n + 2 ^ c) 0 }
  | none => s

/-- BW_MISS_CLEAR: through PART, or through VSTATUS for the VF's own partition (R598, R603). -/
def bwMissClear (fn part value : Nat) (s : State) : State :=
  if !usable s (if fn = 0 then 5 else 13) false then s
  else if fn = 0 then clearMiss s part value
  else match tfind s.vfs fn with
    | some v => clearMiss s v.part value
    | none => s
def execBwMissClear (fn part value : Nat) (s : State) : Host.Outcome State Fault Refusal := .next (bwMissClear fn part value s)

/-- A write to ADMINQ (R592): its set-up is taken only while the queue is DISABLED. -/
def adminqWrite (s : State) (o size v : Nat) : State :=
  let r := s.regs
  let set (x : Regs) : State := if (getQ s 0).st = .disabled then { s with regs := x } else { s with regs := { r with aqCfgErr := true } }
  match o, size with
  | 0x000, 8 => set { r with aqSqBase := v / 2 ^ 12 * 2 ^ 12 }
  | 0x008, 8 => set { r with aqCqBase := v / 2 ^ 12 * 2 ^ 12 }
  | 0x010, 8 => set { r with aqRcb := v / 2 ^ 6 * 2 ^ 6 }
  | 0x018, 4 => set { r with aqSqLog2 := v % 2 ^ 8, aqCqLog2 := v / 2 ^ 8 % 2 ^ 8 }
  | 0x01C, 4 => if bit v 0 then aqEnable s else if bit v 1 then aqDisable s else s
  | 0x020, 4 => if bit v 16 then { s with regs := { r with aqCfgErr := false } } else s
  | _, _ => s

/-- A write to QTAB or VQTAB (R593, R594). -/
def qtabWrite (s : State) (fn o size v : Nat) : State :=
  let f := getFn s fn
  match o, size with
  | 0x000, 8 => if fn = 0 ∧ s.regs.setupLock then s else putFn s fn { f with qtValid := bit v 0, qtBase := v / 2 ^ 12 * 2 ^ 12 }
  | 0x008, 4 =>
    let q := v % 65536
    match v / 65536 % 4 with
    | 1 => queueEnable fn q s
    | 2 => queueDisable fn q s
    | 3 => queueClear fn q s
    | _ => s
  | 0x00C, 4 => if bit v 16 then putFn s fn { f with qctlDropped := false } else s
  | _, _ => s

/-- One doubleword of an MSI-X table written; a message that is pending is sent when its vector is unmasked. -/
def msixPut (s : State) (fn k v : Nat) : State :=
  let f := getFn s fn
  let s1 := putFn s fn { f with msix := tput f.msix k (v % 2 ^ 32) }
  if k % 4 = 3 ∧ !bit v 0 ∧ (tfind f.msixPending (k / 4)).isSome then
    sendMsix (putFn s1 fn { getFn s1 fn with msixPending := tdel f.msixPending (k / 4) }) fn (k / 4)
  else s1

/-- A write to an MSI-X table of n vectors. -/
def msixWrite (s : State) (fn n o size v : Nat) : State :=
  if 16 * n ≤ o then s
  else if size = 4 ∧ o % 4 = 0 then msixPut s fn (o / 4) v
  else if size = 8 ∧ o % 8 = 0 then msixPut (msixPut s fn (o / 4) v) fn (o / 4 + 1) (v / 2 ^ 32)
  else s

/-- A write to IRQ (R597); the admin queue's moderation follows it at once. -/
def irqWrite (s : State) (o size v : Nat) : State :=
  if 0x10000 ≤ o then msixWrite s 0 2048 (o - 0x10000) size v
  else if o = 0 ∧ size = 4 then
    let n := v % 2 ^ 8
    let t := v / 2 ^ 16 % 2 ^ 16
    let s1 : State := { s with regs := { s.regs with aqCoalCount := n, aqCoalTime := t } }
    if (getQ s 0).st = .disabled then s1 else putQ s1 0 { getQ s1 0 with coalCount := n, coalTime := t }
  else s

/-- A write to LOGP (R600). -/
def logpWrite (s : State) (o size v : Nat) : State :=
  match o, size with
  | 0x000, 8 =>
    if s.log.en then { s with log := { s.log with cfgErr := true } }
    else if s.regs.setupLock then s
    else { s with log := { s.log with base := v / 2 ^ 12 * 2 ^ 12 } }
  | 0x008, 4 => logpControlWrite v s
  | 0x01C, 4 => if bit v 0 then ringDrain { s with log := { s.log with cfgErr := false } } else s
  | _, _ => s

/-- A write to TIME (R601): PTM_EN going from 0 to 1 makes the next dialogue the first. -/
def timeWrite (s : State) (o size v : Nat) : State :=
  if o = 8 ∧ size = 4 then
    let en := bit v 0
    { s with time := { s.time with ptmEn := en, ptmPeriod := v / 2 ^ 8 % 2 ^ 8, first := s.time.first || (en && !s.time.ptmEn) } }
  else s

/-- REGISTER_WRITE: `offset` is one in the function's BAR0. A write that does not cover a whole register, that goes to no
register or to a read-only one, or to a block that is not usable, is ignored (R587, R588). -/
def registerWrite (fn offset size value : Nat) (s : State) : State :=
  let b := blockOf fn offset
  let v := value % 2 ^ (8 * size)
  if 16 < fn ∨ !(usable s b.1 false || (b.1 == 2 && b.2 == 8 && usable s 2 true)) then s
  else match b.1 with
    | 0 => if b.2 = 0x14 ∧ size = 4 then setupLockWrite v s else s
    | 1 => adminqWrite s b.2 size v
    | 2 => qtabWrite s 0 b.2 size v
    | 3 => dbellConfigWrite 0 b.2 size v s
    | 4 => irqWrite s b.2 size v
    | 5 => if b.2 % 4096 = 0x28 ∧ size = 4 then bwMissClear 0 (b.2 / 4096) v s else s
    | 7 => logpWrite s b.2 size v
    | 8 => timeWrite s b.2 size v
    | 10 => qtabWrite s fn b.2 size v
    | 11 => dbellConfigWrite fn b.2 size v s
    | 12 => msixWrite s fn 128 b.2 size v
    | 13 => if b.2 = 0x28 ∧ size = 4 then bwMissClear fn 0 v s else s
    | _ => s
def execRegisterWrite (fn offset size value : Nat) (s : State) : Host.Outcome State Fault Refusal :=
  .next (registerWrite fn offset size value s)

/-! PCIe (R59, R344, R545). -/

/-- BUS_MASTER_ENABLE: setting PF0's lets the host log ring take the records it has missed. -/
def busMasterEnable (fn : Nat) (on : Bool) (s : State) : State :=
  if 16 < fn ∨ s.pwr.pkg = .off then s
  else
    let s1 := putFn s fn { getFn s fn with bme := on }
    if fn = 0 ∧ on then ringDrain s1 else s1
def execBusMasterEnable (fn : Nat) (on : Bool) (s : State) : Host.Outcome State Fault Refusal := .next (busMasterEnable fn on s)

/-- NEGOTIATED_WIDTH_CHANGE: the host link's capacity changes in both directions. -/
def negotiatedWidthChange (width : Nat) (s : State) : State :=
  recap (recap { s with regs := { s.regs with linkWidth := width } } 0x200) 0x201
def execNegotiatedWidthChange (width : Nat) (s : State) : Host.Outcome State Fault Refusal := .next (negotiatedWidthChange width s)

end Sys2Proof.Machine
end

