-- ==== Sys2Proof/Machine/Dispatch.lean ====
section
/-! DEFINITION. One arm for each command of the operation table: a direct call of its meaning. -/

namespace Sys2Proof.Machine

def exec (i : Instr) (s : State) : Host.Outcome State Fault Refusal :=
  match i with
  | .pollingPass stores failing => Sys2Proof.Machine.execPollingPass stores failing s
  | .hotIdleEvict q => Sys2Proof.Machine.execHotIdleEvict q s
  | .descriptorStart d => Sys2Proof.Machine.execDescriptorStart d s
  | .descriptorComplete d => Sys2Proof.Machine.execDescriptorComplete d s
  | .irqCoalTimer q => Sys2Proof.Machine.execIrqCoalTimer q s
  | .queueEnable fn q => Sys2Proof.Machine.execQueueEnable fn q s
  | .queueDisable fn q => Sys2Proof.Machine.execQueueDisable fn q s
  | .queueClear fn q => Sys2Proof.Machine.execQueueClear fn q s
  | .queueDrainDone q => Sys2Proof.Machine.execQueueDrainDone q s
  | .aqEnable => Sys2Proof.Machine.execAqEnable s
  | .aqDisable => Sys2Proof.Machine.execAqDisable s
  | .vfFlr vf => Sys2Proof.Machine.execVfFlr vf s
  | .pf0Flr => Sys2Proof.Machine.execPf0Flr s
  | .identify d => Sys2Proof.Machine.execIdentify d s
  | .vfBind d => Sys2Proof.Machine.execVfBind d s
  | .vfUnbind d => Sys2Proof.Machine.execVfUnbind d s
  | .vfUnbindDone vf => Sys2Proof.Machine.execVfUnbindDone vf s
  | .eventWait d => Sys2Proof.Machine.execEventWait d s
  | .partCreate d => Sys2Proof.Machine.execPartCreate d s
  | .partDestroy d => Sys2Proof.Machine.execPartDestroy d s
  | .partReset d => Sys2Proof.Machine.execPartReset d s
  | .partState d => Sys2Proof.Machine.execPartState d s
  | .partStateDone p => Sys2Proof.Machine.execPartStateDone p s
  | .pkgState d => Sys2Proof.Machine.execPkgState d s
  | .levelSlewDone => Sys2Proof.Machine.execLevelSlewDone s
  | .readyDrainTimeout => Sys2Proof.Machine.execReadyDrainTimeout s
  | .powerCap d => Sys2Proof.Machine.execPowerCap d s
  | .tripAck d => Sys2Proof.Machine.execTripAck d s
  | .bwRegister d => Sys2Proof.Machine.execBwRegister d s
  | .bwRelease d => Sys2Proof.Machine.execBwRelease d s
  | .bwMonitor d => Sys2Proof.Machine.execBwMonitor d s
  | .store d badReadback => Sys2Proof.Machine.execStore d badReadback s
  | .settingWrite d => Sys2Proof.Machine.execSettingWrite d s
  | .settingRead d => Sys2Proof.Machine.execSettingRead d s
  | .ownerMsgClaim d commitOk => Sys2Proof.Machine.execOwnerMsgClaim d commitOk s
  | .ownerMsgPolicy d commitOk => Sys2Proof.Machine.execOwnerMsgPolicy d commitOk s
  | .ownerMsgPairing d commitOk => Sys2Proof.Machine.execOwnerMsgPairing d commitOk s
  | .ownerMsgDebug d commitOk => Sys2Proof.Machine.execOwnerMsgDebug d commitOk s
  | .ownerMsgKeyRelease d => Sys2Proof.Machine.execOwnerMsgKeyRelease d s
  | .debugEntered => Sys2Proof.Machine.execDebugEntered s
  | .zeroFillDone p => Sys2Proof.Machine.execZeroFillDone p s
  | .fwStage d => Sys2Proof.Machine.execFwStage d s
  | .fwActivate d => Sys2Proof.Machine.execFwActivate d s
  | .liveActivationCheck refreshed => Sys2Proof.Machine.execLiveActivationCheck refreshed s
  | .topoRead d => Sys2Proof.Machine.execTopoRead d s
  | .topoAccept d readbackOk => Sys2Proof.Machine.execTopoAccept d readbackOk s
  | .reset d => Sys2Proof.Machine.execReset d s
  | .holidayGrant d => Sys2Proof.Machine.execHolidayGrant d s
  | .holidayExpire => Sys2Proof.Machine.execHolidayExpire s
  | .selftest d => Sys2Proof.Machine.execSelftest d s
  | .calibrate d => Sys2Proof.Machine.execCalibrate d s
  | .testDone v => Sys2Proof.Machine.execTestDone v s
  | .retirePage d => Sys2Proof.Machine.execRetirePage d s
  | .retireBank d => Sys2Proof.Machine.execRetireBank d s
  | .retireMoveDone target => Sys2Proof.Machine.execRetireMoveDone target s
  | .snapArm d => Sys2Proof.Machine.execSnapArm d s
  | .snapTrigger d => Sys2Proof.Machine.execSnapTrigger d s
  | .equinoxInput => Sys2Proof.Machine.execEquinoxInput s
  | .snapRead d => Sys2Proof.Machine.execSnapRead d s
  | .copy d => Sys2Proof.Machine.execCopy d s
  | .fill d => Sys2Proof.Machine.execFill d s
  | .toHost d => Sys2Proof.Machine.execToHost d s
  | .fromHost d => Sys2Proof.Machine.execFromHost d s
  | .map d => Sys2Proof.Machine.execMap d s
  | .unmap d => Sys2Proof.Machine.execUnmap d s
  | .tpoolAdd d => Sys2Proof.Machine.execTpoolAdd d s
  | .matmul d w => Sys2Proof.Machine.execMatmul d w s
  | .conv1d d w => Sys2Proof.Machine.execConv1d d w s
  | .conv2d d w => Sys2Proof.Machine.execConv2d d w s
  | .laneModeChange core => Sys2Proof.Machine.execLaneModeChange core s
  | .chain d w => Sys2Proof.Machine.execChain d w s
  | .softmax d w => Sys2Proof.Machine.execSoftmax d w s
  | .sample d w => Sys2Proof.Machine.execSample d w s
  | .attend d w => Sys2Proof.Machine.execAttend d w s
  | .poolRestart d => Sys2Proof.Machine.execPoolRestart d s
  | .nearList d => Sys2Proof.Machine.execNearList d s
  | .acc d => Sys2Proof.Machine.execAcc d s
  | .orderedStagingGrant stack => Sys2Proof.Machine.execOrderedStagingGrant stack s
  | .windowOpen stack pc group d => Sys2Proof.Machine.execWindowOpen stack pc group d s
  | .windowClose stack pc group x => Sys2Proof.Machine.execWindowClose stack pc group x s
  | .windowCut stack pc group x => Sys2Proof.Machine.execWindowCut stack pc group x s
  | .bankGroupRefresh stack pc group => Sys2Proof.Machine.execBankGroupRefresh stack pc group s
  | .rotaBind d => Sys2Proof.Machine.execRotaBind d s
  | .rotaUnbind d => Sys2Proof.Machine.execRotaUnbind d s
  | .run d => Sys2Proof.Machine.execRun d s
  | .stepRelease d => Sys2Proof.Machine.execStepRelease d s
  | .rotaEntryDispatch d => Sys2Proof.Machine.execRotaEntryDispatch d s
  | .stepCommit d energyA energyB duration => Sys2Proof.Machine.execStepCommit d energyA energyB duration s
  | .trickleCfg d => Sys2Proof.Machine.execTrickleCfg d s
  | .trickleSave d => Sys2Proof.Machine.execTrickleSave d s
  | .trickleResume d => Sys2Proof.Machine.execTrickleResume d s
  | .trickleTimeout d => Sys2Proof.Machine.execTrickleTimeout d s
  | .seqOpen d => Sys2Proof.Machine.execSeqOpen d s
  | .seqClose d => Sys2Proof.Machine.execSeqClose d s
  | .seqFork d => Sys2Proof.Machine.execSeqFork d s
  | .seqRead d => Sys2Proof.Machine.execSeqRead d s
  | .kvHeldResume slot => Sys2Proof.Machine.execKvHeldResume slot s
  | .poolConfig d => Sys2Proof.Machine.execPoolConfig d s
  | .poolAdd d => Sys2Proof.Machine.execPoolAdd d s
  | .swapOut d => Sys2Proof.Machine.execSwapOut d s
  | .swapOutDone slot => Sys2Proof.Machine.execSwapOutDone slot s
  | .swapIn d => Sys2Proof.Machine.execSwapIn d s
  | .swapInDone slot => Sys2Proof.Machine.execSwapInDone slot s
  | .syncNop d => Sys2Proof.Machine.execSyncNop d s
  | .syncAdd d => Sys2Proof.Machine.execSyncAdd d s
  | .syncWaitAll d => Sys2Proof.Machine.execSyncWaitAll d s
  | .syncPair d => Sys2Proof.Machine.execSyncPair d s
  | .syncUnpair d => Sys2Proof.Machine.execSyncUnpair d s
  | .syncRead d => Sys2Proof.Machine.execSyncRead d s
  | .signalAdd p c n => Sys2Proof.Machine.execSignalAdd p c n s
  | .remoteRead d => Sys2Proof.Machine.execRemoteRead d s
  | .remoteWrite d => Sys2Proof.Machine.execRemoteWrite d s
  | .remoteAtomic d => Sys2Proof.Machine.execRemoteAtomic d s
  | .remoteSignal d => Sys2Proof.Machine.execRemoteSignal d s
  | .winExport d => Sys2Proof.Machine.execWinExport d s
  | .winUnexport d => Sys2Proof.Machine.execWinUnexport d s
  | .winUnexportDone d => Sys2Proof.Machine.execWinUnexportDone d s
  | .winImport d => Sys2Proof.Machine.execWinImport d s
  | .winUnimport d => Sys2Proof.Machine.execWinUnimport d s
  | .sealIn d => Sys2Proof.Machine.execSealIn d s
  | .sealOut d => Sys2Proof.Machine.execSealOut d s
  | .kat d failing => Sys2Proof.Machine.execKat d failing s
  | .repairRead d => Sys2Proof.Machine.execRepairRead d s
  | .rowRemap d => Sys2Proof.Machine.execRowRemap d s
  | .ppr d fuseOk => Sys2Proof.Machine.execPpr d fuseOk s
  | .tap d => Sys2Proof.Machine.execTap d s
  | .engineCtrl d => Sys2Proof.Machine.execEngineCtrl d s
  | .arrayRead d found => Sys2Proof.Machine.execArrayRead d found s
  | .scanDump d => Sys2Proof.Machine.execScanDump d s
  | .memoryAccess r => Sys2Proof.Machine.execMemoryAccess r s
  | .scrubRead pa found => Sys2Proof.Machine.execScrubRead pa found s
  | .scrubLag => Sys2Proof.Machine.execScrubLag s
  | .ceLeak => Sys2Proof.Machine.execCeLeak s
  | .grantReturn port cls res => Sys2Proof.Machine.execGrantReturn port cls res s
  | .heldRequestRelease res => Sys2Proof.Machine.execHeldRequestRelease res s
  | .prefetchDrop req => Sys2Proof.Machine.execPrefetchDrop req s
  | .requestDeadlinePass req => Sys2Proof.Machine.execRequestDeadlinePass req s
  | .capacityRecompute res => Sys2Proof.Machine.execCapacityRecompute res s
  | .missInterval waited => Sys2Proof.Machine.execMissInterval waited s
  | .guaranteeMissedWindow handle => Sys2Proof.Machine.execGuaranteeMissedWindow handle s
  | .frameReceive bundle dir f => Sys2Proof.Machine.execFrameReceive bundle dir f s
  | .laneRetire bundle dir lane => Sys2Proof.Machine.execLaneRetire bundle dir lane s
  | .liningMessage link seq prio crcOk payload => Sys2Proof.Machine.execLiningMessage link seq prio crcOk payload s
  | .dieLost die => Sys2Proof.Machine.execDieLost die s
  | .dieResetInput die => Sys2Proof.Machine.execDieResetInput die s
  | .dieBack die failing badSeasons => Sys2Proof.Machine.execDieBack die failing badSeasons s
  | .refclkLost tower => Sys2Proof.Machine.execRefclkLost tower s
  | .refclkRestored tower => Sys2Proof.Machine.execRefclkRestored tower s
  | .cuffRead tag window offset len => Sys2Proof.Machine.execCuffRead tag window offset len s
  | .cuffWrite tag window offset data => Sys2Proof.Machine.execCuffWrite tag window offset data s
  | .cuffSignal tag slot inc => Sys2Proof.Machine.execCuffSignal tag slot inc s
  | .cuffCread tag slot => Sys2Proof.Machine.execCuffCread tag slot s
  | .cuffWatch tag slot target => Sys2Proof.Machine.execCuffWatch tag slot target s
  | .guestLinkDown => Sys2Proof.Machine.execGuestLinkDown s
  | .flitReceive port f => Sys2Proof.Machine.execFlitReceive port f s
  | .portTrainTimeout port => Sys2Proof.Machine.execPortTrainTimeout port s
  | .portTrainDone port => Sys2Proof.Machine.execPortTrainDone port s
  | .hello port version hash farPort nonce => Sys2Proof.Machine.execHello port version hash farPort nonce s
  | .auth port chain sig ecdh => Sys2Proof.Machine.execAuth port chain sig ecdh s
  | .topo port hash farPort ownerHash pkgState waves => Sys2Proof.Machine.execTopo port hash farPort ownerHash pkgState waves s
  | .keyReplace port dir => Sys2Proof.Machine.execKeyReplace port dir s
  | .ringRecalibrate port line ringOk => Sys2Proof.Machine.execRingRecalibrate port line ringOk s
  | .laserLineLow engine line => Sys2Proof.Machine.execLaserLineLow engine line s
  | .laserLineRestored engine line => Sys2Proof.Machine.execLaserLineRestored engine line s
  | .laserLost engine => Sys2Proof.Machine.execLaserLost engine s
  | .wavelengthRetire port wave => Sys2Proof.Machine.execWavelengthRetire port wave s
  | .rd port m => Sys2Proof.Machine.execRd port m s
  | .rdData port m => Sys2Proof.Machine.execRdData port m s
  | .wr port m => Sys2Proof.Machine.execWr port m s
  | .wrAck port m => Sys2Proof.Machine.execWrAck port m s
  | .atom port m => Sys2Proof.Machine.execAtom port m s
  | .atomAck port m => Sys2Proof.Machine.execAtomAck port m s
  | .sig port m => Sys2Proof.Machine.execSig port m s
  | .sigAck port m => Sys2Proof.Machine.execSigAck port m s
  | .impQ port m => Sys2Proof.Machine.execImpQ port m s
  | .impR port m => Sys2Proof.Machine.execImpR port m s
  | .rdResend req => Sys2Proof.Machine.execRdResend req s
  | .remoteRetry req => Sys2Proof.Machine.execRemoteRetry req s
  | .neighbourLost hash => Sys2Proof.Machine.execNeighbourLost hash s
  | .tdiLeaveRun vf => Sys2Proof.Machine.execTdiLeaveRun vf s
  | .getVersion path => Sys2Proof.Machine.execGetVersion path s
  | .getCapabilities path caps => Sys2Proof.Machine.execGetCapabilities path caps s
  | .negotiateAlgorithms path ecdsa384 sha384 secp384 aes256 => Sys2Proof.Machine.execNegotiateAlgorithms path ecdsa384 sha384 secp384 aes256 s
  | .getDigests path => Sys2Proof.Machine.execGetDigests path s
  | .getCertificate path slot offset len => Sys2Proof.Machine.execGetCertificate path slot offset len s
  | .challenge path slot nonce => Sys2Proof.Machine.execChallenge path slot nonce s
  | .getMeasurements path index sign nonce => Sys2Proof.Machine.execGetMeasurements path index sign nonce s
  | .keyExchange path exchange => Sys2Proof.Machine.execKeyExchange path exchange s
  | .finish path sig mac => Sys2Proof.Machine.execFinish path sig mac s
  | .keyUpdate path => Sys2Proof.Machine.execKeyUpdate path s
  | .heartbeat path => Sys2Proof.Machine.execHeartbeat path s
  | .endSession path => Sys2Proof.Machine.execEndSession path s
  | .vendorDefinedRequest path proto arg => Sys2Proof.Machine.execVendorDefinedRequest path proto arg s
  | .getIdentity => Sys2Proof.Machine.execGetIdentity s
  | .getState => Sys2Proof.Machine.execGetState s
  | .getTelemetry => Sys2Proof.Machine.execGetTelemetry s
  | .getLog fromSeq => Sys2Proof.Machine.execGetLog fromSeq s
  | .getLifetime => Sys2Proof.Machine.execGetLifetime s
  | .sliceCopyDone core unreadable spareOk seasonOk => Sys2Proof.Machine.execSliceCopyDone core unreadable spareOk seasonOk s
  | .staleSpeaker site season => Sys2Proof.Machine.execStaleSpeaker site season s
  | .spareTest site pass => Sys2Proof.Machine.execSpareTest site pass s
  | .mittenWatchdog => Sys2Proof.Machine.execMittenWatchdog s
  | .gauntletWatchdog => Sys2Proof.Machine.execGauntletWatchdog s
  | .thermalModelUpdate a b p => Sys2Proof.Machine.execThermalModelUpdate a b p s
  | .thermalLimiterTick tower => Sys2Proof.Machine.execThermalLimiterTick tower s
  | .thermalCapCompute tower => Sys2Proof.Machine.execThermalCapCompute tower s
  | .offsetAdjust tower => Sys2Proof.Machine.execOffsetAdjust tower s
  | .sensorCheck disagree agree => Sys2Proof.Machine.execSensorCheck disagree agree s
  | .hostLimiterTick => Sys2Proof.Machine.execHostLimiterTick s
  | .almanacForecast tower hotLogic hotF idle => Sys2Proof.Machine.execAlmanacForecast tower hotLogic hotF idle s
  | .imonSample mvA mvB => Sys2Proof.Machine.execImonSample mvA mvB s
  | .coolantTimeout => Sys2Proof.Machine.execCoolantTimeout s
  | .telemetryRefresh rateA rateB => Sys2Proof.Machine.execTelemetryRefresh rateA rateB s
  | .energyRefresh energies => Sys2Proof.Machine.execEnergyRefresh energies s
  | .lifetimeHourly => Sys2Proof.Machine.execLifetimeHourly s
  | .ptmDialogue ok hostTime => Sys2Proof.Machine.execPtmDialogue ok hostTime s
  | .vaonApplied => Sys2Proof.Machine.execVaonApplied s
  | .pkgRstInput => Sys2Proof.Machine.execPkgRstInput s
  | .perst => Sys2Proof.Machine.execPerst s
  | .bootMgmtDone badImages badCopies => Sys2Proof.Machine.execBootMgmtDone badImages badCopies s
  | .bootNetDone answers => Sys2Proof.Machine.execBootNetDone answers s
  | .bootMemDone badRows badPcs trained silent => Sys2Proof.Machine.execBootMemDone badRows badPcs trained silent s
  | .bootLinkDone badLanes lateEngines trained silent => Sys2Proof.Machine.execBootLinkDone badLanes lateEngines trained silent s
  | .bootCoreDone failing badSeasons => Sys2Proof.Machine.execBootCoreDone failing badSeasons s
  | .checkDone => Sys2Proof.Machine.execCheckDone s
  | .bootPhaseLimit answers out => Sys2Proof.Machine.execBootPhaseLimit answers out s
  | .powerGoodReturn group => Sys2Proof.Machine.execPowerGoodReturn group s
  | .powerGoodTimeout group => Sys2Proof.Machine.execPowerGoodTimeout group s
  | .powerGoodLost group => Sys2Proof.Machine.execPowerGoodLost group s
  | .vaonLost => Sys2Proof.Machine.execVaonLost s
  | .enableRetry => Sys2Proof.Machine.execEnableRetry s
  | .qctlWriteBusy fn => Sys2Proof.Machine.execQctlWriteBusy fn s
  | .dbellConfigWrite fn offset size value => Sys2Proof.Machine.execDbellConfigWrite fn offset size value s
  | .logpControlWrite value => Sys2Proof.Machine.execLogpControlWrite value s
  | .setupLockWrite value => Sys2Proof.Machine.execSetupLockWrite value s
  | .bwMissClear fn part value => Sys2Proof.Machine.execBwMissClear fn part value s
  | .reg64LowRead fn offset => Sys2Proof.Machine.execReg64LowRead fn offset s
  | .registerWrite fn offset size value => Sys2Proof.Machine.execRegisterWrite fn offset size value s
  | .lossOfLight port => Sys2Proof.Machine.execLossOfLight port s
  | .lightDetected port => Sys2Proof.Machine.execLightDetected port s
  | .laserInputRestored engine => Sys2Proof.Machine.execLaserInputRestored engine s
  | .guestLinkUp => Sys2Proof.Machine.execGuestLinkUp s
  | .resetInputRelease input => Sys2Proof.Machine.execResetInputRelease input s
  | .busMasterEnable fn on => Sys2Proof.Machine.execBusMasterEnable fn on s
  | .negotiatedWidthChange width => Sys2Proof.Machine.execNegotiatedWidthChange width s
  | .laneRecalibration bundle dir lane => Sys2Proof.Machine.execLaneRecalibration bundle dir lane s

end Sys2Proof.Machine
end

