-- ==== Sys2Proof/WellFormed.lean ====
section
/-! DEFINITION. Which commands are well formed: every number that names a thing of the package lies in its range. -/

namespace Sys2Proof

/-- A number below the count of the things it names. -/
def below (n v : Nat) : Bool := decide (v < n)
/-- A PCIe function: 0 is PF0 and 1-16 are the VFs (R38). -/
def fnOk (f : Nat) : Bool := decide (f < 17)
/-- A VF, not PF0. -/
def posOk (v : Nat) : Bool := decide (0 < v)
/-- A resource code of R342. -/
def resOk (r : Nat) : Bool :=
  decide (r < 8) || r == 0x10 || r == 0x11 || decide (0x100 ≤ r ∧ r < 0x120) || r == 0x200 || r == 0x201
/-- A PCIe link width. -/
def widthOk (w : Nat) : Bool := [1, 2, 4, 8, 16].contains w

/-- Whether every number of a command lies in its range. -/
def Instr.wf : Instr → Bool
  | .pollingPass _ _ => true
  | .hotIdleEvict q => below 65536 q
  | .descriptorStart _ => true
  | .descriptorComplete _ => true
  | .irqCoalTimer q => below 65536 q
  | .queueEnable fn q => fnOk fn && below 65536 q
  | .queueDisable fn q => fnOk fn && below 65536 q
  | .queueClear fn q => fnOk fn && below 65536 q
  | .queueDrainDone q => below 65536 q
  | .aqEnable => true
  | .aqDisable => true
  | .vfFlr vf => fnOk vf && posOk vf
  | .pf0Flr => true
  | .identify _ => true
  | .vfBind _ => true
  | .vfUnbind _ => true
  | .vfUnbindDone vf => fnOk vf && posOk vf
  | .eventWait _ => true
  | .partCreate _ => true
  | .partDestroy _ => true
  | .partReset _ => true
  | .partState _ => true
  | .partStateDone p => below 16 p
  | .pkgState _ => true
  | .levelSlewDone => true
  | .readyDrainTimeout => true
  | .powerCap _ => true
  | .tripAck _ => true
  | .bwRegister _ => true
  | .bwRelease _ => true
  | .bwMonitor _ => true
  | .store _ _ => true
  | .settingWrite _ => true
  | .settingRead _ => true
  | .ownerMsgClaim _ _ => true
  | .ownerMsgPolicy _ _ => true
  | .ownerMsgPairing _ _ => true
  | .ownerMsgDebug _ _ => true
  | .ownerMsgKeyRelease _ => true
  | .debugEntered => true
  | .zeroFillDone p => below 16 p
  | .fwStage _ => true
  | .fwActivate _ => true
  | .liveActivationCheck _ => true
  | .topoRead _ => true
  | .topoAccept _ _ => true
  | .reset _ => true
  | .holidayGrant _ => true
  | .holidayExpire => true
  | .selftest _ => true
  | .calibrate _ => true
  | .testDone _ => true
  | .retirePage _ => true
  | .retireBank _ => true
  | .retireMoveDone _ => true
  | .snapArm _ => true
  | .snapTrigger _ => true
  | .equinoxInput => true
  | .snapRead _ => true
  | .copy _ => true
  | .fill _ => true
  | .toHost _ => true
  | .fromHost _ => true
  | .map _ => true
  | .unmap _ => true
  | .tpoolAdd _ => true
  | .matmul _ _ => true
  | .conv1d _ _ => true
  | .conv2d _ _ => true
  | .laneModeChange core => below 512 core
  | .chain _ _ => true
  | .softmax _ _ => true
  | .sample _ _ => true
  | .attend _ _ => true
  | .poolRestart _ => true
  | .nearList _ => true
  | .acc _ => true
  | .orderedStagingGrant stack => below 8 stack
  | .windowOpen stack pc group _ => below 8 stack && below 64 pc && below 8 group
  | .windowClose stack pc group _ => below 8 stack && below 64 pc && below 8 group
  | .windowCut stack pc group _ => below 8 stack && below 64 pc && below 8 group
  | .bankGroupRefresh stack pc group => below 8 stack && below 64 pc && below 8 group
  | .rotaBind _ => true
  | .rotaUnbind _ => true
  | .run _ => true
  | .stepRelease _ => true
  | .rotaEntryDispatch _ => true
  | .stepCommit _ _ _ _ => true
  | .trickleCfg _ => true
  | .trickleSave _ => true
  | .trickleResume _ => true
  | .trickleTimeout _ => true
  | .seqOpen _ => true
  | .seqClose _ => true
  | .seqFork _ => true
  | .seqRead _ => true
  | .kvHeldResume slot => below 32768 slot
  | .poolConfig _ => true
  | .poolAdd _ => true
  | .swapOut _ => true
  | .swapOutDone slot => below 32768 slot
  | .swapIn _ => true
  | .swapInDone slot => below 32768 slot
  | .syncNop _ => true
  | .syncAdd _ => true
  | .syncWaitAll _ => true
  | .syncPair _ => true
  | .syncUnpair _ => true
  | .syncRead _ => true
  | .signalAdd p c _ => below 16 p && below 1024 c
  | .remoteRead _ => true
  | .remoteWrite _ => true
  | .remoteAtomic _ => true
  | .remoteSignal _ => true
  | .winExport _ => true
  | .winUnexport _ => true
  | .winUnexportDone _ => true
  | .winImport _ => true
  | .winUnimport _ => true
  | .sealIn _ => true
  | .sealOut _ => true
  | .kat _ _ => true
  | .repairRead _ => true
  | .rowRemap _ => true
  | .ppr _ _ => true
  | .tap _ => true
  | .engineCtrl _ => true
  | .arrayRead _ _ => true
  | .scanDump _ => true
  | .memoryAccess _ => true
  | .scrubRead _ _ => true
  | .scrubLag => true
  | .ceLeak => true
  | .grantReturn port cls res => below 32 port && below 6 cls && resOk res
  | .heldRequestRelease res => resOk res
  | .prefetchDrop _ => true
  | .requestDeadlinePass _ => true
  | .capacityRecompute res => resOk res
  | .missInterval _ => true
  | .guaranteeMissedWindow _ => true
  | .frameReceive bundle dir _ => below 24 bundle && below 2 dir
  | .laneRetire bundle dir lane => below 24 bundle && below 2 dir && below 68 lane
  | .liningMessage link _ _ _ _ => below 22 link
  | .dieLost die => below 4 die
  | .dieResetInput die => below 4 die
  | .dieBack die _ _ => below 4 die
  | .refclkLost tower => below 2 tower
  | .refclkRestored tower => below 2 tower
  | .cuffRead _ window _ _ => below 16 window
  | .cuffWrite _ window _ _ => below 16 window
  | .cuffSignal _ slot _ => below 64 slot
  | .cuffCread _ slot => below 64 slot
  | .cuffWatch _ slot _ => below 64 slot
  | .guestLinkDown => true
  | .flitReceive port _ => below 32 port
  | .portTrainTimeout port => below 32 port
  | .portTrainDone port => below 32 port
  | .hello port _ _ _ _ => below 32 port
  | .auth port _ _ _ => below 32 port
  | .topo port _ _ _ _ _ => below 32 port
  | .keyReplace port dir => below 32 port && below 2 dir
  | .ringRecalibrate port line _ => below 32 port && below 16 line
  | .laserLineLow engine line => below 8 engine && below 16 line
  | .laserLineRestored engine line => below 8 engine && below 16 line
  | .laserLost engine => below 8 engine
  | .wavelengthRetire port wave => below 32 port && below 16 wave
  | .rd port _ => below 32 port
  | .rdData port _ => below 32 port
  | .wr port _ => below 32 port
  | .wrAck port _ => below 32 port
  | .atom port _ => below 32 port
  | .atomAck port _ => below 32 port
  | .sig port _ => below 32 port
  | .sigAck port _ => below 32 port
  | .impQ port _ => below 32 port
  | .impR port _ => below 32 port
  | .rdResend _ => true
  | .remoteRetry _ => true
  | .neighbourLost _ => true
  | .tdiLeaveRun vf => fnOk vf && posOk vf
  | .getVersion _ => true
  | .getCapabilities _ _ => true
  | .negotiateAlgorithms _ _ _ _ _ => true
  | .getDigests _ => true
  | .getCertificate _ _ _ _ => true
  | .challenge _ _ _ => true
  | .getMeasurements _ _ _ _ => true
  | .keyExchange _ _ => true
  | .finish _ _ _ => true
  | .keyUpdate _ => true
  | .heartbeat _ => true
  | .endSession _ => true
  | .vendorDefinedRequest _ _ _ => true
  | .getIdentity => true
  | .getState => true
  | .getTelemetry => true
  | .getLog _ => true
  | .getLifetime => true
  | .sliceCopyDone core _ _ _ => below 512 core
  | .staleSpeaker site _ => below 544 site
  | .spareTest site _ => below 544 site
  | .mittenWatchdog => true
  | .gauntletWatchdog => true
  | .thermalModelUpdate _ _ _ => true
  | .thermalLimiterTick tower => below 2 tower
  | .thermalCapCompute tower => below 2 tower
  | .offsetAdjust tower => below 2 tower
  | .sensorCheck _ _ => true
  | .hostLimiterTick => true
  | .almanacForecast tower _ _ _ => below 2 tower
  | .imonSample _ _ => true
  | .coolantTimeout => true
  | .telemetryRefresh _ _ => true
  | .energyRefresh _ => true
  | .lifetimeHourly => true
  | .ptmDialogue _ _ => true
  | .vaonApplied => true
  | .pkgRstInput => true
  | .perst => true
  | .bootMgmtDone _ _ => true
  | .bootNetDone _ => true
  | .bootMemDone _ _ _ _ => true
  | .bootLinkDone _ _ _ _ => true
  | .bootCoreDone _ _ => true
  | .checkDone => true
  | .bootPhaseLimit _ _ => true
  | .powerGoodReturn group => below 5 group
  | .powerGoodTimeout group => below 5 group
  | .powerGoodLost group => below 5 group
  | .vaonLost => true
  | .enableRetry => true
  | .qctlWriteBusy fn => fnOk fn
  | .dbellConfigWrite fn _ _ _ => fnOk fn
  | .logpControlWrite _ => true
  | .setupLockWrite _ => true
  | .bwMissClear fn part _ => fnOk fn && below 16 part
  | .reg64LowRead fn _ => fnOk fn
  | .registerWrite fn _ _ _ => fnOk fn
  | .lossOfLight port => below 32 port
  | .lightDetected port => below 32 port
  | .laserInputRestored engine => below 8 engine
  | .guestLinkUp => true
  | .resetInputRelease input => below 5 input
  | .busMasterEnable fn _ => fnOk fn
  | .negotiatedWidthChange width => widthOk width
  | .laneRecalibration bundle dir lane => below 24 bundle && below 2 dir && below 68 lane

end Sys2Proof
end

