-- ==== Sys2Proof/Safety.lean ====
section
/-! DEFINITION. What the statements call a sound state of the block, and what they say a command leaves alone. -/

namespace Sys2Proof.Machine

/-- Host memory and device memory in their canonical form. -/
def State.memOk (s : State) : Prop := memWf s.host = true ∧ memWf s.mem.bytes = true

/-- Whether an outcome is a next state that satisfies P. -/
def nextWith (o : Host.Outcome State Fault Refusal) (P : State → Prop) : Prop := ∃ t, o = .next t ∧ P t

/-- Descriptor d is held as f, has started, and carries the opcode op. -/
abbrev Runs (s : State) (d op : Nat) (f : Flight) : Prop := getF s d = some f ∧ f.phase = .started ∧ f.opcode = op

/-- Descriptor d is held with a status and an extra field. -/
abbrev HasStatus (t : State) (d st extra : Nat) : Prop :=
  (getF t d).map (fun g => (g.status, g.extra)) = some (st, extra)

/-- The state in which a polling pass reads: the host's stores are visible, and the failing ranges are those of now. -/
def afterStores (stores : List HostStore) (failing : List (Nat × Nat)) (s : State) : State :=
  { s with host := stores.foldl (fun m x => mwriteN m x.addr x.bytes) s.host, hostFail := failing }

/-! Which commands may reach which part of the state; every other command leaves it alone. -/

/-- Commands that may write a byte of device memory or make or clear its poison: those that write their results or a
table, a page or a swap image, that take work back, that answer for a neighbour, and the resets. -/
def reachesDeviceMemory : Instr → Bool
  | .descriptorComplete .. | .vfFlr .. | .pf0Flr .. | .vfUnbind .. | .partCreate .. | .partDestroy ..
  | .partReset .. | .partState .. | .pkgState .. | .readyDrainTimeout .. | .ownerMsgClaim ..
  | .ownerMsgPairing .. | .ownerMsgDebug .. | .zeroFillDone .. | .reset .. | .holidayGrant ..
  | .holidayExpire .. | .selftest .. | .calibrate .. | .testDone .. | .retirePage .. | .retireBank ..
  | .copy .. | .fill .. | .toHost .. | .fromHost .. | .map .. | .unmap .. | .matmul .. | .conv1d ..
  | .conv2d .. | .chain .. | .softmax .. | .sample .. | .attend .. | .poolRestart .. | .acc ..
  | .orderedStagingGrant .. | .windowClose .. | .windowCut .. | .run .. | .stepRelease ..
  | .rotaEntryDispatch .. | .stepCommit .. | .trickleSave .. | .trickleTimeout .. | .seqClose ..
  | .seqFork .. | .seqRead .. | .kvHeldResume .. | .poolConfig .. | .swapOutDone .. | .swapInDone ..
  | .syncRead .. | .sealIn .. | .sealOut .. | .kat .. | .rowRemap .. | .arrayRead .. | .memoryAccess ..
  | .scrubRead .. | .heldRequestRelease .. | .frameReceive .. | .laneRetire .. | .dieLost ..
  | .dieResetInput .. | .dieBack .. | .refclkLost .. | .cuffRead .. | .cuffWrite .. | .flitReceive ..
  | .rdData .. | .wr .. | .wrAck .. | .atom .. | .atomAck .. | .sig .. | .sigAck .. | .impR ..
  | .remoteRetry .. | .neighbourLost .. | .tdiLeaveRun .. | .endSession .. | .vendorDefinedRequest ..
  | .sliceCopyDone .. | .thermalModelUpdate .. | .imonSample .. | .coolantTimeout .. | .vaonApplied ..
  | .pkgRstInput .. | .perst .. | .bootNetDone .. | .bootMemDone .. | .bootLinkDone .. | .bootPhaseLimit ..
  | .powerGoodTimeout .. | .powerGoodLost .. | .vaonLost .. => true
  | _ => false

/-- Commands that may change the owner policy: the owner's messages, and bring-up, which loads the record
(R419-R425, R530). -/
def reachesPolicy : Instr → Bool
  | .ownerMsgClaim .. | .ownerMsgPolicy .. | .ownerMsgPairing .. | .ownerMsgDebug .. | .bootMgmtDone ..
  | .bootPhaseLimit .. => true
  | _ => false

/-- Commands that may change the table of keys: those that make, release, use up or destroy them, and the package
resets (R417, R434). -/
def reachesKeys : Instr → Bool
  | .partCreate .. | .partDestroy .. | .ownerMsgClaim .. | .ownerMsgDebug .. | .ownerMsgKeyRelease ..
  | .reset .. | .snapRead .. | .sealOut .. | .vaonApplied .. | .pkgRstInput .. | .perst ..
  | .powerGoodLost .. | .vaonLost .. => true
  | _ => false

/-- Commands that may change a firmware slot, its arming or its fuse (R536-R541). -/
def reachesImages : Instr → Bool
  | .tripAck .. | .fwStage .. | .fwActivate .. | .liveActivationCheck .. | .mittenWatchdog ..
  | .thermalModelUpdate .. | .bootMgmtDone .. | .bootMemDone .. | .bootLinkDone .. | .checkDone ..
  | .bootPhaseLimit .. => true
  | _ => false

/-- Commands that may change a logical core's column: repair, tests, bring-up and the resets (R30, R472-R475). -/
def reachesBindings : Instr → Bool
  | .reset .. | .holidayGrant .. | .holidayExpire .. | .testDone .. | .matmul .. | .conv1d .. | .conv2d ..
  | .chain .. | .softmax .. | .sample .. | .attend .. | .windowClose .. | .windowCut .. | .kat ..
  | .rowRemap .. | .arrayRead .. | .memoryAccess .. | .scrubRead .. | .heldRequestRelease .. | .dieBack ..
  | .cuffRead .. | .cuffWrite .. | .sliceCopyDone .. | .vaonApplied .. | .pkgRstInput .. | .perst ..
  | .bootMemDone .. | .bootCoreDone .. | .bootPhaseLimit .. | .powerGoodLost .. | .vaonLost .. => true
  | _ => false

/-- Commands that may change a VF's binding or its TDI (R41, R78, R431-R433). -/
def reachesVfs : Instr → Bool
  | .pf0Flr .. | .vfBind .. | .vfUnbind .. | .vfUnbindDone .. | .ownerMsgClaim .. | .ownerMsgDebug ..
  | .reset .. | .tdiLeaveRun .. | .endSession .. | .vendorDefinedRequest .. | .vaonApplied ..
  | .pkgRstInput .. | .perst .. | .powerGoodLost .. | .vaonLost .. => true
  | _ => false

/-- Commands that may change the registers of ADMINQ and IRQ or SETUP_LOCK (R590, R592, R597). -/
def reachesRegs : Instr → Bool
  | .aqEnable .. | .vfFlr .. | .pf0Flr .. | .reset .. | .vaonApplied .. | .pkgRstInput .. | .perst ..
  | .powerGoodLost .. | .vaonLost .. | .setupLockWrite .. | .registerWrite .. | .negotiatedWidthChange .. => true
  | _ => false

/-- Commands that may change the time base or its alignment (R8, R373, R601). -/
def reachesTime : Instr → Bool
  | .reset .. | .refclkLost .. | .refclkRestored .. | .ptmDialogue .. | .vaonApplied .. | .pkgRstInput ..
  | .perst .. | .powerGoodLost .. | .vaonLost .. | .registerWrite .. => true
  | _ => false

/-- Commands that may change a sync counter or a pair: those that signal, the SYNC family, and what clears a
partition (R298-R313). -/
def reachesCounters : Instr → Bool
  | .descriptorComplete .. | .vfFlr .. | .pf0Flr .. | .vfUnbind .. | .partCreate .. | .partDestroy ..
  | .partReset .. | .ownerMsgClaim .. | .ownerMsgDebug .. | .reset .. | .syncAdd .. | .syncPair ..
  | .syncUnpair .. | .signalAdd .. | .cuffSignal .. | .flitReceive .. | .wr .. | .atom .. | .sig ..
  | .tdiLeaveRun .. | .endSession .. | .vendorDefinedRequest .. | .vaonApplied .. | .pkgRstInput ..
  | .perst .. | .powerGoodLost .. | .vaonLost .. => true
  | _ => false

/-- Commands that may change the package state, a level, a trip cause or a power group (R484-R509, R608-R614). -/
def reachesPower : Instr → Bool
  | .descriptorComplete .. | .pf0Flr .. | .pkgState .. | .levelSlewDone .. | .readyDrainTimeout ..
  | .powerCap .. | .tripAck .. | .store .. | .topoAccept .. | .reset .. | .dieResetInput ..
  | .thermalModelUpdate .. | .imonSample .. | .coolantTimeout .. | .vaonApplied .. | .pkgRstInput ..
  | .perst .. | .bootMgmtDone .. | .bootNetDone .. | .bootMemDone .. | .checkDone .. | .bootPhaseLimit ..
  | .powerGoodReturn .. | .powerGoodTimeout .. | .powerGoodLost .. | .vaonLost .. | .enableRetry ..
  | .resetInputRelease .. => true
  | _ => false

/-- Commands that may change a reading, a limiter or the coolant's state (R488-R511). -/
def reachesHeat : Instr → Bool
  | .powerCap .. | .tripAck .. | .reset .. | .testDone .. | .thermalModelUpdate .. | .thermalLimiterTick ..
  | .thermalCapCompute .. | .offsetAdjust .. | .sensorCheck .. | .hostLimiterTick .. | .almanacForecast ..
  | .imonSample .. | .telemetryRefresh .. | .vaonApplied .. | .pkgRstInput .. | .perst .. | .bootMgmtDone ..
  | .bootNetDone .. | .bootPhaseLimit .. | .powerGoodReturn .. | .powerGoodLost .. | .vaonLost .. => true
  | _ => false

/-- Commands that may change the Cuff's tables, watches or replies (R376-R380). -/
def reachesCuff : Instr → Bool
  | .descriptorComplete .. | .vfFlr .. | .pf0Flr .. | .vfUnbind .. | .partDestroy .. | .ownerMsgClaim ..
  | .ownerMsgPolicy .. | .ownerMsgDebug .. | .reset .. | .syncAdd .. | .signalAdd .. | .cuffRead ..
  | .cuffWrite .. | .cuffSignal .. | .cuffCread .. | .cuffWatch .. | .guestLinkDown .. | .flitReceive ..
  | .wr .. | .atom .. | .sig .. | .tdiLeaveRun .. | .endSession .. | .vendorDefinedRequest ..
  | .vaonApplied .. | .pkgRstInput .. | .perst .. | .bootMgmtDone .. | .bootPhaseLimit .. | .powerGoodLost ..
  | .vaonLost .. | .guestLinkUp .. => true
  | _ => false

/-- Commands that may change the open Holiday or the tests (R559-R564). -/
def reachesHoliday : Instr → Bool
  | .pf0Flr .. | .partDestroy .. | .ownerMsgClaim .. | .ownerMsgDebug .. | .reset .. | .holidayGrant ..
  | .holidayExpire .. | .selftest .. | .calibrate .. | .testDone .. | .thermalModelUpdate ..
  | .thermalLimiterTick .. | .thermalCapCompute .. | .sensorCheck .. | .hostLimiterTick ..
  | .almanacForecast .. | .imonSample .. | .coolantTimeout .. | .vaonApplied .. | .pkgRstInput .. | .perst ..
  | .powerGoodLost .. | .vaonLost .. => true
  | _ => false

/-- Commands that may change the dense fabric, the Lining, a die or a reference clock (R359-R372). -/
def reachesFabric : Instr → Bool
  | .reset .. | .memoryAccess .. | .frameReceive .. | .laneRetire .. | .liningMessage .. | .dieLost ..
  | .dieResetInput .. | .dieBack .. | .refclkLost .. | .refclkRestored .. | .vaonApplied .. | .pkgRstInput ..
  | .perst .. | .bootMgmtDone .. | .bootNetDone .. | .bootMemDone .. | .bootLinkDone .. | .bootPhaseLimit ..
  | .powerGoodTimeout .. | .powerGoodLost .. | .vaonLost .. | .laneRecalibration .. => true
  | _ => false

/-- Commands that may change a record of the store (R530-R535). -/
def reachesRecords : Instr → Bool
  | .partDestroy .. | .store .. | .settingWrite .. | .ownerMsgClaim .. | .ownerMsgPolicy ..
  | .ownerMsgPairing .. | .ownerMsgDebug .. | .ownerMsgKeyRelease .. | .zeroFillDone .. | .topoAccept ..
  | .reset .. | .testDone .. | .memoryAccess .. | .dieBack .. | .sliceCopyDone .. | .lifetimeHourly ..
  | .vaonApplied .. | .pkgRstInput .. | .perst .. | .bootMgmtDone .. | .bootMemDone .. | .bootLinkDone ..
  | .bootCoreDone .. | .bootPhaseLimit .. | .powerGoodLost .. => true
  | _ => false

end Sys2Proof.Machine
end

