-- ==== Sys2Proof/Certificates/Slice0/Obligations.lean ====
section
/-! DEFINITION. The statements of this package, one definition each: what a command does to the state, what every step
keeps, and what no command changes. -/

open Sys2Proof Sys2Proof.Machine

/-- A step takes the command at the front of the queue and runs it with the queue's rest. The queue is the model's
own (assumption 1). -/
def Obligations.AStepRunsTheCommandAtTheFront : Prop :=
  ∀ (c : Instr) (r : List Instr) (s : State),
    step { s with pending := c :: r } = exec c { s with pending := r }

/-- An idle step is one nanosecond of the time base (R8); the tick itself is the model's choice (assumption 1). -/
def Obligations.AnIdleStepAdvancesTheTimeBase : Prop :=
  ∀ (s : State),
    s.pending = [] →
    s.fab.refBack = [] →
    s.time.slew = 0 →
    ∃ t, step s = .next t ∧ t.time.now = (s.time.now + 1) % 2 ^ 64 ∧ t = { s with time := t.time }

/-- Invariant: the canonical form of host and device memory, which makes equal memories equal data (assumption 2). -/
def Obligations.EveryStepKeepsTheMemoriesCanonical : Prop :=
  ∀ (s t : State),
    s.memOk →
    step s = .next t →
    t.memOk

/-- A command has no effect on the queue of waiting commands, and the guest site, which is a property of the part,
never changes. -/
def Obligations.NoCommandTouchesTheQueueOrTheGuestSite : Prop :=
  ∀ (c : Instr) (s t : State),
    exec c s = .next t →
    t.pending = s.pending ∧ t.guestSite = s.guestSite

/-- Frame of device memory: a command outside the list writes no byte and makes or clears no poison. -/
def Obligations.OtherCommandsLeaveDeviceMemoryAlone : Prop :=
  ∀ (c : Instr) (s t : State),
    reachesDeviceMemory c = false →
    exec c s = .next t →
    (∀ a, mread t.mem.bytes a = mread s.mem.bytes a) ∧ t.mem.poison = s.mem.poison

/-- Whole-machine rule: who may change the owner policy (R419-R425), the keys (R417, R434), the firmware slots
(R536-R541), the VF bindings (R41, R431-R433) and the records of the store (R530-R535). -/
def Obligations.OnlyTheNamedCommandsChangeWhatTheOwnerTrusts : Prop :=
  ∀ (c : Instr) (s t : State),
    exec c s = .next t →
    (reachesPolicy c = false → t.gnt.policy = s.gnt.policy) ∧
      (reachesKeys c = false → t.gnt.keys = s.gnt.keys) ∧
      (reachesImages c = false → t.mgmt.fw = s.mgmt.fw) ∧
      (reachesVfs c = false → t.vfs = s.vfs) ∧
      (reachesRecords c = false → t.mgmt.records = s.mgmt.records)

/-- Frame of every command over the control state: a part changes only by the commands of its list. -/
def Obligations.OnlyTheNamedCommandsChangeTheMachinesControls : Prop :=
  ∀ (c : Instr) (s t : State),
    exec c s = .next t →
    (reachesRegs c = false → t.regs = s.regs) ∧
      (reachesTime c = false → t.time = s.time) ∧
      (reachesCounters c = false → t.sync = s.sync) ∧
      (reachesBindings c = false → t.flt.bindings = s.flt.bindings) ∧
      (reachesPower c = false → t.pwr = s.pwr) ∧
      (reachesHeat c = false → t.th = s.th) ∧
      (reachesCuff c = false → t.cuff = s.cuff) ∧
      (reachesHoliday c = false → t.hol = s.hol) ∧
      (reachesFabric c = false → t.fab = s.fab)

/-- Local law of both memories: read after write, and the frame of a write (R40, R48, R459). -/
def Obligations.AWriteReadsBackAndLeavesTheRestAlone : Prop :=
  (∀ (s : State) (pa : Nat) (bs : List Byte),
      pread (pwrite s pa bs) pa bs.length = bs ∧
      ∀ a, (a < pa ∨ pa + bs.length ≤ a) → mread (pwrite s pa bs).mem.bytes a = mread s.mem.bytes a)
  ∧ (∀ (s : State) (a : Nat) (bs : List Byte),
      hostBad s a bs.length = false →
      hread (hwrite s a bs) a bs.length = some bs ∧
      ∀ i, (i < a ∨ a + bs.length ≤ i) → mread (hwrite s a bs).host i = mread s.host i)
  ∧ (∀ (s : State) (a : Nat) (bs : List Byte),
      hostBad s a bs.length = true →
      hwrite s a bs = s)

/-- Ownership is exclusive (R180, R181). -/
def Obligations.MemoryBelongsToOnePartition : Prop :=
  ∀ (s : State) (p q pa : Nat),
    p < 16 →
    q < 16 →
    owns s p pa false = true →
    owns s q pa false = true →
    p = q

/-- Isolation of stores: translation with the check of R193 admits a write only to memory the partition owns, or to
the library for its writer (R181, R190-R196, R428). -/
def Obligations.AStoreStaysInTheMemoryOfItsPartition : Prop :=
  ∀ (s t : State) (cx : Cx) (va : Nat) (bs : List Byte) (a : Nat),
    vwrite s cx va bs = .ok t →
    mread t.mem.bytes a ≠ mread s.mem.bytes a →
    ∃ i, i < bs.length ∧ xlate s cx.part (va + i) = .ok (.loc a true) ∧ backed s a = true ∧ pageRetired s a = false ∧
      s.mem.tableTag.contains (frameNo a) = false ∧
      (owns s cx.part a false = true ∨ inLibrary (va + i) = true)

/-- Queue operations (R43, R44, R46, R59, R594). Their frame: host memory and the queue engine alone change. -/
def Obligations.QueueOperationsMoveAQueueBetweenItsStates : Prop :=
  (∀ (s : State) (fn q : Nat) (b pb : List Byte) (x : Part),
      q ≠ 0 →
      queueFn s q = fn →
      bootEnded s = true →
      (getQ s q).st = .disabled →
      (getFn s fn).qtValid = true →
      (getFn s fn).dbValid = true →
      hread s ((getFn s fn).qtBase + 64 * (q - if fn = 0 then 0 else 64 * ((tfind s.vfs fn).map (·.firstGroup)).getD 0)) 64 = some b →
      entryBad fn b = false →
      getP s (fld b 0x1A 1) = some x →
      (if fn = 0 then x.sealed = false ∧ bit (getRule s (fld b 0x1A 1)).flags 3 = true
        else ((tfind s.vfs fn).getD {}).part = fld b 0x1A 1 ∧ (x.sealed = true → ((tfind s.vfs fn).getD {}).tdi = 3 ∧ streamOn s fn = true)) →
      hread s (fld b 0x10 8) 4 = some pb →
      ∃ t, exec (.queueEnable fn q) s = .next t ∧ t = { s with host := t.host, qe := t.qe } ∧
        getQ t q = { st := .enabled, fn := fn, sqBase := fld b 0 8, cqBase := fld b 8 8, rcb := fld b 0x10 8
                     sqLog2 := fld b 0x18 1, cqLog2 := fld b 0x19 1, part := fld b 0x1A 1, classMask := fld b 0x1B 1
                     vector := fld b 0x1C 2, coalCount := fld b 0x1E 1, coalTime := fld b 0x20 2
                     irqEn := bit (fld b 0x22 2) 0, skipOk := bit (fld b 0x22 2) 1
                     sqCons := leNat pb, prodSeen := leNat pb } ∧
        (getFn t fn).qctlResult = 0 ∧ (getFn t fn).qlast = q ∧ t.qe.flights = s.qe.flights)
  ∧ (∀ (s : State) (fn q : Nat),
      q ≠ 0 →
      queueFn s q = fn →
      bootEnded s = true →
      (getQ s q).st = .enabled ∨ (getQ s q).st = .error →
      ∃ t, exec (.queueDisable fn q) s = .next t ∧ t = { s with host := t.host, qe := t.qe } ∧ (getQ t q).st = .draining ∧ q ∉ t.qe.hot ∧
        (getFn t fn).qctlResult = 0 ∧ (getFn t fn).qlast = q ∧ t.qe.flights = s.qe.flights)
  ∧ (∀ (s : State) (fn q : Nat),
      q ≠ 0 →
      queueFn s q = fn →
      bootEnded s = true →
      (getQ s q).st = .error →
      ∃ t, exec (.queueClear fn q) s = .next t ∧ t = { s with host := t.host, qe := t.qe } ∧ (getQ t q).st = .draining ∧ q ∉ t.qe.hot ∧
        (getFn t fn).qctlResult = 0 ∧ (getFn t fn).qlast = q ∧ t.qe.flights = s.qe.flights)
  ∧ (∀ (s : State) (q : Nat),
      (getQ s q).st = .draining →
      (s.qe.flights.filter fun e => e.2.q == q) = [] →
      ∃ t, exec (.queueDrainDone q) s = .next t ∧ t = { s with host := t.host, qe := t.qe } ∧ (getQ t q).st = .disabled ∧ (getQ t q).trickArea = 0 ∧
        (getQ t q).trickCells = 0 ∧ t.qe.flights = s.qe.flights)

/-- AQ_ENABLE and AQ_DISABLE (R592, R44), VF_FLR (R81, R589), PF0_FLR (R82, R589). -/
def Obligations.FunctionQueuesAreSetUpAndReset : Prop :=
  (∀ (s : State) (pb : List Byte),
      (getQ s 0).st = .disabled →
      4 ≤ s.regs.aqSqLog2 →
      s.regs.aqSqLog2 ≤ 12 →
      4 ≤ s.regs.aqCqLog2 →
      s.regs.aqCqLog2 ≤ 12 →
      (getFn s 0).dbValid = true →
      hread s s.regs.aqRcb 4 = some pb →
      ∃ t, exec .aqEnable s = .next t ∧ t = { s with host := t.host, qe := t.qe } ∧
        getQ t 0 = { st := .enabled, fn := 0, sqBase := s.regs.aqSqBase, cqBase := s.regs.aqCqBase, rcb := s.regs.aqRcb
                     sqLog2 := s.regs.aqSqLog2, cqLog2 := s.regs.aqCqLog2, part := 0xFF, classMask := 0xFF
                     coalCount := s.regs.aqCoalCount, coalTime := s.regs.aqCoalTime, irqEn := true
                     sqCons := leNat pb, prodSeen := leNat pb })
  ∧ (∀ (s : State),
      (getQ s 0).st = .enabled ∨ (getQ s 0).st = .error →
      ∃ t, exec .aqDisable s = .next t ∧ t = { s with host := t.host, qe := t.qe } ∧ (getQ t 0).st = .draining ∧ 0 ∉ t.qe.hot ∧ t.qe.flights = s.qe.flights)
  ∧ (∀ (s : State) (vf : Nat),
      0 < vf →
      vf ≤ 16 →
      ∃ t, exec (.vfFlr vf) s = .next t ∧ getFn t vf = {} ∧ t.vfs = s.vfs ∧
        ∀ q ∈ activeQueues s vf, (getQ t q).st = .disabled ∧ q ∉ t.qe.hot)
  ∧ (∀ (s : State),
      ∃ t, exec .pf0Flr s = .next t ∧ t.vfs = tmap s.vfs (fun _ v => { v with unbindBy := none }) ∧
        t.pwr = { s.pwr with drainAt := none, drainTo := none, slewTo := none } ∧ t.hol.deferred = [] ∧
        t.regs = { s.regs with aqSqBase := 0, aqCqBase := 0, aqRcb := 0, aqSqLog2 := 0, aqCqLog2 := 0, aqCfgErr := false
                               aqCoalCount := 1, aqCoalTime := 0 } ∧
        ∀ q ∈ activeQueues s 0, (getQ t q).st = .disabled ∧ q ∉ t.qe.hot)

/-- POLLING_PASS over the hot list (R47, R53, R56, R57). -/
def Obligations.PollingFetchesWhatTheHostHasPlaced : Prop :=
  ∀ (s : State) (stores : List HostStore) (failing : List (Nat × Nat)) (q : Nat) (b : List Byte),
    s.vfs = [] →
    s.qe.hot = [q] →
    s.qe.hotReads = 1 →
    0 < s.qe.hotSize →
    enabledQueues s 0 = [q] →
    (getFn s 0).allUndef = false →
    (getFn s 0).undef = [] →
    (∀ sec < 16, (hread (afterStores stores failing s) ((getFn s 0).dbBase + 8 * sec) 8).map leNat
      = some ((tfind (getFn s 0).seenSec sec).getD 0)) →
    (getQ s q).st = .enabled →
    fetchable s q = true →
    dueQueues s 0 = [] →
    hostBad (afterStores stores failing s) ((getQ s q).rcb + 0x20) 4 = false →
    hread (afterStores stores failing s) (getQ s q).rcb 4 = some b →
    leNat b ≠ (getQ s q).prodSeen →
    newCount (leNat b) (getQ s q).sqCons ≤ 2 ^ (getQ s q).sqLog2 →
    (∀ i < newCount (leNat b) (getQ s q).sqCons, (hread (afterStores stores failing s)
      ((getQ s q).sqBase + 64 * (((getQ s q).sqCons + i) % 2 ^ (getQ s q).sqLog2)) 64).isSome = true) →
    ∃ t, exec (.pollingPass stores failing) s = .next t ∧
      (getQ t q).sqCons = leNat b ∧ (getQ t q).prodSeen = leNat b ∧ t.hostFail = failing ∧
      t.qe.pollPasses = s.qe.pollPasses + 1 ∧
      t.qe.nextFlight = s.qe.nextFlight + newCount (leNat b) (getQ s q).sqCons ∧
      ∀ i < newCount (leNat b) (getQ s q).sqCons,
        (getF t (s.qe.nextFlight + i)).map (fun f => (f.q, f.slot, f.words, f.phase)) =
          (hread (afterStores stores failing s)
            ((getQ s q).sqBase + 64 * (((getQ s q).sqCons + i) % 2 ^ (getQ s q).sqLog2)) 64).map
            fun d => (q, ((getQ s q).sqCons + i) % 2 ^ (getQ s q).sqLog2, toWords d, FPhase.fetched)

/-- DESCRIPTOR_START (R49, R62, R63), DESCRIPTOR_COMPLETE (R69, R70), HOT_IDLE_EVICT (R56, R57) and IRQ_COAL_TIMER
(R72). -/
def Obligations.DescriptorsStartAndCompleteInTheirRings : Prop :=
  (∀ (s u : State) (d n : Nat) (f g : Flight),
      getF s d = some f →
      f.phase = .fetched →
      f.stepOf = none →
      headOfQueue s d f = true →
      startHeld s f = false →
      takeSlot s d f = (u, true) →
      getF u d = some g →
      headerCheck u g = none →
      startTarget u d g = .ok n →
      fenceMet u d g = true →
      startWait u g n = true →
      slotCheck u g = none →
      inIntake u d = false →
      intakeFree u d g = true →
      g.opcode ≠ 0x3001 →
      ∃ t, exec (.descriptorStart d) s = .next t ∧ getF t d = some { g with phase := .started } ∧
        t.qe = { u.qe with flights := t.qe.flights } ∧
        t = { u with qe := t.qe, flt := { u.flt with cores := t.flt.cores } } ∧
        ∀ c ∈ descCores u d g, d ∈ (getCore t c).intake)
  ∧ (∀ (s : State) (d : Nat) (f : Flight) (b : List Byte),
      f.reserved = false →
      hread s ((getQ s f.q).rcb + 8) 4 = some b →
      slotRoom s f.q (leNat b) = true →
      takeSlot s d f = (putF s d { f with reserved := true }, true) ∧ takeSlot s d { f with reserved := true } = (s, true))
  ∧ (∀ (s : State) (d : Nat) (f : Flight),
      getF s d = some f →
      f.phase = .ended →
      hasOut s d = false →
      recordRoom s f = true →
      f.opcode ≠ 0x3001 →
      f.stepOf = none →
      f.noRecord = false →
      f.fCmpl = true →
      f.fSignal = false →
      f.q ≠ 0 →
      f.opcode ≠ 0x7021 →
      f.absDeadline = none →
      s.pwr.drainTo = none →
      (getQ s f.q).irqEn = false →
      hostBad s ((getQ s f.q).cqBase + 16 * ((getQ s f.q).written % 2 ^ (getQ s f.q).cqLog2)) 16 = false →
      ∃ t, exec (.descriptorComplete d) s = .next t ∧ getF t d = none ∧
        hread t ((getQ s f.q).cqBase + 16 * ((getQ s f.q).written % 2 ^ (getQ s f.q).cqLog2)) 16 =
          some (recordBytes f ((getQ s f.q).written / 2 ^ (getQ s f.q).cqLog2 % 2 == 0)) ∧
        (getQ t f.q).written = ((getQ s f.q).written + 1) % 2 ^ 32 ∧
        t = { s with host := t.host, qe := t.qe, flt := { s.flt with cores := t.flt.cores } })
  ∧ (∀ (s : State) (q : Nat) (b : List Byte),
      q ∈ s.qe.hot →
      s.qe.hotIdle ≤ (getQ s q).idlePasses →
      hread s (getQ s q).rcb 4 = some b →
      leNat b = (getQ s q).prodSeen →
      hostBad s ((getQ s q).rcb + 0x24) 1 = false →
      ∃ t, exec (.hotIdleEvict q) s = .next t ∧ q ∉ t.qe.hot ∧ hread t ((getQ s q).rcb + 0x24) 1 = some [0] ∧
        t = { s with host := t.host, qe := t.qe } ∧ t.qe = { s.qe with hot := t.qe.hot, ctx := t.qe.ctx } ∧
        getQ t q = { getQ s q with checkDue := (getQ t q).checkDue } ∧ ∀ j, j ≠ q → getQ t j = getQ s j)
  ∧ (∀ (s : State) (q : Nat),
      (getQ s q).irqEn = true →
      0 < (getQ s q).pendingIrq →
      0 < (getQ s q).coalTime →
      (getQ s q).oldestPending + 1000 * (getQ s q).coalTime ≤ s.time.now →
      bit ((tfind (getFn s (queueFn s q)).msix (4 * (getQ s q).vector + 3)).getD 1) 0 = false →
      ∃ t, exec (.irqCoalTimer q) s = .next t ∧ (getQ t q).pendingIrq = 0 ∧
        t.qe.msgs = s.qe.msgs ++ [(queueFn s q, (getQ s q).vector)] ∧ t = { s with qe := t.qe })

/-- IDENTIFY (R79), VF_BIND, VF_UNBIND and its end (R41, R78, R432, R589), EVENT_WAIT (R80). -/
def Obligations.IdentityAndVirtualFunctions : Prop :=
  (∀ (s : State) (d : Nat) (f : Flight) (page : List Byte),
      Runs s d 0xF001 f →
      f.op 0x28 1 ≤ 3 →
      f.zeroFrom 0x29 = true →
      page = (if f.op 0x28 1 = 0 then identPage0 s else if f.op 0x28 1 = 1 then identPage1 s
        else if f.op 0x28 1 = 2 then identPage2 s else identPage3 s) →
      hostBad s (f.op 0x20 8) page.length = false →
      ∃ t, exec (.identify d) s = .next t ∧ hread t (f.op 0x20 8) page.length = some page ∧
        HasStatus t d stOk (min page.length 0x0FFFFFFF) ∧ t = { s with host := t.host, qe := t.qe })
  ∧ (∀ (s : State) (d : Nat) (f : Flight) (x : Part),
      Runs s d 0xF010 f →
      s.mgmt.gauntletWdt = false →
      f.zeroFrom 0x26 = true →
      1 ≤ f.op 0x20 1 →
      f.op 0x20 1 ≤ 16 →
      f.op 0x21 1 ≤ 15 →
      1 ≤ f.op 0x22 2 →
      1 ≤ f.op 0x24 2 →
      f.op 0x22 2 + f.op 0x24 2 ≤ 1024 →
      getP s (f.op 0x21 1) = some x →
      tfind s.vfs (f.op 0x20 1) = none →
      x.vf = 0 →
      (x.sealed && x.hadVf) = false →
      (∀ e ∈ s.vfs, ¬ (e.2.firstGroup < f.op 0x22 2 + f.op 0x24 2 ∧ f.op 0x22 2 < e.2.firstGroup + e.2.groups)) →
      (∀ e ∈ s.qe.ctx, e.2.st = .disabled ∨ ¬ (f.op 0x22 2 ≤ e.1 / 64 ∧ e.1 / 64 < f.op 0x22 2 + f.op 0x24 2)) →
      ∃ t, exec (.vfBind d) s = .next t ∧
        tfind t.vfs (f.op 0x20 1) = some { part := f.op 0x21 1, firstGroup := f.op 0x22 2, groups := f.op 0x24 2, tdi := 1 } ∧
        getP t (f.op 0x21 1) = some { x with vf := f.op 0x20 1, hadVf := true } ∧ HasStatus t d stOk 0 ∧
        t = { s with vfs := t.vfs, parts := t.parts, qe := t.qe })
  ∧ (∀ (s : State) (d : Nat) (f : Flight) (v : Vf),
      Runs s d 0xF011 f →
      s.mgmt.gauntletWdt = false →
      f.zeroFrom 0x21 = true →
      tfind s.vfs (f.op 0x20 1) = some v →
      v.tdi ≠ 2 →
      v.tdi ≠ 3 →
      ∃ t, exec (.vfUnbind d) s = .next t ∧ tfind t.vfs (f.op 0x20 1) = some { v with unbindBy := some d } ∧
        getF t d = some { f with phase := .running } ∧ (∀ q ∈ activeQueues s (f.op 0x20 1), (getQ t q).st ≠ .enabled) ∧
        t = { s with host := t.host, qe := t.qe, vfs := t.vfs })
  ∧ (∀ (s : State) (vf d : Nat) (f : Flight) (v : Vf) (x : Part),
      tfind s.vfs vf = some v →
      v.unbindBy = some d →
      activeQueues s vf = [] →
      getF s d = some f →
      getP s v.part = some x →
      ∃ t, exec (.vfUnbindDone vf) s = .next t ∧ tfind t.vfs vf = none ∧ getP t v.part = some { x with vf := 0 } ∧
        (vf ≠ 0 → getFn t vf = {}) ∧ HasStatus t d stOk 0 ∧ t = { s with vfs := t.vfs, parts := t.parts, qe := t.qe })
  ∧ (∀ (s : State) (d : Nat) (f : Flight) (r : LogRec) (rest : List LogRec),
      Runs s d 0xF020 f →
      f.zeroFrom 0x28 = true →
      s.log.parked.length < 16 →
      s.log.undelivered = r :: rest →
      s.log.lost = 0 →
      hostBad s (f.op 0x20 8) 64 = false →
      r.bytes.length = 64 →
      ∃ t, exec (.eventWait d) s = .next t ∧ hread t (f.op 0x20 8) 64 = some r.bytes ∧ t.log.undelivered = rest ∧
        HasStatus t d stOk 0 ∧ t = { s with host := t.host, qe := t.qe, log := { s.log with undelivered := rest, lost := 0 } })
  ∧ (∀ (s : State) (d : Nat) (f : Flight),
      Runs s d 0xF020 f →
      f.zeroFrom 0x28 = true →
      s.log.parked.length < 16 →
      s.log.undelivered = [] →
      ∃ t, exec (.eventWait d) s = .next t ∧ t = putF { s with log := { s.log with parked := s.log.parked ++ [d] } } d { f with phase := .parked })

/-- PART_CREATE, PART_DESTROY, PART_RESET and PART_STATE (R78, R180, R235, R312, R313, R337, R343, R417, R427,
R438). -/
def Obligations.PartitionsAreCreatedDestroyedResetAndMoved : Prop :=
  (∀ (s : State) (d a : Nat) (f : Flight),
      Runs s d 0xF100 f →
      s.mgmt.gauntletWdt = false →
      f.op 0x20 1 ≤ 15 →
      f.op 0x21 1 ≤ 3 →
      f.op 0x24 4 ≠ 0 →
      f.zeroFrom 0x2A = true →
      getP s (f.op 0x20 1) = none →
      createPolicy s (f.op 0x20 1) (f.op 0x21 1) (f.op 0x22 1) (f.op 0x23 1) (f.op 0x24 4) (f.op 0x28 2) = false →
      (∀ e ∈ s.parts, Nat.land e.2.rows (f.op 0x24 4) = 0) →
      (∀ x ∈ s.gnt.fills, ∀ c ∈ x.slices, bit (f.op 0x24 4) (c / 16) = false) →
      (s.parts.map fun e => e.2.waysA).foldl (· + ·) 0 + f.op 0x22 1 ≤ 24 →
      (s.parts.map fun e => e.2.waysB).foldl (· + ·) 0 + f.op 0x23 1 ≤ 24 →
      slotBlock s (f.op 0x28 2) = some a →
      s.fab.dieLost = [] ∧ s.fab.dieReset = [] ∧ s.fab.refLost = [] ∧ s.fab.severed = false →
      ∃ u, exec (.partCreate d) s = .next (endF u d stOk 0) ∧
        getP u (f.op 0x20 1) = some { sealed := bit (f.op 0x21 1) 0, hotSubst := bit (f.op 0x21 1) 1, rows := f.op 0x24 4
                                      waysA := f.op 0x22 1, waysB := f.op 0x23 1, firstSlot := a, slotCount := f.op 0x28 2 } ∧
        tfind u.gnt.keys (f.op 0x20 1) = some { swap := some (Config.entropy s.gnt.drawn)
                                                sealing := if bit (f.op 0x21 1) 0 then some (Config.entropy (s.gnt.drawn + 1)) else none } ∧
        (∀ q, q ≠ f.op 0x20 1 → getP u q = getP s q) ∧ u.mem.bytes = s.mem.bytes ∧ u.vfs = s.vfs)
  ∧ (∀ (s : State) (d : Nat) (f : Flight) (x : Part),
      Runs s d 0xF101 f →
      s.mgmt.gauntletWdt = false →
      f.op 0x20 1 ≤ 15 →
      f.zeroFrom 0x21 = true →
      getP s (f.op 0x20 1) = some x →
      x.st = .offline →
      x.vf = 0 →
      ∃ u, exec (.partDestroy d) s = .next (endF u d stOk 0) ∧ getP u (f.op 0x20 1) = none ∧
        tfind u.gnt.keys (f.op 0x20 1) = none ∧ tfind u.kv.pools (f.op 0x20 1) = none ∧
        (∀ k v, (k, v) ∈ u.mem.roots → k / 32 ≠ f.op 0x20 1) ∧ (∀ k v, (k, v) ∈ u.plauf.exports → k / 256 ≠ f.op 0x20 1) ∧
        u.vfs = s.vfs ∧ u.regs = s.regs)
  ∧ (∀ (s : State) (d : Nat) (f : Flight) (x : Part),
      Runs s d 0xF102 f →
      f.op 0x20 1 ≤ 15 →
      f.zeroFrom 0x21 = true →
      getP s (f.op 0x20 1) = some x →
      ∃ u, exec (.partReset d) s = .next (endF u d stOk 0) ∧
        (∀ k v, (k, v) ∈ u.sync.counters → k / 1024 ≠ f.op 0x20 1) ∧ (∀ k v, (k, v) ∈ u.sync.pairs → k / 256 ≠ f.op 0x20 1) ∧
        (∀ k v, (k, v) ∈ u.steps.rotas → k / 256 ≠ f.op 0x20 1) ∧ u.vfs = s.vfs ∧ u.gnt.keys = s.gnt.keys ∧ u.pwr = s.pwr)
  ∧ (∀ (s : State) (d : Nat) (f : Flight) (x : Part),
      Runs s d 0xF103 f →
      f.op 0x20 1 ≤ 15 →
      f.op 0x21 1 ≤ 2 →
      f.zeroFrom 0x22 = true →
      getP s (f.op 0x20 1) = some x →
      x.fences = [] →
      (f.op 0x21 1 = 0 → s.pwr.pkg ≠ .trip ∧ 320 ≤ lowestLogic s) →
      (∀ e ∈ s.qe.flights, e.2.part = f.op 0x20 1 → e.2.trickle.asleep = false) →
      ∃ t, exec (.partState d) s = .next t ∧
        t = putF (putP s (f.op 0x20 1) { x with st := if f.op 0x21 1 = 0 then .online else if f.op 0x21 1 = 1 then .parked else .offline
                                                target := some (x.st, d) }) d { f with phase := .running })
  ∧ (∀ (s : State) (d p : Nat) (x : Part) (was : PState),
      getP s p = some x →
      x.target = some (was, d) →
      (x.st = .online ∨ ∀ e ∈ s.qe.flights, e.2.part = p → e.2.q = 0 ∨ e.2.live = false) →
      exec (.partStateDone p) s = .next (endF (putP s p { x with target := none }) d stOk 0))

/-- PKG_STATE, its slew and drain (R482, R485, R487), POWER_CAP (R496), TRIP_ACK (R509). The state shown while RUN
drains is the model's reading (assumption 41). -/
def Obligations.PackageStatesCapsAndTrips : Prop :=
  (∀ (s : State) (d : Nat) (f : Flight),
      Runs s d 0xF110 f →
      f.op 0x20 1 = 3 →
      f.op 0x21 1 ≤ 7 →
      f.zeroFrom 0x22 = true →
      s.pwr.pkg ≠ .trip →
      s.pwr.pkg ≠ .run →
      320 ≤ lowestLogic s →
      s.pwr.slewTo = none →
      s.pwr.drainTo = none →
      ∃ u, exec (.pkgState d) s = .next (endF u d stOk (f.op 0x21 1)) ∧
        u = { s with pwr := { s.pwr with pkg := .run, level := f.op 0x21 1, enabled := [0, 1, 2, 3, 4] } })
  ∧ (∀ (s : State) (d : Nat) (f : Flight),
      Runs s d 0xF110 f →
      f.op 0x20 1 = 3 →
      f.op 0x21 1 ≤ 7 →
      f.zeroFrom 0x22 = true →
      s.pwr.pkg = .run →
      s.pwr.slewTo = none →
      s.pwr.drainTo = none →
      exec (.pkgState d) s = .next (putF { s with pwr := { s.pwr with slewTo := some (f.op 0x21 1, d) } } d { f with phase := .running }))
  ∧ (∀ (s : State) (d : Nat) (f : Flight),
      Runs s d 0xF110 f →
      f.op 0x20 1 = 2 ∨ f.op 0x20 1 = 1 →
      f.zeroFrom 0x22 = true →
      s.pwr.pkg = .run →
      (f.op 0x20 1 = 1 → anyOnline s = false) →
      f.q = 0 ∨ f.trickle.asleep = false →
      (∀ e ∈ s.qe.flights, e.2.trickle.asleep = false) →
      (∃ e ∈ s.qe.flights, e.1 ≠ d ∧ e.2.live = true ∧ e.2.q ≠ 0) →
      s.pwr.slewTo = none →
      s.pwr.drainTo = none →
      ∃ t, exec (.pkgState d) s = .next t ∧ t.pwr.pkg = .ready ∧ t.pwr.level = 0 ∧
        t.pwr.drainAt = some (s.time.now + 5000000) ∧
        t.pwr.drainTo = some (if f.op 0x20 1 = 1 then .standby else .ready, d) ∧ getF t d = some { f with phase := .running })
  ∧ (∀ (s : State) (d : Nat) (f : Flight),
      Runs s d 0xF110 f →
      f.op 0x20 1 = 1 →
      f.zeroFrom 0x22 = true →
      s.pwr.pkg = .trip →
      anyOnline s = false →
      s.pwr.slewTo = none →
      s.pwr.drainTo = none →
      ∃ u, exec (.pkgState d) s = .next (endF u d stOk 0) ∧ u.pwr.pkg = .trip ∧ u.pwr.tripStandby = true ∧
        u.pwr.enabled = s.pwr.enabled.filter (· < 2))
  ∧ (∀ (s : State) (l d : Nat),
      s.pwr.slewTo = some (l, d) →
      exec .levelSlewDone s = .next (endF { s with pwr := { s.pwr with level := l, slewTo := none } } d stOk l))
  ∧ (∀ (s : State) (t d : Nat) (p : Pkg),
      s.pwr.drainAt = some t →
      t ≤ s.time.now →
      s.pwr.drainTo = some (p, d) →
      (∀ e ∈ s.qe.flights, e.2.live = true → e.2.q = 0 ∨ e.2.trickle.asleep = true) →
      ∃ u, exec .readyDrainTimeout s = .next (endF u d stOk 0) ∧ u.pwr.pkg = p ∧ u.pwr.level = 0 ∧ u.pwr.drainAt = none ∧ u.pwr.drainTo = none)
  ∧ (∀ (s : State) (d : Nat) (f : Flight),
      Runs s d 0xF111 f →
      f.op 0x20 2 = 0 ∨ 1200 ≤ f.op 0x20 2 →
      f.zeroFrom 0x22 = true →
      ∃ u, exec (.powerCap d) s = .next (endF u d stOk 0) ∧ u = { s with pwr := { s.pwr with hostCap := f.op 0x20 2 }, th := u.th } ∧
        (f.op 0x20 2 ≠ 0 → u.th = s.th) ∧ (f.op 0x20 2 = 0 → u.th.a.lvlHost = 0 ∧ u.th.b.lvlHost = 0))
  ∧ (∀ (s : State) (d : Nat) (f : Flight),
      Runs s d 0xF112 f →
      f.zeroFrom 0x20 = true →
      s.pwr.pkg = .trip →
      tripClear s = true →
      bootEnded s = true →
      s.pwr.tripStandby = false →
      ∃ u, exec (.tripAck d) s = .next (endF u d stOk 0) ∧ u.pwr.pkg = .ready ∧ u.pwr.tripCauses = [] ∧ u.pwr.enabled = [0, 1, 2, 3, 4] ∧
        (4 ∈ s.pwr.tripCauses → u.th.coolantLoss = false) ∧ u.parts = s.parts ∧ u.gnt.keys = s.gnt.keys)

/-- BW_REGISTER, BW_RELEASE, BW_MONITOR, CAPACITY_RECOMPUTE, MISS_INTERVAL, GUARANTEE_MISSED_WINDOW (R350-R357). -/
def Obligations.BandwidthIsRegisteredReleasedAndWatched : Prop :=
  (∀ (s : State) (d : Nat) (f : Flight),
      Runs s d 0xF120 f →
      f.op 0x20 1 ≤ 15 →
      f.op 0x21 1 ≤ 5 →
      f.op 0x24 4 ≠ 0 →
      2048 ≤ f.op 0x28 4 ∧ f.op 0x28 4 ≤ 64 * 2 ^ 20 ∧ f.op 0x28 4 % 2048 = 0 →
      resourceOk (f.op 0x22 2) = true →
      f.zeroFrom 0x2C = true →
      (getP s (f.op 0x20 1)).isSome = true →
      s.bw.regs.length < 4096 →
      100 * (rateSum (regsOn s (f.op 0x22 2)) + f.op 0x24 4) ≤ 85 * capacity s (f.op 0x22 2) →
      ∃ u, exec (.bwRegister d) s = .next (endF u d stOk (freeHandle s)) ∧
        (tfind u.bw.regs (freeHandle s)).map (fun r => (r.part, r.cls, r.res, r.rate, r.burst)) =
          some (f.op 0x20 1, f.op 0x21 1, f.op 0x22 2, f.op 0x24 4, f.op 0x28 4) ∧
        tfind u.bw.capacity (f.op 0x22 2) = some (capacity s (f.op 0x22 2)) ∧ u.parts = s.parts ∧ u.fab = s.fab)
  ∧ (∀ (s : State) (d : Nat) (f : Flight) (x : Reg),
      Runs s d 0xF121 f →
      tfind s.bw.regs (f.op 0x20 2) = some x →
      f.zeroFrom 0x22 = true →
      ∃ u, exec (.bwRelease d) s = .next (endF u d stOk 0) ∧ tfind u.bw.regs (f.op 0x20 2) = none ∧ u.parts = s.parts ∧ u.fab = s.fab)
  ∧ (∀ (s : State) (d : Nat) (f : Flight) (x : Part),
      Runs s d 0xF122 f →
      f.op 0x20 1 ≤ 15 →
      f.op 0x21 1 ≤ 7 →
      f.op 0x22 1 ≤ 3 →
      f.zeroFrom 0x23 = true →
      getP s (f.op 0x20 1) = some x →
      exec (.bwMonitor d) s = .next (endF (putP s (f.op 0x20 1)
          { x with bw := tput x.bw (f.op 0x21 1) { (tfind x.bw (f.op 0x21 1)).getD {} with mode := f.op 0x22 1 } }) d stOk 0))
  ∧ (∀ (s : State) (r : Nat),
      resourceOk r = true →
      ∃ t, exec (.capacityRecompute r) s = .next t ∧ tfind t.bw.capacity r = some (capacity s r) ∧ t.parts = s.parts ∧
        ∀ h x, tfind s.bw.regs h = some x → x.res = r →
          (tfind t.bw.regs h).map (fun y => (y.part, y.cls, y.res, y.rate, y.burst)) = some (x.part, x.cls, x.res, x.rate, x.burst))
  ∧ (∀ (s : State) (waited : List (Nat × Nat)),
      (∀ e ∈ waited, ∀ r, tfind s.bw.regs e.1 = some r → r.cls < 2 ∨ r.eff * 100 ≤ e.2 + 2048) →
      exec (.missInterval waited) s = .next s)
  ∧ (∀ (s : State) (waited : List (Nat × Nat)) (h used : Nat) (r : Reg) (x : Part),
      waited = [(h, used)] →
      tfind s.bw.regs h = some r →
      2 ≤ r.cls →
      used + 2048 < r.eff * 100 →
      getP s r.part = some x →
      ((tfind x.bw r.cls).getD {}).mode = 1 →
      exec (.missInterval waited) s = .next (putP s r.part { x with
          bw := tput x.bw r.cls { (tfind x.bw r.cls).getD {} with misses := (((tfind x.bw r.cls).getD {}).misses + 1) % 2 ^ 64 } }))
  ∧ (∀ (s : State) (h : Nat) (r : Reg),
      tfind s.bw.regs h = some r →
      r.missUntil ≠ 0 →
      r.missUntil ≤ s.time.now →
      r.missed = 0 →
      exec (.guaranteeMissedWindow h) s = .next { s with bw := { s.bw with regs := tput s.bw.regs h { r with missUntil := 0 } } })

/-- STORE, SETTING_WRITE, SETTING_READ, LIFETIME_HOURLY (R530-R535). -/
def Obligations.SettingsRecordsAreEditedReadAndStored : Prop :=
  (∀ (s : State) (d : Nat) (f : Flight) (i : Nat),
      Runs s d 0xF130 f →
      f.zeroFrom 0x22 = true →
      f.op 0x20 2 ≠ 0 →
      i < 12 →
      i ≠ 6 →
      ∃ u, exec (.store d []) s = .next (endF u d stOk 0) ∧
        (isSetting i = true ∧ bit (f.op 0x20 2) i = true → (getRec u i).edited = false ∧ (getRec u i).shadow = (getRec s i).shadow ∧
          inForce (getRec u i) = some { gen := max (getRec s i).a.gen (getRec s i).b.gen + 1, valid := true, body := (getRec s i).shadow }) ∧
        (isSetting i = false ∨ bit (f.op 0x20 2) i = false → getRec u i = getRec s i) ∧ u.parts = s.parts ∧ u.gnt.keys = s.gnt.keys)
  ∧ (∀ (s : State) (d : Nat) (f : Flight) (data : List Byte),
      Runs s d 0xF131 f →
      f.op 0x20 1 = 2 →
      bit s.gnt.policy.flags 4 = true →
      f.zero 0x21 1 = true →
      f.zeroFrom 0x30 = true →
      64 * f.op 0x22 2 + f.op 0x24 4 ≤ 2 ^ 20 →
      hread s (f.op 0x28 8) (f.op 0x24 4) = some data →
      exec (.settingWrite d) s = .next (endF (putRec s 2 { getRec s 2 with
          shadow := data.zipIdx.foldl (fun t e => tput t (64 * f.op 0x22 2 + e.2) e.1) (getRec s 2).shadow, edited := true }) d stOk 0))
  ∧ (∀ (s : State) (d : Nat) (f : Flight) (data : List Byte),
      Runs s d 0xF131 f →
      f.op 0x20 1 = 9 →
      f.op 0x22 2 = 0 →
      f.op 0x24 4 = 64 →
      f.zero 0x21 1 = true →
      f.zeroFrom 0x30 = true →
      hread s (f.op 0x28 8) 64 = some data →
      fld data 0 2 = 1 →
      fld data 2 2 < 2 →
      fld data 8 2 ≤ 5000 →
      zeroAt data 10 54 = true →
      exec (.settingWrite d) s = .next (endF (putRec s 9 { getRec s 9 with shadow := mwriteN (getRec s 9).shadow 0 data, edited := true }) d stOk 0))
  ∧ (∀ (s : State) (d : Nat) (f : Flight),
      Runs s d 0xF132 f →
      f.op 0x20 1 = 4 ∨ f.op 0x20 1 = 8 ∨ f.op 0x20 1 = 9 →
      f.op 0x21 1 = 0 →
      f.op 0x24 4 ≠ 0 →
      f.op 0x24 4 ≤ recSize (f.op 0x20 1) →
      f.zero 0x22 2 = true →
      f.zeroFrom 0x30 = true →
      hostBad s (f.op 0x28 8) (f.op 0x24 4) = false →
      exec (.settingRead d) s =
          .next (endF (hwrite s (f.op 0x28 8) (mreadN (getRec s (f.op 0x20 1)).shadow 0 (f.op 0x24 4))) d stOk (f.op 0x24 4)))
  ∧ (∀ (s : State),
      ∃ t, exec .lifetimeHourly s = .next t ∧ (∀ i, i ≠ 6 → getRec t i = getRec s i) ∧ t.mgmt.lifeStored = lifeNow s ∧
        (inForce (getRec t 6)).map (·.gen) = some (max (getRec s 6).a.gen (getRec s 6).b.gen + 1) ∧ t.parts = s.parts)

/-- TOPO_READ, TOPO_ACCEPT (R519, R520), FW_STAGE, FW_ACTIVATE, LIVE_ACTIVATION_CHECK (R538-R541). Signature
verification is an opaque function of Config, so that clause speaks of both verdicts. -/
def Obligations.TopologyAndFirmwareAreReadAcceptedAndActivated : Prop :=
  (∀ (s : State) (d : Nat) (f : Flight) (bs : List Byte),
      Runs s d 0xF190 f →
      f.zeroFrom 0x28 = true →
      (bs = padTo 0x40 (toLe 1 (checkResult s).1 ++ toLe 1 0 ++ toLe 2 (checkResult s).2.length)
            ++ padTo (0x1000 - 0x40) (((checkResult s).2.take 496).flatMap fun e =>
              toLe 1 e.1 ++ toLe 1 0 ++ toLe 2 e.2.1 ++ toLe 2 e.2.2.1 ++ toLe 2 e.2.2.2)
            ++ topoBytes (discovered s) ++ (match s.mgmt.expected with | some x => topoBytes x | none => List.replicate 4096 0)) →
      hostBad s (f.op 0x20 8) bs.length = false →
      exec (.topoRead d) s = .next (endF (hwrite s (f.op 0x20 8) bs) d stOk 0))
  ∧ (∀ (s : State) (d : Nat) (ok : Bool) (f : Flight),
      Runs s d 0xF191 f →
      f.op 0x20 1 = 0 →
      f.zeroFrom 0x21 = true →
      s.pwr.pkg = .held →
      exec (.topoAccept d ok) s = .next (endF { s with pwr := { s.pwr with pkg := .ready } } d stOk 0))
  ∧ (∀ (s : State) (d : Nat) (f : Flight),
      Runs s d 0xF191 f →
      f.op 0x20 1 = 1 →
      f.zeroFrom 0x21 = true →
      s.pwr.pkg = .held →
      ∃ u, exec (.topoAccept d true) s = .next (endF u d stOk 0) ∧ u.pwr = { s.pwr with pkg := .ready } ∧
        getRec u 3 = writeCopy (getRec s 3) true ∧ u.mem.bytes = s.mem.bytes ∧ u.gnt.keys = s.gnt.keys)
  ∧ (∀ (s : State) (d n ty : Nat) (f : Flight) (b : List Byte),
      Runs s d 0xF170 f →
      s.mgmt.gauntletWdt = false →
      n = f.op 0x28 4 →
      ty = f.op 0x2C 1 →
      s.mgmt.recovery = false →
      128 + sigBytes ≤ n →
      (slotSize ty).isSome = true →
      f.zeroFrom 0x2D = true →
      hread s (f.op 0x20 8) n = some b →
      imageShape b ty n = true →
      (getFw s ty).fuse ≤ fld b 7 1 →
      ∃ t, exec (.fwStage d) s = .next t ∧ (imageSigned b = false → t = refuseF s d rAuth) ∧
        (imageSigned b = true → ∃ u, t = endF u d stOk 0 ∧
          getFw u ty = { getFw s ty with armed := false, slots := (tput (getFw s ty).slots (inactiveSlot (getFw s ty)) { version := fld b 8 4, level := fld b 7 1, digest := fld b 0x10 48 }) } ∧ u.parts = s.parts))
  ∧ (∀ (s : State) (d : Nat) (f : Flight),
      Runs s d 0xF171 f →
      s.mgmt.gauntletWdt = false →
      (slotSize (f.op 0x20 1)).isSome = true →
      f.op 0x21 1 = 0 →
      f.zeroFrom 0x22 = true →
      (tfind (getFw s (f.op 0x20 1)).slots (inactiveSlot (getFw s (f.op 0x20 1)))).isSome = true →
      exec (.fwActivate d) s = .next (endF (putFw s (f.op 0x20 1) { getFw s (f.op 0x20 1) with armed := true }) d stOk 0))
  ∧ (∀ (s : State) (d : Nat) (f : Flight),
      Runs s d 0xF171 f →
      s.mgmt.gauntletWdt = false →
      f.op 0x20 1 = 2 →
      f.op 0x21 1 = 1 →
      f.zeroFrom 0x22 = true →
      (tfind (getFw s 2).slots (inactiveSlot (getFw s 2))).isSome = true →
      ∃ u, exec (.fwActivate d) s = .next (endF u d stOk 0) ∧ u.mgmt.mittenDown = false ∧
        getFw u 2 = { getFw s 2 with active := inactiveSlot (getFw s 2), armed := false, liveFrom := some (getFw s 2).active
                                     liveAt := s.time.now })
  ∧ (∀ (s : State) (old : Nat),
      (getFw s 2).liveFrom = some old →
      (getFw s 2).liveAt + 60000000000 ≤ s.time.now →
      ∃ t, exec (.liveActivationCheck true) s = .next t ∧ (getFw t 2).liveFrom = none ∧ (getFw t 2).active = (getFw s 2).active)
  ∧ (∀ (s : State) (old : Nat),
      (getFw s 2).liveFrom = some old →
      (getFw s 2).liveAt + 5000000000 ≤ s.time.now →
      ∃ t, exec (.liveActivationCheck false) s = .next t ∧ getFw t 2 = { getFw s 2 with active := old, liveFrom := none })

/-- Owner messages (R419-R429, R434, R438, R445-R447). Signature verification and key unwrapping are opaque
functions of Config, so the clauses speak of both verdicts. -/
def Obligations.OwnerMessagesTakeEffectOnlyWhenTheirSignaturesPass : Prop :=
  (∀ (s : State) (d : Nat) (f : Flight) (b : List Byte) (m : Owner),
      Runs s d 0xF160 f →
      s.mgmt.gauntletWdt = false →
      f.op 0x2C 1 = 1 →
      f.zeroFrom 0x2D = true →
      0x40 + sigBytes ≤ f.op 0x28 4 →
      f.op 0x28 4 ≤ 65536 →
      hread s (f.op 0x20 8) (f.op 0x28 4) = some b →
      parseOwner b (f.op 0x20 8) 1 = some m →
      kindOk s 1 m = true →
      fld b 0x10 16 = s.mgmt.idHash →
      s.gnt.policy.ownerSeq < m.seq →
      m.op = 0 ∨ m.op = 1 →
      m.body.length = 0xA88 →
      zeroAt m.body 1 7 = true →
      ∃ t, exec (.ownerMsgClaim d true) s = .next t ∧ (signedOk s 1 m = false → t = refuseF s d rAuth) ∧
        (signedOk s 1 m = true → ∃ u, t = ownerReply u d 1 m [] ∧ u.gnt.policy =
          { flags := 1, debugCount := s.gnt.policy.debugCount, ownerSeq := m.seq
            ownerHash := ownerHashOf ((m.body.drop 8).take 96)
            ecdsaKey := (m.body.drop 8).take 96, mldsaKey := (m.body.drop 0x68).take 2592 }))
  ∧ (∀ (s : State) (d : Nat) (f : Flight) (b : List Byte) (m : Owner),
      Runs s d 0xF160 f →
      s.mgmt.gauntletWdt = false →
      f.op 0x2C 1 = 1 →
      f.zeroFrom 0x2D = true →
      0x40 + sigBytes ≤ f.op 0x28 4 →
      f.op 0x28 4 ≤ 65536 →
      hread s (f.op 0x20 8) (f.op 0x28 4) = some b →
      parseOwner b (f.op 0x20 8) 1 = some m →
      kindOk s 1 m = true →
      fld b 0x10 16 = s.mgmt.idHash →
      s.gnt.policy.ownerSeq < m.seq →
      m.op = 2 →
      m.body.length = 0xA88 →
      zeroAt m.body 1 7 = true →
      zeroAt m.body 8 2688 = true →
      ∃ t, exec (.ownerMsgClaim d true) s = .next t ∧ (signedOk s 1 m = false → t = refuseF s d rAuth) ∧
        (signedOk s 1 m = true → ∃ u, t = ownerReply u d 1 m [] ∧
          u.gnt.policy = { debugCount := s.gnt.policy.debugCount, ownerSeq := s.gnt.policy.ownerSeq }))
  ∧ (∀ (s : State) (d : Nat) (f : Flight) (b : List Byte) (m : Owner) (new : Policy),
      Runs s d 0xF160 f →
      s.mgmt.gauntletWdt = false →
      f.op 0x2C 1 = 2 →
      f.zeroFrom 0x2D = true →
      0x40 + sigBytes ≤ f.op 0x28 4 →
      f.op 0x28 4 ≤ 65536 →
      hread s (f.op 0x20 8) (f.op 0x28 4) = some b →
      parseOwner b (f.op 0x20 8) 2 = some m →
      kindOk s 2 m = true →
      fld b 0x10 16 = s.mgmt.idHash →
      s.gnt.policy.ownerSeq < m.seq →
      parsePolicy s.gnt.policy m.body = some new →
      withdraws s new = false →
      s.cuff.guestReset = true ∨ sameCuff s.gnt.policy new = true →
      ∃ t, exec (.ownerMsgPolicy d true) s = .next t ∧ (signedOk s 2 m = false → t = refuseF s d rAuth) ∧
        (signedOk s 2 m = true → ∃ u, t = ownerReply u d 2 m [] ∧ u.gnt.policy = { new with ownerSeq := m.seq }))
  ∧ (∀ (s : State) (d : Nat) (f : Flight) (b : List Byte) (m : Owner) (l : List (Nat × Pairing)) (p : Tbl Pairing),
      Runs s d 0xF160 f →
      s.mgmt.gauntletWdt = false →
      f.op 0x2C 1 = 3 →
      f.zeroFrom 0x2D = true →
      0x40 + sigBytes ≤ f.op 0x28 4 →
      f.op 0x28 4 ≤ 65536 →
      hread s (f.op 0x20 8) (f.op 0x28 4) = some b →
      parseOwner b (f.op 0x20 8) 3 = some m →
      kindOk s 3 m = true →
      fld b 0x10 16 = s.mgmt.idHash →
      s.gnt.policy.ownerSeq < m.seq →
      pairEntries m.body = some l →
      pairStep (fld m.body 0 1 == 1) l s.gnt.policy.pairings = some p →
      ∃ t, exec (.ownerMsgPairing d true) s = .next t ∧ (signedOk s 3 m = false → t = refuseF s d rAuth) ∧
        (signedOk s 3 m = true → ∃ u, t = ownerReply u d 3 m [] ∧ u.gnt.policy = { s.gnt.policy with pairings := p, ownerSeq := m.seq }))
  ∧ (∀ (s : State) (d : Nat) (f : Flight) (b : List Byte) (m : Owner),
      Runs s d 0xF160 f →
      s.mgmt.gauntletWdt = false →
      f.op 0x2C 1 = 4 →
      f.zeroFrom 0x2D = true →
      0x40 + sigBytes ≤ f.op 0x28 4 →
      f.op 0x28 4 ≤ 65536 →
      hread s (f.op 0x20 8) (f.op 0x28 4) = some b →
      parseOwner b (f.op 0x20 8) 4 = some m →
      kindOk s 4 m = true →
      fld b 0x10 16 = s.mgmt.idHash →
      s.gnt.policy.ownerSeq < m.seq →
      m.body.length = 8 →
      fld m.body 0 1 < 8 →
      zeroAt m.body 1 7 = true →
      ∃ t, exec (.ownerMsgDebug d true) s = .next t ∧ (signedOk s 4 m = false → t = refuseF s d rAuth) ∧
        (signedOk s 4 m = true → ∃ u, t = ownerReply u d 4 m [] ∧ u.gnt.keys = [] ∧ u.gnt.keysZeroised = true ∧
          u.gnt.debugPending = true ∧ u.gnt.debugScope = fld m.body 0 1 ∧
          u.gnt.policy = { s.gnt.policy with debugCount := (s.gnt.policy.debugCount + 1) % 2 ^ 32, ownerSeq := m.seq }))
  ∧ (∀ (s : State) (d : Nat) (f : Flight) (b : List Byte) (m : Owner),
      Runs s d 0xF160 f →
      s.mgmt.gauntletWdt = false →
      f.op 0x2C 1 = 5 →
      f.zeroFrom 0x2D = true →
      0x40 + sigBytes ≤ f.op 0x28 4 →
      f.op 0x28 4 ≤ 65536 →
      hread s (f.op 0x20 8) (f.op 0x28 4) = some b →
      parseOwner b (f.op 0x20 8) 5 = some m →
      kindOk s 5 m = true →
      fld b 0x10 16 = s.mgmt.idHash →
      (releaseBody s m.body = none ∨ ∃ p slot use key, releaseBody s m.body = some (p, [(slot, use, key)]) ∧ bit use 1 = false ∧ bit use 2 = false) →
      ((getP s (fld m.body 0 1)).map (·.inReset)).getD false = false →
      ∃ t, exec (.ownerMsgKeyRelease d) s = .next t ∧ (signedOk s 5 m = false → t = refuseF s d rAuth) ∧
        (signedOk s 5 m = true → releaseBody s m.body = none → t = refuseF s d rPolicy) ∧
        (signedOk s 5 m = true → ∀ p slot use key, releaseBody s m.body = some (p, [(slot, use, key)]) →
          bit use 1 = false → bit use 2 = false → ∃ u, t = ownerReply u d 5 m [] ∧
            tfind (getKeys u p).slots slot = some { use := use, key := key, nonce := 0 }))
  ∧ (∀ (s : State),
      s.gnt.debugPending = true →
      s.gnt.fills = [] →
      exec .debugEntered s = .next (emit { s with gnt := { s.gnt with debug := true, debugPending := false } } 6 0xC {} []))
  ∧ (∀ (s : State) (p : Nat) (x : Fill),
      s.pwr.pkg ≠ .trip →
      (s.gnt.fills.find? fun y => y.part == p) = some x →
      ∃ t, exec (.zeroFillDone p) s = .next t ∧ (∀ c ∈ x.slices, ∀ a, c * 2 ^ 27 ≤ a → a < c * 2 ^ 27 + 2 ^ 27 → mread t.mem.bytes a = 0) ∧
        t.parts = s.parts ∧ t.gnt.keys = s.gnt.keys ∧ t.kv = s.kv)

/-- Holidays and tests (R559-R564). -/
def Obligations.HolidaysAndTestsRunAndEnd : Prop :=
  (∀ (s : State) (d : Nat) (f : Flight),
      Runs s d 0xF140 f →
      f.zero 0x23 1 = true →
      f.zeroFrom 0x2C = true →
      1000 ≤ f.op 0x28 4 →
      f.op 0x28 4 ≤ 3600000000 →
      s.hol.open_ = false →
      (∀ e ∈ s.parts, bit (f.op 0x20 2) e.1 = true → e.2.st ≠ .online) →
      (∀ k < 8, bit (f.op 0x22 1) k = true → stackHeld s (f.op 0x20 2) k = false) →
      ∃ u, exec (.holidayGrant d) s = .next (endF u d stOk 0) ∧ u.hol.open_ = true ∧ u.hol.parts = f.op 0x20 2 ∧
        u.hol.stackSet = f.op 0x22 1 ∧ u.hol.ports = f.op 0x24 4 ∧ u.hol.endAt = s.time.now + 1000 * f.op 0x28 4 ∧ u.parts = s.parts)
  ∧ (∀ (s : State) (d : Nat) (f : Flight),
      Runs s d 0xF140 f →
      f.zero 0x23 1 = true →
      f.zeroFrom 0x2C = true →
      f.op 0x20 2 = 0 ∧ f.op 0x22 1 = 0 ∧ f.op 0x24 4 = 0 ∧ f.op 0x28 4 = 0 →
      s.hol.open_ = true →
      ∃ u, exec (.holidayGrant d) s = .next (endF u d stOk 0) ∧ u.hol.open_ = false ∧ u.hol.parts = 0 ∧ u.hol.stackSet = 0 ∧ u.hol.ports = 0)
  ∧ (∀ (s : State),
      s.hol.open_ = true →
      s.hol.endAt ≤ s.time.now →
      ∃ t, exec .holidayExpire s = .next t ∧ t.hol.open_ = false ∧ t.hol.parts = 0 ∧ t.hol.stackSet = 0 ∧ t.hol.ports = 0 ∧ t.hol.endAt = 0)
  ∧ (∀ (s : State) (d : Nat) (f : Flight),
      Runs s d 0xF141 f →
      f.op 0x20 2 ≤ 255 →
      f.op 0x22 1 = 0 →
      f.zero 0x23 1 = true →
      f.zeroFrom 0x26 = true →
      (bit (f.op 0x20 2) 3 = true → f.op 0x24 2 = 0) →
      covered s { tag := f.tag, set := f.op 0x20 2, calibrate := false, force := false, parts := f.op 0x24 2, by_ := some d } = true →
      s.hol.running = none →
      exec (.selftest d) s = .next (putF { s with hol := { s.hol with running := some { tag := f.tag, set := f.op 0x20 2, calibrate := false, force := false, parts := f.op 0x24 2, by_ := some d } } } d { f with phase := .running }))
  ∧ (∀ (s : State) (d : Nat) (f : Flight),
      Runs s d 0xF141 f →
      f.op 0x20 2 ≤ 255 →
      f.op 0x22 1 = 0 →
      f.zero 0x23 1 = true →
      f.zeroFrom 0x26 = true →
      (bit (f.op 0x20 2) 3 = true → f.op 0x24 2 = 0) →
      covered s { tag := f.tag, set := f.op 0x20 2, calibrate := false, force := false, parts := f.op 0x24 2, by_ := some d } = false →
      s.hol.deferred.length < 256 →
      exec (.selftest d) s = .next (endF { s with hol := { s.hol with deferred := s.hol.deferred ++ [{ tag := f.tag, set := f.op 0x20 2, calibrate := false, force := false, parts := f.op 0x24 2, by_ := none }] } } d stDeferred 0))
  ∧ (∀ (s : State) (d : Nat) (f : Flight),
      Runs s d 0xF142 f →
      f.op 0x20 2 ≤ 15 →
      f.op 0x22 1 = 0 →
      f.zero 0x23 1 = true →
      f.zeroFrom 0x26 = true →
      covered s { tag := f.tag, set := f.op 0x20 2, calibrate := true, force := false, parts := f.op 0x24 2, by_ := some d } = true →
      s.hol.running = none →
      exec (.calibrate d) s = .next (putF { s with hol := { s.hol with running := some { tag := f.tag, set := f.op 0x20 2, calibrate := true, force := false, parts := f.op 0x24 2, by_ := some d } } } d { f with phase := .running }))
  ∧ (∀ (s : State) (d : Nat) (f : Flight),
      Runs s d 0xF142 f →
      f.op 0x20 2 ≤ 15 →
      f.op 0x22 1 = 0 →
      f.zero 0x23 1 = true →
      f.zeroFrom 0x26 = true →
      covered s { tag := f.tag, set := f.op 0x20 2, calibrate := true, force := false, parts := f.op 0x24 2, by_ := some d } = false →
      s.hol.deferred.length < 256 →
      exec (.calibrate d) s = .next (endF { s with hol := { s.hol with deferred := s.hol.deferred ++ [{ tag := f.tag, set := f.op 0x20 2, calibrate := true, force := false, parts := f.op 0x24 2, by_ := none }] } } d stDeferred 0))
  ∧ (∀ (s : State) (v : TestVerdict) (t : TestRun) (d : Nat),
      s.hol.running = some t →
      t.by_ = some d →
      s.hol.open_ = false ∨ s.hol.deferred = [] →
      ∃ u, exec (.testDone v) s = .next (endF (serveFreed u) d stOk
          (min v.failing.length 0xFFF + 0x1000 * b2n v.incomplete + min v.tested 0x3FFF * 2 ^ 14)) ∧
        (serveFreed u).hol = { s.hol with running := none, testsRun := s.hol.testsRun + 1 } ∧
        u.parts = tmap s.parts fun _ x => { x with fetchStopped := false })

/-- RETIRE_PAGE, RETIRE_BANK (R468-R471), their moves (R578). -/
def Obligations.PagesAndBanksRetire : Prop :=
  (∀ (s : State) (d : Nat) (f : Flight),
      Runs s d 0xF150 f →
      f.op 0x20 8 % 8192 = 0 →
      arrayAddress s (f.op 0x20 8) = true →
      f.zeroFrom 0x28 = true →
      s.flt.retiredPages.contains (frameNo (f.op 0x20 8)) = false →
      s.flt.retiredPages.length < 4096 →
      ∃ u, exec (.retirePage d) s = .next (endF u d stOk 0) ∧ frameNo (f.op 0x20 8) ∈ u.flt.retiredPages ∧ u.parts = s.parts ∧ u.gnt.keys = s.gnt.keys)
  ∧ (∀ (s : State) (d : Nat) (f : Flight),
      Runs s d 0xF150 f →
      f.op 0x20 8 % 8192 = 0 →
      arrayAddress s (f.op 0x20 8) = true →
      f.zeroFrom 0x28 = true →
      s.flt.retiredPages.contains (frameNo (f.op 0x20 8)) = true →
      exec (.retirePage d) s = .next (endF s d stOk 0))
  ∧ (∀ (s : State) (d t b : Nat) (f : Flight),
      Runs s d 0xF151 f →
      t = f.op 0x20 2 →
      b = f.op 0x22 2 →
      (t < 512 ∧ b < 32 ∧ retiredIn s t < 4) ∨ (0x8000 ≤ t ∧ t < 0x8008 ∧ b < 64 ∧ retiredIn s t < 16) →
      f.zeroFrom 0x24 = true →
      (s.flt.subst.any fun u => u.core == t) = false →
      s.flt.retiredBanks.contains (t, b) = false →
      ∃ u, exec (.retireBank d) s = .next (putF u d { f with phase := .running }) ∧ (t, b) ∈ u.flt.retiredBanks ∧
        (t, b, d) ∈ u.flt.moving ∧ u.parts = s.parts ∧ u.gnt.keys = s.gnt.keys)
  ∧ (∀ (s : State) (t b d : Nat),
      (s.flt.moving.find? fun m => m.1 == t) = some (t, b, d) →
      s.pwr.pkg ≠ .trip →
      ∃ u, exec (.retireMoveDone t) s = .next (endF u d stOk 0) ∧ u.flt.moving = s.flt.moving.erase (t, b, d) ∧ u.flt.retiredBanks = s.flt.retiredBanks ∧ u.parts = s.parts)

/-- Snapshots (R549-R555). -/
def Obligations.SnapshotsAreArmedLatchedAndRead : Prop :=
  (∀ (s : State) (d : Nat) (f : Flight),
      Runs s d 0xF180 f →
      f.op 0x20 1 ≤ 15 →
      f.op 0x21 1 ≤ 8 →
      f.op 0x22 1 = 0xFF ∨ (getP s (f.op 0x22 1)).isSome = true →
      f.op 0x24 2 < (if f.op 0x22 1 = 0xFF then 16384 else 1024) →
      f.zero 0x23 1 = true →
      f.zero 0x26 2 = true →
      f.zeroFrom 0x30 = true →
      bit (f.op 0x20 1) 0 = false →
      exec (.snapArm d) s = .next (endF { s with snap := { s.snap with armed := f.op 0x20 1, scope := f.op 0x22 1, faultClass := f.op 0x21 1, counter := f.op 0x24 2, value := f.op 0x28 8 } } d stOk 0))
  ∧ (∀ (s : State) (d i : Nat) (f : Flight),
      Runs s d 0xF181 f →
      f.op 0x20 1 = 0xFF ∨ f.op 0x20 1 ≤ 15 ∧ (getP s (f.op 0x20 1)).isSome = true ∧ inReset s (f.op 0x20 1) = false →
      f.zeroFrom 0x21 = true →
      freeBank s = some i →
      ∃ u, exec (.snapTrigger d) s = .next (endF u d stOk 0) ∧
        (u.snap.banks[i]?).map (fun b => (b.st, b.scope, b.source, b.time)) = some (1, f.op 0x20 1, 0, s.time.now) ∧ u.parts = s.parts)
  ∧ (∀ (s : State) (i : Nat),
      bit s.snap.armed 3 = true →
      s.snap.scope = 0xFF ∨ inReset s s.snap.scope = false →
      freeBank s = some i →
      ∃ t, exec .equinoxInput s = .next t ∧ t.snap.armed = s.snap.armed - 8 ∧
        (t.snap.banks[i]?).map (fun b => (b.st, b.scope, b.source, b.time)) = some (1, s.snap.scope, 4, s.time.now) ∧ t.parts = s.parts)
  ∧ (∀ (s : State) (d : Nat) (f : Flight) (b : Bank),
      Runs s d 0xF182 f →
      f.op 0x20 1 ≤ 1 →
      f.zero 0x21 3 = true →
      f.zeroFrom 0x30 = true →
      s.snap.banks[f.op 0x20 1]? = some b →
      b.st ≠ 0 →
      b.debug = false ∨ s.gnt.debug = true →
      f.op 0x24 4 < (imageOf s b).1.length →
      exec (.snapRead d) s = .next (endF s d stOk (imageOf s b).1.length))
  ∧ (∀ (s : State) (d : Nat) (f : Flight) (b : Bank),
      Runs s d 0xF182 f →
      f.op 0x20 1 ≤ 1 →
      f.zero 0x21 3 = true →
      f.zeroFrom 0x30 = true →
      s.snap.banks[f.op 0x20 1]? = some b →
      b.st ≠ 0 →
      b.debug = false ∨ s.gnt.debug = true →
      (imageOf s b).1.length ≤ f.op 0x24 4 →
      hostBad s (f.op 0x28 8) (imageOf s b).1.length = false →
      ∃ u, exec (.snapRead d) s = .next (endF u d stOk (imageOf s b).1.length) ∧
        u.host = mwriteN (imageOf s b).2.host (f.op 0x28 8) (imageOf s b).1 ∧ u.parts = s.parts)

/-- COPY, FILL, TO_HOST, FROM_HOST (R197, R198, R461), MAP, UNMAP (R199, R200), TPOOL_ADD (R201). -/
def Obligations.MoveOperationsCopyFillAndMap : Prop :=
  (∀ (s v : State) (d : Nat) (f : Flight) (a b : Tensor) (data : List (List (Byte × Bool))),
      Runs s d 0x0001 f →
      f.zeroFrom 0x30 = true →
      operand s (cxOf s f d) (f.op 0x20 8) = .ok a →
      operand s (cxOf s f d) (f.op 0x28 8) = .ok b →
      a.fmt = b.fmt →
      a.ext = b.ext →
      isMx a.fmt = false →
      rowsP s (cxOf s f d) a = .ok data →
      meets (b.places s (cxOf s f d)) (a.places s (cxOf s f d) ++ (placesOf s (cxOf s f d) (f.op 0x20 8) 64 ++ placesOf s (cxOf s f d) (f.op 0x28 8) 64)) = false →
      writeRowsP (touchRead s (cxOf s f d) a) (cxOf s f d) b data = .ok v →
      exec (.copy d) s = .next (endF v d (if data.any (fun r => r.any Prod.snd) then stPoisoned else stOk) 0))
  ∧ (∀ (s v : State) (d : Nat) (f : Flight) (t : Tensor),
      Runs s d 0x0002 f →
      f.zero 0x20 8 = true →
      f.zeroFrom 0x38 = true →
      operand s (cxOf s f d) (f.op 0x28 8) = .ok t →
      meets (t.places s (cxOf s f d)) (placesOf s (cxOf s f d) (f.op 0x28 8) 64) = false →
      writeCodes s (cxOf s f d) t (fillCodes t (f.op 0x30 8)) = .ok v →
      exec (.fill d) s = .next (endF v d stOk 0))
  ∧ (∀ (s : State) (d : Nat) (f : Flight) (t : Tensor) (data : List (List (Byte × Bool))),
      Runs s d 0x0010 f →
      f.zeroFrom 0x30 = true →
      isSealed s f.part = false →
      operand s (cxOf s f d) (f.op 0x20 8) = .ok t →
      rowsP s (cxOf s f d) t = .ok data →
      hostBad s (f.op 0x28 8) data.flatten.length = false →
      exec (.toHost d) s = .next (endF (hwrite (touchRead s (cxOf s f d) t) (f.op 0x28 8) (data.flatten.map Prod.fst)) d
          (if data.flatten.any Prod.snd then stPoisoned else stOk) 0))
  ∧ (∀ (s v : State) (d : Nat) (f : Flight) (t : Tensor) (bs : List Byte),
      Runs s d 0x0011 f →
      f.zeroFrom 0x30 = true →
      isSealed s f.part = false →
      operand s (cxOf s f d) (f.op 0x28 8) = .ok t →
      hread s (f.op 0x20 8) t.bytes = some bs →
      meets (t.places s (cxOf s f d)) (placesOf s (cxOf s f d) (f.op 0x28 8) 64) = false →
      writeCodes s (cxOf s f d) t ((chunks t.rowBytes bs).flatMap (unpack t.fmt)) = .ok v →
      exec (.fromHost d) s = .next (endF v d stOk 0))
  ∧ (∀ (s v : State) (d : Nat) (f : Flight),
      Runs s d 0x0020 f →
      f.op 0x20 8 % pageSize (f.op 0x34 1) = 0 →
      f.op 0x28 8 % pageSize (f.op 0x34 1) = 0 →
      f.op 0x30 4 = 1 →
      f.op 0x34 1 ≤ 2 →
      f.op 0x35 1 ≤ 1 →
      f.zero 0x36 2 = true →
      f.zeroFrom 0x38 = true →
      f.op 0x20 8 + pageSize (f.op 0x34 1) ≤ 0x7F0000000000 →
      pteV (entryAt s f.part (f.op 0x20 8) (f.op 0x34 1)) = false →
      crosses (f.op 0x28 8) (pageSize (f.op 0x34 1)) = false →
      pageOk s f.part (f.op 0x28 8) (pageSize (f.op 0x34 1)) = true →
      mapLeaf (claimGrain s f.part (f.op 0x28 8)) f.part (f.op 0x20 8) (f.op 0x34 1) (mkLeaf (f.op 0x28 8) (bit (f.op 0x35 1) 0) false false) = some v →
      exec (.map d) s = .next (endF v d stOk 0))
  ∧ (∀ (s : State) (d : Nat) (f : Flight) (e : Nat),
      Runs s d 0x0021 f →
      f.op 0x20 8 % pageSize (f.op 0x34 1) = 0 →
      f.op 0x30 4 = 1 →
      f.op 0x34 1 ≤ 2 →
      f.zero 0x28 8 = true →
      f.zero 0x35 3 = true →
      f.zeroFrom 0x38 = true →
      f.op 0x20 8 + pageSize (f.op 0x34 1) ≤ 0x7F0000000000 →
      pteV (entryAt s f.part (f.op 0x20 8) (f.op 0x34 1)) = true →
      leafOf s f.part (f.op 0x20 8) = some (e, f.op 0x34 1) →
      pageInUse s f.part (f.op 0x20 8) (pageSize (f.op 0x34 1)) = false →
      exec (.unmap d) s = .next (endF (unmapLeaf s f.part (f.op 0x20 8)) d stOk 0))
  ∧ (∀ (s : State) (d : Nat) (f : Flight) (frames : List Nat),
      Runs s d 0x0022 f →
      f.op 0x30 4 ≠ 0 →
      f.op 0x20 8 % 8192 = 0 →
      f.zero 0x28 8 = true →
      f.zero 0x34 4 = true →
      f.zeroFrom 0x38 = true →
      (frames = (List.range (f.op 0x30 4)).map fun i => f.op 0x20 8 / 8192 + i) →
      (∀ fr ∈ frames, frameOk s f.part (fr * 8192) false false true = true ∧ frameMapped s fr = false) →
      ∃ u, exec (.tpoolAdd d) s = .next (endF u d stOk 0) ∧
        tfind u.mem.tpool f.part = some ((tfind s.mem.tpool f.part).getD [] ++ frames) ∧ (∀ fr ∈ frames, fr ∈ u.mem.tableTag) ∧
        u.mem.bytes = s.mem.bytes)

/-- The SYNC family and a signal at its counter's home (R299, R301, R303, R307-R310). -/
def Obligations.CountersAddWaitPairAndRead : Prop :=
  (∀ (s : State) (d : Nat) (f : Flight),
      Runs s d 0x8000 f →
      f.zeroFrom 0x20 = true →
      exec (.syncNop d) s = .next (endF s d stOk 0))
  ∧ (∀ (s : State) (d : Nat) (f : Flight),
      Runs s d 0x8001 f →
      inReset s f.part = false →
      ((syncEntries f).all fun e => decide (e.1 < 1024) && !counterFar s e.1) = true →
      ∃ u st, exec (.syncAdd d) s = .next (endF u d st 0) ∧ (st = stOk ∨ st = stOverrun ∧ s.sync.pairs ≠ []) ∧
        u.sync = { s.sync with counters := (syncEntries f).foldl (fun t e => tput t (physCounter f.part e.1) (min ((tfind t (physCounter f.part e.1)).getD 0 + e.2) (2 ^ 64 - 1))) s.sync.counters } ∧
        u.parts = s.parts ∧ u.mem = s.mem)
  ∧ (∀ (s : State) (d : Nat) (f : Flight),
      Runs s d 0x8002 f →
      ((syncEntries f).all fun e => decide (e.1 < 1024) && !counterFar s e.1) = true →
      f.stepOf = none →
      (∀ e ∈ syncEntries f, e.2 ≤ ctrOf s f.part e.1) →
      exec (.syncWaitAll d) s = .next (endF s d stOk 0))
  ∧ (∀ (s : State) (d a b n : Nat) (f : Flight),
      Runs s d 0x8010 f →
      f.op 0x22 2 = a →
      f.op 0x24 2 = b →
      f.op 0x26 2 = n →
      a < 1024 →
      b < 1024 →
      a ≠ b →
      a / 512 = b / 512 →
      n ≠ 0 →
      s.fab.severed = false ∨ a < 512 →
      tfind s.sync.pairs (256 * f.part + f.op 0x20 1) = none →
      pairOf s f.part a = none →
      pairOf s f.part b = none →
      f.zero 0x21 1 = true →
      f.zeroFrom 0x28 = true →
      ctrOf s f.part b ≤ ctrOf s f.part a →
      ctrOf s f.part a ≤ ctrOf s f.part b + n →
      exec (.syncPair d) s = .next (endF { s with sync := { s.sync with pairs := tput s.sync.pairs (256 * f.part + f.op 0x20 1) { producer := a, consumer := b, n := n } } } d stOk 0))
  ∧ (∀ (s : State) (d : Nat) (f : Flight),
      Runs s d 0x8011 f →
      f.zeroFrom 0x21 = true →
      (tfind s.sync.pairs (256 * f.part + f.op 0x20 1)).isSome = true →
      exec (.syncUnpair d) s = .next (endF { s with sync := { s.sync with pairs := tdel s.sync.pairs (256 * f.part + f.op 0x20 1) } } d stOk 0))
  ∧ (∀ (s v : State) (d c n : Nat) (f : Flight),
      Runs s d 0x8020 f →
      f.op 0x28 2 = c →
      f.op 0x2A 2 = n →
      f.op 0x20 8 < 2 ^ 47 ∨ 2 ^ 48 ≤ f.op 0x20 8 →
      f.op 0x20 8 % 8 = 0 →
      n ≠ 0 →
      n ≤ 256 →
      c + n ≤ 1024 →
      f.zeroFrom 0x2C = true →
      s.fab.severed = false ∨ c + n ≤ 512 →
      (vwrite s (cxOf s f d) (f.op 0x20 8) ((List.range n).flatMap fun i => toLe 8 (ctrOf s f.part (c + i))) = .ok v) →
      exec (.syncRead d) s = .next (endF v d stOk 0))
  ∧ (∀ (s : State) (p c n : Nat),
      p < 16 →
      c < 1024 →
      counterFar s c = false →
      n ≠ 0 →
      inReset s p = false →
      ∃ t, exec (.signalAdd p c n) s = .next t ∧ t.parts = s.parts ∧ t.mem = s.mem ∧
        t.sync = { s.sync with counters := tput s.sync.counters (physCounter p c) (min (ctrOf s p c + n) (2 ^ 64 - 1)) })

/-- Ports from training to keys (R385-R396). Version 1 is assumption 67. -/
def Obligations.PortsTrainGreetAuthenticateAndCarryFlits : Prop :=
  (∀ (s : State) (port : Nat) (f : Flit),
      port < 32 →
      (getPort s port).st = .hello ∨ (getPort s port).st = .auth ∨ (getPort s port).st = .unexpected ∨ (getPort s port).st = .up →
      f.bytes.length = 256 →
      f.codeOk = true →
      (getPort s port).even = none →
      (getPort s port).keyed = false ∨ flitSeq f % 2 = 1 →
      flitSeq f = (getPort s port).seqExp →
      flitCrcOk f = true →
      flitNak f = false →
      ∃ t, exec (.flitReceive port f) s = .next t ∧ (getPort t port).seqExp = ((getPort s port).seqExp + 1) % 4096 ∧
        (getPort t port).ackOut = flitAck f ∧ (getPort t port).nak = false ∧ (getPort t port).replays = 0 ∧
        (getPort t port).st = (getPort s port).st ∧ (getPort t port).keys = (getPort s port).keys ∧
        (getPort t port).credits = returnCredits (getPort s port).credits f ∧
        (getPort t port).unacked = (getPort s port).unacked.filter fun e => decide (0 < (e.1 + 4096 - flitAck f) % 4096 ∧ (e.1 + 4096 - flitAck f) % 4096 < 2049))
  ∧ (∀ (s : State) (port : Nat) (f : Flit),
      port < 32 →
      (getPort s port).st = .hello ∨ (getPort s port).st = .auth ∨ (getPort s port).st = .unexpected ∨ (getPort s port).st = .up →
      f.bytes.length = 256 →
      f.codeOk = true →
      (getPort s port).even = none →
      (getPort s port).keyed = true →
      flitSeq f % 2 = 0 →
      flitSeq f = (getPort s port).seqExp →
      exec (.flitReceive port f) s = .next (putPort s port { getPort s port with even := some f.bytes }))
  ∧ (∀ (s : State) (port : Nat) (f : Flit) (a body : List Byte),
      port < 32 →
      (getPort s port).st = .hello ∨ (getPort s port).st = .auth ∨ (getPort s port).st = .unexpected ∨ (getPort s port).st = .up →
      f.bytes.length = 256 →
      f.codeOk = true →
      (getPort s port).even = some a →
      flitSeq f = ((getPort s port).seqExp + 1) % 4096 →
      ((rxKey (getPort s port) (flitPhase { f with bytes := a })).bind fun k => openPair k.1 k.2.1 k.2.2 a f.bytes) = some body →
      flitNak { f with bytes := a } = false →
      flitNak f = false →
      (getPort s port).st ≠ .up →
      ∃ t, exec (.flitReceive port f) s = .next t ∧ (getPort t port).seqExp = ((getPort s port).seqExp + 2) % 4096 ∧ (getPort t port).even = none ∧
        (getPort t port).nak = false ∧ (getPort t port).replays = 0 ∧ (getPort t port).ackOut = flitAck f ∧
        (getPort t port).rxPairs = (if flitPhase { f with bytes := a } = (getPort s port).farPhase then (getPort s port).rxPairs + 1 else (getPort s port).rxPairs) ∧
        (getPort t port).rx = (getPort s port).rx ++ (if flitType { f with bytes := a } = 1 then body.take 240 else []) ++ (if flitType f = 1 then body.drop 240 else []))
  ∧ (∀ (s : State) (port : Nat) (f : Flit),
      port < 32 →
      (getPort s port).st = .hello ∨ (getPort s port).st = .auth ∨ (getPort s port).st = .unexpected ∨ (getPort s port).st = .up →
      f.bytes.length = 256 →
      f.codeOk = false →
      (getPort s port).replays < 8 →
      ∃ t, exec (.flitReceive port f) s = .next t ∧ (getPort t port).nak = true ∧ (getPort t port).replays = (getPort s port).replays + 1 ∧
        (getPort t port).even = none ∧ (getPort t port).st = (getPort s port).st ∧ (getPort t port).seqExp = (getPort s port).seqExp)
  ∧ (∀ (s : State) (port : Nat) (f : Flit),
      port < 32 →
      (getPort s port).st = .hello ∨ (getPort s port).st = .auth ∨ (getPort s port).st = .unexpected ∨ (getPort s port).st = .up →
      f.bytes.length = 256 →
      f.codeOk = true →
      (getPort s port).seqExp < 4096 →
      (getPort s port).even = none →
      (0 < ((getPort s port).seqExp + 4096 - flitSeq f) % 4096 ∧ ((getPort s port).seqExp + 4096 - flitSeq f) % 4096 < 2049) →
      exec (.flitReceive port f) s = .next s)
  ∧ (∀ (s : State) (port : Nat),
      (getPort s port).st = .train →
      (getPort s port).trainSince + 100000000 ≤ s.time.now →
      ∃ t, exec (.portTrainTimeout port) s = .next t ∧ (getPort t port).keyed = false ∧
        (getPort t port).st = if (getPort s port).fromUp = true then .retired else .down)
  ∧ (∀ (s : State) (port : Nat),
      port < 32 →
      ((getPort s port).st = .train ∧ ((getPort s port).fromUp && (getPort s port).keyed) = false) ∨ ((getPort s port).st = .down ∧ (getPort s port).holds = [] ∧ 0 < (getPort s port).authRetryAt ∧ (getPort s port).authRetryAt ≤ s.time.now) →
      ∃ t, exec (.portTrainDone port) s = .next t ∧ (getPort t port).st = .hello ∧ (getPort t port).keyed = false ∧ (getPort t port).keys = [] ∧
        (getPort t port).seqExp = 0 ∧ (getPort t port).credits = [4096, 4096, 1024] ∧ (getPort t port).nonce = Config.entropy s.gnt.drawn ∧
        t.gnt.drawn = s.gnt.drawn + 1)
  ∧ (∀ (s : State) (port : Nat),
      port < 32 →
      (getPort s port).st = .train →
      (getPort s port).fromUp = true →
      (getPort s port).keyed = true →
      ∃ t, exec (.portTrainDone port) s = .next t ∧ (getPort t port).st = .up ∧ (getPort t port).keyed = true ∧ (getPort t port).keys = (getPort s port).keys)
  ∧ (∀ (s : State) (port hash farPort nonce : Nat),
      (getPort s port).st = .hello →
      exec (.hello port 1 hash farPort nonce) s = .next (putPort s port { getPort s port with st := .auth, farHash := hash, farPort := farPort, farNonce := nonce }))
  ∧ (∀ (s : State) (port version hash farPort nonce : Nat),
      (getPort s port).st = .hello →
      version ≠ 1 →
      ∃ t, exec (.hello port version hash farPort nonce) s = .next t ∧ (getPort t port).st = .down ∧ (getPort t port).authRetryAt = s.time.now + 1000000000)
  ∧ (∀ (s : State) (port pub : Nat) (chain sig : List Byte),
      (getPort s port).st = .auth →
      (getPort s port).keyed = false →
      s.mgmt.gauntletWdt = false →
      ∃ t, exec (.auth port chain sig pub) s = .next t ∧
        (if (Config.chainValid chain && leNat ((Config.sha384 (Config.chainKey chain)).take 16) == (getPort s port).farHash &&
            Config.ecdsaVerify (Config.chainKey chain) (linkTranscript s port chain pub) sig) = true
          then (getPort t port).keyed = true ∧ (getPort t port).keySince = s.time.now ∧ (getPort t port).st = .auth ∧
            (getPort t port).keys = (linkKeys s port (Config.entropy s.gnt.drawn) pub).1 ∧
            (getPort t port).salts = (linkKeys s port (Config.entropy s.gnt.drawn) pub).2 ∧ (port, 1) ∈ t.plauf.ctrl ∧ t.gnt.drawn = s.gnt.drawn + 1
          else (getPort t port).st = .down ∧ (getPort t port).authRetryAt = s.time.now + 1000000000))
  ∧ (∀ (s : State) (port hash farPort ownerHash pkg waves : Nat),
      (getPort s port).st = .auth →
      (getPort s port).keyed = true →
      ∃ t, exec (.topo port hash farPort ownerHash pkg waves) s = .next t ∧ (getPort t port).farHash = hash ∧ (getPort t port).farPort = farPort ∧
        (getPort t port).farOwner = ownerHash ∧ (getPort t port).farPkg = pkg ∧ (getPort t port).farWaves = waves ∧
        (getPort t port).st = if expectedPort (putPort s port { getPort s port with farHash := hash, farPort := farPort, farOwner := ownerHash, farPkg := pkg, farWaves := waves }) port = true
          then .up else .unexpected)
  ∧ (∀ (s : State) (port dir : Nat),
      (getPort s port).keyed = true →
      dir < 2 →
      ∃ t, exec (.keyReplace port dir) s = .next t ∧ (getPort t port).keys = (getPort s port).keys.set dir (Config.entropy s.gnt.drawn) ∧
        (getPort t port).phase = (if dir = 0 then !(getPort s port).phase else (getPort s port).phase) ∧
        (getPort t port).keySince = (if dir = 0 then s.time.now else (getPort s port).keySince) ∧
        (getPort t port).st = (getPort s port).st ∧ t.gnt.drawn = s.gnt.drawn + 1)

/-- The optical wavelengths, the laser inputs and the receivers (R382-R384, R397, R398, R451). -/
def Obligations.LightLinesAndWavelengthsComeAndGo : Prop :=
  (∀ (s : State) (port wave : Nat),
      port < 32 →
      wave < 16 →
      (getPort s port).st ≠ .retired →
      (getPort s port).retiredWaves.contains wave = false →
      ∃ t, exec (.wavelengthRetire port wave) s = .next t ∧ (getPort t port).retiredWaves = (getPort s port).retiredWaves ++ [wave] ∧
        (getPort t port).st = (if 9 ≤ (getPort s port).retiredWaves.length + 1 then .retired else (getPort s port).st))
  ∧ (∀ (s : State) (port line : Nat) (ringOk : Bool),
      port < 32 →
      line < 16 →
      (getPort s port).st ≠ .retired →
      (getPort s port).st ≠ .down →
      (getPort s port).spareRing = true →
      exec (.ringRecalibrate port line ringOk) s = .next (putPort s port { getPort s port with spareRing := ringOk, lastRing := line }))
  ∧ (∀ (s : State) (engine line : Nat),
      engine < 8 →
      line < 16 →
      s.plauf.lowLines.contains (engine, line) = false →
      ∃ t, exec (.laserLineLow engine line) s = .next t ∧ t.plauf = { s.plauf with lowLines := s.plauf.lowLines ++ [(engine, line)] })
  ∧ (∀ (s : State) (engine line : Nat),
      s.plauf.lowLines.contains (engine, line) = true →
      ∃ t, exec (.laserLineRestored engine line) s = .next t ∧ t.plauf = { s.plauf with lowLines := s.plauf.lowLines.filter (· != (engine, line)) })
  ∧ (∀ (s : State) (engine : Nat),
      engine < 8 →
      s.plauf.laserOut.contains engine = false →
      ∃ t, exec (.laserLost engine) s = .next t ∧ (∀ q, 4 * engine ≤ q → q < 4 * engine + 4 → (getPort s q).st ≠ .retired → (getPort t q).st = .down ∧ 1 ∈ (getPort t q).holds))
  ∧ (∀ (s : State) (engine : Nat),
      s.plauf.laserOut.contains engine = true →
      ∃ t, exec (.laserInputRestored engine) s = .next t ∧ (∀ q, 4 * engine ≤ q → q < 4 * engine + 4 →
          (getPort t q).holds = (getPort s q).holds.filter (· != 1) ∧
          ((getPort s q).st = .down → (getPort s q).holds.contains 1 = true → (getPort t q).holds = [] → (getPort t q).st = .train)))
  ∧ (∀ (s : State) (port : Nat),
      port < 32 →
      (getPort s port).st ≠ .retired →
      ∃ t, exec (.lossOfLight port) s = .next t ∧ (getPort t port).st = .down ∧ 5 ∈ (getPort t port).holds ∧ (getPort t port).keyed = false ∧ t.flt = s.flt)
  ∧ (∀ (s : State) (port : Nat),
      port < 32 →
      ∃ t, exec (.lightDetected port) s = .next t ∧ (getPort t port).holds = (getPort s port).holds.filter (· != 5) ∧
        (getPort t port).st = if (getPort s port).st = .down ∧ (getPort s port).holds.filter (· != 5) = [] then .train else (getPort s port).st)

/-- Windows (R399, R410, R446). -/
def Obligations.WindowsOpenAndClose : Prop :=
  (∀ (s : State) (d : Nat) (f : Flight),
      Runs s d 0x9010 f →
      f.op 0x21 1 < 32 →
      f.op 0x22 1 ≤ 7 →
      13 ≤ f.op 0x23 1 →
      f.op 0x23 1 ≤ 40 →
      f.op 0x24 1 < 64 ∨ f.op 0x24 1 = 0xFF →
      f.op 0x28 8 % 8192 = 0 →
      f.op 0x28 8 + 2 ^ f.op 0x23 1 ≤ 0x7F0000000000 →
      f.op 0x26 2 + f.op 0x30 2 ≤ 1024 →
      (bit (f.op 0x21 1) 3 = true → f.op 0x30 2 ≠ 0) →
      f.zero 0x25 1 = true →
      f.zeroFrom 0x32 = true →
      tfind s.plauf.exports (256 * f.part + f.op 0x20 1) = none →
      (if f.op 0x24 1 = 0xFF then anyPairing s f.part = true else ∃ x ∈ pairingOf s f.part (f.op 0x24 1), ∀ i < 5, bit (f.op 0x21 1) i = true → bit x.ceiling i = true) →
      ∃ u, exec (.winExport d) s = .next (endF u d stOk 0) ∧
        u = { s with plauf := { s.plauf with exports := tput s.plauf.exports (256 * f.part + f.op 0x20 1) { rights := f.op 0x21 1, cls := f.op 0x22 1, sizeLog2 := f.op 0x23 1, handle := f.op 0x24 1, firstCounter := f.op 0x26 2, base := f.op 0x28 8, counters := f.op 0x30 2 } } })
  ∧ (∀ (s : State) (d : Nat) (f : Flight) (e : Export),
      Runs s d 0x9011 f →
      f.zeroFrom 0x21 = true →
      tfind s.plauf.exports (256 * f.part + f.op 0x20 1) = some e →
      e.unexportBy = none →
      ∃ u, exec (.winUnexport d) s = .next (putF u d { f with phase := .running }) ∧
        u = { s with plauf := { s.plauf with exports := tput s.plauf.exports (256 * f.part + f.op 0x20 1) { e with open_ := false, unexportBy := some d } } })
  ∧ (∀ (s : State) (d key : Nat) (e : Export),
      (s.plauf.exports.find? (fun e => e.2.unexportBy == some d) = some (key, e)) →
      e.inUse = 0 →
      exec (.winUnexportDone d) s = .next (endF { s with plauf := { s.plauf with exports := tdel s.plauf.exports key } } d stOk 0))
  ∧ (∀ (s : State) (d : Nat) (f : Flight) (pr : Pairing),
      Runs s d 0x9012 f →
      f.op 0x21 1 < 64 →
      f.zeroFrom 0x23 = true →
      tfind s.plauf.imports (256 * f.part + f.op 0x20 1) = none →
      pairingOf s f.part (f.op 0x21 1) = some pr →
      groupOf s pr.farHash ≠ [] →
      ∃ u, exec (.winImport d) s = .next (request u d f.part (f.op 0x20 1) 0x10 f.cls 4 (f.op 0x20 1) 0 0 0 0 []) ∧
        u = putF { s with plauf := { s.plauf with imports := tput s.plauf.imports (256 * f.part + f.op 0x20 1) { handle := f.op 0x21 1, exportId := f.op 0x22 1, by_ := d } } } d { f with phase := .running })
  ∧ (∀ (s : State) (d : Nat) (f : Flight) (im : Import),
      Runs s d 0x9013 f →
      f.zeroFrom 0x21 = true →
      importOf s f.part (f.op 0x20 1) = some im →
      im.bound = true →
      importUsed s f.part (f.op 0x20 1) = false →
      exec (.winUnimport d) s = .next (endF { s with plauf := { s.plauf with imports := tdel s.plauf.imports (256 * f.part + f.op 0x20 1) } } d stOk 0))

/-- The REMOTE family's data (R241, R402, R403, R461) and sealed transfers (R435-R437). -/
def Obligations.RemoteAndSealedTransfersLeave : Prop :=
  (∀ (s : State) (d : Nat) (f : Flight) (im : Import),
      Runs s d 0x9001 f →
      f.fEve = false →
      f.zero 0x29 7 = true →
      f.zeroFrom 0x3C = true →
      f.op 0x38 4 % 64 = 0 →
      64 ≤ f.op 0x38 4 →
      f.op 0x38 4 ≤ 2 ^ 26 →
      f.op 0x20 8 % 64 = 0 →
      f.op 0x30 8 % 64 = 0 →
      f.op 0x20 8 + f.op 0x38 4 ≤ 2 ^ 47 ∨ 2 ^ 48 ≤ f.op 0x20 8 →
      importOf s f.part (f.op 0x28 1) = some im →
      im.bound = true →
      bit im.rights 0 = true →
      (pairingOf s f.part im.handle).isSome = true →
      ∃ t, exec (.remoteRead d) s = .next t ∧ HasStatus t d stOk 0 ∧
        t = endF ((List.range ((f.op 0x38 4 + 2047) / 2048)).foldl (fun t i =>
          request t d f.part (f.op 0x28 1) 1 f.cls 0 (f.op 0x20 8 + 2048 * i) (f.op 0x30 8 + 2048 * i) 0 0 (min 32 ((f.op 0x38 4 - 2048 * i) / 64)) []) s) d stOk 0)
  ∧ (∀ (s : State) (d : Nat) (f : Flight) (im : Import),
      Runs s d 0x9002 f →
      f.fEve = false →
      f.zero 0x29 7 = true →
      f.zeroFrom 0x3C = true →
      f.op 0x38 4 % 64 = 0 →
      64 ≤ f.op 0x38 4 →
      f.op 0x38 4 ≤ 2 ^ 26 →
      f.op 0x20 8 % 64 = 0 →
      f.op 0x30 8 % 64 = 0 →
      f.op 0x20 8 + f.op 0x38 4 ≤ 2 ^ 47 ∨ 2 ^ 48 ≤ f.op 0x20 8 →
      importOf s f.part (f.op 0x28 1) = some im →
      im.bound = true →
      bit im.rights 1 = true →
      (pairingOf s f.part im.handle).isSome = true →
      (∀ i < f.op 0x38 4, ∃ pa w, xlate s f.part (f.op 0x20 8 + i) = .ok (.loc pa w) ∧ heldAt s f.part pa = false ∧ poisoned s pa = false) →
      ∃ t bs, exec (.remoteWrite d) s = .next t ∧ HasStatus t d stOk 0 ∧ vreadP s (cxOf s f d) (f.op 0x20 8) (f.op 0x38 4) = .ok bs ∧
        t = endF ((transferParts bs).foldl (fun t e =>
          request t d f.part (f.op 0x28 1) 3 f.cls 2 0 (f.op 0x30 8 + e.1) 0 0 0 e.2.1 (if e.2.2 then 2 else 0)) s) d stOk 0)
  ∧ (∀ (s : State) (d : Nat) (f : Flight) (im : Import) (bs : List (Byte × Bool)),
      Runs s d 0x9002 f →
      f.fEve = false →
      f.zero 0x29 7 = true →
      f.zeroFrom 0x3C = true →
      f.op 0x38 4 % 64 = 0 →
      64 ≤ f.op 0x38 4 →
      f.op 0x38 4 ≤ 2 ^ 26 →
      f.op 0x20 8 % 64 = 0 →
      f.op 0x30 8 % 64 = 0 →
      f.op 0x20 8 + f.op 0x38 4 ≤ 2 ^ 47 ∨ 2 ^ 48 ≤ f.op 0x20 8 →
      importOf s f.part (f.op 0x28 1) = some im →
      im.bound = true →
      bit im.rights 1 = true →
      (pairingOf s f.part im.handle).isSome = true →
      vreadP s (cxOf s f d) (f.op 0x20 8) (f.op 0x38 4) = .ok bs →
      bs.any Prod.snd = true →
      ∃ t, exec (.remoteWrite d) s = .next t ∧ HasStatus t d stPoisoned 0 ∧
        t = endF ((transferParts bs).foldl (fun t e =>
          request t d f.part (f.op 0x28 1) 3 f.cls 2 0 (f.op 0x30 8 + e.1) 0 0 0 e.2.1 (if e.2.2 then 2 else 0)) s) d stPoisoned 0)
  ∧ (∀ (s : State) (d : Nat) (f : Flight) (t : Tensor) (im : Import),
      Runs s d 0x9003 f →
      f.fEve = false →
      f.zero 0x29 7 = true →
      f.zeroFrom 0x3A = true →
      f.op 0x38 1 ≤ 2 →
      f.op 0x39 1 ∈ [0, 1, 6, 7] →
      f.op 0x30 8 % 64 = 0 →
      operand s (cxOf s f d) (f.op 0x20 8) = .ok t →
      t.fmt = f.op 0x39 1 →
      t.contiguous = true →
      t.base % 64 = 0 →
      t.bytes % 64 = 0 →
      t.bytes ≤ 2 ^ 26 →
      importOf s f.part (f.op 0x28 1) = some im →
      im.bound = true →
      bit im.rights 2 = true →
      (pairingOf s f.part im.handle).isSome = true →
      (∀ i < t.bytes, ∃ pa w, xlate s f.part (t.base + i) = .ok (.loc pa w) ∧ heldAt s f.part pa = false ∧ poisoned s pa = false) →
      ∃ u bs, exec (.remoteAtomic d) s = .next u ∧ HasStatus u d stOk 0 ∧ vreadP s (cxOf s f d) t.base t.bytes = .ok bs ∧
        u = endF ((transferParts bs).foldl (fun t e =>
          request t d f.part (f.op 0x28 1) 5 f.cls 2 0 (f.op 0x30 8 + e.1) (f.op 0x38 1) (f.op 0x39 1) 0 e.2.1 (if e.2.2 then 2 else 0)) s) d stOk 0)
  ∧ (∀ (s : State) (d : Nat) (f : Flight) (t : Tensor) (im : Import) (bs : List (Byte × Bool)),
      Runs s d 0x9003 f →
      f.fEve = false →
      f.zero 0x29 7 = true →
      f.zeroFrom 0x3A = true →
      f.op 0x38 1 ≤ 2 →
      f.op 0x39 1 ∈ [0, 1, 6, 7] →
      f.op 0x30 8 % 64 = 0 →
      operand s (cxOf s f d) (f.op 0x20 8) = .ok t →
      t.fmt = f.op 0x39 1 →
      t.contiguous = true →
      t.base % 64 = 0 →
      t.bytes % 64 = 0 →
      t.bytes ≤ 2 ^ 26 →
      importOf s f.part (f.op 0x28 1) = some im →
      im.bound = true →
      bit im.rights 2 = true →
      (pairingOf s f.part im.handle).isSome = true →
      vreadP s (cxOf s f d) t.base t.bytes = .ok bs →
      bs.any Prod.snd = true →
      ∃ u, exec (.remoteAtomic d) s = .next u ∧ HasStatus u d stPoisoned 0 ∧
        u = endF ((transferParts bs).foldl (fun t e =>
          request t d f.part (f.op 0x28 1) 5 f.cls 2 0 (f.op 0x30 8 + e.1) (f.op 0x38 1) (f.op 0x39 1) 0 e.2.1 (if e.2.2 then 2 else 0)) s) d stPoisoned 0)
  ∧ (∀ (s : State) (d : Nat) (f : Flight) (im : Import),
      Runs s d 0x9004 f →
      f.fEve = false →
      f.zero 0x21 1 = true →
      f.zero 0x24 4 = true →
      f.zeroFrom 0x30 = true →
      1 ≤ f.op 0x28 8 →
      f.op 0x28 8 < 2 ^ 48 →
      importOf s f.part (f.op 0x20 1) = some im →
      im.bound = true →
      bit im.rights 3 = true →
      (pairingOf s f.part im.handle).isSome = true →
      f.op 0x22 2 < im.counters →
      ∃ t, exec (.remoteSignal d) s = .next t ∧ HasStatus t d stOk 0 ∧
        t = endF (request s d f.part (f.op 0x20 1) 7 f.cls 2 0 (f.op 0x22 2) 0 0 (f.op 0x28 8) []) d stOk 0)
  ∧ (∀ (s : State) (d : Nat) (f : Flight) (b : List Byte) (r : SealRec) (k : KeySlot),
      Runs s d 0x9020 f →
      f.fEve = false →
      f.zeroFrom 0x28 = true →
      recordIn s (cxOf s f d) (f.op 0x20 8) 64 64 = .ok b →
      parseSeal b = some r →
      r.local_ + 8192 * r.cells ≤ 0x7F0000000000 →
      keySlot s f.part r.slot = some k →
      isSealed s f.part = true →
      bit k.use 0 = true →
      exec (.sealIn d) s = .next (sealInCells d f r k r.cells 0 s))
  ∧ (∀ (s : State) (d : Nat) (f : Flight) (b : List Byte) (r : SealRec) (k : KeySlot) (ct : List Byte),
      Runs s d 0x9020 f →
      f.fEve = false →
      f.zeroFrom 0x28 = true →
      recordIn s (cxOf s f d) (f.op 0x20 8) 64 64 = .ok b →
      parseSeal b = some r →
      r.local_ + 8192 * r.cells ≤ 0x7F0000000000 →
      keySlot s f.part r.slot = some k →
      isSealed s f.part = true →
      bit k.use 0 = true →
      r.cells = 1 →
      hread s r.host 8192 = some ct →
      hread s r.tags 16 = some (fit 16 (Config.gcmTag k.key (sealIv r.object r.first) [] ct)) →
      (∀ i < 8192, ∃ pa, xlate s f.part (r.local_ + i) = .ok (.loc pa true) ∧ heldAt s f.part pa = false) →
      ∃ t v, exec (.sealIn d) s = .next t ∧ HasStatus t d stOk 0 ∧ t = endF v d stOk 0 ∧
        vwrite s (cxOf s f d) r.local_ (fit 8192 (gcmCrypt k.key (sealIv r.object r.first) ct)) = .ok v)
  ∧ (∀ (s : State) (d : Nat) (f : Flight) (b : List Byte) (r : SealRec) (k : KeySlot) (ct tag : List Byte),
      Runs s d 0x9020 f →
      f.fEve = false →
      f.zeroFrom 0x28 = true →
      recordIn s (cxOf s f d) (f.op 0x20 8) 64 64 = .ok b →
      parseSeal b = some r →
      r.local_ + 8192 * r.cells ≤ 0x7F0000000000 →
      keySlot s f.part r.slot = some k →
      isSealed s f.part = true →
      bit k.use 0 = true →
      r.cells = 1 →
      hread s r.host 8192 = some ct →
      hread s r.tags 16 = some tag →
      fit 16 (Config.gcmTag k.key (sealIv r.object r.first) [] ct) ≠ tag →
      exec (.sealIn d) s = .next (endF (emit s 6 6 { part := f.part } [(8, r.local_)]) d stPoisoned 0))
  ∧ (∀ (s u : State) (d : Nat) (f : Flight) (b : List Byte) (r : SealRec) (k : KeySlot),
      Runs s d 0x9021 f →
      f.fEve = false →
      f.zeroFrom 0x28 = true →
      recordIn s (cxOf s f d) (f.op 0x20 8) 64 64 = .ok b →
      parseSeal b = some r →
      r.local_ + 8192 * r.cells ≤ 0x7F0000000000 →
      keySlot s f.part r.slot = some k →
      isSealed s f.part = true →
      bit k.use 1 = true →
      vwrite (putKeys s f.part { getKeys s f.part with slots := tput (getKeys s f.part).slots r.slot { k with counter := (k.counter + 1) % 2 ^ 64 } }) (cxOf s f d) (f.op 0x20 8 + 0x18) (toLe 8 k.counter) = .ok u →
      exec (.sealOut d) s = .next (sealOutCells d f r k r.cells u))
  ∧ (∀ (s u : State) (d : Nat) (f : Flight) (b : List Byte) (r : SealRec) (k : KeySlot),
      Runs s d 0x9021 f →
      f.fEve = false →
      f.zeroFrom 0x28 = true →
      recordIn s (cxOf s f d) (f.op 0x20 8) 64 64 = .ok b →
      parseSeal b = some r →
      r.local_ + 8192 * r.cells ≤ 0x7F0000000000 →
      keySlot s f.part r.slot = some k →
      isSealed s f.part = true →
      bit k.use 1 = true →
      r.cells = 1 →
      vwrite (putKeys s f.part { getKeys s f.part with slots := tput (getKeys s f.part).slots r.slot { k with counter := (k.counter + 1) % 2 ^ 64 } }) (cxOf s f d) (f.op 0x20 8 + 0x18) (toLe 8 k.counter) = .ok u →
      (∀ i < 8192, ∃ pa w, xlate u f.part (r.local_ + i) = .ok (.loc pa w) ∧ heldAt u f.part pa = false ∧ poisoned u pa = false) →
      hostBad u r.host 8192 = false →
      hostBad u r.tags 16 = false →
      ∃ t bs, exec (.sealOut d) s = .next t ∧ HasStatus t d stOk 0 ∧ vreadP u (cxOf u f d) r.local_ 8192 = .ok bs ∧
        t = endF (hwrite (hwrite u r.host (fit 8192 (gcmCrypt k.key (sealIv k.counter r.first) (bs.map Prod.fst)))) r.tags
          (fit 16 (Config.gcmTag k.key (sealIv k.counter r.first) [] (fit 8192 (gcmCrypt k.key (sealIv k.counter r.first) (bs.map Prod.fst)))))) d stOk 0)

/-- Ingress (R399, R400, R404, R405). The fields of IMP_R are assumption 57. -/
def Obligations.RequestsFromANeighbourAreServed : Prop :=
  (∀ (s : State) (port : Nat) (m : RemMsg) (e : Export) (bs : List (Byte × Bool)),
      (getPort s port).st = .up →
      m.type = 1 →
      s.fab.severed = false ∨ port < 16 →
      ingress s (getPort s port).farHash m = .ok e →
      vreadP s (ingressCx m) (e.base + m.offset) (reqBytes m) = .ok bs →
      exec (.rd port m) s = .next (answerTo s (getPort s port).farHash m (if bs.any Prod.snd then 2 else 0) (if bs.any Prod.snd then [] else bs.map Prod.fst)))
  ∧ (∀ (s t : State) (port hash key : Nat) (m : RemMsg) (x : StreamIn) (e : Export),
      (getPort s port).st = .up →
      m.type = 3 →
      ingressHeld s hash m = false →
      s.pwr.pkg ≠ .trip →
      s.fab.severed = false ∨ port < 16 →
      hash = (getPort s port).farHash →
      key = streamKey hash m.sendPart m.targetPart →
      m.epochTarget = (tfind s.plauf.targetEpoch m.targetPart).getD 0 →
      newerHalf (streamIn s key).sender m.epochSender = false →
      x = (if m.epochSender = (streamIn s key).sender then streamIn s key else { sender := m.epochSender }) →
      wasApplied x m.streamSeq = false →
      ingress (putStream s key x) hash m = .ok e →
      (vwriteP (putStream s key x) (ingressCx m) 1 (e.base + m.offset) (m.data.map fun b => (b, m.status == 2)) = .ok t) →
      exec (.wr port m) s = .next (releaseSignals 4097 (answerTo (putStream t key (markSeq (streamIn t key) m.streamSeq)) hash m 0 []) key))
  ∧ (∀ (s : State) (port hash key : Nat) (m : RemMsg) (x : StreamIn) (e : Export),
      (getPort s port).st = .up →
      m.type = 5 →
      ingressHeld s hash m = false →
      s.pwr.pkg ≠ .trip →
      s.fab.severed = false ∨ port < 16 →
      hash = (getPort s port).farHash →
      key = streamKey hash m.sendPart m.targetPart →
      m.epochTarget = (tfind s.plauf.targetEpoch m.targetPart).getD 0 →
      newerHalf (streamIn s key).sender m.epochSender = false →
      x = (if m.epochSender = (streamIn s key).sender then streamIn s key else { sender := m.epochSender }) →
      wasApplied x m.streamSeq = false →
      ingress (putStream s key x) hash m = .ok e →
      exec (.atom port m) s = .next (releaseSignals 4097 (answerTo (putStream (applyReq (putStream s key x) e m).1 key
          (markSeq (streamIn (applyReq (putStream s key x) e m).1 key) m.streamSeq)) hash m (applyReq (putStream s key x) e m).2 []) key))
  ∧ (∀ (s : State) (port hash key : Nat) (m : RemMsg) (x : StreamIn) (e : Export),
      (getPort s port).st = .up →
      m.type = 7 →
      ingressHeld s hash m = false →
      s.pwr.pkg ≠ .trip →
      s.fab.severed = false ∨ port < 16 →
      hash = (getPort s port).farHash →
      key = streamKey hash m.sendPart m.targetPart →
      m.epochTarget = (tfind s.plauf.targetEpoch m.targetPart).getD 0 →
      newerHalf (streamIn s key).sender m.epochSender = false →
      x = (if m.epochSender = (streamIn s key).sender then streamIn s key else { sender := m.epochSender }) →
      wasApplied x m.streamSeq = false →
      ingress (putStream s key x) hash m = .ok e →
      m.streamSeq = x.applied →
      exec (.sig port m) s = .next (releaseSignals 4097 (answerTo (putStream (addCounter (putStream s key x) m.targetPart (e.firstCounter + m.offset) m.increment (some m.sendPart)).1 key
          (markSeq (streamIn (addCounter (putStream s key x) m.targetPart (e.firstCounter + m.offset) m.increment (some m.sendPart)).1 key) m.streamSeq)) hash m 0 []) key))
  ∧ (∀ (s : State) (port hash key : Nat) (m : RemMsg) (x : StreamIn),
      (getPort s port).st = .up →
      ingressHeld s hash m = false →
      s.pwr.pkg ≠ .trip →
      s.fab.severed = false ∨ port < 16 →
      hash = (getPort s port).farHash →
      key = streamKey hash m.sendPart m.targetPart →
      m.epochTarget = (tfind s.plauf.targetEpoch m.targetPart).getD 0 →
      newerHalf (streamIn s key).sender m.epochSender = false →
      x = (if m.epochSender = (streamIn s key).sender then streamIn s key else { sender := m.epochSender }) →
      wasApplied x m.streamSeq = true →
      (m.type = 3 → exec (.wr port m) s = .next (answerTo (putStream s key x) hash m 0 [])) ∧
      (m.type = 5 → exec (.atom port m) s = .next (answerTo (putStream s key x) hash m 0 [])) ∧
      (m.type = 7 → exec (.sig port m) s = .next (answerTo (putStream s key x) hash m 0 [])))
  ∧ (∀ (s : State) (port rights : Nat) (m : RemMsg) (e : Export),
      (getPort s port).st = .up →
      m.type = 0x10 →
      s.pwr.pkg ≠ .trip →
      exportFor s (getPort s port).farHash m = some (e, rights) →
      exec (.impQ port m) s = .next (answerTo s (getPort s port).farHash { m with op := e.sizeLog2, format := rights, increment := e.counters } 0 []))

/-- Answers and their lack (R403-R405, R408). -/
def Obligations.AnswersSettleWhatWasSent : Prop :=
  (∀ (s t : State) (port n : Nat) (m : RemMsg) (o : OutReq) (f : Flight),
      requestOf s port 1 m.tag = some (n, o) →
      m.status = 0 →
      o.kind = 0 →
      getF s o.desc = some f →
      vwrite (delOut s n) (cxOf (delOut s n) f o.desc) o.local_ m.data = .ok t →
      exec (.rdData port m) s = .next (pumpOut (settleF t o.desc)))
  ∧ (∀ (s : State) (port n : Nat) (m : RemMsg) (o : OutReq),
      requestOf s port 3 m.tag = some (n, o) →
      m.status = 0 →
      o.kind = 2 →
      exec (.wrAck port m) s = .next (pumpOut (settleF (delOut s n) o.desc)))
  ∧ (∀ (s : State) (port n : Nat) (m : RemMsg) (o : OutReq),
      requestOf s port 5 m.tag = some (n, o) →
      m.status = 0 →
      o.kind = 2 →
      exec (.atomAck port m) s = .next (pumpOut (settleF (delOut s n) o.desc)))
  ∧ (∀ (s : State) (port n : Nat) (m : RemMsg) (o : OutReq),
      requestOf s port 7 m.tag = some (n, o) →
      m.status = 0 →
      o.kind = 2 →
      exec (.sigAck port m) s = .next (pumpOut (settleF (delOut s n) o.desc)))
  ∧ (∀ (s : State) (port n : Nat) (m : RemMsg) (o : OutReq) (im : Import) (pr : Pairing),
      requestOf s port 0x10 m.tag = some (n, o) →
      m.status = 0 →
      o.kind = 4 →
      importOf s o.part o.local_ = some im →
      pairingOf s o.part o.handle = some pr →
      ∃ u, exec (.impR port m) s = .next (pumpOut (endF u o.desc stOk (m.op + 2 ^ 8 * m.format + 2 ^ 16 * m.increment))) ∧
        importOf u o.part o.local_ = some { im with bound := true, sizeLog2 := m.op, rights := m.format, counters := m.increment } ∧
        ((tfind u.plauf.streamsOut (streamKey pr.farHash o.part pr.farPart)).getD {}).target = m.epochTarget)
  ∧ (∀ (s : State) (req q : Nat) (o : OutReq),
      tfind s.plauf.out req = some o →
      o.msg.type = 1 →
      o.resent = false →
      (getPort s o.port).st = .up →
      o.port ≤ 253 →
      o.sentAt + 1000000 ≤ s.time.now →
      nextInGroup (groupOf s (getPort s o.port).farHash) o.port = some q →
      ∃ u, exec (.rdResend req) s = .next u ∧ tfind u.plauf.out req = some { o with port := q, sentAt := s.time.now, resent := true } ∧
        u.plauf.sent = s.plauf.sent ++ [(q, o.msg)])
  ∧ (∀ (s : State) (req t : Nat) (o : OutReq),
      tfind s.plauf.out req = some o →
      o.retryFrom = some t →
      o.port = 254 →
      o.sentAt + 10000 ≤ s.time.now →
      exec (.remoteRetry req) s = .next (if t + 100000000 ≤ s.time.now then failOut s req o stTranslation
          else trySend { s with plauf := { s.plauf with out := tput s.plauf.out req { o with port := 255 } } } req))
  ∧ (∀ (s : State) (hash t : Nat),
      tfind s.plauf.lostSince hash = some t →
      groupOf s hash = [] →
      t + 100000000 ≤ s.time.now →
      ∃ u, exec (.neighbourLost hash) s = .next u ∧ (s.plauf.out = [] → u = emit { s with plauf := { s.plauf with lostSince := tdel s.plauf.lostSince hash } } 4 0xC {} []))

/-- The dense fabric's link layer (R359-R363), lanes (R362), the Lining (R22, R368). -/
def Obligations.FramesLanesAndLiningMessages : Prop :=
  (∀ (s : State) (b d : Nat) (f : Frame),
      b < 24 →
      d < 2 →
      (getBundle s (2 * b + d)).retired = false →
      s.fab.refLost = [] →
      s.fab.dieReset.contains 1 = false →
      frameCrcOk f = true →
      frameSeq f = (getBundle s (2 * b + d)).expectSeq →
      ∃ t, exec (.frameReceive b d f) s = .next t ∧
        getBundle t (2 * b + d) = { getBundle s (2 * b + d) with expectSeq := ((getBundle s (2 * b + d)).expectSeq + 1) % 4096, nak := false, replays := 0, lastBad := [], delivered := (getBundle s (2 * b + d)).delivered + 1 } ∧
        getBundle t (2 * b + (1 - d)) = { getBundle s (2 * b + (1 - d)) with acked := frameAck f } ∧ t.flt = s.flt ∧ t.log = s.log)
  ∧ (∀ (s : State) (b d : Nat) (f : Frame),
      b < 24 →
      d < 2 →
      (getBundle s (2 * b + d)).retired = false →
      s.fab.refLost = [] →
      s.fab.dieReset.contains 1 = false →
      frameCrcOk f = false →
      (getBundle s (2 * b + d)).replays < 8 →
      ∃ t, exec (.frameReceive b d f) s = .next t ∧
        getBundle t (2 * b + d) = { getBundle s (2 * b + d) with nak := true, replays := (getBundle s (2 * b + d)).replays + 1, lastBad := f.badLanes })
  ∧ (∀ (s : State) (b d lane : Nat),
      b < 24 →
      d < 2 →
      lane < 68 →
      (getBundle s (2 * b + d)).retired = false →
      (getBundle s (2 * b + d)).failed.contains lane = false →
      ∃ t, exec (.laneRetire b d lane) s = .next t ∧ getBundle t (2 * b + d) = failLane (getBundle s (2 * b + d)) lane)
  ∧ (∀ (s : State) (b d lane : Nat),
      b < 24 →
      d < 2 →
      lane < 64 →
      (getBundle s (2 * b + d)).recal.isSome = true ∨ ((getBundle s (2 * b + d)).retired = false ∧ (getBundle s (2 * b + d)).half = none ∧ (getBundle s (2 * b + d)).failed.contains lane = false ∧ freeSpares (getBundle s (2 * b + d)) ≠ []) →
      exec (.laneRecalibration b d lane) s = .next (putBundle s (2 * b + d) { getBundle s (2 * b + d) with recal :=
          if (getBundle s (2 * b + d)).recal.isSome = true then none else (freeSpares (getBundle s (2 * b + d))).head?.map fun sp => (lane, sp) }))
  ∧ (∀ (s : State) (link seq prio : Nat) (crcOk : Bool) (payload : List Byte),
      link < 22 →
      prio ≤ 4 →
      payload.length ≤ 240 →
      ∃ t, exec (.liningMessage link seq prio crcOk payload) s = .next t ∧
        (crcOk = true → seq = ((tfind s.fab.links link).getD {}).expectSeq → tfind t.fab.links link = some { expectSeq := seq + 1, acked := seq, nak := false, inbox := inbox ((tfind s.fab.links link).getD {}).inbox prio payload }) ∧
        (crcOk = true → seq < ((tfind s.fab.links link).getD {}).expectSeq → tfind t.fab.links link = some { (tfind s.fab.links link).getD {} with acked := seq }) ∧
        (crcOk = false ∨ ((tfind s.fab.links link).getD {}).expectSeq < seq → tfind t.fab.links link = some { (tfind s.fab.links link).getD {} with nak := true }))

/-- Dies and reference clocks (R369, R372-R374, R614-R616). That the fences lift at the tick of that time is an
assumption. -/
def Obligations.DiesAndClocksGoAndComeBack : Prop :=
  (∀ (s : State) (die : Nat),
      1 ≤ die →
      die ≤ 3 →
      s.pwr.pkg ≠ .off →
      s.fab.dieReset.contains die = false →
      ∃ t, exec (.dieResetInput die) s = .next t ∧ t.fab.dieReset = s.fab.dieReset ++ [die] ∧ t.fab.dieLost = s.fab.dieLost)
  ∧ (∀ (s : State) (die : Nat),
      1 ≤ die →
      die < 20 →
      s.fab.dieLost.contains die = false →
      ∃ t, exec (.dieLost die) s = .next t ∧ t.fab.dieLost = s.fab.dieLost ++ [die] ∧ t.fab.dieReset = s.fab.dieReset.filter (· != die))
  ∧ (∀ (s : State) (die : Nat) (failing badSeasons : List Nat),
      1 ≤ die →
      die ≤ 3 →
      s.fab.dieReset.contains die = true ∨ s.fab.dieLost.contains die = true →
      dieHeld s die = false →
      ∃ t, exec (.dieBack die failing badSeasons) s = .next t ∧ t.fab.dieReset = s.fab.dieReset.filter (· != die) ∧ t.fab.dieLost = s.fab.dieLost.filter (· != die))
  ∧ (∀ (s : State) (tower : Nat),
      tower < 2 →
      s.fab.refLost.contains tower = false ∨ (tfind s.fab.refBack tower).isSome = true →
      ∃ t, exec (.refclkLost tower) s = .next t ∧ tower ∈ t.fab.refLost ∧ tfind t.fab.refBack tower = none ∧
        t.time = { s.time with holdover := s.time.holdover || tower == 0 })
  ∧ (∀ (s : State) (tower : Nat),
      tower < 2 →
      s.fab.refLost.contains tower = true →
      tfind s.fab.refBack tower = none →
      ∃ t, exec (.refclkRestored tower) s = .next t ∧ t.fab = { s.fab with refBack := tput s.fab.refBack tower (s.time.now + 50000000) } ∧
        t.time = { s.time with holdover := s.time.holdover && tower != 0 })

/-- The Cuff (R2, R376-R380). -/
def Obligations.GuestTransactionsAreServed : Prop :=
  (∀ (s t : State) (tag win off len va p : Nat) (bs : List (Byte × Bool)),
      guestActive s = true →
      gate s = .serve p →
      guestVa s win off len false = some va →
      guestFar s p va len = false →
      guestXlate s p va len false = true →
      vreadP s (guestCx p) va len = .ok bs →
      guestPass s p win va len none = some t →
      exec (.cuffRead tag win off len) s = .next (reply t (if bs.any Prod.snd then .poison tag (List.replicate len 0) else .data tag (bs.map Prod.fst))))
  ∧ (∀ (s t u : State) (tag win off va p : Nat) (data : List Byte),
      guestActive s = true →
      gate s = .serve p →
      guestVa s win off data.length true = some va →
      guestFar s p va data.length = false →
      guestXlate s p va data.length true = true →
      vwrite s (guestCx p) va data = .ok u →
      guestPass s p win va data.length (some data) = some t →
      exec (.cuffWrite tag win off data) s = .next (reply t (.ack tag)))
  ∧ (∀ (s : State) (tag slot inc p : Nat) (x : CuffSlot),
      guestActive s = true →
      gate s = .serve p →
      tfind s.cuff.slots slot = some x →
      x.sig = true →
      1 ≤ inc →
      inc ≤ 65535 →
      counterFar s x.counter = false →
      exec (.cuffSignal tag slot inc) s = .next (reply (addCounter s p x.counter inc none).1 (.ack tag)))
  ∧ (∀ (s : State) (tag slot p : Nat) (x : CuffSlot),
      guestActive s = true →
      gate s = .serve p →
      tfind s.cuff.slots slot = some x →
      x.rd = true →
      counterFar s x.counter = false →
      exec (.cuffCread tag slot) s = .next (reply s (.value tag (ctrOf s p x.counter))))
  ∧ (∀ (s : State) (tag slot target p : Nat) (x : CuffSlot),
      guestActive s = true →
      gate s = .serve p →
      s.cuff.part = some p →
      tfind s.cuff.slots slot = some x →
      x.watch = true →
      counterFar s x.counter = false →
      rising (tkeys s.cuff.watches) = true →
      ∃ t, exec (.cuffWatch tag slot target) s = .next t ∧ t.sync = s.sync ∧
        (ctrOf s p x.counter < target → tfind t.cuff.watches slot = some target) ∧
        (target ≤ ctrOf s p x.counter → CuffReply.notify slot (ctrOf s p x.counter) ∈ t.cuff.replies))
  ∧ (∀ (s : State),
      exec .guestLinkDown s = .next { s with cuff := { s.cuff with linkUp := false, watches := [] } } ∧ (s.guestSite = true → s.cuff.guestReset = false → exec .guestLinkUp s = .next { s with cuff := { s.cuff with linkUp := true } }))

/-- The SPDM responder (R430, R431, R448); the codes are PRESUMED SPDM 1.3 (assumption 69). -/
def Obligations.SpdmConnectionsAnswer : Prop :=
  (∀ (s : State) (path : Nat),
      spdmUp s = true →
      path ≤ 18 →
      exec (.getVersion path) s = .next (answer (putSpdm s path { stage := 1 }) path 0x04 [0x13]))
  ∧ (∀ (s : State) (path : Nat) (caps : List Byte),
      spdmUp s = true →
      path ≤ 18 →
      1 ≤ (getSpdm s path).stage →
      exec (.getCapabilities path caps) s = .next (answer (putSpdm s path { getSpdm s path with stage := max (getSpdm s path).stage 2 }) path 0x61 []))
  ∧ (∀ (s : State) (path : Nat),
      spdmUp s = true →
      path ≤ 18 →
      2 ≤ (getSpdm s path).stage →
      exec (.negotiateAlgorithms path true true true true) s = .next (answer (putSpdm s path { getSpdm s path with stage := 3 }) path 0x63 []))
  ∧ (∀ (s : State) (path : Nat),
      spdmUp s = true →
      path ≤ 18 →
      3 ≤ (getSpdm s path).stage →
      exec (.getDigests path) s = .next (answer s path 0x01 (fit 48 (Config.sha384 (slotChain s)))))
  ∧ (∀ (s : State) (path offset len : Nat),
      spdmUp s = true →
      path ≤ 18 →
      3 ≤ (getSpdm s path).stage →
      offset < 192 →
      exec (.getCertificate path 0 offset len) s = .next (answer s path 0x02 (((slotChain s).drop offset).take len)))
  ∧ (∀ (s : State) (path : Nat) (nonce : List Byte),
      spdmUp s = true →
      path ≤ 18 →
      3 ≤ (getSpdm s path).stage →
      exec (.challenge path 0 nonce) s = .next (answer { s with gnt := { s.gnt with drawn := s.gnt.drawn + 1 } } path 0x03
          (fit 48 (Config.sha384 (slotChain s)) ++ toLe 32 (Config.entropy s.gnt.drawn) ++ aliasSign s (nonce ++ (fit 48 (Config.sha384 (slotChain s)) ++ toLe 32 (Config.entropy s.gnt.drawn))))))
  ∧ (∀ (s : State) (path index : Nat) (sign : Bool) (nonce bs : List Byte),
      spdmUp s = true →
      path ≤ 18 →
      3 ≤ (getSpdm s path).stage →
      (index = 0 ∧ bs = toLe 1 (pathIndices s path).length ∨ index ≠ 0 ∧ index ≠ 0xFF ∧ (pathIndices s path).contains index = true ∧ ∃ b ∈ measurement s index, bs = toLe 1 index ++ toLe 2 b.length ++ b) →
      exec (.getMeasurements path index sign nonce) s = .next (answer s path 0x60 (bs ++ if sign then aliasSign s (nonce ++ bs) else [])))

/-- Sessions, IDE_KM, TDISP, PART_POWER (R430, R432, R433, R441, R448); the codes are PRESUMED (assumptions 69-71). -/
def Obligations.SpdmSessionsAnswer : Prop :=
  (∀ (s : State) (path : Nat) (exchange : List Byte),
      spdmUp s = true →
      path ≤ 18 →
      3 ≤ (getSpdm s path).stage →
      s.gnt.debug = false →
      s.gnt.keysZeroised = false →
      exec (.keyExchange path exchange) s = .next (answer (putSpdm { s with gnt := { s.gnt with drawn := s.gnt.drawn + 1 } } path
          { stage := (getSpdm s path).stage, session := 1, secret := Config.ecdh (Config.entropy s.gnt.drawn) exchange, transcript := exchange ++ fit 96 (Config.publicKey (Config.entropy s.gnt.drawn)) })
          path 0x64 (fit 96 (Config.publicKey (Config.entropy s.gnt.drawn)) ++ aliasSign s (exchange ++ fit 96 (Config.publicKey (Config.entropy s.gnt.drawn))))))
  ∧ (∀ (s : State) (path : Nat) (sig : List Byte),
      spdmUp s = true →
      path ≤ 18 →
      3 ≤ (getSpdm s path).stage →
      (getSpdm s path).session = 1 →
      exec (.finish path sig (finishMac (getSpdm s path))) s = .next (answer (putSpdm s path { getSpdm s path with session := 2, owner := claimed s && Config.ecdsaVerify s.gnt.policy.ecdsaKey (Config.sha384 (getSpdm s path).transcript) sig }) path 0x65 []))
  ∧ (∀ (s : State) (path : Nat),
      spdmUp s = true →
      path ≤ 18 →
      3 ≤ (getSpdm s path).stage →
      2 ≤ (getSpdm s path).session →
      exec (.keyUpdate path) s = .next (answer (putSpdm s path { getSpdm s path with keyGen := (getSpdm s path).keyGen + 1 }) path 0x69 []) ∧
      exec (.heartbeat path) s = .next (answer s path 0x68 []) ∧
      exec (.endSession path) s = .next (answer (dropStreams (putSpdm s path { stage := (getSpdm s path).stage }) path) path 0x6C []))
  ∧ (∀ (s : State) (path arg fn : Nat),
      spdmUp s = true →
      path ≤ 18 →
      3 ≤ (getSpdm s path).stage →
      2 ≤ (getSpdm s path).session →
      fn = vdrVf path arg →
      fn ≤ 16 →
      arg / 65536 % 256 = 0 →
      (arg % 256 = 2 → exec (.vendorDefinedRequest path 0 arg) s = .next (answer (setStream s (2 * fn) (some
          { key := arg / 2 ^ 24 % 2 ^ 256, path := path, on := streamOn s fn })) path 0x7E [3])) ∧
      (∀ x ∈ tfind s.gnt.streams (2 * fn),
        (arg % 256 = 4 → exec (.vendorDefinedRequest path 0 arg) s = .next (answer (setStream s (2 * fn) (some { x with on := true })) path 0x7E [6])) ∧
        (arg % 256 = 5 → exec (.vendorDefinedRequest path 0 arg) s = .next (answer (setStream s (2 * fn) (some { x with on := false })) path 0x7E [6]))))
  ∧ (∀ (s : State) (path arg : Nat) (v : Vf),
      spdmUp s = true →
      path ≤ 18 →
      3 ≤ (getSpdm s path).stage →
      2 ≤ (getSpdm s path).session →
      tfind s.vfs (vdrVf path arg) = some v →
      (arg % 256 = 0x83 → v.tdi = 1 → exec (.vendorDefinedRequest path 1 arg) s = .next (answer (setTdi s (vdrVf path arg) 2) path 0x7E [3])) ∧
      (arg % 256 = 0x86 → v.tdi = 2 → streamOn s (vdrVf path arg) = true → exec (.vendorDefinedRequest path 1 arg) s = .next (answer (setTdi s (vdrVf path arg) 3) path 0x7E [6])) ∧
      (arg % 256 = 0x87 → exec (.vendorDefinedRequest path 1 arg) s = .next (answer (setTdi s (vdrVf path arg) 1) path 0x7E [7])))
  ∧ (∀ (s : State) (path arg : Nat) (x : Part),
      spdmUp s = true →
      path ≤ 18 →
      3 ≤ (getSpdm s path).stage →
      2 ≤ (getSpdm s path).session →
      (getSpdm s path).owner = true →
      getP s arg = some x →
      exec (.vendorDefinedRequest path 2 arg) s = .next (answer s path 0x7E (toLe 8 x.energy ++ toLe 4 x.power)))
  ∧ (∀ (s : State) (vf : Nat),
      (tfind s.vfs vf).map (·.tdi) = some 3 →
      exec (.tdiLeaveRun vf) s = .next (setTdi s vf 4))

/-- The tray's sideband (R527, R528); field widths are the model's (an assumption). -/
def Obligations.TheTrayIsAnswered : Prop :=
  (∀ (s : State),
      s.pwr.pkg ≠ .off →
      s.mgmt.mittenDown = false →
      s.mgmt.recovery = false →
      s.mgmt.phase ≠ .bootMgmt ∨ s.mgmt.waitNet = true →
      exec (.getIdentity) s = .next (answer s 19 0 (toLe 2 0x0960 ++ toLe 1 0xB1 ++ toLe 8 s.mgmt.serial ++ toLe 16 s.mgmt.idHash)))
  ∧ (∀ (s : State),
      s.pwr.pkg ≠ .off →
      s.mgmt.mittenDown = false →
      s.mgmt.recovery = false →
      s.mgmt.phase ≠ .bootMgmt ∨ s.mgmt.waitNet = true →
      exec (.getState) s = .next (answer s 19 0 (toLe 1 (phaseCode s) ++ toLe 1 (pkgCode s) ++ toLe 1 (tripCause s) ++ toLe 1 (b2n s.mgmt.recovery + 2 * b2n s.mgmt.mittenDown + 4 * b2n (replaceAdvised s)))))
  ∧ (∀ (s : State),
      s.pwr.pkg ≠ .off →
      s.mgmt.mittenDown = false →
      s.mgmt.recovery = false →
      s.mgmt.phase ≠ .bootMgmt ∨ s.mgmt.waitNet = true →
      exec (.getTelemetry) s = .next (answer s 19 0 (toLe 2 s.th.telem.powerPkg ++ toLe 2 s.th.telem.powerA ++ toLe 2 s.th.telem.powerB ++
          [0, 1, 2, 4, 5, 6].flatMap (fun i => toLe 2 (unsigned 16 ((s.th.telem.hot[i]?).getD 0))) ++
          toLe 2 (unsigned 16 s.th.telem.inlet) ++ toLe 2 (unsigned 16 s.th.telem.outlet) ++ toLe 2 s.th.telem.dp ++ toLe 2 s.th.telem.flow)))
  ∧ (∀ (s : State) (fromSeq : Nat),
      s.pwr.pkg ≠ .off →
      s.mgmt.mittenDown = false →
      s.mgmt.recovery = false →
      s.mgmt.phase ≠ .bootMgmt ∨ s.mgmt.waitNet = true →
      exec (.getLog fromSeq) s = .next (answer s 19 0 (((s.log.ring.filter fun r => decide (fromSeq ≤ r.seq)).take 8).flatMap fun r => r.bytes)))
  ∧ (∀ (s : State),
      s.pwr.pkg ≠ .off →
      s.mgmt.mittenDown = false →
      s.mgmt.recovery = false →
      s.mgmt.phase ≠ .bootMgmt ∨ s.mgmt.waitNet = true →
      exec (.getLifetime) s = .next (answer s 19 0 (lifeBytes (lifeNow s))))

/-- Readings (R488-R492, R504-R506, R610), telemetry (R591, R603), the time base (R373, R601). Rounding down is
assumption 68. -/
def Obligations.ReadingsAndSensorsAreTaken : Prop :=
  (∀ (s : State) (a b : TowerInput) (p : PkgReading),
      s.pwr.pkg ≠ .off →
      ∃ t, exec (.thermalModelUpdate a b p) s = .next t ∧ t.th.p = p ∧ (getTower t 0).r = readingOf s 0 a ∧ (getTower t 1).r = readingOf s 1 b)
  ∧ (∀ (s : State) (tower node : Nat) (n : NodeValue) (diff : Int),
      tower < 2 →
      (getTower s tower).nodes = [(node, n)] →
      nodeDiff s tower n = some diff →
      ∃ t, exec (.offsetAdjust tower) s = .next t ∧
        tfind (getTower t tower).offsets node = some (max (-384) (min 384 (nodeOffset s tower node + max (-16) (min 16 (diff - nodeOffset s tower node))))))
  ∧ (∀ (s : State) (disagree agree : List Nat) (t i u : Nat),
      s.mgmt.mittenDown = false →
      t < 2 →
      i < 4096 →
      4096 * t + i ∈ disagree →
      (getTower s t).masked.contains i = false →
      tfind (getTower s t).disagree i = some u →
      u + 1000000000 ≤ s.time.now →
      hubAccepts s t i = true →
      ∃ v, exec (.sensorCheck disagree agree) s = .next v ∧ i ∈ (getTower v t).masked)
  ∧ (∀ (s : State) (mvA mvB : Nat),
      s.pwr.pkg ≠ .off →
      s.mgmt.phase ≠ .bootMgmt →
      ∃ t, exec (.imonSample mvA mvB) s = .next t ∧ (getTower t 0).current = mvA ∧ (getTower t 1).current = mvB)
  ∧ (∀ (s : State),
      s.th.coolantLoss = true →
      s.th.lossAt + 2000000 ≤ s.time.now →
      s.pwr.pkg ≠ .off →
      s.mgmt.phase ≠ .bootMgmt →
      exec .coolantTimeout s = .next (enterTrip s 4))
  ∧ (∀ (s : State) (ra rb : Nat),
      s.pwr.pkg ≠ .off →
      s.mgmt.phase ≠ .bootMgmt →
      s.mgmt.mittenDown = false →
      s.th.telem.samples ≠ 0 →
      ∃ t, exec (.telemetryRefresh ra rb) s = .next t ∧ t.th.telem.seq = s.th.telem.seq + 2 ∧ t.th.telem.rateA = ra ∧ t.th.telem.rateB = rb ∧
        t.th.telem.powerPkg = (Int.fdiv ((s.th.telem.sums[0]?).getD 0) s.th.telem.samples).toNat ∧
        t.th.telem.inlet = Int.fdiv ((s.th.telem.sums[3]?).getD 0) s.th.telem.samples ∧
        t.th.telem.ladder = [ladderLevel s.th.a, ladderSetter s.th.a, ladderLevel s.th.b, ladderSetter s.th.b] ∧ t.th.telem.samples = 0 ∧ t.pwr = s.pwr)
  ∧ (∀ (s : State) (es : List (Nat × Nat × Nat)) (p e w : Nat),
      (getP s p).isSome = true →
      ∃ t x, exec (.energyRefresh (es ++ [(p, e, w)])) s = .next t ∧ getP t p = some x ∧ x.energy = e ∧ x.power = w)
  ∧ (∀ (s : State) (hostTime host : Nat),
      host = hostTime % 2 ^ 64 →
      s.time.ptmEn = true →
      s.pwr.pkg ≠ .off →
      exec (.ptmDialogue false hostTime) s = .next { s with time := { s.time with locked := ptmLocked s } } ∧
      exec (.ptmDialogue true hostTime) s = .next { s with time := { s.time with
        now := if s.time.first = true ∧ s.time.now < host then host else s.time.now
        slew := if s.time.first = true ∧ s.time.now < host then 0 else (host : Int) - s.time.now
        first := false, locked := true, lastAdj := (host : Int) - s.time.now
        lastAdjTime := if s.time.first = true ∧ s.time.now < host then host else s.time.now } })

/-- Limiters (R483, R494-R498, R503). -/
def Obligations.LimitersMoveTheLadders : Prop :=
  (∀ (s : State) (tower : Nat),
      tower < 2 →
      s.pwr.pkg ≠ .off →
      ∃ t, exec (.thermalLimiterTick tower) s = .next t ∧ (getTower t tower).lvlTh = thermalLevel s tower ∧
        (s.th.coolantLoss = true → (getTower t tower).lvlTh = 22) ∧
        (s.th.coolantLoss = false → 95 * 64 < (getTower s tower).r.hotLogic ∨ 88 * 64 < (getTower s tower).r.hotF ∨ 90 * 64 < hotStackOf (getTower s tower).r ∨ 1050 < coreCurrent (getTower s tower) →
          (getTower t tower).lvlTh = min ((getTower s tower).lvlTh + 1) 22) ∧
        (getTower t tower).lvlHost = (getTower s tower).lvlHost ∧ (getTower t tower).lvlAlm = (getTower s tower).lvlAlm ∧ t.pwr = s.pwr)
  ∧ (∀ (s : State) (tower : Nat),
      tower < 2 →
      s.pwr.pkg ≠ .off →
      ∃ t theta, exec (.thermalCapCompute tower) s = .next t ∧ (getTower t tower).theta = theta ∧
        (getTower t tower).cap = some (capOf (theta.getD (baseTheta s tower)) (inletNow s)) ∧ (getTower t tower).samples = 0 ∧
        (300 * (getTower s tower).samples ≤ (getTower s tower).sumPower → 0 < (getTower s tower).samples →
          theta = some ({ num := (getTower s tower).sumLogic - (getTower s tower).sumInlet, den := (getTower s tower).sumPower }, { num := (getTower s tower).sumF - (getTower s tower).sumInlet, den := (getTower s tower).sumPower })) ∧
        ((getTower s tower).sumPower < 300 * (getTower s tower).samples → theta = (getTower s tower).theta))
  ∧ (∀ (s : State) (tower : Nat),
      tower < 2 →
      s.pwr.hostCap ≠ 0 →
      ∃ t, exec .hostLimiterTick s = .next t ∧ (getTower t tower).lvlTh = (getTower s tower).lvlTh ∧
        (s.pwr.hostCap < s.th.p.power → (getTower s tower).lvlHost < 22 → since s (getTower s tower).sinceHost 20000 = true → (getTower t tower).lvlHost = (getTower s tower).lvlHost + 1) ∧
        (100 * s.th.p.power < 97 * s.pwr.hostCap → 0 < (getTower s tower).lvlHost → since s (getTower s tower).sinceHost 100000 = true → (getTower t tower).lvlHost = (getTower s tower).lvlHost - 1) ∧
        (s.th.p.power ≤ s.pwr.hostCap → 97 * s.pwr.hostCap ≤ 100 * s.th.p.power → (getTower t tower).lvlHost = (getTower s tower).lvlHost))
  ∧ (∀ (s : State) (tower : Nat) (hotLogic hotF : Int) (idle : Nat),
      tower < 2 →
      ∃ t, exec (.almanacForecast tower hotLogic hotF idle) s = .next t ∧ getTower t tower = { getTower s tower with lvlAlm := almanacLevel s hotLogic hotF (peakPower s tower idle) idle })

/-- Resets (R78, R521, R522, R614-R616) and power groups (R608, R611-R614). -/
def Obligations.ResetsAndPowerGoods : Prop :=
  (∀ (s : State) (d : Nat) (f : Flight),
      Runs s d 0xF1A0 f →
      f.op 0x20 1 = 0 →
      f.zeroFrom 0x21 = true →
      s.fab.dieResetBy = [] →
      s.fab.dieReset = [] →
      ∃ t, exec (.reset d) s = .next t ∧ t.parts = [] ∧ t.kv = {} ∧ t.gnt.policy = s.gnt.policy ∧ t.gnt.keys = [] ∧ t.time.now = s.time.now ∧ t.mgmt.resetCause = 1)
  ∧ (∀ (s : State) (d n : Nat) (f : Flight),
      Runs s d 0xF1A0 f →
      f.op 0x20 1 = n →
      1 ≤ n →
      n ≤ 3 →
      f.zeroFrom 0x21 = true →
      s.fab.dieResetBy = [] →
      s.fab.dieReset = [] →
      ∃ u, exec (.reset d) s = .next (startDieReset u n) ∧ (startDieReset u n).fab.dieReset = [n] ∧ getF u d = some { f with phase := .running } ∧ u.fab.dieResetBy = [(n, d)])
  ∧ (∀ (s : State),
      s.pwr.pkg ≠ .off →
      pkgHeld s = false →
      ∃ t, exec .pkgRstInput s = .next t ∧ t.parts = [] ∧ t.kv = {} ∧ t.gnt.policy = s.gnt.policy ∧ t.gnt.keys = [] ∧ t.time.now = s.time.now ∧ t.mgmt.resetCause = 2)
  ∧ (∀ (s : State),
      s.pwr.pkg ≠ .off →
      pkgHeld s = false →
      ∃ t, exec .perst s = .next t ∧ t.parts = [] ∧ t.kv = {} ∧ t.gnt.policy = s.gnt.policy ∧ t.gnt.keys = [] ∧ t.time.now = s.time.now ∧ t.mgmt.resetCause = 3)
  ∧ (∀ (s : State) (i : Nat),
      i ≤ 4 →
      s.pwr.heldInputs.contains i = true →
      ∃ t, exec (.resetInputRelease i) s = .next t ∧ t.pwr = { s.pwr with heldInputs := s.pwr.heldInputs.filter (· != i) } ∧
        (pkgHeld s = true → pkgHeld t = false → t.mgmt.phase = .bootMgmt))
  ∧ (∀ (s : State),
      s.pwr.pkg = .off →
      ∃ t, exec .vaonApplied s = .next t ∧ t.mgmt.life.coldStarts = s.mgmt.lifeStored.coldStarts + 1 ∧ t.mgmt.phase = .bootMgmt ∧ t.parts = [] ∧ t.gnt.policy = s.gnt.policy)
  ∧ (∀ (s : State),
      ∃ t, exec .vaonLost s = .next t ∧ t.pwr.pkg = .off ∧ t.parts = [] ∧ t.gnt.policy = s.gnt.policy ∧ t.gnt.keys = [] ∧ t.log.critlog = s.log.critlog)
  ∧ (∀ (s : State) (g : Nat),
      g < 5 →
      s.pwr.enabled.contains g = true →
      s.pwr.good.contains g = false →
      ∃ t, exec (.powerGoodReturn g) s = .next t ∧ t.pwr.good = s.pwr.good ++ [g])
  ∧ (∀ (s : State) (g : Nat),
      g < 5 →
      s.pwr.enabled.contains g = true →
      s.pwr.good.contains g = false →
      2 ≤ g ∨ s.mgmt.waitNet = true →
      ∃ u, (∀ x, x ∈ u.pwr.enabled ↔ x ∈ s.pwr.enabled ∧ ¬ (x = g ∨ g < 2 ∧ x < 2)) ∧
        (g < 3 → exec (.powerGoodTimeout g) s = .next u ∧ u.pwr.retryAt = some (s.time.now + 1000000000)) ∧
        (3 ≤ g → exec (.powerGoodTimeout g) s = .next (dieLost (g - 1) u)))
  ∧ (∀ (s : State) (g : Nat),
      g < 5 →
      s.pwr.enabled.contains g = true →
      s.pwr.good.contains g = true →
      ∃ u, u = { s with pwr := { s.pwr with good := s.pwr.good.filter (· != g) } } ∧
        exec (.powerGoodLost g) s = .next (if g < 2 then holdPackage u (10 + g) 2 else if g = 2 then portsDown u 0 32 6 else startDieReset (holdInput u (10 + g)) (g - 1)))
  ∧ (∀ (s : State) (t : Nat),
      s.pwr.retryAt = some t →
      t ≤ s.time.now →
      s.mgmt.phase = .bootMgmt ∨ (s.pwr.pkg ≠ .standby ∧ s.pwr.tripStandby = false) →
      ∃ u, exec .enableRetry s = .next u ∧ u.pwr.retryAt = some (s.time.now + 1000000000) ∧
        (s.mgmt.phase = .bootMgmt → 0 ∈ u.pwr.enabled ∧ 1 ∈ u.pwr.enabled) ∧ (s.mgmt.phase ≠ .bootMgmt → 2 ∈ u.pwr.enabled))

/-- Bring-up (R513-R518, R541). -/
def Obligations.BringUpGoesPhaseByPhase : Prop :=
  (∀ (s : State) (bi bc : List (Nat × Nat)),
      inPhase s .bootMgmt = true →
      s.mgmt.waitNet = false →
      s.mgmt.recovery = false →
      ∃ t, exec (.bootMgmtDone bi bc) s = .next t ∧ (t.mgmt.recovery = true ∨ 0 ∈ t.pwr.enabled ∧ 1 ∈ t.pwr.enabled))
  ∧ (∀ (s : State) (an : List (Nat × DieAnswer)),
      inPhase s .bootNet = true →
      s.mgmt.netDone = false →
      ∃ t, exec (.bootNetDone an) s = .next t ∧ (t.mgmt.netDone = true ∨ t.mgmt.phase = .bootMem))
  ∧ (∀ (s : State) (rows pcs : List (Nat × Nat)) (trained : List (Nat × List Byte)) (silent : Nat),
      inPhase s .bootMem = true →
      (silent = 3 → fallBack s 3 = none) →
      ∃ t, exec (.bootMemDone rows pcs trained silent) s = .next t ∧ t.mgmt.phase = .bootLink ∧ 2 ∈ t.pwr.enabled)
  ∧ (∀ (s : State) (lanes : List (Nat × Nat × Nat)) (late : List Nat) (trained : List (Nat × List Byte)) (silent : Nat),
      inPhase s .bootLink = true →
      (silent = 3 ∨ silent = 4 → fallBack s silent = none) →
      ∃ t, exec (.bootLinkDone lanes late trained silent) s = .next t ∧ t.mgmt.phase = .bootCore)
  ∧ (∀ (s t : State) (a b : List (Nat × Nat)) (c : List (Nat × Nat × Nat)) (e : List Nat) (trained : List (Nat × List Byte)) (silent : Nat),
      fallBack s silent = some t →
      (inPhase s .bootMem = true → silent = 3 → exec (.bootMemDone a b trained silent) s = .next t) ∧
        (inPhase s .bootLink = true → silent = 3 ∨ silent = 4 → exec (.bootLinkDone c e trained silent) s = .next t))
  ∧ (∀ (s : State) (failing badSeasons : List Nat),
      inPhase s .bootCore = true →
      ∃ t, exec (.bootCoreDone failing badSeasons) s = .next t ∧ t.mgmt.phase = .check)
  ∧ (∀ (s : State),
      inPhase s .check = true →
      ∃ t, exec .checkDone s = .next t ∧ t.mgmt.phase = .ended ∧ (t.pwr.pkg = .ready ∨ t.pwr.pkg = .held ∨ t.pwr.pkg = .trip))
  ∧ (∀ (s : State) (an : List (Nat × DieAnswer)) (out : List Nat),
      inPhase s s.mgmt.phase = true →
      s.mgmt.waitNet = false →
      s.mgmt.recovery = false →
      s.mgmt.netDone = false →
      ∃ u, u = emit s 7 3 {} [(1, phaseCode s)] ∧
        (s.mgmt.phase = .bootMgmt → exec (.bootPhaseLimit an out) s = .next (mgmtWork [] [] u)) ∧
        (s.mgmt.phase = .bootNet → exec (.bootPhaseLimit an out) s = .next (netWork an u)) ∧
        (s.mgmt.phase = .bootMem → exec (.bootPhaseLimit an out) s = .next (memWork [] (out.map fun k => (k / 64, k % 64)) u)) ∧
        (s.mgmt.phase = .bootLink → ∃ v, exec (.bootPhaseLimit an out) s = .next (linkWork [] [] v) ∧ ∀ k ∈ out, k < 48 → (getBundle v k).retired = true) ∧
        (s.mgmt.phase = .bootCore → exec (.bootPhaseLimit an out) s = .next (coreWork out [] u)) ∧
        (s.mgmt.phase = .check → exec (.bootPhaseLimit an out) s = .next (checkWork u)))

/-- The set-up registers (R587-R603). -/
def Obligations.RegistersTakeTheirWrites : Prop :=
  (∀ (s : State) (v : Nat),
      s.regs.setupLock = false →
      usable s 0 false = true →
      exec (.setupLockWrite v) s = .next { s with regs := { s.regs with setupLock := bit v 0 } })
  ∧ (∀ (s : State) (fn v : Nat),
      fn ≤ 16 →
      usable s (if fn = 0 then 3 else 11) false = true →
      queuesActive s fn = false →
      fn ≠ 0 ∨ s.regs.setupLock = false →
      ∃ t, exec (.dbellConfigWrite fn 0 8 v) s = .next t ∧ (getFn t fn).dbValid = bit v 0 ∧ (getFn t fn).dbBase = v % 2 ^ 64 / 2 ^ 14 * 2 ^ 14)
  ∧ (∀ (s : State) (v : Nat),
      usable s 3 false = true →
      (5 ≤ v % 2 ^ 11 → v % 2 ^ 11 ≤ 2000 → exec (.dbellConfigWrite 0 0x08 4 v) s = .next { s with qe := { s.qe with pollPeriod := v % 2 ^ 11 } }) ∧
      (v % 2 ^ 11 < 5 ∨ 2000 < v % 2 ^ 11 → exec (.dbellConfigWrite 0 0x08 4 v) s = .next (putFn s 0 { getFn s 0 with dbCfgErr := true })))
  ∧ (∀ (s : State) (fn : Nat),
      fn ≤ 16 →
      usable s (if fn = 0 then 2 else 10) false = true →
      exec (.qctlWriteBusy fn) s = .next (putFn s fn { getFn s fn with qctlDropped := true }))
  ∧ (∀ (s : State) (v : Nat),
      usable s 7 false = true →
      ∃ t, exec (.logpControlWrite v) s = .next t ∧ t.log.mask = v / 2 ^ 8 % 2 ^ 8 ∧ t.log.en = bit v 16 ∧
        t.log.sizeLog2 = (if (s.log.en || s.regs.setupLock) = true then s.log.sizeLog2 else v % 32) ∧ t.log.base = s.log.base ∧ t.log.ring = s.log.ring)
  ∧ (∀ (s : State) (fn part p v : Nat) (x : Part),
      usable s (if fn = 0 then 5 else 13) false = true →
      (if fn = 0 then p = part else (tfind s.vfs fn).map (·.part) = some p) →
      getP s p = some x →
      ∃ t y, exec (.bwMissClear fn part v) s = .next t ∧ getP t p = some y ∧ (∀ c < 8, bit y.bwMiss c = (bit x.bwMiss c && !bit v c)) ∧
        { y with bwMiss := x.bwMiss } = x)
  ∧ (∀ (s : State) (fn off v : Nat),
      regAt s fn off = some (8, v) →
      ∃ t, exec (.reg64LowRead fn off) s = .next t ∧ read32 t fn (off + 4) = v / 2 ^ 32 % 2 ^ 32 ∧ t.regs = s.regs)
  ∧ (∀ (s : State) (v : Nat),
      usable s 8 false = true →
      exec (.registerWrite 0 0x800008 4 v) s = .next { s with time := { s.time with ptmEn := bit (v % 2 ^ 32) 0, ptmPeriod := v % 2 ^ 32 / 2 ^ 8 % 2 ^ 8, first := s.time.first || (bit (v % 2 ^ 32) 0 && !s.time.ptmEn) } })
  ∧ (∀ (s : State) (v : Nat),
      usable s 1 false = true →
      exec (.registerWrite 0 0x10000 8 v) s = .next (if (getQ s 0).st = .disabled then { s with regs := { s.regs with aqSqBase := v % 2 ^ 64 / 2 ^ 12 * 2 ^ 12 } }
          else { s with regs := { s.regs with aqCfgErr := true } }))
  ∧ (∀ (s : State) (fn : Nat) (on : Bool),
      fn ≤ 16 →
      s.pwr.pkg ≠ .off →
      ∃ t, exec (.busMasterEnable fn on) s = .next t ∧ getFn t fn = { getFn s fn with bme := on } ∧ t.regs = s.regs)
  ∧ (∀ (s : State) (w : Nat),
      ∃ t, exec (.negotiatedWidthChange w) s = .next t ∧ t.regs = { s.regs with linkWidth := w } ∧ t.parts = s.parts)

/-- Substitution (R473, R475, R479), stale speakers (R476), spare tests (R477), watchdogs (R523, R524). -/
def Obligations.SparesAndWatchdogsAct : Prop :=
  (∀ (s : State) (core old : Nat) (l : List Nat) (u : Subst),
      (s.flt.subst.find? (fun u => u.core == core) = some u) →
      (getBind s core).column = some old →
      s.pwr.pkg ≠ .trip →
      (getSite s (siteKey core u.column)).fenced = false →
      (getSite s (siteKey core u.column)).bad = false →
      nextSeason s core ≤ 0xFFFF →
      ∃ t, exec (.sliceCopyDone core l true true) s = .next (serveFreed t) ∧ (getBind t core).column = some u.column ∧ (getBind t core).state = 2 ∧
        t.flt.subst = s.flt.subst.filter (fun v => v.core != core))
  ∧ (∀ (s : State) (core old : Nat) (l : List Nat) (b : Bool) (u : Subst),
      (s.flt.subst.find? (fun u => u.core == core) = some u) →
      (getBind s core).column = some old →
      s.pwr.pkg ≠ .trip →
      exec (.sliceCopyDone core l false b) s = .next (nextSite (fenceSite s (siteKey core u.column)) u) ∧
        ((getSite s (siteKey core u.column)).fenced = false → (getSite s (siteKey core u.column)).bad = false →
          exec (.sliceCopyDone core l true false) s = .next (emit (makeHole s core) 7 6 {} [(1, 11)])))
  ∧ (∀ (s : State) (site season : Nat),
      ((siteCore s site).map fun c => (getBind s c).season) ≠ some season →
      ∃ t, exec (.staleSpeaker site season) s = .next t ∧ t.flt.linkStale = s.flt.linkStale + 1 ∧ t.flt.bindings = s.flt.bindings)
  ∧ (∀ (s : State) (site : Nat) (pass : Bool),
      (getSite s site).fenced = true →
      (getSite s site).bad = false →
      siteCore s site = none →
      s.mgmt.mittenDown = false →
      s.fab.dieReset.contains (2 + site / 272) = false →
      s.fab.dieLost.contains (2 + site / 272) = false →
      (getSite s site).lastTest = 0 ∨ (getSite s site).lastTest + 600000000000 ≤ s.time.now →
      ∃ t, exec (.spareTest site pass) s = .next t ∧
        getSite t site = (if pass = false then { getSite s site with bad := true, passes := 0, lastTest := s.time.now }
          else if (getSite s site).passes + 1 < 3 then { getSite s site with passes := (getSite s site).passes + 1, lastTest := s.time.now }
          else { getSite s site with fenced := false, passes := 0, lastTest := s.time.now }))
  ∧ (∀ (s : State) (r : List Nat),
      s.pwr.pkg ≠ .off →
      s.mgmt.phase ≠ .bootMgmt →
      s.mgmt.mittenDown = false →
      s.mgmt.recovery = false →
      s.mgmt.gauntletWdt = false →
      (r = s.mgmt.mittenRestarts.filter (fun t => decide (s.time.now < t + 600000000000))) →
      ∃ t, exec .mittenWatchdog s = .next t ∧
        (r.length < 3 → t.mgmt = { s.mgmt with mittenRestarts := r ++ [s.time.now] }) ∧
        (3 ≤ r.length → ((tfind (getFw s 2).slots (inactiveSlot (getFw s 2))).map fun i => decide ((getFw s 2).fuse ≤ i.level)) = some true → (getFw t 2).active = inactiveSlot (getFw s 2) ∧ t.mgmt.mittenDown = false) ∧
        (3 ≤ r.length → ((tfind (getFw s 2).slots (inactiveSlot (getFw s 2))).map fun i => decide ((getFw s 2).fuse ≤ i.level)) ≠ some true → t.mgmt.mittenDown = true))
  ∧ (∀ (s : State),
      s.pwr.pkg ≠ .off →
      s.mgmt.gauntletWdt = false →
      ∃ t, exec .gauntletWatchdog s = .next t ∧ t.mgmt = { s.mgmt with gauntletWdt := true } ∧ t.gnt = s.gnt)

/-- Requests and the island's fences (R169, R182, R190-R196, R339, R345-R348, R413, R415, R460). The byte layout
behind each target is the model's choice (assumption 182). -/
def Obligations.RequestsReadAndWriteMemory : Prop :=
  (∀ (s u : State) (r m : MemReq) (pa : Nat) (bs : List Byte),
      r.target = none →
      r.master ≠ 547 →
      stamp s r = m →
      m.prefetch = false →
      xlate s m.part m.va = .ok (.loc pa true) →
      pa < 2 ^ 36 →
      memUse m pa 0 = [] →
      underCopy s pa = false →
      m.found = .clean →
      m.write = some bs →
      vwrite (cacheLeaf s m) { part := m.part, desc := 2 ^ 64, rem := [] } m.va bs = .ok u →
      ∃ t, exec (.memoryAccess r) s = .next t ∧ t.mem = u.mem ∧ t.regs = s.regs)
  ∧ (∀ (s : State) (r m : MemReq) (pa : Nat) (w : Bool),
      r.target = none →
      r.master ≠ 547 →
      stamp s r = m →
      m.prefetch = false →
      xlate s m.part m.va = .ok (.loc pa w) →
      pa < 2 ^ 36 →
      memUse m pa 0 = [] →
      underCopy s pa = false →
      m.found = .clean →
      m.write = none →
      ∃ t, exec (.memoryAccess r) s = .next t ∧ t.mem.bytes = s.mem.bytes ∧ t.mem.poison = s.mem.poison ∧ t.regs = s.regs)
  ∧ (∀ (s : State) (r m : MemReq) (pa res n : Nat) (w : Bool),
      r.target = none →
      r.master ≠ 547 →
      stamp s r = m →
      m.prefetch = false →
      m.found = .clean →
      xlate s m.part m.va = .ok (.loc pa w) →
      m.write.isSome = false ∨ w = true →
      memUse m pa (memCache (cacheLeaf s m) m pa).2 = [(res, n)] →
      n ≠ 0 →
      5 < m.cls ∨ (regsOf s m.part m.cls res).isEmpty = true →
      ∃ t, exec (.memoryAccess r) s = .next t ∧ t.bw.nextReq = s.bw.nextReq + 1 ∧
        tfind t.bw.waiting s.bw.nextReq = some { req := m, use := [(res, n)], tier := 4, heldSince := some s.time.now } ∧ t.mem.bytes = s.mem.bytes)
  ∧ (∀ (s : State) (r m : MemReq) (a : Nat),
      r.target = none →
      r.master ≠ 547 →
      stamp s r = m →
      xlate s m.part m.va = .error (.trans a) →
      exec (.memoryAccess r) s = .next (if m.prefetch then countDrop s m.part else emit s 3 1 { part := m.part } [(8, m.va)]))
  ∧ (∀ (s : State) (r m : MemReq) (pa : Nat) (bs : List Byte),
      r.target = none →
      r.master ≠ 547 →
      stamp s r = m →
      m.prefetch = false →
      xlate s m.part m.va = .ok (.loc pa false) →
      m.write = some bs →
      exec (.memoryAccess r) s = .next (emit s 3 2 { part := m.part } [(8, m.va)]))
  ∧ (∀ (s : State) (r : MemReq) (t : Target),
      r.target = some t →
      gauntletOnly t = true →
      r.write.isSome = true →
      s.pwr.pkg ≠ .off →
      r.master ≠ 547 ∨ mittenRuns s = true →
      exec (.memoryAccess r) s = .next (emit s 6 1 {} []))
  ∧ (∀ (s : State) (r : MemReq) (i : Nat),
      r.target = some (.bank i) →
      r.write = none →
      r.master = 547 →
      s.pwr.pkg ≠ .off →
      mittenRuns s = true →
      exec (.memoryAccess r) s = .next (answer s 20 (0x200 + i) (fit r.len ((((s.snap.banks[i]?).getD {}).areaC).drop r.va))))
  ∧ (∀ (s : State) (r : MemReq),
      r.target = some .keyStore ∨ r.target = some .sram ∨ r.target = none →
      r.write = none →
      r.master = 547 →
      exec (.memoryAccess r) s = .next s)

/-- Grants and held requests (R345, R347, R348), scrubbing (R463-R465). -/
def Obligations.WaitingRequestsAndTheScrubberMoveOn : Prop :=
  (∀ (s : State) (port cls res p g : Nat),
      p < 16 →
      tfind s.bw.grants (grantKey port p cls res) = some g →
      (tfind s.bw.grants (grantKey port p cls res + 1)).getD 0 + 1000 ≤ s.time.now →
      ∃ t, exec (.grantReturn port cls res) s = .next t ∧ tfind t.bw.grants (grantKey port p cls res) = none ∧ t.mem = s.mem)
  ∧ (∀ (s : State) (res id pa : Nat) (w : WaitReq) (wr : Bool),
      slackOn s res = true →
      (s.bw.waiting.filter fun e => e.2.use.any fun u => u.1 == res) = [(id, w)] →
      xlate s w.req.part w.req.va = .ok (.loc pa wr) →
      underCopy s pa = false →
      underTest s pa = false →
      windowHolds s pa = none →
      exec (.heldRequestRelease res) s = .next (serveReq { s with bw := { s.bw with
          waiting := tdel (tput s.bw.waiting id { w with heldSince := none }) id } } w.req w.use (decide (w.tier ≤ 3))))
  ∧ (∀ (s : State) (res : Nat),
      slackOn s res = false →
      exec (.heldRequestRelease res) s = .next s)
  ∧ (∀ (s : State) (id at_ : Nat) (w : WaitReq) (x : Part),
      tfind s.bw.waiting id = some w →
      w.heldSince = some at_ →
      w.req.prefetch = true →
      at_ + 200 < s.time.now →
      getP s w.req.part = some x →
      ∃ t, exec (.prefetchDrop id) s = .next t ∧ tfind t.bw.waiting id = none ∧
        getP t w.req.part = some { x with prefetchDrop := (x.prefetchDrop + 1) % 2 ^ 64 } ∧ t.mem = s.mem)
  ∧ (∀ (s : State) (id : Nat) (w : WaitReq),
      tfind s.bw.waiting id = some w →
      w.tier = 1 →
      0 < w.req.deadline →
      w.req.deadline < s.time.now →
      exec (.requestDeadlinePass id) s = .next { s with bw := { s.bw with waiting := tput s.bw.waiting id { w with tier := 3 } } })
  ∧ (∀ (s : State) (pa : Nat),
      pa % 32 = 0 →
      s.flt.scrubAt = pa →
      s.flt.scrubBack = [] →
      windowHolds s pa = none →
      scrubPasses s pa = false →
      poisoned s pa = false →
      ∃ t, exec (.scrubRead pa .clean) s = .next t ∧ t.flt.scrubAt = (scrubNext pa).getD 0 ∧ tfind t.flt.sticky (pa / 32) = none ∧ t.mem = s.mem)
  ∧ (∀ (s : State) (pa i : Nat),
      pa % 32 = 0 →
      s.flt.scrubAt = pa →
      s.flt.scrubBack = [] →
      windowHolds s pa = none →
      scrubPasses s pa = false →
      poisoned s pa = false →
      tfind s.flt.sticky (pa / 32) ≠ some i →
      ∃ t, exec (.scrubRead pa (.corrected i)) s = .next t ∧ t.flt.scrubAt = (scrubNext pa).getD 0 ∧ tfind t.flt.sticky (pa / 32) = some i ∧ t.mem = s.mem)
  ∧ (∀ (s : State) (pa n : Nat) (found : EccFinding),
      pa % 32 = 0 →
      s.flt.scrubAt = pa →
      pa ∉ s.flt.scrubBack →
      (windowHolds s pa).isSome = true →
      scrubNext pa = some n →
      exec (.scrubRead pa found) s = .next { s with flt := { s.flt with scrubBack := s.flt.scrubBack ++ [pa], scrubAt := n } })
  ∧ (∀ (s : State),
      polScrubBound s ≠ 0 →
      s.flt.scrubLagged = false →
      s.flt.scrubStart + polScrubBound s < s.time.now →
      ∃ t, exec .scrubLag s = .next t ∧ t.flt = { s.flt with scrubLagged := true } ∧ t.mem = s.mem)
  ∧ (∀ (s : State) (b : Nat),
      ∃ t, exec .ceLeak s = .next t ∧ tfind t.flt.ce b = (tfind s.flt.ce b).map (· - 1) ∧ t.mem = s.mem)

/-- Sequences (R244-R246, R252-R254, R274). -/
def Obligations.SequencesOpenForkReadAndClose : Prop :=
  (∀ (s : State) (d : Nat) (f : Flight) (b : List Byte) (x : Slot),
      Runs s d 0x7001 f →
      kvSlotOk f = true →
      kvBusy s d f = false →
      f.zeroFrom 0x28 = true →
      recordIn s (cxOf s f d) (f.op 0x20 8) 64 64 = .ok b →
      parseSeq s f.part b = some x →
      (getSlot s f.slotF).st = .free →
      exec (.seqOpen d) s = .next (endF (putSlot s f.slotF x) d stOk 0))
  ∧ (∀ (s : State) (d : Nat) (f : Flight),
      Runs s d 0x7002 f →
      kvSlotOk f = true →
      kvBusy s d f = false →
      f.zeroFrom 0x20 = true →
      (getSlot s f.slotF).st ≠ .free →
      slotStepped s f.slotF = false →
      ∃ u, exec (.seqClose d) s = .next (endF u d stOk 0) ∧ getSlot u f.slotF = {})
  ∧ (∀ (s : State) (d : Nat) (f : Flight),
      Runs s d 0x7002 f →
      kvSlotOk f = true →
      kvBusy s d f = false →
      f.zeroFrom 0x20 = true →
      (getSlot s f.slotF).st ≠ .free →
      slotStepped s f.slotF = true →
      exec (.seqClose d) s = .next (putF s d { f with phase := .held }))
  ∧ (∀ (s t : State) (d : Nat) (f : Flight) (x : Slot) (bad : Bool),
      Runs s d 0x7003 f →
      kvSlotOk f = true →
      kvBusy s d f = false →
      f.op 0x20 2 < 0x8000 →
      slotOf s f.part (f.op 0x20 2) = true →
      f.zero 0x22 2 = true →
      f.zeroFrom 0x30 = true →
      f.op 0x28 8 = 0 →
      x = getSlot s (f.op 0x20 2) →
      x.st = .open_ →
      f.op 0x24 4 ≤ x.settled →
      (getSlot s f.slotF).st = .free →
      (forkPages (putSlot s f.slotF (forkChild s f.part (f.op 0x24 4) x none)) (cxOf s f d) (f.op 0x20 2) f.slotF (f.op 0x24 4) (x.pages.filter fun e => decide (e.1 % 2 ^ 32 * 16 < f.op 0x24 4)) = some (t, bad)) →
      exec (.seqFork d) s = .next (endF t d (if bad then stPoisoned else stOk) 0))
  ∧ (∀ (s v : State) (d : Nat) (f : Flight),
      Runs s d 0x7004 f →
      kvSlotOk f = true →
      kvBusy s d f = false →
      f.zeroFrom 0x28 = true →
      (getSlot s f.slotF).st ≠ .free →
      vwrite s (cxOf s f d) (f.op 0x20 8) (readback s f.part f.slotF) = .ok v →
      exec (.seqRead d) s = .next (endF v d stOk 0))
  ∧ (∀ (s u : State) (slot d : Nat) (f : Flight),
      (s.qe.flights.find? fun e => e.2.phase == .held && (e.2.opcode == 0x7002 || e.2.opcode == 0x7020) && e.2.slotF == slot) = some (d, f) →
      slotStepped s slot = false →
      s.pwr.pkg ≠ .trip →
      u = putF s d { f with phase := .started } →
      exec (.kvHeldResume slot) s = .next (if f.opcode = 0x7002 then seqClose d u else swapOut d u))
  ∧ (∀ (s : State) (slot d : Nat) (f : Flight),
      (s.qe.flights.find? fun e => e.2.phase == .held && (e.2.opcode == 0x7002 || e.2.opcode == 0x7020) && e.2.slotF == slot) = some (d, f) →
      slotStepped s slot = false →
      s.pwr.pkg ≠ .trip →
      f.opcode = 0x7002 →
      kvSlotOk f = true →
      kvBusy s d f = false →
      f.zeroFrom 0x20 = true →
      (getSlot s slot).st ≠ .free →
      ∃ u, exec (.kvHeldResume slot) s = .next (endF u d stOk 0) ∧ getSlot u slot = {})

/-- Pools (R247-R249), swap images (R246, R269-R273). -/
def Obligations.PoolsAndSwapImagesComplete : Prop :=
  (∀ (s : State) (d : Nat) (f : Flight) (b : List Byte) (y : Pool) (range : Nat),
      Runs s d 0x7010 f →
      kvSlotOk f = true →
      f.zeroFrom 0x28 = true →
      recordIn s (cxOf s f d) (f.op 0x20 8) 64 64 = .ok b →
      parsePool (getPool s f.part) b = some (y, range) →
      (getPool s f.part).configured = false →
      framesFree s f.part (backing y) = true →
      (s.kv.slots.any fun e => slotOf s f.part e.1 && e.2.st != .free) = false →
      ∃ u, exec (.poolConfig d) s = .next (endF u d stOk 0) ∧ getPool u f.part = { y with hostUsed := [], remoteUsed := [] } ∧
        (∀ fr ∈ backing y, fr ∈ u.mem.tableTag) ∧ u.kv.slots = s.kv.slots)
  ∧ (∀ (s : State) (d : Nat) (f : Flight) (x : Pool) (n : Nat) (frames : List Nat),
      Runs s d 0x7011 f →
      kvSlotOk f = true →
      x = getPool s f.part →
      n = f.op 0x28 4 →
      (frames = (List.range n).map (fun i => f.op 0x20 8 / 8192 + i)) →
      n ≠ 0 →
      f.op 0x2C 1 = 0 →
      f.zeroFrom 0x2D = true →
      f.op 0x20 8 % 8192 = 0 →
      x.configured = true →
      x.frames.length + n ≤ 2048 * x.ftabFrames →
      x.frames.length + n ≤ 2 ^ 22 →
      x.extents < 256 →
      framesFree s f.part frames = true →
      ∃ u, exec (.poolAdd d) s = .next (endF (watermarks u f.part) d stOk 0) ∧
        getPool u f.part = { x with frames := x.frames ++ (frames.map fun fr => { where_ := fr * 8192 }), extents := x.extents + 1 } ∧
        (∀ fr ∈ frames, fr ∈ u.mem.kvTag))
  ∧ (∀ (s t : State) (d : Nat) (f : Flight),
      Runs s d 0x7020 f →
      kvSlotOk f = true →
      kvBusy s d f = false →
      f.zeroFrom 0x20 = true →
      (getSlot s f.slotF).st = .open_ →
      slotStepped s f.slotF = false →
      startSwap s f.part f.slotF (some d) false = (t, 0) →
      exec (.swapOut d) s = .next (putF t d { f with phase := .running }) ∧ (getSlot t f.slotF).st = .swappingOut)
  ∧ (∀ (s : State) (slot p : Nat) (x : Slot),
      x = getSlot s slot →
      p = slotPart s slot →
      x.st = .swappingOut →
      x.imaged = false →
      x.swapRemote = false →
      swapWaits s slot 6 = false →
      swapPoisoned s p x = false →
      ∃ t, exec (.swapOutDone slot) s = .next t ∧ (getSlot t slot).st = .swapped)
  ∧ (∀ (s : State) (d : Nat) (f : Flight) (x : Slot),
      Runs s d 0x7021 f →
      kvSlotOk f = true →
      kvBusy s d f = false →
      f.op 0x20 1 ≤ 1 →
      f.zeroFrom 0x21 = true →
      x = getSlot s f.slotF →
      x.st = .swapped →
      x.swapRemote = false →
      needMet s f.part (List.replicate (pagesOfCells x.swapCells.length) (4 + kindOf x false)) false = true →
      exec (.swapIn d) s = .next (putF (putSlot s f.slotF { x with st := .swappingIn, swapBy := some d }) d { f with phase := .running }))
  ∧ (∀ (s t : State) (slot d : Nat) (head : List Byte) (pages : List (Nat × Nat × List Byte)),
      (getSlot s slot).st = .swappingIn →
      (getSlot s slot).swapBy = some d →
      (s.plauf.out.any fun e => e.2.desc == d && e.2.kind == 7) = false →
      openImage s (slotPart s slot) slot = some (head, pages) →
      restorePages s { part := slotPart s slot, desc := slot, rem := [] } slot pages = some t →
      ∃ u, exec (.swapInDone slot) s = .next (endF u d stOk 0) ∧ (getSlot u slot).st = .open_ ∧ (getSlot u slot).swapCells = [] ∧
          (getSlot u slot).settled = fld head 0x40 4)
  ∧ (∀ (s : State) (slot d : Nat),
      (getSlot s slot).st = .swappingIn →
      (getSlot s slot).swapBy = some d →
      (s.plauf.out.any fun e => e.2.desc == d && e.2.kind == 7) = false →
      openImage s (slotPart s slot) slot = none →
      ∃ u, exec (.swapInDone slot) s = .next (endF u d stPoisoned 0) ∧ (getSlot u slot).st = .failed)

/-- Rotas and steps (R282-R292, R315-R332). -/
def Obligations.RotasBindAndStepsRunToTheirCommit : Prop :=
  (∀ (s : State) (d : Nat) (f : Flight) (b : List Byte),
      Runs s d 0x6010 f →
      f.zero 0x21 1 = true →
      f.zeroFrom 0x30 = true →
      f.op 0x24 2 ≤ 64 →
      f.op 0x22 2 + f.op 0x24 2 ≤ 1024 →
      f.op 0x22 2 ≤ 1023 →
      1 ≤ f.op 0x26 2 →
      f.op 0x26 2 ≤ 4096 →
      f.op 0x28 8 ≠ 0 →
      f.op 0x28 8 % 64 = 0 →
      f.op 0x28 8 + 64 * f.op 0x26 2 ≤ 2 ^ 47 →
      (s.steps.rotas.any fun e => e.1 / 256 == f.part && e.1 != 256 * f.part + f.op 0x20 1 && decide (0 < f.op 0x24 2 ∧ 0 < e.2.privCount ∧ f.op 0x22 2 < e.2.firstPriv + e.2.privCount ∧ e.2.firstPriv < f.op 0x22 2 + f.op 0x24 2)) = false →
      vread s (cxOf s f d) (f.op 0x28 8) (64 * f.op 0x26 2) = .ok b →
      badEntry s (cxOf s f d) b (f.op 0x22 2) (f.op 0x24 2) = none →
      tfind s.steps.rotas (256 * f.part + f.op 0x20 1) = none →
      exec (.rotaBind d) s = .next (endF { s with steps := { s.steps with rotas := tput s.steps.rotas (256 * f.part + f.op 0x20 1) { base := f.op 0x28 8, entries := f.op 0x26 2, firstPriv := f.op 0x22 2, privCount := f.op 0x24 2 } } } d stOk 0))
  ∧ (∀ (s : State) (d : Nat) (f : Flight) (x : Rota),
      Runs s d 0x6011 f →
      f.zeroFrom 0x21 = true →
      tfind s.steps.rotas (256 * f.part + f.op 0x20 1) = some x →
      rotaRuns s f.part (f.op 0x20 1) = false →
      exec (.rotaUnbind d) s = .next (endF { s with steps := { s.steps with rotas := tdel s.steps.rotas (256 * f.part + f.op 0x20 1) } } d stOk 0))
  ∧ (∀ (s t : State) (d : Nat) (f : Flight) (p : StepPlan),
      Runs s d 0x6001 f →
      stepPlan s d f = .ok p →
      stepConflict s d f p.run = false →
      startStep s d f p = .ok t →
      exec (.run d) s = .next t ∧ (∃ r, tfind t.steps.runs d = some r ∧ r.started = true ∧ r.rota = p.run.rota ∧ r.seqs = p.run.seqs))
  ∧ (∀ (s : State) (d : Nat) (f : Flight) (p : StepPlan),
      Runs s d 0x6001 f →
      stepPlan s d f = .ok p →
      stepConflict s d f p.run = true →
      exec (.run d) s = .next (putF { s with steps := { s.steps with runs := tput s.steps.runs d p.run } } d { f with phase := .held }))
  ∧ (∀ (s t : State) (d : Nat) (f : Flight) (p : StepPlan) (x : Part) (r : StepRun),
      getF s d = some f →
      f.opcode = 0x6001 →
      f.phase = .held →
      s.pwr.pkg = .run →
      getP s f.part = some x →
      x.st = .online →
      x.fences = [] →
      tfind s.steps.runs d = some r →
      stepConflict s d f r = false →
      stepPlan s d f = .ok p →
      stepConflict s d f p.run = false →
      startStep s d f p = .ok t →
      exec (.stepRelease d) s = .next t ∧ (∃ r, tfind t.steps.runs d = some r ∧ r.started = true ∧ r.rota = p.run.rota ∧ r.seqs = p.run.seqs))
  ∧ (∀ (s : State) (d : Nat) (f child : Flight) (r : StepRun) (x : Rota) (b : List Byte) (u : State),
      getF s d = some f →
      tfind s.steps.runs d = some r →
      tfind s.steps.rotas (256 * f.part + r.rota) = some x →
      r.started = true →
      f.phase = .running →
      r.next < x.entries →
      vread s (cxOf s f d) (x.base + 64 * r.next) 64 = .ok b →
      rotaEntryBad (entryOf b) x.firstPriv x.privCount = none →
      acrossFabric s (entryOf b) = false →
      mayDispatch s r (entryOf b) = true →
      (entryOf b).fFence = false →
      (entryOf b).fWait = false →
      child = { fn := f.fn, q := f.q, slot := r.next, part := f.part, words := replayWords b f, fetchTime := f.fetchTime, phase := .started, stepOf := some d, noRecord := true } →
      u = putF { s with qe := { s.qe with nextFlight := s.qe.nextFlight + 1 }, steps := { s.steps with runs := tput s.steps.runs d { r with next := r.next + 1, live := r.live ++ [(r.next, s.qe.nextFlight)] } } } s.qe.nextFlight child →
      intakeFree u s.qe.nextFlight child = true →
      exec (.rotaEntryDispatch d) s = .next (enterIntake u s.qe.nextFlight child))
  ∧ (∀ (s : State) (d eA eB dur : Nat) (f : Flight) (r : StepRun) (x : Rota) (samples : List Nat) (l : List (StepSeq × Accepted)) (late : Bool),
      getF s d = some f →
      tfind s.steps.runs d = some r →
      tfind s.steps.rotas (256 * f.part + r.rota) = some x →
      r.started = true →
      f.phase = .running →
      r.live = [] →
      x.entries ≤ r.next →
      (if r.sample = 0 then .ok [] else intsAt s (cxOf s f d) r.sample r.rows) = .ok samples →
      (seqE ((r.seqs.zip (splitRows (r.seqs.map (seqRows r)) samples)).map fun e => (acceptSeq s (cxOf s f d) r e.1 e.2).map fun v => (e.1, v)) = .ok l) →
      (f.fSignal && counterFar s f.sigC) = false →
      r.seqs.findSome? (outputWaits s (cxOf s f d)) = none →
      (late = (f.absDeadline.any fun t => decide (t < s.time.now))) →
      ∃ u, exec (.stepCommit d eA eB dur) s = .next (endF u d (if late then stDeadline else if r.verify && l.all (fun e => e.2.a == 0) then stEveRejected else stOk)
            ((l.map fun e => e.2.tokens.length).foldl (· + ·) 0)) ∧
        tfind u.steps.runs d = none ∧
        tfind u.steps.rotas (256 * f.part + r.rota) = some { x with learnedA := eA, learnedB := eB, learnedDur := dur })

/-- TRICKLE (R333-R337). The content of a save cell is opaque (R333). -/
def Obligations.TrickleSleepsSavesAndWakes : Prop :=
  (∀ (s : State) (d : Nat) (f : Flight),
      Runs s d 0x6020 f →
      f.op 0x20 8 % 8192 = 0 →
      1 ≤ f.op 0x28 4 →
      f.op 0x28 4 ≤ 1000000 →
      f.op 0x2C 4 ≤ 86400000 →
      f.op 0x30 2 ≤ 64 →
      f.zeroFrom 0x32 = true →
      areaOk s f.part (f.op 0x20 8) (f.op 0x30 2) = true →
      (s.qe.flights.any fun e => e.2.q == f.q && e.2.trickle.cell.isSome) = false →
      exec (.trickleCfg d) s = .next (endF (putQ s f.q { getQ s f.q with
          trickArea := f.op 0x20 8, trickSaveAfter := f.op 0x28 4, trickTimeout := f.op 0x2C 4, trickCells := f.op 0x30 2 }) d stOk 0))
  ∧ (∀ (s : State) (d c : Nat) (f : Flight),
      getF s d = some f →
      f.trickle.asleep = true →
      f.trickle.cell = none →
      f.trickle.since + 1000 * (getQ s f.q).trickSaveAfter ≤ s.time.now →
      freeCell s f.q = some c →
      ∃ t, exec (.trickleSave d) s = .next t ∧ getF t d = some { f with begun := false, trickle := { f.trickle with cell := some c, check := s.free } } ∧
        ∀ k x, tfind t.flt.cores k = some x → d ∉ x.intake)
  ∧ (∀ (s : State) (d : Nat) (f : Flight) (x : Part),
      getF s d = some f →
      f.trickle.asleep = true →
      f.phase = .running →
      s.pwr.pkg = .run →
      getP s f.part = some x →
      x.st = .online →
      x.fences = [] →
      trickleReady s d f = true →
      f.trickle.cell = none →
      exec (.trickleResume d) s = .next (putF s d { f with phase := .started, trickle := { f.trickle with asleep := false, cell := none } }))
  ∧ (∀ (s : State) (d c : Nat) (f : Flight) (x : Part),
      getF s d = some f →
      f.trickle.asleep = true →
      f.phase = .running →
      s.pwr.pkg = .run →
      getP s f.part = some x →
      x.st = .online →
      x.fences = [] →
      trickleReady s d f = true →
      f.trickle.cell = some c →
      (cellChanged s f = some true → exec (.trickleResume d) s = .next (endF (emit s 6 8 { part := f.part } []) d stPoisoned 0)) ∧
        (cellChanged s f = some false → intakeFree s d f = true → exec (.trickleResume d) s = .next (enterIntake (putF s d { f with
          phase := .started, trickle := { f.trickle with asleep := false, cell := none } }) d f)))
  ∧ (∀ (s : State) (d : Nat) (f : Flight),
      getF s d = some f →
      f.trickle.asleep = true →
      (getQ s f.q).trickTimeout ≠ 0 →
      (f.trickle.seen < ctrOf s f.part f.waitC → exec (.trickleTimeout d) s = .next (putF s d { f with
          trickle := { f.trickle with since := s.time.now, seen := ctrOf s f.part f.waitC } })) ∧
        (ctrOf s f.part f.waitC ≤ f.trickle.seen → f.trickle.since + 1000000 * (getQ s f.q).trickTimeout ≤ s.time.now →
          exec (.trickleTimeout d) s = .next (stopF s d stPreempted)))

/-- Diagnostics (R566-R571). What the units hold is given by no rule: free values (assumption 4). -/
def Obligations.DiagnosticsAnswer : Prop :=
  (∀ (s u : State) (d : Nat) (f : Flight) (failing cores : List Nat) (bad : List (Nat × Nat)),
      Runs s d 0xE001 f →
      f.zeroFrom 0x2D = true →
      f.op 0x2C 1 < 8 →
      f.op 0x20 8 % 64 = 0 →
      cores = coreSet s f.part (f.op 0x28 2) (f.op 0x2A 2) →
      f.op 0x28 2 + f.op 0x2A 2 ≤ (boundCores s f.part).length →
      cores.isEmpty = false →
      (bad = cores.zipIdx.filter (fun e => failing.contains e.1)) →
      (vwrite s (cxOf s f d) (f.op 0x20 8) (toLe 64 ((bad.map fun e => 2 ^ e.2).foldl (· + ·) 0)) = .ok u) →
      exec (.kat d failing) s = .next (bad.foldl (fun t e => chargeCore t e.1 false) (endF u d (if bad.isEmpty then stOk else stArith) 0)))
  ∧ (∀ (s : State) (d : Nat) (f : Flight) (bs : List Byte),
      Runs s d 0xE010 f →
      f.op 0x20 2 < 512 →
      f.op 0x22 2 < 32 →
      f.zero 0x24 4 = true →
      f.zeroFrom 0x30 = true →
      bs = padTo 16 (toLe 2 (f.op 0x20 2) ++ toLe 2 (f.op 0x22 2) ++ toLe 2 ((spareEntries s (bankNo (f.op 0x20 2) (f.op 0x22 2) 0) (f.op 0x22 2)).length / 8)) ++ spareEntries s (bankNo (f.op 0x20 2) (f.op 0x22 2) 0) (f.op 0x22 2) →
      hostBad s (f.op 0x28 8) bs.length = false →
      exec (.repairRead d) s = .next (endF (hwrite s (f.op 0x28 8) bs) d stOk 0))
  ∧ (∀ (s : State) (d i : Nat) (f : Flight),
      Runs s d 0xE011 f →
      rowFields f false = true →
      bit s.gnt.policy.flags 4 = true →
      targetInHoliday s (f.op 0x20 2) = true →
      f.op 0x20 2 < 512 →
      tfind s.flt.remaps (rowOf (rowAddress (f.op 0x20 2) (f.op 0x22 2) (f.op 0x24 1) (f.op 0x28 4))) = none →
      freeSpare s (bankNo (f.op 0x20 2) (f.op 0x22 2) (f.op 0x24 1)) = some i →
      exec (.rowRemap d) s = .next (endF (emit (chargeMemory { s with flt := { s.flt with
            remaps := tput s.flt.remaps (rowOf (rowAddress (f.op 0x20 2) (f.op 0x22 2) (f.op 0x24 1) (f.op 0x28 4))) { spares := [i] } } }
          (chBank (f.op 0x20 2) (f.op 0x22 2)) false) 3 0xE (arrayWho s (rowAddress (f.op 0x20 2) (f.op 0x22 2) (f.op 0x24 1) (f.op 0x28 4)))
          [(8, rowAddress (f.op 0x20 2) (f.op 0x22 2) (f.op 0x24 1) (f.op 0x28 4) / 2048 * 2048)]) d stOk 0))
  ∧ (∀ (s : State) (d : Nat) (f : Flight) (n pa : Nat),
      Runs s d 0xE012 f →
      rowFields f true = true →
      bit s.gnt.policy.flags 4 = true →
      targetInHoliday s (f.op 0x20 2) = true →
      n = bankNo (f.op 0x20 2) (f.op 0x22 2) (f.op 0x24 1) →
      s.flt.pprUsed.contains n = false →
      pa = rowAddress (f.op 0x20 2) (f.op 0x22 2) (f.op 0x24 1) (f.op 0x28 4) →
      exec (.ppr d true) s = .next (endF (emit { s with flt := { s.flt with
          pprUsed := s.flt.pprUsed ++ [n], remaps := tput s.flt.remaps (rowOf pa) { spares := [], ppr := true } } } 3 0xE (arrayWho s pa) [(8, pa / 2048 * 2048), (1, 1)]) d stOk 0))
  ∧ (∀ (s : State) (d : Nat) (f : Flight) (b : List Byte),
      Runs s d 0xE020 f →
      f.op 0x20 1 ≤ 7 →
      f.op 0x21 1 ≤ 1 →
      f.op 0x22 2 ≠ 0 →
      f.op 0x22 2 ≤ 4096 →
      f.zero 0x24 4 = true →
      f.zeroFrom 0x30 = true →
      hread s (f.op 0x28 8) ((f.op 0x22 2 + 7) / 8) = some b →
      bit s.gnt.policy.flags 3 = true →
      s.hol.open_ = true →
      bit s.hol.stackSet (f.op 0x20 1) = true →
      (f.op 0x21 1 = 0 → bit s.gnt.policy.flags 4 = true) →
      ∃ u bs, exec (.tap d) s = .next (endF (hwrite u (f.op 0x28 8) bs) d stOk 0) ∧ bs.length = (f.op 0x22 2 + 7) / 8 ∧ u = { s with free := u.free })
  ∧ (∀ (s : State) (d : Nat) (f : Flight),
      Runs s d 0xE021 f →
      f.op 0x20 1 ≤ 7 →
      f.op 0x28 1 ≤ 1 →
      f.zero 0x21 1 = true →
      f.zeroFrom 0x29 = true →
      bit s.gnt.policy.flags 3 = true →
      s.hol.open_ = true →
      ((List.range 4).all fun i => bit s.hol.ports (4 * f.op 0x20 1 + i)) = true →
      ∃ u v, exec (.engineCtrl d) s = .next (endF u d stOk v) ∧ v < 2 ^ 28 ∧ u = { s with free := u.free })
  ∧ (∀ (s : State) (d pa : Nat) (f : Flight) (found : List (Nat × EccFinding)) (bs : List Byte),
      Runs s d 0xE030 f →
      (found.find? (fun e => e.1 == 0) = none) →
      pa = f.op 0x20 8 →
      f.op 0x28 4 = 1 →
      pa % 32 = 0 →
      f.zero 0x2C 4 = true →
      f.zeroFrom 0x38 = true →
      arrayAddress s pa = true →
      s.gnt.debug = true →
      bit s.gnt.debugScope 1 = true →
      inEveFrame s pa = false →
      poisoned s pa = false →
      inFreeFrame s pa = false →
      bs = wordBytes s pa ++ toLe 4 (Config.checkBytes (wordBytes s pa)) ++ toLe 1 0 ++ toLe 3 0 →
      hostBad s (f.op 0x30 8) bs.length = false →
      exec (.arrayRead d found) s = .next (endF (hwrite s (f.op 0x30 8) bs) d stOk 0))
  ∧ (∀ (s : State) (d site : Nat) (f : Flight),
      Runs s d 0xE031 f →
      site = f.op 0x20 1 * 272 + f.op 0x21 1 * 17 + f.op 0x22 1 →
      f.op 0x20 1 ≤ 1 →
      f.op 0x21 1 ≤ 15 →
      f.op 0x22 1 ≤ 16 →
      f.zero 0x23 5 = true →
      f.zeroFrom 0x30 = true →
      s.gnt.debug = true →
      bit s.gnt.debugScope 2 = true →
      (getSite s site).fenced = true ∨ siteInHoliday s (f.op 0x20 1) (f.op 0x21 1) = true →
      hostBad s (f.op 0x28 8) 262144 = false →
      ∃ u bs, exec (.scanDump d) s = .next (endF (hwrite u (f.op 0x28 8) bs) d stOk 0) ∧ bs.length = 262144 ∧
        getSite u site = { getSite s site with fenced := true, scanned := true } ∧ u.mem = s.mem)

/-- The lane row (R91-R97, R114-R143). -/
def Obligations.MatrixProductsComplete : Prop :=
  (∀ (s u : State) (d : Nat) (f : Flight) (w : Work) (p : MatPlan) (xl wl cl sl : List ((Nat × Nat) × Bool)),
      Runs s d 0x1001 f →
      matPlan s d f = .ok p →
      granted s d f.part p = true →
      f.fTrickle = false →
      (p.x.ext[1]?).getD 1 ≠ 0 →
      readTP s (cxOf s f d) p.x = .ok xl →
      readTP s (cxOf s f d) p.w = .ok wl →
      readOptP s (cxOf s f d) p.c = .ok cl →
      readOptP s (cxOf s f d) p.side = .ok sl →
      (xl ++ wl ++ cl ++ sl).any Prod.snd = false →
      w.faults = [] →
      w.more = false →
      f.done = [] →
      meets (p.d.places s (cxOf s f d)) (matSources s (cxOf s f d) p) = false →
      (writeMat ((p.x :: p.w :: (p.c.toList ++ p.side.toList)).foldl (fun t x => touchRead t (cxOf s f d) x) s) (cxOf s f d) f p none
          ((List.range p.d.count).map (matElem p (valuesL p.x xl).toArray (valuesL p.w wl).toArray
            (p.c.map (fun t => if iacc p.cvt then cl.map (fun e => e.1.1) else widenL t cl))
            (match p.side with | none => [] | some t => widenL t sl))) = .ok u) →
      exec (.matmul d w) s = .next (endF u d stOk w.cycles))
  ∧ (∀ (s u : State) (d : Nat) (f : Flight) (w : Work) (p : MatPlan) (xl wl cl sl : List ((Nat × Nat) × Bool)),
      Runs s d 0x1010 f →
      matPlan s d f = .ok p →
      granted s d f.part p = true →
      f.fTrickle = false →
      (p.x.ext[1]?).getD 1 ≠ 0 →
      readTP s (cxOf s f d) p.x = .ok xl →
      readTP s (cxOf s f d) p.w = .ok wl →
      readOptP s (cxOf s f d) p.c = .ok cl →
      readOptP s (cxOf s f d) p.side = .ok sl →
      (xl ++ wl ++ cl ++ sl).any Prod.snd = false →
      w.faults = [] →
      w.more = false →
      f.done = [] →
      meets (p.d.places s (cxOf s f d)) (matSources s (cxOf s f d) p) = false →
      (writeMat ((p.x :: p.w :: (p.c.toList ++ p.side.toList)).foldl (fun t x => touchRead t (cxOf s f d) x) s) (cxOf s f d) f p none
          ((List.range p.d.count).map (matElem p (valuesL p.x xl).toArray (valuesL p.w wl).toArray
            (p.c.map (fun t => if iacc p.cvt then cl.map (fun e => e.1.1) else widenL t cl))
            (match p.side with | none => [] | some t => widenL t sl))) = .ok u) →
      exec (.conv1d d w) s = .next (endF u d stOk w.cycles))
  ∧ (∀ (s u : State) (d : Nat) (f : Flight) (w : Work) (p : MatPlan) (xl wl cl sl : List ((Nat × Nat) × Bool)),
      Runs s d 0x1011 f →
      matPlan s d f = .ok p →
      granted s d f.part p = true →
      f.fTrickle = false →
      (p.x.ext[1]?).getD 1 ≠ 0 →
      readTP s (cxOf s f d) p.x = .ok xl →
      readTP s (cxOf s f d) p.w = .ok wl →
      readOptP s (cxOf s f d) p.c = .ok cl →
      readOptP s (cxOf s f d) p.side = .ok sl →
      (xl ++ wl ++ cl ++ sl).any Prod.snd = false →
      w.faults = [] →
      w.more = false →
      f.done = [] →
      meets (p.d.places s (cxOf s f d)) (matSources s (cxOf s f d) p) = false →
      (writeMat ((p.x :: p.w :: (p.c.toList ++ p.side.toList)).foldl (fun t x => touchRead t (cxOf s f d) x) s) (cxOf s f d) f p none
          ((List.range p.d.count).map (matElem p (valuesL p.x xl).toArray (valuesL p.w wl).toArray
            (p.c.map (fun t => if iacc p.cvt then cl.map (fun e => e.1.1) else widenL t cl))
            (match p.side with | none => [] | some t => widenL t sl))) = .ok u) →
      exec (.conv2d d w) s = .next (endF u d stOk w.cycles))
  ∧ (∀ (s : State) (core d : Nat) (f : Flight) (p : MatPlan) (e : Nat × Nat × Nat × Nat),
      ((getCore s core).intake.find? fun d => ((getF s d).map fun f => f.phase == .started && !f.begun).getD false) = some d →
      getF s d = some f →
      matPlan s d f = .ok p →
      ((takingPart s f.part p).find? fun e => e.1 == core) = some e →
      unitsHeld s core d = 0 →
      f.opcode / 4096 = 1 →
      exec (.laneModeChange core) s = .next (putCore s core { getCore s core with mode := e.2.2.2 }))

/-- The element engine (R144-R168). -/
def Obligations.ElementWorkCompletes : Prop :=
  (∀ (s u : State) (d : Nat) (f : Flight) (w : Work) (ch : Chain) (p : ChainSet) (la lb ls : List ((Nat × Nat) × Bool)),
      Runs s d 0x2001 f →
      chainPlan s d f = .ok (ch, p) →
      nearPlaced s (cxOf s f d) f ch p = false →
      buffersFree s d ((chainShares s f.part ch p).map Prod.fst) = true →
      coreRangeOk s f.part ch.first ch.count = true →
      f.fTrickle = false →
      (p.a.ext[1]?).getD 1 ≠ 0 →
      readTP s (cxOf s f d) p.a = .ok la →
      readOptP s (cxOf s f d) p.b = .ok lb →
      readOptP s (cxOf s f d) p.side = .ok ls →
      (la ++ lb ++ ls).any Prod.snd = false →
      w.faults = [] →
      w.more = false →
      f.done = [] →
      meets (p.d.places s (cxOf s f d)) (chainSources s (cxOf s f d) ch p (chainRecs f ch p)) = false →
      (writeF32 (p.inputs.foldl (fun t x => touchRead t (cxOf s f d) x) s) (cxOf s f d) p.d (cvtSat ch.cvt) (genKeyOf s f ch.cvt p.d)
          (chainVals ch p (ChainIn.mk (widenL p.a la) ((p.b.map (fun x => widenL x lb)).getD []) ((p.side.map (fun x => widenL x ls)).getD []))) = .ok u) →
      exec (.chain d w) s = .next (endF u d stOk w.cycles))
  ∧ (∀ (s u : State) (d : Nat) (f : Flight) (w : Work) (b : List Byte) (x o : Tensor) (xl : List ((Nat × Nat) × Bool)),
      Runs s d 0x2010 f →
      recordIn s (cxOf s f d) (f.op 0x38 8) 64 64 = .ok b →
      operand s (cxOf s f d) (f.op 0x20 8) = .ok x →
      operand s (cxOf s f d) (f.op 0x30 8) = .ok o →
      f.zero 0x28 8 = true →
      zeroAt b 4 4 = true →
      zeroAt b 0x14 44 = true →
      x.ext = o.ext →
      x.e0 ≤ 65536 →
      cvtOk f o.fmt o.count (fld b 8 8) = true →
      coreRangeOk s f.part (fld b 0x10 2) (fld b 0x12 2) = true →
      buffersFree s d ((sharesOf (coreSet s f.part (fld b 0x10 2) (fld b 0x12 2)) (o.count / o.e0)).map Prod.fst) = true →
      readTP s (cxOf s f d) x = .ok xl →
      xl.any Prod.snd = false →
      w.faults = [] →
      w.more = false →
      f.done = [] →
      (meets (o.places s (cxOf s f d)) ((if sameTensor x o then [] else x.places s (cxOf s f d)) ++ [f.op 0x20 8, f.op 0x30 8, f.op 0x38 8].flatMap (fun a => placesOf s (cxOf s f d) a 64)) = false) →
      writeF32 (touchRead s (cxOf s f d) x) (cxOf s f d) o (cvtSat (fld b 8 8)) (genKeyOf s f (fld b 8 8) o) ((chunks x.e0 (widenL x xl)).flatMap (softRow (fmul (fld b 0 4) l2e))) = .ok u →
      exec (.softmax d w) s = .next (endF u d stOk w.cycles))
  ∧ (∀ (s u : State) (d : Nat) (f : Flight) (w : Work) (b : List Byte) (z o : Tensor) (zs : List Nat) (params : List (List Byte)),
      Runs s d 0x2020 f →
      recordIn s (cxOf s f d) (f.op 0x38 8) 64 64 = .ok b →
      operand s (cxOf s f d) (f.op 0x20 8) = .ok z →
      f.op 0x28 8 = 0 →
      operand s (cxOf s f d) (f.op 0x30 8) = .ok o →
      fld b 8 8 = 0 →
      f.stepOf = none →
      z.fmt = 0 ∨ z.fmt = 1 →
      z.ext.length = 2 →
      z.e0 ≤ 1048576 →
      o.fmt = 6 →
      o.ext = [1, (z.ext[1]?).getD 1] →
      1 ≤ fld b 0x18 1 →
      fld b 0x18 1 ≤ 16 →
      (if fld b 0x16 2 = 0 then (coreSet s f.part (fld b 0x14 2) 0).length else fld b 0x16 2) % fld b 0x18 1 = 0 →
      zeroAt b 0x19 39 = true →
      coreRangeOk s f.part (fld b 0x14 2) (fld b 0x16 2) = true →
      fld b 0 8 ≠ 0 →
      fld b 0 8 % 16 = 0 →
      f.slotF ≠ 0xFFFF →
      fld b 0x10 4 ≠ 0xFFFFFFFF →
      buffersFree s d (sampleCores s f.part (fld b 0x14 2) (fld b 0x16 2) (fld b 0x18 1) z.e0 ((z.ext[1]?).getD 1)) = true →
      widenT s (cxOf s f d) z = .ok zs →
      (seqE ((List.range ((z.ext[1]?).getD 1)).map fun i => if 2 ^ 47 ≤ fld b 0 8 + 16 * i ∧ fld b 0 8 + 16 * i < 2 ^ 48 then .error (.st stPermission) else vread s (cxOf s f d) (fld b 0 8 + 16 * i) 16) = .ok params) →
      ((List.range ((z.ext[1]?).getD 1)).all fun i => zeroAt ((params[i]?).getD []) 14 2) = true →
      w.faults = [] →
      w.more = false →
      (meets (o.places s (cxOf s f d)) (z.places s (cxOf s f d) ++ [f.op 0x20 8, 0, f.op 0x30 8, f.op 0x38 8, 0].flatMap (fun a => if a = 0 then [] else placesOf s (cxOf s f d) a 64)) = false) →
      (writeCodes s (cxOf s f d) o (((List.range ((z.ext[1]?).getD 1)).map (fun i => match rowParam ((params[i]?).getD []) 0 with
          | none => noToken
          | some r => sampleRow (penalise ((zs.drop (i * z.e0)).take z.e0) [] r.pen) r (genWord (getSlot s f.slotF).seed (getSlot s f.slotF).ident 0xFF00 (fld b 0x10 4) i))).map (fun x => x.token)) = .ok u) →
      exec (.sample d w) s = .next (endF (touchRead u (cxOf s f d) z) d stOk w.cycles))

/-- Reductions at the memory controllers (R204-R209). -/
def Obligations.ReductionsCombineAtMemory : Prop :=
  (∀ (s u : State) (d : Nat) (f : Flight) (a b : Tensor) (ra : List (List (Byte × Bool))) (bad : Bool),
      Runs s d 0x5001 f →
      f.fEve = false →
      operand s (cxOf s f d) (f.op 0x20 8) = .ok a →
      operand s (cxOf s f d) (f.op 0x28 8) = .ok b →
      bits (f.op 0x30 4) 0 4 ≤ 2 →
      bits (f.op 0x30 4) 5 3 = 0 →
      f.zeroFrom 0x34 = true →
      a.fmt = b.fmt →
      a.ext = b.ext →
      [0, 1, 6, 7].contains b.fmt = true →
      bit (f.op 0x30 4) 4 = false →
      bits (f.op 0x30 4) 8 24 = 0 →
      inTierS s (cxOf s f d) b = .ok true →
      rowsP s (cxOf s f d) a = .ok ra →
      accEach (cxOf s f d) b.fmt (bits (f.op 0x30 4) 0 4) ((elemVas b).zip (codesP a.fmt ra)) (touchRead s (cxOf s f d) a) false = .ok (u, bad) →
      exec (.acc d) s = .next (endF u d (if bad then stPoisoned else stOk) 0))
  ∧ (∀ (s t : State) (d k : Nat) (f : Flight) (a b : Tensor) (ra : List (List (Byte × Bool))),
      Runs s d 0x5001 f →
      f.fEve = false →
      operand s (cxOf s f d) (f.op 0x20 8) = .ok a →
      operand s (cxOf s f d) (f.op 0x28 8) = .ok b →
      bits (f.op 0x30 4) 0 4 ≤ 2 →
      bits (f.op 0x30 4) 5 3 = 0 →
      f.zeroFrom 0x34 = true →
      a.fmt = b.fmt →
      a.ext = b.ext →
      [0, 1, 6, 7].contains b.fmt = true →
      bit (f.op 0x30 4) 4 = true →
      1 ≤ bits (f.op 0x30 4) 24 8 →
      bits (f.op 0x30 4) 24 8 ≤ 32 →
      bits (f.op 0x30 4) 16 8 < bits (f.op 0x30 4) 24 8 →
      bits (f.op 0x30 4) 24 8 * b.bytes ≤ stagingSize →
      inTierS s (cxOf s f d) b = .ok true →
      rowsP s (cxOf s f d) a = .ok ra →
      bits (f.op 0x30 4) 24 8 ≠ 1 →
      tfind s.mem.groups (256 * f.part + bits (f.op 0x30 4) 8 8) = none →
      t = touchRead s (cxOf s f d) a →
      k = stackOfT s (cxOf s f d) b →
      stagingUsed s k + bits (f.op 0x30 4) 24 8 * b.bytes ≤ stagingSize →
      exec (.acc d) s = .next { putF t d { f with phase := .running } with mem := { t.mem with
          groups := tput t.mem.groups (256 * f.part + bits (f.op 0x30 4) 8 8) { op := bits (f.op 0x30 4) 0 4, count := bits (f.op 0x30 4) 24 8, format := b.fmt, dst := b.rows, e0 := b.e0, bytes := b.bytes, stack := k, staged := true, contrib := [(bits (f.op 0x30 4) 16 8, d, codesP a.fmt ra)] }
          staging := tput t.mem.staging k (stagingUsed s k + bits (f.op 0x30 4) 24 8 * b.bytes) } })
  ∧ (∀ (s v : State) (g : RGroup) (d : Nat) (f : Flight) (a b : Tensor) (ra : List (List (Byte × Bool))),
      Runs s d 0x5001 f →
      f.fEve = false →
      operand s (cxOf s f d) (f.op 0x20 8) = .ok a →
      operand s (cxOf s f d) (f.op 0x28 8) = .ok b →
      bits (f.op 0x30 4) 0 4 ≤ 2 →
      bits (f.op 0x30 4) 5 3 = 0 →
      f.zeroFrom 0x34 = true →
      a.fmt = b.fmt →
      a.ext = b.ext →
      [0, 1, 6, 7].contains b.fmt = true →
      bit (f.op 0x30 4) 4 = true →
      1 ≤ bits (f.op 0x30 4) 24 8 →
      bits (f.op 0x30 4) 24 8 ≤ 32 →
      bits (f.op 0x30 4) 16 8 < bits (f.op 0x30 4) 24 8 →
      bits (f.op 0x30 4) 24 8 * b.bytes ≤ stagingSize →
      inTierS s (cxOf s f d) b = .ok true →
      rowsP s (cxOf s f d) a = .ok ra →
      tfind s.mem.groups (256 * f.part + bits (f.op 0x30 4) 8 8) = some g →
      g.op = bits (f.op 0x30 4) 0 4 →
      g.count = bits (f.op 0x30 4) 24 8 →
      g.format = b.fmt →
      g.dst = b.rows →
      g.e0 = b.e0 →
      (g.contrib.any (fun c => c.1 == bits (f.op 0x30 4) 16 8)) = false →
      v = touchRead s (cxOf s f d) a →
      g.contrib.length + 1 ≠ g.count →
      exec (.acc d) s = .next { putF v d { f with phase := .running } with mem := { v.mem with groups := tput v.mem.groups (256 * f.part + bits (f.op 0x30 4) 8 8) { g with contrib := g.contrib ++ [(bits (f.op 0x30 4) 16 8, d, codesP a.fmt ra)] } } })
  ∧ (∀ (s u t v : State) (g : RGroup) (d : Nat) (f : Flight) (a b : Tensor) (ra : List (List (Byte × Bool))) (old : List (Nat × Bool)) (l : List (List (Nat × Bool))),
      Runs s d 0x5001 f →
      f.fEve = false →
      operand s (cxOf s f d) (f.op 0x20 8) = .ok a →
      operand s (cxOf s f d) (f.op 0x28 8) = .ok b →
      bits (f.op 0x30 4) 0 4 ≤ 2 →
      bits (f.op 0x30 4) 5 3 = 0 →
      f.zeroFrom 0x34 = true →
      a.fmt = b.fmt →
      a.ext = b.ext →
      [0, 1, 6, 7].contains b.fmt = true →
      bit (f.op 0x30 4) 4 = true →
      1 ≤ bits (f.op 0x30 4) 24 8 →
      bits (f.op 0x30 4) 24 8 ≤ 32 →
      bits (f.op 0x30 4) 16 8 < bits (f.op 0x30 4) 24 8 →
      bits (f.op 0x30 4) 24 8 * b.bytes ≤ stagingSize →
      inTierS s (cxOf s f d) b = .ok true →
      rowsP s (cxOf s f d) a = .ok ra →
      tfind s.mem.groups (256 * f.part + bits (f.op 0x30 4) 8 8) = some g →
      g.op = bits (f.op 0x30 4) 0 4 →
      g.count = bits (f.op 0x30 4) 24 8 →
      g.format = b.fmt →
      g.dst = b.rows →
      g.e0 = b.e0 →
      (g.contrib.any (fun c => c.1 == bits (f.op 0x30 4) 16 8)) = false →
      v = touchRead s (cxOf s f d) a →
      g.staged = true →
      g.contrib.length + 1 = g.count →
      t = { putF v d { f with phase := .running } with mem := { v.mem with groups := tput v.mem.groups (256 * f.part + bits (f.op 0x30 4) 8 8) { g with contrib := g.contrib ++ [(bits (f.op 0x30 4) 16 8, d, codesP a.fmt ra)] } } } →
      readRows t { part := f.part, desc := 0, rem := [] } b.fmt b.e0 b.rows = .ok old →
      (l = (List.range g.count).filterMap (fun i => ((g.contrib ++ [(bits (f.op 0x30 4) 16 8, d, codesP a.fmt ra)]).find? (fun c => c.1 == i)).map (fun c => c.2.2))) →
      (writeRows { t with mem := { t.mem with groups := tdel t.mem.groups (256 * f.part + bits (f.op 0x30 4) 8 8), staging := tput t.mem.staging g.stack (stagingUsed t g.stack - g.count * g.bytes) } }
          { part := f.part, desc := 0, rem := [] } b.fmt b.e0 b.rows (old.zipIdx.map fun e =>
            (reduceOp b.fmt g.op e.1.1 (orderedTree b.fmt g.op 6 (l.map fun x => ((x[e.2]?).getD (0, false)).1)), e.1.2 || l.any fun x => ((x[e.2]?).getD (0, false)).2)) = .ok u) →
      exec (.acc d) s = .next ((g.contrib ++ [(bits (f.op 0x30 4) 16 8, d, codesP a.fmt ra)]).foldl (fun x c => endF x c.2.1 (if old.any Prod.snd || c.2.2.any Prod.snd then stPoisoned else stOk) 0) u))
  ∧ (∀ (s : State) (stack key : Nat) (g : RGroup),
      (s.mem.groups.filter (fun e => e.2.stack == stack && !e.2.staged) = [(key, g)]) →
      stagingUsed s stack + g.count * g.bytes ≤ stagingSize →
      g.contrib.length ≠ g.count →
      exec (.orderedStagingGrant stack) s = .next { s with mem := { s.mem with groups := tput s.mem.groups key { g with staged := true }, staging := tput s.mem.staging stack (stagingUsed s stack + g.count * g.bytes) } })

/-- Near-bank work (R215-R231). -/
def Obligations.NearBankWorkRunsInWindows : Prop :=
  (∀ (s : State) (d k : Nat) (f : Flight) (ch : Chain) (sets : List ChainSet) (units : List Unit),
      Runs s d 0x4001 f →
      listSets s d f = .ok (ch, sets) →
      sets ≠ [] →
      (∀ p ∈ sets, nearFit s (cxOf s f d) f ch p = some k) →
      nearAllowed s f.part k = true →
      (seqE (sets.map fun p => writable s (cxOf s f d) p.d) = .ok units) →
      exec (.nearList d) s = .next (putF { s with mem := { s.mem with near := tput s.mem.near d { stack := k, chain := ch, sets := sets.zipIdx.map fun e => nearSet s (cxOf s f d) f ch sets e.1 e.2, left := sets.zipIdx.flatMap fun e => nearWords s (cxOf s f d) f e.2 e.1 } } } d { f with phase := .running }))
  ∧ (∀ (s u : State) (k pc g d n work : Nat) (f : Flight) (r : NearRun) (mine : List NearWord) (dst : List Nat),
      getF s d = some f →
      tfind s.mem.near d = some r →
      mine = groupLeft s d (bgKey k pc g) →
      mine ≠ [] →
      (getBg s (bgKey k pc g)).open_ = false →
      (getBg s (bgKey k pc g)).refreshTo ≤ s.time.now →
      s.time.now + 176 ≤ refreshDue s k (getBg s (bgKey k pc g)) →
      ((List.range 8).filter (fun i => (getBg s (bgKey k pc i)).open_)).length < (if s.bw.hotBand.contains k then 1 else 2) →
      s.bw.throttled.contains k = false →
      s.bw.noWindow.contains k = false →
      nearRival s k (bgKey k pc g) d f = false →
      (work = ((List.range 32).map (fun j => ((mine.filter (fun w => workBank s w.cw == j)).map (cwTime s r)).foldl (· + ·) 0)).foldl max 0) →
      n = min 1200 (min (refreshDue s k (getBg s (bgKey k pc g)) - s.time.now - 80) work) →
      100 ≤ n ∨ work ≤ n →
      (dst = (mine.map (fun w => w.cw / 64)).eraseDups) →
      (u = cleanBlocks s (dst ++ mine.flatMap (fun w => w.sources.map (· / 64)))) →
      exec (.windowOpen k pc g d) s = .next (putBg { u with mem := { u.mem with near := tput u.mem.near d { r with begun := some (r.begun.getD s.time.now) } } } (bgKey k pc g)
          { getBg s (bgKey k pc g) with open_ := true, desc := d, openedAt := s.time.now, closeAt := s.time.now + 80 + n, blocks := dst }))
  ∧ (∀ (s u v x : State) (k pc g d : Nat) (f : Flight) (r : NearRun) (t : NearSet) (w : NearWord),
      (getBg s (bgKey k pc g)).open_ = true →
      (getBg s (bgKey k pc g)).desc = d →
      getF s d = some f →
      tfind s.mem.near d = some r →
      r.left = [w] →
      r.poisoned = none →
      r.sets[w.entry]? = some t →
      groupLeft s d (bgKey k pc g) = [w] →
      v = (chargePort s (513 + bgKey k pc g / 65536 / 4) f.part f.cls (bgKey k pc g / 65536, carryCharge s [w])).1 →
      nearWord v r.chain t w = (u, false) →
      x = dropBlocks u [w.cw / 64] →
      (getBg s (bgKey k pc g)).closeAt ≤ s.time.now →
      (getBg s (bgKey k pc g)).openedAt + 80 < (getBg s (bgKey k pc g)).closeAt →
      exec (.windowClose k pc g { faults := [], found := [] }) s = .next (releaseHeld (nearEnd (shutGroup { x with mem := { x.mem with near := tput x.mem.near d { r with left := [] } } } (bgKey k pc g)) d stOk) (bgKey k pc g)))
  ∧ (∀ (s : State) (k pc g : Nat) (x : WindowWork),
      (getBg s (bgKey k pc g)).open_ = false →
      exec (.windowClose k pc g x) s = .next (serveAll (putBg s (bgKey k pc g) { getBg s (bgKey k pc g) with held := [] }) (getBg s (bgKey k pc g)).held))
  ∧ (∀ (s u v x : State) (k pc g d : Nat) (f : Flight) (r : NearRun) (t : NearSet) (w : NearWord) (i : Nat) (q : WaitReq),
      (getBg s (bgKey k pc g)).open_ = true →
      (getBg s (bgKey k pc g)).desc = d →
      getF s d = some f →
      tfind s.mem.near d = some r →
      r.left = [w] →
      r.poisoned = none →
      r.sets[w.entry]? = some t →
      groupLeft s d (bgKey k pc g) = [w] →
      v = (chargePort s (513 + bgKey k pc g / 65536 / 4) f.part f.cls (bgKey k pc g / 65536, carryCharge s [w])).1 →
      nearWord v r.chain t w = (u, false) →
      x = dropBlocks u [w.cw / 64] →
      i ∈ (getBg s (bgKey k pc g)).held →
      tfind s.bw.waiting i = some q →
      q.req.cls ≤ 1 →
      0 < q.req.deadline →
      q.req.deadline < (getBg s (bgKey k pc g)).closeAt →
      (getBg s (bgKey k pc g)).openedAt + 40 < s.time.now →
      exec (.windowCut k pc g { faults := [], found := [] }) s = .next (releaseHeld (nearEnd (shutGroup { x with mem := { x.mem with near := tput x.mem.near d { r with left := [] } } } (bgKey k pc g)) d stOk) (bgKey k pc g)))
  ∧ (∀ (s : State) (k pc g : Nat),
      (getBg s (bgKey k pc g)).open_ = false →
      refreshDue s k (getBg s (bgKey k pc g)) < s.time.now + 176 →
      exec (.bankGroupRefresh k pc g) s = .next (putBg s (bgKey k pc g) { getBg s (bgKey k pc g) with lastRefresh := s.time.now, refreshTo := s.time.now + 136 }))

/-- ATTEND (R256-R265) and POOL_RESTART (R267). -/
def Obligations.AttentionAppendsAndAttends : Prop :=
  (∀ (s s1 u t : State) (d : Nat) (f : Flight) (w : Work) (p : AttPlan) (q uk uv : List Fv) (rows : List (List Byte)) (r : AttOut),
      Runs s d 0x3001 f →
      f.stepOf = none →
      f.fEve = false →
      f.slotF ≠ 0xFFFF →
      attPlan s d f = .ok p →
      (getSlot s f.slotF).st = .open_ →
      (getSlot s f.slotF).inStep = none ∨ (getSlot s f.slotF).inStep = some d →
      s1 = enterStep s d f →
      layoutOk s1 f.part p (getSlot s1 f.slotF) p.n = true →
      p.n = (p.q.ext[1]?).getD 0 →
      valuesT s1 (cxOf s1 f d) p.q = .ok q →
      valuesT s1 (cxOf s1 f d) p.wuk = .ok uk →
      valuesT s1 (cxOf s1 f d) p.wuv = .ok uv →
      (seqE (p.new.rows.map fun a => vread s1 (cxOf s1 f d) a p.new.rowBytes) = .ok rows) →
      attAppend s1 (cxOf s1 f d) p rows [(f.slotF, 0, p.n)] = (u, none) →
      r = attCompute u (cxOf s1 f d) p q.toArray uk.toArray uv.toArray [(f.slotF, 0, p.n)] →
      (∀ e ∈ r.rows, ∃ v, e.2 = .ok v) →
      w.faults = [] →
      (writeF32 u (cxOf s1 f d) p.out (cvtSat p.cvt) (genKeyOf s1 f p.cvt p.out) (r.rows.flatMap fun e => match e.2 with | .ok v => v | .error _ => List.replicate p.out.e0 0) = .ok t) →
      exec (.attend d w) s = .next (endF ([p.q, p.new, p.wuk, p.wuv].foldl (fun x y => touchRead x (cxOf s1 f d) y) (setIncs t p.layer r.incs)) d stOk w.cycles))
  ∧ (∀ (s : State) (d : Nat) (needs : List Nat) (table : Bool) (f : Flight),
      getF s d = some f →
      (getPool s f.part).stopped.find? (fun e => e.1 == d) = some (d, needs, table) →
      f.phase = .stopped →
      needMet s f.part needs table = true →
      exec (.poolRestart d) s = .next (if f.opcode = 0x6001 then putF (unstop s f.part d) d { f with phase := .held }
          else enterStep (putF (unstop s f.part d) d { f with phase := .started, remote := [] }) d f) ∧
        unstop s f.part d = { s with kv := { s.kv with pools := tput s.kv.pools f.part { getPool s f.part with stopped := (getPool s f.part).stopped.filter fun e => e.1 != d } } })
  ∧ (∀ (s t : State) (d : Nat) (f : Flight),
      getF s d = some f →
      f.phase = .ended →
      hasOut s d = false →
      recordRoom s f = true →
      f.opcode = 0x3001 →
      f.stepOf = none →
      f.status = stOk →
      f.fCmpl = false →
      f.fSignal = false →
      f.q ≠ 0 →
      f.absDeadline = none →
      s.pwr.drainTo = none →
      (getSlot s f.slotF).inStep = some d →
      t = endSequence (putF s d f) { part := f.part, desc := d, rem := [] } f.slotF ((getSlot s f.slotF).settled + (getSlot s f.slotF).eveCount) true →
      getF t d = some f →
      exec (.descriptorComplete d) s = .next (delF { t with flt := { t.flt with cores := tmap t.flt.cores fun _ c => { c with intake := c.intake.filter (· != d) } } } d))

/-- R2: on TMD-P960-B1 the Cuff holds the guest site's link in reset and keeps every window closed; no command opens
them. -/
def Obligations.OnAPartWithoutAGuestTheCuffStaysShut : Prop :=
  (∀ (s t : State),
      s.guestSite = false →
      s.cuff.guestReset = true →
      s.cuff.linkUp = false →
      s.cuff.wins = [] →
      step s = .next t →
      t.guestSite = false ∧ t.cuff.guestReset = true ∧ t.cuff.linkUp = false ∧ t.cuff.wins = [])
  ∧ (∀ (s : State),
      ∃ t, step s = .next t)
  ∧ (State.reset.cuff.guestReset = true ∧ State.reset.cuff.linkUp = false ∧ State.reset.cuff.wins = [])

/-- R175: the pseudo-channel of a stack offset. -/
def Obligations.BlocksOfAStackLieInOnePseudoChannel : Prop :=
  (∀ (k o : Nat),
      k < 8 →
      o < 2 ^ 37 →
      ((o / 2 ^ 11 % 64) ^^^ (o / 2 ^ 17 % 64)) < 64 ∧
      (∃ bank row, bankOf (2 ^ 38 + k * 2 ^ 37 + o) = some (bank, chPc k ((o / 2 ^ 11 % 64) ^^^ (o / 2 ^ 17 % 64)), row)) ∧
      ∃ g, g < 8 ∧ groupKey (2 ^ 38 + k * 2 ^ 37 + o) = some (65536 * k + 8 * ((o / 2 ^ 11 % 64) ^^^ (o / 2 ^ 17 % 64)) + g))
  ∧ (∀ (j k p q : Nat),
      p < 64 →
      q < 64 →
      chPc j p = chPc k q →
      j = k ∧ p = q)
  ∧ (∀ (o u : Nat),
      o / 2048 = u / 2048 →
      ((o / 2 ^ 11 % 64) ^^^ (o / 2 ^ 17 % 64)) = ((u / 2 ^ 11 % 64) ^^^ (u / 2 ^ 17 % 64)))
  ∧ (∀ (b p : Nat),
      p < 64 →
      ∃ i, i < 64 ∧ ((((64 * b + i) * 2048) / 2 ^ 11 % 64) ^^^ (((64 * b + i) * 2048) / 2 ^ 17 % 64)) = p ∧
        ∀ j, j < 64 → ((((64 * b + j) * 2048) / 2 ^ 11 % 64) ^^^ (((64 * b + j) * 2048) / 2 ^ 17 % 64)) = p → j = i)

/-- R351: the admission test of BW_REGISTER. -/
def Obligations.ARegistrationIsAdmittedWithinEightyFivePerCent : Prop :=
  (∀ (s : State) (d : Nat) (f : Flight),
      Runs s d 0xF120 f →
      f.op 0x20 1 ≤ 15 →
      f.op 0x21 1 ≤ 5 →
      f.op 0x24 4 ≠ 0 →
      2048 ≤ f.op 0x28 4 ∧ f.op 0x28 4 ≤ 64 * 2 ^ 20 ∧ f.op 0x28 4 % 2048 = 0 →
      resourceOk (f.op 0x22 2) = true →
      f.zeroFrom 0x2C = true →
      (getP s (f.op 0x20 1)).isSome = true →
      s.bw.regs.length < 4096 →
      (85 * capacity s (f.op 0x22 2) < 100 * (((s.bw.regs.filter fun e => e.2.res == f.op 0x22 2).map fun e => e.2.rate).foldl (· + ·) 0 + f.op 0x24 4)) →
      exec (.bwRegister d) s = .next (endF s d stRefused rCapacity))
  ∧ (∀ (s : State) (d : Nat) (f : Flight),
      Runs s d 0xF120 f →
      f.op 0x20 1 ≤ 15 →
      f.op 0x21 1 ≤ 5 →
      f.op 0x24 4 ≠ 0 →
      2048 ≤ f.op 0x28 4 ∧ f.op 0x28 4 ≤ 64 * 2 ^ 20 ∧ f.op 0x28 4 % 2048 = 0 →
      resourceOk (f.op 0x22 2) = true →
      f.zeroFrom 0x2C = true →
      (getP s (f.op 0x20 1)).isSome = true →
      s.bw.regs.length < 4096 →
      (100 * (((s.bw.regs.filter fun e => e.2.res == f.op 0x22 2).map fun e => e.2.rate).foldl (· + ·) 0 + f.op 0x24 4) ≤ 85 * capacity s (f.op 0x22 2)) →
      ∃ u, exec (.bwRegister d) s = .next (endF u d stOk (freeHandle s)) ∧ (tfind u.bw.regs (freeHandle s)).map (·.rate) = some (f.op 0x24 4))

/-- The reset values of the register tables (R589-R601), of queues (R44), counters (R299), the owner policy (R424)
and sequence slots (R236). -/
def Obligations.ResetLeavesWhatTheSpecGives : Prop :=
  (State.reset.memOk ∧ State.reset.pending = [] ∧ memWf State.reset.mem.bytes = true)
  ∧ ((globalReg State.reset 0).map (fun r => r.2 % 2 ^ 24) = some 0xB10960 ∧ globalReg State.reset 0x14 = some (4, 0x0) ∧ globalReg State.reset 0x18 = some (8, 0x0) ∧ globalReg State.reset 0x20 = some (4, 0x0) ∧ globalReg State.reset 0x24 = some (4, 0x0) ∧ globalReg State.reset 0x28 = some (4, 0x0) ∧ globalReg State.reset 0x2c = some (4, 0x0) ∧ globalReg State.reset 0x30 = some (4, 0x0) ∧ globalReg State.reset 0x34 = some (4, 0x0) ∧ globalReg State.reset 0x38 = some (4, 0x0) ∧ globalReg State.reset 0x3c = some (4, 0x0) ∧ globalReg State.reset 0x40 = some (4, 0x0) ∧ globalReg State.reset 0x44 = some (4, 0x0) ∧ globalReg State.reset 0x48 = some (4, 0x0) ∧ globalReg State.reset 0x4c = some (4, 0x6060)
      ∧ adminqReg State.reset 0x0 = some (8, 0x0) ∧ adminqReg State.reset 0x8 = some (8, 0x0) ∧ adminqReg State.reset 0x10 = some (8, 0x0) ∧ adminqReg State.reset 0x18 = some (4, 0x0) ∧ adminqReg State.reset 0x20 = some (4, 0x0)
      ∧ qtabReg State.reset 0 0x0 = some (8, 0x0) ∧ qtabReg State.reset 0 0xc = some (4, 0x0) ∧ qtabReg State.reset 0 0x10 = some (4, 0x0)
      ∧ dbellReg State.reset 0 0x0 = some (8, 0x0) ∧ dbellReg State.reset 0 0x8 = some (4, 0xa) ∧ dbellReg State.reset 0 0xc = some (4, 0x100100) ∧ dbellReg State.reset 0 0x10 = some (4, 0x800) ∧ dbellReg State.reset 0 0x14 = some (4, 0x0) ∧ dbellReg State.reset 0 0x18 = some (8, 0x0) ∧ dbellReg State.reset 0 0x20 = some (4, 0x0)
      ∧ irqReg State.reset 0x0 = some (4, 0x1) ∧ irqReg State.reset 0x8 = some (8, 0x0)
      ∧ snapReg State.reset 0x0 = some (4, 0x0) ∧ snapReg State.reset 0x4 = some (4, 0x0) ∧ snapReg State.reset 0x8 = some (8, 0x0) ∧ snapReg State.reset 0x10 = some (4, 0x0) ∧ snapReg State.reset 0x14 = some (4, 0x0) ∧ snapReg State.reset 0x18 = some (8, 0x0) ∧ snapReg State.reset 0x20 = some (4, 0x0) ∧ snapReg State.reset 0x24 = some (4, 0xff00) ∧ snapReg State.reset 0x28 = some (4, 0x0)
      ∧ logpReg State.reset 0x0 = some (8, 0x0) ∧ logpReg State.reset 0x8 = some (4, 0x0) ∧ logpReg State.reset 0x10 = some (4, 0x0) ∧ logpReg State.reset 0x18 = some (4, 0x0)
      ∧ timeReg State.reset 0x8 = some (4, 0xa00) ∧ timeReg State.reset 0xc = some (4, 0x0) ∧ timeReg State.reset 0x10 = some (8, 0x0) ∧ timeReg State.reset 0x18 = some (8, 0x0))
  ∧ (∀ (p o : Nat) (r : RegVal),
      partReg State.reset p o = some r →
      r.2 = 0)
  ∧ (∀ (q p c i : Nat),
      (getQ State.reset q).st = .disabled ∧ getP State.reset p = none ∧ ctrOf State.reset p c = 0 ∧ (getSlot State.reset i).st = .free ∧ (getPort State.reset i).st = .down)
  ∧ (∀ (p g : Nat),
      State.reset.gnt.policy.flags = 0 ∧ getRule State.reset p = { flags := 0x79, maxA := 24, maxB := 24, rows := 0xFFFFFFFF, slots := 32768 } ∧
      (grainBacked g = true → grainEntry State.reset g = 0x80) ∧ State.reset.gnt.policy.library = [] ∧ State.reset.gnt.policy.pairings = [] ∧ State.reset.gnt.policy.cuffWins = [] ∧ State.reset.gnt.keys = [])
end

