-- ==== Sys2Proof/Laws/Memory.lean ====
section
/-! SUPPORT. The laws of tables and sparse memories: what a find gives after a put, a read after a write, and that every
operation on a memory keeps its canonical form. -/

namespace Sys2Proof.Machine

theorem tfind_tput_same {α : Type} (t : Tbl α) (k : Nat) (x : α) : tfind (tput t k x) k = some x := by
  induction t with
  | nil => simp [tput, tfind]
  | cons e r ih =>
    obtain ⟨a, v⟩ := e
    simp only [tput]
    split
    · simp [tfind]
    · split
      · simp [tfind]
      · simp [tfind, *]

theorem tfind_tput_other {α : Type} (t : Tbl α) (k i : Nat) (x : α) (h : i ≠ k) : tfind (tput t k x) i = tfind t i := by
  induction t with
  | nil => simp [tput, tfind, h]
  | cons e r ih =>
    obtain ⟨a, v⟩ := e
    simp only [tput]
    split
    · simp [tfind, h]
    · split
      · subst_vars; simp [tfind, h]
      · simp [tfind, ih]

theorem tfind_tdel_other {α : Type} (t : Tbl α) (k i : Nat) (h : i ≠ k) : tfind (tdel t k) i = tfind t i := by
  induction t with
  | nil => rfl
  | cons e r ih =>
    obtain ⟨a, v⟩ := e
    unfold tdel at ih ⊢
    rw [List.filter_cons]
    split
    · simp [tfind, ih]
    · next ha => rw [ih]; simp at ha; subst ha; simp [tfind, h]

theorem tfind_tdel_same {α : Type} (t : Tbl α) (k : Nat) : tfind (tdel t k) k = none := by
  induction t with
  | nil => rfl
  | cons e r ih =>
    obtain ⟨a, v⟩ := e
    unfold tdel at ih ⊢
    rw [List.filter_cons]
    split
    · next ha => simp at ha; simp [tfind, ih, Ne.symm ha]
    · exact ih

/-- The first key of a table lies above a bound, if there is one. -/
def headAbove (k : Nat) (l : List Nat) : Prop := ∀ a, l.head? = some a → k < a

theorem rising_cons (k : Nat) (l : List Nat) : rising (k :: l) = true ↔ headAbove k l ∧ rising l = true := by
  cases l with
  | nil => simp [rising, headAbove]
  | cons b r => simp [rising, headAbove]

theorem headAbove_tput {α : Type} (k i : Nat) (x : α) (t : Tbl α) (hk : k < i) (h : headAbove k (tkeys t)) :
    headAbove k (tkeys (tput t i x)) := by
  cases t with
  | nil => intro a; simp [tput, tkeys]; omega
  | cons e r =>
    obtain ⟨a, v⟩ := e
    simp only [tput]
    split
    · intro b; simp [tkeys]; omega
    · split
      · intro b; simp [tkeys]; omega
      · exact h

theorem rising_tput {α : Type} (t : Tbl α) (i : Nat) (x : α) (h : rising (tkeys t) = true) :
    rising (tkeys (tput t i x)) = true := by
  induction t with
  | nil => simp [tput, tkeys, rising]
  | cons e r ih =>
    obtain ⟨a, v⟩ := e
    have h1 := (rising_cons a (tkeys r)).1 h
    simp only [tput]
    split
    · refine (rising_cons i _).2 ⟨?_, h⟩
      intro b hb
      simp at hb
      omega
    · split
      · next he => subst he; exact h
      · exact (rising_cons a _).2 ⟨headAbove_tput a i x r (by omega) h1.1, ih h1.2⟩

theorem headAbove_tail {α : Type} (k a : Nat) (v : α) (r : Tbl α) (h : headAbove k (tkeys ((a, v) :: r)))
    (hr : rising (tkeys ((a, v) :: r)) = true) : headAbove k (tkeys r) := by
  have ha : k < a := h a rfl
  intro b hb
  have := ((rising_cons a (tkeys r)).1 hr).1 b hb
  omega

theorem all_tput {α : Type} (p : Nat × α → Bool) (t : Tbl α) (i : Nat) (x : α) (h : t.all p = true) (hx : p (i, x) = true) :
    (tput t i x).all p = true := by
  induction t with
  | nil => simp [tput, hx]
  | cons e r ih =>
    obtain ⟨a, v⟩ := e
    rw [List.all_cons, Bool.and_eq_true] at h
    simp only [tput]
    split
    · rw [List.all_cons, List.all_cons, hx, h.1, h.2]; rfl
    · split
      · rw [List.all_cons, hx, h.2]; rfl
      · rw [List.all_cons, h.1, ih h.2]; rfl

theorem headAbove_filter {α : Type} (k : Nat) (p : Nat × α → Bool) (t : Tbl α) (h : headAbove k (tkeys t))
    (hr : rising (tkeys t) = true) : headAbove k (tkeys (t.filter p)) := by
  induction t with
  | nil => exact h
  | cons e r ih =>
    obtain ⟨a, v⟩ := e
    simp only [List.filter_cons]
    split
    · exact h
    · exact ih (headAbove_tail k a v r h hr) ((rising_cons a _).1 hr).2

theorem rising_filter {α : Type} (p : Nat × α → Bool) (t : Tbl α) (h : rising (tkeys t) = true) :
    rising (tkeys (t.filter p)) = true := by
  induction t with
  | nil => exact h
  | cons e r ih =>
    obtain ⟨a, v⟩ := e
    have h1 := (rising_cons a (tkeys r)).1 h
    simp only [List.filter_cons]
    split
    · exact (rising_cons a _).2 ⟨headAbove_filter a p r h1.1 h1.2, ih h1.2⟩
    · exact ih h1.2

/-- A memory with entries dropped keeps the canonical form. -/
theorem memWf_filter (p : Nat × Byte → Bool) (m : Tbl Byte) (h : memWf m = true) : memWf (m.filter p) = true := by
  simp only [memWf, Bool.and_eq_true] at h ⊢
  refine ⟨rising_filter p m h.1, ?_⟩
  rw [List.all_eq_true] at h ⊢
  intro e he
  exact h.2 e (List.mem_filter.1 he).1

/-- A write of one byte keeps the canonical form. -/
theorem memWf_mwrite (m : Tbl Byte) (a : Nat) (b : Byte) (h : memWf m = true) : memWf (mwrite m a b) = true := by
  unfold mwrite
  split
  · exact memWf_filter _ m h
  · next hb =>
    simp only [memWf, Bool.and_eq_true] at h ⊢
    exact ⟨rising_tput m a b h.1, all_tput _ m a b h.2 (by simpa using hb)⟩

/-- A write of bytes keeps the canonical form. -/
theorem memWf_mwriteN (bs : List Byte) : ∀ (m : Tbl Byte) (a : Nat), memWf m = true → memWf (mwriteN m a bs) = true := by
  induction bs with
  | nil => intro m a h; exact h
  | cons b r ih => intro m a h; exact ih _ _ (memWf_mwrite m a b h)

/-- A byte written reads back. -/
theorem mread_mwrite_same (m : Tbl Byte) (a : Nat) (b : Byte) : mread (mwrite m a b) a = b := by
  unfold mread mwrite
  split
  · next hb => rw [tfind_tdel_same m a, hb]; rfl
  · rw [tfind_tput_same]; rfl

/-- A write leaves every other byte alone. -/
theorem mread_mwrite_other (m : Tbl Byte) (a i : Nat) (b : Byte) (h : i ≠ a) : mread (mwrite m a b) i = mread m i := by
  unfold mread mwrite
  split
  · rw [tfind_tdel_other m a i h]
  · rw [tfind_tput_other m a i b h]

/-- A write of bytes leaves every byte outside it alone. -/
theorem mread_mwriteN_outside (bs : List Byte) : ∀ (m : Tbl Byte) (a i : Nat), (i < a ∨ a + bs.length ≤ i) →
    mread (mwriteN m a bs) i = mread m i := by
  induction bs with
  | nil => intro m a i _; rfl
  | cons b r ih =>
    intro m a i h
    simp only [List.length_cons] at h
    rw [mwriteN, ih _ _ _ (by omega), mread_mwrite_other m a i b (by omega)]

/-- The bytes written read back. -/
theorem mreadN_mwriteN (bs : List Byte) : ∀ (m : Tbl Byte) (a : Nat), mreadN (mwriteN m a bs) a bs.length = bs := by
  induction bs with
  | nil => intro m a; rfl
  | cons b r ih =>
    intro m a
    have h := ih (mwrite m a b) (a + 1)
    unfold mreadN at h ⊢
    rw [List.length_cons, List.range_succ_eq_map, List.map_cons, List.map_map]
    refine List.cons_eq_cons.2 ⟨?_, ?_⟩
    · rw [mwriteN, mread_mwriteN_outside r _ _ _ (by omega)]; exact mread_mwrite_same m a b
    · refine Eq.trans (List.map_congr_left fun i _ => ?_) h
      show mread (mwriteN m a (b :: r)) (a + (i + 1)) = mread (mwriteN (mwrite m a b) (a + 1) r) (a + 1 + i)
      rw [mwriteN]; congr 1; omega

end Sys2Proof.Machine
end

