-- ==== Sys2Proof/Laws/State.lean ====
section
/-! SUPPORT. The named updates of a state, field by field: what each leaves as it was, and that it reads back what it put. -/

namespace Sys2Proof.Machine

variable (s : State)

/-! putF changes qe alone. -/

@[simp] theorem putF_pending (d : Nat) (f : Flight) : (putF s d f).pending = s.pending := rfl
@[simp] theorem putF_free (d : Nat) (f : Flight) : (putF s d f).free = s.free := rfl
@[simp] theorem putF_guestSite (d : Nat) (f : Flight) : (putF s d f).guestSite = s.guestSite := rfl
@[simp] theorem putF_host (d : Nat) (f : Flight) : (putF s d f).host = s.host := rfl
@[simp] theorem putF_hostFail (d : Nat) (f : Flight) : (putF s d f).hostFail = s.hostFail := rfl
@[simp] theorem putF_time (d : Nat) (f : Flight) : (putF s d f).time = s.time := rfl
@[simp] theorem putF_regs (d : Nat) (f : Flight) : (putF s d f).regs = s.regs := rfl
@[simp] theorem putF_parts (d : Nat) (f : Flight) : (putF s d f).parts = s.parts := rfl
@[simp] theorem putF_vfs (d : Nat) (f : Flight) : (putF s d f).vfs = s.vfs := rfl
@[simp] theorem putF_sync (d : Nat) (f : Flight) : (putF s d f).sync = s.sync := rfl
@[simp] theorem putF_mem (d : Nat) (f : Flight) : (putF s d f).mem = s.mem := rfl
@[simp] theorem putF_kv (d : Nat) (f : Flight) : (putF s d f).kv = s.kv := rfl
@[simp] theorem putF_steps (d : Nat) (f : Flight) : (putF s d f).steps = s.steps := rfl
@[simp] theorem putF_bw (d : Nat) (f : Flight) : (putF s d f).bw = s.bw := rfl
@[simp] theorem putF_fab (d : Nat) (f : Flight) : (putF s d f).fab = s.fab := rfl
@[simp] theorem putF_cuff (d : Nat) (f : Flight) : (putF s d f).cuff = s.cuff := rfl
@[simp] theorem putF_plauf (d : Nat) (f : Flight) : (putF s d f).plauf = s.plauf := rfl
@[simp] theorem putF_gnt (d : Nat) (f : Flight) : (putF s d f).gnt = s.gnt := rfl
@[simp] theorem putF_flt (d : Nat) (f : Flight) : (putF s d f).flt = s.flt := rfl
@[simp] theorem putF_pwr (d : Nat) (f : Flight) : (putF s d f).pwr = s.pwr := rfl
@[simp] theorem putF_th (d : Nat) (f : Flight) : (putF s d f).th = s.th := rfl
@[simp] theorem putF_mgmt (d : Nat) (f : Flight) : (putF s d f).mgmt = s.mgmt := rfl
@[simp] theorem putF_log (d : Nat) (f : Flight) : (putF s d f).log = s.log := rfl
@[simp] theorem putF_snap (d : Nat) (f : Flight) : (putF s d f).snap = s.snap := rfl
@[simp] theorem putF_hol (d : Nat) (f : Flight) : (putF s d f).hol = s.hol := rfl
@[simp] theorem putF_qe_fns (d : Nat) (f : Flight) : (putF s d f).qe.fns = s.qe.fns := rfl
@[simp] theorem putF_qe_ctx (d : Nat) (f : Flight) : (putF s d f).qe.ctx = s.qe.ctx := rfl
@[simp] theorem putF_qe_hot (d : Nat) (f : Flight) : (putF s d f).qe.hot = s.qe.hot := rfl
@[simp] theorem putF_qe_hotNext (d : Nat) (f : Flight) : (putF s d f).qe.hotNext = s.qe.hotNext := rfl
@[simp] theorem putF_qe_nextFlight (d : Nat) (f : Flight) : (putF s d f).qe.nextFlight = s.qe.nextFlight := rfl
@[simp] theorem putF_qe_msgs (d : Nat) (f : Flight) : (putF s d f).qe.msgs = s.qe.msgs := rfl
@[simp] theorem putF_qe_pollPeriod (d : Nat) (f : Flight) : (putF s d f).qe.pollPeriod = s.qe.pollPeriod := rfl
@[simp] theorem putF_qe_hotSize (d : Nat) (f : Flight) : (putF s d f).qe.hotSize = s.qe.hotSize := rfl
@[simp] theorem putF_qe_hotReads (d : Nat) (f : Flight) : (putF s d f).qe.hotReads = s.qe.hotReads := rfl
@[simp] theorem putF_qe_hotIdle (d : Nat) (f : Flight) : (putF s d f).qe.hotIdle = s.qe.hotIdle := rfl
@[simp] theorem putF_qe_pollPasses (d : Nat) (f : Flight) : (putF s d f).qe.pollPasses = s.qe.pollPasses := rfl

/-! delF changes qe alone. -/

@[simp] theorem delF_pending (d : Nat) : (delF s d).pending = s.pending := rfl
@[simp] theorem delF_free (d : Nat) : (delF s d).free = s.free := rfl
@[simp] theorem delF_guestSite (d : Nat) : (delF s d).guestSite = s.guestSite := rfl
@[simp] theorem delF_host (d : Nat) : (delF s d).host = s.host := rfl
@[simp] theorem delF_hostFail (d : Nat) : (delF s d).hostFail = s.hostFail := rfl
@[simp] theorem delF_time (d : Nat) : (delF s d).time = s.time := rfl
@[simp] theorem delF_regs (d : Nat) : (delF s d).regs = s.regs := rfl
@[simp] theorem delF_parts (d : Nat) : (delF s d).parts = s.parts := rfl
@[simp] theorem delF_vfs (d : Nat) : (delF s d).vfs = s.vfs := rfl
@[simp] theorem delF_sync (d : Nat) : (delF s d).sync = s.sync := rfl
@[simp] theorem delF_mem (d : Nat) : (delF s d).mem = s.mem := rfl
@[simp] theorem delF_kv (d : Nat) : (delF s d).kv = s.kv := rfl
@[simp] theorem delF_steps (d : Nat) : (delF s d).steps = s.steps := rfl
@[simp] theorem delF_bw (d : Nat) : (delF s d).bw = s.bw := rfl
@[simp] theorem delF_fab (d : Nat) : (delF s d).fab = s.fab := rfl
@[simp] theorem delF_cuff (d : Nat) : (delF s d).cuff = s.cuff := rfl
@[simp] theorem delF_plauf (d : Nat) : (delF s d).plauf = s.plauf := rfl
@[simp] theorem delF_gnt (d : Nat) : (delF s d).gnt = s.gnt := rfl
@[simp] theorem delF_flt (d : Nat) : (delF s d).flt = s.flt := rfl
@[simp] theorem delF_pwr (d : Nat) : (delF s d).pwr = s.pwr := rfl
@[simp] theorem delF_th (d : Nat) : (delF s d).th = s.th := rfl
@[simp] theorem delF_mgmt (d : Nat) : (delF s d).mgmt = s.mgmt := rfl
@[simp] theorem delF_log (d : Nat) : (delF s d).log = s.log := rfl
@[simp] theorem delF_snap (d : Nat) : (delF s d).snap = s.snap := rfl
@[simp] theorem delF_hol (d : Nat) : (delF s d).hol = s.hol := rfl
@[simp] theorem delF_qe_fns (d : Nat) : (delF s d).qe.fns = s.qe.fns := rfl
@[simp] theorem delF_qe_ctx (d : Nat) : (delF s d).qe.ctx = s.qe.ctx := rfl
@[simp] theorem delF_qe_hot (d : Nat) : (delF s d).qe.hot = s.qe.hot := rfl
@[simp] theorem delF_qe_hotNext (d : Nat) : (delF s d).qe.hotNext = s.qe.hotNext := rfl
@[simp] theorem delF_qe_nextFlight (d : Nat) : (delF s d).qe.nextFlight = s.qe.nextFlight := rfl
@[simp] theorem delF_qe_msgs (d : Nat) : (delF s d).qe.msgs = s.qe.msgs := rfl
@[simp] theorem delF_qe_pollPeriod (d : Nat) : (delF s d).qe.pollPeriod = s.qe.pollPeriod := rfl
@[simp] theorem delF_qe_hotSize (d : Nat) : (delF s d).qe.hotSize = s.qe.hotSize := rfl
@[simp] theorem delF_qe_hotReads (d : Nat) : (delF s d).qe.hotReads = s.qe.hotReads := rfl
@[simp] theorem delF_qe_hotIdle (d : Nat) : (delF s d).qe.hotIdle = s.qe.hotIdle := rfl
@[simp] theorem delF_qe_pollPasses (d : Nat) : (delF s d).qe.pollPasses = s.qe.pollPasses := rfl

/-! putFn changes qe alone. -/

@[simp] theorem putFn_pending (n : Nat) (x : FnState) : (putFn s n x).pending = s.pending := rfl
@[simp] theorem putFn_free (n : Nat) (x : FnState) : (putFn s n x).free = s.free := rfl
@[simp] theorem putFn_guestSite (n : Nat) (x : FnState) : (putFn s n x).guestSite = s.guestSite := rfl
@[simp] theorem putFn_host (n : Nat) (x : FnState) : (putFn s n x).host = s.host := rfl
@[simp] theorem putFn_hostFail (n : Nat) (x : FnState) : (putFn s n x).hostFail = s.hostFail := rfl
@[simp] theorem putFn_time (n : Nat) (x : FnState) : (putFn s n x).time = s.time := rfl
@[simp] theorem putFn_regs (n : Nat) (x : FnState) : (putFn s n x).regs = s.regs := rfl
@[simp] theorem putFn_parts (n : Nat) (x : FnState) : (putFn s n x).parts = s.parts := rfl
@[simp] theorem putFn_vfs (n : Nat) (x : FnState) : (putFn s n x).vfs = s.vfs := rfl
@[simp] theorem putFn_sync (n : Nat) (x : FnState) : (putFn s n x).sync = s.sync := rfl
@[simp] theorem putFn_mem (n : Nat) (x : FnState) : (putFn s n x).mem = s.mem := rfl
@[simp] theorem putFn_kv (n : Nat) (x : FnState) : (putFn s n x).kv = s.kv := rfl
@[simp] theorem putFn_steps (n : Nat) (x : FnState) : (putFn s n x).steps = s.steps := rfl
@[simp] theorem putFn_bw (n : Nat) (x : FnState) : (putFn s n x).bw = s.bw := rfl
@[simp] theorem putFn_fab (n : Nat) (x : FnState) : (putFn s n x).fab = s.fab := rfl
@[simp] theorem putFn_cuff (n : Nat) (x : FnState) : (putFn s n x).cuff = s.cuff := rfl
@[simp] theorem putFn_plauf (n : Nat) (x : FnState) : (putFn s n x).plauf = s.plauf := rfl
@[simp] theorem putFn_gnt (n : Nat) (x : FnState) : (putFn s n x).gnt = s.gnt := rfl
@[simp] theorem putFn_flt (n : Nat) (x : FnState) : (putFn s n x).flt = s.flt := rfl
@[simp] theorem putFn_pwr (n : Nat) (x : FnState) : (putFn s n x).pwr = s.pwr := rfl
@[simp] theorem putFn_th (n : Nat) (x : FnState) : (putFn s n x).th = s.th := rfl
@[simp] theorem putFn_mgmt (n : Nat) (x : FnState) : (putFn s n x).mgmt = s.mgmt := rfl
@[simp] theorem putFn_log (n : Nat) (x : FnState) : (putFn s n x).log = s.log := rfl
@[simp] theorem putFn_snap (n : Nat) (x : FnState) : (putFn s n x).snap = s.snap := rfl
@[simp] theorem putFn_hol (n : Nat) (x : FnState) : (putFn s n x).hol = s.hol := rfl
@[simp] theorem putFn_qe_ctx (n : Nat) (x : FnState) : (putFn s n x).qe.ctx = s.qe.ctx := rfl
@[simp] theorem putFn_qe_hot (n : Nat) (x : FnState) : (putFn s n x).qe.hot = s.qe.hot := rfl
@[simp] theorem putFn_qe_hotNext (n : Nat) (x : FnState) : (putFn s n x).qe.hotNext = s.qe.hotNext := rfl
@[simp] theorem putFn_qe_flights (n : Nat) (x : FnState) : (putFn s n x).qe.flights = s.qe.flights := rfl
@[simp] theorem putFn_qe_nextFlight (n : Nat) (x : FnState) : (putFn s n x).qe.nextFlight = s.qe.nextFlight := rfl
@[simp] theorem putFn_qe_msgs (n : Nat) (x : FnState) : (putFn s n x).qe.msgs = s.qe.msgs := rfl
@[simp] theorem putFn_qe_pollPeriod (n : Nat) (x : FnState) : (putFn s n x).qe.pollPeriod = s.qe.pollPeriod := rfl
@[simp] theorem putFn_qe_hotSize (n : Nat) (x : FnState) : (putFn s n x).qe.hotSize = s.qe.hotSize := rfl
@[simp] theorem putFn_qe_hotReads (n : Nat) (x : FnState) : (putFn s n x).qe.hotReads = s.qe.hotReads := rfl
@[simp] theorem putFn_qe_hotIdle (n : Nat) (x : FnState) : (putFn s n x).qe.hotIdle = s.qe.hotIdle := rfl
@[simp] theorem putFn_qe_pollPasses (n : Nat) (x : FnState) : (putFn s n x).qe.pollPasses = s.qe.pollPasses := rfl

/-! putQ changes qe alone. -/

@[simp] theorem putQ_pending (q : Nat) (x : QCtx) : (putQ s q x).pending = s.pending := rfl
@[simp] theorem putQ_free (q : Nat) (x : QCtx) : (putQ s q x).free = s.free := rfl
@[simp] theorem putQ_guestSite (q : Nat) (x : QCtx) : (putQ s q x).guestSite = s.guestSite := rfl
@[simp] theorem putQ_host (q : Nat) (x : QCtx) : (putQ s q x).host = s.host := rfl
@[simp] theorem putQ_hostFail (q : Nat) (x : QCtx) : (putQ s q x).hostFail = s.hostFail := rfl
@[simp] theorem putQ_time (q : Nat) (x : QCtx) : (putQ s q x).time = s.time := rfl
@[simp] theorem putQ_regs (q : Nat) (x : QCtx) : (putQ s q x).regs = s.regs := rfl
@[simp] theorem putQ_parts (q : Nat) (x : QCtx) : (putQ s q x).parts = s.parts := rfl
@[simp] theorem putQ_vfs (q : Nat) (x : QCtx) : (putQ s q x).vfs = s.vfs := rfl
@[simp] theorem putQ_sync (q : Nat) (x : QCtx) : (putQ s q x).sync = s.sync := rfl
@[simp] theorem putQ_mem (q : Nat) (x : QCtx) : (putQ s q x).mem = s.mem := rfl
@[simp] theorem putQ_kv (q : Nat) (x : QCtx) : (putQ s q x).kv = s.kv := rfl
@[simp] theorem putQ_steps (q : Nat) (x : QCtx) : (putQ s q x).steps = s.steps := rfl
@[simp] theorem putQ_bw (q : Nat) (x : QCtx) : (putQ s q x).bw = s.bw := rfl
@[simp] theorem putQ_fab (q : Nat) (x : QCtx) : (putQ s q x).fab = s.fab := rfl
@[simp] theorem putQ_cuff (q : Nat) (x : QCtx) : (putQ s q x).cuff = s.cuff := rfl
@[simp] theorem putQ_plauf (q : Nat) (x : QCtx) : (putQ s q x).plauf = s.plauf := rfl
@[simp] theorem putQ_gnt (q : Nat) (x : QCtx) : (putQ s q x).gnt = s.gnt := rfl
@[simp] theorem putQ_flt (q : Nat) (x : QCtx) : (putQ s q x).flt = s.flt := rfl
@[simp] theorem putQ_pwr (q : Nat) (x : QCtx) : (putQ s q x).pwr = s.pwr := rfl
@[simp] theorem putQ_th (q : Nat) (x : QCtx) : (putQ s q x).th = s.th := rfl
@[simp] theorem putQ_mgmt (q : Nat) (x : QCtx) : (putQ s q x).mgmt = s.mgmt := rfl
@[simp] theorem putQ_log (q : Nat) (x : QCtx) : (putQ s q x).log = s.log := rfl
@[simp] theorem putQ_snap (q : Nat) (x : QCtx) : (putQ s q x).snap = s.snap := rfl
@[simp] theorem putQ_hol (q : Nat) (x : QCtx) : (putQ s q x).hol = s.hol := rfl
@[simp] theorem putQ_qe_fns (q : Nat) (x : QCtx) : (putQ s q x).qe.fns = s.qe.fns := rfl
@[simp] theorem putQ_qe_hot (q : Nat) (x : QCtx) : (putQ s q x).qe.hot = s.qe.hot := rfl
@[simp] theorem putQ_qe_hotNext (q : Nat) (x : QCtx) : (putQ s q x).qe.hotNext = s.qe.hotNext := rfl
@[simp] theorem putQ_qe_flights (q : Nat) (x : QCtx) : (putQ s q x).qe.flights = s.qe.flights := rfl
@[simp] theorem putQ_qe_nextFlight (q : Nat) (x : QCtx) : (putQ s q x).qe.nextFlight = s.qe.nextFlight := rfl
@[simp] theorem putQ_qe_msgs (q : Nat) (x : QCtx) : (putQ s q x).qe.msgs = s.qe.msgs := rfl
@[simp] theorem putQ_qe_pollPeriod (q : Nat) (x : QCtx) : (putQ s q x).qe.pollPeriod = s.qe.pollPeriod := rfl
@[simp] theorem putQ_qe_hotSize (q : Nat) (x : QCtx) : (putQ s q x).qe.hotSize = s.qe.hotSize := rfl
@[simp] theorem putQ_qe_hotReads (q : Nat) (x : QCtx) : (putQ s q x).qe.hotReads = s.qe.hotReads := rfl
@[simp] theorem putQ_qe_hotIdle (q : Nat) (x : QCtx) : (putQ s q x).qe.hotIdle = s.qe.hotIdle := rfl
@[simp] theorem putQ_qe_pollPasses (q : Nat) (x : QCtx) : (putQ s q x).qe.pollPasses = s.qe.pollPasses := rfl

/-! putP changes parts alone. -/

@[simp] theorem putP_pending (p : Nat) (x : Part) : (putP s p x).pending = s.pending := rfl
@[simp] theorem putP_free (p : Nat) (x : Part) : (putP s p x).free = s.free := rfl
@[simp] theorem putP_guestSite (p : Nat) (x : Part) : (putP s p x).guestSite = s.guestSite := rfl
@[simp] theorem putP_host (p : Nat) (x : Part) : (putP s p x).host = s.host := rfl
@[simp] theorem putP_hostFail (p : Nat) (x : Part) : (putP s p x).hostFail = s.hostFail := rfl
@[simp] theorem putP_time (p : Nat) (x : Part) : (putP s p x).time = s.time := rfl
@[simp] theorem putP_qe (p : Nat) (x : Part) : (putP s p x).qe = s.qe := rfl
@[simp] theorem putP_regs (p : Nat) (x : Part) : (putP s p x).regs = s.regs := rfl
@[simp] theorem putP_vfs (p : Nat) (x : Part) : (putP s p x).vfs = s.vfs := rfl
@[simp] theorem putP_sync (p : Nat) (x : Part) : (putP s p x).sync = s.sync := rfl
@[simp] theorem putP_mem (p : Nat) (x : Part) : (putP s p x).mem = s.mem := rfl
@[simp] theorem putP_kv (p : Nat) (x : Part) : (putP s p x).kv = s.kv := rfl
@[simp] theorem putP_steps (p : Nat) (x : Part) : (putP s p x).steps = s.steps := rfl
@[simp] theorem putP_bw (p : Nat) (x : Part) : (putP s p x).bw = s.bw := rfl
@[simp] theorem putP_fab (p : Nat) (x : Part) : (putP s p x).fab = s.fab := rfl
@[simp] theorem putP_cuff (p : Nat) (x : Part) : (putP s p x).cuff = s.cuff := rfl
@[simp] theorem putP_plauf (p : Nat) (x : Part) : (putP s p x).plauf = s.plauf := rfl
@[simp] theorem putP_gnt (p : Nat) (x : Part) : (putP s p x).gnt = s.gnt := rfl
@[simp] theorem putP_flt (p : Nat) (x : Part) : (putP s p x).flt = s.flt := rfl
@[simp] theorem putP_pwr (p : Nat) (x : Part) : (putP s p x).pwr = s.pwr := rfl
@[simp] theorem putP_th (p : Nat) (x : Part) : (putP s p x).th = s.th := rfl
@[simp] theorem putP_mgmt (p : Nat) (x : Part) : (putP s p x).mgmt = s.mgmt := rfl
@[simp] theorem putP_log (p : Nat) (x : Part) : (putP s p x).log = s.log := rfl
@[simp] theorem putP_snap (p : Nat) (x : Part) : (putP s p x).snap = s.snap := rfl
@[simp] theorem putP_hol (p : Nat) (x : Part) : (putP s p x).hol = s.hol := rfl

/-! putSlot changes kv alone. -/

@[simp] theorem putSlot_pending (i : Nat) (x : Slot) : (putSlot s i x).pending = s.pending := rfl
@[simp] theorem putSlot_free (i : Nat) (x : Slot) : (putSlot s i x).free = s.free := rfl
@[simp] theorem putSlot_guestSite (i : Nat) (x : Slot) : (putSlot s i x).guestSite = s.guestSite := rfl
@[simp] theorem putSlot_host (i : Nat) (x : Slot) : (putSlot s i x).host = s.host := rfl
@[simp] theorem putSlot_hostFail (i : Nat) (x : Slot) : (putSlot s i x).hostFail = s.hostFail := rfl
@[simp] theorem putSlot_time (i : Nat) (x : Slot) : (putSlot s i x).time = s.time := rfl
@[simp] theorem putSlot_qe (i : Nat) (x : Slot) : (putSlot s i x).qe = s.qe := rfl
@[simp] theorem putSlot_regs (i : Nat) (x : Slot) : (putSlot s i x).regs = s.regs := rfl
@[simp] theorem putSlot_parts (i : Nat) (x : Slot) : (putSlot s i x).parts = s.parts := rfl
@[simp] theorem putSlot_vfs (i : Nat) (x : Slot) : (putSlot s i x).vfs = s.vfs := rfl
@[simp] theorem putSlot_sync (i : Nat) (x : Slot) : (putSlot s i x).sync = s.sync := rfl
@[simp] theorem putSlot_mem (i : Nat) (x : Slot) : (putSlot s i x).mem = s.mem := rfl
@[simp] theorem putSlot_steps (i : Nat) (x : Slot) : (putSlot s i x).steps = s.steps := rfl
@[simp] theorem putSlot_bw (i : Nat) (x : Slot) : (putSlot s i x).bw = s.bw := rfl
@[simp] theorem putSlot_fab (i : Nat) (x : Slot) : (putSlot s i x).fab = s.fab := rfl
@[simp] theorem putSlot_cuff (i : Nat) (x : Slot) : (putSlot s i x).cuff = s.cuff := rfl
@[simp] theorem putSlot_plauf (i : Nat) (x : Slot) : (putSlot s i x).plauf = s.plauf := rfl
@[simp] theorem putSlot_gnt (i : Nat) (x : Slot) : (putSlot s i x).gnt = s.gnt := rfl
@[simp] theorem putSlot_flt (i : Nat) (x : Slot) : (putSlot s i x).flt = s.flt := rfl
@[simp] theorem putSlot_pwr (i : Nat) (x : Slot) : (putSlot s i x).pwr = s.pwr := rfl
@[simp] theorem putSlot_th (i : Nat) (x : Slot) : (putSlot s i x).th = s.th := rfl
@[simp] theorem putSlot_mgmt (i : Nat) (x : Slot) : (putSlot s i x).mgmt = s.mgmt := rfl
@[simp] theorem putSlot_log (i : Nat) (x : Slot) : (putSlot s i x).log = s.log := rfl
@[simp] theorem putSlot_snap (i : Nat) (x : Slot) : (putSlot s i x).snap = s.snap := rfl
@[simp] theorem putSlot_hol (i : Nat) (x : Slot) : (putSlot s i x).hol = s.hol := rfl

/-! putPool changes kv alone. -/

@[simp] theorem putPool_pending (p : Nat) (x : Pool) : (putPool s p x).pending = s.pending := rfl
@[simp] theorem putPool_free (p : Nat) (x : Pool) : (putPool s p x).free = s.free := rfl
@[simp] theorem putPool_guestSite (p : Nat) (x : Pool) : (putPool s p x).guestSite = s.guestSite := rfl
@[simp] theorem putPool_host (p : Nat) (x : Pool) : (putPool s p x).host = s.host := rfl
@[simp] theorem putPool_hostFail (p : Nat) (x : Pool) : (putPool s p x).hostFail = s.hostFail := rfl
@[simp] theorem putPool_time (p : Nat) (x : Pool) : (putPool s p x).time = s.time := rfl
@[simp] theorem putPool_qe (p : Nat) (x : Pool) : (putPool s p x).qe = s.qe := rfl
@[simp] theorem putPool_regs (p : Nat) (x : Pool) : (putPool s p x).regs = s.regs := rfl
@[simp] theorem putPool_parts (p : Nat) (x : Pool) : (putPool s p x).parts = s.parts := rfl
@[simp] theorem putPool_vfs (p : Nat) (x : Pool) : (putPool s p x).vfs = s.vfs := rfl
@[simp] theorem putPool_sync (p : Nat) (x : Pool) : (putPool s p x).sync = s.sync := rfl
@[simp] theorem putPool_mem (p : Nat) (x : Pool) : (putPool s p x).mem = s.mem := rfl
@[simp] theorem putPool_steps (p : Nat) (x : Pool) : (putPool s p x).steps = s.steps := rfl
@[simp] theorem putPool_bw (p : Nat) (x : Pool) : (putPool s p x).bw = s.bw := rfl
@[simp] theorem putPool_fab (p : Nat) (x : Pool) : (putPool s p x).fab = s.fab := rfl
@[simp] theorem putPool_cuff (p : Nat) (x : Pool) : (putPool s p x).cuff = s.cuff := rfl
@[simp] theorem putPool_plauf (p : Nat) (x : Pool) : (putPool s p x).plauf = s.plauf := rfl
@[simp] theorem putPool_gnt (p : Nat) (x : Pool) : (putPool s p x).gnt = s.gnt := rfl
@[simp] theorem putPool_flt (p : Nat) (x : Pool) : (putPool s p x).flt = s.flt := rfl
@[simp] theorem putPool_pwr (p : Nat) (x : Pool) : (putPool s p x).pwr = s.pwr := rfl
@[simp] theorem putPool_th (p : Nat) (x : Pool) : (putPool s p x).th = s.th := rfl
@[simp] theorem putPool_mgmt (p : Nat) (x : Pool) : (putPool s p x).mgmt = s.mgmt := rfl
@[simp] theorem putPool_log (p : Nat) (x : Pool) : (putPool s p x).log = s.log := rfl
@[simp] theorem putPool_snap (p : Nat) (x : Pool) : (putPool s p x).snap = s.snap := rfl
@[simp] theorem putPool_hol (p : Nat) (x : Pool) : (putPool s p x).hol = s.hol := rfl

/-! putPort changes plauf alone. -/

@[simp] theorem putPort_pending (p : Nat) (x : Port) : (putPort s p x).pending = s.pending := rfl
@[simp] theorem putPort_free (p : Nat) (x : Port) : (putPort s p x).free = s.free := rfl
@[simp] theorem putPort_guestSite (p : Nat) (x : Port) : (putPort s p x).guestSite = s.guestSite := rfl
@[simp] theorem putPort_host (p : Nat) (x : Port) : (putPort s p x).host = s.host := rfl
@[simp] theorem putPort_hostFail (p : Nat) (x : Port) : (putPort s p x).hostFail = s.hostFail := rfl
@[simp] theorem putPort_time (p : Nat) (x : Port) : (putPort s p x).time = s.time := rfl
@[simp] theorem putPort_qe (p : Nat) (x : Port) : (putPort s p x).qe = s.qe := rfl
@[simp] theorem putPort_regs (p : Nat) (x : Port) : (putPort s p x).regs = s.regs := rfl
@[simp] theorem putPort_parts (p : Nat) (x : Port) : (putPort s p x).parts = s.parts := rfl
@[simp] theorem putPort_vfs (p : Nat) (x : Port) : (putPort s p x).vfs = s.vfs := rfl
@[simp] theorem putPort_sync (p : Nat) (x : Port) : (putPort s p x).sync = s.sync := rfl
@[simp] theorem putPort_mem (p : Nat) (x : Port) : (putPort s p x).mem = s.mem := rfl
@[simp] theorem putPort_kv (p : Nat) (x : Port) : (putPort s p x).kv = s.kv := rfl
@[simp] theorem putPort_steps (p : Nat) (x : Port) : (putPort s p x).steps = s.steps := rfl
@[simp] theorem putPort_bw (p : Nat) (x : Port) : (putPort s p x).bw = s.bw := rfl
@[simp] theorem putPort_fab (p : Nat) (x : Port) : (putPort s p x).fab = s.fab := rfl
@[simp] theorem putPort_cuff (p : Nat) (x : Port) : (putPort s p x).cuff = s.cuff := rfl
@[simp] theorem putPort_gnt (p : Nat) (x : Port) : (putPort s p x).gnt = s.gnt := rfl
@[simp] theorem putPort_flt (p : Nat) (x : Port) : (putPort s p x).flt = s.flt := rfl
@[simp] theorem putPort_pwr (p : Nat) (x : Port) : (putPort s p x).pwr = s.pwr := rfl
@[simp] theorem putPort_th (p : Nat) (x : Port) : (putPort s p x).th = s.th := rfl
@[simp] theorem putPort_mgmt (p : Nat) (x : Port) : (putPort s p x).mgmt = s.mgmt := rfl
@[simp] theorem putPort_log (p : Nat) (x : Port) : (putPort s p x).log = s.log := rfl
@[simp] theorem putPort_snap (p : Nat) (x : Port) : (putPort s p x).snap = s.snap := rfl
@[simp] theorem putPort_hol (p : Nat) (x : Port) : (putPort s p x).hol = s.hol := rfl

/-! putCore changes flt alone. -/

@[simp] theorem putCore_pending (c : Nat) (x : CoreSt) : (putCore s c x).pending = s.pending := rfl
@[simp] theorem putCore_free (c : Nat) (x : CoreSt) : (putCore s c x).free = s.free := rfl
@[simp] theorem putCore_guestSite (c : Nat) (x : CoreSt) : (putCore s c x).guestSite = s.guestSite := rfl
@[simp] theorem putCore_host (c : Nat) (x : CoreSt) : (putCore s c x).host = s.host := rfl
@[simp] theorem putCore_hostFail (c : Nat) (x : CoreSt) : (putCore s c x).hostFail = s.hostFail := rfl
@[simp] theorem putCore_time (c : Nat) (x : CoreSt) : (putCore s c x).time = s.time := rfl
@[simp] theorem putCore_qe (c : Nat) (x : CoreSt) : (putCore s c x).qe = s.qe := rfl
@[simp] theorem putCore_regs (c : Nat) (x : CoreSt) : (putCore s c x).regs = s.regs := rfl
@[simp] theorem putCore_parts (c : Nat) (x : CoreSt) : (putCore s c x).parts = s.parts := rfl
@[simp] theorem putCore_vfs (c : Nat) (x : CoreSt) : (putCore s c x).vfs = s.vfs := rfl
@[simp] theorem putCore_sync (c : Nat) (x : CoreSt) : (putCore s c x).sync = s.sync := rfl
@[simp] theorem putCore_mem (c : Nat) (x : CoreSt) : (putCore s c x).mem = s.mem := rfl
@[simp] theorem putCore_kv (c : Nat) (x : CoreSt) : (putCore s c x).kv = s.kv := rfl
@[simp] theorem putCore_steps (c : Nat) (x : CoreSt) : (putCore s c x).steps = s.steps := rfl
@[simp] theorem putCore_bw (c : Nat) (x : CoreSt) : (putCore s c x).bw = s.bw := rfl
@[simp] theorem putCore_fab (c : Nat) (x : CoreSt) : (putCore s c x).fab = s.fab := rfl
@[simp] theorem putCore_cuff (c : Nat) (x : CoreSt) : (putCore s c x).cuff = s.cuff := rfl
@[simp] theorem putCore_plauf (c : Nat) (x : CoreSt) : (putCore s c x).plauf = s.plauf := rfl
@[simp] theorem putCore_gnt (c : Nat) (x : CoreSt) : (putCore s c x).gnt = s.gnt := rfl
@[simp] theorem putCore_pwr (c : Nat) (x : CoreSt) : (putCore s c x).pwr = s.pwr := rfl
@[simp] theorem putCore_th (c : Nat) (x : CoreSt) : (putCore s c x).th = s.th := rfl
@[simp] theorem putCore_mgmt (c : Nat) (x : CoreSt) : (putCore s c x).mgmt = s.mgmt := rfl
@[simp] theorem putCore_log (c : Nat) (x : CoreSt) : (putCore s c x).log = s.log := rfl
@[simp] theorem putCore_snap (c : Nat) (x : CoreSt) : (putCore s c x).snap = s.snap := rfl
@[simp] theorem putCore_hol (c : Nat) (x : CoreSt) : (putCore s c x).hol = s.hol := rfl

/-! putBind changes flt alone. -/

@[simp] theorem putBind_pending (c : Nat) (x : Binding) : (putBind s c x).pending = s.pending := rfl
@[simp] theorem putBind_free (c : Nat) (x : Binding) : (putBind s c x).free = s.free := rfl
@[simp] theorem putBind_guestSite (c : Nat) (x : Binding) : (putBind s c x).guestSite = s.guestSite := rfl
@[simp] theorem putBind_host (c : Nat) (x : Binding) : (putBind s c x).host = s.host := rfl
@[simp] theorem putBind_hostFail (c : Nat) (x : Binding) : (putBind s c x).hostFail = s.hostFail := rfl
@[simp] theorem putBind_time (c : Nat) (x : Binding) : (putBind s c x).time = s.time := rfl
@[simp] theorem putBind_qe (c : Nat) (x : Binding) : (putBind s c x).qe = s.qe := rfl
@[simp] theorem putBind_regs (c : Nat) (x : Binding) : (putBind s c x).regs = s.regs := rfl
@[simp] theorem putBind_parts (c : Nat) (x : Binding) : (putBind s c x).parts = s.parts := rfl
@[simp] theorem putBind_vfs (c : Nat) (x : Binding) : (putBind s c x).vfs = s.vfs := rfl
@[simp] theorem putBind_sync (c : Nat) (x : Binding) : (putBind s c x).sync = s.sync := rfl
@[simp] theorem putBind_mem (c : Nat) (x : Binding) : (putBind s c x).mem = s.mem := rfl
@[simp] theorem putBind_kv (c : Nat) (x : Binding) : (putBind s c x).kv = s.kv := rfl
@[simp] theorem putBind_steps (c : Nat) (x : Binding) : (putBind s c x).steps = s.steps := rfl
@[simp] theorem putBind_bw (c : Nat) (x : Binding) : (putBind s c x).bw = s.bw := rfl
@[simp] theorem putBind_fab (c : Nat) (x : Binding) : (putBind s c x).fab = s.fab := rfl
@[simp] theorem putBind_cuff (c : Nat) (x : Binding) : (putBind s c x).cuff = s.cuff := rfl
@[simp] theorem putBind_plauf (c : Nat) (x : Binding) : (putBind s c x).plauf = s.plauf := rfl
@[simp] theorem putBind_gnt (c : Nat) (x : Binding) : (putBind s c x).gnt = s.gnt := rfl
@[simp] theorem putBind_pwr (c : Nat) (x : Binding) : (putBind s c x).pwr = s.pwr := rfl
@[simp] theorem putBind_th (c : Nat) (x : Binding) : (putBind s c x).th = s.th := rfl
@[simp] theorem putBind_mgmt (c : Nat) (x : Binding) : (putBind s c x).mgmt = s.mgmt := rfl
@[simp] theorem putBind_log (c : Nat) (x : Binding) : (putBind s c x).log = s.log := rfl
@[simp] theorem putBind_snap (c : Nat) (x : Binding) : (putBind s c x).snap = s.snap := rfl
@[simp] theorem putBind_hol (c : Nat) (x : Binding) : (putBind s c x).hol = s.hol := rfl

/-! putSite changes flt alone. -/

@[simp] theorem putSite_pending (c : Nat) (x : Site) : (putSite s c x).pending = s.pending := rfl
@[simp] theorem putSite_free (c : Nat) (x : Site) : (putSite s c x).free = s.free := rfl
@[simp] theorem putSite_guestSite (c : Nat) (x : Site) : (putSite s c x).guestSite = s.guestSite := rfl
@[simp] theorem putSite_host (c : Nat) (x : Site) : (putSite s c x).host = s.host := rfl
@[simp] theorem putSite_hostFail (c : Nat) (x : Site) : (putSite s c x).hostFail = s.hostFail := rfl
@[simp] theorem putSite_time (c : Nat) (x : Site) : (putSite s c x).time = s.time := rfl
@[simp] theorem putSite_qe (c : Nat) (x : Site) : (putSite s c x).qe = s.qe := rfl
@[simp] theorem putSite_regs (c : Nat) (x : Site) : (putSite s c x).regs = s.regs := rfl
@[simp] theorem putSite_parts (c : Nat) (x : Site) : (putSite s c x).parts = s.parts := rfl
@[simp] theorem putSite_vfs (c : Nat) (x : Site) : (putSite s c x).vfs = s.vfs := rfl
@[simp] theorem putSite_sync (c : Nat) (x : Site) : (putSite s c x).sync = s.sync := rfl
@[simp] theorem putSite_mem (c : Nat) (x : Site) : (putSite s c x).mem = s.mem := rfl
@[simp] theorem putSite_kv (c : Nat) (x : Site) : (putSite s c x).kv = s.kv := rfl
@[simp] theorem putSite_steps (c : Nat) (x : Site) : (putSite s c x).steps = s.steps := rfl
@[simp] theorem putSite_bw (c : Nat) (x : Site) : (putSite s c x).bw = s.bw := rfl
@[simp] theorem putSite_fab (c : Nat) (x : Site) : (putSite s c x).fab = s.fab := rfl
@[simp] theorem putSite_cuff (c : Nat) (x : Site) : (putSite s c x).cuff = s.cuff := rfl
@[simp] theorem putSite_plauf (c : Nat) (x : Site) : (putSite s c x).plauf = s.plauf := rfl
@[simp] theorem putSite_gnt (c : Nat) (x : Site) : (putSite s c x).gnt = s.gnt := rfl
@[simp] theorem putSite_pwr (c : Nat) (x : Site) : (putSite s c x).pwr = s.pwr := rfl
@[simp] theorem putSite_th (c : Nat) (x : Site) : (putSite s c x).th = s.th := rfl
@[simp] theorem putSite_mgmt (c : Nat) (x : Site) : (putSite s c x).mgmt = s.mgmt := rfl
@[simp] theorem putSite_log (c : Nat) (x : Site) : (putSite s c x).log = s.log := rfl
@[simp] theorem putSite_snap (c : Nat) (x : Site) : (putSite s c x).snap = s.snap := rfl
@[simp] theorem putSite_hol (c : Nat) (x : Site) : (putSite s c x).hol = s.hol := rfl

/-! putBundle changes fab alone. -/

@[simp] theorem putBundle_pending (b : Nat) (x : Bundle) : (putBundle s b x).pending = s.pending := rfl
@[simp] theorem putBundle_free (b : Nat) (x : Bundle) : (putBundle s b x).free = s.free := rfl
@[simp] theorem putBundle_guestSite (b : Nat) (x : Bundle) : (putBundle s b x).guestSite = s.guestSite := rfl
@[simp] theorem putBundle_host (b : Nat) (x : Bundle) : (putBundle s b x).host = s.host := rfl
@[simp] theorem putBundle_hostFail (b : Nat) (x : Bundle) : (putBundle s b x).hostFail = s.hostFail := rfl
@[simp] theorem putBundle_time (b : Nat) (x : Bundle) : (putBundle s b x).time = s.time := rfl
@[simp] theorem putBundle_qe (b : Nat) (x : Bundle) : (putBundle s b x).qe = s.qe := rfl
@[simp] theorem putBundle_regs (b : Nat) (x : Bundle) : (putBundle s b x).regs = s.regs := rfl
@[simp] theorem putBundle_parts (b : Nat) (x : Bundle) : (putBundle s b x).parts = s.parts := rfl
@[simp] theorem putBundle_vfs (b : Nat) (x : Bundle) : (putBundle s b x).vfs = s.vfs := rfl
@[simp] theorem putBundle_sync (b : Nat) (x : Bundle) : (putBundle s b x).sync = s.sync := rfl
@[simp] theorem putBundle_mem (b : Nat) (x : Bundle) : (putBundle s b x).mem = s.mem := rfl
@[simp] theorem putBundle_kv (b : Nat) (x : Bundle) : (putBundle s b x).kv = s.kv := rfl
@[simp] theorem putBundle_steps (b : Nat) (x : Bundle) : (putBundle s b x).steps = s.steps := rfl
@[simp] theorem putBundle_bw (b : Nat) (x : Bundle) : (putBundle s b x).bw = s.bw := rfl
@[simp] theorem putBundle_cuff (b : Nat) (x : Bundle) : (putBundle s b x).cuff = s.cuff := rfl
@[simp] theorem putBundle_plauf (b : Nat) (x : Bundle) : (putBundle s b x).plauf = s.plauf := rfl
@[simp] theorem putBundle_gnt (b : Nat) (x : Bundle) : (putBundle s b x).gnt = s.gnt := rfl
@[simp] theorem putBundle_flt (b : Nat) (x : Bundle) : (putBundle s b x).flt = s.flt := rfl
@[simp] theorem putBundle_pwr (b : Nat) (x : Bundle) : (putBundle s b x).pwr = s.pwr := rfl
@[simp] theorem putBundle_th (b : Nat) (x : Bundle) : (putBundle s b x).th = s.th := rfl
@[simp] theorem putBundle_mgmt (b : Nat) (x : Bundle) : (putBundle s b x).mgmt = s.mgmt := rfl
@[simp] theorem putBundle_log (b : Nat) (x : Bundle) : (putBundle s b x).log = s.log := rfl
@[simp] theorem putBundle_snap (b : Nat) (x : Bundle) : (putBundle s b x).snap = s.snap := rfl
@[simp] theorem putBundle_hol (b : Nat) (x : Bundle) : (putBundle s b x).hol = s.hol := rfl

/-! putKeys changes gnt alone. -/

@[simp] theorem putKeys_pending (p : Nat) (x : PartKeys) : (putKeys s p x).pending = s.pending := rfl
@[simp] theorem putKeys_free (p : Nat) (x : PartKeys) : (putKeys s p x).free = s.free := rfl
@[simp] theorem putKeys_guestSite (p : Nat) (x : PartKeys) : (putKeys s p x).guestSite = s.guestSite := rfl
@[simp] theorem putKeys_host (p : Nat) (x : PartKeys) : (putKeys s p x).host = s.host := rfl
@[simp] theorem putKeys_hostFail (p : Nat) (x : PartKeys) : (putKeys s p x).hostFail = s.hostFail := rfl
@[simp] theorem putKeys_time (p : Nat) (x : PartKeys) : (putKeys s p x).time = s.time := rfl
@[simp] theorem putKeys_qe (p : Nat) (x : PartKeys) : (putKeys s p x).qe = s.qe := rfl
@[simp] theorem putKeys_regs (p : Nat) (x : PartKeys) : (putKeys s p x).regs = s.regs := rfl
@[simp] theorem putKeys_parts (p : Nat) (x : PartKeys) : (putKeys s p x).parts = s.parts := rfl
@[simp] theorem putKeys_vfs (p : Nat) (x : PartKeys) : (putKeys s p x).vfs = s.vfs := rfl
@[simp] theorem putKeys_sync (p : Nat) (x : PartKeys) : (putKeys s p x).sync = s.sync := rfl
@[simp] theorem putKeys_mem (p : Nat) (x : PartKeys) : (putKeys s p x).mem = s.mem := rfl
@[simp] theorem putKeys_kv (p : Nat) (x : PartKeys) : (putKeys s p x).kv = s.kv := rfl
@[simp] theorem putKeys_steps (p : Nat) (x : PartKeys) : (putKeys s p x).steps = s.steps := rfl
@[simp] theorem putKeys_bw (p : Nat) (x : PartKeys) : (putKeys s p x).bw = s.bw := rfl
@[simp] theorem putKeys_fab (p : Nat) (x : PartKeys) : (putKeys s p x).fab = s.fab := rfl
@[simp] theorem putKeys_cuff (p : Nat) (x : PartKeys) : (putKeys s p x).cuff = s.cuff := rfl
@[simp] theorem putKeys_plauf (p : Nat) (x : PartKeys) : (putKeys s p x).plauf = s.plauf := rfl
@[simp] theorem putKeys_flt (p : Nat) (x : PartKeys) : (putKeys s p x).flt = s.flt := rfl
@[simp] theorem putKeys_pwr (p : Nat) (x : PartKeys) : (putKeys s p x).pwr = s.pwr := rfl
@[simp] theorem putKeys_th (p : Nat) (x : PartKeys) : (putKeys s p x).th = s.th := rfl
@[simp] theorem putKeys_mgmt (p : Nat) (x : PartKeys) : (putKeys s p x).mgmt = s.mgmt := rfl
@[simp] theorem putKeys_log (p : Nat) (x : PartKeys) : (putKeys s p x).log = s.log := rfl
@[simp] theorem putKeys_snap (p : Nat) (x : PartKeys) : (putKeys s p x).snap = s.snap := rfl
@[simp] theorem putKeys_hol (p : Nat) (x : PartKeys) : (putKeys s p x).hol = s.hol := rfl

/-! putRec changes mgmt alone. -/

@[simp] theorem putRec_pending (i : Nat) (x : Rec) : (putRec s i x).pending = s.pending := rfl
@[simp] theorem putRec_free (i : Nat) (x : Rec) : (putRec s i x).free = s.free := rfl
@[simp] theorem putRec_guestSite (i : Nat) (x : Rec) : (putRec s i x).guestSite = s.guestSite := rfl
@[simp] theorem putRec_host (i : Nat) (x : Rec) : (putRec s i x).host = s.host := rfl
@[simp] theorem putRec_hostFail (i : Nat) (x : Rec) : (putRec s i x).hostFail = s.hostFail := rfl
@[simp] theorem putRec_time (i : Nat) (x : Rec) : (putRec s i x).time = s.time := rfl
@[simp] theorem putRec_qe (i : Nat) (x : Rec) : (putRec s i x).qe = s.qe := rfl
@[simp] theorem putRec_regs (i : Nat) (x : Rec) : (putRec s i x).regs = s.regs := rfl
@[simp] theorem putRec_parts (i : Nat) (x : Rec) : (putRec s i x).parts = s.parts := rfl
@[simp] theorem putRec_vfs (i : Nat) (x : Rec) : (putRec s i x).vfs = s.vfs := rfl
@[simp] theorem putRec_sync (i : Nat) (x : Rec) : (putRec s i x).sync = s.sync := rfl
@[simp] theorem putRec_mem (i : Nat) (x : Rec) : (putRec s i x).mem = s.mem := rfl
@[simp] theorem putRec_kv (i : Nat) (x : Rec) : (putRec s i x).kv = s.kv := rfl
@[simp] theorem putRec_steps (i : Nat) (x : Rec) : (putRec s i x).steps = s.steps := rfl
@[simp] theorem putRec_bw (i : Nat) (x : Rec) : (putRec s i x).bw = s.bw := rfl
@[simp] theorem putRec_fab (i : Nat) (x : Rec) : (putRec s i x).fab = s.fab := rfl
@[simp] theorem putRec_cuff (i : Nat) (x : Rec) : (putRec s i x).cuff = s.cuff := rfl
@[simp] theorem putRec_plauf (i : Nat) (x : Rec) : (putRec s i x).plauf = s.plauf := rfl
@[simp] theorem putRec_gnt (i : Nat) (x : Rec) : (putRec s i x).gnt = s.gnt := rfl
@[simp] theorem putRec_flt (i : Nat) (x : Rec) : (putRec s i x).flt = s.flt := rfl
@[simp] theorem putRec_pwr (i : Nat) (x : Rec) : (putRec s i x).pwr = s.pwr := rfl
@[simp] theorem putRec_th (i : Nat) (x : Rec) : (putRec s i x).th = s.th := rfl
@[simp] theorem putRec_log (i : Nat) (x : Rec) : (putRec s i x).log = s.log := rfl
@[simp] theorem putRec_snap (i : Nat) (x : Rec) : (putRec s i x).snap = s.snap := rfl
@[simp] theorem putRec_hol (i : Nat) (x : Rec) : (putRec s i x).hol = s.hol := rfl

/-! putFw changes mgmt alone. -/

@[simp] theorem putFw_pending (i : Nat) (x : FwType) : (putFw s i x).pending = s.pending := rfl
@[simp] theorem putFw_free (i : Nat) (x : FwType) : (putFw s i x).free = s.free := rfl
@[simp] theorem putFw_guestSite (i : Nat) (x : FwType) : (putFw s i x).guestSite = s.guestSite := rfl
@[simp] theorem putFw_host (i : Nat) (x : FwType) : (putFw s i x).host = s.host := rfl
@[simp] theorem putFw_hostFail (i : Nat) (x : FwType) : (putFw s i x).hostFail = s.hostFail := rfl
@[simp] theorem putFw_time (i : Nat) (x : FwType) : (putFw s i x).time = s.time := rfl
@[simp] theorem putFw_qe (i : Nat) (x : FwType) : (putFw s i x).qe = s.qe := rfl
@[simp] theorem putFw_regs (i : Nat) (x : FwType) : (putFw s i x).regs = s.regs := rfl
@[simp] theorem putFw_parts (i : Nat) (x : FwType) : (putFw s i x).parts = s.parts := rfl
@[simp] theorem putFw_vfs (i : Nat) (x : FwType) : (putFw s i x).vfs = s.vfs := rfl
@[simp] theorem putFw_sync (i : Nat) (x : FwType) : (putFw s i x).sync = s.sync := rfl
@[simp] theorem putFw_mem (i : Nat) (x : FwType) : (putFw s i x).mem = s.mem := rfl
@[simp] theorem putFw_kv (i : Nat) (x : FwType) : (putFw s i x).kv = s.kv := rfl
@[simp] theorem putFw_steps (i : Nat) (x : FwType) : (putFw s i x).steps = s.steps := rfl
@[simp] theorem putFw_bw (i : Nat) (x : FwType) : (putFw s i x).bw = s.bw := rfl
@[simp] theorem putFw_fab (i : Nat) (x : FwType) : (putFw s i x).fab = s.fab := rfl
@[simp] theorem putFw_cuff (i : Nat) (x : FwType) : (putFw s i x).cuff = s.cuff := rfl
@[simp] theorem putFw_plauf (i : Nat) (x : FwType) : (putFw s i x).plauf = s.plauf := rfl
@[simp] theorem putFw_gnt (i : Nat) (x : FwType) : (putFw s i x).gnt = s.gnt := rfl
@[simp] theorem putFw_flt (i : Nat) (x : FwType) : (putFw s i x).flt = s.flt := rfl
@[simp] theorem putFw_pwr (i : Nat) (x : FwType) : (putFw s i x).pwr = s.pwr := rfl
@[simp] theorem putFw_th (i : Nat) (x : FwType) : (putFw s i x).th = s.th := rfl
@[simp] theorem putFw_log (i : Nat) (x : FwType) : (putFw s i x).log = s.log := rfl
@[simp] theorem putFw_snap (i : Nat) (x : FwType) : (putFw s i x).snap = s.snap := rfl
@[simp] theorem putFw_hol (i : Nat) (x : FwType) : (putFw s i x).hol = s.hol := rfl

/-! What a put reads back. -/

@[simp] theorem getF_putF (d : Nat) (f : Flight) : getF (putF s d f) d = some f := by simp [getF, putF, tfind_tput_same]
theorem getF_putF_other (d : Nat) (f : Flight) (j : Nat) (h : j ≠ d) : getF (putF s d f) j = getF s j := by simp [getF, putF, tfind_tput_other _ _ _ _ h]
@[simp] theorem getFn_putFn (n : Nat) (x : FnState) : getFn (putFn s n x) n = x := by simp [getFn, putFn, tfind_tput_same]
theorem getFn_putFn_other (n : Nat) (x : FnState) (j : Nat) (h : j ≠ n) : getFn (putFn s n x) j = getFn s j := by simp [getFn, putFn, tfind_tput_other _ _ _ _ h]
@[simp] theorem getQ_putQ (q : Nat) (x : QCtx) : getQ (putQ s q x) q = x := by simp [getQ, putQ, tfind_tput_same]
theorem getQ_putQ_other (q : Nat) (x : QCtx) (j : Nat) (h : j ≠ q) : getQ (putQ s q x) j = getQ s j := by simp [getQ, putQ, tfind_tput_other _ _ _ _ h]
@[simp] theorem getP_putP (p : Nat) (x : Part) : getP (putP s p x) p = some x := by simp [getP, putP, tfind_tput_same]
theorem getP_putP_other (p : Nat) (x : Part) (j : Nat) (h : j ≠ p) : getP (putP s p x) j = getP s j := by simp [getP, putP, tfind_tput_other _ _ _ _ h]
@[simp] theorem getSlot_putSlot (i : Nat) (x : Slot) : getSlot (putSlot s i x) i = x := by simp [getSlot, putSlot, tfind_tput_same]
theorem getSlot_putSlot_other (i : Nat) (x : Slot) (j : Nat) (h : j ≠ i) : getSlot (putSlot s i x) j = getSlot s j := by simp [getSlot, putSlot, tfind_tput_other _ _ _ _ h]
@[simp] theorem getPool_putPool (p : Nat) (x : Pool) : getPool (putPool s p x) p = x := by simp [getPool, putPool, tfind_tput_same]
theorem getPool_putPool_other (p : Nat) (x : Pool) (j : Nat) (h : j ≠ p) : getPool (putPool s p x) j = getPool s j := by simp [getPool, putPool, tfind_tput_other _ _ _ _ h]
@[simp] theorem getPort_putPort (p : Nat) (x : Port) : getPort (putPort s p x) p = x := by simp [getPort, putPort, tfind_tput_same]
theorem getPort_putPort_other (p : Nat) (x : Port) (j : Nat) (h : j ≠ p) : getPort (putPort s p x) j = getPort s j := by simp [getPort, putPort, tfind_tput_other _ _ _ _ h]
@[simp] theorem getCore_putCore (c : Nat) (x : CoreSt) : getCore (putCore s c x) c = x := by simp [getCore, putCore, tfind_tput_same]
theorem getCore_putCore_other (c : Nat) (x : CoreSt) (j : Nat) (h : j ≠ c) : getCore (putCore s c x) j = getCore s j := by simp [getCore, putCore, tfind_tput_other _ _ _ _ h]
@[simp] theorem getBind_putBind (c : Nat) (x : Binding) : getBind (putBind s c x) c = x := by simp [getBind, putBind, tfind_tput_same]
theorem getBind_putBind_other (c : Nat) (x : Binding) (j : Nat) (h : j ≠ c) : getBind (putBind s c x) j = getBind s j := by simp [getBind, putBind, tfind_tput_other _ _ _ _ h]
@[simp] theorem getSite_putSite (c : Nat) (x : Site) : getSite (putSite s c x) c = x := by simp [getSite, putSite, tfind_tput_same]
theorem getSite_putSite_other (c : Nat) (x : Site) (j : Nat) (h : j ≠ c) : getSite (putSite s c x) j = getSite s j := by simp [getSite, putSite, tfind_tput_other _ _ _ _ h]
@[simp] theorem getBundle_putBundle (b : Nat) (x : Bundle) : getBundle (putBundle s b x) b = x := by simp [getBundle, putBundle, tfind_tput_same]
theorem getBundle_putBundle_other (b : Nat) (x : Bundle) (j : Nat) (h : j ≠ b) : getBundle (putBundle s b x) j = getBundle s j := by simp [getBundle, putBundle, tfind_tput_other _ _ _ _ h]
@[simp] theorem getKeys_putKeys (p : Nat) (x : PartKeys) : getKeys (putKeys s p x) p = x := by simp [getKeys, putKeys, tfind_tput_same]
theorem getKeys_putKeys_other (p : Nat) (x : PartKeys) (j : Nat) (h : j ≠ p) : getKeys (putKeys s p x) j = getKeys s j := by simp [getKeys, putKeys, tfind_tput_other _ _ _ _ h]
@[simp] theorem getRec_putRec (i : Nat) (x : Rec) : getRec (putRec s i x) i = x := by simp [getRec, putRec, tfind_tput_same]
theorem getRec_putRec_other (i : Nat) (x : Rec) (j : Nat) (h : j ≠ i) : getRec (putRec s i x) j = getRec s j := by simp [getRec, putRec, tfind_tput_other _ _ _ _ h]
@[simp] theorem getFw_putFw (i : Nat) (x : FwType) : getFw (putFw s i x) i = x := by simp [getFw, putFw, tfind_tput_same]
theorem getFw_putFw_other (i : Nat) (x : FwType) (j : Nat) (h : j ≠ i) : getFw (putFw s i x) j = getFw s j := by simp [getFw, putFw, tfind_tput_other _ _ _ _ h]

/-! The ending of a descriptor changes the table of held descriptors alone. -/

@[simp] theorem endF_pending (d st e : Nat) : (endF s d st e).pending = s.pending := by unfold endF; split <;> rfl
@[simp] theorem endF_free (d st e : Nat) : (endF s d st e).free = s.free := by unfold endF; split <;> rfl
@[simp] theorem endF_guestSite (d st e : Nat) : (endF s d st e).guestSite = s.guestSite := by unfold endF; split <;> rfl
@[simp] theorem endF_host (d st e : Nat) : (endF s d st e).host = s.host := by unfold endF; split <;> rfl
@[simp] theorem endF_hostFail (d st e : Nat) : (endF s d st e).hostFail = s.hostFail := by unfold endF; split <;> rfl
@[simp] theorem endF_time (d st e : Nat) : (endF s d st e).time = s.time := by unfold endF; split <;> rfl
@[simp] theorem endF_regs (d st e : Nat) : (endF s d st e).regs = s.regs := by unfold endF; split <;> rfl
@[simp] theorem endF_parts (d st e : Nat) : (endF s d st e).parts = s.parts := by unfold endF; split <;> rfl
@[simp] theorem endF_vfs (d st e : Nat) : (endF s d st e).vfs = s.vfs := by unfold endF; split <;> rfl
@[simp] theorem endF_sync (d st e : Nat) : (endF s d st e).sync = s.sync := by unfold endF; split <;> rfl
@[simp] theorem endF_mem (d st e : Nat) : (endF s d st e).mem = s.mem := by unfold endF; split <;> rfl
@[simp] theorem endF_kv (d st e : Nat) : (endF s d st e).kv = s.kv := by unfold endF; split <;> rfl
@[simp] theorem endF_steps (d st e : Nat) : (endF s d st e).steps = s.steps := by unfold endF; split <;> rfl
@[simp] theorem endF_bw (d st e : Nat) : (endF s d st e).bw = s.bw := by unfold endF; split <;> rfl
@[simp] theorem endF_fab (d st e : Nat) : (endF s d st e).fab = s.fab := by unfold endF; split <;> rfl
@[simp] theorem endF_cuff (d st e : Nat) : (endF s d st e).cuff = s.cuff := by unfold endF; split <;> rfl
@[simp] theorem endF_plauf (d st e : Nat) : (endF s d st e).plauf = s.plauf := by unfold endF; split <;> rfl
@[simp] theorem endF_gnt (d st e : Nat) : (endF s d st e).gnt = s.gnt := by unfold endF; split <;> rfl
@[simp] theorem endF_flt (d st e : Nat) : (endF s d st e).flt = s.flt := by unfold endF; split <;> rfl
@[simp] theorem endF_pwr (d st e : Nat) : (endF s d st e).pwr = s.pwr := by unfold endF; split <;> rfl
@[simp] theorem endF_th (d st e : Nat) : (endF s d st e).th = s.th := by unfold endF; split <;> rfl
@[simp] theorem endF_mgmt (d st e : Nat) : (endF s d st e).mgmt = s.mgmt := by unfold endF; split <;> rfl
@[simp] theorem endF_log (d st e : Nat) : (endF s d st e).log = s.log := by unfold endF; split <;> rfl
@[simp] theorem endF_snap (d st e : Nat) : (endF s d st e).snap = s.snap := by unfold endF; split <;> rfl
@[simp] theorem endF_hol (d st e : Nat) : (endF s d st e).hol = s.hol := by unfold endF; split <;> rfl
@[simp] theorem endF_qe_fns (d st e : Nat) : (endF s d st e).qe.fns = s.qe.fns := by unfold endF; split <;> rfl
@[simp] theorem endF_qe_ctx (d st e : Nat) : (endF s d st e).qe.ctx = s.qe.ctx := by unfold endF; split <;> rfl
@[simp] theorem endF_qe_hot (d st e : Nat) : (endF s d st e).qe.hot = s.qe.hot := by unfold endF; split <;> rfl
@[simp] theorem endF_qe_hotNext (d st e : Nat) : (endF s d st e).qe.hotNext = s.qe.hotNext := by unfold endF; split <;> rfl
@[simp] theorem endF_qe_nextFlight (d st e : Nat) : (endF s d st e).qe.nextFlight = s.qe.nextFlight := by unfold endF; split <;> rfl
@[simp] theorem endF_qe_msgs (d st e : Nat) : (endF s d st e).qe.msgs = s.qe.msgs := by unfold endF; split <;> rfl
@[simp] theorem endF_qe_pollPeriod (d st e : Nat) : (endF s d st e).qe.pollPeriod = s.qe.pollPeriod := by unfold endF; split <;> rfl
@[simp] theorem endF_qe_hotSize (d st e : Nat) : (endF s d st e).qe.hotSize = s.qe.hotSize := by unfold endF; split <;> rfl
@[simp] theorem endF_qe_hotReads (d st e : Nat) : (endF s d st e).qe.hotReads = s.qe.hotReads := by unfold endF; split <;> rfl
@[simp] theorem endF_qe_hotIdle (d st e : Nat) : (endF s d st e).qe.hotIdle = s.qe.hotIdle := by unfold endF; split <;> rfl
@[simp] theorem endF_qe_pollPasses (d st e : Nat) : (endF s d st e).qe.pollPasses = s.qe.pollPasses := by unfold endF; split <;> rfl

/-- A held descriptor that ends has the status and the extra field, and every other descriptor is as before (R69, R404). -/
theorem getF_endF (d st e : Nat) (f : Flight) (h : getF s d = some f) :
    getF (endF s d st e) d = some { f with
      phase := if unansweredOf s d then .running else .ended, answers := unansweredOf s d, status := st,
      extra := min e 0x0FFFFFFF } := by
  simp [endF, h]

theorem getF_endF_other (d st e j : Nat) (h : j ≠ d) : getF (endF s d st e) j = getF s j := by
  unfold endF; split
  · rfl
  · exact getF_putF_other s d _ j h

/-- A changed table reads the changed value. -/
theorem tfind_tmap {α : Type} (t : Tbl α) (f : Nat → α → α) (k : Nat) : tfind (tmap t f) k = (tfind t k).map (f k) := by
  induction t with
  | nil => rfl
  | cons e r ih =>
    obtain ⟨a, v⟩ := e
    unfold tmap at ih ⊢
    simp only [List.map_cons, tfind]
    split
    · next h => subst h; rfl
    · exact ih

/-! A host write changes host memory alone. -/

@[simp] theorem hwrite_pending (a : Nat) (bs : List Byte) : (hwrite s a bs).pending = s.pending := by unfold hwrite; split <;> rfl
@[simp] theorem hwrite_free (a : Nat) (bs : List Byte) : (hwrite s a bs).free = s.free := by unfold hwrite; split <;> rfl
@[simp] theorem hwrite_guestSite (a : Nat) (bs : List Byte) : (hwrite s a bs).guestSite = s.guestSite := by unfold hwrite; split <;> rfl
@[simp] theorem hwrite_hostFail (a : Nat) (bs : List Byte) : (hwrite s a bs).hostFail = s.hostFail := by unfold hwrite; split <;> rfl
@[simp] theorem hwrite_time (a : Nat) (bs : List Byte) : (hwrite s a bs).time = s.time := by unfold hwrite; split <;> rfl
@[simp] theorem hwrite_qe (a : Nat) (bs : List Byte) : (hwrite s a bs).qe = s.qe := by unfold hwrite; split <;> rfl
@[simp] theorem hwrite_regs (a : Nat) (bs : List Byte) : (hwrite s a bs).regs = s.regs := by unfold hwrite; split <;> rfl
@[simp] theorem hwrite_parts (a : Nat) (bs : List Byte) : (hwrite s a bs).parts = s.parts := by unfold hwrite; split <;> rfl
@[simp] theorem hwrite_vfs (a : Nat) (bs : List Byte) : (hwrite s a bs).vfs = s.vfs := by unfold hwrite; split <;> rfl
@[simp] theorem hwrite_sync (a : Nat) (bs : List Byte) : (hwrite s a bs).sync = s.sync := by unfold hwrite; split <;> rfl
@[simp] theorem hwrite_mem (a : Nat) (bs : List Byte) : (hwrite s a bs).mem = s.mem := by unfold hwrite; split <;> rfl
@[simp] theorem hwrite_kv (a : Nat) (bs : List Byte) : (hwrite s a bs).kv = s.kv := by unfold hwrite; split <;> rfl
@[simp] theorem hwrite_steps (a : Nat) (bs : List Byte) : (hwrite s a bs).steps = s.steps := by unfold hwrite; split <;> rfl
@[simp] theorem hwrite_bw (a : Nat) (bs : List Byte) : (hwrite s a bs).bw = s.bw := by unfold hwrite; split <;> rfl
@[simp] theorem hwrite_fab (a : Nat) (bs : List Byte) : (hwrite s a bs).fab = s.fab := by unfold hwrite; split <;> rfl
@[simp] theorem hwrite_cuff (a : Nat) (bs : List Byte) : (hwrite s a bs).cuff = s.cuff := by unfold hwrite; split <;> rfl
@[simp] theorem hwrite_plauf (a : Nat) (bs : List Byte) : (hwrite s a bs).plauf = s.plauf := by unfold hwrite; split <;> rfl
@[simp] theorem hwrite_gnt (a : Nat) (bs : List Byte) : (hwrite s a bs).gnt = s.gnt := by unfold hwrite; split <;> rfl
@[simp] theorem hwrite_flt (a : Nat) (bs : List Byte) : (hwrite s a bs).flt = s.flt := by unfold hwrite; split <;> rfl
@[simp] theorem hwrite_pwr (a : Nat) (bs : List Byte) : (hwrite s a bs).pwr = s.pwr := by unfold hwrite; split <;> rfl
@[simp] theorem hwrite_th (a : Nat) (bs : List Byte) : (hwrite s a bs).th = s.th := by unfold hwrite; split <;> rfl
@[simp] theorem hwrite_mgmt (a : Nat) (bs : List Byte) : (hwrite s a bs).mgmt = s.mgmt := by unfold hwrite; split <;> rfl
@[simp] theorem hwrite_log (a : Nat) (bs : List Byte) : (hwrite s a bs).log = s.log := by unfold hwrite; split <;> rfl
@[simp] theorem hwrite_snap (a : Nat) (bs : List Byte) : (hwrite s a bs).snap = s.snap := by unfold hwrite; split <;> rfl
@[simp] theorem hwrite_hol (a : Nat) (bs : List Byte) : (hwrite s a bs).hol = s.hol := by unfold hwrite; split <;> rfl

/-- Bytes written to host memory read back (R40). -/
theorem hread_hwrite (a : Nat) (bs : List Byte) (h : hostBad s a bs.length = false) :
    hread (hwrite s a bs) a bs.length = some bs := by
  have e : hwrite s a bs = { s with host := mwriteN s.host a bs } := by simp [hwrite, h]
  have hb : hostBad (hwrite s a bs) a bs.length = false := by rw [e]; exact h
  rw [hread, hb, e]
  exact congrArg some (mreadN_mwriteN bs s.host a)

/-- A read outside a host write reads as before. -/
theorem hread_hwrite_outside (a c n : Nat) (bs : List Byte) (h : c + n ≤ a ∨ a + bs.length ≤ c) :
    hread (hwrite s a bs) c n = hread s c n := by
  have hb : hostBad (hwrite s a bs) c n = hostBad s c n := by unfold hostBad; rw [hwrite_hostFail]
  unfold hread
  rw [hb]
  split
  · rfl
  · refine congrArg some (List.map_congr_left fun i hi => ?_)
    rw [List.mem_range] at hi
    unfold hwrite
    split
    · rfl
    · exact mread_mwriteN_outside bs s.host a (c + i) (by omega)

/-- A host write leaves every byte outside it as it was. -/
theorem mread_hwrite_outside (a i : Nat) (bs : List Byte) (h : i < a ∨ a + bs.length ≤ i) :
    mread (hwrite s a bs).host i = mread s.host i := by
  unfold hwrite; split
  · rfl
  · exact mread_mwriteN_outside bs s.host a i h


end Sys2Proof.Machine
end

