-- ==== Sys2Proof/Laws/Keeps.lean ====
section
/-! SUPPORT. What every command keeps: both memories in canonical form, the fitted guest, and the queue of waiting commands;
with the rules by which it passes through folds, choices and results. -/

namespace Sys2Proof.Machine

/-- What a run of updates keeps: with `w` the canonical form of both memories, the guest site `g`, the waiting commands `q`, and every numbered part of the state `a`
whose bit in `m` is clear; and on a part without a guest site a shut Cuff stays shut. The parts are numbered: 0 mem.bytes, 1 mem.poison, 2 mem.roots, 3 kv, 4 sync, 5 steps, 6 gnt.policy, 7 gnt.keys, 8 regs, 9 vfs, 10 time, 11 mgmt.fw, 12 pwr, 13 th, 14 cuff, 15 bw, 16 flt.bindings, 17 hol, 18 fab, 19 parts, 20 plauf, 21 mgmt.records. -/
structure Kept where
  w : Bool
  g : Bool
  q : List Instr
  m : Nat
  a : State

/-- Every bit of M is set in the mask. -/
def Sub (M : Nat) (K : Kept) : Prop := M &&& K.m = M

theorem Sub.bit {M k : Nat} {K : Kept} (h : Sub M K) (hk : M.testBit k = true) : K.m.testBit k = true := by
  rw [Sub] at h
  rw [← h, Nat.testBit_and, Bool.and_eq_true] at hk
  exact hk.2

theorem Sub.le {M N : Nat} {K : Kept} (h : Sub M K) (hk : N &&& M = N) : Sub N K := by
  rw [Sub] at h ⊢
  rw [← hk, Nat.and_assoc, h]

/-- The Cuff as R2 keeps it on a part whose guest site is empty: the guest's link in reset and down, and every window closed. -/
def Cuff.shut (c : Cuff) : Prop := c.guestReset = true ∧ c.linkUp = false ∧ c.wins = []

theorem Cuff.shut_mk {a : Option Nat} {b d : Nat} {l : Option Nat} {r : List CuffReply} {p : Tbl Nat} :
    Cuff.shut { part := a, cap := b, wins := [], slots := [], watches := [], denied := d, lastDenied := l, guestReset := true, linkUp := false, replies := r, paced := p } :=
  ⟨rfl, rfl, rfl⟩

/-- `Keeps` over the parts of a state. -/
structure K4 (K : Kept) (host : Tbl Byte) (guest : Bool) (pending : List Instr)
    (x0 : Tbl Byte) (x1 : List Nat) (x2 : Tbl Nat) (x3 : Keeper) (x4 : Sync) (x5 : Steps) (x6 : Policy) (x7 : Tbl PartKeys) (x8 : Regs) (x9 : Tbl Vf) (x10 : Time)
    (x11 : Tbl FwType) (x12 : Power) (x13 : Thermal) (x14 : Cuff) (x15 : Bandwidth) (x16 : Tbl Binding) (x17 : Holiday) (x18 : Fabric) (x19 : Tbl Part) (x20 : Plauf) (x21 : Tbl Rec) : Prop where
  wf : K.w = true → memWf host = true ∧ memWf x0 = true
  site : guest = K.g
  queue : pending = K.q
  p0 : K.m.testBit 0 = true ∨ x0 = K.a.mem.bytes
  p1 : K.m.testBit 1 = true ∨ x1 = K.a.mem.poison
  p2 : K.m.testBit 2 = true ∨ x2 = K.a.mem.roots
  p3 : K.m.testBit 3 = true ∨ x3 = K.a.kv
  p4 : K.m.testBit 4 = true ∨ x4 = K.a.sync
  p5 : K.m.testBit 5 = true ∨ x5 = K.a.steps
  p6 : K.m.testBit 6 = true ∨ x6 = K.a.gnt.policy
  p7 : K.m.testBit 7 = true ∨ x7 = K.a.gnt.keys
  p8 : K.m.testBit 8 = true ∨ x8 = K.a.regs
  p9 : K.m.testBit 9 = true ∨ x9 = K.a.vfs
  p10 : K.m.testBit 10 = true ∨ x10 = K.a.time
  p11 : K.m.testBit 11 = true ∨ x11 = K.a.mgmt.fw
  p12 : K.m.testBit 12 = true ∨ x12 = K.a.pwr
  p13 : K.m.testBit 13 = true ∨ x13 = K.a.th
  p14 : K.m.testBit 14 = true ∧ (K.g = false → K.a.cuff.shut → x14.shut) ∨ x14 = K.a.cuff
  p15 : K.m.testBit 15 = true ∨ x15 = K.a.bw
  p16 : K.m.testBit 16 = true ∨ x16 = K.a.flt.bindings
  p17 : K.m.testBit 17 = true ∨ x17 = K.a.hol
  p18 : K.m.testBit 18 = true ∨ x18 = K.a.fab
  p19 : K.m.testBit 19 = true ∨ x19 = K.a.parts
  p20 : K.m.testBit 20 = true ∨ x20 = K.a.plauf
  p21 : K.m.testBit 21 = true ∨ x21 = K.a.mgmt.records

/-- With `w` both memories are in canonical form, the guest site and the waiting commands are as kept, and so is every part of the state outside
the mask. -/
def Keeps (K : Kept) (s : State) : Prop :=
  K4 K s.host s.guestSite s.pending s.mem.bytes s.mem.poison s.mem.roots s.kv s.sync s.steps s.gnt.policy s.gnt.keys s.regs s.vfs s.time s.mgmt.fw s.pwr s.th s.cuff s.bw s.flt.bindings s.hol s.fab s.parts s.plauf s.mgmt.records

/-- An error keeps trivially; a result must keep. -/
def KeepsE (K : Kept) : Except Stop State → Prop
  | .ok t => Keeps K t
  | .error _ => True

def KeepsE1 {α : Type} (K : Kept) : Except Stop (State × α) → Prop
  | .ok t => Keeps K t.1
  | .error _ => True

def KeepsO (K : Kept) : Option State → Prop
  | some t => Keeps K t
  | none => True

def KeepsO1 {α : Type} (K : Kept) : Option (State × α) → Prop
  | some t => Keeps K t.1
  | none => True

def KeepsO2 {α : Type} (K : Kept) : Option (α × State) → Prop
  | some t => Keeps K t.2
  | none => True

variable {K : Kept}

theorem Keeps.fold {s : State} (h : Keeps K s) :
    K4 K s.host s.guestSite s.pending s.mem.bytes s.mem.poison s.mem.roots s.kv s.sync s.steps s.gnt.policy s.gnt.keys s.regs s.vfs s.time s.mgmt.fw s.pwr s.th s.cuff s.bw s.flt.bindings s.hol s.fab s.parts s.plauf s.mgmt.records := h

section
variable {host : Tbl Byte} {guest : Bool} {pending : List Instr} {x0 y0 : Tbl Byte} {x1 y1 : List Nat} {x2 y2 : Tbl Nat} {x3 y3 : Keeper} {x4 y4 : Sync} {x5 y5 : Steps} {x6 y6 : Policy} {x7 y7 : Tbl PartKeys} {x8 y8 : Regs}
  {x9 y9 : Tbl Vf} {x10 y10 : Time} {x11 y11 : Tbl FwType} {x12 y12 : Power} {x13 y13 : Thermal} {x14 y14 : Cuff} {x15 y15 : Bandwidth} {x16 y16 : Tbl Binding} {x17 y17 : Holiday} {x18 y18 : Fabric} {x19 y19 : Tbl Part} {x20 y20 : Plauf} {x21 y21 : Tbl Rec}

/-! A memory that was in canonical form may change to another that is. -/

theorem K4.hosted {host' : Tbl Byte} (hw : memWf host = true → memWf host' = true) (H : K4 K host guest pending x0 x1 x2 x3 x4 x5 x6 x7 x8 x9 x10 x11 x12 x13 x14 x15 x16 x17 x18 x19 x20 x21) :
    K4 K host' guest pending x0 x1 x2 x3 x4 x5 x6 x7 x8 x9 x10 x11 x12 x13 x14 x15 x16 x17 x18 x19 x20 x21 :=
  { H with wf := fun w => ⟨hw (H.wf w).1, (H.wf w).2⟩ }
theorem K4.s0 (h : K.m.testBit 0 = true) (hw : memWf x0 = true → memWf y0 = true) (H : K4 K host guest pending x0 x1 x2 x3 x4 x5 x6 x7 x8 x9 x10 x11 x12 x13 x14 x15 x16 x17 x18 x19 x20 x21) :
    K4 K host guest pending y0 x1 x2 x3 x4 x5 x6 x7 x8 x9 x10 x11 x12 x13 x14 x15 x16 x17 x18 x19 x20 x21 :=
  { H with wf := fun w => ⟨(H.wf w).1, hw (H.wf w).2⟩, p0 := .inl h }

/-! A part inside the mask may change. -/

theorem K4.s1 (h : K.m.testBit 1 = true) (H : K4 K host guest pending x0 x1 x2 x3 x4 x5 x6 x7 x8 x9 x10 x11 x12 x13 x14 x15 x16 x17 x18 x19 x20 x21) :
    K4 K host guest pending x0 y1 x2 x3 x4 x5 x6 x7 x8 x9 x10 x11 x12 x13 x14 x15 x16 x17 x18 x19 x20 x21 :=
  { H with p1 := .inl h }
theorem K4.s2 (h : K.m.testBit 2 = true) (H : K4 K host guest pending x0 x1 x2 x3 x4 x5 x6 x7 x8 x9 x10 x11 x12 x13 x14 x15 x16 x17 x18 x19 x20 x21) :
    K4 K host guest pending x0 x1 y2 x3 x4 x5 x6 x7 x8 x9 x10 x11 x12 x13 x14 x15 x16 x17 x18 x19 x20 x21 :=
  { H with p2 := .inl h }
theorem K4.s3 (h : K.m.testBit 3 = true) (H : K4 K host guest pending x0 x1 x2 x3 x4 x5 x6 x7 x8 x9 x10 x11 x12 x13 x14 x15 x16 x17 x18 x19 x20 x21) :
    K4 K host guest pending x0 x1 x2 y3 x4 x5 x6 x7 x8 x9 x10 x11 x12 x13 x14 x15 x16 x17 x18 x19 x20 x21 :=
  { H with p3 := .inl h }
theorem K4.s4 (h : K.m.testBit 4 = true) (H : K4 K host guest pending x0 x1 x2 x3 x4 x5 x6 x7 x8 x9 x10 x11 x12 x13 x14 x15 x16 x17 x18 x19 x20 x21) :
    K4 K host guest pending x0 x1 x2 x3 y4 x5 x6 x7 x8 x9 x10 x11 x12 x13 x14 x15 x16 x17 x18 x19 x20 x21 :=
  { H with p4 := .inl h }
theorem K4.s5 (h : K.m.testBit 5 = true) (H : K4 K host guest pending x0 x1 x2 x3 x4 x5 x6 x7 x8 x9 x10 x11 x12 x13 x14 x15 x16 x17 x18 x19 x20 x21) :
    K4 K host guest pending x0 x1 x2 x3 x4 y5 x6 x7 x8 x9 x10 x11 x12 x13 x14 x15 x16 x17 x18 x19 x20 x21 :=
  { H with p5 := .inl h }
theorem K4.s6 (h : K.m.testBit 6 = true) (H : K4 K host guest pending x0 x1 x2 x3 x4 x5 x6 x7 x8 x9 x10 x11 x12 x13 x14 x15 x16 x17 x18 x19 x20 x21) :
    K4 K host guest pending x0 x1 x2 x3 x4 x5 y6 x7 x8 x9 x10 x11 x12 x13 x14 x15 x16 x17 x18 x19 x20 x21 :=
  { H with p6 := .inl h }
theorem K4.s7 (h : K.m.testBit 7 = true) (H : K4 K host guest pending x0 x1 x2 x3 x4 x5 x6 x7 x8 x9 x10 x11 x12 x13 x14 x15 x16 x17 x18 x19 x20 x21) :
    K4 K host guest pending x0 x1 x2 x3 x4 x5 x6 y7 x8 x9 x10 x11 x12 x13 x14 x15 x16 x17 x18 x19 x20 x21 :=
  { H with p7 := .inl h }
theorem K4.s8 (h : K.m.testBit 8 = true) (H : K4 K host guest pending x0 x1 x2 x3 x4 x5 x6 x7 x8 x9 x10 x11 x12 x13 x14 x15 x16 x17 x18 x19 x20 x21) :
    K4 K host guest pending x0 x1 x2 x3 x4 x5 x6 x7 y8 x9 x10 x11 x12 x13 x14 x15 x16 x17 x18 x19 x20 x21 :=
  { H with p8 := .inl h }
theorem K4.s9 (h : K.m.testBit 9 = true) (H : K4 K host guest pending x0 x1 x2 x3 x4 x5 x6 x7 x8 x9 x10 x11 x12 x13 x14 x15 x16 x17 x18 x19 x20 x21) :
    K4 K host guest pending x0 x1 x2 x3 x4 x5 x6 x7 x8 y9 x10 x11 x12 x13 x14 x15 x16 x17 x18 x19 x20 x21 :=
  { H with p9 := .inl h }
theorem K4.s10 (h : K.m.testBit 10 = true) (H : K4 K host guest pending x0 x1 x2 x3 x4 x5 x6 x7 x8 x9 x10 x11 x12 x13 x14 x15 x16 x17 x18 x19 x20 x21) :
    K4 K host guest pending x0 x1 x2 x3 x4 x5 x6 x7 x8 x9 y10 x11 x12 x13 x14 x15 x16 x17 x18 x19 x20 x21 :=
  { H with p10 := .inl h }
theorem K4.s11 (h : K.m.testBit 11 = true) (H : K4 K host guest pending x0 x1 x2 x3 x4 x5 x6 x7 x8 x9 x10 x11 x12 x13 x14 x15 x16 x17 x18 x19 x20 x21) :
    K4 K host guest pending x0 x1 x2 x3 x4 x5 x6 x7 x8 x9 x10 y11 x12 x13 x14 x15 x16 x17 x18 x19 x20 x21 :=
  { H with p11 := .inl h }
theorem K4.s12 (h : K.m.testBit 12 = true) (H : K4 K host guest pending x0 x1 x2 x3 x4 x5 x6 x7 x8 x9 x10 x11 x12 x13 x14 x15 x16 x17 x18 x19 x20 x21) :
    K4 K host guest pending x0 x1 x2 x3 x4 x5 x6 x7 x8 x9 x10 x11 y12 x13 x14 x15 x16 x17 x18 x19 x20 x21 :=
  { H with p12 := .inl h }
theorem K4.s13 (h : K.m.testBit 13 = true) (H : K4 K host guest pending x0 x1 x2 x3 x4 x5 x6 x7 x8 x9 x10 x11 x12 x13 x14 x15 x16 x17 x18 x19 x20 x21) :
    K4 K host guest pending x0 x1 x2 x3 x4 x5 x6 x7 x8 x9 x10 x11 x12 y13 x14 x15 x16 x17 x18 x19 x20 x21 :=
  { H with p13 := .inl h }
theorem K4.s14 (h : K.m.testBit 14 = true) (H : K4 K host guest pending x0 x1 x2 x3 x4 x5 x6 x7 x8 x9 x10 x11 x12 x13 x14 x15 x16 x17 x18 x19 x20 x21)
    (hs : guest = false → x14.shut → y14.shut) :
    K4 K host guest pending x0 x1 x2 x3 x4 x5 x6 x7 x8 x9 x10 x11 x12 x13 y14 x15 x16 x17 x18 x19 x20 x21 :=
  { H with p14 := .inl ⟨h, fun hg ha => H.p14.elim (fun u => hs (H.site.trans hg) (u.2 hg ha)) fun e => hs (H.site.trans hg) (e ▸ ha)⟩ }
theorem K4.s15 (h : K.m.testBit 15 = true) (H : K4 K host guest pending x0 x1 x2 x3 x4 x5 x6 x7 x8 x9 x10 x11 x12 x13 x14 x15 x16 x17 x18 x19 x20 x21) :
    K4 K host guest pending x0 x1 x2 x3 x4 x5 x6 x7 x8 x9 x10 x11 x12 x13 x14 y15 x16 x17 x18 x19 x20 x21 :=
  { H with p15 := .inl h }
theorem K4.s16 (h : K.m.testBit 16 = true) (H : K4 K host guest pending x0 x1 x2 x3 x4 x5 x6 x7 x8 x9 x10 x11 x12 x13 x14 x15 x16 x17 x18 x19 x20 x21) :
    K4 K host guest pending x0 x1 x2 x3 x4 x5 x6 x7 x8 x9 x10 x11 x12 x13 x14 x15 y16 x17 x18 x19 x20 x21 :=
  { H with p16 := .inl h }
theorem K4.s17 (h : K.m.testBit 17 = true) (H : K4 K host guest pending x0 x1 x2 x3 x4 x5 x6 x7 x8 x9 x10 x11 x12 x13 x14 x15 x16 x17 x18 x19 x20 x21) :
    K4 K host guest pending x0 x1 x2 x3 x4 x5 x6 x7 x8 x9 x10 x11 x12 x13 x14 x15 x16 y17 x18 x19 x20 x21 :=
  { H with p17 := .inl h }
theorem K4.s18 (h : K.m.testBit 18 = true) (H : K4 K host guest pending x0 x1 x2 x3 x4 x5 x6 x7 x8 x9 x10 x11 x12 x13 x14 x15 x16 x17 x18 x19 x20 x21) :
    K4 K host guest pending x0 x1 x2 x3 x4 x5 x6 x7 x8 x9 x10 x11 x12 x13 x14 x15 x16 x17 y18 x19 x20 x21 :=
  { H with p18 := .inl h }
theorem K4.s19 (h : K.m.testBit 19 = true) (H : K4 K host guest pending x0 x1 x2 x3 x4 x5 x6 x7 x8 x9 x10 x11 x12 x13 x14 x15 x16 x17 x18 x19 x20 x21) :
    K4 K host guest pending x0 x1 x2 x3 x4 x5 x6 x7 x8 x9 x10 x11 x12 x13 x14 x15 x16 x17 x18 y19 x20 x21 :=
  { H with p19 := .inl h }
theorem K4.s20 (h : K.m.testBit 20 = true) (H : K4 K host guest pending x0 x1 x2 x3 x4 x5 x6 x7 x8 x9 x10 x11 x12 x13 x14 x15 x16 x17 x18 x19 x20 x21) :
    K4 K host guest pending x0 x1 x2 x3 x4 x5 x6 x7 x8 x9 x10 x11 x12 x13 x14 x15 x16 x17 x18 x19 y20 x21 :=
  { H with p20 := .inl h }
theorem K4.s21 (h : K.m.testBit 21 = true) (H : K4 K host guest pending x0 x1 x2 x3 x4 x5 x6 x7 x8 x9 x10 x11 x12 x13 x14 x15 x16 x17 x18 x19 x20 x21) :
    K4 K host guest pending x0 x1 x2 x3 x4 x5 x6 x7 x8 x9 x10 x11 x12 x13 x14 x15 x16 x17 x18 x19 x20 y21 :=
  { H with p21 := .inl h }

end


theorem KeepsE.ok {t : State} (h : Keeps K t) : KeepsE K (.ok t) := h
theorem KeepsE.pure {t : State} (h : Keeps K t) : KeepsE K (pure t) := h
theorem KeepsE.error (e : Stop) : KeepsE K (.error e) := trivial
theorem KeepsE.get {x : Except Stop State} {t : State} (e : x = .ok t) (h : KeepsE K x) : Keeps K t := by subst e; exact h
theorem KeepsE.bind {α : Type} {x : Except Stop α} {f : α → Except Stop State} (h : ∀ a, x = .ok a → KeepsE K (f a)) :
    KeepsE K (x >>= f) := by
  cases x with
  | error e => trivial
  | ok a => exact h a rfl
theorem KeepsE.bindS {x : Except Stop State} {f : State → Except Stop State} (hx : KeepsE K x)
    (h : ∀ t, Keeps K t → KeepsE K (f t)) : KeepsE K (x >>= f) := by
  cases x with
  | error e => trivial
  | ok a => exact h a hx

theorem KeepsE.map {x : Except Stop State} {f : State → State} (hx : KeepsE K x) (h : ∀ t, Keeps K t → Keeps K (f t)) :
    KeepsE K (x.map f) := by
  cases x with
  | error e => trivial
  | ok a => exact h a hx
theorem KeepsE1.map {α : Type} {x : Except Stop State} {f : State → State × α} (hx : KeepsE K x)
    (h : ∀ t, Keeps K t → Keeps K (f t).1) : KeepsE1 K (x.map f) := by
  cases x with
  | error e => trivial
  | ok a => exact h a hx

theorem KeepsE1.ok {α : Type} {t : State × α} (h : Keeps K t.1) : KeepsE1 K (.ok t) := h
theorem KeepsE1.error {α : Type} (e : Stop) : KeepsE1 (α := α) K (.error e) := trivial
theorem KeepsE1.get {α : Type} {x : Except Stop (State × α)} {t : State × α} (e : x = .ok t) (h : KeepsE1 K x) :
    Keeps K t.1 := by subst e; exact h
theorem KeepsE1.get' {α : Type} {x : Except Stop (State × α)} {t : State} {a : α} (e : x = .ok (t, a)) (h : KeepsE1 K x) :
    Keeps K t := by subst e; exact h
theorem KeepsE1.bind {α β : Type} {x : Except Stop α} {f : α → Except Stop (State × β)}
    (h : ∀ a, x = .ok a → KeepsE1 K (f a)) : KeepsE1 K (x >>= f) := by
  cases x with
  | error e => trivial
  | ok a => exact h a rfl
theorem KeepsE1.bindS {α : Type} {x : Except Stop State} {f : State → Except Stop (State × α)} (hx : KeepsE K x)
    (h : ∀ t, Keeps K t → KeepsE1 K (f t)) : KeepsE1 K (x >>= f) := by
  cases x with
  | error e => trivial
  | ok a => exact h a hx

theorem KeepsO.some {t : State} (h : Keeps K t) : KeepsO K (.some t) := h
theorem KeepsO.none : KeepsO K .none := trivial
theorem KeepsO.get {x : Option State} {t : State} (e : x = .some t) (h : KeepsO K x) : Keeps K t := by subst e; exact h
theorem KeepsO1.some {α : Type} {t : State × α} (h : Keeps K t.1) : KeepsO1 K (.some t) := h
theorem KeepsO1.none {α : Type} : KeepsO1 (α := α) K .none := trivial
theorem KeepsO1.get {α : Type} {x : Option (State × α)} {t : State × α} (e : x = .some t) (h : KeepsO1 K x) :
    Keeps K t.1 := by subst e; exact h
theorem KeepsO1.get' {α : Type} {x : Option (State × α)} {t : State} {a : α} (e : x = .some (t, a)) (h : KeepsO1 K x) :
    Keeps K t := by subst e; exact h
theorem KeepsO2.some {α : Type} {t : α × State} (h : Keeps K t.2) : KeepsO2 K (.some t) := h
theorem KeepsO2.none {α : Type} : KeepsO2 (α := α) K .none := trivial
theorem KeepsO2.get {α : Type} {x : Option (α × State)} {t : α × State} (e : x = .some t) (h : KeepsO2 K x) :
    Keeps K t.2 := by subst e; exact h
theorem KeepsO2.get' {α : Type} {x : Option (α × State)} {t : State} {a : α} (e : x = .some (a, t)) (h : KeepsO2 K x) :
    Keeps K t := by subst e; exact h
theorem Keeps.getD {x : Option State} {s : State} (hx : KeepsO K x) (h : Keeps K s) : Keeps K (x.getD s) := by
  cases x with
  | none => exact h
  | some t => exact hx
theorem KeepsO1.map {α : Type} {x : Option State} {f : State → State × α} (hx : KeepsO K x)
    (h : ∀ t, Keeps K t → Keeps K (f t).1) : KeepsO1 K (x.map f) := by
  cases x with
  | none => trivial
  | some t => exact h t hx
theorem KeepsO1.map1 {α β : Type} {x : Option (State × α)} {f : State × α → State × β} (hx : KeepsO1 K x)
    (h : ∀ t, Keeps K t.1 → Keeps K (f t).1) : KeepsO1 K (x.map f) := by
  cases x with
  | none => trivial
  | some t => exact h t hx
theorem KeepsO.bind {x : Option State} {f : State → Option State} (hx : KeepsO K x)
    (h : ∀ t, Keeps K t → KeepsO K (f t)) : KeepsO K (x.bind f) := by
  cases x with
  | none => trivial
  | some t => exact h t hx
theorem KeepsO.bindA {α : Type} {x : Option α} {f : α → Option State} (h : ∀ a, KeepsO K (f a)) : KeepsO K (x.bind f) := by
  cases x with
  | none => trivial
  | some a => exact h a
theorem KeepsO.mapA {α : Type} {x : Option α} {f : α → State} (h : ∀ a, Keeps K (f a)) : KeepsO K (x.map f) := by
  cases x with
  | none => trivial
  | some a => exact h a
theorem KeepsO.map {x : Option State} {f : State → State} (hx : KeepsO K x) (h : ∀ t, Keeps K t → Keeps K (f t)) :
    KeepsO K (x.map f) := by
  cases x with
  | none => trivial
  | some t => exact h t hx
theorem KeepsO2.mapA {α β : Type} {x : Option α} {f : α → β × State} (h : ∀ a, Keeps K (f a).2) : KeepsO2 K (x.map f) := by
  cases x with
  | none => trivial
  | some a => exact h a
theorem Keeps.get1 {α : Type} {x : State × α} {t : State} {a : α} (e : x = (t, a)) (h : Keeps K x.1) : Keeps K t := by
  subst e; exact h
theorem Keeps.get2 {α : Type} {x : α × State} {t : State} {a : α} (e : x = (a, t)) (h : Keeps K x.2) : Keeps K t := by
  subst e; exact h

theorem Keeps.foldl {α : Type} {f : State → α → State} {l : List α} {s : State} (h : Keeps K s)
    (H : ∀ u e, Keeps K u → Keeps K (f u e)) : Keeps K (l.foldl f s) := by
  induction l generalizing s with
  | nil => exact h
  | cons a r ih => exact ih (H s a h)
theorem Keeps.foldl1 {α β : Type} {f : State × β → α → State × β} {l : List α} {x : State × β} (h : Keeps K x.1)
    (H : ∀ u e, Keeps K u.1 → Keeps K (f u e).1) : Keeps K (l.foldl f x).1 := by
  induction l generalizing x with
  | nil => exact h
  | cons a r ih => exact ih (H x a h)
theorem Keeps.foldl2 {α β : Type} {f : β × State → α → β × State} {l : List α} {x : β × State} (h : Keeps K x.2)
    (H : ∀ u e, Keeps K u.2 → Keeps K (f u e).2) : Keeps K (l.foldl f x).2 := by
  induction l generalizing x with
  | nil => exact h
  | cons a r ih => exact ih (H x a h)
theorem KeepsO.foldl {α : Type} {f : Option State → α → Option State} {l : List α} {x : Option State} (h : KeepsO K x)
    (H : ∀ u e, KeepsO K u → KeepsO K (f u e)) : KeepsO K (l.foldl f x) := by
  induction l generalizing x with
  | nil => exact h
  | cons a r ih => exact ih (H x a h)
theorem Keeps.foldl3 {α β γ : Type} {f : β × γ × State → α → β × γ × State} {l : List α} {x : β × γ × State}
    (h : Keeps K x.2.2) (H : ∀ u e, Keeps K u.2.2 → Keeps K (f u e).2.2) : Keeps K (l.foldl f x).2.2 := by
  induction l generalizing x with
  | nil => exact h
  | cons a r ih => exact ih (H x a h)
theorem KeepsE.foldlM {α : Type} {f : State → α → Except Stop State} {l : List α} {s : State} (h : Keeps K s)
    (H : ∀ u e, Keeps K u → KeepsE K (f u e)) : KeepsE K (l.foldlM f s) := by
  induction l generalizing s with
  | nil => exact h
  | cons a r ih =>
    rw [List.foldlM_cons]
    exact KeepsE.bindS (H s a h) fun t ht => ih ht

end Sys2Proof.Machine
end

