-- ==== Sys2Proof/Laws/KeepsBase.lean ====
section
/-! SUPPORT. What the operations on tables, memories, banks, flits, signals, pools and stops keep, as `Keeps` says it: one lemma for each operation. -/

namespace Sys2Proof.Machine

variable {K : Kept}

theorem keeps_hwrite (s : State) (a : Nat) (bs : List Byte) (h0 : Keeps K s) : Keeps K (hwrite s a bs) := by
  unfold hwrite
  split
  · exact h0
  · exact K4.hosted (memWf_mwriteN _ _ _) h0

theorem keeps_putF (s : State) (d : Nat) (f : Flight) (h0 : Keeps K s) :
    Keeps K (putF s d f) :=
  h0

theorem keeps_delF (s : State) (d : Nat) (h0 : Keeps K s) :
    Keeps K (delF s d) :=
  h0

theorem keeps_endF (s : State) (d : Nat) (st : Nat) (extra : Nat) (h0 : Keeps K s) :
    Keeps K (endF s d st extra) := by
  unfold endF
  repeat' (first
    | with_reducible assumption
    | with_reducible apply keeps_putF
    | split)

theorem keeps_refuseF (s : State) (d : Nat) (r : Nat) (h0 : Keeps K s) :
    Keeps K (refuseF s d r) := by
  unfold refuseF
  repeat' (first
    | with_reducible assumption
    | with_reducible apply keeps_endF)

theorem keeps_takeByte (s : State) (h0 : Keeps K s) :
    Keeps K (takeByte s).2 :=
  h0

theorem keeps_takeNat (s : State) (h0 : Keeps K s) :
    Keeps K (takeNat s).2 :=
  h0

theorem keeps_takeBytes (s : State) (n : Nat) (h0 : Keeps K s) :
    Keeps K (takeBytes s n).2 :=
  h0

theorem keeps_putFn (s : State) (fn : Nat) (x : FnState) (h0 : Keeps K s) :
    Keeps K (putFn s fn x) :=
  h0

theorem keeps_putQ (s : State) (q : Nat) (x : QCtx) (h0 : Keeps K s) :
    Keeps K (putQ s q x) :=
  h0

theorem keeps_putP (s : State) (p : Nat) (x : Part) (hm : Sub 524288 K) (h0 : Keeps K s) :
    Keeps K (putP s p x) := by
  unfold putP
  repeat' (first
    | with_reducible assumption
    | exact hm.le rfl
    | (unfold Keeps; dsimp only; with_reducible (apply K4.s19 (hm.bit rfl); apply Keeps.fold)))

theorem keeps_putSlot (s : State) (i : Nat) (x : Slot) (hm : Sub 8 K) (h0 : Keeps K s) :
    Keeps K (putSlot s i x) := by
  unfold putSlot
  repeat' (first
    | with_reducible assumption
    | exact hm.le rfl
    | (unfold Keeps; dsimp only; with_reducible (apply K4.s3 (hm.bit rfl); apply Keeps.fold)))

theorem keeps_putPool (s : State) (p : Nat) (x : Pool) (hm : Sub 8 K) (h0 : Keeps K s) :
    Keeps K (putPool s p x) := by
  unfold putPool
  repeat' (first
    | with_reducible assumption
    | exact hm.le rfl
    | (unfold Keeps; dsimp only; with_reducible (apply K4.s3 (hm.bit rfl); apply Keeps.fold)))

theorem keeps_putPort (s : State) (p : Nat) (x : Port) (hm : Sub 1048576 K) (h0 : Keeps K s) :
    Keeps K (putPort s p x) := by
  unfold putPort
  repeat' (first
    | with_reducible assumption
    | exact hm.le rfl
    | (unfold Keeps; dsimp only; with_reducible (apply K4.s20 (hm.bit rfl); apply Keeps.fold)))

theorem keeps_putCore (s : State) (c : Nat) (x : CoreSt) (h0 : Keeps K s) :
    Keeps K (putCore s c x) :=
  h0

theorem keeps_putBind (s : State) (c : Nat) (x : Binding) (hm : Sub 65536 K) (h0 : Keeps K s) :
    Keeps K (putBind s c x) := by
  unfold putBind
  repeat' (first
    | with_reducible assumption
    | exact hm.le rfl
    | (unfold Keeps; dsimp only; with_reducible (apply K4.s16 (hm.bit rfl); apply Keeps.fold)))

theorem keeps_putSite (s : State) (c : Nat) (x : Site) (h0 : Keeps K s) :
    Keeps K (putSite s c x) :=
  h0

theorem keeps_putBundle (s : State) (b : Nat) (x : Bundle) (hm : Sub 262144 K) (h0 : Keeps K s) :
    Keeps K (putBundle s b x) := by
  unfold putBundle
  repeat' (first
    | with_reducible assumption
    | exact hm.le rfl
    | (unfold Keeps; dsimp only; with_reducible (apply K4.s18 (hm.bit rfl); apply Keeps.fold)))

theorem keeps_putKeys (s : State) (p : Nat) (x : PartKeys) (hm : Sub 128 K) (h0 : Keeps K s) :
    Keeps K (putKeys s p x) := by
  unfold putKeys
  repeat' (first
    | with_reducible assumption
    | exact hm.le rfl
    | (unfold Keeps; dsimp only; with_reducible (apply K4.s7 (hm.bit rfl); apply Keeps.fold)))

theorem keeps_putRec (s : State) (i : Nat) (x : Rec) (hm : Sub 2097152 K) (h0 : Keeps K s) :
    Keeps K (putRec s i x) := by
  unfold putRec
  repeat' (first
    | with_reducible assumption
    | exact hm.le rfl
    | (unfold Keeps; dsimp only; with_reducible (apply K4.s21 (hm.bit rfl); apply Keeps.fold)))

theorem keeps_putStored (s : State) (i : Nat) (hm : Sub 2097152 K) (h0 : Keeps K s) :
    Keeps K (putStored s i) := by
  unfold putStored
  repeat' (first
    | with_reducible assumption
    | exact hm.le rfl
    | with_reducible apply keeps_putRec)

theorem keeps_putOlder (s : State) (f : Older → Older) (h0 : Keeps K s) :
    Keeps K (putOlder s f) :=
  h0

theorem keeps_putFw (s : State) (i : Nat) (x : FwType) (hm : Sub 2048 K) (h0 : Keeps K s) :
    Keeps K (putFw s i x) := by
  unfold putFw
  repeat' (first
    | with_reducible assumption
    | exact hm.le rfl
    | (unfold Keeps; dsimp only; with_reducible (apply K4.s11 (hm.bit rfl); apply Keeps.fold)))

theorem keeps_putTower (s : State) (t : Nat) (x : Tower) (hm : Sub 8192 K) (h0 : Keeps K s) :
    Keeps K (putTower s t x) := by
  unfold putTower
  repeat' (first
    | with_reducible assumption
    | exact hm.le rfl
    | split
    | (unfold Keeps; dsimp only; with_reducible (apply K4.s13 (hm.bit rfl); apply Keeps.fold)))

theorem keeps_bankEntry (late open_ : Bool) (acc : List BankSec × List Byte × State) (x : Section) (h0 : Keeps K acc.2.2) :
    Keeps K (bankEntry late open_ acc x).2.2 := by
  unfold bankEntry
  dsimp only
  apply keeps_takeBytes
  split
  · exact keeps_takeNat _ h0
  · exact h0

theorem keeps_latch (s : State) (scope : Nat) (source : Nat) (detail : List Nat) (h0 : Keeps K s) :
    Keeps K (latch s scope source detail) := by
  unfold latch
  split
  · exact h0
  · exact Keeps.foldl3 (x := (_, _, _)) h0 fun u e hu => keeps_bankEntry _ _ _ _ hu

theorem keeps_equinox (s : State) (scope : Nat) (source : Nat) (detail : List Nat) (h0 : Keeps K s) :
    Keeps K (equinox s scope source detail) := by
  unfold equinox
  try dsimp only
  repeat' (first
    | with_reducible assumption
    | with_reducible apply keeps_latch
    | intro _
    | split
    | (unfold Keeps; dsimp only; with_reducible (apply Keeps.fold)))

theorem keeps_ringWrite (s : State) (r : LogRec) (h0 : Keeps K s) :
    Keeps K (ringWrite s r) := by
  unfold ringWrite
  repeat' (first
    | with_reducible assumption
    | with_reducible apply keeps_hwrite
    | split
    | (unfold Keeps; dsimp only; with_reducible (apply Keeps.fold)))

theorem keeps_ringDrain (s : State) (h0 : Keeps K s) :
    Keeps K (ringDrain s) := by
  unfold ringDrain
  repeat' (first
    | with_reducible assumption
    | with_reducible apply keeps_ringWrite
    | with_reducible refine Keeps.foldl ?_ ?_)

theorem keeps_deliver (s : State) (r : LogRec) (h0 : Keeps K s) :
    Keeps K (deliver s r) := by
  unfold deliver
  repeat' (first
    | with_reducible assumption
    | with_reducible apply keeps_endF
    | with_reducible apply keeps_hwrite
    | split
    | (unfold Keeps; dsimp only; with_reducible (apply Keeps.fold)))

theorem keeps_appendRec (s : State) (r0 : LogRec) (h0 : Keeps K s) :
    Keeps K (appendRec s r0) := by
  unfold appendRec
  repeat' (first
    | with_reducible assumption
    | with_reducible apply keeps_deliver
    | with_reducible apply keeps_ringWrite
    | with_reducible apply keeps_equinox
    | split
    | (unfold Keeps; dsimp only; with_reducible (apply Keeps.fold)))

theorem keeps_emit (s : State) (cls : Nat) (ev : Nat) (w : Who) (payload : List PField) (h0 : Keeps K s) :
    Keeps K (emit s cls ev w payload) := by
  unfold emit
  repeat' (first
    | with_reducible assumption
    | with_reducible apply keeps_appendRec
    | split
    | (unfold Keeps; dsimp only; with_reducible (apply Keeps.fold)))

theorem keeps_appendHeld (s : State) (h0 : Keeps K s) :
    Keeps K (appendHeld s) := by
  unfold appendHeld
  repeat' (first
    | with_reducible assumption
    | with_reducible apply keeps_appendRec
    | with_reducible refine Keeps.foldl ?_ ?_
    | (unfold Keeps; dsimp only; with_reducible (apply Keeps.fold)))

theorem keeps_claimGrain (s : State) (p : Nat) (pa : Nat) (h0 : Keeps K s) :
    Keeps K (claimGrain s p pa) := by
  unfold claimGrain
  repeat' (first
    | with_reducible assumption
    | split
    | (unfold Keeps; dsimp only; with_reducible (apply Keeps.fold)))

theorem keeps_pwrite (s : State) (pa : Nat) (bs : List Byte) (hm : Sub 3 K) (h0 : Keeps K s) : Keeps K (pwrite s pa bs) :=
  K4.s0 (hm.bit rfl) (memWf_mwriteN _ _ _) (K4.s1 (hm.bit rfl) h0)

theorem keeps_pwritePoison (s : State) (c : Nat) (hm : Sub 2 K) (h0 : Keeps K s) :
    Keeps K (pwritePoison s c) := by
  unfold pwritePoison
  repeat' (first
    | with_reducible assumption
    | exact hm.le rfl
    | split
    | (unfold Keeps; dsimp only; with_reducible (apply K4.s1 (hm.bit rfl); apply Keeps.fold)))

theorem keeps_pzero (s : State) (pa n : Nat) (hm : Sub 3 K) (h0 : Keeps K s) : Keeps K (pzero s pa n) :=
  K4.s0 (hm.bit rfl) (memWf_filter _ _) (K4.s1 (hm.bit rfl) h0)

theorem keeps_noteBehind (s : State) (line : Nat) (h0 : Keeps K s) :
    Keeps K (noteBehind s line) := by
  unfold noteBehind
  repeat' (first
    | with_reducible assumption
    | split
    | (unfold Keeps; dsimp only; with_reducible (apply Keeps.fold)))

theorem keeps_writeBack (s : State) (t : Nat → Sector → Bool) (h0 : Keeps K s) :
    Keeps K (writeBack s t) :=
  h0

theorem keeps_loseDirty (s : State) (t : Nat → Sector → Bool) (hm : Sub 3 K) (h0 : Keeps K s) :
    Keeps K (loseDirty s t) := by
  unfold loseDirty
  repeat' (first
    | with_reducible assumption
    | exact hm.le rfl
    | with_reducible apply keeps_pwrite
    | with_reducible refine Keeps.foldl ?_ ?_
    | intro _
    | split
    | (unfold Keeps; dsimp only; with_reducible (apply Keeps.fold)))

theorem keeps_undefineLine (s : State) (line : Nat) (hm : Sub 3 K) (h0 : Keeps K s) :
    Keeps K (undefineLine s line) := by
  unfold undefineLine
  repeat' (first
    | with_reducible assumption
    | exact hm.le rfl
    | with_reducible apply keeps_pwrite
    | with_reducible apply keeps_takeNat
    | with_reducible refine Keeps.foldl ?_ ?_
    | intro _
    | (unfold Keeps; dsimp only; with_reducible (apply Keeps.fold)))

theorem keeps_touchWay (s : State) (t : Nat) (p : Nat) (blk : Nat) (w : Nat) (h0 : Keeps K s) :
    Keeps K (touchWay s t p blk w) :=
  h0

theorem keeps_allocate (s : State) (t : Nat) (p : Nat) (blk : Nat) (valid : Nat) (dirty : Nat) (keep : Bool) (h0 : Keeps K s) :
    Keeps K (allocate s t p blk valid dirty keep) := by
  unfold allocate
  repeat' (first
    | with_reducible assumption
    | with_reducible apply keeps_touchWay
    | with_reducible apply keeps_writeBack
    | split
    | (unfold Keeps; dsimp only; with_reducible (apply Keeps.fold)))

theorem keeps_cacheLine (s0 : State) (p : Nat) (pa : Nat) (write : Bool) (hint0 : Nat) (h0 : Keeps K s0) :
    Keeps K (cacheLine s0 p pa write hint0).1 := by
  unfold cacheLine
  repeat' (first
    | with_reducible assumption
    | with_reducible apply keeps_allocate
    | with_reducible apply keeps_touchWay
    | with_reducible apply keeps_noteBehind
    | split
    | (unfold Keeps; dsimp only; with_reducible (apply Keeps.fold)))

theorem keeps_putBg (s : State) (key : Nat) (x : BankGroup) (h0 : Keeps K s) :
    Keeps K (putBg s key x) :=
  h0

theorem keeps_sendPair (s : State) (p : Nat) (a : FlitBody) (b : FlitBody) (hm : Sub 1048576 K) (h0 : Keeps K s) :
    Keeps K (sendPair s p a b) := by
  unfold sendPair
  repeat' (first
    | with_reducible assumption
    | exact hm.le rfl
    | with_reducible apply keeps_putPort
    | (unfold Keeps; dsimp only; with_reducible (apply K4.s20 (hm.bit rfl); apply Keeps.fold)))

theorem keeps_sendFlits (s : State) (p : Nat) (l : List FlitBody) (hm : Sub 1048576 K) (h0 : Keeps K s) :
    Keeps K (sendFlits s p l) := by
  fun_induction sendFlits s p l with
  | case1 => exact h0
  | case2 s a => exact keeps_sendPair s p a idleBody hm h0
  | case3 s a b r ih => exact ih (keeps_sendPair s p a b hm h0)

theorem keeps_resendFlits (s : State) (p : Nat) (hm : Sub 1048576 K) (h0 : Keeps K s) :
    Keeps K (resendFlits s p) := by
  unfold resendFlits
  repeat' (first
    | with_reducible assumption
    | exact hm.le rfl
    | (unfold Keeps; dsimp only; with_reducible (apply K4.s20 (hm.bit rfl); apply Keeps.fold)))

theorem keeps_putOn (s : State) (p : Nat) (m : RemMsg) (hm : Sub 1048576 K) (h0 : Keeps K s) :
    Keeps K (putOn s p m) := by
  unfold putOn
  repeat' (first
    | with_reducible assumption
    | exact hm.le rfl
    | with_reducible apply keeps_sendFlits
    | with_reducible apply keeps_putPort
    | (unfold Keeps; dsimp only; with_reducible (apply K4.s20 (hm.bit rfl); apply Keeps.fold)))

theorem keeps_trySend (s : State) (n : Nat) (hm : Sub 1048576 K) (h0 : Keeps K s) :
    Keeps K (trySend s n) := by
  unfold trySend
  repeat' (first
    | with_reducible assumption
    | exact hm.le rfl
    | with_reducible apply keeps_putOn
    | split
    | (unfold Keeps; dsimp only; with_reducible (apply K4.s20 (hm.bit rfl); apply Keeps.fold)))

theorem keeps_request (s : State) (desc : Nat) (p : Nat) (slot : Nat) (type : Nat) (cls : Nat) (kind : Nat) (local_ : Nat) (offset : Nat) (op : Nat) (format : Nat) (increment : Nat) (data : List Byte) (status : optParam Nat 0) (hm : Sub 1048576 K) (h0 : Keeps K s) :
    Keeps K (request s desc p slot type cls kind local_ offset op format increment data status) := by
  unfold request
  repeat' (first
    | with_reducible assumption
    | exact hm.le rfl
    | with_reducible apply keeps_trySend
    | split
    | (unfold Keeps; dsimp only; with_reducible (apply K4.s20 (hm.bit rfl); apply Keeps.fold)))

theorem keeps_vwrite (s : State) (cx : Cx) (va : Nat) (bs : List Byte) (bad : optParam (List Nat) []) (hm : Sub 1048579 K) (h0 : Keeps K s) :
    KeepsE K (vwrite s cx va bs bad) := by
  unfold vwrite
  dsimp only
  repeat' (first
    | with_reducible assumption
    | exact hm.le rfl
    | with_reducible apply keeps_request
    | with_reducible apply keeps_pwrite
    | with_reducible refine Keeps.foldl ?_ ?_
    | with_reducible apply KeepsE.ok
    | with_reducible apply KeepsE.error
    | intro _
    | split)

theorem keeps_stopWith (s : State) (d : Nat) (x : Stop) (extra : optParam Nat 0) (hm : Sub 1048584 K) (h0 : Keeps K s) :
    Keeps K (stopWith s d x extra) := by
  unfold stopWith
  dsimp only
  repeat' (first
    | with_reducible assumption
    | exact hm.le rfl
    | with_reducible apply keeps_request
    | with_reducible apply keeps_emit
    | with_reducible apply keeps_putPool
    | with_reducible apply keeps_endF
    | with_reducible apply keeps_putF
    | split)

theorem keeps_withOp (s : State) (d : Nat) (op : Nat) (k : Flight → State) (h0 : Keeps K s) (hk : ∀ x, Keeps K (k x)) :
    Keeps K (withOp s d op k) := by
  unfold withOp
  repeat' (first
    | with_reducible assumption
    | apply hk
    | split)

theorem keeps_finishE (s : State) (d : Nat) (extra : Nat) (a3 : Except Stop State) (hm : Sub 1048584 K) (h0 : Keeps K s) (he : KeepsE K a3) :
    Keeps K (finishE s d extra a3) := by
  unfold finishE
  repeat' (first
    | with_reducible assumption
    | exact hm.le rfl
    | with_reducible apply keeps_stopWith
    | with_reducible apply keeps_endF
    | exact he
    | split)

theorem keeps_touchRead (s : State) (cx : Cx) (t : Tensor) (hm : Sub 3 K) (h0 : Keeps K s) :
    Keeps K (touchRead s cx t) := by
  unfold touchRead
  repeat' (first
    | with_reducible assumption
    | exact hm.le rfl
    | with_reducible apply keeps_cacheLine
    | with_reducible apply keeps_undefineLine
    | with_reducible refine Keeps.foldl ?_ ?_
    | intro _
    | split)

theorem keeps_vwriteH (s : State) (cx : Cx) (hint : Nat) (va : Nat) (bs : List Byte) (bad : optParam (List Nat) []) (hm : Sub 1048579 K) (h0 : Keeps K s) :
    KeepsE K (vwriteH s cx hint va bs bad) := by
  unfold vwriteH
  repeat' (first
    | with_reducible assumption
    | exact hm.le rfl
    | with_reducible apply keeps_vwrite
    | with_reducible apply keeps_cacheLine
    | with_reducible refine Keeps.foldl ?_ ?_
    | intro _)

theorem keeps_vwriteP (s : State) (cx : Cx) (hint : Nat) (va : Nat) (bs : List (Byte × Bool)) (hm : Sub 1048579 K) (h0 : Keeps K s) :
    KeepsE K (vwriteP s cx hint va bs) := by
  unfold vwriteP
  repeat' (first
    | with_reducible assumption
    | exact hm.le rfl
    | with_reducible apply keeps_vwriteH
    | with_reducible apply keeps_pwritePoison
    | with_reducible refine Keeps.foldl ?_ ?_
    | with_reducible refine KeepsE.map ?_ ?_
    | intro _
    | split)

theorem keeps_foldE {α : Type} (f : State → α → Except Stop State) (s : State) (l : List α) (h0 : Keeps K s)
    (H : ∀ u a, Keeps K u → KeepsE K (f u a)) : KeepsE K (foldE f s l) := by
  induction l generalizing s with
  | nil => exact h0
  | cons a r ih =>
    unfold foldE
    split
    · trivial
    · next t e => exact ih t (KeepsE.get e (H s a h0))

theorem keeps_writeRowsP (s : State) (cx : Cx) (t : Tensor) (rows : List (List (Byte × Bool))) (hm : Sub 1048579 K) (h0 : Keeps K s) :
    KeepsE K (writeRowsP s cx t rows) := by
  unfold writeRowsP
  repeat' (first
    | with_reducible assumption
    | with_reducible refine keeps_foldE _ _ _ ?_ ?_
    | exact hm.le rfl
    | with_reducible apply keeps_vwriteP
    | intro _)

theorem keeps_writeCodes (s : State) (cx : Cx) (t : Tensor) (codes : List Nat) (hm : Sub 1048579 K) (h0 : Keeps K s) :
    KeepsE K (writeCodes s cx t codes) := by
  unfold writeCodes
  repeat' (first
    | with_reducible assumption
    | with_reducible refine keeps_foldE _ _ _ ?_ ?_
    | exact hm.le rfl
    | with_reducible apply keeps_vwriteH
    | intro _)

theorem keeps_writeF32 (s : State) (cx : Cx) (t : Tensor) (sat : Bool) (key : Option GenKey) (xs : List Nat) (hm : Sub 1048579 K) (h0 : Keeps K s) :
    KeepsE K (writeF32 s cx t sat key xs) := by
  unfold writeF32
  dsimp only
  repeat' (first
    | with_reducible assumption
    | with_reducible refine keeps_foldE _ _ _ ?_ ?_
    | exact hm.le rfl
    | with_reducible apply keeps_writeCodes
    | with_reducible apply keeps_vwriteH
    | with_reducible apply KeepsE.error
    | intro _
    | split
    | (refine KeepsE.get (by assumption) ?_))

theorem keeps_writeFree (s : State) (cx : Cx) (t : Tensor) (hm : Sub 1048579 K) (h0 : Keeps K s) :
    KeepsE K (writeFree s cx t) := by
  unfold writeFree
  dsimp only
  repeat' (first
    | with_reducible assumption
    | with_reducible refine keeps_foldE _ _ _ ?_ ?_
    | exact hm.le rfl
    | with_reducible apply keeps_vwriteH
    | with_reducible apply keeps_takeBytes
    | with_reducible apply KeepsE.ok
    | with_reducible apply KeepsE.error
    | intro _
    | split
    | (refine KeepsE.get (by assumption) ?_))

theorem keeps_writeParts (s : State) (cx : Cx) (t : Tensor) (sat : Bool) (key : Option GenKey) (keep : Nat → Bool) (xs : List Nat) (hm : Sub 1048579 K) (h0 : Keeps K s) :
    KeepsE K (writeParts s cx t sat key keep xs) := by
  unfold writeParts
  dsimp only
  repeat' (first
    | with_reducible assumption
    | with_reducible refine keeps_foldE _ _ _ ?_ ?_
    | exact hm.le rfl
    | with_reducible apply keeps_vwriteH
    | with_reducible apply KeepsE.ok
    | with_reducible apply KeepsE.error
    | intro _
    | split
    | (refine KeepsE.get (by assumption) ?_))

theorem keeps_counterTrigger (s : State) (p : Nat) (c : Nat) (h0 : Keeps K s) :
    Keeps K (counterTrigger s p c) := by
  unfold counterTrigger
  repeat' (first
    | with_reducible assumption
    | with_reducible apply keeps_equinox
    | split
    | (unfold Keeps; dsimp only; with_reducible (apply Keeps.fold)))

theorem keeps_notifyWatches (s : State) (p : Nat) (c : Nat) (hm : Sub 16384 K) (h0 : Keeps K s) :
    Keeps K (notifyWatches s p c) := by
  unfold notifyWatches
  repeat' (first
    | with_reducible assumption
    | exact fun _ h => h
    | exact hm.le rfl
    | split
    | (unfold Keeps; dsimp only; with_reducible (refine K4.s14 (hm.bit rfl) (Keeps.fold ?_) ?_)))

theorem keeps_addCounter (s : State) (p : Nat) (c : Nat) (n : Nat) (by_ : Option Nat) (hm : Sub 540688 K) (h0 : Keeps K s) :
    Keeps K (addCounter s p c n by_).1 := by
  unfold addCounter
  repeat' (first
    | with_reducible assumption
    | exact hm.le rfl
    | with_reducible apply keeps_notifyWatches
    | with_reducible apply keeps_counterTrigger
    | with_reducible apply keeps_emit
    | with_reducible apply keeps_putP
    | split
    | (unfold Keeps; dsimp only; with_reducible (apply K4.s4 (hm.bit rfl); apply Keeps.fold)))

theorem keeps_headerSignal (s : State) (d : Nat) (f : Flight) (hm : Sub 540688 K) (h0 : Keeps K s) :
    Keeps K (headerSignal s d f) := by
  unfold headerSignal
  dsimp only
  repeat' (first
    | with_reducible assumption
    | exact hm.le rfl
    | with_reducible apply keeps_addCounter
    | with_reducible apply keeps_endF
    | split)

theorem keeps_takeTable (s : State) (p : Nat) (hm : Sub 3 K) (h0 : Keeps K s) :
    KeepsO2 K (takeTable s p) := by
  unfold takeTable
  repeat' (first
    | with_reducible assumption
    | exact hm.le rfl
    | with_reducible apply keeps_pzero
    | with_reducible apply KeepsO2.some
    | with_reducible apply KeepsO2.none
    | with_reducible apply KeepsO2.none
    | with_reducible apply KeepsO2.some
    | split
    | (unfold Keeps; dsimp only; with_reducible (apply Keeps.fold)))

theorem keeps_freeTable (s : State) (p : Nat) (table : Nat) (h0 : Keeps K s) :
    Keeps K (freeTable s p table) :=
  h0

theorem keeps_putPte (s : State) (table : Nat) (va : Nat) (l : Nat) (e : Nat) (hm : Sub 3 K) (h0 : Keeps K s) :
    Keeps K (putPte s table va l e) := by
  unfold putPte
  repeat' (first
    | with_reducible assumption
    | exact hm.le rfl
    | with_reducible apply keeps_pwrite)

theorem keeps_setLeaf (s : State) (p : Nat) (va : Nat) (target : Nat) (e : Nat) (table : Nat) (a6 : Nat) (hm : Sub 3 K) (h0 : Keeps K s) :
    KeepsO K (setLeaf s p va target e table a6) := by
  induction a6 generalizing s table with
  | zero =>
    unfold setLeaf
    try dsimp only
    repeat' (first
      | with_reducible assumption
      | exact hm.le rfl
      | with_reducible apply keeps_putPte
      | with_reducible apply keeps_takeTable
      | with_reducible apply KeepsO.some
      | with_reducible apply KeepsO.none
      | intro _
      | split
      | (refine KeepsO2.get' (by assumption) ?_))
  | succ n ih =>
    unfold setLeaf
    try dsimp only
    repeat' (first
      | with_reducible apply ih
      | with_reducible assumption
      | exact hm.le rfl
      | with_reducible apply keeps_putPte
      | with_reducible apply keeps_takeTable
      | with_reducible apply KeepsO.some
      | with_reducible apply KeepsO.none
      | intro _
      | split
      | (refine KeepsO2.get' (by assumption) ?_))

theorem keeps_mapLeaf (s : State) (p : Nat) (va : Nat) (target : Nat) (e : Nat) (hm : Sub 7 K) (h0 : Keeps K s) :
    KeepsO K (mapLeaf s p va target e) := by
  unfold mapLeaf
  dsimp only
  repeat' (first
    | with_reducible assumption
    | exact hm.le rfl
    | with_reducible apply keeps_setLeaf
    | with_reducible apply keeps_takeTable
    | with_reducible apply KeepsO.none
    | split
    | (refine KeepsO2.get' (by assumption) ?_)
    | (unfold Keeps; dsimp only; with_reducible (apply K4.s2 (hm.bit rfl); apply Keeps.fold)))

theorem keeps_clearLeaf (s : State) (p : Nat) (va : Nat) (table : Nat) (a4 : Nat) (hm : Sub 3 K) (h0 : Keeps K s) :
    Keeps K (clearLeaf s p va table a4) := by
  induction a4 generalizing s table with
  | zero =>
    unfold clearLeaf
    try dsimp only
    repeat' (first
      | with_reducible assumption
      | exact hm.le rfl
      | with_reducible apply keeps_putPte
      | with_reducible apply keeps_freeTable
      | intro _
      | split)
  | succ n ih =>
    unfold clearLeaf
    try dsimp only
    repeat' (first
      | with_reducible apply ih
      | with_reducible assumption
      | exact hm.le rfl
      | with_reducible apply keeps_putPte
      | with_reducible apply keeps_freeTable
      | intro _
      | split)

theorem keeps_dropTlb (s : State) (p : Nat) (vpn : Nat) (h0 : Keeps K s) :
    Keeps K (dropTlb s p vpn) :=
  h0

theorem keeps_unmapLeaf (s : State) (p : Nat) (va : Nat) (hm : Sub 7 K) (h0 : Keeps K s) :
    Keeps K (unmapLeaf s p va) := by
  unfold unmapLeaf
  repeat' (first
    | with_reducible assumption
    | exact hm.le rfl
    | with_reducible apply keeps_dropTlb
    | with_reducible apply keeps_clearLeaf
    | with_reducible apply keeps_freeTable
    | split
    | (unfold Keeps; dsimp only; with_reducible (apply K4.s2 (hm.bit rfl); apply Keeps.fold)))

theorem keeps_reportRange (s : State) (lo : Nat) (hi : Nat) (h0 : Keeps K s) :
    Keeps K (reportRange s lo hi) := by
  unfold reportRange
  dsimp only
  repeat' (first
    | with_reducible assumption
    | with_reducible apply keeps_emit
    | with_reducible refine Keeps.foldl ?_ ?_
    | intro _
    | split)

theorem keeps_setFrame (s : State) (p : Nat) (i : Nat) (x : KvFrame) (hm : Sub 8 K) (h0 : Keeps K s) :
    Keeps K (setFrame s p i x) := by
  unfold setFrame
  repeat' (first
    | with_reducible assumption
    | exact hm.le rfl
    | with_reducible apply keeps_putPool)

theorem keeps_watermarks (s : State) (p : Nat) (hm : Sub 8 K) (h0 : Keeps K s) :
    Keeps K (watermarks s p) := by
  unfold watermarks
  dsimp only
  repeat' (first
    | with_reducible assumption
    | exact hm.le rfl
    | with_reducible apply keeps_emit
    | with_reducible apply keeps_putPool
    | split)

theorem keeps_takeFrame (s : State) (p : Nat) (i : Nat) (hm : Sub 11 K) (h0 : Keeps K s) :
    Keeps K (takeFrame s p i) := by
  unfold takeFrame
  repeat' (first
    | with_reducible assumption
    | exact hm.le rfl
    | with_reducible apply keeps_watermarks
    | with_reducible apply keeps_setFrame
    | with_reducible apply keeps_pzero
    | split)

theorem keeps_derefFrame (s : State) (p : Nat) (i : Nat) (hm : Sub 8 K) (h0 : Keeps K s) :
    Keeps K (derefFrame s p i) := by
  unfold derefFrame
  dsimp only
  repeat' (first
    | with_reducible assumption
    | exact hm.le rfl
    | with_reducible apply keeps_watermarks
    | with_reducible apply keeps_setFrame
    | split)

theorem keeps_mapPage (s : State) (p : Nat) (slot : Nat) (key : Nat) (g : KvPage) (hm : Sub 15 K) (h0 : Keeps K s) :
    KeepsO K (mapPage s p slot key g) := by
  unfold mapPage
  dsimp only
  repeat' (first
    | with_reducible assumption
    | exact hm.le rfl
    | with_reducible apply keeps_dropTlb
    | with_reducible apply keeps_mapLeaf
    | with_reducible apply keeps_putSlot
    | with_reducible apply KeepsO.some
    | with_reducible apply KeepsO.none
    | split
    | (refine KeepsO.get (by assumption) ?_))

theorem keeps_putScore (s : State) (p : Nat) (slot : Nat) (key : Nat) (v : Nat) (hm : Sub 3 K) (h0 : Keeps K s) :
    Keeps K (putScore s p slot key v) := by
  unfold putScore
  repeat' (first
    | with_reducible assumption
    | exact hm.le rfl
    | with_reducible apply keeps_pwrite
    | split)

theorem keeps_mapThinLeaf (s : State) (p : Nat) (slot : Nat) (tp : Nat) (i : Nat) (hm : Sub 15 K) (h0 : Keeps K s) :
    KeepsO K (mapThinLeaf s p slot tp i) := by
  unfold mapThinLeaf
  repeat' (first
    | with_reducible assumption
    | exact hm.le rfl
    | with_reducible apply keeps_dropTlb
    | with_reducible apply keeps_mapLeaf
    | with_reducible apply keeps_putSlot
    | with_reducible refine KeepsO.map ?_ ?_
    | intro _)

theorem keeps_mapThinPage (s : State) (p : Nat) (slot : Nat) (tp : Nat) (i : Nat) (hm : Sub 15 K) (h0 : Keeps K s) :
    KeepsO K (mapThinPage s p slot tp i) := by
  unfold mapThinPage
  repeat' (first
    | with_reducible assumption
    | exact hm.le rfl
    | with_reducible apply keeps_mapThinLeaf
    | with_reducible apply keeps_takeFrame)

theorem keeps_mapThin (s : State) (p : Nat) (slot : Nat) (key : Nat) (hm : Sub 15 K) (h0 : Keeps K s) :
    KeepsE K (mapThin s p slot key) := by
  unfold mapThin
  dsimp only
  repeat' (first
    | with_reducible assumption
    | exact hm.le rfl
    | with_reducible apply keeps_mapThinPage
    | with_reducible apply keeps_putScore
    | with_reducible apply KeepsE.ok
    | with_reducible apply KeepsE.error
    | split
    | (refine KeepsO.get (by assumption) ?_))

theorem keeps_unmapThin (s : State) (p : Nat) (slot : Nat) (tp : Nat) (hm : Sub 15 K) (h0 : Keeps K s) :
    Keeps K (unmapThin s p slot tp) := by
  unfold unmapThin
  repeat' (first
    | with_reducible assumption
    | exact hm.le rfl
    | with_reducible apply keeps_derefFrame
    | with_reducible apply keeps_unmapLeaf
    | with_reducible apply keeps_putSlot
    | split)

theorem keeps_unmapPage (s : State) (p : Nat) (slot : Nat) (key : Nat) (hm : Sub 15 K) (h0 : Keeps K s) :
    Keeps K (unmapPage s p slot key) := by
  unfold unmapPage
  dsimp only
  repeat' (first
    | with_reducible assumption
    | exact hm.le rfl
    | with_reducible apply keeps_unmapThin
    | with_reducible apply keeps_derefFrame
    | with_reducible apply keeps_unmapLeaf
    | with_reducible apply keeps_putSlot
    | split)

theorem keeps_copyFrame (s : State) (src : Nat) (dst : Nat) (n : Nat) (hm : Sub 3 K) (h0 : Keeps K s) :
    Keeps K (copyFrame s src dst n).1 := by
  unfold copyFrame
  repeat' (first
    | with_reducible assumption
    | exact hm.le rfl
    | with_reducible apply keeps_pwritePoison
    | with_reducible apply keeps_pwrite
    | with_reducible refine Keeps.foldl ?_ ?_
    | intro _)

theorem keeps_fillFrame (s : State) (cx : Cx) (i : Nat) (bs : List (Byte × Bool)) (hm : Sub 1048579 K) (h0 : Keeps K s) :
    Keeps K (fillFrame s cx i bs) := by
  unfold fillFrame
  dsimp only
  repeat' (first
    | with_reducible assumption
    | exact hm.le rfl
    | with_reducible apply keeps_request
    | with_reducible apply keeps_pwritePoison
    | with_reducible apply keeps_pwrite
    | with_reducible refine Keeps.foldl ?_ ?_
    | intro _
    | split)

theorem keeps_markEve (s : State) (p : Nat) (i : Nat) (e : Bool) (hm : Sub 8 K) (h0 : Keeps K s) :
    Keeps K (markEve s p i e) := by
  unfold markEve
  repeat' (first
    | with_reducible assumption
    | exact hm.le rfl
    | with_reducible apply keeps_setFrame)

theorem keeps_stagePage (s : State) (cx : Cx) (slot : Nat) (key : Nat) (bs : List (Byte × Bool)) (hm : Sub 1048591 K) (h0 : Keeps K s) :
    KeepsE K (stagePage s cx slot key bs) := by
  unfold stagePage
  dsimp only
  repeat' (first
    | with_reducible assumption
    | exact hm.le rfl
    | with_reducible apply keeps_fillFrame
    | with_reducible apply keeps_mapPage
    | with_reducible apply keeps_takeFrame
    | with_reducible apply KeepsE.ok
    | with_reducible apply KeepsE.error
    | split
    | (refine KeepsO.get (by assumption) ?_))

theorem keeps_newPage (s : State) (cx : Cx) (slot : Nat) (key : Nat) (hm : Sub 1048591 K) (h0 : Keeps K s) :
    KeepsE K (newPage s cx slot key) := by
  unfold newPage
  dsimp only
  repeat' (first
    | with_reducible assumption
    | exact hm.le rfl
    | with_reducible apply keeps_stagePage
    | with_reducible apply keeps_mapThin
    | with_reducible apply keeps_mapPage
    | with_reducible apply keeps_takeFrame
    | with_reducible apply KeepsE.ok
    | with_reducible apply KeepsE.error
    | split
    | (refine KeepsO.get (by assumption) ?_)
    | (refine KeepsE.get (by assumption) ?_))

theorem keeps_copyPage (s : State) (cx : Cx) (slot : Nat) (key : Nat) (g : KvPage) (bs : List (Byte × Bool)) (hm : Sub 1048591 K) (h0 : Keeps K s) :
    KeepsE K (copyPage s cx slot key g bs) := by
  unfold copyPage
  dsimp only
  repeat' (first
    | with_reducible assumption
    | exact hm.le rfl
    | with_reducible apply keeps_stagePage
    | with_reducible apply keeps_fillFrame
    | with_reducible apply keeps_mapPage
    | with_reducible apply keeps_derefFrame
    | with_reducible apply keeps_takeFrame
    | with_reducible apply KeepsE.ok
    | with_reducible apply KeepsE.error
    | split
    | (refine KeepsO.get (by assumption) ?_))

theorem keeps_readyPage (s : State) (cx : Cx) (slot : Nat) (key : Nat) (n : Nat) (hm : Sub 1048591 K) (h0 : Keeps K s) :
    Keeps K (readyPage s cx slot key n).1 := by
  unfold readyPage
  dsimp only
  repeat' (first
    | with_reducible assumption
    | exact hm.le rfl
    | with_reducible apply keeps_copyPage
    | with_reducible apply keeps_newPage
    | with_reducible apply keeps_stagePage
    | split
    | (refine KeepsE.get (by assumption) ?_))

theorem keeps_writeEntry (s : State) (cx : Cx) (slot : Nat) (l : Nat) (pos : Nat) (bs : List Byte) (hm : Sub 1048591 K) (h0 : Keeps K s) :
    Keeps K (writeEntry s cx slot l pos bs).1 := by
  unfold writeEntry
  dsimp only
  repeat' (first
    | with_reducible assumption
    | exact hm.le rfl
    | with_reducible apply keeps_readyPage
    | with_reducible apply keeps_markEve
    | with_reducible apply keeps_pwrite
    | split)

theorem keeps_appendEntries (s : State) (cx : Cx) (slot : Nat) (l : Nat) (a4 : List (List Byte)) (hm : Sub 1048591 K) (h0 : Keeps K s) :
    Keeps K (appendEntries s cx slot l a4).1 := by
  induction a4 generalizing s with
  | nil =>
    unfold appendEntries
    try dsimp only
    repeat' (first
      | with_reducible assumption
      | exact hm.le rfl
      | with_reducible apply keeps_writeEntry
      | with_reducible apply keeps_putSlot
      | intro _
      | split)
  | cons b r ih =>
    unfold appendEntries
    try dsimp only
    repeat' (first
      | with_reducible apply ih
      | with_reducible assumption
      | exact hm.le rfl
      | with_reducible apply keeps_writeEntry
      | with_reducible apply keeps_putSlot
      | intro _
      | split)

theorem keeps_trimPages (s : State) (p : Nat) (slot : Nat) (len : Nat) (hm : Sub 15 K) (h0 : Keeps K s) :
    Keeps K (trimPages s p slot len) := by
  unfold trimPages
  repeat' (first
    | with_reducible assumption
    | exact hm.le rfl
    | with_reducible apply keeps_unmapPage
    | with_reducible refine Keeps.foldl ?_ ?_
    | intro _)

theorem keeps_unstage (s : State) (cx : Cx) (slot : Nat) (len : Nat) (commit : Bool) (key : Nat) (hm : Sub 1048591 K) (h0 : Keeps K s) :
    Keeps K (unstage s cx slot len commit key) := by
  unfold unstage
  dsimp only
  repeat' (first
    | with_reducible assumption
    | exact hm.le rfl
    | with_reducible apply keeps_fillFrame
    | with_reducible apply keeps_mapPage
    | with_reducible apply keeps_derefFrame
    | with_reducible apply keeps_putSlot
    | split
    | (refine KeepsO.get (by assumption) ?_))

theorem keeps_thinCommit (s : State) (p : Nat) (slot : Nat) (hm : Sub 15 K) (h0 : Keeps K s) :
    Keeps K (thinCommit s p slot) := by
  unfold thinCommit
  dsimp only
  repeat' (first
    | with_reducible assumption
    | exact hm.le rfl
    | with_reducible apply keeps_unmapPage
    | with_reducible apply keeps_putScore
    | with_reducible apply keeps_putSlot
    | with_reducible refine Keeps.foldl ?_ ?_
    | intro _
    | split)

theorem keeps_deadEntries (s : State) (p : Nat) (slot : Nat) (l : Nat) (lo : Nat) (hi : Nat) (hm : Sub 3 K) (h0 : Keeps K s) :
    Keeps K (deadEntries s p slot l lo hi) := by
  unfold deadEntries
  dsimp only
  repeat' (first
    | with_reducible assumption
    | exact hm.le rfl
    | with_reducible apply keeps_pwrite
    | with_reducible apply keeps_takeBytes
    | with_reducible refine Keeps.foldl ?_ ?_
    | intro _
    | split)

theorem keeps_endSequence (s : State) (cx : Cx) (slot : Nat) (len : Nat) (commit : Bool) (hm : Sub 1048591 K) (h0 : Keeps K s) :
    Keeps K (endSequence s cx slot len commit) := by
  unfold endSequence
  repeat' (first
    | with_reducible assumption
    | exact hm.le rfl
    | with_reducible apply keeps_deadEntries
    | with_reducible apply keeps_thinCommit
    | with_reducible apply keeps_unstage
    | with_reducible apply keeps_trimPages
    | with_reducible apply keeps_markEve
    | with_reducible apply keeps_putSlot
    | with_reducible refine Keeps.foldl ?_ ?_
    | intro _
    | split)

theorem keeps_rollbackStep (s : State) (part : Nat) (d : Nat) (hm : Sub 1048591 K) (h0 : Keeps K s) :
    Keeps K (rollbackStep s part d) := by
  unfold rollbackStep
  repeat' (first
    | with_reducible assumption
    | exact hm.le rfl
    | with_reducible apply keeps_endSequence
    | with_reducible refine Keeps.foldl ?_ ?_
    | intro _)

theorem keeps_resetKv (s : State) (p : Nat) (hm : Sub 15 K) (h0 : Keeps K s) :
    Keeps K (resetKv s p) := by
  unfold resetKv
  repeat' (first
    | with_reducible assumption
    | exact hm.le rfl
    | with_reducible apply keeps_unmapPage
    | with_reducible apply keeps_putPool
    | with_reducible refine Keeps.foldl ?_ ?_
    | intro _
    | split
    | (unfold Keeps; dsimp only; with_reducible (apply K4.s3 (hm.bit rfl); apply Keeps.fold)))

theorem keeps_markCopy (s : State) (p : Nat) (slot : Nat) (copying : Bool) (hm : Sub 8 K) (h0 : Keeps K s) :
    Keeps K (markCopy s p slot copying) := by
  unfold markCopy
  dsimp only
  repeat' (first
    | with_reducible assumption
    | exact hm.le rfl
    | with_reducible apply keeps_setFrame
    | with_reducible refine Keeps.foldl ?_ ?_
    | intro _
    | split)

theorem keeps_readRemotePages (s : State) (p : Nat) (slot : Nat) (hm : Sub 1048576 K) (h0 : Keeps K s) :
    Keeps K (readRemotePages s p slot) := by
  unfold readRemotePages
  repeat' (first
    | with_reducible assumption
    | exact hm.le rfl
    | with_reducible apply keeps_request
    | with_reducible refine Keeps.foldl ?_ ?_
    | intro _
    | split)

theorem keeps_startSwap (s : State) (p : Nat) (slot : Nat) (by_ : Option Nat) (hostOnly : Bool) (hm : Sub 1048584 K) (h0 : Keeps K s) :
    Keeps K (startSwap s p slot by_ hostOnly).1 := by
  unfold startSwap
  dsimp only
  repeat' (first
    | with_reducible assumption
    | exact hm.le rfl
    | with_reducible apply keeps_readRemotePages
    | with_reducible apply keeps_markCopy
    | with_reducible apply keeps_emit
    | with_reducible apply keeps_putPool
    | with_reducible apply keeps_putSlot
    | split)

theorem keeps_dropSwapOut (s : State) (slot : Nat) (hm : Sub 1048576 K) (h0 : Keeps K s) :
    Keeps K (dropSwapOut s slot) := by
  unfold dropSwapOut
  repeat' (first
    | with_reducible assumption
    | exact hm.le rfl
    | (unfold Keeps; dsimp only; with_reducible (apply K4.s20 (hm.bit rfl); apply Keeps.fold)))

theorem keeps_freeImage (s : State) (p : Nat) (slot : Nat) (hm : Sub 8 K) (h0 : Keeps K s) :
    Keeps K (freeImage s p slot) := by
  unfold freeImage
  repeat' (first
    | with_reducible assumption
    | exact hm.le rfl
    | with_reducible apply keeps_putPool
    | with_reducible apply keeps_putSlot)

theorem keeps_swapReopen (s : State) (p : Nat) (slot : Nat) (hm : Sub 1048584 K) (h0 : Keeps K s) :
    Keeps K (swapReopen s p slot) := by
  unfold swapReopen
  repeat' (first
    | with_reducible assumption
    | exact hm.le rfl
    | with_reducible apply keeps_freeImage
    | with_reducible apply keeps_dropSwapOut
    | with_reducible apply keeps_markCopy
    | with_reducible apply keeps_putSlot)

theorem keeps_swapBack (s : State) (p : Nat) (slot : Nat) (hm : Sub 1048584 K) (h0 : Keeps K s) :
    Keeps K (swapBack s p slot) := by
  unfold swapBack
  repeat' (first
    | with_reducible assumption
    | exact hm.le rfl
    | with_reducible apply keeps_swapReopen
    | with_reducible apply keeps_emit)

theorem keeps_swapInBack (s : State) (p : Nat) (slot : Nat) (hm : Sub 15 K) (h0 : Keeps K s) :
    Keeps K (swapInBack s p slot) := by
  unfold swapInBack
  repeat' (first
    | with_reducible assumption
    | exact hm.le rfl
    | with_reducible apply keeps_unmapPage
    | with_reducible apply keeps_putSlot
    | with_reducible refine Keeps.foldl ?_ ?_
    | intro _)

theorem keeps_writeImage (s : State) (p : Nat) (slot : Nat) (hm : Sub 1048584 K) (h0 : Keeps K s) :
    Keeps K (writeImage s p slot) := by
  unfold writeImage
  repeat' (first
    | with_reducible assumption
    | exact hm.le rfl
    | with_reducible apply keeps_request
    | with_reducible apply keeps_putSlot
    | with_reducible apply keeps_hwrite
    | with_reducible refine Keeps.foldl ?_ ?_
    | intro _
    | split)

theorem keeps_swapAway (s : State) (p : Nat) (slot : Nat) (hm : Sub 15 K) (h0 : Keeps K s) :
    Keeps K (swapAway s p slot) := by
  unfold swapAway
  dsimp only
  repeat' (first
    | with_reducible assumption
    | exact hm.le rfl
    | with_reducible apply keeps_markCopy
    | with_reducible apply keeps_unmapPage
    | with_reducible apply keeps_putSlot
    | with_reducible apply keeps_endF
    | with_reducible refine Keeps.foldl ?_ ?_
    | intro _
    | split)

theorem keeps_preemptGo (p : Nat) (goal : Nat) (a2 : Nat) (a3 : State) (a4 : Nat) (a5 : List Nat) (hm : Sub 1048584 K) (h0 : Keeps K a3) :
    Keeps K (preemptGo p goal a2 a3 a4 a5).1 := by
  induction a2 generalizing a3 a4 a5 with
  | zero =>
    unfold preemptGo
    try dsimp only
    repeat' (first
      | with_reducible assumption
      | exact hm.le rfl
      | with_reducible apply keeps_startSwap
      | with_reducible apply keeps_emit
      | intro _
      | split)
  | succ n ih =>
    unfold preemptGo
    try dsimp only
    repeat' (first
      | with_reducible apply ih
      | with_reducible assumption
      | exact hm.le rfl
      | with_reducible apply keeps_startSwap
      | with_reducible apply keeps_emit
      | intro _
      | split)

theorem keeps_preempt (s : State) (p : Nat) (needs : List Nat) (table : Bool) (hm : Sub 1048584 K) (h0 : Keeps K s) :
    Keeps K (preempt s p needs table).1 := by
  unfold preempt
  dsimp only
  repeat' (first
    | with_reducible assumption
    | exact hm.le rfl
    | with_reducible apply keeps_preemptGo
    | split)

theorem keeps_unstop (s : State) (p : Nat) (d : Nat) (hm : Sub 8 K) (h0 : Keeps K s) :
    Keeps K (unstop s p d) := by
  unfold unstop
  repeat' (first
    | with_reducible assumption
    | exact hm.le rfl
    | with_reducible apply keeps_putPool)

theorem keeps_leaveBacking (s : State) (x : Pool) (hm : Sub 3 K) (h0 : Keeps K s) :
    Keeps K (leaveBacking s x) := by
  unfold leaveBacking
  repeat' (first
    | with_reducible assumption
    | exact hm.le rfl
    | with_reducible apply keeps_pzero
    | with_reducible apply keeps_pwrite
    | with_reducible refine Keeps.foldl ?_ ?_
    | intro _
    | split)

theorem keeps_recompute (s : State) (r : Nat) (hm : Sub 32768 K) (h0 : Keeps K s) :
    Keeps K (recompute s r) := by
  unfold recompute
  repeat' (first
    | with_reducible assumption
    | exact hm.le rfl
    | with_reducible apply keeps_emit
    | with_reducible refine Keeps.foldl ?_ ?_
    | intro _
    | split
    | (unfold Keeps; dsimp only; with_reducible (apply K4.s15 (hm.bit rfl); apply Keeps.fold)))

theorem keeps_recap (s : State) (r : Nat) (hm : Sub 32768 K) (h0 : Keeps K s) :
    Keeps K (recap s r) := by
  unfold recap
  repeat' (first
    | with_reducible assumption
    | exact hm.le rfl
    | with_reducible apply keeps_recompute
    | split)

theorem keeps_nearWord (s : State) (ch : Chain) (t : NearSet) (w : NearWord) (hm : Sub 3 K) (h0 : Keeps K s) :
    Keeps K (nearWord s ch t w).1 := by
  unfold nearWord
  dsimp only
  repeat' (first
    | with_reducible assumption
    | exact hm.le rfl
    | with_reducible apply keeps_pwritePoison
    | with_reducible apply keeps_pwrite
    | with_reducible apply keeps_takeBytes
    | with_reducible refine Keeps.foldl ?_ ?_
    | intro _
    | split)

theorem keeps_cleanBlocks (s : State) (blks : List Nat) (h0 : Keeps K s) :
    Keeps K (cleanBlocks s blks) := by
  unfold cleanBlocks
  repeat' (first
    | with_reducible assumption
    | with_reducible apply keeps_writeBack
    | (unfold Keeps; dsimp only; with_reducible (apply Keeps.fold)))

theorem keeps_dropBlocks (s : State) (blks : List Nat) (h0 : Keeps K s) :
    Keeps K (dropBlocks s blks) := by
  unfold dropBlocks
  repeat' (first
    | with_reducible assumption
    | with_reducible apply keeps_writeBack
    | (unfold Keeps; dsimp only; with_reducible (apply Keeps.fold)))

theorem keeps_nearDrain (s : State) (d : Nat) (ws : List NearWord) (hm : Sub 3 K) (h0 : Keeps K s) :
    Keeps K (nearDrain s d ws) := by
  unfold nearDrain
  repeat' (first
    | with_reducible assumption
    | exact hm.le rfl
    | with_reducible apply keeps_dropBlocks
    | with_reducible apply keeps_nearWord
    | with_reducible refine Keeps.foldl1 ?_ ?_
    | intro _
    | split
    | (unfold Keeps; dsimp only; with_reducible (apply Keeps.fold)))

theorem keeps_shutGroup (s : State) (key : Nat) (h0 : Keeps K s) :
    Keeps K (shutGroup s key) := by
  unfold shutGroup
  repeat' (first
    | with_reducible assumption
    | with_reducible apply keeps_putBg)

theorem keeps_shutWindows (s : State) (d : Nat) (hm : Sub 3 K) (h0 : Keeps K s) :
    Keeps K (shutWindows s d) := by
  unfold shutWindows
  repeat' (first
    | with_reducible assumption
    | exact hm.le rfl
    | with_reducible apply keeps_shutGroup
    | with_reducible apply keeps_nearDrain
    | with_reducible refine Keeps.foldl ?_ ?_
    | intro _)

theorem keeps_cleanF (s : State) (d : Nat) (hm : Sub 1048623 K) (h0 : Keeps K s) :
    Keeps K (cleanF s d) := by
  unfold cleanF
  repeat' (first
    | with_reducible assumption
    | exact hm.le rfl
    | with_reducible apply keeps_shutWindows
    | with_reducible apply keeps_rollbackStep
    | split
    | (unfold Keeps; dsimp only; with_reducible (apply K4.s3 (hm.bit rfl); apply K4.s5 (hm.bit rfl); apply K4.s20 (hm.bit rfl); apply Keeps.fold)))

theorem keeps_dropChildren (s : State) (k : Nat) (hm : Sub 1048623 K) (h0 : Keeps K s) :
    Keeps K (dropChildren s k) := by
  unfold dropChildren
  repeat' (first
    | with_reducible assumption
    | exact hm.le rfl
    | with_reducible apply keeps_cleanF
    | with_reducible apply keeps_delF
    | with_reducible refine Keeps.foldl ?_ ?_
    | intro _)

theorem keeps_stopSwaps (s : State) (d : Nat) (record : Bool) (hm : Sub 1048591 K) (h0 : Keeps K s) :
    Keeps K (stopSwaps s d record) := by
  unfold stopSwaps
  repeat' (first
    | with_reducible assumption
    | exact hm.le rfl
    | with_reducible apply keeps_swapInBack
    | with_reducible apply keeps_swapBack
    | with_reducible apply keeps_swapReopen
    | with_reducible apply keeps_emit
    | with_reducible refine Keeps.foldl ?_ ?_
    | intro _
    | split)

theorem keeps_stopF (s : State) (d : Nat) (st : Nat) (hm : Sub 1048623 K) (h0 : Keeps K s) :
    Keeps K (stopF s d st) := by
  unfold stopF
  repeat' (first
    | with_reducible assumption
    | exact hm.le rfl
    | with_reducible apply keeps_stopSwaps
    | with_reducible apply keeps_dropChildren
    | with_reducible apply keeps_cleanF
    | with_reducible apply keeps_endF
    | split)

theorem keeps_dropF (s : State) (d : Nat) (hm : Sub 1589311 K) (h0 : Keeps K s) :
    Keeps K (dropF s d) := by
  unfold dropF
  repeat' (first
    | with_reducible assumption
    | exact hm.le rfl
    | with_reducible apply keeps_stopSwaps
    | with_reducible apply keeps_dropChildren
    | with_reducible apply keeps_cleanF
    | with_reducible apply keeps_headerSignal
    | with_reducible apply keeps_delF
    | split
    | (unfold Keeps; dsimp only; with_reducible (apply K4.s20 (hm.bit rfl); apply Keeps.fold)))

theorem keeps_stopLive (s : State) (d : Nat) (st : Nat) (hm : Sub 1048623 K) (h0 : Keeps K s) :
    Keeps K (stopLive s d st) := by
  unfold stopLive
  repeat' (first
    | with_reducible assumption
    | exact hm.le rfl
    | with_reducible apply keeps_stopF
    | split)

theorem keeps_stopWhere (s : State) (st : Nat) (t : Flight → Bool) (hm : Sub 1048623 K) (h0 : Keeps K s) :
    Keeps K (stopWhere s st t) := by
  unfold stopWhere
  repeat' (first
    | with_reducible assumption
    | exact hm.le rfl
    | with_reducible apply keeps_stopF
    | with_reducible refine Keeps.foldl ?_ ?_
    | intro _)

theorem keeps_hotOff (s : State) (q : Nat) (h0 : Keeps K s) :
    Keeps K (hotOff s q) := by
  unfold hotOff
  repeat' (first
    | with_reducible assumption
    | with_reducible apply keeps_hwrite
    | split
    | (unfold Keeps; dsimp only; with_reducible (apply Keeps.fold)))

theorem keeps_setQState (s : State) (q : Nat) (st : QState) (h0 : Keeps K s) :
    Keeps K (setQState s q st) := by
  unfold setQState
  repeat' (first
    | with_reducible assumption
    | with_reducible apply keeps_putQ
    | with_reducible apply keeps_hwrite)

theorem keeps_queueError (s : State) (q : Nat) (code : Nat) (prod : Nat) (h0 : Keeps K s) :
    Keeps K (queueError s q code prod) := by
  unfold queueError
  repeat' (first
    | with_reducible assumption
    | with_reducible apply keeps_setQState
    | with_reducible apply keeps_hotOff
    | with_reducible apply keeps_putQ
    | with_reducible apply keeps_hwrite)

theorem keeps_rcbWrite (s : State) (q : Nat) (off : Nat) (bs : List Byte) (h0 : Keeps K s) :
    Keeps K (rcbWrite s q off bs) := by
  unfold rcbWrite
  dsimp only
  repeat' (first
    | with_reducible assumption
    | with_reducible apply keeps_queueError
    | with_reducible apply keeps_hwrite
    | split)

theorem keeps_hotEvict (s : State) (q : Nat) (h0 : Keeps K s) :
    Keeps K (hotEvict s q) := by
  unfold hotEvict
  repeat' (first
    | with_reducible assumption
    | with_reducible apply keeps_queueError
    | with_reducible apply keeps_hotOff
    | split)

theorem keeps_drainQueue (s : State) (q : Nat) (h0 : Keeps K s) :
    Keeps K (drainQueue s q) := by
  unfold drainQueue
  repeat' (first
    | with_reducible assumption
    | with_reducible apply keeps_setQState
    | with_reducible apply keeps_hotOff
    | split)

theorem keeps_answerTo (s : State) (hash : Nat) (m : RemMsg) (status : Nat) (data : List Byte) (hm : Sub 1048576 K) (h0 : Keeps K s) :
    Keeps K (answerTo s hash m status data) := by
  unfold answerTo
  repeat' (first
    | with_reducible assumption
    | exact hm.le rfl
    | with_reducible apply keeps_trySend
    | (unfold Keeps; dsimp only; with_reducible (apply K4.s20 (hm.bit rfl); apply Keeps.fold)))

theorem keeps_raiseSender (s0 : State) (p : Nat) (hm : Sub 1048576 K) (h0 : Keeps K s0) :
    Keeps K (raiseSender s0 p) := by
  unfold raiseSender
  repeat' (first
    | with_reducible assumption
    | exact hm.le rfl
    | with_reducible apply keeps_answerTo
    | with_reducible refine Keeps.foldl ?_ ?_
    | intro _
    | split
    | (unfold Keeps; dsimp only; with_reducible (apply K4.s20 (hm.bit rfl); apply Keeps.fold)))

theorem keeps_emptyBanks (s : State) (p : Nat) (h0 : Keeps K s) :
    Keeps K (emptyBanks s p) :=
  h0

theorem keeps_dropWays (s : State) (p : Nat) (h0 : Keeps K s) :
    Keeps K (dropWays s p) :=
  h0

theorem keeps_flushCache (s : State) (p : Nat) (h0 : Keeps K s) :
    Keeps K (flushCache s p) := by
  unfold flushCache
  repeat' (first
    | with_reducible assumption
    | with_reducible apply keeps_dropWays
    | with_reducible apply keeps_writeBack)

theorem keeps_loseCache (s : State) (p : Nat) (hm : Sub 3 K) (h0 : Keeps K s) :
    Keeps K (loseCache s p) := by
  unfold loseCache
  repeat' (first
    | with_reducible assumption
    | exact hm.le rfl
    | with_reducible apply keeps_dropWays
    | with_reducible apply keeps_loseDirty)

theorem keeps_clearWith (s : State) (p : Nat) (destroyed : Bool) (hm : Sub 1605695 K) (h0 : Keeps K s) :
    Keeps K (clearWith s p destroyed) := by
  unfold clearWith
  repeat' (first
    | with_reducible assumption
    | exact hm.le rfl
    | with_reducible apply keeps_loseCache
    | with_reducible apply keeps_flushCache
    | with_reducible apply keeps_emptyBanks
    | with_reducible apply keeps_raiseSender
    | with_reducible apply keeps_stopF
    | with_reducible apply keeps_resetKv
    | with_reducible apply keeps_putP
    | with_reducible refine Keeps.foldl ?_ ?_
    | intro _
    | split
    | (unfold Keeps; dsimp only; with_reducible (apply K4.s4 (hm.bit rfl); apply K4.s5 (hm.bit rfl); apply K4.s15 (hm.bit rfl); apply Keeps.fold)))

theorem keeps_clearPart (s : State) (p : Nat) (hm : Sub 1605695 K) (h0 : Keeps K s) :
    Keeps K (clearPart s p) := by
  unfold clearPart
  repeat' (first
    | with_reducible assumption
    | exact hm.le rfl
    | with_reducible apply keeps_clearWith)

theorem keeps_pumpOut (s : State) (hm : Sub 1048576 K) (h0 : Keeps K s) :
    Keeps K (pumpOut s) := by
  unfold pumpOut
  repeat' (first
    | with_reducible assumption
    | exact hm.le rfl
    | with_reducible apply keeps_trySend
    | with_reducible refine Keeps.foldl ?_ ?_
    | intro _)

theorem keeps_rerouteFrom (s : State) (p : Nat) (hm : Sub 1048576 K) (h0 : Keeps K s) :
    Keeps K (rerouteFrom s p) := by
  unfold rerouteFrom
  repeat' (first
    | with_reducible assumption
    | exact hm.le rfl
    | with_reducible apply keeps_pumpOut
    | (unfold Keeps; dsimp only; with_reducible (apply K4.s20 (hm.bit rfl); apply Keeps.fold)))

theorem keeps_portLeave (s : State) (p : Nat) (st : PortSt) (hold : Option Nat) (hm : Sub 1081344 K) (h0 : Keeps K s) :
    Keeps K (portLeave s p st hold) := by
  unfold portLeave
  dsimp only
  repeat' (first
    | with_reducible assumption
    | exact hm.le rfl
    | with_reducible apply keeps_rerouteFrom
    | with_reducible apply keeps_recap
    | with_reducible apply keeps_putPort
    | split)

theorem keeps_portRelease (s : State) (p : Nat) (hold : Nat) (hm : Sub 1048576 K) (h0 : Keeps K s) :
    Keeps K (portRelease s p hold) := by
  unfold portRelease
  repeat' (first
    | with_reducible assumption
    | exact hm.le rfl
    | with_reducible apply keeps_putPort)

theorem keeps_reportTest (s : State) (t : TestRun) (extra : Nat) (h0 : Keeps K s) :
    Keeps K (reportTest s t extra) := by
  unfold reportTest
  repeat' (first
    | with_reducible assumption
    | with_reducible apply keeps_emit
    | with_reducible apply keeps_endF
    | split)

theorem keeps_stopTest (s : State) (hm : Sub 655360 K) (h0 : Keeps K s) :
    Keeps K (stopTest s) := by
  unfold stopTest
  repeat' (first
    | with_reducible assumption
    | exact hm.le rfl
    | with_reducible apply keeps_reportTest
    | with_reducible apply keeps_putP
    | with_reducible refine Keeps.foldl ?_ ?_
    | intro _
    | split
    | (unfold Keeps; dsimp only; with_reducible (apply K4.s17 (hm.bit rfl); apply Keeps.fold)))

theorem keeps_saveCell (s : State) (d : Nat) (f : Flight) (c : Nat) (hm : Sub 1048579 K)
    (h0 : Keeps K s) : Keeps K (saveCell s d f c) := by
  have hb := keeps_takeBytes s saveCellBytes h0
  unfold saveCell
  generalize takeBytes s saveCellBytes = b at hb ⊢
  dsimp only
  unfold Keeps
  dsimp only
  apply Keeps.fold
  apply keeps_putF
  split
  · next e => exact KeepsE.get e (keeps_vwrite _ _ _ _ _ (hm.le rfl) hb)
  · exact hb

theorem keeps_trickleSaveOrStop (s : State) (d : Nat) (st : Nat) (hm : Sub 1048623 K) (h0 : Keeps K s) :
    Keeps K (trickleSaveOrStop s d st) := by
  unfold trickleSaveOrStop
  repeat' (first
    | with_reducible assumption
    | exact hm.le rfl
    | with_reducible apply keeps_saveCell
    | with_reducible apply keeps_stopF
    | split)

theorem keeps_stopAllWork (s : State) (st : Nat) (t : Flight → Bool) (hm : Sub 1048623 K) (h0 : Keeps K s) :
    Keeps K (stopAllWork s st t) := by
  unfold stopAllWork
  repeat' (first
    | with_reducible assumption
    | exact hm.le rfl
    | with_reducible apply keeps_trickleSaveOrStop
    | with_reducible apply keeps_stopWhere
    | with_reducible refine Keeps.foldl ?_ ?_
    | intro _)

theorem keeps_countTrip (s : State) (cause : Nat) (h0 : Keeps K s) :
    Keeps K (countTrip s cause) :=
  h0

theorem keeps_thermalTrigger (s : State) (detail : Nat) (h0 : Keeps K s) :
    Keeps K (thermalTrigger s detail) := by
  unfold thermalTrigger
  repeat' (first
    | with_reducible assumption
    | with_reducible apply keeps_equinox
    | split
    | (unfold Keeps; dsimp only; with_reducible (apply Keeps.fold)))

theorem keeps_enterTrip (s : State) (cause : Nat) (hm : Sub 1708079 K) (h0 : Keeps K s) :
    Keeps K (enterTrip s cause) := by
  unfold enterTrip
  repeat' (first
    | with_reducible assumption
    | exact hm.le rfl
    | with_reducible apply keeps_thermalTrigger
    | with_reducible apply keeps_countTrip
    | with_reducible apply keeps_stopAllWork
    | with_reducible apply keeps_stopTest
    | with_reducible apply keeps_swapBack
    | with_reducible apply keeps_emit
    | with_reducible apply keeps_refuseF
    | with_reducible refine Keeps.foldl ?_ ?_
    | intro _
    | split
    | (unfold Keeps; dsimp only; with_reducible (apply K4.s12 (hm.bit rfl); apply K4.s19 (hm.bit rfl); apply Keeps.fold)))

theorem keeps_enterPkg (s : State) (dest : Pkg) (hm : Sub 1085440 K) (h0 : Keeps K s) :
    Keeps K (enterPkg s dest) := by
  unfold enterPkg
  repeat' (first
    | with_reducible assumption
    | exact hm.le rfl
    | with_reducible apply keeps_portLeave
    | with_reducible refine Keeps.foldl ?_ ?_
    | intro _
    | split
    | (unfold Keeps; dsimp only; with_reducible (apply K4.s12 (hm.bit rfl); apply Keeps.fold)))

theorem keeps_settleDrain (s : State) (hm : Sub 1085440 K) (h0 : Keeps K s) :
    Keeps K (settleDrain s) := by
  unfold settleDrain
  repeat' (first
    | with_reducible assumption
    | exact hm.le rfl
    | with_reducible apply keeps_enterPkg
    | with_reducible apply keeps_endF
    | split
    | (unfold Keeps; dsimp only; with_reducible (apply K4.s12 (hm.bit rfl); apply Keeps.fold)))

theorem keeps_fencePart (st : Nat) (s : State) (p : Nat) (hm : Sub 1572911 K) (h0 : Keeps K s) :
    Keeps K (fencePart st s p) := by
  unfold fencePart
  dsimp only
  repeat' (first
    | with_reducible assumption
    | exact hm.le rfl
    | with_reducible apply keeps_stopF
    | with_reducible apply keeps_putP
    | with_reducible refine Keeps.foldl ?_ ?_
    | intro _
    | split)

theorem keeps_settleFences (s : State) (st : Nat) (hm : Sub 1835055 K) (h0 : Keeps K s) :
    Keeps K (settleFences s st) := by
  unfold settleFences
  repeat' (first
    | with_reducible assumption
    | exact hm.le rfl
    | with_reducible apply keeps_fencePart
    | with_reducible apply keeps_stopWhere
    | with_reducible apply keeps_emit
    | with_reducible refine Keeps.foldl ?_ ?_
    | intro _
    | split
    | (unfold Keeps; dsimp only; with_reducible (apply K4.s18 (hm.bit rfl); apply Keeps.fold)))

end Sys2Proof.Machine
end

