-- ==== Sys2Proof/Laws/KeepsQueues.lean ====
section
/-! SUPPORT. What the queues, the admin commands, repair, bandwidth and the cores' checks keep, as `Keeps` says it: one lemma for each operation. -/

namespace Sys2Proof.Machine

variable {K : Kept}

theorem keeps_holdSlots (s : State) (q : Nat) (a2 : List (Nat × List Byte)) (h0 : Keeps K s) :
    Keeps K (holdSlots s q a2) := by
  induction a2 generalizing s with
  | nil =>
    unfold holdSlots
    try dsimp only
    repeat' (first
      | with_reducible assumption
      | intro _
      | split
      | (unfold Keeps; dsimp only; with_reducible (apply Keeps.fold)))
  | cons b r ih =>
    unfold holdSlots
    try dsimp only
    repeat' (first
      | with_reducible apply ih
      | with_reducible assumption
      | intro _
      | split
      | (unfold Keeps; dsimp only; with_reducible (apply Keeps.fold)))

theorem keeps_makeHot (s : State) (q : Nat) (h0 : Keeps K s) :
    Keeps K (makeHot s q) := by
  unfold makeHot
  repeat' (first
    | with_reducible assumption
    | with_reducible apply keeps_rcbWrite
    | split
    | (unfold Keeps; dsimp only; with_reducible (apply Keeps.fold)))

theorem keeps_hotInsert (s : State) (q : Nat) (h0 : Keeps K s) :
    Keeps K (hotInsert s q).1 := by
  unfold hotInsert
  dsimp only
  repeat' (first
    | with_reducible assumption
    | with_reducible apply keeps_makeHot
    | with_reducible apply keeps_hotEvict
    | split)

theorem keeps_takeSlots (s : State) (q : Nat) (p : Nat) (l : List (Nat × List Byte)) (h0 : Keeps K s) :
    Keeps K (takeSlots s q p l) := by
  unfold takeSlots
  repeat' (first
    | with_reducible assumption
    | with_reducible apply keeps_holdSlots
    | with_reducible apply keeps_rcbWrite
    | with_reducible apply keeps_putQ)

theorem keeps_checkOnce (s : State) (q : Nat) (h0 : Keeps K s) :
    Keeps K (checkOnce s q).1 := by
  unfold checkOnce
  dsimp only
  repeat' (first
    | with_reducible assumption
    | with_reducible apply keeps_takeSlots
    | with_reducible apply keeps_hotInsert
    | with_reducible apply keeps_queueError
    | with_reducible apply keeps_putQ
    | split)

theorem keeps_checkQueue (a0 : Nat) (a1 : State) (a2 : Nat) (h0 : Keeps K a1) :
    Keeps K (checkQueue a0 a1 a2) := by
  induction a0 generalizing a1 a2 with
  | zero =>
    unfold checkQueue
    try dsimp only
    repeat' (first
      | with_reducible assumption
      | with_reducible apply keeps_checkOnce
      | intro _
      | split
      | (refine Keeps.get1 (by assumption) ?_))
  | succ n ih =>
    unfold checkQueue
    try dsimp only
    repeat' (first
      | with_reducible apply ih
      | with_reducible assumption
      | with_reducible apply keeps_checkOnce
      | intro _
      | split
      | (refine Keeps.get1 (by assumption) ?_))

theorem keeps_checkQ (s : State) (q : Nat) (h0 : Keeps K s) :
    Keeps K (checkQ s q) := by
  unfold checkQ
  repeat' (first
    | with_reducible assumption
    | with_reducible apply keeps_checkQueue)

theorem keeps_trimHot (s : State) (a1 : Nat) (h0 : Keeps K s) :
    Keeps K (trimHot s a1) := by
  induction a1 generalizing s with
  | zero =>
    unfold trimHot
    try dsimp only
    repeat' (first
      | with_reducible assumption
      | with_reducible apply keeps_checkQ
      | with_reducible apply keeps_hotEvict
      | intro _
      | split)
  | succ n ih =>
    unfold trimHot
    try dsimp only
    repeat' (first
      | with_reducible apply ih
      | with_reducible assumption
      | with_reducible apply keeps_checkQ
      | with_reducible apply keeps_hotEvict
      | intro _
      | split)

theorem keeps_pollGroup (fn : Nat) (s : State) (g : Nat) (h0 : Keeps K s) :
    Keeps K (pollGroup fn s g) := by
  unfold pollGroup
  dsimp only
  repeat' (first
    | with_reducible assumption
    | with_reducible apply keeps_checkQ
    | with_reducible apply keeps_putFn
    | with_reducible refine Keeps.foldl ?_ ?_
    | split)

theorem keeps_pollSector (fn : Nat) (s : State) (sec : Nat) (h0 : Keeps K s) :
    Keeps K (pollSector fn s sec) := by
  unfold pollSector
  dsimp only
  repeat' (first
    | with_reducible assumption
    | with_reducible apply keeps_pollGroup
    | with_reducible apply keeps_putFn
    | with_reducible refine Keeps.foldl ?_ ?_
    | split)

theorem keeps_pollFn (s : State) (fn : Nat) (h0 : Keeps K s) :
    Keeps K (pollFn s fn) := by
  unfold pollFn
  repeat' (first
    | with_reducible assumption
    | with_reducible apply keeps_pollSector
    | with_reducible apply keeps_checkQ
    | with_reducible apply keeps_putFn
    | with_reducible refine Keeps.foldl ?_ ?_
    | split)

theorem keeps_pollHot (a0 : Nat) (a1 : State) (h0 : Keeps K a1) :
    Keeps K (pollHot a0 a1) := by
  induction a0 generalizing a1 with
  | zero =>
    unfold pollHot
    try dsimp only
    repeat' (first
      | with_reducible assumption
      | with_reducible apply keeps_checkQ
      | intro _
      | split
      | (unfold Keeps; dsimp only; with_reducible (apply Keeps.fold)))
  | succ n ih =>
    unfold pollHot
    try dsimp only
    repeat' (first
      | with_reducible apply ih
      | with_reducible assumption
      | with_reducible apply keeps_checkQ
      | intro _
      | split
      | (unfold Keeps; dsimp only; with_reducible (apply Keeps.fold)))

theorem keeps_pollingPass (stores : List HostStore) (failing : List (Nat × Nat)) (s : State) (h0 : Keeps K s) :
    Keeps K (pollingPass stores failing s) := by
  have hh : ∀ (l : List HostStore) (m : Tbl Byte), memWf m = true →
      memWf (l.foldl (fun m x => mwriteN m x.addr x.bytes) m) = true := by
    intro l
    induction l with
    | nil => intro m h; exact h
    | cons a r ih => intro m h; exact ih _ (memWf_mwriteN _ _ _ h)
  unfold pollingPass
  apply keeps_pollHot
  apply Keeps.foldl
  · exact K4.hosted (hh stores s.host) h0
  · intro u e hu
    exact keeps_pollFn u e hu

theorem keeps_hotIdleEvict (q : Nat) (s : State) (h0 : Keeps K s) :
    Keeps K (hotIdleEvict q s) := by
  unfold hotIdleEvict
  repeat' (first
    | with_reducible assumption
    | with_reducible apply keeps_checkQ
    | with_reducible apply keeps_hotEvict
    | split)

theorem keeps_takeSlot (s : State) (d : Nat) (f : Flight) (h0 : Keeps K s) :
    Keeps K (takeSlot s d f).1 := by
  unfold takeSlot
  dsimp only
  repeat' (first
    | with_reducible assumption
    | with_reducible apply keeps_queueError
    | with_reducible apply keeps_putF
    | split)

theorem keeps_sendMsix (s : State) (fn : Nat) (vec : Nat) (h0 : Keeps K s) :
    Keeps K (sendMsix s fn vec) := by
  unfold sendMsix
  repeat' (first
    | with_reducible assumption
    | with_reducible apply keeps_putFn
    | split
    | (unfold Keeps; dsimp only; with_reducible (apply Keeps.fold)))

theorem keeps_fireIrq (s : State) (q : Nat) (h0 : Keeps K s) :
    Keeps K (fireIrq s q) := by
  unfold fireIrq
  repeat' (first
    | with_reducible assumption
    | with_reducible apply keeps_sendMsix
    | with_reducible apply keeps_putQ)

theorem keeps_countIrq (s : State) (q : Nat) (st : Nat) (irq : Bool) (h0 : Keeps K s) :
    Keeps K (countIrq s q st irq) := by
  unfold countIrq
  dsimp only
  repeat' (first
    | with_reducible assumption
    | with_reducible apply keeps_fireIrq
    | with_reducible apply keeps_putQ
    | split)

theorem keeps_writeRecord (s : State) (f : Flight) (h0 : Keeps K s) :
    Keeps K (writeRecord s f) := by
  unfold writeRecord
  dsimp only
  repeat' (first
    | with_reducible assumption
    | with_reducible apply keeps_countIrq
    | with_reducible apply keeps_queueError
    | with_reducible apply keeps_putQ
    | with_reducible apply keeps_hwrite
    | split)

theorem keeps_stepSettle (s : State) (k : Nat) (hm : Sub 1048623 K) (h0 : Keeps K s) :
    Keeps K (stepSettle s k) := by
  unfold stepSettle
  repeat' (first
    | with_reducible assumption
    | exact hm.le rfl
    | with_reducible apply keeps_stopF
    | with_reducible apply keeps_dropChildren
    | with_reducible apply keeps_preempt
    | with_reducible apply keeps_rollbackStep
    | with_reducible apply keeps_putF
    | split
    | (unfold Keeps; dsimp only; with_reducible (apply K4.s5 (hm.bit rfl); apply Keeps.fold)))

theorem keeps_childDone (s : State) (d : Nat) (k : Nat) (f : Flight) (hm : Sub 1048623 K) (h0 : Keeps K s) :
    Keeps K (childDone s d k f) := by
  unfold childDone
  repeat' (first
    | with_reducible assumption
    | exact hm.le rfl
    | with_reducible apply keeps_stepSettle
    | with_reducible apply keeps_delF
    | split
    | (unfold Keeps; dsimp only; with_reducible (apply K4.s5 (hm.bit rfl); apply Keeps.fold)))

theorem keeps_endReset (s : State) (p : Nat) (h0 : Keeps K s) :
    Keeps K (endReset s p) := by
  unfold endReset
  repeat' (first
    | with_reducible assumption
    | with_reducible apply keeps_latch
    | split
    | (unfold Keeps; dsimp only; with_reducible (apply Keeps.fold)))

theorem keeps_endPartReset (s : State) (f : Flight) (hm : Sub 524288 K) (h0 : Keeps K s) :
    Keeps K (endPartReset s f) := by
  unfold endPartReset
  repeat' (first
    | with_reducible assumption
    | exact hm.le rfl
    | with_reducible apply keeps_endReset
    | with_reducible apply keeps_putP
    | split)

theorem keeps_settleAttend (s : State) (d : Nat) (f : Flight) (hm : Sub 1048591 K) (h0 : Keeps K s) :
    Keeps K (settleAttend s d f) := by
  unfold settleAttend
  dsimp only
  repeat' (first
    | with_reducible assumption
    | exact hm.le rfl
    | with_reducible apply keeps_rollbackStep
    | with_reducible apply keeps_endSequence
    | split)

theorem keeps_descriptorComplete (d : Nat) (s : State) (hm : Sub 1626175 K) (h0 : Keeps K s) :
    Keeps K (descriptorComplete d s) := by
  unfold descriptorComplete
  repeat' (first
    | with_reducible assumption
    | exact hm.le rfl
    | with_reducible apply keeps_settleAttend
    | with_reducible apply keeps_endPartReset
    | with_reducible apply keeps_childDone
    | with_reducible apply keeps_writeRecord
    | with_reducible apply keeps_settleDrain
    | with_reducible apply keeps_freeImage
    | with_reducible apply keeps_headerSignal
    | with_reducible apply keeps_delF
    | with_reducible apply keeps_putF
    | split
    | (unfold Keeps; dsimp only; with_reducible (apply K4.s3 (hm.bit rfl); apply Keeps.fold)))

theorem keeps_irqCoalTimer (q : Nat) (s : State) (h0 : Keeps K s) :
    Keeps K (irqCoalTimer q s) := by
  unfold irqCoalTimer
  dsimp only
  repeat' (first
    | with_reducible assumption
    | with_reducible apply keeps_fireIrq
    | split)

theorem keeps_qctlDone (s : State) (fn : Nat) (q : Nat) (result : Nat) (h0 : Keeps K s) :
    Keeps K (qctlDone s fn q result) := by
  unfold qctlDone
  repeat' (first
    | with_reducible assumption
    | with_reducible apply keeps_putFn)

theorem keeps_queueEnable (fn : Nat) (q : Nat) (s : State) (h0 : Keeps K s) :
    Keeps K (queueEnable fn q s) := by
  unfold queueEnable
  dsimp only
  repeat' (first
    | with_reducible assumption
    | with_reducible apply keeps_qctlDone
    | with_reducible apply keeps_putQ
    | with_reducible apply keeps_hwrite
    | split)

theorem keeps_queueDisable (fn : Nat) (q : Nat) (s : State) (h0 : Keeps K s) :
    Keeps K (queueDisable fn q s) := by
  unfold queueDisable
  repeat' (first
    | with_reducible assumption
    | with_reducible apply keeps_qctlDone
    | with_reducible apply keeps_drainQueue
    | split)

theorem keeps_queueClear (fn : Nat) (q : Nat) (s : State) (h0 : Keeps K s) :
    Keeps K (queueClear fn q s) := by
  unfold queueClear
  repeat' (first
    | with_reducible assumption
    | with_reducible apply keeps_qctlDone
    | with_reducible apply keeps_drainQueue
    | split)

theorem keeps_queueDrainDone (q : Nat) (s : State) (h0 : Keeps K s) :
    Keeps K (queueDrainDone q s) := by
  unfold queueDrainDone
  repeat' (first
    | with_reducible assumption
    | with_reducible apply keeps_setQState
    | with_reducible apply keeps_putQ
    | split)

theorem keeps_aqEnable (s : State) (hm : Sub 256 K) (h0 : Keeps K s) :
    Keeps K (aqEnable s) := by
  unfold aqEnable
  repeat' (first
    | with_reducible assumption
    | exact hm.le rfl
    | with_reducible apply keeps_queueError
    | with_reducible apply keeps_putQ
    | with_reducible apply keeps_hwrite
    | split
    | (unfold Keeps; dsimp only; with_reducible (apply K4.s8 (hm.bit rfl); apply Keeps.fold)))

theorem keeps_aqDisable (s : State) (h0 : Keeps K s) :
    Keeps K (aqDisable s) := by
  unfold aqDisable
  repeat' (first
    | with_reducible assumption
    | with_reducible apply keeps_drainQueue)

theorem keeps_dropQueues (s : State) (fn : Nat) (hm : Sub 1589311 K) (h0 : Keeps K s) :
    Keeps K (dropQueues s fn) := by
  unfold dropQueues
  repeat' (first
    | with_reducible assumption
    | exact hm.le rfl
    | with_reducible apply keeps_dropF
    | with_reducible refine Keeps.foldl ?_ ?_
    | intro _
    | (unfold Keeps; dsimp only; with_reducible (apply Keeps.fold)))

theorem keeps_dropQueuesTold (s : State) (fn : Nat) (hm : Sub 1589311 K) (h0 : Keeps K s) :
    Keeps K (dropQueuesTold s fn) := by
  unfold dropQueuesTold
  repeat' (first
    | with_reducible assumption
    | exact hm.le rfl
    | with_reducible apply keeps_dropQueues
    | with_reducible apply keeps_setQState
    | with_reducible apply keeps_hotOff
    | with_reducible refine Keeps.foldl ?_ ?_
    | intro _)

theorem keeps_setTdi (s : State) (vf : Nat) (dest : Nat) (hm : Sub 1589823 K) (h0 : Keeps K s) :
    Keeps K (setTdi s vf dest) := by
  unfold setTdi
  repeat' (first
    | with_reducible assumption
    | exact hm.le rfl
    | with_reducible apply keeps_dropQueuesTold
    | split
    | (unfold Keeps; dsimp only; with_reducible (apply K4.s9 (hm.bit rfl); apply Keeps.fold)))

theorem keeps_setStream (s : State) (k : Nat) (x : Option IdeStream) (hm : Sub 1589823 K) (h0 : Keeps K s) :
    Keeps K (setStream s k x) := by
  unfold setStream
  repeat' (first
    | with_reducible assumption
    | exact hm.le rfl
    | with_reducible apply keeps_setTdi
    | split
    | (unfold Keeps; dsimp only; with_reducible (apply Keeps.fold)))

theorem keeps_dropStreams (s : State) (path : Nat) (hm : Sub 1589823 K) (h0 : Keeps K s) :
    Keeps K (dropStreams s path) := by
  unfold dropStreams
  repeat' (first
    | with_reducible assumption
    | exact hm.le rfl
    | with_reducible apply keeps_setStream
    | with_reducible refine Keeps.foldl ?_ ?_
    | intro _)

theorem keeps_resetFn (s : State) (fn : Nat) (hm : Sub 256 K) (h0 : Keeps K s) :
    Keeps K (resetFn s fn) := by
  unfold resetFn
  repeat' (first
    | with_reducible assumption
    | exact hm.le rfl
    | with_reducible apply keeps_putFn
    | split
    | (unfold Keeps; dsimp only; with_reducible (apply K4.s8 (hm.bit rfl); apply Keeps.fold)))

theorem keeps_vfFlr (vf : Nat) (s : State) (hm : Sub 1589567 K) (h0 : Keeps K s) :
    Keeps K (vfFlr vf s) := by
  unfold vfFlr
  repeat' (first
    | with_reducible assumption
    | exact hm.le rfl
    | with_reducible apply keeps_resetFn
    | with_reducible apply keeps_dropQueues
    | split)

theorem keeps_stopAdmin (s : State) (hm : Sub 528896 K) (h0 : Keeps K s) :
    Keeps K (stopAdmin s) := by
  unfold stopAdmin
  repeat' (first
    | with_reducible assumption
    | exact hm.le rfl
    | with_reducible apply keeps_endPartReset
    | with_reducible refine Keeps.foldl ?_ ?_
    | intro _
    | (unfold Keeps; dsimp only; with_reducible (apply K4.s9 (hm.bit rfl); apply K4.s12 (hm.bit rfl); apply K4.s19 (hm.bit rfl); apply Keeps.fold)))

theorem keeps_pf0Flr (s : State) (hm : Sub 1725247 K) (h0 : Keeps K s) :
    Keeps K (pf0Flr s) := by
  unfold pf0Flr
  repeat' (first
    | with_reducible assumption
    | exact hm.le rfl
    | with_reducible apply keeps_stopAdmin
    | with_reducible apply keeps_resetFn
    | with_reducible apply keeps_dropQueues
    | (unfold Keeps; dsimp only; with_reducible (apply K4.s17 (hm.bit rfl); apply Keeps.fold)))

theorem keeps_withGnt (s : State) (d : Nat) (op : Nat) (k : Flight → State) (h0 : Keeps K s) (hk : ∀ x, Keeps K (k x)) :
    Keeps K (withGnt s d op k) := by
  unfold withGnt
  repeat' (first
    | with_reducible assumption
    | with_reducible apply keeps_withOp
    | apply hk
    | split)

theorem keeps_refuseIf (s : State) (d : Nat) (checks : List (Nat × Bool)) (k : State) (h0 : Keeps K s) (h1 : Keeps K k) :
    Keeps K (refuseIf s d checks k) := by
  unfold refuseIf
  repeat' (first
    | with_reducible assumption
    | with_reducible apply keeps_refuseF
    | split)

theorem keeps_hostOut (s : State) (d : Nat) (a : Nat) (bs : List Byte) (h0 : Keeps K s) :
    Keeps K (hostOut s d a bs) := by
  unfold hostOut
  repeat' (first
    | with_reducible assumption
    | with_reducible apply keeps_endF
    | with_reducible apply keeps_hwrite
    | split)

theorem keeps_identify (d : Nat) (s : State) (h0 : Keeps K s) :
    Keeps K (identify d s) := by
  unfold identify
  repeat' (first
    | with_reducible assumption
    | with_reducible apply keeps_hostOut
    | with_reducible apply keeps_refuseIf
    | with_reducible apply keeps_withOp
    | intro _)

theorem keeps_forgetGroups (s : State) (fn : Nat) (first : Nat) (n : Nat) (h0 : Keeps K s) :
    Keeps K (forgetGroups s fn first n) := by
  unfold forgetGroups
  repeat' (first
    | with_reducible assumption
    | with_reducible apply keeps_putFn)

theorem keeps_vfBind (d : Nat) (s : State) (hm : Sub 524800 K) (h0 : Keeps K s) :
    Keeps K (vfBind d s) := by
  unfold vfBind
  repeat' (first
    | with_reducible assumption
    | exact hm.le rfl
    | with_reducible apply keeps_forgetGroups
    | with_reducible apply keeps_refuseIf
    | with_reducible apply keeps_withGnt
    | with_reducible apply keeps_putP
    | with_reducible apply keeps_endF
    | intro _
    | (unfold Keeps; dsimp only; with_reducible (apply K4.s9 (hm.bit rfl); apply Keeps.fold)))

theorem keeps_vfUnbind (d : Nat) (s : State) (hm : Sub 1589823 K) (h0 : Keeps K s) :
    Keeps K (vfUnbind d s) := by
  unfold vfUnbind
  repeat' (first
    | with_reducible assumption
    | exact hm.le rfl
    | with_reducible apply keeps_withGnt
    | with_reducible apply keeps_setTdi
    | with_reducible apply keeps_drainQueue
    | with_reducible apply keeps_refuseF
    | with_reducible apply keeps_putF
    | with_reducible refine Keeps.foldl ?_ ?_
    | intro _
    | split
    | (unfold Keeps; dsimp only; with_reducible (apply K4.s9 (hm.bit rfl); apply Keeps.fold)))

theorem keeps_vfUnbindDone (vf : Nat) (s : State) (hm : Sub 524800 K) (h0 : Keeps K s) :
    Keeps K (vfUnbindDone vf s) := by
  unfold vfUnbindDone
  repeat' (first
    | with_reducible assumption
    | exact hm.le rfl
    | with_reducible apply keeps_forgetGroups
    | with_reducible apply keeps_putP
    | with_reducible apply keeps_putFn
    | with_reducible apply keeps_endF
    | split
    | (unfold Keeps; dsimp only; with_reducible (apply K4.s9 (hm.bit rfl); apply Keeps.fold)))

theorem keeps_eventWait (d : Nat) (s : State) (h0 : Keeps K s) :
    Keeps K (eventWait d s) := by
  unfold eventWait
  repeat' (first
    | with_reducible assumption
    | with_reducible apply keeps_refuseIf
    | with_reducible apply keeps_withOp
    | with_reducible apply keeps_emit
    | with_reducible apply keeps_endF
    | with_reducible apply keeps_putF
    | with_reducible apply keeps_hwrite
    | intro _
    | split
    | (unfold Keeps; dsimp only; with_reducible (apply Keeps.fold)))

theorem keeps_recapAll (s : State) (hm : Sub 32768 K) (h0 : Keeps K s) :
    Keeps K (recapAll s) := by
  unfold recapAll
  repeat' (first
    | with_reducible assumption
    | exact hm.le rfl
    | with_reducible apply keeps_recap
    | with_reducible refine Keeps.foldl ?_ ?_
    | intro _)

theorem keeps_partCreate (d : Nat) (s : State) (hm : Sub 1605823 K) (h0 : Keeps K s) :
    Keeps K (partCreate d s) := by
  unfold partCreate
  repeat' (first
    | with_reducible assumption
    | exact hm.le rfl
    | with_reducible apply keeps_recapAll
    | with_reducible apply keeps_refuseIf
    | with_reducible apply keeps_withGnt
    | with_reducible apply keeps_fencePart
    | with_reducible apply keeps_putKeys
    | with_reducible apply keeps_putP
    | with_reducible apply keeps_endF
    | intro _
    | (unfold Keeps; dsimp only; with_reducible (apply K4.s4 (hm.bit rfl); apply Keeps.fold)))

theorem keeps_dropTests (s : State) (p : Nat) (hm : Sub 655360 K) (h0 : Keeps K s) :
    Keeps K (dropTests s p) := by
  unfold dropTests
  repeat' (first
    | with_reducible assumption
    | exact hm.le rfl
    | with_reducible apply keeps_stopTest
    | with_reducible apply keeps_reportTest
    | with_reducible refine Keeps.foldl ?_ ?_
    | intro _
    | split
    | (unfold Keeps; dsimp only; with_reducible (apply K4.s17 (hm.bit rfl); apply Keeps.fold)))

theorem keeps_destroyPart (s : State) (p : Nat) (hm : Sub 3850431 K) (h0 : Keeps K s) :
    Keeps K (destroyPart s p) := by
  unfold destroyPart
  repeat' (first
    | with_reducible assumption
    | with_reducible exact fun _ h => h
    | with_reducible exact fun _ _ => Cuff.shut_mk
    | exact hm.le rfl
    | with_reducible apply keeps_dropTests
    | with_reducible apply keeps_recapAll
    | with_reducible apply keeps_clearWith
    | with_reducible apply keeps_drainQueue
    | with_reducible apply keeps_putOlder
    | with_reducible apply keeps_putStored
    | with_reducible refine Keeps.foldl ?_ ?_
    | split
    | (unfold Keeps; dsimp only; with_reducible (apply K4.s2 (hm.bit rfl); apply K4.s3 (hm.bit rfl); apply K4.s7 (hm.bit rfl); refine K4.s14 (hm.bit rfl) (K4.s15 (hm.bit rfl) (K4.s19 (hm.bit rfl) (K4.s20 (hm.bit rfl) (Keeps.fold ?_)))) ?_)))

theorem keeps_partDestroy (d : Nat) (s : State) (hm : Sub 3850431 K) (h0 : Keeps K s) :
    Keeps K (partDestroy d s) := by
  unfold partDestroy
  repeat' (first
    | with_reducible assumption
    | exact hm.le rfl
    | with_reducible apply keeps_destroyPart
    | with_reducible apply keeps_refuseIf
    | with_reducible apply keeps_withGnt
    | with_reducible apply keeps_endF
    | intro _)

theorem keeps_partReset (d : Nat) (s : State) (hm : Sub 1605695 K) (h0 : Keeps K s) :
    Keeps K (partReset d s) := by
  unfold partReset
  repeat' (first
    | with_reducible assumption
    | exact hm.le rfl
    | with_reducible apply keeps_refuseIf
    | with_reducible apply keeps_clearPart
    | with_reducible apply keeps_withOp
    | with_reducible apply keeps_putP
    | with_reducible apply keeps_endF
    | intro _
    | split)

theorem keeps_partState (d : Nat) (s : State) (hm : Sub 1572911 K) (h0 : Keeps K s) :
    Keeps K (partState d s) := by
  unfold partState
  repeat' (first
    | with_reducible assumption
    | exact hm.le rfl
    | with_reducible apply keeps_refuseIf
    | with_reducible apply keeps_trickleSaveOrStop
    | with_reducible apply keeps_withOp
    | with_reducible apply keeps_putP
    | with_reducible apply keeps_endF
    | with_reducible apply keeps_putF
    | with_reducible refine Keeps.foldl ?_ ?_
    | intro _
    | split)

theorem keeps_partStateDone (p : Nat) (s : State) (hm : Sub 524288 K) (h0 : Keeps K s) :
    Keeps K (partStateDone p s) := by
  unfold partStateDone
  repeat' (first
    | with_reducible assumption
    | exact hm.le rfl
    | with_reducible apply keeps_putP
    | with_reducible apply keeps_endF
    | split)

theorem keeps_markPermanent (s : State) (ch : Nat) (h0 : Keeps K s) :
    Keeps K (markPermanent s ch) := by
  unfold markPermanent
  repeat' (first
    | with_reducible assumption
    | with_reducible apply keeps_emit
    | split
    | (unfold Keeps; dsimp only; with_reducible (apply Keeps.fold)))

theorem keeps_chargeChannel (s : State) (ch : Nat) (retryFailed : Bool) (h0 : Keeps K s) :
    Keeps K (chargeChannel s ch retryFailed).1 := by
  unfold chargeChannel
  repeat' (first
    | with_reducible assumption
    | with_reducible apply keeps_markPermanent
    | split
    | (unfold Keeps; dsimp only; with_reducible (apply Keeps.fold)))

theorem keeps_advise (s : State) (h0 : Keeps K s) :
    Keeps K (advise s) := by
  unfold advise
  repeat' (first
    | with_reducible assumption
    | with_reducible apply keeps_emit
    | with_reducible refine Keeps.foldl ?_ ?_
    | intro _
    | (unfold Keeps; dsimp only; with_reducible (apply Keeps.fold)))

theorem keeps_bindCore (s : State) (core : Nat) (col : Nat) (st : Nat) (hm : Sub 2162688 K) (h0 : Keeps K s) :
    Keeps K (bindCore s core col st) := by
  unfold bindCore
  repeat' (first
    | with_reducible assumption
    | exact hm.le rfl
    | with_reducible apply keeps_putOlder
    | with_reducible apply keeps_putStored
    | with_reducible apply keeps_putBind
    | (unfold Keeps; dsimp only; with_reducible (apply Keeps.fold)))

theorem keeps_leaveIntake (s : State) (d : Nat) (h0 : Keeps K s) :
    Keeps K (leaveIntake s d) := by
  unfold leaveIntake
  repeat' (first
    | with_reducible assumption
    | split
    | (unfold Keeps; dsimp only; with_reducible (apply Keeps.fold)))

theorem keeps_stopOnCore (s : State) (core : Nat) (st : Nat) (hm : Sub 1048623 K) (h0 : Keeps K s) :
    Keeps K (stopOnCore s core st) := by
  unfold stopOnCore
  repeat' (first
    | with_reducible assumption
    | exact hm.le rfl
    | with_reducible apply keeps_leaveIntake
    | with_reducible apply keeps_stopLive
    | with_reducible apply keeps_stopF
    | with_reducible refine Keeps.foldl ?_ ?_
    | intro _)

theorem keeps_retireFrame (s : State) (p : Nat) (i : Nat) (hm : Sub 1048591 K) (h0 : Keeps K s) :
    Keeps K (retireFrame s p i) := by
  unfold retireFrame
  dsimp only
  repeat' (first
    | with_reducible assumption
    | exact hm.le rfl
    | with_reducible apply keeps_fillFrame
    | with_reducible apply keeps_copyFrame
    | with_reducible apply keeps_mapThinLeaf
    | with_reducible apply keeps_mapPage
    | with_reducible apply keeps_takeFrame
    | with_reducible apply keeps_watermarks
    | with_reducible apply keeps_setFrame
    | with_reducible refine Keeps.foldl ?_ ?_
    | with_reducible refine Keeps.getD ?_ ?_
    | intro _
    | split)

theorem keeps_retireRange (s : State) (lo : Nat) (hi : Nat) (hm : Sub 1048591 K) (h0 : Keeps K s) :
    Keeps K (retireRange s lo hi) := by
  unfold retireRange
  dsimp only
  repeat' (first
    | with_reducible assumption
    | exact hm.le rfl
    | with_reducible apply keeps_retireFrame
    | with_reducible refine Keeps.foldl ?_ ?_
    | intro _
    | split)

theorem keeps_makeHole (s : State) (core : Nat) (hm : Sub 65544 K) (h0 : Keeps K s) :
    Keeps K (makeHole s core) := by
  unfold makeHole
  repeat' (first
    | with_reducible assumption
    | exact hm.le rfl
    | with_reducible apply keeps_advise
    | with_reducible apply keeps_watermarks
    | with_reducible apply keeps_emit
    | with_reducible apply keeps_putBind
    | with_reducible apply keeps_putPool
    | with_reducible refine Keeps.foldl ?_ ?_
    | intro _
    | (unfold Keeps; dsimp only; with_reducible (apply Keeps.fold)))

theorem keeps_fenceSite (s : State) (site : Nat) (h0 : Keeps K s) :
    Keeps K (fenceSite s site) := by
  unfold fenceSite
  repeat' (first
    | with_reducible assumption
    | with_reducible apply keeps_putSite)

theorem keeps_siteFor (s : State) (core : Nat) (hm : Sub 65544 K) (h0 : Keeps K s) :
    KeepsO2 K (siteFor s core) := by
  unfold siteFor
  repeat' (first
    | with_reducible assumption
    | exact hm.le rfl
    | with_reducible apply keeps_makeHole
    | with_reducible apply KeepsO2.some
    | with_reducible apply KeepsO2.none
    | with_reducible apply KeepsO2.none
    | with_reducible apply KeepsO2.some
    | split)

theorem keeps_loseCore (s : State) (core : Nat) (hm : Sub 1114159 K) (h0 : Keeps K s) :
    Keeps K (loseCore s core) := by
  unfold loseCore
  dsimp only
  repeat' (first
    | with_reducible assumption
    | exact hm.le rfl
    | with_reducible apply keeps_siteFor
    | with_reducible apply keeps_fenceSite
    | with_reducible apply keeps_makeHole
    | with_reducible apply keeps_stopOnCore
    | with_reducible apply keeps_putCore
    | with_reducible apply KeepsO2.none
    | with_reducible apply KeepsO2.none
    | split
    | (refine KeepsO2.get (by assumption) ?_))

theorem keeps_chargeCore (s : State) (core : Nat) (retryFailed : Bool) (hm : Sub 1114159 K) (h0 : Keeps K s) :
    Keeps K (chargeCore s core retryFailed) := by
  unfold chargeCore
  dsimp only
  repeat' (first
    | with_reducible assumption
    | exact hm.le rfl
    | with_reducible apply keeps_loseCore
    | with_reducible apply keeps_chargeChannel
    | split)

theorem keeps_chargeGroup (s : State) (core : Nat) (g : Nat) (retryFailed : Bool) (hm : Sub 1114159 K) (h0 : Keeps K s) :
    Keeps K (chargeGroup s core g retryFailed) := by
  unfold chargeGroup
  dsimp only
  repeat' (first
    | with_reducible assumption
    | exact hm.le rfl
    | with_reducible apply keeps_loseCore
    | with_reducible apply keeps_chargeChannel
    | with_reducible apply keeps_markPermanent
    | with_reducible apply keeps_putCore
    | split)

theorem keeps_residue (s : State) (x : CoreFault) (h0 : Keeps K s) :
    Keeps K (residue s x) := by
  unfold residue
  repeat' (first
    | with_reducible assumption
    | with_reducible apply keeps_emit
    | with_reducible refine Keeps.foldl ?_ ?_
    | intro _
    | split)

theorem keeps_loseSharers (s : State) (d : Nat) (core : Nat) (hm : Sub 1048623 K) (h0 : Keeps K s) :
    Keeps K (loseSharers s d core) := by
  unfold loseSharers
  repeat' (first
    | with_reducible assumption
    | exact hm.le rfl
    | with_reducible apply keeps_stopF
    | with_reducible refine Keeps.foldl ?_ ?_
    | intro _)

theorem keeps_coreFaults (s : State) (d : Nat) (l : List CoreFault) (hm : Sub 1114159 K) (h0 : Keeps K s) :
    Keeps K (coreFaults s d l).1 := by
  unfold coreFaults
  repeat' (first
    | with_reducible assumption
    | exact hm.le rfl
    | with_reducible apply keeps_loseSharers
    | with_reducible apply keeps_residue
    | with_reducible apply keeps_chargeGroup
    | with_reducible apply keeps_chargeCore
    | with_reducible refine Keeps.foldl1 ?_ ?_
    | intro _
    | split)

theorem keeps_chargeMemory (s : State) (ch : Nat) (exhausted : Bool) (hm : Sub 1114159 K) (h0 : Keeps K s) :
    Keeps K (chargeMemory s ch exhausted) := by
  unfold chargeMemory
  dsimp only
  repeat' (first
    | with_reducible assumption
    | exact hm.le rfl
    | with_reducible apply keeps_loseCore
    | with_reducible apply keeps_chargeChannel
    | with_reducible apply keeps_markPermanent
    | split)

theorem keeps_remapRow (s : State) (pa : Nat) (hm : Sub 1114159 K) (h0 : Keeps K s) :
    Keeps K (remapRow s pa) := by
  unfold remapRow
  repeat' (first
    | with_reducible assumption
    | exact hm.le rfl
    | with_reducible apply keeps_chargeMemory
    | with_reducible apply keeps_emit
    | split
    | (unfold Keeps; dsimp only; with_reducible (apply Keeps.fold)))

theorem keeps_ceRecord (s : State) (bank : Nat) (h0 : Keeps K s) :
    Keeps K (ceRecord s bank) := by
  unfold ceRecord
  repeat' (first
    | with_reducible assumption
    | with_reducible apply keeps_emit
    | split
    | (unfold Keeps; dsimp only; with_reducible (apply Keeps.fold)))

theorem keeps_countCe (s : State) (pa : Nat) (h0 : Keeps K s) :
    Keeps K (countCe s pa) := by
  unfold countCe
  repeat' (first
    | with_reducible assumption
    | with_reducible apply keeps_ceRecord
    | with_reducible apply keeps_emit
    | split
    | (unfold Keeps; dsimp only; with_reducible (apply Keeps.fold)))

theorem keeps_findCodeword (s : State) (pa : Nat) (found : EccFinding) (hm : Sub 1114159 K) (h0 : Keeps K s) :
    Keeps K (findCodeword s pa found) := by
  unfold findCodeword
  repeat' (first
    | with_reducible assumption
    | exact hm.le rfl
    | with_reducible apply keeps_countCe
    | with_reducible apply keeps_remapRow
    | with_reducible apply keeps_chargeMemory
    | with_reducible apply keeps_pwritePoison
    | with_reducible apply keeps_emit
    | split)

theorem keeps_chargeUnit (s : State) (k : Nat) (pc : Nat) (bank : Nat) (h0 : Keeps K s) :
    Keeps K (chargeUnit s k pc bank) := by
  unfold chargeUnit
  repeat' (first
    | with_reducible assumption
    | with_reducible apply keeps_advise
    | with_reducible apply keeps_emit
    | split
    | (unfold Keeps; dsimp only; with_reducible (apply Keeps.fold)))

theorem keeps_setBucket (s : State) (p : Nat) (c : Nat) (r : Nat) (v : Nat) (hm : Sub 32768 K) (h0 : Keeps K s) :
    Keeps K (setBucket s p c r v) := by
  unfold setBucket
  repeat' (first
    | with_reducible assumption
    | exact hm.le rfl
    | (unfold Keeps; dsimp only; with_reducible (apply K4.s15 (hm.bit rfl); apply Keeps.fold)))

theorem keeps_settleBuckets (s : State) (r : Nat) (hm : Sub 32768 K) (h0 : Keeps K s) :
    Keeps K (settleBuckets s r) := by
  unfold settleBuckets
  repeat' (first
    | with_reducible assumption
    | exact hm.le rfl
    | with_reducible apply keeps_setBucket
    | with_reducible refine Keeps.foldl ?_ ?_
    | intro _)

theorem keeps_recomputeNow (s : State) (r : Nat) (hm : Sub 32768 K) (h0 : Keeps K s) :
    Keeps K (recomputeNow s r) := by
  unfold recomputeNow
  repeat' (first
    | with_reducible assumption
    | exact hm.le rfl
    | with_reducible apply keeps_settleBuckets
    | with_reducible apply keeps_recompute)

theorem keeps_bwRegister (d : Nat) (s : State) (hm : Sub 32768 K) (h0 : Keeps K s) :
    Keeps K (bwRegister d s) := by
  unfold bwRegister
  repeat' (first
    | with_reducible assumption
    | exact hm.le rfl
    | with_reducible apply keeps_settleBuckets
    | with_reducible apply keeps_refuseIf
    | with_reducible apply keeps_recompute
    | with_reducible apply keeps_withOp
    | with_reducible apply keeps_endF
    | intro _
    | (unfold Keeps; dsimp only; with_reducible (apply K4.s15 (hm.bit rfl); apply Keeps.fold)))

theorem keeps_bwRelease (d : Nat) (s : State) (hm : Sub 32768 K) (h0 : Keeps K s) :
    Keeps K (bwRelease d s) := by
  unfold bwRelease
  repeat' (first
    | with_reducible assumption
    | exact hm.le rfl
    | with_reducible apply keeps_settleBuckets
    | with_reducible apply keeps_recompute
    | with_reducible apply keeps_withOp
    | with_reducible apply keeps_refuseF
    | with_reducible apply keeps_endF
    | intro _
    | split
    | (unfold Keeps; dsimp only; with_reducible (apply K4.s15 (hm.bit rfl); apply Keeps.fold)))

theorem keeps_bwMonitor (d : Nat) (s : State) (hm : Sub 557056 K) (h0 : Keeps K s) :
    Keeps K (bwMonitor d s) := by
  unfold bwMonitor
  repeat' (first
    | with_reducible assumption
    | exact hm.le rfl
    | with_reducible apply keeps_refuseIf
    | with_reducible apply keeps_withOp
    | with_reducible apply keeps_putP
    | with_reducible apply keeps_endF
    | intro _
    | split)

theorem keeps_capacityRecompute (res : Nat) (s : State) (hm : Sub 32768 K) (h0 : Keeps K s) :
    Keeps K (capacityRecompute res s) := by
  unfold capacityRecompute
  repeat' (first
    | with_reducible assumption
    | exact hm.le rfl
    | with_reducible apply keeps_recomputeNow
    | split)

theorem keeps_recordMiss (s : State) (h : Nat) (hm : Sub 557056 K) (h0 : Keeps K s) :
    Keeps K (recordMiss s h) := by
  unfold recordMiss
  repeat' (first
    | with_reducible assumption
    | exact hm.le rfl
    | with_reducible apply keeps_emit
    | with_reducible apply keeps_putP
    | split
    | (unfold Keeps; dsimp only; with_reducible (apply K4.s15 (hm.bit rfl); apply Keeps.fold)))

theorem keeps_missInterval (waited : List (Nat × Nat)) (s : State) (hm : Sub 557056 K) (h0 : Keeps K s) :
    Keeps K (missInterval waited s) := by
  unfold missInterval
  repeat' (first
    | with_reducible assumption
    | exact hm.le rfl
    | with_reducible apply keeps_recordMiss
    | with_reducible refine Keeps.foldl ?_ ?_
    | intro _
    | split)

theorem keeps_guaranteeMissedWindow (handle : Nat) (s : State) (hm : Sub 32768 K) (h0 : Keeps K s) :
    Keeps K (guaranteeMissedWindow handle s) := by
  unfold guaranteeMissedWindow
  repeat' (first
    | with_reducible assumption
    | exact hm.le rfl
    | with_reducible apply keeps_emit
    | split
    | (unfold Keeps; dsimp only; with_reducible (apply K4.s15 (hm.bit rfl); apply Keeps.fold)))

theorem keeps_refill (s : State) (port : Nat) (p : Nat) (c : Nat) (r : Nat) (need : Nat) (hm : Sub 32768 K) (h0 : Keeps K s) :
    Keeps K (refill s port p c r need).1 := by
  unfold refill
  dsimp only
  repeat' (first
    | with_reducible assumption
    | exact hm.le rfl
    | with_reducible apply keeps_setBucket
    | split)

theorem keeps_chargePort (s : State) (port : Nat) (p : Nat) (c : Nat) (use : Nat × Nat) (hm : Sub 32768 K) (h0 : Keeps K s) :
    Keeps K (chargePort s port p c use).1 := by
  unfold chargePort
  repeat' (first
    | with_reducible assumption
    | exact hm.le rfl
    | with_reducible apply keeps_refill
    | split
    | (unfold Keeps; dsimp only; with_reducible (apply K4.s15 (hm.bit rfl); apply Keeps.fold)))

theorem keeps_serveReq (s : State) (m : MemReq) (use : List (Nat × Nat)) (conf : Bool) (hm : Sub 1671215 K) (h0 : Keeps K s) :
    Keeps K (serveReq s m use conf) := by
  unfold serveReq
  dsimp only
  repeat' (first
    | with_reducible assumption
    | exact hm.le rfl
    | with_reducible apply keeps_recordMiss
    | with_reducible apply keeps_findCodeword
    | with_reducible apply keeps_vwrite
    | with_reducible apply keeps_undefineLine
    | with_reducible apply keeps_putP
    | with_reducible refine Keeps.foldl ?_ ?_
    | intro _
    | split
    | (refine KeepsE.get (by assumption) ?_))

theorem keeps_holdAt (s : State) (g : Nat) (id : Nat) (h0 : Keeps K s) :
    Keeps K (holdAt s g id) := by
  unfold holdAt
  repeat' (first
    | with_reducible assumption
    | with_reducible apply keeps_putBg)

theorem keeps_serveWaiting (s : State) (id : Nat) (hm : Sub 1671215 K) (h0 : Keeps K s) :
    Keeps K (serveWaiting s id) := by
  unfold serveWaiting
  repeat' (first
    | with_reducible assumption
    | exact hm.le rfl
    | with_reducible apply keeps_holdAt
    | with_reducible apply keeps_serveReq
    | split
    | (unfold Keeps; dsimp only; with_reducible (apply K4.s15 (hm.bit rfl); apply Keeps.fold)))

theorem keeps_serveAll (s : State) (ids : List Nat) (hm : Sub 1671215 K) (h0 : Keeps K s) :
    Keeps K (serveAll s ids) := by
  unfold serveAll
  repeat' (first
    | with_reducible assumption
    | exact hm.le rfl
    | with_reducible apply keeps_serveWaiting
    | with_reducible refine Keeps.foldl ?_ ?_
    | intro _)

theorem keeps_serveFreed (s : State) (hm : Sub 1671215 K) (h0 : Keeps K s) :
    Keeps K (serveFreed s) := by
  unfold serveFreed
  repeat' (first
    | with_reducible assumption
    | exact hm.le rfl
    | with_reducible apply keeps_serveAll)

theorem keeps_addWaiting (s : State) (w : WaitReq) (hm : Sub 32768 K) (h0 : Keeps K s) :
    Keeps K (addWaiting s w).1 := by
  unfold addWaiting
  repeat' (first
    | with_reducible assumption
    | exact hm.le rfl
    | (unfold Keeps; dsimp only; with_reducible (apply K4.s15 (hm.bit rfl); apply Keeps.fold)))

theorem keeps_cacheLeaf (s : State) (m : MemReq) (h0 : Keeps K s) :
    Keeps K (cacheLeaf s m) := by
  unfold cacheLeaf
  repeat' (first
    | with_reducible assumption
    | split
    | (unfold Keeps; dsimp only; with_reducible (apply Keeps.fold)))

theorem keeps_memCache (s : State) (r : MemReq) (pa : Nat) (h0 : Keeps K s) :
    Keeps K (memCache s r pa).1 := by
  unfold memCache
  repeat' (first
    | with_reducible assumption
    | with_reducible apply keeps_cacheLine
    | with_reducible refine Keeps.foldl1 ?_ ?_
    | intro _
    | split)

theorem keeps_routeUnits (s : State) (r : MemReq) (pa : Nat) (hm : Sub 262144 K) (h0 : Keeps K s) :
    Keeps K (routeUnits s r pa) := by
  unfold routeUnits
  dsimp only
  repeat' (first
    | with_reducible assumption
    | exact hm.le rfl
    | with_reducible apply keeps_putBundle
    | split)

theorem keeps_memServe (s : State) (r : MemReq) (pa : Nat) (stack : Nat) (hm : Sub 1671215 K) (h0 : Keeps K s) :
    Keeps K (memServe s r pa stack) := by
  unfold memServe
  repeat' (first
    | with_reducible assumption
    | exact hm.le rfl
    | with_reducible apply keeps_addWaiting
    | with_reducible apply keeps_holdAt
    | with_reducible apply keeps_serveReq
    | split)

theorem keeps_chargeAll (s : State) (r : MemReq) (use : List (Nat × Nat)) (hm : Sub 32768 K) (h0 : Keeps K s) :
    Keeps K (chargeAll s r use).1 := by
  unfold chargeAll
  repeat' (first
    | with_reducible assumption
    | exact hm.le rfl
    | with_reducible apply keeps_chargePort
    | with_reducible refine Keeps.foldl1 ?_ ?_
    | intro _
    | split)

theorem keeps_cacheFault (s : State) (p : Nat) (pa : Nat) (hm : Sub 1114159 K) (h0 : Keeps K s) :
    Keeps K (cacheFault s p pa) := by
  unfold cacheFault
  repeat' (first
    | with_reducible assumption
    | exact hm.le rfl
    | with_reducible apply keeps_chargeMemory
    | with_reducible apply keeps_writeBack
    | with_reducible apply keeps_pwritePoison
    | split
    | (unfold Keeps; dsimp only; with_reducible (apply Keeps.fold)))

theorem keeps_cacheFinding (s : State) (r : MemReq) (pa : Nat) (hm : Sub 1114159 K) (h0 : Keeps K s) :
    Keeps K (cacheFinding s r pa).1 := by
  unfold cacheFinding
  repeat' (first
    | with_reducible assumption
    | exact hm.le rfl
    | with_reducible apply keeps_cacheFault
    | split)

theorem keeps_memRequest (s0 : State) (r0 : MemReq) (pa : Nat) (hm : Sub 1933359 K) (h0 : Keeps K s0) :
    Keeps K (memRequest s0 r0 pa) := by
  unfold memRequest
  dsimp only
  repeat' (first
    | with_reducible assumption
    | exact hm.le rfl
    | with_reducible apply keeps_cacheFinding
    | with_reducible apply keeps_chargeAll
    | with_reducible apply keeps_memServe
    | with_reducible apply keeps_routeUnits
    | with_reducible apply keeps_memCache
    | with_reducible apply keeps_addWaiting
    | split)

theorem keeps_countDrop (s : State) (p : Nat) (hm : Sub 524288 K) (h0 : Keeps K s) :
    Keeps K (countDrop s p) := by
  unfold countDrop
  repeat' (first
    | with_reducible assumption
    | exact hm.le rfl
    | with_reducible apply keeps_putP
    | split)

theorem keeps_memAccess (r0 : MemReq) (s : State) (hm : Sub 1933359 K) (h0 : Keeps K s) :
    Keeps K (memAccess r0 s) := by
  unfold memAccess
  dsimp only
  repeat' (first
    | with_reducible assumption
    | exact hm.le rfl
    | with_reducible apply keeps_countDrop
    | with_reducible apply keeps_memRequest
    | with_reducible apply keeps_cacheLeaf
    | with_reducible apply keeps_emit
    | split)

theorem keeps_grantReturn (port : Nat) (cls : Nat) (res : Nat) (s : State) (hm : Sub 32768 K) (h0 : Keeps K s) :
    Keeps K (grantReturn port cls res s) := by
  unfold grantReturn
  repeat' (first
    | with_reducible assumption
    | exact hm.le rfl
    | with_reducible apply keeps_setBucket
    | with_reducible refine Keeps.foldl ?_ ?_
    | intro _
    | split
    | (unfold Keeps; dsimp only; with_reducible (apply K4.s15 (hm.bit rfl); apply Keeps.fold)))

theorem keeps_heldRequestRelease (res : Nat) (s : State) (hm : Sub 1671215 K) (h0 : Keeps K s) :
    Keeps K (heldRequestRelease res s) := by
  unfold heldRequestRelease
  repeat' (first
    | with_reducible assumption
    | exact hm.le rfl
    | with_reducible apply keeps_serveAll
    | split
    | (unfold Keeps; dsimp only; with_reducible (apply K4.s15 (hm.bit rfl); apply Keeps.fold)))

theorem keeps_prefetchDrop (req : Nat) (s : State) (hm : Sub 557056 K) (h0 : Keeps K s) :
    Keeps K (prefetchDrop req s) := by
  unfold prefetchDrop
  repeat' (first
    | with_reducible assumption
    | exact hm.le rfl
    | with_reducible apply keeps_countDrop
    | split
    | (unfold Keeps; dsimp only; with_reducible (apply K4.s15 (hm.bit rfl); apply Keeps.fold)))

theorem keeps_requestDeadlinePass (req : Nat) (s : State) (hm : Sub 32768 K) (h0 : Keeps K s) :
    Keeps K (requestDeadlinePass req s) := by
  unfold requestDeadlinePass
  repeat' (first
    | with_reducible assumption
    | exact hm.le rfl
    | split
    | (unfold Keeps; dsimp only; with_reducible (apply K4.s15 (hm.bit rfl); apply Keeps.fold)))

theorem keeps_scrubFinds (s : State) (pa : Nat) (found : EccFinding) (hm : Sub 1114159 K) (h0 : Keeps K s) :
    Keeps K (scrubFinds s pa found) := by
  unfold scrubFinds
  repeat' (first
    | with_reducible assumption
    | exact hm.le rfl
    | with_reducible apply keeps_findCodeword
    | with_reducible apply keeps_countCe
    | with_reducible apply keeps_remapRow
    | split
    | (unfold Keeps; dsimp only; with_reducible (apply Keeps.fold)))

theorem keeps_scrubEnd (s : State) (h0 : Keeps K s) :
    Keeps K (scrubEnd s) := by
  unfold scrubEnd
  repeat' (first
    | with_reducible assumption
    | with_reducible apply keeps_emit
    | split
    | (unfold Keeps; dsimp only; with_reducible (apply Keeps.fold)))

theorem keeps_scrubRead (pa : Nat) (found : EccFinding) (s : State) (hm : Sub 1114159 K) (h0 : Keeps K s) :
    Keeps K (scrubRead pa found s) := by
  unfold scrubRead
  repeat' (first
    | with_reducible assumption
    | exact hm.le rfl
    | with_reducible apply keeps_scrubEnd
    | with_reducible apply keeps_scrubFinds
    | split
    | (unfold Keeps; dsimp only; with_reducible (apply Keeps.fold)))

theorem keeps_scrubLag (s : State) (h0 : Keeps K s) :
    Keeps K (scrubLag s) := by
  unfold scrubLag
  repeat' (first
    | with_reducible assumption
    | with_reducible apply keeps_emit
    | split
    | (unfold Keeps; dsimp only; with_reducible (apply Keeps.fold)))

theorem keeps_ceLeak (s : State) (h0 : Keeps K s) :
    Keeps K (ceLeak s) := by
  unfold ceLeak
  repeat' (first
    | with_reducible assumption
    | with_reducible apply keeps_ceRecord
    | with_reducible refine Keeps.foldl ?_ ?_
    | (unfold Keeps; dsimp only; with_reducible (apply Keeps.fold)))

theorem keeps_runFaults (s : State) (d : Nat) (w : Work) (hm : Sub 1114159 K) (h0 : Keeps K s) :
    Keeps K (runFaults s d w).1 := by
  unfold runFaults
  repeat' (first
    | with_reducible assumption
    | exact hm.le rfl
    | with_reducible apply keeps_coreFaults
    | with_reducible apply keeps_putF
    | split
    | (unfold Keeps; dsimp only; with_reducible (apply Keeps.fold)))

theorem keeps_beginF (s : State) (d : Nat) (f : Flight) (cores : List Nat) (units : Tbl Nat) (h0 : Keeps K s) :
    Keeps K (beginF s d f cores units) := by
  unfold beginF
  repeat' (first
    | with_reducible assumption
    | with_reducible apply keeps_putF)

end Sys2Proof.Machine
end

