-- ==== Sys2Proof/Laws/KeepsWork.lean ====
section
/-! SUPPORT. What the operations of the cores, of memory, of sync, of sequences and of steps keep, as `Keeps` says it: one lemma for each operation. -/

namespace Sys2Proof.Machine

variable {K : Kept}

theorem keeps_finishP (s : State) (d : Nat) (a2 : Except Stop (State × Bool)) (hm : Sub 1048584 K) (h0 : Keeps K s) (he : KeepsE1 K a2) :
    Keeps K (finishP s d a2) := by
  unfold finishP
  repeat' (first
    | with_reducible assumption
    | exact hm.le rfl
    | with_reducible apply keeps_stopWith
    | with_reducible apply keeps_endF
    | exact he
    | split)

theorem keeps_copyOp (s : State) (d : Nat) (f : Flight) (hm : Sub 1048579 K) (h0 : Keeps K s) :
    KeepsE1 K (copyOp s d f) := by
  unfold copyOp
  dsimp only
  repeat' (first
    | with_reducible assumption
    | exact hm.le rfl
    | with_reducible apply keeps_writeFree
    | with_reducible apply keeps_writeRowsP
    | with_reducible apply keeps_vwriteP
    | with_reducible apply keeps_touchRead
    | with_reducible apply KeepsE1.ok
    | with_reducible refine KeepsE1.bindS ?_ ?_
    | with_reducible refine KeepsE1.bind ?_
    | with_reducible refine KeepsE1.map ?_ ?_
    | intro _
    | split)

theorem keeps_copy (d : Nat) (s : State) (hm : Sub 1048587 K) (h0 : Keeps K s) :
    Keeps K (copy d s) := by
  unfold copy
  repeat' (first
    | with_reducible assumption
    | exact hm.le rfl
    | with_reducible apply keeps_copyOp
    | with_reducible apply keeps_finishP
    | with_reducible apply keeps_withOp
    | intro _)

theorem keeps_fillOp (s : State) (d : Nat) (f : Flight) (hm : Sub 1048579 K) (h0 : Keeps K s) :
    KeepsE K (fillOp s d f) := by
  unfold fillOp
  repeat' (first
    | with_reducible assumption
    | exact hm.le rfl
    | with_reducible apply keeps_writeFree
    | with_reducible apply keeps_writeCodes
    | with_reducible refine KeepsE.bind ?_
    | intro _
    | split)

theorem keeps_fill (d : Nat) (s : State) (hm : Sub 1048587 K) (h0 : Keeps K s) :
    Keeps K (fill d s) := by
  unfold fill
  repeat' (first
    | with_reducible assumption
    | exact hm.le rfl
    | with_reducible apply keeps_fillOp
    | with_reducible apply keeps_finishE
    | with_reducible apply keeps_withOp
    | intro _)

theorem keeps_toHostOp (s : State) (d : Nat) (f : Flight) (hm : Sub 3 K) (h0 : Keeps K s) :
    KeepsE1 K (toHostOp s d f) := by
  unfold toHostOp
  dsimp only
  repeat' (first
    | with_reducible assumption
    | exact hm.le rfl
    | with_reducible apply keeps_touchRead
    | with_reducible apply keeps_hwrite
    | with_reducible apply KeepsE1.ok
    | with_reducible apply KeepsE1.error
    | with_reducible refine KeepsE1.bind ?_
    | intro _
    | split)

theorem keeps_toHost (d : Nat) (s : State) (hm : Sub 1048587 K) (h0 : Keeps K s) :
    Keeps K (toHost d s) := by
  unfold toHost
  repeat' (first
    | with_reducible assumption
    | exact hm.le rfl
    | with_reducible apply keeps_toHostOp
    | with_reducible apply keeps_finishP
    | with_reducible apply keeps_withOp
    | intro _)

theorem keeps_fromHostOp (s : State) (d : Nat) (f : Flight) (hm : Sub 1048579 K) (h0 : Keeps K s) :
    KeepsE K (fromHostOp s d f) := by
  unfold fromHostOp
  repeat' (first
    | with_reducible assumption
    | exact hm.le rfl
    | with_reducible apply keeps_writeFree
    | with_reducible apply keeps_writeCodes
    | with_reducible apply KeepsE.error
    | with_reducible refine KeepsE.bind ?_
    | intro _
    | split)

theorem keeps_fromHost (d : Nat) (s : State) (hm : Sub 1048587 K) (h0 : Keeps K s) :
    Keeps K (fromHost d s) := by
  unfold fromHost
  repeat' (first
    | with_reducible assumption
    | exact hm.le rfl
    | with_reducible apply keeps_fromHostOp
    | with_reducible apply keeps_finishE
    | with_reducible apply keeps_withOp
    | intro _)

theorem keeps_mapOp (s : State) (f : Flight) (hm : Sub 7 K) (h0 : Keeps K s) :
    KeepsE K (mapOp s f) := by
  unfold mapOp
  dsimp only
  repeat' (first
    | with_reducible assumption
    | with_reducible refine keeps_foldE _ _ _ ?_ ?_
    | exact hm.le rfl
    | with_reducible apply keeps_mapLeaf
    | with_reducible apply keeps_claimGrain
    | with_reducible apply KeepsE.ok
    | with_reducible apply KeepsE.error
    | with_reducible refine KeepsE.bind ?_
    | intro _
    | split
    | (refine KeepsO.get (by assumption) ?_))

theorem keeps_map (d : Nat) (s : State) (hm : Sub 1048591 K) (h0 : Keeps K s) :
    Keeps K (map d s) := by
  unfold map
  repeat' (first
    | with_reducible assumption
    | exact hm.le rfl
    | with_reducible apply keeps_mapOp
    | with_reducible apply keeps_finishE
    | with_reducible apply keeps_withOp
    | with_reducible apply keeps_emit
    | with_reducible apply keeps_endF
    | intro _
    | split)

theorem keeps_unmapOp (s : State) (f : Flight) (hm : Sub 7 K) (h0 : Keeps K s) :
    KeepsE K (unmapOp s f) := by
  unfold unmapOp
  repeat' (first
    | with_reducible assumption
    | exact hm.le rfl
    | with_reducible apply keeps_unmapLeaf
    | with_reducible refine Keeps.foldl ?_ ?_
    | with_reducible apply KeepsE.ok
    | with_reducible apply KeepsE.error
    | with_reducible refine KeepsE.bind ?_
    | intro _
    | split)

theorem keeps_unmap (d : Nat) (s : State) (hm : Sub 1048591 K) (h0 : Keeps K s) :
    Keeps K (unmap d s) := by
  unfold unmap
  repeat' (first
    | with_reducible assumption
    | exact hm.le rfl
    | with_reducible apply keeps_unmapOp
    | with_reducible apply keeps_finishE
    | with_reducible apply keeps_withOp
    | intro _)

theorem keeps_tpoolAddOp (s : State) (f : Flight) (h0 : Keeps K s) :
    KeepsE K (tpoolAddOp s f) := by
  unfold tpoolAddOp
  dsimp only
  repeat' (first
    | with_reducible assumption
    | with_reducible apply keeps_claimGrain
    | with_reducible refine Keeps.foldl ?_ ?_
    | with_reducible apply KeepsE.ok
    | with_reducible apply KeepsE.error
    | with_reducible refine KeepsE.bind ?_
    | intro _
    | split
    | (unfold Keeps; dsimp only; with_reducible (apply Keeps.fold)))

theorem keeps_tpoolAdd (d : Nat) (s : State) (hm : Sub 1048584 K) (h0 : Keeps K s) :
    Keeps K (tpoolAdd d s) := by
  unfold tpoolAdd
  repeat' (first
    | with_reducible assumption
    | exact hm.le rfl
    | with_reducible apply keeps_tpoolAddOp
    | with_reducible apply keeps_finishE
    | with_reducible apply keeps_withOp
    | intro _)

theorem keeps_writeRows (s : State) (cx : Cx) (fmt : Nat) (e0 : Nat) (rows : List Nat) (codes : List (Nat × Bool)) (hm : Sub 1048579 K) (h0 : Keeps K s) :
    KeepsE K (writeRows s cx fmt e0 rows codes) := by
  unfold writeRows
  repeat' (first
    | with_reducible assumption
    | with_reducible refine keeps_foldE _ _ _ ?_ ?_
    | exact hm.le rfl
    | with_reducible apply keeps_vwriteP
    | intro _)

theorem keeps_finishGroup (s : State) (key : Nat) (hm : Sub 1048587 K) (h0 : Keeps K s) : Keeps K (finishGroup s key) := by
  unfold finishGroup
  split
  · exact h0
  · split
    · exact h0
    · next g _ _ =>
      dsimp only
      split
      · next e =>
        apply Keeps.foldl
        · refine KeepsE1.get' e ?_
          refine KeepsE1.bind fun a _ => ?_
          refine KeepsE1.bindS (keeps_writeRows _ _ _ _ _ _ (hm.le rfl) ?_) fun t ht => ?_
          · exact h0
          · exact ht
        · intro u c hu
          exact keeps_endF _ _ _ _ hu
      · apply Keeps.foldl
        · exact h0
        · intro u c hu
          exact keeps_stopWith _ _ _ _ (hm.le rfl) hu

theorem keeps_contribute (s : State) (d : Nat) (f : Flight) (src : Tensor) (dst : Tensor) (codes : List (Nat × Bool)) (hm : Sub 1048587 K) (h0 : Keeps K s) :
    Keeps K (contribute s d f src dst codes) := by
  unfold contribute
  repeat' (first
    | with_reducible assumption
    | exact hm.le rfl
    | with_reducible apply keeps_finishGroup
    | with_reducible apply keeps_touchRead
    | with_reducible apply keeps_endF
    | with_reducible apply keeps_putF
    | split
    | (unfold Keeps; dsimp only; with_reducible (apply Keeps.fold)))

theorem keeps_accEach (cx : Cx) (fmt : Nat) (op : Nat) (a3 : List (Nat × Nat × Bool)) (a4 : State) (a5 : Bool) (hm : Sub 1048579 K) (h0 : Keeps K a4) :
    KeepsE1 K (accEach cx fmt op a3 a4 a5) := by
  induction a3 generalizing a4 a5 with
  | nil =>
    unfold accEach
    try dsimp only
    repeat' (first
      | with_reducible assumption
      | exact hm.le rfl
      | with_reducible apply keeps_vwriteP
      | with_reducible apply KeepsE1.ok
      | with_reducible apply KeepsE1.error
      | intro _
      | split
      | (refine KeepsE.get (by assumption) ?_))
  | cons b r ih =>
    unfold accEach
    try dsimp only
    repeat' (first
      | with_reducible apply ih
      | with_reducible assumption
      | exact hm.le rfl
      | with_reducible apply keeps_vwriteP
      | with_reducible apply KeepsE1.ok
      | with_reducible apply KeepsE1.error
      | intro _
      | split
      | (refine KeepsE.get (by assumption) ?_))

theorem keeps_accOp (s : State) (d : Nat) (f : Flight) (hm : Sub 1048587 K) (h0 : Keeps K s) :
    KeepsE K (accOp s d f) := by
  unfold accOp
  repeat' (first
    | with_reducible assumption
    | exact hm.le rfl
    | with_reducible apply keeps_accEach
    | with_reducible apply keeps_contribute
    | with_reducible apply keeps_touchRead
    | with_reducible apply keeps_endF
    | with_reducible apply KeepsE.ok
    | with_reducible apply KeepsE.error
    | with_reducible refine KeepsE.bind ?_
    | intro _
    | split
    | (refine KeepsE1.get' (by assumption) ?_))

theorem keeps_acc (d : Nat) (s : State) (hm : Sub 1048587 K) (h0 : Keeps K s) :
    Keeps K (acc d s) := by
  unfold acc
  repeat' (first
    | with_reducible assumption
    | exact hm.le rfl
    | with_reducible apply keeps_accOp
    | with_reducible apply keeps_withOp
    | with_reducible apply keeps_stopWith
    | intro _
    | split
    | (refine KeepsE.get (by assumption) ?_))

theorem keeps_orderedStagingGrant (stack : Nat) (s : State) (hm : Sub 1048587 K) (h0 : Keeps K s) :
    Keeps K (orderedStagingGrant stack s) := by
  unfold orderedStagingGrant
  repeat' (first
    | with_reducible assumption
    | exact hm.le rfl
    | with_reducible apply keeps_finishGroup
    | split
    | (unfold Keeps; dsimp only; with_reducible (apply Keeps.fold)))

theorem keeps_syncNop (d : Nat) (s : State) (h0 : Keeps K s) :
    Keeps K (syncNop d s) := by
  unfold syncNop
  repeat' (first
    | with_reducible assumption
    | with_reducible apply keeps_withOp
    | with_reducible apply keeps_endF
    | intro _)

theorem keeps_syncAdd (d : Nat) (s : State) (hm : Sub 540688 K) (h0 : Keeps K s) :
    Keeps K (syncAdd d s) := by
  unfold syncAdd
  dsimp only
  repeat' (first
    | with_reducible assumption
    | exact hm.le rfl
    | with_reducible apply keeps_addCounter
    | with_reducible apply keeps_withOp
    | with_reducible apply keeps_endF
    | with_reducible refine Keeps.foldl1 ?_ ?_
    | intro _
    | split)

theorem keeps_syncWaitAll (d : Nat) (s : State) (h0 : Keeps K s) :
    Keeps K (syncWaitAll d s) := by
  unfold syncWaitAll
  repeat' (first
    | with_reducible assumption
    | with_reducible apply keeps_withOp
    | with_reducible apply keeps_endF
    | with_reducible apply keeps_putF
    | intro _
    | split)

theorem keeps_syncPair (d : Nat) (s : State) (hm : Sub 16 K) (h0 : Keeps K s) :
    Keeps K (syncPair d s) := by
  unfold syncPair
  repeat' (first
    | with_reducible assumption
    | exact hm.le rfl
    | with_reducible apply keeps_refuseIf
    | with_reducible apply keeps_withOp
    | with_reducible apply keeps_endF
    | intro _
    | split
    | (unfold Keeps; dsimp only; with_reducible (apply K4.s4 (hm.bit rfl); apply Keeps.fold)))

theorem keeps_syncUnpair (d : Nat) (s : State) (hm : Sub 16 K) (h0 : Keeps K s) :
    Keeps K (syncUnpair d s) := by
  unfold syncUnpair
  repeat' (first
    | with_reducible assumption
    | exact hm.le rfl
    | with_reducible apply keeps_refuseIf
    | with_reducible apply keeps_withOp
    | with_reducible apply keeps_endF
    | intro _
    | (unfold Keeps; dsimp only; with_reducible (apply K4.s4 (hm.bit rfl); apply Keeps.fold)))

theorem keeps_syncRead (d : Nat) (s : State) (hm : Sub 1048587 K) (h0 : Keeps K s) :
    Keeps K (syncRead d s) := by
  unfold syncRead
  dsimp only
  repeat' (first
    | with_reducible assumption
    | exact hm.le rfl
    | with_reducible apply keeps_refuseIf
    | with_reducible apply keeps_finishE
    | with_reducible apply keeps_withOp
    | with_reducible apply keeps_vwrite
    | with_reducible apply keeps_endF
    | intro _
    | split)

theorem keeps_signalAdd (p : Nat) (c : Nat) (n : Nat) (s : State) (hm : Sub 540688 K) (h0 : Keeps K s) :
    Keeps K (signalAdd p c n s) := by
  unfold signalAdd
  repeat' (first
    | with_reducible assumption
    | exact hm.le rfl
    | with_reducible apply keeps_addCounter
    | split)

theorem keeps_laneModeChange (core : Nat) (s : State) (h0 : Keeps K s) :
    Keeps K (laneModeChange core s) := by
  unfold laneModeChange
  repeat' (first
    | with_reducible assumption
    | with_reducible apply keeps_putCore
    | split)

theorem keeps_sleepF (s : State) (d : Nat) (f : Flight) (core : Nat) (done : Nat) (units : Tbl Nat) (h0 : Keeps K s) :
    Keeps K (sleepF s d f core done units) := by
  unfold sleepF
  repeat' (first
    | with_reducible assumption
    | with_reducible apply keeps_putF)

theorem keeps_writeMat (s : State) (cx : Cx) (f : Flight) (p : MatPlan) (keep : Option (Nat → Bool)) (vals : List Nat) (hm : Sub 1048579 K) (h0 : Keeps K s) :
    KeepsE K (writeMat s cx f p keep vals) := by
  unfold writeMat
  repeat' (first
    | with_reducible assumption
    | with_reducible refine keeps_foldE _ _ _ ?_ ?_
    | exact hm.le rfl
    | with_reducible apply keeps_writeParts
    | with_reducible apply keeps_writeF32
    | with_reducible apply keeps_writeCodes
    | with_reducible apply keeps_vwriteH
    | with_reducible apply KeepsE.ok
    | intro _
    | split)

theorem keeps_matRun (s : State) (d : Nat) (f : Flight) (p : MatPlan) (w : Work) (hm : Sub 1114159 K) (h0 : Keeps K s) :
    KeepsE K (matRun s d f p w) := by
  unfold matRun
  dsimp only
  repeat' (first
    | with_reducible assumption
    | exact hm.le rfl
    | with_reducible apply keeps_writeMat
    | with_reducible apply keeps_sleepF
    | with_reducible apply keeps_beginF
    | with_reducible apply keeps_runFaults
    | with_reducible apply keeps_writeFree
    | with_reducible apply keeps_touchRead
    | with_reducible apply keeps_endF
    | with_reducible refine Keeps.foldl ?_ ?_
    | with_reducible apply KeepsE.ok
    | with_reducible refine KeepsE.bindS ?_ ?_
    | with_reducible refine KeepsE.bind ?_
    | intro _
    | split)

theorem keeps_matrixOp (s : State) (d : Nat) (f : Flight) (w : Work) (hm : Sub 1114159 K) (h0 : Keeps K s) :
    Keeps K (matrixOp s d f w) := by
  unfold matrixOp
  repeat' (first
    | with_reducible assumption
    | exact hm.le rfl
    | with_reducible apply keeps_matRun
    | with_reducible apply keeps_stopWith
    | split
    | (refine KeepsE.get (by assumption) ?_))

theorem keeps_matmul (d : Nat) (w : Work) (s : State) (hm : Sub 1114159 K) (h0 : Keeps K s) :
    Keeps K (matmul d w s) := by
  unfold matmul
  repeat' (first
    | with_reducible assumption
    | exact hm.le rfl
    | with_reducible apply keeps_matrixOp
    | with_reducible apply keeps_withOp
    | intro _)

theorem keeps_conv1d (d : Nat) (w : Work) (s : State) (hm : Sub 1114159 K) (h0 : Keeps K s) :
    Keeps K (conv1d d w s) := by
  unfold conv1d
  repeat' (first
    | with_reducible assumption
    | exact hm.le rfl
    | with_reducible apply keeps_matrixOp
    | with_reducible apply keeps_withOp
    | intro _)

theorem keeps_conv2d (d : Nat) (w : Work) (s : State) (hm : Sub 1114159 K) (h0 : Keeps K s) :
    Keeps K (conv2d d w s) := by
  unfold conv2d
  repeat' (first
    | with_reducible assumption
    | exact hm.le rfl
    | with_reducible apply keeps_matrixOp
    | with_reducible apply keeps_withOp
    | intro _)

theorem keeps_fillRun (s : State) (d : Nat) (f : Flight) (w : Work) (p : FillPlan) (hm : Sub 1114159 K) (h0 : Keeps K s) :
    KeepsE K (fillRun s d f w p) := by
  unfold fillRun
  dsimp only
  repeat' (first
    | with_reducible assumption
    | exact hm.le rfl
    | with_reducible apply keeps_sleepF
    | with_reducible apply keeps_beginF
    | with_reducible apply keeps_runFaults
    | with_reducible apply keeps_writeParts
    | with_reducible apply keeps_writeFree
    | with_reducible apply keeps_writeF32
    | with_reducible apply keeps_touchRead
    | with_reducible apply keeps_endF
    | with_reducible refine Keeps.foldl ?_ ?_
    | with_reducible apply KeepsE.ok
    | with_reducible refine KeepsE.bindS ?_ ?_
    | intro _
    | split)

theorem keeps_chainRun (s : State) (d : Nat) (f : Flight) (ch : Chain) (p : ChainSet) (w : Work) (hm : Sub 1114159 K) (h0 : Keeps K s) :
    KeepsE K (chainRun s d f ch p w) := by
  unfold chainRun
  dsimp only
  repeat' (first
    | with_reducible assumption
    | exact hm.le rfl
    | with_reducible apply keeps_fillRun
    | with_reducible refine KeepsE.bind ?_
    | intro _
    | split)

theorem keeps_nearStart (s : State) (d : Nat) (f : Flight) (k : Nat) (ch : Chain) (sets : List ChainSet) (h0 : Keeps K s) :
    Keeps K (nearStart s d f k ch sets) := by
  unfold nearStart
  repeat' (first
    | with_reducible assumption
    | with_reducible apply keeps_putF
    | (unfold Keeps; dsimp only; with_reducible (apply Keeps.fold)))

theorem keeps_nearBegin (s : State) (d : Nat) (f : Flight) (ch : Chain) (sets : List ChainSet) (h0 : Keeps K s) :
    KeepsE K (nearBegin s d f ch sets) := by
  unfold nearBegin
  dsimp only
  repeat' (first
    | with_reducible assumption
    | with_reducible apply keeps_nearStart
    | with_reducible apply KeepsE.ok
    | with_reducible apply KeepsE.error
    | with_reducible refine KeepsE.bind ?_
    | intro _
    | split)

theorem keeps_chain (d : Nat) (w : Work) (s : State) (hm : Sub 1114159 K) (h0 : Keeps K s) :
    Keeps K (chain d w s) := by
  unfold chain
  dsimp only
  repeat' (first
    | with_reducible assumption
    | exact hm.le rfl
    | with_reducible apply keeps_nearBegin
    | with_reducible apply keeps_chainRun
    | with_reducible apply keeps_withOp
    | with_reducible apply keeps_stopWith
    | with_reducible refine KeepsE.bind ?_
    | intro _
    | split
    | (refine KeepsE.get (by assumption) ?_))

theorem keeps_nearList (d : Nat) (s : State) (hm : Sub 1048584 K) (h0 : Keeps K s) :
    Keeps K (nearList d s) := by
  unfold nearList
  dsimp only
  repeat' (first
    | with_reducible assumption
    | exact hm.le rfl
    | with_reducible apply keeps_nearBegin
    | with_reducible apply keeps_withOp
    | with_reducible apply keeps_stopWith
    | with_reducible refine KeepsE.bind ?_
    | intro _
    | split
    | (refine KeepsE.get (by assumption) ?_))

theorem keeps_windowOpen (stack : Nat) (pc : Nat) (group : Nat) (d : Nat) (s : State) (h0 : Keeps K s) :
    Keeps K (windowOpen stack pc group d s) := by
  unfold windowOpen
  repeat' (first
    | with_reducible assumption
    | with_reducible apply keeps_cleanBlocks
    | with_reducible apply keeps_putBg
    | split
    | (unfold Keeps; dsimp only; with_reducible (apply Keeps.fold)))

theorem keeps_releaseHeld (s : State) (key : Nat) (hm : Sub 1671215 K) (h0 : Keeps K s) :
    Keeps K (releaseHeld s key) := by
  unfold releaseHeld
  repeat' (first
    | with_reducible assumption
    | exact hm.le rfl
    | with_reducible apply keeps_serveAll
    | with_reducible apply keeps_putBg)

theorem keeps_nearEnd (s : State) (d : Nat) (st : Nat) (hm : Sub 3 K) (h0 : Keeps K s) :
    Keeps K (nearEnd s d st) := by
  unfold nearEnd
  repeat' (first
    | with_reducible assumption
    | exact hm.le rfl
    | with_reducible apply keeps_shutWindows
    | with_reducible apply keeps_endF
    | (unfold Keeps; dsimp only; with_reducible (apply Keeps.fold)))

theorem keeps_nearSettle (s : State) (d : Nat) (f : Flight) (hm : Sub 3 K) (h0 : Keeps K s) :
    Keeps K (nearSettle s d f) := by
  unfold nearSettle
  repeat' (first
    | with_reducible assumption
    | exact hm.le rfl
    | with_reducible apply keeps_nearEnd
    | with_reducible apply keeps_emit
    | split)

theorem keeps_endWindow (s : State) (key : Nat) (len : Nat) (x : WindowWork) (hm : Sub 1146927 K) (h0 : Keeps K s) :
    Keeps K (endWindow s key len x) := by
  unfold endWindow
  dsimp only
  repeat' (first
    | with_reducible assumption
    | exact hm.le rfl
    | with_reducible apply keeps_nearSettle
    | with_reducible apply keeps_nearEnd
    | with_reducible apply keeps_chargePort
    | with_reducible apply keeps_chargeUnit
    | with_reducible apply keeps_findCodeword
    | with_reducible apply keeps_shutGroup
    | with_reducible apply keeps_nearDrain
    | with_reducible refine Keeps.foldl ?_ ?_
    | intro _
    | split)

theorem keeps_windowClose (stack : Nat) (pc : Nat) (group : Nat) (x : WindowWork) (s : State) (hm : Sub 1671215 K) (h0 : Keeps K s) :
    Keeps K (windowClose stack pc group x s) := by
  unfold windowClose
  dsimp only
  repeat' (first
    | with_reducible assumption
    | exact hm.le rfl
    | with_reducible apply keeps_endWindow
    | with_reducible apply keeps_releaseHeld
    | split)

theorem keeps_windowCut (stack : Nat) (pc : Nat) (group : Nat) (x : WindowWork) (s : State) (hm : Sub 1671215 K) (h0 : Keeps K s) :
    Keeps K (windowCut stack pc group x s) := by
  unfold windowCut
  dsimp only
  repeat' (first
    | with_reducible assumption
    | exact hm.le rfl
    | with_reducible apply keeps_endWindow
    | with_reducible apply keeps_releaseHeld
    | split)

theorem keeps_bankGroupRefresh (stack : Nat) (pc : Nat) (group : Nat) (s : State) (h0 : Keeps K s) :
    Keeps K (bankGroupRefresh stack pc group s) := by
  unfold bankGroupRefresh
  dsimp only
  repeat' (first
    | with_reducible assumption
    | with_reducible apply keeps_putBg
    | split)

theorem keeps_softmaxOp (s : State) (d : Nat) (f : Flight) (w : Work) (hm : Sub 1114159 K) (h0 : Keeps K s) :
    KeepsE K (softmaxOp s d f w) := by
  unfold softmaxOp
  repeat' (first
    | with_reducible assumption
    | exact hm.le rfl
    | with_reducible apply keeps_fillRun
    | with_reducible refine KeepsE.bind ?_
    | intro _)

theorem keeps_softmax (d : Nat) (w : Work) (s : State) (hm : Sub 1114159 K) (h0 : Keeps K s) :
    Keeps K (softmax d w s) := by
  unfold softmax
  repeat' (first
    | with_reducible assumption
    | exact hm.le rfl
    | with_reducible apply keeps_softmaxOp
    | with_reducible apply keeps_withOp
    | with_reducible apply keeps_stopWith
    | intro _
    | split
    | (refine KeepsE.get (by assumption) ?_))

theorem keeps_sampleOp (s : State) (d : Nat) (f : Flight) (w : Work) (hm : Sub 1114159 K) (h0 : Keeps K s) :
    KeepsE K (sampleOp s d f w) := by
  unfold sampleOp
  dsimp only
  repeat' (first
    | with_reducible assumption
    | exact hm.le rfl
    | with_reducible apply keeps_beginF
    | with_reducible apply keeps_runFaults
    | with_reducible apply keeps_writeFree
    | with_reducible apply keeps_writeCodes
    | with_reducible apply keeps_touchRead
    | with_reducible apply keeps_endF
    | with_reducible apply KeepsE.ok
    | with_reducible refine KeepsE.bindS ?_ ?_
    | with_reducible refine KeepsE.bind ?_
    | intro _
    | split
    | (unfold Keeps; dsimp only; with_reducible (apply K4.s5 (hm.bit rfl); apply Keeps.fold)))

theorem keeps_sample (d : Nat) (w : Work) (s : State) (hm : Sub 1114159 K) (h0 : Keeps K s) :
    Keeps K (sample d w s) := by
  unfold sample
  repeat' (first
    | with_reducible assumption
    | exact hm.le rfl
    | with_reducible apply keeps_sampleOp
    | with_reducible apply keeps_withOp
    | with_reducible apply keeps_stopWith
    | intro _
    | split
    | (refine KeepsE.get (by assumption) ?_))

theorem keeps_attAppend (s : State) (cx : Cx) (p : AttPlan) (rows : List (List Byte)) (a4 : List (Nat × Nat × Nat)) (hm : Sub 1048591 K) (h0 : Keeps K s) :
    Keeps K (attAppend s cx p rows a4).1 := by
  induction a4 generalizing s with
  | nil =>
    unfold attAppend
    try dsimp only
    repeat' (first
      | with_reducible assumption
      | exact hm.le rfl
      | with_reducible apply keeps_appendEntries
      | intro _
      | split)
  | cons b r ih =>
    unfold attAppend
    try dsimp only
    repeat' (first
      | with_reducible apply ih
      | with_reducible assumption
      | exact hm.le rfl
      | with_reducible apply keeps_appendEntries
      | intro _
      | split)

theorem keeps_enterStep (s : State) (d : Nat) (f : Flight) (hm : Sub 8 K) (h0 : Keeps K s) :
    Keeps K (enterStep s d f) := by
  unfold enterStep
  dsimp only
  repeat' (first
    | with_reducible assumption
    | exact hm.le rfl
    | with_reducible apply keeps_putSlot
    | split)

theorem keeps_attDead (s : State) (d : Nat) (f : Flight) (hm : Sub 1048591 K) (h0 : Keeps K s) :
    Keeps K (attDead s d f) := by
  unfold attDead
  repeat' (first
    | with_reducible assumption
    | exact hm.le rfl
    | with_reducible apply keeps_rollbackStep
    | split)

theorem keeps_attQuit (s : State) (d : Nat) (f : Flight) (extra : Nat) (e : Stop) (hm : Sub 1048591 K) (h0 : Keeps K s) :
    Keeps K (attQuit s d f extra e) := by
  unfold attQuit
  repeat' (first
    | with_reducible assumption
    | exact hm.le rfl
    | with_reducible apply keeps_attDead
    | with_reducible apply keeps_stopWith
    | split)

theorem keeps_attStop (s0 : State) (s : State) (d : Nat) (f : Flight) (p : AttPlan) (extra : Nat) (e : Stop) (hm : Sub 1048591 K) (h0 : Keeps K s0) (h1 : Keeps K s) :
    Keeps K (attStop s0 s d f p extra e) := by
  unfold attStop
  dsimp only
  repeat' (first
    | with_reducible assumption
    | exact hm.le rfl
    | with_reducible apply keeps_attQuit
    | with_reducible apply keeps_attDead
    | with_reducible apply keeps_unstop
    | with_reducible apply keeps_preempt
    | with_reducible apply keeps_stopWith
    | with_reducible apply keeps_endF
    | split)

theorem keeps_setIncs (s : State) (layer : Nat) (incs : List (Nat × List (Nat × Nat))) (hm : Sub 8 K) (h0 : Keeps K s) :
    Keeps K (setIncs s layer incs) := by
  unfold setIncs
  dsimp only
  repeat' (first
    | with_reducible assumption
    | exact hm.le rfl
    | with_reducible apply keeps_putSlot
    | with_reducible refine Keeps.foldl ?_ ?_
    | intro _
    | split)

theorem keeps_attRun (s : State) (d : Nat) (f : Flight) (p : AttPlan) (w : Work) (seqs : List (Nat × Nat × Nat)) (hm : Sub 1114159 K) (h0 : Keeps K s) :
    Keeps K (attRun s d f p w seqs) := by
  unfold attRun
  dsimp only
  repeat' (first
    | with_reducible assumption
    | exact hm.le rfl
    | with_reducible apply keeps_setIncs
    | with_reducible apply keeps_attStop
    | with_reducible apply keeps_attDead
    | with_reducible apply keeps_attAppend
    | with_reducible apply keeps_runFaults
    | with_reducible apply keeps_writeParts
    | with_reducible apply keeps_writeF32
    | with_reducible apply keeps_touchRead
    | with_reducible apply keeps_endF
    | with_reducible refine Keeps.foldl ?_ ?_
    | intro _
    | split
    | (refine KeepsE.get (by assumption) ?_))

theorem keeps_attendOp (s : State) (d : Nat) (f : Flight) (w : Work) (hm : Sub 1114159 K) (h0 : Keeps K s) :
    Keeps K (attendOp s d f w) := by
  unfold attendOp
  dsimp only
  repeat' (first
    | with_reducible assumption
    | exact hm.le rfl
    | with_reducible apply keeps_attRun
    | with_reducible apply keeps_attQuit
    | with_reducible apply keeps_enterStep
    | split)

theorem keeps_attend (d : Nat) (w : Work) (s : State) (hm : Sub 1114159 K) (h0 : Keeps K s) :
    Keeps K (attend d w s) := by
  unfold attend
  repeat' (first
    | with_reducible assumption
    | exact hm.le rfl
    | with_reducible apply keeps_attendOp
    | with_reducible apply keeps_withOp
    | intro _)

theorem keeps_poolRestart (d : Nat) (s : State) (hm : Sub 1048623 K) (h0 : Keeps K s) :
    Keeps K (poolRestart d s) := by
  unfold poolRestart
  dsimp only
  repeat' (first
    | with_reducible assumption
    | exact hm.le rfl
    | with_reducible apply keeps_enterStep
    | with_reducible apply keeps_stopF
    | with_reducible apply keeps_unstop
    | with_reducible apply keeps_preempt
    | with_reducible apply keeps_refuseF
    | with_reducible apply keeps_endF
    | with_reducible apply keeps_putF
    | split)

theorem keeps_kvOp (s : State) (d : Nat) (op : Nat) (k : Flight → State) (h0 : Keeps K s) (hk : ∀ x, Keeps K (k x)) :
    Keeps K (kvOp s d op k) := by
  unfold kvOp
  repeat' (first
    | with_reducible assumption
    | with_reducible apply keeps_withOp
    | with_reducible apply keeps_endF
    | apply hk
    | intro _
    | split)

theorem keeps_seqOpen (d : Nat) (s : State) (hm : Sub 1048584 K) (h0 : Keeps K s) :
    Keeps K (seqOpen d s) := by
  unfold seqOpen
  repeat' (first
    | with_reducible assumption
    | exact hm.le rfl
    | with_reducible apply keeps_kvOp
    | with_reducible apply keeps_refuseIf
    | with_reducible apply keeps_stopWith
    | with_reducible apply keeps_putSlot
    | with_reducible apply keeps_refuseF
    | with_reducible apply keeps_endF
    | intro _
    | split)

theorem keeps_closeSeq (s : State) (p : Nat) (slot : Nat) (hm : Sub 15 K) (h0 : Keeps K s) :
    Keeps K (closeSeq s p slot) := by
  unfold closeSeq
  repeat' (first
    | with_reducible assumption
    | exact hm.le rfl
    | with_reducible apply keeps_freeImage
    | with_reducible apply keeps_unmapPage
    | with_reducible refine Keeps.foldl ?_ ?_
    | intro _
    | (unfold Keeps; dsimp only; with_reducible (apply K4.s3 (hm.bit rfl); apply Keeps.fold)))

theorem keeps_seqClose (d : Nat) (s : State) (hm : Sub 15 K) (h0 : Keeps K s) :
    Keeps K (seqClose d s) := by
  unfold seqClose
  repeat' (first
    | with_reducible assumption
    | exact hm.le rfl
    | with_reducible apply keeps_closeSeq
    | with_reducible apply keeps_kvOp
    | with_reducible apply keeps_refuseIf
    | with_reducible apply keeps_endF
    | with_reducible apply keeps_putF
    | intro _
    | split)

theorem keeps_forkScore (s : State) (p : Nat) (parent : Nat) (child : Nat) (key : Nat) (hm : Sub 15 K) (h0 : Keeps K s) :
    KeepsO K (forkScore s p parent child key) := by
  unfold forkScore
  repeat' (first
    | with_reducible assumption
    | exact hm.le rfl
    | with_reducible apply keeps_mapThin
    | with_reducible apply keeps_putScore
    | with_reducible apply KeepsO.some
    | with_reducible apply KeepsO.none
    | split
    | (refine KeepsE.get (by assumption) ?_))

theorem keeps_forkPage (s : State) (cx : Cx) (parent : Nat) (child : Nat) (len : Nat) (key : Nat) (g : KvPage) (hm : Sub 1048591 K) (h0 : Keeps K s) :
    KeepsO1 K (forkPage s cx parent child len key g) := by
  unfold forkPage
  dsimp only
  repeat' (first
    | with_reducible assumption
    | exact hm.le rfl
    | with_reducible apply keeps_forkScore
    | with_reducible apply keeps_fillFrame
    | with_reducible apply keeps_mapPage
    | with_reducible apply keeps_takeFrame
    | with_reducible apply keeps_setFrame
    | with_reducible apply KeepsO1.none
    | with_reducible refine KeepsO1.map ?_ ?_
    | with_reducible refine KeepsO.bind ?_ ?_
    | intro _
    | split)

theorem keeps_forkPages (s : State) (cx : Cx) (parent : Nat) (child : Nat) (len : Nat) (a5 : List (Nat × KvPage)) (hm : Sub 1048591 K) (h0 : Keeps K s) :
    KeepsO1 K (forkPages s cx parent child len a5) := by
  induction a5 generalizing s with
  | nil =>
    unfold forkPages
    try dsimp only
    repeat' (first
      | with_reducible assumption
      | exact hm.le rfl
      | with_reducible apply keeps_forkPage
      | with_reducible apply KeepsO1.some
      | with_reducible apply KeepsO1.none
      | with_reducible refine KeepsO1.map1 ?_ ?_
      | intro _
      | split
      | (refine KeepsO1.get' (by assumption) ?_))
  | cons b r ih =>
    unfold forkPages
    try dsimp only
    repeat' (first
      | with_reducible apply ih
      | with_reducible assumption
      | exact hm.le rfl
      | with_reducible apply keeps_forkPage
      | with_reducible apply KeepsO1.some
      | with_reducible apply KeepsO1.none
      | with_reducible refine KeepsO1.map1 ?_ ?_
      | intro _
      | split
      | (refine KeepsO1.get' (by assumption) ?_))

theorem keeps_seqFork (d : Nat) (s : State) (hm : Sub 1048591 K) (h0 : Keeps K s) :
    Keeps K (seqFork d s) := by
  unfold seqFork
  dsimp only
  repeat' (first
    | with_reducible assumption
    | exact hm.le rfl
    | with_reducible apply keeps_forkPages
    | with_reducible apply keeps_kvOp
    | with_reducible apply keeps_refuseIf
    | with_reducible apply keeps_stopWith
    | with_reducible apply keeps_putSlot
    | with_reducible apply keeps_refuseF
    | with_reducible apply keeps_endF
    | intro _
    | split
    | (refine KeepsO1.get' (by assumption) ?_))

theorem keeps_seqRead (d : Nat) (s : State) (hm : Sub 1048587 K) (h0 : Keeps K s) : Keeps K (seqRead d s) := by
  have hv (f : Flight) (b : List Byte) : KeepsE K (vwrite s (cxOf s f d) (f.op 0x20 8) b) := keeps_vwrite _ _ _ _ _ (hm.le rfl) h0
  have hr (f : Flight) (e : Except Stop State) (he : KeepsE K e) : Keeps K (finishE s d 0 e) := keeps_finishE _ _ _ _ (hm.le rfl) h0 he
  unfold seqRead
  with_reducible apply keeps_kvOp
  · exact h0
  · intro f
    with_reducible apply keeps_refuseIf
    · exact h0
    · generalize readback s f.part f.slotF = b
      exact hr f _ (hv f b)

theorem keeps_poolConfig (d : Nat) (s : State) (hm : Sub 1572875 K) (h0 : Keeps K s) :
    Keeps K (poolConfig d s) := by
  unfold poolConfig
  repeat' (first
    | with_reducible assumption
    | exact hm.le rfl
    | with_reducible apply keeps_refuseIf
    | with_reducible apply keeps_leaveBacking
    | with_reducible apply keeps_withOp
    | with_reducible apply keeps_stopWith
    | with_reducible apply keeps_claimGrain
    | with_reducible apply keeps_putPool
    | with_reducible apply keeps_putP
    | with_reducible apply keeps_refuseF
    | with_reducible apply keeps_endF
    | with_reducible refine Keeps.foldl ?_ ?_
    | intro _
    | split
    | (unfold Keeps; dsimp only; with_reducible (apply Keeps.fold)))

theorem keeps_poolAdd (d : Nat) (s : State) (hm : Sub 8 K) (h0 : Keeps K s) :
    Keeps K (poolAdd d s) := by
  unfold poolAdd
  repeat' (first
    | with_reducible assumption
    | exact hm.le rfl
    | with_reducible apply keeps_refuseIf
    | with_reducible apply keeps_watermarks
    | with_reducible apply keeps_withOp
    | with_reducible apply keeps_claimGrain
    | with_reducible apply keeps_putPool
    | with_reducible apply keeps_endF
    | with_reducible refine Keeps.foldl ?_ ?_
    | intro _
    | split
    | (unfold Keeps; dsimp only; with_reducible (apply Keeps.fold)))

theorem keeps_swapOutNow (s : State) (d : Nat) (f : Flight) (hm : Sub 1048584 K) (h0 : Keeps K s) :
    Keeps K (swapOutNow s d f) := by
  unfold swapOutNow
  dsimp only
  repeat' (first
    | with_reducible assumption
    | exact hm.le rfl
    | with_reducible apply keeps_startSwap
    | with_reducible apply keeps_refuseF
    | with_reducible apply keeps_endF
    | with_reducible apply keeps_putF
    | split)

theorem keeps_swapOut (d : Nat) (s : State) (hm : Sub 1048584 K) (h0 : Keeps K s) :
    Keeps K (swapOut d s) := by
  unfold swapOut
  repeat' (first
    | with_reducible assumption
    | exact hm.le rfl
    | with_reducible apply keeps_swapOutNow
    | with_reducible apply keeps_kvOp
    | with_reducible apply keeps_refuseIf
    | with_reducible apply keeps_putF
    | intro _
    | split)

theorem keeps_swapPoison (s : State) (p : Nat) (slot : Nat) (hm : Sub 1048584 K) (h0 : Keeps K s) :
    Keeps K (swapPoison s p slot) := by
  unfold swapPoison
  dsimp only
  repeat' (first
    | with_reducible assumption
    | exact hm.le rfl
    | with_reducible apply keeps_swapReopen
    | with_reducible apply keeps_endF
    | split)

theorem keeps_swapOutDone (slot : Nat) (s : State) (hm : Sub 1048591 K) (h0 : Keeps K s) :
    Keeps K (swapOutDone slot s) := by
  unfold swapOutDone
  dsimp only
  repeat' (first
    | with_reducible assumption
    | exact hm.le rfl
    | with_reducible apply keeps_swapPoison
    | with_reducible apply keeps_swapAway
    | with_reducible apply keeps_writeImage
    | split)

theorem keeps_readRemoteCells (s : State) (d : Nat) (p : Nat) (slot : Nat) (hm : Sub 1048576 K) (h0 : Keeps K s) :
    Keeps K (readRemoteCells s d p slot) := by
  unfold readRemoteCells
  dsimp only
  repeat' (first
    | with_reducible assumption
    | exact hm.le rfl
    | with_reducible apply keeps_request
    | with_reducible refine Keeps.foldl ?_ ?_
    | intro _
    | split)

theorem keeps_swapInShort (s : State) (d : Nat) (f : Flight) (needs : List Nat) (table : Bool) (hm : Sub 1048584 K) (h0 : Keeps K s) :
    Keeps K (swapInShort s d f needs table) := by
  unfold swapInShort
  dsimp only
  repeat' (first
    | with_reducible assumption
    | exact hm.le rfl
    | with_reducible apply keeps_preempt
    | with_reducible apply keeps_putPool
    | with_reducible apply keeps_refuseF
    | with_reducible apply keeps_putF
    | split)

theorem keeps_swapIn (d : Nat) (s : State) (hm : Sub 1048584 K) (h0 : Keeps K s) :
    Keeps K (swapIn d s) := by
  unfold swapIn
  dsimp only
  repeat' (first
    | with_reducible assumption
    | exact hm.le rfl
    | with_reducible apply keeps_swapInShort
    | with_reducible apply keeps_readRemoteCells
    | with_reducible apply keeps_kvOp
    | with_reducible apply keeps_refuseIf
    | with_reducible apply keeps_putSlot
    | with_reducible apply keeps_putF
    | intro _
    | split)

theorem keeps_restorePages (s : State) (cx : Cx) (slot : Nat) (a3 : List (Nat × Nat × List Byte)) (hm : Sub 1048591 K) (h0 : Keeps K s) :
    KeepsO K (restorePages s cx slot a3) := by
  induction a3 generalizing s with
  | nil =>
    unfold restorePages
    try dsimp only
    repeat' (first
      | with_reducible assumption
      | exact hm.le rfl
      | with_reducible apply keeps_fillFrame
      | with_reducible apply keeps_mapThinPage
      | with_reducible apply keeps_mapPage
      | with_reducible apply keeps_takeFrame
      | with_reducible apply KeepsO.some
      | with_reducible apply KeepsO.none
      | with_reducible refine KeepsO.bind ?_ ?_
      | with_reducible refine KeepsO.map ?_ ?_
      | intro _
      | split)
  | cons b r ih =>
    unfold restorePages
    try dsimp only
    repeat' (first
      | with_reducible apply ih
      | with_reducible assumption
      | exact hm.le rfl
      | with_reducible apply keeps_fillFrame
      | with_reducible apply keeps_mapThinPage
      | with_reducible apply keeps_mapPage
      | with_reducible apply keeps_takeFrame
      | with_reducible apply KeepsO.some
      | with_reducible apply KeepsO.none
      | with_reducible refine KeepsO.bind ?_ ?_
      | with_reducible refine KeepsO.map ?_ ?_
      | intro _
      | split)

theorem keeps_swapInOpen (s : State) (p : Nat) (slot : Nat) (head : List Byte) (hm : Sub 8 K) (h0 : Keeps K s) :
    Keeps K (swapInOpen s p slot head) := by
  unfold swapInOpen
  repeat' (first
    | with_reducible assumption
    | exact hm.le rfl
    | with_reducible apply keeps_freeImage
    | with_reducible apply keeps_putSlot)

theorem keeps_swapInDone (slot : Nat) (s : State) (hm : Sub 1048591 K) (h0 : Keeps K s) :
    Keeps K (swapInDone slot s) := by
  unfold swapInDone
  dsimp only
  repeat' (first
    | with_reducible assumption
    | exact hm.le rfl
    | with_reducible apply keeps_swapInOpen
    | with_reducible apply keeps_restorePages
    | with_reducible apply keeps_swapInShort
    | with_reducible apply keeps_swapInBack
    | with_reducible apply keeps_emit
    | with_reducible apply keeps_putSlot
    | with_reducible apply keeps_endF
    | split
    | (refine KeepsO.get (by assumption) ?_))

theorem keeps_kvHeldResume (slot : Nat) (s : State) (hm : Sub 1048591 K) (h0 : Keeps K s) :
    Keeps K (kvHeldResume slot s) := by
  unfold kvHeldResume
  repeat' (first
    | with_reducible assumption
    | exact hm.le rfl
    | with_reducible apply keeps_swapOut
    | with_reducible apply keeps_seqClose
    | with_reducible apply keeps_putF
    | split)

theorem keeps_enterIntake (s : State) (d : Nat) (f : Flight) (h0 : Keeps K s) :
    Keeps K (enterIntake s d f) := by
  unfold enterIntake
  repeat' (first
    | with_reducible assumption
    | with_reducible apply keeps_putCore
    | with_reducible refine Keeps.foldl ?_ ?_
    | intro _)

theorem keeps_startChecked (s : State) (d : Nat) (f : Flight) (target : Nat) (hm : Sub 8 K) (h0 : Keeps K s) :
    Keeps K (startChecked s d f target) := by
  unfold startChecked
  dsimp only
  repeat' (first
    | with_reducible assumption
    | exact hm.le rfl
    | with_reducible apply keeps_enterIntake
    | with_reducible apply keeps_enterStep
    | with_reducible apply keeps_endF
    | with_reducible apply keeps_putF
    | split)

theorem keeps_descriptorStart (d : Nat) (s : State) (hm : Sub 1048584 K) (h0 : Keeps K s) :
    Keeps K (descriptorStart d s) := by
  unfold descriptorStart
  dsimp only
  repeat' (first
    | with_reducible assumption
    | exact hm.le rfl
    | with_reducible apply keeps_startChecked
    | with_reducible apply keeps_takeSlot
    | with_reducible apply keeps_stopWith
    | with_reducible apply keeps_endF
    | split)

theorem keeps_rotaBind (d : Nat) (s : State) (hm : Sub 1048616 K) (h0 : Keeps K s) :
    Keeps K (rotaBind d s) := by
  unfold rotaBind
  repeat' (first
    | with_reducible assumption
    | exact hm.le rfl
    | with_reducible apply keeps_refuseIf
    | with_reducible apply keeps_withOp
    | with_reducible apply keeps_stopWith
    | with_reducible apply keeps_refuseF
    | with_reducible apply keeps_endF
    | intro _
    | split
    | (unfold Keeps; dsimp only; with_reducible (apply K4.s5 (hm.bit rfl); apply Keeps.fold)))

theorem keeps_rotaUnbind (d : Nat) (s : State) (hm : Sub 32 K) (h0 : Keeps K s) :
    Keeps K (rotaUnbind d s) := by
  unfold rotaUnbind
  repeat' (first
    | with_reducible assumption
    | exact hm.le rfl
    | with_reducible apply keeps_refuseIf
    | with_reducible apply keeps_withOp
    | with_reducible apply keeps_endF
    | intro _
    | (unfold Keeps; dsimp only; with_reducible (apply K4.s5 (hm.bit rfl); apply Keeps.fold)))

theorem keeps_gather (s : State) (cx : Cx) (t : Tensor) (o : Tensor) (tokens : List Nat) (hm : Sub 1048579 K) (h0 : Keeps K s) :
    KeepsE K (gather s cx t o tokens) := by
  unfold gather
  dsimp only
  repeat' (first
    | with_reducible assumption
    | with_reducible refine keeps_foldE _ _ _ ?_ ?_
    | exact hm.le rfl
    | with_reducible apply keeps_vwrite
    | with_reducible apply keeps_takeBytes
    | with_reducible apply KeepsE.ok
    | with_reducible apply KeepsE.error
    | intro _
    | split
    | (refine KeepsE.get (by assumption) ?_))

theorem keeps_startStep (s : State) (d : Nat) (f : Flight) (p : StepPlan) (hm : Sub 1048619 K) (h0 : Keeps K s) :
    KeepsE K (startStep s d f p) := by
  unfold startStep
  repeat' (first
    | with_reducible assumption
    | exact hm.le rfl
    | with_reducible apply keeps_gather
    | with_reducible apply keeps_vwrite
    | with_reducible apply keeps_putSlot
    | with_reducible apply keeps_putF
    | with_reducible refine Keeps.foldl ?_ ?_
    | with_reducible apply KeepsE.ok
    | with_reducible refine KeepsE.bindS ?_ ?_
    | intro _
    | split
    | (unfold Keeps; dsimp only; with_reducible (apply K4.s5 (hm.bit rfl); apply Keeps.fold)))

theorem keeps_beginStep (s : State) (d : Nat) (f : Flight) (hm : Sub 1048619 K) (h0 : Keeps K s) :
    Keeps K (beginStep s d f) := by
  unfold beginStep
  repeat' (first
    | with_reducible assumption
    | exact hm.le rfl
    | with_reducible apply keeps_startStep
    | with_reducible apply keeps_stopWith
    | with_reducible apply keeps_putF
    | split
    | (refine KeepsE.get (by assumption) ?_)
    | (unfold Keeps; dsimp only; with_reducible (apply K4.s5 (hm.bit rfl); apply Keeps.fold)))

theorem keeps_run (d : Nat) (s : State) (hm : Sub 1048619 K) (h0 : Keeps K s) :
    Keeps K (run d s) := by
  unfold run
  repeat' (first
    | with_reducible assumption
    | exact hm.le rfl
    | with_reducible apply keeps_beginStep
    | with_reducible apply keeps_withOp
    | intro _)

theorem keeps_stepRelease (d : Nat) (s : State) (hm : Sub 1048619 K) (h0 : Keeps K s) :
    Keeps K (stepRelease d s) := by
  unfold stepRelease
  repeat' (first
    | with_reducible assumption
    | exact hm.le rfl
    | with_reducible apply keeps_beginStep
    | with_reducible apply keeps_endF
    | split
    | (unfold Keeps; dsimp only; with_reducible (apply K4.s5 (hm.bit rfl); apply Keeps.fold)))

theorem keeps_failEntry (s : State) (k : Nat) (idx : Nat) (st : Nat) (r : StepRun) (hm : Sub 1048623 K) (h0 : Keeps K s) :
    Keeps K (failEntry s k idx st r) := by
  unfold failEntry
  repeat' (first
    | with_reducible assumption
    | exact hm.le rfl
    | with_reducible apply keeps_stepSettle
    | (unfold Keeps; dsimp only; with_reducible (apply K4.s5 (hm.bit rfl); apply Keeps.fold)))

theorem keeps_rotaEntryDispatch (d : Nat) (s : State) (hm : Sub 1048623 K) (h0 : Keeps K s) :
    Keeps K (rotaEntryDispatch d s) := by
  unfold rotaEntryDispatch
  repeat' (first
    | with_reducible assumption
    | exact hm.le rfl
    | with_reducible apply keeps_failEntry
    | with_reducible apply keeps_enterIntake
    | with_reducible apply keeps_stopWith
    | with_reducible apply keeps_putF
    | split
    | (unfold Keeps; dsimp only; with_reducible (apply K4.s5 (hm.bit rfl); apply Keeps.fold)))

theorem keeps_commitSeq (s : State) (cx : Cx) (q : StepSeq) (v : Accepted) (hm : Sub 1048591 K) (h0 : Keeps K s) :
    Keeps K (commitSeq s cx q v) := by
  unfold commitSeq
  repeat' (first
    | with_reducible assumption
    | exact hm.le rfl
    | with_reducible apply keeps_endSequence
    | split)

theorem keeps_writeOutput (s : State) (cx : Cx) (q : StepSeq) (v : Accepted) (hm : Sub 1048579 K) (h0 : Keeps K s) :
    Keeps K (writeOutput s cx q v) := by
  unfold writeOutput
  dsimp only
  repeat' (first
    | with_reducible assumption
    | exact hm.le rfl
    | with_reducible apply keeps_vwrite
    | with_reducible apply keeps_emit
    | with_reducible apply keeps_hwrite
    | split
    | (refine KeepsE.get (by assumption) ?_))

theorem keeps_stepCommit (d : Nat) (energyA : Nat) (energyB : Nat) (duration : Nat) (s : State) (hm : Sub 1048623 K) (h0 : Keeps K s) :
    Keeps K (stepCommit d energyA energyB duration s) := by
  unfold stepCommit
  repeat' (first
    | with_reducible assumption
    | exact hm.le rfl
    | with_reducible apply keeps_writeOutput
    | with_reducible apply keeps_commitSeq
    | with_reducible apply keeps_stopF
    | with_reducible apply keeps_stopWith
    | with_reducible apply keeps_endF
    | with_reducible refine Keeps.foldl ?_ ?_
    | intro _
    | split
    | (unfold Keeps; dsimp only; with_reducible (apply K4.s5 (hm.bit rfl); apply Keeps.fold)))

theorem keeps_trickleCfg (d : Nat) (s : State) (h0 : Keeps K s) :
    Keeps K (trickleCfg d s) := by
  unfold trickleCfg
  repeat' (first
    | with_reducible assumption
    | with_reducible apply keeps_refuseIf
    | with_reducible apply keeps_withOp
    | with_reducible apply keeps_putQ
    | with_reducible apply keeps_endF
    | intro _)

theorem keeps_trickleSave (d : Nat) (s : State) (hm : Sub 1048579 K) (h0 : Keeps K s) :
    Keeps K (trickleSave d s) := by
  unfold trickleSave
  repeat' (first
    | with_reducible assumption
    | exact hm.le rfl
    | with_reducible apply keeps_saveCell
    | split)

theorem keeps_trickleResume (d : Nat) (s : State) (h0 : Keeps K s) :
    Keeps K (trickleResume d s) := by
  unfold trickleResume
  dsimp only
  repeat' (first
    | with_reducible assumption
    | with_reducible apply keeps_enterIntake
    | with_reducible apply keeps_emit
    | with_reducible apply keeps_endF
    | with_reducible apply keeps_putF
    | split)

theorem keeps_trickleTimeout (d : Nat) (s : State) (hm : Sub 1048623 K) (h0 : Keeps K s) :
    Keeps K (trickleTimeout d s) := by
  unfold trickleTimeout
  dsimp only
  repeat' (first
    | with_reducible assumption
    | exact hm.le rfl
    | with_reducible apply keeps_stopF
    | with_reducible apply keeps_putF
    | split)

end Sys2Proof.Machine
end

