-- ==== Sys2Proof/Laws/KeepsRemote.lean ====
section
/-! SUPPORT. What messages to neighbours, sealing, the store, the owner, power, firmware, tests and diagnosis keep, as `Keeps` says it: one lemma for each operation. -/

namespace Sys2Proof.Machine

variable {K : Kept}

theorem keeps_winExport (d : Nat) (s : State) (hm : Sub 1048576 K) (h0 : Keeps K s) :
    Keeps K (winExport d s) := by
  unfold winExport
  repeat' (first
    | with_reducible assumption
    | exact hm.le rfl
    | with_reducible apply keeps_refuseIf
    | with_reducible apply keeps_withOp
    | with_reducible apply keeps_endF
    | intro _
    | (unfold Keeps; dsimp only; with_reducible (apply K4.s20 (hm.bit rfl); apply Keeps.fold)))

theorem keeps_winUnexport (d : Nat) (s : State) (hm : Sub 1048576 K) (h0 : Keeps K s) :
    Keeps K (winUnexport d s) := by
  unfold winUnexport
  repeat' (first
    | with_reducible assumption
    | exact hm.le rfl
    | with_reducible apply keeps_refuseIf
    | with_reducible apply keeps_withOp
    | with_reducible apply keeps_refuseF
    | with_reducible apply keeps_putF
    | intro _
    | split
    | (unfold Keeps; dsimp only; with_reducible (apply K4.s20 (hm.bit rfl); apply Keeps.fold)))

theorem keeps_winUnexportDone (d : Nat) (s : State) (hm : Sub 1048576 K) (h0 : Keeps K s) :
    Keeps K (winUnexportDone d s) := by
  unfold winUnexportDone
  repeat' (first
    | with_reducible assumption
    | exact hm.le rfl
    | with_reducible apply keeps_endF
    | split
    | (unfold Keeps; dsimp only; with_reducible (apply K4.s20 (hm.bit rfl); apply Keeps.fold)))

theorem keeps_winImport (d : Nat) (s : State) (hm : Sub 1048576 K) (h0 : Keeps K s) :
    Keeps K (winImport d s) := by
  unfold winImport
  repeat' (first
    | with_reducible assumption
    | exact hm.le rfl
    | with_reducible apply keeps_refuseIf
    | with_reducible apply keeps_withOp
    | with_reducible apply keeps_request
    | with_reducible apply keeps_putF
    | intro _
    | (unfold Keeps; dsimp only; with_reducible (apply K4.s20 (hm.bit rfl); apply Keeps.fold)))

theorem keeps_winUnimport (d : Nat) (s : State) (hm : Sub 1048576 K) (h0 : Keeps K s) :
    Keeps K (winUnimport d s) := by
  unfold winUnimport
  repeat' (first
    | with_reducible assumption
    | exact hm.le rfl
    | with_reducible apply keeps_refuseIf
    | with_reducible apply keeps_withOp
    | with_reducible apply keeps_endF
    | intro _
    | (unfold Keeps; dsimp only; with_reducible (apply K4.s20 (hm.bit rfl); apply Keeps.fold)))

theorem keeps_sentAll (s : State) (d : Nat) (h0 : Keeps K s) :
    Keeps K (sentAll s d) := by
  unfold sentAll
  repeat' (first
    | with_reducible assumption
    | with_reducible apply keeps_endF)

theorem keeps_remoteReadOp (s : State) (d : Nat) (f : Flight) (hm : Sub 1048576 K) (h0 : Keeps K s) :
    KeepsE K (remoteReadOp s d f) := by
  unfold remoteReadOp
  repeat' (first
    | with_reducible assumption
    | exact hm.le rfl
    | with_reducible apply keeps_sentAll
    | with_reducible apply keeps_request
    | with_reducible refine Keeps.foldl ?_ ?_
    | with_reducible apply KeepsE.ok
    | with_reducible refine KeepsE.bind ?_
    | intro _)

theorem keeps_remoteRead (d : Nat) (s : State) (hm : Sub 1048584 K) (h0 : Keeps K s) :
    Keeps K (remoteRead d s) := by
  unfold remoteRead
  repeat' (first
    | with_reducible assumption
    | exact hm.le rfl
    | with_reducible apply keeps_remoteReadOp
    | with_reducible apply keeps_withOp
    | with_reducible apply keeps_stopWith
    | intro _
    | split
    | (refine KeepsE.get (by assumption) ?_))

theorem keeps_remoteWriteOp (s : State) (d : Nat) (f : Flight) (hm : Sub 1048576 K) (h0 : Keeps K s) :
    KeepsE K (remoteWriteOp s d f) := by
  unfold remoteWriteOp
  repeat' (first
    | with_reducible assumption
    | exact hm.le rfl
    | with_reducible apply keeps_request
    | with_reducible apply keeps_endF
    | with_reducible refine Keeps.foldl ?_ ?_
    | with_reducible apply KeepsE.ok
    | with_reducible refine KeepsE.bind ?_
    | intro _)

theorem keeps_remoteWrite (d : Nat) (s : State) (hm : Sub 1048584 K) (h0 : Keeps K s) :
    Keeps K (remoteWrite d s) := by
  unfold remoteWrite
  repeat' (first
    | with_reducible assumption
    | exact hm.le rfl
    | with_reducible apply keeps_remoteWriteOp
    | with_reducible apply keeps_withOp
    | with_reducible apply keeps_stopWith
    | intro _
    | split
    | (refine KeepsE.get (by assumption) ?_))

theorem keeps_remoteAtomicOp (s : State) (d : Nat) (f : Flight) (hm : Sub 1048576 K) (h0 : Keeps K s) :
    KeepsE K (remoteAtomicOp s d f) := by
  unfold remoteAtomicOp
  repeat' (first
    | with_reducible assumption
    | exact hm.le rfl
    | with_reducible apply keeps_request
    | with_reducible apply keeps_endF
    | with_reducible refine Keeps.foldl ?_ ?_
    | with_reducible apply KeepsE.ok
    | with_reducible refine KeepsE.bind ?_
    | intro _)

theorem keeps_remoteAtomic (d : Nat) (s : State) (hm : Sub 1048584 K) (h0 : Keeps K s) :
    Keeps K (remoteAtomic d s) := by
  unfold remoteAtomic
  repeat' (first
    | with_reducible assumption
    | exact hm.le rfl
    | with_reducible apply keeps_remoteAtomicOp
    | with_reducible apply keeps_withOp
    | with_reducible apply keeps_stopWith
    | intro _
    | split
    | (refine KeepsE.get (by assumption) ?_))

theorem keeps_remoteSignalOp (s : State) (d : Nat) (f : Flight) (hm : Sub 1048576 K) (h0 : Keeps K s) :
    KeepsE K (remoteSignalOp s d f) := by
  unfold remoteSignalOp
  repeat' (first
    | with_reducible assumption
    | exact hm.le rfl
    | with_reducible apply keeps_sentAll
    | with_reducible apply keeps_request
    | with_reducible apply KeepsE.ok
    | with_reducible refine KeepsE.bind ?_
    | intro _)

theorem keeps_remoteSignal (d : Nat) (s : State) (hm : Sub 1048584 K) (h0 : Keeps K s) :
    Keeps K (remoteSignal d s) := by
  unfold remoteSignal
  repeat' (first
    | with_reducible assumption
    | exact hm.le rfl
    | with_reducible apply keeps_remoteSignalOp
    | with_reducible apply keeps_withOp
    | with_reducible apply keeps_stopWith
    | intro _
    | split
    | (refine KeepsE.get (by assumption) ?_))

theorem keeps_delOut (s : State) (n : Nat) (hm : Sub 1048576 K) (h0 : Keeps K s) :
    Keeps K (delOut s n) := by
  unfold delOut
  repeat' (first
    | with_reducible assumption
    | exact hm.le rfl
    | (unfold Keeps; dsimp only; with_reducible (apply K4.s20 (hm.bit rfl); apply Keeps.fold)))

theorem keeps_settleF (s : State) (d : Nat) (h0 : Keeps K s) :
    Keeps K (settleF s d) := by
  unfold settleF
  repeat' (first
    | with_reducible assumption
    | with_reducible apply keeps_endF
    | split)

theorem keeps_failF (s : State) (d : Nat) (st : Nat) (hm : Sub 1048623 K) (h0 : Keeps K s) :
    Keeps K (failF s d st) := by
  unfold failF
  repeat' (first
    | with_reducible assumption
    | exact hm.le rfl
    | with_reducible apply keeps_settleF
    | with_reducible apply keeps_stopF
    | with_reducible apply keeps_emit
    | with_reducible apply keeps_putF
    | split)

theorem keeps_swapFailed (s : State) (slot : Nat) (hm : Sub 1048584 K) (h0 : Keeps K s) :
    Keeps K (swapFailed s slot) := by
  unfold swapFailed
  dsimp only
  repeat' (first
    | with_reducible assumption
    | exact hm.le rfl
    | with_reducible apply keeps_swapBack
    | with_reducible apply keeps_startSwap
    | with_reducible apply keeps_refuseF
    | with_reducible apply keeps_endF
    | split)

theorem keeps_failOut (s : State) (n : Nat) (o : OutReq) (st : Nat) (hm : Sub 1048623 K) (h0 : Keeps K s) :
    Keeps K (failOut s n o st) := by
  unfold failOut
  repeat' (first
    | with_reducible assumption
    | exact hm.le rfl
    | with_reducible apply keeps_swapFailed
    | with_reducible apply keeps_failF
    | with_reducible apply keeps_delOut
    | with_reducible apply keeps_swapPoison
    | with_reducible apply keeps_swapInBack
    | with_reducible apply keeps_swapBack
    | with_reducible apply keeps_refuseF
    | split
    | (unfold Keeps; dsimp only; with_reducible (apply K4.s20 (hm.bit rfl); apply Keeps.fold)))

theorem keeps_goodAnswer (s : State) (n : Nat) (o : OutReq) (m : RemMsg) (hm : Sub 1048623 K) (h0 : Keeps K s) :
    Keeps K (goodAnswer s n o m) := by
  unfold goodAnswer
  repeat' (first
    | with_reducible assumption
    | exact hm.le rfl
    | with_reducible apply keeps_failF
    | with_reducible apply keeps_settleF
    | with_reducible apply keeps_delOut
    | with_reducible apply keeps_vwrite
    | with_reducible apply keeps_emit
    | with_reducible apply keeps_putSlot
    | with_reducible apply keeps_endF
    | with_reducible apply keeps_putF
    | split
    | (refine KeepsE.get (by assumption) ?_)
    | (unfold Keeps; dsimp only; with_reducible (apply K4.s20 (hm.bit rfl); apply Keeps.fold)))

theorem keeps_takeAnswer (type : Nat) (port : Nat) (m : RemMsg) (s : State) (hm : Sub 1048623 K) (h0 : Keeps K s) :
    Keeps K (takeAnswer type port m s) := by
  unfold takeAnswer
  repeat' (first
    | with_reducible assumption
    | exact hm.le rfl
    | with_reducible apply keeps_goodAnswer
    | with_reducible apply keeps_failOut
    | with_reducible apply keeps_pumpOut
    | split
    | (unfold Keeps; dsimp only; with_reducible (apply K4.s20 (hm.bit rfl); apply Keeps.fold)))

theorem keeps_rdData (port : Nat) (m : RemMsg) (s : State) (hm : Sub 1048623 K) (h0 : Keeps K s) :
    Keeps K (rdData port m s) := by
  unfold rdData
  repeat' (first
    | with_reducible assumption
    | exact hm.le rfl
    | with_reducible apply keeps_takeAnswer)

theorem keeps_wrAck (port : Nat) (m : RemMsg) (s : State) (hm : Sub 1048623 K) (h0 : Keeps K s) :
    Keeps K (wrAck port m s) := by
  unfold wrAck
  repeat' (first
    | with_reducible assumption
    | exact hm.le rfl
    | with_reducible apply keeps_takeAnswer)

theorem keeps_atomAck (port : Nat) (m : RemMsg) (s : State) (hm : Sub 1048623 K) (h0 : Keeps K s) :
    Keeps K (atomAck port m s) := by
  unfold atomAck
  repeat' (first
    | with_reducible assumption
    | exact hm.le rfl
    | with_reducible apply keeps_takeAnswer)

theorem keeps_sigAck (port : Nat) (m : RemMsg) (s : State) (hm : Sub 1048623 K) (h0 : Keeps K s) :
    Keeps K (sigAck port m s) := by
  unfold sigAck
  repeat' (first
    | with_reducible assumption
    | exact hm.le rfl
    | with_reducible apply keeps_takeAnswer)

theorem keeps_impR (port : Nat) (m : RemMsg) (s : State) (hm : Sub 1048623 K) (h0 : Keeps K s) :
    Keeps K (impR port m s) := by
  unfold impR
  repeat' (first
    | with_reducible assumption
    | exact hm.le rfl
    | with_reducible apply keeps_takeAnswer)

theorem keeps_recordDenied (s : State) (key : Nat) (hm : Sub 1048576 K) (h0 : Keeps K s) :
    Keeps K (recordDenied s key) := by
  unfold recordDenied
  repeat' (first
    | with_reducible assumption
    | exact hm.le rfl
    | with_reducible apply keeps_emit
    | split
    | (unfold Keeps; dsimp only; with_reducible (apply K4.s20 (hm.bit rfl); apply Keeps.fold)))

theorem keeps_turnAway (s : State) (hash : Nat) (m : RemMsg) (status : Nat) (hm : Sub 1048576 K) (h0 : Keeps K s) :
    Keeps K (turnAway s hash m status) := by
  unfold turnAway
  repeat' (first
    | with_reducible assumption
    | exact hm.le rfl
    | with_reducible apply keeps_recordDenied
    | with_reducible apply keeps_answerTo
    | split)

theorem keeps_rd (port : Nat) (m : RemMsg) (s : State) (hm : Sub 1048576 K) (h0 : Keeps K s) :
    Keeps K (rd port m s) := by
  unfold rd
  dsimp only
  repeat' (first
    | with_reducible assumption
    | exact hm.le rfl
    | with_reducible apply keeps_turnAway
    | with_reducible apply keeps_answerTo
    | split)

theorem keeps_putStream (s : State) (key : Nat) (x : StreamIn) (hm : Sub 1048576 K) (h0 : Keeps K s) :
    Keeps K (putStream s key x) := by
  unfold putStream
  repeat' (first
    | with_reducible assumption
    | exact hm.le rfl
    | (unfold Keeps; dsimp only; with_reducible (apply K4.s20 (hm.bit rfl); apply Keeps.fold)))

theorem keeps_applyReq (s : State) (e : Export) (m : RemMsg) (hm : Sub 1589267 K) (h0 : Keeps K s) :
    Keeps K (applyReq s e m).1 := by
  unfold applyReq
  dsimp only
  repeat' (first
    | with_reducible assumption
    | exact hm.le rfl
    | with_reducible apply keeps_addCounter
    | with_reducible apply keeps_vwriteP
    | split
    | (refine KeepsE.get (by assumption) ?_))

theorem keeps_serveSeq (s : State) (hash : Nat) (key : Nat) (m : RemMsg) (hm : Sub 1589267 K) (h0 : Keeps K s) :
    Keeps K (serveSeq s hash key m) := by
  unfold serveSeq
  repeat' (first
    | with_reducible assumption
    | exact hm.le rfl
    | with_reducible apply keeps_applyReq
    | with_reducible apply keeps_putStream
    | with_reducible apply keeps_turnAway
    | with_reducible apply keeps_answerTo
    | split)

theorem keeps_countUse (s : State) (m : RemMsg) (up : Bool) (hm : Sub 1048576 K) (h0 : Keeps K s) :
    Keeps K (countUse s m up) := by
  unfold countUse
  repeat' (first
    | with_reducible assumption
    | exact hm.le rfl
    | split
    | (unfold Keeps; dsimp only; with_reducible (apply K4.s20 (hm.bit rfl); apply Keeps.fold)))

theorem keeps_serveHeld (s : State) (hash : Nat) (key : Nat) (m : RemMsg) (hm : Sub 1589267 K) (h0 : Keeps K s) :
    Keeps K (serveHeld s hash key m) := by
  unfold serveHeld
  dsimp only
  repeat' (first
    | with_reducible assumption
    | exact hm.le rfl
    | with_reducible apply keeps_countUse
    | with_reducible apply keeps_applyReq
    | with_reducible apply keeps_putStream
    | with_reducible apply keeps_turnAway
    | with_reducible apply keeps_answerTo
    | split)

theorem keeps_releaseSignals (a0 : Nat) (a1 : State) (a2 : Nat) (hm : Sub 1589267 K) (h0 : Keeps K a1) :
    Keeps K (releaseSignals a0 a1 a2) := by
  induction a0 generalizing a1 a2 with
  | zero =>
    unfold releaseSignals
    try dsimp only
    repeat' (first
      | with_reducible assumption
      | exact hm.le rfl
      | with_reducible apply keeps_serveHeld
      | with_reducible apply keeps_putStream
      | intro _
      | split)
  | succ n ih =>
    unfold releaseSignals
    try dsimp only
    repeat' (first
      | with_reducible apply ih
      | with_reducible assumption
      | exact hm.le rfl
      | with_reducible apply keeps_serveHeld
      | with_reducible apply keeps_putStream
      | intro _
      | split)

theorem keeps_takeNumbered (type : Nat) (port : Nat) (m : RemMsg) (s : State) (hm : Sub 1589267 K) (h0 : Keeps K s) :
    Keeps K (takeNumbered type port m s) := by
  unfold takeNumbered
  dsimp only
  repeat' (first
    | with_reducible assumption
    | exact hm.le rfl
    | with_reducible apply keeps_releaseSignals
    | with_reducible apply keeps_countUse
    | with_reducible apply keeps_serveSeq
    | with_reducible apply keeps_putStream
    | with_reducible apply keeps_turnAway
    | with_reducible apply keeps_answerTo
    | split)

theorem keeps_wr (port : Nat) (m : RemMsg) (s : State) (hm : Sub 1589267 K) (h0 : Keeps K s) :
    Keeps K (wr port m s) := by
  unfold wr
  repeat' (first
    | with_reducible assumption
    | exact hm.le rfl
    | with_reducible apply keeps_takeNumbered)

theorem keeps_atom (port : Nat) (m : RemMsg) (s : State) (hm : Sub 1589267 K) (h0 : Keeps K s) :
    Keeps K (atom port m s) := by
  unfold atom
  repeat' (first
    | with_reducible assumption
    | exact hm.le rfl
    | with_reducible apply keeps_takeNumbered)

theorem keeps_sig (port : Nat) (m : RemMsg) (s : State) (hm : Sub 1589267 K) (h0 : Keeps K s) :
    Keeps K (sig port m s) := by
  unfold sig
  repeat' (first
    | with_reducible assumption
    | exact hm.le rfl
    | with_reducible apply keeps_takeNumbered)

theorem keeps_impQ (port : Nat) (m : RemMsg) (s : State) (hm : Sub 1048576 K) (h0 : Keeps K s) :
    Keeps K (impQ port m s) := by
  unfold impQ
  dsimp only
  repeat' (first
    | with_reducible assumption
    | exact hm.le rfl
    | with_reducible apply keeps_turnAway
    | with_reducible apply keeps_answerTo
    | split)

theorem keeps_rdResend (req : Nat) (s : State) (hm : Sub 1048576 K) (h0 : Keeps K s) :
    Keeps K (rdResend req s) := by
  unfold rdResend
  repeat' (first
    | with_reducible assumption
    | exact hm.le rfl
    | with_reducible apply keeps_putOn
    | split
    | (unfold Keeps; dsimp only; with_reducible (apply K4.s20 (hm.bit rfl); apply Keeps.fold)))

theorem keeps_remoteRetry (req : Nat) (s : State) (hm : Sub 1048623 K) (h0 : Keeps K s) :
    Keeps K (remoteRetry req s) := by
  unfold remoteRetry
  repeat' (first
    | with_reducible assumption
    | exact hm.le rfl
    | with_reducible apply keeps_failOut
    | with_reducible apply keeps_trySend
    | split
    | (unfold Keeps; dsimp only; with_reducible (apply K4.s20 (hm.bit rfl); apply Keeps.fold)))

theorem keeps_neighbourLost (hash : Nat) (s : State) (hm : Sub 1048623 K) (h0 : Keeps K s) :
    Keeps K (neighbourLost hash s) := by
  unfold neighbourLost
  repeat' (first
    | with_reducible assumption
    | exact hm.le rfl
    | with_reducible apply keeps_failOut
    | with_reducible apply keeps_emit
    | with_reducible refine Keeps.foldl ?_ ?_
    | intro _
    | split
    | (unfold Keeps; dsimp only; with_reducible (apply K4.s20 (hm.bit rfl); apply Keeps.fold)))

theorem keeps_sealHostFail (s : State) (d : Nat) (p : Nat) (h0 : Keeps K s) :
    Keeps K (sealHostFail s d p) := by
  unfold sealHostFail
  repeat' (first
    | with_reducible assumption
    | with_reducible apply keeps_emit
    | with_reducible apply keeps_endF)

theorem keeps_sealInCells (d : Nat) (f : Flight) (r : SealRec) (k : KeySlot) (a4 : Nat) (a5 : Nat) (a6 : State) (hm : Sub 1048587 K) (h0 : Keeps K a6) :
    Keeps K (sealInCells d f r k a4 a5 a6) := by
  induction a4 generalizing a5 a6 with
  | zero =>
    unfold sealInCells
    try dsimp only
    repeat' (first
      | with_reducible assumption
      | exact hm.le rfl
      | with_reducible apply keeps_sealHostFail
      | with_reducible apply keeps_stopWith
      | with_reducible apply keeps_vwrite
      | with_reducible apply keeps_emit
      | with_reducible apply keeps_endF
      | intro _
      | split
      | (refine KeepsE.get (by assumption) ?_))
  | succ n ih =>
    unfold sealInCells
    try dsimp only
    repeat' (first
      | with_reducible apply ih
      | with_reducible assumption
      | exact hm.le rfl
      | with_reducible apply keeps_sealHostFail
      | with_reducible apply keeps_stopWith
      | with_reducible apply keeps_vwrite
      | with_reducible apply keeps_emit
      | with_reducible apply keeps_endF
      | intro _
      | split
      | (refine KeepsE.get (by assumption) ?_))

theorem keeps_sealIn (d : Nat) (s : State) (hm : Sub 1048587 K) (h0 : Keeps K s) :
    Keeps K (sealIn d s) := by
  unfold sealIn
  repeat' (first
    | with_reducible assumption
    | exact hm.le rfl
    | with_reducible apply keeps_sealInCells
    | with_reducible apply keeps_withOp
    | with_reducible apply keeps_stopWith
    | intro _
    | split)

theorem keeps_sealOutCell (d : Nat) (f : Flight) (r : SealRec) (k : KeySlot) (i : Nat) (s : State) (hm : Sub 1048584 K) (h0 : Keeps K s) :
    Keeps K (sealOutCell d f r k i s).1 := by
  unfold sealOutCell
  repeat' (first
    | with_reducible assumption
    | exact hm.le rfl
    | with_reducible apply keeps_sealHostFail
    | with_reducible apply keeps_stopWith
    | with_reducible apply keeps_hwrite
    | split)

theorem keeps_sealOutCells (d : Nat) (f : Flight) (r : SealRec) (k : KeySlot) (n : Nat) (s : State) (hm : Sub 1048584 K) (h0 : Keeps K s) :
    Keeps K (sealOutCells d f r k n s) := by
  unfold sealOutCells
  dsimp only
  repeat' (first
    | with_reducible assumption
    | exact hm.le rfl
    | with_reducible apply keeps_sealOutCell
    | with_reducible apply keeps_endF
    | with_reducible refine Keeps.foldl1 ?_ ?_
    | intro _
    | split)

theorem keeps_sealOut (d : Nat) (s : State) (hm : Sub 1048715 K) (h0 : Keeps K s) :
    Keeps K (sealOut d s) := by
  unfold sealOut
  dsimp only
  repeat' (first
    | with_reducible assumption
    | exact hm.le rfl
    | with_reducible apply keeps_sealOutCells
    | with_reducible apply keeps_withOp
    | with_reducible apply keeps_stopWith
    | with_reducible apply keeps_vwrite
    | with_reducible apply keeps_putKeys
    | intro _
    | split
    | (refine KeepsE.get (by assumption) ?_))

theorem keeps_evalPorts (s : State) (hm : Sub 1081344 K) (h0 : Keeps K s) :
    Keeps K (evalPorts s) := by
  unfold evalPorts
  dsimp only
  repeat' (first
    | with_reducible assumption
    | exact hm.le rfl
    | with_reducible apply keeps_pumpOut
    | with_reducible apply keeps_recap
    | with_reducible apply keeps_putPort
    | with_reducible refine Keeps.foldl ?_ ?_
    | intro _
    | split)

theorem keeps_judgeTopo (s : State) (hm : Sub 4096 K) (h0 : Keeps K s) :
    Keeps K (judgeTopo s) := by
  unfold judgeTopo
  repeat' (first
    | with_reducible assumption
    | exact hm.le rfl
    | with_reducible apply keeps_emit
    | split
    | (unfold Keeps; dsimp only; with_reducible (apply K4.s12 (hm.bit rfl); apply Keeps.fold)))

theorem keeps_topoRead (d : Nat) (s : State) (h0 : Keeps K s) :
    Keeps K (topoRead d s) := by
  unfold topoRead
  dsimp only
  repeat' (first
    | with_reducible assumption
    | with_reducible apply keeps_withOp
    | with_reducible apply keeps_endF
    | with_reducible apply keeps_hwrite
    | intro _
    | split)

theorem keeps_topoAccept (d : Nat) (readbackOk : Bool) (s : State) (hm : Sub 3182592 K) (h0 : Keeps K s) :
    Keeps K (topoAccept d readbackOk s) := by
  unfold topoAccept
  repeat' (first
    | with_reducible assumption
    | exact hm.le rfl
    | with_reducible apply keeps_evalPorts
    | with_reducible apply keeps_refuseIf
    | with_reducible apply keeps_withOp
    | with_reducible apply keeps_emit
    | with_reducible apply keeps_putRec
    | with_reducible apply keeps_endF
    | intro _
    | split
    | (unfold Keeps; dsimp only; with_reducible (apply K4.s12 (hm.bit rfl); apply Keeps.fold)))

theorem keeps_writeLife (s : State) (hm : Sub 2097152 K) (h0 : Keeps K s) :
    Keeps K (writeLife s) := by
  unfold writeLife
  repeat' (first
    | with_reducible assumption
    | exact hm.le rfl
    | with_reducible apply keeps_putOlder
    | with_reducible apply keeps_putStored
    | (unfold Keeps; dsimp only; with_reducible (apply Keeps.fold)))

theorem keeps_recBytes (s : State) (i : Nat) (stored : Bool) (n : Nat) (h0 : Keeps K s) :
    Keeps K (recBytes s i stored n).2 := by
  unfold recBytes
  dsimp only
  repeat' (first
    | with_reducible assumption
    | with_reducible apply keeps_takeBytes
    | split)

theorem keeps_editShadow (s : State) (i : Nat) (off : Nat) (data : List Byte) (hm : Sub 2097152 K) (h0 : Keeps K s) :
    Keeps K (editShadow s i off data) := by
  unfold editShadow
  repeat' (first
    | with_reducible assumption
    | exact hm.le rfl
    | with_reducible apply keeps_putRec
    | split
    | (unfold Keeps; dsimp only; with_reducible (apply Keeps.fold)))

theorem keeps_settingWrite (d : Nat) (s : State) (hm : Sub 2097152 K) (h0 : Keeps K s) :
    Keeps K (settingWrite d s) := by
  unfold settingWrite
  dsimp only
  repeat' (first
    | with_reducible assumption
    | exact hm.le rfl
    | with_reducible apply keeps_editShadow
    | with_reducible apply keeps_refuseIf
    | with_reducible apply keeps_withOp
    | with_reducible apply keeps_refuseF
    | with_reducible apply keeps_endF
    | intro _
    | split)

theorem keeps_settingRead (d : Nat) (s : State) (h0 : Keeps K s) :
    Keeps K (settingRead d s) := by
  unfold settingRead
  repeat' (first
    | with_reducible assumption
    | with_reducible apply keeps_recBytes
    | with_reducible apply keeps_hostOut
    | with_reducible apply keeps_refuseIf
    | with_reducible apply keeps_withOp
    | intro _)

theorem keeps_storeOne (s : State) (bad : List Nat) (i : Nat) (hm : Sub 2097152 K) (h0 : Keeps K s) :
    Keeps K (storeOne s bad i).1 := by
  unfold storeOne
  repeat' (first
    | with_reducible assumption
    | exact hm.le rfl
    | with_reducible apply keeps_putRec
    | split
    | (unfold Keeps; dsimp only; with_reducible (apply Keeps.fold)))

theorem keeps_storeList (s : State) (bad : List Nat) (a2 : List Nat) (hm : Sub 2097152 K) (h0 : Keeps K s) :
    Keeps K (storeList s bad a2).1 := by
  induction a2 generalizing s with
  | nil =>
    unfold storeList
    try dsimp only
    repeat' (first
      | with_reducible assumption
      | exact hm.le rfl
      | with_reducible apply keeps_storeOne
      | intro _
      | split)
  | cons b r ih =>
    unfold storeList
    try dsimp only
    repeat' (first
      | with_reducible apply ih
      | with_reducible assumption
      | exact hm.le rfl
      | with_reducible apply keeps_storeOne
      | intro _
      | split)

theorem keeps_store (d : Nat) (badReadback : List Nat) (s : State) (hm : Sub 3182592 K) (h0 : Keeps K s) :
    Keeps K (store d badReadback s) := by
  unfold store
  repeat' (first
    | with_reducible assumption
    | exact hm.le rfl
    | with_reducible apply keeps_storeList
    | with_reducible apply keeps_writeLife
    | with_reducible apply keeps_evalPorts
    | with_reducible apply keeps_refuseIf
    | with_reducible apply keeps_withOp
    | with_reducible apply keeps_emit
    | with_reducible apply keeps_refuseF
    | with_reducible apply keeps_endF
    | intro _
    | split
    | (unfold Keeps; dsimp only; with_reducible (apply K4.s12 (hm.bit rfl); apply Keeps.fold)))

theorem keeps_lifetimeHourly (s : State) (hm : Sub 2097152 K) (h0 : Keeps K s) :
    Keeps K (lifetimeHourly s) := by
  unfold lifetimeHourly
  repeat' (first
    | with_reducible assumption
    | exact hm.le rfl
    | with_reducible apply keeps_writeLife)

theorem keeps_signBy (s : State) (key : Nat) (m : List Byte) (h0 : Keeps K s) :
    Keeps K (signBy s key m).2 := by
  unfold signBy
  repeat' (first
    | with_reducible assumption
    | with_reducible apply keeps_takeBytes
    | split)

theorem keeps_loadCuff (s : State) (hm : Sub 16384 K) (h0 : Keeps K s) :
    Keeps K (loadCuff s) := by
  unfold loadCuff
  repeat' (first
    | with_reducible assumption
    | exact fun hg h => by first | exact ⟨rfl, rfl, h.2.2⟩ | simp_all
    | exact hm.le rfl
    | split
    | (unfold Keeps; dsimp only; with_reducible (refine K4.s14 (hm.bit rfl) (Keeps.fold ?_) ?_)))

theorem keeps_holdGuest (s : State) (hm : Sub 16384 K) (h0 : Keeps K s) :
    Keeps K (holdGuest s) := by
  unfold holdGuest
  repeat' (first
    | with_reducible assumption
    | exact fun _ h => ⟨rfl, rfl, h.2.2⟩
    | exact hm.le rfl
    | (unfold Keeps; dsimp only; with_reducible (refine K4.s14 (hm.bit rfl) (Keeps.fold ?_) ?_)))

theorem keeps_ownerReply (s : State) (d : Nat) (kind : Nat) (m : Owner) (area : List Byte) (h0 : Keeps K s) :
    Keeps K (ownerReply s d kind m area) := by
  unfold ownerReply
  repeat' (first
    | with_reducible assumption
    | with_reducible apply keeps_signBy
    | with_reducible apply keeps_hostOut)

theorem keeps_commitOwner (s : State) (ok : Bool) (hm : Sub 2097152 K) (h0 : Keeps K s) :
    Keeps K (commitOwner s ok) := by
  unfold commitOwner
  repeat' (first
    | with_reducible assumption
    | exact hm.le rfl
    | with_reducible apply keeps_putRec)

theorem keeps_ownerMsg (s : State) (d : Nat) (kind : Nat) (commitOk : Bool) (body : Owner → Option State)
    (after : Owner → State → List Byte × State) (hm : Sub 2097152 K)
    (h0 : Keeps K s) (hb : ∀ m, KeepsO K (body m))
    (ha : ∀ m t, Keeps K t → Keeps K (after m t).2) : Keeps K (ownerMsg s d kind commitOk body after) := by
  unfold ownerMsg
  try dsimp only
  repeat' (first
    | with_reducible assumption
    | exact hm.le rfl
    | with_reducible apply keeps_ownerReply
    | with_reducible apply keeps_commitOwner
    | with_reducible apply keeps_withGnt
    | with_reducible apply keeps_emit
    | with_reducible apply keeps_refuseF
    | with_reducible apply keeps_endF
    | with_reducible apply keeps_putOlder
    | with_reducible apply ha
    | (refine KeepsO.get (by assumption) (hb _))
    | intro _
    | split)

theorem keeps_setPolicy (s : State) (p : Policy) (hm : Sub 64 K) (h0 : Keeps K s) :
    Keeps K (setPolicy s p) := by
  unfold setPolicy
  repeat' (first
    | with_reducible assumption
    | exact hm.le rfl
    | (unfold Keeps; dsimp only; with_reducible (apply K4.s6 (hm.bit rfl); apply Keeps.fold)))

theorem keeps_destroyAll (s : State) (hm : Sub 3850943 K) (h0 : Keeps K s) :
    Keeps K (destroyAll s) := by
  unfold destroyAll
  repeat' (first
    | with_reducible assumption
    | exact hm.le rfl
    | with_reducible apply keeps_destroyPart
    | with_reducible refine Keeps.foldl ?_ ?_
    | intro _
    | (unfold Keeps; dsimp only; with_reducible (apply K4.s9 (hm.bit rfl); apply Keeps.fold)))

theorem keeps_ownerMsgClaim (d : Nat) (commitOk : Bool) (s : State) (hm : Sub 3851007 K) (h0 : Keeps K s) :
    Keeps K (ownerMsgClaim d commitOk s) := by
  unfold ownerMsgClaim
  dsimp only
  repeat' (first
    | with_reducible assumption
    | exact hm.le rfl
    | with_reducible apply keeps_destroyAll
    | with_reducible apply keeps_setPolicy
    | with_reducible apply keeps_ownerMsg
    | with_reducible apply keeps_loadCuff
    | with_reducible apply keeps_recapAll
    | with_reducible apply KeepsO.some
    | with_reducible apply KeepsO.none
    | intro _
    | split)

theorem keeps_ownerMsgPolicy (d : Nat) (commitOk : Bool) (s : State) (hm : Sub 2146368 K) (h0 : Keeps K s) :
    Keeps K (ownerMsgPolicy d commitOk s) := by
  unfold ownerMsgPolicy
  repeat' (first
    | with_reducible assumption
    | exact hm.le rfl
    | with_reducible apply keeps_setPolicy
    | with_reducible apply keeps_ownerMsg
    | with_reducible apply keeps_holdGuest
    | with_reducible apply keeps_loadCuff
    | with_reducible apply keeps_recapAll
    | with_reducible apply KeepsO.some
    | with_reducible apply KeepsO.none
    | intro _
    | split)

theorem keeps_unpair (s : State) (k : Nat) (hm : Sub 1048623 K) (h0 : Keeps K s) :
    Keeps K (unpair s k) := by
  unfold unpair
  repeat' (first
    | with_reducible assumption
    | exact hm.le rfl
    | with_reducible apply keeps_failOut
    | with_reducible refine Keeps.foldl ?_ ?_
    | intro _
    | (unfold Keeps; dsimp only; with_reducible (apply K4.s20 (hm.bit rfl); apply Keeps.fold)))

theorem keeps_ownerMsgPairing (d : Nat) (commitOk : Bool) (s : State) (hm : Sub 3145839 K) (h0 : Keeps K s) :
    Keeps K (ownerMsgPairing d commitOk s) := by
  unfold ownerMsgPairing
  repeat' (first
    | with_reducible assumption
    | exact hm.le rfl
    | with_reducible apply keeps_unpair
    | with_reducible apply keeps_setPolicy
    | with_reducible apply keeps_ownerMsg
    | with_reducible refine Keeps.foldl ?_ ?_
    | with_reducible apply KeepsO.bindA
    | with_reducible apply KeepsO.mapA
    | intro _
    | split)

theorem keeps_enterDebug (s : State) (scope : Nat) (hm : Sub 3850943 K) (h0 : Keeps K s) :
    Keeps K (enterDebug s scope) := by
  unfold enterDebug
  repeat' (first
    | with_reducible assumption
    | exact hm.le rfl
    | with_reducible apply keeps_holdGuest
    | with_reducible apply keeps_destroyPart
    | with_reducible apply keeps_portLeave
    | with_reducible apply keeps_clearPart
    | with_reducible refine Keeps.foldl ?_ ?_
    | intro _
    | split
    | (unfold Keeps; dsimp only; with_reducible (apply K4.s7 (hm.bit rfl); apply K4.s9 (hm.bit rfl); apply Keeps.fold)))

theorem keeps_ownerMsgDebug (d : Nat) (commitOk : Bool) (s : State) (hm : Sub 3851007 K) (h0 : Keeps K s) :
    Keeps K (ownerMsgDebug d commitOk s) := by
  unfold ownerMsgDebug
  repeat' (first
    | with_reducible assumption
    | exact hm.le rfl
    | with_reducible apply keeps_enterDebug
    | with_reducible apply keeps_setPolicy
    | with_reducible apply keeps_ownerMsg
    | with_reducible apply KeepsO.some
    | with_reducible apply KeepsO.none
    | intro _
    | split)

theorem keeps_debugEntered (s : State) (h0 : Keeps K s) :
    Keeps K (debugEntered s) := by
  unfold debugEntered
  repeat' (first
    | with_reducible assumption
    | with_reducible apply keeps_emit
    | split
    | (unfold Keeps; dsimp only; with_reducible (apply Keeps.fold)))

theorem keeps_releaseKey (p : Nat) (x : State × List (Nat × Nat)) (e : Nat × Nat × Nat) (hm : Sub 128 K) (h0 : Keeps K x.1) :
    Keeps K (releaseKey p x e).1 := by
  unfold releaseKey
  repeat' (first
    | with_reducible assumption
    | exact hm.le rfl
    | with_reducible apply keeps_putKeys
    | split
    | (unfold Keeps; dsimp only; with_reducible (apply Keeps.fold)))

theorem keeps_ownerMsgKeyRelease (d : Nat) (s : State) (hm : Sub 2097280 K) (h0 : Keeps K s) :
    Keeps K (ownerMsgKeyRelease d s) := by
  unfold ownerMsgKeyRelease
  dsimp only
  repeat' (first
    | with_reducible assumption
    | exact hm.le rfl
    | with_reducible apply keeps_releaseKey
    | with_reducible apply keeps_ownerMsg
    | with_reducible refine Keeps.foldl1 ?_ ?_
    | with_reducible apply KeepsO.mapA
    | intro _
    | split)

theorem keeps_fillZero (s : State) (x : Fill) (hm : Sub 3 K) (h0 : Keeps K s) :
    Keeps K (fillZero s x) := by
  unfold fillZero
  repeat' (first
    | with_reducible assumption
    | exact hm.le rfl
    | with_reducible apply keeps_pzero
    | with_reducible refine Keeps.foldl ?_ ?_
    | intro _)

theorem keeps_endFill (s : State) (x : Fill) (hm : Sub 2097155 K) (h0 : Keeps K s) :
    Keeps K (endFill s x) := by
  unfold endFill
  repeat' (first
    | with_reducible assumption
    | exact hm.le rfl
    | with_reducible apply keeps_fillZero
    | with_reducible apply keeps_emit
    | with_reducible apply keeps_putOlder
    | with_reducible apply keeps_putStored
    | (unfold Keeps; dsimp only; with_reducible (apply Keeps.fold)))

theorem keeps_zeroFillDone (p : Nat) (s : State) (hm : Sub 2097155 K) (h0 : Keeps K s) :
    Keeps K (zeroFillDone p s) := by
  unfold zeroFillDone
  repeat' (first
    | with_reducible assumption
    | exact hm.le rfl
    | with_reducible apply keeps_endFill
    | split)

theorem keeps_blowFuse (s : State) (ty : Nat) (hm : Sub 2048 K) (h0 : Keeps K s) :
    Keeps K (blowFuse s ty) := by
  unfold blowFuse
  dsimp only
  repeat' (first
    | with_reducible assumption
    | exact hm.le rfl
    | with_reducible apply keeps_putFw
    | split)

theorem keeps_blowDue (s : State) (hm : Sub 2048 K) (h0 : Keeps K s) :
    Keeps K (blowDue s) := by
  unfold blowDue
  repeat' (first
    | with_reducible assumption
    | exact hm.le rfl
    | with_reducible apply keeps_blowFuse
    | with_reducible refine Keeps.foldl ?_ ?_
    | intro _
    | split)

theorem keeps_pkgState (d : Nat) (s : State) (hm : Sub 1085487 K) (h0 : Keeps K s) :
    Keeps K (pkgState d s) := by
  unfold pkgState
  repeat' (first
    | with_reducible assumption
    | exact hm.le rfl
    | with_reducible apply keeps_refuseIf
    | with_reducible apply keeps_settleDrain
    | with_reducible apply keeps_enterPkg
    | with_reducible apply keeps_trickleSaveOrStop
    | with_reducible apply keeps_portLeave
    | with_reducible apply keeps_withOp
    | with_reducible apply keeps_endF
    | with_reducible apply keeps_putF
    | with_reducible refine Keeps.foldl ?_ ?_
    | intro _
    | split
    | (unfold Keeps; dsimp only; with_reducible (apply K4.s12 (hm.bit rfl); apply Keeps.fold)))

theorem keeps_levelSlewDone (s : State) (hm : Sub 4096 K) (h0 : Keeps K s) :
    Keeps K (levelSlewDone s) := by
  unfold levelSlewDone
  repeat' (first
    | with_reducible assumption
    | exact hm.le rfl
    | with_reducible apply keeps_endF
    | split
    | (unfold Keeps; dsimp only; with_reducible (apply K4.s12 (hm.bit rfl); apply Keeps.fold)))

theorem keeps_readyDrainTimeout (s : State) (hm : Sub 1085487 K) (h0 : Keeps K s) :
    Keeps K (readyDrainTimeout s) := by
  unfold readyDrainTimeout
  repeat' (first
    | with_reducible assumption
    | exact hm.le rfl
    | with_reducible apply keeps_settleDrain
    | with_reducible apply keeps_stopWhere
    | split)

theorem keeps_powerCap (d : Nat) (s : State) (hm : Sub 12288 K) (h0 : Keeps K s) :
    Keeps K (powerCap d s) := by
  unfold powerCap
  repeat' (first
    | with_reducible assumption
    | exact hm.le rfl
    | with_reducible apply keeps_refuseIf
    | with_reducible apply keeps_withOp
    | with_reducible apply keeps_endF
    | intro _
    | (unfold Keeps; dsimp only; with_reducible (apply K4.s12 (hm.bit rfl); apply K4.s13 (hm.bit rfl); apply Keeps.fold)))

theorem keeps_leaveTrip (s : State) (hm : Sub 14336 K) (h0 : Keeps K s) :
    Keeps K (leaveTrip s) := by
  unfold leaveTrip
  repeat' (first
    | with_reducible assumption
    | exact hm.le rfl
    | with_reducible apply keeps_blowDue
    | (unfold Keeps; dsimp only; with_reducible (apply K4.s12 (hm.bit rfl); apply K4.s13 (hm.bit rfl); apply Keeps.fold)))

theorem keeps_startPhase (s : State) (p : Phase) (h0 : Keeps K s) :
    Keeps K (startPhase s p) := by
  unfold startPhase
  repeat' (first
    | with_reducible assumption
    | with_reducible apply keeps_emit
    | (unfold Keeps; dsimp only; with_reducible (apply Keeps.fold)))

theorem keeps_endNet (s : State) (hm : Sub 12288 K) (h0 : Keeps K s) :
    Keeps K (endNet s) := by
  unfold endNet
  repeat' (first
    | with_reducible assumption
    | exact hm.le rfl
    | with_reducible apply keeps_startPhase
    | with_reducible apply keeps_emit
    | split
    | (unfold Keeps; dsimp only; with_reducible (apply K4.s12 (hm.bit rfl); apply K4.s13 (hm.bit rfl); apply Keeps.fold)))

theorem keeps_tripAck (d : Nat) (s : State) (hm : Sub 14336 K) (h0 : Keeps K s) :
    Keeps K (tripAck d s) := by
  unfold tripAck
  repeat' (first
    | with_reducible assumption
    | exact hm.le rfl
    | with_reducible apply keeps_leaveTrip
    | with_reducible apply keeps_refuseIf
    | with_reducible apply keeps_withOp
    | with_reducible apply keeps_endF
    | intro _)

theorem keeps_fwStage (d : Nat) (s : State) (hm : Sub 2048 K) (h0 : Keeps K s) :
    Keeps K (fwStage d s) := by
  unfold fwStage
  dsimp only
  repeat' (first
    | with_reducible assumption
    | exact hm.le rfl
    | with_reducible apply keeps_withGnt
    | with_reducible apply keeps_emit
    | with_reducible apply keeps_putFw
    | with_reducible apply keeps_refuseF
    | with_reducible apply keeps_endF
    | intro _
    | split)

theorem keeps_fwActivate (d : Nat) (s : State) (hm : Sub 2048 K) (h0 : Keeps K s) :
    Keeps K (fwActivate d s) := by
  unfold fwActivate
  repeat' (first
    | with_reducible assumption
    | exact hm.le rfl
    | with_reducible apply keeps_refuseIf
    | with_reducible apply keeps_withGnt
    | with_reducible apply keeps_appendHeld
    | with_reducible apply keeps_putFw
    | with_reducible apply keeps_endF
    | intro _
    | split
    | (unfold Keeps; dsimp only; with_reducible (apply Keeps.fold)))

theorem keeps_liveActivationCheck (refreshed : Bool) (s : State) (hm : Sub 2048 K) (h0 : Keeps K s) :
    Keeps K (liveActivationCheck refreshed s) := by
  unfold liveActivationCheck
  dsimp only
  repeat' (first
    | with_reducible assumption
    | exact hm.le rfl
    | with_reducible apply keeps_blowFuse
    | with_reducible apply keeps_emit
    | with_reducible apply keeps_putFw
    | split)

theorem keeps_startDeferred (s : State) (hm : Sub 131072 K) (h0 : Keeps K s) :
    Keeps K (startDeferred s) := by
  unfold startDeferred
  repeat' (first
    | with_reducible assumption
    | exact hm.le rfl
    | split
    | (unfold Keeps; dsimp only; with_reducible (apply K4.s17 (hm.bit rfl); apply Keeps.fold)))

theorem keeps_endHoliday (s : State) (hm : Sub 1802287 K) (h0 : Keeps K s) :
    Keeps K (endHoliday s) := by
  unfold endHoliday
  repeat' (first
    | with_reducible assumption
    | exact hm.le rfl
    | with_reducible apply keeps_serveFreed
    | with_reducible apply keeps_recapAll
    | with_reducible apply keeps_stopTest
    | with_reducible apply keeps_portRelease
    | with_reducible apply keeps_emit
    | with_reducible refine Keeps.foldl ?_ ?_
    | intro _
    | split
    | (unfold Keeps; dsimp only; with_reducible (apply K4.s17 (hm.bit rfl); apply Keeps.fold)))

theorem keeps_holidayGrant (d : Nat) (s : State) (hm : Sub 1802287 K) (h0 : Keeps K s) :
    Keeps K (holidayGrant d s) := by
  unfold holidayGrant
  repeat' (first
    | with_reducible assumption
    | exact hm.le rfl
    | with_reducible apply keeps_endHoliday
    | with_reducible apply keeps_startDeferred
    | with_reducible apply keeps_recapAll
    | with_reducible apply keeps_refuseIf
    | with_reducible apply keeps_portLeave
    | with_reducible apply keeps_withOp
    | with_reducible apply keeps_endF
    | with_reducible refine Keeps.foldl ?_ ?_
    | intro _
    | split
    | (unfold Keeps; dsimp only; with_reducible (apply K4.s17 (hm.bit rfl); apply Keeps.fold)))

theorem keeps_holidayExpire (s : State) (hm : Sub 1802287 K) (h0 : Keeps K s) :
    Keeps K (holidayExpire s) := by
  unfold holidayExpire
  repeat' (first
    | with_reducible assumption
    | exact hm.le rfl
    | with_reducible apply keeps_endHoliday
    | split)

theorem keeps_testCommand (s : State) (d : Nat) (op : Nat) (cal : Bool) (hm : Sub 1703983 K) (h0 : Keeps K s) :
    Keeps K (testCommand s d op cal) := by
  unfold testCommand
  repeat' (first
    | with_reducible assumption
    | exact hm.le rfl
    | with_reducible apply keeps_refuseIf
    | with_reducible apply keeps_stopWhere
    | with_reducible apply keeps_withOp
    | with_reducible apply keeps_endF
    | with_reducible apply keeps_putF
    | intro _
    | split
    | (unfold Keeps; dsimp only; with_reducible (apply K4.s17 (hm.bit rfl); apply K4.s19 (hm.bit rfl); apply Keeps.fold)))

theorem keeps_selftest (d : Nat) (s : State) (hm : Sub 1703983 K) (h0 : Keeps K s) :
    Keeps K (selftest d s) := by
  unfold selftest
  repeat' (first
    | with_reducible assumption
    | exact hm.le rfl
    | with_reducible apply keeps_testCommand)

theorem keeps_calibrate (d : Nat) (s : State) (hm : Sub 1703983 K) (h0 : Keeps K s) :
    Keeps K (calibrate d s) := by
  unfold calibrate
  repeat' (first
    | with_reducible assumption
    | exact hm.le rfl
    | with_reducible apply keeps_testCommand)

theorem keeps_chargeFailure (s : State) (e : Nat × Nat × Nat) (hm : Sub 1114159 K) (h0 : Keeps K s) :
    Keeps K (chargeFailure s e) := by
  unfold chargeFailure
  repeat' (first
    | with_reducible assumption
    | exact hm.le rfl
    | with_reducible apply keeps_chargeUnit
    | with_reducible apply keeps_chargeMemory
    | with_reducible apply keeps_chargeCore
    | with_reducible apply keeps_chargeChannel
    | split)

theorem keeps_putShadow (s : State) (i : Nat) (l : List (Nat × List Byte)) (hm : Sub 2097152 K) (h0 : Keeps K s) :
    Keeps K (putShadow s i l) := by
  unfold putShadow
  repeat' (first
    | with_reducible assumption
    | exact hm.le rfl
    | with_reducible apply keeps_putRec)

theorem keeps_putTrained (s : State) (i : Nat) (slot : Nat) (l : List (Nat × List Byte)) (hm : Sub 2097152 K) (h0 : Keeps K s) :
    Keeps K (putTrained s i slot l) := by
  unfold putTrained
  repeat' (first
    | with_reducible assumption
    | exact hm.le rfl
    | with_reducible apply keeps_putRec)

theorem keeps_storeThermal (s : State) (t : TestRun) (x : ThermalCal) (hm : Sub 2105344 K) (h0 : Keeps K s) :
    Keeps K (storeThermal s t x) := by
  unfold storeThermal
  repeat' (first
    | with_reducible assumption
    | exact hm.le rfl
    | with_reducible apply keeps_putShadow
    | with_reducible apply keeps_putTower
    | with_reducible refine Keeps.foldl ?_ ?_
    | intro _)

theorem keeps_testContent (s : State) (t : TestRun) (v : TestVerdict) (hm : Sub 2105347 K) (h0 : Keeps K s) :
    Keeps K (testContent s t v) := by
  unfold testContent
  repeat' (first
    | with_reducible assumption
    | exact hm.le rfl
    | with_reducible apply keeps_storeThermal
    | with_reducible apply keeps_putTrained
    | with_reducible apply keeps_putShadow
    | with_reducible apply keeps_pzero
    | with_reducible refine Keeps.foldl ?_ ?_
    | intro _
    | split
    | (unfold Keeps; dsimp only; with_reducible (apply Keeps.fold)))

theorem keeps_testDone (v : TestVerdict) (s : State) (hm : Sub 3907631 K) (h0 : Keeps K s) :
    Keeps K (testDone v s) := by
  unfold testDone
  repeat' (first
    | with_reducible assumption
    | exact hm.le rfl
    | with_reducible apply keeps_testContent
    | with_reducible apply keeps_chargeFailure
    | with_reducible apply keeps_startDeferred
    | with_reducible apply keeps_serveFreed
    | with_reducible apply keeps_reportTest
    | with_reducible refine Keeps.foldl ?_ ?_
    | intro _
    | split
    | (unfold Keeps; dsimp only; with_reducible (apply K4.s17 (hm.bit rfl); apply K4.s19 (hm.bit rfl); apply Keeps.fold)))

theorem keeps_retirePage (d : Nat) (s : State) (hm : Sub 1048591 K) (h0 : Keeps K s) :
    Keeps K (retirePage d s) := by
  unfold retirePage
  repeat' (first
    | with_reducible assumption
    | exact hm.le rfl
    | with_reducible apply keeps_retireRange
    | with_reducible apply keeps_advise
    | with_reducible apply keeps_refuseIf
    | with_reducible apply keeps_reportRange
    | with_reducible apply keeps_withOp
    | with_reducible apply keeps_endF
    | intro _
    | split
    | (unfold Keeps; dsimp only; with_reducible (apply Keeps.fold)))

theorem keeps_retireBank (d : Nat) (s : State) (hm : Sub 1048591 K) (h0 : Keeps K s) :
    Keeps K (retireBank d s) := by
  unfold retireBank
  repeat' (first
    | with_reducible assumption
    | exact hm.le rfl
    | with_reducible apply keeps_retireRange
    | with_reducible apply keeps_refuseIf
    | with_reducible apply keeps_reportRange
    | with_reducible apply keeps_withOp
    | with_reducible apply keeps_endF
    | with_reducible apply keeps_putF
    | intro _
    | split
    | (unfold Keeps; dsimp only; with_reducible (apply Keeps.fold)))

theorem keeps_retireMoveDone (target : Nat) (s : State) (hm : Sub 32768 K) (h0 : Keeps K s) :
    Keeps K (retireMoveDone target s) := by
  unfold retireMoveDone
  repeat' (first
    | with_reducible assumption
    | exact hm.le rfl
    | with_reducible apply keeps_advise
    | with_reducible apply keeps_recap
    | with_reducible apply keeps_endF
    | split
    | (unfold Keeps; dsimp only; with_reducible (apply Keeps.fold)))

theorem keeps_snapArm (d : Nat) (s : State) (h0 : Keeps K s) :
    Keeps K (snapArm d s) := by
  unfold snapArm
  repeat' (first
    | with_reducible assumption
    | with_reducible apply keeps_refuseIf
    | with_reducible apply keeps_counterTrigger
    | with_reducible apply keeps_withOp
    | with_reducible apply keeps_endF
    | intro _
    | (unfold Keeps; dsimp only; with_reducible (apply Keeps.fold)))

theorem keeps_snapTrigger (d : Nat) (s : State) (h0 : Keeps K s) :
    Keeps K (snapTrigger d s) := by
  unfold snapTrigger
  repeat' (first
    | with_reducible assumption
    | with_reducible apply keeps_refuseIf
    | with_reducible apply keeps_withOp
    | with_reducible apply keeps_latch
    | with_reducible apply keeps_endF
    | intro _
    | split)

theorem keeps_equinoxInput (s : State) (h0 : Keeps K s) :
    Keeps K (equinoxInput s) := by
  unfold equinoxInput
  repeat' (first
    | with_reducible assumption
    | with_reducible apply keeps_equinox
    | split
    | (unfold Keeps; dsimp only; with_reducible (apply Keeps.fold)))

theorem keeps_sealedT (s : State) (b : Bank) (hm : Sub 128 K) (h0 : Keeps K s) :
    Keeps K (sealedT s b).2 := by
  unfold sealedT
  repeat' (first
    | with_reducible assumption
    | exact hm.le rfl
    | with_reducible apply keeps_putKeys
    | split)

theorem keeps_imageOf (s : State) (b : Bank) (hm : Sub 128 K) (h0 : Keeps K s) :
    Keeps K (imageOf s b).2 := by
  unfold imageOf
  dsimp only
  repeat' (first
    | with_reducible assumption
    | exact hm.le rfl
    | with_reducible apply keeps_sealedT
    | split)

theorem keeps_snapRead (d : Nat) (s : State) (hm : Sub 128 K) (h0 : Keeps K s) :
    Keeps K (snapRead d s) := by
  unfold snapRead
  repeat' (first
    | with_reducible assumption
    | exact hm.le rfl
    | with_reducible apply keeps_imageOf
    | with_reducible apply keeps_withOp
    | with_reducible apply keeps_refuseF
    | with_reducible apply keeps_endF
    | with_reducible apply keeps_hwrite
    | intro _
    | split
    | (unfold Keeps; dsimp only; with_reducible (apply Keeps.fold)))

theorem keeps_katOp (s : State) (d : Nat) (f : Flight) (failing : List Nat) (hm : Sub 1114159 K) (h0 : Keeps K s) :
    KeepsE K (katOp s d f failing) := by
  unfold katOp
  repeat' (first
    | with_reducible assumption
    | exact hm.le rfl
    | with_reducible apply keeps_chargeCore
    | with_reducible apply keeps_vwrite
    | with_reducible apply keeps_endF
    | with_reducible refine Keeps.foldl ?_ ?_
    | with_reducible apply KeepsE.ok
    | with_reducible refine KeepsE.bindS ?_ ?_
    | with_reducible refine KeepsE.bind ?_
    | intro _)

theorem keeps_kat (d : Nat) (failing : List Nat) (s : State) (hm : Sub 1114159 K) (h0 : Keeps K s) :
    Keeps K (kat d failing s) := by
  unfold kat
  repeat' (first
    | with_reducible assumption
    | exact hm.le rfl
    | with_reducible apply keeps_katOp
    | with_reducible apply keeps_withOp
    | with_reducible apply keeps_stopWith
    | intro _
    | split
    | (refine KeepsE.get (by assumption) ?_))

theorem keeps_repairRead (d : Nat) (s : State) (h0 : Keeps K s) :
    Keeps K (repairRead d s) := by
  unfold repairRead
  dsimp only
  repeat' (first
    | with_reducible assumption
    | with_reducible apply keeps_refuseIf
    | with_reducible apply keeps_withOp
    | with_reducible apply keeps_endF
    | with_reducible apply keeps_hwrite
    | intro _
    | split)

theorem keeps_rowRemap (d : Nat) (s : State) (hm : Sub 1114159 K) (h0 : Keeps K s) :
    Keeps K (rowRemap d s) := by
  unfold rowRemap
  repeat' (first
    | with_reducible assumption
    | exact hm.le rfl
    | with_reducible apply keeps_chargeMemory
    | with_reducible apply keeps_refuseIf
    | with_reducible apply keeps_withOp
    | with_reducible apply keeps_emit
    | with_reducible apply keeps_refuseF
    | with_reducible apply keeps_endF
    | intro _
    | split
    | (unfold Keeps; dsimp only; with_reducible (apply Keeps.fold)))

theorem keeps_ppr (d : Nat) (fuseOk : Bool) (s : State) (h0 : Keeps K s) :
    Keeps K (ppr d fuseOk s) := by
  unfold ppr
  repeat' (first
    | with_reducible assumption
    | with_reducible apply keeps_refuseIf
    | with_reducible apply keeps_withOp
    | with_reducible apply keeps_emit
    | with_reducible apply keeps_endF
    | intro _
    | (unfold Keeps; dsimp only; with_reducible (apply Keeps.fold)))

theorem keeps_tap (d : Nat) (s : State) (h0 : Keeps K s) :
    Keeps K (tap d s) := by
  unfold tap
  dsimp only
  repeat' (first
    | with_reducible assumption
    | with_reducible apply keeps_refuseIf
    | with_reducible apply keeps_withOp
    | with_reducible apply keeps_takeBytes
    | with_reducible apply keeps_refuseF
    | with_reducible apply keeps_endF
    | with_reducible apply keeps_hwrite
    | intro _
    | split)

theorem keeps_engineCtrl (d : Nat) (s : State) (h0 : Keeps K s) :
    Keeps K (engineCtrl d s) := by
  unfold engineCtrl
  repeat' (first
    | with_reducible assumption
    | with_reducible apply keeps_refuseIf
    | with_reducible apply keeps_withOp
    | with_reducible apply keeps_takeNat
    | with_reducible apply keeps_endF
    | intro _)

theorem keeps_arrayWord (acc : List Byte × State) (pa : Nat) (found : EccFinding) (hm : Sub 1114159 K) (h0 : Keeps K acc.2) :
    Keeps K (arrayWord acc pa found).2 := by
  unfold arrayWord
  dsimp only
  repeat' (first
    | with_reducible assumption
    | exact hm.le rfl
    | with_reducible apply keeps_findCodeword
    | with_reducible apply keeps_takeBytes
    | split)

theorem keeps_arrayRead (d : Nat) (found : List (Nat × EccFinding)) (s : State) (hm : Sub 1114159 K) (h0 : Keeps K s) :
    Keeps K (arrayRead d found s) := by
  unfold arrayRead
  dsimp only
  repeat' (first
    | with_reducible assumption
    | exact hm.le rfl
    | with_reducible apply keeps_arrayWord
    | with_reducible apply keeps_refuseIf
    | with_reducible apply keeps_withOp
    | with_reducible apply keeps_endF
    | with_reducible apply keeps_hwrite
    | with_reducible refine Keeps.foldl2 ?_ ?_
    | intro _
    | split)

theorem keeps_scanDump (d : Nat) (s : State) (h0 : Keeps K s) :
    Keeps K (scanDump d s) := by
  unfold scanDump
  repeat' (first
    | with_reducible assumption
    | with_reducible apply keeps_refuseIf
    | with_reducible apply keeps_withOp
    | with_reducible apply keeps_putSite
    | with_reducible apply keeps_takeBytes
    | with_reducible apply keeps_endF
    | with_reducible apply keeps_hwrite
    | intro _
    | split)

end Sys2Proof.Machine
end

