-- ==== Sys2Proof/Laws/KeepsPackage.lean ====
section
/-! SUPPORT. What the fabric, the ports, the guest, heat, SPDM, spares, bring-up and the registers keep, as `Keeps` says it: one lemma for each operation. -/

namespace Sys2Proof.Machine

variable {K : Kept}

theorem keeps_bundleChange (s : State) (b : Nat) (d : Nat) (ev : Nat) (lane : Nat) (hm : Sub 1867823 K) (h0 : Keeps K s) :
    Keeps K (bundleChange s b d ev lane) := by
  unfold bundleChange
  repeat' (first
    | with_reducible assumption
    | exact hm.le rfl
    | with_reducible apply keeps_advise
    | with_reducible apply keeps_settleFences
    | with_reducible apply keeps_recap
    | with_reducible apply keeps_emit)

theorem keeps_retireBundle (s : State) (b : Nat) (d : Nat) (lane : Nat) (hm : Sub 1867823 K) (h0 : Keeps K s) :
    Keeps K (retireBundle s b d lane) := by
  unfold retireBundle
  repeat' (first
    | with_reducible assumption
    | exact hm.le rfl
    | with_reducible apply keeps_bundleChange
    | with_reducible apply keeps_putBundle)

theorem keeps_retireLane (s : State) (b : Nat) (d : Nat) (lane : Nat) (hm : Sub 1867823 K) (h0 : Keeps K s) :
    Keeps K (retireLane s b d lane) := by
  unfold retireLane
  dsimp only
  repeat' (first
    | with_reducible assumption
    | exact hm.le rfl
    | with_reducible apply keeps_bundleChange
    | with_reducible apply keeps_putBundle
    | split)

theorem keeps_laneRetire (bundle : Nat) (dir : Nat) (lane : Nat) (s : State) (hm : Sub 1867823 K) (h0 : Keeps K s) :
    Keeps K (laneRetire bundle dir lane s) := by
  unfold laneRetire
  repeat' (first
    | with_reducible assumption
    | exact hm.le rfl
    | with_reducible apply keeps_retireLane
    | with_reducible apply keeps_markPermanent
    | split)

theorem keeps_laneRecalibration (bundle : Nat) (dir : Nat) (lane : Nat) (s : State) (hm : Sub 262144 K) (h0 : Keeps K s) :
    Keeps K (laneRecalibration bundle dir lane s) := by
  unfold laneRecalibration
  dsimp only
  repeat' (first
    | with_reducible assumption
    | exact hm.le rfl
    | with_reducible apply keeps_putBundle
    | split)

theorem keeps_chargeLanes (s : State) (b : Nat) (d : Nat) (bad : List Nat) (last : List Nat) (h0 : Keeps K s) :
    Keeps K (chargeLanes s b d bad last) := by
  unfold chargeLanes
  repeat' (first
    | with_reducible assumption
    | with_reducible apply keeps_chargeChannel
    | with_reducible refine Keeps.foldl ?_ ?_
    | intro _)

theorem keeps_frameReceive (bundle : Nat) (dir : Nat) (f : Frame) (s : State) (hm : Sub 1867823 K) (h0 : Keeps K s) :
    Keeps K (frameReceive bundle dir f s) := by
  unfold frameReceive
  dsimp only
  repeat' (first
    | with_reducible assumption
    | exact hm.le rfl
    | with_reducible apply keeps_chargeLanes
    | with_reducible apply keeps_retireBundle
    | with_reducible apply keeps_putBundle
    | split)

theorem keeps_liningMessage (link : Nat) (seq : Nat) (prio : Nat) (crcOk : Bool) (payload : List Byte) (s : State) (hm : Sub 262144 K) (h0 : Keeps K s) :
    Keeps K (liningMessage link seq prio crcOk payload s) := by
  unfold liningMessage
  repeat' (first
    | with_reducible assumption
    | exact hm.le rfl
    | split
    | (unfold Keeps; dsimp only; with_reducible (apply K4.s18 (hm.bit rfl); apply Keeps.fold)))

theorem keeps_portsDown (s : State) (a : Nat) (n : Nat) (hold : Nat) (hm : Sub 1081344 K) (h0 : Keeps K s) :
    Keeps K (portsDown s a n hold) := by
  unfold portsDown
  repeat' (first
    | with_reducible assumption
    | exact hm.le rfl
    | with_reducible apply keeps_portLeave
    | with_reducible refine Keeps.foldl ?_ ?_
    | intro _)

theorem keeps_portsBack (s : State) (a : Nat) (n : Nat) (hold : Nat) (hm : Sub 1048576 K) (h0 : Keeps K s) :
    Keeps K (portsBack s a n hold) := by
  unfold portsBack
  repeat' (first
    | with_reducible assumption
    | exact hm.le rfl
    | with_reducible apply keeps_portRelease
    | with_reducible refine Keeps.foldl ?_ ?_
    | intro _)

theorem keeps_stopTower (s : State) (t : Nat) (st : Nat) (hm : Sub 1048623 K) (h0 : Keeps K s) :
    Keeps K (stopTower s t st) := by
  unfold stopTower
  repeat' (first
    | with_reducible assumption
    | exact hm.le rfl
    | with_reducible apply keeps_leaveIntake
    | with_reducible apply keeps_stopLive
    | with_reducible refine Keeps.foldl ?_ ?_
    | intro _
    | (unfold Keeps; dsimp only; with_reducible (apply Keeps.fold)))

theorem keeps_dropBaseB (s0 : State) (h0 : Keeps K s0) :
    Keeps K (dropBaseB s0) := by
  unfold dropBaseB
  repeat' (first
    | with_reducible assumption
    | with_reducible apply keeps_writeBack
    | (unfold Keeps; dsimp only; with_reducible (apply Keeps.fold)))

theorem keeps_startDieReset (s : State) (die : Nat) (hm : Sub 1867823 K) (h0 : Keeps K s) :
    Keeps K (startDieReset s die) := by
  unfold startDieReset
  repeat' (first
    | with_reducible assumption
    | exact hm.le rfl
    | with_reducible apply keeps_dropBaseB
    | with_reducible apply keeps_stopTower
    | with_reducible apply keeps_portsDown
    | with_reducible apply keeps_settleFences
    | with_reducible apply keeps_emit
    | split
    | (unfold Keeps; dsimp only; with_reducible (apply K4.s18 (hm.bit rfl); apply Keeps.fold)))

theorem keeps_holdInput (s : State) (i : Nat) (hm : Sub 4096 K) (h0 : Keeps K s) :
    Keeps K (holdInput s i) := by
  unfold holdInput
  repeat' (first
    | with_reducible assumption
    | exact hm.le rfl
    | split
    | (unfold Keeps; dsimp only; with_reducible (apply K4.s12 (hm.bit rfl); apply Keeps.fold)))

theorem keeps_dieResetInput (die : Nat) (s : State) (hm : Sub 1871919 K) (h0 : Keeps K s) :
    Keeps K (dieResetInput die s) := by
  unfold dieResetInput
  repeat' (first
    | with_reducible assumption
    | exact hm.le rfl
    | with_reducible apply keeps_holdInput
    | with_reducible apply keeps_startDieReset
    | split)

theorem keeps_newSeason (badSeasons : List Nat) (s : State) (c : Nat) (hm : Sub 2162696 K) (h0 : Keeps K s) :
    Keeps K (newSeason badSeasons s c) := by
  unfold newSeason
  repeat' (first
    | with_reducible assumption
    | exact hm.le rfl
    | with_reducible apply keeps_makeHole
    | with_reducible apply keeps_bindCore
    | with_reducible apply keeps_emit
    | split)

theorem keeps_endDieReset (s : State) (die : Nat) (st : Nat) (hm : Sub 262144 K) (h0 : Keeps K s) :
    Keeps K (endDieReset s die st) := by
  unfold endDieReset
  repeat' (first
    | with_reducible assumption
    | exact hm.le rfl
    | with_reducible apply keeps_endF
    | split
    | (unfold Keeps; dsimp only; with_reducible (apply K4.s18 (hm.bit rfl); apply Keeps.fold)))

theorem keeps_dieBack (die : Nat) (failing : List Nat) (badSeasons : List Nat) (s : State) (hm : Sub 3997743 K) (h0 : Keeps K s) :
    Keeps K (dieBack die failing badSeasons s) := by
  unfold dieBack
  repeat' (first
    | with_reducible assumption
    | exact hm.le rfl
    | with_reducible apply keeps_endDieReset
    | with_reducible apply keeps_newSeason
    | with_reducible apply keeps_portsBack
    | with_reducible apply keeps_chargeCore
    | with_reducible apply keeps_settleFences
    | with_reducible apply keeps_emit
    | with_reducible refine Keeps.foldl ?_ ?_
    | intro _
    | split
    | (unfold Keeps; dsimp only; with_reducible (apply K4.s18 (hm.bit rfl); apply Keeps.fold)))

theorem keeps_dieLost (die : Nat) (s : State) (hm : Sub 1867823 K) (h0 : Keeps K s) :
    Keeps K (dieLost die s) := by
  unfold dieLost
  repeat' (first
    | with_reducible assumption
    | exact hm.le rfl
    | with_reducible apply keeps_endDieReset
    | with_reducible apply keeps_portsDown
    | with_reducible apply keeps_advise
    | with_reducible apply keeps_settleFences
    | with_reducible apply keeps_recap
    | with_reducible apply keeps_emit
    | split
    | (unfold Keeps; dsimp only; with_reducible (apply K4.s18 (hm.bit rfl); apply Keeps.fold)))

theorem keeps_refclkLost (tower : Nat) (s : State) (hm : Sub 1868847 K) (h0 : Keeps K s) :
    Keeps K (refclkLost tower s) := by
  unfold refclkLost
  repeat' (first
    | with_reducible assumption
    | exact hm.le rfl
    | with_reducible apply keeps_portsDown
    | with_reducible apply keeps_settleFences
    | with_reducible apply keeps_emit
    | split
    | (unfold Keeps; dsimp only; with_reducible (apply K4.s10 (hm.bit rfl); apply K4.s18 (hm.bit rfl); apply Keeps.fold)))

theorem keeps_refclkRestored (tower : Nat) (s : State) (hm : Sub 263168 K) (h0 : Keeps K s) :
    Keeps K (refclkRestored tower s) := by
  unfold refclkRestored
  repeat' (first
    | with_reducible assumption
    | exact hm.le rfl
    | with_reducible apply keeps_emit
    | split
    | (unfold Keeps; dsimp only; with_reducible (apply K4.s10 (hm.bit rfl); apply K4.s18 (hm.bit rfl); apply Keeps.fold)))

theorem keeps_liftClock (s : State) (tower : Nat) (hm : Sub 1835055 K) (h0 : Keeps K s) :
    Keeps K (liftClock s tower) := by
  unfold liftClock
  repeat' (first
    | with_reducible assumption
    | exact hm.le rfl
    | with_reducible apply keeps_portsBack
    | with_reducible apply keeps_settleFences
    | split
    | (unfold Keeps; dsimp only; with_reducible (apply K4.s18 (hm.bit rfl); apply Keeps.fold)))

theorem keeps_tick (s : State) (hm : Sub 1836079 K) (h0 : Keeps K s) :
    Keeps K (tick s) := by
  unfold tick
  repeat' (first
    | with_reducible assumption
    | exact hm.le rfl
    | with_reducible apply keeps_liftClock
    | split
    | (unfold Keeps; dsimp only; with_reducible (apply K4.s10 (hm.bit rfl); apply Keeps.fold)))

theorem keeps_portUp (s : State) (p : Nat) (hm : Sub 1081344 K) (h0 : Keeps K s) :
    Keeps K (portUp s p) := by
  unfold portUp
  repeat' (first
    | with_reducible assumption
    | exact hm.le rfl
    | with_reducible apply keeps_pumpOut
    | with_reducible apply keeps_recap
    | with_reducible apply keeps_resendFlits
    | with_reducible apply keeps_putPort
    | (unfold Keeps; dsimp only; with_reducible (apply K4.s20 (hm.bit rfl); apply Keeps.fold)))

theorem keeps_retirePort (s : State) (p : Nat) (hm : Sub 1081344 K) (h0 : Keeps K s) :
    Keeps K (retirePort s p) := by
  unfold retirePort
  repeat' (first
    | with_reducible assumption
    | exact hm.le rfl
    | with_reducible apply keeps_advise
    | with_reducible apply keeps_portLeave
    | with_reducible apply keeps_emit
    | split)

theorem keeps_chargeTrain (s : State) (p : Nat) (failed : Bool) (hm : Sub 1081344 K) (h0 : Keeps K s) :
    Keeps K (chargeTrain s p failed) := by
  unfold chargeTrain
  dsimp only
  repeat' (first
    | with_reducible assumption
    | exact hm.le rfl
    | with_reducible apply keeps_retirePort
    | with_reducible apply keeps_chargeChannel
    | split)

theorem keeps_sendIdle (s : State) (p : Nat) (hm : Sub 1048576 K) (h0 : Keeps K s) :
    Keeps K (sendIdle s p) := by
  unfold sendIdle
  dsimp only
  repeat' (first
    | with_reducible assumption
    | exact hm.le rfl
    | with_reducible apply keeps_sendFlits
    | split)

theorem keeps_nakFlit (s : State) (p : Nat) (f : Flit) (corrupt : Bool) (hm : Sub 1081344 K) (h0 : Keeps K s) :
    Keeps K (nakFlit s p f corrupt) := by
  unfold nakFlit
  dsimp only
  repeat' (first
    | with_reducible assumption
    | exact hm.le rfl
    | with_reducible apply keeps_sendIdle
    | with_reducible apply keeps_chargeTrain
    | with_reducible apply keeps_chargeChannel
    | with_reducible apply keeps_portLeave
    | with_reducible apply keeps_emit
    | with_reducible apply keeps_putPort
    | split)

theorem keeps_takeHeader (s : State) (p : Nat) (f : Flit) (hm : Sub 1081344 K) (h0 : Keeps K s) :
    Keeps K (takeHeader s p f) := by
  unfold takeHeader
  dsimp only
  repeat' (first
    | with_reducible assumption
    | exact hm.le rfl
    | with_reducible apply keeps_chargeTrain
    | with_reducible apply keeps_portLeave
    | with_reducible apply keeps_resendFlits
    | with_reducible apply keeps_putPort
    | split)

theorem keeps_serveMsg (s : State) (p : Nat) (m : RemMsg) (hm : Sub 1589311 K) (h0 : Keeps K s) :
    Keeps K (serveMsg s p m) := by
  unfold serveMsg
  repeat' (first
    | with_reducible assumption
    | exact hm.le rfl
    | with_reducible apply keeps_impQ
    | with_reducible apply keeps_sig
    | with_reducible apply keeps_atom
    | with_reducible apply keeps_wr
    | with_reducible apply keeps_rd
    | with_reducible apply keeps_impR
    | with_reducible apply keeps_sigAck
    | with_reducible apply keeps_atomAck
    | with_reducible apply keeps_wrAck
    | with_reducible apply keeps_rdData
    | split)

theorem keeps_serveRx (a0 : Nat) (a1 : State) (a2 : Nat) (hm : Sub 1589311 K) (h0 : Keeps K a1) :
    Keeps K (serveRx a0 a1 a2) := by
  induction a0 generalizing a1 a2 with
  | zero =>
    unfold serveRx
    try dsimp only
    repeat' (first
      | with_reducible assumption
      | exact hm.le rfl
      | with_reducible apply keeps_serveMsg
      | with_reducible apply keeps_putPort
      | intro _
      | split)
  | succ n ih =>
    unfold serveRx
    try dsimp only
    repeat' (first
      | with_reducible apply ih
      | with_reducible assumption
      | exact hm.le rfl
      | with_reducible apply keeps_serveMsg
      | with_reducible apply keeps_putPort
      | intro _
      | split)

theorem keeps_takePair (s : State) (p : Nat) (a : Flit) (f : Flit) (hm : Sub 1622079 K) (h0 : Keeps K s) :
    Keeps K (takePair s p a f) := by
  unfold takePair
  dsimp only
  repeat' (first
    | with_reducible assumption
    | exact hm.le rfl
    | with_reducible apply keeps_serveRx
    | with_reducible apply keeps_takeHeader
    | with_reducible apply keeps_nakFlit
    | with_reducible apply keeps_sendIdle
    | with_reducible apply keeps_pumpOut
    | with_reducible apply keeps_putPort
    | split)

theorem keeps_takePlain (s : State) (p : Nat) (f : Flit) (hm : Sub 1081344 K) (h0 : Keeps K s) :
    Keeps K (takePlain s p f) := by
  unfold takePlain
  repeat' (first
    | with_reducible assumption
    | exact hm.le rfl
    | with_reducible apply keeps_takeHeader
    | with_reducible apply keeps_putPort)

theorem keeps_flitReceive (port : Nat) (f : Flit) (s : State) (hm : Sub 1622079 K) (h0 : Keeps K s) :
    Keeps K (flitReceive port f s) := by
  unfold flitReceive
  dsimp only
  repeat' (first
    | with_reducible assumption
    | exact hm.le rfl
    | with_reducible apply keeps_takePlain
    | with_reducible apply keeps_takePair
    | with_reducible apply keeps_nakFlit
    | with_reducible apply keeps_putPort
    | split)

theorem keeps_portTrainTimeout (port : Nat) (s : State) (hm : Sub 1081344 K) (h0 : Keeps K s) :
    Keeps K (portTrainTimeout port s) := by
  unfold portTrainTimeout
  dsimp only
  repeat' (first
    | with_reducible assumption
    | exact hm.le rfl
    | with_reducible apply keeps_chargeTrain
    | with_reducible apply keeps_portLeave
    | split)

theorem keeps_portTrainDone (port : Nat) (s : State) (hm : Sub 1081344 K) (h0 : Keeps K s) :
    Keeps K (portTrainDone port s) := by
  unfold portTrainDone
  repeat' (first
    | with_reducible assumption
    | exact hm.le rfl
    | with_reducible apply keeps_portUp
    | with_reducible apply keeps_putPort
    | split
    | (unfold Keeps; dsimp only; with_reducible (apply Keeps.fold)))

theorem keeps_authFailed (s : State) (p : Nat) (hm : Sub 1081344 K) (h0 : Keeps K s) :
    Keeps K (authFailed s p) := by
  unfold authFailed
  repeat' (first
    | with_reducible assumption
    | exact hm.le rfl
    | with_reducible apply keeps_portLeave
    | with_reducible apply keeps_emit
    | with_reducible apply keeps_putPort)

theorem keeps_hello (port : Nat) (version : Nat) (hash : Nat) (farPort : Nat) (nonce : Nat) (s : State) (hm : Sub 1081344 K) (h0 : Keeps K s) :
    Keeps K (hello port version hash farPort nonce s) := by
  unfold hello
  dsimp only
  repeat' (first
    | with_reducible assumption
    | exact hm.le rfl
    | with_reducible apply keeps_authFailed
    | with_reducible apply keeps_putPort
    | split)

theorem keeps_auth (port : Nat) (chain : List Byte) (sig : List Byte) (pub : Nat) (s : State) (hm : Sub 1081344 K) (h0 : Keeps K s) :
    Keeps K (auth port chain sig pub s) := by
  unfold auth
  repeat' (first
    | with_reducible assumption
    | exact hm.le rfl
    | with_reducible apply keeps_authFailed
    | with_reducible apply keeps_sendFlits
    | with_reducible apply keeps_putPort
    | split
    | (unfold Keeps; dsimp only; with_reducible (apply K4.s20 (hm.bit rfl); apply Keeps.fold)))

theorem keeps_topo (port : Nat) (hash : Nat) (farPort : Nat) (ownerHash : Nat) (pkg : Nat) (waves : Nat) (s : State) (hm : Sub 1081344 K) (h0 : Keeps K s) :
    Keeps K (topo port hash farPort ownerHash pkg waves s) := by
  unfold topo
  dsimp only
  repeat' (first
    | with_reducible assumption
    | exact hm.le rfl
    | with_reducible apply keeps_portUp
    | with_reducible apply keeps_emit
    | with_reducible apply keeps_putPort
    | split)

theorem keeps_keyReplace (port : Nat) (dir : Nat) (s : State) (hm : Sub 1048576 K) (h0 : Keeps K s) :
    Keeps K (keyReplace port dir s) := by
  unfold keyReplace
  repeat' (first
    | with_reducible assumption
    | exact hm.le rfl
    | with_reducible apply keeps_pumpOut
    | with_reducible apply keeps_putPort
    | split
    | (unfold Keeps; dsimp only; with_reducible (apply K4.s20 (hm.bit rfl); apply Keeps.fold)))

theorem keeps_retireWave (s : State) (p : Nat) (w : Nat) (hm : Sub 1081344 K) (h0 : Keeps K s) :
    Keeps K (retireWave s p w) := by
  unfold retireWave
  repeat' (first
    | with_reducible assumption
    | exact hm.le rfl
    | with_reducible apply keeps_retirePort
    | with_reducible apply keeps_markPermanent
    | with_reducible apply keeps_recap
    | with_reducible apply keeps_emit
    | with_reducible apply keeps_putPort
    | split
    | (unfold Keeps; dsimp only; with_reducible (apply K4.s20 (hm.bit rfl); apply Keeps.fold)))

theorem keeps_wavelengthRetire (port : Nat) (wave : Nat) (s : State) (hm : Sub 1081344 K) (h0 : Keeps K s) :
    Keeps K (wavelengthRetire port wave s) := by
  unfold wavelengthRetire
  repeat' (first
    | with_reducible assumption
    | exact hm.le rfl
    | with_reducible apply keeps_retireWave
    | split)

theorem keeps_ringRecalibrate (port : Nat) (line : Nat) (ringOk : Bool) (s : State) (hm : Sub 1081344 K) (h0 : Keeps K s) :
    Keeps K (ringRecalibrate port line ringOk s) := by
  unfold ringRecalibrate
  dsimp only
  repeat' (first
    | with_reducible assumption
    | exact hm.le rfl
    | with_reducible apply keeps_retireWave
    | with_reducible apply keeps_putPort
    | split)

theorem keeps_recapEngine (s : State) (e : Nat) (hm : Sub 32768 K) (h0 : Keeps K s) :
    Keeps K (recapEngine s e) := by
  unfold recapEngine
  repeat' (first
    | with_reducible assumption
    | exact hm.le rfl
    | with_reducible apply keeps_recap
    | with_reducible refine Keeps.foldl ?_ ?_
    | intro _)

theorem keeps_laserLineLow (engine : Nat) (line : Nat) (s : State) (hm : Sub 1081344 K) (h0 : Keeps K s) :
    Keeps K (laserLineLow engine line s) := by
  unfold laserLineLow
  repeat' (first
    | with_reducible assumption
    | exact hm.le rfl
    | with_reducible apply keeps_recapEngine
    | with_reducible apply keeps_emit
    | split
    | (unfold Keeps; dsimp only; with_reducible (apply K4.s20 (hm.bit rfl); apply Keeps.fold)))

theorem keeps_laserLineRestored (engine : Nat) (line : Nat) (s : State) (hm : Sub 1081344 K) (h0 : Keeps K s) :
    Keeps K (laserLineRestored engine line s) := by
  unfold laserLineRestored
  repeat' (first
    | with_reducible assumption
    | exact hm.le rfl
    | with_reducible apply keeps_recapEngine
    | split
    | (unfold Keeps; dsimp only; with_reducible (apply K4.s20 (hm.bit rfl); apply Keeps.fold)))

theorem keeps_laserLost (engine : Nat) (s : State) (hm : Sub 1081344 K) (h0 : Keeps K s) :
    Keeps K (laserLost engine s) := by
  unfold laserLost
  repeat' (first
    | with_reducible assumption
    | exact hm.le rfl
    | with_reducible apply keeps_portsDown
    | with_reducible apply keeps_emit
    | split
    | (unfold Keeps; dsimp only; with_reducible (apply K4.s20 (hm.bit rfl); apply Keeps.fold)))

theorem keeps_laserInputRestored (engine : Nat) (s : State) (hm : Sub 1048576 K) (h0 : Keeps K s) :
    Keeps K (laserInputRestored engine s) := by
  unfold laserInputRestored
  repeat' (first
    | with_reducible assumption
    | exact hm.le rfl
    | with_reducible apply keeps_portsBack
    | split
    | (unfold Keeps; dsimp only; with_reducible (apply K4.s20 (hm.bit rfl); apply Keeps.fold)))

theorem keeps_lossOfLight (port : Nat) (s : State) (hm : Sub 1081344 K) (h0 : Keeps K s) :
    Keeps K (lossOfLight port s) := by
  unfold lossOfLight
  repeat' (first
    | with_reducible assumption
    | exact hm.le rfl
    | with_reducible apply keeps_portLeave
    | split)

theorem keeps_lightDetected (port : Nat) (s : State) (hm : Sub 1048576 K) (h0 : Keeps K s) :
    Keeps K (lightDetected port s) := by
  unfold lightDetected
  repeat' (first
    | with_reducible assumption
    | exact hm.le rfl
    | with_reducible apply keeps_putPort
    | split)

theorem keeps_reply (s : State) (r : CuffReply) (hm : Sub 16384 K) (h0 : Keeps K s) :
    Keeps K (reply s r) := by
  unfold reply
  repeat' (first
    | with_reducible assumption
    | exact fun _ h => h
    | exact hm.le rfl
    | (unfold Keeps; dsimp only; with_reducible (refine K4.s14 (hm.bit rfl) (Keeps.fold ?_) ?_)))

theorem keeps_denyGuest (s : State) (tag : Nat) (win : Nat) (off : Nat) (hm : Sub 16384 K) (h0 : Keeps K s) :
    Keeps K (denyGuest s tag win off) := by
  unfold denyGuest
  repeat' (first
    | with_reducible assumption
    | exact fun _ h => h
    | exact hm.le rfl
    | with_reducible apply keeps_reply
    | with_reducible apply keeps_emit
    | split
    | (unfold Keeps; dsimp only; with_reducible (refine K4.s14 (hm.bit rfl) (Keeps.fold ?_) ?_)))

theorem keeps_guestOp (s : State) (tag : Nat) (k : Nat → State) (hm : Sub 16384 K) (h0 : Keeps K s) (hk : ∀ x, Keeps K (k x)) :
    Keeps K (guestOp s tag k) := by
  unfold guestOp
  repeat' (first
    | with_reducible assumption
    | exact hm.le rfl
    | with_reducible apply keeps_reply
    | apply hk
    | split)

theorem keeps_pace (s : State) (key : Nat) (rate : Nat) (n : Nat) (hm : Sub 16384 K) (h0 : Keeps K s) :
    Keeps K (pace s key rate n) := by
  unfold pace
  repeat' (first
    | with_reducible assumption
    | exact fun _ h => h
    | exact hm.le rfl
    | (unfold Keeps; dsimp only; with_reducible (refine K4.s14 (hm.bit rfl) (Keeps.fold ?_) ?_)))

theorem keeps_guestServe (s : State) (r : MemReq) (hm : Sub 1671215 K) (h0 : Keeps K s) :
    KeepsO K (guestServe s r) := by
  unfold guestServe
  dsimp only
  repeat' (first
    | with_reducible assumption
    | exact hm.le rfl
    | with_reducible apply keeps_chargeAll
    | with_reducible apply keeps_memCache
    | with_reducible apply keeps_cacheLeaf
    | with_reducible apply keeps_serveReq
    | with_reducible apply KeepsO.some
    | with_reducible apply KeepsO.none
    | split)

theorem keeps_guestPass (s : State) (p : Nat) (win : Nat) (va : Nat) (n : Nat) (data : Option (List Byte)) (hm : Sub 1687599 K) (h0 : Keeps K s) :
    KeepsO K (guestPass s p win va n data) := by
  unfold guestPass
  dsimp only
  repeat' (first
    | with_reducible assumption
    | exact hm.le rfl
    | with_reducible apply keeps_guestServe
    | with_reducible apply keeps_pace
    | with_reducible refine Keeps.foldl ?_ ?_
    | with_reducible apply KeepsO.some
    | with_reducible apply KeepsO.none
    | with_reducible refine KeepsO.bind ?_ ?_
    | with_reducible refine KeepsO.map ?_ ?_
    | with_reducible refine KeepsO.foldl ?_ ?_
    | intro _
    | split)

theorem keeps_cuffRead (tag : Nat) (window : Nat) (offset : Nat) (len : Nat) (s : State) (hm : Sub 1687599 K) (h0 : Keeps K s) :
    Keeps K (cuffRead tag window offset len s) := by
  unfold cuffRead
  repeat' (first
    | with_reducible assumption
    | exact hm.le rfl
    | with_reducible apply keeps_guestPass
    | with_reducible apply keeps_guestOp
    | with_reducible apply keeps_denyGuest
    | with_reducible apply keeps_reply
    | intro _
    | split
    | (refine KeepsO.get (by assumption) ?_))

theorem keeps_cuffWrite (tag : Nat) (window : Nat) (offset : Nat) (data : List Byte) (s : State) (hm : Sub 1687599 K) (h0 : Keeps K s) :
    Keeps K (cuffWrite tag window offset data s) := by
  unfold cuffWrite
  repeat' (first
    | with_reducible assumption
    | exact hm.le rfl
    | with_reducible apply keeps_guestPass
    | with_reducible apply keeps_guestOp
    | with_reducible apply keeps_denyGuest
    | with_reducible apply keeps_reply
    | intro _
    | split
    | (refine KeepsO.get (by assumption) ?_))

theorem keeps_dropGuestSignal (s : State) (hm : Sub 524288 K) (h0 : Keeps K s) :
    Keeps K (dropGuestSignal s) := by
  unfold dropGuestSignal
  repeat' (first
    | with_reducible assumption
    | exact hm.le rfl
    | with_reducible apply keeps_putP
    | split)

theorem keeps_cuffSignal (tag : Nat) (slot : Nat) (inc : Nat) (s : State) (hm : Sub 540688 K) (h0 : Keeps K s) :
    Keeps K (cuffSignal tag slot inc s) := by
  unfold cuffSignal
  repeat' (first
    | with_reducible assumption
    | exact hm.le rfl
    | with_reducible apply keeps_dropGuestSignal
    | with_reducible apply keeps_guestOp
    | with_reducible apply keeps_denyGuest
    | with_reducible apply keeps_reply
    | with_reducible apply keeps_addCounter
    | intro _
    | split)

theorem keeps_cuffCread (tag : Nat) (slot : Nat) (s : State) (hm : Sub 16384 K) (h0 : Keeps K s) :
    Keeps K (cuffCread tag slot s) := by
  unfold cuffCread
  repeat' (first
    | with_reducible assumption
    | exact hm.le rfl
    | with_reducible apply keeps_guestOp
    | with_reducible apply keeps_denyGuest
    | with_reducible apply keeps_reply
    | intro _
    | split)

theorem keeps_cuffWatch (tag : Nat) (slot : Nat) (target : Nat) (s : State) (hm : Sub 16384 K) (h0 : Keeps K s) :
    Keeps K (cuffWatch tag slot target s) := by
  unfold cuffWatch
  repeat' (first
    | with_reducible assumption
    | exact fun _ h => h
    | exact hm.le rfl
    | with_reducible apply keeps_guestOp
    | with_reducible apply keeps_denyGuest
    | with_reducible apply keeps_reply
    | with_reducible apply keeps_notifyWatches
    | intro _
    | split
    | (unfold Keeps; dsimp only; with_reducible (refine K4.s14 (hm.bit rfl) (Keeps.fold ?_) ?_)))

theorem keeps_guestLinkDown (s : State) (hm : Sub 16384 K) (h0 : Keeps K s) :
    Keeps K (guestLinkDown s) := by
  unfold guestLinkDown
  repeat' (first
    | with_reducible assumption
    | exact fun _ h => ⟨h.1, rfl, h.2.2⟩
    | exact hm.le rfl
    | (unfold Keeps; dsimp only; with_reducible (refine K4.s14 (hm.bit rfl) (Keeps.fold ?_) ?_)))

theorem keeps_guestLinkUp (s : State) (hm : Sub 16384 K) (h0 : Keeps K s) :
    Keeps K (guestLinkUp s) := by
  unfold guestLinkUp
  repeat' (first
    | with_reducible assumption
    | exact fun hg h => by simp_all [Cuff.shut]
    | exact hm.le rfl
    | split
    | (unfold Keeps; dsimp only; with_reducible (refine K4.s14 (hm.bit rfl) (Keeps.fold ?_) ?_)))

theorem keeps_stopThermalCal (s : State) (hm : Sub 655360 K) (h0 : Keeps K s) :
    Keeps K (stopThermalCal s) := by
  unfold stopThermalCal
  repeat' (first
    | with_reducible assumption
    | exact hm.le rfl
    | with_reducible apply keeps_stopTest
    | split)

theorem keeps_leftL0 (old : State) (s : State) (hm : Sub 655360 K) (h0 : Keeps K old) (h1 : Keeps K s) :
    Keeps K (leftL0 old s) := by
  unfold leftL0
  dsimp only
  repeat' (first
    | with_reducible assumption
    | exact hm.le rfl
    | with_reducible apply keeps_stopThermalCal
    | split)

theorem keeps_judgeTrip (s : State) (old : Nat) (new : Nat) (hm : Sub 1708079 K) (h0 : Keeps K s) :
    Keeps K (judgeTrip s old new) := by
  unfold judgeTrip
  repeat' (first
    | with_reducible assumption
    | exact hm.le rfl
    | with_reducible apply keeps_enterTrip
    | with_reducible refine Keeps.foldl ?_ ?_
    | intro _
    | split)

theorem keeps_judgeStack (s : State) (k : Nat) (x : Int) (hm : Sub 32768 K) (h0 : Keeps K s) :
    Keeps K (judgeStack s k x) := by
  unfold judgeStack
  repeat' (first
    | with_reducible assumption
    | exact hm.le rfl
    | with_reducible apply keeps_recap
    | with_reducible apply keeps_emit
    | split
    | (unfold Keeps; dsimp only; with_reducible (apply K4.s15 (hm.bit rfl); apply Keeps.fold)))

theorem keeps_judgeEngine (s : State) (e : Nat) (x : Int) (hm : Sub 1081344 K) (h0 : Keeps K s) :
    Keeps K (judgeEngine s e x) := by
  unfold judgeEngine
  dsimp only
  repeat' (first
    | with_reducible assumption
    | exact hm.le rfl
    | with_reducible apply keeps_portRelease
    | with_reducible apply keeps_portLeave
    | with_reducible apply keeps_emit
    | with_reducible refine Keeps.foldl ?_ ?_
    | intro _
    | split)

theorem keeps_judgeInlet (s : State) (hm : Sub 8192 K) (h0 : Keeps K s) :
    Keeps K (judgeInlet s) := by
  unfold judgeInlet
  repeat' (first
    | with_reducible assumption
    | exact hm.le rfl
    | with_reducible apply keeps_emit
    | split
    | (unfold Keeps; dsimp only; with_reducible (apply K4.s13 (hm.bit rfl); apply Keeps.fold)))

theorem keeps_declareLoss (s : State) (hm : Sub 663552 K) (h0 : Keeps K s) :
    Keeps K (declareLoss s) := by
  unfold declareLoss
  repeat' (first
    | with_reducible assumption
    | exact hm.le rfl
    | with_reducible apply keeps_stopThermalCal
    | with_reducible apply keeps_thermalTrigger
    | with_reducible apply keeps_emit
    | (unfold Keeps; dsimp only; with_reducible (apply K4.s13 (hm.bit rfl); apply Keeps.fold)))

theorem keeps_judgeCoolant (s : State) (hm : Sub 665600 K) (h0 : Keeps K s) :
    Keeps K (judgeCoolant s) := by
  unfold judgeCoolant
  extract_lets now dp low fell rose flat ok okSince long src s1
  have h1 : Keeps K s1 := by
    unfold Keeps; dsimp only [s1]; with_reducible (apply K4.s13 (hm.bit rfl); apply Keeps.fold); assumption
  clear_value s1
  repeat' (first
    | with_reducible assumption
    | exact hm.le rfl
    | with_reducible apply keeps_declareLoss
    | with_reducible apply keeps_blowDue
    | with_reducible apply keeps_emit
    | split
    | (unfold Keeps; dsimp only; with_reducible (apply K4.s13 (hm.bit rfl); apply Keeps.fold)))

theorem keeps_takeReading (s : State) (t : Nat) (r : TowerReading) (hm : Sub 8192 K) (h0 : Keeps K s) :
    Keeps K (takeReading s t r) := by
  unfold takeReading
  repeat' (first
    | with_reducible assumption
    | exact hm.le rfl
    | with_reducible apply keeps_putTower)

theorem keeps_takeExcess (s : State) (t : Nat) (hm : Sub 8192 K) (h0 : Keeps K s) :
    Keeps K (takeExcess s t) := by
  unfold takeExcess
  repeat' (first
    | with_reducible assumption
    | exact hm.le rfl
    | with_reducible apply keeps_putTower)

theorem keeps_takeInputs (s : State) (ia : TowerInput) (ib : TowerInput) (p : PkgReading) (hm : Sub 8192 K) (h0 : Keeps K s) :
    Keeps K (takeInputs s ia ib p) := by
  unfold takeInputs
  dsimp only
  repeat' (first
    | with_reducible assumption
    | exact hm.le rfl
    | with_reducible apply keeps_takeExcess
    | with_reducible apply keeps_takeReading
    | (unfold Keeps; dsimp only; with_reducible (apply K4.s13 (hm.bit rfl); apply Keeps.fold)))

theorem keeps_addSample (s : State) (hm : Sub 8192 K) (h0 : Keeps K s) :
    Keeps K (addSample s) := by
  unfold addSample
  repeat' (first
    | with_reducible assumption
    | exact hm.le rfl
    | (unfold Keeps; dsimp only; with_reducible (apply K4.s13 (hm.bit rfl); apply Keeps.fold)))

theorem keeps_judgeReadings (s : State) (a : TowerReading) (b : TowerReading) (hm : Sub 1746944 K) (h0 : Keeps K s) :
    Keeps K (judgeReadings s a b) := by
  unfold judgeReadings
  repeat' (first
    | with_reducible assumption
    | exact hm.le rfl
    | with_reducible apply keeps_judgeCoolant
    | with_reducible apply keeps_judgeInlet
    | with_reducible apply keeps_judgeEngine
    | with_reducible apply keeps_judgeStack
    | with_reducible refine Keeps.foldl ?_ ?_
    | intro _)

theorem keeps_thermalModelUpdate (ia : TowerInput) (ib : TowerInput) (p : PkgReading) (s : State) (hm : Sub 1751087 K) (h0 : Keeps K s) :
    Keeps K (thermalModelUpdate ia ib p s) := by
  unfold thermalModelUpdate
  repeat' (first
    | with_reducible assumption
    | exact hm.le rfl
    | with_reducible apply keeps_judgeReadings
    | with_reducible apply keeps_addSample
    | with_reducible apply keeps_takeInputs
    | with_reducible apply keeps_judgeTrip
    | with_reducible apply keeps_endNet
    | split)

theorem keeps_thermalLimiterTick (tower : Nat) (s : State) (hm : Sub 663552 K) (h0 : Keeps K s) :
    Keeps K (thermalLimiterTick tower s) := by
  unfold thermalLimiterTick
  repeat' (first
    | with_reducible assumption
    | exact hm.le rfl
    | with_reducible apply keeps_leftL0
    | with_reducible apply keeps_emit
    | with_reducible apply keeps_putTower
    | split)

theorem keeps_judgeTheta (s : State) (t : Nat) (theta : Frac × Frac) (hm : Sub 663552 K) (h0 : Keeps K s) :
    Keeps K (judgeTheta s t theta) := by
  unfold judgeTheta
  extract_lets b atLeast x ratio rl rf y up s1
  have hup (u : State) (n l : Nat) (hu : Keeps K u) : Keeps K (up u n l) := by
    unfold up
    split
    · exact keeps_stopThermalCal _ (hm.le rfl) (keeps_emit _ _ _ _ _ (keeps_putTower _ _ _ (hm.le rfl) hu))
    · exact hu
  have h1 : Keeps K s1 := hup _ _ _ (hup _ _ _ (keeps_putTower _ _ _ (hm.le rfl) h0))
  split
  · exact keeps_emit _ _ _ _ _ (keeps_putTower _ _ _ (hm.le rfl) h1)
  · exact h1

theorem keeps_judgeUnreach (s : State) (t : Nat) (k : Nat) (bad : Bool) (hm : Sub 8192 K) (h0 : Keeps K s) :
    Keeps K (judgeUnreach s t k bad) := by
  unfold judgeUnreach
  dsimp only
  repeat' (first
    | with_reducible assumption
    | exact hm.le rfl
    | with_reducible apply keeps_emit
    | with_reducible apply keeps_putTower
    | split)

theorem keeps_thermalCapCompute (tower : Nat) (s : State) (hm : Sub 663552 K) (h0 : Keeps K s) :
    Keeps K (thermalCapCompute tower s) := by
  unfold thermalCapCompute
  repeat' (first
    | with_reducible assumption
    | exact hm.le rfl
    | with_reducible apply keeps_judgeUnreach
    | with_reducible apply keeps_judgeTheta
    | with_reducible apply keeps_putTower
    | split)

theorem keeps_hostLimiterTick (s : State) (hm : Sub 663552 K) (h0 : Keeps K s) :
    Keeps K (hostLimiterTick s) := by
  unfold hostLimiterTick
  repeat' (first
    | with_reducible assumption
    | exact hm.le rfl
    | with_reducible apply keeps_leftL0
    | split
    | (unfold Keeps; dsimp only; with_reducible (apply K4.s13 (hm.bit rfl); apply Keeps.fold)))

theorem keeps_almanacForecast (tower : Nat) (hotLogic : Int) (hotF : Int) (idle : Nat) (s : State) (hm : Sub 663552 K) (h0 : Keeps K s) :
    Keeps K (almanacForecast tower hotLogic hotF idle s) := by
  unfold almanacForecast
  repeat' (first
    | with_reducible assumption
    | exact hm.le rfl
    | with_reducible apply keeps_leftL0
    | with_reducible apply keeps_putTower
    | split)

theorem keeps_adjustNode (t : Nat) (s : State) (e : Nat × Int) (hm : Sub 8192 K) (h0 : Keeps K s) :
    Keeps K (adjustNode t s e) := by
  unfold adjustNode
  dsimp only
  repeat' (first
    | with_reducible assumption
    | exact hm.le rfl
    | with_reducible apply keeps_emit
    | with_reducible apply keeps_putTower
    | split)

theorem keeps_offsetAdjust (tower : Nat) (s : State) (hm : Sub 8192 K) (h0 : Keeps K s) :
    Keeps K (offsetAdjust tower s) := by
  unfold offsetAdjust
  repeat' (first
    | with_reducible assumption
    | exact hm.le rfl
    | with_reducible apply keeps_adjustNode
    | with_reducible refine Keeps.foldl ?_ ?_
    | intro _
    | split)

theorem keeps_checkTower (s : State) (t : Nat) (disagree : List Nat) (agree : List Nat) (hm : Sub 663552 K) (h0 : Keeps K s) :
    Keeps K (checkTower s t disagree agree) := by
  unfold checkTower
  dsimp only
  repeat' (first
    | with_reducible assumption
    | exact hm.le rfl
    | with_reducible apply keeps_stopThermalCal
    | with_reducible apply keeps_emit
    | with_reducible apply keeps_putTower
    | with_reducible refine Keeps.foldl ?_ ?_
    | intro _
    | split)

theorem keeps_sensorCheck (disagree : List Nat) (agree : List Nat) (s : State) (hm : Sub 663552 K) (h0 : Keeps K s) :
    Keeps K (sensorCheck disagree agree s) := by
  unfold sensorCheck
  repeat' (first
    | with_reducible assumption
    | exact hm.le rfl
    | with_reducible apply keeps_checkTower
    | split)

theorem keeps_imonTower (s : State) (t : Nat) (mv : Nat) (hm : Sub 1716271 K) (h0 : Keeps K s) :
    Keeps K (imonTower s t mv) := by
  unfold imonTower
  dsimp only
  repeat' (first
    | with_reducible assumption
    | exact hm.le rfl
    | with_reducible apply keeps_enterTrip
    | with_reducible apply keeps_putTower
    | split)

theorem keeps_imonSample (mvA : Nat) (mvB : Nat) (s : State) (hm : Sub 1716271 K) (h0 : Keeps K s) :
    Keeps K (imonSample mvA mvB s) := by
  unfold imonSample
  repeat' (first
    | with_reducible assumption
    | exact hm.le rfl
    | with_reducible apply keeps_imonTower
    | split)

theorem keeps_coolantTimeout (s : State) (hm : Sub 1708079 K) (h0 : Keeps K s) :
    Keeps K (coolantTimeout s) := by
  unfold coolantTimeout
  repeat' (first
    | with_reducible assumption
    | exact hm.le rfl
    | with_reducible apply keeps_enterTrip
    | split)

theorem keeps_telemetryRefresh (rateA : Nat) (rateB : Nat) (s : State) (hm : Sub 8192 K) (h0 : Keeps K s) :
    Keeps K (telemetryRefresh rateA rateB s) := by
  unfold telemetryRefresh
  repeat' (first
    | with_reducible assumption
    | exact hm.le rfl
    | split
    | (unfold Keeps; dsimp only; with_reducible (apply K4.s13 (hm.bit rfl); apply Keeps.fold)))

theorem keeps_energyRefresh (energies : List (Nat × Nat × Nat)) (s : State) (hm : Sub 524288 K) (h0 : Keeps K s) :
    Keeps K (energyRefresh energies s) := by
  unfold energyRefresh
  repeat' (first
    | with_reducible assumption
    | exact hm.le rfl
    | with_reducible apply keeps_putP
    | with_reducible refine Keeps.foldl ?_ ?_
    | intro _
    | split)

theorem keeps_ptmDialogue (ok : Bool) (hostTime : Nat) (s : State) (hm : Sub 1024 K) (h0 : Keeps K s) :
    Keeps K (ptmDialogue ok hostTime s) := by
  unfold ptmDialogue
  repeat' (first
    | with_reducible assumption
    | exact hm.le rfl
    | split
    | (unfold Keeps; dsimp only; with_reducible (apply K4.s10 (hm.bit rfl); apply Keeps.fold)))

theorem keeps_tdiLeaveRun (vf : Nat) (s : State) (hm : Sub 1589823 K) (h0 : Keeps K s) :
    Keeps K (tdiLeaveRun vf s) := by
  unfold tdiLeaveRun
  repeat' (first
    | with_reducible assumption
    | exact hm.le rfl
    | with_reducible apply keeps_setTdi
    | split)

theorem keeps_answer (s : State) (path : Nat) (code : Nat) (bytes : List Byte) (h0 : Keeps K s) :
    Keeps K (answer s path code bytes) :=
  h0

theorem keeps_putSpdm (s : State) (path : Nat) (x : Spdm) (h0 : Keeps K s) :
    Keeps K (putSpdm s path x) :=
  h0

theorem keeps_spdmAt (s : State) (path : Nat) (stage : Nat) (session : Nat) (k : Spdm → State) (h0 : Keeps K s) (hk : ∀ x, Keeps K (k x)) :
    Keeps K (spdmAt s path stage session k) := by
  unfold spdmAt
  dsimp only
  repeat' (first
    | with_reducible assumption
    | with_reducible apply keeps_answer
    | apply hk
    | split)

theorem keeps_getVersion (path : Nat) (s : State) (h0 : Keeps K s) :
    Keeps K (getVersion path s) := by
  unfold getVersion
  repeat' (first
    | with_reducible assumption
    | with_reducible apply keeps_spdmAt
    | with_reducible apply keeps_putSpdm
    | with_reducible apply keeps_answer
    | intro _)

theorem keeps_getCapabilities (path : Nat) (_caps : List Byte) (s : State) (h0 : Keeps K s) :
    Keeps K (getCapabilities path _caps s) := by
  unfold getCapabilities
  repeat' (first
    | with_reducible assumption
    | with_reducible apply keeps_spdmAt
    | with_reducible apply keeps_putSpdm
    | with_reducible apply keeps_answer
    | intro _)

theorem keeps_negotiateAlgorithms (path : Nat) (ecdsa384 : Bool) (sha384 : Bool) (secp384 : Bool) (aes256 : Bool) (s : State) (h0 : Keeps K s) :
    Keeps K (negotiateAlgorithms path ecdsa384 sha384 secp384 aes256 s) := by
  unfold negotiateAlgorithms
  repeat' (first
    | with_reducible assumption
    | with_reducible apply keeps_spdmAt
    | with_reducible apply keeps_putSpdm
    | with_reducible apply keeps_answer
    | intro _
    | split)

theorem keeps_getDigests (path : Nat) (s : State) (h0 : Keeps K s) :
    Keeps K (getDigests path s) := by
  unfold getDigests
  repeat' (first
    | with_reducible assumption
    | with_reducible apply keeps_spdmAt
    | with_reducible apply keeps_answer
    | intro _)

theorem keeps_getCertificate (path : Nat) (slot : Nat) (offset : Nat) (len : Nat) (s : State) (h0 : Keeps K s) :
    Keeps K (getCertificate path slot offset len s) := by
  unfold getCertificate
  repeat' (first
    | with_reducible assumption
    | with_reducible apply keeps_spdmAt
    | with_reducible apply keeps_answer
    | intro _
    | split)

theorem keeps_challenge (path : Nat) (slot : Nat) (nonce : List Byte) (s : State) (h0 : Keeps K s) :
    Keeps K (challenge path slot nonce s) := by
  unfold challenge
  repeat' (first
    | with_reducible assumption
    | with_reducible apply keeps_spdmAt
    | with_reducible apply keeps_answer
    | intro _
    | split
    | (unfold Keeps; dsimp only; with_reducible (apply Keeps.fold)))

theorem keeps_getMeasurements (path : Nat) (index : Nat) (sign : Bool) (nonce : List Byte) (s : State) (h0 : Keeps K s) :
    Keeps K (getMeasurements path index sign nonce s) := by
  unfold getMeasurements
  dsimp only
  repeat' (first
    | with_reducible assumption
    | with_reducible apply keeps_spdmAt
    | with_reducible apply keeps_answer
    | intro _
    | split)

theorem keeps_keyExchange (path : Nat) (exchange : List Byte) (s : State) (h0 : Keeps K s) :
    Keeps K (keyExchange path exchange s) := by
  unfold keyExchange
  repeat' (first
    | with_reducible assumption
    | with_reducible apply keeps_spdmAt
    | with_reducible apply keeps_putSpdm
    | with_reducible apply keeps_answer
    | intro _
    | split
    | (unfold Keeps; dsimp only; with_reducible (apply Keeps.fold)))

theorem keeps_finish (path : Nat) (sig : List Byte) (mac : List Byte) (s : State) (h0 : Keeps K s) :
    Keeps K (finish path sig mac s) := by
  unfold finish
  repeat' (first
    | with_reducible assumption
    | with_reducible apply keeps_spdmAt
    | with_reducible apply keeps_putSpdm
    | with_reducible apply keeps_answer
    | intro _
    | split)

theorem keeps_keyUpdate (path : Nat) (s : State) (h0 : Keeps K s) :
    Keeps K (keyUpdate path s) := by
  unfold keyUpdate
  repeat' (first
    | with_reducible assumption
    | with_reducible apply keeps_spdmAt
    | with_reducible apply keeps_putSpdm
    | with_reducible apply keeps_answer
    | intro _)

theorem keeps_heartbeat (path : Nat) (s : State) (h0 : Keeps K s) :
    Keeps K (heartbeat path s) := by
  unfold heartbeat
  repeat' (first
    | with_reducible assumption
    | with_reducible apply keeps_spdmAt
    | with_reducible apply keeps_answer
    | intro _)

theorem keeps_endSession (path : Nat) (s : State) (hm : Sub 1589823 K) (h0 : Keeps K s) :
    Keeps K (endSession path s) := by
  unfold endSession
  repeat' (first
    | with_reducible assumption
    | exact hm.le rfl
    | with_reducible apply keeps_spdmAt
    | with_reducible apply keeps_putSpdm
    | with_reducible apply keeps_answer
    | with_reducible apply keeps_dropStreams
    | intro _)

theorem keeps_ideKm (s : State) (path : Nat) (arg : Nat) (hm : Sub 1589823 K) (h0 : Keeps K s) :
    Keeps K (ideKm s path arg) := by
  unfold ideKm
  dsimp only
  repeat' (first
    | with_reducible assumption
    | exact hm.le rfl
    | with_reducible apply keeps_answer
    | with_reducible apply keeps_setStream
    | split)

theorem keeps_tdisp (s : State) (path : Nat) (arg : Nat) (hm : Sub 1589823 K) (h0 : Keeps K s) :
    Keeps K (tdisp s path arg) := by
  unfold tdisp
  dsimp only
  repeat' (first
    | with_reducible assumption
    | exact hm.le rfl
    | with_reducible apply keeps_answer
    | with_reducible apply keeps_setTdi
    | split)

theorem keeps_vendorDefinedRequest (path : Nat) (proto : Nat) (arg : Nat) (s : State) (hm : Sub 1589823 K) (h0 : Keeps K s) :
    Keeps K (vendorDefinedRequest path proto arg s) := by
  unfold vendorDefinedRequest
  repeat' (first
    | with_reducible assumption
    | exact hm.le rfl
    | with_reducible apply keeps_tdisp
    | with_reducible apply keeps_ideKm
    | with_reducible apply keeps_spdmAt
    | with_reducible apply keeps_answer
    | intro _
    | split)

theorem keeps_sideband (s : State) (bytes : List Byte) (h0 : Keeps K s) :
    Keeps K (sideband s bytes) := by
  unfold sideband
  repeat' (first
    | with_reducible assumption
    | with_reducible apply keeps_answer
    | split)

theorem keeps_getIdentity (s : State) (h0 : Keeps K s) :
    Keeps K (getIdentity s) := by
  unfold getIdentity
  repeat' (first
    | with_reducible assumption
    | with_reducible apply keeps_sideband)

theorem keeps_getState (s : State) (h0 : Keeps K s) :
    Keeps K (getState s) := by
  unfold getState
  repeat' (first
    | with_reducible assumption
    | with_reducible apply keeps_sideband)

theorem keeps_getTelemetry (s : State) (h0 : Keeps K s) :
    Keeps K (getTelemetry s) := by
  unfold getTelemetry
  repeat' (first
    | with_reducible assumption
    | with_reducible apply keeps_sideband)

theorem keeps_getLog (fromSeq : Nat) (s : State) (h0 : Keeps K s) :
    Keeps K (getLog fromSeq s) := by
  unfold getLog
  repeat' (first
    | with_reducible assumption
    | with_reducible apply keeps_sideband)

theorem keeps_getLifetime (s : State) (h0 : Keeps K s) :
    Keeps K (getLifetime s) := by
  unfold getLifetime
  repeat' (first
    | with_reducible assumption
    | with_reducible apply keeps_sideband)

theorem keeps_freshCore (s : State) (core : Nat) (h0 : Keeps K s) :
    Keeps K (freshCore s core) := by
  unfold freshCore
  repeat' (first
    | with_reducible assumption
    | with_reducible apply keeps_putCore
    | (unfold Keeps; dsimp only; with_reducible (apply Keeps.fold)))

theorem keeps_nextSite (s : State) (u : Subst) (hm : Sub 65544 K) (h0 : Keeps K s) :
    Keeps K (nextSite s u) := by
  unfold nextSite
  repeat' (first
    | with_reducible assumption
    | exact hm.le rfl
    | with_reducible apply keeps_makeHole
    | split
    | (unfold Keeps; dsimp only; with_reducible (apply Keeps.fold)))

theorem keeps_sliceCopyDone (core : Nat) (unreadable : List Nat) (spareOk : Bool) (seasonOk : Bool) (s : State) (hm : Sub 3768367 K) (h0 : Keeps K s) :
    Keeps K (sliceCopyDone core unreadable spareOk seasonOk s) := by
  unfold sliceCopyDone
  repeat' (first
    | with_reducible assumption
    | exact hm.le rfl
    | with_reducible apply keeps_nextSite
    | with_reducible apply keeps_freshCore
    | with_reducible apply keeps_serveFreed
    | with_reducible apply keeps_fenceSite
    | with_reducible apply keeps_makeHole
    | with_reducible apply keeps_bindCore
    | with_reducible apply keeps_pwritePoison
    | with_reducible apply keeps_emit
    | with_reducible refine Keeps.foldl ?_ ?_
    | intro _
    | split
    | (unfold Keeps; dsimp only; with_reducible (apply Keeps.fold)))

theorem keeps_staleSpeaker (site : Nat) (season : Nat) (s : State) (h0 : Keeps K s) :
    Keeps K (staleSpeaker site season s) := by
  unfold staleSpeaker
  repeat' (first
    | with_reducible assumption
    | with_reducible apply keeps_emit
    | with_reducible apply keeps_putSite
    | split
    | (unfold Keeps; dsimp only; with_reducible (apply Keeps.fold)))

theorem keeps_spareTest (site : Nat) (pass : Bool) (s : State) (h0 : Keeps K s) :
    Keeps K (spareTest site pass s) := by
  unfold spareTest
  dsimp only
  repeat' (first
    | with_reducible assumption
    | with_reducible apply keeps_emit
    | with_reducible apply keeps_putSite
    | split)

theorem keeps_mittenWatchdog (s : State) (hm : Sub 2048 K) (h0 : Keeps K s) :
    Keeps K (mittenWatchdog s) := by
  unfold mittenWatchdog
  repeat' (first
    | with_reducible assumption
    | exact hm.le rfl
    | with_reducible apply keeps_emit
    | with_reducible apply keeps_putFw
    | split
    | (unfold Keeps; dsimp only; with_reducible (apply Keeps.fold)))

theorem keeps_gauntletWatchdog (s : State) (h0 : Keeps K s) :
    Keeps K (gauntletWatchdog s) := by
  unfold gauntletWatchdog
  repeat' (first
    | with_reducible assumption
    | with_reducible apply keeps_emit
    | split
    | (unfold Keeps; dsimp only; with_reducible (apply Keeps.fold)))

theorem keeps_mittenRead (s : State) (t : Target) (off : Nat) (n : Nat) (h0 : Keeps K s) :
    KeepsO2 K (mittenRead s t off n) := by
  unfold mittenRead
  repeat' (first
    | with_reducible assumption
    | with_reducible apply keeps_recBytes
    | with_reducible apply keeps_takeBytes
    | with_reducible apply KeepsO2.some
    | with_reducible apply KeepsO2.none
    | with_reducible apply KeepsO2.none
    | with_reducible apply KeepsO2.some
    | with_reducible refine KeepsO2.mapA ?_
    | intro _
    | split)

theorem keeps_mittenWrite (s : State) (t : Target) (off : Nat) (b : List Byte) (hm : Sub 2097152 K) (h0 : Keeps K s) :
    Keeps K (mittenWrite s t off b) := by
  unfold mittenWrite
  repeat' (first
    | with_reducible assumption
    | exact hm.le rfl
    | with_reducible apply keeps_editShadow
    | with_reducible apply keeps_emit
    | split)

theorem keeps_islandAccess (s : State) (r : MemReq) (t : Target) (hm : Sub 2097152 K) (h0 : Keeps K s) :
    Keeps K (islandAccess s r t) := by
  unfold islandAccess
  repeat' (first
    | with_reducible assumption
    | exact hm.le rfl
    | with_reducible apply keeps_mittenWrite
    | with_reducible apply keeps_mittenRead
    | with_reducible apply keeps_answer
    | with_reducible apply keeps_emit
    | split
    | (refine KeepsO2.get' (by assumption) ?_))

theorem keeps_memoryAccess (r : MemReq) (s : State) (hm : Sub 4030511 K) (h0 : Keeps K s) :
    Keeps K (memoryAccess r s) := by
  unfold memoryAccess
  repeat' (first
    | with_reducible assumption
    | exact hm.le rfl
    | with_reducible apply keeps_islandAccess
    | with_reducible apply keeps_memAccess
    | split)

theorem keeps_loadData (s : State) (i : Nat) (k : Nat) (hm : Sub 64 K) (h0 : Keeps K s) :
    Keeps K (loadData s i k) := by
  unfold loadData
  repeat' (first
    | with_reducible assumption
    | exact hm.le rfl
    | split
    | (unfold Keeps; dsimp only; with_reducible (apply K4.s6 (hm.bit rfl); apply Keeps.fold)))

theorem keeps_loadRecord (bad : List (Nat × Nat)) (s : State) (i : Nat) (hm : Sub 2097216 K) (h0 : Keeps K s) :
    Keeps K (loadRecord bad s i) := by
  unfold loadRecord
  dsimp only
  repeat' (first
    | with_reducible assumption
    | exact hm.le rfl
    | with_reducible apply keeps_loadData
    | with_reducible apply keeps_emit
    | with_reducible apply keeps_putRec
    | split)

theorem keeps_applyMap (s : State) (hm : Sub 1310720 K) (h0 : Keeps K s) :
    Keeps K (applyMap s) := by
  unfold applyMap
  repeat' (first
    | with_reducible assumption
    | exact hm.le rfl
    | (unfold Keeps; dsimp only; with_reducible (apply K4.s18 (hm.bit rfl); apply K4.s20 (hm.bit rfl); apply Keeps.fold)))

theorem keeps_verifyType (bad : List (Nat × Nat)) (s : State) (ty : Nat) (hm : Sub 2048 K) (h0 : Keeps K s) :
    Keeps K (verifyType bad s ty).1 := by
  unfold verifyType
  dsimp only
  repeat' (first
    | with_reducible assumption
    | exact hm.le rfl
    | with_reducible apply keeps_emit
    | with_reducible apply keeps_putFw
    | split)

theorem keeps_afterReset (s : State) (hm : Sub 2095039 K) (h0 : Keeps K s) : Keeps K (afterReset s) := by
  unfold Keeps afterReset
  dsimp only
  refine K4.s0 (x0 := s.mem.bytes) (hm.bit rfl) (fun _ => rfl) ?_
  with_reducible (apply K4.s1 (hm.bit rfl); apply K4.s2 (hm.bit rfl); apply K4.s3 (hm.bit rfl); apply K4.s4 (hm.bit rfl); apply K4.s5 (hm.bit rfl); apply K4.s7 (hm.bit rfl); apply K4.s8 (hm.bit rfl); apply K4.s9 (hm.bit rfl); apply K4.s10 (hm.bit rfl); apply K4.s12 (hm.bit rfl); apply K4.s13 (hm.bit rfl))
  apply K4.s14 (hm.bit rfl) (hs := fun _ _ => ⟨rfl, rfl, rfl⟩)
  with_reducible (apply K4.s15 (hm.bit rfl); apply K4.s16 (hm.bit rfl); apply K4.s17 (hm.bit rfl); apply K4.s18 (hm.bit rfl); apply K4.s19 (hm.bit rfl); apply K4.s20 (hm.bit rfl); apply Keeps.fold)
  exact h0

theorem keeps_startMgmt (s : State) (h0 : Keeps K s) :
    Keeps K (startMgmt s) := by
  unfold startMgmt
  repeat' (first
    | with_reducible assumption
    | with_reducible apply keeps_startPhase
    | with_reducible apply keeps_emit
    | (unfold Keeps; dsimp only; with_reducible (apply Keeps.fold)))

theorem keeps_packageReset (s0 : State) (cause : Nat) (hm : Sub 4192191 K) (h0 : Keeps K s0) :
    Keeps K (packageReset s0 cause) := by
  unfold packageReset
  repeat' (first
    | with_reducible assumption
    | exact hm.le rfl
    | with_reducible apply keeps_startMgmt
    | with_reducible apply keeps_afterReset
    | with_reducible apply keeps_writeLife
    | with_reducible apply keeps_appendHeld
    | split
    | (unfold Keeps; dsimp only; with_reducible (apply K4.s10 (hm.bit rfl); apply K4.s12 (hm.bit rfl); apply K4.s13 (hm.bit rfl); apply K4.s20 (hm.bit rfl); apply Keeps.fold)))

theorem keeps_holdPackage (s : State) (input : Nat) (cause : Nat) (hm : Sub 4192191 K) (h0 : Keeps K s) :
    Keeps K (holdPackage s input cause) := by
  unfold holdPackage
  repeat' (first
    | with_reducible assumption
    | exact hm.le rfl
    | with_reducible apply keeps_packageReset
    | with_reducible apply keeps_holdInput
    | split)

theorem keeps_pkgRstInput (s : State) (hm : Sub 4192191 K) (h0 : Keeps K s) :
    Keeps K (pkgRstInput s) := by
  unfold pkgRstInput
  repeat' (first
    | with_reducible assumption
    | exact hm.le rfl
    | with_reducible apply keeps_holdPackage)

theorem keeps_perst (s : State) (hm : Sub 4192191 K) (h0 : Keeps K s) :
    Keeps K (perst s) := by
  unfold perst
  repeat' (first
    | with_reducible assumption
    | exact hm.le rfl
    | with_reducible apply keeps_holdPackage)

theorem keeps_releaseInput (s : State) (i : Nat) (hm : Sub 4096 K) (h0 : Keeps K s) :
    Keeps K (releaseInput s i) := by
  unfold releaseInput
  repeat' (first
    | with_reducible assumption
    | exact hm.le rfl
    | with_reducible apply keeps_startMgmt
    | split
    | (unfold Keeps; dsimp only; with_reducible (apply K4.s12 (hm.bit rfl); apply Keeps.fold)))

theorem keeps_resetInputRelease (input : Nat) (s : State) (hm : Sub 4096 K) (h0 : Keeps K s) :
    Keeps K (resetInputRelease input s) := by
  unfold resetInputRelease
  repeat' (first
    | with_reducible assumption
    | exact hm.le rfl
    | with_reducible apply keeps_releaseInput
    | split)

theorem keeps_reset (d : Nat) (s : State) (hm : Sub 4192191 K) (h0 : Keeps K s) :
    Keeps K (reset d s) := by
  unfold reset
  repeat' (first
    | with_reducible assumption
    | exact hm.le rfl
    | with_reducible apply keeps_packageReset
    | with_reducible apply keeps_startDieReset
    | with_reducible apply keeps_refuseIf
    | with_reducible apply keeps_withOp
    | with_reducible apply keeps_putF
    | intro _
    | split
    | (unfold Keeps; dsimp only; with_reducible (apply K4.s18 (hm.bit rfl); apply Keeps.fold)))

theorem keeps_vaonApplied (s : State) (hm : Sub 4192191 K) (h0 : Keeps K s) :
    Keeps K (vaonApplied s) := by
  unfold vaonApplied
  repeat' (first
    | with_reducible assumption
    | exact hm.le rfl
    | with_reducible apply keeps_startMgmt
    | with_reducible apply keeps_afterReset
    | with_reducible apply keeps_writeLife
    | split
    | (unfold Keeps; dsimp only; with_reducible (apply Keeps.fold)))

theorem keeps_vaonLost (s : State) (hm : Sub 2095039 K) (h0 : Keeps K s) :
    Keeps K (vaonLost s) := by
  unfold vaonLost
  repeat' (first
    | with_reducible assumption
    | exact hm.le rfl
    | with_reducible apply keeps_afterReset
    | (unfold Keeps; dsimp only; with_reducible (apply K4.s12 (hm.bit rfl); apply Keeps.fold)))

theorem keeps_enable (s : State) (l : List Nat) (hm : Sub 4096 K) (h0 : Keeps K s) :
    Keeps K (enable s l) := by
  unfold enable
  repeat' (first
    | with_reducible assumption
    | exact hm.le rfl
    | (unfold Keeps; dsimp only; with_reducible (apply K4.s12 (hm.bit rfl); apply Keeps.fold)))

theorem keeps_startNet (s : State) (hm : Sub 12288 K) (h0 : Keeps K s) :
    Keeps K (startNet s) := by
  unfold startNet
  repeat' (first
    | with_reducible assumption
    | exact hm.le rfl
    | with_reducible apply keeps_enable
    | with_reducible apply keeps_startPhase
    | split
    | (unfold Keeps; dsimp only; with_reducible (apply K4.s12 (hm.bit rfl); apply K4.s13 (hm.bit rfl); apply Keeps.fold)))

theorem keeps_powerGoodReturn (group : Nat) (s : State) (hm : Sub 1060864 K) (h0 : Keeps K s) :
    Keeps K (powerGoodReturn group s) := by
  unfold powerGoodReturn
  repeat' (first
    | with_reducible assumption
    | exact hm.le rfl
    | with_reducible apply keeps_startNet
    | with_reducible apply keeps_releaseInput
    | with_reducible apply keeps_portsBack
    | split
    | (unfold Keeps; dsimp only; with_reducible (apply K4.s12 (hm.bit rfl); apply Keeps.fold)))

theorem keeps_powerGoodTimeout (group : Nat) (s : State) (hm : Sub 1871919 K) (h0 : Keeps K s) :
    Keeps K (powerGoodTimeout group s) := by
  unfold powerGoodTimeout
  repeat' (first
    | with_reducible assumption
    | exact hm.le rfl
    | with_reducible apply keeps_dieLost
    | split
    | (unfold Keeps; dsimp only; with_reducible (apply K4.s12 (hm.bit rfl); apply Keeps.fold)))

theorem keeps_enableRetry (s : State) (hm : Sub 4096 K) (h0 : Keeps K s) :
    Keeps K (enableRetry s) := by
  unfold enableRetry
  repeat' (first
    | with_reducible assumption
    | exact hm.le rfl
    | with_reducible apply keeps_enable
    | split
    | (unfold Keeps; dsimp only; with_reducible (apply K4.s12 (hm.bit rfl); apply Keeps.fold)))

theorem keeps_powerGoodLost (group : Nat) (s : State) (hm : Sub 4192191 K) (h0 : Keeps K s) :
    Keeps K (powerGoodLost group s) := by
  unfold powerGoodLost
  repeat' (first
    | with_reducible assumption
    | exact hm.le rfl
    | with_reducible apply keeps_holdPackage
    | with_reducible apply keeps_holdInput
    | with_reducible apply keeps_startDieReset
    | with_reducible apply keeps_portsDown
    | split
    | (unfold Keeps; dsimp only; with_reducible (apply K4.s12 (hm.bit rfl); apply Keeps.fold)))

theorem keeps_mgmtWork (badImages : List (Nat × Nat)) (badCopies : List (Nat × Nat)) (s : State) (hm : Sub 3438656 K) (h0 : Keeps K s) :
    Keeps K (mgmtWork badImages badCopies s) := by
  unfold mgmtWork
  repeat' (first
    | with_reducible assumption
    | exact hm.le rfl
    | with_reducible apply keeps_startNet
    | with_reducible apply keeps_enable
    | with_reducible apply keeps_verifyType
    | with_reducible apply keeps_applyMap
    | with_reducible apply keeps_loadRecord
    | with_reducible apply keeps_loadCuff
    | with_reducible apply keeps_emit
    | with_reducible refine Keeps.foldl ?_ ?_
    | with_reducible refine Keeps.foldl1 ?_ ?_
    | intro _
    | split
    | (unfold Keeps; dsimp only; with_reducible (apply Keeps.fold)))

theorem keeps_bootMgmtDone (badImages : List (Nat × Nat)) (badCopies : List (Nat × Nat)) (s : State) (hm : Sub 3438656 K) (h0 : Keeps K s) :
    Keeps K (bootMgmtDone badImages badCopies s) := by
  unfold bootMgmtDone
  repeat' (first
    | with_reducible assumption
    | exact hm.le rfl
    | with_reducible apply keeps_mgmtWork
    | split)

theorem keeps_netWork (answers : List (Nat × DieAnswer)) (s : State) (hm : Sub 1880111 K) (h0 : Keeps K s) :
    Keeps K (netWork answers s) := by
  unfold netWork
  repeat' (first
    | with_reducible assumption
    | exact hm.le rfl
    | with_reducible apply keeps_dieLost
    | with_reducible apply keeps_portsDown
    | with_reducible apply keeps_endNet
    | with_reducible refine Keeps.foldl ?_ ?_
    | intro _
    | split
    | (unfold Keeps; dsimp only; with_reducible (apply K4.s18 (hm.bit rfl); apply Keeps.fold)))

theorem keeps_bootNetDone (answers : List (Nat × DieAnswer)) (s : State) (hm : Sub 1880111 K) (h0 : Keeps K s) :
    Keeps K (bootNetDone answers s) := by
  unfold bootNetDone
  repeat' (first
    | with_reducible assumption
    | exact hm.le rfl
    | with_reducible apply keeps_netWork
    | split)

theorem keeps_outOfService (s : State) (t : Nat) (ch : Nat) (hm : Sub 1867823 K) (h0 : Keeps K s) :
    Keeps K (outOfService s t ch) := by
  unfold outOfService
  repeat' (first
    | with_reducible assumption
    | exact hm.le rfl
    | with_reducible apply keeps_dieLost
    | split
    | (unfold Keeps; dsimp only; with_reducible (apply Keeps.fold)))

theorem keeps_badRow (s : State) (bank : Nat) (row : Nat) (hm : Sub 1933359 K) (h0 : Keeps K s) :
    Keeps K (badRow s bank row) := by
  unfold badRow
  dsimp only
  repeat' (first
    | with_reducible assumption
    | exact hm.le rfl
    | with_reducible apply keeps_outOfService
    | with_reducible apply keeps_remapRow
    | split)

theorem keeps_memBad (badRows : List (Nat × Nat)) (badPcs : List (Nat × Nat)) (s : State) (hm : Sub 1933359 K) (h0 : Keeps K s) :
    Keeps K (memBad badRows badPcs s) := by
  unfold memBad
  repeat' (first
    | with_reducible assumption
    | exact hm.le rfl
    | with_reducible apply keeps_badRow
    | with_reducible apply keeps_outOfService
    | with_reducible refine Keeps.foldl ?_ ?_
    | intro _
    | split)

theorem keeps_memFills (s : State) (hm : Sub 2097159 K) (h0 : Keeps K s) : Keeps K (memFills s) := by
  unfold memFills
  apply Keeps.foldl
  · exact K4.s0 (hm.bit rfl) (fun _ => rfl) (K4.s1 (hm.bit rfl) (K4.s2 (hm.bit rfl) h0))
  · intro u e hu
    exact keeps_endFill _ _ (hm.le rfl) hu

theorem keeps_fallBack (s : State) (ty : Nat) (hm : Sub 2048 K) (h0 : Keeps K s) :
    KeepsO K (fallBack s ty) := by
  unfold fallBack
  dsimp only
  repeat' (first
    | with_reducible assumption
    | exact hm.le rfl
    | with_reducible apply keeps_emit
    | with_reducible apply keeps_putFw
    | with_reducible apply KeepsO.some
    | with_reducible apply KeepsO.none
    | split)

theorem keeps_trainFull (s : State) (i : Nat) (n : Nat) (slot : Nat) (given : List (Nat × List Byte)) (hm : Sub 2097152 K) (h0 : Keeps K s) :
    Keeps K (trainFull s i n slot given) := by
  unfold trainFull
  repeat' (first
    | with_reducible assumption
    | exact hm.le rfl
    | with_reducible apply keeps_putTrained
    | split
    | (unfold Keeps; dsimp only; with_reducible (apply Keeps.fold)))

theorem keeps_memWork (badRows : List (Nat × Nat)) (badPcs : List (Nat × Nat)) (s : State) (hm : Sub 4034607 K) (h0 : Keeps K s) :
    Keeps K (memWork badRows badPcs s) := by
  unfold memWork
  dsimp only
  repeat' (first
    | with_reducible assumption
    | exact hm.le rfl
    | with_reducible apply keeps_memFills
    | with_reducible apply keeps_memBad
    | with_reducible apply keeps_enable
    | with_reducible apply keeps_portsBack
    | with_reducible apply keeps_startPhase
    | with_reducible apply keeps_advise
    | with_reducible apply keeps_recapAll
    | split)

theorem keeps_bootMemDone (badRows : List (Nat × Nat)) (badPcs : List (Nat × Nat)) (trained : List (Nat × List Byte)) (silent : Nat) (s : State) (hm : Sub 4036655 K) (h0 : Keeps K s) :
    Keeps K (bootMemDone badRows badPcs trained silent s) := by
  unfold bootMemDone
  repeat' (first
    | with_reducible assumption
    | exact hm.le rfl
    | with_reducible apply keeps_memWork
    | with_reducible apply keeps_trainFull
    | with_reducible apply keeps_fallBack
    | with_reducible apply KeepsO.none
    | split
    | (refine KeepsO.get (by assumption) ?_))

theorem keeps_linkWork (badLanes : List (Nat × Nat × Nat)) (lateEngines : List Nat) (s : State) (hm : Sub 1867823 K) (h0 : Keeps K s) :
    Keeps K (linkWork badLanes lateEngines s) := by
  unfold linkWork
  repeat' (first
    | with_reducible assumption
    | exact hm.le rfl
    | with_reducible apply keeps_portsDown
    | with_reducible apply keeps_laneRetire
    | with_reducible apply keeps_startPhase
    | with_reducible apply keeps_settleFences
    | with_reducible refine Keeps.foldl ?_ ?_
    | intro _)

theorem keeps_bootLinkDone (badLanes : List (Nat × Nat × Nat)) (lateEngines : List Nat) (trained : List (Nat × List Byte)) (silent : Nat) (s : State) (hm : Sub 3967023 K) (h0 : Keeps K s) :
    Keeps K (bootLinkDone badLanes lateEngines trained silent s) := by
  unfold bootLinkDone
  repeat' (first
    | with_reducible assumption
    | exact hm.le rfl
    | with_reducible apply keeps_linkWork
    | with_reducible apply keeps_trainFull
    | with_reducible apply keeps_fallBack
    | with_reducible apply KeepsO.none
    | split
    | (refine KeepsO.get (by assumption) ?_))

theorem keeps_coreWork (failing : List Nat) (badSeasons : List Nat) (s : State) (hm : Sub 2195456 K) (h0 : Keeps K s) :
    Keeps K (coreWork failing badSeasons s) := by
  unfold coreWork
  repeat' (first
    | with_reducible assumption
    | exact hm.le rfl
    | with_reducible apply keeps_startPhase
    | with_reducible apply keeps_writeLife
    | with_reducible apply keeps_fenceSite
    | with_reducible apply keeps_bindCore
    | with_reducible apply keeps_advise
    | with_reducible apply keeps_recapAll
    | with_reducible apply keeps_emit
    | with_reducible refine Keeps.foldl ?_ ?_
    | intro _
    | split
    | (unfold Keeps; dsimp only; with_reducible (apply Keeps.fold)))

theorem keeps_bootCoreDone (failing : List Nat) (badSeasons : List Nat) (s : State) (hm : Sub 2195456 K) (h0 : Keeps K s) :
    Keeps K (bootCoreDone failing badSeasons s) := by
  unfold bootCoreDone
  repeat' (first
    | with_reducible assumption
    | exact hm.le rfl
    | with_reducible apply keeps_coreWork
    | split)

theorem keeps_checkWork (s : State) (hm : Sub 6144 K) (h0 : Keeps K s) :
    Keeps K (checkWork s) := by
  unfold checkWork
  repeat' (first
    | with_reducible assumption
    | exact hm.le rfl
    | with_reducible apply keeps_blowFuse
    | with_reducible apply keeps_judgeTopo
    | with_reducible refine Keeps.foldl ?_ ?_
    | intro _
    | split
    | (unfold Keeps; dsimp only; with_reducible (apply K4.s12 (hm.bit rfl); apply Keeps.fold)))

theorem keeps_checkDone (s : State) (hm : Sub 6144 K) (h0 : Keeps K s) :
    Keeps K (checkDone s) := by
  unfold checkDone
  repeat' (first
    | with_reducible assumption
    | exact hm.le rfl
    | with_reducible apply keeps_checkWork
    | split)

theorem keeps_bootPhaseLimit (answers : List (Nat × DieAnswer)) (out : List Nat) (s : State) (hm : Sub 4061295 K) (h0 : Keeps K s) :
    Keeps K (bootPhaseLimit answers out s) := by
  unfold bootPhaseLimit
  repeat' (first
    | with_reducible assumption
    | exact hm.le rfl
    | with_reducible apply keeps_checkWork
    | with_reducible apply keeps_coreWork
    | with_reducible apply keeps_linkWork
    | with_reducible apply keeps_memWork
    | with_reducible apply keeps_netWork
    | with_reducible apply keeps_mgmtWork
    | with_reducible apply keeps_bundleChange
    | with_reducible apply keeps_emit
    | with_reducible apply keeps_putBundle
    | with_reducible refine Keeps.foldl ?_ ?_
    | intro _
    | split)

theorem keeps_reg64LowRead (fn : Nat) (offset : Nat) (s : State) (h0 : Keeps K s) :
    Keeps K (reg64LowRead fn offset s) := by
  unfold reg64LowRead
  repeat' (first
    | with_reducible assumption
    | with_reducible apply keeps_putFn
    | split)

theorem keeps_setupLockWrite (value : Nat) (s : State) (hm : Sub 256 K) (h0 : Keeps K s) :
    Keeps K (setupLockWrite value s) := by
  unfold setupLockWrite
  repeat' (first
    | with_reducible assumption
    | exact hm.le rfl
    | split
    | (unfold Keeps; dsimp only; with_reducible (apply K4.s8 (hm.bit rfl); apply Keeps.fold)))

theorem keeps_dbellConfigWrite (fn : Nat) (offset : Nat) (size : Nat) (value : Nat) (s : State) (h0 : Keeps K s) :
    Keeps K (dbellConfigWrite fn offset size value s) := by
  unfold dbellConfigWrite
  repeat' (first
    | with_reducible assumption
    | with_reducible apply keeps_trimHot
    | with_reducible apply keeps_putFn
    | split
    | (unfold Keeps; dsimp only; with_reducible (apply Keeps.fold)))

theorem keeps_qctlWriteBusy (fn : Nat) (s : State) (h0 : Keeps K s) :
    Keeps K (qctlWriteBusy fn s) := by
  unfold qctlWriteBusy
  repeat' (first
    | with_reducible assumption
    | with_reducible apply keeps_putFn
    | split)

theorem keeps_logpControlWrite (value : Nat) (s : State) (h0 : Keeps K s) :
    Keeps K (logpControlWrite value s) := by
  unfold logpControlWrite
  repeat' (first
    | with_reducible assumption
    | with_reducible apply keeps_ringDrain
    | split
    | (unfold Keeps; dsimp only; with_reducible (apply Keeps.fold)))

theorem keeps_clearMiss (s : State) (p : Nat) (value : Nat) (hm : Sub 524288 K) (h0 : Keeps K s) :
    Keeps K (clearMiss s p value) := by
  unfold clearMiss
  repeat' (first
    | with_reducible assumption
    | exact hm.le rfl
    | with_reducible apply keeps_putP
    | split)

theorem keeps_bwMissClear (fn : Nat) (part : Nat) (value : Nat) (s : State) (hm : Sub 524288 K) (h0 : Keeps K s) :
    Keeps K (bwMissClear fn part value s) := by
  unfold bwMissClear
  repeat' (first
    | with_reducible assumption
    | exact hm.le rfl
    | with_reducible apply keeps_clearMiss
    | split)

theorem keeps_adminqWrite (s : State) (o : Nat) (size : Nat) (v : Nat) (hm : Sub 256 K) (h0 : Keeps K s) :
    Keeps K (adminqWrite s o size v) := by
  unfold adminqWrite
  repeat' (first
    | with_reducible assumption
    | exact hm.le rfl
    | with_reducible apply keeps_aqDisable
    | with_reducible apply keeps_aqEnable
    | split
    | (unfold Keeps; dsimp only; with_reducible (apply K4.s8 (hm.bit rfl); apply Keeps.fold)))

theorem keeps_qtabWrite (s : State) (fn : Nat) (o : Nat) (size : Nat) (v : Nat) (h0 : Keeps K s) :
    Keeps K (qtabWrite s fn o size v) := by
  unfold qtabWrite
  repeat' (first
    | with_reducible assumption
    | with_reducible apply keeps_queueClear
    | with_reducible apply keeps_queueDisable
    | with_reducible apply keeps_queueEnable
    | with_reducible apply keeps_putFn
    | split)

theorem keeps_msixPut (s : State) (fn : Nat) (k : Nat) (v : Nat) (h0 : Keeps K s) :
    Keeps K (msixPut s fn k v) := by
  unfold msixPut
  dsimp only
  repeat' (first
    | with_reducible assumption
    | with_reducible apply keeps_sendMsix
    | with_reducible apply keeps_putFn
    | split)

theorem keeps_msixWrite (s : State) (fn : Nat) (n : Nat) (o : Nat) (size : Nat) (v : Nat) (h0 : Keeps K s) :
    Keeps K (msixWrite s fn n o size v) := by
  unfold msixWrite
  repeat' (first
    | with_reducible assumption
    | with_reducible apply keeps_msixPut
    | split)

theorem keeps_irqWrite (s : State) (o : Nat) (size : Nat) (v : Nat) (hm : Sub 256 K) (h0 : Keeps K s) :
    Keeps K (irqWrite s o size v) := by
  unfold irqWrite
  repeat' (first
    | with_reducible assumption
    | exact hm.le rfl
    | with_reducible apply keeps_msixWrite
    | with_reducible apply keeps_putQ
    | split
    | (unfold Keeps; dsimp only; with_reducible (apply K4.s8 (hm.bit rfl); apply Keeps.fold)))

theorem keeps_logpWrite (s : State) (o : Nat) (size : Nat) (v : Nat) (h0 : Keeps K s) :
    Keeps K (logpWrite s o size v) := by
  unfold logpWrite
  repeat' (first
    | with_reducible assumption
    | with_reducible apply keeps_logpControlWrite
    | with_reducible apply keeps_ringDrain
    | split
    | (unfold Keeps; dsimp only; with_reducible (apply Keeps.fold)))

theorem keeps_timeWrite (s : State) (o : Nat) (size : Nat) (v : Nat) (hm : Sub 1024 K) (h0 : Keeps K s) :
    Keeps K (timeWrite s o size v) := by
  unfold timeWrite
  repeat' (first
    | with_reducible assumption
    | exact hm.le rfl
    | split
    | (unfold Keeps; dsimp only; with_reducible (apply K4.s10 (hm.bit rfl); apply Keeps.fold)))

theorem keeps_registerWrite (fn : Nat) (offset : Nat) (size : Nat) (value : Nat) (s : State) (hm : Sub 525568 K) (h0 : Keeps K s) :
    Keeps K (registerWrite fn offset size value s) := by
  unfold registerWrite
  dsimp only
  repeat' (first
    | with_reducible assumption
    | exact hm.le rfl
    | with_reducible apply keeps_timeWrite
    | with_reducible apply keeps_logpWrite
    | with_reducible apply keeps_irqWrite
    | with_reducible apply keeps_msixWrite
    | with_reducible apply keeps_qtabWrite
    | with_reducible apply keeps_adminqWrite
    | with_reducible apply keeps_bwMissClear
    | with_reducible apply keeps_dbellConfigWrite
    | with_reducible apply keeps_setupLockWrite
    | split)

theorem keeps_busMasterEnable (fn : Nat) (on : Bool) (s : State) (h0 : Keeps K s) :
    Keeps K (busMasterEnable fn on s) := by
  unfold busMasterEnable
  repeat' (first
    | with_reducible assumption
    | with_reducible apply keeps_ringDrain
    | with_reducible apply keeps_putFn
    | split)

theorem keeps_negotiatedWidthChange (width : Nat) (s : State) (hm : Sub 33024 K) (h0 : Keeps K s) :
    Keeps K (negotiatedWidthChange width s) := by
  unfold negotiatedWidthChange
  repeat' (first
    | with_reducible assumption
    | exact hm.le rfl
    | with_reducible apply keeps_recap
    | (unfold Keeps; dsimp only; with_reducible (apply K4.s8 (hm.bit rfl); apply Keeps.fold)))

end Sys2Proof.Machine
end

