-- ==== Sys2Proof/Laws/Frames.lean ====
section
/-! SUPPORT. What a log record leaves alone, read off `Keeps` part by part; and how a frame is read off it. -/

namespace Sys2Proof.Machine

/-- A state keeps itself, whatever parts may change. -/
theorem Keeps.start (s : State) (m : Nat) : Keeps ⟨false, s.guestSite, s.pending, m, s⟩ s :=
  by constructor <;> first | exact .inr rfl | rfl | exact fun w => Bool.noConfusion w

/-- A state with both memories in canonical form keeps that too. -/
theorem Keeps.startWf (s : State) (m : Nat) (h : s.memOk) : Keeps ⟨true, s.guestSite, s.pending, m, s⟩ s :=
  by constructor <;> first | exact .inr rfl | rfl | exact fun _ => h

variable {w g : Bool} {q : List Instr} {m : Nat} {a s : State}

/-- A mask over another, both numbers. -/
theorem Sub.of {M : Nat} (h : M &&& m = M) : Sub M ⟨w, g, q, m, a⟩ := h

theorem Keeps.part0 (h : Keeps ⟨w, g, q, m, a⟩ s) (hk : m.testBit 0 = false) : s.mem.bytes = a.mem.bytes :=
  h.p0.resolve_left (by rw [show (Kept.mk w g q m a).m = m from rfl, hk]; exact Bool.noConfusion)
theorem Keeps.part1 (h : Keeps ⟨w, g, q, m, a⟩ s) (hk : m.testBit 1 = false) : s.mem.poison = a.mem.poison :=
  h.p1.resolve_left (by rw [show (Kept.mk w g q m a).m = m from rfl, hk]; exact Bool.noConfusion)
theorem Keeps.part2 (h : Keeps ⟨w, g, q, m, a⟩ s) (hk : m.testBit 2 = false) : s.mem.roots = a.mem.roots :=
  h.p2.resolve_left (by rw [show (Kept.mk w g q m a).m = m from rfl, hk]; exact Bool.noConfusion)
theorem Keeps.part3 (h : Keeps ⟨w, g, q, m, a⟩ s) (hk : m.testBit 3 = false) : s.kv = a.kv :=
  h.p3.resolve_left (by rw [show (Kept.mk w g q m a).m = m from rfl, hk]; exact Bool.noConfusion)
theorem Keeps.part4 (h : Keeps ⟨w, g, q, m, a⟩ s) (hk : m.testBit 4 = false) : s.sync = a.sync :=
  h.p4.resolve_left (by rw [show (Kept.mk w g q m a).m = m from rfl, hk]; exact Bool.noConfusion)
theorem Keeps.part5 (h : Keeps ⟨w, g, q, m, a⟩ s) (hk : m.testBit 5 = false) : s.steps = a.steps :=
  h.p5.resolve_left (by rw [show (Kept.mk w g q m a).m = m from rfl, hk]; exact Bool.noConfusion)
theorem Keeps.part6 (h : Keeps ⟨w, g, q, m, a⟩ s) (hk : m.testBit 6 = false) : s.gnt.policy = a.gnt.policy :=
  h.p6.resolve_left (by rw [show (Kept.mk w g q m a).m = m from rfl, hk]; exact Bool.noConfusion)
theorem Keeps.part7 (h : Keeps ⟨w, g, q, m, a⟩ s) (hk : m.testBit 7 = false) : s.gnt.keys = a.gnt.keys :=
  h.p7.resolve_left (by rw [show (Kept.mk w g q m a).m = m from rfl, hk]; exact Bool.noConfusion)
theorem Keeps.part8 (h : Keeps ⟨w, g, q, m, a⟩ s) (hk : m.testBit 8 = false) : s.regs = a.regs :=
  h.p8.resolve_left (by rw [show (Kept.mk w g q m a).m = m from rfl, hk]; exact Bool.noConfusion)
theorem Keeps.part9 (h : Keeps ⟨w, g, q, m, a⟩ s) (hk : m.testBit 9 = false) : s.vfs = a.vfs :=
  h.p9.resolve_left (by rw [show (Kept.mk w g q m a).m = m from rfl, hk]; exact Bool.noConfusion)
theorem Keeps.part10 (h : Keeps ⟨w, g, q, m, a⟩ s) (hk : m.testBit 10 = false) : s.time = a.time :=
  h.p10.resolve_left (by rw [show (Kept.mk w g q m a).m = m from rfl, hk]; exact Bool.noConfusion)
theorem Keeps.part11 (h : Keeps ⟨w, g, q, m, a⟩ s) (hk : m.testBit 11 = false) : s.mgmt.fw = a.mgmt.fw :=
  h.p11.resolve_left (by rw [show (Kept.mk w g q m a).m = m from rfl, hk]; exact Bool.noConfusion)
theorem Keeps.part12 (h : Keeps ⟨w, g, q, m, a⟩ s) (hk : m.testBit 12 = false) : s.pwr = a.pwr :=
  h.p12.resolve_left (by rw [show (Kept.mk w g q m a).m = m from rfl, hk]; exact Bool.noConfusion)
theorem Keeps.part13 (h : Keeps ⟨w, g, q, m, a⟩ s) (hk : m.testBit 13 = false) : s.th = a.th :=
  h.p13.resolve_left (by rw [show (Kept.mk w g q m a).m = m from rfl, hk]; exact Bool.noConfusion)
theorem Keeps.part14 (h : Keeps ⟨w, g, q, m, a⟩ s) (hk : m.testBit 14 = false) : s.cuff = a.cuff :=
  h.p14.resolve_left (by rintro ⟨u, _⟩; rw [show (Kept.mk w g q m a).m = m from rfl, hk] at u; exact Bool.noConfusion u)
/-- On a part without a guest site a shut Cuff is shut after. -/
theorem Keeps.shut (h : Keeps ⟨w, g, q, m, a⟩ s) (hg : g = false) (ha : a.cuff.shut) : s.cuff.shut :=
  h.p14.elim (fun u => u.2 hg ha) (fun e => e ▸ ha)
theorem Keeps.part15 (h : Keeps ⟨w, g, q, m, a⟩ s) (hk : m.testBit 15 = false) : s.bw = a.bw :=
  h.p15.resolve_left (by rw [show (Kept.mk w g q m a).m = m from rfl, hk]; exact Bool.noConfusion)
theorem Keeps.part16 (h : Keeps ⟨w, g, q, m, a⟩ s) (hk : m.testBit 16 = false) : s.flt.bindings = a.flt.bindings :=
  h.p16.resolve_left (by rw [show (Kept.mk w g q m a).m = m from rfl, hk]; exact Bool.noConfusion)
theorem Keeps.part17 (h : Keeps ⟨w, g, q, m, a⟩ s) (hk : m.testBit 17 = false) : s.hol = a.hol :=
  h.p17.resolve_left (by rw [show (Kept.mk w g q m a).m = m from rfl, hk]; exact Bool.noConfusion)
theorem Keeps.part18 (h : Keeps ⟨w, g, q, m, a⟩ s) (hk : m.testBit 18 = false) : s.fab = a.fab :=
  h.p18.resolve_left (by rw [show (Kept.mk w g q m a).m = m from rfl, hk]; exact Bool.noConfusion)
theorem Keeps.part19 (h : Keeps ⟨w, g, q, m, a⟩ s) (hk : m.testBit 19 = false) : s.parts = a.parts :=
  h.p19.resolve_left (by rw [show (Kept.mk w g q m a).m = m from rfl, hk]; exact Bool.noConfusion)
theorem Keeps.part20 (h : Keeps ⟨w, g, q, m, a⟩ s) (hk : m.testBit 20 = false) : s.plauf = a.plauf :=
  h.p20.resolve_left (by rw [show (Kept.mk w g q m a).m = m from rfl, hk]; exact Bool.noConfusion)
theorem Keeps.part21 (h : Keeps ⟨w, g, q, m, a⟩ s) (hk : m.testBit 21 = false) : s.mgmt.records = a.mgmt.records :=
  h.p21.resolve_left (by rw [show (Kept.mk w g q m a).m = m from rfl, hk]; exact Bool.noConfusion)

variable (s)

theorem emit_keeps (c e : Nat) (w : Who) (p : List PField) :
    Keeps ⟨false, s.guestSite, s.pending, 0, s⟩ (emit s c e w p) := keeps_emit s c e w p (Keeps.start s 0)

@[simp] theorem emit_mem_bytes (c e : Nat) (w : Who) (p : List PField) : (emit s c e w p).mem.bytes = s.mem.bytes :=
  (emit_keeps s c e w p).part0 (Nat.zero_testBit _)
@[simp] theorem emit_mem_poison (c e : Nat) (w : Who) (p : List PField) : (emit s c e w p).mem.poison = s.mem.poison :=
  (emit_keeps s c e w p).part1 (Nat.zero_testBit _)
@[simp] theorem emit_mem_roots (c e : Nat) (w : Who) (p : List PField) : (emit s c e w p).mem.roots = s.mem.roots :=
  (emit_keeps s c e w p).part2 (Nat.zero_testBit _)
@[simp] theorem emit_kv (c e : Nat) (w : Who) (p : List PField) : (emit s c e w p).kv = s.kv :=
  (emit_keeps s c e w p).part3 (Nat.zero_testBit _)
@[simp] theorem emit_sync (c e : Nat) (w : Who) (p : List PField) : (emit s c e w p).sync = s.sync :=
  (emit_keeps s c e w p).part4 (Nat.zero_testBit _)
@[simp] theorem emit_steps (c e : Nat) (w : Who) (p : List PField) : (emit s c e w p).steps = s.steps :=
  (emit_keeps s c e w p).part5 (Nat.zero_testBit _)
@[simp] theorem emit_gnt_policy (c e : Nat) (w : Who) (p : List PField) : (emit s c e w p).gnt.policy = s.gnt.policy :=
  (emit_keeps s c e w p).part6 (Nat.zero_testBit _)
@[simp] theorem emit_gnt_keys (c e : Nat) (w : Who) (p : List PField) : (emit s c e w p).gnt.keys = s.gnt.keys :=
  (emit_keeps s c e w p).part7 (Nat.zero_testBit _)
@[simp] theorem emit_regs (c e : Nat) (w : Who) (p : List PField) : (emit s c e w p).regs = s.regs :=
  (emit_keeps s c e w p).part8 (Nat.zero_testBit _)
@[simp] theorem emit_vfs (c e : Nat) (w : Who) (p : List PField) : (emit s c e w p).vfs = s.vfs :=
  (emit_keeps s c e w p).part9 (Nat.zero_testBit _)
@[simp] theorem emit_time (c e : Nat) (w : Who) (p : List PField) : (emit s c e w p).time = s.time :=
  (emit_keeps s c e w p).part10 (Nat.zero_testBit _)
@[simp] theorem emit_mgmt_fw (c e : Nat) (w : Who) (p : List PField) : (emit s c e w p).mgmt.fw = s.mgmt.fw :=
  (emit_keeps s c e w p).part11 (Nat.zero_testBit _)
@[simp] theorem emit_pwr (c e : Nat) (w : Who) (p : List PField) : (emit s c e w p).pwr = s.pwr :=
  (emit_keeps s c e w p).part12 (Nat.zero_testBit _)
@[simp] theorem emit_th (c e : Nat) (w : Who) (p : List PField) : (emit s c e w p).th = s.th :=
  (emit_keeps s c e w p).part13 (Nat.zero_testBit _)
@[simp] theorem emit_cuff (c e : Nat) (w : Who) (p : List PField) : (emit s c e w p).cuff = s.cuff :=
  (emit_keeps s c e w p).part14 (Nat.zero_testBit _)
@[simp] theorem emit_bw (c e : Nat) (w : Who) (p : List PField) : (emit s c e w p).bw = s.bw :=
  (emit_keeps s c e w p).part15 (Nat.zero_testBit _)
@[simp] theorem emit_flt_bindings (c e : Nat) (w : Who) (p : List PField) : (emit s c e w p).flt.bindings = s.flt.bindings :=
  (emit_keeps s c e w p).part16 (Nat.zero_testBit _)
@[simp] theorem emit_hol (c e : Nat) (w : Who) (p : List PField) : (emit s c e w p).hol = s.hol :=
  (emit_keeps s c e w p).part17 (Nat.zero_testBit _)
@[simp] theorem emit_fab (c e : Nat) (w : Who) (p : List PField) : (emit s c e w p).fab = s.fab :=
  (emit_keeps s c e w p).part18 (Nat.zero_testBit _)
@[simp] theorem emit_parts (c e : Nat) (w : Who) (p : List PField) : (emit s c e w p).parts = s.parts :=
  (emit_keeps s c e w p).part19 (Nat.zero_testBit _)
@[simp] theorem emit_plauf (c e : Nat) (w : Who) (p : List PField) : (emit s c e w p).plauf = s.plauf :=
  (emit_keeps s c e w p).part20 (Nat.zero_testBit _)
@[simp] theorem emit_mgmt_records (c e : Nat) (w : Who) (p : List PField) : (emit s c e w p).mgmt.records = s.mgmt.records :=
  (emit_keeps s c e w p).part21 (Nat.zero_testBit _)
@[simp] theorem emit_pending (c e : Nat) (w : Who) (p : List PField) : (emit s c e w p).pending = s.pending :=
  (emit_keeps s c e w p).queue

end Sys2Proof.Machine
end

