-- ==== Sys2Proof/Laws/Exec.lean ====
section
/-! SUPPORT. What any command does, said once: it answers a next state that keeps every part of the state outside the
parts that `reach` numbers, the canonical form of both memories, the guest site and the waiting commands. -/

namespace Sys2Proof.Machine

/-- The parts of the state that a command may change, as the mask of `Kept`. -/
def reach : Instr → Nat
  | .pollingPass .. | .hotIdleEvict .. | .irqCoalTimer .. | .queueEnable .. | .queueDisable ..
  | .queueClear .. | .queueDrainDone .. | .aqDisable .. | .identify .. | .eventWait .. | .settingRead ..
  | .debugEntered .. | .topoRead .. | .snapArm .. | .snapTrigger .. | .equinoxInput .. | .laneModeChange ..
  | .windowOpen .. | .bankGroupRefresh .. | .trickleCfg .. | .trickleResume .. | .syncNop ..
  | .syncWaitAll .. | .repairRead .. | .ppr .. | .tap .. | .engineCtrl .. | .scanDump .. | .scrubLag ..
  | .ceLeak .. | .getVersion .. | .getCapabilities .. | .negotiateAlgorithms .. | .getDigests ..
  | .getCertificate .. | .challenge .. | .getMeasurements .. | .keyExchange .. | .finish .. | .keyUpdate ..
  | .heartbeat .. | .getIdentity .. | .getState .. | .getTelemetry .. | .getLog .. | .getLifetime ..
  | .staleSpeaker .. | .spareTest .. | .gauntletWatchdog .. | .qctlWriteBusy .. | .dbellConfigWrite ..
  | .logpControlWrite .. | .reg64LowRead .. | .busMasterEnable .. => 0
  | .descriptorStart .. | .tpoolAdd .. | .nearList .. | .seqOpen .. | .swapOut .. | .swapIn ..
  | .remoteRead .. | .remoteWrite .. | .remoteAtomic .. | .remoteSignal .. => 1048584
  | .descriptorComplete .. => 1626175
  | .aqEnable .. | .setupLockWrite .. => 256
  | .vfFlr .. => 1589567
  | .pf0Flr .. => 1725247
  | .vfBind .. | .vfUnbindDone .. => 524800
  | .vfUnbind .. | .tdiLeaveRun .. | .endSession .. | .vendorDefinedRequest .. => 1589823
  | .partCreate .. => 1605823
  | .partDestroy .. => 3850431
  | .partReset .. => 1605695
  | .partState .. => 1572911
  | .partStateDone .. | .energyRefresh .. | .bwMissClear .. => 524288
  | .pkgState .. | .readyDrainTimeout .. => 1085487
  | .levelSlewDone .. | .enableRetry .. | .resetInputRelease .. => 4096
  | .powerCap .. => 12288
  | .tripAck .. => 14336
  | .bwRegister .. | .bwRelease .. | .retireMoveDone .. | .grantReturn .. | .requestDeadlinePass ..
  | .capacityRecompute .. | .guaranteeMissedWindow .. => 32768
  | .bwMonitor .. | .prefetchDrop .. | .missInterval .. => 557056
  | .store .. | .topoAccept .. => 3182592
  | .settingWrite .. | .lifetimeHourly .. => 2097152
  | .ownerMsgClaim .. | .ownerMsgDebug .. => 3851007
  | .ownerMsgPolicy .. => 2146368
  | .ownerMsgPairing .. => 3145839
  | .ownerMsgKeyRelease .. => 2097280
  | .zeroFillDone .. => 2097155
  | .fwStage .. | .fwActivate .. | .liveActivationCheck .. | .mittenWatchdog .. => 2048
  | .reset .. | .vaonApplied .. | .pkgRstInput .. | .perst .. | .powerGoodLost .. => 4192191
  | .holidayGrant .. | .holidayExpire .. => 1802287
  | .selftest .. | .calibrate .. => 1703983
  | .testDone .. => 3907631
  | .retirePage .. | .retireBank .. | .map .. | .unmap .. | .seqFork .. | .kvHeldResume .. | .swapOutDone ..
  | .swapInDone .. => 1048591
  | .snapRead .. => 128
  | .copy .. | .fill .. | .toHost .. | .fromHost .. | .acc .. | .orderedStagingGrant .. | .seqRead ..
  | .syncRead .. | .sealIn .. => 1048587
  | .matmul .. | .conv1d .. | .conv2d .. | .chain .. | .softmax .. | .sample .. | .attend .. | .kat ..
  | .rowRemap .. | .arrayRead .. | .scrubRead .. => 1114159
  | .poolRestart .. | .rotaEntryDispatch .. | .stepCommit .. | .trickleTimeout .. | .rdData .. | .wrAck ..
  | .atomAck .. | .sigAck .. | .impR .. | .remoteRetry .. | .neighbourLost .. => 1048623
  | .windowClose .. | .windowCut .. | .heldRequestRelease .. => 1671215
  | .rotaBind .. => 1048616
  | .rotaUnbind .. => 32
  | .run .. | .stepRelease .. => 1048619
  | .trickleSave .. => 1048579
  | .seqClose .. => 15
  | .poolConfig .. => 1572875
  | .poolAdd .. => 8
  | .syncAdd .. | .signalAdd .. | .cuffSignal .. => 540688
  | .syncPair .. | .syncUnpair .. => 16
  | .winExport .. | .winUnexport .. | .winUnexportDone .. | .winImport .. | .winUnimport .. | .keyReplace ..
  | .rd .. | .impQ .. | .rdResend .. | .lightDetected .. | .laserInputRestored .. => 1048576
  | .sealOut .. => 1048715
  | .memoryAccess .. => 4030511
  | .frameReceive .. | .laneRetire .. | .dieLost .. => 1867823
  | .liningMessage .. | .laneRecalibration .. => 262144
  | .dieResetInput .. | .powerGoodTimeout .. => 1871919
  | .dieBack .. => 3997743
  | .refclkLost .. => 1868847
  | .refclkRestored .. => 263168
  | .cuffRead .. | .cuffWrite .. => 1687599
  | .cuffCread .. | .cuffWatch .. | .guestLinkDown .. | .guestLinkUp .. => 16384
  | .flitReceive .. => 1622079
  | .portTrainTimeout .. | .portTrainDone .. | .hello .. | .auth .. | .topo .. | .ringRecalibrate ..
  | .laserLineLow .. | .laserLineRestored .. | .laserLost .. | .wavelengthRetire .. | .lossOfLight .. => 1081344
  | .wr .. | .atom .. | .sig .. => 1589267
  | .sliceCopyDone .. => 3768367
  | .thermalModelUpdate .. => 1751087
  | .thermalLimiterTick .. | .thermalCapCompute .. | .sensorCheck .. | .hostLimiterTick ..
  | .almanacForecast .. => 663552
  | .offsetAdjust .. | .telemetryRefresh .. => 8192
  | .imonSample .. => 1716271
  | .coolantTimeout .. => 1708079
  | .ptmDialogue .. => 1024
  | .bootMgmtDone .. => 3438656
  | .bootNetDone .. => 1880111
  | .bootMemDone .. => 4036655
  | .bootLinkDone .. => 3967023
  | .bootCoreDone .. => 2195456
  | .checkDone .. => 6144
  | .bootPhaseLimit .. => 4061295
  | .powerGoodReturn .. => 1060864
  | .vaonLost .. => 2095039
  | .registerWrite .. => 525568
  | .negotiatedWidthChange .. => 33024

/-- Every command answers a next state that keeps what `Keeps` says. -/
theorem exec_keeps {K : Kept} (c : Instr) (s : State) (hm : Sub (reach c) K) (h0 : Keeps K s) :
    ∃ t, exec c s = .next t ∧ Keeps K t := by
  cases c with
  | pollingPass stores failing => exact ⟨_, rfl, keeps_pollingPass _ _ _ h0⟩
  | hotIdleEvict q => exact ⟨_, rfl, keeps_hotIdleEvict _ _ h0⟩
  | descriptorStart d => exact ⟨_, rfl, keeps_descriptorStart _ _ hm h0⟩
  | descriptorComplete d => exact ⟨_, rfl, keeps_descriptorComplete _ _ hm h0⟩
  | irqCoalTimer q => exact ⟨_, rfl, keeps_irqCoalTimer _ _ h0⟩
  | queueEnable fn q => exact ⟨_, rfl, keeps_queueEnable _ _ _ h0⟩
  | queueDisable fn q => exact ⟨_, rfl, keeps_queueDisable _ _ _ h0⟩
  | queueClear fn q => exact ⟨_, rfl, keeps_queueClear _ _ _ h0⟩
  | queueDrainDone q => exact ⟨_, rfl, keeps_queueDrainDone _ _ h0⟩
  | aqEnable => exact ⟨_, rfl, keeps_aqEnable _ hm h0⟩
  | aqDisable => exact ⟨_, rfl, keeps_aqDisable _ h0⟩
  | vfFlr vf => exact ⟨_, rfl, keeps_vfFlr _ _ hm h0⟩
  | pf0Flr => exact ⟨_, rfl, keeps_pf0Flr _ hm h0⟩
  | identify d => exact ⟨_, rfl, keeps_identify _ _ h0⟩
  | vfBind d => exact ⟨_, rfl, keeps_vfBind _ _ hm h0⟩
  | vfUnbind d => exact ⟨_, rfl, keeps_vfUnbind _ _ hm h0⟩
  | vfUnbindDone vf => exact ⟨_, rfl, keeps_vfUnbindDone _ _ hm h0⟩
  | eventWait d => exact ⟨_, rfl, keeps_eventWait _ _ h0⟩
  | partCreate d => exact ⟨_, rfl, keeps_partCreate _ _ hm h0⟩
  | partDestroy d => exact ⟨_, rfl, keeps_partDestroy _ _ hm h0⟩
  | partReset d => exact ⟨_, rfl, keeps_partReset _ _ hm h0⟩
  | partState d => exact ⟨_, rfl, keeps_partState _ _ hm h0⟩
  | partStateDone p => exact ⟨_, rfl, keeps_partStateDone _ _ hm h0⟩
  | pkgState d => exact ⟨_, rfl, keeps_pkgState _ _ hm h0⟩
  | levelSlewDone => exact ⟨_, rfl, keeps_levelSlewDone _ hm h0⟩
  | readyDrainTimeout => exact ⟨_, rfl, keeps_readyDrainTimeout _ hm h0⟩
  | powerCap d => exact ⟨_, rfl, keeps_powerCap _ _ hm h0⟩
  | tripAck d => exact ⟨_, rfl, keeps_tripAck _ _ hm h0⟩
  | bwRegister d => exact ⟨_, rfl, keeps_bwRegister _ _ hm h0⟩
  | bwRelease d => exact ⟨_, rfl, keeps_bwRelease _ _ hm h0⟩
  | bwMonitor d => exact ⟨_, rfl, keeps_bwMonitor _ _ hm h0⟩
  | store d badReadback => exact ⟨_, rfl, keeps_store _ _ _ hm h0⟩
  | settingWrite d => exact ⟨_, rfl, keeps_settingWrite _ _ hm h0⟩
  | settingRead d => exact ⟨_, rfl, keeps_settingRead _ _ h0⟩
  | ownerMsgClaim d commitOk => exact ⟨_, rfl, keeps_ownerMsgClaim _ _ _ hm h0⟩
  | ownerMsgPolicy d commitOk => exact ⟨_, rfl, keeps_ownerMsgPolicy _ _ _ hm h0⟩
  | ownerMsgPairing d commitOk => exact ⟨_, rfl, keeps_ownerMsgPairing _ _ _ hm h0⟩
  | ownerMsgDebug d commitOk => exact ⟨_, rfl, keeps_ownerMsgDebug _ _ _ hm h0⟩
  | ownerMsgKeyRelease d => exact ⟨_, rfl, keeps_ownerMsgKeyRelease _ _ hm h0⟩
  | debugEntered => exact ⟨_, rfl, keeps_debugEntered _ h0⟩
  | zeroFillDone p => exact ⟨_, rfl, keeps_zeroFillDone _ _ hm h0⟩
  | fwStage d => exact ⟨_, rfl, keeps_fwStage _ _ hm h0⟩
  | fwActivate d => exact ⟨_, rfl, keeps_fwActivate _ _ hm h0⟩
  | liveActivationCheck refreshed => exact ⟨_, rfl, keeps_liveActivationCheck _ _ hm h0⟩
  | topoRead d => exact ⟨_, rfl, keeps_topoRead _ _ h0⟩
  | topoAccept d readbackOk => exact ⟨_, rfl, keeps_topoAccept _ _ _ hm h0⟩
  | reset d => exact ⟨_, rfl, keeps_reset _ _ hm h0⟩
  | holidayGrant d => exact ⟨_, rfl, keeps_holidayGrant _ _ hm h0⟩
  | holidayExpire => exact ⟨_, rfl, keeps_holidayExpire _ hm h0⟩
  | selftest d => exact ⟨_, rfl, keeps_selftest _ _ hm h0⟩
  | calibrate d => exact ⟨_, rfl, keeps_calibrate _ _ hm h0⟩
  | testDone v => exact ⟨_, rfl, keeps_testDone _ _ hm h0⟩
  | retirePage d => exact ⟨_, rfl, keeps_retirePage _ _ hm h0⟩
  | retireBank d => exact ⟨_, rfl, keeps_retireBank _ _ hm h0⟩
  | retireMoveDone target => exact ⟨_, rfl, keeps_retireMoveDone _ _ hm h0⟩
  | snapArm d => exact ⟨_, rfl, keeps_snapArm _ _ h0⟩
  | snapTrigger d => exact ⟨_, rfl, keeps_snapTrigger _ _ h0⟩
  | equinoxInput => exact ⟨_, rfl, keeps_equinoxInput _ h0⟩
  | snapRead d => exact ⟨_, rfl, keeps_snapRead _ _ hm h0⟩
  | copy d => exact ⟨_, rfl, keeps_copy _ _ hm h0⟩
  | fill d => exact ⟨_, rfl, keeps_fill _ _ hm h0⟩
  | toHost d => exact ⟨_, rfl, keeps_toHost _ _ hm h0⟩
  | fromHost d => exact ⟨_, rfl, keeps_fromHost _ _ hm h0⟩
  | map d => exact ⟨_, rfl, keeps_map _ _ hm h0⟩
  | unmap d => exact ⟨_, rfl, keeps_unmap _ _ hm h0⟩
  | tpoolAdd d => exact ⟨_, rfl, keeps_tpoolAdd _ _ hm h0⟩
  | matmul d w => exact ⟨_, rfl, keeps_matmul _ _ _ hm h0⟩
  | conv1d d w => exact ⟨_, rfl, keeps_conv1d _ _ _ hm h0⟩
  | conv2d d w => exact ⟨_, rfl, keeps_conv2d _ _ _ hm h0⟩
  | laneModeChange core => exact ⟨_, rfl, keeps_laneModeChange _ _ h0⟩
  | chain d w => exact ⟨_, rfl, keeps_chain _ _ _ hm h0⟩
  | softmax d w => exact ⟨_, rfl, keeps_softmax _ _ _ hm h0⟩
  | sample d w => exact ⟨_, rfl, keeps_sample _ _ _ hm h0⟩
  | attend d w => exact ⟨_, rfl, keeps_attend _ _ _ hm h0⟩
  | poolRestart d => exact ⟨_, rfl, keeps_poolRestart _ _ hm h0⟩
  | nearList d => exact ⟨_, rfl, keeps_nearList _ _ hm h0⟩
  | acc d => exact ⟨_, rfl, keeps_acc _ _ hm h0⟩
  | orderedStagingGrant stack => exact ⟨_, rfl, keeps_orderedStagingGrant _ _ hm h0⟩
  | windowOpen stack pc group d => exact ⟨_, rfl, keeps_windowOpen _ _ _ _ _ h0⟩
  | windowClose stack pc group x => exact ⟨_, rfl, keeps_windowClose _ _ _ _ _ hm h0⟩
  | windowCut stack pc group x => exact ⟨_, rfl, keeps_windowCut _ _ _ _ _ hm h0⟩
  | bankGroupRefresh stack pc group => exact ⟨_, rfl, keeps_bankGroupRefresh _ _ _ _ h0⟩
  | rotaBind d => exact ⟨_, rfl, keeps_rotaBind _ _ hm h0⟩
  | rotaUnbind d => exact ⟨_, rfl, keeps_rotaUnbind _ _ hm h0⟩
  | run d => exact ⟨_, rfl, keeps_run _ _ hm h0⟩
  | stepRelease d => exact ⟨_, rfl, keeps_stepRelease _ _ hm h0⟩
  | rotaEntryDispatch d => exact ⟨_, rfl, keeps_rotaEntryDispatch _ _ hm h0⟩
  | stepCommit d energyA energyB duration => exact ⟨_, rfl, keeps_stepCommit _ _ _ _ _ hm h0⟩
  | trickleCfg d => exact ⟨_, rfl, keeps_trickleCfg _ _ h0⟩
  | trickleSave d => exact ⟨_, rfl, keeps_trickleSave _ _ hm h0⟩
  | trickleResume d => exact ⟨_, rfl, keeps_trickleResume _ _ h0⟩
  | trickleTimeout d => exact ⟨_, rfl, keeps_trickleTimeout _ _ hm h0⟩
  | seqOpen d => exact ⟨_, rfl, keeps_seqOpen _ _ hm h0⟩
  | seqClose d => exact ⟨_, rfl, keeps_seqClose _ _ hm h0⟩
  | seqFork d => exact ⟨_, rfl, keeps_seqFork _ _ hm h0⟩
  | seqRead d => exact ⟨_, rfl, keeps_seqRead _ _ hm h0⟩
  | kvHeldResume slot => exact ⟨_, rfl, keeps_kvHeldResume _ _ hm h0⟩
  | poolConfig d => exact ⟨_, rfl, keeps_poolConfig _ _ hm h0⟩
  | poolAdd d => exact ⟨_, rfl, keeps_poolAdd _ _ hm h0⟩
  | swapOut d => exact ⟨_, rfl, keeps_swapOut _ _ hm h0⟩
  | swapOutDone slot => exact ⟨_, rfl, keeps_swapOutDone _ _ hm h0⟩
  | swapIn d => exact ⟨_, rfl, keeps_swapIn _ _ hm h0⟩
  | swapInDone slot => exact ⟨_, rfl, keeps_swapInDone _ _ hm h0⟩
  | syncNop d => exact ⟨_, rfl, keeps_syncNop _ _ h0⟩
  | syncAdd d => exact ⟨_, rfl, keeps_syncAdd _ _ hm h0⟩
  | syncWaitAll d => exact ⟨_, rfl, keeps_syncWaitAll _ _ h0⟩
  | syncPair d => exact ⟨_, rfl, keeps_syncPair _ _ hm h0⟩
  | syncUnpair d => exact ⟨_, rfl, keeps_syncUnpair _ _ hm h0⟩
  | syncRead d => exact ⟨_, rfl, keeps_syncRead _ _ hm h0⟩
  | signalAdd p c n => exact ⟨_, rfl, keeps_signalAdd _ _ _ _ hm h0⟩
  | remoteRead d => exact ⟨_, rfl, keeps_remoteRead _ _ hm h0⟩
  | remoteWrite d => exact ⟨_, rfl, keeps_remoteWrite _ _ hm h0⟩
  | remoteAtomic d => exact ⟨_, rfl, keeps_remoteAtomic _ _ hm h0⟩
  | remoteSignal d => exact ⟨_, rfl, keeps_remoteSignal _ _ hm h0⟩
  | winExport d => exact ⟨_, rfl, keeps_winExport _ _ hm h0⟩
  | winUnexport d => exact ⟨_, rfl, keeps_winUnexport _ _ hm h0⟩
  | winUnexportDone d => exact ⟨_, rfl, keeps_winUnexportDone _ _ hm h0⟩
  | winImport d => exact ⟨_, rfl, keeps_winImport _ _ hm h0⟩
  | winUnimport d => exact ⟨_, rfl, keeps_winUnimport _ _ hm h0⟩
  | sealIn d => exact ⟨_, rfl, keeps_sealIn _ _ hm h0⟩
  | sealOut d => exact ⟨_, rfl, keeps_sealOut _ _ hm h0⟩
  | kat d failing => exact ⟨_, rfl, keeps_kat _ _ _ hm h0⟩
  | repairRead d => exact ⟨_, rfl, keeps_repairRead _ _ h0⟩
  | rowRemap d => exact ⟨_, rfl, keeps_rowRemap _ _ hm h0⟩
  | ppr d fuseOk => exact ⟨_, rfl, keeps_ppr _ _ _ h0⟩
  | tap d => exact ⟨_, rfl, keeps_tap _ _ h0⟩
  | engineCtrl d => exact ⟨_, rfl, keeps_engineCtrl _ _ h0⟩
  | arrayRead d found => exact ⟨_, rfl, keeps_arrayRead _ _ _ hm h0⟩
  | scanDump d => exact ⟨_, rfl, keeps_scanDump _ _ h0⟩
  | memoryAccess r => exact ⟨_, rfl, keeps_memoryAccess _ _ hm h0⟩
  | scrubRead pa found => exact ⟨_, rfl, keeps_scrubRead _ _ _ hm h0⟩
  | scrubLag => exact ⟨_, rfl, keeps_scrubLag _ h0⟩
  | ceLeak => exact ⟨_, rfl, keeps_ceLeak _ h0⟩
  | grantReturn port cls res => exact ⟨_, rfl, keeps_grantReturn _ _ _ _ hm h0⟩
  | heldRequestRelease res => exact ⟨_, rfl, keeps_heldRequestRelease _ _ hm h0⟩
  | prefetchDrop req => exact ⟨_, rfl, keeps_prefetchDrop _ _ hm h0⟩
  | requestDeadlinePass req => exact ⟨_, rfl, keeps_requestDeadlinePass _ _ hm h0⟩
  | capacityRecompute res => exact ⟨_, rfl, keeps_capacityRecompute _ _ hm h0⟩
  | missInterval waited => exact ⟨_, rfl, keeps_missInterval _ _ hm h0⟩
  | guaranteeMissedWindow handle => exact ⟨_, rfl, keeps_guaranteeMissedWindow _ _ hm h0⟩
  | frameReceive bundle dir f => exact ⟨_, rfl, keeps_frameReceive _ _ _ _ hm h0⟩
  | laneRetire bundle dir lane => exact ⟨_, rfl, keeps_laneRetire _ _ _ _ hm h0⟩
  | liningMessage link seq prio crcOk payload => exact ⟨_, rfl, keeps_liningMessage _ _ _ _ _ _ hm h0⟩
  | dieLost die => exact ⟨_, rfl, keeps_dieLost _ _ hm h0⟩
  | dieResetInput die => exact ⟨_, rfl, keeps_dieResetInput _ _ hm h0⟩
  | dieBack die failing badSeasons => exact ⟨_, rfl, keeps_dieBack _ _ _ _ hm h0⟩
  | refclkLost tower => exact ⟨_, rfl, keeps_refclkLost _ _ hm h0⟩
  | refclkRestored tower => exact ⟨_, rfl, keeps_refclkRestored _ _ hm h0⟩
  | cuffRead tag window offset len => exact ⟨_, rfl, keeps_cuffRead _ _ _ _ _ hm h0⟩
  | cuffWrite tag window offset data => exact ⟨_, rfl, keeps_cuffWrite _ _ _ _ _ hm h0⟩
  | cuffSignal tag slot inc => exact ⟨_, rfl, keeps_cuffSignal _ _ _ _ hm h0⟩
  | cuffCread tag slot => exact ⟨_, rfl, keeps_cuffCread _ _ _ hm h0⟩
  | cuffWatch tag slot target => exact ⟨_, rfl, keeps_cuffWatch _ _ _ _ hm h0⟩
  | guestLinkDown => exact ⟨_, rfl, keeps_guestLinkDown _ hm h0⟩
  | flitReceive port f => exact ⟨_, rfl, keeps_flitReceive _ _ _ hm h0⟩
  | portTrainTimeout port => exact ⟨_, rfl, keeps_portTrainTimeout _ _ hm h0⟩
  | portTrainDone port => exact ⟨_, rfl, keeps_portTrainDone _ _ hm h0⟩
  | hello port version hash farPort nonce => exact ⟨_, rfl, keeps_hello _ _ _ _ _ _ hm h0⟩
  | auth port chain sig ecdh => exact ⟨_, rfl, keeps_auth _ _ _ _ _ hm h0⟩
  | topo port hash farPort ownerHash pkgState waves => exact ⟨_, rfl, keeps_topo _ _ _ _ _ _ _ hm h0⟩
  | keyReplace port dir => exact ⟨_, rfl, keeps_keyReplace _ _ _ hm h0⟩
  | ringRecalibrate port line ringOk => exact ⟨_, rfl, keeps_ringRecalibrate _ _ _ _ hm h0⟩
  | laserLineLow engine line => exact ⟨_, rfl, keeps_laserLineLow _ _ _ hm h0⟩
  | laserLineRestored engine line => exact ⟨_, rfl, keeps_laserLineRestored _ _ _ hm h0⟩
  | laserLost engine => exact ⟨_, rfl, keeps_laserLost _ _ hm h0⟩
  | wavelengthRetire port wave => exact ⟨_, rfl, keeps_wavelengthRetire _ _ _ hm h0⟩
  | rd port m => exact ⟨_, rfl, keeps_rd _ _ _ hm h0⟩
  | rdData port m => exact ⟨_, rfl, keeps_rdData _ _ _ hm h0⟩
  | wr port m => exact ⟨_, rfl, keeps_wr _ _ _ hm h0⟩
  | wrAck port m => exact ⟨_, rfl, keeps_wrAck _ _ _ hm h0⟩
  | atom port m => exact ⟨_, rfl, keeps_atom _ _ _ hm h0⟩
  | atomAck port m => exact ⟨_, rfl, keeps_atomAck _ _ _ hm h0⟩
  | sig port m => exact ⟨_, rfl, keeps_sig _ _ _ hm h0⟩
  | sigAck port m => exact ⟨_, rfl, keeps_sigAck _ _ _ hm h0⟩
  | impQ port m => exact ⟨_, rfl, keeps_impQ _ _ _ hm h0⟩
  | impR port m => exact ⟨_, rfl, keeps_impR _ _ _ hm h0⟩
  | rdResend req => exact ⟨_, rfl, keeps_rdResend _ _ hm h0⟩
  | remoteRetry req => exact ⟨_, rfl, keeps_remoteRetry _ _ hm h0⟩
  | neighbourLost hash => exact ⟨_, rfl, keeps_neighbourLost _ _ hm h0⟩
  | tdiLeaveRun vf => exact ⟨_, rfl, keeps_tdiLeaveRun _ _ hm h0⟩
  | getVersion path => exact ⟨_, rfl, keeps_getVersion _ _ h0⟩
  | getCapabilities path caps => exact ⟨_, rfl, keeps_getCapabilities _ _ _ h0⟩
  | negotiateAlgorithms path ecdsa384 sha384 secp384 aes256 => exact ⟨_, rfl, keeps_negotiateAlgorithms _ _ _ _ _ _ h0⟩
  | getDigests path => exact ⟨_, rfl, keeps_getDigests _ _ h0⟩
  | getCertificate path slot offset len => exact ⟨_, rfl, keeps_getCertificate _ _ _ _ _ h0⟩
  | challenge path slot nonce => exact ⟨_, rfl, keeps_challenge _ _ _ _ h0⟩
  | getMeasurements path index sign nonce => exact ⟨_, rfl, keeps_getMeasurements _ _ _ _ _ h0⟩
  | keyExchange path exchange => exact ⟨_, rfl, keeps_keyExchange _ _ _ h0⟩
  | finish path sig mac => exact ⟨_, rfl, keeps_finish _ _ _ _ h0⟩
  | keyUpdate path => exact ⟨_, rfl, keeps_keyUpdate _ _ h0⟩
  | heartbeat path => exact ⟨_, rfl, keeps_heartbeat _ _ h0⟩
  | endSession path => exact ⟨_, rfl, keeps_endSession _ _ hm h0⟩
  | vendorDefinedRequest path proto arg => exact ⟨_, rfl, keeps_vendorDefinedRequest _ _ _ _ hm h0⟩
  | getIdentity => exact ⟨_, rfl, keeps_getIdentity _ h0⟩
  | getState => exact ⟨_, rfl, keeps_getState _ h0⟩
  | getTelemetry => exact ⟨_, rfl, keeps_getTelemetry _ h0⟩
  | getLog fromSeq => exact ⟨_, rfl, keeps_getLog _ _ h0⟩
  | getLifetime => exact ⟨_, rfl, keeps_getLifetime _ h0⟩
  | sliceCopyDone core unreadable spareOk seasonOk => exact ⟨_, rfl, keeps_sliceCopyDone _ _ _ _ _ hm h0⟩
  | staleSpeaker site season => exact ⟨_, rfl, keeps_staleSpeaker _ _ _ h0⟩
  | spareTest site pass => exact ⟨_, rfl, keeps_spareTest _ _ _ h0⟩
  | mittenWatchdog => exact ⟨_, rfl, keeps_mittenWatchdog _ hm h0⟩
  | gauntletWatchdog => exact ⟨_, rfl, keeps_gauntletWatchdog _ h0⟩
  | thermalModelUpdate a b p => exact ⟨_, rfl, keeps_thermalModelUpdate _ _ _ _ hm h0⟩
  | thermalLimiterTick tower => exact ⟨_, rfl, keeps_thermalLimiterTick _ _ hm h0⟩
  | thermalCapCompute tower => exact ⟨_, rfl, keeps_thermalCapCompute _ _ hm h0⟩
  | offsetAdjust tower => exact ⟨_, rfl, keeps_offsetAdjust _ _ hm h0⟩
  | sensorCheck disagree agree => exact ⟨_, rfl, keeps_sensorCheck _ _ _ hm h0⟩
  | hostLimiterTick => exact ⟨_, rfl, keeps_hostLimiterTick _ hm h0⟩
  | almanacForecast tower hotLogic hotF idle => exact ⟨_, rfl, keeps_almanacForecast _ _ _ _ _ hm h0⟩
  | imonSample mvA mvB => exact ⟨_, rfl, keeps_imonSample _ _ _ hm h0⟩
  | coolantTimeout => exact ⟨_, rfl, keeps_coolantTimeout _ hm h0⟩
  | telemetryRefresh rateA rateB => exact ⟨_, rfl, keeps_telemetryRefresh _ _ _ hm h0⟩
  | energyRefresh energies => exact ⟨_, rfl, keeps_energyRefresh _ _ hm h0⟩
  | lifetimeHourly => exact ⟨_, rfl, keeps_lifetimeHourly _ hm h0⟩
  | ptmDialogue ok hostTime => exact ⟨_, rfl, keeps_ptmDialogue _ _ _ hm h0⟩
  | vaonApplied => exact ⟨_, rfl, keeps_vaonApplied _ hm h0⟩
  | pkgRstInput => exact ⟨_, rfl, keeps_pkgRstInput _ hm h0⟩
  | perst => exact ⟨_, rfl, keeps_perst _ hm h0⟩
  | bootMgmtDone badImages badCopies => exact ⟨_, rfl, keeps_bootMgmtDone _ _ _ hm h0⟩
  | bootNetDone answers => exact ⟨_, rfl, keeps_bootNetDone _ _ hm h0⟩
  | bootMemDone badRows badPcs trained silent => exact ⟨_, rfl, keeps_bootMemDone _ _ _ _ _ hm h0⟩
  | bootLinkDone badLanes lateEngines trained silent => exact ⟨_, rfl, keeps_bootLinkDone _ _ _ _ _ hm h0⟩
  | bootCoreDone failing badSeasons => exact ⟨_, rfl, keeps_bootCoreDone _ _ _ hm h0⟩
  | checkDone => exact ⟨_, rfl, keeps_checkDone _ hm h0⟩
  | bootPhaseLimit answers out => exact ⟨_, rfl, keeps_bootPhaseLimit _ _ _ hm h0⟩
  | powerGoodReturn group => exact ⟨_, rfl, keeps_powerGoodReturn _ _ hm h0⟩
  | powerGoodTimeout group => exact ⟨_, rfl, keeps_powerGoodTimeout _ _ hm h0⟩
  | powerGoodLost group => exact ⟨_, rfl, keeps_powerGoodLost _ _ hm h0⟩
  | vaonLost => exact ⟨_, rfl, keeps_vaonLost _ hm h0⟩
  | enableRetry => exact ⟨_, rfl, keeps_enableRetry _ hm h0⟩
  | qctlWriteBusy fn => exact ⟨_, rfl, keeps_qctlWriteBusy _ _ h0⟩
  | dbellConfigWrite fn offset size value => exact ⟨_, rfl, keeps_dbellConfigWrite _ _ _ _ _ h0⟩
  | logpControlWrite value => exact ⟨_, rfl, keeps_logpControlWrite _ _ h0⟩
  | setupLockWrite value => exact ⟨_, rfl, keeps_setupLockWrite _ _ hm h0⟩
  | bwMissClear fn part value => exact ⟨_, rfl, keeps_bwMissClear _ _ _ _ hm h0⟩
  | reg64LowRead fn offset => exact ⟨_, rfl, keeps_reg64LowRead _ _ _ h0⟩
  | registerWrite fn offset size value => exact ⟨_, rfl, keeps_registerWrite _ _ _ _ _ hm h0⟩
  | lossOfLight port => exact ⟨_, rfl, keeps_lossOfLight _ _ hm h0⟩
  | lightDetected port => exact ⟨_, rfl, keeps_lightDetected _ _ hm h0⟩
  | laserInputRestored engine => exact ⟨_, rfl, keeps_laserInputRestored _ _ hm h0⟩
  | guestLinkUp => exact ⟨_, rfl, keeps_guestLinkUp _ hm h0⟩
  | resetInputRelease input => exact ⟨_, rfl, keeps_resetInputRelease _ _ hm h0⟩
  | busMasterEnable fn on => exact ⟨_, rfl, keeps_busMasterEnable _ _ _ h0⟩
  | negotiatedWidthChange width => exact ⟨_, rfl, keeps_negotiatedWidthChange _ _ hm h0⟩
  | laneRecalibration bundle dir lane => exact ⟨_, rfl, keeps_laneRecalibration _ _ _ _ hm h0⟩

/-- The same, read off a next state. -/
theorem keeps_of_exec {K : Kept} {c : Instr} {s t : State} (h : exec c s = .next t) (hm : Sub (reach c) K) (h0 : Keeps K s) :
    Keeps K t := by
  obtain ⟨u, hu, hk⟩ := exec_keeps c s hm h0
  rw [hu] at h
  cases h
  exact hk

end Sys2Proof.Machine
end

