-- ==== Sys2Proof/Laws/Pages.lean ====
section
/-! SUPPORT. Writing within one mapped page of a partition's memory succeeds. -/

set_option maxRecDepth 10000
namespace Sys2Proof.Machine
/-- Whether two places are one place of the map up to an offset within a page. -/
theorem locate_page (pa i : Nat) (h : pa % 8192 = 0) (hi : i < 8192) :
    (∃ n off, locate pa = .slice n off ∧ locate (pa + i) = .slice n (off + i) ∧ off % 8192 = 0) ∨
    (∃ k off, locate pa = .stack k off ∧ locate (pa + i) = .stack k (off + i) ∧ off % 8192 = 0 ∧ (off + i) / 2 ^ 33 = off / 2 ^ 33) ∨
    (locate pa = .unbacked ∧ locate (pa + i) = .unbacked) := by
  unfold locate
  by_cases h1 : pa < 2 ^ 36
  · left
    rw [if_pos h1, if_pos (by omega)]
    exact ⟨_, _, rfl, by congr 1 <;> omega, by omega⟩
  · by_cases h2 : 2 ^ 38 ≤ pa ∧ pa < 2 ^ 38 + 8 * 2 ^ 37
    · right; left
      rw [if_neg h1, if_pos h2, if_neg (by omega), if_pos (by omega)]
      have e1 : (pa + i - 2 ^ 38) / 2 ^ 37 = (pa - 2 ^ 38) / 2 ^ 37 := by omega
      have e2 : (pa + i - 2 ^ 38) % 2 ^ 37 = (pa - 2 ^ 38) % 2 ^ 37 + i := by omega
      rw [e1, e2]
      exact ⟨_, _, rfl, rfl, by omega, by omega⟩
    · right; right
      rw [if_neg h1, if_neg h2, if_neg (by omega), if_neg (by omega)]
      exact ⟨rfl, rfl⟩
theorem stackLimit_page (s : State) (k : Nat) : stackLimit s k % 8192 = 0 := by
  unfold stackLimit stackSize
  generalize retiredIn s (0x8000 + k) = r
  split <;> omega
theorem frameOk_page (s : State) (p pa i : Nat) (a b c : Bool) (h : pa % 8192 = 0) (hi : i < 8192) : frameOk s p (pa + i) a b c = frameOk s p pa a b c := by
  have hf : frameNo (pa + i) = frameNo pa := by unfold frameNo; omega
  have hl := stackLimit_page s
  unfold frameOk pageRetired backed owns
  rw [hf]
  rcases locate_page pa i h hi with ⟨n, off, e1, e2, e3⟩ | ⟨k, off, e1, e2, e3, e4⟩ | ⟨e1, e2⟩
  · rw [e1, e2]
    dsimp only
    have : decide (off + i < sliceLimit s n) = decide (off < sliceLimit s n) := by
      unfold sliceLimit
      generalize retiredIn s n = r
      rw [decide_eq_decide]
      omega
    rw [this]
  · rw [e1, e2]
    dsimp only
    have e5 : decide (off + i < stackLimit s k) = decide (off < stackLimit s k) := by
      have := hl k
      rw [decide_eq_decide]
      omega
    unfold grainOf
    rw [e5, e4]
  · rw [e1, e2]
theorem walkFrom_page (s : State) (va i : Nat) (h : va % 8192 = 0) (hi : i < 8192) : ∀ (l t : Nat), l ≤ 2 → walkFrom s t (va + i) l = walkFrom s t va l
  | 0, t, _ => by
    have e : levelIdx (va + i) 0 = levelIdx va 0 := by unfold levelIdx levelBit; omega
    unfold walkFrom
    rw [e]
  | l + 1, t, hl => by
    have e : levelIdx (va + i) (l + 1) = levelIdx va (l + 1) := by
      unfold levelIdx levelBit
      obtain rfl | rfl : l = 0 ∨ l = 1 := by omega
      · omega
      · omega
    unfold walkFrom
    rw [e]
    dsimp only
    rw [walkFrom_page s va i h hi l _ (by omega)]
theorem inTowerB_page (pa i : Nat) (h : pa % 8192 = 0) (hi : i < 8192) : inTowerB (pa + i) = inTowerB pa := by
  unfold inTowerB
  rcases locate_page pa i h hi with ⟨n, off, e1, e2, e3⟩ | ⟨k, off, e1, e2, e3, e4⟩ | ⟨e1, e2⟩ <;> rw [e1, e2]
theorem walkFrom_level (s : State) (va : Nat) : ∀ (l t : Nat) (x : Nat × Nat), walkFrom s t va l = some x → x.2 ≤ l
  | 0, t, x, h => by
    unfold walkFrom at h
    generalize pnat s (t + 8 * levelIdx va 0) 8 = e at h
    dsimp only at h
    split at h
    · rw [← Option.some.inj h]
    · cases h
  | l + 1, t, x, h => by
    unfold walkFrom at h
    generalize pnat s (t + 8 * levelIdx va (l + 1)) 8 = e at h
    dsimp only at h
    split at h
    · cases h
    · split at h
      · exact Nat.le_succ_of_le (walkFrom_level s va l _ x h)
      · split at h
        · rw [← Option.some.inj h]
        · cases h
/-- A page of a partition's own range is translated as a whole. -/
theorem xlate_page (s : State) (p va pa i : Nat) (w : Bool) (h : xlate s p va = .ok (.loc pa w)) (hv : va % 8192 = 0) (hlib : inLibrary va = false)
    (hi : i < 8192) : xlate s p (va + i) = .ok (.loc (pa + i) w) := by
  have hlib2 : inLibrary (va + i) = false := by unfold inLibrary at *; rw [decide_eq_false_iff_not] at *; omega
  have h48 : decide (2 ^ 47 ≤ va + i) = decide (2 ^ 47 ≤ va) := by rw [decide_eq_decide]; omega
  have hroot : rootOf s p (va + i) = rootOf s p va := by
    unfold rootOf
    rw [show (va + i) / 2 ^ 43 = va / 2 ^ 43 by omega]
  have hleaf : leafOf s p (va + i) = leafOf s p va := by
    unfold leafOf
    rw [hlib, hlib2, hroot]
    dsimp only
    rw [walkFrom_page s va i hv hi 2 _ (Nat.le_refl _)]
    by_cases hh : 2 ^ 48 ≤ va
    · rw [if_pos hh, if_pos (by omega)]
    · rw [if_neg hh, if_neg (by omega)]
      simp only [Bool.false_eq_true, if_false]
  unfold xlate at h ⊢
  rw [hleaf]
  split at h
  · cases h
  · next e l hl =>
    have hl2 : l ≤ 2 := by
      unfold leafOf at hl
      split at hl
      · cases hl
      · rw [hlib] at hl
        dsimp only at hl
        simp only [Bool.false_eq_true, if_false] at hl
        split at hl
        · exact walkFrom_level s va 2 _ _ hl
        · cases hl
    dsimp only at h ⊢
    split at h
    · cases h
    · next hk =>
      rw [if_neg hk]
      have hm : (va + i) % 2 ^ levelBit l = va % 2 ^ levelBit l + i := by
        unfold levelBit
        obtain rfl | rfl | rfl : l = 0 ∨ l = 1 ∨ l = 2 := by omega
        · omega
        · omega
        · omega
      have hp : (pteFrame e + va % 2 ^ levelBit l) % 8192 = 0 := by
        unfold pteFrame levelBit
        obtain rfl | rfl | rfl : l = 0 ∨ l = 1 ∨ l = 2 := by omega
        · omega
        · omega
        · omega
      rw [hm, ← Nat.add_assoc, inTowerB_page _ i hp hi, frameOk_page s p _ i _ _ _ hp hi, h48, hlib2]
      rw [hlib] at h
      split at h
      · cases h
      · split at h
        · next h1 h2 =>
          rw [if_neg h1, if_pos h2]
          cases h; rfl
        · cases h
theorem seqE_ok {ε α β : Type} (f : α → Except ε β) : ∀ (l : List α), (∀ a ∈ l, ∃ b, f a = .ok b) → ∃ r, seqE (l.map f) = .ok r
  | [], _ => ⟨[], rfl⟩
  | a :: l, h => by
    obtain ⟨b, hb⟩ := h a List.mem_cons_self
    obtain ⟨r, hr⟩ := seqE_ok f l fun x hx => h x (List.mem_cons_of_mem _ hx)
    exact ⟨b :: r, by rw [List.map_cons, hb]; unfold seqE; rw [hr]⟩
theorem seqE_mem {ε α β : Type} (f : α → Except ε β) : ∀ (l : List α) (r : List β), seqE (l.map f) = .ok r → ∀ b ∈ r, ∃ a ∈ l, f a = .ok b
  | [], r, h, b, hb => by unfold seqE at h; cases h; cases hb
  | a :: l, r, h, b, hb => by
    rw [List.map_cons] at h
    cases hf : f a with
    | error e => rw [hf] at h; unfold seqE at h; cases h
    | ok x =>
      rw [hf] at h
      unfold seqE at h
      cases hs : seqE (l.map f) with
      | error e => rw [hs] at h; cases h
      | ok r' =>
        rw [hs] at h
        cases h
        rcases List.mem_cons.1 hb with rfl | hb
        · exact ⟨a, List.mem_cons_self, hf⟩
        · obtain ⟨y, hy, e⟩ := seqE_mem f l r' hs b hb
          exact ⟨y, List.mem_cons_of_mem _ hy, e⟩
/-- Nothing holds an access: no copy to a substitute, no test step, no window of a bank; and no codeword is poisoned. -/
abbrev Quiet (s : State) : Prop := s.mem.poison = [] ∧ s.flt.subst = [] ∧ s.hol.running = none ∧ s.mem.bank = []
theorem heldAt_quiet {s : State} (h : Quiet s) (p pa : Nat) : heldAt s p pa = false := by
  obtain ⟨-, h2, h3, h4⟩ := h
  have hc : underCopy s pa = false := by unfold underCopy; split <;> simp [h2]
  have ht : underTest s pa = false := by
    unfold underTest
    split
    · next e => rw [h3] at e; cases e
    · rfl
  have hb (k : Nat) : getBg s k = {} := by unfold getBg; rw [h4]; rfl
  have hw : windowHolds s pa = none := by
    unfold windowHolds pathBusy
    split
    · simp [hb]
    · rfl
  unfold heldAt
  rw [hc, ht, hw]
  rfl
/-- A write of bytes that are all local and writable, to places where nothing holds it, succeeds. -/
theorem vwrite_local (s : State) (cx : Cx) (va : Nat) (bs : List Byte)
    (h : ∀ i < bs.length, ∃ pa, xlate s cx.part (va + i) = .ok (.loc pa true) ∧ heldAt s cx.part pa = false) :
    ∃ t, vwrite s cx va bs = .ok t := by
  unfold vwrite
  generalize hg : ((List.range bs.length).map fun i => _) = l
  obtain ⟨r, hr⟩ : ∃ r, seqE l = .ok r := by
    rw [← hg]
    apply seqE_ok
    intro i hi
    obtain ⟨pa, hp, hh⟩ := h i (List.mem_range.1 hi)
    exact ⟨(i, some pa), by rw [hp]; simp [hh]⟩
  rw [hr]
  dsimp only
  have hn : (r.filterMap fun e => if e.2.isNone = true then some ((va + e.1) / 64) else none) = [] := by
    rw [List.filterMap_eq_nil_iff]
    intro b hb
    rw [← hg] at hr
    obtain ⟨i, hi, e⟩ := seqE_mem _ _ _ hr b hb
    obtain ⟨pa, hp, hh⟩ := h i (List.mem_range.1 hi)
    rw [hp] at e
    simp [hh] at e
    subst e
    rfl
  rw [hn]
  exact ⟨_, rfl⟩
/-- A read of local bytes from places where nothing holds it succeeds, poison as flagged zeros. -/
theorem vreadP_local (s : State) (cx : Cx) (va n : Nat)
    (h : ∀ i < n, ∃ pa w, xlate s cx.part (va + i) = .ok (.loc pa w) ∧ heldAt s cx.part pa = false) :
    ∃ t, vreadP s cx va n = .ok t := by
  unfold vreadP
  apply seqE_ok
  intro i hi
  obtain ⟨pa, w, hp, hh⟩ := h i (List.mem_range.1 hi)
  unfold vbyte
  rw [hp]
  simp only [hh, Bool.false_eq_true, if_false]
  cases poisoned s pa
  · exact ⟨_, rfl⟩
  · exact ⟨_, rfl⟩
/-- Reading n bytes within one mapped page of a quiet memory gives the page's bytes. -/
theorem vread_page (s : State) (cx : Cx) (va pa off n : Nat) (w : Bool) (h : xlate s cx.part va = .ok (.loc pa w)) (hv : va % 8192 = 0) (hlib : inLibrary va = false)
    (hn : off + n ≤ 8192) (hp : Quiet s) : vread s cx (va + off) n = .ok (mreadN s.mem.bytes (pa + off) n) := by
  have key : ∀ (l : List Nat), (∀ i ∈ l, off + i < 8192) →
      seqE (l.map fun i => vbyte s cx (va + off + i)) = .ok (l.map fun i => mread s.mem.bytes (pa + off + i)) := by
    intro l
    induction l with
    | nil => intro _; rfl
    | cons a l ih =>
      intro hl
      have hb : vbyte s cx (va + off + a) = .ok (mread s.mem.bytes (pa + off + a)) := by
        unfold vbyte
        rw [Nat.add_assoc, Nat.add_assoc, xlate_page s cx.part va pa (off + a) w h hv hlib (hl a List.mem_cons_self)]
        dsimp only
        rw [heldAt_quiet hp, if_neg Bool.false_ne_true, if_neg (by unfold poisoned; rw [hp.1]; simp)]
      rw [List.map_cons, hb]
      unfold seqE
      rw [ih fun i hi => hl i (List.mem_cons_of_mem _ hi)]
      rfl
  unfold vread mreadN
  exact key _ fun i hi => by have := List.mem_range.1 hi; omega
/-- A record within such a page. -/
theorem recordIn_page (s : State) (cx : Cx) (va pa off n al : Nat) (w : Bool) (h : xlate s cx.part va = .ok (.loc pa w)) (hv : va % 8192 = 0) (hlib : inLibrary va = false)
    (hn : off + n ≤ 8192) (hp : Quiet s) (hr : ¬ (2 ^ 47 ≤ va + off ∧ va + off < 2 ^ 48)) (ha : ¬ (va + off = 0 ∨ (va + off) % al ≠ 0)) :
    recordIn s cx (va + off) n al = .ok (mreadN s.mem.bytes (pa + off) n) := by
  unfold recordIn recordAt
  rw [if_neg hr, if_neg ha, vread_page s cx va pa off n w h hv hlib hn hp]
/-- A tensor operand whose record lies within such a page. -/
theorem operand_page (s : State) (cx : Cx) (va pa off : Nat) (w : Bool) (t : Tensor) (h : xlate s cx.part va = .ok (.loc pa w)) (hv : va % 8192 = 0) (hlib : inLibrary va = false)
    (hn : off + 64 ≤ 8192) (hp : Quiet s) (hr : ¬ (2 ^ 47 ≤ va + off ∧ va + off < 2 ^ 48)) (ha : ¬ (va + off = 0 ∨ (va + off) % 64 ≠ 0))
    (ht : (parseTensor (mreadN s.mem.bytes (pa + off) 64)).bind (·.withRows cx.rows) = some t)
    (hq : ¬ (t.inSeq = true ∨ (isMx t.fmt = true ∧ 2 ^ 47 ≤ t.scale + t.scaleBytes - 1))) : operand s cx (va + off) = .ok t := by
  unfold operand tensorAt recordAt
  rw [if_neg hr, if_neg ha, vread_page s cx va pa off 64 w h hv hlib hn hp]
  dsimp only
  rw [ht]
  dsimp only
  rw [if_neg hq]
end Sys2Proof.Machine
end

