-- ==== Sys2Proof/Laws/Ops.lean ====
section
/-! SUPPORT. The shared shape of an operation, said once each: when it runs, when no refusal stops it, and what its ending
shows. -/

namespace Sys2Proof.Machine

variable {s t : State} {d op : Nat} {f : Flight}

/-- An operation whose descriptor has started runs. -/
theorem withOp_run (h : Runs s d op f) (k : Flight → State) : withOp s d op k = k f := by
  obtain ⟨h1, h2, h3⟩ := h
  unfold withOp
  rw [h1]
  simp [h2, h3]

/-- The same through Gauntlet's mailbox, while its watchdog has not expired. -/
theorem withGnt_run (h : Runs s d op f) (hg : s.mgmt.gauntletWdt = false) (k : Flight → State) :
    withGnt s d op k = k f := by
  unfold withGnt
  rw [hg]
  exact withOp_run h k

/-- No reason applies, so none is reported. -/
theorem firstRefusal_none {l : List (Nat × Bool)} (h : (l.all fun e => !e.2) = true) : firstRefusal l = none := by
  rw [List.all_eq_true] at h
  unfold firstRefusal
  rw [List.find?_eq_none]
  intro r _
  rw [Bool.not_eq_true, List.any_eq_false]
  intro e he
  have := h e he
  simp at this
  simp [this]

/-- With no reason that applies, the command goes on. -/
theorem refuseIf_pass {l : List (Nat × Bool)} (h : (l.all fun e => !e.2) = true) (k : State) : refuseIf s d l k = k := by
  unfold refuseIf
  rw [firstRefusal_none h]

/-- What the ending of a held descriptor shows. -/
theorem hasStatus_endF (h : getF s d = some f) (st e : Nat) : HasStatus (endF s d st e) d st (min e 0x0FFFFFFF) := by
  unfold HasStatus
  rw [getF_endF s d st e f h]
  rfl

/-- The same, with an extra field that does not saturate. -/
theorem hasStatus_endF' (h : getF s d = some f) (st e : Nat) (he : e ≤ 0x0FFFFFFF) : HasStatus (endF s d st e) d st e := by
  have := hasStatus_endF h st e
  rwa [Nat.min_eq_left he] at this

end Sys2Proof.Machine
end

