-- ==== Sys2Proof/Laws/From.lean ====
section
/-! SUPPORT. For each operation, what it keeps of the very state it is given (no premise left to discharge): the provers
read a field of the state after an operation off these. -/

set_option maxHeartbeats 1000000
namespace Sys2Proof.Machine
theorem putF_K (s : State) (d : Nat) (f : Flight) : Keeps ⟨false, s.guestSite, s.pending, 0, s⟩ (putF s d f) :=
  keeps_putF s d f (Keeps.start _ _)
theorem delF_K (s : State) (d : Nat) : Keeps ⟨false, s.guestSite, s.pending, 0, s⟩ (delF s d) :=
  keeps_delF s d (Keeps.start _ _)
theorem endF_K (s : State) (d : Nat) (st : Nat) (extra : Nat) : Keeps ⟨false, s.guestSite, s.pending, 0, s⟩ (endF s d st extra) :=
  keeps_endF s d st extra (Keeps.start _ _)
theorem refuseF_K (s : State) (d : Nat) (r : Nat) : Keeps ⟨false, s.guestSite, s.pending, 0, s⟩ (refuseF s d r) :=
  keeps_refuseF s d r (Keeps.start _ _)
theorem takeByte_K (s : State) : Keeps ⟨false, s.guestSite, s.pending, 0, s⟩ (takeByte s).2 :=
  keeps_takeByte s (Keeps.start _ _)
theorem takeNat_K (s : State) : Keeps ⟨false, s.guestSite, s.pending, 0, s⟩ (takeNat s).2 :=
  keeps_takeNat s (Keeps.start _ _)
theorem takeBytes_K (s : State) (n : Nat) : Keeps ⟨false, s.guestSite, s.pending, 0, s⟩ (takeBytes s n).2 :=
  keeps_takeBytes s n (Keeps.start _ _)
theorem putFn_K (s : State) (fn : Nat) (x : FnState) : Keeps ⟨false, s.guestSite, s.pending, 0, s⟩ (putFn s fn x) :=
  keeps_putFn s fn x (Keeps.start _ _)
theorem putQ_K (s : State) (q : Nat) (x : QCtx) : Keeps ⟨false, s.guestSite, s.pending, 0, s⟩ (putQ s q x) :=
  keeps_putQ s q x (Keeps.start _ _)
theorem putP_K (s : State) (p : Nat) (x : Part) : Keeps ⟨false, s.guestSite, s.pending, 524288, s⟩ (putP s p x) :=
  keeps_putP s p x (Sub.of (by decide)) (Keeps.start _ _)
theorem putSlot_K (s : State) (i : Nat) (x : Slot) : Keeps ⟨false, s.guestSite, s.pending, 8, s⟩ (putSlot s i x) :=
  keeps_putSlot s i x (Sub.of (by decide)) (Keeps.start _ _)
theorem putPool_K (s : State) (p : Nat) (x : Pool) : Keeps ⟨false, s.guestSite, s.pending, 8, s⟩ (putPool s p x) :=
  keeps_putPool s p x (Sub.of (by decide)) (Keeps.start _ _)
theorem putPort_K (s : State) (p : Nat) (x : Port) : Keeps ⟨false, s.guestSite, s.pending, 1048576, s⟩ (putPort s p x) :=
  keeps_putPort s p x (Sub.of (by decide)) (Keeps.start _ _)
theorem putCore_K (s : State) (c : Nat) (x : CoreSt) : Keeps ⟨false, s.guestSite, s.pending, 0, s⟩ (putCore s c x) :=
  keeps_putCore s c x (Keeps.start _ _)
theorem putBind_K (s : State) (c : Nat) (x : Binding) : Keeps ⟨false, s.guestSite, s.pending, 65536, s⟩ (putBind s c x) :=
  keeps_putBind s c x (Sub.of (by decide)) (Keeps.start _ _)
theorem putSite_K (s : State) (c : Nat) (x : Site) : Keeps ⟨false, s.guestSite, s.pending, 0, s⟩ (putSite s c x) :=
  keeps_putSite s c x (Keeps.start _ _)
theorem putBundle_K (s : State) (b : Nat) (x : Bundle) : Keeps ⟨false, s.guestSite, s.pending, 262144, s⟩ (putBundle s b x) :=
  keeps_putBundle s b x (Sub.of (by decide)) (Keeps.start _ _)
theorem putKeys_K (s : State) (p : Nat) (x : PartKeys) : Keeps ⟨false, s.guestSite, s.pending, 128, s⟩ (putKeys s p x) :=
  keeps_putKeys s p x (Sub.of (by decide)) (Keeps.start _ _)
theorem putRec_K (s : State) (i : Nat) (x : Rec) : Keeps ⟨false, s.guestSite, s.pending, 2097152, s⟩ (putRec s i x) :=
  keeps_putRec s i x (Sub.of (by decide)) (Keeps.start _ _)
theorem putStored_K (s : State) (i : Nat) : Keeps ⟨false, s.guestSite, s.pending, 2097152, s⟩ (putStored s i) :=
  keeps_putStored s i (Sub.of (by decide)) (Keeps.start _ _)
theorem putOlder_K (s : State) (f : Older → Older) : Keeps ⟨false, s.guestSite, s.pending, 0, s⟩ (putOlder s f) :=
  keeps_putOlder s f (Keeps.start _ _)
theorem putFw_K (s : State) (i : Nat) (x : FwType) : Keeps ⟨false, s.guestSite, s.pending, 2048, s⟩ (putFw s i x) :=
  keeps_putFw s i x (Sub.of (by decide)) (Keeps.start _ _)
theorem putTower_K (s : State) (t : Nat) (x : Tower) : Keeps ⟨false, s.guestSite, s.pending, 8192, s⟩ (putTower s t x) :=
  keeps_putTower s t x (Sub.of (by decide)) (Keeps.start _ _)
theorem latch_K (s : State) (scope : Nat) (source : Nat) (detail : List Nat) : Keeps ⟨false, s.guestSite, s.pending, 0, s⟩ (latch s scope source detail) :=
  keeps_latch s scope source detail (Keeps.start _ _)
theorem equinox_K (s : State) (scope : Nat) (source : Nat) (detail : List Nat) : Keeps ⟨false, s.guestSite, s.pending, 0, s⟩ (equinox s scope source detail) :=
  keeps_equinox s scope source detail (Keeps.start _ _)
theorem ringWrite_K (s : State) (r : LogRec) : Keeps ⟨false, s.guestSite, s.pending, 0, s⟩ (ringWrite s r) :=
  keeps_ringWrite s r (Keeps.start _ _)
theorem ringDrain_K (s : State) : Keeps ⟨false, s.guestSite, s.pending, 0, s⟩ (ringDrain s) :=
  keeps_ringDrain s (Keeps.start _ _)
theorem deliver_K (s : State) (r : LogRec) : Keeps ⟨false, s.guestSite, s.pending, 0, s⟩ (deliver s r) :=
  keeps_deliver s r (Keeps.start _ _)
theorem appendRec_K (s : State) (r0 : LogRec) : Keeps ⟨false, s.guestSite, s.pending, 0, s⟩ (appendRec s r0) :=
  keeps_appendRec s r0 (Keeps.start _ _)
theorem emit_K (s : State) (cls : Nat) (ev : Nat) (w : Who) (payload : List PField) : Keeps ⟨false, s.guestSite, s.pending, 0, s⟩ (emit s cls ev w payload) :=
  keeps_emit s cls ev w payload (Keeps.start _ _)
theorem appendHeld_K (s : State) : Keeps ⟨false, s.guestSite, s.pending, 0, s⟩ (appendHeld s) :=
  keeps_appendHeld s (Keeps.start _ _)
theorem claimGrain_K (s : State) (p : Nat) (pa : Nat) : Keeps ⟨false, s.guestSite, s.pending, 0, s⟩ (claimGrain s p pa) :=
  keeps_claimGrain s p pa (Keeps.start _ _)
theorem pwritePoison_K (s : State) (c : Nat) : Keeps ⟨false, s.guestSite, s.pending, 2, s⟩ (pwritePoison s c) :=
  keeps_pwritePoison s c (Sub.of (by decide)) (Keeps.start _ _)
theorem noteBehind_K (s : State) (line : Nat) : Keeps ⟨false, s.guestSite, s.pending, 0, s⟩ (noteBehind s line) :=
  keeps_noteBehind s line (Keeps.start _ _)
theorem writeBack_K (s : State) (t : Nat → Sector → Bool) : Keeps ⟨false, s.guestSite, s.pending, 0, s⟩ (writeBack s t) :=
  keeps_writeBack s t (Keeps.start _ _)
theorem loseDirty_K (s : State) (t : Nat → Sector → Bool) : Keeps ⟨false, s.guestSite, s.pending, 3, s⟩ (loseDirty s t) :=
  keeps_loseDirty s t (Sub.of (by decide)) (Keeps.start _ _)
theorem undefineLine_K (s : State) (line : Nat) : Keeps ⟨false, s.guestSite, s.pending, 3, s⟩ (undefineLine s line) :=
  keeps_undefineLine s line (Sub.of (by decide)) (Keeps.start _ _)
theorem touchWay_K (s : State) (t : Nat) (p : Nat) (blk : Nat) (w : Nat) : Keeps ⟨false, s.guestSite, s.pending, 0, s⟩ (touchWay s t p blk w) :=
  keeps_touchWay s t p blk w (Keeps.start _ _)
theorem allocate_K (s : State) (t : Nat) (p : Nat) (blk : Nat) (valid : Nat) (dirty : Nat) (keep : Bool) : Keeps ⟨false, s.guestSite, s.pending, 0, s⟩ (allocate s t p blk valid dirty keep) :=
  keeps_allocate s t p blk valid dirty keep (Keeps.start _ _)
theorem cacheLine_K (s0 : State) (p : Nat) (pa : Nat) (write : Bool) (hint0 : Nat) : Keeps ⟨false, s0.guestSite, s0.pending, 0, s0⟩ (cacheLine s0 p pa write hint0).1 :=
  keeps_cacheLine s0 p pa write hint0 (Keeps.start _ _)
theorem putBg_K (s : State) (key : Nat) (x : BankGroup) : Keeps ⟨false, s.guestSite, s.pending, 0, s⟩ (putBg s key x) :=
  keeps_putBg s key x (Keeps.start _ _)
theorem sendPair_K (s : State) (p : Nat) (a : FlitBody) (b : FlitBody) : Keeps ⟨false, s.guestSite, s.pending, 1048576, s⟩ (sendPair s p a b) :=
  keeps_sendPair s p a b (Sub.of (by decide)) (Keeps.start _ _)
theorem sendFlits_K (s : State) (p : Nat) (l : List FlitBody) : Keeps ⟨false, s.guestSite, s.pending, 1048576, s⟩ (sendFlits s p l) :=
  keeps_sendFlits s p l (Sub.of (by decide)) (Keeps.start _ _)
theorem resendFlits_K (s : State) (p : Nat) : Keeps ⟨false, s.guestSite, s.pending, 1048576, s⟩ (resendFlits s p) :=
  keeps_resendFlits s p (Sub.of (by decide)) (Keeps.start _ _)
theorem putOn_K (s : State) (p : Nat) (m : RemMsg) : Keeps ⟨false, s.guestSite, s.pending, 1048576, s⟩ (putOn s p m) :=
  keeps_putOn s p m (Sub.of (by decide)) (Keeps.start _ _)
theorem trySend_K (s : State) (n : Nat) : Keeps ⟨false, s.guestSite, s.pending, 1048576, s⟩ (trySend s n) :=
  keeps_trySend s n (Sub.of (by decide)) (Keeps.start _ _)
theorem request_K (s : State) (desc : Nat) (p : Nat) (slot : Nat) (type : Nat) (cls : Nat) (kind : Nat) (local_ : Nat) (offset : Nat) (op : Nat) (format : Nat) (increment : Nat) (data : List Byte) (status : optParam Nat 0) : Keeps ⟨false, s.guestSite, s.pending, 1048576, s⟩ (request s desc p slot type cls kind local_ offset op format increment data status) :=
  keeps_request s desc p slot type cls kind local_ offset op format increment data status (Sub.of (by decide)) (Keeps.start _ _)
theorem stopWith_K (s : State) (d : Nat) (x : Stop) (extra : optParam Nat 0) : Keeps ⟨false, s.guestSite, s.pending, 1048584, s⟩ (stopWith s d x extra) :=
  keeps_stopWith s d x extra (Sub.of (by decide)) (Keeps.start _ _)
theorem touchRead_K (s : State) (cx : Cx) (t : Tensor) : Keeps ⟨false, s.guestSite, s.pending, 3, s⟩ (touchRead s cx t) :=
  keeps_touchRead s cx t (Sub.of (by decide)) (Keeps.start _ _)
theorem counterTrigger_K (s : State) (p : Nat) (c : Nat) : Keeps ⟨false, s.guestSite, s.pending, 0, s⟩ (counterTrigger s p c) :=
  keeps_counterTrigger s p c (Keeps.start _ _)
theorem notifyWatches_K (s : State) (p : Nat) (c : Nat) : Keeps ⟨false, s.guestSite, s.pending, 16384, s⟩ (notifyWatches s p c) :=
  keeps_notifyWatches s p c (Sub.of (by decide)) (Keeps.start _ _)
theorem addCounter_K (s : State) (p : Nat) (c : Nat) (n : Nat) (by_ : Option Nat) : Keeps ⟨false, s.guestSite, s.pending, 540688, s⟩ (addCounter s p c n by_).1 :=
  keeps_addCounter s p c n by_ (Sub.of (by decide)) (Keeps.start _ _)
theorem headerSignal_K (s : State) (d : Nat) (f : Flight) : Keeps ⟨false, s.guestSite, s.pending, 540688, s⟩ (headerSignal s d f) :=
  keeps_headerSignal s d f (Sub.of (by decide)) (Keeps.start _ _)
theorem freeTable_K (s : State) (p : Nat) (table : Nat) : Keeps ⟨false, s.guestSite, s.pending, 0, s⟩ (freeTable s p table) :=
  keeps_freeTable s p table (Keeps.start _ _)
theorem putPte_K (s : State) (table : Nat) (va : Nat) (l : Nat) (e : Nat) : Keeps ⟨false, s.guestSite, s.pending, 3, s⟩ (putPte s table va l e) :=
  keeps_putPte s table va l e (Sub.of (by decide)) (Keeps.start _ _)
theorem clearLeaf_K (s : State) (p : Nat) (va : Nat) (table : Nat) (a4 : Nat) : Keeps ⟨false, s.guestSite, s.pending, 3, s⟩ (clearLeaf s p va table a4) :=
  keeps_clearLeaf s p va table a4 (Sub.of (by decide)) (Keeps.start _ _)
theorem dropTlb_K (s : State) (p : Nat) (vpn : Nat) : Keeps ⟨false, s.guestSite, s.pending, 0, s⟩ (dropTlb s p vpn) :=
  keeps_dropTlb s p vpn (Keeps.start _ _)
theorem unmapLeaf_K (s : State) (p : Nat) (va : Nat) : Keeps ⟨false, s.guestSite, s.pending, 7, s⟩ (unmapLeaf s p va) :=
  keeps_unmapLeaf s p va (Sub.of (by decide)) (Keeps.start _ _)
theorem reportRange_K (s : State) (lo : Nat) (hi : Nat) : Keeps ⟨false, s.guestSite, s.pending, 0, s⟩ (reportRange s lo hi) :=
  keeps_reportRange s lo hi (Keeps.start _ _)
theorem setFrame_K (s : State) (p : Nat) (i : Nat) (x : KvFrame) : Keeps ⟨false, s.guestSite, s.pending, 8, s⟩ (setFrame s p i x) :=
  keeps_setFrame s p i x (Sub.of (by decide)) (Keeps.start _ _)
theorem watermarks_K (s : State) (p : Nat) : Keeps ⟨false, s.guestSite, s.pending, 8, s⟩ (watermarks s p) :=
  keeps_watermarks s p (Sub.of (by decide)) (Keeps.start _ _)
theorem takeFrame_K (s : State) (p : Nat) (i : Nat) : Keeps ⟨false, s.guestSite, s.pending, 11, s⟩ (takeFrame s p i) :=
  keeps_takeFrame s p i (Sub.of (by decide)) (Keeps.start _ _)
theorem derefFrame_K (s : State) (p : Nat) (i : Nat) : Keeps ⟨false, s.guestSite, s.pending, 8, s⟩ (derefFrame s p i) :=
  keeps_derefFrame s p i (Sub.of (by decide)) (Keeps.start _ _)
theorem putScore_K (s : State) (p : Nat) (slot : Nat) (key : Nat) (v : Nat) : Keeps ⟨false, s.guestSite, s.pending, 3, s⟩ (putScore s p slot key v) :=
  keeps_putScore s p slot key v (Sub.of (by decide)) (Keeps.start _ _)
theorem unmapThin_K (s : State) (p : Nat) (slot : Nat) (tp : Nat) : Keeps ⟨false, s.guestSite, s.pending, 15, s⟩ (unmapThin s p slot tp) :=
  keeps_unmapThin s p slot tp (Sub.of (by decide)) (Keeps.start _ _)
theorem unmapPage_K (s : State) (p : Nat) (slot : Nat) (key : Nat) : Keeps ⟨false, s.guestSite, s.pending, 15, s⟩ (unmapPage s p slot key) :=
  keeps_unmapPage s p slot key (Sub.of (by decide)) (Keeps.start _ _)
theorem copyFrame_K (s : State) (src : Nat) (dst : Nat) (n : Nat) : Keeps ⟨false, s.guestSite, s.pending, 3, s⟩ (copyFrame s src dst n).1 :=
  keeps_copyFrame s src dst n (Sub.of (by decide)) (Keeps.start _ _)
theorem fillFrame_K (s : State) (cx : Cx) (i : Nat) (bs : List (Byte × Bool)) : Keeps ⟨false, s.guestSite, s.pending, 1048579, s⟩ (fillFrame s cx i bs) :=
  keeps_fillFrame s cx i bs (Sub.of (by decide)) (Keeps.start _ _)
theorem markEve_K (s : State) (p : Nat) (i : Nat) (e : Bool) : Keeps ⟨false, s.guestSite, s.pending, 8, s⟩ (markEve s p i e) :=
  keeps_markEve s p i e (Sub.of (by decide)) (Keeps.start _ _)
theorem readyPage_K (s : State) (cx : Cx) (slot : Nat) (key : Nat) (n : Nat) : Keeps ⟨false, s.guestSite, s.pending, 1048591, s⟩ (readyPage s cx slot key n).1 :=
  keeps_readyPage s cx slot key n (Sub.of (by decide)) (Keeps.start _ _)
theorem writeEntry_K (s : State) (cx : Cx) (slot : Nat) (l : Nat) (pos : Nat) (bs : List Byte) : Keeps ⟨false, s.guestSite, s.pending, 1048591, s⟩ (writeEntry s cx slot l pos bs).1 :=
  keeps_writeEntry s cx slot l pos bs (Sub.of (by decide)) (Keeps.start _ _)
theorem appendEntries_K (s : State) (cx : Cx) (slot : Nat) (l : Nat) (a4 : List (List Byte)) : Keeps ⟨false, s.guestSite, s.pending, 1048591, s⟩ (appendEntries s cx slot l a4).1 :=
  keeps_appendEntries s cx slot l a4 (Sub.of (by decide)) (Keeps.start _ _)
theorem trimPages_K (s : State) (p : Nat) (slot : Nat) (len : Nat) : Keeps ⟨false, s.guestSite, s.pending, 15, s⟩ (trimPages s p slot len) :=
  keeps_trimPages s p slot len (Sub.of (by decide)) (Keeps.start _ _)
theorem unstage_K (s : State) (cx : Cx) (slot : Nat) (len : Nat) (commit : Bool) (key : Nat) : Keeps ⟨false, s.guestSite, s.pending, 1048591, s⟩ (unstage s cx slot len commit key) :=
  keeps_unstage s cx slot len commit key (Sub.of (by decide)) (Keeps.start _ _)
theorem thinCommit_K (s : State) (p : Nat) (slot : Nat) : Keeps ⟨false, s.guestSite, s.pending, 15, s⟩ (thinCommit s p slot) :=
  keeps_thinCommit s p slot (Sub.of (by decide)) (Keeps.start _ _)
theorem deadEntries_K (s : State) (p : Nat) (slot : Nat) (l : Nat) (lo : Nat) (hi : Nat) : Keeps ⟨false, s.guestSite, s.pending, 3, s⟩ (deadEntries s p slot l lo hi) :=
  keeps_deadEntries s p slot l lo hi (Sub.of (by decide)) (Keeps.start _ _)
theorem endSequence_K (s : State) (cx : Cx) (slot : Nat) (len : Nat) (commit : Bool) : Keeps ⟨false, s.guestSite, s.pending, 1048591, s⟩ (endSequence s cx slot len commit) :=
  keeps_endSequence s cx slot len commit (Sub.of (by decide)) (Keeps.start _ _)
theorem rollbackStep_K (s : State) (part : Nat) (d : Nat) : Keeps ⟨false, s.guestSite, s.pending, 1048591, s⟩ (rollbackStep s part d) :=
  keeps_rollbackStep s part d (Sub.of (by decide)) (Keeps.start _ _)
theorem resetKv_K (s : State) (p : Nat) : Keeps ⟨false, s.guestSite, s.pending, 15, s⟩ (resetKv s p) :=
  keeps_resetKv s p (Sub.of (by decide)) (Keeps.start _ _)
theorem markCopy_K (s : State) (p : Nat) (slot : Nat) (copying : Bool) : Keeps ⟨false, s.guestSite, s.pending, 8, s⟩ (markCopy s p slot copying) :=
  keeps_markCopy s p slot copying (Sub.of (by decide)) (Keeps.start _ _)
theorem readRemotePages_K (s : State) (p : Nat) (slot : Nat) : Keeps ⟨false, s.guestSite, s.pending, 1048576, s⟩ (readRemotePages s p slot) :=
  keeps_readRemotePages s p slot (Sub.of (by decide)) (Keeps.start _ _)
theorem startSwap_K (s : State) (p : Nat) (slot : Nat) (by_ : Option Nat) (hostOnly : Bool) : Keeps ⟨false, s.guestSite, s.pending, 1048584, s⟩ (startSwap s p slot by_ hostOnly).1 :=
  keeps_startSwap s p slot by_ hostOnly (Sub.of (by decide)) (Keeps.start _ _)
theorem dropSwapOut_K (s : State) (slot : Nat) : Keeps ⟨false, s.guestSite, s.pending, 1048576, s⟩ (dropSwapOut s slot) :=
  keeps_dropSwapOut s slot (Sub.of (by decide)) (Keeps.start _ _)
theorem freeImage_K (s : State) (p : Nat) (slot : Nat) : Keeps ⟨false, s.guestSite, s.pending, 8, s⟩ (freeImage s p slot) :=
  keeps_freeImage s p slot (Sub.of (by decide)) (Keeps.start _ _)
theorem swapReopen_K (s : State) (p : Nat) (slot : Nat) : Keeps ⟨false, s.guestSite, s.pending, 1048584, s⟩ (swapReopen s p slot) :=
  keeps_swapReopen s p slot (Sub.of (by decide)) (Keeps.start _ _)
theorem swapBack_K (s : State) (p : Nat) (slot : Nat) : Keeps ⟨false, s.guestSite, s.pending, 1048584, s⟩ (swapBack s p slot) :=
  keeps_swapBack s p slot (Sub.of (by decide)) (Keeps.start _ _)
theorem swapInBack_K (s : State) (p : Nat) (slot : Nat) : Keeps ⟨false, s.guestSite, s.pending, 15, s⟩ (swapInBack s p slot) :=
  keeps_swapInBack s p slot (Sub.of (by decide)) (Keeps.start _ _)
theorem writeImage_K (s : State) (p : Nat) (slot : Nat) : Keeps ⟨false, s.guestSite, s.pending, 1048584, s⟩ (writeImage s p slot) :=
  keeps_writeImage s p slot (Sub.of (by decide)) (Keeps.start _ _)
theorem swapAway_K (s : State) (p : Nat) (slot : Nat) : Keeps ⟨false, s.guestSite, s.pending, 15, s⟩ (swapAway s p slot) :=
  keeps_swapAway s p slot (Sub.of (by decide)) (Keeps.start _ _)
theorem preemptGo_K (p : Nat) (goal : Nat) (a2 : Nat) (a3 : State) (a4 : Nat) (a5 : List Nat) : Keeps ⟨false, a3.guestSite, a3.pending, 1048584, a3⟩ (preemptGo p goal a2 a3 a4 a5).1 :=
  keeps_preemptGo p goal a2 a3 a4 a5 (Sub.of (by decide)) (Keeps.start _ _)
theorem preempt_K (s : State) (p : Nat) (needs : List Nat) (table : Bool) : Keeps ⟨false, s.guestSite, s.pending, 1048584, s⟩ (preempt s p needs table).1 :=
  keeps_preempt s p needs table (Sub.of (by decide)) (Keeps.start _ _)
theorem unstop_K (s : State) (p : Nat) (d : Nat) : Keeps ⟨false, s.guestSite, s.pending, 8, s⟩ (unstop s p d) :=
  keeps_unstop s p d (Sub.of (by decide)) (Keeps.start _ _)
theorem leaveBacking_K (s : State) (x : Pool) : Keeps ⟨false, s.guestSite, s.pending, 3, s⟩ (leaveBacking s x) :=
  keeps_leaveBacking s x (Sub.of (by decide)) (Keeps.start _ _)
theorem recompute_K (s : State) (r : Nat) : Keeps ⟨false, s.guestSite, s.pending, 32768, s⟩ (recompute s r) :=
  keeps_recompute s r (Sub.of (by decide)) (Keeps.start _ _)
theorem recap_K (s : State) (r : Nat) : Keeps ⟨false, s.guestSite, s.pending, 32768, s⟩ (recap s r) :=
  keeps_recap s r (Sub.of (by decide)) (Keeps.start _ _)
theorem nearWord_K (s : State) (ch : Chain) (t : NearSet) (w : NearWord) : Keeps ⟨false, s.guestSite, s.pending, 3, s⟩ (nearWord s ch t w).1 :=
  keeps_nearWord s ch t w (Sub.of (by decide)) (Keeps.start _ _)
theorem cleanBlocks_K (s : State) (blks : List Nat) : Keeps ⟨false, s.guestSite, s.pending, 0, s⟩ (cleanBlocks s blks) :=
  keeps_cleanBlocks s blks (Keeps.start _ _)
theorem dropBlocks_K (s : State) (blks : List Nat) : Keeps ⟨false, s.guestSite, s.pending, 0, s⟩ (dropBlocks s blks) :=
  keeps_dropBlocks s blks (Keeps.start _ _)
theorem nearDrain_K (s : State) (d : Nat) (ws : List NearWord) : Keeps ⟨false, s.guestSite, s.pending, 3, s⟩ (nearDrain s d ws) :=
  keeps_nearDrain s d ws (Sub.of (by decide)) (Keeps.start _ _)
theorem shutGroup_K (s : State) (key : Nat) : Keeps ⟨false, s.guestSite, s.pending, 0, s⟩ (shutGroup s key) :=
  keeps_shutGroup s key (Keeps.start _ _)
theorem shutWindows_K (s : State) (d : Nat) : Keeps ⟨false, s.guestSite, s.pending, 3, s⟩ (shutWindows s d) :=
  keeps_shutWindows s d (Sub.of (by decide)) (Keeps.start _ _)
theorem cleanF_K (s : State) (d : Nat) : Keeps ⟨false, s.guestSite, s.pending, 1048623, s⟩ (cleanF s d) :=
  keeps_cleanF s d (Sub.of (by decide)) (Keeps.start _ _)
theorem dropChildren_K (s : State) (k : Nat) : Keeps ⟨false, s.guestSite, s.pending, 1048623, s⟩ (dropChildren s k) :=
  keeps_dropChildren s k (Sub.of (by decide)) (Keeps.start _ _)
theorem stopSwaps_K (s : State) (d : Nat) (record : Bool) : Keeps ⟨false, s.guestSite, s.pending, 1048591, s⟩ (stopSwaps s d record) :=
  keeps_stopSwaps s d record (Sub.of (by decide)) (Keeps.start _ _)
theorem stopF_K (s : State) (d : Nat) (st : Nat) : Keeps ⟨false, s.guestSite, s.pending, 1048623, s⟩ (stopF s d st) :=
  keeps_stopF s d st (Sub.of (by decide)) (Keeps.start _ _)
theorem dropF_K (s : State) (d : Nat) : Keeps ⟨false, s.guestSite, s.pending, 1589311, s⟩ (dropF s d) :=
  keeps_dropF s d (Sub.of (by decide)) (Keeps.start _ _)
theorem stopLive_K (s : State) (d : Nat) (st : Nat) : Keeps ⟨false, s.guestSite, s.pending, 1048623, s⟩ (stopLive s d st) :=
  keeps_stopLive s d st (Sub.of (by decide)) (Keeps.start _ _)
theorem stopWhere_K (s : State) (st : Nat) (t : Flight → Bool) : Keeps ⟨false, s.guestSite, s.pending, 1048623, s⟩ (stopWhere s st t) :=
  keeps_stopWhere s st t (Sub.of (by decide)) (Keeps.start _ _)
theorem hotOff_K (s : State) (q : Nat) : Keeps ⟨false, s.guestSite, s.pending, 0, s⟩ (hotOff s q) :=
  keeps_hotOff s q (Keeps.start _ _)
theorem setQState_K (s : State) (q : Nat) (st : QState) : Keeps ⟨false, s.guestSite, s.pending, 0, s⟩ (setQState s q st) :=
  keeps_setQState s q st (Keeps.start _ _)
theorem queueError_K (s : State) (q : Nat) (code : Nat) (prod : Nat) : Keeps ⟨false, s.guestSite, s.pending, 0, s⟩ (queueError s q code prod) :=
  keeps_queueError s q code prod (Keeps.start _ _)
theorem rcbWrite_K (s : State) (q : Nat) (off : Nat) (bs : List Byte) : Keeps ⟨false, s.guestSite, s.pending, 0, s⟩ (rcbWrite s q off bs) :=
  keeps_rcbWrite s q off bs (Keeps.start _ _)
theorem hotEvict_K (s : State) (q : Nat) : Keeps ⟨false, s.guestSite, s.pending, 0, s⟩ (hotEvict s q) :=
  keeps_hotEvict s q (Keeps.start _ _)
theorem drainQueue_K (s : State) (q : Nat) : Keeps ⟨false, s.guestSite, s.pending, 0, s⟩ (drainQueue s q) :=
  keeps_drainQueue s q (Keeps.start _ _)
theorem answerTo_K (s : State) (hash : Nat) (m : RemMsg) (status : Nat) (data : List Byte) : Keeps ⟨false, s.guestSite, s.pending, 1048576, s⟩ (answerTo s hash m status data) :=
  keeps_answerTo s hash m status data (Sub.of (by decide)) (Keeps.start _ _)
theorem raiseSender_K (s0 : State) (p : Nat) : Keeps ⟨false, s0.guestSite, s0.pending, 1048576, s0⟩ (raiseSender s0 p) :=
  keeps_raiseSender s0 p (Sub.of (by decide)) (Keeps.start _ _)
theorem emptyBanks_K (s : State) (p : Nat) : Keeps ⟨false, s.guestSite, s.pending, 0, s⟩ (emptyBanks s p) :=
  keeps_emptyBanks s p (Keeps.start _ _)
theorem dropWays_K (s : State) (p : Nat) : Keeps ⟨false, s.guestSite, s.pending, 0, s⟩ (dropWays s p) :=
  keeps_dropWays s p (Keeps.start _ _)
theorem flushCache_K (s : State) (p : Nat) : Keeps ⟨false, s.guestSite, s.pending, 0, s⟩ (flushCache s p) :=
  keeps_flushCache s p (Keeps.start _ _)
theorem loseCache_K (s : State) (p : Nat) : Keeps ⟨false, s.guestSite, s.pending, 3, s⟩ (loseCache s p) :=
  keeps_loseCache s p (Sub.of (by decide)) (Keeps.start _ _)
theorem clearWith_K (s : State) (p : Nat) (destroyed : Bool) : Keeps ⟨false, s.guestSite, s.pending, 1605695, s⟩ (clearWith s p destroyed) :=
  keeps_clearWith s p destroyed (Sub.of (by decide)) (Keeps.start _ _)
theorem clearPart_K (s : State) (p : Nat) : Keeps ⟨false, s.guestSite, s.pending, 1605695, s⟩ (clearPart s p) :=
  keeps_clearPart s p (Sub.of (by decide)) (Keeps.start _ _)
theorem pumpOut_K (s : State) : Keeps ⟨false, s.guestSite, s.pending, 1048576, s⟩ (pumpOut s) :=
  keeps_pumpOut s (Sub.of (by decide)) (Keeps.start _ _)
theorem rerouteFrom_K (s : State) (p : Nat) : Keeps ⟨false, s.guestSite, s.pending, 1048576, s⟩ (rerouteFrom s p) :=
  keeps_rerouteFrom s p (Sub.of (by decide)) (Keeps.start _ _)
theorem portLeave_K (s : State) (p : Nat) (st : PortSt) (hold : Option Nat) : Keeps ⟨false, s.guestSite, s.pending, 1081344, s⟩ (portLeave s p st hold) :=
  keeps_portLeave s p st hold (Sub.of (by decide)) (Keeps.start _ _)
theorem portRelease_K (s : State) (p : Nat) (hold : Nat) : Keeps ⟨false, s.guestSite, s.pending, 1048576, s⟩ (portRelease s p hold) :=
  keeps_portRelease s p hold (Sub.of (by decide)) (Keeps.start _ _)
theorem reportTest_K (s : State) (t : TestRun) (extra : Nat) : Keeps ⟨false, s.guestSite, s.pending, 0, s⟩ (reportTest s t extra) :=
  keeps_reportTest s t extra (Keeps.start _ _)
theorem stopTest_K (s : State) : Keeps ⟨false, s.guestSite, s.pending, 655360, s⟩ (stopTest s) :=
  keeps_stopTest s (Sub.of (by decide)) (Keeps.start _ _)
theorem trickleSaveOrStop_K (s : State) (d : Nat) (st : Nat) : Keeps ⟨false, s.guestSite, s.pending, 1048623, s⟩ (trickleSaveOrStop s d st) :=
  keeps_trickleSaveOrStop s d st (Sub.of (by decide)) (Keeps.start _ _)
theorem stopAllWork_K (s : State) (st : Nat) (t : Flight → Bool) : Keeps ⟨false, s.guestSite, s.pending, 1048623, s⟩ (stopAllWork s st t) :=
  keeps_stopAllWork s st t (Sub.of (by decide)) (Keeps.start _ _)
theorem countTrip_K (s : State) (cause : Nat) : Keeps ⟨false, s.guestSite, s.pending, 0, s⟩ (countTrip s cause) :=
  keeps_countTrip s cause (Keeps.start _ _)
theorem thermalTrigger_K (s : State) (detail : Nat) : Keeps ⟨false, s.guestSite, s.pending, 0, s⟩ (thermalTrigger s detail) :=
  keeps_thermalTrigger s detail (Keeps.start _ _)
theorem enterTrip_K (s : State) (cause : Nat) : Keeps ⟨false, s.guestSite, s.pending, 1708079, s⟩ (enterTrip s cause) :=
  keeps_enterTrip s cause (Sub.of (by decide)) (Keeps.start _ _)
theorem enterPkg_K (s : State) (dest : Pkg) : Keeps ⟨false, s.guestSite, s.pending, 1085440, s⟩ (enterPkg s dest) :=
  keeps_enterPkg s dest (Sub.of (by decide)) (Keeps.start _ _)
theorem settleDrain_K (s : State) : Keeps ⟨false, s.guestSite, s.pending, 1085440, s⟩ (settleDrain s) :=
  keeps_settleDrain s (Sub.of (by decide)) (Keeps.start _ _)
theorem fencePart_K (st : Nat) (s : State) (p : Nat) : Keeps ⟨false, s.guestSite, s.pending, 1572911, s⟩ (fencePart st s p) :=
  keeps_fencePart st s p (Sub.of (by decide)) (Keeps.start _ _)
theorem settleFences_K (s : State) (st : Nat) : Keeps ⟨false, s.guestSite, s.pending, 1835055, s⟩ (settleFences s st) :=
  keeps_settleFences s st (Sub.of (by decide)) (Keeps.start _ _)
theorem holdSlots_K (s : State) (q : Nat) (a2 : List (Nat × List Byte)) : Keeps ⟨false, s.guestSite, s.pending, 0, s⟩ (holdSlots s q a2) :=
  keeps_holdSlots s q a2 (Keeps.start _ _)
theorem makeHot_K (s : State) (q : Nat) : Keeps ⟨false, s.guestSite, s.pending, 0, s⟩ (makeHot s q) :=
  keeps_makeHot s q (Keeps.start _ _)
theorem hotInsert_K (s : State) (q : Nat) : Keeps ⟨false, s.guestSite, s.pending, 0, s⟩ (hotInsert s q).1 :=
  keeps_hotInsert s q (Keeps.start _ _)
theorem takeSlots_K (s : State) (q : Nat) (p : Nat) (l : List (Nat × List Byte)) : Keeps ⟨false, s.guestSite, s.pending, 0, s⟩ (takeSlots s q p l) :=
  keeps_takeSlots s q p l (Keeps.start _ _)
theorem checkOnce_K (s : State) (q : Nat) : Keeps ⟨false, s.guestSite, s.pending, 0, s⟩ (checkOnce s q).1 :=
  keeps_checkOnce s q (Keeps.start _ _)
theorem checkQueue_K (a0 : Nat) (a1 : State) (a2 : Nat) : Keeps ⟨false, a1.guestSite, a1.pending, 0, a1⟩ (checkQueue a0 a1 a2) :=
  keeps_checkQueue a0 a1 a2 (Keeps.start _ _)
theorem checkQ_K (s : State) (q : Nat) : Keeps ⟨false, s.guestSite, s.pending, 0, s⟩ (checkQ s q) :=
  keeps_checkQ s q (Keeps.start _ _)
theorem trimHot_K (s : State) (a1 : Nat) : Keeps ⟨false, s.guestSite, s.pending, 0, s⟩ (trimHot s a1) :=
  keeps_trimHot s a1 (Keeps.start _ _)
theorem pollGroup_K (fn : Nat) (s : State) (g : Nat) : Keeps ⟨false, s.guestSite, s.pending, 0, s⟩ (pollGroup fn s g) :=
  keeps_pollGroup fn s g (Keeps.start _ _)
theorem pollSector_K (fn : Nat) (s : State) (sec : Nat) : Keeps ⟨false, s.guestSite, s.pending, 0, s⟩ (pollSector fn s sec) :=
  keeps_pollSector fn s sec (Keeps.start _ _)
theorem pollFn_K (s : State) (fn : Nat) : Keeps ⟨false, s.guestSite, s.pending, 0, s⟩ (pollFn s fn) :=
  keeps_pollFn s fn (Keeps.start _ _)
theorem pollHot_K (a0 : Nat) (a1 : State) : Keeps ⟨false, a1.guestSite, a1.pending, 0, a1⟩ (pollHot a0 a1) :=
  keeps_pollHot a0 a1 (Keeps.start _ _)
theorem pollingPass_K (stores : List HostStore) (failing : List (Nat × Nat)) (s : State) : Keeps ⟨false, s.guestSite, s.pending, 0, s⟩ (pollingPass stores failing s) :=
  keeps_pollingPass stores failing s (Keeps.start _ _)
theorem hotIdleEvict_K (q : Nat) (s : State) : Keeps ⟨false, s.guestSite, s.pending, 0, s⟩ (hotIdleEvict q s) :=
  keeps_hotIdleEvict q s (Keeps.start _ _)
theorem takeSlot_K (s : State) (d : Nat) (f : Flight) : Keeps ⟨false, s.guestSite, s.pending, 0, s⟩ (takeSlot s d f).1 :=
  keeps_takeSlot s d f (Keeps.start _ _)
theorem sendMsix_K (s : State) (fn : Nat) (vec : Nat) : Keeps ⟨false, s.guestSite, s.pending, 0, s⟩ (sendMsix s fn vec) :=
  keeps_sendMsix s fn vec (Keeps.start _ _)
theorem fireIrq_K (s : State) (q : Nat) : Keeps ⟨false, s.guestSite, s.pending, 0, s⟩ (fireIrq s q) :=
  keeps_fireIrq s q (Keeps.start _ _)
theorem countIrq_K (s : State) (q : Nat) (st : Nat) (irq : Bool) : Keeps ⟨false, s.guestSite, s.pending, 0, s⟩ (countIrq s q st irq) :=
  keeps_countIrq s q st irq (Keeps.start _ _)
theorem writeRecord_K (s : State) (f : Flight) : Keeps ⟨false, s.guestSite, s.pending, 0, s⟩ (writeRecord s f) :=
  keeps_writeRecord s f (Keeps.start _ _)
theorem stepSettle_K (s : State) (k : Nat) : Keeps ⟨false, s.guestSite, s.pending, 1048623, s⟩ (stepSettle s k) :=
  keeps_stepSettle s k (Sub.of (by decide)) (Keeps.start _ _)
theorem childDone_K (s : State) (d : Nat) (k : Nat) (f : Flight) : Keeps ⟨false, s.guestSite, s.pending, 1048623, s⟩ (childDone s d k f) :=
  keeps_childDone s d k f (Sub.of (by decide)) (Keeps.start _ _)
theorem endReset_K (s : State) (p : Nat) : Keeps ⟨false, s.guestSite, s.pending, 0, s⟩ (endReset s p) :=
  keeps_endReset s p (Keeps.start _ _)
theorem endPartReset_K (s : State) (f : Flight) : Keeps ⟨false, s.guestSite, s.pending, 524288, s⟩ (endPartReset s f) :=
  keeps_endPartReset s f (Sub.of (by decide)) (Keeps.start _ _)
theorem settleAttend_K (s : State) (d : Nat) (f : Flight) : Keeps ⟨false, s.guestSite, s.pending, 1048591, s⟩ (settleAttend s d f) :=
  keeps_settleAttend s d f (Sub.of (by decide)) (Keeps.start _ _)
theorem descriptorComplete_K (d : Nat) (s : State) : Keeps ⟨false, s.guestSite, s.pending, 1626175, s⟩ (descriptorComplete d s) :=
  keeps_descriptorComplete d s (Sub.of (by decide)) (Keeps.start _ _)
theorem irqCoalTimer_K (q : Nat) (s : State) : Keeps ⟨false, s.guestSite, s.pending, 0, s⟩ (irqCoalTimer q s) :=
  keeps_irqCoalTimer q s (Keeps.start _ _)
theorem qctlDone_K (s : State) (fn : Nat) (q : Nat) (result : Nat) : Keeps ⟨false, s.guestSite, s.pending, 0, s⟩ (qctlDone s fn q result) :=
  keeps_qctlDone s fn q result (Keeps.start _ _)
theorem queueEnable_K (fn : Nat) (q : Nat) (s : State) : Keeps ⟨false, s.guestSite, s.pending, 0, s⟩ (queueEnable fn q s) :=
  keeps_queueEnable fn q s (Keeps.start _ _)
theorem queueDisable_K (fn : Nat) (q : Nat) (s : State) : Keeps ⟨false, s.guestSite, s.pending, 0, s⟩ (queueDisable fn q s) :=
  keeps_queueDisable fn q s (Keeps.start _ _)
theorem queueClear_K (fn : Nat) (q : Nat) (s : State) : Keeps ⟨false, s.guestSite, s.pending, 0, s⟩ (queueClear fn q s) :=
  keeps_queueClear fn q s (Keeps.start _ _)
theorem queueDrainDone_K (q : Nat) (s : State) : Keeps ⟨false, s.guestSite, s.pending, 0, s⟩ (queueDrainDone q s) :=
  keeps_queueDrainDone q s (Keeps.start _ _)
theorem aqEnable_K (s : State) : Keeps ⟨false, s.guestSite, s.pending, 256, s⟩ (aqEnable s) :=
  keeps_aqEnable s (Sub.of (by decide)) (Keeps.start _ _)
theorem aqDisable_K (s : State) : Keeps ⟨false, s.guestSite, s.pending, 0, s⟩ (aqDisable s) :=
  keeps_aqDisable s (Keeps.start _ _)
theorem dropQueues_K (s : State) (fn : Nat) : Keeps ⟨false, s.guestSite, s.pending, 1589311, s⟩ (dropQueues s fn) :=
  keeps_dropQueues s fn (Sub.of (by decide)) (Keeps.start _ _)
theorem dropQueuesTold_K (s : State) (fn : Nat) : Keeps ⟨false, s.guestSite, s.pending, 1589311, s⟩ (dropQueuesTold s fn) :=
  keeps_dropQueuesTold s fn (Sub.of (by decide)) (Keeps.start _ _)
theorem setTdi_K (s : State) (vf : Nat) (dest : Nat) : Keeps ⟨false, s.guestSite, s.pending, 1589823, s⟩ (setTdi s vf dest) :=
  keeps_setTdi s vf dest (Sub.of (by decide)) (Keeps.start _ _)
theorem setStream_K (s : State) (k : Nat) (x : Option IdeStream) : Keeps ⟨false, s.guestSite, s.pending, 1589823, s⟩ (setStream s k x) :=
  keeps_setStream s k x (Sub.of (by decide)) (Keeps.start _ _)
theorem dropStreams_K (s : State) (path : Nat) : Keeps ⟨false, s.guestSite, s.pending, 1589823, s⟩ (dropStreams s path) :=
  keeps_dropStreams s path (Sub.of (by decide)) (Keeps.start _ _)
theorem resetFn_K (s : State) (fn : Nat) : Keeps ⟨false, s.guestSite, s.pending, 256, s⟩ (resetFn s fn) :=
  keeps_resetFn s fn (Sub.of (by decide)) (Keeps.start _ _)
theorem vfFlr_K (vf : Nat) (s : State) : Keeps ⟨false, s.guestSite, s.pending, 1589567, s⟩ (vfFlr vf s) :=
  keeps_vfFlr vf s (Sub.of (by decide)) (Keeps.start _ _)
theorem stopAdmin_K (s : State) : Keeps ⟨false, s.guestSite, s.pending, 528896, s⟩ (stopAdmin s) :=
  keeps_stopAdmin s (Sub.of (by decide)) (Keeps.start _ _)
theorem pf0Flr_K (s : State) : Keeps ⟨false, s.guestSite, s.pending, 1725247, s⟩ (pf0Flr s) :=
  keeps_pf0Flr s (Sub.of (by decide)) (Keeps.start _ _)
theorem hostOut_K (s : State) (d : Nat) (a : Nat) (bs : List Byte) : Keeps ⟨false, s.guestSite, s.pending, 0, s⟩ (hostOut s d a bs) :=
  keeps_hostOut s d a bs (Keeps.start _ _)
theorem identify_K (d : Nat) (s : State) : Keeps ⟨false, s.guestSite, s.pending, 0, s⟩ (identify d s) :=
  keeps_identify d s (Keeps.start _ _)
theorem forgetGroups_K (s : State) (fn : Nat) (first : Nat) (n : Nat) : Keeps ⟨false, s.guestSite, s.pending, 0, s⟩ (forgetGroups s fn first n) :=
  keeps_forgetGroups s fn first n (Keeps.start _ _)
theorem vfBind_K (d : Nat) (s : State) : Keeps ⟨false, s.guestSite, s.pending, 524800, s⟩ (vfBind d s) :=
  keeps_vfBind d s (Sub.of (by decide)) (Keeps.start _ _)
theorem vfUnbind_K (d : Nat) (s : State) : Keeps ⟨false, s.guestSite, s.pending, 1589823, s⟩ (vfUnbind d s) :=
  keeps_vfUnbind d s (Sub.of (by decide)) (Keeps.start _ _)
theorem vfUnbindDone_K (vf : Nat) (s : State) : Keeps ⟨false, s.guestSite, s.pending, 524800, s⟩ (vfUnbindDone vf s) :=
  keeps_vfUnbindDone vf s (Sub.of (by decide)) (Keeps.start _ _)
theorem eventWait_K (d : Nat) (s : State) : Keeps ⟨false, s.guestSite, s.pending, 0, s⟩ (eventWait d s) :=
  keeps_eventWait d s (Keeps.start _ _)
theorem recapAll_K (s : State) : Keeps ⟨false, s.guestSite, s.pending, 32768, s⟩ (recapAll s) :=
  keeps_recapAll s (Sub.of (by decide)) (Keeps.start _ _)
theorem partCreate_K (d : Nat) (s : State) : Keeps ⟨false, s.guestSite, s.pending, 1605823, s⟩ (partCreate d s) :=
  keeps_partCreate d s (Sub.of (by decide)) (Keeps.start _ _)
theorem dropTests_K (s : State) (p : Nat) : Keeps ⟨false, s.guestSite, s.pending, 655360, s⟩ (dropTests s p) :=
  keeps_dropTests s p (Sub.of (by decide)) (Keeps.start _ _)
theorem destroyPart_K (s : State) (p : Nat) : Keeps ⟨false, s.guestSite, s.pending, 3850431, s⟩ (destroyPart s p) :=
  keeps_destroyPart s p (Sub.of (by decide)) (Keeps.start _ _)
theorem partDestroy_K (d : Nat) (s : State) : Keeps ⟨false, s.guestSite, s.pending, 3850431, s⟩ (partDestroy d s) :=
  keeps_partDestroy d s (Sub.of (by decide)) (Keeps.start _ _)
theorem partReset_K (d : Nat) (s : State) : Keeps ⟨false, s.guestSite, s.pending, 1605695, s⟩ (partReset d s) :=
  keeps_partReset d s (Sub.of (by decide)) (Keeps.start _ _)
theorem partState_K (d : Nat) (s : State) : Keeps ⟨false, s.guestSite, s.pending, 1572911, s⟩ (partState d s) :=
  keeps_partState d s (Sub.of (by decide)) (Keeps.start _ _)
theorem partStateDone_K (p : Nat) (s : State) : Keeps ⟨false, s.guestSite, s.pending, 524288, s⟩ (partStateDone p s) :=
  keeps_partStateDone p s (Sub.of (by decide)) (Keeps.start _ _)
theorem markPermanent_K (s : State) (ch : Nat) : Keeps ⟨false, s.guestSite, s.pending, 0, s⟩ (markPermanent s ch) :=
  keeps_markPermanent s ch (Keeps.start _ _)
theorem chargeChannel_K (s : State) (ch : Nat) (retryFailed : Bool) : Keeps ⟨false, s.guestSite, s.pending, 0, s⟩ (chargeChannel s ch retryFailed).1 :=
  keeps_chargeChannel s ch retryFailed (Keeps.start _ _)
theorem advise_K (s : State) : Keeps ⟨false, s.guestSite, s.pending, 0, s⟩ (advise s) :=
  keeps_advise s (Keeps.start _ _)
theorem bindCore_K (s : State) (core : Nat) (col : Nat) (st : Nat) : Keeps ⟨false, s.guestSite, s.pending, 2162688, s⟩ (bindCore s core col st) :=
  keeps_bindCore s core col st (Sub.of (by decide)) (Keeps.start _ _)
theorem leaveIntake_K (s : State) (d : Nat) : Keeps ⟨false, s.guestSite, s.pending, 0, s⟩ (leaveIntake s d) :=
  keeps_leaveIntake s d (Keeps.start _ _)
theorem stopOnCore_K (s : State) (core : Nat) (st : Nat) : Keeps ⟨false, s.guestSite, s.pending, 1048623, s⟩ (stopOnCore s core st) :=
  keeps_stopOnCore s core st (Sub.of (by decide)) (Keeps.start _ _)
theorem retireFrame_K (s : State) (p : Nat) (i : Nat) : Keeps ⟨false, s.guestSite, s.pending, 1048591, s⟩ (retireFrame s p i) :=
  keeps_retireFrame s p i (Sub.of (by decide)) (Keeps.start _ _)
theorem retireRange_K (s : State) (lo : Nat) (hi : Nat) : Keeps ⟨false, s.guestSite, s.pending, 1048591, s⟩ (retireRange s lo hi) :=
  keeps_retireRange s lo hi (Sub.of (by decide)) (Keeps.start _ _)
theorem makeHole_K (s : State) (core : Nat) : Keeps ⟨false, s.guestSite, s.pending, 65544, s⟩ (makeHole s core) :=
  keeps_makeHole s core (Sub.of (by decide)) (Keeps.start _ _)
theorem fenceSite_K (s : State) (site : Nat) : Keeps ⟨false, s.guestSite, s.pending, 0, s⟩ (fenceSite s site) :=
  keeps_fenceSite s site (Keeps.start _ _)
theorem loseCore_K (s : State) (core : Nat) : Keeps ⟨false, s.guestSite, s.pending, 1114159, s⟩ (loseCore s core) :=
  keeps_loseCore s core (Sub.of (by decide)) (Keeps.start _ _)
theorem chargeCore_K (s : State) (core : Nat) (retryFailed : Bool) : Keeps ⟨false, s.guestSite, s.pending, 1114159, s⟩ (chargeCore s core retryFailed) :=
  keeps_chargeCore s core retryFailed (Sub.of (by decide)) (Keeps.start _ _)
theorem chargeGroup_K (s : State) (core : Nat) (g : Nat) (retryFailed : Bool) : Keeps ⟨false, s.guestSite, s.pending, 1114159, s⟩ (chargeGroup s core g retryFailed) :=
  keeps_chargeGroup s core g retryFailed (Sub.of (by decide)) (Keeps.start _ _)
theorem residue_K (s : State) (x : CoreFault) : Keeps ⟨false, s.guestSite, s.pending, 0, s⟩ (residue s x) :=
  keeps_residue s x (Keeps.start _ _)
theorem loseSharers_K (s : State) (d : Nat) (core : Nat) : Keeps ⟨false, s.guestSite, s.pending, 1048623, s⟩ (loseSharers s d core) :=
  keeps_loseSharers s d core (Sub.of (by decide)) (Keeps.start _ _)
theorem coreFaults_K (s : State) (d : Nat) (l : List CoreFault) : Keeps ⟨false, s.guestSite, s.pending, 1114159, s⟩ (coreFaults s d l).1 :=
  keeps_coreFaults s d l (Sub.of (by decide)) (Keeps.start _ _)
theorem chargeMemory_K (s : State) (ch : Nat) (exhausted : Bool) : Keeps ⟨false, s.guestSite, s.pending, 1114159, s⟩ (chargeMemory s ch exhausted) :=
  keeps_chargeMemory s ch exhausted (Sub.of (by decide)) (Keeps.start _ _)
theorem remapRow_K (s : State) (pa : Nat) : Keeps ⟨false, s.guestSite, s.pending, 1114159, s⟩ (remapRow s pa) :=
  keeps_remapRow s pa (Sub.of (by decide)) (Keeps.start _ _)
theorem ceRecord_K (s : State) (bank : Nat) : Keeps ⟨false, s.guestSite, s.pending, 0, s⟩ (ceRecord s bank) :=
  keeps_ceRecord s bank (Keeps.start _ _)
theorem countCe_K (s : State) (pa : Nat) : Keeps ⟨false, s.guestSite, s.pending, 0, s⟩ (countCe s pa) :=
  keeps_countCe s pa (Keeps.start _ _)
theorem findCodeword_K (s : State) (pa : Nat) (found : EccFinding) : Keeps ⟨false, s.guestSite, s.pending, 1114159, s⟩ (findCodeword s pa found) :=
  keeps_findCodeword s pa found (Sub.of (by decide)) (Keeps.start _ _)
theorem chargeUnit_K (s : State) (k : Nat) (pc : Nat) (bank : Nat) : Keeps ⟨false, s.guestSite, s.pending, 0, s⟩ (chargeUnit s k pc bank) :=
  keeps_chargeUnit s k pc bank (Keeps.start _ _)
theorem setBucket_K (s : State) (p : Nat) (c : Nat) (r : Nat) (v : Nat) : Keeps ⟨false, s.guestSite, s.pending, 32768, s⟩ (setBucket s p c r v) :=
  keeps_setBucket s p c r v (Sub.of (by decide)) (Keeps.start _ _)
theorem settleBuckets_K (s : State) (r : Nat) : Keeps ⟨false, s.guestSite, s.pending, 32768, s⟩ (settleBuckets s r) :=
  keeps_settleBuckets s r (Sub.of (by decide)) (Keeps.start _ _)
theorem recomputeNow_K (s : State) (r : Nat) : Keeps ⟨false, s.guestSite, s.pending, 32768, s⟩ (recomputeNow s r) :=
  keeps_recomputeNow s r (Sub.of (by decide)) (Keeps.start _ _)
theorem bwRegister_K (d : Nat) (s : State) : Keeps ⟨false, s.guestSite, s.pending, 32768, s⟩ (bwRegister d s) :=
  keeps_bwRegister d s (Sub.of (by decide)) (Keeps.start _ _)
theorem bwRelease_K (d : Nat) (s : State) : Keeps ⟨false, s.guestSite, s.pending, 32768, s⟩ (bwRelease d s) :=
  keeps_bwRelease d s (Sub.of (by decide)) (Keeps.start _ _)
theorem bwMonitor_K (d : Nat) (s : State) : Keeps ⟨false, s.guestSite, s.pending, 557056, s⟩ (bwMonitor d s) :=
  keeps_bwMonitor d s (Sub.of (by decide)) (Keeps.start _ _)
theorem capacityRecompute_K (res : Nat) (s : State) : Keeps ⟨false, s.guestSite, s.pending, 32768, s⟩ (capacityRecompute res s) :=
  keeps_capacityRecompute res s (Sub.of (by decide)) (Keeps.start _ _)
theorem recordMiss_K (s : State) (h : Nat) : Keeps ⟨false, s.guestSite, s.pending, 557056, s⟩ (recordMiss s h) :=
  keeps_recordMiss s h (Sub.of (by decide)) (Keeps.start _ _)
theorem missInterval_K (waited : List (Nat × Nat)) (s : State) : Keeps ⟨false, s.guestSite, s.pending, 557056, s⟩ (missInterval waited s) :=
  keeps_missInterval waited s (Sub.of (by decide)) (Keeps.start _ _)
theorem guaranteeMissedWindow_K (handle : Nat) (s : State) : Keeps ⟨false, s.guestSite, s.pending, 32768, s⟩ (guaranteeMissedWindow handle s) :=
  keeps_guaranteeMissedWindow handle s (Sub.of (by decide)) (Keeps.start _ _)
theorem refill_K (s : State) (port : Nat) (p : Nat) (c : Nat) (r : Nat) (need : Nat) : Keeps ⟨false, s.guestSite, s.pending, 32768, s⟩ (refill s port p c r need).1 :=
  keeps_refill s port p c r need (Sub.of (by decide)) (Keeps.start _ _)
theorem chargePort_K (s : State) (port : Nat) (p : Nat) (c : Nat) (use : Nat × Nat) : Keeps ⟨false, s.guestSite, s.pending, 32768, s⟩ (chargePort s port p c use).1 :=
  keeps_chargePort s port p c use (Sub.of (by decide)) (Keeps.start _ _)
theorem serveReq_K (s : State) (m : MemReq) (use : List (Nat × Nat)) (conf : Bool) : Keeps ⟨false, s.guestSite, s.pending, 1671215, s⟩ (serveReq s m use conf) :=
  keeps_serveReq s m use conf (Sub.of (by decide)) (Keeps.start _ _)
theorem holdAt_K (s : State) (g : Nat) (id : Nat) : Keeps ⟨false, s.guestSite, s.pending, 0, s⟩ (holdAt s g id) :=
  keeps_holdAt s g id (Keeps.start _ _)
theorem serveWaiting_K (s : State) (id : Nat) : Keeps ⟨false, s.guestSite, s.pending, 1671215, s⟩ (serveWaiting s id) :=
  keeps_serveWaiting s id (Sub.of (by decide)) (Keeps.start _ _)
theorem serveAll_K (s : State) (ids : List Nat) : Keeps ⟨false, s.guestSite, s.pending, 1671215, s⟩ (serveAll s ids) :=
  keeps_serveAll s ids (Sub.of (by decide)) (Keeps.start _ _)
theorem serveFreed_K (s : State) : Keeps ⟨false, s.guestSite, s.pending, 1671215, s⟩ (serveFreed s) :=
  keeps_serveFreed s (Sub.of (by decide)) (Keeps.start _ _)
theorem addWaiting_K (s : State) (w : WaitReq) : Keeps ⟨false, s.guestSite, s.pending, 32768, s⟩ (addWaiting s w).1 :=
  keeps_addWaiting s w (Sub.of (by decide)) (Keeps.start _ _)
theorem cacheLeaf_K (s : State) (m : MemReq) : Keeps ⟨false, s.guestSite, s.pending, 0, s⟩ (cacheLeaf s m) :=
  keeps_cacheLeaf s m (Keeps.start _ _)
theorem memCache_K (s : State) (r : MemReq) (pa : Nat) : Keeps ⟨false, s.guestSite, s.pending, 0, s⟩ (memCache s r pa).1 :=
  keeps_memCache s r pa (Keeps.start _ _)
theorem routeUnits_K (s : State) (r : MemReq) (pa : Nat) : Keeps ⟨false, s.guestSite, s.pending, 262144, s⟩ (routeUnits s r pa) :=
  keeps_routeUnits s r pa (Sub.of (by decide)) (Keeps.start _ _)
theorem memServe_K (s : State) (r : MemReq) (pa : Nat) (stack : Nat) : Keeps ⟨false, s.guestSite, s.pending, 1671215, s⟩ (memServe s r pa stack) :=
  keeps_memServe s r pa stack (Sub.of (by decide)) (Keeps.start _ _)
theorem chargeAll_K (s : State) (r : MemReq) (use : List (Nat × Nat)) : Keeps ⟨false, s.guestSite, s.pending, 32768, s⟩ (chargeAll s r use).1 :=
  keeps_chargeAll s r use (Sub.of (by decide)) (Keeps.start _ _)
theorem cacheFault_K (s : State) (p : Nat) (pa : Nat) : Keeps ⟨false, s.guestSite, s.pending, 1114159, s⟩ (cacheFault s p pa) :=
  keeps_cacheFault s p pa (Sub.of (by decide)) (Keeps.start _ _)
theorem cacheFinding_K (s : State) (r : MemReq) (pa : Nat) : Keeps ⟨false, s.guestSite, s.pending, 1114159, s⟩ (cacheFinding s r pa).1 :=
  keeps_cacheFinding s r pa (Sub.of (by decide)) (Keeps.start _ _)
theorem memRequest_K (s0 : State) (r0 : MemReq) (pa : Nat) : Keeps ⟨false, s0.guestSite, s0.pending, 1933359, s0⟩ (memRequest s0 r0 pa) :=
  keeps_memRequest s0 r0 pa (Sub.of (by decide)) (Keeps.start _ _)
theorem countDrop_K (s : State) (p : Nat) : Keeps ⟨false, s.guestSite, s.pending, 524288, s⟩ (countDrop s p) :=
  keeps_countDrop s p (Sub.of (by decide)) (Keeps.start _ _)
theorem memAccess_K (r0 : MemReq) (s : State) : Keeps ⟨false, s.guestSite, s.pending, 1933359, s⟩ (memAccess r0 s) :=
  keeps_memAccess r0 s (Sub.of (by decide)) (Keeps.start _ _)
theorem grantReturn_K (port : Nat) (cls : Nat) (res : Nat) (s : State) : Keeps ⟨false, s.guestSite, s.pending, 32768, s⟩ (grantReturn port cls res s) :=
  keeps_grantReturn port cls res s (Sub.of (by decide)) (Keeps.start _ _)
theorem heldRequestRelease_K (res : Nat) (s : State) : Keeps ⟨false, s.guestSite, s.pending, 1671215, s⟩ (heldRequestRelease res s) :=
  keeps_heldRequestRelease res s (Sub.of (by decide)) (Keeps.start _ _)
theorem prefetchDrop_K (req : Nat) (s : State) : Keeps ⟨false, s.guestSite, s.pending, 557056, s⟩ (prefetchDrop req s) :=
  keeps_prefetchDrop req s (Sub.of (by decide)) (Keeps.start _ _)
theorem requestDeadlinePass_K (req : Nat) (s : State) : Keeps ⟨false, s.guestSite, s.pending, 32768, s⟩ (requestDeadlinePass req s) :=
  keeps_requestDeadlinePass req s (Sub.of (by decide)) (Keeps.start _ _)
theorem scrubFinds_K (s : State) (pa : Nat) (found : EccFinding) : Keeps ⟨false, s.guestSite, s.pending, 1114159, s⟩ (scrubFinds s pa found) :=
  keeps_scrubFinds s pa found (Sub.of (by decide)) (Keeps.start _ _)
theorem scrubEnd_K (s : State) : Keeps ⟨false, s.guestSite, s.pending, 0, s⟩ (scrubEnd s) :=
  keeps_scrubEnd s (Keeps.start _ _)
theorem scrubRead_K (pa : Nat) (found : EccFinding) (s : State) : Keeps ⟨false, s.guestSite, s.pending, 1114159, s⟩ (scrubRead pa found s) :=
  keeps_scrubRead pa found s (Sub.of (by decide)) (Keeps.start _ _)
theorem scrubLag_K (s : State) : Keeps ⟨false, s.guestSite, s.pending, 0, s⟩ (scrubLag s) :=
  keeps_scrubLag s (Keeps.start _ _)
theorem ceLeak_K (s : State) : Keeps ⟨false, s.guestSite, s.pending, 0, s⟩ (ceLeak s) :=
  keeps_ceLeak s (Keeps.start _ _)
theorem runFaults_K (s : State) (d : Nat) (w : Work) : Keeps ⟨false, s.guestSite, s.pending, 1114159, s⟩ (runFaults s d w).1 :=
  keeps_runFaults s d w (Sub.of (by decide)) (Keeps.start _ _)
theorem beginF_K (s : State) (d : Nat) (f : Flight) (cores : List Nat) (units : Tbl Nat) : Keeps ⟨false, s.guestSite, s.pending, 0, s⟩ (beginF s d f cores units) :=
  keeps_beginF s d f cores units (Keeps.start _ _)
theorem copy_K (d : Nat) (s : State) : Keeps ⟨false, s.guestSite, s.pending, 1048587, s⟩ (copy d s) :=
  keeps_copy d s (Sub.of (by decide)) (Keeps.start _ _)
theorem fill_K (d : Nat) (s : State) : Keeps ⟨false, s.guestSite, s.pending, 1048587, s⟩ (fill d s) :=
  keeps_fill d s (Sub.of (by decide)) (Keeps.start _ _)
theorem toHost_K (d : Nat) (s : State) : Keeps ⟨false, s.guestSite, s.pending, 1048587, s⟩ (toHost d s) :=
  keeps_toHost d s (Sub.of (by decide)) (Keeps.start _ _)
theorem fromHost_K (d : Nat) (s : State) : Keeps ⟨false, s.guestSite, s.pending, 1048587, s⟩ (fromHost d s) :=
  keeps_fromHost d s (Sub.of (by decide)) (Keeps.start _ _)
theorem map_K (d : Nat) (s : State) : Keeps ⟨false, s.guestSite, s.pending, 1048591, s⟩ (map d s) :=
  keeps_map d s (Sub.of (by decide)) (Keeps.start _ _)
theorem unmap_K (d : Nat) (s : State) : Keeps ⟨false, s.guestSite, s.pending, 1048591, s⟩ (unmap d s) :=
  keeps_unmap d s (Sub.of (by decide)) (Keeps.start _ _)
theorem tpoolAdd_K (d : Nat) (s : State) : Keeps ⟨false, s.guestSite, s.pending, 1048584, s⟩ (tpoolAdd d s) :=
  keeps_tpoolAdd d s (Sub.of (by decide)) (Keeps.start _ _)
theorem contribute_K (s : State) (d : Nat) (f : Flight) (src : Tensor) (dst : Tensor) (codes : List (Nat × Bool)) : Keeps ⟨false, s.guestSite, s.pending, 1048587, s⟩ (contribute s d f src dst codes) :=
  keeps_contribute s d f src dst codes (Sub.of (by decide)) (Keeps.start _ _)
theorem acc_K (d : Nat) (s : State) : Keeps ⟨false, s.guestSite, s.pending, 1048587, s⟩ (acc d s) :=
  keeps_acc d s (Sub.of (by decide)) (Keeps.start _ _)
theorem orderedStagingGrant_K (stack : Nat) (s : State) : Keeps ⟨false, s.guestSite, s.pending, 1048587, s⟩ (orderedStagingGrant stack s) :=
  keeps_orderedStagingGrant stack s (Sub.of (by decide)) (Keeps.start _ _)
theorem syncNop_K (d : Nat) (s : State) : Keeps ⟨false, s.guestSite, s.pending, 0, s⟩ (syncNop d s) :=
  keeps_syncNop d s (Keeps.start _ _)
theorem syncAdd_K (d : Nat) (s : State) : Keeps ⟨false, s.guestSite, s.pending, 540688, s⟩ (syncAdd d s) :=
  keeps_syncAdd d s (Sub.of (by decide)) (Keeps.start _ _)
theorem syncWaitAll_K (d : Nat) (s : State) : Keeps ⟨false, s.guestSite, s.pending, 0, s⟩ (syncWaitAll d s) :=
  keeps_syncWaitAll d s (Keeps.start _ _)
theorem syncPair_K (d : Nat) (s : State) : Keeps ⟨false, s.guestSite, s.pending, 16, s⟩ (syncPair d s) :=
  keeps_syncPair d s (Sub.of (by decide)) (Keeps.start _ _)
theorem syncUnpair_K (d : Nat) (s : State) : Keeps ⟨false, s.guestSite, s.pending, 16, s⟩ (syncUnpair d s) :=
  keeps_syncUnpair d s (Sub.of (by decide)) (Keeps.start _ _)
theorem syncRead_K (d : Nat) (s : State) : Keeps ⟨false, s.guestSite, s.pending, 1048587, s⟩ (syncRead d s) :=
  keeps_syncRead d s (Sub.of (by decide)) (Keeps.start _ _)
theorem signalAdd_K (p : Nat) (c : Nat) (n : Nat) (s : State) : Keeps ⟨false, s.guestSite, s.pending, 540688, s⟩ (signalAdd p c n s) :=
  keeps_signalAdd p c n s (Sub.of (by decide)) (Keeps.start _ _)
theorem laneModeChange_K (core : Nat) (s : State) : Keeps ⟨false, s.guestSite, s.pending, 0, s⟩ (laneModeChange core s) :=
  keeps_laneModeChange core s (Keeps.start _ _)
theorem sleepF_K (s : State) (d : Nat) (f : Flight) (core : Nat) (done : Nat) (units : Tbl Nat) : Keeps ⟨false, s.guestSite, s.pending, 0, s⟩ (sleepF s d f core done units) :=
  keeps_sleepF s d f core done units (Keeps.start _ _)
theorem matrixOp_K (s : State) (d : Nat) (f : Flight) (w : Work) : Keeps ⟨false, s.guestSite, s.pending, 1114159, s⟩ (matrixOp s d f w) :=
  keeps_matrixOp s d f w (Sub.of (by decide)) (Keeps.start _ _)
theorem matmul_K (d : Nat) (w : Work) (s : State) : Keeps ⟨false, s.guestSite, s.pending, 1114159, s⟩ (matmul d w s) :=
  keeps_matmul d w s (Sub.of (by decide)) (Keeps.start _ _)
theorem conv1d_K (d : Nat) (w : Work) (s : State) : Keeps ⟨false, s.guestSite, s.pending, 1114159, s⟩ (conv1d d w s) :=
  keeps_conv1d d w s (Sub.of (by decide)) (Keeps.start _ _)
theorem conv2d_K (d : Nat) (w : Work) (s : State) : Keeps ⟨false, s.guestSite, s.pending, 1114159, s⟩ (conv2d d w s) :=
  keeps_conv2d d w s (Sub.of (by decide)) (Keeps.start _ _)
theorem nearStart_K (s : State) (d : Nat) (f : Flight) (k : Nat) (ch : Chain) (sets : List ChainSet) : Keeps ⟨false, s.guestSite, s.pending, 0, s⟩ (nearStart s d f k ch sets) :=
  keeps_nearStart s d f k ch sets (Keeps.start _ _)
theorem chain_K (d : Nat) (w : Work) (s : State) : Keeps ⟨false, s.guestSite, s.pending, 1114159, s⟩ (chain d w s) :=
  keeps_chain d w s (Sub.of (by decide)) (Keeps.start _ _)
theorem nearList_K (d : Nat) (s : State) : Keeps ⟨false, s.guestSite, s.pending, 1048584, s⟩ (nearList d s) :=
  keeps_nearList d s (Sub.of (by decide)) (Keeps.start _ _)
theorem windowOpen_K (stack : Nat) (pc : Nat) (group : Nat) (d : Nat) (s : State) : Keeps ⟨false, s.guestSite, s.pending, 0, s⟩ (windowOpen stack pc group d s) :=
  keeps_windowOpen stack pc group d s (Keeps.start _ _)
theorem releaseHeld_K (s : State) (key : Nat) : Keeps ⟨false, s.guestSite, s.pending, 1671215, s⟩ (releaseHeld s key) :=
  keeps_releaseHeld s key (Sub.of (by decide)) (Keeps.start _ _)
theorem nearEnd_K (s : State) (d : Nat) (st : Nat) : Keeps ⟨false, s.guestSite, s.pending, 3, s⟩ (nearEnd s d st) :=
  keeps_nearEnd s d st (Sub.of (by decide)) (Keeps.start _ _)
theorem nearSettle_K (s : State) (d : Nat) (f : Flight) : Keeps ⟨false, s.guestSite, s.pending, 3, s⟩ (nearSettle s d f) :=
  keeps_nearSettle s d f (Sub.of (by decide)) (Keeps.start _ _)
theorem endWindow_K (s : State) (key : Nat) (len : Nat) (x : WindowWork) : Keeps ⟨false, s.guestSite, s.pending, 1146927, s⟩ (endWindow s key len x) :=
  keeps_endWindow s key len x (Sub.of (by decide)) (Keeps.start _ _)
theorem windowClose_K (stack : Nat) (pc : Nat) (group : Nat) (x : WindowWork) (s : State) : Keeps ⟨false, s.guestSite, s.pending, 1671215, s⟩ (windowClose stack pc group x s) :=
  keeps_windowClose stack pc group x s (Sub.of (by decide)) (Keeps.start _ _)
theorem windowCut_K (stack : Nat) (pc : Nat) (group : Nat) (x : WindowWork) (s : State) : Keeps ⟨false, s.guestSite, s.pending, 1671215, s⟩ (windowCut stack pc group x s) :=
  keeps_windowCut stack pc group x s (Sub.of (by decide)) (Keeps.start _ _)
theorem bankGroupRefresh_K (stack : Nat) (pc : Nat) (group : Nat) (s : State) : Keeps ⟨false, s.guestSite, s.pending, 0, s⟩ (bankGroupRefresh stack pc group s) :=
  keeps_bankGroupRefresh stack pc group s (Keeps.start _ _)
theorem softmax_K (d : Nat) (w : Work) (s : State) : Keeps ⟨false, s.guestSite, s.pending, 1114159, s⟩ (softmax d w s) :=
  keeps_softmax d w s (Sub.of (by decide)) (Keeps.start _ _)
theorem sample_K (d : Nat) (w : Work) (s : State) : Keeps ⟨false, s.guestSite, s.pending, 1114159, s⟩ (sample d w s) :=
  keeps_sample d w s (Sub.of (by decide)) (Keeps.start _ _)
theorem attAppend_K (s : State) (cx : Cx) (p : AttPlan) (rows : List (List Byte)) (a4 : List (Nat × Nat × Nat)) : Keeps ⟨false, s.guestSite, s.pending, 1048591, s⟩ (attAppend s cx p rows a4).1 :=
  keeps_attAppend s cx p rows a4 (Sub.of (by decide)) (Keeps.start _ _)
theorem enterStep_K (s : State) (d : Nat) (f : Flight) : Keeps ⟨false, s.guestSite, s.pending, 8, s⟩ (enterStep s d f) :=
  keeps_enterStep s d f (Sub.of (by decide)) (Keeps.start _ _)
theorem attDead_K (s : State) (d : Nat) (f : Flight) : Keeps ⟨false, s.guestSite, s.pending, 1048591, s⟩ (attDead s d f) :=
  keeps_attDead s d f (Sub.of (by decide)) (Keeps.start _ _)
theorem attQuit_K (s : State) (d : Nat) (f : Flight) (extra : Nat) (e : Stop) : Keeps ⟨false, s.guestSite, s.pending, 1048591, s⟩ (attQuit s d f extra e) :=
  keeps_attQuit s d f extra e (Sub.of (by decide)) (Keeps.start _ _)
theorem setIncs_K (s : State) (layer : Nat) (incs : List (Nat × List (Nat × Nat))) : Keeps ⟨false, s.guestSite, s.pending, 8, s⟩ (setIncs s layer incs) :=
  keeps_setIncs s layer incs (Sub.of (by decide)) (Keeps.start _ _)
theorem attRun_K (s : State) (d : Nat) (f : Flight) (p : AttPlan) (w : Work) (seqs : List (Nat × Nat × Nat)) : Keeps ⟨false, s.guestSite, s.pending, 1114159, s⟩ (attRun s d f p w seqs) :=
  keeps_attRun s d f p w seqs (Sub.of (by decide)) (Keeps.start _ _)
theorem attendOp_K (s : State) (d : Nat) (f : Flight) (w : Work) : Keeps ⟨false, s.guestSite, s.pending, 1114159, s⟩ (attendOp s d f w) :=
  keeps_attendOp s d f w (Sub.of (by decide)) (Keeps.start _ _)
theorem attend_K (d : Nat) (w : Work) (s : State) : Keeps ⟨false, s.guestSite, s.pending, 1114159, s⟩ (attend d w s) :=
  keeps_attend d w s (Sub.of (by decide)) (Keeps.start _ _)
theorem poolRestart_K (d : Nat) (s : State) : Keeps ⟨false, s.guestSite, s.pending, 1048623, s⟩ (poolRestart d s) :=
  keeps_poolRestart d s (Sub.of (by decide)) (Keeps.start _ _)
theorem seqOpen_K (d : Nat) (s : State) : Keeps ⟨false, s.guestSite, s.pending, 1048584, s⟩ (seqOpen d s) :=
  keeps_seqOpen d s (Sub.of (by decide)) (Keeps.start _ _)
theorem closeSeq_K (s : State) (p : Nat) (slot : Nat) : Keeps ⟨false, s.guestSite, s.pending, 15, s⟩ (closeSeq s p slot) :=
  keeps_closeSeq s p slot (Sub.of (by decide)) (Keeps.start _ _)
theorem seqClose_K (d : Nat) (s : State) : Keeps ⟨false, s.guestSite, s.pending, 15, s⟩ (seqClose d s) :=
  keeps_seqClose d s (Sub.of (by decide)) (Keeps.start _ _)
theorem seqFork_K (d : Nat) (s : State) : Keeps ⟨false, s.guestSite, s.pending, 1048591, s⟩ (seqFork d s) :=
  keeps_seqFork d s (Sub.of (by decide)) (Keeps.start _ _)
theorem poolConfig_K (d : Nat) (s : State) : Keeps ⟨false, s.guestSite, s.pending, 1572875, s⟩ (poolConfig d s) :=
  keeps_poolConfig d s (Sub.of (by decide)) (Keeps.start _ _)
theorem poolAdd_K (d : Nat) (s : State) : Keeps ⟨false, s.guestSite, s.pending, 8, s⟩ (poolAdd d s) :=
  keeps_poolAdd d s (Sub.of (by decide)) (Keeps.start _ _)
theorem swapOutNow_K (s : State) (d : Nat) (f : Flight) : Keeps ⟨false, s.guestSite, s.pending, 1048584, s⟩ (swapOutNow s d f) :=
  keeps_swapOutNow s d f (Sub.of (by decide)) (Keeps.start _ _)
theorem swapOut_K (d : Nat) (s : State) : Keeps ⟨false, s.guestSite, s.pending, 1048584, s⟩ (swapOut d s) :=
  keeps_swapOut d s (Sub.of (by decide)) (Keeps.start _ _)
theorem swapPoison_K (s : State) (p : Nat) (slot : Nat) : Keeps ⟨false, s.guestSite, s.pending, 1048584, s⟩ (swapPoison s p slot) :=
  keeps_swapPoison s p slot (Sub.of (by decide)) (Keeps.start _ _)
theorem swapOutDone_K (slot : Nat) (s : State) : Keeps ⟨false, s.guestSite, s.pending, 1048591, s⟩ (swapOutDone slot s) :=
  keeps_swapOutDone slot s (Sub.of (by decide)) (Keeps.start _ _)
theorem readRemoteCells_K (s : State) (d : Nat) (p : Nat) (slot : Nat) : Keeps ⟨false, s.guestSite, s.pending, 1048576, s⟩ (readRemoteCells s d p slot) :=
  keeps_readRemoteCells s d p slot (Sub.of (by decide)) (Keeps.start _ _)
theorem swapInShort_K (s : State) (d : Nat) (f : Flight) (needs : List Nat) (table : Bool) : Keeps ⟨false, s.guestSite, s.pending, 1048584, s⟩ (swapInShort s d f needs table) :=
  keeps_swapInShort s d f needs table (Sub.of (by decide)) (Keeps.start _ _)
theorem swapIn_K (d : Nat) (s : State) : Keeps ⟨false, s.guestSite, s.pending, 1048584, s⟩ (swapIn d s) :=
  keeps_swapIn d s (Sub.of (by decide)) (Keeps.start _ _)
theorem swapInOpen_K (s : State) (p : Nat) (slot : Nat) (head : List Byte) : Keeps ⟨false, s.guestSite, s.pending, 8, s⟩ (swapInOpen s p slot head) :=
  keeps_swapInOpen s p slot head (Sub.of (by decide)) (Keeps.start _ _)
theorem swapInDone_K (slot : Nat) (s : State) : Keeps ⟨false, s.guestSite, s.pending, 1048591, s⟩ (swapInDone slot s) :=
  keeps_swapInDone slot s (Sub.of (by decide)) (Keeps.start _ _)
theorem kvHeldResume_K (slot : Nat) (s : State) : Keeps ⟨false, s.guestSite, s.pending, 1048591, s⟩ (kvHeldResume slot s) :=
  keeps_kvHeldResume slot s (Sub.of (by decide)) (Keeps.start _ _)
theorem enterIntake_K (s : State) (d : Nat) (f : Flight) : Keeps ⟨false, s.guestSite, s.pending, 0, s⟩ (enterIntake s d f) :=
  keeps_enterIntake s d f (Keeps.start _ _)
theorem startChecked_K (s : State) (d : Nat) (f : Flight) (target : Nat) : Keeps ⟨false, s.guestSite, s.pending, 8, s⟩ (startChecked s d f target) :=
  keeps_startChecked s d f target (Sub.of (by decide)) (Keeps.start _ _)
theorem descriptorStart_K (d : Nat) (s : State) : Keeps ⟨false, s.guestSite, s.pending, 1048584, s⟩ (descriptorStart d s) :=
  keeps_descriptorStart d s (Sub.of (by decide)) (Keeps.start _ _)
theorem rotaBind_K (d : Nat) (s : State) : Keeps ⟨false, s.guestSite, s.pending, 1048616, s⟩ (rotaBind d s) :=
  keeps_rotaBind d s (Sub.of (by decide)) (Keeps.start _ _)
theorem rotaUnbind_K (d : Nat) (s : State) : Keeps ⟨false, s.guestSite, s.pending, 32, s⟩ (rotaUnbind d s) :=
  keeps_rotaUnbind d s (Sub.of (by decide)) (Keeps.start _ _)
theorem beginStep_K (s : State) (d : Nat) (f : Flight) : Keeps ⟨false, s.guestSite, s.pending, 1048619, s⟩ (beginStep s d f) :=
  keeps_beginStep s d f (Sub.of (by decide)) (Keeps.start _ _)
theorem run_K (d : Nat) (s : State) : Keeps ⟨false, s.guestSite, s.pending, 1048619, s⟩ (run d s) :=
  keeps_run d s (Sub.of (by decide)) (Keeps.start _ _)
theorem stepRelease_K (d : Nat) (s : State) : Keeps ⟨false, s.guestSite, s.pending, 1048619, s⟩ (stepRelease d s) :=
  keeps_stepRelease d s (Sub.of (by decide)) (Keeps.start _ _)
theorem failEntry_K (s : State) (k : Nat) (idx : Nat) (st : Nat) (r : StepRun) : Keeps ⟨false, s.guestSite, s.pending, 1048623, s⟩ (failEntry s k idx st r) :=
  keeps_failEntry s k idx st r (Sub.of (by decide)) (Keeps.start _ _)
theorem rotaEntryDispatch_K (d : Nat) (s : State) : Keeps ⟨false, s.guestSite, s.pending, 1048623, s⟩ (rotaEntryDispatch d s) :=
  keeps_rotaEntryDispatch d s (Sub.of (by decide)) (Keeps.start _ _)
theorem commitSeq_K (s : State) (cx : Cx) (q : StepSeq) (v : Accepted) : Keeps ⟨false, s.guestSite, s.pending, 1048591, s⟩ (commitSeq s cx q v) :=
  keeps_commitSeq s cx q v (Sub.of (by decide)) (Keeps.start _ _)
theorem writeOutput_K (s : State) (cx : Cx) (q : StepSeq) (v : Accepted) : Keeps ⟨false, s.guestSite, s.pending, 1048579, s⟩ (writeOutput s cx q v) :=
  keeps_writeOutput s cx q v (Sub.of (by decide)) (Keeps.start _ _)
theorem stepCommit_K (d : Nat) (energyA : Nat) (energyB : Nat) (duration : Nat) (s : State) : Keeps ⟨false, s.guestSite, s.pending, 1048623, s⟩ (stepCommit d energyA energyB duration s) :=
  keeps_stepCommit d energyA energyB duration s (Sub.of (by decide)) (Keeps.start _ _)
theorem trickleCfg_K (d : Nat) (s : State) : Keeps ⟨false, s.guestSite, s.pending, 0, s⟩ (trickleCfg d s) :=
  keeps_trickleCfg d s (Keeps.start _ _)
theorem trickleSave_K (d : Nat) (s : State) : Keeps ⟨false, s.guestSite, s.pending, 1048579, s⟩ (trickleSave d s) :=
  keeps_trickleSave d s (Sub.of (by decide)) (Keeps.start _ _)
theorem trickleResume_K (d : Nat) (s : State) : Keeps ⟨false, s.guestSite, s.pending, 0, s⟩ (trickleResume d s) :=
  keeps_trickleResume d s (Keeps.start _ _)
theorem trickleTimeout_K (d : Nat) (s : State) : Keeps ⟨false, s.guestSite, s.pending, 1048623, s⟩ (trickleTimeout d s) :=
  keeps_trickleTimeout d s (Sub.of (by decide)) (Keeps.start _ _)
theorem winExport_K (d : Nat) (s : State) : Keeps ⟨false, s.guestSite, s.pending, 1048576, s⟩ (winExport d s) :=
  keeps_winExport d s (Sub.of (by decide)) (Keeps.start _ _)
theorem winUnexport_K (d : Nat) (s : State) : Keeps ⟨false, s.guestSite, s.pending, 1048576, s⟩ (winUnexport d s) :=
  keeps_winUnexport d s (Sub.of (by decide)) (Keeps.start _ _)
theorem winUnexportDone_K (d : Nat) (s : State) : Keeps ⟨false, s.guestSite, s.pending, 1048576, s⟩ (winUnexportDone d s) :=
  keeps_winUnexportDone d s (Sub.of (by decide)) (Keeps.start _ _)
theorem winImport_K (d : Nat) (s : State) : Keeps ⟨false, s.guestSite, s.pending, 1048576, s⟩ (winImport d s) :=
  keeps_winImport d s (Sub.of (by decide)) (Keeps.start _ _)
theorem winUnimport_K (d : Nat) (s : State) : Keeps ⟨false, s.guestSite, s.pending, 1048576, s⟩ (winUnimport d s) :=
  keeps_winUnimport d s (Sub.of (by decide)) (Keeps.start _ _)
theorem sentAll_K (s : State) (d : Nat) : Keeps ⟨false, s.guestSite, s.pending, 0, s⟩ (sentAll s d) :=
  keeps_sentAll s d (Keeps.start _ _)
theorem remoteRead_K (d : Nat) (s : State) : Keeps ⟨false, s.guestSite, s.pending, 1048584, s⟩ (remoteRead d s) :=
  keeps_remoteRead d s (Sub.of (by decide)) (Keeps.start _ _)
theorem remoteWrite_K (d : Nat) (s : State) : Keeps ⟨false, s.guestSite, s.pending, 1048584, s⟩ (remoteWrite d s) :=
  keeps_remoteWrite d s (Sub.of (by decide)) (Keeps.start _ _)
theorem remoteAtomic_K (d : Nat) (s : State) : Keeps ⟨false, s.guestSite, s.pending, 1048584, s⟩ (remoteAtomic d s) :=
  keeps_remoteAtomic d s (Sub.of (by decide)) (Keeps.start _ _)
theorem remoteSignal_K (d : Nat) (s : State) : Keeps ⟨false, s.guestSite, s.pending, 1048584, s⟩ (remoteSignal d s) :=
  keeps_remoteSignal d s (Sub.of (by decide)) (Keeps.start _ _)
theorem delOut_K (s : State) (n : Nat) : Keeps ⟨false, s.guestSite, s.pending, 1048576, s⟩ (delOut s n) :=
  keeps_delOut s n (Sub.of (by decide)) (Keeps.start _ _)
theorem settleF_K (s : State) (d : Nat) : Keeps ⟨false, s.guestSite, s.pending, 0, s⟩ (settleF s d) :=
  keeps_settleF s d (Keeps.start _ _)
theorem failF_K (s : State) (d : Nat) (st : Nat) : Keeps ⟨false, s.guestSite, s.pending, 1048623, s⟩ (failF s d st) :=
  keeps_failF s d st (Sub.of (by decide)) (Keeps.start _ _)
theorem swapFailed_K (s : State) (slot : Nat) : Keeps ⟨false, s.guestSite, s.pending, 1048584, s⟩ (swapFailed s slot) :=
  keeps_swapFailed s slot (Sub.of (by decide)) (Keeps.start _ _)
theorem failOut_K (s : State) (n : Nat) (o : OutReq) (st : Nat) : Keeps ⟨false, s.guestSite, s.pending, 1048623, s⟩ (failOut s n o st) :=
  keeps_failOut s n o st (Sub.of (by decide)) (Keeps.start _ _)
theorem goodAnswer_K (s : State) (n : Nat) (o : OutReq) (m : RemMsg) : Keeps ⟨false, s.guestSite, s.pending, 1048623, s⟩ (goodAnswer s n o m) :=
  keeps_goodAnswer s n o m (Sub.of (by decide)) (Keeps.start _ _)
theorem takeAnswer_K (type : Nat) (port : Nat) (m : RemMsg) (s : State) : Keeps ⟨false, s.guestSite, s.pending, 1048623, s⟩ (takeAnswer type port m s) :=
  keeps_takeAnswer type port m s (Sub.of (by decide)) (Keeps.start _ _)
theorem rdData_K (port : Nat) (m : RemMsg) (s : State) : Keeps ⟨false, s.guestSite, s.pending, 1048623, s⟩ (rdData port m s) :=
  keeps_rdData port m s (Sub.of (by decide)) (Keeps.start _ _)
theorem wrAck_K (port : Nat) (m : RemMsg) (s : State) : Keeps ⟨false, s.guestSite, s.pending, 1048623, s⟩ (wrAck port m s) :=
  keeps_wrAck port m s (Sub.of (by decide)) (Keeps.start _ _)
theorem atomAck_K (port : Nat) (m : RemMsg) (s : State) : Keeps ⟨false, s.guestSite, s.pending, 1048623, s⟩ (atomAck port m s) :=
  keeps_atomAck port m s (Sub.of (by decide)) (Keeps.start _ _)
theorem sigAck_K (port : Nat) (m : RemMsg) (s : State) : Keeps ⟨false, s.guestSite, s.pending, 1048623, s⟩ (sigAck port m s) :=
  keeps_sigAck port m s (Sub.of (by decide)) (Keeps.start _ _)
theorem impR_K (port : Nat) (m : RemMsg) (s : State) : Keeps ⟨false, s.guestSite, s.pending, 1048623, s⟩ (impR port m s) :=
  keeps_impR port m s (Sub.of (by decide)) (Keeps.start _ _)
theorem recordDenied_K (s : State) (key : Nat) : Keeps ⟨false, s.guestSite, s.pending, 1048576, s⟩ (recordDenied s key) :=
  keeps_recordDenied s key (Sub.of (by decide)) (Keeps.start _ _)
theorem turnAway_K (s : State) (hash : Nat) (m : RemMsg) (status : Nat) : Keeps ⟨false, s.guestSite, s.pending, 1048576, s⟩ (turnAway s hash m status) :=
  keeps_turnAway s hash m status (Sub.of (by decide)) (Keeps.start _ _)
theorem rd_K (port : Nat) (m : RemMsg) (s : State) : Keeps ⟨false, s.guestSite, s.pending, 1048576, s⟩ (rd port m s) :=
  keeps_rd port m s (Sub.of (by decide)) (Keeps.start _ _)
theorem putStream_K (s : State) (key : Nat) (x : StreamIn) : Keeps ⟨false, s.guestSite, s.pending, 1048576, s⟩ (putStream s key x) :=
  keeps_putStream s key x (Sub.of (by decide)) (Keeps.start _ _)
theorem applyReq_K (s : State) (e : Export) (m : RemMsg) : Keeps ⟨false, s.guestSite, s.pending, 1589267, s⟩ (applyReq s e m).1 :=
  keeps_applyReq s e m (Sub.of (by decide)) (Keeps.start _ _)
theorem serveSeq_K (s : State) (hash : Nat) (key : Nat) (m : RemMsg) : Keeps ⟨false, s.guestSite, s.pending, 1589267, s⟩ (serveSeq s hash key m) :=
  keeps_serveSeq s hash key m (Sub.of (by decide)) (Keeps.start _ _)
theorem countUse_K (s : State) (m : RemMsg) (up : Bool) : Keeps ⟨false, s.guestSite, s.pending, 1048576, s⟩ (countUse s m up) :=
  keeps_countUse s m up (Sub.of (by decide)) (Keeps.start _ _)
theorem serveHeld_K (s : State) (hash : Nat) (key : Nat) (m : RemMsg) : Keeps ⟨false, s.guestSite, s.pending, 1589267, s⟩ (serveHeld s hash key m) :=
  keeps_serveHeld s hash key m (Sub.of (by decide)) (Keeps.start _ _)
theorem releaseSignals_K (a0 : Nat) (a1 : State) (a2 : Nat) : Keeps ⟨false, a1.guestSite, a1.pending, 1589267, a1⟩ (releaseSignals a0 a1 a2) :=
  keeps_releaseSignals a0 a1 a2 (Sub.of (by decide)) (Keeps.start _ _)
theorem takeNumbered_K (type : Nat) (port : Nat) (m : RemMsg) (s : State) : Keeps ⟨false, s.guestSite, s.pending, 1589267, s⟩ (takeNumbered type port m s) :=
  keeps_takeNumbered type port m s (Sub.of (by decide)) (Keeps.start _ _)
theorem wr_K (port : Nat) (m : RemMsg) (s : State) : Keeps ⟨false, s.guestSite, s.pending, 1589267, s⟩ (wr port m s) :=
  keeps_wr port m s (Sub.of (by decide)) (Keeps.start _ _)
theorem atom_K (port : Nat) (m : RemMsg) (s : State) : Keeps ⟨false, s.guestSite, s.pending, 1589267, s⟩ (atom port m s) :=
  keeps_atom port m s (Sub.of (by decide)) (Keeps.start _ _)
theorem sig_K (port : Nat) (m : RemMsg) (s : State) : Keeps ⟨false, s.guestSite, s.pending, 1589267, s⟩ (sig port m s) :=
  keeps_sig port m s (Sub.of (by decide)) (Keeps.start _ _)
theorem impQ_K (port : Nat) (m : RemMsg) (s : State) : Keeps ⟨false, s.guestSite, s.pending, 1048576, s⟩ (impQ port m s) :=
  keeps_impQ port m s (Sub.of (by decide)) (Keeps.start _ _)
theorem rdResend_K (req : Nat) (s : State) : Keeps ⟨false, s.guestSite, s.pending, 1048576, s⟩ (rdResend req s) :=
  keeps_rdResend req s (Sub.of (by decide)) (Keeps.start _ _)
theorem remoteRetry_K (req : Nat) (s : State) : Keeps ⟨false, s.guestSite, s.pending, 1048623, s⟩ (remoteRetry req s) :=
  keeps_remoteRetry req s (Sub.of (by decide)) (Keeps.start _ _)
theorem neighbourLost_K (hash : Nat) (s : State) : Keeps ⟨false, s.guestSite, s.pending, 1048623, s⟩ (neighbourLost hash s) :=
  keeps_neighbourLost hash s (Sub.of (by decide)) (Keeps.start _ _)
theorem sealHostFail_K (s : State) (d : Nat) (p : Nat) : Keeps ⟨false, s.guestSite, s.pending, 0, s⟩ (sealHostFail s d p) :=
  keeps_sealHostFail s d p (Keeps.start _ _)
theorem sealInCells_K (d : Nat) (f : Flight) (r : SealRec) (k : KeySlot) (a4 : Nat) (a5 : Nat) (a6 : State) : Keeps ⟨false, a6.guestSite, a6.pending, 1048587, a6⟩ (sealInCells d f r k a4 a5 a6) :=
  keeps_sealInCells d f r k a4 a5 a6 (Sub.of (by decide)) (Keeps.start _ _)
theorem sealIn_K (d : Nat) (s : State) : Keeps ⟨false, s.guestSite, s.pending, 1048587, s⟩ (sealIn d s) :=
  keeps_sealIn d s (Sub.of (by decide)) (Keeps.start _ _)
theorem sealOutCell_K (d : Nat) (f : Flight) (r : SealRec) (k : KeySlot) (i : Nat) (s : State) : Keeps ⟨false, s.guestSite, s.pending, 1048584, s⟩ (sealOutCell d f r k i s).1 :=
  keeps_sealOutCell d f r k i s (Sub.of (by decide)) (Keeps.start _ _)
theorem sealOutCells_K (d : Nat) (f : Flight) (r : SealRec) (k : KeySlot) (n : Nat) (s : State) : Keeps ⟨false, s.guestSite, s.pending, 1048584, s⟩ (sealOutCells d f r k n s) :=
  keeps_sealOutCells d f r k n s (Sub.of (by decide)) (Keeps.start _ _)
theorem sealOut_K (d : Nat) (s : State) : Keeps ⟨false, s.guestSite, s.pending, 1048715, s⟩ (sealOut d s) :=
  keeps_sealOut d s (Sub.of (by decide)) (Keeps.start _ _)
theorem evalPorts_K (s : State) : Keeps ⟨false, s.guestSite, s.pending, 1081344, s⟩ (evalPorts s) :=
  keeps_evalPorts s (Sub.of (by decide)) (Keeps.start _ _)
theorem judgeTopo_K (s : State) : Keeps ⟨false, s.guestSite, s.pending, 4096, s⟩ (judgeTopo s) :=
  keeps_judgeTopo s (Sub.of (by decide)) (Keeps.start _ _)
theorem topoRead_K (d : Nat) (s : State) : Keeps ⟨false, s.guestSite, s.pending, 0, s⟩ (topoRead d s) :=
  keeps_topoRead d s (Keeps.start _ _)
theorem topoAccept_K (d : Nat) (readbackOk : Bool) (s : State) : Keeps ⟨false, s.guestSite, s.pending, 3182592, s⟩ (topoAccept d readbackOk s) :=
  keeps_topoAccept d readbackOk s (Sub.of (by decide)) (Keeps.start _ _)
theorem writeLife_K (s : State) : Keeps ⟨false, s.guestSite, s.pending, 2097152, s⟩ (writeLife s) :=
  keeps_writeLife s (Sub.of (by decide)) (Keeps.start _ _)
theorem recBytes_K (s : State) (i : Nat) (stored : Bool) (n : Nat) : Keeps ⟨false, s.guestSite, s.pending, 0, s⟩ (recBytes s i stored n).2 :=
  keeps_recBytes s i stored n (Keeps.start _ _)
theorem editShadow_K (s : State) (i : Nat) (off : Nat) (data : List Byte) : Keeps ⟨false, s.guestSite, s.pending, 2097152, s⟩ (editShadow s i off data) :=
  keeps_editShadow s i off data (Sub.of (by decide)) (Keeps.start _ _)
theorem settingWrite_K (d : Nat) (s : State) : Keeps ⟨false, s.guestSite, s.pending, 2097152, s⟩ (settingWrite d s) :=
  keeps_settingWrite d s (Sub.of (by decide)) (Keeps.start _ _)
theorem settingRead_K (d : Nat) (s : State) : Keeps ⟨false, s.guestSite, s.pending, 0, s⟩ (settingRead d s) :=
  keeps_settingRead d s (Keeps.start _ _)
theorem storeOne_K (s : State) (bad : List Nat) (i : Nat) : Keeps ⟨false, s.guestSite, s.pending, 2097152, s⟩ (storeOne s bad i).1 :=
  keeps_storeOne s bad i (Sub.of (by decide)) (Keeps.start _ _)
theorem storeList_K (s : State) (bad : List Nat) (a2 : List Nat) : Keeps ⟨false, s.guestSite, s.pending, 2097152, s⟩ (storeList s bad a2).1 :=
  keeps_storeList s bad a2 (Sub.of (by decide)) (Keeps.start _ _)
theorem store_K (d : Nat) (badReadback : List Nat) (s : State) : Keeps ⟨false, s.guestSite, s.pending, 3182592, s⟩ (store d badReadback s) :=
  keeps_store d badReadback s (Sub.of (by decide)) (Keeps.start _ _)
theorem lifetimeHourly_K (s : State) : Keeps ⟨false, s.guestSite, s.pending, 2097152, s⟩ (lifetimeHourly s) :=
  keeps_lifetimeHourly s (Sub.of (by decide)) (Keeps.start _ _)
theorem signBy_K (s : State) (key : Nat) (m : List Byte) : Keeps ⟨false, s.guestSite, s.pending, 0, s⟩ (signBy s key m).2 :=
  keeps_signBy s key m (Keeps.start _ _)
theorem loadCuff_K (s : State) : Keeps ⟨false, s.guestSite, s.pending, 16384, s⟩ (loadCuff s) :=
  keeps_loadCuff s (Sub.of (by decide)) (Keeps.start _ _)
theorem holdGuest_K (s : State) : Keeps ⟨false, s.guestSite, s.pending, 16384, s⟩ (holdGuest s) :=
  keeps_holdGuest s (Sub.of (by decide)) (Keeps.start _ _)
theorem ownerReply_K (s : State) (d : Nat) (kind : Nat) (m : Owner) (area : List Byte) : Keeps ⟨false, s.guestSite, s.pending, 0, s⟩ (ownerReply s d kind m area) :=
  keeps_ownerReply s d kind m area (Keeps.start _ _)
theorem commitOwner_K (s : State) (ok : Bool) : Keeps ⟨false, s.guestSite, s.pending, 2097152, s⟩ (commitOwner s ok) :=
  keeps_commitOwner s ok (Sub.of (by decide)) (Keeps.start _ _)
theorem setPolicy_K (s : State) (p : Policy) : Keeps ⟨false, s.guestSite, s.pending, 64, s⟩ (setPolicy s p) :=
  keeps_setPolicy s p (Sub.of (by decide)) (Keeps.start _ _)
theorem destroyAll_K (s : State) : Keeps ⟨false, s.guestSite, s.pending, 3850943, s⟩ (destroyAll s) :=
  keeps_destroyAll s (Sub.of (by decide)) (Keeps.start _ _)
theorem ownerMsgClaim_K (d : Nat) (commitOk : Bool) (s : State) : Keeps ⟨false, s.guestSite, s.pending, 3851007, s⟩ (ownerMsgClaim d commitOk s) :=
  keeps_ownerMsgClaim d commitOk s (Sub.of (by decide)) (Keeps.start _ _)
theorem ownerMsgPolicy_K (d : Nat) (commitOk : Bool) (s : State) : Keeps ⟨false, s.guestSite, s.pending, 2146368, s⟩ (ownerMsgPolicy d commitOk s) :=
  keeps_ownerMsgPolicy d commitOk s (Sub.of (by decide)) (Keeps.start _ _)
theorem unpair_K (s : State) (k : Nat) : Keeps ⟨false, s.guestSite, s.pending, 1048623, s⟩ (unpair s k) :=
  keeps_unpair s k (Sub.of (by decide)) (Keeps.start _ _)
theorem ownerMsgPairing_K (d : Nat) (commitOk : Bool) (s : State) : Keeps ⟨false, s.guestSite, s.pending, 3145839, s⟩ (ownerMsgPairing d commitOk s) :=
  keeps_ownerMsgPairing d commitOk s (Sub.of (by decide)) (Keeps.start _ _)
theorem enterDebug_K (s : State) (scope : Nat) : Keeps ⟨false, s.guestSite, s.pending, 3850943, s⟩ (enterDebug s scope) :=
  keeps_enterDebug s scope (Sub.of (by decide)) (Keeps.start _ _)
theorem ownerMsgDebug_K (d : Nat) (commitOk : Bool) (s : State) : Keeps ⟨false, s.guestSite, s.pending, 3851007, s⟩ (ownerMsgDebug d commitOk s) :=
  keeps_ownerMsgDebug d commitOk s (Sub.of (by decide)) (Keeps.start _ _)
theorem debugEntered_K (s : State) : Keeps ⟨false, s.guestSite, s.pending, 0, s⟩ (debugEntered s) :=
  keeps_debugEntered s (Keeps.start _ _)
theorem ownerMsgKeyRelease_K (d : Nat) (s : State) : Keeps ⟨false, s.guestSite, s.pending, 2097280, s⟩ (ownerMsgKeyRelease d s) :=
  keeps_ownerMsgKeyRelease d s (Sub.of (by decide)) (Keeps.start _ _)
theorem fillZero_K (s : State) (x : Fill) : Keeps ⟨false, s.guestSite, s.pending, 3, s⟩ (fillZero s x) :=
  keeps_fillZero s x (Sub.of (by decide)) (Keeps.start _ _)
theorem endFill_K (s : State) (x : Fill) : Keeps ⟨false, s.guestSite, s.pending, 2097155, s⟩ (endFill s x) :=
  keeps_endFill s x (Sub.of (by decide)) (Keeps.start _ _)
theorem zeroFillDone_K (p : Nat) (s : State) : Keeps ⟨false, s.guestSite, s.pending, 2097155, s⟩ (zeroFillDone p s) :=
  keeps_zeroFillDone p s (Sub.of (by decide)) (Keeps.start _ _)
theorem blowFuse_K (s : State) (ty : Nat) : Keeps ⟨false, s.guestSite, s.pending, 2048, s⟩ (blowFuse s ty) :=
  keeps_blowFuse s ty (Sub.of (by decide)) (Keeps.start _ _)
theorem blowDue_K (s : State) : Keeps ⟨false, s.guestSite, s.pending, 2048, s⟩ (blowDue s) :=
  keeps_blowDue s (Sub.of (by decide)) (Keeps.start _ _)
theorem pkgState_K (d : Nat) (s : State) : Keeps ⟨false, s.guestSite, s.pending, 1085487, s⟩ (pkgState d s) :=
  keeps_pkgState d s (Sub.of (by decide)) (Keeps.start _ _)
theorem levelSlewDone_K (s : State) : Keeps ⟨false, s.guestSite, s.pending, 4096, s⟩ (levelSlewDone s) :=
  keeps_levelSlewDone s (Sub.of (by decide)) (Keeps.start _ _)
theorem readyDrainTimeout_K (s : State) : Keeps ⟨false, s.guestSite, s.pending, 1085487, s⟩ (readyDrainTimeout s) :=
  keeps_readyDrainTimeout s (Sub.of (by decide)) (Keeps.start _ _)
theorem powerCap_K (d : Nat) (s : State) : Keeps ⟨false, s.guestSite, s.pending, 12288, s⟩ (powerCap d s) :=
  keeps_powerCap d s (Sub.of (by decide)) (Keeps.start _ _)
theorem leaveTrip_K (s : State) : Keeps ⟨false, s.guestSite, s.pending, 14336, s⟩ (leaveTrip s) :=
  keeps_leaveTrip s (Sub.of (by decide)) (Keeps.start _ _)
theorem startPhase_K (s : State) (p : Phase) : Keeps ⟨false, s.guestSite, s.pending, 0, s⟩ (startPhase s p) :=
  keeps_startPhase s p (Keeps.start _ _)
theorem endNet_K (s : State) : Keeps ⟨false, s.guestSite, s.pending, 12288, s⟩ (endNet s) :=
  keeps_endNet s (Sub.of (by decide)) (Keeps.start _ _)
theorem tripAck_K (d : Nat) (s : State) : Keeps ⟨false, s.guestSite, s.pending, 14336, s⟩ (tripAck d s) :=
  keeps_tripAck d s (Sub.of (by decide)) (Keeps.start _ _)
theorem fwStage_K (d : Nat) (s : State) : Keeps ⟨false, s.guestSite, s.pending, 2048, s⟩ (fwStage d s) :=
  keeps_fwStage d s (Sub.of (by decide)) (Keeps.start _ _)
theorem fwActivate_K (d : Nat) (s : State) : Keeps ⟨false, s.guestSite, s.pending, 2048, s⟩ (fwActivate d s) :=
  keeps_fwActivate d s (Sub.of (by decide)) (Keeps.start _ _)
theorem liveActivationCheck_K (refreshed : Bool) (s : State) : Keeps ⟨false, s.guestSite, s.pending, 2048, s⟩ (liveActivationCheck refreshed s) :=
  keeps_liveActivationCheck refreshed s (Sub.of (by decide)) (Keeps.start _ _)
theorem startDeferred_K (s : State) : Keeps ⟨false, s.guestSite, s.pending, 131072, s⟩ (startDeferred s) :=
  keeps_startDeferred s (Sub.of (by decide)) (Keeps.start _ _)
theorem endHoliday_K (s : State) : Keeps ⟨false, s.guestSite, s.pending, 1802287, s⟩ (endHoliday s) :=
  keeps_endHoliday s (Sub.of (by decide)) (Keeps.start _ _)
theorem holidayGrant_K (d : Nat) (s : State) : Keeps ⟨false, s.guestSite, s.pending, 1802287, s⟩ (holidayGrant d s) :=
  keeps_holidayGrant d s (Sub.of (by decide)) (Keeps.start _ _)
theorem holidayExpire_K (s : State) : Keeps ⟨false, s.guestSite, s.pending, 1802287, s⟩ (holidayExpire s) :=
  keeps_holidayExpire s (Sub.of (by decide)) (Keeps.start _ _)
theorem testCommand_K (s : State) (d : Nat) (op : Nat) (cal : Bool) : Keeps ⟨false, s.guestSite, s.pending, 1703983, s⟩ (testCommand s d op cal) :=
  keeps_testCommand s d op cal (Sub.of (by decide)) (Keeps.start _ _)
theorem selftest_K (d : Nat) (s : State) : Keeps ⟨false, s.guestSite, s.pending, 1703983, s⟩ (selftest d s) :=
  keeps_selftest d s (Sub.of (by decide)) (Keeps.start _ _)
theorem calibrate_K (d : Nat) (s : State) : Keeps ⟨false, s.guestSite, s.pending, 1703983, s⟩ (calibrate d s) :=
  keeps_calibrate d s (Sub.of (by decide)) (Keeps.start _ _)
theorem chargeFailure_K (s : State) (e : Nat × Nat × Nat) : Keeps ⟨false, s.guestSite, s.pending, 1114159, s⟩ (chargeFailure s e) :=
  keeps_chargeFailure s e (Sub.of (by decide)) (Keeps.start _ _)
theorem putShadow_K (s : State) (i : Nat) (l : List (Nat × List Byte)) : Keeps ⟨false, s.guestSite, s.pending, 2097152, s⟩ (putShadow s i l) :=
  keeps_putShadow s i l (Sub.of (by decide)) (Keeps.start _ _)
theorem putTrained_K (s : State) (i : Nat) (slot : Nat) (l : List (Nat × List Byte)) : Keeps ⟨false, s.guestSite, s.pending, 2097152, s⟩ (putTrained s i slot l) :=
  keeps_putTrained s i slot l (Sub.of (by decide)) (Keeps.start _ _)
theorem storeThermal_K (s : State) (t : TestRun) (x : ThermalCal) : Keeps ⟨false, s.guestSite, s.pending, 2105344, s⟩ (storeThermal s t x) :=
  keeps_storeThermal s t x (Sub.of (by decide)) (Keeps.start _ _)
theorem testContent_K (s : State) (t : TestRun) (v : TestVerdict) : Keeps ⟨false, s.guestSite, s.pending, 2105347, s⟩ (testContent s t v) :=
  keeps_testContent s t v (Sub.of (by decide)) (Keeps.start _ _)
theorem testDone_K (v : TestVerdict) (s : State) : Keeps ⟨false, s.guestSite, s.pending, 3907631, s⟩ (testDone v s) :=
  keeps_testDone v s (Sub.of (by decide)) (Keeps.start _ _)
theorem retirePage_K (d : Nat) (s : State) : Keeps ⟨false, s.guestSite, s.pending, 1048591, s⟩ (retirePage d s) :=
  keeps_retirePage d s (Sub.of (by decide)) (Keeps.start _ _)
theorem retireBank_K (d : Nat) (s : State) : Keeps ⟨false, s.guestSite, s.pending, 1048591, s⟩ (retireBank d s) :=
  keeps_retireBank d s (Sub.of (by decide)) (Keeps.start _ _)
theorem retireMoveDone_K (target : Nat) (s : State) : Keeps ⟨false, s.guestSite, s.pending, 32768, s⟩ (retireMoveDone target s) :=
  keeps_retireMoveDone target s (Sub.of (by decide)) (Keeps.start _ _)
theorem snapArm_K (d : Nat) (s : State) : Keeps ⟨false, s.guestSite, s.pending, 0, s⟩ (snapArm d s) :=
  keeps_snapArm d s (Keeps.start _ _)
theorem snapTrigger_K (d : Nat) (s : State) : Keeps ⟨false, s.guestSite, s.pending, 0, s⟩ (snapTrigger d s) :=
  keeps_snapTrigger d s (Keeps.start _ _)
theorem equinoxInput_K (s : State) : Keeps ⟨false, s.guestSite, s.pending, 0, s⟩ (equinoxInput s) :=
  keeps_equinoxInput s (Keeps.start _ _)
theorem sealedT_K (s : State) (b : Bank) : Keeps ⟨false, s.guestSite, s.pending, 128, s⟩ (sealedT s b).2 :=
  keeps_sealedT s b (Sub.of (by decide)) (Keeps.start _ _)
theorem imageOf_K (s : State) (b : Bank) : Keeps ⟨false, s.guestSite, s.pending, 128, s⟩ (imageOf s b).2 :=
  keeps_imageOf s b (Sub.of (by decide)) (Keeps.start _ _)
theorem snapRead_K (d : Nat) (s : State) : Keeps ⟨false, s.guestSite, s.pending, 128, s⟩ (snapRead d s) :=
  keeps_snapRead d s (Sub.of (by decide)) (Keeps.start _ _)
theorem kat_K (d : Nat) (failing : List Nat) (s : State) : Keeps ⟨false, s.guestSite, s.pending, 1114159, s⟩ (kat d failing s) :=
  keeps_kat d failing s (Sub.of (by decide)) (Keeps.start _ _)
theorem repairRead_K (d : Nat) (s : State) : Keeps ⟨false, s.guestSite, s.pending, 0, s⟩ (repairRead d s) :=
  keeps_repairRead d s (Keeps.start _ _)
theorem rowRemap_K (d : Nat) (s : State) : Keeps ⟨false, s.guestSite, s.pending, 1114159, s⟩ (rowRemap d s) :=
  keeps_rowRemap d s (Sub.of (by decide)) (Keeps.start _ _)
theorem ppr_K (d : Nat) (fuseOk : Bool) (s : State) : Keeps ⟨false, s.guestSite, s.pending, 0, s⟩ (ppr d fuseOk s) :=
  keeps_ppr d fuseOk s (Keeps.start _ _)
theorem tap_K (d : Nat) (s : State) : Keeps ⟨false, s.guestSite, s.pending, 0, s⟩ (tap d s) :=
  keeps_tap d s (Keeps.start _ _)
theorem engineCtrl_K (d : Nat) (s : State) : Keeps ⟨false, s.guestSite, s.pending, 0, s⟩ (engineCtrl d s) :=
  keeps_engineCtrl d s (Keeps.start _ _)
theorem arrayRead_K (d : Nat) (found : List (Nat × EccFinding)) (s : State) : Keeps ⟨false, s.guestSite, s.pending, 1114159, s⟩ (arrayRead d found s) :=
  keeps_arrayRead d found s (Sub.of (by decide)) (Keeps.start _ _)
theorem scanDump_K (d : Nat) (s : State) : Keeps ⟨false, s.guestSite, s.pending, 0, s⟩ (scanDump d s) :=
  keeps_scanDump d s (Keeps.start _ _)
theorem bundleChange_K (s : State) (b : Nat) (d : Nat) (ev : Nat) (lane : Nat) : Keeps ⟨false, s.guestSite, s.pending, 1867823, s⟩ (bundleChange s b d ev lane) :=
  keeps_bundleChange s b d ev lane (Sub.of (by decide)) (Keeps.start _ _)
theorem retireBundle_K (s : State) (b : Nat) (d : Nat) (lane : Nat) : Keeps ⟨false, s.guestSite, s.pending, 1867823, s⟩ (retireBundle s b d lane) :=
  keeps_retireBundle s b d lane (Sub.of (by decide)) (Keeps.start _ _)
theorem retireLane_K (s : State) (b : Nat) (d : Nat) (lane : Nat) : Keeps ⟨false, s.guestSite, s.pending, 1867823, s⟩ (retireLane s b d lane) :=
  keeps_retireLane s b d lane (Sub.of (by decide)) (Keeps.start _ _)
theorem laneRetire_K (bundle : Nat) (dir : Nat) (lane : Nat) (s : State) : Keeps ⟨false, s.guestSite, s.pending, 1867823, s⟩ (laneRetire bundle dir lane s) :=
  keeps_laneRetire bundle dir lane s (Sub.of (by decide)) (Keeps.start _ _)
theorem laneRecalibration_K (bundle : Nat) (dir : Nat) (lane : Nat) (s : State) : Keeps ⟨false, s.guestSite, s.pending, 262144, s⟩ (laneRecalibration bundle dir lane s) :=
  keeps_laneRecalibration bundle dir lane s (Sub.of (by decide)) (Keeps.start _ _)
theorem chargeLanes_K (s : State) (b : Nat) (d : Nat) (bad : List Nat) (last : List Nat) : Keeps ⟨false, s.guestSite, s.pending, 0, s⟩ (chargeLanes s b d bad last) :=
  keeps_chargeLanes s b d bad last (Keeps.start _ _)
theorem frameReceive_K (bundle : Nat) (dir : Nat) (f : Frame) (s : State) : Keeps ⟨false, s.guestSite, s.pending, 1867823, s⟩ (frameReceive bundle dir f s) :=
  keeps_frameReceive bundle dir f s (Sub.of (by decide)) (Keeps.start _ _)
theorem liningMessage_K (link : Nat) (seq : Nat) (prio : Nat) (crcOk : Bool) (payload : List Byte) (s : State) : Keeps ⟨false, s.guestSite, s.pending, 262144, s⟩ (liningMessage link seq prio crcOk payload s) :=
  keeps_liningMessage link seq prio crcOk payload s (Sub.of (by decide)) (Keeps.start _ _)
theorem portsDown_K (s : State) (a : Nat) (n : Nat) (hold : Nat) : Keeps ⟨false, s.guestSite, s.pending, 1081344, s⟩ (portsDown s a n hold) :=
  keeps_portsDown s a n hold (Sub.of (by decide)) (Keeps.start _ _)
theorem portsBack_K (s : State) (a : Nat) (n : Nat) (hold : Nat) : Keeps ⟨false, s.guestSite, s.pending, 1048576, s⟩ (portsBack s a n hold) :=
  keeps_portsBack s a n hold (Sub.of (by decide)) (Keeps.start _ _)
theorem stopTower_K (s : State) (t : Nat) (st : Nat) : Keeps ⟨false, s.guestSite, s.pending, 1048623, s⟩ (stopTower s t st) :=
  keeps_stopTower s t st (Sub.of (by decide)) (Keeps.start _ _)
theorem dropBaseB_K (s0 : State) : Keeps ⟨false, s0.guestSite, s0.pending, 0, s0⟩ (dropBaseB s0) :=
  keeps_dropBaseB s0 (Keeps.start _ _)
theorem startDieReset_K (s : State) (die : Nat) : Keeps ⟨false, s.guestSite, s.pending, 1867823, s⟩ (startDieReset s die) :=
  keeps_startDieReset s die (Sub.of (by decide)) (Keeps.start _ _)
theorem holdInput_K (s : State) (i : Nat) : Keeps ⟨false, s.guestSite, s.pending, 4096, s⟩ (holdInput s i) :=
  keeps_holdInput s i (Sub.of (by decide)) (Keeps.start _ _)
theorem dieResetInput_K (die : Nat) (s : State) : Keeps ⟨false, s.guestSite, s.pending, 1871919, s⟩ (dieResetInput die s) :=
  keeps_dieResetInput die s (Sub.of (by decide)) (Keeps.start _ _)
theorem newSeason_K (badSeasons : List Nat) (s : State) (c : Nat) : Keeps ⟨false, s.guestSite, s.pending, 2162696, s⟩ (newSeason badSeasons s c) :=
  keeps_newSeason badSeasons s c (Sub.of (by decide)) (Keeps.start _ _)
theorem endDieReset_K (s : State) (die : Nat) (st : Nat) : Keeps ⟨false, s.guestSite, s.pending, 262144, s⟩ (endDieReset s die st) :=
  keeps_endDieReset s die st (Sub.of (by decide)) (Keeps.start _ _)
theorem dieBack_K (die : Nat) (failing : List Nat) (badSeasons : List Nat) (s : State) : Keeps ⟨false, s.guestSite, s.pending, 3997743, s⟩ (dieBack die failing badSeasons s) :=
  keeps_dieBack die failing badSeasons s (Sub.of (by decide)) (Keeps.start _ _)
theorem dieLost_K (die : Nat) (s : State) : Keeps ⟨false, s.guestSite, s.pending, 1867823, s⟩ (dieLost die s) :=
  keeps_dieLost die s (Sub.of (by decide)) (Keeps.start _ _)
theorem refclkLost_K (tower : Nat) (s : State) : Keeps ⟨false, s.guestSite, s.pending, 1868847, s⟩ (refclkLost tower s) :=
  keeps_refclkLost tower s (Sub.of (by decide)) (Keeps.start _ _)
theorem refclkRestored_K (tower : Nat) (s : State) : Keeps ⟨false, s.guestSite, s.pending, 263168, s⟩ (refclkRestored tower s) :=
  keeps_refclkRestored tower s (Sub.of (by decide)) (Keeps.start _ _)
theorem liftClock_K (s : State) (tower : Nat) : Keeps ⟨false, s.guestSite, s.pending, 1835055, s⟩ (liftClock s tower) :=
  keeps_liftClock s tower (Sub.of (by decide)) (Keeps.start _ _)
theorem tick_K (s : State) : Keeps ⟨false, s.guestSite, s.pending, 1836079, s⟩ (tick s) :=
  keeps_tick s (Sub.of (by decide)) (Keeps.start _ _)
theorem portUp_K (s : State) (p : Nat) : Keeps ⟨false, s.guestSite, s.pending, 1081344, s⟩ (portUp s p) :=
  keeps_portUp s p (Sub.of (by decide)) (Keeps.start _ _)
theorem retirePort_K (s : State) (p : Nat) : Keeps ⟨false, s.guestSite, s.pending, 1081344, s⟩ (retirePort s p) :=
  keeps_retirePort s p (Sub.of (by decide)) (Keeps.start _ _)
theorem chargeTrain_K (s : State) (p : Nat) (failed : Bool) : Keeps ⟨false, s.guestSite, s.pending, 1081344, s⟩ (chargeTrain s p failed) :=
  keeps_chargeTrain s p failed (Sub.of (by decide)) (Keeps.start _ _)
theorem sendIdle_K (s : State) (p : Nat) : Keeps ⟨false, s.guestSite, s.pending, 1048576, s⟩ (sendIdle s p) :=
  keeps_sendIdle s p (Sub.of (by decide)) (Keeps.start _ _)
theorem nakFlit_K (s : State) (p : Nat) (f : Flit) (corrupt : Bool) : Keeps ⟨false, s.guestSite, s.pending, 1081344, s⟩ (nakFlit s p f corrupt) :=
  keeps_nakFlit s p f corrupt (Sub.of (by decide)) (Keeps.start _ _)
theorem takeHeader_K (s : State) (p : Nat) (f : Flit) : Keeps ⟨false, s.guestSite, s.pending, 1081344, s⟩ (takeHeader s p f) :=
  keeps_takeHeader s p f (Sub.of (by decide)) (Keeps.start _ _)
theorem serveMsg_K (s : State) (p : Nat) (m : RemMsg) : Keeps ⟨false, s.guestSite, s.pending, 1589311, s⟩ (serveMsg s p m) :=
  keeps_serveMsg s p m (Sub.of (by decide)) (Keeps.start _ _)
theorem serveRx_K (a0 : Nat) (a1 : State) (a2 : Nat) : Keeps ⟨false, a1.guestSite, a1.pending, 1589311, a1⟩ (serveRx a0 a1 a2) :=
  keeps_serveRx a0 a1 a2 (Sub.of (by decide)) (Keeps.start _ _)
theorem takePair_K (s : State) (p : Nat) (a : Flit) (f : Flit) : Keeps ⟨false, s.guestSite, s.pending, 1622079, s⟩ (takePair s p a f) :=
  keeps_takePair s p a f (Sub.of (by decide)) (Keeps.start _ _)
theorem takePlain_K (s : State) (p : Nat) (f : Flit) : Keeps ⟨false, s.guestSite, s.pending, 1081344, s⟩ (takePlain s p f) :=
  keeps_takePlain s p f (Sub.of (by decide)) (Keeps.start _ _)
theorem flitReceive_K (port : Nat) (f : Flit) (s : State) : Keeps ⟨false, s.guestSite, s.pending, 1622079, s⟩ (flitReceive port f s) :=
  keeps_flitReceive port f s (Sub.of (by decide)) (Keeps.start _ _)
theorem portTrainTimeout_K (port : Nat) (s : State) : Keeps ⟨false, s.guestSite, s.pending, 1081344, s⟩ (portTrainTimeout port s) :=
  keeps_portTrainTimeout port s (Sub.of (by decide)) (Keeps.start _ _)
theorem portTrainDone_K (port : Nat) (s : State) : Keeps ⟨false, s.guestSite, s.pending, 1081344, s⟩ (portTrainDone port s) :=
  keeps_portTrainDone port s (Sub.of (by decide)) (Keeps.start _ _)
theorem authFailed_K (s : State) (p : Nat) : Keeps ⟨false, s.guestSite, s.pending, 1081344, s⟩ (authFailed s p) :=
  keeps_authFailed s p (Sub.of (by decide)) (Keeps.start _ _)
theorem hello_K (port : Nat) (version : Nat) (hash : Nat) (farPort : Nat) (nonce : Nat) (s : State) : Keeps ⟨false, s.guestSite, s.pending, 1081344, s⟩ (hello port version hash farPort nonce s) :=
  keeps_hello port version hash farPort nonce s (Sub.of (by decide)) (Keeps.start _ _)
theorem auth_K (port : Nat) (chain : List Byte) (sig : List Byte) (pub : Nat) (s : State) : Keeps ⟨false, s.guestSite, s.pending, 1081344, s⟩ (auth port chain sig pub s) :=
  keeps_auth port chain sig pub s (Sub.of (by decide)) (Keeps.start _ _)
theorem topo_K (port : Nat) (hash : Nat) (farPort : Nat) (ownerHash : Nat) (pkg : Nat) (waves : Nat) (s : State) : Keeps ⟨false, s.guestSite, s.pending, 1081344, s⟩ (topo port hash farPort ownerHash pkg waves s) :=
  keeps_topo port hash farPort ownerHash pkg waves s (Sub.of (by decide)) (Keeps.start _ _)
theorem keyReplace_K (port : Nat) (dir : Nat) (s : State) : Keeps ⟨false, s.guestSite, s.pending, 1048576, s⟩ (keyReplace port dir s) :=
  keeps_keyReplace port dir s (Sub.of (by decide)) (Keeps.start _ _)
theorem retireWave_K (s : State) (p : Nat) (w : Nat) : Keeps ⟨false, s.guestSite, s.pending, 1081344, s⟩ (retireWave s p w) :=
  keeps_retireWave s p w (Sub.of (by decide)) (Keeps.start _ _)
theorem wavelengthRetire_K (port : Nat) (wave : Nat) (s : State) : Keeps ⟨false, s.guestSite, s.pending, 1081344, s⟩ (wavelengthRetire port wave s) :=
  keeps_wavelengthRetire port wave s (Sub.of (by decide)) (Keeps.start _ _)
theorem ringRecalibrate_K (port : Nat) (line : Nat) (ringOk : Bool) (s : State) : Keeps ⟨false, s.guestSite, s.pending, 1081344, s⟩ (ringRecalibrate port line ringOk s) :=
  keeps_ringRecalibrate port line ringOk s (Sub.of (by decide)) (Keeps.start _ _)
theorem recapEngine_K (s : State) (e : Nat) : Keeps ⟨false, s.guestSite, s.pending, 32768, s⟩ (recapEngine s e) :=
  keeps_recapEngine s e (Sub.of (by decide)) (Keeps.start _ _)
theorem laserLineLow_K (engine : Nat) (line : Nat) (s : State) : Keeps ⟨false, s.guestSite, s.pending, 1081344, s⟩ (laserLineLow engine line s) :=
  keeps_laserLineLow engine line s (Sub.of (by decide)) (Keeps.start _ _)
theorem laserLineRestored_K (engine : Nat) (line : Nat) (s : State) : Keeps ⟨false, s.guestSite, s.pending, 1081344, s⟩ (laserLineRestored engine line s) :=
  keeps_laserLineRestored engine line s (Sub.of (by decide)) (Keeps.start _ _)
theorem laserLost_K (engine : Nat) (s : State) : Keeps ⟨false, s.guestSite, s.pending, 1081344, s⟩ (laserLost engine s) :=
  keeps_laserLost engine s (Sub.of (by decide)) (Keeps.start _ _)
theorem laserInputRestored_K (engine : Nat) (s : State) : Keeps ⟨false, s.guestSite, s.pending, 1048576, s⟩ (laserInputRestored engine s) :=
  keeps_laserInputRestored engine s (Sub.of (by decide)) (Keeps.start _ _)
theorem lossOfLight_K (port : Nat) (s : State) : Keeps ⟨false, s.guestSite, s.pending, 1081344, s⟩ (lossOfLight port s) :=
  keeps_lossOfLight port s (Sub.of (by decide)) (Keeps.start _ _)
theorem lightDetected_K (port : Nat) (s : State) : Keeps ⟨false, s.guestSite, s.pending, 1048576, s⟩ (lightDetected port s) :=
  keeps_lightDetected port s (Sub.of (by decide)) (Keeps.start _ _)
theorem reply_K (s : State) (r : CuffReply) : Keeps ⟨false, s.guestSite, s.pending, 16384, s⟩ (reply s r) :=
  keeps_reply s r (Sub.of (by decide)) (Keeps.start _ _)
theorem denyGuest_K (s : State) (tag : Nat) (win : Nat) (off : Nat) : Keeps ⟨false, s.guestSite, s.pending, 16384, s⟩ (denyGuest s tag win off) :=
  keeps_denyGuest s tag win off (Sub.of (by decide)) (Keeps.start _ _)
theorem pace_K (s : State) (key : Nat) (rate : Nat) (n : Nat) : Keeps ⟨false, s.guestSite, s.pending, 16384, s⟩ (pace s key rate n) :=
  keeps_pace s key rate n (Sub.of (by decide)) (Keeps.start _ _)
theorem cuffRead_K (tag : Nat) (window : Nat) (offset : Nat) (len : Nat) (s : State) : Keeps ⟨false, s.guestSite, s.pending, 1687599, s⟩ (cuffRead tag window offset len s) :=
  keeps_cuffRead tag window offset len s (Sub.of (by decide)) (Keeps.start _ _)
theorem cuffWrite_K (tag : Nat) (window : Nat) (offset : Nat) (data : List Byte) (s : State) : Keeps ⟨false, s.guestSite, s.pending, 1687599, s⟩ (cuffWrite tag window offset data s) :=
  keeps_cuffWrite tag window offset data s (Sub.of (by decide)) (Keeps.start _ _)
theorem dropGuestSignal_K (s : State) : Keeps ⟨false, s.guestSite, s.pending, 524288, s⟩ (dropGuestSignal s) :=
  keeps_dropGuestSignal s (Sub.of (by decide)) (Keeps.start _ _)
theorem cuffSignal_K (tag : Nat) (slot : Nat) (inc : Nat) (s : State) : Keeps ⟨false, s.guestSite, s.pending, 540688, s⟩ (cuffSignal tag slot inc s) :=
  keeps_cuffSignal tag slot inc s (Sub.of (by decide)) (Keeps.start _ _)
theorem cuffCread_K (tag : Nat) (slot : Nat) (s : State) : Keeps ⟨false, s.guestSite, s.pending, 16384, s⟩ (cuffCread tag slot s) :=
  keeps_cuffCread tag slot s (Sub.of (by decide)) (Keeps.start _ _)
theorem cuffWatch_K (tag : Nat) (slot : Nat) (target : Nat) (s : State) : Keeps ⟨false, s.guestSite, s.pending, 16384, s⟩ (cuffWatch tag slot target s) :=
  keeps_cuffWatch tag slot target s (Sub.of (by decide)) (Keeps.start _ _)
theorem guestLinkDown_K (s : State) : Keeps ⟨false, s.guestSite, s.pending, 16384, s⟩ (guestLinkDown s) :=
  keeps_guestLinkDown s (Sub.of (by decide)) (Keeps.start _ _)
theorem guestLinkUp_K (s : State) : Keeps ⟨false, s.guestSite, s.pending, 16384, s⟩ (guestLinkUp s) :=
  keeps_guestLinkUp s (Sub.of (by decide)) (Keeps.start _ _)
theorem stopThermalCal_K (s : State) : Keeps ⟨false, s.guestSite, s.pending, 655360, s⟩ (stopThermalCal s) :=
  keeps_stopThermalCal s (Sub.of (by decide)) (Keeps.start _ _)
theorem judgeTrip_K (s : State) (old : Nat) (new : Nat) : Keeps ⟨false, s.guestSite, s.pending, 1708079, s⟩ (judgeTrip s old new) :=
  keeps_judgeTrip s old new (Sub.of (by decide)) (Keeps.start _ _)
theorem judgeStack_K (s : State) (k : Nat) (x : Int) : Keeps ⟨false, s.guestSite, s.pending, 32768, s⟩ (judgeStack s k x) :=
  keeps_judgeStack s k x (Sub.of (by decide)) (Keeps.start _ _)
theorem judgeEngine_K (s : State) (e : Nat) (x : Int) : Keeps ⟨false, s.guestSite, s.pending, 1081344, s⟩ (judgeEngine s e x) :=
  keeps_judgeEngine s e x (Sub.of (by decide)) (Keeps.start _ _)
theorem judgeInlet_K (s : State) : Keeps ⟨false, s.guestSite, s.pending, 8192, s⟩ (judgeInlet s) :=
  keeps_judgeInlet s (Sub.of (by decide)) (Keeps.start _ _)
theorem declareLoss_K (s : State) : Keeps ⟨false, s.guestSite, s.pending, 663552, s⟩ (declareLoss s) :=
  keeps_declareLoss s (Sub.of (by decide)) (Keeps.start _ _)
theorem judgeCoolant_K (s : State) : Keeps ⟨false, s.guestSite, s.pending, 665600, s⟩ (judgeCoolant s) :=
  keeps_judgeCoolant s (Sub.of (by decide)) (Keeps.start _ _)
theorem takeReading_K (s : State) (t : Nat) (r : TowerReading) : Keeps ⟨false, s.guestSite, s.pending, 8192, s⟩ (takeReading s t r) :=
  keeps_takeReading s t r (Sub.of (by decide)) (Keeps.start _ _)
theorem takeExcess_K (s : State) (t : Nat) : Keeps ⟨false, s.guestSite, s.pending, 8192, s⟩ (takeExcess s t) :=
  keeps_takeExcess s t (Sub.of (by decide)) (Keeps.start _ _)
theorem takeInputs_K (s : State) (ia : TowerInput) (ib : TowerInput) (p : PkgReading) : Keeps ⟨false, s.guestSite, s.pending, 8192, s⟩ (takeInputs s ia ib p) :=
  keeps_takeInputs s ia ib p (Sub.of (by decide)) (Keeps.start _ _)
theorem addSample_K (s : State) : Keeps ⟨false, s.guestSite, s.pending, 8192, s⟩ (addSample s) :=
  keeps_addSample s (Sub.of (by decide)) (Keeps.start _ _)
theorem judgeReadings_K (s : State) (a : TowerReading) (b : TowerReading) : Keeps ⟨false, s.guestSite, s.pending, 1746944, s⟩ (judgeReadings s a b) :=
  keeps_judgeReadings s a b (Sub.of (by decide)) (Keeps.start _ _)
theorem thermalModelUpdate_K (ia : TowerInput) (ib : TowerInput) (p : PkgReading) (s : State) : Keeps ⟨false, s.guestSite, s.pending, 1751087, s⟩ (thermalModelUpdate ia ib p s) :=
  keeps_thermalModelUpdate ia ib p s (Sub.of (by decide)) (Keeps.start _ _)
theorem thermalLimiterTick_K (tower : Nat) (s : State) : Keeps ⟨false, s.guestSite, s.pending, 663552, s⟩ (thermalLimiterTick tower s) :=
  keeps_thermalLimiterTick tower s (Sub.of (by decide)) (Keeps.start _ _)
theorem judgeTheta_K (s : State) (t : Nat) (theta : Frac × Frac) : Keeps ⟨false, s.guestSite, s.pending, 663552, s⟩ (judgeTheta s t theta) :=
  keeps_judgeTheta s t theta (Sub.of (by decide)) (Keeps.start _ _)
theorem judgeUnreach_K (s : State) (t : Nat) (k : Nat) (bad : Bool) : Keeps ⟨false, s.guestSite, s.pending, 8192, s⟩ (judgeUnreach s t k bad) :=
  keeps_judgeUnreach s t k bad (Sub.of (by decide)) (Keeps.start _ _)
theorem thermalCapCompute_K (tower : Nat) (s : State) : Keeps ⟨false, s.guestSite, s.pending, 663552, s⟩ (thermalCapCompute tower s) :=
  keeps_thermalCapCompute tower s (Sub.of (by decide)) (Keeps.start _ _)
theorem hostLimiterTick_K (s : State) : Keeps ⟨false, s.guestSite, s.pending, 663552, s⟩ (hostLimiterTick s) :=
  keeps_hostLimiterTick s (Sub.of (by decide)) (Keeps.start _ _)
theorem almanacForecast_K (tower : Nat) (hotLogic : Int) (hotF : Int) (idle : Nat) (s : State) : Keeps ⟨false, s.guestSite, s.pending, 663552, s⟩ (almanacForecast tower hotLogic hotF idle s) :=
  keeps_almanacForecast tower hotLogic hotF idle s (Sub.of (by decide)) (Keeps.start _ _)
theorem adjustNode_K (t : Nat) (s : State) (e : Nat × Int) : Keeps ⟨false, s.guestSite, s.pending, 8192, s⟩ (adjustNode t s e) :=
  keeps_adjustNode t s e (Sub.of (by decide)) (Keeps.start _ _)
theorem offsetAdjust_K (tower : Nat) (s : State) : Keeps ⟨false, s.guestSite, s.pending, 8192, s⟩ (offsetAdjust tower s) :=
  keeps_offsetAdjust tower s (Sub.of (by decide)) (Keeps.start _ _)
theorem checkTower_K (s : State) (t : Nat) (disagree : List Nat) (agree : List Nat) : Keeps ⟨false, s.guestSite, s.pending, 663552, s⟩ (checkTower s t disagree agree) :=
  keeps_checkTower s t disagree agree (Sub.of (by decide)) (Keeps.start _ _)
theorem sensorCheck_K (disagree : List Nat) (agree : List Nat) (s : State) : Keeps ⟨false, s.guestSite, s.pending, 663552, s⟩ (sensorCheck disagree agree s) :=
  keeps_sensorCheck disagree agree s (Sub.of (by decide)) (Keeps.start _ _)
theorem imonTower_K (s : State) (t : Nat) (mv : Nat) : Keeps ⟨false, s.guestSite, s.pending, 1716271, s⟩ (imonTower s t mv) :=
  keeps_imonTower s t mv (Sub.of (by decide)) (Keeps.start _ _)
theorem imonSample_K (mvA : Nat) (mvB : Nat) (s : State) : Keeps ⟨false, s.guestSite, s.pending, 1716271, s⟩ (imonSample mvA mvB s) :=
  keeps_imonSample mvA mvB s (Sub.of (by decide)) (Keeps.start _ _)
theorem coolantTimeout_K (s : State) : Keeps ⟨false, s.guestSite, s.pending, 1708079, s⟩ (coolantTimeout s) :=
  keeps_coolantTimeout s (Sub.of (by decide)) (Keeps.start _ _)
theorem telemetryRefresh_K (rateA : Nat) (rateB : Nat) (s : State) : Keeps ⟨false, s.guestSite, s.pending, 8192, s⟩ (telemetryRefresh rateA rateB s) :=
  keeps_telemetryRefresh rateA rateB s (Sub.of (by decide)) (Keeps.start _ _)
theorem energyRefresh_K (energies : List (Nat × Nat × Nat)) (s : State) : Keeps ⟨false, s.guestSite, s.pending, 524288, s⟩ (energyRefresh energies s) :=
  keeps_energyRefresh energies s (Sub.of (by decide)) (Keeps.start _ _)
theorem ptmDialogue_K (ok : Bool) (hostTime : Nat) (s : State) : Keeps ⟨false, s.guestSite, s.pending, 1024, s⟩ (ptmDialogue ok hostTime s) :=
  keeps_ptmDialogue ok hostTime s (Sub.of (by decide)) (Keeps.start _ _)
theorem tdiLeaveRun_K (vf : Nat) (s : State) : Keeps ⟨false, s.guestSite, s.pending, 1589823, s⟩ (tdiLeaveRun vf s) :=
  keeps_tdiLeaveRun vf s (Sub.of (by decide)) (Keeps.start _ _)
theorem answer_K (s : State) (path : Nat) (code : Nat) (bytes : List Byte) : Keeps ⟨false, s.guestSite, s.pending, 0, s⟩ (answer s path code bytes) :=
  keeps_answer s path code bytes (Keeps.start _ _)
theorem putSpdm_K (s : State) (path : Nat) (x : Spdm) : Keeps ⟨false, s.guestSite, s.pending, 0, s⟩ (putSpdm s path x) :=
  keeps_putSpdm s path x (Keeps.start _ _)
theorem getVersion_K (path : Nat) (s : State) : Keeps ⟨false, s.guestSite, s.pending, 0, s⟩ (getVersion path s) :=
  keeps_getVersion path s (Keeps.start _ _)
theorem getCapabilities_K (path : Nat) (_caps : List Byte) (s : State) : Keeps ⟨false, s.guestSite, s.pending, 0, s⟩ (getCapabilities path _caps s) :=
  keeps_getCapabilities path _caps s (Keeps.start _ _)
theorem negotiateAlgorithms_K (path : Nat) (ecdsa384 : Bool) (sha384 : Bool) (secp384 : Bool) (aes256 : Bool) (s : State) : Keeps ⟨false, s.guestSite, s.pending, 0, s⟩ (negotiateAlgorithms path ecdsa384 sha384 secp384 aes256 s) :=
  keeps_negotiateAlgorithms path ecdsa384 sha384 secp384 aes256 s (Keeps.start _ _)
theorem getDigests_K (path : Nat) (s : State) : Keeps ⟨false, s.guestSite, s.pending, 0, s⟩ (getDigests path s) :=
  keeps_getDigests path s (Keeps.start _ _)
theorem getCertificate_K (path : Nat) (slot : Nat) (offset : Nat) (len : Nat) (s : State) : Keeps ⟨false, s.guestSite, s.pending, 0, s⟩ (getCertificate path slot offset len s) :=
  keeps_getCertificate path slot offset len s (Keeps.start _ _)
theorem challenge_K (path : Nat) (slot : Nat) (nonce : List Byte) (s : State) : Keeps ⟨false, s.guestSite, s.pending, 0, s⟩ (challenge path slot nonce s) :=
  keeps_challenge path slot nonce s (Keeps.start _ _)
theorem getMeasurements_K (path : Nat) (index : Nat) (sign : Bool) (nonce : List Byte) (s : State) : Keeps ⟨false, s.guestSite, s.pending, 0, s⟩ (getMeasurements path index sign nonce s) :=
  keeps_getMeasurements path index sign nonce s (Keeps.start _ _)
theorem keyExchange_K (path : Nat) (exchange : List Byte) (s : State) : Keeps ⟨false, s.guestSite, s.pending, 0, s⟩ (keyExchange path exchange s) :=
  keeps_keyExchange path exchange s (Keeps.start _ _)
theorem finish_K (path : Nat) (sig : List Byte) (mac : List Byte) (s : State) : Keeps ⟨false, s.guestSite, s.pending, 0, s⟩ (finish path sig mac s) :=
  keeps_finish path sig mac s (Keeps.start _ _)
theorem keyUpdate_K (path : Nat) (s : State) : Keeps ⟨false, s.guestSite, s.pending, 0, s⟩ (keyUpdate path s) :=
  keeps_keyUpdate path s (Keeps.start _ _)
theorem heartbeat_K (path : Nat) (s : State) : Keeps ⟨false, s.guestSite, s.pending, 0, s⟩ (heartbeat path s) :=
  keeps_heartbeat path s (Keeps.start _ _)
theorem endSession_K (path : Nat) (s : State) : Keeps ⟨false, s.guestSite, s.pending, 1589823, s⟩ (endSession path s) :=
  keeps_endSession path s (Sub.of (by decide)) (Keeps.start _ _)
theorem ideKm_K (s : State) (path : Nat) (arg : Nat) : Keeps ⟨false, s.guestSite, s.pending, 1589823, s⟩ (ideKm s path arg) :=
  keeps_ideKm s path arg (Sub.of (by decide)) (Keeps.start _ _)
theorem tdisp_K (s : State) (path : Nat) (arg : Nat) : Keeps ⟨false, s.guestSite, s.pending, 1589823, s⟩ (tdisp s path arg) :=
  keeps_tdisp s path arg (Sub.of (by decide)) (Keeps.start _ _)
theorem vendorDefinedRequest_K (path : Nat) (proto : Nat) (arg : Nat) (s : State) : Keeps ⟨false, s.guestSite, s.pending, 1589823, s⟩ (vendorDefinedRequest path proto arg s) :=
  keeps_vendorDefinedRequest path proto arg s (Sub.of (by decide)) (Keeps.start _ _)
theorem sideband_K (s : State) (bytes : List Byte) : Keeps ⟨false, s.guestSite, s.pending, 0, s⟩ (sideband s bytes) :=
  keeps_sideband s bytes (Keeps.start _ _)
theorem getIdentity_K (s : State) : Keeps ⟨false, s.guestSite, s.pending, 0, s⟩ (getIdentity s) :=
  keeps_getIdentity s (Keeps.start _ _)
theorem getState_K (s : State) : Keeps ⟨false, s.guestSite, s.pending, 0, s⟩ (getState s) :=
  keeps_getState s (Keeps.start _ _)
theorem getTelemetry_K (s : State) : Keeps ⟨false, s.guestSite, s.pending, 0, s⟩ (getTelemetry s) :=
  keeps_getTelemetry s (Keeps.start _ _)
theorem getLog_K (fromSeq : Nat) (s : State) : Keeps ⟨false, s.guestSite, s.pending, 0, s⟩ (getLog fromSeq s) :=
  keeps_getLog fromSeq s (Keeps.start _ _)
theorem getLifetime_K (s : State) : Keeps ⟨false, s.guestSite, s.pending, 0, s⟩ (getLifetime s) :=
  keeps_getLifetime s (Keeps.start _ _)
theorem freshCore_K (s : State) (core : Nat) : Keeps ⟨false, s.guestSite, s.pending, 0, s⟩ (freshCore s core) :=
  keeps_freshCore s core (Keeps.start _ _)
theorem nextSite_K (s : State) (u : Subst) : Keeps ⟨false, s.guestSite, s.pending, 65544, s⟩ (nextSite s u) :=
  keeps_nextSite s u (Sub.of (by decide)) (Keeps.start _ _)
theorem sliceCopyDone_K (core : Nat) (unreadable : List Nat) (spareOk : Bool) (seasonOk : Bool) (s : State) : Keeps ⟨false, s.guestSite, s.pending, 3768367, s⟩ (sliceCopyDone core unreadable spareOk seasonOk s) :=
  keeps_sliceCopyDone core unreadable spareOk seasonOk s (Sub.of (by decide)) (Keeps.start _ _)
theorem staleSpeaker_K (site : Nat) (season : Nat) (s : State) : Keeps ⟨false, s.guestSite, s.pending, 0, s⟩ (staleSpeaker site season s) :=
  keeps_staleSpeaker site season s (Keeps.start _ _)
theorem spareTest_K (site : Nat) (pass : Bool) (s : State) : Keeps ⟨false, s.guestSite, s.pending, 0, s⟩ (spareTest site pass s) :=
  keeps_spareTest site pass s (Keeps.start _ _)
theorem mittenWatchdog_K (s : State) : Keeps ⟨false, s.guestSite, s.pending, 2048, s⟩ (mittenWatchdog s) :=
  keeps_mittenWatchdog s (Sub.of (by decide)) (Keeps.start _ _)
theorem gauntletWatchdog_K (s : State) : Keeps ⟨false, s.guestSite, s.pending, 0, s⟩ (gauntletWatchdog s) :=
  keeps_gauntletWatchdog s (Keeps.start _ _)
theorem mittenWrite_K (s : State) (t : Target) (off : Nat) (b : List Byte) : Keeps ⟨false, s.guestSite, s.pending, 2097152, s⟩ (mittenWrite s t off b) :=
  keeps_mittenWrite s t off b (Sub.of (by decide)) (Keeps.start _ _)
theorem islandAccess_K (s : State) (r : MemReq) (t : Target) : Keeps ⟨false, s.guestSite, s.pending, 2097152, s⟩ (islandAccess s r t) :=
  keeps_islandAccess s r t (Sub.of (by decide)) (Keeps.start _ _)
theorem memoryAccess_K (r : MemReq) (s : State) : Keeps ⟨false, s.guestSite, s.pending, 4030511, s⟩ (memoryAccess r s) :=
  keeps_memoryAccess r s (Sub.of (by decide)) (Keeps.start _ _)
theorem loadData_K (s : State) (i : Nat) (k : Nat) : Keeps ⟨false, s.guestSite, s.pending, 64, s⟩ (loadData s i k) :=
  keeps_loadData s i k (Sub.of (by decide)) (Keeps.start _ _)
theorem loadRecord_K (bad : List (Nat × Nat)) (s : State) (i : Nat) : Keeps ⟨false, s.guestSite, s.pending, 2097216, s⟩ (loadRecord bad s i) :=
  keeps_loadRecord bad s i (Sub.of (by decide)) (Keeps.start _ _)
theorem applyMap_K (s : State) : Keeps ⟨false, s.guestSite, s.pending, 1310720, s⟩ (applyMap s) :=
  keeps_applyMap s (Sub.of (by decide)) (Keeps.start _ _)
theorem verifyType_K (bad : List (Nat × Nat)) (s : State) (ty : Nat) : Keeps ⟨false, s.guestSite, s.pending, 2048, s⟩ (verifyType bad s ty).1 :=
  keeps_verifyType bad s ty (Sub.of (by decide)) (Keeps.start _ _)
theorem startMgmt_K (s : State) : Keeps ⟨false, s.guestSite, s.pending, 0, s⟩ (startMgmt s) :=
  keeps_startMgmt s (Keeps.start _ _)
theorem packageReset_K (s0 : State) (cause : Nat) : Keeps ⟨false, s0.guestSite, s0.pending, 4192191, s0⟩ (packageReset s0 cause) :=
  keeps_packageReset s0 cause (Sub.of (by decide)) (Keeps.start _ _)
theorem holdPackage_K (s : State) (input : Nat) (cause : Nat) : Keeps ⟨false, s.guestSite, s.pending, 4192191, s⟩ (holdPackage s input cause) :=
  keeps_holdPackage s input cause (Sub.of (by decide)) (Keeps.start _ _)
theorem pkgRstInput_K (s : State) : Keeps ⟨false, s.guestSite, s.pending, 4192191, s⟩ (pkgRstInput s) :=
  keeps_pkgRstInput s (Sub.of (by decide)) (Keeps.start _ _)
theorem perst_K (s : State) : Keeps ⟨false, s.guestSite, s.pending, 4192191, s⟩ (perst s) :=
  keeps_perst s (Sub.of (by decide)) (Keeps.start _ _)
theorem releaseInput_K (s : State) (i : Nat) : Keeps ⟨false, s.guestSite, s.pending, 4096, s⟩ (releaseInput s i) :=
  keeps_releaseInput s i (Sub.of (by decide)) (Keeps.start _ _)
theorem resetInputRelease_K (input : Nat) (s : State) : Keeps ⟨false, s.guestSite, s.pending, 4096, s⟩ (resetInputRelease input s) :=
  keeps_resetInputRelease input s (Sub.of (by decide)) (Keeps.start _ _)
theorem reset_K (d : Nat) (s : State) : Keeps ⟨false, s.guestSite, s.pending, 4192191, s⟩ (reset d s) :=
  keeps_reset d s (Sub.of (by decide)) (Keeps.start _ _)
theorem vaonApplied_K (s : State) : Keeps ⟨false, s.guestSite, s.pending, 4192191, s⟩ (vaonApplied s) :=
  keeps_vaonApplied s (Sub.of (by decide)) (Keeps.start _ _)
theorem vaonLost_K (s : State) : Keeps ⟨false, s.guestSite, s.pending, 2095039, s⟩ (vaonLost s) :=
  keeps_vaonLost s (Sub.of (by decide)) (Keeps.start _ _)
theorem enable_K (s : State) (l : List Nat) : Keeps ⟨false, s.guestSite, s.pending, 4096, s⟩ (enable s l) :=
  keeps_enable s l (Sub.of (by decide)) (Keeps.start _ _)
theorem startNet_K (s : State) : Keeps ⟨false, s.guestSite, s.pending, 12288, s⟩ (startNet s) :=
  keeps_startNet s (Sub.of (by decide)) (Keeps.start _ _)
theorem powerGoodReturn_K (group : Nat) (s : State) : Keeps ⟨false, s.guestSite, s.pending, 1060864, s⟩ (powerGoodReturn group s) :=
  keeps_powerGoodReturn group s (Sub.of (by decide)) (Keeps.start _ _)
theorem powerGoodTimeout_K (group : Nat) (s : State) : Keeps ⟨false, s.guestSite, s.pending, 1871919, s⟩ (powerGoodTimeout group s) :=
  keeps_powerGoodTimeout group s (Sub.of (by decide)) (Keeps.start _ _)
theorem enableRetry_K (s : State) : Keeps ⟨false, s.guestSite, s.pending, 4096, s⟩ (enableRetry s) :=
  keeps_enableRetry s (Sub.of (by decide)) (Keeps.start _ _)
theorem powerGoodLost_K (group : Nat) (s : State) : Keeps ⟨false, s.guestSite, s.pending, 4192191, s⟩ (powerGoodLost group s) :=
  keeps_powerGoodLost group s (Sub.of (by decide)) (Keeps.start _ _)
theorem mgmtWork_K (badImages : List (Nat × Nat)) (badCopies : List (Nat × Nat)) (s : State) : Keeps ⟨false, s.guestSite, s.pending, 3438656, s⟩ (mgmtWork badImages badCopies s) :=
  keeps_mgmtWork badImages badCopies s (Sub.of (by decide)) (Keeps.start _ _)
theorem bootMgmtDone_K (badImages : List (Nat × Nat)) (badCopies : List (Nat × Nat)) (s : State) : Keeps ⟨false, s.guestSite, s.pending, 3438656, s⟩ (bootMgmtDone badImages badCopies s) :=
  keeps_bootMgmtDone badImages badCopies s (Sub.of (by decide)) (Keeps.start _ _)
theorem netWork_K (answers : List (Nat × DieAnswer)) (s : State) : Keeps ⟨false, s.guestSite, s.pending, 1880111, s⟩ (netWork answers s) :=
  keeps_netWork answers s (Sub.of (by decide)) (Keeps.start _ _)
theorem bootNetDone_K (answers : List (Nat × DieAnswer)) (s : State) : Keeps ⟨false, s.guestSite, s.pending, 1880111, s⟩ (bootNetDone answers s) :=
  keeps_bootNetDone answers s (Sub.of (by decide)) (Keeps.start _ _)
theorem outOfService_K (s : State) (t : Nat) (ch : Nat) : Keeps ⟨false, s.guestSite, s.pending, 1867823, s⟩ (outOfService s t ch) :=
  keeps_outOfService s t ch (Sub.of (by decide)) (Keeps.start _ _)
theorem badRow_K (s : State) (bank : Nat) (row : Nat) : Keeps ⟨false, s.guestSite, s.pending, 1933359, s⟩ (badRow s bank row) :=
  keeps_badRow s bank row (Sub.of (by decide)) (Keeps.start _ _)
theorem memBad_K (badRows : List (Nat × Nat)) (badPcs : List (Nat × Nat)) (s : State) : Keeps ⟨false, s.guestSite, s.pending, 1933359, s⟩ (memBad badRows badPcs s) :=
  keeps_memBad badRows badPcs s (Sub.of (by decide)) (Keeps.start _ _)
theorem trainFull_K (s : State) (i : Nat) (n : Nat) (slot : Nat) (given : List (Nat × List Byte)) : Keeps ⟨false, s.guestSite, s.pending, 2097152, s⟩ (trainFull s i n slot given) :=
  keeps_trainFull s i n slot given (Sub.of (by decide)) (Keeps.start _ _)
theorem memWork_K (badRows : List (Nat × Nat)) (badPcs : List (Nat × Nat)) (s : State) : Keeps ⟨false, s.guestSite, s.pending, 4034607, s⟩ (memWork badRows badPcs s) :=
  keeps_memWork badRows badPcs s (Sub.of (by decide)) (Keeps.start _ _)
theorem bootMemDone_K (badRows : List (Nat × Nat)) (badPcs : List (Nat × Nat)) (trained : List (Nat × List Byte)) (silent : Nat) (s : State) : Keeps ⟨false, s.guestSite, s.pending, 4036655, s⟩ (bootMemDone badRows badPcs trained silent s) :=
  keeps_bootMemDone badRows badPcs trained silent s (Sub.of (by decide)) (Keeps.start _ _)
theorem linkWork_K (badLanes : List (Nat × Nat × Nat)) (lateEngines : List Nat) (s : State) : Keeps ⟨false, s.guestSite, s.pending, 1867823, s⟩ (linkWork badLanes lateEngines s) :=
  keeps_linkWork badLanes lateEngines s (Sub.of (by decide)) (Keeps.start _ _)
theorem bootLinkDone_K (badLanes : List (Nat × Nat × Nat)) (lateEngines : List Nat) (trained : List (Nat × List Byte)) (silent : Nat) (s : State) : Keeps ⟨false, s.guestSite, s.pending, 3967023, s⟩ (bootLinkDone badLanes lateEngines trained silent s) :=
  keeps_bootLinkDone badLanes lateEngines trained silent s (Sub.of (by decide)) (Keeps.start _ _)
theorem coreWork_K (failing : List Nat) (badSeasons : List Nat) (s : State) : Keeps ⟨false, s.guestSite, s.pending, 2195456, s⟩ (coreWork failing badSeasons s) :=
  keeps_coreWork failing badSeasons s (Sub.of (by decide)) (Keeps.start _ _)
theorem bootCoreDone_K (failing : List Nat) (badSeasons : List Nat) (s : State) : Keeps ⟨false, s.guestSite, s.pending, 2195456, s⟩ (bootCoreDone failing badSeasons s) :=
  keeps_bootCoreDone failing badSeasons s (Sub.of (by decide)) (Keeps.start _ _)
theorem checkWork_K (s : State) : Keeps ⟨false, s.guestSite, s.pending, 6144, s⟩ (checkWork s) :=
  keeps_checkWork s (Sub.of (by decide)) (Keeps.start _ _)
theorem checkDone_K (s : State) : Keeps ⟨false, s.guestSite, s.pending, 6144, s⟩ (checkDone s) :=
  keeps_checkDone s (Sub.of (by decide)) (Keeps.start _ _)
theorem bootPhaseLimit_K (answers : List (Nat × DieAnswer)) (out : List Nat) (s : State) : Keeps ⟨false, s.guestSite, s.pending, 4061295, s⟩ (bootPhaseLimit answers out s) :=
  keeps_bootPhaseLimit answers out s (Sub.of (by decide)) (Keeps.start _ _)
theorem reg64LowRead_K (fn : Nat) (offset : Nat) (s : State) : Keeps ⟨false, s.guestSite, s.pending, 0, s⟩ (reg64LowRead fn offset s) :=
  keeps_reg64LowRead fn offset s (Keeps.start _ _)
theorem setupLockWrite_K (value : Nat) (s : State) : Keeps ⟨false, s.guestSite, s.pending, 256, s⟩ (setupLockWrite value s) :=
  keeps_setupLockWrite value s (Sub.of (by decide)) (Keeps.start _ _)
theorem dbellConfigWrite_K (fn : Nat) (offset : Nat) (size : Nat) (value : Nat) (s : State) : Keeps ⟨false, s.guestSite, s.pending, 0, s⟩ (dbellConfigWrite fn offset size value s) :=
  keeps_dbellConfigWrite fn offset size value s (Keeps.start _ _)
theorem qctlWriteBusy_K (fn : Nat) (s : State) : Keeps ⟨false, s.guestSite, s.pending, 0, s⟩ (qctlWriteBusy fn s) :=
  keeps_qctlWriteBusy fn s (Keeps.start _ _)
theorem logpControlWrite_K (value : Nat) (s : State) : Keeps ⟨false, s.guestSite, s.pending, 0, s⟩ (logpControlWrite value s) :=
  keeps_logpControlWrite value s (Keeps.start _ _)
theorem clearMiss_K (s : State) (p : Nat) (value : Nat) : Keeps ⟨false, s.guestSite, s.pending, 524288, s⟩ (clearMiss s p value) :=
  keeps_clearMiss s p value (Sub.of (by decide)) (Keeps.start _ _)
theorem bwMissClear_K (fn : Nat) (part : Nat) (value : Nat) (s : State) : Keeps ⟨false, s.guestSite, s.pending, 524288, s⟩ (bwMissClear fn part value s) :=
  keeps_bwMissClear fn part value s (Sub.of (by decide)) (Keeps.start _ _)
theorem adminqWrite_K (s : State) (o : Nat) (size : Nat) (v : Nat) : Keeps ⟨false, s.guestSite, s.pending, 256, s⟩ (adminqWrite s o size v) :=
  keeps_adminqWrite s o size v (Sub.of (by decide)) (Keeps.start _ _)
theorem qtabWrite_K (s : State) (fn : Nat) (o : Nat) (size : Nat) (v : Nat) : Keeps ⟨false, s.guestSite, s.pending, 0, s⟩ (qtabWrite s fn o size v) :=
  keeps_qtabWrite s fn o size v (Keeps.start _ _)
theorem msixPut_K (s : State) (fn : Nat) (k : Nat) (v : Nat) : Keeps ⟨false, s.guestSite, s.pending, 0, s⟩ (msixPut s fn k v) :=
  keeps_msixPut s fn k v (Keeps.start _ _)
theorem msixWrite_K (s : State) (fn : Nat) (n : Nat) (o : Nat) (size : Nat) (v : Nat) : Keeps ⟨false, s.guestSite, s.pending, 0, s⟩ (msixWrite s fn n o size v) :=
  keeps_msixWrite s fn n o size v (Keeps.start _ _)
theorem irqWrite_K (s : State) (o : Nat) (size : Nat) (v : Nat) : Keeps ⟨false, s.guestSite, s.pending, 256, s⟩ (irqWrite s o size v) :=
  keeps_irqWrite s o size v (Sub.of (by decide)) (Keeps.start _ _)
theorem logpWrite_K (s : State) (o : Nat) (size : Nat) (v : Nat) : Keeps ⟨false, s.guestSite, s.pending, 0, s⟩ (logpWrite s o size v) :=
  keeps_logpWrite s o size v (Keeps.start _ _)
theorem timeWrite_K (s : State) (o : Nat) (size : Nat) (v : Nat) : Keeps ⟨false, s.guestSite, s.pending, 1024, s⟩ (timeWrite s o size v) :=
  keeps_timeWrite s o size v (Sub.of (by decide)) (Keeps.start _ _)
theorem registerWrite_K (fn : Nat) (offset : Nat) (size : Nat) (value : Nat) (s : State) : Keeps ⟨false, s.guestSite, s.pending, 525568, s⟩ (registerWrite fn offset size value s) :=
  keeps_registerWrite fn offset size value s (Sub.of (by decide)) (Keeps.start _ _)
theorem busMasterEnable_K (fn : Nat) (on : Bool) (s : State) : Keeps ⟨false, s.guestSite, s.pending, 0, s⟩ (busMasterEnable fn on s) :=
  keeps_busMasterEnable fn on s (Keeps.start _ _)
theorem negotiatedWidthChange_K (width : Nat) (s : State) : Keeps ⟨false, s.guestSite, s.pending, 33024, s⟩ (negotiatedWidthChange width s) :=
  keeps_negotiatedWidthChange width s (Sub.of (by decide)) (Keeps.start _ _)
end Sys2Proof.Machine
end

