-- ==== Sys2Proof/Laws/Tables.lean ====
section
/-! SUPPORT. Reading a table after a write to it, and what folding an operation over a list keeps. -/

namespace Sys2Proof.Machine
theorem mem_tput {α : Type} : ∀ (t : Tbl α) (i : Nat) (x : α) (e : Nat × α), e ∈ tput t i x → e = (i, x) ∨ e ∈ t
  | [], i, x, e, h => by simp [tput] at h; exact .inl h
  | (k, v) :: r, i, x, e, h => by
    unfold tput at h
    split at h
    · rcases List.mem_cons.1 h with h | h
      · exact .inl h
      · exact .inr h
    · split at h
      · rcases List.mem_cons.1 h with h | h
        · exact .inl h
        · exact .inr (List.mem_cons_of_mem _ h)
      · rcases List.mem_cons.1 h with h | h
        · exact .inr (h ▸ List.mem_cons_self)
        · rcases mem_tput r i x e h with h | h
          · exact .inl h
          · exact .inr (List.mem_cons_of_mem _ h)
theorem tfind_mem {α : Type} : ∀ {t : Tbl α} {i : Nat} {x : α}, tfind t i = some x → (i, x) ∈ t
  | (k, v) :: r, i, x, h => by
    unfold tfind at h
    split at h
    · next e => cases h; subst e; exact List.mem_cons_self
    · exact List.mem_cons_of_mem _ (tfind_mem h)
theorem mem_tput_of {α : Type} {e : Nat × α} : ∀ {t : Tbl α} {i : Nat} {x : α}, e.1 ≠ i → e ∈ t → e ∈ tput t i x
  | (k, v) :: r, i, x, hne, h => by
    unfold tput
    split
    · exact List.mem_cons_of_mem _ h
    · split
      · next e2 =>
        rcases List.mem_cons.1 h with h | h
        · subst h; exact absurd e2.symm hne
        · exact List.mem_cons_of_mem _ h
      · rcases List.mem_cons.1 h with h | h
        · exact h ▸ List.mem_cons_self
        · exact List.mem_cons_of_mem _ (mem_tput_of hne h)
theorem foldl_inv {α β : Type} (P : α → Prop) (f : α → β → α) (hf : ∀ a b, P a → P (f a b)) : ∀ (l : List β) (a : α), P a → P (l.foldl f a)
  | [], _, h => h
  | b :: l, a, h => foldl_inv P f hf l (f a b) (hf a b h)
/-- A state that differs from another in nothing but its host memory, queues, log, snapshots and free values. -/
def Logs (t s : State) : Prop := t = { s with free := t.free, host := t.host, qe := t.qe, log := t.log, snap := t.snap }
theorem Logs.refl (s : State) : Logs s s := rfl
theorem Logs.trans {a b c : State} (h1 : Logs a b) (h2 : Logs b c) : Logs a c := by
  unfold Logs at *
  rw [h1, h2]
theorem logs_hwrite (s : State) (a : Nat) (b : List Byte) : Logs (hwrite s a b) s := by
  unfold hwrite; split <;> rfl
theorem logs_endF (s : State) (d st e : Nat) : Logs (endF s d st e) s := by
  unfold endF; split <;> rfl
theorem logs_takeBytes (s : State) (n : Nat) : Logs (takeBytes s n).2 s := by
  unfold takeBytes; rfl
theorem logs_ringWrite (s : State) (r : LogRec) : Logs (ringWrite s r) s := by
  unfold ringWrite
  split
  · rfl
  · split
    · rfl
    · dsimp only
      split
      · rfl
      · unfold hwrite; split <;> rfl
theorem logs_deliver (s : State) (r : LogRec) : Logs (deliver s r) s := by
  unfold deliver
  split
  · dsimp only
    split
    · rfl
    · refine (logs_endF _ _ _ _).trans ((logs_hwrite _ _ _).trans ?_)
      rfl
  · split <;> rfl
/-- A state that differs from another in nothing but its snapshots and free values. -/
def Snaps (t s : State) : Prop := t = { s with free := t.free, snap := t.snap }
theorem Snaps.logs {t s : State} (h : Snaps t s) : Logs t s := by
  unfold Snaps at h
  unfold Logs
  rw [h]
theorem snaps_bankEntry (late open_ : Bool) (acc : List BankSec × List Byte × State) (x : Section) (s : State)
    (h : Snaps acc.2.2 s) : Snaps (bankEntry late open_ acc x).2.2 s := by
  unfold Snaps at *
  unfold bankEntry takeBytes
  dsimp only
  split <;> rw [h] <;> rfl
theorem snaps_latch (s : State) (a b : Nat) (l : List Nat) : Snaps (latch s a b l) s := by
  unfold latch
  split
  · rfl
  · next i _ =>
    have h (u : List BankSec × List Byte × State) (hu : Snaps u.2.2 s) :=
      foldl_inv (fun v => Snaps v.2.2 s) (fun acc x =>
        bankEntry (lateDie s x.die) (s.gnt.debug && bit s.gnt.debugScope 0 && a == 0xFF) acc x)
        (fun v x hv => snaps_bankEntry _ _ v x s hv) (sections s a) u hu
    have k := h ([], [], { s with free := s.free + coreCounts }) rfl
    unfold Snaps at k ⊢
    dsimp only
    rw [k]
theorem logs_latch (s : State) (a b : Nat) (l : List Nat) : Logs (latch s a b l) s := (snaps_latch s a b l).logs
theorem logs_equinox (s : State) (a b : Nat) (l : List Nat) : Logs (equinox s a b l) s := by
  unfold equinox
  split
  · rfl
  · exact logs_latch _ _ _ _
theorem logs_appendRec (s : State) (r : LogRec) : Logs (appendRec s r) s := by
  unfold appendRec
  extract_lets q ring above lostUnwritten _ s1 s2 s3
  have h2 : Logs s2 s := (logs_ringWrite s1 q).trans rfl
  have h3 : Logs s3 s := by
    unfold s3
    split
    · exact (logs_deliver _ _).trans h2
    · exact h2
  split
  · exact (logs_equinox _ _ _ _).trans (Logs.trans rfl h3)
  · exact h3
theorem logs_emit (s : State) (c e : Nat) (w : Who) (p : List PField) : Logs (emit s c e w p) s := by
  unfold emit
  split
  · rfl
  · exact logs_appendRec _ _
theorem emit_flt (s : State) (c e : Nat) (w : Who) (p : List PField) : (emit s c e w p).flt = s.flt := by rw [logs_emit s c e w p]
theorem emit_gnt (s : State) (c e : Nat) (w : Who) (p : List PField) : (emit s c e w p).gnt = s.gnt := by rw [logs_emit s c e w p]
theorem emit_mgmt (s : State) (c e : Nat) (w : Who) (p : List PField) : (emit s c e w p).mgmt = s.mgmt := by rw [logs_emit s c e w p]
theorem emit_mem (s : State) (c e : Nat) (w : Who) (p : List PField) : (emit s c e w p).mem = s.mem := by rw [logs_emit s c e w p]
theorem emit_hostFail (s : State) (c e : Nat) (w : Who) (p : List PField) : (emit s c e w p).hostFail = s.hostFail := by rw [logs_emit s c e w p]
theorem foldl_part {β γ : Type} (pr : State → γ) (g : State → β → State) (hg : ∀ t b, pr (g t b) = pr t) : ∀ (l : List β) (t : State), pr (l.foldl g t) = pr t
  | [], _ => rfl
  | b :: l, t => (foldl_part pr g hg l (g t b)).trans (hg t b)
theorem recompute_flt (s : State) (r : Nat) : (recompute s r).flt = s.flt := by
  unfold recompute
  dsimp only
  split
  · rw [emit_flt, foldl_part (·.flt) _ (fun t e => emit_flt _ _ _ _ _)]
    split
    · rw [emit_flt]
    · rfl
  · rw [foldl_part (·.flt) _ (fun t e => emit_flt _ _ _ _ _)]
    split
    · rw [emit_flt]
    · rfl
theorem recap_flt (s : State) (r : Nat) : (recap s r).flt = s.flt := by
  unfold recap; split
  · rfl
  · exact recompute_flt s r
theorem advise_flt (s : State) : ∃ l, (advise s).flt = { s.flt with replace := l } := by
  unfold advise
  dsimp only
  generalize (adviceNow s).filter _ = l
  induction l generalizing s with
  | nil => exact ⟨_, rfl⟩
  | cons a l ih =>
    rw [List.foldl_cons]
    obtain ⟨x, hx⟩ := ih (emit { s with flt := { s.flt with replace := s.flt.replace ++ [a] } } 5 5 {} [(1, a)])
    exact ⟨x, by rw [hx, emit_flt]⟩
end Sys2Proof.Machine
end

