-- ==== Sys2Proof/Laws/Wire.lean ====
section
/-! SUPPORT. What was sealed for a link opens again. -/

namespace Sys2Proof.Machine
/-- Deciphering what was enciphered gives it back (R270, R436). -/
theorem gcmCrypt_gcmCrypt (key : Nat) (iv bs : List Byte) : gcmCrypt key iv (gcmCrypt key iv bs) = bs := by
  apply List.ext_getElem
  · simp [gcmCrypt]
  · intro i h1 h2
    simp [gcmCrypt]
theorem gcmCrypt_length (key : Nat) (iv bs : List Byte) : (gcmCrypt key iv bs).length = bs.length := by
  unfold gcmCrypt; simp
/-- The bytes of the number that bytes spell are those bytes. -/
theorem toLe_leNat : ∀ bs : List Byte, toLe bs.length (leNat bs) = bs
  | [] => rfl
  | b :: r => by
    have h := toLe_leNat r
    have e : (b.toNat + 256 * leNat r) / 256 = leNat r := by have := b.isLt; omega
    show BitVec.ofNat 8 (b.toNat + 256 * leNat r) :: toLe r.length ((b.toNat + 256 * leNat r) / 256) = b :: r
    rw [e, h]
    congr 1
    apply BitVec.eq_of_toNat_eq
    rw [BitVec.toNat_ofNat]
    have := b.isLt
    omega
theorem fit_length (n : Nat) (bs : List Byte) : (fit n bs).length = n := by
  unfold fit
  rw [List.length_take, List.length_append, List.length_replicate]
  omega
/-- The two flits of a sealed pair open again, under the same key, salt and count (R388). -/
theorem openPair_sealed (key salt count : Nat) (h0 h1 body : List Byte) (n0 : h0.length = 8) (n1 : h1.length = 8) :
    ∃ a b, sealPair key salt count h0 h1 body = [a, b] ∧ a.length = 256 ∧ b.length = 256 ∧ a.take 8 = h0 ∧ b.take 8 = h1 ∧
      openPair key salt count a b = some (fit 480 (gcmCrypt key (pairIv salt count) (fit 480 (gcmCrypt key (pairIv salt count) body)))) := by
  unfold sealPair
  extract_lets ct tag
  have lc : ct.length = 480 := fit_length _ _
  have lt : tag.length = 16 := fit_length _ _
  have p0 : flitHeader (h0 ++ ct.take 240 ++ tag.take 8) = h0 := by
    unfold flitHeader; rw [List.append_assoc, List.take_left' n0]
  have p1 : flitHeader (h1 ++ ct.drop 240 ++ tag.drop 8) = h1 := by
    unfold flitHeader; rw [List.append_assoc, List.take_left' n1]
  have q0 : flitBody (h0 ++ ct.take 240 ++ tag.take 8) = ct.take 240 := by
    unfold flitBody; rw [List.append_assoc, List.drop_left' n0, List.take_left' (by rw [List.length_take, lc]; rfl)]
  have q1 : flitBody (h1 ++ ct.drop 240 ++ tag.drop 8) = ct.drop 240 := by
    unfold flitBody; rw [List.append_assoc, List.drop_left' n1, List.take_left' (by rw [List.length_drop, lc])]
  have r0 : flitTrailer (h0 ++ ct.take 240 ++ tag.take 8) = tag.take 8 := by
    unfold flitTrailer; rw [List.drop_left' (by rw [List.length_append, n0, List.length_take, lc]; rfl)]
  have r1 : flitTrailer (h1 ++ ct.drop 240 ++ tag.drop 8) = tag.drop 8 := by
    unfold flitTrailer; rw [List.drop_left' (by rw [List.length_append, n1, List.length_drop, lc])]
  refine ⟨_, _, rfl, ?_, ?_, p0, p1, ?_⟩
  · rw [List.length_append, List.length_append, List.length_take, List.length_take, n0, lc, lt]; rfl
  · rw [List.length_append, List.length_append, List.length_drop, List.length_drop, n1, lc, lt]
  · unfold openPair
    dsimp only
    rw [p0, p1, q0, q1, r0, r1, List.take_append_drop, List.take_append_drop, if_pos rfl]
end Sys2Proof.Machine
end

