-- ==== Sys2Proof/Laws/Facts.lean ====
section
/-! SUPPORT. What single operations do to single fields, once each, for the proofs about the commands that use them. -/

open Sys2Proof Sys2Proof.Machine
namespace Sys2Proof.Machine

theorem seqE_map_ok {ε α β : Type} (f : α → Except ε β) : ∀ (l : List α) (r : List β), seqE (l.map f) = .ok r →
    ∀ b ∈ r, ∃ a ∈ l, f a = .ok b := by
  intro l
  induction l with
  | nil => intro r h b hb; simp [seqE] at h; subst h; cases hb
  | cons x l ih =>
    intro r h b hb
    simp only [List.map_cons] at h
    cases hx : f x with
    | error e => rw [hx] at h; simp [seqE] at h
    | ok y =>
      rw [hx] at h
      simp only [seqE] at h
      split at h
      · cases h
      · next l' hl =>
        cases h
        rcases List.mem_cons.1 hb with h1 | h1
        · subst h1; exact ⟨x, List.mem_cons_self, hx⟩
        · obtain ⟨a, ha, hf⟩ := ih _ hl b h1
          exact ⟨a, List.mem_cons_of_mem _ ha, hf⟩

theorem byteRuns_addr : ∀ (l : List (Nat × Byte)) (e : Nat × List Byte), e ∈ byteRuns l →
    ∀ a, e.1 ≤ a → a < e.1 + e.2.length → ∃ x ∈ l, x.1 = a := by
  intro l
  induction l with
  | nil => intro e he; cases he
  | cons x l ih =>
    obtain ⟨pa, b⟩ := x
    intro e he a h1 h2
    simp only [byteRuns] at he
    split at he
    · simp at he; subst he; simp at h2; exact ⟨(pa, b), List.mem_cons_self, by simp at h1 ⊢; omega⟩
    · next pb bs rest hr =>
      split at he
      · next hc =>
        rcases List.mem_cons.1 he with h3 | h3
        · subst h3
          by_cases hap : a = pa
          · exact ⟨(pa, b), List.mem_cons_self, hap.symm⟩
          · simp at h1 h2
            obtain ⟨x, hx, hxa⟩ := ih (pb, bs) (by rw [hr]; exact List.mem_cons_self) a (by simp; omega) (by simp; omega)
            exact ⟨x, List.mem_cons_of_mem _ hx, hxa⟩
        · obtain ⟨x, hx, hxa⟩ := ih e (by rw [hr]; exact List.mem_cons_of_mem _ h3) a h1 h2
          exact ⟨x, List.mem_cons_of_mem _ hx, hxa⟩
      · rcases List.mem_cons.1 he with h3 | h3
        · subst h3; simp at h1 h2; exact ⟨(pa, b), List.mem_cons_self, by simp; omega⟩
        · obtain ⟨x, hx, hxa⟩ := ih e (by rw [hr]; exact h3) a h1 h2
          exact ⟨x, List.mem_cons_of_mem _ hx, hxa⟩

theorem pwrites_outside : ∀ (l : List (Nat × List Byte)) (s : State) (a : Nat),
    (∀ e ∈ l, ¬ (e.1 ≤ a ∧ a < e.1 + e.2.length)) →
    mread (l.foldl (fun t e => pwrite t e.1 e.2) s).mem.bytes a = mread s.mem.bytes a := by
  intro l
  induction l with
  | nil => intro s a _; rfl
  | cons e l ih =>
    intro s a h
    rw [List.foldl_cons, ih _ _ fun x hx => h x (List.mem_cons_of_mem _ hx)]
    have := h e List.mem_cons_self
    exact mread_mwriteN_outside e.2 s.mem.bytes e.1 a (by omega)

theorem vwrite_changes (s t : State) (cx : Cx) (va : Nat) (bs : List Byte) (a : Nat) (h : vwrite s cx va bs = .ok t)
    (hne : mread t.mem.bytes a ≠ mread s.mem.bytes a) :
    ∃ i, i < bs.length ∧ xlate s cx.part (va + i) = .ok (.loc a true) := by
  unfold vwrite at h
  split at h
  · cases h
  · next l hl =>
    dsimp only at h
    split at h
    · cases h
    · next datas hd =>
      cases h
      by_contra hno
      apply hne
      have key : mread ((byteRuns (l.filterMap fun e => e.2.map fun pa => (pa, (bs[e.1]?).getD 0))).foldl
        (fun t e => pwrite t e.1 e.2) s).mem.bytes a = mread s.mem.bytes a := by
        apply pwrites_outside
        rintro e he ⟨h1, h2⟩
        obtain ⟨x, hx, hxa⟩ := byteRuns_addr _ e he a h1 h2
        obtain ⟨y, hy, hyx⟩ := List.mem_filterMap.1 hx
        obtain ⟨i, hi, hf⟩ := seqE_map_ok _ _ _ hl y hy
        rw [List.mem_range] at hi
        apply hno
        refine ⟨i, hi, ?_⟩
        split at hf
        · cases hf
        · next pa w hx2 =>
          split at hf
          · cases hf
          · next hw =>
            split at hf
            · cases hf
            · cases hf
              simp at hyx hw
              subst hyx
              simp at hxa
              subst hxa
              rw [hx2, hw]
        · split at hf
          · cases hf
          · split at hf
            · cases hf; simp at hyx
            · cases hf
      rw [← key]
      generalize (byteRuns _).foldl (fun t e => pwrite t e.1 e.2) s = u
      refine congrArg (fun m => mread m a) (Keeps.part0 (w := false) (g := u.guestSite) (q := u.pending) (m := 1048576) (a := u)
        (Keeps.foldl (Keeps.start u _) ?_) (by show Nat.testBit 1048576 0 = false; decide))
      intro v e hv
      split
      · exact keeps_request _ _ _ _ _ _ _ _ _ _ _ _ _ _ (Nat.and_self _) hv
      · exact hv

theorem xlate_ok (s : State) (p va pa : Nat) (w : Bool) (h : xlate s p va = .ok (.loc pa w)) :
    backed s pa = true ∧ pageRetired s pa = false ∧ s.mem.tableTag.contains (frameNo pa) = false ∧
    (owns s p pa false = true ∨ inLibrary va = true) := by
  unfold xlate at h
  split at h
  · cases h
  · split at h
    · cases h
    · dsimp only at h
      split at h
      · cases h
      · split at h
        · next hf =>
          cases h
          unfold frameOk at hf
          simp only [Bool.and_eq_true, Bool.or_eq_true, Bool.not_eq_true'] at hf
          exact ⟨hf.1.1.1.1, hf.1.1.1.2, hf.1.1.2, hf.2.imp id fun x => x.1⟩
        · cases h

@[simp] theorem getQ_hwrite (s : State) (a : Nat) (b : List Byte) (q : Nat) : getQ (hwrite s a b) q = getQ s q := by unfold getQ; rw [hwrite_qe]

theorem drain_facts (s : State) (q : Nat) (h : (getQ s q).st = .enabled ∨ (getQ s q).st = .error) :
    drainQueue s q = { s with host := (drainQueue s q).host, qe := (drainQueue s q).qe } ∧
    (getQ (drainQueue s q) q).st = .draining ∧ q ∉ (drainQueue s q).qe.hot ∧
    (drainQueue s q).qe.flights = s.qe.flights := by
  have e : drainQueue s q = hotOff (setQState s q .draining) q := by
    unfold drainQueue; rcases h with h | h <;> rw [h]
  rw [e]
  unfold hotOff
  split
  · refine ⟨?_, ?_, ?_, ?_⟩
    · simp only [setQState, putQ]; unfold hwrite; split <;> split <;> rfl
    · simp [setQState, getQ, putQ, tfind_tput_same]
    · simp
    · simp [setQState]
  · next hc =>
    refine ⟨?_, ?_, ?_, ?_⟩
    · simp only [setQState, putQ]; unfold hwrite; split <;> rfl
    · simp [setQState, getQ_putQ]
    · simpa using hc
    · simp [setQState]

theorem drop_facts (s : State) (fn : Nat) :
    (∀ q ∈ activeQueues s fn, (getQ (dropQueues s fn) q).st = .disabled ∧ q ∉ (dropQueues s fn).qe.hot) ∧
    (dropQueues s fn).vfs = s.vfs := by
  constructor
  · intro q hq
    unfold dropQueues
    dsimp only
    constructor
    · unfold getQ
      dsimp only
      rw [tfind_tmap]
      cases tfind _ q with
      | none => rfl
      | some x => simp [hq]
    · simp [hq]
  · exact (keeps_dropQueues s fn (K := ⟨false, s.guestSite, s.pending, 4194303 - 512, s⟩) (Sub.of (by decide)) (Keeps.start s _)).part9 (by decide)

theorem stopAdmin_facts (s : State) : (stopAdmin s).vfs = tmap s.vfs (fun _ v => { v with unbindBy := none }) ∧
    (stopAdmin s).pwr = { s.pwr with drainAt := none, drainTo := none, slewTo := none } ∧ (stopAdmin s).hol = s.hol ∧
    (stopAdmin s).regs = s.regs ∧ (stopAdmin s).qe = s.qe := by
  have e (u : State) (f : Flight) : (endPartReset u f).vfs = u.vfs ∧ (endPartReset u f).pwr = u.pwr ∧ (endPartReset u f).hol = u.hol ∧
      (endPartReset u f).regs = u.regs ∧ (endPartReset u f).qe = u.qe := by
    have r (v : State) (p : Nat) : (endReset v p).vfs = v.vfs ∧ (endReset v p).pwr = v.pwr ∧ (endReset v p).hol = v.hol ∧
        (endReset v p).regs = v.regs ∧ (endReset v p).qe = v.qe := by
      unfold endReset
      split
      · split
        · rw [snaps_latch]; exact ⟨rfl, rfl, rfl, rfl, rfl⟩
        · exact ⟨rfl, rfl, rfl, rfl, rfl⟩
      · exact ⟨rfl, rfl, rfl, rfl, rfl⟩
    unfold endPartReset
    split
    · split
      · exact r _ _
      · exact ⟨rfl, rfl, rfl, rfl, rfl⟩
    · exact ⟨rfl, rfl, rfl, rfl, rfl⟩
  have fold (l : List (Nat × Flight)) (u : State) : (l.foldl (fun t e => endPartReset t e.2) u).vfs = u.vfs ∧
      (l.foldl (fun t e => endPartReset t e.2) u).pwr = u.pwr ∧ (l.foldl (fun t e => endPartReset t e.2) u).hol = u.hol ∧
      (l.foldl (fun t e => endPartReset t e.2) u).regs = u.regs ∧ (l.foldl (fun t e => endPartReset t e.2) u).qe = u.qe := by
    refine foldl_inv (fun v => v.vfs = u.vfs ∧ v.pwr = u.pwr ∧ v.hol = u.hol ∧ v.regs = u.regs ∧ v.qe = u.qe) _ ?_ l u
      ⟨rfl, rfl, rfl, rfl, rfl⟩
    rintro v x ⟨h1, h2, h3, h4, h5⟩
    obtain ⟨g1, g2, g3, g4, g5⟩ := e v x.2
    exact ⟨g1.trans h1, g2.trans h2, g3.trans h3, g4.trans h4, g5.trans h5⟩
  unfold stopAdmin
  obtain ⟨g1, g2, g3, g4, g5⟩ := fold (s.qe.flights.filter fun e => e.2.q == 0 && e.2.phase == .ended) s
  dsimp only
  rw [g1, g2]
  exact ⟨rfl, rfl, g3, g4, g5⟩

/-- Which function owns a queue hangs on the VFs' groups alone. -/
theorem groupFn_tmap (s t : State) (h : t.vfs = tmap s.vfs (fun _ v => { v with unbindBy := none })) (g : Nat) : groupFn t g = groupFn s g := by
  unfold groupFn
  rw [h]
  generalize s.vfs = l
  induction l with
  | nil => rfl
  | cons a r ih =>
    unfold tmap at ih ⊢
    rw [List.map_cons, List.find?_cons, List.find?_cons]
    dsimp only
    by_cases h : a.2.firstGroup ≤ g ∧ g < a.2.firstGroup + a.2.groups
    · simp [h]
    · simpa [h] using ih

theorem pf0_facts (s : State) : (pf0Flr s).vfs = tmap s.vfs (fun _ v => { v with unbindBy := none }) ∧
    (pf0Flr s).pwr = { s.pwr with drainAt := none, drainTo := none, slewTo := none } ∧ (pf0Flr s).hol.deferred = [] ∧
    (pf0Flr s).regs = { s.regs with aqSqBase := 0, aqCqBase := 0, aqRcb := 0, aqSqLog2 := 0, aqCqLog2 := 0, aqCfgErr := false, aqCoalCount := 1, aqCoalTime := 0 } ∧
    ∀ q ∈ activeQueues s 0, (getQ (pf0Flr s) q).st = .disabled ∧ q ∉ (pf0Flr s).qe.hot := by
  have k := fun (u : State) => (keeps_dropQueues u 0 (K := ⟨false, u.guestSite, u.pending, 4058367, u⟩) (Sub.of (by decide)) (Keeps.start u _))
  have p8 := fun u => (k u).part8 (by decide)
  have p9 := fun u => (k u).part9 (by decide)
  have p12 := fun u => (k u).part12 (by decide)
  have p17 := fun u => (k u).part17 (by decide)
  let v : State := { s with
    hol := { s.hol with deferred := [], running := s.hol.running.map fun t => { t with by_ := none } }
    log := { s.log with parked := [] } }
  obtain ⟨g1, g2, g3, g4, g5⟩ := stopAdmin_facts v
  obtain ⟨u, hu, h1, h2, h3, h4, h5⟩ : ∃ u : State, pf0Flr s = resetFn (dropQueues u 0) 0 ∧
      u.vfs = tmap s.vfs (fun _ v => { v with unbindBy := none }) ∧
      u.pwr = { s.pwr with drainAt := none, drainTo := none, slewTo := none } ∧
      u.hol.deferred = [] ∧ u.regs = s.regs ∧ activeQueues u 0 = activeQueues s 0 := by
    refine ⟨stopAdmin v, rfl, g1, g2, by rw [g3], g4, ?_⟩
    unfold activeQueues queueFn
    rw [g5]
    simp only [groupFn_tmap v (stopAdmin v) g1]
    rfl
  rw [hu]
  unfold resetFn
  simp only [if_true, putFn_vfs, putFn_pwr, putFn_hol, putFn_regs, p8, p9, p12, p17, h1, h2, h3, h4]
  refine ⟨trivial, trivial, trivial, trivial, fun q hq => ?_⟩
  exact (drop_facts u 0).1 q (by rw [h5]; exact hq)

theorem fetchSlots_ok (s : State) (x : QCtx) (n : Nat)
    (h : ∀ i < n, (hread s (x.sqBase + 64 * ((x.sqCons + i) % 2 ^ x.sqLog2)) 64).isSome = true) :
    ∃ l, fetchSlots s x n = some l ∧ l.length = n ∧ ∀ i < n, ∃ d,
      hread s (x.sqBase + 64 * ((x.sqCons + i) % 2 ^ x.sqLog2)) 64 = some d ∧
      l[i]? = some ((x.sqCons + i) % 2 ^ x.sqLog2, d) := by
  unfold fetchSlots
  suffices H : ∀ (g : Nat → Option (Nat × List Byte)) (m k : Nat), (∀ i < m, (g (k + i)).isSome = true) →
      ∃ l, ((List.range' k m).map g).foldr (fun o acc => match o, acc with | some v, some l => some (v :: l) | _, _ => none)
        (some []) = some l ∧ l.length = m ∧ ∀ i < m, l[i]? = g (k + i) by
    obtain ⟨l, h1, h2, h3⟩ := H (fun i => (hread s (x.sqBase + 64 * ((x.sqCons + i) % 2 ^ x.sqLog2)) 64).map
      fun b => ((x.sqCons + i) % 2 ^ x.sqLog2, b)) n 0 (fun i hi => by simp [h i hi])
    refine ⟨l, ?_, h2, ?_⟩
    · rw [List.range_eq_range']; exact h1
    · intro i hi
      obtain ⟨d, hd⟩ := Option.isSome_iff_exists.1 (h i hi)
      refine ⟨d, hd, ?_⟩
      rw [h3 i hi]; simp [hd]
  intro g m
  induction m with
  | zero => intro k _; exact ⟨[], rfl, rfl, fun i hi => absurd hi (Nat.not_lt_zero i)⟩
  | succ m ih =>
    intro k hg
    obtain ⟨l, h1, h2, h3⟩ := ih (k + 1) (fun i hi => by have := hg (i + 1) (by omega); rwa [show k + (i + 1) = k + 1 + i by omega] at this)
    obtain ⟨v, hv⟩ := Option.isSome_iff_exists.1 (hg 0 (by omega))
    refine ⟨v :: l, ?_, by simp [h2], ?_⟩
    · rw [List.range'_succ, List.map_cons, List.foldr_cons, h1]
      simp at hv; simp [hv]
    · intro i hi
      cases i with
      | zero => simpa using hv.symm
      | succ i => rw [List.getElem?_cons_succ, h3 i (by omega)]; congr 1; omega

theorem holdSlots_facts (q : Nat) : ∀ (l : List (Nat × List Byte)) (s : State),
    (holdSlots s q l).qe.nextFlight = s.qe.nextFlight + l.length ∧
    (∀ d < s.qe.nextFlight, getF (holdSlots s q l) d = getF s d) ∧
    (holdSlots s q l).qe.ctx = s.qe.ctx ∧ (holdSlots s q l).qe.hot = s.qe.hot ∧ (holdSlots s q l).qe.hotSize = s.qe.hotSize ∧
    (holdSlots s q l).qe.pollPasses = s.qe.pollPasses ∧ (holdSlots s q l).hostFail = s.hostFail ∧
    ∀ i < l.length, ∀ e, l[i]? = some e →
      (getF (holdSlots s q l) (s.qe.nextFlight + i)).map (fun f => (f.q, f.slot, f.words, f.phase)) =
        some (q, e.1, toWords e.2, FPhase.fetched) := by
  intro l
  induction l with
  | nil => intro s; exact ⟨rfl, fun _ _ => rfl, rfl, rfl, rfl, rfl, rfl, fun i hi => absurd hi (Nat.not_lt_zero i)⟩
  | cons e l ih =>
    intro s
    obtain ⟨slot, bs⟩ := e
    unfold holdSlots
    obtain ⟨h1, h2, h3, h4, h5, h6, h7, h8⟩ := ih { s with qe := { s.qe with
      flights := tput s.qe.flights s.qe.nextFlight _, nextFlight := s.qe.nextFlight + 1 } }
    refine ⟨?_, ?_, h3, h4, h5, h6, h7, ?_⟩
    · rw [h1]; simp; omega
    · intro d hd
      rw [h2 d (by simp; omega)]
      exact tfind_tput_other _ _ _ _ (by omega)
    · intro i hi e he
      cases i with
      | zero =>
        simp at he; subst he
        rw [Nat.add_zero, h2 _ (by simp)]
        simp [getF, tfind_tput_same]
      | succ i =>
        have := h8 i (by simpa using hi) e (by simpa using he)
        rw [show s.qe.nextFlight + (i + 1) = s.qe.nextFlight + 1 + i by omega]
        exact this

theorem foldl_id {α : Type} (f : State → α → State) (s : State) : ∀ (l : List α), (∀ a ∈ l, f s a = s) → l.foldl f s = s := by
  intro l
  induction l with
  | nil => intro _; rfl
  | cons a l ih =>
    intro h
    rw [List.foldl_cons, h a List.mem_cons_self]
    exact ih fun x hx => h x (List.mem_cons_of_mem _ hx)

theorem toLe_length (n v : Nat) : (toLe n v).length = n := by
  induction n generalizing v with
  | zero => rfl
  | succ n ih => simp [toLe, ih]

theorem intake_facts (d : Nat) : ∀ (l : List Nat) (s : State),
    (l.foldl (fun t c => putCore t c { getCore t c with intake := (getCore t c).intake ++ [d] }) s).qe = s.qe ∧
    (l.foldl (fun t c => putCore t c { getCore t c with intake := (getCore t c).intake ++ [d] }) s) =
      { s with flt := { s.flt with cores := (l.foldl (fun t c => putCore t c { getCore t c with intake := (getCore t c).intake ++ [d] }) s).flt.cores } } ∧
    ∀ c ∈ l, d ∈ (getCore (l.foldl (fun t c => putCore t c { getCore t c with intake := (getCore t c).intake ++ [d] }) s) c).intake := by
  intro l
  have keep : ∀ (l : List Nat) (s : State) (c : Nat), d ∈ (getCore s c).intake →
      d ∈ (getCore (l.foldl (fun t c => putCore t c { getCore t c with intake := (getCore t c).intake ++ [d] }) s) c).intake := by
    intro l
    induction l with
    | nil => intro s c h; exact h
    | cons a l ih =>
      intro s c h
      rw [List.foldl_cons]
      apply ih
      by_cases hc : c = a
      · subst hc; simp
      · rw [getCore_putCore_other _ _ _ _ hc]; exact h
  induction l with
  | nil => intro s; exact ⟨rfl, rfl, fun c hc => by cases hc⟩
  | cons a l ih =>
    intro s
    rw [List.foldl_cons]
    obtain ⟨h1, h2, h3⟩ := ih (putCore s a { getCore s a with intake := (getCore s a).intake ++ [d] })
    refine ⟨h1, ?_, ?_⟩
    · rw [h2]; rfl
    · intro c hc
      rcases List.mem_cons.1 hc with rfl | hc
      · exact keep l _ _ (by simp)
      · exact h3 c hc

theorem descCores_putF (s : State) (d : Nat) (g f : Flight) : descCores (putF s d g) d f = descCores s d f := by
  rfl

theorem getQ_hotOff (s : State) (q p : Nat) : getQ (hotOff s q) p = getQ s p := by
  unfold hotOff
  split
  · unfold getQ; dsimp only; rw [hwrite_qe]
  · rfl

theorem getQ_setQState_other (s : State) (q p : Nat) (st : QState) (h : p ≠ q) : getQ (setQState s q st) p = getQ s p := by
  unfold setQState
  dsimp only
  rw [getQ_putQ_other _ _ _ _ h]
  unfold getQ; rw [hwrite_qe]

theorem hotOff_eq (s : State) (q : Nat) : hotOff s q = { s with host := (hotOff s q).host, qe := (hotOff s q).qe } := by
  unfold hotOff
  split
  · dsimp only; unfold hwrite; split <;> rfl
  · rfl

theorem setQState_eq (s : State) (q : Nat) (st : QState) :
    setQState s q st = { s with host := (setQState s q st).host, qe := (setQState s q st).qe } := by
  have hw : ∀ a b, hwrite s a b = { s with host := (hwrite s a b).host } := by
    intro a b; unfold hwrite; split <;> rfl
  unfold setQState
  dsimp only
  rw [hw]
  rfl

theorem drain_eq (s : State) (q : Nat) : drainQueue s q = { s with host := (drainQueue s q).host, qe := (drainQueue s q).qe } := by
  unfold drainQueue
  split
  · rw [hotOff_eq, setQState_eq]
  · rw [hotOff_eq, setQState_eq]
  · rfl

theorem drain_other (s : State) (q p : Nat) (h : p ≠ q) : getQ (drainQueue s q) p = getQ s p := by
  unfold drainQueue
  split
  · rw [getQ_hotOff, getQ_setQState_other _ _ _ _ h]
  · rw [getQ_hotOff, getQ_setQState_other _ _ _ _ h]
  · rfl

theorem drain_not (s : State) (q p : Nat) (h : (getQ s p).st ≠ .enabled ∨ p = q) : (getQ (drainQueue s q) p).st ≠ .enabled := by
  by_cases hp : p = q
  · subst hp
    have hset : (getQ (hotOff (setQState s p .draining) p) p).st = .draining := by
      rw [getQ_hotOff]; unfold setQState; dsimp only; rw [getQ_putQ]
    unfold drainQueue
    split
    · rw [hset]; decide
    · rw [hset]; decide
    · next h1 h2 => intro h3; exact h1 h3
  · rw [drain_other s q p hp]
    exact h.resolve_right hp

theorem drainAll_facts : ∀ (l : List Nat) (s : State),
    l.foldl drainQueue s = { s with host := (l.foldl drainQueue s).host, qe := (l.foldl drainQueue s).qe } ∧
    ∀ q ∈ l, (getQ (l.foldl drainQueue s) q).st ≠ .enabled := by
  have keep : ∀ (l : List Nat) (s : State) (q : Nat), (getQ s q).st ≠ .enabled → (getQ (l.foldl drainQueue s) q).st ≠ .enabled := by
    intro l
    induction l with
    | nil => intro s q h; exact h
    | cons a l ih => intro s q h; exact ih _ _ (drain_not s a q (.inl h))
  intro l
  induction l with
  | nil => intro s; exact ⟨rfl, fun q hq => by cases hq⟩
  | cons a l ih =>
    intro s
    obtain ⟨h1, h2⟩ := ih (drainQueue s a)
    rw [List.foldl_cons]
    refine ⟨?_, ?_⟩
    · rw [h1, drain_eq s a]
    · intro q hq
      rcases List.mem_cons.1 hq with rfl | hq
      · exact keep l _ _ (drain_not s q q (.inr rfl))
      · exact h2 q hq

def clearTail (s2 : State) (p : Nat) : State :=
  let s3 := flushCache (resetKv s2 p) p
  let s4 := match getP s3 p with
    | some x => putP s3 p { x with prefetchDrop := 0, bwMiss := 0, bw := tmap x.bw fun _ b => { b with bytes := 0, misses := 0 } }
    | none => s3
  emptyBanks (raiseSender s4 p) p

theorem clearTail_facts (s2 : State) (p : Nat) : (clearTail s2 p).sync = s2.sync ∧ (clearTail s2 p).steps = s2.steps := by
  unfold clearTail
  dsimp only
  generalize hs3 : flushCache (resetKv s2 p) p = s3
  have e1 : s3.sync = s2.sync ∧ s3.steps = s2.steps := by
    rw [← hs3]; exact ⟨(resetKv_K s2 _).part4 rfl, (resetKv_K s2 _).part5 rfl⟩
  have fin : ∀ s4 : State, s4.sync = s3.sync → s4.steps = s3.steps → (emptyBanks (raiseSender s4 p) p).sync = s2.sync ∧ (emptyBanks (raiseSender s4 p) p).steps = s2.steps := by
    intro s4 h1 h2
    have e3 := (raiseSender_K s4 p).part4 rfl
    have e4 := (raiseSender_K s4 p).part5 rfl
    exact ⟨e3.trans (h1.trans e1.1), e4.trans (h2.trans e1.2)⟩
  split
  · exact fin _ rfl rfl
  · exact fin _ rfl rfl

theorem clearPart_facts (s : State) (p : Nat) : (∀ k v, (k, v) ∈ (clearPart s p).sync.counters → k / 1024 ≠ p) ∧
    (∀ k v, (k, v) ∈ (clearPart s p).sync.pairs → k / 256 ≠ p) ∧ (∀ k v, (k, v) ∈ (clearPart s p).steps.rotas → k / 256 ≠ p) := by
  have : ∃ s2 : State, clearPart s p = clearTail s2 p ∧ (∀ e ∈ s2.sync.counters, (e.1 / 1024 != p) = true) ∧
      (∀ e ∈ s2.sync.pairs, (e.1 / 256 != p) = true) ∧ (∀ e ∈ s2.steps.rotas, (e.1 / 256 != p) = true) := by
    refine ⟨_, rfl, ?_, ?_, ?_⟩
    all_goals intro e he; exact (List.mem_filter.1 he).2
  obtain ⟨s2, e, h1, h2, h3⟩ := this
  rw [e, (clearTail_facts s2 p).1, (clearTail_facts s2 p).2]
  refine ⟨fun k v h => ?_, fun k v h => ?_, fun k v h => ?_⟩
  · simpa using h1 _ h
  · simpa using h2 _ h
  · simpa using h3 _ h

theorem portsLeave_pwr (l : List Nat) (t : State) : (l.foldl (fun t p => portLeave t p .down (some 6)) t).pwr = t.pwr := by
  induction l generalizing t with
  | nil => rfl
  | cons a l ih => exact (ih _).trans ((portLeave_K t a .down (some 6)).part12 rfl)

theorem enterPkg_pwr (s : State) (p : Pkg) : (enterPkg s p).pwr.pkg = p ∧ (enterPkg s p).pwr.level = 0 := by
  unfold enterPkg
  dsimp only
  split
  · rw [portsLeave_pwr]
    exact ⟨rfl, rfl⟩
  · exact ⟨rfl, rfl⟩

theorem foldl_id' {α β : Type} (f : α → β → α) : ∀ (l : List β) (a : α), (∀ b ∈ l, f a b = a) → l.foldl f a = a
  | [], _, _ => rfl
  | b :: l, a, h => by rw [List.foldl_cons, h b List.mem_cons_self]; exact foldl_id' f l a fun c hc => h c (List.mem_cons_of_mem _ hc)

theorem settle_capacity (s : State) (r q : Nat) : capacity (settleBuckets s r) q = capacity s q := by
  unfold settleBuckets
  generalize regsOn s r = l
  have : ∀ (g : Nat × Reg → Nat) (l : Tbl Reg) (t : State), capacity (l.foldl (fun t e => setBucket t e.2.part e.2.cls r (g e)) t) q = capacity t q := by
    intro g l
    induction l with
    | nil => intro t; rfl
    | cons a l ih => intro t; rw [List.foldl_cons, ih]; rfl
  exact this _ l s

theorem settle_regs (s : State) (r : Nat) : (settleBuckets s r).bw.regs = s.bw.regs := by
  unfold settleBuckets
  generalize regsOn s r = l
  have : ∀ (g : Nat × Reg → Nat) (l : Tbl Reg) (t : State), (l.foldl (fun t e => setBucket t e.2.part e.2.cls r (g e)) t).bw.regs = t.bw.regs := by
    intro g l
    induction l with
    | nil => intro t; rfl
    | cons a l ih => intro t; rw [List.foldl_cons, ih]; rfl
  exact this _ l s

theorem recompute_bw (s : State) (r : Nat) : (recompute s r).bw.regs =
    tmap s.bw.regs (fun k x => (tfind (tmap (regsOn s r) fun _ x => { x with eff := effOf (classCuts (regsOn s r) (rateSum (regsOn s r) - 85 * capacity s r / 100) 6) x }) k).getD x)
    ∧ (recompute s r).bw.capacity = tput s.bw.capacity r (capacity s r) := by
  have hf : ∀ (l : List (Nat × Reg)) (g : State → Nat × Reg → State) (_ : ∀ t e, (g t e).bw = t.bw) (t : State), (l.foldl g t).bw = t.bw := by
    intro l g hg
    induction l with
    | nil => intro t; rfl
    | cons a l ih => intro t; exact (ih _).trans (hg _ _)
  unfold recompute
  dsimp only
  split
  · rw [emit_bw, hf _ _ (fun t e => emit_bw _ _ _ _ _)]
    split
    · rw [emit_bw]; exact ⟨rfl, rfl⟩
    · exact ⟨rfl, rfl⟩
  · rw [hf _ _ (fun t e => emit_bw _ _ _ _ _)]
    split
    · rw [emit_bw]; exact ⟨rfl, rfl⟩
    · exact ⟨rfl, rfl⟩

theorem recompute_cap (s : State) (r : Nat) : tfind (recompute s r).bw.capacity r = some (capacity s r) := by
  rw [(recompute_bw s r).2]; exact tfind_tput_same _ _ _

theorem recompute_none (s : State) (r h : Nat) (hn : tfind s.bw.regs h = none) : tfind (recompute s r).bw.regs h = none := by
  rw [(recompute_bw s r).1]; rw [tfind_tmap, hn]; rfl

theorem tfind_filter {α : Type} (p : Nat × α → Bool) : ∀ {t : Tbl α} {i : Nat} {x : α}, tfind t i = some x → p (i, x) = true → tfind (t.filter p) i = some x
  | (k, v) :: r, i, x, h, hp => by
    unfold tfind at h
    split at h
    · next e =>
      cases h; subst e
      rw [List.filter_cons, if_pos hp]
      unfold tfind; rw [if_pos rfl]
    · next e =>
      rw [List.filter_cons]
      split
      · unfold tfind; rw [if_neg e]; exact tfind_filter p h hp
      · exact tfind_filter p h hp

theorem recompute_reg (s : State) (r h : Nat) (x : Reg) (hx : tfind s.bw.regs h = some x) :
    ∃ y, tfind (recompute s r).bw.regs h = some y ∧ (x.res = r → (y.part, y.cls, y.res, y.rate, y.burst) = (x.part, x.cls, x.res, x.rate, x.burst)) := by
  rw [(recompute_bw s r).1]; rw [tfind_tmap, hx]
  refine ⟨_, rfl, ?_⟩
  intro hr
  rw [tfind_tmap, show tfind (regsOn s r) h = some x from tfind_filter _ hx (by simp [hr])]
  rfl

theorem writeCopy_facts (r : Rec) : (writeCopy r true).edited = false ∧ (writeCopy r true).shadow = r.shadow ∧
    inForce (writeCopy r true) = some { gen := max r.a.gen r.b.gen + 1, valid := true, body := r.shadow } := by
  unfold writeCopy inForce
  obtain ⟨sh, e, ⟨ga, va, ba⟩, ⟨gb, vb, bb⟩⟩ := r
  cases va <;> cases vb
  · simp
  · simp; intro; omega
  · simp
  · by_cases hg : gb < ga <;> simp [hg] <;> (intro; omega)

theorem writeLife_facts (s : State) : (∀ i, i ≠ 6 → tfind (writeLife s).mgmt.records i = tfind s.mgmt.records i) ∧
    (writeLife s).parts = s.parts ∧ (writeLife s).gnt = s.gnt := by
  refine ⟨?_, rfl, rfl⟩
  intro i hi
  unfold writeLife putStored putRec putOlder
  dsimp only
  exact tfind_tput_other _ _ _ _ hi

theorem storeOne_facts (s : State) (i : Nat) : (storeOne s [] i).2 = false ∧
    ∀ j, getRec (storeOne s [] i).1 j = if j = i then writeCopy (getRec s j) true else getRec s j := by
  have hb : ∀ j, getRec (putRec s i (writeCopy (getRec s i) true)) j = if j = i then writeCopy (getRec s j) true else getRec s j := by
    intro j
    by_cases hj : j = i
    · subst hj; rw [if_pos rfl]; unfold getRec putRec; simp [tfind_tput_same]
    · rw [if_neg hj]; unfold getRec putRec; simp [tfind_tput_other _ _ _ _ hj]
  unfold storeOne
  simp only [List.contains_nil, Bool.not_false, Bool.not_true, Bool.false_eq_true, if_false]
  split
  · exact ⟨rfl, hb⟩
  · split
    · exact ⟨rfl, hb⟩
    · exact ⟨rfl, hb⟩

theorem storeList_facts : ∀ (l : List Nat) (s : State), l.Nodup → (storeList s [] l).2 = false ∧
    ∀ j, getRec (storeList s [] l).1 j = if j ∈ l then writeCopy (getRec s j) true else getRec s j
  | [], s, _ => ⟨rfl, fun j => by simp [storeList]⟩
  | i :: r, s, h => by
    obtain ⟨a1, a2⟩ := storeOne_facts s i
    obtain ⟨n1, n2⟩ := List.nodup_cons.1 h
    obtain ⟨b1, b2⟩ := storeList_facts r (storeOne s [] i).1 n2
    unfold storeList
    dsimp only
    rw [a1]
    simp only [Bool.false_eq_true, if_false]
    refine ⟨b1, fun j => ?_⟩
    rw [b2, a2]
    by_cases hj : j = i
    · subst hj; simp [n1]
    · simp [hj]

theorem logs_appendHeld (s : State) : Logs (appendHeld s) s :=
  foldl_inv (fun v => Logs v s) appendRec (fun v r hv => (logs_appendRec v r).trans hv) s.log.held
    { s with log := { s.log with held := [] } } rfl

theorem appendHeld_mgmt (s : State) : (appendHeld s).mgmt = s.mgmt := by
  have h := logs_appendHeld s
  unfold Logs at h
  rw [h]

theorem ownerMsg_run (s : State) (d kind : Nat) (ok : Bool) (body : Owner → Option State) (after : Owner → State → List Byte × State)
    (f : Flight) (b : List Byte) (m : Owner) (h : Runs s d 0xF160 f) (hg : s.mgmt.gauntletWdt = false) (hk : f.op 0x2C 1 = kind) (hz : f.zeroFrom 0x2D = true)
    (h1 : 0x40 + sigBytes ≤ f.op 0x28 4) (h2 : f.op 0x28 4 ≤ 65536) (h3 : hread s (f.op 0x20 8) (f.op 0x28 4) = some b)
    (h4 : parseOwner b (f.op 0x20 8) kind = some m) (h5 : kindOk s kind m = true) (h6 : fld b 0x10 16 = s.mgmt.idHash)
    (h7 : 4 < kind ∨ s.gnt.policy.ownerSeq < m.seq) :
    (signedOk s kind m = false → ownerMsg s d kind ok body after = refuseF s d rAuth) ∧
    (signedOk s kind m = true → body m = none → ownerMsg s d kind ok body after = refuseF s d rPolicy) ∧
    (signedOk s kind m = true → ∀ t, body m = some t → (kind ≤ 4 → ok = true) →
      ownerMsg s d kind ok body after =
        ownerReply (after m (if kind ≤ 4 then commitOwner (putOlder t fun o => { o with policy := s.gnt.policy }) true else t)).2 d kind m
          (after m (if kind ≤ 4 then commitOwner (putOlder t fun o => { o with policy := s.gnt.policy }) true else t)).1) := by
  unfold ownerMsg
  rw [withGnt_run h hg]
  dsimp only
  rw [if_neg (by simp [hk]), if_neg (by simp [hz]), if_neg (by omega), h3]
  dsimp only
  rw [hk, h4]
  dsimp only
  rw [if_neg (by simp [h5])]
  refine ⟨?_, ?_, ?_⟩
  · intro hv; rw [if_pos (.inr (by simp [hv]))]
  · intro hv hb
    rw [if_neg (by simp [h6, hv]), if_neg (by omega), hb]
  · intro hv t hb ho
    rw [if_neg (by simp [h6, hv]), if_neg (by omega), hb]
    dsimp only
    rw [if_neg]
    rintro ⟨x1, x2⟩
    rw [ho x1] at x2; cases x2

theorem ownerMsg_run4 (s : State) (d kind : Nat) (body : Owner → Option State) (after : Owner → State → List Byte × State)
    (f : Flight) (b : List Byte) (m : Owner) (h : Runs s d 0xF160 f) (hg : s.mgmt.gauntletWdt = false) (hk : f.op 0x2C 1 = kind) (hz : f.zeroFrom 0x2D = true)
    (h1 : 0x40 + sigBytes ≤ f.op 0x28 4) (h2 : f.op 0x28 4 ≤ 65536) (h3 : hread s (f.op 0x20 8) (f.op 0x28 4) = some b)
    (h4 : parseOwner b (f.op 0x20 8) kind = some m) (h5 : kindOk s kind m = true) (h6 : fld b 0x10 16 = s.mgmt.idHash)
    (h7 : s.gnt.policy.ownerSeq < m.seq) (hk4 : kind ≤ 4) :
    (signedOk s kind m = false → ownerMsg s d kind true body after = refuseF s d rAuth) ∧
    (signedOk s kind m = true → ∀ t, body m = some t → ∃ z : State, z.gnt = t.gnt ∧ z.cuff = t.cuff ∧
      ownerMsg s d kind true body after = ownerReply (after m z).2 d kind m (after m z).1) := by
  obtain ⟨k1, _, k3⟩ := ownerMsg_run s d kind true body after f b m h hg hk hz h1 h2 h3 h4 h5 h6 (.inr h7)
  refine ⟨k1, fun hv t hb => ⟨_, ?_, ?_, k3 hv t hb (fun _ => rfl)⟩⟩
  · rw [if_pos hk4]; rfl
  · rw [if_pos hk4]; rfl

theorem setPolicy_pol (s : State) (p : Policy) : (setPolicy s p).gnt.policy = p := rfl

theorem foldl_pol {β : Type} (g : State → β → State) (hg : ∀ t b, (g t b).gnt.policy = t.gnt.policy) : ∀ (l : List β) (t : State), (l.foldl g t).gnt.policy = t.gnt.policy
  | [], _ => rfl
  | b :: l, t => (foldl_pol g hg l (g t b)).trans (hg t b)

theorem enterDebug_policy (s : State) (n : Nat) : (enterDebug s n).gnt.policy = s.gnt.policy := by
  unfold enterDebug
  dsimp only
  rw [foldl_pol _ (fun t p => (portLeave_K t p .down (some 3)).part6 rfl)]
  show (List.foldl _ s (tkeys s.parts)).gnt.policy = _
  rw [foldl_pol]
  intro t p
  split
  · exact (destroyPart_K t p).part6 rfl
  · exact (clearPart_K t p).part6 rfl

theorem tfind_fkey {α : Type} (p : Nat → Bool) : ∀ (t : Tbl α) (i : Nat), tfind (t.filter fun e => p e.1) i = if p i then tfind t i else none
  | [], i => by simp [tfind]
  | (k, v) :: r, i => by
    rw [List.filter_cons]
    have ih := tfind_fkey p r i
    by_cases hk : i = k
    · subst hk
      by_cases hp : p i <;> simp [hp, tfind, ih]
    · by_cases hp : p k <;> simp [hp, tfind, ih, hk]

theorem mread_pzero (s : State) (pa n a : Nat) : mread (pzero s pa n).mem.bytes a = if pa ≤ a ∧ a < pa + n then 0 else mread s.mem.bytes a := by
  unfold mread pzero tfilter
  dsimp only
  rw [tfind_fkey (fun x => !decide (pa ≤ x ∧ x < pa + n))]
  by_cases h : pa ≤ a ∧ a < pa + n <;> simp [h]

theorem foldl_zero (base size : Nat → Nat) (l : List Nat) (s : State) (a : Nat) :
    (mread s.mem.bytes a = 0 → mread (l.foldl (fun t n => pzero t (base n) (size n)) s).mem.bytes a = 0) ∧
    (∀ c ∈ l, base c ≤ a → a < base c + size c → mread (l.foldl (fun t n => pzero t (base n) (size n)) s).mem.bytes a = 0) := by
  induction l generalizing s with
  | nil => exact ⟨id, fun c hc => by cases hc⟩
  | cons x l ih =>
    obtain ⟨i1, i2⟩ := ih (pzero s (base x) (size x))
    rw [List.foldl_cons]
    refine ⟨fun h => i1 ?_, fun c hc h1 h2 => ?_⟩
    · rw [mread_pzero]; split <;> simp [h]
    · rcases List.mem_cons.1 hc with rfl | hc
      · apply i1; rw [mread_pzero, if_pos ⟨h1, h2⟩]
      · exact i2 c hc h1 h2

theorem parse_buf {b : List Byte} {buf kind : Nat} {m : Owner} (h : parseOwner b buf kind = some m) : parseOwner b 0 kind = some { m with buf := 0 } := by
  unfold parseOwner at h ⊢
  dsimp only at h ⊢
  split at h
  · next hc => rw [if_pos hc]; cases h; rfl
  · cases h

theorem endHoliday_facts (s : State) (h : s.hol.open_ = true) :
    (endHoliday s).hol.open_ = false ∧ (endHoliday s).hol.parts = 0 ∧ (endHoliday s).hol.stackSet = 0 ∧ (endHoliday s).hol.ports = 0 ∧ (endHoliday s).hol.endAt = 0 := by
  unfold endHoliday
  rw [if_neg (by simp [h])]
  rw [emit_hol, (serveFreed_K _).part17 rfl, (recapAll_K _).part17 rfl]
  generalize stopTest s = z
  have e : ∀ (l : List Nat) (b : Nat → Bool) (t : State), (l.foldl (fun t p => if b p then portRelease t p 2 else t) t).hol = t.hol := by
    intro l b t
    refine foldl_part (·.hol) _ ?_ l t
    intro t p; split
    · exact (portRelease_K t p 2).part17 rfl
    · rfl
  dsimp only
  rw [e]
  exact ⟨rfl, rfl, rfl, rfl, rfl⟩

theorem findIdx?_lt {α : Type} {p : α → Bool} : ∀ {l : List α} {i : Nat}, l.findIdx? p = some i → i < l.length := by
  intro l i h
  exact (List.findIdx?_eq_some_iff_getElem.1 h).1

theorem latch_facts (s : State) (p src i : Nat) (l : List Nat) (h : freeBank s = some i) :
    ((latch s p src l).snap.banks[i]?).map (fun b => (b.st, b.scope, b.source, b.time)) = some (1, p, src, s.time.now) ∧
    (latch s p src l).snap.armed = s.snap.armed ∧ (latch s p src l).snap.latches = s.snap.latches + 1 := by
  have hlt : i < s.snap.banks.length := by
    unfold freeBank at h
    split at h
    · next j hj => cases h; exact findIdx?_lt hj
    · exact findIdx?_lt h
  unfold latch
  rw [h]
  dsimp only
  refine ⟨?_, rfl, rfl⟩
  rw [List.getElem?_set_self hlt]
  rfl

theorem imageOf_hostFail (s : State) (b : Bank) : (imageOf s b).2.hostFail = s.hostFail := by
  unfold imageOf
  dsimp only
  have h1 : (if (b.scope == 0xFF && !b.debug) = true then ([], s) else if (!(b.scope == 0xFF) && isSealed s b.scope) = true then sealedT s b else (b.areaT, s)).2.hostFail = s.hostFail := by
    split
    · rfl
    · split
      · unfold sealedT; split <;> rfl
      · rfl
  generalize (if (b.scope == 0xFF && !b.debug) = true then ([], s) else if (!(b.scope == 0xFF) && isSealed s b.scope) = true then sealedT s b else (b.areaT, s) : List Byte × State) = T at h1 ⊢
  exact h1

theorem logs_counterTrigger (s : State) (p c : Nat) : Logs (counterTrigger s p c) s := by
  unfold counterTrigger
  generalize (if s.snap.scope = 0xFF then s.snap.counter else physCounter s.snap.scope s.snap.counter) = y
  dsimp only
  split
  · exact (logs_equinox _ _ _ _).trans (Eq.refl ({ s with snap := _ } : State))
  · exact Logs.refl s

/-- What an addition leaves: the counter saturates, the pairs and the partitions stay. -/
theorem addCounter_sync {s : State} {p : Nat} (h : inReset s p = false) (c n : Nat) (b : Option Nat) :
    (addCounter s p c n b).1.sync = { s.sync with counters := if n = 0 then s.sync.counters else tput s.sync.counters (physCounter p c) (min (ctrOf s p c + n) (2 ^ 64 - 1)) } ∧
    (addCounter s p c n b).1.parts = s.parts ∧ (addCounter s p c n b).1.mem = s.mem ∧ (s.sync.pairs = [] → (addCounter s p c n b).2 = false) := by
  unfold addCounter
  split
  · next x hx => exfalso; unfold inReset at h; rw [hx] at h; simp at h
  split
  · exact ⟨rfl, rfl, rfl, fun _ => rfl⟩
  dsimp only
  generalize hz : ({ s with sync := _ } : State) = z
  have e2 : Logs (if ctrOf s p c + n ≤ 2 ^ 64 - 1 then z else emit z 8 1 { die := c / 512, part := p } []) z := by
    split
    · exact Logs.refl z
    · exact logs_emit _ _ _ _ _
  generalize (if ctrOf s p c + n ≤ 2 ^ 64 - 1 then z else emit z 8 1 { die := c / 512, part := p } []) = y at e2 ⊢
  have e3 : ∃ cf, notifyWatches y p c = { y with cuff := cf } := by
    unfold notifyWatches; split
    · exact ⟨_, rfl⟩
    · exact ⟨_, rfl⟩
  obtain ⟨cf, e3⟩ := e3
  have e4 := logs_counterTrigger (notifyWatches y p c) p c
  have q : ∀ u, Logs u (counterTrigger (notifyWatches y p c) p c) → u.sync = { s.sync with counters := tput s.sync.counters (physCounter p c) (min (ctrOf s p c + n) (2 ^ 64 - 1)) } ∧ u.parts = s.parts ∧ u.mem = s.mem := by
    intro u hu
    rw [hu, e4, e3, e2, ← hz]
    exact ⟨rfl, rfl, rfl⟩
  split
  · exact ⟨(q _ (Logs.refl _)).1, (q _ (Logs.refl _)).2.1, (q _ (Logs.refl _)).2.2, fun _ => rfl⟩
  · next i x hp =>
    have hne : s.sync.pairs ≠ [] := by
      intro hs
      have e : (counterTrigger (notifyWatches y p c) p c).sync.pairs = [] := by rw [(q _ (Logs.refl _)).1]; exact hs
      unfold pairOf at hp
      rw [e] at hp
      simp at hp
    split
    · obtain ⟨a1, a2, a3⟩ := q _ (logs_emit (counterTrigger (notifyWatches y p c) p c) 8 2 { die := c / 512, part := p } _)
      exact ⟨a1, a2, a3, fun hs => absurd hs hne⟩
    · obtain ⟨a1, a2, a3⟩ := q _ (Logs.refl _)
      exact ⟨a1, a2, a3, fun hs => absurd hs hne⟩

theorem ctrOf_eq (s : State) (p c : Nat) : ctrOf s p c = (tfind s.sync.counters (physCounter p c)).getD 0 := rfl

theorem addAll_sync (p : Nat) : ∀ (es : List (Nat × Nat)) (a : State × Bool), inReset a.1 p = false →
    let r := es.foldl (fun (acc : State × Bool) e => ((addCounter acc.1 p e.1 e.2 none).1, acc.2 || (addCounter acc.1 p e.1 e.2 none).2)) a
    r.1.sync = { a.1.sync with counters := es.foldl (fun t e => if e.2 = 0 then t else tput t (physCounter p e.1) (min ((tfind t (physCounter p e.1)).getD 0 + e.2) (2 ^ 64 - 1))) a.1.sync.counters } ∧
    r.1.parts = a.1.parts ∧ r.1.mem = a.1.mem ∧ (a.1.sync.pairs = [] → r.2 = a.2)
  | [], a, _ => ⟨rfl, rfl, rfl, fun _ => rfl⟩
  | e :: es, a, h => by
    obtain ⟨x1, x2, x3, x4⟩ := addCounter_sync h e.1 e.2 none
    have h' : inReset (addCounter a.1 p e.1 e.2 none).1 p = false := by
      unfold inReset getP at h ⊢; rw [x2]; exact h
    obtain ⟨y1, y2, y3, y4⟩ := addAll_sync p es ((addCounter a.1 p e.1 e.2 none).1, a.2 || (addCounter a.1 p e.1 e.2 none).2) h'
    refine ⟨?_, y2.trans x2, y3.trans x3, ?_⟩
    · rw [List.foldl_cons, y1]
      simp only [x1, List.foldl_cons, ctrOf_eq]
    · intro hp
      rw [List.foldl_cons, y4 (by rw [x1]; exact hp)]
      simp only [x4 hp, Bool.or_false]

/-- A port without what sending uses up: credits, numbers and counts of flits sent, what it owes, what is unacknowledged. -/
def linkOf (x : Port) : Port := { x with credits := [], txSeq := 0, txPairs := 0, owed := [], unacked := [] }

/-- A state whose port differs from another's in nothing but what sending uses up. -/
def LikePort (t s : State) (q : Nat) : Prop := linkOf (getPort t q) = linkOf (getPort s q)

theorem LikePort.refl (s : State) (q : Nat) : LikePort s s q := rfl

theorem LikePort.trans {a b c : State} {q : Nat} (h1 : LikePort a b q) (h2 : LikePort b c q) : LikePort a c q := Eq.trans h1 h2

theorem LikePort.field {α : Type} {t s : State} {q : Nat} (h : LikePort t s q) (f : Port → α) (hf : ∀ x, f (linkOf x) = f x) :
    f (getPort t q) = f (getPort s q) := by
  rw [← hf, ← hf (getPort s q)]
  exact congrArg f h

theorem LikePort.of_plauf {a b : State} (q : Nat) (h : a.plauf = b.plauf) : LikePort a b q := by
  unfold LikePort getPort; rw [h]

theorem LikePort.of_ports {a b : State} (q : Nat) (h : a.plauf.ports = b.plauf.ports) : LikePort a b q := by
  unfold LikePort getPort; rw [h]

theorem likePort_sendPair (s : State) (p q : Nat) (a b : FlitBody) : LikePort (sendPair s p a b) s q := by
  unfold sendPair
  extract_lets x h0 h1 l s1
  show linkOf (getPort s1 q) = _
  by_cases h : q = p
  · subst h
    rw [show getPort s1 q = _ from getPort_putPort s q _]
    rfl
  · rw [show getPort s1 q = _ from getPort_putPort_other s p _ q h]

theorem likePort_sendFlits (p q : Nat) : ∀ (l : List FlitBody) (s : State), LikePort (sendFlits s p l) s q
  | [], s => .refl s q
  | [a], s => likePort_sendPair s p q a idleBody
  | a :: b :: r, s => (likePort_sendFlits p q r (sendPair s p a b)).trans (likePort_sendPair s p q a b)

theorem likePort_sendIdle (s : State) (p q : Nat) : LikePort (sendIdle s p) s q := by
  unfold sendIdle
  dsimp only
  split
  · exact likePort_sendFlits p q _ s
  · exact .refl _ _

theorem likePort_putOn (s : State) (p q : Nat) (m : RemMsg) : LikePort (putOn s p m) s q := by
  unfold putOn
  extract_lets x c s1
  have k : LikePort s1 s q := by
    refine (likePort_sendFlits p q _ _).trans ?_
    unfold LikePort
    by_cases h : q = p
    · subst h; rw [getPort_putPort]; rfl
    · rw [getPort_putPort_other _ _ _ _ h]
  clear_value s1
  exact LikePort.trans (.of_ports q rfl) k

theorem likePort_trySend (s : State) (n q : Nat) : LikePort (trySend s n) s q := by
  unfold trySend
  split
  · exact .refl _ _
  next o _ =>
  split
  · exact .refl _ _
  split
  · split
    · exact .of_ports q rfl
    · exact .refl _ _
  next p _ =>
  have k := likePort_putOn s p q
  split
  · dsimp only
    refine LikePort.trans ?_ (k o.msg)
    generalize putOn s p o.msg = z
    exact .of_ports q rfl
  split
  · exact .refl _ _
  · dsimp only
    refine LikePort.trans ?_ (k o.msg)
    generalize putOn s p o.msg = z
    exact .of_ports q rfl

theorem likePort_foldl {β : Type} (q : Nat) (g : State → β → State) (hg : ∀ t b, LikePort (g t b) t q) : ∀ (l : List β) (t : State), LikePort (l.foldl g t) t q
  | [], _ => .refl _ _
  | b :: l, t => (likePort_foldl q g hg l (g t b)).trans (hg t b)

theorem likePort_pumpOut (s : State) (q : Nat) : LikePort (pumpOut s) s q := by
  unfold pumpOut
  exact likePort_foldl q _ (fun t e => likePort_trySend t _ q) _ s

theorem likePort_rerouteFrom (s : State) (p q : Nat) : LikePort (rerouteFrom s p) s q := by
  unfold rerouteFrom
  exact (likePort_pumpOut _ q).trans (.of_ports q rfl)

theorem likePort_portUp (s : State) (p : Nat) : LikePort (portUp s p) (putPort s p { getPort s p with st := .up, fromUp := false, replays := 0, resends := 0 }) p := by
  unfold portUp
  exact (likePort_pumpOut _ p).trans ((LikePort.of_plauf p ((recap_K _ _).part20 rfl)).trans (.of_ports p rfl))

/-- Sending changes the ports' state alone. -/
theorem sendFlits_only (p : Nat) : ∀ (l : List FlitBody) (s : State), sendFlits s p l = { s with plauf := (sendFlits s p l).plauf }
  | [], _ => rfl
  | [_], _ => rfl
  | a :: b :: r, s => sendFlits_only p r (sendPair s p a b)

theorem trySend_only (s : State) (n : Nat) : trySend s n = { s with plauf := (trySend s n).plauf } := by
  have h (p : Nat) (m : RemMsg) : putOn s p m = { s with plauf := (putOn s p m).plauf } := by
    unfold putOn
    extract_lets x c s1
    have e : s1 = { s with plauf := s1.plauf } := sendFlits_only p _ _
    rw [e]
  unfold trySend
  split
  · rfl
  split
  · rfl
  split
  · split
    · rfl
    · rfl
  split
  · dsimp only; rw [h]
  split
  · rfl
  · dsimp only; rw [h]

theorem portLeave_st (s : State) (p : Nat) (st : PortSt) (hold : Option Nat) (h : (getPort s p).st ≠ .retired) :
    (getPort (portLeave s p st hold) p).st = st ∧ (getPort (portLeave s p st hold) p).trainSince = s.time.now ∧
    (st ≠ .train → (getPort (portLeave s p st hold) p).keyed = false) ∧
    (∀ x ∈ hold, x ∈ (getPort (portLeave s p st hold) p).holds) := by
  unfold portLeave
  dsimp only
  rw [if_neg h]
  generalize hz : putPort s p _ = z
  have key : (getPort z p).st = st ∧ (getPort z p).trainSince = s.time.now ∧ (st ≠ .train → (getPort z p).keyed = false) ∧
      (∀ x ∈ hold, x ∈ (getPort z p).holds) := by
    rw [← hz, getPort_putPort]
    refine ⟨rfl, rfl, ?_, ?_⟩
    · intro hne; simp [hne]
    · intro x hx
      rw [Option.mem_def] at hx
      rw [hx]
      dsimp only
      split
      · next e => exact List.contains_iff_mem.1 e
      · exact List.mem_cons_self
  split
  · have e := (LikePort.of_plauf p ((recap_K (rerouteFrom z p) (0x100 + p)).part20 rfl)).trans (likePort_rerouteFrom z p p)
    rw [e.field (·.st) fun _ => rfl, e.field (·.trainSince) fun _ => rfl, e.field (·.keyed) fun _ => rfl, e.field (·.holds) fun _ => rfl]
    exact key
  · exact key

theorem portLeave_other (s : State) (p q : Nat) (st : PortSt) (hold : Option Nat) (hne : q ≠ p) : LikePort (portLeave s p st hold) s q := by
  unfold portLeave
  dsimp only
  split
  · exact .refl _ _
  generalize hz : putPort s p _ = z
  have key : LikePort z s q := by unfold LikePort; rw [← hz, getPort_putPort_other _ _ _ _ hne]
  split
  · exact ((LikePort.of_plauf q ((recap_K (rerouteFrom z p) (0x100 + p)).part20 rfl)).trans (likePort_rerouteFrom z p q)).trans key
  · exact key

theorem retirePort_st (s : State) (p : Nat) : (getPort (retirePort s p) p).st = .retired := by
  unfold retirePort
  split
  · assumption
  · next h =>
    have e : (advise (emit (portLeave s p .retired none) 4 0xE (portWho p) [])).plauf = (portLeave s p .retired none).plauf :=
      ((advise_K _).part20 rfl).trans ((emit_K _ _ _ _ _).part20 rfl)
    have := (portLeave_st s p .retired none h).1
    unfold getPort at this ⊢
    rw [e]; exact this

theorem emit_getPort (s : State) (c e : Nat) (w : Who) (p : List PField) (q : Nat) : getPort (emit s c e w p) q = getPort s q := by
  unfold getPort; rw [(emit_K s c e w p).part20 rfl]

theorem chargeChannel_getPort (s : State) (ch : Nat) (b : Bool) (q : Nat) : getPort (chargeChannel s ch b).1 q = getPort s q := by
  unfold getPort; rw [(chargeChannel_K s ch b).part20 rfl]

theorem markPermanent_getPort (s : State) (ch : Nat) (q : Nat) : getPort (markPermanent s ch) q = getPort s q := by
  unfold getPort; rw [(markPermanent_K s ch).part20 rfl]

theorem recap_getPort (s : State) (r : Nat) (q : Nat) : getPort (recap s r) q = getPort s q := by
  unfold getPort; rw [(recap_K s r).part20 rfl]

/-- What a sound pair whose headers ask for nothing again leaves of a port that is not UP. -/
theorem takePair_facts (s : State) (p : Nat) (a f : Flit) (body : List Byte)
    (h1 : ((rxKey (getPort s p) (flitPhase a)).bind fun k => openPair k.1 k.2.1 k.2.2 a.bytes f.bytes) = some body)
    (h2 : flitNak a = false) (h3 : flitNak f = false) (h4 : (getPort s p).st ≠ .up) :
    (getPort (takePair s p a f) p).seqExp = ((getPort s p).seqExp + 2) % 4096 ∧ (getPort (takePair s p a f) p).even = none ∧
    (getPort (takePair s p a f) p).nak = false ∧ (getPort (takePair s p a f) p).replays = 0 ∧ (getPort (takePair s p a f) p).ackOut = flitAck f ∧
    (getPort (takePair s p a f) p).rxPairs = (if flitPhase a = (getPort s p).farPhase then (getPort s p).rxPairs + 1 else (getPort s p).rxPairs) ∧
    (getPort (takePair s p a f) p).rx = (getPort s p).rx ++ (if flitType a = 1 then body.take 240 else []) ++ (if flitType f = 1 then body.drop 240 else []) := by
  have th (z : State) (g : Flit) (hg : flitNak g = false) : ∃ x : Port, getPort (takeHeader z p g) p = x ∧ x.seqExp = (getPort z p).seqExp ∧
      x.even = (getPort z p).even ∧ x.nak = (getPort z p).nak ∧ x.replays = (getPort z p).replays ∧ x.ackOut = flitAck g ∧
      x.rxPairs = (getPort z p).rxPairs ∧ x.rx = (getPort z p).rx ∧ x.st = (getPort z p).st := by
    unfold takeHeader
    dsimp only
    rw [if_pos (by simp [hg])]
    refine ⟨_, getPort_putPort _ _ _, ?_⟩
    exact ⟨rfl, rfl, rfl, rfl, rfl, rfl, rfl, rfl⟩
  unfold takePair
  dsimp only
  rw [h1]
  dsimp only
  generalize hz : putPort s p _ = z
  have kz : getPort z p = { getPort s p with
      seqExp := ((getPort s p).seqExp + 2) % 4096, even := none, nak := false, replays := 0
      rxPairs := if decide (flitPhase a = (getPort s p).farPhase) = true then (getPort s p).rxPairs + 1 else (getPort s p).rxPairs
      prevRx := if decide (flitPhase a = (getPort s p).farPhase) = true then (getPort s p).prevRx else (getPort s p).prevRx.map fun k => (k.1, k.2.1, k.2.2 + 1)
      rx := (getPort s p).rx ++ (if flitType a = 1 then body.take 240 else []) ++ (if flitType f = 1 then body.drop 240 else []) } := by
    rw [← hz]; exact getPort_putPort _ _ _
  obtain ⟨x, hx, a1, a2, a3, a4, a5, a6, a7, a8⟩ := th z a h2
  obtain ⟨y, hy, b1, b2, b3, b4, b5, b6, b7, b8⟩ := th (takeHeader z p a) f h3
  generalize takeHeader (takeHeader z p a) p f = w at hy
  have hs : (getPort w p).st = (getPort s p).st := by rw [hy, b8, hx, a8, kz]
  have sv : ∀ n, serveRx n w p = w := by
    intro n
    cases n with
    | zero => rfl
    | succ n =>
      unfold serveRx
      dsimp only
      rw [if_pos]
      right
      rw [hs]; exact h4
  rw [sv, if_neg (show ¬ (getPort w p).st = .up by rw [hs]; exact h4)]
  have fin : ∀ v : State, LikePort v w p → (getPort v p).seqExp = ((getPort s p).seqExp + 2) % 4096 ∧ (getPort v p).even = none ∧
      (getPort v p).nak = false ∧ (getPort v p).replays = 0 ∧ (getPort v p).ackOut = flitAck f ∧
      (getPort v p).rxPairs = (if flitPhase a = (getPort s p).farPhase then (getPort s p).rxPairs + 1 else (getPort s p).rxPairs) ∧
      (getPort v p).rx = (getPort s p).rx ++ (if flitType a = 1 then body.take 240 else []) ++ (if flitType f = 1 then body.drop 240 else []) := by
    intro v k
    rw [k.field (·.seqExp) fun _ => rfl, k.field (·.even) fun _ => rfl, k.field (·.nak) fun _ => rfl, k.field (·.replays) fun _ => rfl,
      k.field (·.ackOut) fun _ => rfl, k.field (·.rxPairs) fun _ => rfl, k.field (·.rx) fun _ => rfl, hy, b1, b2, b3, b4, b5, b6, b7,
      hx, a1, a2, a3, a4, a6, a7, kz]
    simp
  split
  · exact fin _ (likePort_sendIdle w p p)
  · exact fin _ (.refl _ _)

theorem recapEngine_plauf (s : State) (e : Nat) : (recapEngine s e).plauf = s.plauf := by
  unfold recapEngine
  exact foldl_part (·.plauf) _ (fun t b => (recap_K t _).part20 rfl) _ _

theorem portsDown_st (a hold : Nat) (q : Nat) : ∀ (n : Nat) (s : State), (getPort s q).st ≠ .retired → a ≤ q → q < a + n →
    (getPort (portsDown s a n hold) q).st = .down ∧ hold ∈ (getPort (portsDown s a n hold) q).holds
  | 0, s, _, h1, h2 => absurd h2 (by omega)
  | n + 1, s, h, h1, h2 => by
    have e : portsDown s a (n + 1) hold = portLeave (portsDown s a n hold) (a + n) .down (some hold) := by
      unfold portsDown; rw [List.range_succ, List.foldl_append]; rfl
    rw [e]
    by_cases hq : q = a + n
    · have hr : (getPort (portsDown s a n hold) q).st ≠ .retired := by
        unfold portsDown
        have : ∀ (l : List Nat) (t : State), (∀ x ∈ l, x < n) → (getPort (l.foldl (fun t i => portLeave t (a + i) .down (some hold)) t) q).st = (getPort t q).st := by
          intro l
          induction l with
          | nil => intro t _; rfl
          | cons b l ih =>
            intro t hl
            rw [List.foldl_cons, ih _ fun x hx => hl x (List.mem_cons_of_mem _ hx)]
            have := hl b List.mem_cons_self
            exact (portLeave_other t (a + b) q .down (some hold) (by omega)).field (·.st) fun _ => rfl
        rw [this _ _ fun x hx => List.mem_range.1 hx]
        exact h
      subst hq
      obtain ⟨x1, x2, x3, x4⟩ := portLeave_st (portsDown s a n hold) (a + n) .down (some hold) hr
      exact ⟨x1, x4 hold rfl⟩
    · have ec := portLeave_other (portsDown s a n hold) (a + n) q .down (some hold) hq
      rw [ec.field (·.st) fun _ => rfl, ec.field (·.holds) fun _ => rfl]
      exact portsDown_st a hold q n s h h1 (by omega)

theorem portRelease_port (s : State) (p hold : Nat) : (getPort (portRelease s p hold) p).holds = (getPort s p).holds.filter (· != hold) := by
  unfold portRelease; dsimp only; rw [getPort_putPort]

theorem portRelease_other (s : State) (p hold q : Nat) (h : q ≠ p) : getPort (portRelease s p hold) q = getPort s q := by
  unfold portRelease; dsimp only; rw [getPort_putPort_other _ _ _ _ h]

theorem portsBack_holds (a hold : Nat) (q : Nat) : ∀ (n : Nat) (s : State), a ≤ q → q < a + n →
    getPort (portsBack s a n hold) q = getPort (portRelease s q hold) q
  | 0, s, h1, h2 => absurd h2 (by omega)
  | n + 1, s, h1, h2 => by
    have e : portsBack s a (n + 1) hold = portRelease (portsBack s a n hold) (a + n) hold := by
      unfold portsBack; rw [List.range_succ, List.foldl_append]; rfl
    rw [e]
    by_cases hq : q = a + n
    · have : getPort (portsBack s a n hold) q = getPort s q := by
        unfold portsBack
        have : ∀ (l : List Nat) (t : State), (∀ x ∈ l, x < n) → getPort (l.foldl (fun t i => portRelease t (a + i) hold) t) q = getPort t q := by
          intro l
          induction l with
          | nil => intro t _; rfl
          | cons b l ih =>
            intro t hl
            rw [List.foldl_cons, ih _ fun x hx => hl x (List.mem_cons_of_mem _ hx)]
            have := hl b List.mem_cons_self
            exact portRelease_other t _ _ _ (by omega)
        exact this _ _ fun x hx => List.mem_range.1 hx
      subst hq
      unfold portRelease
      dsimp only
      rw [getPort_putPort, getPort_putPort, this]
      unfold portsBack
      have ht : ∀ (l : List Nat) (t : State), (l.foldl (fun t i => portRelease t (a + i) hold) t).time = t.time := by
        intro l
        induction l with
        | nil => intro t; rfl
        | cons b l ih => intro t; rw [List.foldl_cons, ih]; rfl
      rw [ht]
    · rw [portRelease_other _ _ _ _ hq]
      exact portsBack_holds a hold q n s h1 (by omega)

theorem request_only (s : State) (desc p slot ty cls kind loc off op fm inc : Nat) (data : List Byte) (st : Nat) :
    request s desc p slot ty cls kind loc off op fm inc data st = { s with plauf := (request s desc p slot ty cls kind loc off op fm inc data st).plauf } := by
  unfold request
  split
  · rfl
  · split
    · rfl
    · dsimp only
      rw [trySend_only]

theorem getF_request (s : State) (desc p slot ty cls kind loc off op fm inc : Nat) (data : List Byte) (st d : Nat) :
    getF (request s desc p slot ty cls kind loc off op fm inc data st) d = getF s d := by
  rw [request_only]; rfl

theorem getF_hwrite (s : State) (a : Nat) (bs : List Byte) (d : Nat) : getF (hwrite s a bs) d = getF s d := by
  unfold hwrite; split <;> rfl

theorem getF_pwrite (s : State) (a : Nat) (bs : List Byte) (d : Nat) : getF (pwrite s a bs) d = getF s d := by
  unfold pwrite; rfl

theorem getF_vwrite {s v : State} {cx : Cx} {va : Nat} {bs : List Byte} {bad : List Nat} (h : vwrite s cx va bs bad = .ok v) (d : Nat) :
    getF v d = getF s d := by
  unfold vwrite at h
  split at h
  · cases h
  · dsimp only at h
    split at h
    · cases h
    · cases h
      refine foldl_inv (fun t : State => getF t d = getF s d) _ (fun t ud ht => ?_) _ _ ?_
      · split
        · rw [getF_request]; exact ht
        · exact ht
      · exact foldl_inv (fun t : State => getF t d = getF s d) _ (fun t e ht => (getF_pwrite _ _ _ _).trans ht) _ s rfl

theorem moveFields_ok {f : Flight} (h1 : f.fEve = false) (h2 : f.zero 0x29 7 = true) (h3 : f.zeroFrom 0x3C = true) (h4 : f.op 0x38 4 % 64 = 0)
    (h5 : 64 ≤ f.op 0x38 4) (h6 : f.op 0x38 4 ≤ 2 ^ 26) (h7 : f.op 0x20 8 % 64 = 0) (h8 : f.op 0x30 8 % 64 = 0) : moveFields f = true := by
  unfold moveFields
  dsimp only
  rw [h1, h2, h3, h4, h7, h8, decide_eq_true ⟨h5, h6⟩]
  rfl

theorem outOfSeq_ok {f : Flight} (h : f.op 0x20 8 + f.op 0x38 4 ≤ 2 ^ 47 ∨ 2 ^ 48 ≤ f.op 0x20 8) : outOfSeq f = .ok () := by
  unfold outOfSeq
  rw [if_neg (by omega)]

theorem importWith_ok {s : State} {p slot right : Nat} {im : Import} (h1 : importOf s p slot = some im) (h2 : im.bound = true)
    (h3 : bit im.rights right = true) (h4 : (pairingOf s p im.handle).isSome = true) : importWith s p slot right = .ok im := by
  unfold importWith importAllows
  rw [h1]
  simp only [h2, h3, h4, Bool.and_self, if_true]

theorem sealStart_ok {s : State} {d : Nat} {f : Flight} {use : Nat} {b : List Byte} {r : SealRec} {k : KeySlot} (h1 : f.fEve = false)
    (h2 : f.zeroFrom 0x28 = true) (h3 : recordIn s (cxOf s f d) (f.op 0x20 8) 64 64 = .ok b) (h4 : parseSeal b = some r)
    (h5 : r.local_ + 8192 * r.cells ≤ 0x7F0000000000) (h6 : keySlot s f.part r.slot = some k) (h7 : isSealed s f.part = true)
    (h8 : bit k.use use = true) : sealStart s d f use = .ok (r, k) := by
  unfold sealStart sealRange
  simp only [h1, h2, h3, h4, h6, h7, h8, needs, if_pos h5, Bool.not_false, Bool.and_self, if_true, bind, Except.bind]

/-- Bytes that are mapped in local memory, not held and not poison read, none of them poison. -/
theorem vreadP_clean (s : State) (cx : Cx) (va n : Nat)
    (h : ∀ i < n, ∃ pa w, xlate s cx.part (va + i) = .ok (.loc pa w) ∧ heldAt s cx.part pa = false ∧ poisoned s pa = false) :
    ∃ bs, vreadP s cx va n = .ok bs ∧ bs.any Prod.snd = false := by
  have step : ∀ i < n, ∃ b : Byte, vbyte s cx (va + i) = .ok b := by
    intro i hi
    obtain ⟨pa, w, hx, hh, hp⟩ := h i hi
    unfold vbyte
    rw [hx]
    dsimp only
    rw [if_neg (by simp [hh]), if_neg (by simp [hp])]
    exact ⟨_, rfl⟩
  have key : ∀ l : List Nat, (∀ i ∈ l, i < n) → ∃ bs, seqE (l.map fun i => match vbyte s cx (va + i) with
      | .error .poison => .ok ((0 : Byte), true)
      | .error e => .error e
      | .ok b => .ok (b, false)) = .ok bs ∧ bs.any Prod.snd = false := by
    intro l
    induction l with
    | nil => intro _; exact ⟨[], rfl, rfl⟩
    | cons i l ih =>
      intro hl
      obtain ⟨b, hb⟩ := step i (hl i List.mem_cons_self)
      obtain ⟨bs, e1, e2⟩ := ih fun x hx => hl x (List.mem_cons_of_mem _ hx)
      refine ⟨(b, false) :: bs, ?_, ?_⟩
      · rw [List.map_cons, hb]
        dsimp only
        unfold seqE
        rw [e1]
      · rw [List.any_cons, e2]; rfl
  exact key (List.range n) fun i hi => List.mem_range.1 hi

theorem sendFlits_sent (p : Nat) : ∀ (l : List FlitBody) (s : State), (sendFlits s p l).plauf.sent = s.plauf.sent
  | [], _ => rfl
  | [_], _ => rfl
  | a :: b :: r, s => (sendFlits_sent p r (sendPair s p a b)).trans rfl

/-- A message put on a port is the last one sent. -/
theorem putOn_sent (s : State) (p : Nat) (m : RemMsg) : (putOn s p m).plauf.sent = s.plauf.sent ++ [(p, m)] := by
  unfold putOn
  dsimp only
  rw [sendFlits_sent]
  rfl

theorem settleFences_fab (s : State) (st : Nat) : ∃ b, (settleFences s st).fab = { s.fab with severed := b } := by
  have hk : ∀ (l : List Nat) (x : State), (l.foldl (fencePart st) x).fab = x.fab := foldl_part (·.fab) _ (fun t p => (fencePart_K st t p).part18 rfl)
  unfold settleFences
  extract_lets sev _ s0 s1 s2
  have e1 : s1.fab = s0.fab := by
    show (if _ then _ else _ : State).fab = _
    split
    · exact (emit_K _ _ _ _ _).part18 rfl
    · split
      · exact (emit_K _ _ _ _ _).part18 rfl
      · rfl
  refine ⟨sev, ?_⟩
  split
  · exact ((stopWhere_K _ _ _).part18 rfl).trans ((hk _ _).trans e1)
  · exact (hk _ _).trans e1

theorem bundleChange_bundle (s : State) (b d ev lane k : Nat) : getBundle (bundleChange s b d ev lane) k = getBundle s k := by
  unfold bundleChange
  dsimp only
  obtain ⟨x, hx⟩ := settleFences_fab (recap (emit s 4 ev { unit := lane } ([(2, b), (1, d)] ++ ((sortNat (getBundle s (2 * b + d)).failed).take 14).map fun x => (2, x))) (0x10 + d)) stOffline
  unfold getBundle at *
  rw [(advise_K _).part18 rfl, hx, (recap_K _ _).part18 rfl, (emit_K _ _ _ _ _).part18 rfl]

theorem chargeLanes_bundle (s : State) (b d : Nat) (l m : List Nat) (k : Nat) : getBundle (chargeLanes s b d l m) k = getBundle s k := by
  unfold getBundle; rw [(chargeLanes_K s b d l m).part18 rfl]

theorem endDieReset_fab (s : State) (die st : Nat) : (endDieReset s die st).fab.dieReset = s.fab.dieReset ∧ (endDieReset s die st).fab.dieLost = s.fab.dieLost := by
  unfold endDieReset
  split
  · rw [(endF_K _ _ _ _).part18 rfl]; exact ⟨rfl, rfl⟩
  · exact ⟨rfl, rfl⟩

theorem startDieReset_fab (s : State) (die : Nat) (h : s.fab.dieReset.contains die = false) :
    (startDieReset s die).fab.dieReset = s.fab.dieReset ++ [die] ∧ (startDieReset s die).fab.dieLost = s.fab.dieLost := by
  unfold startDieReset
  rw [if_neg (by rw [h]; simp)]
  dsimp only
  generalize hz : emit _ 4 7 _ [] = z
  have e : z.fab = { s.fab with dieReset := s.fab.dieReset ++ [die] } := by rw [← hz]; exact (emit_K _ _ _ _ _).part18 rfl
  split
  · obtain ⟨x, hx⟩ := settleFences_fab (portsDown (dropBaseB (stopTower z 1 stAborted)) 16 16 8) stAborted
    rw [hx, (portsDown_K _ _ _ _).part18 rfl]
    have : (dropBaseB (stopTower z 1 stAborted)).fab = z.fab := by
      show (stopTower z 1 stAborted).fab = _
      exact (stopTower_K _ _ _).part18 rfl
    rw [this, e]
    exact ⟨rfl, rfl⟩
  · rw [(stopTower_K _ _ _).part18 rfl, e]
    exact ⟨rfl, rfl⟩

theorem tfind_filter_keep {α : Type} (p : Nat × α → Bool) : ∀ (t : Tbl α) (k : Nat) (v : α), tfind t k = some v → p (k, v) = true → tfind (t.filter p) k = some v
  | (a, b) :: r, k, v, h, hp => by
    unfold tfind at h
    split at h
    · next e =>
      cases h; subst e
      rw [List.filter_cons, if_pos hp]
      unfold tfind; rw [if_pos rfl]
    · next e =>
      rw [List.filter_cons]
      split
      · unfold tfind; rw [if_neg e]; exact tfind_filter_keep p r k v h hp
      · exact tfind_filter_keep p r k v h hp

theorem notifyWatches_eq (s : State) (p c : Nat) (h : s.cuff.part = some p) : notifyWatches s p c =
    { s with cuff := { s.cuff with
      replies := s.cuff.replies ++ (s.cuff.watches.filter fun w => ((tfind s.cuff.slots w.1).map (·.counter)) == some c && decide (w.2 ≤ ctrOf s p c)).map fun w => CuffReply.notify w.1 (ctrOf s p c)
      watches := s.cuff.watches.filter fun w => !(s.cuff.watches.filter fun w => ((tfind s.cuff.slots w.1).map (·.counter)) == some c && decide (w.2 ≤ ctrOf s p c)).any fun m => m.1 == w.1 } } := by
  unfold notifyWatches
  rw [if_neg (by rw [h]; simp)]

theorem rising_lt : ∀ (l : List Nat) (a : Nat), rising (a :: l) = true → ∀ b ∈ l, a < b
  | c :: r, a, h, b, hb => by
    unfold rising at h
    rw [Bool.and_eq_true, decide_eq_true_eq] at h
    rcases List.mem_cons.1 hb with rfl | hb
    · exact h.1
    · exact Nat.lt_trans h.1 (rising_lt r c h.2 b hb)

theorem rising_find {α : Type} : ∀ (t : Tbl α) (e : Nat × α), rising (tkeys t) = true → e ∈ t → tfind t e.1 = some e.2
  | (k, v) :: r, e, h, he => by
    unfold tfind
    rcases List.mem_cons.1 he with rfl | he
    · rw [if_pos rfl]
    · have hlt := rising_lt (tkeys r) k h e.1 (List.mem_map_of_mem he)
      rw [if_neg (by omega)]
      exact rising_find r e ((rising_cons k (tkeys r)).1 h).2 he

/-- Two states with the same readings in force. -/
def Reads (t s : State) : Prop := t.th.p = s.th.p ∧ t.th.a.r = s.th.a.r ∧ t.th.b.r = s.th.b.r

theorem Reads.of_th {t s : State} (h : t.th = s.th) : Reads t s := by unfold Reads; rw [h]; exact ⟨rfl, rfl, rfl⟩

theorem Reads.trans {a b c : State} (h1 : Reads a b) (h2 : Reads b c) : Reads a c := ⟨h1.1.trans h2.1, h1.2.1.trans h2.2.1, h1.2.2.trans h2.2.2⟩

theorem stopThermalCal_th (s : State) : (stopThermalCal s).th = s.th := (stopThermalCal_K s).part13 rfl

theorem leftL0_th (o s : State) : (leftL0 o s).th = s.th := by
  unfold leftL0; dsimp only; split
  · exact stopThermalCal_th s
  · rfl

theorem emit_th' (s : State) (c e : Nat) (w : Who) (p : List PField) : (emit s c e w p).th = s.th := (emit_K s c e w p).part13 rfl

theorem reads_declareLoss (s : State) : Reads (declareLoss s) s := by
  unfold declareLoss
  dsimp only
  generalize hz : thermalTrigger _ 0xFF = z
  have e : z.th = { s.th with coolantLoss := true, lossAt := s.time.now } := by
    rw [← hz, (thermalTrigger_K _ _).part13 rfl, emit_th']
  unfold Reads
  rw [stopThermalCal_th, e]
  exact ⟨rfl, rfl, rfl⟩

theorem reads_judgeCoolant (s : State) : Reads (judgeCoolant s) s := by
  unfold judgeCoolant
  extract_lets now dp low fell rose flat ok okSince long z0 z
  have e : Reads z s := ⟨rfl, rfl, rfl⟩
  clear_value z fell rose long
  split
  · split
    · exact (reads_declareLoss z).trans e
    · exact e
  · split
    · refine Reads.trans (Reads.of_th ((blowDue_K _).part13 rfl)) ?_
      refine Reads.trans (Reads.of_th (emit_th' _ _ _ _ _)) ?_
      exact Reads.trans ⟨rfl, rfl, rfl⟩ e
    · exact e

theorem reads_judgeInlet (s : State) : Reads (judgeInlet s) s := by
  unfold judgeInlet
  dsimp only
  split
  · exact .of_th rfl
  generalize hz : (if s.th.p.inlet < 12 * 64 ∧ (!s.th.condensation) = true then _ else _ : State) = z
  have e : Reads z s := by
    rw [← hz]
    split
    · exact Reads.trans (.of_th (emit_th' _ _ _ _ _)) ⟨rfl, rfl, rfl⟩
    · split
      · exact ⟨rfl, rfl, rfl⟩
      · exact .of_th rfl
  split
  · split
    · exact Reads.trans ⟨rfl, rfl, rfl⟩ e
    · exact Reads.trans (.of_th (emit_th' _ _ _ _ _)) (Reads.trans ⟨rfl, rfl, rfl⟩ e)
  · split
    · exact Reads.trans ⟨rfl, rfl, rfl⟩ e
    · split
      · exact Reads.trans ⟨rfl, rfl, rfl⟩ e
      · exact e
    · exact e

theorem reads_endNet (s : State) : Reads (endNet s) s := by
  unfold endNet
  split
  · dsimp only
    refine Reads.trans (.of_th ((startPhase_K _ _).part13 rfl)) ?_
    split
    · exact .of_th rfl
    · exact Reads.trans (.of_th (emit_th' _ _ _ _ _)) ⟨rfl, rfl, rfl⟩
  · exact .of_th rfl

theorem reads_foldl {β : Type} (g : State → β → State) (hg : ∀ t b, Reads (g t b) t) : ∀ (l : List β) (t : State), Reads (l.foldl g t) t
  | [], _ => .of_th rfl
  | b :: l, t => (reads_foldl g hg l (g t b)).trans (hg t b)

theorem getTower_putTower (s : State) (t : Nat) (x : Tower) : getTower (putTower s t x) t = x := by
  unfold getTower putTower; split <;> rfl

theorem getTower_putTower_other (s : State) (t u : Nat) (x : Tower) (h1 : t < 2) (h2 : u < 2) (h : u ≠ t) : getTower (putTower s t x) u = getTower s u := by
  unfold getTower putTower
  by_cases ht : t = 0
  · rw [if_pos ht, if_neg (by omega), if_neg (by omega)]
  · rw [if_neg ht, if_pos (by omega), if_pos (by omega)]

theorem getTower_of_th {t s : State} (h : t.th = s.th) (n : Nat) : getTower t n = getTower s n := by unfold getTower; rw [h]

theorem emit_tower (s : State) (c e : Nat) (w : Who) (p : List PField) (n : Nat) : getTower (emit s c e w p) n = getTower s n := getTower_of_th (emit_th' _ _ _ _ _) n

def thetaUp (t : Nat) (u : State) (n lvl : Nat) : State :=
  if 3 ≤ n ∧ (getTower u t).thetaLevel < lvl then
    stopThermalCal (emit (putTower u t { getTower u t with thetaLevel := lvl }) 1 5 { die := t } [(1, lvl)])
  else u

def thetaEnd (t n : Nat) (u : State) : State :=
  if 3 ≤ n ∧ 0 < (getTower u t).thetaLevel then
    emit (putTower u t { getTower u t with thetaLevel := 0 }) 1 6 { die := t } []
  else u

def SameCap (a b : Tower) : Prop := a.cap = b.cap ∧ a.samples = b.samples ∧ a.theta = b.theta

theorem judgeTheta_form (s : State) (t : Nat) (th : Frac × Frac) : ∃ (y : Tower) (n1 n2 n3 : Nat), SameCap y (getTower s t) ∧
    judgeTheta s t th = thetaEnd t n3 (thetaUp t (thetaUp t (putTower s t y) n1 15) n2 30) := by
  unfold judgeTheta
  dsimp only
  refine ⟨_, _, _, _, ?_, rfl⟩
  exact ⟨rfl, rfl, rfl⟩

theorem thetaUp_cap (t : Nat) (u : State) (n lvl : Nat) : SameCap (getTower (thetaUp t u n lvl) t) (getTower u t) := by
  unfold thetaUp
  split
  · rw [getTower_of_th (stopThermalCal_th _), emit_tower, getTower_putTower]; exact ⟨rfl, rfl, rfl⟩
  · exact ⟨rfl, rfl, rfl⟩

theorem thetaEnd_cap (t n : Nat) (u : State) : SameCap (getTower (thetaEnd t n u) t) (getTower u t) := by
  unfold thetaEnd
  split
  · rw [emit_tower, getTower_putTower]; exact ⟨rfl, rfl, rfl⟩
  · exact ⟨rfl, rfl, rfl⟩

theorem SameCap.trans {a b c : Tower} (h1 : SameCap a b) (h2 : SameCap b c) : SameCap a c := ⟨h1.1.trans h2.1, h1.2.1.trans h2.2.1, h1.2.2.trans h2.2.2⟩

theorem judgeTheta_cap (s : State) (t : Nat) (th : Frac × Frac) : SameCap (getTower (judgeTheta s t th) t) (getTower s t) := by
  obtain ⟨y, n1, n2, n3, h, e⟩ := judgeTheta_form s t th
  rw [e]
  refine (thetaEnd_cap _ _ _).trans ((thetaUp_cap _ _ _ _).trans ((thetaUp_cap _ _ _ _).trans ?_))
  rw [getTower_putTower]; exact h

theorem judgeUnreach_cap (s : State) (t k : Nat) (b : Bool) : SameCap (getTower (judgeUnreach s t k b) t) (getTower s t) := by
  unfold judgeUnreach
  dsimp only
  split <;> split
  · rw [emit_tower, getTower_putTower]; exact ⟨rfl, rfl, rfl⟩
  · exact ⟨rfl, rfl, rfl⟩
  · rw [emit_tower, getTower_putTower]; exact ⟨rfl, rfl, rfl⟩
  · exact ⟨rfl, rfl, rfl⟩

theorem capCompute_form (s : State) (tower : Nat) (h : ¬ (2 ≤ tower ∨ s.pwr.pkg = .off)) : ∃ (x : State) (b1 b2 : Bool) (th : Option (Frac × Frac)) (y : Tower),
    thermalCapCompute tower s = judgeUnreach (judgeUnreach x tower 0 b1) tower 1 b2 ∧ SameCap (getTower x tower) y ∧
    y.cap = some (capOf (th.getD (baseTheta s tower)) (inletNow s)) ∧ y.samples = 0 ∧ y.theta = th ∧
    th = (if decide (0 < (getTower s tower).samples ∧ 300 * (getTower s tower).samples ≤ (getTower s tower).sumPower) = true then
      some ({ num := (getTower s tower).sumLogic - (getTower s tower).sumInlet, den := (getTower s tower).sumPower }, { num := (getTower s tower).sumF - (getTower s tower).sumInlet, den := (getTower s tower).sumPower })
      else (getTower s tower).theta) := by
  unfold thermalCapCompute
  rw [if_neg h]
  dsimp only
  refine ⟨_, _, _, _, { getTower s tower with
      theta := _, cap := some (capOf (Option.getD _ (baseTheta s tower)) (inletNow s))
      sumLogic := 0, sumF := 0, sumPower := 0, sumInlet := 0, samples := 0 }, rfl, ?_, rfl, rfl, rfl, rfl⟩
  split
  · refine (judgeTheta_cap _ _ _).trans ?_
    rw [getTower_putTower]; exact ⟨rfl, rfl, rfl⟩
  · rw [getTower_putTower]; exact ⟨rfl, rfl, rfl⟩

theorem imonTower_current (s : State) (t mv : Nat) : (getTower (imonTower s t mv) t).current = mv ∧ ∀ u, t < 2 → u < 2 → u ≠ t → getTower (imonTower s t mv) u = getTower s u := by
  unfold imonTower
  dsimp only
  generalize hy : putTower s t _ = y
  have ey : (getTower y t).current = mv := by rw [← hy, getTower_putTower]
  have eo : ∀ u, t < 2 → u < 2 → u ≠ t → getTower y u = getTower s u := fun u h1 h2 h3 => by rw [← hy, getTower_putTower_other _ _ _ _ h1 h2 h3]
  split
  · split
    · have e := (enterTrip_K y 5).part13 rfl
      exact ⟨by rw [getTower_of_th e]; exact ey, fun u h1 h2 h3 => by rw [getTower_of_th e]; exact eo u h1 h2 h3⟩
    · exact ⟨ey, eo⟩
  · exact ⟨ey, eo⟩

theorem keepSince_find (now : Nat) (old : Tbl Nat) (i : Nat) : ∀ (l : List Nat) (t : Tbl Nat), (i ∈ l ∨ tfind t i = some ((tfind old i).getD now)) →
    tfind (l.foldl (fun t i => tput t i ((tfind old i).getD now)) t) i = some ((tfind old i).getD now)
  | [], t, h => by
    rcases h with h | h
    · cases h
    · exact h
  | j :: l, t, h => by
    rw [List.foldl_cons]
    apply keepSince_find now old i l
    by_cases hj : i = j
    · right; subst hj; exact tfind_tput_same _ _ _
    · rcases h with h | h
      · rcases List.mem_cons.1 h with h | h
        · exact absurd h hj
        · exact .inl h
      · right; rw [tfind_tput_other _ _ _ _ hj]; exact h

theorem checkTower_masks (s : State) (t i u : Nat) (dis agr : List Nat) (h1 : i ∈ dis) (h2 : (getTower s t).masked.contains i = false)
    (h3 : tfind (getTower s t).disagree i = some u) (h4 : u + 1000000000 ≤ s.time.now) (h5 : hubAccepts s t i = true) :
    i ∈ (getTower (checkTower s t dis agr) t).masked := by
  unfold checkTower
  dsimp only
  have hk : tfind (keepSince s.time.now (getTower s t).disagree (dis.filter fun i => !(getTower s t).masked.contains i)) i = some u := by
    unfold keepSince
    rw [keepSince_find _ _ i _ _ (.inl (List.mem_filter.2 ⟨h1, by rw [h2]; rfl⟩)), h3]; rfl
  generalize keepSince s.time.now (getTower s t).disagree _ = d at hk ⊢
  generalize hmask : (d.filter fun e => decide (e.2 + 1000000000 ≤ s.time.now) && hubAccepts s t e.1).map Prod.fst = mask
  have hm : i ∈ mask := by
    rw [← hmask]
    exact List.mem_map_of_mem (f := Prod.fst) (List.mem_filter.2 ⟨tfind_mem hk, by rw [h5, Bool.and_true]; exact decide_eq_true h4⟩)
  generalize hy : putTower s t _ = y
  have ey : i ∈ (getTower y t).masked := by rw [← hy, getTower_putTower]; exact List.mem_append_right _ hm
  have e : ∀ (l m : List Nat), (m.foldl (fun u i => emit u 1 0xB { die := t, unit := i } []) (l.foldl (fun u i => emit u 1 0xA { die := t, unit := i } []) y)).th = y.th :=
    fun l m => (foldl_part (·.th) _ (fun _ _ => emit_th' _ _ _ _ _) _ _).trans (foldl_part (·.th) _ (fun _ _ => emit_th' _ _ _ _ _) _ _)
  split
  · rw [getTower_of_th (e _ _)]; exact ey
  · rw [getTower_of_th ((stopThermalCal_th _).trans (e _ _))]; exact ey

theorem checkTower_other (s : State) (t n : Nat) (dis agr : List Nat) (h1 : t < 2) (h2 : n < 2) (h : n ≠ t) : getTower (checkTower s t dis agr) n = getTower s n := by
  unfold checkTower
  dsimp only
  generalize hmask : List.map Prod.fst (List.filter (fun e => decide (e.2 + 1000000000 ≤ s.time.now) && hubAccepts s t e.1) _) = mask
  generalize hun : List.map Prod.fst (List.filter (fun e => decide (e.2 + 60000000000 ≤ s.time.now)) _) = un
  generalize hy : putTower s t _ = y
  have ey : getTower y n = getTower s n := by rw [← hy, getTower_putTower_other _ _ _ _ h1 h2 h]
  have e : ∀ (l m : List Nat), (m.foldl (fun u i => emit u 1 0xB { die := t, unit := i } []) (l.foldl (fun u i => emit u 1 0xA { die := t, unit := i } []) y)).th = y.th :=
    fun l m => (foldl_part (·.th) _ (fun _ _ => emit_th' _ _ _ _ _) _ _).trans (foldl_part (·.th) _ (fun _ _ => emit_th' _ _ _ _ _) _ _)
  split
  · rw [getTower_of_th (e _ _)]; exact ey
  · rw [getTower_of_th ((stopThermalCal_th _).trans (e _ _))]; exact ey

theorem hubAccepts_congr {s u : State} {t i : Nat} (h1 : getTower u t = getTower s t) (h2 : u.mgmt.records = s.mgmt.records) :
    hubAccepts u t i = hubAccepts s t i := by
  have hr (r o n : Nat) : recField u r o n = recField s r o n := by unfold recField getRec; rw [h2]
  have ho (n : Nat) : nodeOffset u t n = nodeOffset s t n := by unfold nodeOffset; rw [h1, hr]
  have hm (n : NodeValue) : modelAt u t n = modelAt s t n := by unfold modelAt; rw [ho]
  have ht (k : Nat) (x : Int) : trimmed u t k x = trimmed s t k x := by unfold trimmed; rw [hr]
  have hs (n : NodeValue) (e : Nat × Option Int) : sensorAt u t n e = sensorAt s t n e := by unfold sensorAt; rw [h1]; simp only [hm, ht]
  unfold hubAccepts
  rw [h1]
  simp only [hm, hs]

theorem checkTower_time (s : State) (t : Nat) (dis agr : List Nat) : (checkTower s t dis agr).time = s.time := (checkTower_K s t dis agr).part10 rfl

theorem ite_none {c : Prop} [Decidable c] {α : Type} {x : Option α} (h : c → x = none) : (if c then x else none) = none := by
  split
  · next hc => exact h hc
  · rfl

theorem startPhase_mgmt (s : State) (p : Phase) : (startPhase s p).mgmt = { s.mgmt with phase := p, phaseStart := s.time.now, waitNet := false, netDone := false } := by
  unfold startPhase; dsimp only; rw [emit_mgmt]

theorem startPhase_pwr (s : State) (p : Phase) : (startPhase s p).pwr = s.pwr := (startPhase_K s p).part12 rfl

theorem startMgmt_mgmt (s : State) : (startMgmt s).mgmt = { s.mgmt with phase := .bootMgmt, phaseStart := s.time.now, waitNet := false, netDone := false } := by
  unfold startMgmt; rw [emit_mgmt, startPhase_mgmt]

theorem startMgmt_pwr (s : State) : (startMgmt s).pwr = s.pwr := (startMgmt_K s).part12 rfl

theorem mem_enable (s : State) (l : List Nat) (g : Nat) (h : g ∈ l ∨ g ∈ s.pwr.enabled) : g ∈ (enable s l).pwr.enabled := by
  unfold enable
  dsimp only
  rw [List.mem_append]
  by_cases hg : g ∈ s.pwr.enabled
  · exact .inl hg
  · right
    rw [List.mem_filter]
    exact ⟨h.resolve_right hg, by simpa using hg⟩

theorem startNet_enabled (s : State) (g : Nat) (h : g ∈ s.pwr.enabled) : g ∈ (startNet s).pwr.enabled := by
  unfold startNet
  split
  · dsimp only
    apply mem_enable
    right
    rw [startPhase_pwr]
    exact h
  · exact h

theorem startNet_good (s : State) : (startNet s).pwr.good = s.pwr.good := by
  unfold startNet
  split
  · dsimp only
    unfold enable
    dsimp only
    rw [startPhase_pwr]
  · rfl

theorem releaseInput_pwr (s : State) (i : Nat) : (releaseInput s i).pwr = { s.pwr with heldInputs := s.pwr.heldInputs.filter (· != i) } := by
  unfold releaseInput
  split
  · next h =>
    have : s.pwr.heldInputs.filter (· != i) = s.pwr.heldInputs := by
      rw [List.filter_eq_self]
      intro a ha
      have hb : i ∉ s.pwr.heldInputs := by simpa using h
      have : a ≠ i := fun e => hb (e ▸ ha)
      simpa using this
    rw [this]
  · dsimp only
    split
    · rw [startMgmt_pwr]
    · rfl

theorem portsBack_mgmt (s : State) (a n h : Nat) : (portsBack s a n h).mgmt = s.mgmt := by
  unfold portsBack
  exact foldl_part (·.mgmt) (fun t i => portRelease t (a + i) h) (fun _ _ => rfl) _ _

theorem portsBack_pwr (s : State) (a n h : Nat) : (portsBack s a n h).pwr = s.pwr := (portsBack_K s a n h).part12 rfl

theorem endNet_done (z : State) (e : z.mgmt.netDone = true) : (endNet z).mgmt.netDone = true ∨ (endNet z).mgmt.phase = .bootMem := by
  unfold endNet
  split
  · right
    dsimp only
    rw [startPhase_mgmt]
  · exact .inl e

theorem advise_mgmt (s : State) : (advise s).mgmt = s.mgmt := by
  unfold advise
  dsimp only
  generalize (adviceNow s).filter _ = l
  induction l generalizing s with
  | nil => rfl
  | cons a l ih => rw [List.foldl_cons, ih, emit_mgmt]

theorem blowFuse_phase (s : State) (ty : Nat) : (blowFuse s ty).mgmt.phase = s.mgmt.phase := by
  unfold blowFuse
  dsimp only
  split
  · rfl
  · split <;> rfl

theorem packageReset_facts (s : State) (c : Nat) :
    (packageReset s c).parts = [] ∧ (packageReset s c).kv = {} ∧ (packageReset s c).sync = {} ∧ (packageReset s c).gnt.policy = s.gnt.policy ∧
    (packageReset s c).gnt.keys = [] ∧ (packageReset s c).mgmt.resetCause = c ∧ (packageReset s c).mgmt.cold = false ∧ (packageReset s c).time.now = s.time.now ∧
    (packageReset s c).pwr.enabled = s.pwr.enabled ∧ (packageReset s c).pwr.good = s.pwr.good ∧
    (pkgHeld s = false → (packageReset s c).mgmt.phase = .bootMgmt) := by
  have hl : Logs (appendHeld s) s := by
    unfold appendHeld
    exact foldl_inv (fun t : State => Logs t s) _ (fun t r ht => (logs_appendRec t r).trans ht) _ _ (by unfold Logs; rfl)
  unfold packageReset
  dsimp only
  generalize appendHeld s = u at hl ⊢
  have hg : u.gnt = s.gnt := by rw [hl]
  have ht : u.time = s.time := by rw [hl]
  have hp : u.pwr = s.pwr := by rw [hl]
  rw [← hg, ← ht, ← hp, show pkgHeld s = pkgHeld u from by unfold pkgHeld; rw [hp]]
  clear hg ht hp hl
  generalize hz : writeLife _ = z
  have e1 : z.parts = [] := by rw [← hz, (writeLife_K _).part19 rfl]; rfl
  have e2 : z.kv = {} := by rw [← hz, (writeLife_K _).part3 rfl]; rfl
  have e3 : z.sync = {} := by rw [← hz, (writeLife_K _).part4 rfl]; rfl
  have e4 : z.gnt.policy = u.gnt.policy := by rw [← hz, (writeLife_K _).part6 rfl]; rfl
  have e5 : z.gnt.keys = [] := by rw [← hz, (writeLife_K _).part7 rfl]; rfl
  have e6 : z.mgmt.resetCause = c ∧ z.mgmt.cold = false := by rw [← hz]; exact ⟨rfl, rfl⟩
  have e7 : z.time.now = u.time.now := by rw [← hz, (writeLife_K _).part10 rfl]
  have e8 : z.pwr = { enabled := u.pwr.enabled, good := u.pwr.good, heldInputs := u.pwr.heldInputs.filter (· < 13), tripWas := if u.pwr.tripCauses.isEmpty then u.pwr.tripWas else u.pwr.tripCauses } := by rw [← hz, (writeLife_K _).part12 rfl]
  have e9 : pkgHeld u = false → pkgHeld z = false := by
    unfold pkgHeld
    rw [e8]
    dsimp only
    intro h
    rw [List.any_eq_false] at h ⊢
    intro i hi
    exact h i (List.mem_filter.1 hi).1
  split
  · next h =>
    rw [e1, e2, e3, e4, e5, e6.1, e6.2, e7, e8]
    exact ⟨rfl, rfl, rfl, rfl, rfl, rfl, rfl, rfl, rfl, rfl, fun x => absurd h (by rw [e9 x]; simp)⟩
  · have k := startMgmt_K z
    rw [k.part19 rfl, k.part3 rfl, k.part4 rfl, k.part6 rfl, k.part7 rfl, k.part10 rfl, k.part12 rfl, startMgmt_mgmt, e1, e2, e3, e4, e5, e7, e8]
    exact ⟨rfl, rfl, rfl, rfl, rfl, e6.1, e6.2, rfl, rfl, rfl, fun _ => rfl⟩

theorem holdInput_pwr (s : State) (i : Nat) : (holdInput s i).pwr.enabled = s.pwr.enabled ∧ (holdInput s i).pwr.good = s.pwr.good ∧ i ∈ (holdInput s i).pwr.heldInputs ∧ (holdInput s i).gnt = s.gnt ∧ (holdInput s i).time = s.time := by
  unfold holdInput
  split
  · next h => exact ⟨rfl, rfl, List.contains_iff_mem.1 h, rfl, rfl⟩
  · exact ⟨rfl, rfl, List.mem_append_right _ List.mem_cons_self, rfl, rfl⟩

theorem ringWrite_log (s : State) (r : LogRec) : ∃ w e, (ringWrite s r).log = { s.log with written := w, writeErr := e } := by
  unfold ringWrite
  split
  · exact ⟨_, _, rfl⟩
  · split
    · exact ⟨_, _, rfl⟩
    · dsimp only
      split
      · exact ⟨_, _, rfl⟩
      · refine ⟨r.seq, s.log.writeErr, ?_⟩
        unfold hwrite
        split <;> rfl

theorem ringDrain_log (s : State) : ∃ w e, (ringDrain s).log = { s.log with written := w, writeErr := e } := by
  unfold ringDrain
  generalize s.log.ring = l
  induction l generalizing s with
  | nil => exact ⟨_, _, rfl⟩
  | cons r l ih =>
    rw [List.foldl_cons]
    obtain ⟨w, e, h⟩ := ih (ringWrite s r)
    obtain ⟨w2, e2, h2⟩ := ringWrite_log s r
    exact ⟨w, e, by rw [h, h2]⟩

theorem ringWrite_fns (s : State) (r : LogRec) : (ringWrite s r).qe = s.qe := by
  unfold ringWrite
  split
  · rfl
  · split
    · rfl
    · dsimp only
      split
      · rfl
      · unfold hwrite; split <;> rfl

theorem ringDrain_qe (s : State) : (ringDrain s).qe = s.qe := by
  unfold ringDrain
  exact foldl_part (·.qe) _ (fun t r => ringWrite_fns t r) _ _

theorem missBits (x y : Nat) (c : Nat) (hc : c < 8) :
    bit (((List.range 8).filter fun c => bit x c && !bit y c).foldl (fun n c => n + 2 ^ c) 0) c = (bit x c && !bit y c) := by
  have key : ∀ b : Fin 8 → Bool, ∀ c : Fin 8, bit (((List.range 8).filter fun i => if h : i < 8 then b ⟨i, h⟩ else false).foldl (fun n c => n + 2 ^ c) 0) c.val = b c := by decide +kernel
  have := key (fun i => bit x i.val && !bit y i.val) ⟨c, hc⟩
  rw [← this]
  have e := List.filter_congr (l := List.range 8) (p := fun c => bit x c && !bit y c)
    (q := fun i => if h : i < 8 then (fun i : Fin 8 => bit x i.val && !bit y i.val) ⟨i, h⟩ else false)
    (fun i hi => by rw [dif_pos (List.mem_range.1 hi)])
  rw [e]

theorem noteBehind_facts (s : State) (l : Nat) :
    (noteBehind s l).bw = s.bw ∧ (noteBehind s l).time = s.time ∧ (noteBehind s l).mem.bytes = s.mem.bytes := by
  unfold noteBehind
  split <;> exact ⟨rfl, rfl, rfl⟩

theorem allocate_facts (s : State) (t p b v d : Nat) (k : Bool) :
    (allocate s t p b v d k).bw = s.bw ∧ (allocate s t p b v d k).time = s.time ∧ (allocate s t p b v d k).mem.bytes = s.mem.bytes := by
  unfold allocate
  dsimp only
  split
  · exact ⟨rfl, rfl, rfl⟩
  · exact ⟨rfl, rfl, rfl⟩

theorem cacheLine_facts (s0 : State) (p pa : Nat) (w : Bool) (h : Nat) :
    (cacheLine s0 p pa w h).1.bw = s0.bw ∧ (cacheLine s0 p pa w h).1.time = s0.time ∧ (cacheLine s0 p pa w h).1.mem.bytes = s0.mem.bytes := by
  unfold cacheLine
  extract_lets t blk hint b _ s1 s
  have hs : s.bw = s0.bw ∧ s.time = s0.time ∧ s.mem.bytes = s0.mem.bytes := by
    unfold s
    repeat' split
    all_goals first | exact ⟨rfl, rfl, rfl⟩ | exact noteBehind_facts s1 (pa / 256)
  clear_value s
  have ha : ∀ v d k, (allocate s t p blk v d k).bw = s0.bw ∧ (allocate s t p blk v d k).time = s0.time ∧ (allocate s t p blk v d k).mem.bytes = s0.mem.bytes := by
    intro v d k
    obtain ⟨x, y, z⟩ := allocate_facts s t p blk v d k
    exact ⟨x.trans hs.1, y.trans hs.2.1, z.trans hs.2.2⟩
  dsimp only
  repeat' split
  all_goals first | exact hs | exact ha _ _ _

theorem memCache_facts (s : State) (r : MemReq) (pa : Nat) :
    (memCache s r pa).1.bw = s.bw ∧ (memCache s r pa).1.time = s.time ∧ (memCache s r pa).1.mem.bytes = s.mem.bytes := by
  unfold memCache
  split
  · refine foldl_inv (fun (a : State × Nat) => a.1.bw = s.bw ∧ a.1.time = s.time ∧ a.1.mem.bytes = s.mem.bytes) _ ?_ _ _ ⟨rfl, rfl, rfl⟩
    intro a i h
    refine foldl_inv (fun (b : State × Bool) => b.1.bw = s.bw ∧ b.1.time = s.time ∧ b.1.mem.bytes = s.mem.bytes) _ ?_ _ (a.1, false) h
    intro b j h
    obtain ⟨x, y, z⟩ := cacheLine_facts b.1 r.part ((max pa ((pa / 2048 + i) * 2048) / 256 + j) * 256) r.write.isSome r.hint
    exact ⟨x.trans h.1, y.trans h.2.1, z.trans h.2.2⟩
  · exact ⟨rfl, rfl, rfl⟩

theorem cacheFinding_clean (s : State) (r : MemReq) (pa : Nat) (h : r.found = .clean) : cacheFinding s r pa = (s, r) := by
  unfold cacheFinding
  rw [if_pos (.inl h)]

/-- A request of a master but Mitten for memory that translates to an address of the device. -/
theorem memoryAccess_as {s : State} {r m : MemReq} {pa : Nat} {wr : Bool} (t1 : r.target = none) (t2 : r.master ≠ 547) (t3 : stamp s r = m)
    (h0 : m.prefetch = false) (h1 : xlate s m.part m.va = .ok (.loc pa wr)) :
    memoryAccess r s = if (m.write.isSome && !wr) = true then emit s 3 2 { part := m.part } [(8, m.va)] else memRequest (cacheLeaf s m) m pa := by
  unfold memoryAccess
  rw [t1]
  dsimp only
  rw [if_neg t2]
  unfold memAccess
  rw [t3]
  dsimp only
  rw [h0]
  simp only [Bool.false_eq_true, if_false]
  rw [h1]
  dsimp only
  rw [h0]
  simp only [Bool.false_and, Bool.false_eq_true, if_false]

theorem ceRecord_facts (z : State) (b : Nat) :
    (ceRecord z b).mem = z.mem ∧ (ceRecord z b).flt.scrubBack = z.flt.scrubBack ∧ (ceRecord z b).flt.ce = z.flt.ce := by
  unfold ceRecord
  extract_lets n soon
  split
  · exact ⟨rfl, rfl, rfl⟩
  · rw [emit_mem, emit_flt]
    exact ⟨rfl, rfl, rfl⟩

theorem countCe_facts (s : State) (pa : Nat) : (countCe s pa).mem = s.mem ∧ (countCe s pa).flt.scrubBack = s.flt.scrubBack := by
  unfold countCe
  split
  · exact ⟨rfl, rfl⟩
  · dsimp only
    refine ⟨(ceRecord_facts _ _).1.trans ?_, (ceRecord_facts _ _).2.1.trans ?_⟩
    · split
      · rw [emit_mem]
      · rfl
    · split
      · rw [emit_flt]
      · rfl

theorem grantReturn_facts (s : State) (port cls res p g : Nat) (h1 : p < 16) (h2 : tfind s.bw.grants (grantKey port p cls res) = some g)
    (h3 : (tfind s.bw.grants (grantKey port p cls res + 1)).getD 0 + 1000 ≤ s.time.now) :
    tfind (grantReturn port cls res s).bw.grants (grantKey port p cls res) = none ∧ (grantReturn port cls res s).mem = s.mem := by
  unfold grantReturn
  generalize hK : grantKey port p cls res = K at *
  generalize hf : (fun (t : State) (p : Nat) => _) = f
  have st : ∀ (t : State) (q : Nat), (f t q).mem = t.mem ∧ (f t q).time = t.time ∧
      ((f t q).bw.grants = t.bw.grants ∨ (f t q).bw.grants = tdel (tdel t.bw.grants (grantKey port q cls res)) (grantKey port q cls res + 1)) := by
    intro t q
    rw [← hf]
    dsimp only
    split
    · exact ⟨rfl, rfl, .inl rfl⟩
    · split
      · exact ⟨rfl, rfl, .inl rfl⟩
      · exact ⟨rfl, rfl, .inr rfl⟩
  have nn : ∀ (t : State) (q : Nat), tfind t.bw.grants K = none → tfind (f t q).bw.grants K = none := by
    intro t q h
    rcases (st t q).2.2 with e | e
    · rw [e]; exact h
    · rw [e]
      by_cases a : K = grantKey port q cls res + 1
      · rw [a]; exact tfind_tdel_same _ _
      · rw [tfind_tdel_other _ _ _ a]
        by_cases b : K = grantKey port q cls res
        · rw [b]; exact tfind_tdel_same _ _
        · rw [tfind_tdel_other _ _ _ b]; exact h
  have own : ∀ t : State, t.time = s.time → tfind t.bw.grants K = some g → tfind t.bw.grants (K + 1) = tfind s.bw.grants (K + 1) → tfind (f t p).bw.grants K = none := by
    intro t a b c
    rw [← hf]
    dsimp only
    rw [hK, b]
    dsimp only
    rw [if_neg (by rw [c, a]; omega)]
    dsimp only
    rw [tfind_tdel_other _ _ _ (by omega)]
    exact tfind_tdel_same _ _
  have oth : ∀ (t : State) (q : Nat), q ≠ p → tfind (f t q).bw.grants K = tfind t.bw.grants K ∧ tfind (f t q).bw.grants (K + 1) = tfind t.bw.grants (K + 1) := by
    intro t q hq
    have n : K ≠ grantKey port q cls res ∧ K ≠ grantKey port q cls res + 1 ∧ K + 1 ≠ grantKey port q cls res ∧ K + 1 ≠ grantKey port q cls res + 1 := by
      rw [← hK]
      unfold grantKey
      omega
    rcases (st t q).2.2 with e | e
    · rw [e]; exact ⟨rfl, rfl⟩
    · rw [e]
      rw [tfind_tdel_other _ _ _ n.2.1, tfind_tdel_other _ _ _ n.1,
        tfind_tdel_other _ _ _ n.2.2.2, tfind_tdel_other _ _ _ n.2.2.1]
      exact ⟨rfl, rfl⟩
  refine ⟨?_, foldl_part (·.mem) f (fun t q => (st t q).1) _ _⟩
  have key : ∀ (l : List Nat) (t : State), (tfind t.bw.grants K = none ∨ (p ∈ l ∧ t.time = s.time ∧ tfind t.bw.grants K = some g ∧ tfind t.bw.grants (K + 1) = tfind s.bw.grants (K + 1))) →
      tfind (l.foldl f t).bw.grants K = none := by
    intro l
    induction l with
    | nil =>
      intro t h
      rcases h with h | ⟨h, _⟩
      · exact h
      · cases h
    | cons q l ih =>
      intro t h
      rw [List.foldl_cons]
      apply ih
      rcases h with h | ⟨a, b, c, e⟩
      · exact .inl (nn t q h)
      · by_cases hq : q = p
        · rw [hq]; exact .inl (own t b c e)
        · refine .inr ⟨?_, (st t q).2.1.trans b, (oth t q hq).1.trans c, (oth t q hq).2.trans e⟩
          rcases List.mem_cons.1 a with rfl | a
          · exact absurd rfl hq
          · exact a
  exact key _ s (.inr ⟨List.mem_range.2 h1, rfl, h2, rfl⟩)

/-- A clean request to a slice that is not under copy is served at once where nothing is charged for it. -/
theorem memRequest_slice (s : State) (r : MemReq) (pa : Nat) (h2 : pa < 2 ^ 36) (h3 : memUse r pa 0 = []) (h4 : underCopy s pa = false)
    (h5 : r.found = .clean) : memRequest s r pa = serveReq s r [] true := by
  obtain ⟨n, off, hl⟩ : ∃ n off, locate pa = .slice n off := by unfold locate; rw [if_pos h2]; exact ⟨_, _, rfl⟩
  have hc : memCache s r pa = (s, 0) := by unfold memCache; rw [hl]
  have ht : (if inTowerB pa then 1 else 0) = masterTower r.master := by
    by_contra hn
    unfold memUse at h3
    rw [hl] at h3
    dsimp only at h3
    rw [if_neg hn] at h3
    simp at h3
  have hg : groupKey pa = none := by unfold groupKey; rw [hl]
  have hu : underTest s pa = false := by unfold underTest; rw [hl]
  unfold memRequest
  rw [cacheFinding_clean _ _ _ h5]
  dsimp only
  rw [hc]
  dsimp only
  rw [h3]
  unfold chargeAll
  rw [List.foldl_nil]
  dsimp only
  rw [if_pos rfl]
  have hr : routeUnits s r pa = s := by unfold routeUnits; dsimp only; rw [if_pos ht]
  rw [hr]
  unfold memServe
  dsimp only
  rw [h3, h4, hu, if_neg (by simp)]
  unfold windowHolds
  rw [hg]

theorem findCodeword_clean (t : State) (x : Nat) : findCodeword t x .clean = t := by
  unfold findCodeword
  generalize bankOf x = b
  rcases b with _ | ⟨_, _, _⟩ <;> rfl

theorem xlate_cacheLeaf (s : State) (r : MemReq) (p va : Nat) : xlate (cacheLeaf s r) p va = xlate s p va := by
  unfold cacheLeaf; split <;> rfl

theorem underCopy_cacheLeaf (s : State) (r : MemReq) (pa : Nat) : underCopy (cacheLeaf s r) pa = underCopy s pa := by
  unfold cacheLeaf; split <;> rfl

/-- What a request that is charged nothing does to memory when it is served: its codeword found clean, its write, or a read of a slice. -/
theorem serveReq_write (s u : State) (m : MemReq) (pa : Nat) (wr : Bool) (bs : List Byte) (h1 : xlate s m.part m.va = .ok (.loc pa wr))
    (h2 : m.found = .clean) (h3 : m.write = some bs) (h4 : vwrite s { part := m.part, desc := 2 ^ 64, rem := [] } m.va bs = .ok u) :
    (serveReq s m [] true).mem = u.mem := by
  unfold serveReq
  extract_lets cx s1 s2 s3 s4
  have e1 : s1 = s := by unfold s1; rw [h1]; dsimp only; rw [h2, findCodeword_clean]
  have e2 : s2 = u := by unfold s2; rw [h3]; dsimp only; rw [e1, show vwrite s cx m.va bs = .ok u from h4]
  have e3 : s3 = u := by unfold s3; rw [h3]; exact e2
  have e4 : s4.mem = u.mem := by
    unfold s4
    rw [e3]
    split
    · dsimp only
      split <;> rfl
    · rfl
  split
  · exact e4
  · exact e4

theorem serveReq_read (s : State) (m : MemReq) (pa n off : Nat) (wr : Bool) (h1 : xlate s m.part m.va = .ok (.loc pa wr))
    (h2 : m.found = .clean) (h3 : m.write = none) (h4 : locate pa = .slice n off) : (serveReq s m [] true).mem = s.mem := by
  unfold serveReq
  extract_lets cx s1 s2 s3 s4
  have e1 : s1 = s := by unfold s1; rw [h1]; dsimp only; rw [h2, findCodeword_clean]
  have e2 : s2 = s := by unfold s2; rw [h3]; exact e1
  have e3 : s3 = s := by unfold s3; rw [h3, e2, h1]; dsimp only; rw [h4]
  have e4 : s4.mem = s.mem := by
    unfold s4
    rw [e3]
    split
    · dsimp only
      split <;> rfl
    · rfl
  split
  · exact e4
  · exact e4

theorem kvOp_run {s : State} {d op : Nat} {f : Flight} (h : Runs s d op f) (h1 : kvSlotOk f = true) (h2 : kvBusy s d f = false) (k : Flight → State) :
    kvOp s d op k = k f := by
  unfold kvOp
  rw [withOp_run h, h1, h2]
  rfl

theorem kvBusy_putF {s : State} {d : Nat} {f : Flight} (h : kvBusy s d f = false) (ph : FPhase) :
    kvBusy (putF s d { f with phase := ph }) d { f with phase := ph } = false := by
  unfold kvBusy at h ⊢
  simp only [Bool.or_eq_false_iff, List.any_eq_false] at h ⊢
  refine ⟨h.1, fun e he => ?_⟩
  rcases mem_tput _ _ _ _ he with rfl | h1
  · simp
  · exact h.2 e h1

theorem getSlot_of {s t : State} (h : s.kv = t.kv) (i : Nat) : getSlot s i = getSlot t i := by unfold getSlot; rw [h]

theorem markCopy_slots (s : State) (p slot : Nat) (c : Bool) : (markCopy s p slot c).kv.slots = s.kv.slots := by
  unfold markCopy
  refine foldl_part (·.kv.slots) _ ?_ _ _
  intro t e
  dsimp only
  split
  · split <;> rfl
  · split <;> rfl

theorem swapAway_st (s : State) (p slot : Nat) : (getSlot (swapAway s p slot) slot).st = .swapped := by
  unfold swapAway
  dsimp only
  split
  · rw [getSlot_of ((endF_K _ _ _ _).part3 rfl), getSlot_putSlot]
  · rw [getSlot_putSlot]

theorem startSwap_st (s t : State) (p slot : Nat) (b : Option Nat) (h : Bool) (e : startSwap s p slot b h = (t, 0)) :
    (getSlot t slot).st = .swappingOut := by
  unfold startSwap at e
  dsimp only at e
  split at e
  · cases e
  · split at e
    · cases e
    · cases e
      rw [getSlot_of ((readRemotePages_K _ _ _).part3 rfl)]
      unfold getSlot
      rw [markCopy_slots]
      unfold putSlot
      dsimp only
      rw [tfind_tput_same]; rfl

theorem claim_fold (p : Nat) (l : List Nat) (s : State) : (l.foldl (fun t fr => claimGrain t p (fr * 8192)) s).mem.kvTag = s.mem.kvTag := by
  refine foldl_part (·.mem.kvTag) _ ?_ _ _
  intro t fr
  unfold claimGrain
  split
  · dsimp only; split <;> rfl
  · rfl

theorem putSlot_fold_steps (l : List Nat) (d : Nat) (s : State) :
    (l.foldl (fun a i => putSlot a i { getSlot a i with inStep := some d }) s).steps = s.steps :=
  foldl_part (·.steps) (fun (a : State) i => putSlot a i { getSlot a i with inStep := some d }) (fun _ _ => rfl) l s

theorem startStep_runs (s t : State) (d : Nat) (f : Flight) (p : StepPlan) (h : startStep s d f p = .ok t) :
    ∃ r, tfind t.steps.runs d = some r ∧ r.started = true ∧ r.rota = p.run.rota ∧ r.seqs = p.run.seqs := by
  unfold startStep at h
  simp only [bind, Except.bind, pure] at h
  split at h
  · cases h
  · split at h
    · cases h
    · rcases he : p.embed with _ | ⟨x, y⟩
      · rw [he] at h
        cases h
        rw [putSlot_fold_steps]
        exact ⟨_, tfind_tput_same _ _ _, rfl, rfl, rfl⟩
      · rw [he] at h
        dsimp only at h
        split at h
        · cases h
        · cases h
          rw [putSlot_fold_steps]
          exact ⟨_, tfind_tput_same _ _ _, rfl, rfl, rfl⟩

theorem saveCell_facts (s : State) (d : Nat) (f : Flight) (c : Nat) :
    getF (saveCell s d f c) d = some { f with begun := false, trickle := { f.trickle with cell := some c, check := s.free } } ∧
    ∀ k x, tfind (saveCell s d f c).flt.cores k = some x → d ∉ x.intake := by
  unfold saveCell
  generalize takeBytes s saveCellBytes = b
  generalize (getQ s f.q).trickArea + saveCellBytes * c = a
  have key : ∀ u : State, getF { putF u d { f with begun := false, trickle := { f.trickle with cell := some c, check := s.free } } with flt := { (putF u d { f with begun := false, trickle := { f.trickle with cell := some c, check := s.free } }).flt with
      cores := tmap (putF u d { f with begun := false, trickle := { f.trickle with cell := some c, check := s.free } }).flt.cores fun _ x => { x with intake := x.intake.filter (· != d) } } } d = some { f with begun := false, trickle := { f.trickle with cell := some c, check := s.free } } ∧
      ∀ k x, tfind (tmap (putF u d { f with begun := false, trickle := { f.trickle with cell := some c, check := s.free } }).flt.cores fun _ x => { x with intake := x.intake.filter (· != d) }) k = some x → d ∉ x.intake := by
    intro u
    refine ⟨tfind_tput_same _ _ _, ?_⟩
    intro k x hx
    rw [tfind_tmap] at hx
    cases hk : tfind (putF u d { f with begun := false, trickle := { f.trickle with cell := some c, check := s.free } }).flt.cores k with
    | none => rw [hk] at hx; cases hx
    | some y =>
      rw [hk] at hx
      cases hx
      simp
  exact key _

theorem runFaults_none (s : State) (d : Nat) (w : Work) (h : w.faults = []) : runFaults s d w = (s, false) := by
  unfold runFaults
  rw [h]
  rfl

theorem presentOf_whole (s : State) (f : Flight) (e1 : Nat) (h : f.fTrickle = false) : presentOf s f e1 = e1 := by
  unfold presentOf
  rw [if_neg (by rw [h]; decide)]

theorem chunksGo_sub {α : Type} (n : Nat) : ∀ (k : Nat) (l r : List α), r ∈ chunksGo n k l → ∀ e ∈ r, e ∈ l
  | 0, _, _, h, _, _ => absurd h (by simp [chunksGo])
  | k + 1, [], _, h, _, _ => absurd h (by simp [chunksGo])
  | k + 1, a :: l, r, h, e, he => by
    simp only [chunksGo, List.mem_cons] at h
    rcases h with h | h
    · rw [h] at he; exact List.mem_of_mem_take he
    · exact List.mem_of_mem_drop (chunksGo_sub n k _ r h e he)

/-- Rows cut from a list without poison hold none. -/
theorem chunks_clean {α : Type} (n : Nat) (l : List (α × Bool)) (h : l.any Prod.snd = false) :
    (((chunks n l).zipIdx.filter fun r => r.1.any Prod.snd).map Prod.snd) = [] := by
  rw [List.map_eq_nil_iff, List.filter_eq_nil_iff]
  intro r hr hp
  obtain ⟨e, he, hb⟩ := List.any_eq_true.mp hp
  have m : r.1 ∈ chunks n l := List.fst_mem_of_mem_zipIdx hr
  rw [List.any_eq_false] at h
  exact h e (chunksGo_sub n _ l _ m e he) hb

/-- An element operation that no check or poison stops, none of whose fills has been written before, writes its whole output. -/
theorem fillRun_whole (s u : State) (d : Nat) (f : Flight) (w : Work) (p : FillPlan) (hw : w.faults = []) (hm : w.more = false) (hd : f.done = [])
    (ht : ∀ e, p.taint e = false) (hc : p.clash = false) (hs : p.stream = none)
    (h : writeF32 (p.reads.foldl (fun t x => touchRead t (cxOf s f d) x) s) (cxOf s f d) p.d p.sat p.key p.vals = .ok u) :
    fillRun s d f w p = .ok (endF u d stOk w.cycles) := by
  have hf : (List.range p.d.count).filter p.taint = [] := List.filter_eq_nil_iff.mpr fun e _ => by rw [ht e]; decide
  unfold fillRun
  simp only [hf, List.map_nil, List.eraseDups_nil, List.isEmpty_nil, Bool.not_true, Bool.false_eq_true, if_false, runFaults_none s d w hw, hs, hm, hd, hc,
    if_true, h, bind, Except.bind]

/-- A MATRIX descriptor whose reads succeed without poison writes its result and ends OK. -/
theorem matrixOp_runs (s u : State) (d : Nat) (f : Flight) (w : Work) (p : MatPlan) (xl wl cl sl : List ((Nat × Nat) × Bool))
    (h1 : matPlan s d f = .ok p) (h2 : granted s d f.part p = true) (h3 : f.fTrickle = false) (h4 : (p.x.ext[1]?).getD 1 ≠ 0)
    (h5 : readTP s (cxOf s f d) p.x = .ok xl) (h6 : readTP s (cxOf s f d) p.w = .ok wl) (h7 : readOptP s (cxOf s f d) p.c = .ok cl)
    (h8 : readOptP s (cxOf s f d) p.side = .ok sl) (h9 : (xl ++ wl ++ cl ++ sl).any Prod.snd = false) (h10 : w.faults = [])
    (hm : w.more = false) (hd : f.done = [])
    (h11 : meets (p.d.places s (cxOf s f d)) (matSources s (cxOf s f d) p) = false)
    (h12 : writeMat ((p.x :: p.w :: (p.c.toList ++ p.side.toList)).foldl (fun t x => touchRead t (cxOf s f d) x) s) (cxOf s f d) f p none
      ((List.range p.d.count).map (matElem p (valuesL p.x xl).toArray (valuesL p.w wl).toArray
        (p.c.map fun t => if iacc p.cvt then cl.map fun e => e.1.1 else widenL t cl)
        (match p.side with | none => [] | some t => widenL t sl))) = .ok u) :
    matrixOp s d f w = endF u d stOk w.cycles := by
  unfold matrixOp
  rw [h1]
  dsimp only
  rw [if_neg (by rw [h2, Bool.not_true, Bool.and_false]; decide)]
  have e : matRun s d f p w = .ok (endF u d stOk w.cycles) := by
    unfold matRun
    simp only [presentOf_whole s f _ h3, Nat.lt_irrefl, if_false, h4, h5, h6, h7, h8, bind, Except.bind, pure, h9, runFaults_none s d w h10,
      Bool.false_eq_true, h3, h11, hm, hd, List.isEmpty_nil, if_true]
    have pe : ({ p with x := p.x } : MatPlan) = p := rfl
    obtain ⟨conv, x, ww, dd, c, cvt, epi, side, split, units, dist, fst, cnt, kw, kh, padL, padT, wIn, hIn, wOut, hOut, recs⟩ := p
    cases side with
    | none => dsimp only at h12 ⊢; rw [h12]
    | some t => dsimp only at h12 ⊢; rw [h12]
  rw [e]

/-- A group that still waits for contributions or for staging stays as it is. -/
theorem finishGroup_waits {s : State} {key : Nat} {g : RGroup} (h : tfind s.mem.groups key = some g) (hw : g.staged = false ∨ g.contrib.length ≠ g.count) :
    finishGroup s key = s := by
  unfold finishGroup
  rw [h]
  dsimp only
  rw [if_pos]
  rcases hw with hw | hw
  · rw [hw]; rfl
  · simp [hw]

/-- A complete, staged group combined: every contributor ends. -/
theorem finishGroup_done {s u : State} {key : Nat} {g : RGroup} {old : List (Nat × Bool)} (h : tfind s.mem.groups key = some g) (h1 : g.staged = true) (h2 : g.contrib.length = g.count)
    (h3 : readRows s { part := key / 256, desc := 0, rem := [] } g.format g.e0 g.dst = .ok old)
    (h4 : writeRows { s with mem := { s.mem with groups := tdel s.mem.groups key, staging := tput s.mem.staging g.stack (stagingUsed s g.stack - g.count * g.bytes) } }
      { part := key / 256, desc := 0, rem := [] } g.format g.e0 g.dst (old.zipIdx.map fun e =>
        (reduceOp g.format g.op e.1.1 (orderedTree g.format g.op 6 (((List.range g.count).filterMap fun i => (g.contrib.find? fun c => c.1 == i).map fun c => c.2.2).map
          fun l => ((l[e.2]?).getD (0, false)).1)), e.1.2 || ((List.range g.count).filterMap fun i => (g.contrib.find? fun c => c.1 == i).map fun c => c.2.2).any
          fun l => ((l[e.2]?).getD (0, false)).2)) = .ok u) :
    finishGroup s key = g.contrib.foldl (fun t c => endF t c.2.1 (if old.any Prod.snd || c.2.2.any Prod.snd then stPoisoned else stOk) 0) u := by
  unfold finishGroup
  rw [h]
  dsimp only
  rw [if_neg (by simp [h1, h2])]
  simp only [h3, bind, Except.bind, List.map_map, List.any_map, Function.comp_def]
  simp only [List.map_map, List.any_map, Function.comp_def] at h4
  rw [h4]

theorem cwBank_lt (c : Nat) : cwBank c < 32 := by
  unfold cwBank
  split
  · exact Nat.xor_lt_two_pow (n := 5) (Nat.mod_lt _ (by decide)) (Nat.mod_lt _ (by decide))
  · decide

theorem workBank_lt (s : State) (c : Nat) : workBank s c < 32 := by
  unfold workBank
  split
  · exact Nat.xor_lt_two_pow (n := 5) (cwBank_lt c) (by decide)
  · exact cwBank_lt c

/-- The one codeword left is in any window's share, whatever unit computes it. -/
theorem windowWords_one {s : State} {d key len : Nat} {r : NearRun} {w : NearWord} (h1 : tfind s.mem.near d = some r) (h2 : groupLeft s d key = [w]) (h : 0 < len) :
    windowWords s d key len = [w] := by
  have hb := workBank_lt s w.cw
  have e : (fun k => unitShare s r ((groupLeft s d key).filter fun x => workBank s x.cw == k) len) = fun k => if workBank s w.cw = k then [w] else [] := by
    funext k
    rw [h2]
    by_cases hk : workBank s w.cw = k
    · rw [if_pos hk, List.filter_cons_of_pos (by simp [hk])]
      simp [unitShare, h]
    · rw [if_neg hk, List.filter_cons_of_neg (by simp [hk])]
      rfl
  unfold windowWords
  rw [h1]
  dsimp only
  rw [e]
  generalize workBank s w.cw = b at hb
  interval_cases b <;> rfl

theorem chargePort_mem (s : State) (port p c : Nat) (use : Nat × Nat) : (chargePort s port p c use).1.mem = s.mem := by
  unfold chargePort refill
  dsimp only
  split
  · rfl
  · split <;> rfl

/-- A window's end that computes the last codeword ends the descriptor. -/
theorem endWindow_last {s u : State} {key len d : Nat} {f : Flight} {r : NearRun} {t : NearSet} {w : NearWord} {x : WindowWork}
    (h0 : (getBg s key).desc = d) (h1 : getF s d = some f) (h2 : tfind s.mem.near d = some r) (h3 : r.left = [w]) (h4 : r.poisoned = none)
    (h6 : r.sets[w.entry]? = some t) (h7 : groupLeft s d key = [w]) (h8 : 0 < len) (hx : x = { faults := [], found := [] })
    (h10 : nearWord (chargePort s (513 + key / 65536 / 4) f.part f.cls (key / 65536, carryCharge s [w])).1 r.chain t w = (u, false)) :
    endWindow s key len x = nearEnd (shutGroup { dropBlocks u [w.cw / 64] with mem := { (dropBlocks u [w.cw / 64]).mem with
      near := tput (dropBlocks u [w.cw / 64]).mem.near d { r with left := [] } } } key) d stOk := by
  subst h0 hx
  have hw := windowWords_one h2 h7 h8
  have hd : nearDrain (chargePort s (513 + key / 65536 / 4) f.part f.cls (key / 65536, carryCharge s [w])).1 (getBg s key).desc [w] =
      { dropBlocks u [w.cw / 64] with mem := { (dropBlocks u [w.cw / 64]).mem with near := tput (dropBlocks u [w.cw / 64]).mem.near (getBg s key).desc { r with left := [] } } } := by
    unfold nearDrain
    rw [chargePort_mem, h2]
    have hl : ([w].filter fun y => !([w] : List NearWord).contains y) = [] := by simp
    simp only [List.foldl_cons, List.foldl_nil, h6, h10, h3, h4, hl, List.map_cons, List.map_nil, Bool.false_eq_true, if_false]
  have hf : ([w].filter fun y => !(((([] : List (Nat × Nat)).map Prod.fst).contains y.cw))) = [w] := rfl
  have hb : ([w].filter fun y => ((([] : List (Nat × Nat)).map Prod.fst)).contains y.cw) = [] := rfl
  have hp : ∀ (v : State) (n : List NearWord), tfind (shutGroup { v with mem := { v.mem with near := tput v.mem.near (getBg s key).desc { r with left := n } } } key).mem.near (getBg s key).desc =
      some { r with left := n } := fun v n => tfind_tput_same _ _ _
  unfold endWindow
  dsimp only
  rw [h1]
  dsimp only
  rw [hw]
  dsimp only [List.filter_nil, List.map_nil, List.foldl_nil]
  refine (if_pos (by rw [hb]; rfl)).trans ?_
  rw [hf, hd]
  unfold nearSettle
  rw [hp]
  dsimp only [List.isEmpty_nil]
  rw [h4]
  rfl

theorem locate_stack (k o : Nat) (hk : k < 8) (ho : o < 2 ^ 37) : locate (2 ^ 38 + k * 2 ^ 37 + o) = .stack k o := by
  unfold locate
  rw [if_neg (by omega), if_pos (by omega)]
  rw [show (2 ^ 38 + k * 2 ^ 37 + o - 2 ^ 38) / 2 ^ 37 = k by omega, show (2 ^ 38 + k * 2 ^ 37 + o - 2 ^ 38) % 2 ^ 37 = o by omega]

theorem pcOf_lt (o : Nat) : ((o / 2 ^ 11 % 64) ^^^ (o / 2 ^ 17 % 64)) < 64 := Nat.xor_lt_two_pow (n := 6) (Nat.mod_lt _ (by decide)) (Nat.mod_lt _ (by decide))

theorem bankOf_stack (k o A : Nat) (hl : locate A = .stack k o) :
      (∃ bank row, bankOf A = some (bank, chPc k ((o / 2 ^ 11 % 64) ^^^ (o / 2 ^ 17 % 64)), row))  := by
  unfold bankOf
  rw [hl]
  exact ⟨_, _, rfl⟩

theorem groupKey_stack (k o A : Nat) (hl : locate A = .stack k o) :
      ∃ g, g < 8 ∧ groupKey A = some (65536 * k + 8 * ((o / 2 ^ 11 % 64) ^^^ (o / 2 ^ 17 % 64)) + g) := by
  unfold groupKey
  rw [hl]
  refine ⟨Nat.xor (bits o 17 5) (bits o 22 5) / 4, ?_, rfl⟩
  have : Nat.xor (bits o 17 5) (bits o 22 5) < 2 ^ 5 := Nat.xor_lt_two_pow (n := 5) (Nat.mod_lt _ (by decide)) (Nat.mod_lt _ (by decide))
  omega

end Sys2Proof.Machine
end

