-- ==== Sys2Proof/Laws/PerInstr.lean ====
section
/-! SUPPORT. The ranges of a command's numbers, command by command: what being well formed says of each. -/

namespace Sys2Proof.Laws

/-- The resource codes of R342: the stacks, the dense fabric's two directions, the Plauf ports and the host link's two directions. -/
def ResourceCode (r : Nat) : Prop := r < 8 ∨ r = 0x10 ∨ r = 0x11 ∨ (0x100 ≤ r ∧ r < 0x120) ∨ r = 0x200 ∨ r = 0x201

theorem below_iff {n v : Nat} : below n v = true ↔ v < n := decide_eq_true_iff
theorem fnOk_iff {f : Nat} : fnOk f = true ↔ f ≤ 16 := by unfold fnOk; rw [decide_eq_true_iff]; omega
theorem posOk_iff {v : Nat} : posOk v = true ↔ v ≠ 0 := by unfold posOk; rw [decide_eq_true_iff]; omega
theorem resOk_iff {r : Nat} : resOk r = true ↔ ResourceCode r := by
  unfold resOk ResourceCode
  simp only [Bool.or_eq_true, decide_eq_true_eq, beq_iff_eq, or_assoc]
theorem widthOk_iff {w : Nat} : widthOk w = true ↔ (w = 1 ∨ w = 2 ∨ w = 4 ∨ w = 8 ∨ w = 16) := by
  simp [widthOk]
theorem and_iff {a b : Bool} {p q : Prop} (h : a = true ↔ p) (k : b = true ↔ q) : (a && b) = true ↔ (p ∧ q) := by
  rw [Bool.and_eq_true, h, k]

/-- A command is well formed exactly where every number of it lies in its range. -/
def Bounds.Statement : Instr → Prop
  | .pollingPass stores failing => (Instr.pollingPass stores failing).wf = true
  | .hotIdleEvict q => (Instr.hotIdleEvict q).wf = true ↔ q < 65536
  | .descriptorStart d => (Instr.descriptorStart d).wf = true
  | .descriptorComplete d => (Instr.descriptorComplete d).wf = true
  | .irqCoalTimer q => (Instr.irqCoalTimer q).wf = true ↔ q < 65536
  | .queueEnable fn q => (Instr.queueEnable fn q).wf = true ↔ fn ≤ 16 ∧ q < 65536
  | .queueDisable fn q => (Instr.queueDisable fn q).wf = true ↔ fn ≤ 16 ∧ q < 65536
  | .queueClear fn q => (Instr.queueClear fn q).wf = true ↔ fn ≤ 16 ∧ q < 65536
  | .queueDrainDone q => (Instr.queueDrainDone q).wf = true ↔ q < 65536
  | .aqEnable => (Instr.aqEnable).wf = true
  | .aqDisable => (Instr.aqDisable).wf = true
  | .vfFlr vf => (Instr.vfFlr vf).wf = true ↔ vf ≤ 16 ∧ vf ≠ 0
  | .pf0Flr => (Instr.pf0Flr).wf = true
  | .identify d => (Instr.identify d).wf = true
  | .vfBind d => (Instr.vfBind d).wf = true
  | .vfUnbind d => (Instr.vfUnbind d).wf = true
  | .vfUnbindDone vf => (Instr.vfUnbindDone vf).wf = true ↔ vf ≤ 16 ∧ vf ≠ 0
  | .eventWait d => (Instr.eventWait d).wf = true
  | .partCreate d => (Instr.partCreate d).wf = true
  | .partDestroy d => (Instr.partDestroy d).wf = true
  | .partReset d => (Instr.partReset d).wf = true
  | .partState d => (Instr.partState d).wf = true
  | .partStateDone p => (Instr.partStateDone p).wf = true ↔ p < 16
  | .pkgState d => (Instr.pkgState d).wf = true
  | .levelSlewDone => (Instr.levelSlewDone).wf = true
  | .readyDrainTimeout => (Instr.readyDrainTimeout).wf = true
  | .powerCap d => (Instr.powerCap d).wf = true
  | .tripAck d => (Instr.tripAck d).wf = true
  | .bwRegister d => (Instr.bwRegister d).wf = true
  | .bwRelease d => (Instr.bwRelease d).wf = true
  | .bwMonitor d => (Instr.bwMonitor d).wf = true
  | .store d badReadback => (Instr.store d badReadback).wf = true
  | .settingWrite d => (Instr.settingWrite d).wf = true
  | .settingRead d => (Instr.settingRead d).wf = true
  | .ownerMsgClaim d commitOk => (Instr.ownerMsgClaim d commitOk).wf = true
  | .ownerMsgPolicy d commitOk => (Instr.ownerMsgPolicy d commitOk).wf = true
  | .ownerMsgPairing d commitOk => (Instr.ownerMsgPairing d commitOk).wf = true
  | .ownerMsgDebug d commitOk => (Instr.ownerMsgDebug d commitOk).wf = true
  | .ownerMsgKeyRelease d => (Instr.ownerMsgKeyRelease d).wf = true
  | .debugEntered => (Instr.debugEntered).wf = true
  | .zeroFillDone p => (Instr.zeroFillDone p).wf = true ↔ p < 16
  | .fwStage d => (Instr.fwStage d).wf = true
  | .fwActivate d => (Instr.fwActivate d).wf = true
  | .liveActivationCheck refreshed => (Instr.liveActivationCheck refreshed).wf = true
  | .topoRead d => (Instr.topoRead d).wf = true
  | .topoAccept d readbackOk => (Instr.topoAccept d readbackOk).wf = true
  | .reset d => (Instr.reset d).wf = true
  | .holidayGrant d => (Instr.holidayGrant d).wf = true
  | .holidayExpire => (Instr.holidayExpire).wf = true
  | .selftest d => (Instr.selftest d).wf = true
  | .calibrate d => (Instr.calibrate d).wf = true
  | .testDone v => (Instr.testDone v).wf = true
  | .retirePage d => (Instr.retirePage d).wf = true
  | .retireBank d => (Instr.retireBank d).wf = true
  | .retireMoveDone target => (Instr.retireMoveDone target).wf = true
  | .snapArm d => (Instr.snapArm d).wf = true
  | .snapTrigger d => (Instr.snapTrigger d).wf = true
  | .equinoxInput => (Instr.equinoxInput).wf = true
  | .snapRead d => (Instr.snapRead d).wf = true
  | .copy d => (Instr.copy d).wf = true
  | .fill d => (Instr.fill d).wf = true
  | .toHost d => (Instr.toHost d).wf = true
  | .fromHost d => (Instr.fromHost d).wf = true
  | .map d => (Instr.map d).wf = true
  | .unmap d => (Instr.unmap d).wf = true
  | .tpoolAdd d => (Instr.tpoolAdd d).wf = true
  | .matmul d w => (Instr.matmul d w).wf = true
  | .conv1d d w => (Instr.conv1d d w).wf = true
  | .conv2d d w => (Instr.conv2d d w).wf = true
  | .laneModeChange core => (Instr.laneModeChange core).wf = true ↔ core < 512
  | .chain d w => (Instr.chain d w).wf = true
  | .softmax d w => (Instr.softmax d w).wf = true
  | .sample d w => (Instr.sample d w).wf = true
  | .attend d w => (Instr.attend d w).wf = true
  | .poolRestart d => (Instr.poolRestart d).wf = true
  | .nearList d => (Instr.nearList d).wf = true
  | .acc d => (Instr.acc d).wf = true
  | .orderedStagingGrant stack => (Instr.orderedStagingGrant stack).wf = true ↔ stack < 8
  | .windowOpen stack pc group d => (Instr.windowOpen stack pc group d).wf = true ↔ (stack < 8 ∧ pc < 64) ∧ group < 8
  | .windowClose stack pc group x => (Instr.windowClose stack pc group x).wf = true ↔ (stack < 8 ∧ pc < 64) ∧ group < 8
  | .windowCut stack pc group x => (Instr.windowCut stack pc group x).wf = true ↔ (stack < 8 ∧ pc < 64) ∧ group < 8
  | .bankGroupRefresh stack pc group => (Instr.bankGroupRefresh stack pc group).wf = true ↔ (stack < 8 ∧ pc < 64) ∧ group < 8
  | .rotaBind d => (Instr.rotaBind d).wf = true
  | .rotaUnbind d => (Instr.rotaUnbind d).wf = true
  | .run d => (Instr.run d).wf = true
  | .stepRelease d => (Instr.stepRelease d).wf = true
  | .rotaEntryDispatch d => (Instr.rotaEntryDispatch d).wf = true
  | .stepCommit d energyA energyB duration => (Instr.stepCommit d energyA energyB duration).wf = true
  | .trickleCfg d => (Instr.trickleCfg d).wf = true
  | .trickleSave d => (Instr.trickleSave d).wf = true
  | .trickleResume d => (Instr.trickleResume d).wf = true
  | .trickleTimeout d => (Instr.trickleTimeout d).wf = true
  | .seqOpen d => (Instr.seqOpen d).wf = true
  | .seqClose d => (Instr.seqClose d).wf = true
  | .seqFork d => (Instr.seqFork d).wf = true
  | .seqRead d => (Instr.seqRead d).wf = true
  | .kvHeldResume slot => (Instr.kvHeldResume slot).wf = true ↔ slot < 32768
  | .poolConfig d => (Instr.poolConfig d).wf = true
  | .poolAdd d => (Instr.poolAdd d).wf = true
  | .swapOut d => (Instr.swapOut d).wf = true
  | .swapOutDone slot => (Instr.swapOutDone slot).wf = true ↔ slot < 32768
  | .swapIn d => (Instr.swapIn d).wf = true
  | .swapInDone slot => (Instr.swapInDone slot).wf = true ↔ slot < 32768
  | .syncNop d => (Instr.syncNop d).wf = true
  | .syncAdd d => (Instr.syncAdd d).wf = true
  | .syncWaitAll d => (Instr.syncWaitAll d).wf = true
  | .syncPair d => (Instr.syncPair d).wf = true
  | .syncUnpair d => (Instr.syncUnpair d).wf = true
  | .syncRead d => (Instr.syncRead d).wf = true
  | .signalAdd p c n => (Instr.signalAdd p c n).wf = true ↔ p < 16 ∧ c < 1024
  | .remoteRead d => (Instr.remoteRead d).wf = true
  | .remoteWrite d => (Instr.remoteWrite d).wf = true
  | .remoteAtomic d => (Instr.remoteAtomic d).wf = true
  | .remoteSignal d => (Instr.remoteSignal d).wf = true
  | .winExport d => (Instr.winExport d).wf = true
  | .winUnexport d => (Instr.winUnexport d).wf = true
  | .winUnexportDone d => (Instr.winUnexportDone d).wf = true
  | .winImport d => (Instr.winImport d).wf = true
  | .winUnimport d => (Instr.winUnimport d).wf = true
  | .sealIn d => (Instr.sealIn d).wf = true
  | .sealOut d => (Instr.sealOut d).wf = true
  | .kat d failing => (Instr.kat d failing).wf = true
  | .repairRead d => (Instr.repairRead d).wf = true
  | .rowRemap d => (Instr.rowRemap d).wf = true
  | .ppr d fuseOk => (Instr.ppr d fuseOk).wf = true
  | .tap d => (Instr.tap d).wf = true
  | .engineCtrl d => (Instr.engineCtrl d).wf = true
  | .arrayRead d found => (Instr.arrayRead d found).wf = true
  | .scanDump d => (Instr.scanDump d).wf = true
  | .memoryAccess r => (Instr.memoryAccess r).wf = true
  | .scrubRead pa found => (Instr.scrubRead pa found).wf = true
  | .scrubLag => (Instr.scrubLag).wf = true
  | .ceLeak => (Instr.ceLeak).wf = true
  | .grantReturn port cls res => (Instr.grantReturn port cls res).wf = true ↔ (port < 32 ∧ cls < 6) ∧ ResourceCode res
  | .heldRequestRelease res => (Instr.heldRequestRelease res).wf = true ↔ ResourceCode res
  | .prefetchDrop req => (Instr.prefetchDrop req).wf = true
  | .requestDeadlinePass req => (Instr.requestDeadlinePass req).wf = true
  | .capacityRecompute res => (Instr.capacityRecompute res).wf = true ↔ ResourceCode res
  | .missInterval waited => (Instr.missInterval waited).wf = true
  | .guaranteeMissedWindow handle => (Instr.guaranteeMissedWindow handle).wf = true
  | .frameReceive bundle dir f => (Instr.frameReceive bundle dir f).wf = true ↔ bundle < 24 ∧ dir < 2
  | .laneRetire bundle dir lane => (Instr.laneRetire bundle dir lane).wf = true ↔ (bundle < 24 ∧ dir < 2) ∧ lane < 68
  | .liningMessage link seq prio crcOk payload => (Instr.liningMessage link seq prio crcOk payload).wf = true ↔ link < 22
  | .dieLost die => (Instr.dieLost die).wf = true ↔ die < 4
  | .dieResetInput die => (Instr.dieResetInput die).wf = true ↔ die < 4
  | .dieBack die failing badSeasons => (Instr.dieBack die failing badSeasons).wf = true ↔ die < 4
  | .refclkLost tower => (Instr.refclkLost tower).wf = true ↔ tower < 2
  | .refclkRestored tower => (Instr.refclkRestored tower).wf = true ↔ tower < 2
  | .cuffRead tag window offset len => (Instr.cuffRead tag window offset len).wf = true ↔ window < 16
  | .cuffWrite tag window offset data => (Instr.cuffWrite tag window offset data).wf = true ↔ window < 16
  | .cuffSignal tag slot inc => (Instr.cuffSignal tag slot inc).wf = true ↔ slot < 64
  | .cuffCread tag slot => (Instr.cuffCread tag slot).wf = true ↔ slot < 64
  | .cuffWatch tag slot target => (Instr.cuffWatch tag slot target).wf = true ↔ slot < 64
  | .guestLinkDown => (Instr.guestLinkDown).wf = true
  | .flitReceive port f => (Instr.flitReceive port f).wf = true ↔ port < 32
  | .portTrainTimeout port => (Instr.portTrainTimeout port).wf = true ↔ port < 32
  | .portTrainDone port => (Instr.portTrainDone port).wf = true ↔ port < 32
  | .hello port version hash farPort nonce => (Instr.hello port version hash farPort nonce).wf = true ↔ port < 32
  | .auth port chain sig ecdh => (Instr.auth port chain sig ecdh).wf = true ↔ port < 32
  | .topo port hash farPort ownerHash pkgState waves => (Instr.topo port hash farPort ownerHash pkgState waves).wf = true ↔ port < 32
  | .keyReplace port dir => (Instr.keyReplace port dir).wf = true ↔ port < 32 ∧ dir < 2
  | .ringRecalibrate port line ringOk => (Instr.ringRecalibrate port line ringOk).wf = true ↔ port < 32 ∧ line < 16
  | .laserLineLow engine line => (Instr.laserLineLow engine line).wf = true ↔ engine < 8 ∧ line < 16
  | .laserLineRestored engine line => (Instr.laserLineRestored engine line).wf = true ↔ engine < 8 ∧ line < 16
  | .laserLost engine => (Instr.laserLost engine).wf = true ↔ engine < 8
  | .wavelengthRetire port wave => (Instr.wavelengthRetire port wave).wf = true ↔ port < 32 ∧ wave < 16
  | .rd port m => (Instr.rd port m).wf = true ↔ port < 32
  | .rdData port m => (Instr.rdData port m).wf = true ↔ port < 32
  | .wr port m => (Instr.wr port m).wf = true ↔ port < 32
  | .wrAck port m => (Instr.wrAck port m).wf = true ↔ port < 32
  | .atom port m => (Instr.atom port m).wf = true ↔ port < 32
  | .atomAck port m => (Instr.atomAck port m).wf = true ↔ port < 32
  | .sig port m => (Instr.sig port m).wf = true ↔ port < 32
  | .sigAck port m => (Instr.sigAck port m).wf = true ↔ port < 32
  | .impQ port m => (Instr.impQ port m).wf = true ↔ port < 32
  | .impR port m => (Instr.impR port m).wf = true ↔ port < 32
  | .rdResend req => (Instr.rdResend req).wf = true
  | .remoteRetry req => (Instr.remoteRetry req).wf = true
  | .neighbourLost hash => (Instr.neighbourLost hash).wf = true
  | .tdiLeaveRun vf => (Instr.tdiLeaveRun vf).wf = true ↔ vf ≤ 16 ∧ vf ≠ 0
  | .getVersion path => (Instr.getVersion path).wf = true
  | .getCapabilities path caps => (Instr.getCapabilities path caps).wf = true
  | .negotiateAlgorithms path ecdsa384 sha384 secp384 aes256 => (Instr.negotiateAlgorithms path ecdsa384 sha384 secp384 aes256).wf = true
  | .getDigests path => (Instr.getDigests path).wf = true
  | .getCertificate path slot offset len => (Instr.getCertificate path slot offset len).wf = true
  | .challenge path slot nonce => (Instr.challenge path slot nonce).wf = true
  | .getMeasurements path index sign nonce => (Instr.getMeasurements path index sign nonce).wf = true
  | .keyExchange path exchange => (Instr.keyExchange path exchange).wf = true
  | .finish path sig mac => (Instr.finish path sig mac).wf = true
  | .keyUpdate path => (Instr.keyUpdate path).wf = true
  | .heartbeat path => (Instr.heartbeat path).wf = true
  | .endSession path => (Instr.endSession path).wf = true
  | .vendorDefinedRequest path proto arg => (Instr.vendorDefinedRequest path proto arg).wf = true
  | .getIdentity => (Instr.getIdentity).wf = true
  | .getState => (Instr.getState).wf = true
  | .getTelemetry => (Instr.getTelemetry).wf = true
  | .getLog fromSeq => (Instr.getLog fromSeq).wf = true
  | .getLifetime => (Instr.getLifetime).wf = true
  | .sliceCopyDone core unreadable spareOk seasonOk => (Instr.sliceCopyDone core unreadable spareOk seasonOk).wf = true ↔ core < 512
  | .staleSpeaker site season => (Instr.staleSpeaker site season).wf = true ↔ site < 544
  | .spareTest site pass => (Instr.spareTest site pass).wf = true ↔ site < 544
  | .mittenWatchdog => (Instr.mittenWatchdog).wf = true
  | .gauntletWatchdog => (Instr.gauntletWatchdog).wf = true
  | .thermalModelUpdate a b p => (Instr.thermalModelUpdate a b p).wf = true
  | .thermalLimiterTick tower => (Instr.thermalLimiterTick tower).wf = true ↔ tower < 2
  | .thermalCapCompute tower => (Instr.thermalCapCompute tower).wf = true ↔ tower < 2
  | .offsetAdjust tower => (Instr.offsetAdjust tower).wf = true ↔ tower < 2
  | .sensorCheck disagree agree => (Instr.sensorCheck disagree agree).wf = true
  | .hostLimiterTick => (Instr.hostLimiterTick).wf = true
  | .almanacForecast tower hotLogic hotF idle => (Instr.almanacForecast tower hotLogic hotF idle).wf = true ↔ tower < 2
  | .imonSample mvA mvB => (Instr.imonSample mvA mvB).wf = true
  | .coolantTimeout => (Instr.coolantTimeout).wf = true
  | .telemetryRefresh rateA rateB => (Instr.telemetryRefresh rateA rateB).wf = true
  | .energyRefresh energies => (Instr.energyRefresh energies).wf = true
  | .lifetimeHourly => (Instr.lifetimeHourly).wf = true
  | .ptmDialogue ok hostTime => (Instr.ptmDialogue ok hostTime).wf = true
  | .vaonApplied => (Instr.vaonApplied).wf = true
  | .pkgRstInput => (Instr.pkgRstInput).wf = true
  | .perst => (Instr.perst).wf = true
  | .bootMgmtDone badImages badCopies => (Instr.bootMgmtDone badImages badCopies).wf = true
  | .bootNetDone answers => (Instr.bootNetDone answers).wf = true
  | .bootMemDone badRows badPcs trained silent => (Instr.bootMemDone badRows badPcs trained silent).wf = true
  | .bootLinkDone badLanes lateEngines trained silent => (Instr.bootLinkDone badLanes lateEngines trained silent).wf = true
  | .bootCoreDone failing badSeasons => (Instr.bootCoreDone failing badSeasons).wf = true
  | .checkDone => (Instr.checkDone).wf = true
  | .bootPhaseLimit answers out => (Instr.bootPhaseLimit answers out).wf = true
  | .powerGoodReturn group => (Instr.powerGoodReturn group).wf = true ↔ group < 5
  | .powerGoodTimeout group => (Instr.powerGoodTimeout group).wf = true ↔ group < 5
  | .powerGoodLost group => (Instr.powerGoodLost group).wf = true ↔ group < 5
  | .vaonLost => (Instr.vaonLost).wf = true
  | .enableRetry => (Instr.enableRetry).wf = true
  | .qctlWriteBusy fn => (Instr.qctlWriteBusy fn).wf = true ↔ fn ≤ 16
  | .dbellConfigWrite fn offset size value => (Instr.dbellConfigWrite fn offset size value).wf = true ↔ fn ≤ 16
  | .logpControlWrite value => (Instr.logpControlWrite value).wf = true
  | .setupLockWrite value => (Instr.setupLockWrite value).wf = true
  | .bwMissClear fn part value => (Instr.bwMissClear fn part value).wf = true ↔ fn ≤ 16 ∧ part < 16
  | .reg64LowRead fn offset => (Instr.reg64LowRead fn offset).wf = true ↔ fn ≤ 16
  | .registerWrite fn offset size value => (Instr.registerWrite fn offset size value).wf = true ↔ fn ≤ 16
  | .lossOfLight port => (Instr.lossOfLight port).wf = true ↔ port < 32
  | .lightDetected port => (Instr.lightDetected port).wf = true ↔ port < 32
  | .laserInputRestored engine => (Instr.laserInputRestored engine).wf = true ↔ engine < 8
  | .guestLinkUp => (Instr.guestLinkUp).wf = true
  | .resetInputRelease input => (Instr.resetInputRelease input).wf = true ↔ input < 5
  | .busMasterEnable fn on => (Instr.busMasterEnable fn on).wf = true ↔ fn ≤ 16
  | .negotiatedWidthChange width => (Instr.negotiatedWidthChange width).wf = true ↔ (width = 1 ∨ width = 2 ∨ width = 4 ∨ width = 8 ∨ width = 16)
  | .laneRecalibration bundle dir lane => (Instr.laneRecalibration bundle dir lane).wf = true ↔ (bundle < 24 ∧ dir < 2) ∧ lane < 68

theorem Bounds.pollingPass (stores : List HostStore) (failing : List (Nat × Nat)) : Bounds.Statement (.pollingPass stores failing) :=
  rfl
theorem Bounds.hotIdleEvict (q : Nat) : Bounds.Statement (.hotIdleEvict q) :=
  below_iff
theorem Bounds.descriptorStart (d : Nat) : Bounds.Statement (.descriptorStart d) :=
  rfl
theorem Bounds.descriptorComplete (d : Nat) : Bounds.Statement (.descriptorComplete d) :=
  rfl
theorem Bounds.irqCoalTimer (q : Nat) : Bounds.Statement (.irqCoalTimer q) :=
  below_iff
theorem Bounds.queueEnable (fn q : Nat) : Bounds.Statement (.queueEnable fn q) :=
  and_iff fnOk_iff below_iff
theorem Bounds.queueDisable (fn q : Nat) : Bounds.Statement (.queueDisable fn q) :=
  and_iff fnOk_iff below_iff
theorem Bounds.queueClear (fn q : Nat) : Bounds.Statement (.queueClear fn q) :=
  and_iff fnOk_iff below_iff
theorem Bounds.queueDrainDone (q : Nat) : Bounds.Statement (.queueDrainDone q) :=
  below_iff
theorem Bounds.aqEnable : Bounds.Statement (.aqEnable) :=
  rfl
theorem Bounds.aqDisable : Bounds.Statement (.aqDisable) :=
  rfl
theorem Bounds.vfFlr (vf : Nat) : Bounds.Statement (.vfFlr vf) :=
  and_iff fnOk_iff posOk_iff
theorem Bounds.pf0Flr : Bounds.Statement (.pf0Flr) :=
  rfl
theorem Bounds.identify (d : Nat) : Bounds.Statement (.identify d) :=
  rfl
theorem Bounds.vfBind (d : Nat) : Bounds.Statement (.vfBind d) :=
  rfl
theorem Bounds.vfUnbind (d : Nat) : Bounds.Statement (.vfUnbind d) :=
  rfl
theorem Bounds.vfUnbindDone (vf : Nat) : Bounds.Statement (.vfUnbindDone vf) :=
  and_iff fnOk_iff posOk_iff
theorem Bounds.eventWait (d : Nat) : Bounds.Statement (.eventWait d) :=
  rfl
theorem Bounds.partCreate (d : Nat) : Bounds.Statement (.partCreate d) :=
  rfl
theorem Bounds.partDestroy (d : Nat) : Bounds.Statement (.partDestroy d) :=
  rfl
theorem Bounds.partReset (d : Nat) : Bounds.Statement (.partReset d) :=
  rfl
theorem Bounds.partState (d : Nat) : Bounds.Statement (.partState d) :=
  rfl
theorem Bounds.partStateDone (p : Nat) : Bounds.Statement (.partStateDone p) :=
  below_iff
theorem Bounds.pkgState (d : Nat) : Bounds.Statement (.pkgState d) :=
  rfl
theorem Bounds.levelSlewDone : Bounds.Statement (.levelSlewDone) :=
  rfl
theorem Bounds.readyDrainTimeout : Bounds.Statement (.readyDrainTimeout) :=
  rfl
theorem Bounds.powerCap (d : Nat) : Bounds.Statement (.powerCap d) :=
  rfl
theorem Bounds.tripAck (d : Nat) : Bounds.Statement (.tripAck d) :=
  rfl
theorem Bounds.bwRegister (d : Nat) : Bounds.Statement (.bwRegister d) :=
  rfl
theorem Bounds.bwRelease (d : Nat) : Bounds.Statement (.bwRelease d) :=
  rfl
theorem Bounds.bwMonitor (d : Nat) : Bounds.Statement (.bwMonitor d) :=
  rfl
theorem Bounds.store (d : Nat) (badReadback : List Nat) : Bounds.Statement (.store d badReadback) :=
  rfl
theorem Bounds.settingWrite (d : Nat) : Bounds.Statement (.settingWrite d) :=
  rfl
theorem Bounds.settingRead (d : Nat) : Bounds.Statement (.settingRead d) :=
  rfl
theorem Bounds.ownerMsgClaim (d : Nat) (commitOk : Bool) : Bounds.Statement (.ownerMsgClaim d commitOk) :=
  rfl
theorem Bounds.ownerMsgPolicy (d : Nat) (commitOk : Bool) : Bounds.Statement (.ownerMsgPolicy d commitOk) :=
  rfl
theorem Bounds.ownerMsgPairing (d : Nat) (commitOk : Bool) : Bounds.Statement (.ownerMsgPairing d commitOk) :=
  rfl
theorem Bounds.ownerMsgDebug (d : Nat) (commitOk : Bool) : Bounds.Statement (.ownerMsgDebug d commitOk) :=
  rfl
theorem Bounds.ownerMsgKeyRelease (d : Nat) : Bounds.Statement (.ownerMsgKeyRelease d) :=
  rfl
theorem Bounds.debugEntered : Bounds.Statement (.debugEntered) :=
  rfl
theorem Bounds.zeroFillDone (p : Nat) : Bounds.Statement (.zeroFillDone p) :=
  below_iff
theorem Bounds.fwStage (d : Nat) : Bounds.Statement (.fwStage d) :=
  rfl
theorem Bounds.fwActivate (d : Nat) : Bounds.Statement (.fwActivate d) :=
  rfl
theorem Bounds.liveActivationCheck (refreshed : Bool) : Bounds.Statement (.liveActivationCheck refreshed) :=
  rfl
theorem Bounds.topoRead (d : Nat) : Bounds.Statement (.topoRead d) :=
  rfl
theorem Bounds.topoAccept (d : Nat) (readbackOk : Bool) : Bounds.Statement (.topoAccept d readbackOk) :=
  rfl
theorem Bounds.reset (d : Nat) : Bounds.Statement (.reset d) :=
  rfl
theorem Bounds.holidayGrant (d : Nat) : Bounds.Statement (.holidayGrant d) :=
  rfl
theorem Bounds.holidayExpire : Bounds.Statement (.holidayExpire) :=
  rfl
theorem Bounds.selftest (d : Nat) : Bounds.Statement (.selftest d) :=
  rfl
theorem Bounds.calibrate (d : Nat) : Bounds.Statement (.calibrate d) :=
  rfl
theorem Bounds.testDone (v : TestVerdict) : Bounds.Statement (.testDone v) :=
  rfl
theorem Bounds.retirePage (d : Nat) : Bounds.Statement (.retirePage d) :=
  rfl
theorem Bounds.retireBank (d : Nat) : Bounds.Statement (.retireBank d) :=
  rfl
theorem Bounds.retireMoveDone (target : Nat) : Bounds.Statement (.retireMoveDone target) :=
  rfl
theorem Bounds.snapArm (d : Nat) : Bounds.Statement (.snapArm d) :=
  rfl
theorem Bounds.snapTrigger (d : Nat) : Bounds.Statement (.snapTrigger d) :=
  rfl
theorem Bounds.equinoxInput : Bounds.Statement (.equinoxInput) :=
  rfl
theorem Bounds.snapRead (d : Nat) : Bounds.Statement (.snapRead d) :=
  rfl
theorem Bounds.copy (d : Nat) : Bounds.Statement (.copy d) :=
  rfl
theorem Bounds.fill (d : Nat) : Bounds.Statement (.fill d) :=
  rfl
theorem Bounds.toHost (d : Nat) : Bounds.Statement (.toHost d) :=
  rfl
theorem Bounds.fromHost (d : Nat) : Bounds.Statement (.fromHost d) :=
  rfl
theorem Bounds.map (d : Nat) : Bounds.Statement (.map d) :=
  rfl
theorem Bounds.unmap (d : Nat) : Bounds.Statement (.unmap d) :=
  rfl
theorem Bounds.tpoolAdd (d : Nat) : Bounds.Statement (.tpoolAdd d) :=
  rfl
theorem Bounds.matmul (d : Nat) (w : Work) : Bounds.Statement (.matmul d w) :=
  rfl
theorem Bounds.conv1d (d : Nat) (w : Work) : Bounds.Statement (.conv1d d w) :=
  rfl
theorem Bounds.conv2d (d : Nat) (w : Work) : Bounds.Statement (.conv2d d w) :=
  rfl
theorem Bounds.laneModeChange (core : Nat) : Bounds.Statement (.laneModeChange core) :=
  below_iff
theorem Bounds.chain (d : Nat) (w : Work) : Bounds.Statement (.chain d w) :=
  rfl
theorem Bounds.softmax (d : Nat) (w : Work) : Bounds.Statement (.softmax d w) :=
  rfl
theorem Bounds.sample (d : Nat) (w : Work) : Bounds.Statement (.sample d w) :=
  rfl
theorem Bounds.attend (d : Nat) (w : Work) : Bounds.Statement (.attend d w) :=
  rfl
theorem Bounds.poolRestart (d : Nat) : Bounds.Statement (.poolRestart d) :=
  rfl
theorem Bounds.nearList (d : Nat) : Bounds.Statement (.nearList d) :=
  rfl
theorem Bounds.acc (d : Nat) : Bounds.Statement (.acc d) :=
  rfl
theorem Bounds.orderedStagingGrant (stack : Nat) : Bounds.Statement (.orderedStagingGrant stack) :=
  below_iff
theorem Bounds.windowOpen (stack pc group : Nat) (d : Nat) : Bounds.Statement (.windowOpen stack pc group d) :=
  and_iff (and_iff below_iff below_iff) below_iff
theorem Bounds.windowClose (stack pc group : Nat) (x : WindowWork) : Bounds.Statement (.windowClose stack pc group x) :=
  and_iff (and_iff below_iff below_iff) below_iff
theorem Bounds.windowCut (stack pc group : Nat) (x : WindowWork) : Bounds.Statement (.windowCut stack pc group x) :=
  and_iff (and_iff below_iff below_iff) below_iff
theorem Bounds.bankGroupRefresh (stack pc group : Nat) : Bounds.Statement (.bankGroupRefresh stack pc group) :=
  and_iff (and_iff below_iff below_iff) below_iff
theorem Bounds.rotaBind (d : Nat) : Bounds.Statement (.rotaBind d) :=
  rfl
theorem Bounds.rotaUnbind (d : Nat) : Bounds.Statement (.rotaUnbind d) :=
  rfl
theorem Bounds.run (d : Nat) : Bounds.Statement (.run d) :=
  rfl
theorem Bounds.stepRelease (d : Nat) : Bounds.Statement (.stepRelease d) :=
  rfl
theorem Bounds.rotaEntryDispatch (d : Nat) : Bounds.Statement (.rotaEntryDispatch d) :=
  rfl
theorem Bounds.stepCommit (d : Nat) (energyA energyB duration : Nat) : Bounds.Statement (.stepCommit d energyA energyB duration) :=
  rfl
theorem Bounds.trickleCfg (d : Nat) : Bounds.Statement (.trickleCfg d) :=
  rfl
theorem Bounds.trickleSave (d : Nat) : Bounds.Statement (.trickleSave d) :=
  rfl
theorem Bounds.trickleResume (d : Nat) : Bounds.Statement (.trickleResume d) :=
  rfl
theorem Bounds.trickleTimeout (d : Nat) : Bounds.Statement (.trickleTimeout d) :=
  rfl
theorem Bounds.seqOpen (d : Nat) : Bounds.Statement (.seqOpen d) :=
  rfl
theorem Bounds.seqClose (d : Nat) : Bounds.Statement (.seqClose d) :=
  rfl
theorem Bounds.seqFork (d : Nat) : Bounds.Statement (.seqFork d) :=
  rfl
theorem Bounds.seqRead (d : Nat) : Bounds.Statement (.seqRead d) :=
  rfl
theorem Bounds.kvHeldResume (slot : Nat) : Bounds.Statement (.kvHeldResume slot) :=
  below_iff
theorem Bounds.poolConfig (d : Nat) : Bounds.Statement (.poolConfig d) :=
  rfl
theorem Bounds.poolAdd (d : Nat) : Bounds.Statement (.poolAdd d) :=
  rfl
theorem Bounds.swapOut (d : Nat) : Bounds.Statement (.swapOut d) :=
  rfl
theorem Bounds.swapOutDone (slot : Nat) : Bounds.Statement (.swapOutDone slot) :=
  below_iff
theorem Bounds.swapIn (d : Nat) : Bounds.Statement (.swapIn d) :=
  rfl
theorem Bounds.swapInDone (slot : Nat) : Bounds.Statement (.swapInDone slot) :=
  below_iff
theorem Bounds.syncNop (d : Nat) : Bounds.Statement (.syncNop d) :=
  rfl
theorem Bounds.syncAdd (d : Nat) : Bounds.Statement (.syncAdd d) :=
  rfl
theorem Bounds.syncWaitAll (d : Nat) : Bounds.Statement (.syncWaitAll d) :=
  rfl
theorem Bounds.syncPair (d : Nat) : Bounds.Statement (.syncPair d) :=
  rfl
theorem Bounds.syncUnpair (d : Nat) : Bounds.Statement (.syncUnpair d) :=
  rfl
theorem Bounds.syncRead (d : Nat) : Bounds.Statement (.syncRead d) :=
  rfl
theorem Bounds.signalAdd (p c n : Nat) : Bounds.Statement (.signalAdd p c n) :=
  and_iff below_iff below_iff
theorem Bounds.remoteRead (d : Nat) : Bounds.Statement (.remoteRead d) :=
  rfl
theorem Bounds.remoteWrite (d : Nat) : Bounds.Statement (.remoteWrite d) :=
  rfl
theorem Bounds.remoteAtomic (d : Nat) : Bounds.Statement (.remoteAtomic d) :=
  rfl
theorem Bounds.remoteSignal (d : Nat) : Bounds.Statement (.remoteSignal d) :=
  rfl
theorem Bounds.winExport (d : Nat) : Bounds.Statement (.winExport d) :=
  rfl
theorem Bounds.winUnexport (d : Nat) : Bounds.Statement (.winUnexport d) :=
  rfl
theorem Bounds.winUnexportDone (d : Nat) : Bounds.Statement (.winUnexportDone d) :=
  rfl
theorem Bounds.winImport (d : Nat) : Bounds.Statement (.winImport d) :=
  rfl
theorem Bounds.winUnimport (d : Nat) : Bounds.Statement (.winUnimport d) :=
  rfl
theorem Bounds.sealIn (d : Nat) : Bounds.Statement (.sealIn d) :=
  rfl
theorem Bounds.sealOut (d : Nat) : Bounds.Statement (.sealOut d) :=
  rfl
theorem Bounds.kat (d : Nat) (failing : List Nat) : Bounds.Statement (.kat d failing) :=
  rfl
theorem Bounds.repairRead (d : Nat) : Bounds.Statement (.repairRead d) :=
  rfl
theorem Bounds.rowRemap (d : Nat) : Bounds.Statement (.rowRemap d) :=
  rfl
theorem Bounds.ppr (d : Nat) (fuseOk : Bool) : Bounds.Statement (.ppr d fuseOk) :=
  rfl
theorem Bounds.tap (d : Nat) : Bounds.Statement (.tap d) :=
  rfl
theorem Bounds.engineCtrl (d : Nat) : Bounds.Statement (.engineCtrl d) :=
  rfl
theorem Bounds.arrayRead (d : Nat) (found : List (Nat × EccFinding)) : Bounds.Statement (.arrayRead d found) :=
  rfl
theorem Bounds.scanDump (d : Nat) : Bounds.Statement (.scanDump d) :=
  rfl
theorem Bounds.memoryAccess (r : MemReq) : Bounds.Statement (.memoryAccess r) :=
  rfl
theorem Bounds.scrubRead (pa : Nat) (found : EccFinding) : Bounds.Statement (.scrubRead pa found) :=
  rfl
theorem Bounds.scrubLag : Bounds.Statement (.scrubLag) :=
  rfl
theorem Bounds.ceLeak : Bounds.Statement (.ceLeak) :=
  rfl
theorem Bounds.grantReturn (port cls res : Nat) : Bounds.Statement (.grantReturn port cls res) :=
  and_iff (and_iff below_iff below_iff) resOk_iff
theorem Bounds.heldRequestRelease (res : Nat) : Bounds.Statement (.heldRequestRelease res) :=
  resOk_iff
theorem Bounds.prefetchDrop (req : Nat) : Bounds.Statement (.prefetchDrop req) :=
  rfl
theorem Bounds.requestDeadlinePass (req : Nat) : Bounds.Statement (.requestDeadlinePass req) :=
  rfl
theorem Bounds.capacityRecompute (res : Nat) : Bounds.Statement (.capacityRecompute res) :=
  resOk_iff
theorem Bounds.missInterval (waited : List (Nat × Nat)) : Bounds.Statement (.missInterval waited) :=
  rfl
theorem Bounds.guaranteeMissedWindow (handle : Nat) : Bounds.Statement (.guaranteeMissedWindow handle) :=
  rfl
theorem Bounds.frameReceive (bundle dir : Nat) (f : Frame) : Bounds.Statement (.frameReceive bundle dir f) :=
  and_iff below_iff below_iff
theorem Bounds.laneRetire (bundle dir lane : Nat) : Bounds.Statement (.laneRetire bundle dir lane) :=
  and_iff (and_iff below_iff below_iff) below_iff
theorem Bounds.liningMessage (link : Nat) (seq prio : Nat) (crcOk : Bool) (payload : List Byte) : Bounds.Statement (.liningMessage link seq prio crcOk payload) :=
  below_iff
theorem Bounds.dieLost (die : Nat) : Bounds.Statement (.dieLost die) :=
  below_iff
theorem Bounds.dieResetInput (die : Nat) : Bounds.Statement (.dieResetInput die) :=
  below_iff
theorem Bounds.dieBack (die : Nat) (failing badSeasons : List Nat) : Bounds.Statement (.dieBack die failing badSeasons) :=
  below_iff
theorem Bounds.refclkLost (tower : Nat) : Bounds.Statement (.refclkLost tower) :=
  below_iff
theorem Bounds.refclkRestored (tower : Nat) : Bounds.Statement (.refclkRestored tower) :=
  below_iff
theorem Bounds.cuffRead (tag window offset len : Nat) : Bounds.Statement (.cuffRead tag window offset len) :=
  below_iff
theorem Bounds.cuffWrite (tag window offset : Nat) (data : List Byte) : Bounds.Statement (.cuffWrite tag window offset data) :=
  below_iff
theorem Bounds.cuffSignal (tag slot inc : Nat) : Bounds.Statement (.cuffSignal tag slot inc) :=
  below_iff
theorem Bounds.cuffCread (tag slot : Nat) : Bounds.Statement (.cuffCread tag slot) :=
  below_iff
theorem Bounds.cuffWatch (tag slot target : Nat) : Bounds.Statement (.cuffWatch tag slot target) :=
  below_iff
theorem Bounds.guestLinkDown : Bounds.Statement (.guestLinkDown) :=
  rfl
theorem Bounds.flitReceive (port : Nat) (f : Flit) : Bounds.Statement (.flitReceive port f) :=
  below_iff
theorem Bounds.portTrainTimeout (port : Nat) : Bounds.Statement (.portTrainTimeout port) :=
  below_iff
theorem Bounds.portTrainDone (port : Nat) : Bounds.Statement (.portTrainDone port) :=
  below_iff
theorem Bounds.hello (port version hash farPort nonce : Nat) : Bounds.Statement (.hello port version hash farPort nonce) :=
  below_iff
theorem Bounds.auth (port : Nat) (chain sig : List Byte) (ecdh : Nat) : Bounds.Statement (.auth port chain sig ecdh) :=
  below_iff
theorem Bounds.topo (port hash farPort ownerHash pkgState waves : Nat) : Bounds.Statement (.topo port hash farPort ownerHash pkgState waves) :=
  below_iff
theorem Bounds.keyReplace (port dir : Nat) : Bounds.Statement (.keyReplace port dir) :=
  and_iff below_iff below_iff
theorem Bounds.ringRecalibrate (port line : Nat) (ringOk : Bool) : Bounds.Statement (.ringRecalibrate port line ringOk) :=
  and_iff below_iff below_iff
theorem Bounds.laserLineLow (engine line : Nat) : Bounds.Statement (.laserLineLow engine line) :=
  and_iff below_iff below_iff
theorem Bounds.laserLineRestored (engine line : Nat) : Bounds.Statement (.laserLineRestored engine line) :=
  and_iff below_iff below_iff
theorem Bounds.laserLost (engine : Nat) : Bounds.Statement (.laserLost engine) :=
  below_iff
theorem Bounds.wavelengthRetire (port wave : Nat) : Bounds.Statement (.wavelengthRetire port wave) :=
  and_iff below_iff below_iff
theorem Bounds.rd (port : Nat) (m : RemMsg) : Bounds.Statement (.rd port m) :=
  below_iff
theorem Bounds.rdData (port : Nat) (m : RemMsg) : Bounds.Statement (.rdData port m) :=
  below_iff
theorem Bounds.wr (port : Nat) (m : RemMsg) : Bounds.Statement (.wr port m) :=
  below_iff
theorem Bounds.wrAck (port : Nat) (m : RemMsg) : Bounds.Statement (.wrAck port m) :=
  below_iff
theorem Bounds.atom (port : Nat) (m : RemMsg) : Bounds.Statement (.atom port m) :=
  below_iff
theorem Bounds.atomAck (port : Nat) (m : RemMsg) : Bounds.Statement (.atomAck port m) :=
  below_iff
theorem Bounds.sig (port : Nat) (m : RemMsg) : Bounds.Statement (.sig port m) :=
  below_iff
theorem Bounds.sigAck (port : Nat) (m : RemMsg) : Bounds.Statement (.sigAck port m) :=
  below_iff
theorem Bounds.impQ (port : Nat) (m : RemMsg) : Bounds.Statement (.impQ port m) :=
  below_iff
theorem Bounds.impR (port : Nat) (m : RemMsg) : Bounds.Statement (.impR port m) :=
  below_iff
theorem Bounds.rdResend (req : Nat) : Bounds.Statement (.rdResend req) :=
  rfl
theorem Bounds.remoteRetry (req : Nat) : Bounds.Statement (.remoteRetry req) :=
  rfl
theorem Bounds.neighbourLost (hash : Nat) : Bounds.Statement (.neighbourLost hash) :=
  rfl
theorem Bounds.tdiLeaveRun (vf : Nat) : Bounds.Statement (.tdiLeaveRun vf) :=
  and_iff fnOk_iff posOk_iff
theorem Bounds.getVersion (path : Nat) : Bounds.Statement (.getVersion path) :=
  rfl
theorem Bounds.getCapabilities (path : Nat) (caps : List Byte) : Bounds.Statement (.getCapabilities path caps) :=
  rfl
theorem Bounds.negotiateAlgorithms (path : Nat) (ecdsa384 sha384 secp384 aes256 : Bool) : Bounds.Statement (.negotiateAlgorithms path ecdsa384 sha384 secp384 aes256) :=
  rfl
theorem Bounds.getDigests (path : Nat) : Bounds.Statement (.getDigests path) :=
  rfl
theorem Bounds.getCertificate (path slot offset len : Nat) : Bounds.Statement (.getCertificate path slot offset len) :=
  rfl
theorem Bounds.challenge (path slot : Nat) (nonce : List Byte) : Bounds.Statement (.challenge path slot nonce) :=
  rfl
theorem Bounds.getMeasurements (path index : Nat) (sign : Bool) (nonce : List Byte) : Bounds.Statement (.getMeasurements path index sign nonce) :=
  rfl
theorem Bounds.keyExchange (path : Nat) (exchange : List Byte) : Bounds.Statement (.keyExchange path exchange) :=
  rfl
theorem Bounds.finish (path : Nat) (sig mac : List Byte) : Bounds.Statement (.finish path sig mac) :=
  rfl
theorem Bounds.keyUpdate (path : Nat) : Bounds.Statement (.keyUpdate path) :=
  rfl
theorem Bounds.heartbeat (path : Nat) : Bounds.Statement (.heartbeat path) :=
  rfl
theorem Bounds.endSession (path : Nat) : Bounds.Statement (.endSession path) :=
  rfl
theorem Bounds.vendorDefinedRequest (path proto arg : Nat) : Bounds.Statement (.vendorDefinedRequest path proto arg) :=
  rfl
theorem Bounds.getIdentity : Bounds.Statement (.getIdentity) :=
  rfl
theorem Bounds.getState : Bounds.Statement (.getState) :=
  rfl
theorem Bounds.getTelemetry : Bounds.Statement (.getTelemetry) :=
  rfl
theorem Bounds.getLog (fromSeq : Nat) : Bounds.Statement (.getLog fromSeq) :=
  rfl
theorem Bounds.getLifetime : Bounds.Statement (.getLifetime) :=
  rfl
theorem Bounds.sliceCopyDone (core : Nat) (unreadable : List Nat) (spareOk seasonOk : Bool) : Bounds.Statement (.sliceCopyDone core unreadable spareOk seasonOk) :=
  below_iff
theorem Bounds.staleSpeaker (site season : Nat) : Bounds.Statement (.staleSpeaker site season) :=
  below_iff
theorem Bounds.spareTest (site : Nat) (pass : Bool) : Bounds.Statement (.spareTest site pass) :=
  below_iff
theorem Bounds.mittenWatchdog : Bounds.Statement (.mittenWatchdog) :=
  rfl
theorem Bounds.gauntletWatchdog : Bounds.Statement (.gauntletWatchdog) :=
  rfl
theorem Bounds.thermalModelUpdate (a b : TowerInput) (p : PkgReading) : Bounds.Statement (.thermalModelUpdate a b p) :=
  rfl
theorem Bounds.thermalLimiterTick (tower : Nat) : Bounds.Statement (.thermalLimiterTick tower) :=
  below_iff
theorem Bounds.thermalCapCompute (tower : Nat) : Bounds.Statement (.thermalCapCompute tower) :=
  below_iff
theorem Bounds.offsetAdjust (tower : Nat) : Bounds.Statement (.offsetAdjust tower) :=
  below_iff
theorem Bounds.sensorCheck (disagree agree : List Nat) : Bounds.Statement (.sensorCheck disagree agree) :=
  rfl
theorem Bounds.hostLimiterTick : Bounds.Statement (.hostLimiterTick) :=
  rfl
theorem Bounds.almanacForecast (tower : Nat) (hotLogic hotF : Int) (idle : Nat) : Bounds.Statement (.almanacForecast tower hotLogic hotF idle) :=
  below_iff
theorem Bounds.imonSample (mvA mvB : Nat) : Bounds.Statement (.imonSample mvA mvB) :=
  rfl
theorem Bounds.coolantTimeout : Bounds.Statement (.coolantTimeout) :=
  rfl
theorem Bounds.telemetryRefresh (rateA rateB : Nat) : Bounds.Statement (.telemetryRefresh rateA rateB) :=
  rfl
theorem Bounds.energyRefresh (energies : List (Nat × Nat × Nat)) : Bounds.Statement (.energyRefresh energies) :=
  rfl
theorem Bounds.lifetimeHourly : Bounds.Statement (.lifetimeHourly) :=
  rfl
theorem Bounds.ptmDialogue (ok : Bool) (hostTime : Nat) : Bounds.Statement (.ptmDialogue ok hostTime) :=
  rfl
theorem Bounds.vaonApplied : Bounds.Statement (.vaonApplied) :=
  rfl
theorem Bounds.pkgRstInput : Bounds.Statement (.pkgRstInput) :=
  rfl
theorem Bounds.perst : Bounds.Statement (.perst) :=
  rfl
theorem Bounds.bootMgmtDone (badImages : List (Nat × Nat)) (badCopies : List (Nat × Nat)) : Bounds.Statement (.bootMgmtDone badImages badCopies) :=
  rfl
theorem Bounds.bootNetDone (answers : List (Nat × DieAnswer)) : Bounds.Statement (.bootNetDone answers) :=
  rfl
theorem Bounds.bootMemDone (badRows : List (Nat × Nat)) (badPcs : List (Nat × Nat)) (trained : List (Nat × List Byte)) (silent : Nat) : Bounds.Statement (.bootMemDone badRows badPcs trained silent) :=
  rfl
theorem Bounds.bootLinkDone (badLanes : List (Nat × Nat × Nat)) (lateEngines : List Nat) (trained : List (Nat × List Byte)) (silent : Nat) : Bounds.Statement (.bootLinkDone badLanes lateEngines trained silent) :=
  rfl
theorem Bounds.bootCoreDone (failing badSeasons : List Nat) : Bounds.Statement (.bootCoreDone failing badSeasons) :=
  rfl
theorem Bounds.checkDone : Bounds.Statement (.checkDone) :=
  rfl
theorem Bounds.bootPhaseLimit (answers : List (Nat × DieAnswer)) (out : List Nat) : Bounds.Statement (.bootPhaseLimit answers out) :=
  rfl
theorem Bounds.powerGoodReturn (group : Nat) : Bounds.Statement (.powerGoodReturn group) :=
  below_iff
theorem Bounds.powerGoodTimeout (group : Nat) : Bounds.Statement (.powerGoodTimeout group) :=
  below_iff
theorem Bounds.powerGoodLost (group : Nat) : Bounds.Statement (.powerGoodLost group) :=
  below_iff
theorem Bounds.vaonLost : Bounds.Statement (.vaonLost) :=
  rfl
theorem Bounds.enableRetry : Bounds.Statement (.enableRetry) :=
  rfl
theorem Bounds.qctlWriteBusy (fn : Nat) : Bounds.Statement (.qctlWriteBusy fn) :=
  fnOk_iff
theorem Bounds.dbellConfigWrite (fn offset size value : Nat) : Bounds.Statement (.dbellConfigWrite fn offset size value) :=
  fnOk_iff
theorem Bounds.logpControlWrite (value : Nat) : Bounds.Statement (.logpControlWrite value) :=
  rfl
theorem Bounds.setupLockWrite (value : Nat) : Bounds.Statement (.setupLockWrite value) :=
  rfl
theorem Bounds.bwMissClear (fn part value : Nat) : Bounds.Statement (.bwMissClear fn part value) :=
  and_iff fnOk_iff below_iff
theorem Bounds.reg64LowRead (fn offset : Nat) : Bounds.Statement (.reg64LowRead fn offset) :=
  fnOk_iff
theorem Bounds.registerWrite (fn offset size value : Nat) : Bounds.Statement (.registerWrite fn offset size value) :=
  fnOk_iff
theorem Bounds.lossOfLight (port : Nat) : Bounds.Statement (.lossOfLight port) :=
  below_iff
theorem Bounds.lightDetected (port : Nat) : Bounds.Statement (.lightDetected port) :=
  below_iff
theorem Bounds.laserInputRestored (engine : Nat) : Bounds.Statement (.laserInputRestored engine) :=
  below_iff
theorem Bounds.guestLinkUp : Bounds.Statement (.guestLinkUp) :=
  rfl
theorem Bounds.resetInputRelease (input : Nat) : Bounds.Statement (.resetInputRelease input) :=
  below_iff
theorem Bounds.busMasterEnable (fn : Nat) (on : Bool) : Bounds.Statement (.busMasterEnable fn on) :=
  fnOk_iff
theorem Bounds.negotiatedWidthChange (width : Nat) : Bounds.Statement (.negotiatedWidthChange width) :=
  widthOk_iff
theorem Bounds.laneRecalibration (bundle dir lane : Nat) : Bounds.Statement (.laneRecalibration bundle dir lane) :=
  and_iff (and_iff below_iff below_iff) below_iff

end Sys2Proof.Laws
end

