-- ==== Sys2Proof/Tests/Slice0.lean ====
section
/-! SUPPORT. The package's own tests: a term that each well-formedness check refuses, single steps on small states, and for
every statement with hypotheses a state and operands that meet them all. -/

namespace Sys2Proof.Machine

/-- A descriptor's words: its opcode, and values put at byte offsets. -/
def words (op : Nat) (l : List (Nat × Nat)) : List Nat :=
  (List.range 8).map fun i => l.foldl (fun a e => if e.1 / 8 = i then a + e.2 * 2 ^ (8 * (e.1 % 8)) else a)
    (if i = 0 then op else 0)

/-- A started descriptor of queue 1 and partition 0, no slot named. -/
def running (op : Nat) (l : List (Nat × Nat)) : Flight :=
  { q := 1, part := 0, words := words op ((14, 0xFFFF) :: l), phase := .started }

/-- A started admin command. -/
def admin (op : Nat) (l : List (Nat × Nat)) : Flight :=
  { q := 0, part := 0xFF, words := words op ((14, 0xFFFF) :: l), phase := .started }

/-- The package in RUN with partition 0 ONLINE, holding the first row, both slots 0 and 1, and core 0 bound. -/
def sRun : State :=
  { State.reset with
    mgmt := { State.reset.mgmt with phase := .ended }
    pwr := { pkg := .run, level := 3, enabled := [0, 1, 2, 3, 4], good := [0, 1, 2, 3, 4] }
    parts := [(0, { st := .online, rows := 1, firstSlot := 0, slotCount := 2 })]
    flt := { bindings := [(0, { column := some 0 })] } }

/-- The same with one descriptor held as number 0. -/
def sHeld (f : Flight) : State := { sRun with qe := { flights := [(0, f)], nextFlight := 1 } }

/-- Page tables that map the 8 MiB from virtual address 2^46 to the stack address 2^38 + 2^23, writable: the root, a table of
level 2 and one of level 1. -/
def sMem (s : State) : State :=
  { s with mem := { s.mem with
    bytes := mwriteN (mwriteN [] (2 ^ 38 + 8 * levelIdx (2 ^ 46) 2) (toLe 8 (mkTable (2 ^ 38 + 8192))))
      (2 ^ 38 + 8192 + 8 * levelIdx (2 ^ 46) 1) (toLe 8 (mkLeaf (2 ^ 38 + 2 ^ 23) true false false))
    roots := [(2 ^ 46 / 2 ^ 43 % 32, mkTable (2 ^ 38))]
    tableTag := [2 ^ 38 / 8192, 2 ^ 38 / 8192 + 1]
    grainOwner := [(0, 0)] } }

/-- PF0's queue table and doorbell area set up, with an entry for queue 1: rings of 16 slots, partition 0. -/
def entry1 : List Byte :=
  ofWords (words 0 [(0, 0x10000), (8, 0x20000), (16, 0x30000), (24, 4), (25, 4), (27, 0xFF), (30, 1), (34, 1)])
def q1 (st : QState) : QCtx :=
  { st := st, sqBase := 0x10000, cqBase := 0x20000, rcb := 0x30000, sqLog2 := 4, cqLog2 := 4, classMask := 0xFF
    coalCount := 1 }
def sQueue (st : QState) : State :=
  { sRun with
    host := mwriteN [] 0x1040 entry1
    qe := { fns := [(0, { qtValid := true, qtBase := 0x1000, dbValid := true, dbBase := 0x4000, bme := true })]
            ctx := [(1, q1 st)] } }

/-- Bytes put in the memory that sMem maps, each at an offset from virtual address 2^46. -/
def sPut (l : List (Nat × List Byte)) (s : State) : State :=
  l.foldl (fun t e => pwrite t (2 ^ 38 + 2 ^ 23 + e.1) e.2) (sMem s)
/-- The record of a tensor without scales, at an offset from 2^46, of rank 1 to 5 with strides. -/
def recordOf (off fmt : Nat) (ext str : List Nat) : List Byte :=
  toLe 8 (2 ^ 46 + off) ++ toLe 8 0 ++ toLe 1 fmt ++ toLe 1 ext.length ++ toLe 2 0
    ++ (List.range 5).flatMap (fun i => toLe 4 (ext.getD i 0)) ++ (List.range 4).flatMap fun i => toLe 6 (str.getD i 0)
/-- The tensor that such a record names. -/
def tensorOf (off fmt : Nat) (ext str : List Nat) : Tensor :=
  { base := 2 ^ 46 + off, scale := 0, fmt := fmt, hint := 0, place := 0, ext := ext, str := str }
/-- The same memory with one descriptor held as number 0. -/
def sWork (l : List (Nat × List Byte)) (f : Flight) : State :=
  { sPut l sRun with qe := { flights := [(0, f)], nextFlight := 1 } }
/-- The value of a result, where it is one. -/
def okOf (x : Except Stop State) : State := match x with | .ok v => v | .error _ => State.reset
theorem ok_met {x : Except Stop State} (h : (match x with | .ok _ => true | .error _ => false) = true) : x = .ok (okOf x) := by
  cases x with
  | ok v => rfl
  | error e => cases h
theorem is_met {α : Type} [DecidableEq α] {x : Except Stop α} {a : α}
    (h : (match x with | .ok b => decide (b = a) | .error _ => false) = true) : x = .ok a := by
  cases x with
  | ok v => rw [of_decide_eq_true h]
  | error e => cases h
def valOf {α : Type} (a : α) (x : Option α) : α := match x with | some v => v | none => a
theorem some_met {α : Type} (a : α) {x : Option α} (h : x.isSome = true) : x = some (valOf a x) := by
  cases x with
  | some v => rfl
  | none => cases h

/-- A host buffer that can be read gives the bytes written to it. -/
theorem hread_wrote (s : State) (m : Tbl Byte) (a n : Nat) (bs : List Byte) (hm : s.host = mwriteN m a bs) (h : hostBad s a n = false)
    (hn : bs.length = n) : hread s a n = some bs := by
  unfold hread; rw [h, hm, ← hn, mreadN_mwriteN]; rfl
/-- A field of the first of two lists. -/
theorem fld_left (hd t : List Byte) (o n : Nat) (h : o + n ≤ hd.length) : fld (hd ++ t) o n = fld hd o n := by
  unfold fld
  rw [List.drop_append_of_le_length (by omega), List.take_append_of_le_length (by rw [List.length_drop]; omega)]
theorem zeroAt_left (hd t : List Byte) (o n : Nat) (h : o + n ≤ hd.length) : zeroAt (hd ++ t) o n = zeroAt hd o n := by
  unfold zeroAt
  rw [List.drop_append_of_le_length (by omega), List.take_append_of_le_length (by rw [List.length_drop]; omega)]
/-- An owner message of a header, a body and its signatures parses to its body. -/
theorem parse_met (hd body tail : List Byte) (buf kind : Nat) (h1 : hd.length = 0x40) (h2 : tail.length = sigBytes)
    (h : fld hd 4 4 = body.length ∧ fld hd 0 1 = kind ∧ 1 ≤ kind ∧ kind ≤ 5 ∧ fld hd 1 1 = 1 ∧ zeroAt hd 2 2 = true ∧ zeroAt hd 0x20 32 = true) :
    parseOwner (hd ++ (body ++ tail)) buf kind = some { buf := buf, all := hd ++ (body ++ tail), seq := fld hd 8 8, body := body } := by
  obtain ⟨a1, a2, a3, a4, a5, a6, a7⟩ := h
  unfold parseOwner
  dsimp only
  rw [fld_left _ _ 4 4 (by omega), fld_left _ _ 8 8 (by omega), fld_left _ _ 0 1 (by omega), fld_left _ _ 1 1 (by omega),
    zeroAt_left _ _ 2 2 (by omega), zeroAt_left _ _ 0x20 32 (by omega), a1]
  rw [if_pos ⟨by simp only [List.length_append]; omega, a2, a3, a4, a5, a6, a7⟩]
  rw [List.drop_left' h1, List.take_left' rfl]

/-- The one bound core of partition 0. -/
theorem boundCores_sRun : boundCores sRun 0 = [0] := by decide +kernel
theorem coreSet_met {s : State} (h : boundCores s 0 = [0]) : coreSet s 0 0 0 = [0] ∧ coreRangeOk s 0 0 0 = true := by
  have e : coreSet s 0 0 0 = [0] := by unfold coreSet; rw [h]; rfl
  refine ⟨e, ?_⟩
  unfold coreRangeOk
  rw [e, h]
  rfl
end Sys2Proof.Machine

open Sys2Proof Sys2Proof.Machine
set_option maxRecDepth 100000
set_option Elab.async false

/-! What each well-formedness check refuses. -/

theorem test_wf_refuses_a_queue_past_the_last : Instr.wf (.queueEnable 0 65536) = false := by decide
theorem test_wf_refuses_a_function_past_the_last : Instr.wf (.queueEnable 17 0) = false := by decide
theorem test_wf_refuses_pf0_where_a_vf_is_meant : Instr.wf (.vfFlr 0) = false := by decide
theorem test_wf_refuses_an_unlisted_resource : Instr.wf (.heldRequestRelease 0x120) = false := by decide
theorem test_wf_refuses_an_unlisted_link_width : Instr.wf (.negotiatedWidthChange 3) = false := by decide
theorem test_wf_accepts_the_last_of_each_range :
    Instr.wf (.grantReturn 31 5 0x201) = true ∧ Instr.wf (.vfFlr 16) = true ∧ Instr.wf (.negotiatedWidthChange 16) = true := by decide

/-! The worked examples of spec/, and single steps on small states. -/

/-- The worked example under R93: a group sum exactly halfway between two FP32 values goes to the even one. -/
theorem test_group_sum_of_the_worked_example :
    groupExact [vmul (elemVal 0x10 0b0101 0x7C) (elemVal 0x10 0b0011 0x80), vmul (elemVal 0x10 0b1111 0x7C) (elemVal 0x10 0b0110 0x80),
      vmul (elemVal 0x10 0b0001 0x6A) (elemVal 0x10 0b0001 0x80)] = 0xC09C0000 := by decide +kernel
/-- The worked example under R104: BF16 of 0x3F80_C000 rounds up to nearest even, up when the generator word is 0x9000_0000,
and truncates below 0x4000_0000. -/
theorem test_bf16_rounding_of_the_worked_example :
    convert 0x01 .rne false 0x3F80C000 = 0x3F81 ∧ convert 0x01 (.sr 0x90000000) false 0x3F80C000 = 0x3F81 ∧
      convert 0x01 (.sr 0x3FFFFFFF) false 0x3F80C000 = 0x3F80 ∧ convert 0x01 (.sr 0x40000000) false 0x3F80C000 = 0x3F81 := by
  decide +kernel
/-- The worked example under R207: five ordered FP32 partials end at 1.5. -/
theorem test_ordered_reduction_of_the_worked_example :
    reduceOp 0x00 0 0 (orderedTree 0x00 0 5 [0x4B800000, 0x3F800000, 0x3F800000, 0xCB800000, 0x3F000000]) = 0x3FC00000 := by
  decide +kernel
/-- R88: the largest E4M3 value is 448, its only NaN code has all ones, and overflow without SAT gives that NaN. -/
theorem test_e4m3_has_no_infinity :
    convert 0x03 .rne true 0x7F800000 = 0x7E ∧ convert 0x03 .rne false 0x7F800000 = 0x7F ∧ widen 0x03 0x7E 0 = 0x43E00000 := by
  decide +kernel
/-- The worked example of 05: the two words of the gate chain. -/
theorem test_chain_words_of_the_worked_example :
    (chainWord 0x3FFCB023).map (fun o => (o.code, o.dst)) = some (0x23, 0) ∧
      (chainWord 0x3F00A103).map (fun o => (o.code, o.dst)) = some (0x03, 1) := by decide +kernel
/-- The worked example of 21: STATUS after a cold start that ended in READY. -/
theorem test_status_of_the_worked_example :
    statusReg { State.reset with mgmt := { State.reset.mgmt with phase := .ended }, pwr := { State.reset.pwr with pkg := .ready } } = 0x26 := by
  decide +kernel
/-- A step takes the front of the queue and leaves the rest waiting. -/
theorem test_step_takes_the_front :
    (match step { State.reset with pending := [.aqDisable, .pf0Flr] } with
      | .next t => t.pending
      | _ => []) = [.pf0Flr] := by decide +kernel


theorem test_met_anIdleStepAdvancesTheTimeBase_1 :
    ∃ (s : State),
      (s.pending = []) ∧
      (s.fab.refBack = []) ∧
      (s.time.slew = 0) :=
  ⟨State.reset, by decide⟩

theorem test_met_everyStepKeepsTheMemoriesCanonical_1 :
    ∃ (s t : State),
      (s.memOk) ∧
      (step s = .next t) :=
  ⟨State.reset, _, ⟨by decide, by decide⟩, rfl⟩

theorem test_met_noCommandTouchesTheQueueOrTheGuestSite_1 :
    ∃ (c : Instr) (s t : State),
      (exec c s = .next t) :=
  ⟨.getState, State.reset, _, rfl⟩

theorem test_met_otherCommandsLeaveDeviceMemoryAlone_1 :
    ∃ (c : Instr) (s t : State),
      (reachesDeviceMemory c = false) ∧
      (exec c s = .next t) :=
  ⟨.getState, State.reset, _, rfl, rfl⟩

theorem test_met_onlyTheNamedCommandsChangeWhatTheOwnerTrusts_1 :
    ∃ (c : Instr) (s t : State),
      (exec c s = .next t) :=
  ⟨.getState, State.reset, _, rfl⟩

theorem test_met_onlyTheNamedCommandsChangeTheMachinesControls_1 :
    ∃ (c : Instr) (s t : State),
      (exec c s = .next t) :=
  ⟨.getState, State.reset, _, rfl⟩

theorem test_met_aWriteReadsBackAndLeavesTheRestAlone_2 :
    ∃ (s : State) (a : Nat) (bs : List Byte),
      (hostBad s a bs.length = false) :=
  ⟨State.reset, 64, [1, 0, 255], by decide⟩

theorem test_met_aWriteReadsBackAndLeavesTheRestAlone_3 :
    ∃ (s : State) (a : Nat) (bs : List Byte),
      (hostBad s a bs.length = true) :=
  ⟨{ State.reset with hostFail := [(0, 4096)] }, 4095, [1, 2], by decide⟩

theorem test_met_memoryBelongsToOnePartition_1 :
    ∃ (s : State) (p q pa : Nat),
      (p < 16) ∧
      (q < 16) ∧
      (owns s p pa false = true) ∧
      (owns s q pa false = true) :=
  ⟨{ State.reset with parts := [(15, { rows := 1 })], flt := { bindings := [(0, { column := some 0 })] } }, 15, 15, 0, by decide⟩

theorem test_met_aStoreStaysInTheMemoryOfItsPartition_1 :
    ∃ (s t : State) (cx : Cx) (va : Nat) (bs : List Byte) (a : Nat),
      (vwrite s cx va bs = .ok t) ∧
      (mread t.mem.bytes a ≠ mread s.mem.bytes a) :=
  ⟨sMem sRun, _, { part := 0, desc := 0, rem := [] }, 2 ^ 46, [7], 2 ^ 38 + 2 ^ 23, rfl, by decide⟩

theorem test_met_queueOperationsMoveAQueueBetweenItsStates_1 :
    ∃ (s : State) (fn q : Nat) (b pb : List Byte) (x : Part),
      (q ≠ 0) ∧
      (queueFn s q = fn) ∧
      (bootEnded s = true) ∧
      ((getQ s q).st = .disabled) ∧
      ((getFn s fn).qtValid = true) ∧
      ((getFn s fn).dbValid = true) ∧
      (hread s ((getFn s fn).qtBase + 64 * (q - if fn = 0 then 0 else 64 * ((tfind s.vfs fn).map (·.firstGroup)).getD 0)) 64 = some b) ∧
      (entryBad fn b = false) ∧
      (getP s (fld b 0x1A 1) = some x) ∧
      ((if fn = 0 then x.sealed = false ∧ bit (getRule s (fld b 0x1A 1)).flags 3 = true
    else ((tfind s.vfs fn).getD {}).part = fld b 0x1A 1 ∧ (x.sealed = true → ((tfind s.vfs fn).getD {}).tdi = 3 ∧ streamOn s fn = true))) ∧
      (hread s (fld b 0x10 8) 4 = some pb) :=
  ⟨sQueue .disabled, 0, 1, entry1, [0, 0, 0, 0], { st := .online, rows := 1, firstSlot := 0, slotCount := 2 }, by decide⟩

theorem test_met_queueOperationsMoveAQueueBetweenItsStates_2 :
    ∃ (s : State) (fn q : Nat),
      (q ≠ 0) ∧
      (queueFn s q = fn) ∧
      (bootEnded s = true) ∧
      ((getQ s q).st = .enabled ∨ (getQ s q).st = .error) :=
  ⟨sQueue .enabled, 0, 1, by decide⟩

theorem test_met_queueOperationsMoveAQueueBetweenItsStates_3 :
    ∃ (s : State) (fn q : Nat),
      (q ≠ 0) ∧
      (queueFn s q = fn) ∧
      (bootEnded s = true) ∧
      ((getQ s q).st = .error) :=
  ⟨sQueue .error, 0, 1, by decide⟩

theorem test_met_queueOperationsMoveAQueueBetweenItsStates_4 :
    ∃ (s : State) (q : Nat),
      ((getQ s q).st = .draining) ∧
      ((s.qe.flights.filter fun e => e.2.q == q) = []) :=
  ⟨sQueue .draining, 1, by decide⟩

theorem test_met_functionQueuesAreSetUpAndReset_1 :
    ∃ (s : State) (pb : List Byte),
      ((getQ s 0).st = .disabled) ∧
      (4 ≤ s.regs.aqSqLog2) ∧
      (s.regs.aqSqLog2 ≤ 12) ∧
      (4 ≤ s.regs.aqCqLog2) ∧
      (s.regs.aqCqLog2 ≤ 12) ∧
      ((getFn s 0).dbValid = true) ∧
      (hread s s.regs.aqRcb 4 = some pb) :=
  ⟨{ sQueue .disabled with regs := { aqSqLog2 := 4, aqCqLog2 := 12, aqRcb := 0x3000 } }, [0, 0, 0, 0], by decide⟩

theorem test_met_functionQueuesAreSetUpAndReset_2 :
    ∃ (s : State),
      ((getQ s 0).st = .enabled ∨ (getQ s 0).st = .error) :=
  ⟨{ sQueue .disabled with qe := { ctx := [(0, q1 .enabled)] } }, by decide⟩

theorem test_met_functionQueuesAreSetUpAndReset_3 :
    ∃ (s : State) (vf : Nat),
      (0 < vf) ∧
      (vf ≤ 16) :=
  ⟨State.reset, 16, by decide⟩

theorem test_met_pollingFetchesWhatTheHostHasPlaced_1 :
    ∃ (s : State) (stores : List HostStore) (failing : List (Nat × Nat)) (q : Nat) (b : List Byte),
      (s.vfs = []) ∧
      (s.qe.hot = [q]) ∧
      (s.qe.hotReads = 1) ∧
      (0 < s.qe.hotSize) ∧
      (enabledQueues s 0 = [q]) ∧
      ((getFn s 0).allUndef = false) ∧
      ((getFn s 0).undef = []) ∧
      ((∀ sec < 16, (hread (afterStores stores failing s) ((getFn s 0).dbBase + 8 * sec) 8).map leNat
    = some ((tfind (getFn s 0).seenSec sec).getD 0))) ∧
      ((getQ s q).st = .enabled) ∧
      (fetchable s q = true) ∧
      (dueQueues s 0 = []) ∧
      (hostBad (afterStores stores failing s) ((getQ s q).rcb + 0x20) 4 = false) ∧
      (hread (afterStores stores failing s) (getQ s q).rcb 4 = some b) ∧
      (leNat b ≠ (getQ s q).prodSeen) ∧
      (newCount (leNat b) (getQ s q).sqCons ≤ 2 ^ (getQ s q).sqLog2) ∧
      ((∀ i < newCount (leNat b) (getQ s q).sqCons, (hread (afterStores stores failing s)
    ((getQ s q).sqBase + 64 * (((getQ s q).sqCons + i) % 2 ^ (getQ s q).sqLog2)) 64).isSome = true)) :=
  ⟨{ sQueue .enabled with qe := { (sQueue .enabled).qe with hot := [1], hotReads := 1, fns := [(0, { dbBase := 0x4000, allUndef := false })] } }, [{ addr := 0x30000, bytes := [2] }], [], 1, [2, 0, 0, 0], by decide⟩

def metStartF : Flight := { q := 1, words := words 0x8000 [(14, 0xFFFF)] }

def metStart : State := { (sHeld metStartF) with host := [], qe := { ctx := [(1, q1 .enabled)], flights := [(0, metStartF)] } }

theorem test_met_descriptorsStartAndCompleteInTheirRings_1 :
    ∃ (s u : State) (d n : Nat) (f g : Flight),
      (getF s d = some f) ∧
      (f.phase = .fetched) ∧
      (f.stepOf = none) ∧
      (headOfQueue s d f = true) ∧
      (startHeld s f = false) ∧
      (takeSlot s d f = (u, true)) ∧
      (getF u d = some g) ∧
      (headerCheck u g = none) ∧
      (startTarget u d g = .ok n) ∧
      (fenceMet u d g = true) ∧
      (startWait u g n = true) ∧
      (slotCheck u g = none) ∧
      (inIntake u d = false) ∧
      (intakeFree u d g = true) ∧
      (g.opcode ≠ 0x3001) :=
  ⟨metStart, (takeSlot metStart 0 metStartF).1, 0, 0, metStartF, { metStartF with reserved := true }, by decide, by decide, by decide, by decide +kernel, by decide +kernel, Prod.ext rfl (by decide +kernel), by decide +kernel, by decide +kernel, is_met (by decide +kernel), by decide +kernel⟩

theorem test_met_descriptorsStartAndCompleteInTheirRings_2 :
    ∃ (s : State) (d : Nat) (f : Flight) (b : List Byte),
      (f.reserved = false) ∧
      (hread s ((getQ s f.q).rcb + 8) 4 = some b) ∧
      (slotRoom s f.q (leNat b) = true) :=
  ⟨sQueue .enabled, 0, { q := 1 }, [0, 0, 0, 0], by decide⟩

theorem test_met_descriptorsStartAndCompleteInTheirRings_3 :
    ∃ (s : State) (d : Nat) (f : Flight),
      (getF s d = some f) ∧
      (f.phase = .ended) ∧
      (hasOut s d = false) ∧
      (recordRoom s f = true) ∧
      (f.opcode ≠ 0x3001) ∧
      (f.stepOf = none) ∧
      (f.noRecord = false) ∧
      (f.fCmpl = true) ∧
      (f.fSignal = false) ∧
      (f.q ≠ 0) ∧
      (f.opcode ≠ 0x7021) ∧
      (f.absDeadline = none) ∧
      (s.pwr.drainTo = none) ∧
      ((getQ s f.q).irqEn = false) ∧
      (hostBad s ((getQ s f.q).cqBase + 16 * ((getQ s f.q).written % 2 ^ (getQ s f.q).cqLog2)) 16 = false) :=
  ⟨{ (sQueue .enabled) with qe := { ctx := [(1, q1 .enabled)], flights := [(0, { q := 1, phase := .ended, words := words 0x8000 [(2, 16), (14, 0xFFFF)] })] } }, 0, { q := 1, phase := .ended, words := words 0x8000 [(2, 16), (14, 0xFFFF)] }, by decide⟩

theorem test_met_descriptorsStartAndCompleteInTheirRings_4 :
    ∃ (s : State) (q : Nat) (b : List Byte),
      (q ∈ s.qe.hot) ∧
      (s.qe.hotIdle ≤ (getQ s q).idlePasses) ∧
      (hread s (getQ s q).rcb 4 = some b) ∧
      (leNat b = (getQ s q).prodSeen) ∧
      (hostBad s ((getQ s q).rcb + 0x24) 1 = false) :=
  ⟨{ (sQueue .enabled) with qe := { ctx := [(1, { q1 .enabled with idlePasses := 2048 })], hot := [1] } }, 1, [0, 0, 0, 0], by decide⟩

theorem test_met_descriptorsStartAndCompleteInTheirRings_5 :
    ∃ (s : State) (q : Nat),
      ((getQ s q).irqEn = true) ∧
      (0 < (getQ s q).pendingIrq) ∧
      (0 < (getQ s q).coalTime) ∧
      ((getQ s q).oldestPending + 1000 * (getQ s q).coalTime ≤ s.time.now) ∧
      (bit ((tfind (getFn s (queueFn s q)).msix (4 * (getQ s q).vector + 3)).getD 1) 0 = false) :=
  ⟨{ (sQueue .enabled) with time := { now := 1000 }, qe := { ctx := [(1, { q1 .enabled with irqEn := true, pendingIrq := 1, coalTime := 1 })], fns := [(0, { msix := [(3, 0)] })] } }, 1, by decide⟩

theorem test_met_identityAndVirtualFunctions_1 :
    ∃ (s : State) (d : Nat) (f : Flight) (page : List Byte),
      (Runs s d 0xF001 f) ∧
      (f.op 0x28 1 ≤ 3) ∧
      (f.zeroFrom 0x29 = true) ∧
      (page = (if f.op 0x28 1 = 0 then identPage0 s else if f.op 0x28 1 = 1 then identPage1 s
    else if f.op 0x28 1 = 2 then identPage2 s else identPage3 s)) ∧
      (hostBad s (f.op 0x20 8) page.length = false) :=
  ⟨{ (sHeld (admin 0xF001 [(0x20, 0x1000), (0x28, 3)])) with mgmt := {} }, 0, admin 0xF001 [(0x20, 0x1000), (0x28, 3)], List.replicate 1040 0, by decide⟩

theorem test_met_identityAndVirtualFunctions_2 :
    ∃ (s : State) (d : Nat) (f : Flight) (x : Part),
      (Runs s d 0xF010 f) ∧
      (s.mgmt.gauntletWdt = false) ∧
      (f.zeroFrom 0x26 = true) ∧
      (1 ≤ f.op 0x20 1) ∧
      (f.op 0x20 1 ≤ 16) ∧
      (f.op 0x21 1 ≤ 15) ∧
      (1 ≤ f.op 0x22 2) ∧
      (1 ≤ f.op 0x24 2) ∧
      (f.op 0x22 2 + f.op 0x24 2 ≤ 1024) ∧
      (getP s (f.op 0x21 1) = some x) ∧
      (tfind s.vfs (f.op 0x20 1) = none) ∧
      (x.vf = 0) ∧
      ((x.sealed && x.hadVf) = false) ∧
      ((∀ e ∈ s.vfs, ¬ (e.2.firstGroup < f.op 0x22 2 + f.op 0x24 2 ∧ f.op 0x22 2 < e.2.firstGroup + e.2.groups))) ∧
      ((∀ e ∈ s.qe.ctx, e.2.st = .disabled ∨ ¬ (f.op 0x22 2 ≤ e.1 / 64 ∧ e.1 / 64 < f.op 0x22 2 + f.op 0x24 2))) :=
  ⟨sHeld (admin 0xF010 [(0x20, 16), (0x22, 1023), (0x24, 1)]), 0, admin 0xF010 [(0x20, 16), (0x22, 1023), (0x24, 1)], { st := .online, rows := 1, firstSlot := 0, slotCount := 2 }, by decide⟩

theorem test_met_identityAndVirtualFunctions_3 :
    ∃ (s : State) (d : Nat) (f : Flight) (v : Vf),
      (Runs s d 0xF011 f) ∧
      (s.mgmt.gauntletWdt = false) ∧
      (f.zeroFrom 0x21 = true) ∧
      (tfind s.vfs (f.op 0x20 1) = some v) ∧
      (v.tdi ≠ 2) ∧
      (v.tdi ≠ 3) :=
  ⟨{ (sHeld (admin 0xF011 [(0x20, 1)])) with vfs := [(1, { part := 0, firstGroup := 1, groups := 1, tdi := 1 })] }, 0, admin 0xF011 [(0x20, 1)], { part := 0, firstGroup := 1, groups := 1, tdi := 1 }, by decide⟩

theorem test_met_identityAndVirtualFunctions_4 :
    ∃ (s : State) (vf d : Nat) (f : Flight) (v : Vf) (x : Part),
      (tfind s.vfs vf = some v) ∧
      (v.unbindBy = some d) ∧
      (activeQueues s vf = []) ∧
      (getF s d = some f) ∧
      (getP s v.part = some x) :=
  ⟨{ (sHeld (admin 0xF011 [(0x20, 1)])) with vfs := [(1, { part := 0, firstGroup := 1, groups := 1, tdi := 1, unbindBy := some 0 })] }, 1, 0, admin 0xF011 [(0x20, 1)], { part := 0, firstGroup := 1, groups := 1, tdi := 1, unbindBy := some 0 }, { st := .online, rows := 1, firstSlot := 0, slotCount := 2 }, by decide⟩

theorem test_met_identityAndVirtualFunctions_5 :
    ∃ (s : State) (d : Nat) (f : Flight) (r : LogRec) (rest : List LogRec),
      (Runs s d 0xF020 f) ∧
      (f.zeroFrom 0x28 = true) ∧
      (s.log.parked.length < 16) ∧
      (s.log.undelivered = r :: rest) ∧
      (s.log.lost = 0) ∧
      (hostBad s (f.op 0x20 8) 64 = false) ∧
      (r.bytes.length = 64) :=
  ⟨{ (sHeld (admin 0xF020 [(0x20, 0x1000)])) with log := { undelivered := bootLog.critlog } }, 0, admin 0xF020 [(0x20, 0x1000)], { time := 0, cls := 7, ev := 1, die := 0xFF, unit := 0, season := 0, part := 0xFF, critical := true, event := false, seq := 2, payload := [(1, 0)] }, [], by decide⟩

theorem test_met_identityAndVirtualFunctions_6 :
    ∃ (s : State) (d : Nat) (f : Flight),
      (Runs s d 0xF020 f) ∧
      (f.zeroFrom 0x28 = true) ∧
      (s.log.parked.length < 16) ∧
      (s.log.undelivered = []) :=
  ⟨sHeld (admin 0xF020 [(0x20, 0x1000)]), 0, admin 0xF020 [(0x20, 0x1000)], by decide⟩

theorem test_met_partitionsAreCreatedDestroyedResetAndMoved_1 :
    ∃ (s : State) (d a : Nat) (f : Flight),
      (Runs s d 0xF100 f) ∧
      (s.mgmt.gauntletWdt = false) ∧
      (f.op 0x20 1 ≤ 15) ∧
      (f.op 0x21 1 ≤ 3) ∧
      (f.op 0x24 4 ≠ 0) ∧
      (f.zeroFrom 0x2A = true) ∧
      (getP s (f.op 0x20 1) = none) ∧
      (createPolicy s (f.op 0x20 1) (f.op 0x21 1) (f.op 0x22 1) (f.op 0x23 1) (f.op 0x24 4) (f.op 0x28 2) = false) ∧
      ((∀ e ∈ s.parts, Nat.land e.2.rows (f.op 0x24 4) = 0)) ∧
      ((∀ x ∈ s.gnt.fills, ∀ c ∈ x.slices, bit (f.op 0x24 4) (c / 16) = false)) ∧
      ((s.parts.map fun e => e.2.waysA).foldl (· + ·) 0 + f.op 0x22 1 ≤ 24) ∧
      ((s.parts.map fun e => e.2.waysB).foldl (· + ·) 0 + f.op 0x23 1 ≤ 24) ∧
      (slotBlock s (f.op 0x28 2) = some a) ∧
      (s.fab.dieLost = [] ∧ s.fab.dieReset = [] ∧ s.fab.refLost = [] ∧ s.fab.severed = false) :=
  ⟨sHeld (admin 0xF100 [(0x20, 1), (0x24, 2), (0x28, 4)]) , 0, 2, admin 0xF100 [(0x20, 1), (0x24, 2), (0x28, 4)], by decide⟩

theorem test_met_partitionsAreCreatedDestroyedResetAndMoved_2 :
    ∃ (s : State) (d : Nat) (f : Flight) (x : Part),
      (Runs s d 0xF101 f) ∧
      (s.mgmt.gauntletWdt = false) ∧
      (f.op 0x20 1 ≤ 15) ∧
      (f.zeroFrom 0x21 = true) ∧
      (getP s (f.op 0x20 1) = some x) ∧
      (x.st = .offline) ∧
      (x.vf = 0) :=
  ⟨{ sHeld (admin 0xF101 [(0x20, 0)]) with parts := [(0, { rows := 1 })] }, 0, admin 0xF101 [(0x20, 0)], { rows := 1 }, by decide⟩

theorem test_met_partitionsAreCreatedDestroyedResetAndMoved_3 :
    ∃ (s : State) (d : Nat) (f : Flight) (x : Part),
      (Runs s d 0xF102 f) ∧
      (f.op 0x20 1 ≤ 15) ∧
      (f.zeroFrom 0x21 = true) ∧
      (getP s (f.op 0x20 1) = some x) :=
  ⟨sHeld (admin 0xF102 [(0x20, 0)]), 0, admin 0xF102 [(0x20, 0)], { st := .online, rows := 1, firstSlot := 0, slotCount := 2 }, by decide⟩

theorem test_met_partitionsAreCreatedDestroyedResetAndMoved_4 :
    ∃ (s : State) (d : Nat) (f : Flight) (x : Part),
      (Runs s d 0xF103 f) ∧
      (f.op 0x20 1 ≤ 15) ∧
      (f.op 0x21 1 ≤ 2) ∧
      (f.zeroFrom 0x22 = true) ∧
      (getP s (f.op 0x20 1) = some x) ∧
      (x.fences = []) ∧
      ((f.op 0x21 1 = 0 → s.pwr.pkg ≠ .trip ∧ 320 ≤ lowestLogic s)) ∧
      ((∀ e ∈ s.qe.flights, e.2.part = f.op 0x20 1 → e.2.trickle.asleep = false)) :=
  ⟨sHeld (admin 0xF103 [(0x20, 0), (0x21, 2)]), 0, admin 0xF103 [(0x20, 0), (0x21, 2)], { st := .online, rows := 1, firstSlot := 0, slotCount := 2 }, by decide⟩

theorem test_met_partitionsAreCreatedDestroyedResetAndMoved_5 :
    ∃ (s : State) (d p : Nat) (x : Part) (was : PState),
      (getP s p = some x) ∧
      (x.target = some (was, d)) ∧
      ((x.st = .online ∨ ∀ e ∈ s.qe.flights, e.2.part = p → e.2.q = 0 ∨ e.2.live = false)) :=
  ⟨{ sRun with parts := [(0, { target := some (.online, 3) })] }, 3, 0, { target := some (.online, 3) }, .online, by decide⟩

theorem test_met_packageStatesCapsAndTrips_1 :
    ∃ (s : State) (d : Nat) (f : Flight),
      (Runs s d 0xF110 f) ∧
      (f.op 0x20 1 = 3) ∧
      (f.op 0x21 1 ≤ 7) ∧
      (f.zeroFrom 0x22 = true) ∧
      (s.pwr.pkg ≠ .trip) ∧
      (s.pwr.pkg ≠ .run) ∧
      (320 ≤ lowestLogic s) ∧
      (s.pwr.slewTo = none) ∧
      (s.pwr.drainTo = none) :=
  ⟨{ (sHeld (admin 0xF110 [(0x20, 0x0703)])) with pwr := { pkg := .ready }, th := { sRun.th with a := { sRun.th.a with r := { sRun.th.a.r with lowLogic := 320 } }, b := { sRun.th.b with r := { sRun.th.b.r with lowLogic := 400 } } } }, 0, admin 0xF110 [(0x20, 0x0703)], by decide⟩

theorem test_met_packageStatesCapsAndTrips_2 :
    ∃ (s : State) (d : Nat) (f : Flight),
      (Runs s d 0xF110 f) ∧
      (f.op 0x20 1 = 3) ∧
      (f.op 0x21 1 ≤ 7) ∧
      (f.zeroFrom 0x22 = true) ∧
      (s.pwr.pkg = .run) ∧
      (s.pwr.slewTo = none) ∧
      (s.pwr.drainTo = none) :=
  ⟨sHeld (admin 0xF110 [(0x20, 0x0003)]), 0, admin 0xF110 [(0x20, 0x0003)], by decide⟩

theorem test_met_packageStatesCapsAndTrips_3 :
    ∃ (s : State) (d : Nat) (f : Flight),
      (Runs s d 0xF110 f) ∧
      (f.op 0x20 1 = 2 ∨ f.op 0x20 1 = 1) ∧
      (f.zeroFrom 0x22 = true) ∧
      (s.pwr.pkg = .run) ∧
      ((f.op 0x20 1 = 1 → anyOnline s = false)) ∧
      (f.q = 0 ∨ f.trickle.asleep = false) ∧
      ((∀ e ∈ s.qe.flights, e.2.trickle.asleep = false)) ∧
      ((∃ e ∈ s.qe.flights, e.1 ≠ d ∧ e.2.live = true ∧ e.2.q ≠ 0)) ∧
      (s.pwr.slewTo = none) ∧
      (s.pwr.drainTo = none) :=
  ⟨{ sRun with parts := [], qe := { flights := [(0, admin 0xF110 [(0x20, 1)]), (1, running 0 [])] } }, 0, admin 0xF110 [(0x20, 1)], by decide, by decide, by decide, by decide, by decide, by decide, by decide, ⟨(1, running 0 []), by decide⟩, rfl, rfl⟩

theorem test_met_packageStatesCapsAndTrips_4 :
    ∃ (s : State) (d : Nat) (f : Flight),
      (Runs s d 0xF110 f) ∧
      (f.op 0x20 1 = 1) ∧
      (f.zeroFrom 0x22 = true) ∧
      (s.pwr.pkg = .trip) ∧
      (anyOnline s = false) ∧
      (s.pwr.slewTo = none) ∧
      (s.pwr.drainTo = none) :=
  ⟨{ sHeld (admin 0xF110 [(0x20, 1)]) with parts := [], pwr := { pkg := .trip, tripCauses := [1] } }, 0, admin 0xF110 [(0x20, 1)], by decide⟩

theorem test_met_packageStatesCapsAndTrips_5 :
    ∃ (s : State) (l d : Nat),
      (s.pwr.slewTo = some (l, d)) :=
  ⟨{ sRun with pwr := { sRun.pwr with slewTo := some (5, 0) } }, 5, 0, by decide⟩

theorem test_met_packageStatesCapsAndTrips_6 :
    ∃ (s : State) (t d : Nat) (p : Pkg),
      (s.pwr.drainAt = some t) ∧
      (t ≤ s.time.now) ∧
      (s.pwr.drainTo = some (p, d)) ∧
      ((∀ e ∈ s.qe.flights, e.2.live = true → e.2.q = 0 ∨ e.2.trickle.asleep = true)) :=
  ⟨{ sRun with pwr := { sRun.pwr with pkg := .ready, drainAt := some 0, drainTo := some (.standby, 0) } }, 0, 0, .standby, by decide⟩

theorem test_met_packageStatesCapsAndTrips_7 :
    ∃ (s : State) (d : Nat) (f : Flight),
      (Runs s d 0xF111 f) ∧
      (f.op 0x20 2 = 0 ∨ 1200 ≤ f.op 0x20 2) ∧
      (f.zeroFrom 0x22 = true) :=
  ⟨sHeld (admin 0xF111 [(0x20, 1200)]), 0, admin 0xF111 [(0x20, 1200)], by decide⟩

theorem test_met_packageStatesCapsAndTrips_8 :
    ∃ (s : State) (d : Nat) (f : Flight),
      (Runs s d 0xF112 f) ∧
      (f.zeroFrom 0x20 = true) ∧
      (s.pwr.pkg = .trip) ∧
      (tripClear s = true) ∧
      (bootEnded s = true) ∧
      (s.pwr.tripStandby = false) :=
  ⟨{ sHeld (admin 0xF112 []) with pwr := { pkg := .trip, tripCauses := [1] } }, 0, admin 0xF112 [], by decide⟩

theorem test_met_bandwidthIsRegisteredReleasedAndWatched_1 :
    ∃ (s : State) (d : Nat) (f : Flight),
      (Runs s d 0xF120 f) ∧
      (f.op 0x20 1 ≤ 15) ∧
      (f.op 0x21 1 ≤ 5) ∧
      (f.op 0x24 4 ≠ 0) ∧
      (2048 ≤ f.op 0x28 4 ∧ f.op 0x28 4 ≤ 64 * 2 ^ 20 ∧ f.op 0x28 4 % 2048 = 0) ∧
      (resourceOk (f.op 0x22 2) = true) ∧
      (f.zeroFrom 0x2C = true) ∧
      ((getP s (f.op 0x20 1)).isSome = true) ∧
      (s.bw.regs.length < 4096) ∧
      (100 * (rateSum (regsOn s (f.op 0x22 2)) + f.op 0x24 4) ≤ 85 * capacity s (f.op 0x22 2)) :=
  ⟨sHeld (admin 0xF120 [(0x20, 0), (0x24, 1000), (0x28, 2048)]), 0, admin 0xF120 [(0x20, 0), (0x24, 1000), (0x28, 2048)], by decide⟩

theorem test_met_bandwidthIsRegisteredReleasedAndWatched_2 :
    ∃ (s : State) (d : Nat) (f : Flight) (x : Reg),
      (Runs s d 0xF121 f) ∧
      (tfind s.bw.regs (f.op 0x20 2) = some x) ∧
      (f.zeroFrom 0x22 = true) :=
  ⟨{ (sHeld (admin 0xF121 [(0x20, 4)])) with bw := { sRun.bw with regs := [(4, { part := 0, cls := 1, res := 0, rate := 5, burst := 2048, eff := 5 })] } }, 0, admin 0xF121 [(0x20, 4)], { part := 0, cls := 1, res := 0, rate := 5, burst := 2048, eff := 5 }, by decide⟩

theorem test_met_bandwidthIsRegisteredReleasedAndWatched_3 :
    ∃ (s : State) (d : Nat) (f : Flight) (x : Part),
      (Runs s d 0xF122 f) ∧
      (f.op 0x20 1 ≤ 15) ∧
      (f.op 0x21 1 ≤ 7) ∧
      (f.op 0x22 1 ≤ 3) ∧
      (f.zeroFrom 0x23 = true) ∧
      (getP s (f.op 0x20 1) = some x) :=
  ⟨sHeld (admin 0xF122 [(0x20, 0x030700)]), 0, admin 0xF122 [(0x20, 0x030700)], { st := .online, rows := 1, firstSlot := 0, slotCount := 2 }, by decide⟩

theorem test_met_bandwidthIsRegisteredReleasedAndWatched_4 :
    ∃ (s : State) (r : Nat),
      (resourceOk r = true) :=
  ⟨State.reset, 7, by decide⟩

theorem test_met_bandwidthIsRegisteredReleasedAndWatched_5 :
    ∃ (s : State) (waited : List (Nat × Nat)),
      ((∀ e ∈ waited, ∀ r, tfind s.bw.regs e.1 = some r → r.cls < 2 ∨ r.eff * 100 ≤ e.2 + 2048)) :=
  ⟨{ sRun with bw := { sRun.bw with regs := [(4, { part := 0, cls := 2, res := 0, rate := 5, burst := 2048, eff := 5 })] } }, [(4, 0)], by intro e he r hr; simp at he; subst he; right; exact (by decide : ∀ r, tfind [(4, ({ part := 0, cls := 2, res := 0, rate := 5, burst := 2048, eff := 5 } : Reg))] 4 = some r → r.eff * 100 ≤ 0 + 2048) r hr⟩

theorem test_met_bandwidthIsRegisteredReleasedAndWatched_6 :
    ∃ (s : State) (waited : List (Nat × Nat)) (h used : Nat) (r : Reg) (x : Part),
      (waited = [(h, used)]) ∧
      (tfind s.bw.regs h = some r) ∧
      (2 ≤ r.cls) ∧
      (used + 2048 < r.eff * 100) ∧
      (getP s r.part = some x) ∧
      (((tfind x.bw r.cls).getD {}).mode = 1) :=
  ⟨{ sRun with parts := [(0, { bw := [(2, { mode := 1 })] })], bw := { sRun.bw with regs := [(4, { part := 0, cls := 2, res := 0, rate := 500, burst := 2048, eff := 500 })] } }, [(4, 0)], 4, 0, { part := 0, cls := 2, res := 0, rate := 500, burst := 2048, eff := 500 }, { bw := [(2, { mode := 1 })] }, by decide⟩

theorem test_met_bandwidthIsRegisteredReleasedAndWatched_7 :
    ∃ (s : State) (h : Nat) (r : Reg),
      (tfind s.bw.regs h = some r) ∧
      (r.missUntil ≠ 0) ∧
      (r.missUntil ≤ s.time.now) ∧
      (r.missed = 0) :=
  ⟨{ sRun with time := { sRun.time with now := 7 }, bw := { sRun.bw with regs := [(4, { part := 0, cls := 2, res := 0, rate := 5, burst := 2048, eff := 5, missUntil := 7 })] } }, 4, { part := 0, cls := 2, res := 0, rate := 5, burst := 2048, eff := 5, missUntil := 7 }, by decide⟩

theorem test_met_settingsRecordsAreEditedReadAndStored_1 :
    ∃ (s : State) (d : Nat) (f : Flight) (i : Nat),
      (Runs s d 0xF130 f) ∧
      (f.zeroFrom 0x22 = true) ∧
      (f.op 0x20 2 ≠ 0) ∧
      (i < 12) ∧
      (i ≠ 6) :=
  ⟨sHeld (admin 0xF130 [(0x20, 1)]), 0, admin 0xF130 [(0x20, 1)], 0, by decide⟩

theorem test_met_settingsRecordsAreEditedReadAndStored_2 :
    ∃ (s : State) (d : Nat) (f : Flight) (data : List Byte),
      (Runs s d 0xF131 f) ∧
      (f.op 0x20 1 = 2) ∧
      (bit s.gnt.policy.flags 4 = true) ∧
      (f.zero 0x21 1 = true) ∧
      (f.zeroFrom 0x30 = true) ∧
      (64 * f.op 0x22 2 + f.op 0x24 4 ≤ 2 ^ 20) ∧
      (hread s (f.op 0x28 8) (f.op 0x24 4) = some data) :=
  ⟨{ (sHeld (admin 0xF131 [(0x20, 2), (0x24, 3), (0x28, 0x1000)])) with gnt := { sRun.gnt with policy := { sRun.gnt.policy with flags := 16 } } }, 0, admin 0xF131 [(0x20, 2), (0x24, 3), (0x28, 0x1000)], [0, 0, 0], by decide⟩

theorem test_met_settingsRecordsAreEditedReadAndStored_3 :
    ∃ (s : State) (d : Nat) (f : Flight) (data : List Byte),
      (Runs s d 0xF131 f) ∧
      (f.op 0x20 1 = 9) ∧
      (f.op 0x22 2 = 0) ∧
      (f.op 0x24 4 = 64) ∧
      (f.zero 0x21 1 = true) ∧
      (f.zeroFrom 0x30 = true) ∧
      (hread s (f.op 0x28 8) 64 = some data) ∧
      (fld data 0 2 = 1) ∧
      (fld data 2 2 < 2) ∧
      (fld data 8 2 ≤ 5000) ∧
      (zeroAt data 10 54 = true) :=
  ⟨{ (sHeld (admin 0xF131 [(0x20, 9), (0x24, 64), (0x28, 0x1000)])) with host := mwriteN [] 0x1000 [1] }, 0, admin 0xF131 [(0x20, 9), (0x24, 64), (0x28, 0x1000)], 1 :: List.replicate 63 0, by decide⟩

theorem test_met_settingsRecordsAreEditedReadAndStored_4 :
    ∃ (s : State) (d : Nat) (f : Flight),
      (Runs s d 0xF132 f) ∧
      (f.op 0x20 1 = 4 ∨ f.op 0x20 1 = 8 ∨ f.op 0x20 1 = 9) ∧
      (f.op 0x21 1 = 0) ∧
      (f.op 0x24 4 ≠ 0) ∧
      (f.op 0x24 4 ≤ recSize (f.op 0x20 1)) ∧
      (f.zero 0x22 2 = true) ∧
      (f.zeroFrom 0x30 = true) ∧
      (hostBad s (f.op 0x28 8) (f.op 0x24 4) = false) :=
  ⟨sHeld (admin 0xF132 [(0x20, 8), (0x24, 20), (0x28, 0x1000)]), 0, admin 0xF132 [(0x20, 8), (0x24, 20), (0x28, 0x1000)], by decide⟩

theorem test_met_topologyAndFirmwareAreReadAcceptedAndActivated_1 :
    ∃ (s : State) (d : Nat) (f : Flight) (bs : List Byte),
      (Runs s d 0xF190 f) ∧
      (f.zeroFrom 0x28 = true) ∧
      (bs = padTo 0x40 (toLe 1 (checkResult s).1 ++ toLe 1 0 ++ toLe 2 (checkResult s).2.length)
        ++ padTo (0x1000 - 0x40) (((checkResult s).2.take 496).flatMap fun e =>
          toLe 1 e.1 ++ toLe 1 0 ++ toLe 2 e.2.1 ++ toLe 2 e.2.2.1 ++ toLe 2 e.2.2.2)
        ++ topoBytes (discovered s) ++ (match s.mgmt.expected with | some x => topoBytes x | none => List.replicate 4096 0)) ∧
      (hostBad s (f.op 0x20 8) bs.length = false) :=
  ⟨sHeld (admin 0xF190 [(0x20, 0x1000)]), 0, admin 0xF190 [(0x20, 0x1000)], _, by decide, by decide, rfl, rfl⟩

theorem test_met_topologyAndFirmwareAreReadAcceptedAndActivated_2 :
    ∃ (s : State) (d : Nat) (ok : Bool) (f : Flight),
      (Runs s d 0xF191 f) ∧
      (f.op 0x20 1 = 0) ∧
      (f.zeroFrom 0x21 = true) ∧
      (s.pwr.pkg = .held) :=
  ⟨{ sHeld (admin 0xF191 []) with pwr := { pkg := .held } }, 0, true, admin 0xF191 [], by decide⟩

theorem test_met_topologyAndFirmwareAreReadAcceptedAndActivated_3 :
    ∃ (s : State) (d : Nat) (f : Flight),
      (Runs s d 0xF191 f) ∧
      (f.op 0x20 1 = 1) ∧
      (f.zeroFrom 0x21 = true) ∧
      (s.pwr.pkg = .held) :=
  ⟨{ sHeld (admin 0xF191 [(0x20, 1)]) with pwr := { pkg := .held } }, 0, admin 0xF191 [(0x20, 1)], by decide⟩

theorem test_met_topologyAndFirmwareAreReadAcceptedAndActivated_4 :
    ∃ (s : State) (d n ty : Nat) (f : Flight) (b : List Byte),
      (Runs s d 0xF170 f) ∧
      (s.mgmt.gauntletWdt = false) ∧
      (n = f.op 0x28 4) ∧
      (ty = f.op 0x2C 1) ∧
      (s.mgmt.recovery = false) ∧
      (128 + sigBytes ≤ n) ∧
      ((slotSize ty).isSome = true) ∧
      (f.zeroFrom 0x2D = true) ∧
      (hread s (f.op 0x20 8) n = some b) ∧
      (imageShape b ty n = true) ∧
      ((getFw s ty).fuse ≤ fld b 7 1) :=
  ⟨{ (sHeld (admin 0xF170 [(0x20, 0x1000), (0x28, 4851), (0x2C, 3)])) with host := mwriteN [] 0x1000 [0x54, 0x52, 0x46, 0x4D, 3, 1, 0, 2] }, 0, 4851, 3, admin 0xF170 [(0x20, 0x1000), (0x28, 4851), (0x2C, 3)], mreadN (mwriteN [] 0x1000 [0x54, 0x52, 0x46, 0x4D, 3, 1, 0, 2]) 0x1000 4851, by decide, by decide, by decide, by decide, by decide, by decide, by decide, by decide, rfl, by decide, by decide⟩

theorem test_met_topologyAndFirmwareAreReadAcceptedAndActivated_5 :
    ∃ (s : State) (d : Nat) (f : Flight),
      (Runs s d 0xF171 f) ∧
      (s.mgmt.gauntletWdt = false) ∧
      ((slotSize (f.op 0x20 1)).isSome = true) ∧
      (f.op 0x21 1 = 0) ∧
      (f.zeroFrom 0x22 = true) ∧
      ((tfind (getFw s (f.op 0x20 1)).slots (inactiveSlot (getFw s (f.op 0x20 1)))).isSome = true) :=
  ⟨{ sHeld (admin 0xF171 [(0x20, 3)]) with mgmt := { sRun.mgmt with fw := [(3, { slots := [(0, { version := 1, level := 0, digest := 5 }), (1, { version := 2, level := 1, digest := 6 })] })] } }, 0, admin 0xF171 [(0x20, 3)], by decide⟩

theorem test_met_topologyAndFirmwareAreReadAcceptedAndActivated_6 :
    ∃ (s : State) (d : Nat) (f : Flight),
      (Runs s d 0xF171 f) ∧
      (s.mgmt.gauntletWdt = false) ∧
      (f.op 0x20 1 = 2) ∧
      (f.op 0x21 1 = 1) ∧
      (f.zeroFrom 0x22 = true) ∧
      ((tfind (getFw s 2).slots (inactiveSlot (getFw s 2))).isSome = true) :=
  ⟨{ sHeld (admin 0xF171 [(0x20, 0x0102)]) with mgmt := { sRun.mgmt with fw := [(2, { slots := [(0, { version := 1, level := 0, digest := 5 }), (1, { version := 2, level := 1, digest := 6 })] })] } }, 0, admin 0xF171 [(0x20, 0x0102)], by decide⟩

theorem test_met_topologyAndFirmwareAreReadAcceptedAndActivated_7 :
    ∃ (s : State) (old : Nat),
      ((getFw s 2).liveFrom = some old) ∧
      ((getFw s 2).liveAt + 60000000000 ≤ s.time.now) :=
  ⟨{ sRun with time := { sRun.time with now := 60000000009 }, mgmt := { sRun.mgmt with fw := [(2, { liveFrom := some 1, liveAt := 9 })] } }, 1, by decide⟩

theorem test_met_topologyAndFirmwareAreReadAcceptedAndActivated_8 :
    ∃ (s : State) (old : Nat),
      ((getFw s 2).liveFrom = some old) ∧
      ((getFw s 2).liveAt + 5000000000 ≤ s.time.now) :=
  ⟨{ sRun with time := { sRun.time with now := 5000000009 }, mgmt := { sRun.mgmt with fw := [(2, { liveFrom := some 1, liveAt := 9 })] } }, 1, by decide⟩

def metClaimHead : List Byte := [1, 1, 0, 0, 136, 10, 0, 0, 1] ++ List.replicate 55 0

def metClaimBody : List Byte :=
  List.replicate 8 0 ++ [7] ++ List.replicate 2687 0

def metClaimState : State :=
  { sHeld (admin 0xF160 [(0x20, 0x1000), (0x28, 7483), (0x2C, 1)]) with host := mwriteN [] 0x1000 (metClaimHead ++ (metClaimBody ++ List.replicate 4723 0)), gnt := { sRun.gnt with policy := { sRun.gnt.policy with flags := 0 } } }

theorem test_met_ownerMessagesTakeEffectOnlyWhenTheirSignaturesPass_1 :
    ∃ (s : State) (d : Nat) (f : Flight) (b : List Byte) (m : Owner),
      (Runs s d 0xF160 f) ∧
      (s.mgmt.gauntletWdt = false) ∧
      (f.op 0x2C 1 = 1) ∧
      (f.zeroFrom 0x2D = true) ∧
      (0x40 + sigBytes ≤ f.op 0x28 4) ∧
      (f.op 0x28 4 ≤ 65536) ∧
      (hread s (f.op 0x20 8) (f.op 0x28 4) = some b) ∧
      (parseOwner b (f.op 0x20 8) 1 = some m) ∧
      (kindOk s 1 m = true) ∧
      (fld b 0x10 16 = s.mgmt.idHash) ∧
      (s.gnt.policy.ownerSeq < m.seq) ∧
      (m.op = 0 ∨ m.op = 1) ∧
      (m.body.length = 0xA88) ∧
      (zeroAt m.body 1 7 = true) :=
  ⟨metClaimState, 0, (admin 0xF160 [(0x20, 0x1000), (0x28, 7483), (0x2C, 1)]), (metClaimHead ++ (metClaimBody ++ List.replicate 4723 0)), { buf := 0x1000, all := (metClaimHead ++ (metClaimBody ++ List.replicate 4723 0)), seq := fld metClaimHead 8 8, body := metClaimBody }, by decide, by decide, by decide, by decide, by decide, by decide, hread_wrote metClaimState [] 0x1000 7483 (metClaimHead ++ (metClaimBody ++ List.replicate 4723 0)) rfl (by decide +kernel) (by decide +kernel), parse_met metClaimHead metClaimBody _ _ _ (by decide) (by decide +kernel) (by decide +kernel), by decide +kernel, (fld_left metClaimHead _ 0x10 16 (by decide)).trans (by decide), by decide +kernel⟩

def metReleaseHead : List Byte := [1, 1, 0, 0, 136, 10, 0, 0, 1] ++ List.replicate 55 0

def metReleaseBody : List Byte :=
  [2] ++ List.replicate 2695 0

def metReleaseState : State :=
  { sHeld (admin 0xF160 [(0x20, 0x1000), (0x28, 7483), (0x2C, 1)]) with host := mwriteN [] 0x1000 (metReleaseHead ++ (metReleaseBody ++ List.replicate 4723 0)), gnt := { sRun.gnt with policy := { sRun.gnt.policy with flags := 1 } } }

theorem metRelease_len : metReleaseBody.length = 0xA88 := by decide +kernel

theorem metRelease_zero1 : zeroAt metReleaseBody 1 7 = true := by decide +kernel

theorem metRelease_zero2 : zeroAt metReleaseBody 8 2688 = true := by decide +kernel

theorem test_met_ownerMessagesTakeEffectOnlyWhenTheirSignaturesPass_2 :
    ∃ (s : State) (d : Nat) (f : Flight) (b : List Byte) (m : Owner),
      (Runs s d 0xF160 f) ∧
      (s.mgmt.gauntletWdt = false) ∧
      (f.op 0x2C 1 = 1) ∧
      (f.zeroFrom 0x2D = true) ∧
      (0x40 + sigBytes ≤ f.op 0x28 4) ∧
      (f.op 0x28 4 ≤ 65536) ∧
      (hread s (f.op 0x20 8) (f.op 0x28 4) = some b) ∧
      (parseOwner b (f.op 0x20 8) 1 = some m) ∧
      (kindOk s 1 m = true) ∧
      (fld b 0x10 16 = s.mgmt.idHash) ∧
      (s.gnt.policy.ownerSeq < m.seq) ∧
      (m.op = 2) ∧
      (m.body.length = 0xA88) ∧
      (zeroAt m.body 1 7 = true) ∧
      (zeroAt m.body 8 2688 = true) :=
  ⟨metReleaseState, 0, (admin 0xF160 [(0x20, 0x1000), (0x28, 7483), (0x2C, 1)]), (metReleaseHead ++ (metReleaseBody ++ List.replicate 4723 0)), { buf := 0x1000, all := (metReleaseHead ++ (metReleaseBody ++ List.replicate 4723 0)), seq := fld metReleaseHead 8 8, body := metReleaseBody }, by decide, by decide, by decide, by decide, by decide, by decide, hread_wrote metReleaseState [] 0x1000 7483 (metReleaseHead ++ (metReleaseBody ++ List.replicate 4723 0)) rfl (by decide +kernel) (by decide +kernel), parse_met metReleaseHead metReleaseBody _ _ _ (by decide) (by decide +kernel) (by decide +kernel), by decide +kernel, (fld_left metReleaseHead _ 0x10 16 (by decide)).trans (by decide), by decide +kernel, by decide +kernel, metRelease_len, metRelease_zero1, metRelease_zero2⟩

def metPolicyHead : List Byte := [2, 1, 0, 0, 160, 8, 0, 0, 1] ++ List.replicate 55 0

def metPolicyBody : List Byte :=
  List.replicate 16 0 ++ [0, 0, 0, 0, 0, 0, 0, 0, 0, 255, 255, 255, 255, 255, 255, 255, 0, 0, 0, 0, 0, 0, 0, 0, 0, 255, 255, 255, 255, 255, 255, 255, 0, 0, 0, 0, 0, 0, 0, 0, 0, 255, 255, 255, 255, 255, 255, 255, 0, 0, 0, 0, 0, 0, 255, 255, 255, 255, 255, 255, 255, 255, 255, 255, 0, 0, 0, 0, 0, 0, 0, 0, 0, 255, 255, 255, 255, 255, 255, 255, 0, 0, 0, 0, 0, 0, 0, 0, 0, 255, 255, 255, 255, 255, 255, 255, 0, 0, 0, 0, 0, 0, 0, 0, 0, 255, 255, 255, 255, 255, 255, 255, 0, 0, 0, 0, 0, 0, 255, 255, 255, 255, 255, 255, 255, 255, 255, 255] ++ List.replicate 2064 0

def metPolicyState : State :=
  { sHeld (admin 0xF160 [(0x20, 0x1000), (0x28, 6995), (0x2C, 2)]) with host := mwriteN [] 0x1000 (metPolicyHead ++ (metPolicyBody ++ List.replicate 4723 0)), gnt := { sRun.gnt with policy := { sRun.gnt.policy with flags := 1 } }, parts := [] }

def metPolicyNew : Policy := (parsePolicy metPolicyState.gnt.policy metPolicyBody).getD {}

theorem metPolicy_is : (parsePolicy metPolicyState.gnt.policy metPolicyBody).isSome = true := by decide +kernel

theorem metPolicy_parses : parsePolicy metPolicyState.gnt.policy metPolicyBody = some metPolicyNew := by
  unfold metPolicyNew
  have := metPolicy_is
  cases h : parsePolicy metPolicyState.gnt.policy metPolicyBody with
  | none => rw [h] at this; cases this
  | some x => rfl

theorem test_met_ownerMessagesTakeEffectOnlyWhenTheirSignaturesPass_3 :
    ∃ (s : State) (d : Nat) (f : Flight) (b : List Byte) (m : Owner) (new : Policy),
      (Runs s d 0xF160 f) ∧
      (s.mgmt.gauntletWdt = false) ∧
      (f.op 0x2C 1 = 2) ∧
      (f.zeroFrom 0x2D = true) ∧
      (0x40 + sigBytes ≤ f.op 0x28 4) ∧
      (f.op 0x28 4 ≤ 65536) ∧
      (hread s (f.op 0x20 8) (f.op 0x28 4) = some b) ∧
      (parseOwner b (f.op 0x20 8) 2 = some m) ∧
      (kindOk s 2 m = true) ∧
      (fld b 0x10 16 = s.mgmt.idHash) ∧
      (s.gnt.policy.ownerSeq < m.seq) ∧
      (parsePolicy s.gnt.policy m.body = some new) ∧
      (withdraws s new = false) ∧
      (s.cuff.guestReset = true ∨ sameCuff s.gnt.policy new = true) :=
  ⟨metPolicyState, 0, (admin 0xF160 [(0x20, 0x1000), (0x28, 6995), (0x2C, 2)]), (metPolicyHead ++ (metPolicyBody ++ List.replicate 4723 0)), { buf := 0x1000, all := (metPolicyHead ++ (metPolicyBody ++ List.replicate 4723 0)), seq := fld metPolicyHead 8 8, body := metPolicyBody }, metPolicyNew, by decide, by decide, by decide, by decide, by decide, by decide, hread_wrote metPolicyState [] 0x1000 6995 (metPolicyHead ++ (metPolicyBody ++ List.replicate 4723 0)) rfl (by decide +kernel) (by decide +kernel), parse_met metPolicyHead metPolicyBody _ _ _ (by decide) (by decide +kernel) (by decide +kernel), by decide +kernel, (fld_left metPolicyHead _ 0x10 16 (by decide)).trans (by decide), by decide +kernel, metPolicy_parses, by decide +kernel, by decide⟩

def metPairingHead : List Byte := [3, 1, 0, 0, 40, 0, 0, 0, 1] ++ List.replicate 55 0

def metPairingBody : List Byte :=
  List.replicate 1 0 ++ [1] ++ List.replicate 6 0 ++ [1, 0, 0, 3, 1] ++ List.replicate 27 0

def metPairingState : State :=
  { sHeld (admin 0xF160 [(0x20, 0x1000), (0x28, 4827), (0x2C, 3)]) with host := mwriteN [] 0x1000 (metPairingHead ++ (metPairingBody ++ List.replicate 4723 0)), gnt := { sRun.gnt with policy := { sRun.gnt.policy with flags := 1 } } }

theorem test_met_ownerMessagesTakeEffectOnlyWhenTheirSignaturesPass_4 :
    ∃ (s : State) (d : Nat) (f : Flight) (b : List Byte) (m : Owner) (l : List (Nat × Pairing)) (p : Tbl Pairing),
      (Runs s d 0xF160 f) ∧
      (s.mgmt.gauntletWdt = false) ∧
      (f.op 0x2C 1 = 3) ∧
      (f.zeroFrom 0x2D = true) ∧
      (0x40 + sigBytes ≤ f.op 0x28 4) ∧
      (f.op 0x28 4 ≤ 65536) ∧
      (hread s (f.op 0x20 8) (f.op 0x28 4) = some b) ∧
      (parseOwner b (f.op 0x20 8) 3 = some m) ∧
      (kindOk s 3 m = true) ∧
      (fld b 0x10 16 = s.mgmt.idHash) ∧
      (s.gnt.policy.ownerSeq < m.seq) ∧
      (pairEntries m.body = some l) ∧
      (pairStep (fld m.body 0 1 == 1) l s.gnt.policy.pairings = some p) :=
  ⟨metPairingState, 0, (admin 0xF160 [(0x20, 0x1000), (0x28, 4827), (0x2C, 3)]), (metPairingHead ++ (metPairingBody ++ List.replicate 4723 0)), { buf := 0x1000, all := (metPairingHead ++ (metPairingBody ++ List.replicate 4723 0)), seq := fld metPairingHead 8 8, body := metPairingBody }, [(0, { farPart := 3, ceiling := 1, farHash := 0 })], [(0, { farPart := 3, ceiling := 1, farHash := 0 })], by decide, by decide, by decide, by decide, by decide, by decide, hread_wrote metPairingState [] 0x1000 4827 (metPairingHead ++ (metPairingBody ++ List.replicate 4723 0)) rfl (by decide +kernel) (by decide +kernel), parse_met metPairingHead metPairingBody _ _ _ (by decide) (by decide +kernel) (by decide +kernel), by decide +kernel, (fld_left metPairingHead _ 0x10 16 (by decide)).trans (by decide), by decide +kernel⟩

def metDebugHead : List Byte := [4, 1, 0, 0, 8, 0, 0, 0, 1] ++ List.replicate 55 0

def metDebugBody : List Byte :=
  List.replicate 8 0

def metDebugState : State :=
  { sHeld (admin 0xF160 [(0x20, 0x1000), (0x28, 4795), (0x2C, 4)]) with host := mwriteN [] 0x1000 (metDebugHead ++ (metDebugBody ++ List.replicate 4723 0)), gnt := { sRun.gnt with policy := { sRun.gnt.policy with flags := 1 } } }

theorem test_met_ownerMessagesTakeEffectOnlyWhenTheirSignaturesPass_5 :
    ∃ (s : State) (d : Nat) (f : Flight) (b : List Byte) (m : Owner),
      (Runs s d 0xF160 f) ∧
      (s.mgmt.gauntletWdt = false) ∧
      (f.op 0x2C 1 = 4) ∧
      (f.zeroFrom 0x2D = true) ∧
      (0x40 + sigBytes ≤ f.op 0x28 4) ∧
      (f.op 0x28 4 ≤ 65536) ∧
      (hread s (f.op 0x20 8) (f.op 0x28 4) = some b) ∧
      (parseOwner b (f.op 0x20 8) 4 = some m) ∧
      (kindOk s 4 m = true) ∧
      (fld b 0x10 16 = s.mgmt.idHash) ∧
      (s.gnt.policy.ownerSeq < m.seq) ∧
      (m.body.length = 8) ∧
      (fld m.body 0 1 < 8) ∧
      (zeroAt m.body 1 7 = true) :=
  ⟨metDebugState, 0, (admin 0xF160 [(0x20, 0x1000), (0x28, 4795), (0x2C, 4)]), (metDebugHead ++ (metDebugBody ++ List.replicate 4723 0)), { buf := 0x1000, all := (metDebugHead ++ (metDebugBody ++ List.replicate 4723 0)), seq := fld metDebugHead 8 8, body := metDebugBody }, by decide, by decide, by decide, by decide, by decide, by decide, hread_wrote metDebugState [] 0x1000 4795 (metDebugHead ++ (metDebugBody ++ List.replicate 4723 0)) rfl (by decide +kernel) (by decide +kernel), parse_met metDebugHead metDebugBody _ _ _ (by decide) (by decide +kernel) (by decide +kernel), by decide +kernel, (fld_left metDebugHead _ 0x10 16 (by decide)).trans (by decide), by decide +kernel⟩

def metKeysHead : List Byte := [5, 1, 0, 0, 8, 0, 0, 0, 1] ++ List.replicate 55 0

def metKeysBody : List Byte :=
  List.replicate 8 0

def metKeysState : State :=
  { sHeld (admin 0xF160 [(0x20, 0x1000), (0x28, 4795), (0x2C, 5)]) with host := mwriteN [] 0x1000 (metKeysHead ++ (metKeysBody ++ List.replicate 4723 0)), gnt := { sRun.gnt with policy := { sRun.gnt.policy with flags := 1 } } }

theorem test_met_ownerMessagesTakeEffectOnlyWhenTheirSignaturesPass_6 :
    ∃ (s : State) (d : Nat) (f : Flight) (b : List Byte) (m : Owner),
      (Runs s d 0xF160 f) ∧
      (s.mgmt.gauntletWdt = false) ∧
      (f.op 0x2C 1 = 5) ∧
      (f.zeroFrom 0x2D = true) ∧
      (0x40 + sigBytes ≤ f.op 0x28 4) ∧
      (f.op 0x28 4 ≤ 65536) ∧
      (hread s (f.op 0x20 8) (f.op 0x28 4) = some b) ∧
      (parseOwner b (f.op 0x20 8) 5 = some m) ∧
      (kindOk s 5 m = true) ∧
      (fld b 0x10 16 = s.mgmt.idHash) ∧
      ((releaseBody s m.body = none ∨ ∃ p slot use key, releaseBody s m.body = some (p, [(slot, use, key)]) ∧ bit use 1 = false ∧ bit use 2 = false)) ∧
      (((getP s (fld m.body 0 1)).map (·.inReset)).getD false = false) :=
  ⟨metKeysState, 0, (admin 0xF160 [(0x20, 0x1000), (0x28, 4795), (0x2C, 5)]), (metKeysHead ++ (metKeysBody ++ List.replicate 4723 0)), { buf := 0x1000, all := (metKeysHead ++ (metKeysBody ++ List.replicate 4723 0)), seq := fld metKeysHead 8 8, body := metKeysBody }, by decide, by decide, by decide, by decide, by decide, by decide, hread_wrote metKeysState [] 0x1000 4795 (metKeysHead ++ (metKeysBody ++ List.replicate 4723 0)) rfl (by decide +kernel) (by decide +kernel), parse_met metKeysHead metKeysBody _ _ _ (by decide) (by decide +kernel) (by decide +kernel), by decide +kernel, (fld_left metKeysHead _ 0x10 16 (by decide)).trans (by decide), .inl rfl, by decide +kernel⟩

theorem test_met_ownerMessagesTakeEffectOnlyWhenTheirSignaturesPass_7 :
    ∃ (s : State),
      (s.gnt.debugPending = true) ∧
      (s.gnt.fills = []) :=
  ⟨{ sRun with gnt := { sRun.gnt with debugPending := true, fills := [] } }, by decide⟩

theorem test_met_ownerMessagesTakeEffectOnlyWhenTheirSignaturesPass_8 :
    ∃ (s : State) (p : Nat) (x : Fill),
      (s.pwr.pkg ≠ .trip) ∧
      ((s.gnt.fills.find? fun y => y.part == p) = some x) :=
  ⟨{ sRun with gnt := { sRun.gnt with fills := [{ part := 3, slices := [0], grains := [] }] } }, 3, { part := 3, slices := [0], grains := [] }, by decide⟩

theorem test_met_holidaysAndTestsRunAndEnd_1 :
    ∃ (s : State) (d : Nat) (f : Flight),
      (Runs s d 0xF140 f) ∧
      (f.zero 0x23 1 = true) ∧
      (f.zeroFrom 0x2C = true) ∧
      (1000 ≤ f.op 0x28 4) ∧
      (f.op 0x28 4 ≤ 3600000000) ∧
      (s.hol.open_ = false) ∧
      ((∀ e ∈ s.parts, bit (f.op 0x20 2) e.1 = true → e.2.st ≠ .online)) ∧
      ((∀ k < 8, bit (f.op 0x22 1) k = true → stackHeld s (f.op 0x20 2) k = false)) :=
  ⟨sHeld (admin 0xF140 [(0x20, 2), (0x28, 1000)]), 0, admin 0xF140 [(0x20, 2), (0x28, 1000)], by decide⟩

theorem test_met_holidaysAndTestsRunAndEnd_2 :
    ∃ (s : State) (d : Nat) (f : Flight),
      (Runs s d 0xF140 f) ∧
      (f.zero 0x23 1 = true) ∧
      (f.zeroFrom 0x2C = true) ∧
      (f.op 0x20 2 = 0 ∧ f.op 0x22 1 = 0 ∧ f.op 0x24 4 = 0 ∧ f.op 0x28 4 = 0) ∧
      (s.hol.open_ = true) :=
  ⟨{ sHeld (admin 0xF140 []) with hol := { open_ := true, parts := 3 } }, 0, admin 0xF140 [], by decide⟩

theorem test_met_holidaysAndTestsRunAndEnd_3 :
    ∃ (s : State),
      (s.hol.open_ = true) ∧
      (s.hol.endAt ≤ s.time.now) :=
  ⟨{ sRun with hol := { open_ := true, parts := 3, endAt := 0 } }, by decide⟩

theorem test_met_holidaysAndTestsRunAndEnd_4 :
    ∃ (s : State) (d : Nat) (f : Flight),
      (Runs s d 0xF141 f) ∧
      (f.op 0x20 2 ≤ 255) ∧
      (f.op 0x22 1 = 0) ∧
      (f.zero 0x23 1 = true) ∧
      (f.zeroFrom 0x26 = true) ∧
      ((bit (f.op 0x20 2) 3 = true → f.op 0x24 2 = 0)) ∧
      (covered s { tag := f.tag, set := f.op 0x20 2, calibrate := false, force := false, parts := f.op 0x24 2, by_ := some d } = true) ∧
      (s.hol.running = none) :=
  ⟨sHeld (admin 0xF141 [(0x20, 2)]), 0, admin 0xF141 [(0x20, 2)], by decide⟩

theorem test_met_holidaysAndTestsRunAndEnd_5 :
    ∃ (s : State) (d : Nat) (f : Flight),
      (Runs s d 0xF141 f) ∧
      (f.op 0x20 2 ≤ 255) ∧
      (f.op 0x22 1 = 0) ∧
      (f.zero 0x23 1 = true) ∧
      (f.zeroFrom 0x26 = true) ∧
      ((bit (f.op 0x20 2) 3 = true → f.op 0x24 2 = 0)) ∧
      (covered s { tag := f.tag, set := f.op 0x20 2, calibrate := false, force := false, parts := f.op 0x24 2, by_ := some d } = false) ∧
      (s.hol.deferred.length < 256) :=
  ⟨sHeld (admin 0xF141 [(0x20, 2), (0x24, 1)]), 0, admin 0xF141 [(0x20, 2), (0x24, 1)], by decide⟩

theorem test_met_holidaysAndTestsRunAndEnd_6 :
    ∃ (s : State) (d : Nat) (f : Flight),
      (Runs s d 0xF142 f) ∧
      (f.op 0x20 2 ≤ 15) ∧
      (f.op 0x22 1 = 0) ∧
      (f.zero 0x23 1 = true) ∧
      (f.zeroFrom 0x26 = true) ∧
      (covered s { tag := f.tag, set := f.op 0x20 2, calibrate := true, force := false, parts := f.op 0x24 2, by_ := some d } = true) ∧
      (s.hol.running = none) :=
  ⟨sHeld (admin 0xF142 [(0x20, 2)]), 0, admin 0xF142 [(0x20, 2)], by decide⟩

theorem test_met_holidaysAndTestsRunAndEnd_7 :
    ∃ (s : State) (d : Nat) (f : Flight),
      (Runs s d 0xF142 f) ∧
      (f.op 0x20 2 ≤ 15) ∧
      (f.op 0x22 1 = 0) ∧
      (f.zero 0x23 1 = true) ∧
      (f.zeroFrom 0x26 = true) ∧
      (covered s { tag := f.tag, set := f.op 0x20 2, calibrate := true, force := false, parts := f.op 0x24 2, by_ := some d } = false) ∧
      (s.hol.deferred.length < 256) :=
  ⟨sHeld (admin 0xF142 [(0x20, 2), (0x24, 1)]), 0, admin 0xF142 [(0x20, 2), (0x24, 1)], by decide⟩

theorem test_met_holidaysAndTestsRunAndEnd_8 :
    ∃ (s : State) (v : TestVerdict) (t : TestRun) (d : Nat),
      (s.hol.running = some t) ∧
      (t.by_ = some d) ∧
      (s.hol.open_ = false ∨ s.hol.deferred = []) :=
  ⟨{ sRun with hol := { running := some { tag := 1, set := 1, calibrate := false, force := false, parts := 0, by_ := some 4 } } }, { failing := [], tested := 3, incomplete := false, cal := { dp0 := 0, thetaL := [], thetaF := [], inlet := 0, flow := 0, offsets := [], trims := [] }, trained := [] }, { tag := 1, set := 1, calibrate := false, force := false, parts := 0, by_ := some 4 }, 4, by decide⟩

theorem test_met_pagesAndBanksRetire_1 :
    ∃ (s : State) (d : Nat) (f : Flight),
      (Runs s d 0xF150 f) ∧
      (f.op 0x20 8 % 8192 = 0) ∧
      (arrayAddress s (f.op 0x20 8) = true) ∧
      (f.zeroFrom 0x28 = true) ∧
      (s.flt.retiredPages.contains (frameNo (f.op 0x20 8)) = false) ∧
      (s.flt.retiredPages.length < 4096) :=
  ⟨sHeld (admin 0xF150 [(0x20, 0x4000002000)]), 0, admin 0xF150 [(0x20, 0x4000002000)], by decide⟩

theorem test_met_pagesAndBanksRetire_2 :
    ∃ (s : State) (d : Nat) (f : Flight),
      (Runs s d 0xF150 f) ∧
      (f.op 0x20 8 % 8192 = 0) ∧
      (arrayAddress s (f.op 0x20 8) = true) ∧
      (f.zeroFrom 0x28 = true) ∧
      (s.flt.retiredPages.contains (frameNo (f.op 0x20 8)) = true) :=
  ⟨{ sHeld (admin 0xF150 [(0x20, 0x4000002000)]) with flt := { retiredPages := [frameNo 0x4000002000] } }, 0, admin 0xF150 [(0x20, 0x4000002000)], by decide⟩

theorem test_met_pagesAndBanksRetire_3 :
    ∃ (s : State) (d t b : Nat) (f : Flight),
      (Runs s d 0xF151 f) ∧
      (t = f.op 0x20 2) ∧
      (b = f.op 0x22 2) ∧
      ((t < 512 ∧ b < 32 ∧ retiredIn s t < 4) ∨ (0x8000 ≤ t ∧ t < 0x8008 ∧ b < 64 ∧ retiredIn s t < 16)) ∧
      (f.zeroFrom 0x24 = true) ∧
      ((s.flt.subst.any fun u => u.core == t) = false) ∧
      (s.flt.retiredBanks.contains (t, b) = false) :=
  ⟨sHeld (admin 0xF151 [(0x20, 0x8001), (0x22, 63)]), 0, 0x8001, 63, admin 0xF151 [(0x20, 0x8001), (0x22, 63)], by decide⟩

theorem test_met_pagesAndBanksRetire_4 :
    ∃ (s : State) (t b d : Nat),
      ((s.flt.moving.find? fun m => m.1 == t) = some (t, b, d)) ∧
      (s.pwr.pkg ≠ .trip) :=
  ⟨{ sRun with flt := { moving := [(0x8001, 3, 5)] } }, 0x8001, 3, 5, by decide⟩

theorem test_met_snapshotsAreArmedLatchedAndRead_1 :
    ∃ (s : State) (d : Nat) (f : Flight),
      (Runs s d 0xF180 f) ∧
      (f.op 0x20 1 ≤ 15) ∧
      (f.op 0x21 1 ≤ 8) ∧
      (f.op 0x22 1 = 0xFF ∨ (getP s (f.op 0x22 1)).isSome = true) ∧
      (f.op 0x24 2 < (if f.op 0x22 1 = 0xFF then 16384 else 1024)) ∧
      (f.zero 0x23 1 = true) ∧
      (f.zero 0x26 2 = true) ∧
      (f.zeroFrom 0x30 = true) ∧
      (bit (f.op 0x20 1) 0 = false) :=
  ⟨sHeld (admin 0xF180 [(0x20, 0x000802), (0x22, 0xFF), (0x24, 16383)]), 0, admin 0xF180 [(0x20, 0x000802), (0x22, 0xFF), (0x24, 16383)], by decide⟩

theorem test_met_snapshotsAreArmedLatchedAndRead_2 :
    ∃ (s : State) (d i : Nat) (f : Flight),
      (Runs s d 0xF181 f) ∧
      (f.op 0x20 1 = 0xFF ∨ f.op 0x20 1 ≤ 15 ∧ (getP s (f.op 0x20 1)).isSome = true ∧ inReset s (f.op 0x20 1) = false) ∧
      (f.zeroFrom 0x21 = true) ∧
      (freeBank s = some i) :=
  ⟨sHeld (admin 0xF181 [(0x20, 0)]), 0, 0, admin 0xF181 [(0x20, 0)], by decide⟩

theorem test_met_snapshotsAreArmedLatchedAndRead_3 :
    ∃ (s : State) (i : Nat),
      (bit s.snap.armed 3 = true) ∧
      (s.snap.scope = 0xFF ∨ inReset s s.snap.scope = false) ∧
      (freeBank s = some i) :=
  ⟨{ sRun with snap := { armed := 8 } }, 0, by decide⟩

theorem test_met_snapshotsAreArmedLatchedAndRead_4 :
    ∃ (s : State) (d : Nat) (f : Flight) (b : Bank),
      (Runs s d 0xF182 f) ∧
      (f.op 0x20 1 ≤ 1) ∧
      (f.zero 0x21 3 = true) ∧
      (f.zeroFrom 0x30 = true) ∧
      (s.snap.banks[f.op 0x20 1]? = some b) ∧
      (b.st ≠ 0) ∧
      (b.debug = false ∨ s.gnt.debug = true) ∧
      (f.op 0x24 4 < (imageOf s b).1.length) :=
  ⟨{ sHeld (admin 0xF182 [(0x20, 1)]) with snap := { banks := [{}, { st := 1 }] } }, 0, admin 0xF182 [(0x20, 1)], { st := 1 }, by decide⟩

theorem test_met_snapshotsAreArmedLatchedAndRead_5 :
    ∃ (s : State) (d : Nat) (f : Flight) (b : Bank),
      (Runs s d 0xF182 f) ∧
      (f.op 0x20 1 ≤ 1) ∧
      (f.zero 0x21 3 = true) ∧
      (f.zeroFrom 0x30 = true) ∧
      (s.snap.banks[f.op 0x20 1]? = some b) ∧
      (b.st ≠ 0) ∧
      (b.debug = false ∨ s.gnt.debug = true) ∧
      ((imageOf s b).1.length ≤ f.op 0x24 4) ∧
      (hostBad s (f.op 0x28 8) (imageOf s b).1.length = false) :=
  ⟨{ sHeld (admin 0xF182 [(0x20, 1), (0x24, 1000), (0x28, 0x1000)]) with snap := { banks := [{}, { st := 1 }] } }, 0, admin 0xF182 [(0x20, 1), (0x24, 1000), (0x28, 0x1000)], { st := 1 }, by decide⟩

def metCopyState : State :=
  sWork [(0, recordOf 1024 5 [4] []), (64, recordOf 1280 5 [4] []), (0x400, [1, 2, 3, 4])] (running 0x0001 [(0x20, 2 ^ 46), (0x28, 2 ^ 46 + 0x40)])

theorem test_met_moveOperationsCopyFillAndMap_1 :
    ∃ (s v : State) (d : Nat) (f : Flight) (a b : Tensor) (data : List (List (Byte × Bool))),
      (Runs s d 0x0001 f) ∧
      (f.zeroFrom 0x30 = true) ∧
      (operand s (cxOf s f d) (f.op 0x20 8) = .ok a) ∧
      (operand s (cxOf s f d) (f.op 0x28 8) = .ok b) ∧
      (a.fmt = b.fmt) ∧
      (a.ext = b.ext) ∧
      (isMx a.fmt = false) ∧
      (rowsP s (cxOf s f d) a = .ok data) ∧
      (meets (b.places s (cxOf s f d)) (a.places s (cxOf s f d) ++ (placesOf s (cxOf s f d) (f.op 0x20 8) 64 ++ placesOf s (cxOf s f d) (f.op 0x28 8) 64)) = false) ∧
      (writeRowsP (touchRead s (cxOf s f d) a) (cxOf s f d) b data = .ok v) :=
  ⟨metCopyState, _, 0, running 0x0001 [(0x20, 2 ^ 46), (0x28, 2 ^ 46 + 0x40)], tensorOf 0x400 5 [4] [], tensorOf 0x500 5 [4] [], [[(1, false), (2, false), (3, false), (4, false)]], by decide +kernel, by decide +kernel, is_met (by decide +kernel), is_met (by decide +kernel), rfl, rfl, rfl, is_met (by decide +kernel), by decide +kernel, ok_met (by decide +kernel)⟩

def metFillState : State :=
  sWork [(0, recordOf 1024 5 [4] [])] (running 0x0002 [(0x28, 2 ^ 46), (0x30, 7)])

theorem test_met_moveOperationsCopyFillAndMap_2 :
    ∃ (s v : State) (d : Nat) (f : Flight) (t : Tensor),
      (Runs s d 0x0002 f) ∧
      (f.zero 0x20 8 = true) ∧
      (f.zeroFrom 0x38 = true) ∧
      (operand s (cxOf s f d) (f.op 0x28 8) = .ok t) ∧
      (meets (t.places s (cxOf s f d)) (placesOf s (cxOf s f d) (f.op 0x28 8) 64) = false) ∧
      (writeCodes s (cxOf s f d) t (fillCodes t (f.op 0x30 8)) = .ok v) :=
  ⟨metFillState, _, 0, running 0x0002 [(0x28, 2 ^ 46), (0x30, 7)], tensorOf 0x400 5 [4] [], by decide +kernel, by decide +kernel, by decide +kernel, is_met (by decide +kernel), by decide +kernel, ok_met (by decide +kernel)⟩

def metToHostState : State :=
  sWork [(0, recordOf 1024 5 [4] []), (0x400, [1, 2, 3, 4])] (running 0x0010 [(0x20, 2 ^ 46), (0x28, 0x1000)])

theorem test_met_moveOperationsCopyFillAndMap_3 :
    ∃ (s : State) (d : Nat) (f : Flight) (t : Tensor) (data : List (List (Byte × Bool))),
      (Runs s d 0x0010 f) ∧
      (f.zeroFrom 0x30 = true) ∧
      (isSealed s f.part = false) ∧
      (operand s (cxOf s f d) (f.op 0x20 8) = .ok t) ∧
      (rowsP s (cxOf s f d) t = .ok data) ∧
      (hostBad s (f.op 0x28 8) data.flatten.length = false) :=
  ⟨metToHostState, 0, running 0x0010 [(0x20, 2 ^ 46), (0x28, 0x1000)], tensorOf 0x400 5 [4] [], [[(1, false), (2, false), (3, false), (4, false)]], by decide +kernel, by decide +kernel, by decide +kernel, is_met (by decide +kernel), is_met (by decide +kernel), by decide +kernel⟩

def metFromHostState : State :=
  sWork [(0, recordOf 1024 5 [4] [])] (running 0x0011 [(0x20, 0x1000), (0x28, 2 ^ 46)])

theorem test_met_moveOperationsCopyFillAndMap_4 :
    ∃ (s v : State) (d : Nat) (f : Flight) (t : Tensor) (bs : List Byte),
      (Runs s d 0x0011 f) ∧
      (f.zeroFrom 0x30 = true) ∧
      (isSealed s f.part = false) ∧
      (operand s (cxOf s f d) (f.op 0x28 8) = .ok t) ∧
      (hread s (f.op 0x20 8) t.bytes = some bs) ∧
      (meets (t.places s (cxOf s f d)) (placesOf s (cxOf s f d) (f.op 0x28 8) 64) = false) ∧
      (writeCodes s (cxOf s f d) t ((chunks t.rowBytes bs).flatMap (unpack t.fmt)) = .ok v) :=
  ⟨metFromHostState, _, 0, running 0x0011 [(0x20, 0x1000), (0x28, 2 ^ 46)], tensorOf 0x400 5 [4] [], [0, 0, 0, 0], by decide +kernel, by decide +kernel, by decide +kernel, is_met (by decide +kernel), by decide +kernel, by decide +kernel, ok_met (by decide +kernel)⟩

def metMapState : State :=
  sWork [] (running 0x0020 [(0x20, 2 ^ 46 + 2 ^ 24), (0x28, 2 ^ 38 + 2 ^ 25), (0x30, 1), (0x34, 1), (0x35, 1)])

theorem test_met_moveOperationsCopyFillAndMap_5 :
    ∃ (s v : State) (d : Nat) (f : Flight),
      (Runs s d 0x0020 f) ∧
      (f.op 0x20 8 % pageSize (f.op 0x34 1) = 0) ∧
      (f.op 0x28 8 % pageSize (f.op 0x34 1) = 0) ∧
      (f.op 0x30 4 = 1) ∧
      (f.op 0x34 1 ≤ 2) ∧
      (f.op 0x35 1 ≤ 1) ∧
      (f.zero 0x36 2 = true) ∧
      (f.zeroFrom 0x38 = true) ∧
      (f.op 0x20 8 + pageSize (f.op 0x34 1) ≤ 0x7F0000000000) ∧
      (pteV (entryAt s f.part (f.op 0x20 8) (f.op 0x34 1)) = false) ∧
      (crosses (f.op 0x28 8) (pageSize (f.op 0x34 1)) = false) ∧
      (pageOk s f.part (f.op 0x28 8) (pageSize (f.op 0x34 1)) = true) ∧
      (mapLeaf (claimGrain s f.part (f.op 0x28 8)) f.part (f.op 0x20 8) (f.op 0x34 1) (mkLeaf (f.op 0x28 8) (bit (f.op 0x35 1) 0) false false) = some v) :=
  ⟨metMapState, _, 0, running 0x0020 [(0x20, 2 ^ 46 + 2 ^ 24), (0x28, 2 ^ 38 + 2 ^ 25), (0x30, 1), (0x34, 1), (0x35, 1)], by decide +kernel, by decide +kernel, (by decide +kernel), by decide +kernel, by decide +kernel, (by decide +kernel), by decide +kernel, by decide +kernel, (by decide +kernel), by decide +kernel, by decide +kernel, (by decide +kernel), some_met State.reset (by decide +kernel)⟩

def metUnmapState : State :=
  sWork [] (running 0x0021 [(0x20, 2 ^ 46), (0x30, 1), (0x34, 1)])

theorem test_met_moveOperationsCopyFillAndMap_6 :
    ∃ (s : State) (d : Nat) (f : Flight) (e : Nat),
      (Runs s d 0x0021 f) ∧
      (f.op 0x20 8 % pageSize (f.op 0x34 1) = 0) ∧
      (f.op 0x30 4 = 1) ∧
      (f.op 0x34 1 ≤ 2) ∧
      (f.zero 0x28 8 = true) ∧
      (f.zero 0x35 3 = true) ∧
      (f.zeroFrom 0x38 = true) ∧
      (f.op 0x20 8 + pageSize (f.op 0x34 1) ≤ 0x7F0000000000) ∧
      (pteV (entryAt s f.part (f.op 0x20 8) (f.op 0x34 1)) = true) ∧
      (leafOf s f.part (f.op 0x20 8) = some (e, f.op 0x34 1)) ∧
      (pageInUse s f.part (f.op 0x20 8) (pageSize (f.op 0x34 1)) = false) :=
  ⟨metUnmapState, 0, running 0x0021 [(0x20, 2 ^ 46), (0x30, 1), (0x34, 1)], mkLeaf (2 ^ 38 + 2 ^ 23) true false false, by decide +kernel⟩

def metPoolState : State :=
  sWork [] (running 0x0022 [(0x20, 2 ^ 38 + 2 ^ 20), (0x30, 2)])

theorem test_met_moveOperationsCopyFillAndMap_7 :
    ∃ (s : State) (d : Nat) (f : Flight) (frames : List Nat),
      (Runs s d 0x0022 f) ∧
      (f.op 0x30 4 ≠ 0) ∧
      (f.op 0x20 8 % 8192 = 0) ∧
      (f.zero 0x28 8 = true) ∧
      (f.zero 0x34 4 = true) ∧
      (f.zeroFrom 0x38 = true) ∧
      (frames = (List.range (f.op 0x30 4)).map fun i => f.op 0x20 8 / 8192 + i) ∧
      ((∀ fr ∈ frames, frameOk s f.part (fr * 8192) false false true = true ∧ frameMapped s fr = false)) :=
  ⟨metPoolState, 0, running 0x0022 [(0x20, 2 ^ 38 + 2 ^ 20), (0x30, 2)], [2 ^ 25 + 2 ^ 7, 2 ^ 25 + 2 ^ 7 + 1], by decide +kernel⟩

theorem test_met_countersAddWaitPairAndRead_1 :
    ∃ (s : State) (d : Nat) (f : Flight),
      (Runs s d 0x8000 f) ∧
      (f.zeroFrom 0x20 = true) :=
  ⟨sHeld (running 0x8000 []), 0, running 0x8000 [], by decide⟩

theorem test_met_countersAddWaitPairAndRead_2 :
    ∃ (s : State) (d : Nat) (f : Flight),
      (Runs s d 0x8001 f) ∧
      (inReset s f.part = false) ∧
      (((syncEntries f).all fun e => decide (e.1 < 1024) && !counterFar s e.1) = true) :=
  ⟨sHeld (running 0x8001 [(0x20, 1023 + 65536 * 5)]), 0, running 0x8001 [(0x20, 1023 + 65536 * 5)], by decide⟩

theorem test_met_countersAddWaitPairAndRead_3 :
    ∃ (s : State) (d : Nat) (f : Flight),
      (Runs s d 0x8002 f) ∧
      (((syncEntries f).all fun e => decide (e.1 < 1024) && !counterFar s e.1) = true) ∧
      (f.stepOf = none) ∧
      (∀ e ∈ syncEntries f, e.2 ≤ ctrOf s f.part e.1) :=
  ⟨{ sHeld (running 0x8002 [(0x20, 7 + 65536 * 5)]) with sync := { counters := [(7, 5)] } }, 0, running 0x8002 [(0x20, 7 + 65536 * 5)], by decide⟩

theorem test_met_countersAddWaitPairAndRead_4 :
    ∃ (s : State) (d a b n : Nat) (f : Flight),
      (Runs s d 0x8010 f) ∧
      (f.op 0x22 2 = a) ∧
      (f.op 0x24 2 = b) ∧
      (f.op 0x26 2 = n) ∧
      (a < 1024) ∧
      (b < 1024) ∧
      (a ≠ b) ∧
      (a / 512 = b / 512) ∧
      (n ≠ 0) ∧
      (s.fab.severed = false ∨ a < 512) ∧
      (tfind s.sync.pairs (256 * f.part + f.op 0x20 1) = none) ∧
      (pairOf s f.part a = none) ∧
      (pairOf s f.part b = none) ∧
      (f.zero 0x21 1 = true) ∧
      (f.zeroFrom 0x28 = true) ∧
      (ctrOf s f.part b ≤ ctrOf s f.part a) ∧
      (ctrOf s f.part a ≤ ctrOf s f.part b + n) :=
  ⟨sHeld (running 0x8010 [(0x20, 3), (0x22, 1023), (0x24, 512), (0x26, 1)]), 0, 1023, 512, 1, running 0x8010 [(0x20, 3), (0x22, 1023), (0x24, 512), (0x26, 1)], by decide⟩

theorem test_met_countersAddWaitPairAndRead_5 :
    ∃ (s : State) (d : Nat) (f : Flight),
      (Runs s d 0x8011 f) ∧
      (f.zeroFrom 0x21 = true) ∧
      ((tfind s.sync.pairs (256 * f.part + f.op 0x20 1)).isSome = true) :=
  ⟨{ sHeld (running 0x8011 [(0x20, 3)]) with sync := { pairs := [(3, { producer := 1, consumer := 2, n := 3 })] } }, 0, running 0x8011 [(0x20, 3)], by decide⟩

def metSyncReadState : State := sWork [] (running 0x8020 [(0x20, 2 ^ 46), (0x28, 1022), (0x2A, 2)])

theorem test_met_countersAddWaitPairAndRead_6 :
    ∃ (s v : State) (d c n : Nat) (f : Flight),
      (Runs s d 0x8020 f) ∧
      (f.op 0x28 2 = c) ∧
      (f.op 0x2A 2 = n) ∧
      (f.op 0x20 8 < 2 ^ 47 ∨ 2 ^ 48 ≤ f.op 0x20 8) ∧
      (f.op 0x20 8 % 8 = 0) ∧
      (n ≠ 0) ∧
      (n ≤ 256) ∧
      (c + n ≤ 1024) ∧
      (f.zeroFrom 0x2C = true) ∧
      (s.fab.severed = false ∨ c + n ≤ 512) ∧
      (vwrite s (cxOf s f d) (f.op 0x20 8) ((List.range n).flatMap fun i => toLe 8 (ctrOf s f.part (c + i))) = .ok v) :=
  ⟨metSyncReadState, _, 0, 1022, 2, running 0x8020 [(0x20, 2 ^ 46), (0x28, 1022), (0x2A, 2)], by decide +kernel, rfl, rfl, by decide +kernel, by decide +kernel, by decide, by decide, by decide, by decide +kernel, by decide, ok_met (by decide +kernel)⟩

theorem test_met_countersAddWaitPairAndRead_7 :
    ∃ (s : State) (p c n : Nat),
      (p < 16) ∧
      (c < 1024) ∧
      (counterFar s c = false) ∧
      (n ≠ 0) ∧
      (inReset s p = false) :=
  ⟨{ sRun with sync := { counters := [(1023, 2 ^ 64 - 1)] } }, 0, 1023, 2 ^ 64 - 1, by decide⟩

/-- A plain DATA flit numbered 4095, with its CRC. -/
def metFlit : Flit :=
  { bytes := (toLe 4 0xFFF1 ++ List.replicate 244 0) ++ toLe 8 (crc64 (toLe 4 0xFFF1 ++ List.replicate 244 0)), codeOk := true, badWave := none }

theorem test_met_portsTrainGreetAuthenticateAndCarryFlits_1 :
    ∃ (s : State) (port : Nat) (f : Flit),
      (port < 32) ∧
      ((getPort s port).st = .hello ∨ (getPort s port).st = .auth ∨ (getPort s port).st = .unexpected ∨ (getPort s port).st = .up) ∧
      (f.bytes.length = 256) ∧
      (f.codeOk = true) ∧
      ((getPort s port).even = none) ∧
      ((getPort s port).keyed = false ∨ flitSeq f % 2 = 1) ∧
      (flitSeq f = (getPort s port).seqExp) ∧
      (flitCrcOk f = true) ∧
      (flitNak f = false) :=
  ⟨{ sRun with plauf := { ports := [(31, { st := .up, seqExp := 4095 })] } }, 31, metFlit, by decide +kernel⟩

theorem test_met_portsTrainGreetAuthenticateAndCarryFlits_2 :
    ∃ (s : State) (port : Nat) (f : Flit),
      (port < 32) ∧
      ((getPort s port).st = .hello ∨ (getPort s port).st = .auth ∨ (getPort s port).st = .unexpected ∨ (getPort s port).st = .up) ∧
      (f.bytes.length = 256) ∧
      (f.codeOk = true) ∧
      ((getPort s port).even = none) ∧
      ((getPort s port).keyed = true) ∧
      (flitSeq f % 2 = 0) ∧
      (flitSeq f = (getPort s port).seqExp) :=
  ⟨{ sRun with plauf := { ports := [(31, { st := .up, keyed := true, seqExp := 4094 })] } }, 31, { metFlit with bytes := toLe 4 0xFFE0 ++ List.replicate 252 0 }, by decide +kernel⟩

/-- A port with two keys that holds the first flit of a pair. -/
def metPair (a : List Byte) : State :=
  { sRun with plauf := { ports := [(31, { st := .auth, keyed := true, keys := [1, 2], salts := [3, 4], even := some a })] } }

theorem test_met_portsTrainGreetAuthenticateAndCarryFlits_3 :
    ∃ (s : State) (port : Nat) (f : Flit) (a body : List Byte),
      (port < 32) ∧
      ((getPort s port).st = .hello ∨ (getPort s port).st = .auth ∨ (getPort s port).st = .unexpected ∨ (getPort s port).st = .up) ∧
      (f.bytes.length = 256) ∧
      (f.codeOk = true) ∧
      ((getPort s port).even = some a) ∧
      (flitSeq f = ((getPort s port).seqExp + 1) % 4096) ∧
      (((rxKey (getPort s port) (flitPhase { f with bytes := a })).bind fun k => openPair k.1 k.2.1 k.2.2 a f.bytes) = some body) ∧
      (flitNak { f with bytes := a } = false) ∧
      (flitNak f = false) ∧
      ((getPort s port).st ≠ .up) :=
  by
  obtain ⟨a, b, _, la, lb, ha, hb, ho⟩ := openPair_sealed 2 4 0 (toLe 8 0) (toLe 8 16) [] rfl rfl
  have f4 : ∀ x : List Byte, (x.take 8).take 4 = x.take 4 := fun x => by rw [List.take_take]; rfl
  have wa : fld a 0 4 = 0 := by unfold fld; rw [List.drop_zero, ← f4, ha]; decide +kernel
  have wb : fld b 0 4 = 16 := by unfold fld; rw [List.drop_zero, ← f4, hb]; decide +kernel
  refine ⟨metPair a, 31, { bytes := b, codeOk := true, badWave := none }, a, fit 480 (gcmCrypt 2 (pairIv 4 0) (fit 480 (gcmCrypt 2 (pairIv 4 0) []))), by decide, .inr (.inl rfl), lb, rfl, rfl, ?_, ?_, ?_, ?_, fun h => PortSt.noConfusion (show PortSt.auth = PortSt.up from h)⟩
  · unfold flitSeq flitWord; rw [wb]; rfl
  · unfold flitPhase flitWord; rw [wa]; exact ho
  · unfold flitNak flitWord; rw [wa]; decide +kernel
  · unfold flitNak flitWord; rw [wb]; decide +kernel

theorem test_met_portsTrainGreetAuthenticateAndCarryFlits_4 :
    ∃ (s : State) (port : Nat) (f : Flit),
      (port < 32) ∧
      ((getPort s port).st = .hello ∨ (getPort s port).st = .auth ∨ (getPort s port).st = .unexpected ∨ (getPort s port).st = .up) ∧
      (f.bytes.length = 256) ∧
      (f.codeOk = false) ∧
      ((getPort s port).replays < 8) :=
  ⟨{ sRun with plauf := { ports := [(31, { st := .up, seqExp := 4095, replays := 7 })] } }, 31, { metFlit with codeOk := false, badWave := some 3 }, by decide +kernel⟩

theorem test_met_portsTrainGreetAuthenticateAndCarryFlits_5 :
    ∃ (s : State) (port : Nat) (f : Flit),
      (port < 32) ∧
      ((getPort s port).st = .hello ∨ (getPort s port).st = .auth ∨ (getPort s port).st = .unexpected ∨ (getPort s port).st = .up) ∧
      (f.bytes.length = 256) ∧
      (f.codeOk = true) ∧
      ((getPort s port).seqExp < 4096) ∧
      ((getPort s port).even = none) ∧
      ((0 < ((getPort s port).seqExp + 4096 - flitSeq f) % 4096 ∧ ((getPort s port).seqExp + 4096 - flitSeq f) % 4096 < 2049)) :=
  ⟨{ sRun with plauf := { ports := [(31, { st := .up, seqExp := 0 })] } }, 31, metFlit, by decide +kernel⟩

theorem test_met_portsTrainGreetAuthenticateAndCarryFlits_6 :
    ∃ (s : State) (port : Nat),
      ((getPort s port).st = .train) ∧
      ((getPort s port).trainSince + 100000000 ≤ s.time.now) :=
  ⟨{ sRun with plauf := { ports := [(31, { st := .train, fromUp := true })] }, time := { now := 100000000 } }, 31, by decide⟩

theorem test_met_portsTrainGreetAuthenticateAndCarryFlits_7 :
    ∃ (s : State) (port : Nat),
      (port < 32) ∧
      (((getPort s port).st = .train ∧ ((getPort s port).fromUp && (getPort s port).keyed) = false) ∨ ((getPort s port).st = .down ∧ (getPort s port).holds = [] ∧ 0 < (getPort s port).authRetryAt ∧ (getPort s port).authRetryAt ≤ s.time.now)) :=
  ⟨{ sRun with plauf := { ports := [(31, { st := .train, fromUp := true })] } }, 31, by decide⟩

theorem test_met_portsTrainGreetAuthenticateAndCarryFlits_8 :
    ∃ (s : State) (port : Nat),
      (port < 32) ∧
      ((getPort s port).st = .train) ∧
      ((getPort s port).fromUp = true) ∧
      ((getPort s port).keyed = true) :=
  ⟨{ sRun with plauf := { ports := [(0, { st := .train, fromUp := true, keyed := true })] } }, 0, by decide⟩

theorem test_met_portsTrainGreetAuthenticateAndCarryFlits_9 :
    ∃ (s : State) (port hash farPort nonce : Nat),
      ((getPort s port).st = .hello) :=
  ⟨{ sRun with plauf := { ports := [(0, { st := .hello })] } }, 0, 0, 0, 0, by decide⟩

theorem test_met_portsTrainGreetAuthenticateAndCarryFlits_10 :
    ∃ (s : State) (port version hash farPort nonce : Nat),
      ((getPort s port).st = .hello) ∧
      (version ≠ 1) :=
  ⟨{ sRun with plauf := { ports := [(0, { st := .hello })] } }, 0, 2, 0, 0, 0, by decide⟩

theorem test_met_portsTrainGreetAuthenticateAndCarryFlits_11 :
    ∃ (s : State) (port pub : Nat) (chain sig : List Byte),
      ((getPort s port).st = .auth) ∧
      ((getPort s port).keyed = false) ∧
      (s.mgmt.gauntletWdt = false) :=
  ⟨{ sRun with plauf := { ports := [(0, { st := .auth })] } }, 0, 0, [], [], by decide⟩

theorem test_met_portsTrainGreetAuthenticateAndCarryFlits_12 :
    ∃ (s : State) (port hash farPort ownerHash pkg waves : Nat),
      ((getPort s port).st = .auth) ∧
      ((getPort s port).keyed = true) :=
  ⟨{ sRun with plauf := { ports := [(0, { st := .auth, keyed := true })] } }, 0, 0, 0, 0, 0, 0, by decide⟩

theorem test_met_portsTrainGreetAuthenticateAndCarryFlits_13 :
    ∃ (s : State) (port dir : Nat),
      ((getPort s port).keyed = true) ∧
      (dir < 2) :=
  ⟨{ sRun with plauf := { ports := [(0, { st := .up, keyed := true, keys := [1, 2] })] } }, 0, 1, by decide⟩

theorem test_met_lightLinesAndWavelengthsComeAndGo_1 :
    ∃ (s : State) (port wave : Nat),
      (port < 32) ∧
      (wave < 16) ∧
      ((getPort s port).st ≠ .retired) ∧
      ((getPort s port).retiredWaves.contains wave = false) :=
  ⟨{ sRun with plauf := { ports := [(31, { st := .up, retiredWaves := [0, 1, 2, 3, 4, 5, 6, 7] })] } }, 31, 15, by decide⟩

theorem test_met_lightLinesAndWavelengthsComeAndGo_2 :
    ∃ (s : State) (port line : Nat) (ringOk : Bool),
      (port < 32) ∧
      (line < 16) ∧
      ((getPort s port).st ≠ .retired) ∧
      ((getPort s port).st ≠ .down) ∧
      ((getPort s port).spareRing = true) :=
  ⟨{ sRun with plauf := { ports := [(31, { st := .up })] } }, 31, 15, false, by decide⟩

theorem test_met_lightLinesAndWavelengthsComeAndGo_3 :
    ∃ (s : State) (engine line : Nat),
      (engine < 8) ∧
      (line < 16) ∧
      (s.plauf.lowLines.contains (engine, line) = false) :=
  ⟨sRun, 7, 15, by decide⟩

theorem test_met_lightLinesAndWavelengthsComeAndGo_4 :
    ∃ (s : State) (engine line : Nat),
      (s.plauf.lowLines.contains (engine, line) = true) :=
  ⟨{ sRun with plauf := { lowLines := [(7, 15)] } }, 7, 15, by decide⟩

theorem test_met_lightLinesAndWavelengthsComeAndGo_5 :
    ∃ (s : State) (engine : Nat),
      (engine < 8) ∧
      (s.plauf.laserOut.contains engine = false) :=
  ⟨sRun, 7, by decide⟩

theorem test_met_lightLinesAndWavelengthsComeAndGo_6 :
    ∃ (s : State) (engine : Nat),
      (s.plauf.laserOut.contains engine = true) :=
  ⟨{ sRun with plauf := { laserOut := [7] } }, 7, by decide⟩

theorem test_met_lightLinesAndWavelengthsComeAndGo_7 :
    ∃ (s : State) (port : Nat),
      (port < 32) ∧
      ((getPort s port).st ≠ .retired) :=
  ⟨{ sRun with plauf := { ports := [(31, { st := .up })] } }, 31, by decide⟩

theorem test_met_lightLinesAndWavelengthsComeAndGo_8 :
    ∃ (s : State) (port : Nat),
      (port < 32) :=
  ⟨sRun, 31, by decide⟩

theorem test_met_windowsOpenAndClose_1 :
    ∃ (s : State) (d : Nat) (f : Flight),
      (Runs s d 0x9010 f) ∧
      (f.op 0x21 1 < 32) ∧
      (f.op 0x22 1 ≤ 7) ∧
      (13 ≤ f.op 0x23 1) ∧
      (f.op 0x23 1 ≤ 40) ∧
      (f.op 0x24 1 < 64 ∨ f.op 0x24 1 = 0xFF) ∧
      (f.op 0x28 8 % 8192 = 0) ∧
      (f.op 0x28 8 + 2 ^ f.op 0x23 1 ≤ 0x7F0000000000) ∧
      (f.op 0x26 2 + f.op 0x30 2 ≤ 1024) ∧
      (bit (f.op 0x21 1) 3 = true → f.op 0x30 2 ≠ 0) ∧
      (f.zero 0x25 1 = true) ∧
      (f.zeroFrom 0x32 = true) ∧
      (tfind s.plauf.exports (256 * f.part + f.op 0x20 1) = none) ∧
      (if f.op 0x24 1 = 0xFF then anyPairing s f.part = true else ∃ x ∈ pairingOf s f.part (f.op 0x24 1), ∀ i < 5, bit (f.op 0x21 1) i = true → bit x.ceiling i = true) :=
  ⟨{ sHeld (running 0x9010 [(0x20, 255), (0x21, 31), (0x22, 7), (0x23, 40), (0x24, 63), (0x26, 1023), (0x30, 1)]) with gnt := { sRun.gnt with policy := { sRun.gnt.policy with pairings := [(63, { farPart := 0, farHash := 0, ceiling := 31 })] } } }, 0, running 0x9010 [(0x20, 255), (0x21, 31), (0x22, 7), (0x23, 40), (0x24, 63), (0x26, 1023), (0x30, 1)], by decide⟩

theorem test_met_windowsOpenAndClose_2 :
    ∃ (s : State) (d : Nat) (f : Flight) (e : Export),
      (Runs s d 0x9011 f) ∧
      (f.zeroFrom 0x21 = true) ∧
      (tfind s.plauf.exports (256 * f.part + f.op 0x20 1) = some e) ∧
      (e.unexportBy = none) :=
  ⟨{ sHeld (running 0x9011 [(0x20, 255)]) with plauf := { exports := [(255, { rights := 1, cls := 0, sizeLog2 := 13, handle := 0, firstCounter := 0, base := 0, counters := 0 })] } }, 0, running 0x9011 [(0x20, 255)], { rights := 1, cls := 0, sizeLog2 := 13, handle := 0, firstCounter := 0, base := 0, counters := 0 }, by decide⟩

theorem test_met_windowsOpenAndClose_3 :
    ∃ (s : State) (d key : Nat) (e : Export),
      (s.plauf.exports.find? (fun e => e.2.unexportBy == some d) = some (key, e)) ∧
      (e.inUse = 0) :=
  ⟨{ sRun with plauf := { exports := [(255, { rights := 1, cls := 0, sizeLog2 := 13, handle := 0, firstCounter := 0, base := 0, counters := 0, unexportBy := some 3 })] } }, 3, 255, { rights := 1, cls := 0, sizeLog2 := 13, handle := 0, firstCounter := 0, base := 0, counters := 0, unexportBy := some 3 }, by decide⟩

theorem test_met_windowsOpenAndClose_4 :
    ∃ (s : State) (d : Nat) (f : Flight) (pr : Pairing),
      (Runs s d 0x9012 f) ∧
      (f.op 0x21 1 < 64) ∧
      (f.zeroFrom 0x23 = true) ∧
      (tfind s.plauf.imports (256 * f.part + f.op 0x20 1) = none) ∧
      (pairingOf s f.part (f.op 0x21 1) = some pr) ∧
      (groupOf s pr.farHash ≠ []) :=
  ⟨{ sHeld (running 0x9012 [(0x20, 255), (0x21, 63)]) with gnt := { sRun.gnt with policy := { sRun.gnt.policy with pairings := [(63, { farPart := 0, farHash := 5, ceiling := 15 })] } }, plauf := { ports := [(31, { st := .up, farHash := 5 })] } }, 0, running 0x9012 [(0x20, 255), (0x21, 63)], { farPart := 0, farHash := 5, ceiling := 15 }, by decide⟩

theorem test_met_windowsOpenAndClose_5 :
    ∃ (s : State) (d : Nat) (f : Flight) (im : Import),
      (Runs s d 0x9013 f) ∧
      (f.zeroFrom 0x21 = true) ∧
      (importOf s f.part (f.op 0x20 1) = some im) ∧
      (im.bound = true) ∧
      (importUsed s f.part (f.op 0x20 1) = false) :=
  ⟨{ sHeld (running 0x9013 [(0x20, 255)]) with plauf := { imports := [(255, { handle := 3, exportId := 0, by_ := 0, bound := true })] } }, 0, running 0x9013 [(0x20, 255)], { handle := 3, exportId := 0, by_ := 0, bound := true }, by decide⟩

def metRemote (op : Nat) (l : List (Nat × Nat)) (m : List (Nat × List Byte)) : State :=
  let s := sWork m (running op l)
  { s with
    gnt := { s.gnt with policy := { s.gnt.policy with pairings := [(3, { farPart := 0, farHash := 5, ceiling := 15 })] } }
    plauf := { ports := [(31, { st := .up, farHash := 5, keyed := true })]
               imports := [(9, { handle := 3, exportId := 0, by_ := 0, bound := true, rights := 15, counters := 4 })] } }

def metImport : Import := { handle := 3, exportId := 0, by_ := 0, bound := true, rights := 15, counters := 4 }

theorem test_met_remoteAndSealedTransfersLeave_1 :
    ∃ (s : State) (d : Nat) (f : Flight) (im : Import),
      (Runs s d 0x9001 f) ∧
      (f.fEve = false) ∧
      (f.zero 0x29 7 = true) ∧
      (f.zeroFrom 0x3C = true) ∧
      (f.op 0x38 4 % 64 = 0) ∧
      (64 ≤ f.op 0x38 4) ∧
      (f.op 0x38 4 ≤ 2 ^ 26) ∧
      (f.op 0x20 8 % 64 = 0) ∧
      (f.op 0x30 8 % 64 = 0) ∧
      (f.op 0x20 8 + f.op 0x38 4 ≤ 2 ^ 47 ∨ 2 ^ 48 ≤ f.op 0x20 8) ∧
      (importOf s f.part (f.op 0x28 1) = some im) ∧
      (im.bound = true) ∧
      (bit im.rights 0 = true) ∧
      ((pairingOf s f.part im.handle).isSome = true) :=
  ⟨metRemote 0x9001 [(0x20, 2 ^ 46), (0x28, 9), (0x38, 4160)] [], 0, running 0x9001 [(0x20, 2 ^ 46), (0x28, 9), (0x38, 4160)], metImport, by decide +kernel⟩

theorem test_met_remoteAndSealedTransfersLeave_2 :
    ∃ (s : State) (d : Nat) (f : Flight) (im : Import),
      (Runs s d 0x9002 f) ∧
      (f.fEve = false) ∧
      (f.zero 0x29 7 = true) ∧
      (f.zeroFrom 0x3C = true) ∧
      (f.op 0x38 4 % 64 = 0) ∧
      (64 ≤ f.op 0x38 4) ∧
      (f.op 0x38 4 ≤ 2 ^ 26) ∧
      (f.op 0x20 8 % 64 = 0) ∧
      (f.op 0x30 8 % 64 = 0) ∧
      (f.op 0x20 8 + f.op 0x38 4 ≤ 2 ^ 47 ∨ 2 ^ 48 ≤ f.op 0x20 8) ∧
      (importOf s f.part (f.op 0x28 1) = some im) ∧
      (im.bound = true) ∧
      (bit im.rights 1 = true) ∧
      ((pairingOf s f.part im.handle).isSome = true) ∧
      ((∀ i < f.op 0x38 4, ∃ pa w, xlate s f.part (f.op 0x20 8 + i) = .ok (.loc pa w) ∧ heldAt s f.part pa = false ∧ poisoned s pa = false)) :=
  ⟨metRemote 0x9002 [(0x20, 2 ^ 46), (0x28, 9), (0x38, 64)] [(0, [1, 2])], 0, running 0x9002 [(0x20, 2 ^ 46), (0x28, 9), (0x38, 64)], metImport,
    by decide +kernel, by decide +kernel, (by decide +kernel), by decide +kernel, by decide +kernel, (by decide +kernel), by decide +kernel, by decide +kernel,
    (by decide +kernel), by decide +kernel, by decide +kernel, (by decide +kernel), by decide +kernel, by decide +kernel,
    fun i hi => ⟨_, _, xlate_page _ 0 (2 ^ 46) (2 ^ 38 + 2 ^ 23) i true (is_met (by decide +kernel)) (by decide) (by decide +kernel)
      (Nat.lt_trans hi (by decide +kernel)), heldAt_quiet (by decide) _ _, rfl⟩⟩

def metRemotePoison : State :=
  let s := metRemote 0x9002 [(0x20, 2 ^ 46), (0x28, 9), (0x38, 64)] []
  { s with mem := { s.mem with poison := [codeword (2 ^ 38 + 2 ^ 23)] } }

def ex0 {α : Type} (d : α) (x : Except Stop α) : α := match x with | .ok v => v | .error _ => d

theorem ex0_met {α : Type} (d : α) {x : Except Stop α} (h : (match x with | .ok _ => true | .error _ => false) = true) : x = .ok (ex0 d x) := by
  cases x with
  | ok v => rfl
  | error e => cases h

theorem test_met_remoteAndSealedTransfersLeave_3 :
    ∃ (s : State) (d : Nat) (f : Flight) (im : Import) (bs : List (Byte × Bool)),
      (Runs s d 0x9002 f) ∧
      (f.fEve = false) ∧
      (f.zero 0x29 7 = true) ∧
      (f.zeroFrom 0x3C = true) ∧
      (f.op 0x38 4 % 64 = 0) ∧
      (64 ≤ f.op 0x38 4) ∧
      (f.op 0x38 4 ≤ 2 ^ 26) ∧
      (f.op 0x20 8 % 64 = 0) ∧
      (f.op 0x30 8 % 64 = 0) ∧
      (f.op 0x20 8 + f.op 0x38 4 ≤ 2 ^ 47 ∨ 2 ^ 48 ≤ f.op 0x20 8) ∧
      (importOf s f.part (f.op 0x28 1) = some im) ∧
      (im.bound = true) ∧
      (bit im.rights 1 = true) ∧
      ((pairingOf s f.part im.handle).isSome = true) ∧
      (vreadP s (cxOf s f d) (f.op 0x20 8) (f.op 0x38 4) = .ok bs) ∧
      (bs.any Prod.snd = true) :=
  ⟨metRemotePoison, 0, running 0x9002 [(0x20, 2 ^ 46), (0x28, 9), (0x38, 64)], metImport, _, by decide +kernel, by decide +kernel, (by decide +kernel),
    by decide +kernel, by decide +kernel, (by decide +kernel), by decide +kernel, by decide +kernel, (by decide +kernel), by decide +kernel, by decide +kernel,
    (by decide +kernel), by decide +kernel, by decide +kernel, ex0_met [] (by decide +kernel), by decide +kernel⟩

theorem test_met_remoteAndSealedTransfersLeave_4 :
    ∃ (s : State) (d : Nat) (f : Flight) (t : Tensor) (im : Import),
      (Runs s d 0x9003 f) ∧
      (f.fEve = false) ∧
      (f.zero 0x29 7 = true) ∧
      (f.zeroFrom 0x3A = true) ∧
      (f.op 0x38 1 ≤ 2) ∧
      (f.op 0x39 1 ∈ [0, 1, 6, 7]) ∧
      (f.op 0x30 8 % 64 = 0) ∧
      (operand s (cxOf s f d) (f.op 0x20 8) = .ok t) ∧
      (t.fmt = f.op 0x39 1) ∧
      (t.contiguous = true) ∧
      (t.base % 64 = 0) ∧
      (t.bytes % 64 = 0) ∧
      (t.bytes ≤ 2 ^ 26) ∧
      (importOf s f.part (f.op 0x28 1) = some im) ∧
      (im.bound = true) ∧
      (bit im.rights 2 = true) ∧
      ((pairingOf s f.part im.handle).isSome = true) ∧
      ((∀ i < t.bytes, ∃ pa w, xlate s f.part (t.base + i) = .ok (.loc pa w) ∧ heldAt s f.part pa = false ∧ poisoned s pa = false)) :=
  ⟨metRemote 0x9003 [(0x20, 2 ^ 46), (0x28, 9), (0x38, 0x0702)] [(0, recordOf 1024 7 [8] [])], 0, running 0x9003 [(0x20, 2 ^ 46), (0x28, 9), (0x38, 0x0702)], tensorOf 0x400 7 [8] [], metImport,
    by decide +kernel, by decide +kernel, (by decide +kernel), by decide +kernel, by decide +kernel, (by decide +kernel), by decide +kernel, is_met (by decide +kernel),
    by decide +kernel, by decide +kernel, (by decide +kernel), by decide +kernel, by decide +kernel, (by decide +kernel), by decide +kernel, by decide +kernel, (by decide +kernel),
    fun i hi => ⟨_, _, by
      have hp := xlate_page (metRemote 0x9003 [(0x20, 2 ^ 46), (0x28, 9), (0x38, 0x0702)] [(0, recordOf 1024 7 [8] [])]) 0 (2 ^ 46) (2 ^ 38 + 2 ^ 23) (1024 + i) true
        (is_met (by decide +kernel)) (by decide) (by decide +kernel)
        (by have : (tensorOf 0x400 7 [8] []).bytes = 64 := by decide +kernel
            omega)
      rw [← Nat.add_assoc] at hp
      exact hp, heldAt_quiet (by decide) _ _, rfl⟩⟩

def metAtomicPoison : State :=
  let s := metRemote 0x9003 [(0x20, 2 ^ 46), (0x28, 9), (0x38, 0x0702)] [(0, recordOf 1024 7 [8] [])]
  { s with mem := { s.mem with poison := [codeword (2 ^ 38 + 2 ^ 23 + 1024)] } }

theorem test_met_remoteAndSealedTransfersLeave_5 :
    ∃ (s : State) (d : Nat) (f : Flight) (t : Tensor) (im : Import) (bs : List (Byte × Bool)),
      (Runs s d 0x9003 f) ∧
      (f.fEve = false) ∧
      (f.zero 0x29 7 = true) ∧
      (f.zeroFrom 0x3A = true) ∧
      (f.op 0x38 1 ≤ 2) ∧
      (f.op 0x39 1 ∈ [0, 1, 6, 7]) ∧
      (f.op 0x30 8 % 64 = 0) ∧
      (operand s (cxOf s f d) (f.op 0x20 8) = .ok t) ∧
      (t.fmt = f.op 0x39 1) ∧
      (t.contiguous = true) ∧
      (t.base % 64 = 0) ∧
      (t.bytes % 64 = 0) ∧
      (t.bytes ≤ 2 ^ 26) ∧
      (importOf s f.part (f.op 0x28 1) = some im) ∧
      (im.bound = true) ∧
      (bit im.rights 2 = true) ∧
      ((pairingOf s f.part im.handle).isSome = true) ∧
      (vreadP s (cxOf s f d) t.base t.bytes = .ok bs) ∧
      (bs.any Prod.snd = true) :=
  ⟨metAtomicPoison, 0, running 0x9003 [(0x20, 2 ^ 46), (0x28, 9), (0x38, 0x0702)], tensorOf 0x400 7 [8] [], metImport, _,
    by decide +kernel, by decide +kernel, (by decide +kernel), by decide +kernel, by decide +kernel, (by decide +kernel), by decide +kernel, is_met (by decide +kernel),
    by decide +kernel, by decide +kernel, (by decide +kernel), by decide +kernel, by decide +kernel, (by decide +kernel), by decide +kernel, by decide +kernel, (by decide +kernel),
    ex0_met [] (by decide +kernel), by decide +kernel⟩

theorem test_met_remoteAndSealedTransfersLeave_6 :
    ∃ (s : State) (d : Nat) (f : Flight) (im : Import),
      (Runs s d 0x9004 f) ∧
      (f.fEve = false) ∧
      (f.zero 0x21 1 = true) ∧
      (f.zero 0x24 4 = true) ∧
      (f.zeroFrom 0x30 = true) ∧
      (1 ≤ f.op 0x28 8) ∧
      (f.op 0x28 8 < 2 ^ 48) ∧
      (importOf s f.part (f.op 0x20 1) = some im) ∧
      (im.bound = true) ∧
      (bit im.rights 3 = true) ∧
      ((pairingOf s f.part im.handle).isSome = true) ∧
      (f.op 0x22 2 < im.counters) :=
  ⟨metRemote 0x9004 [(0x20, 9), (0x22, 3), (0x28, 2 ^ 48 - 1)] [], 0, running 0x9004 [(0x20, 9), (0x22, 3), (0x28, 2 ^ 48 - 1)], metImport, by decide +kernel⟩

def metSeal (f : Flight) : State :=
  let s := sWork [(0, toLe 8 (2 ^ 46 + 8192) ++ toLe 8 0x1000 ++ toLe 8 0x8000 ++ toLe 8 7 ++ toLe 4 0 ++ toLe 4 1 ++ toLe 1 3)] f
  { s with
    parts := [(0, { st := .online, rows := 1, firstSlot := 0, slotCount := 2, sealed := true })]
    gnt := { s.gnt with keys := [(0, { slots := [(3, { key := 5, use := 3, nonce := 0 })] })] } }

def metSealKey : KeySlot := { key := 5, use := 3, nonce := 0 }

def metSealRec : SealRec := { local_ := 2 ^ 46 + 8192, host := 0x1000, tags := 0x8000, object := 7, first := 0, cells := 1, slot := 3 }

def metSealInF : Flight := running 0x9020 [(0x20, 2 ^ 46)]

def metSealIn : State := metSeal metSealInF

theorem mreadN_mwriteN_fit (m : Tbl Byte) (a n : Nat) (bs : List Byte) : mreadN (mwriteN m a (fit n bs)) a n = fit n bs := by
  have h := mreadN_mwriteN (fit n bs) m a
  rwa [fit_length] at h

theorem hread_met {s : State} {a n : Nat} (h : hostBad s a n = false) : hread s a n = some (mreadN s.host a n) := by
  unfold hread; rw [h]; rfl

theorem test_met_remoteAndSealedTransfersLeave_7 :
    ∃ (s : State) (d : Nat) (f : Flight) (b : List Byte) (r : SealRec) (k : KeySlot),
      (Runs s d 0x9020 f) ∧
      (f.fEve = false) ∧
      (f.zeroFrom 0x28 = true) ∧
      (recordIn s (cxOf s f d) (f.op 0x20 8) 64 64 = .ok b) ∧
      (parseSeal b = some r) ∧
      (r.local_ + 8192 * r.cells ≤ 0x7F0000000000) ∧
      (keySlot s f.part r.slot = some k) ∧
      (isSealed s f.part = true) ∧
      (bit k.use 0 = true) :=
  ⟨metSealIn, 0, metSealInF, mreadN metSealIn.mem.bytes (2 ^ 38 + 2 ^ 23) 64, metSealRec, metSealKey, by decide +kernel, by decide, by decide, is_met (by decide +kernel), by decide +kernel, by decide, by decide, by decide, by decide⟩

theorem test_met_remoteAndSealedTransfersLeave_8 :
    ∃ (s : State) (d : Nat) (f : Flight) (b : List Byte) (r : SealRec) (k : KeySlot) (ct : List Byte),
      (Runs s d 0x9020 f) ∧
      (f.fEve = false) ∧
      (f.zeroFrom 0x28 = true) ∧
      (recordIn s (cxOf s f d) (f.op 0x20 8) 64 64 = .ok b) ∧
      (parseSeal b = some r) ∧
      (r.local_ + 8192 * r.cells ≤ 0x7F0000000000) ∧
      (keySlot s f.part r.slot = some k) ∧
      (isSealed s f.part = true) ∧
      (bit k.use 0 = true) ∧
      (r.cells = 1) ∧
      (hread s r.host 8192 = some ct) ∧
      (hread s r.tags 16 = some (fit 16 (Config.gcmTag k.key (sealIv r.object r.first) [] ct))) ∧
      ((∀ i < 8192, ∃ pa, xlate s f.part (r.local_ + i) = .ok (.loc pa true) ∧ heldAt s f.part pa = false)) :=
  by
  have hr : hread metSealIn 0x8000 16 = some (List.replicate 16 0) := by decide +kernel
  refine ⟨{ metSealIn with host := mwriteN metSealIn.host 0x8000 (fit 16 (Config.gcmTag 5 (sealIv 7 0) [] (mreadN metSealIn.host 0x1000 8192))) }, 0, metSealInF,
    mreadN metSealIn.mem.bytes (2 ^ 38 + 2 ^ 23) 64, metSealRec, metSealKey, mreadN metSealIn.host 0x1000 8192, ?_⟩
  refine ⟨by decide +kernel, by decide, by decide, is_met (by decide +kernel), by decide +kernel, by decide, by decide, by decide, by decide, rfl, ?_, ?_, ?_⟩
  · unfold hread
    rw [if_neg (by show ¬ hostBad metSealIn 0x1000 8192 = true; decide +kernel)]
    refine congrArg some ?_
    unfold mreadN
    refine List.map_congr_left fun i hi => ?_
    have := List.mem_range.1 hi
    exact mread_mwriteN_outside _ _ _ _ (by rw [fit_length]; show 0x1000 + i < 0x8000 ∨ _; omega)
  · unfold hread
    rw [if_neg (by show ¬ hostBad metSealIn 0x8000 16 = true; decide +kernel)]
    refine congrArg some ?_
    exact mreadN_mwriteN_fit _ _ _ _
  · intro i hi
    exact ⟨_, xlate_page _ 0 (2 ^ 46 + 8192) (2 ^ 38 + 2 ^ 23 + 8192) i true (is_met (by decide +kernel)) (by decide) (by decide +kernel) hi, heldAt_quiet (by decide) _ _⟩

theorem test_met_remoteAndSealedTransfersLeave_9 :
    ∃ (s : State) (d : Nat) (f : Flight) (b : List Byte) (r : SealRec) (k : KeySlot) (ct tag : List Byte),
      (Runs s d 0x9020 f) ∧
      (f.fEve = false) ∧
      (f.zeroFrom 0x28 = true) ∧
      (recordIn s (cxOf s f d) (f.op 0x20 8) 64 64 = .ok b) ∧
      (parseSeal b = some r) ∧
      (r.local_ + 8192 * r.cells ≤ 0x7F0000000000) ∧
      (keySlot s f.part r.slot = some k) ∧
      (isSealed s f.part = true) ∧
      (bit k.use 0 = true) ∧
      (r.cells = 1) ∧
      (hread s r.host 8192 = some ct) ∧
      (hread s r.tags 16 = some tag) ∧
      (fit 16 (Config.gcmTag k.key (sealIv r.object r.first) [] ct) ≠ tag) :=
  by
  have hne : ∃ x : Byte, (fit 16 (Config.gcmTag 5 (sealIv 7 0) [] (mreadN metSealIn.host 0x1000 8192)))[0]? ≠ some x := by
    by_contra hh
    push_neg at hh
    have := (hh 0).symm.trans (hh 1)
    exact absurd (Option.some.inj this) (by decide)
  have hrec : recordIn metSealIn (cxOf metSealIn metSealInF 0) (2 ^ 46) 64 64 = .ok (mreadN metSealIn.mem.bytes (2 ^ 38 + 2 ^ 23) 64) := is_met (by decide +kernel)
  have hparse : parseSeal (mreadN metSealIn.mem.bytes (2 ^ 38 + 2 ^ 23) 64) = some metSealRec := by decide +kernel
  obtain ⟨x, hx⟩ := hne
  refine ⟨{ metSealIn with host := mwriteN metSealIn.host 0x8000 [x] }, 0, metSealInF, mreadN metSealIn.mem.bytes (2 ^ 38 + 2 ^ 23) 64, metSealRec, metSealKey,
    mreadN metSealIn.host 0x1000 8192, mreadN (mwriteN metSealIn.host 0x8000 [x]) 0x8000 16, ?_⟩
  refine ⟨⟨rfl, rfl, rfl⟩, by decide, by decide, hrec, hparse, by decide, rfl, rfl, by decide, rfl, ?_, ?_, ?_⟩
  · unfold hread
    rw [if_neg (by show ¬ hostBad metSealIn 0x1000 8192 = true; decide +kernel)]
    refine congrArg some ?_
    unfold mreadN
    refine List.map_congr_left fun i hi => ?_
    have := List.mem_range.1 hi
    exact mread_mwriteN_outside _ _ _ _ (by show 0x1000 + i < 0x8000 ∨ _; omega)
  · unfold hread
    rw [if_neg (by show ¬ hostBad metSealIn 0x8000 16 = true; decide +kernel)]
    rfl
  · intro he
    apply hx
    rw [show metSealKey.key = 5 from rfl, show metSealRec.object = 7 from rfl, show metSealRec.first = 0 from rfl] at he
    rw [he]
    exact congrArg some (mread_mwrite_same _ _ _)

def metSealOutF : Flight := running 0x9021 [(0x20, 2 ^ 46)]

def metSealOut : State := metSeal metSealOutF

theorem metSealOut_writes : vwrite (putKeys metSealOut 0 { getKeys metSealOut 0 with slots := tput (getKeys metSealOut 0).slots 3 { metSealKey with counter := (metSealKey.counter + 1) % 2 ^ 64 } }) (cxOf metSealOut metSealOutF 0) (2 ^ 46 + 0x18) (toLe 8 metSealKey.counter)
    = .ok (okOf (vwrite (putKeys metSealOut 0 { getKeys metSealOut 0 with slots := tput (getKeys metSealOut 0).slots 3 { metSealKey with counter := (metSealKey.counter + 1) % 2 ^ 64 } }) (cxOf metSealOut metSealOutF 0) (2 ^ 46 + 0x18) (toLe 8 metSealKey.counter))) :=
  ok_met (by decide +kernel)

theorem test_met_remoteAndSealedTransfersLeave_10 :
    ∃ (s u : State) (d : Nat) (f : Flight) (b : List Byte) (r : SealRec) (k : KeySlot),
      (Runs s d 0x9021 f) ∧
      (f.fEve = false) ∧
      (f.zeroFrom 0x28 = true) ∧
      (recordIn s (cxOf s f d) (f.op 0x20 8) 64 64 = .ok b) ∧
      (parseSeal b = some r) ∧
      (r.local_ + 8192 * r.cells ≤ 0x7F0000000000) ∧
      (keySlot s f.part r.slot = some k) ∧
      (isSealed s f.part = true) ∧
      (bit k.use 1 = true) ∧
      (vwrite (putKeys s f.part { getKeys s f.part with slots := tput (getKeys s f.part).slots r.slot { k with counter := (k.counter + 1) % 2 ^ 64 } }) (cxOf s f d) (f.op 0x20 8 + 0x18) (toLe 8 k.counter) = .ok u) :=
  ⟨metSealOut, _, 0, metSealOutF, mreadN metSealOut.mem.bytes (2 ^ 38 + 2 ^ 23) 64, metSealRec, metSealKey, by decide +kernel, by decide, by decide, is_met (by decide +kernel), by decide +kernel, by decide, by decide, by decide, by decide, metSealOut_writes⟩

theorem test_met_remoteAndSealedTransfersLeave_11 :
    ∃ (s u : State) (d : Nat) (f : Flight) (b : List Byte) (r : SealRec) (k : KeySlot),
      (Runs s d 0x9021 f) ∧
      (f.fEve = false) ∧
      (f.zeroFrom 0x28 = true) ∧
      (recordIn s (cxOf s f d) (f.op 0x20 8) 64 64 = .ok b) ∧
      (parseSeal b = some r) ∧
      (r.local_ + 8192 * r.cells ≤ 0x7F0000000000) ∧
      (keySlot s f.part r.slot = some k) ∧
      (isSealed s f.part = true) ∧
      (bit k.use 1 = true) ∧
      (r.cells = 1) ∧
      (vwrite (putKeys s f.part { getKeys s f.part with slots := tput (getKeys s f.part).slots r.slot { k with counter := (k.counter + 1) % 2 ^ 64 } }) (cxOf s f d) (f.op 0x20 8 + 0x18) (toLe 8 k.counter) = .ok u) ∧
      ((∀ i < 8192, ∃ pa w, xlate u f.part (r.local_ + i) = .ok (.loc pa w) ∧ heldAt u f.part pa = false ∧ poisoned u pa = false)) ∧
      (hostBad u r.host 8192 = false) ∧
      (hostBad u r.tags 16 = false) :=
  by
  refine ⟨metSealOut, _, 0, metSealOutF, mreadN metSealOut.mem.bytes (2 ^ 38 + 2 ^ 23) 64, metSealRec, metSealKey, by decide +kernel, by decide, by decide, is_met (by decide +kernel), by decide +kernel, by decide, by decide, by decide, by decide, rfl, metSealOut_writes, ?_, by decide +kernel, by decide +kernel⟩
  intro i hi
  exact ⟨_, _, xlate_page _ 0 (2 ^ 46 + 8192) (2 ^ 38 + 2 ^ 23 + 8192) i true (is_met (by decide +kernel)) (by decide) (by decide +kernel) hi,
    heldAt_quiet (by decide +kernel) _ _, by
      unfold poisoned
      rw [show (okOf (vwrite (putKeys metSealOut 0 { getKeys metSealOut 0 with slots := tput (getKeys metSealOut 0).slots 3 { metSealKey with counter := (metSealKey.counter + 1) % 2 ^ 64 } }) (cxOf metSealOut metSealOutF 0) (2 ^ 46 + 0x18) (toLe 8 metSealKey.counter))).mem.poison = [] from by decide +kernel]
      rfl⟩

def metExp : Export := { rights := 15, cls := 0, sizeLog2 := 23, handle := 3, firstCounter := 1000, base := 2 ^ 46, counters := 24, open_ := true }

def metIn : State :=
  let s := sMem sRun
  { s with
    gnt := { s.gnt with policy := { s.gnt.policy with pairings := [(3, { farPart := 2, farHash := 5, ceiling := 15 })] } }
    plauf := { ports := [(31, { st := .up, farHash := 5, keyed := true })], exports := [(9, metExp)] } }

def metMsg (type offset increment op format : Nat) (data : List Byte) : RemMsg :=
  { type := type, cls := 0, tag := 77, sendPart := 2, targetPart := 0, exportId := 9, offset := offset, streamSeq := 0, status := 0, op := op, format := format, epochSender := 0, epochTarget := 0, increment := increment, data := data }

theorem is_met2 {ε α : Type} [DecidableEq α] {x : Except ε α} {a : α}
    (h : (match x with | .ok b => decide (b = a) | .error _ => false) = true) : x = .ok a := by
  cases x with
  | ok v => rw [of_decide_eq_true h]
  | error e => cases h

def ex1 {α : Type} (d : α) (x : Except Stop α) : α := match x with | .ok v => v | .error _ => d

theorem ex1_met {α : Type} (d : α) {x : Except Stop α} (h : (match x with | .ok _ => true | .error _ => false) = true) : x = .ok (ex1 d x) := by
  cases x with
  | ok v => rfl
  | error e => cases h

theorem test_met_requestsFromANeighbourAreServed_1 :
    ∃ (s : State) (port : Nat) (m : RemMsg) (e : Export) (bs : List (Byte × Bool)),
      ((getPort s port).st = .up) ∧
      (m.type = 1) ∧
      (s.fab.severed = false ∨ port < 16) ∧
      (ingress s (getPort s port).farHash m = .ok e) ∧
      (vreadP s (ingressCx m) (e.base + m.offset) (reqBytes m) = .ok bs) :=
  ⟨metIn, 31, metMsg 1 8192 1 0 0 [], metExp, ex1 [] (vreadP metIn (ingressCx (metMsg 1 8192 1 0 0 [])) (metExp.base + 8192) 64), by decide, rfl, by decide, is_met2 (by decide +kernel), ex1_met [] (by decide +kernel)⟩

theorem test_met_requestsFromANeighbourAreServed_2 :
    ∃ (s t : State) (port hash key : Nat) (m : RemMsg) (x : StreamIn) (e : Export),
      ((getPort s port).st = .up) ∧
      (m.type = 3) ∧
      (ingressHeld s hash m = false) ∧
      (s.pwr.pkg ≠ .trip) ∧
      (s.fab.severed = false ∨ port < 16) ∧
      (hash = (getPort s port).farHash) ∧
      (key = streamKey hash m.sendPart m.targetPart) ∧
      (m.epochTarget = (tfind s.plauf.targetEpoch m.targetPart).getD 0) ∧
      (newerHalf (streamIn s key).sender m.epochSender = false) ∧
      (x = (if m.epochSender = (streamIn s key).sender then streamIn s key else { sender := m.epochSender })) ∧
      (wasApplied x m.streamSeq = false) ∧
      (ingress (putStream s key x) hash m = .ok e) ∧
      (vwriteP (putStream s key x) (ingressCx m) 1 (e.base + m.offset) (m.data.map fun b => (b, m.status == 2)) = .ok t) :=
  ⟨metIn, okOf (vwriteP (putStream metIn (streamKey 5 2 0) {}) (ingressCx (metMsg 3 64 0 0 0 [1, 2, 3])) 1 (metExp.base + 64) ([1, 2, 3].map fun b => (b, 0 == 2))), 31, 5, streamKey 5 2 0, metMsg 3 64 0 0 0 [1, 2, 3], {}, metExp, by decide, rfl, by decide +kernel, by decide, by decide, by decide, rfl, by decide, by decide, by decide, by decide, is_met2 (by decide +kernel), ok_met (by decide +kernel)⟩

theorem test_met_requestsFromANeighbourAreServed_3 :
    ∃ (s : State) (port hash key : Nat) (m : RemMsg) (x : StreamIn) (e : Export),
      ((getPort s port).st = .up) ∧
      (m.type = 5) ∧
      (ingressHeld s hash m = false) ∧
      (s.pwr.pkg ≠ .trip) ∧
      (s.fab.severed = false ∨ port < 16) ∧
      (hash = (getPort s port).farHash) ∧
      (key = streamKey hash m.sendPart m.targetPart) ∧
      (m.epochTarget = (tfind s.plauf.targetEpoch m.targetPart).getD 0) ∧
      (newerHalf (streamIn s key).sender m.epochSender = false) ∧
      (x = (if m.epochSender = (streamIn s key).sender then streamIn s key else { sender := m.epochSender })) ∧
      (wasApplied x m.streamSeq = false) ∧
      (ingress (putStream s key x) hash m = .ok e) :=
  ⟨metIn, 31, 5, streamKey 5 2 0, metMsg 5 64 0 0 7 [1, 2, 3, 4], {}, metExp, by decide, rfl, by decide +kernel, by decide, by decide, by decide, rfl, by decide, by decide, by decide, by decide, is_met2 (by decide +kernel)⟩

theorem test_met_requestsFromANeighbourAreServed_4 :
    ∃ (s : State) (port hash key : Nat) (m : RemMsg) (x : StreamIn) (e : Export),
      ((getPort s port).st = .up) ∧
      (m.type = 7) ∧
      (ingressHeld s hash m = false) ∧
      (s.pwr.pkg ≠ .trip) ∧
      (s.fab.severed = false ∨ port < 16) ∧
      (hash = (getPort s port).farHash) ∧
      (key = streamKey hash m.sendPart m.targetPart) ∧
      (m.epochTarget = (tfind s.plauf.targetEpoch m.targetPart).getD 0) ∧
      (newerHalf (streamIn s key).sender m.epochSender = false) ∧
      (x = (if m.epochSender = (streamIn s key).sender then streamIn s key else { sender := m.epochSender })) ∧
      (wasApplied x m.streamSeq = false) ∧
      (ingress (putStream s key x) hash m = .ok e) ∧
      (m.streamSeq = x.applied) :=
  ⟨metIn, 31, 5, streamKey 5 2 0, metMsg 7 23 9 0 0 [], {}, metExp, by decide, rfl, by decide +kernel, by decide, by decide, by decide, rfl, by decide, by decide, by decide, by decide, is_met2 (by decide +kernel), by decide⟩

theorem test_met_requestsFromANeighbourAreServed_5 :
    ∃ (s : State) (port hash key : Nat) (m : RemMsg) (x : StreamIn),
      ((getPort s port).st = .up) ∧
      (ingressHeld s hash m = false) ∧
      (s.pwr.pkg ≠ .trip) ∧
      (s.fab.severed = false ∨ port < 16) ∧
      (hash = (getPort s port).farHash) ∧
      (key = streamKey hash m.sendPart m.targetPart) ∧
      (m.epochTarget = (tfind s.plauf.targetEpoch m.targetPart).getD 0) ∧
      (newerHalf (streamIn s key).sender m.epochSender = false) ∧
      (x = (if m.epochSender = (streamIn s key).sender then streamIn s key else { sender := m.epochSender })) ∧
      (wasApplied x m.streamSeq = true) :=
  ⟨{ metIn with plauf := { metIn.plauf with streamsIn := [(streamKey 5 2 0, { applied := 1 })] } }, 31, 5, streamKey 5 2 0, metMsg 5 64 0 0 7 [1, 2, 3, 4], { applied := 1 }, by decide, by decide +kernel, by decide, by decide, by decide, rfl, by decide, by decide, by decide, by decide⟩

theorem test_met_requestsFromANeighbourAreServed_6 :
    ∃ (s : State) (port rights : Nat) (m : RemMsg) (e : Export),
      ((getPort s port).st = .up) ∧
      (m.type = 0x10) ∧
      (s.pwr.pkg ≠ .trip) ∧
      (exportFor s (getPort s port).farHash m = some (e, rights)) :=
  ⟨metIn, 31, 15, metMsg 0x10 0 0 0 0 [], metExp, by decide⟩

def metOutReq (type kind : Nat) : OutReq :=
  { desc := 0, part := 0, handle := 3, msg := metMsg type 0 1 0 0 [], port := 31, sentAt := 0, local_ := 2 ^ 46, kind := kind }

def metAnswer (type kind : Nat) : State :=
  { metIn with
    qe := { flights := [(0, { running 0x9001 [] with phase := .running, answers := true })], nextFlight := 1 }
    plauf := { metIn.plauf with out := [(77, metOutReq type kind)], nextReq := 78 } }

theorem test_met_answersSettleWhatWasSent_1 :
    ∃ (s t : State) (port n : Nat) (m : RemMsg) (o : OutReq) (f : Flight),
      (requestOf s port 1 m.tag = some (n, o)) ∧
      (m.status = 0) ∧
      (o.kind = 0) ∧
      (getF s o.desc = some f) ∧
      (vwrite (delOut s n) (cxOf (delOut s n) f o.desc) o.local_ m.data = .ok t) :=
  ⟨metAnswer 1 0, okOf (vwrite (delOut (metAnswer 1 0) 77) (cxOf (delOut (metAnswer 1 0) 77) { running 0x9001 [] with phase := .running, answers := true } 0) (2 ^ 46) [1, 2]), 31, 77, metMsg 2 0 0 0 0 [1, 2], metOutReq 1 0, { running 0x9001 [] with phase := .running, answers := true }, by decide +kernel, rfl, rfl, by decide +kernel, ok_met (by decide +kernel)⟩

theorem test_met_answersSettleWhatWasSent_2 :
    ∃ (s : State) (port n : Nat) (m : RemMsg) (o : OutReq),
      (requestOf s port 3 m.tag = some (n, o)) ∧
      (m.status = 0) ∧
      (o.kind = 2) :=
  ⟨metAnswer 3 2, 31, 77, metMsg 4 0 0 0 0 [], metOutReq 3 2, by decide +kernel⟩

theorem test_met_answersSettleWhatWasSent_3 :
    ∃ (s : State) (port n : Nat) (m : RemMsg) (o : OutReq),
      (requestOf s port 5 m.tag = some (n, o)) ∧
      (m.status = 0) ∧
      (o.kind = 2) :=
  ⟨metAnswer 5 2, 31, 77, metMsg 6 0 0 0 0 [], metOutReq 5 2, by decide +kernel⟩

theorem test_met_answersSettleWhatWasSent_4 :
    ∃ (s : State) (port n : Nat) (m : RemMsg) (o : OutReq),
      (requestOf s port 7 m.tag = some (n, o)) ∧
      (m.status = 0) ∧
      (o.kind = 2) :=
  ⟨metAnswer 7 2, 31, 77, metMsg 8 0 0 0 0 [], metOutReq 7 2, by decide +kernel⟩

theorem test_met_answersSettleWhatWasSent_5 :
    ∃ (s : State) (port n : Nat) (m : RemMsg) (o : OutReq) (im : Import) (pr : Pairing),
      (requestOf s port 0x10 m.tag = some (n, o)) ∧
      (m.status = 0) ∧
      (o.kind = 4) ∧
      (importOf s o.part o.local_ = some im) ∧
      (pairingOf s o.part o.handle = some pr) :=
  ⟨{ metAnswer 0x10 4 with plauf := { (metAnswer 0x10 4).plauf with imports := [(2 ^ 46, { handle := 3, exportId := 9, by_ := 0 })] } }, 31, 77, { metMsg 0x11 0 4 23 15 [] with epochTarget := 6 }, metOutReq 0x10 4, { handle := 3, exportId := 9, by_ := 0 }, { farPart := 2, farHash := 5, ceiling := 15 }, by decide +kernel⟩

theorem test_met_answersSettleWhatWasSent_6 :
    ∃ (s : State) (req q : Nat) (o : OutReq),
      (tfind s.plauf.out req = some o) ∧
      (o.msg.type = 1) ∧
      (o.resent = false) ∧
      ((getPort s o.port).st = .up) ∧
      (o.port ≤ 253) ∧
      (o.sentAt + 1000000 ≤ s.time.now) ∧
      (nextInGroup (groupOf s (getPort s o.port).farHash) o.port = some q) :=
  ⟨{ metAnswer 1 0 with time := { now := 1000000 } }, 77, 31, metOutReq 1 0, by decide +kernel⟩

theorem test_met_answersSettleWhatWasSent_7 :
    ∃ (s : State) (req t : Nat) (o : OutReq),
      (tfind s.plauf.out req = some o) ∧
      (o.retryFrom = some t) ∧
      (o.port = 254) ∧
      (o.sentAt + 10000 ≤ s.time.now) :=
  ⟨{ metAnswer 1 0 with time := { now := 10000 }, plauf := { metIn.plauf with out := [(77, { metOutReq 1 0 with port := 254, retryFrom := some 0 })] } }, 77, 0, { metOutReq 1 0 with port := 254, retryFrom := some 0 }, by decide +kernel⟩

theorem test_met_answersSettleWhatWasSent_8 :
    ∃ (s : State) (hash t : Nat),
      (tfind s.plauf.lostSince hash = some t) ∧
      (groupOf s hash = []) ∧
      (t + 100000000 ≤ s.time.now) :=
  ⟨{ sRun with time := { now := 100000000 }, plauf := { lostSince := [(5, 0)] } }, 5, 0, by decide⟩

def metFrame : Frame :=
  let b := toLe 4 (4095 + 4096 * 5) ++ List.replicate 192 0
  ⟨b ++ toLe 4 (crc32c b), []⟩

theorem test_met_framesLanesAndLiningMessages_1 :
    ∃ (s : State) (b d : Nat) (f : Frame),
      (b < 24) ∧
      (d < 2) ∧
      ((getBundle s (2 * b + d)).retired = false) ∧
      (s.fab.refLost = []) ∧
      (s.fab.dieReset.contains 1 = false) ∧
      (frameCrcOk f = true) ∧
      (frameSeq f = (getBundle s (2 * b + d)).expectSeq) :=
  ⟨{ sRun with fab := { bundles := [(47, { expectSeq := 4095, nak := true })] } }, 23, 1, metFrame, by decide +kernel⟩

theorem test_met_framesLanesAndLiningMessages_2 :
    ∃ (s : State) (b d : Nat) (f : Frame),
      (b < 24) ∧
      (d < 2) ∧
      ((getBundle s (2 * b + d)).retired = false) ∧
      (s.fab.refLost = []) ∧
      (s.fab.dieReset.contains 1 = false) ∧
      (frameCrcOk f = false) ∧
      ((getBundle s (2 * b + d)).replays < 8) :=
  ⟨{ sRun with fab := { bundles := [(47, { expectSeq := 4095, replays := 7 })] } }, 23, 1, ⟨[], [67]⟩, by decide +kernel⟩

theorem test_met_framesLanesAndLiningMessages_3 :
    ∃ (s : State) (b d lane : Nat),
      (b < 24) ∧
      (d < 2) ∧
      (lane < 68) ∧
      ((getBundle s (2 * b + d)).retired = false) ∧
      ((getBundle s (2 * b + d)).failed.contains lane = false) :=
  ⟨{ sRun with fab := { bundles := [(47, { failed := [1, 2, 3, 4] })] } }, 23, 1, 67, by decide⟩

theorem test_met_framesLanesAndLiningMessages_4 :
    ∃ (s : State) (b d lane : Nat),
      (b < 24) ∧
      (d < 2) ∧
      (lane < 64) ∧
      ((getBundle s (2 * b + d)).recal.isSome = true ∨ ((getBundle s (2 * b + d)).retired = false ∧ (getBundle s (2 * b + d)).half = none ∧ (getBundle s (2 * b + d)).failed.contains lane = false ∧ freeSpares (getBundle s (2 * b + d)) ≠ [])) :=
  ⟨{ sRun with fab := { bundles := [(47, { failed := [1, 2, 3] })] } }, 23, 1, 63, by decide⟩

theorem test_met_framesLanesAndLiningMessages_5 :
    ∃ (s : State) (link seq prio : Nat) (crcOk : Bool) (payload : List Byte),
      (link < 22) ∧
      (prio ≤ 4) ∧
      (payload.length ≤ 240) :=
  ⟨sRun, 21, 0, 4, true, [], by decide⟩

theorem test_met_diesAndClocksGoAndComeBack_1 :
    ∃ (s : State) (die : Nat),
      (1 ≤ die) ∧
      (die ≤ 3) ∧
      (s.pwr.pkg ≠ .off) ∧
      (s.fab.dieReset.contains die = false) :=
  ⟨sRun, 3, by decide⟩

theorem test_met_diesAndClocksGoAndComeBack_2 :
    ∃ (s : State) (die : Nat),
      (1 ≤ die) ∧
      (die < 20) ∧
      (s.fab.dieLost.contains die = false) :=
  ⟨{ sRun with fab := { dieReset := [19] } }, 19, by decide⟩

theorem test_met_diesAndClocksGoAndComeBack_3 :
    ∃ (s : State) (die : Nat) (failing badSeasons : List Nat),
      (1 ≤ die) ∧
      (die ≤ 3) ∧
      (s.fab.dieReset.contains die = true ∨ s.fab.dieLost.contains die = true) ∧
      (dieHeld s die = false) :=
  ⟨{ sRun with fab := { dieReset := [3], dieLost := [3] } }, 3, [], [], by decide⟩

theorem test_met_diesAndClocksGoAndComeBack_4 :
    ∃ (s : State) (tower : Nat),
      (tower < 2) ∧
      (s.fab.refLost.contains tower = false ∨ (tfind s.fab.refBack tower).isSome = true) :=
  ⟨sRun, 1, by decide⟩

theorem test_met_diesAndClocksGoAndComeBack_5 :
    ∃ (s : State) (tower : Nat),
      (tower < 2) ∧
      (s.fab.refLost.contains tower = true) ∧
      (tfind s.fab.refBack tower = none) :=
  ⟨{ sRun with fab := { refLost := [1] } }, 1, by decide⟩

def metGuest : State :=
  let s := sMem sRun
  { s with
    guestSite := true
    cuff := { s.cuff with guestReset := false, linkUp := true, part := some 0, wins := [(15, { valid := true, r := true, w := true, sizeLog2 := 23, base := 2 ^ 46, cls := 0, rate := 1000 })], cap := 1000, slots := [(63, { counter := 1023, sig := true, rd := true, watch := true })] } }

theorem test_met_guestTransactionsAreServed_1 :
    ∃ (s t : State) (tag win off len va p : Nat) (bs : List (Byte × Bool)),
      (guestActive s = true) ∧
      (gate s = .serve p) ∧
      (guestVa s win off len false = some va) ∧
      (guestFar s p va len = false) ∧
      (guestXlate s p va len false = true) ∧
      (vreadP s (guestCx p) va len = .ok bs) ∧
      (guestPass s p win va len none = some t) :=
  ⟨metGuest, valOf State.reset (guestPass metGuest 0 15 (2 ^ 46 + 64) 64 none), 7, 15, 64, 64, 2 ^ 46 + 64, 0, _, by decide, by decide +kernel, by decide, by decide +kernel, by decide +kernel, ex0_met [] (by decide +kernel), some_met State.reset (by decide +kernel)⟩

theorem test_met_guestTransactionsAreServed_2 :
    ∃ (s t u : State) (tag win off va p : Nat) (data : List Byte),
      (guestActive s = true) ∧
      (gate s = .serve p) ∧
      (guestVa s win off data.length true = some va) ∧
      (guestFar s p va data.length = false) ∧
      (guestXlate s p va data.length true = true) ∧
      (vwrite s (guestCx p) va data = .ok u) ∧
      (guestPass s p win va data.length (some data) = some t) :=
  ⟨metGuest, valOf State.reset (guestPass metGuest 0 15 (2 ^ 46 + 64) 64 (some (List.replicate 64 7))), okOf (vwrite metGuest (guestCx 0) (2 ^ 46 + 64) (List.replicate 64 7)), 7, 15, 64, 2 ^ 46 + 64, 0, List.replicate 64 7, by decide, by decide +kernel, by decide, by decide +kernel, by decide +kernel, ok_met (by decide +kernel), some_met State.reset (by decide +kernel)⟩

theorem test_met_guestTransactionsAreServed_3 :
    ∃ (s : State) (tag slot inc p : Nat) (x : CuffSlot),
      (guestActive s = true) ∧
      (gate s = .serve p) ∧
      (tfind s.cuff.slots slot = some x) ∧
      (x.sig = true) ∧
      (1 ≤ inc) ∧
      (inc ≤ 65535) ∧
      (counterFar s x.counter = false) :=
  ⟨metGuest, 7, 63, 65535, 0, { counter := 1023, sig := true, rd := true, watch := true }, by decide +kernel⟩

theorem test_met_guestTransactionsAreServed_4 :
    ∃ (s : State) (tag slot p : Nat) (x : CuffSlot),
      (guestActive s = true) ∧
      (gate s = .serve p) ∧
      (tfind s.cuff.slots slot = some x) ∧
      (x.rd = true) ∧
      (counterFar s x.counter = false) :=
  ⟨metGuest, 7, 63, 0, { counter := 1023, sig := true, rd := true, watch := true }, by decide +kernel⟩

theorem test_met_guestTransactionsAreServed_5 :
    ∃ (s : State) (tag slot target p : Nat) (x : CuffSlot),
      (guestActive s = true) ∧
      (gate s = .serve p) ∧
      (s.cuff.part = some p) ∧
      (tfind s.cuff.slots slot = some x) ∧
      (x.watch = true) ∧
      (counterFar s x.counter = false) ∧
      (rising (tkeys s.cuff.watches) = true) :=
  ⟨metGuest, 7, 63, 5, 0, { counter := 1023, sig := true, rd := true, watch := true }, by decide +kernel⟩

theorem test_met_spdmConnectionsAnswer_1 :
    ∃ (s : State) (path : Nat),
      (spdmUp s = true) ∧
      (path ≤ 18) :=
  ⟨sRun, 18, by decide⟩

theorem test_met_spdmConnectionsAnswer_2 :
    ∃ (s : State) (path : Nat) (caps : List Byte),
      (spdmUp s = true) ∧
      (path ≤ 18) ∧
      (1 ≤ (getSpdm s path).stage) :=
  ⟨{ sRun with gnt := { sRun.gnt with spdm := [(18, { stage := 1 })] } }, 18, [], by decide⟩

theorem test_met_spdmConnectionsAnswer_3 :
    ∃ (s : State) (path : Nat),
      (spdmUp s = true) ∧
      (path ≤ 18) ∧
      (2 ≤ (getSpdm s path).stage) :=
  ⟨{ sRun with gnt := { sRun.gnt with spdm := [(18, { stage := 2 })] } }, 18, by decide⟩

theorem test_met_spdmConnectionsAnswer_4 :
    ∃ (s : State) (path : Nat),
      (spdmUp s = true) ∧
      (path ≤ 18) ∧
      (3 ≤ (getSpdm s path).stage) :=
  ⟨{ sRun with gnt := { sRun.gnt with spdm := [(18, { stage := 3 })] } }, 18, by decide⟩

theorem test_met_spdmConnectionsAnswer_5 :
    ∃ (s : State) (path offset len : Nat),
      (spdmUp s = true) ∧
      (path ≤ 18) ∧
      (3 ≤ (getSpdm s path).stage) ∧
      (offset < 192) :=
  ⟨{ sRun with gnt := { sRun.gnt with spdm := [(18, { stage := 3 })] } }, 18, 191, 5, by decide⟩

theorem test_met_spdmConnectionsAnswer_6 :
    ∃ (s : State) (path : Nat) (nonce : List Byte),
      (spdmUp s = true) ∧
      (path ≤ 18) ∧
      (3 ≤ (getSpdm s path).stage) :=
  ⟨{ sRun with gnt := { sRun.gnt with spdm := [(18, { stage := 3 })] } }, 18, [], by decide⟩

theorem test_met_spdmConnectionsAnswer_7 :
    ∃ (s : State) (path index : Nat) (sign : Bool) (nonce bs : List Byte),
      (spdmUp s = true) ∧
      (path ≤ 18) ∧
      (3 ≤ (getSpdm s path).stage) ∧
      (index = 0 ∧ bs = toLe 1 (pathIndices s path).length ∨ index ≠ 0 ∧ index ≠ 0xFF ∧ (pathIndices s path).contains index = true ∧ ∃ b ∈ measurement s index, bs = toLe 1 index ++ toLe 2 b.length ++ b) :=
  ⟨{ sRun with gnt := { sRun.gnt with spdm := [(18, { stage := 3 })] } }, 18, 0, true, [], [24], by decide⟩

theorem test_met_spdmSessionsAnswer_1 :
    ∃ (s : State) (path : Nat) (exchange : List Byte),
      (spdmUp s = true) ∧
      (path ≤ 18) ∧
      (3 ≤ (getSpdm s path).stage) ∧
      (s.gnt.debug = false) ∧
      (s.gnt.keysZeroised = false) :=
  ⟨{ sRun with gnt := { sRun.gnt with spdm := [(18, { stage := 3 })] } }, 18, [], by decide⟩

theorem test_met_spdmSessionsAnswer_2 :
    ∃ (s : State) (path : Nat) (sig : List Byte),
      (spdmUp s = true) ∧
      (path ≤ 18) ∧
      (3 ≤ (getSpdm s path).stage) ∧
      ((getSpdm s path).session = 1) :=
  ⟨{ sRun with gnt := { sRun.gnt with spdm := [(18, { stage := 3, session := 1 })] } }, 18, [], by decide⟩

theorem test_met_spdmSessionsAnswer_3 :
    ∃ (s : State) (path : Nat),
      (spdmUp s = true) ∧
      (path ≤ 18) ∧
      (3 ≤ (getSpdm s path).stage) ∧
      (2 ≤ (getSpdm s path).session) :=
  ⟨{ sRun with gnt := { sRun.gnt with spdm := [(18, { stage := 3, session := 2 })] } }, 18, by decide⟩

theorem test_met_spdmSessionsAnswer_4 :
    ∃ (s : State) (path arg fn : Nat),
      (spdmUp s = true) ∧
      (path ≤ 18) ∧
      (3 ≤ (getSpdm s path).stage) ∧
      (2 ≤ (getSpdm s path).session) ∧
      (fn = vdrVf path arg) ∧
      (fn ≤ 16) ∧
      (arg / 65536 % 256 = 0) :=
  ⟨{ { sRun with gnt := { sRun.gnt with spdm := [(18, { stage := 3, session := 2 })] } } with gnt := { sRun.gnt with spdm := [(18, { stage := 3, session := 2 })], streams := [(32, { key := 5, path := 18 })] } }, 18, 0x1004, 16, by decide⟩

theorem test_met_spdmSessionsAnswer_5 :
    ∃ (s : State) (path arg : Nat) (v : Vf),
      (spdmUp s = true) ∧
      (path ≤ 18) ∧
      (3 ≤ (getSpdm s path).stage) ∧
      (2 ≤ (getSpdm s path).session) ∧
      (tfind s.vfs (vdrVf path arg) = some v) :=
  ⟨{ { sRun with gnt := { sRun.gnt with spdm := [(18, { stage := 3, session := 2 })] } } with vfs := [(16, { tdi := 2 })], gnt := { sRun.gnt with spdm := [(18, { stage := 3, session := 2 })], streams := [(32, { key := 5, path := 18, on := true })] } }, 18, 0x1086, { tdi := 2 }, by decide⟩

theorem test_met_spdmSessionsAnswer_6 :
    ∃ (s : State) (path arg : Nat) (x : Part),
      (spdmUp s = true) ∧
      (path ≤ 18) ∧
      (3 ≤ (getSpdm s path).stage) ∧
      (2 ≤ (getSpdm s path).session) ∧
      ((getSpdm s path).owner = true) ∧
      (getP s arg = some x) :=
  ⟨{ sRun with gnt := { sRun.gnt with spdm := [(18, { stage := 3, session := 2, owner := true })] } }, 18, 0, { st := .online, rows := 1, firstSlot := 0, slotCount := 2 }, by decide⟩

theorem test_met_spdmSessionsAnswer_7 :
    ∃ (s : State) (vf : Nat),
      ((tfind s.vfs vf).map (·.tdi) = some 3) :=
  ⟨{ sRun with vfs := [(16, { tdi := 3 })] }, 16, by decide⟩

theorem test_met_theTrayIsAnswered_1 :
    ∃ (s : State),
      (s.pwr.pkg ≠ .off) ∧
      (s.mgmt.mittenDown = false) ∧
      (s.mgmt.recovery = false) ∧
      (s.mgmt.phase ≠ .bootMgmt ∨ s.mgmt.waitNet = true) :=
  ⟨sRun, by decide⟩

theorem test_met_theTrayIsAnswered_2 :
    ∃ (s : State),
      (s.pwr.pkg ≠ .off) ∧
      (s.mgmt.mittenDown = false) ∧
      (s.mgmt.recovery = false) ∧
      (s.mgmt.phase ≠ .bootMgmt ∨ s.mgmt.waitNet = true) :=
  ⟨sRun, by decide⟩

theorem test_met_theTrayIsAnswered_3 :
    ∃ (s : State),
      (s.pwr.pkg ≠ .off) ∧
      (s.mgmt.mittenDown = false) ∧
      (s.mgmt.recovery = false) ∧
      (s.mgmt.phase ≠ .bootMgmt ∨ s.mgmt.waitNet = true) :=
  ⟨sRun, by decide⟩

theorem test_met_theTrayIsAnswered_4 :
    ∃ (s : State) (fromSeq : Nat),
      (s.pwr.pkg ≠ .off) ∧
      (s.mgmt.mittenDown = false) ∧
      (s.mgmt.recovery = false) ∧
      (s.mgmt.phase ≠ .bootMgmt ∨ s.mgmt.waitNet = true) :=
  ⟨sRun, 0, by decide⟩

theorem test_met_theTrayIsAnswered_5 :
    ∃ (s : State),
      (s.pwr.pkg ≠ .off) ∧
      (s.mgmt.mittenDown = false) ∧
      (s.mgmt.recovery = false) ∧
      (s.mgmt.phase ≠ .bootMgmt ∨ s.mgmt.waitNet = true) :=
  ⟨sRun, by decide⟩

theorem test_met_readingsAndSensorsAreTaken_1 :
    ∃ (s : State) (a b : TowerInput) (p : PkgReading),
      (s.pwr.pkg ≠ .off) :=
  ⟨sRun, { nodes := [], power := 0, power100 := 0 }, { nodes := [], power := 0, power100 := 0 }, sRun.th.p, by decide⟩

theorem test_met_readingsAndSensorsAreTaken_2 :
    ∃ (s : State) (tower node : Nat) (n : NodeValue) (diff : Int),
      (tower < 2) ∧
      ((getTower s tower).nodes = [(node, n)]) ∧
      (nodeDiff s tower n = some diff) :=
  ⟨{ sRun with th := { sRun.th with b := { sRun.th.b with nodes := [(4095, { node := 4095, kind := 0, unit := 0, model := 0, sensors := [(700, some 100)] })] } } }, 1, 4095, { node := 4095, kind := 0, unit := 0, model := 0, sensors := [(700, some 100)] }, 100, by decide⟩

theorem test_met_readingsAndSensorsAreTaken_3 :
    ∃ (s : State) (disagree agree : List Nat) (t i u : Nat),
      (s.mgmt.mittenDown = false) ∧
      (t < 2) ∧
      (i < 4096) ∧
      (4096 * t + i ∈ disagree) ∧
      ((getTower s t).masked.contains i = false) ∧
      (tfind (getTower s t).disagree i = some u) ∧
      (u + 1000000000 ≤ s.time.now) ∧
      (hubAccepts s t i = true) :=
  ⟨{ sRun with time := { now := 1000000000 }, th := { sRun.th with b := { sRun.th.b with disagree := [(4095, 0)], nodes := [(7, { node := 7, kind := 0, unit := 0, model := 0, sensors := [(4095, some 513)] })] } } }, [8191], [], 1, 4095, 0, by decide⟩

theorem test_met_readingsAndSensorsAreTaken_4 :
    ∃ (s : State) (mvA mvB : Nat),
      (s.pwr.pkg ≠ .off) ∧
      (s.mgmt.phase ≠ .bootMgmt) :=
  ⟨sRun, 5, 1200, by decide⟩

theorem test_met_readingsAndSensorsAreTaken_5 :
    ∃ (s : State),
      (s.th.coolantLoss = true) ∧
      (s.th.lossAt + 2000000 ≤ s.time.now) ∧
      (s.pwr.pkg ≠ .off) ∧
      (s.mgmt.phase ≠ .bootMgmt) :=
  ⟨{ sRun with time := { now := 2000000 }, th := { sRun.th with coolantLoss := true } }, by decide⟩

theorem test_met_readingsAndSensorsAreTaken_6 :
    ∃ (s : State) (ra rb : Nat),
      (s.pwr.pkg ≠ .off) ∧
      (s.mgmt.phase ≠ .bootMgmt) ∧
      (s.mgmt.mittenDown = false) ∧
      (s.th.telem.samples ≠ 0) :=
  ⟨{ sRun with th := { sRun.th with telem := { sRun.th.telem with samples := 2, sums := [3, 0, 0, -3] } } }, 1, 2, by decide⟩

theorem test_met_readingsAndSensorsAreTaken_7 :
    ∃ (s : State) (es : List (Nat × Nat × Nat)) (p e w : Nat),
      ((getP s p).isSome = true) :=
  ⟨sRun, [(0, 1, 2)], 0, 5, 6, by decide⟩

theorem test_met_readingsAndSensorsAreTaken_8 :
    ∃ (s : State) (hostTime host : Nat),
      (host = hostTime % 2 ^ 64) ∧
      (s.time.ptmEn = true) ∧
      (s.pwr.pkg ≠ .off) :=
  ⟨{ sRun with time := { ptmEn := true } }, 2 ^ 64 + 5, 5, by decide⟩

theorem test_met_limitersMoveTheLadders_1 :
    ∃ (s : State) (tower : Nat),
      (tower < 2) ∧
      (s.pwr.pkg ≠ .off) :=
  ⟨{ sRun with th := { sRun.th with b := { sRun.th.b with r := { sRun.th.b.r with hotLogic := 6081 } } } }, 1, by decide⟩

theorem test_met_limitersMoveTheLadders_2 :
    ∃ (s : State) (tower : Nat),
      (tower < 2) ∧
      (s.pwr.pkg ≠ .off) :=
  ⟨sRun, 1, by decide⟩

theorem test_met_limitersMoveTheLadders_3 :
    ∃ (s : State) (tower : Nat),
      (tower < 2) ∧
      (s.pwr.hostCap ≠ 0) :=
  ⟨{ sRun with pwr := { sRun.pwr with hostCap := 100 } }, 1, by decide⟩

theorem test_met_limitersMoveTheLadders_4 :
    ∃ (s : State) (tower : Nat) (hotLogic hotF : Int) (idle : Nat),
      (tower < 2) :=
  ⟨sRun, 1, 0, 0, 0, by decide⟩

theorem test_met_resetsAndPowerGoods_1 :
    ∃ (s : State) (d : Nat) (f : Flight),
      (Runs s d 0xF1A0 f) ∧
      (f.op 0x20 1 = 0) ∧
      (f.zeroFrom 0x21 = true) ∧
      (s.fab.dieResetBy = []) ∧
      (s.fab.dieReset = []) :=
  ⟨sHeld (admin 0xF1A0 []), 0, admin 0xF1A0 [], by decide⟩

theorem test_met_resetsAndPowerGoods_2 :
    ∃ (s : State) (d n : Nat) (f : Flight),
      (Runs s d 0xF1A0 f) ∧
      (f.op 0x20 1 = n) ∧
      (1 ≤ n) ∧
      (n ≤ 3) ∧
      (f.zeroFrom 0x21 = true) ∧
      (s.fab.dieResetBy = []) ∧
      (s.fab.dieReset = []) :=
  ⟨sHeld (admin 0xF1A0 [(0x20, 3)]), 0, 3, admin 0xF1A0 [(0x20, 3)], by decide⟩

theorem test_met_resetsAndPowerGoods_3 :
    ∃ (s : State),
      (s.pwr.pkg ≠ .off) ∧
      (pkgHeld s = false) :=
  ⟨sRun, by decide⟩

theorem test_met_resetsAndPowerGoods_4 :
    ∃ (s : State),
      (s.pwr.pkg ≠ .off) ∧
      (pkgHeld s = false) :=
  ⟨sRun, by decide⟩

theorem test_met_resetsAndPowerGoods_5 :
    ∃ (s : State) (i : Nat),
      (i ≤ 4) ∧
      (s.pwr.heldInputs.contains i = true) :=
  ⟨{ sRun with pwr := { sRun.pwr with heldInputs := [0, 4] } }, 4, by decide⟩

theorem test_met_resetsAndPowerGoods_6 :
    ∃ (s : State),
      (s.pwr.pkg = .off) :=
  ⟨{ sRun with pwr := { pkg := .off } }, by decide⟩

theorem test_met_resetsAndPowerGoods_8 :
    ∃ (s : State) (g : Nat),
      (g < 5) ∧
      (s.pwr.enabled.contains g = true) ∧
      (s.pwr.good.contains g = false) :=
  ⟨{ sRun with pwr := { sRun.pwr with good := [] } }, 4, by decide⟩

theorem test_met_resetsAndPowerGoods_9 :
    ∃ (s : State) (g : Nat),
      (g < 5) ∧
      (s.pwr.enabled.contains g = true) ∧
      (s.pwr.good.contains g = false) ∧
      (2 ≤ g ∨ s.mgmt.waitNet = true) :=
  ⟨{ sRun with pwr := { sRun.pwr with good := [] } }, 4, by decide⟩

theorem test_met_resetsAndPowerGoods_10 :
    ∃ (s : State) (g : Nat),
      (g < 5) ∧
      (s.pwr.enabled.contains g = true) ∧
      (s.pwr.good.contains g = true) :=
  ⟨sRun, 4, by decide⟩

theorem test_met_resetsAndPowerGoods_11 :
    ∃ (s : State) (t : Nat),
      (s.pwr.retryAt = some t) ∧
      (t ≤ s.time.now) ∧
      (s.mgmt.phase = .bootMgmt ∨ (s.pwr.pkg ≠ .standby ∧ s.pwr.tripStandby = false)) :=
  ⟨{ sRun with pwr := { sRun.pwr with retryAt := some 5 }, time := { now := 5 } }, 5, by decide⟩

theorem test_met_bringUpGoesPhaseByPhase_1 :
    ∃ (s : State) (bi bc : List (Nat × Nat)),
      (inPhase s .bootMgmt = true) ∧
      (s.mgmt.waitNet = false) ∧
      (s.mgmt.recovery = false) :=
  ⟨State.reset, [], [], by decide⟩

theorem test_met_bringUpGoesPhaseByPhase_2 :
    ∃ (s : State) (an : List (Nat × DieAnswer)),
      (inPhase s .bootNet = true) ∧
      (s.mgmt.netDone = false) :=
  ⟨{ State.reset with mgmt := { State.reset.mgmt with phase := .bootNet } }, [], by decide⟩

theorem test_met_bringUpGoesPhaseByPhase_3 :
    ∃ (s : State) (rows pcs : List (Nat × Nat)) (trained : List (Nat × List Byte)) (silent : Nat),
      (inPhase s .bootMem = true) ∧
      (silent = 3 → fallBack s 3 = none) :=
  ⟨{ State.reset with mgmt := { State.reset.mgmt with phase := .bootMem } }, [], [], [], 0, by decide, by decide⟩

theorem test_met_bringUpGoesPhaseByPhase_4 :
    ∃ (s : State) (lanes : List (Nat × Nat × Nat)) (late : List Nat) (trained : List (Nat × List Byte)) (silent : Nat),
      (inPhase s .bootLink = true) ∧
      (silent = 3 ∨ silent = 4 → fallBack s silent = none) :=
  ⟨{ State.reset with mgmt := { State.reset.mgmt with phase := .bootLink } }, [], [], [], 0, by decide, by decide⟩

def metFall : State := { State.reset with mgmt := { State.reset.mgmt with phase := .bootMem, fw := [(3, { fresh := true })] } }

theorem test_met_bringUpGoesPhaseByPhase_5 :
    ∃ (s t : State) (a b : List (Nat × Nat)) (c : List (Nat × Nat × Nat)) (e : List Nat) (trained : List (Nat × List Byte)) (silent : Nat),
      (fallBack s silent = some t) :=
  ⟨metFall, valOf State.reset (fallBack metFall 3), [], [], [], [], [], 3, some_met State.reset (by decide +kernel)⟩

theorem test_met_bringUpGoesPhaseByPhase_6 :
    ∃ (s : State) (failing badSeasons : List Nat),
      (inPhase s .bootCore = true) :=
  ⟨{ State.reset with mgmt := { State.reset.mgmt with phase := .bootCore } }, [], [], by decide⟩

theorem test_met_bringUpGoesPhaseByPhase_7 :
    ∃ (s : State),
      (inPhase s .check = true) :=
  ⟨{ State.reset with mgmt := { State.reset.mgmt with phase := .check } }, by decide⟩

theorem test_met_bringUpGoesPhaseByPhase_8 :
    ∃ (s : State) (an : List (Nat × DieAnswer)) (out : List Nat),
      (inPhase s s.mgmt.phase = true) ∧
      (s.mgmt.waitNet = false) ∧
      (s.mgmt.recovery = false) ∧
      (s.mgmt.netDone = false) :=
  ⟨{ State.reset with mgmt := { State.reset.mgmt with phase := .bootLink } }, [], [47], by decide⟩

theorem test_met_registersTakeTheirWrites_1 :
    ∃ (s : State) (v : Nat),
      (s.regs.setupLock = false) ∧
      (usable s 0 false = true) :=
  ⟨sRun, 1, by decide⟩

theorem test_met_registersTakeTheirWrites_2 :
    ∃ (s : State) (fn v : Nat),
      (fn ≤ 16) ∧
      (usable s (if fn = 0 then 3 else 11) false = true) ∧
      (queuesActive s fn = false) ∧
      (fn ≠ 0 ∨ s.regs.setupLock = false) :=
  ⟨sRun, 16, 0x4001, by decide⟩

theorem test_met_registersTakeTheirWrites_3 :
    ∃ (s : State) (v : Nat),
      (usable s 3 false = true) :=
  ⟨sRun, 2000, by decide⟩

theorem test_met_registersTakeTheirWrites_4 :
    ∃ (s : State) (fn : Nat),
      (fn ≤ 16) ∧
      (usable s (if fn = 0 then 2 else 10) false = true) :=
  ⟨sRun, 16, by decide⟩

theorem test_met_registersTakeTheirWrites_5 :
    ∃ (s : State) (v : Nat),
      (usable s 7 false = true) :=
  ⟨sRun, 0x1FF0C, by decide⟩

theorem test_met_registersTakeTheirWrites_6 :
    ∃ (s : State) (fn part p v : Nat) (x : Part),
      (usable s (if fn = 0 then 5 else 13) false = true) ∧
      (if fn = 0 then p = part else (tfind s.vfs fn).map (·.part) = some p) ∧
      (getP s p = some x) :=
  ⟨{ sRun with parts := [(0, { st := .online, rows := 1, firstSlot := 0, slotCount := 2, bwMiss := 255 })] }, 0, 0, 0, 128, { st := .online, rows := 1, firstSlot := 0, slotCount := 2, bwMiss := 255 }, by decide⟩

theorem test_met_registersTakeTheirWrites_7 :
    ∃ (s : State) (fn off v : Nat),
      (regAt s fn off = some (8, v)) :=
  ⟨sRun, 0, 0x800000, 0, by decide⟩

theorem test_met_registersTakeTheirWrites_8 :
    ∃ (s : State) (v : Nat),
      (usable s 8 false = true) :=
  ⟨sRun, 0x0A01, by decide⟩

theorem test_met_registersTakeTheirWrites_9 :
    ∃ (s : State) (v : Nat),
      (usable s 1 false = true) :=
  ⟨sRun, 0x5000, by decide⟩

theorem test_met_registersTakeTheirWrites_10 :
    ∃ (s : State) (fn : Nat) (on : Bool),
      (fn ≤ 16) ∧
      (s.pwr.pkg ≠ .off) :=
  ⟨sRun, 16, true, by decide⟩

theorem test_met_sparesAndWatchdogsAct_1 :
    ∃ (s : State) (core old : Nat) (l : List Nat) (u : Subst),
      (s.flt.subst.find? (fun u => u.core == core) = some u) ∧
      ((getBind s core).column = some old) ∧
      (s.pwr.pkg ≠ .trip) ∧
      ((getSite s (siteKey core u.column)).fenced = false) ∧
      ((getSite s (siteKey core u.column)).bad = false) ∧
      (nextSeason s core ≤ 0xFFFF) :=
  ⟨{ sRun with flt := { sRun.flt with subst := [{ core := 0, column := 16, hot := false }] } }, 0, 0, [5], { core := 0, column := 16, hot := false }, by decide⟩

theorem test_met_sparesAndWatchdogsAct_2 :
    ∃ (s : State) (core old : Nat) (l : List Nat) (b : Bool) (u : Subst),
      (s.flt.subst.find? (fun u => u.core == core) = some u) ∧
      ((getBind s core).column = some old) ∧
      (s.pwr.pkg ≠ .trip) :=
  ⟨{ sRun with flt := { sRun.flt with subst := [{ core := 0, column := 16, hot := false }] } }, 0, 0, [5], true, { core := 0, column := 16, hot := false }, by decide⟩

theorem test_met_sparesAndWatchdogsAct_3 :
    ∃ (s : State) (site season : Nat),
      (((siteCore s site).map fun c => (getBind s c).season) ≠ some season) :=
  ⟨sRun, 543, 1, by decide⟩

theorem test_met_sparesAndWatchdogsAct_4 :
    ∃ (s : State) (site : Nat) (pass : Bool),
      ((getSite s site).fenced = true) ∧
      ((getSite s site).bad = false) ∧
      (siteCore s site = none) ∧
      (s.mgmt.mittenDown = false) ∧
      (s.fab.dieReset.contains (2 + site / 272) = false) ∧
      (s.fab.dieLost.contains (2 + site / 272) = false) ∧
      ((getSite s site).lastTest = 0 ∨ (getSite s site).lastTest + 600000000000 ≤ s.time.now) :=
  ⟨{ sRun with flt := { sRun.flt with sites := [(543, { fenced := true, passes := 2 })] } }, 543, true, by decide⟩

theorem test_met_sparesAndWatchdogsAct_5 :
    ∃ (s : State) (r : List Nat),
      (s.pwr.pkg ≠ .off) ∧
      (s.mgmt.phase ≠ .bootMgmt) ∧
      (s.mgmt.mittenDown = false) ∧
      (s.mgmt.recovery = false) ∧
      (s.mgmt.gauntletWdt = false) ∧
      (r = s.mgmt.mittenRestarts.filter (fun t => decide (s.time.now < t + 600000000000))) :=
  ⟨{ sRun with mgmt := { sRun.mgmt with mittenRestarts := [0, 0, 0] } }, [0, 0, 0], by decide⟩

theorem test_met_sparesAndWatchdogsAct_6 :
    ∃ (s : State),
      (s.pwr.pkg ≠ .off) ∧
      (s.mgmt.gauntletWdt = false) :=
  ⟨sRun, by decide⟩

/-- A request of core 0 for the first slice, whose first page lies at 2^46. -/
def reqF (w : Option (List Byte)) : MemReq :=
  { master := 0, part := 0, cls := 2, deadline := 0, va := 2 ^ 46 + 5, len := 1, write := w, hint := 0, prefetch := false, found := .clean }

/-- Page tables that map the first 8 MiB of the first slice at 2^46. -/
def sMemF (w : Bool) : State :=
  { sMem sRun with mem := { (sMem sRun).mem with
    bytes := mwriteN (sMem sRun).mem.bytes (2 ^ 38 + 8192 + 8 * levelIdx (2 ^ 46) 1) (toLe 8 (mkLeaf 0 w false false)) } }

theorem test_met_requestsReadAndWriteMemory_1 :
    ∃ (s u : State) (r m : MemReq) (pa : Nat) (bs : List Byte),
      (r.target = none) ∧
      (r.master ≠ 547) ∧
      (stamp s r = m) ∧
      (m.prefetch = false) ∧
      (xlate s m.part m.va = .ok (.loc pa true)) ∧
      (pa < 2 ^ 36) ∧
      (memUse m pa 0 = []) ∧
      (underCopy s pa = false) ∧
      (m.found = .clean) ∧
      (m.write = some bs) ∧
      (vwrite (cacheLeaf s m) { part := m.part, desc := 2 ^ 64, rem := [] } m.va bs = .ok u) :=
  ⟨sMemF true, okOf (vwrite (cacheLeaf (sMemF true) (reqF (some [7]))) { part := 0, desc := 2 ^ 64, rem := [] } (2 ^ 46 + 5) [7]), reqF (some [7]), reqF (some [7]), 5, [7], rfl, by decide, by decide, rfl, by decide, by decide, by decide, by decide, rfl, rfl, ok_met (by decide)⟩

theorem test_met_requestsReadAndWriteMemory_2 :
    ∃ (s : State) (r m : MemReq) (pa : Nat) (w : Bool),
      (r.target = none) ∧
      (r.master ≠ 547) ∧
      (stamp s r = m) ∧
      (m.prefetch = false) ∧
      (xlate s m.part m.va = .ok (.loc pa w)) ∧
      (pa < 2 ^ 36) ∧
      (memUse m pa 0 = []) ∧
      (underCopy s pa = false) ∧
      (m.found = .clean) ∧
      (m.write = none) :=
  ⟨sMemF false, reqF none, reqF none, 5, false, by decide⟩

def reqS : MemReq := { reqF none with va := 2 ^ 46 + 256, master := 513, len := 64 }

theorem test_met_requestsReadAndWriteMemory_3 :
    ∃ (s : State) (r m : MemReq) (pa res n : Nat) (w : Bool),
      (r.target = none) ∧
      (r.master ≠ 547) ∧
      (stamp s r = m) ∧
      (m.prefetch = false) ∧
      (m.found = .clean) ∧
      (xlate s m.part m.va = .ok (.loc pa w)) ∧
      (m.write.isSome = false ∨ w = true) ∧
      (memUse m pa (memCache (cacheLeaf s m) m pa).2 = [(res, n)]) ∧
      (n ≠ 0) ∧
      (5 < m.cls ∨ (regsOf s m.part m.cls res).isEmpty = true) :=
  ⟨sMem sRun, reqS, reqS, 2 ^ 38 + 2 ^ 23 + 256, 0, 512, true, by decide⟩

theorem test_met_requestsReadAndWriteMemory_4 :
    ∃ (s : State) (r m : MemReq) (a : Nat),
      (r.target = none) ∧
      (r.master ≠ 547) ∧
      (stamp s r = m) ∧
      (xlate s m.part m.va = .error (.trans a)) :=
  ⟨sRun, reqS, reqS, 2 ^ 46 + 256, by decide⟩

theorem test_met_requestsReadAndWriteMemory_5 :
    ∃ (s : State) (r m : MemReq) (pa : Nat) (bs : List Byte),
      (r.target = none) ∧
      (r.master ≠ 547) ∧
      (stamp s r = m) ∧
      (m.prefetch = false) ∧
      (xlate s m.part m.va = .ok (.loc pa false)) ∧
      (m.write = some bs) :=
  ⟨sMemF false, reqF (some [7]), reqF (some [7]), 5, [7], by decide⟩

theorem test_met_requestsReadAndWriteMemory_6 :
    ∃ (s : State) (r : MemReq) (t : Target),
      (r.target = some t) ∧
      (gauntletOnly t = true) ∧
      (r.write.isSome = true) ∧
      (s.pwr.pkg ≠ .off) ∧
      (r.master ≠ 547 ∨ mittenRuns s = true) :=
  ⟨sRun, { reqF (some [7]) with target := some .keyStore }, .keyStore, by decide⟩

theorem test_met_requestsReadAndWriteMemory_7 :
    ∃ (s : State) (r : MemReq) (i : Nat),
      (r.target = some (.bank i)) ∧
      (r.write = none) ∧
      (r.master = 547) ∧
      (s.pwr.pkg ≠ .off) ∧
      (mittenRuns s = true) :=
  ⟨{ sRun with gnt := { sRun.gnt with mittenFence := true } }, { reqF none with master := 547, target := some (.bank 0) }, 0, by decide⟩

theorem test_met_requestsReadAndWriteMemory_8 :
    ∃ (s : State) (r : MemReq),
      (r.target = some .keyStore ∨ r.target = some .sram ∨ r.target = none) ∧
      (r.write = none) ∧
      (r.master = 547) :=
  ⟨sRun, { reqF none with master := 547 }, by decide⟩

theorem test_met_waitingRequestsAndTheScrubberMoveOn_1 :
    ∃ (s : State) (port cls res p g : Nat),
      (p < 16) ∧
      (tfind s.bw.grants (grantKey port p cls res) = some g) ∧
      ((tfind s.bw.grants (grantKey port p cls res + 1)).getD 0 + 1000 ≤ s.time.now) :=
  ⟨{ sRun with time := { now := 1000 }, bw := { grants := [(grantKey 3 15 2 7, 64)] } }, 3, 2, 7, 15, 64, by decide⟩

theorem test_met_waitingRequestsAndTheScrubberMoveOn_2 :
    ∃ (s : State) (res id pa : Nat) (w : WaitReq) (wr : Bool),
      (slackOn s res = true) ∧
      ((s.bw.waiting.filter fun e => e.2.use.any fun u => u.1 == res) = [(id, w)]) ∧
      (xlate s w.req.part w.req.va = .ok (.loc pa wr)) ∧
      (underCopy s pa = false) ∧
      (underTest s pa = false) ∧
      (windowHolds s pa = none) :=
  ⟨{ sMem sRun with bw := { waiting := [(4, { req := { master := 513, part := 0, cls := 2, deadline := 0, va := 2 ^ 46 + 256, len := 64, write := none, hint := 0, prefetch := false, found := .clean }, use := [(0, 512)], tier := 4, heldSince := some 0 })] } }, 0, 4, 2 ^ 38 + 2 ^ 23 + 256, { req := { master := 513, part := 0, cls := 2, deadline := 0, va := 2 ^ 46 + 256, len := 64, write := none, hint := 0, prefetch := false, found := .clean }, use := [(0, 512)], tier := 4, heldSince := some 0 }, true, by decide⟩

theorem test_met_waitingRequestsAndTheScrubberMoveOn_3 :
    ∃ (s : State) (res : Nat),
      (slackOn s res = false) :=
  ⟨{ sRun with bw := { waiting := [(4, { req := { master := 513, part := 0, cls := 2, deadline := 0, va := 2 ^ 46 + 256, len := 64, write := none, hint := 0, prefetch := false, found := .clean }, use := [(0, 2 ^ 30)], tier := 2, heldSince := none })] } }, 0, by decide⟩

theorem test_met_waitingRequestsAndTheScrubberMoveOn_4 :
    ∃ (s : State) (id at_ : Nat) (w : WaitReq) (x : Part),
      (tfind s.bw.waiting id = some w) ∧
      (w.heldSince = some at_) ∧
      (w.req.prefetch = true) ∧
      (at_ + 200 < s.time.now) ∧
      (getP s w.req.part = some x) :=
  ⟨{ sRun with time := { now := 201 }, bw := { waiting := [(4, { req := { master := 512, part := 0, cls := 2, deadline := 0, va := 2 ^ 46 + 256, len := 64, write := none, hint := 0, prefetch := true, found := .clean }, use := [(0, 512)], tier := 4, heldSince := some 0 })] } }, 4, 0, { req := { master := 512, part := 0, cls := 2, deadline := 0, va := 2 ^ 46 + 256, len := 64, write := none, hint := 0, prefetch := true, found := .clean }, use := [(0, 512)], tier := 4, heldSince := some 0 }, { st := .online, rows := 1, firstSlot := 0, slotCount := 2 }, by decide⟩

theorem test_met_waitingRequestsAndTheScrubberMoveOn_5 :
    ∃ (s : State) (id : Nat) (w : WaitReq),
      (tfind s.bw.waiting id = some w) ∧
      (w.tier = 1) ∧
      (0 < w.req.deadline) ∧
      (w.req.deadline < s.time.now) :=
  ⟨{ sRun with time := { now := 2 }, bw := { waiting := [(4, { req := { master := 512, part := 0, cls := 0, deadline := 1, va := 2 ^ 46 + 256, len := 64, write := none, hint := 0, prefetch := false, found := .clean }, use := [(0, 512)], tier := 1, heldSince := none })] } }, 4, { req := { master := 512, part := 0, cls := 0, deadline := 1, va := 2 ^ 46 + 256, len := 64, write := none, hint := 0, prefetch := false, found := .clean }, use := [(0, 512)], tier := 1, heldSince := none }, by decide⟩

theorem test_met_waitingRequestsAndTheScrubberMoveOn_6 :
    ∃ (s : State) (pa : Nat),
      (pa % 32 = 0) ∧
      (s.flt.scrubAt = pa) ∧
      (s.flt.scrubBack = []) ∧
      (windowHolds s pa = none) ∧
      (scrubPasses s pa = false) ∧
      (poisoned s pa = false) :=
  ⟨{ sRun with flt := { sRun.flt with scrubAt := 32, sticky := [(1, 5)] } }, 32, by decide⟩

theorem test_met_waitingRequestsAndTheScrubberMoveOn_7 :
    ∃ (s : State) (pa i : Nat),
      (pa % 32 = 0) ∧
      (s.flt.scrubAt = pa) ∧
      (s.flt.scrubBack = []) ∧
      (windowHolds s pa = none) ∧
      (scrubPasses s pa = false) ∧
      (poisoned s pa = false) ∧
      (tfind s.flt.sticky (pa / 32) ≠ some i) :=
  ⟨{ sRun with flt := { sRun.flt with scrubAt := 32 } }, 32, 31, by decide⟩

theorem test_met_waitingRequestsAndTheScrubberMoveOn_8 :
    ∃ (s : State) (pa n : Nat) (found : EccFinding),
      (pa % 32 = 0) ∧
      (s.flt.scrubAt = pa) ∧
      (pa ∉ s.flt.scrubBack) ∧
      ((windowHolds s pa).isSome = true) ∧
      (scrubNext pa = some n) :=
  ⟨{ sRun with flt := { sRun.flt with scrubAt := 2 ^ 38 }, mem := { sRun.mem with bank := [(0, { open_ := true })] } }, 2 ^ 38, 2 ^ 38 + 32, .clean, by decide⟩

/-- A started descriptor of a KV operation on a slot. -/
def slotted (op slot : Nat) (l : List (Nat × Nat)) : Flight :=
  { q := 1, part := 0, words := words op ((14, slot) :: l), phase := .started }

/-- A sequence parameter record: 1 layer, latent 64, no rope, FP8, chunks of 4 pages. -/
def seqRecord : List Byte := fit 64 (toLe 8 5 ++ toLe 4 9 ++ toLe 2 1 ++ toLe 2 64 ++ toLe 1 0 ++ toLe 1 3 ++ toLe 2 4 ++ toLe 8 0 ++ toLe 4 0 ++ toLe 2 1)

def metOpen : State := sWork [(0, seqRecord)] (slotted 0x7001 1 [(0x20, 2 ^ 46)])

theorem test_met_sequencesOpenForkReadAndClose_1 :
    ∃ (s : State) (d : Nat) (f : Flight) (b : List Byte) (x : Slot),
      (Runs s d 0x7001 f) ∧
      (kvSlotOk f = true) ∧
      (kvBusy s d f = false) ∧
      (f.zeroFrom 0x28 = true) ∧
      (recordIn s (cxOf s f d) (f.op 0x20 8) 64 64 = .ok b) ∧
      (parseSeq s f.part b = some x) ∧
      ((getSlot s f.slotF).st = .free) :=
  ⟨metOpen, 0, slotted 0x7001 1 [(0x20, 2 ^ 46)], seqRecord, valOf (getSlot State.reset 0) (parseSeq metOpen 0 seqRecord), by decide, by decide, by decide, by decide, is_met (by decide), some_met (getSlot State.reset 0) (by decide), by decide⟩

theorem test_met_sequencesOpenForkReadAndClose_2 :
    ∃ (s : State) (d : Nat) (f : Flight),
      (Runs s d 0x7002 f) ∧
      (kvSlotOk f = true) ∧
      (kvBusy s d f = false) ∧
      (f.zeroFrom 0x20 = true) ∧
      ((getSlot s f.slotF).st ≠ .free) ∧
      (slotStepped s f.slotF = false) :=
  ⟨{ sHeld (slotted 0x7002 1 []) with kv := { slots := [(1, { st := .open_, layers := 1, latent := 64 })] } }, 0, slotted 0x7002 1 [], by decide⟩

theorem test_met_sequencesOpenForkReadAndClose_3 :
    ∃ (s : State) (d : Nat) (f : Flight),
      (Runs s d 0x7002 f) ∧
      (kvSlotOk f = true) ∧
      (kvBusy s d f = false) ∧
      (f.zeroFrom 0x20 = true) ∧
      ((getSlot s f.slotF).st ≠ .free) ∧
      (slotStepped s f.slotF = true) :=
  ⟨{ sHeld (slotted 0x7002 1 []) with kv := { slots := [(1, { st := .open_, layers := 1, latent := 64, inStep := some 3 })] } }, 0, slotted 0x7002 1 [], by decide⟩

def metFork : State :=
  { sWork [] (slotted 0x7003 1 [(0x20, 0), (0x24, 16)]) with
    kv := { slots := [(0, { st := .open_, layers := 1, latent := 64, format := 3, chunkPages := 4, boundAtOpen := 1, settled := 16, thinned := [0] })]
            pools := [(0, { configured := true, frames := [{ where_ := 0 }] })] } }

def metForkTables : State := { metFork with mem := { metFork.mem with tpool := [(0, [2 ^ 25 + 4096, 2 ^ 25 + 4097, 2 ^ 25 + 4098])] } }

def forkOut : State × Bool := (forkPages (putSlot metForkTables 1 (forkChild metForkTables 0 16 (getSlot metForkTables 0) none)) (cxOf metForkTables (slotted 0x7003 1 [(0x20, 0), (0x24, 16)]) 0) 0 1 16
  ((getSlot metForkTables 0).pages.filter fun e => decide (e.1 % 2 ^ 32 * 16 < 16))).getD (State.reset, false)

theorem forkOut_met {x : Option (State × Bool)} (h : x.isSome = true) : x = some ((x.getD (State.reset, false)).1, (x.getD (State.reset, false)).2) := by
  cases x with
  | some v => rfl
  | none => cases h

theorem test_met_sequencesOpenForkReadAndClose_4 :
    ∃ (s t : State) (d : Nat) (f : Flight) (x : Slot) (bad : Bool),
      (Runs s d 0x7003 f) ∧
      (kvSlotOk f = true) ∧
      (kvBusy s d f = false) ∧
      (f.op 0x20 2 < 0x8000) ∧
      (slotOf s f.part (f.op 0x20 2) = true) ∧
      (f.zero 0x22 2 = true) ∧
      (f.zeroFrom 0x30 = true) ∧
      (f.op 0x28 8 = 0) ∧
      (x = getSlot s (f.op 0x20 2)) ∧
      (x.st = .open_) ∧
      (f.op 0x24 4 ≤ x.settled) ∧
      ((getSlot s f.slotF).st = .free) ∧
      (forkPages (putSlot s f.slotF (forkChild s f.part (f.op 0x24 4) x none)) (cxOf s f d) (f.op 0x20 2) f.slotF (f.op 0x24 4) (x.pages.filter fun e => decide (e.1 % 2 ^ 32 * 16 < f.op 0x24 4)) = some (t, bad)) :=
  ⟨metForkTables, forkOut.1, 0, slotted 0x7003 1 [(0x20, 0), (0x24, 16)], getSlot metForkTables 0, forkOut.2, by decide +kernel, by decide +kernel, (by decide +kernel), by decide +kernel, by decide +kernel, (by decide +kernel), by decide +kernel, by decide +kernel, rfl, by decide +kernel, by decide +kernel, by decide +kernel, forkOut_met (by decide +kernel)⟩

def metSeqRead : State :=
  { sWork [] (slotted 0x7004 1 [(0x20, 2 ^ 46)]) with kv := { slots := [(1, { st := .open_, layers := 1, latent := 64, settled := 5 })] } }

theorem test_met_sequencesOpenForkReadAndClose_5 :
    ∃ (s v : State) (d : Nat) (f : Flight),
      (Runs s d 0x7004 f) ∧
      (kvSlotOk f = true) ∧
      (kvBusy s d f = false) ∧
      (f.zeroFrom 0x28 = true) ∧
      ((getSlot s f.slotF).st ≠ .free) ∧
      (vwrite s (cxOf s f d) (f.op 0x20 8) (readback s f.part f.slotF) = .ok v) :=
  by
  obtain ⟨v, hv⟩ := vwrite_local metSeqRead (cxOf metSeqRead (slotted 0x7004 1 [(0x20, 2 ^ 46)]) 0) (2 ^ 46) (readback metSeqRead 0 1)
    (fun i hi => ⟨_, xlate_page metSeqRead 0 (2 ^ 46) (2 ^ 38 + 2 ^ 23) i true (is_met (by decide +kernel)) (by decide) (by decide +kernel)
      (by have e : (readback metSeqRead 0 1).length = 64 := by decide +kernel
          omega), heldAt_quiet (by decide) _ _⟩)
  exact ⟨metSeqRead, v, 0, slotted 0x7004 1 [(0x20, 2 ^ 46)], by decide, by decide, by decide, by decide, by decide, hv⟩

theorem test_met_sequencesOpenForkReadAndClose_6 :
    ∃ (s u : State) (slot d : Nat) (f : Flight),
      ((s.qe.flights.find? fun e => e.2.phase == .held && (e.2.opcode == 0x7002 || e.2.opcode == 0x7020) && e.2.slotF == slot) = some (d, f)) ∧
      (slotStepped s slot = false) ∧
      (s.pwr.pkg ≠ .trip) ∧
      (u = putF s d { f with phase := .started }) :=
  ⟨sHeld { slotted 0x7002 1 [] with phase := .held }, _, 1, 0, { slotted 0x7002 1 [] with phase := .held }, by decide, by decide, by decide, rfl⟩

theorem test_met_sequencesOpenForkReadAndClose_7 :
    ∃ (s : State) (slot d : Nat) (f : Flight),
      ((s.qe.flights.find? fun e => e.2.phase == .held && (e.2.opcode == 0x7002 || e.2.opcode == 0x7020) && e.2.slotF == slot) = some (d, f)) ∧
      (slotStepped s slot = false) ∧
      (s.pwr.pkg ≠ .trip) ∧
      (f.opcode = 0x7002) ∧
      (kvSlotOk f = true) ∧
      (kvBusy s d f = false) ∧
      (f.zeroFrom 0x20 = true) ∧
      ((getSlot s slot).st ≠ .free) :=
  ⟨{ sHeld { slotted 0x7002 1 [] with phase := .held } with kv := { slots := [(1, { st := .open_, layers := 1, latent := 64 })] } }, 1, 0, { slotted 0x7002 1 [] with phase := .held }, by decide⟩

def poolRecord : List Byte :=
  fit 64 (toLe 8 (2 ^ 38 + 2 ^ 25) ++ toLe 4 1 ++ toLe 1 30 ++ toLe 1 0 ++ toLe 1 3 ++ toLe 1 0 ++ toLe 8 0 ++ toLe 4 0 ++ toLe 4 0 ++ toLe 4 0 ++ toLe 4 0 ++ toLe 8 (2 ^ 38 + 2 ^ 26))

def poolOp (l : List (Nat × Nat)) (op : Nat) : Flight := running op l

def metPool : State := sWork [(0, poolRecord)] (running 0x7010 [(0x20, 2 ^ 46)])

def poolOut : Pool × Nat := (parsePool {} poolRecord).getD ({}, 0)

theorem pool_met {x : Option (Pool × Nat)} (h : x.isSome = true) : x = some ((x.getD ({}, 0)).1, (x.getD ({}, 0)).2) := by
  cases x with
  | some v => rfl
  | none => cases h

theorem test_met_poolsAndSwapImagesComplete_1 :
    ∃ (s : State) (d : Nat) (f : Flight) (b : List Byte) (y : Pool) (range : Nat),
      (Runs s d 0x7010 f) ∧
      (kvSlotOk f = true) ∧
      (f.zeroFrom 0x28 = true) ∧
      (recordIn s (cxOf s f d) (f.op 0x20 8) 64 64 = .ok b) ∧
      (parsePool (getPool s f.part) b = some (y, range)) ∧
      ((getPool s f.part).configured = false) ∧
      (framesFree s f.part (backing y) = true) ∧
      ((s.kv.slots.any fun e => slotOf s f.part e.1 && e.2.st != .free) = false) :=
  ⟨metPool, 0, running 0x7010 [(0x20, 2 ^ 46)], poolRecord, poolOut.1, poolOut.2, by decide +kernel, by decide, by decide, is_met (by decide), pool_met (by decide), rfl, by decide +kernel, by decide⟩

def metPoolAdd : State :=
  { sWork [] (running 0x7011 [(0x20, 2 ^ 38 + 2 ^ 25), (0x28, 2)]) with kv := { pools := [(0, { configured := true, ftabFrames := 1 })] } }

theorem test_met_poolsAndSwapImagesComplete_2 :
    ∃ (s : State) (d : Nat) (f : Flight) (x : Pool) (n : Nat) (frames : List Nat),
      (Runs s d 0x7011 f) ∧
      (kvSlotOk f = true) ∧
      (x = getPool s f.part) ∧
      (n = f.op 0x28 4) ∧
      (frames = (List.range n).map (fun i => f.op 0x20 8 / 8192 + i)) ∧
      (n ≠ 0) ∧
      (f.op 0x2C 1 = 0) ∧
      (f.zeroFrom 0x2D = true) ∧
      (f.op 0x20 8 % 8192 = 0) ∧
      (x.configured = true) ∧
      (x.frames.length + n ≤ 2048 * x.ftabFrames) ∧
      (x.frames.length + n ≤ 2 ^ 22) ∧
      (x.extents < 256) ∧
      (framesFree s f.part frames = true) :=
  ⟨metPoolAdd, 0, running 0x7011 [(0x20, 2 ^ 38 + 2 ^ 25), (0x28, 2)], getPool metPoolAdd 0, 2, [2 ^ 25 + 4096, 2 ^ 25 + 4097], by decide +kernel⟩

def metSwapOut : State :=
  { sWork [] (slotted 0x7020 1 []) with
    kv := { slots := [(1, { st := .open_, layers := 1, latent := 64 })], pools := [(0, { configured := true, target := 0, hostCells := 4 })] } }

theorem swap_met {x : State × Nat} (h : x.2 = 0) : x = (x.1, 0) := by cases x; cases h; rfl

theorem test_met_poolsAndSwapImagesComplete_3 :
    ∃ (s t : State) (d : Nat) (f : Flight),
      (Runs s d 0x7020 f) ∧
      (kvSlotOk f = true) ∧
      (kvBusy s d f = false) ∧
      (f.zeroFrom 0x20 = true) ∧
      ((getSlot s f.slotF).st = .open_) ∧
      (slotStepped s f.slotF = false) ∧
      (startSwap s f.part f.slotF (some d) false = (t, 0)) :=
  ⟨metSwapOut, _, 0, slotted 0x7020 1 [], by decide, by decide, by decide, by decide, by decide, by decide, swap_met (by decide)⟩

theorem test_met_poolsAndSwapImagesComplete_4 :
    ∃ (s : State) (slot p : Nat) (x : Slot),
      (x = getSlot s slot) ∧
      (p = slotPart s slot) ∧
      (x.st = .swappingOut) ∧
      (x.imaged = false) ∧
      (x.swapRemote = false) ∧
      (swapWaits s slot 6 = false) ∧
      (swapPoisoned s p x = false) :=
  ⟨{ sRun with kv := { slots := [(1, { st := .swappingOut, layers := 1, latent := 64, swapCells := [0, 1] })] } }, 1, 0, { st := .swappingOut, layers := 1, latent := 64, swapCells := [0, 1] }, by decide⟩

def metSwapIn : State :=
  { sWork [] (slotted 0x7021 1 [(0x20, 1)]) with
    kv := { slots := [(1, { st := .swapped, layers := 1, latent := 64, chunkPages := 4, boundAtOpen := 1, swapCells := [0, 1, 2] })]
            pools := [(0, { configured := true, hostCells := 4, hostUsed := [0, 1, 2], frames := [{ where_ := 0 }] })] } }

theorem test_met_poolsAndSwapImagesComplete_5 :
    ∃ (s : State) (d : Nat) (f : Flight) (x : Slot),
      (Runs s d 0x7021 f) ∧
      (kvSlotOk f = true) ∧
      (kvBusy s d f = false) ∧
      (f.op 0x20 1 ≤ 1) ∧
      (f.zeroFrom 0x21 = true) ∧
      (x = getSlot s f.slotF) ∧
      (x.st = .swapped) ∧
      (x.swapRemote = false) ∧
      (needMet s f.part (List.replicate (pagesOfCells x.swapCells.length) (4 + kindOf x false)) false = true) :=
  ⟨metSwapIn, 0, slotted 0x7021 1 [(0x20, 1)], getSlot metSwapIn 1, by decide +kernel, by decide, by decide +kernel, by decide, by decide, rfl, by decide, by decide, by decide +kernel⟩

/-- A slot being restored from an image of one header cell, sealed under key 0 at count 0. -/
def metImage (ct : List Byte) : State :=
  { sRun with host := mwriteN [] 0 ct
              kv := { slots := [(1, { st := .swappingIn, layers := 1, latent := 64, swapBy := some 0, swapCells := [0], swapTag := leNat (fit 16 (Config.gcmTag 0 (swapIv 0 0) (swapAad 0 1 {}) ct)) })] } }

theorem metImage_opens (ct z : List Byte) (hl : ct.length = 8192) (hz : gcmCrypt 0 (swapIv 0 0) ct = z) (h1 : fld z 0x44 4 = 0) (h2 : fld z 0x48 2 = 0) :
    openImage (metImage ct) 0 1 = some (z, []) := by
  have hr : cellRead (metImage ct) 0 (getSlot (metImage ct) 1) 0 = some ct := by
    show hread (metImage ct) 0 8192 = _
    unfold hread
    rw [if_neg (by show ¬ hostBad sRun 0 8192 = true; decide)]
    have := mreadN_mwriteN ct [] 0
    rw [hl] at this
    exact congrArg some this
  have ht : toLe 16 (leNat (fit 16 (Config.gcmTag 0 (swapIv 0 0) (swapAad 0 1 {}) ct))) = fit 16 (Config.gcmTag 0 (swapIv 0 0) (swapAad 0 1 {}) ct) := by
    have := toLe_leNat (fit 16 (Config.gcmTag 0 (swapIv 0 0) (swapAad 0 1 {}) ct))
    rwa [fit_length] at this
  have ho : openCell (metImage ct) 0 1 0 ct (toLe 16 (getSlot (metImage ct) 1).swapTag) = some z := by
    rw [show (getSlot (metImage ct) 1).swapTag = leNat (fit 16 (Config.gcmTag 0 (swapIv 0 0) (swapAad 0 1 {}) ct)) from rfl, ht, ← hz]
    unfold openCell
    exact if_pos rfl
  unfold openImage
  dsimp only
  rw [show (List.head? (getSlot (metImage ct) 1).swapCells).getD 0 = 0 from rfl, hr]
  simp only [Option.bind_some]
  rw [ho]
  simp only [Option.bind_some, h1, h2]
  rfl

theorem test_met_poolsAndSwapImagesComplete_6 :
    ∃ (s t : State) (slot d : Nat) (head : List Byte) (pages : List (Nat × Nat × List Byte)),
      ((getSlot s slot).st = .swappingIn) ∧
      ((getSlot s slot).swapBy = some d) ∧
      ((s.plauf.out.any fun e => e.2.desc == d && e.2.kind == 7) = false) ∧
      (openImage s (slotPart s slot) slot = some (head, pages)) ∧
      (restorePages s { part := slotPart s slot, desc := slot, rem := [] } slot pages = some t) :=
  ⟨metImage (gcmCrypt 0 (swapIv 0 0) (List.replicate 8192 0)), metImage (gcmCrypt 0 (swapIv 0 0) (List.replicate 8192 0)), 1, 0, List.replicate 8192 0, [], rfl, rfl, rfl, metImage_opens _ _ ((gcmCrypt_length _ _ _).trans List.length_replicate) (gcmCrypt_gcmCrypt _ _ _) (by decide +kernel) (by decide +kernel), rfl⟩

theorem test_met_poolsAndSwapImagesComplete_7 :
    ∃ (s : State) (slot d : Nat),
      ((getSlot s slot).st = .swappingIn) ∧
      ((getSlot s slot).swapBy = some d) ∧
      ((s.plauf.out.any fun e => e.2.desc == d && e.2.kind == 7) = false) ∧
      (openImage s (slotPart s slot) slot = none) :=
  ⟨{ sRun with hostFail := [(8191, 8192)], kv := { slots := [(1, { st := .swappingIn, layers := 1, latent := 64, swapBy := some 0, swapCells := [0] })] } }, 1, 0, by decide +kernel⟩

/-- A COPY entry of a rota, its tensors at 2^46. -/
def rotaCopy : List Byte := ofWords (words 0x0001 [(14, 0xFFFF), (0x20, 2 ^ 46), (0x28, 2 ^ 46 + 0x40)])

def metBindF : Flight := running 0x6010 [(0x20, 3), (0x22, 1020), (0x24, 4), (0x26, 1), (0x28, 2 ^ 46 + 0x800)]

def metBind : State := sWork [(0x800, rotaCopy)] metBindF

theorem test_met_rotasBindAndStepsRunToTheirCommit_1 :
    ∃ (s : State) (d : Nat) (f : Flight) (b : List Byte),
      (Runs s d 0x6010 f) ∧
      (f.zero 0x21 1 = true) ∧
      (f.zeroFrom 0x30 = true) ∧
      (f.op 0x24 2 ≤ 64) ∧
      (f.op 0x22 2 + f.op 0x24 2 ≤ 1024) ∧
      (f.op 0x22 2 ≤ 1023) ∧
      (1 ≤ f.op 0x26 2) ∧
      (f.op 0x26 2 ≤ 4096) ∧
      (f.op 0x28 8 ≠ 0) ∧
      (f.op 0x28 8 % 64 = 0) ∧
      (f.op 0x28 8 + 64 * f.op 0x26 2 ≤ 2 ^ 47) ∧
      ((s.steps.rotas.any fun e => e.1 / 256 == f.part && e.1 != 256 * f.part + f.op 0x20 1 && decide (0 < f.op 0x24 2 ∧ 0 < e.2.privCount ∧ f.op 0x22 2 < e.2.firstPriv + e.2.privCount ∧ e.2.firstPriv < f.op 0x22 2 + f.op 0x24 2)) = false) ∧
      (vread s (cxOf s f d) (f.op 0x28 8) (64 * f.op 0x26 2) = .ok b) ∧
      (badEntry s (cxOf s f d) b (f.op 0x22 2) (f.op 0x24 2) = none) ∧
      (tfind s.steps.rotas (256 * f.part + f.op 0x20 1) = none) :=
  ⟨metBind, 0, metBindF, rotaCopy, by decide +kernel, by decide, by decide, by decide, by decide, by decide, by decide, by decide, by decide, by decide, by decide, by decide, is_met (by decide), by decide, by decide⟩

def rota3 : Rota := { base := 2 ^ 46 + 0x800, entries := 1, firstPriv := 1020, privCount := 4 }

theorem test_met_rotasBindAndStepsRunToTheirCommit_2 :
    ∃ (s : State) (d : Nat) (f : Flight) (x : Rota),
      (Runs s d 0x6011 f) ∧
      (f.zeroFrom 0x21 = true) ∧
      (tfind s.steps.rotas (256 * f.part + f.op 0x20 1) = some x) ∧
      (rotaRuns s f.part (f.op 0x20 1) = false) :=
  ⟨{ sHeld (running 0x6011 [(0x20, 3)]) with steps := { rotas := [(3, rota3)] } }, 0, running 0x6011 [(0x20, 3)], rota3, by decide⟩

/-- A STEP of one sequence and one row over rota 3. -/
def metRunF : Flight := running 0x6001 [(0x20, 2 ^ 46), (0x28, 3)]

def stepHead : List Byte := fit 64 (toLe 2 1 ++ toLe 2 0 ++ toLe 4 1 ++ toLe 8 (2 ^ 46 + 0x100) ++ toLe 8 (2 ^ 46 + 0x200) ++ toLe 8 (2 ^ 46 + 0x280))

def stepEntry : List Byte := fit 64 (toLe 2 1 ++ toLe 2 0xFFFF ++ toLe 2 1 ++ toLe 2 0 ++ toLe 4 77 ++ toLe 4 0 ++ toLe 8 0 ++ toLe 8 0 ++ toLe 8 (2 ^ 46 + 0x300))

def metRun (f : Flight) : State :=
  { sWork [(0, stepHead), (0x100, stepEntry)] f with
    kv := { slots := [(1, { st := .open_, layers := 1, latent := 64, settled := 5 })] }, steps := { rotas := [(3, rota3)] } }

def planOf (x : Except Stop StepPlan) : StepPlan :=
  match x with
  | .ok p => p
  | .error _ => { run := { rota := 0, verify := false, rows := 0, seqs := [], rowTokens := 0, rowPositions := 0, sample := 0, energy := 0, bases := [] }, tokens := [], positions := [], embed := none }

theorem plan_met {x : Except Stop StepPlan} (h : (match x with | .ok _ => true | .error _ => false) = true) : x = .ok (planOf x) := by
  cases x with
  | ok v => rfl
  | error e => cases h

def metPlan (f : Flight) : StepPlan := planOf (stepPlan (metRun f) 0 f)

theorem test_met_rotasBindAndStepsRunToTheirCommit_3 :
    ∃ (s t : State) (d : Nat) (f : Flight) (p : StepPlan),
      (Runs s d 0x6001 f) ∧
      (stepPlan s d f = .ok p) ∧
      (stepConflict s d f p.run = false) ∧
      (startStep s d f p = .ok t) :=
  ⟨metRun metRunF, okOf (startStep (metRun metRunF) 0 metRunF (metPlan metRunF)), 0, metRunF, metPlan metRunF, by decide, plan_met (by decide +kernel), by decide +kernel, ok_met (by decide +kernel)⟩

def metHeldRun (f : Flight) : State :=
  { metRun f with kv := { slots := [(1, { st := .open_, layers := 1, latent := 64, settled := 5, inStep := some 9 })] } }

theorem test_met_rotasBindAndStepsRunToTheirCommit_4 :
    ∃ (s : State) (d : Nat) (f : Flight) (p : StepPlan),
      (Runs s d 0x6001 f) ∧
      (stepPlan s d f = .ok p) ∧
      (stepConflict s d f p.run = true) :=
  ⟨metHeldRun metRunF, 0, metRunF, planOf (stepPlan (metHeldRun metRunF) 0 metRunF), by decide, plan_met (by decide +kernel), by decide +kernel⟩

def metRelF : Flight := { metRunF with phase := .held }

def metRel : State := { metRun metRelF with steps := { rotas := [(3, rota3)], runs := [(0, (metPlan metRelF).run)] } }

theorem test_met_rotasBindAndStepsRunToTheirCommit_5 :
    ∃ (s t : State) (d : Nat) (f : Flight) (p : StepPlan) (x : Part) (r : StepRun),
      (getF s d = some f) ∧
      (f.opcode = 0x6001) ∧
      (f.phase = .held) ∧
      (s.pwr.pkg = .run) ∧
      (getP s f.part = some x) ∧
      (x.st = .online) ∧
      (x.fences = []) ∧
      (tfind s.steps.runs d = some r) ∧
      (stepConflict s d f r = false) ∧
      (stepPlan s d f = .ok p) ∧
      (stepConflict s d f p.run = false) ∧
      (startStep s d f p = .ok t) :=
  ⟨metRel, okOf (startStep metRel 0 metRelF (planOf (stepPlan metRel 0 metRelF))), 0, metRelF, planOf (stepPlan metRel 0 metRelF), { st := .online, rows := 1, firstSlot := 0, slotCount := 2 }, (metPlan metRelF).run, by decide, by decide, by decide, by decide, by decide, by decide, by decide, rfl, by decide +kernel, plan_met (by decide +kernel), by decide +kernel, ok_met (by decide +kernel)⟩

def metDispF : Flight := { metRunF with phase := .running }

def dispRun : StepRun := { rota := 3, verify := false, rows := 1, seqs := [], rowTokens := 0, rowPositions := 0, sample := 0, energy := 0, bases := [0, 0, 0, 0], begun := true, started := true }

def metDisp : State := { sWork [(0x800, rotaCopy)] metDispF with steps := { rotas := [(3, rota3)], runs := [(0, dispRun)] } }

theorem test_met_rotasBindAndStepsRunToTheirCommit_6 :
    ∃ (s : State) (d : Nat) (f child : Flight) (r : StepRun) (x : Rota) (b : List Byte) (u : State),
      (getF s d = some f) ∧
      (tfind s.steps.runs d = some r) ∧
      (tfind s.steps.rotas (256 * f.part + r.rota) = some x) ∧
      (r.started = true) ∧
      (f.phase = .running) ∧
      (r.next < x.entries) ∧
      (vread s (cxOf s f d) (x.base + 64 * r.next) 64 = .ok b) ∧
      (rotaEntryBad (entryOf b) x.firstPriv x.privCount = none) ∧
      (acrossFabric s (entryOf b) = false) ∧
      (mayDispatch s r (entryOf b) = true) ∧
      ((entryOf b).fFence = false) ∧
      ((entryOf b).fWait = false) ∧
      (child = { fn := f.fn, q := f.q, slot := r.next, part := f.part, words := replayWords b f, fetchTime := f.fetchTime, phase := .started, stepOf := some d, noRecord := true }) ∧
      (u = putF { s with qe := { s.qe with nextFlight := s.qe.nextFlight + 1 }, steps := { s.steps with runs := tput s.steps.runs d { r with next := r.next + 1, live := r.live ++ [(r.next, s.qe.nextFlight)] } } } s.qe.nextFlight child) ∧
      (intakeFree u s.qe.nextFlight child = true) :=
  ⟨metDisp, 0, metDispF, _, dispRun, rota3, rotaCopy, _, by decide, by decide, by decide, rfl, rfl, by decide, is_met (by decide +kernel), by decide, by decide, by decide, by decide, by decide, rfl, rfl, by decide +kernel⟩

def metCommit : State := { sWork [] metDispF with steps := { rotas := [(3, rota3)], runs := [(0, { dispRun with next := 1 })] } }

theorem test_met_rotasBindAndStepsRunToTheirCommit_7 :
    ∃ (s : State) (d eA eB dur : Nat) (f : Flight) (r : StepRun) (x : Rota) (samples : List Nat) (l : List (StepSeq × Accepted)) (late : Bool),
      (getF s d = some f) ∧
      (tfind s.steps.runs d = some r) ∧
      (tfind s.steps.rotas (256 * f.part + r.rota) = some x) ∧
      (r.started = true) ∧
      (f.phase = .running) ∧
      (r.live = []) ∧
      (x.entries ≤ r.next) ∧
      ((if r.sample = 0 then .ok [] else intsAt s (cxOf s f d) r.sample r.rows) = .ok samples) ∧
      (seqE ((r.seqs.zip (splitRows (r.seqs.map (seqRows r)) samples)).map fun e => (acceptSeq s (cxOf s f d) r e.1 e.2).map fun v => (e.1, v)) = .ok l) ∧
      ((f.fSignal && counterFar s f.sigC) = false) ∧
      (r.seqs.findSome? (outputWaits s (cxOf s f d)) = none) ∧
      (late = (f.absDeadline.any fun t => decide (t < s.time.now))) :=
  ⟨metCommit, 0, 1, 2, 3, metDispF, { dispRun with next := 1 }, rota3, [], [], false, by decide, by decide, by decide, rfl, rfl, rfl, by decide, rfl, rfl, rfl, rfl, by decide⟩

def metCfgF : Flight := running 0x6020 [(0x20, 2 ^ 46), (0x28, 1), (0x2C, 2), (0x30, 1)]

theorem test_met_trickleSleepsSavesAndWakes_1 :
    ∃ (s : State) (d : Nat) (f : Flight),
      (Runs s d 0x6020 f) ∧
      (f.op 0x20 8 % 8192 = 0) ∧
      (1 ≤ f.op 0x28 4) ∧
      (f.op 0x28 4 ≤ 1000000) ∧
      (f.op 0x2C 4 ≤ 86400000) ∧
      (f.op 0x30 2 ≤ 64) ∧
      (f.zeroFrom 0x32 = true) ∧
      (areaOk s f.part (f.op 0x20 8) (f.op 0x30 2) = true) ∧
      ((s.qe.flights.any fun e => e.2.q == f.q && e.2.trickle.cell.isSome) = false) :=
  ⟨{ sMemF true with qe := { flights := [(0, metCfgF)] } }, 0, metCfgF, by decide +kernel⟩

def metSleepF : Flight := { running 0x1001 [] with phase := .running, cores := [0], trickle := { asleep := true } }

def metSleep : State :=
  { sRun with
    time := { now := 2000000 }
    qe := { flights := [(0, metSleepF)], ctx := [(1, { q1 .enabled with trickCells := 2, trickSaveAfter := 1, trickTimeout := 2 })] }
    flt := { sRun.flt with cores := [(0, { intake := [0] })] } }

theorem test_met_trickleSleepsSavesAndWakes_2 :
    ∃ (s : State) (d c : Nat) (f : Flight),
      (getF s d = some f) ∧
      (f.trickle.asleep = true) ∧
      (f.trickle.cell = none) ∧
      (f.trickle.since + 1000 * (getQ s f.q).trickSaveAfter ≤ s.time.now) ∧
      (freeCell s f.q = some c) :=
  ⟨metSleep, 0, 0, metSleepF, by decide⟩

theorem test_met_trickleSleepsSavesAndWakes_3 :
    ∃ (s : State) (d : Nat) (f : Flight) (x : Part),
      (getF s d = some f) ∧
      (f.trickle.asleep = true) ∧
      (f.phase = .running) ∧
      (s.pwr.pkg = .run) ∧
      (getP s f.part = some x) ∧
      (x.st = .online) ∧
      (x.fences = []) ∧
      (trickleReady s d f = true) ∧
      (f.trickle.cell = none) :=
  ⟨metSleep, 0, metSleepF, { st := .online, rows := 1, firstSlot := 0, slotCount := 2 }, by decide +kernel⟩

def metSavedF : Flight := { metSleepF with trickle := { asleep := true, cell := some 1 } }

theorem test_met_trickleSleepsSavesAndWakes_4 :
    ∃ (s : State) (d c : Nat) (f : Flight) (x : Part),
      (getF s d = some f) ∧
      (f.trickle.asleep = true) ∧
      (f.phase = .running) ∧
      (s.pwr.pkg = .run) ∧
      (getP s f.part = some x) ∧
      (x.st = .online) ∧
      (x.fences = []) ∧
      (trickleReady s d f = true) ∧
      (f.trickle.cell = some c) :=
  ⟨{ metSleep with qe := { metSleep.qe with flights := [(0, metSavedF)] } }, 0, 1, metSavedF, { st := .online, rows := 1, firstSlot := 0, slotCount := 2 }, by decide +kernel⟩

theorem test_met_trickleSleepsSavesAndWakes_5 :
    ∃ (s : State) (d : Nat) (f : Flight),
      (getF s d = some f) ∧
      (f.trickle.asleep = true) ∧
      ((getQ s f.q).trickTimeout ≠ 0) :=
  ⟨metSleep, 0, metSleepF, by decide⟩

def metKatF : Flight := running 0xE001 [(0x20, 2 ^ 46)]

def metKat : State := sWork [] metKatF

theorem test_met_diagnosticsAnswer_1 :
    ∃ (s u : State) (d : Nat) (f : Flight) (failing cores : List Nat) (bad : List (Nat × Nat)),
      (Runs s d 0xE001 f) ∧
      (f.zeroFrom 0x2D = true) ∧
      (f.op 0x2C 1 < 8) ∧
      (f.op 0x20 8 % 64 = 0) ∧
      (cores = coreSet s f.part (f.op 0x28 2) (f.op 0x2A 2)) ∧
      (f.op 0x28 2 + f.op 0x2A 2 ≤ (boundCores s f.part).length) ∧
      (cores.isEmpty = false) ∧
      (bad = cores.zipIdx.filter (fun e => failing.contains e.1)) ∧
      (vwrite s (cxOf s f d) (f.op 0x20 8) (toLe 64 ((bad.map fun e => 2 ^ e.2).foldl (· + ·) 0)) = .ok u) :=
  by
  obtain ⟨v, hv⟩ := vwrite_local metKat (cxOf metKat metKatF 0) (2 ^ 46) (toLe 64 1)
    (fun i hi => ⟨_, xlate_page metKat 0 (2 ^ 46) (2 ^ 38 + 2 ^ 23) i true (is_met (by decide +kernel)) (by decide) (by decide +kernel)
      (by have e : (toLe 64 1).length = 64 := by decide +kernel
          omega), heldAt_quiet (by decide) _ _⟩)
  exact ⟨metKat, v, 0, metKatF, [0], [0], [(0, 0)], by decide, by decide, by decide, by decide, by decide +kernel, by decide +kernel, rfl, by decide, hv⟩

def metRepF : Flight := admin 0xE010 [(0x20, 511), (0x22, 31), (0x28, 0x4000)]

theorem test_met_diagnosticsAnswer_2 :
    ∃ (s : State) (d : Nat) (f : Flight) (bs : List Byte),
      (Runs s d 0xE010 f) ∧
      (f.op 0x20 2 < 512) ∧
      (f.op 0x22 2 < 32) ∧
      (f.zero 0x24 4 = true) ∧
      (f.zeroFrom 0x30 = true) ∧
      (bs = padTo 16 (toLe 2 (f.op 0x20 2) ++ toLe 2 (f.op 0x22 2) ++ toLe 2 ((spareEntries s (bankNo (f.op 0x20 2) (f.op 0x22 2) 0) (f.op 0x22 2)).length / 8)) ++ spareEntries s (bankNo (f.op 0x20 2) (f.op 0x22 2) 0) (f.op 0x22 2)) ∧
      (hostBad s (f.op 0x28 8) bs.length = false) :=
  ⟨sHeld metRepF, 0, metRepF, _, by decide, by decide, by decide, by decide, by decide, rfl, by decide +kernel⟩

def metRowF : Flight := admin 0xE011 [(0x20, 0), (0x22, 31), (0x28, 2047)]

def metRow (f : Flight) : State :=
  { sHeld f with gnt := { sRun.gnt with policy := { sRun.gnt.policy with flags := 0x18 } }, hol := { open_ := true, parts := 1, stackSet := 255, ports := 0xFFFFFFFF } }

theorem test_met_diagnosticsAnswer_3 :
    ∃ (s : State) (d i : Nat) (f : Flight),
      (Runs s d 0xE011 f) ∧
      (rowFields f false = true) ∧
      (bit s.gnt.policy.flags 4 = true) ∧
      (targetInHoliday s (f.op 0x20 2) = true) ∧
      (f.op 0x20 2 < 512) ∧
      (tfind s.flt.remaps (rowOf (rowAddress (f.op 0x20 2) (f.op 0x22 2) (f.op 0x24 1) (f.op 0x28 4))) = none) ∧
      (freeSpare s (bankNo (f.op 0x20 2) (f.op 0x22 2) (f.op 0x24 1)) = some i) :=
  ⟨metRow metRowF, 0, 0, metRowF, by decide +kernel⟩

def metPprF : Flight := admin 0xE012 [(0x20, 0x8007), (0x22, 63), (0x24, 31), (0x28, 100)]

theorem test_met_diagnosticsAnswer_4 :
    ∃ (s : State) (d : Nat) (f : Flight) (n pa : Nat),
      (Runs s d 0xE012 f) ∧
      (rowFields f true = true) ∧
      (bit s.gnt.policy.flags 4 = true) ∧
      (targetInHoliday s (f.op 0x20 2) = true) ∧
      (n = bankNo (f.op 0x20 2) (f.op 0x22 2) (f.op 0x24 1)) ∧
      (s.flt.pprUsed.contains n = false) ∧
      (pa = rowAddress (f.op 0x20 2) (f.op 0x22 2) (f.op 0x24 1) (f.op 0x28 4)) :=
  ⟨metRow metPprF, 0, metPprF, _, _, by decide +kernel, by decide +kernel, (by decide +kernel), by decide +kernel, rfl, by decide +kernel, rfl⟩

def metTapF : Flight := admin 0xE020 [(0x20, 7), (0x21, 0), (0x22, 9), (0x28, 0x4000)]

theorem test_met_diagnosticsAnswer_5 :
    ∃ (s : State) (d : Nat) (f : Flight) (b : List Byte),
      (Runs s d 0xE020 f) ∧
      (f.op 0x20 1 ≤ 7) ∧
      (f.op 0x21 1 ≤ 1) ∧
      (f.op 0x22 2 ≠ 0) ∧
      (f.op 0x22 2 ≤ 4096) ∧
      (f.zero 0x24 4 = true) ∧
      (f.zeroFrom 0x30 = true) ∧
      (hread s (f.op 0x28 8) ((f.op 0x22 2 + 7) / 8) = some b) ∧
      (bit s.gnt.policy.flags 3 = true) ∧
      (s.hol.open_ = true) ∧
      (bit s.hol.stackSet (f.op 0x20 1) = true) ∧
      (f.op 0x21 1 = 0 → bit s.gnt.policy.flags 4 = true) :=
  ⟨metRow metTapF, 0, metTapF, [0, 0], by decide +kernel⟩

def metEngF : Flight := admin 0xE021 [(0x20, 7)]

theorem test_met_diagnosticsAnswer_6 :
    ∃ (s : State) (d : Nat) (f : Flight),
      (Runs s d 0xE021 f) ∧
      (f.op 0x20 1 ≤ 7) ∧
      (f.op 0x28 1 ≤ 1) ∧
      (f.zero 0x21 1 = true) ∧
      (f.zeroFrom 0x29 = true) ∧
      (bit s.gnt.policy.flags 3 = true) ∧
      (s.hol.open_ = true) ∧
      (((List.range 4).all fun i => bit s.hol.ports (4 * f.op 0x20 1 + i)) = true) :=
  ⟨metRow metEngF, 0, metEngF, by decide +kernel⟩

def metArrF : Flight := admin 0xE030 [(0x20, 32), (0x28, 1), (0x30, 0x4000)]

def metDbg (f : Flight) : State := { sHeld f with gnt := { sRun.gnt with debug := true, debugScope := 7 } }

theorem test_met_diagnosticsAnswer_7 :
    ∃ (s : State) (d pa : Nat) (f : Flight) (found : List (Nat × EccFinding)) (bs : List Byte),
      (Runs s d 0xE030 f) ∧
      (found.find? (fun e => e.1 == 0) = none) ∧
      (pa = f.op 0x20 8) ∧
      (f.op 0x28 4 = 1) ∧
      (pa % 32 = 0) ∧
      (f.zero 0x2C 4 = true) ∧
      (f.zeroFrom 0x38 = true) ∧
      (arrayAddress s pa = true) ∧
      (s.gnt.debug = true) ∧
      (bit s.gnt.debugScope 1 = true) ∧
      (inEveFrame s pa = false) ∧
      (poisoned s pa = false) ∧
      (inFreeFrame s pa = false) ∧
      (bs = wordBytes s pa ++ toLe 4 (Config.checkBytes (wordBytes s pa)) ++ toLe 1 0 ++ toLe 3 0) ∧
      (hostBad s (f.op 0x30 8) bs.length = false) :=
  ⟨metDbg metArrF, 0, 32, metArrF, [(1, .corrected 3)], _, by decide +kernel, by decide +kernel, rfl, by decide +kernel, by decide +kernel, (by decide +kernel), by decide +kernel, by decide +kernel, (by decide +kernel), by decide +kernel, by decide +kernel, (by decide +kernel), by decide +kernel, rfl, by decide +kernel⟩

def metScanF : Flight := admin 0xE031 [(0x20, 1), (0x21, 15), (0x22, 16), (0x28, 0x4000)]

theorem test_met_diagnosticsAnswer_8 :
    ∃ (s : State) (d site : Nat) (f : Flight),
      (Runs s d 0xE031 f) ∧
      (site = f.op 0x20 1 * 272 + f.op 0x21 1 * 17 + f.op 0x22 1) ∧
      (f.op 0x20 1 ≤ 1) ∧
      (f.op 0x21 1 ≤ 15) ∧
      (f.op 0x22 1 ≤ 16) ∧
      (f.zero 0x23 5 = true) ∧
      (f.zeroFrom 0x30 = true) ∧
      (s.gnt.debug = true) ∧
      (bit s.gnt.debugScope 2 = true) ∧
      ((getSite s site).fenced = true ∨ siteInHoliday s (f.op 0x20 1) (f.op 0x21 1) = true) ∧
      (hostBad s (f.op 0x28 8) 262144 = false) :=
  ⟨{ metDbg metScanF with flt := { sRun.flt with sites := [(543, { fenced := true })] } }, 0, 543, metScanF, by decide +kernel⟩

/-- A MATRIX parameter record: integer accumulation, the rest 0. -/
def prm : List Byte := fit 64 (toLe 8 0 ++ toLe 8 8)

theorem prm_0 : fld prm 0x0 8 = 0 := by decide +kernel

theorem prm_1 : fld prm 0x8 8 = 8 := by decide +kernel

theorem prm_2 : fld prm 0x10 8 = 0 := by decide +kernel

theorem prm_3 : fld prm 0x18 1 = 0 := by decide +kernel

theorem prm_4 : fld prm 0x19 1 = 0 := by decide +kernel

theorem prm_5 : fld prm 0x1a 1 = 0 := by decide +kernel

theorem prm_6 : fld prm 0x1c 2 = 0 := by decide +kernel

theorem prm_7 : fld prm 0x1e 2 = 0 := by decide +kernel

theorem prm_8 : fld prm 0x20 2 = 0 := by decide +kernel

theorem prm_9 : zeroAt prm 0x1B 1 = true := by decide +kernel

theorem prm_10 : zeroAt prm 0x22 30 = true := by decide +kernel

def metMatF (op : Nat) : Flight := running op [(0x20, 2 ^ 46), (0x28, 2 ^ 46 + 64), (0x30, 2 ^ 46 + 128), (0x38, 2 ^ 46 + 192)]

/-- INT8 operands of one element each, accumulated to INT32: the records of X, W, D and the parameters, then 3 and 253 (-3). -/
def metMat (x w o : List Nat) (op : Nat) : State :=
  sWork [(0, recordOf 0x400 5 x (x.drop 1)), (64, recordOf 0x480 5 w (w.drop 1)), (128, recordOf 0x500 6 o ((o.drop 1).map (4 * ·))), (192, prm),
    (0x400, [3]), (0x480, [253])] (metMatF op)

theorem metMat_cores (x w o : List Nat) (op : Nat) : boundCores (metMat x w o op) 0 = [0] := boundCores_sRun

def metMatmul : State := metMat [1, 1] [1, 1] [1, 1] 0x1001

def metMatmulPlan : MatPlan :=
  { conv := false, x := tensorOf 0x400 5 [1, 1] [1], w := tensorOf 0x480 5 [1, 1] [1], d := tensorOf 0x500 6 [1, 1] [4], c := none, cvt := 8, epi := none, side := none, split := 0
    units := 0, dist := 0, first := 0, count := 0, kw := 1, kh := 1, padL := 0, padT := 0, wIn := 1, hIn := 1, wOut := 1, hOut := 1
    recs := [(2 ^ 46, 64), (2 ^ 46 + 64, 64), (2 ^ 46 + 128, 64), (2 ^ 46 + 192, 64)] }

theorem metMatmul_x : xlate metMatmul 0 (2 ^ 46) = .ok (.loc (2 ^ 38 + 2 ^ 23) true) := is_met (by decide +kernel)

theorem metMatmul_b : recordIn metMatmul (cxOf metMatmul (metMatF 0x1001) 0) (2 ^ 46 + 192) 64 64 = .ok (prm) := by
  have e := recordIn_page metMatmul (cxOf metMatmul (metMatF 0x1001) 0) (2 ^ 46) _ 192 64 64 true metMatmul_x (by decide) (by decide) (by decide) (by decide +kernel) (by decide) (by decide)
  rw [show mreadN metMatmul.mem.bytes (2 ^ 38 + 2 ^ 23 + 192) 64 = prm by decide +kernel] at e
  exact e

theorem metMatmul_o (off : Nat) (t : Tensor) (h : off + 64 ≤ 8192 ∧ off % 64 = 0) (ht : (parseTensor (mreadN metMatmul.mem.bytes (2 ^ 38 + 2 ^ 23 + off) 64)).bind (·.withRows none) = some t)
    (hq : ¬ (t.inSeq = true ∨ (isMx t.fmt = true ∧ 2 ^ 47 ≤ t.scale + t.scaleBytes - 1))) : operand metMatmul (cxOf metMatmul (metMatF 0x1001) 0) (2 ^ 46 + off) = .ok t :=
  operand_page metMatmul (cxOf metMatmul (metMatF 0x1001) 0) (2 ^ 46) _ off true t metMatmul_x (by decide) (by decide) h.1 (by decide +kernel) (by omega) (by omega) ht hq

theorem metMatmul_of (s : State) (d : Nat) (f : Flight) (b : List Byte) (hb : recordIn s (cxOf s f d) (2 ^ 46 + 192) 64 64 = .ok b)
    (hx : operand s (cxOf s f d) (2 ^ 46) = .ok metMatmulPlan.x) (hw : operand s (cxOf s f d) (2 ^ 46 + 64) = .ok metMatmulPlan.w)
    (hd : operand s (cxOf s f d) (2 ^ 46 + 128) = .ok metMatmulPlan.d) (hr : coreRangeOk s f.part 0 0 = true) (ho : f.opcode = 0x1001)
    (hp : f.op 0x20 8 = 2 ^ 46 ∧ f.op 0x28 8 = 2 ^ 46 + 64 ∧ f.op 0x30 8 = 2 ^ 46 + 128 ∧ f.op 0x38 8 = 2 ^ 46 + 192)
    (hf : fld b 0 8 = 0 ∧ fld b 8 8 = 8 ∧ fld b 0x10 8 = 0 ∧ fld b 0x18 1 = 0 ∧ fld b 0x19 1 = 0 ∧ fld b 0x1A 1 = 0 ∧ fld b 0x1C 2 = 0 ∧ fld b 0x1E 2 = 0 ∧ fld b 0x20 2 = 0 ∧
      zeroAt b 0x1B 1 = true ∧ zeroAt b 0x22 30 = true) : matPlan s d f = .ok metMatmulPlan := by
  obtain ⟨f0, f1, f2, f3, f4, f5, f6, f7, f8, f9, f10⟩ := hf
  obtain ⟨p0, p1, p2, p3⟩ := hp
  unfold matPlan
  simp only [p0, p1, p2, p3, hb, hx, hw, hd, ho, f0, f1, f2, f3, f4, f5, f6, f7, f8, f9, f10, hr, bind, Except.bind]
  rfl

theorem metMatmul_plan : matPlan metMatmul 0 (metMatF 0x1001) = .ok metMatmulPlan :=
  metMatmul_of metMatmul 0 (metMatF 0x1001) prm metMatmul_b
    (metMatmul_o 0 _ (by decide) (by decide +kernel) (by decide)) (metMatmul_o 64 _ (by decide) (by decide +kernel) (by decide))
    (metMatmul_o 128 _ (by decide) (by decide +kernel) (by decide))
    (coreSet_met (metMat_cores _ _ _ _)).2 (by decide +kernel) (by decide +kernel) ⟨prm_0, prm_1, prm_2, prm_3, prm_4, prm_5, prm_6, prm_7, prm_8, prm_9, prm_10⟩

theorem metMatmul_go : granted metMatmul 0 0 metMatmulPlan = true := by
  unfold granted takingPart
  rw [show coreSet metMatmul 0 metMatmulPlan.first metMatmulPlan.count = [0] from (coreSet_met (metMat_cores _ _ _ _)).1]
  decide +kernel

theorem metMatmul_rx : readTP metMatmul (cxOf metMatmul (metMatF 0x1001) 0) metMatmulPlan.x = .ok [((3, 0), false)] := is_met (by decide +kernel)

theorem metMatmul_rw : readTP metMatmul (cxOf metMatmul (metMatF 0x1001) 0) metMatmulPlan.w = .ok [((253, 0), false)] := is_met (by decide +kernel)

theorem metMatmul_m : meets (metMatmulPlan.d.places metMatmul (cxOf metMatmul (metMatF 0x1001) 0)) (matSources metMatmul (cxOf metMatmul (metMatF 0x1001) 0) metMatmulPlan) = false := by decide +kernel

theorem test_met_matrixProductsComplete_1 :
    ∃ (s u : State) (d : Nat) (f : Flight) (w : Work) (p : MatPlan) (xl wl cl sl : List ((Nat × Nat) × Bool)),
      (Runs s d 0x1001 f) ∧
      (matPlan s d f = .ok p) ∧
      (granted s d f.part p = true) ∧
      (f.fTrickle = false) ∧
      ((p.x.ext[1]?).getD 1 ≠ 0) ∧
      (readTP s (cxOf s f d) p.x = .ok xl) ∧
      (readTP s (cxOf s f d) p.w = .ok wl) ∧
      (readOptP s (cxOf s f d) p.c = .ok cl) ∧
      (readOptP s (cxOf s f d) p.side = .ok sl) ∧
      ((xl ++ wl ++ cl ++ sl).any Prod.snd = false) ∧
      (w.faults = []) ∧
      (w.more = false) ∧
      (f.done = []) ∧
      (meets (p.d.places s (cxOf s f d)) (matSources s (cxOf s f d) p) = false) ∧
      (writeMat ((p.x :: p.w :: (p.c.toList ++ p.side.toList)).foldl (fun t x => touchRead t (cxOf s f d) x) s) (cxOf s f d) f p none
      ((List.range p.d.count).map (matElem p (valuesL p.x xl).toArray (valuesL p.w wl).toArray
        (p.c.map (fun t => if iacc p.cvt then cl.map (fun e => e.1.1) else widenL t cl))
        (match p.side with | none => [] | some t => widenL t sl))) = .ok u) :=
  ⟨metMatmul, _, 0, (metMatF 0x1001), { cycles := 7, faults := [], drained := [] }, metMatmulPlan, [((3, 0), false)], [((253, 0), false)], [], [], by decide +kernel, metMatmul_plan, metMatmul_go, by decide +kernel, by decide, metMatmul_rx, metMatmul_rw, rfl, rfl, by decide, rfl, rfl, rfl, metMatmul_m, ok_met (by decide +kernel)⟩

def metConv1 : State := metMat [1, 1] [1, 1, 1] [1, 1] 0x1010

def metConv1Plan : MatPlan :=
  { conv := true, x := tensorOf 0x400 5 [1, 1] [1], w := tensorOf 0x480 5 [1, 1, 1] [1, 1], d := tensorOf 0x500 6 [1, 1] [4], c := none, cvt := 8, epi := none, side := none, split := 0
    units := 0, dist := 0, first := 0, count := 0, kw := 1, kh := 1, padL := 0, padT := 0, wIn := 1, hIn := 1, wOut := 1, hOut := 1
    recs := [(2 ^ 46, 64), (2 ^ 46 + 64, 64), (2 ^ 46 + 128, 64), (2 ^ 46 + 192, 64)] }

theorem metConv1_x : xlate metConv1 0 (2 ^ 46) = .ok (.loc (2 ^ 38 + 2 ^ 23) true) := is_met (by decide +kernel)

theorem metConv1_b : recordIn metConv1 (cxOf metConv1 (metMatF 0x1010) 0) (2 ^ 46 + 192) 64 64 = .ok (prm) := by
  have e := recordIn_page metConv1 (cxOf metConv1 (metMatF 0x1010) 0) (2 ^ 46) _ 192 64 64 true metConv1_x (by decide) (by decide) (by decide) (by decide +kernel) (by decide) (by decide)
  rw [show mreadN metConv1.mem.bytes (2 ^ 38 + 2 ^ 23 + 192) 64 = prm by decide +kernel] at e
  exact e

theorem metConv1_o (off : Nat) (t : Tensor) (h : off + 64 ≤ 8192 ∧ off % 64 = 0) (ht : (parseTensor (mreadN metConv1.mem.bytes (2 ^ 38 + 2 ^ 23 + off) 64)).bind (·.withRows none) = some t)
    (hq : ¬ (t.inSeq = true ∨ (isMx t.fmt = true ∧ 2 ^ 47 ≤ t.scale + t.scaleBytes - 1))) : operand metConv1 (cxOf metConv1 (metMatF 0x1010) 0) (2 ^ 46 + off) = .ok t :=
  operand_page metConv1 (cxOf metConv1 (metMatF 0x1010) 0) (2 ^ 46) _ off true t metConv1_x (by decide) (by decide) h.1 (by decide +kernel) (by omega) (by omega) ht hq

theorem metConv1_of (s : State) (d : Nat) (f : Flight) (b : List Byte) (hb : recordIn s (cxOf s f d) (2 ^ 46 + 192) 64 64 = .ok b)
    (hx : operand s (cxOf s f d) (2 ^ 46) = .ok metConv1Plan.x) (hw : operand s (cxOf s f d) (2 ^ 46 + 64) = .ok metConv1Plan.w)
    (hd : operand s (cxOf s f d) (2 ^ 46 + 128) = .ok metConv1Plan.d) (hr : coreRangeOk s f.part 0 0 = true) (ho : f.opcode = 0x1010)
    (hp : f.op 0x20 8 = 2 ^ 46 ∧ f.op 0x28 8 = 2 ^ 46 + 64 ∧ f.op 0x30 8 = 2 ^ 46 + 128 ∧ f.op 0x38 8 = 2 ^ 46 + 192)
    (hf : fld b 0 8 = 0 ∧ fld b 8 8 = 8 ∧ fld b 0x10 8 = 0 ∧ fld b 0x18 1 = 0 ∧ fld b 0x19 1 = 0 ∧ fld b 0x1A 1 = 0 ∧ fld b 0x1C 2 = 0 ∧ fld b 0x1E 2 = 0 ∧ fld b 0x20 2 = 0 ∧
      zeroAt b 0x1B 1 = true ∧ zeroAt b 0x22 30 = true) : matPlan s d f = .ok metConv1Plan := by
  obtain ⟨f0, f1, f2, f3, f4, f5, f6, f7, f8, f9, f10⟩ := hf
  obtain ⟨p0, p1, p2, p3⟩ := hp
  unfold matPlan
  simp only [p0, p1, p2, p3, hb, hx, hw, hd, ho, f0, f1, f2, f3, f4, f5, f6, f7, f8, f9, f10, hr, bind, Except.bind]
  rfl

theorem metConv1_plan : matPlan metConv1 0 (metMatF 0x1010) = .ok metConv1Plan :=
  metConv1_of metConv1 0 (metMatF 0x1010) prm metConv1_b
    (metConv1_o 0 _ (by decide) (by decide +kernel) (by decide)) (metConv1_o 64 _ (by decide) (by decide +kernel) (by decide))
    (metConv1_o 128 _ (by decide) (by decide +kernel) (by decide))
    (coreSet_met (metMat_cores _ _ _ _)).2 (by decide +kernel) (by decide +kernel) ⟨prm_0, prm_1, prm_2, prm_3, prm_4, prm_5, prm_6, prm_7, prm_8, prm_9, prm_10⟩

theorem metConv1_go : granted metConv1 0 0 metConv1Plan = true := by
  unfold granted takingPart
  rw [show coreSet metConv1 0 metConv1Plan.first metConv1Plan.count = [0] from (coreSet_met (metMat_cores _ _ _ _)).1]
  decide +kernel

theorem metConv1_rx : readTP metConv1 (cxOf metConv1 (metMatF 0x1010) 0) metConv1Plan.x = .ok [((3, 0), false)] := is_met (by decide +kernel)

theorem metConv1_rw : readTP metConv1 (cxOf metConv1 (metMatF 0x1010) 0) metConv1Plan.w = .ok [((253, 0), false)] := is_met (by decide +kernel)

theorem metConv1_m : meets (metConv1Plan.d.places metConv1 (cxOf metConv1 (metMatF 0x1010) 0)) (matSources metConv1 (cxOf metConv1 (metMatF 0x1010) 0) metConv1Plan) = false := by decide +kernel

theorem test_met_matrixProductsComplete_2 :
    ∃ (s u : State) (d : Nat) (f : Flight) (w : Work) (p : MatPlan) (xl wl cl sl : List ((Nat × Nat) × Bool)),
      (Runs s d 0x1010 f) ∧
      (matPlan s d f = .ok p) ∧
      (granted s d f.part p = true) ∧
      (f.fTrickle = false) ∧
      ((p.x.ext[1]?).getD 1 ≠ 0) ∧
      (readTP s (cxOf s f d) p.x = .ok xl) ∧
      (readTP s (cxOf s f d) p.w = .ok wl) ∧
      (readOptP s (cxOf s f d) p.c = .ok cl) ∧
      (readOptP s (cxOf s f d) p.side = .ok sl) ∧
      ((xl ++ wl ++ cl ++ sl).any Prod.snd = false) ∧
      (w.faults = []) ∧
      (w.more = false) ∧
      (f.done = []) ∧
      (meets (p.d.places s (cxOf s f d)) (matSources s (cxOf s f d) p) = false) ∧
      (writeMat ((p.x :: p.w :: (p.c.toList ++ p.side.toList)).foldl (fun t x => touchRead t (cxOf s f d) x) s) (cxOf s f d) f p none
      ((List.range p.d.count).map (matElem p (valuesL p.x xl).toArray (valuesL p.w wl).toArray
        (p.c.map (fun t => if iacc p.cvt then cl.map (fun e => e.1.1) else widenL t cl))
        (match p.side with | none => [] | some t => widenL t sl))) = .ok u) :=
  ⟨metConv1, _, 0, (metMatF 0x1010), { cycles := 7, faults := [], drained := [] }, metConv1Plan, [((3, 0), false)], [((253, 0), false)], [], [], by decide +kernel, metConv1_plan, metConv1_go, by decide +kernel, by decide, metConv1_rx, metConv1_rw, rfl, rfl, by decide, rfl, rfl, rfl, metConv1_m, ok_met (by decide +kernel)⟩

def metConv2 : State := metMat [1, 1, 1] [1, 1, 1, 1] [1, 1, 1] 0x1011

def metConv2Plan : MatPlan :=
  { conv := true, x := tensorOf 0x400 5 [1, 1, 1] [1, 1], w := tensorOf 0x480 5 [1, 1, 1, 1] [1, 1, 1], d := tensorOf 0x500 6 [1, 1, 1] [4, 4], c := none, cvt := 8, epi := none, side := none, split := 0
    units := 0, dist := 0, first := 0, count := 0, kw := 1, kh := 1, padL := 0, padT := 0, wIn := 1, hIn := 1, wOut := 1, hOut := 1
    recs := [(2 ^ 46, 64), (2 ^ 46 + 64, 64), (2 ^ 46 + 128, 64), (2 ^ 46 + 192, 64)] }

theorem metConv2_x : xlate metConv2 0 (2 ^ 46) = .ok (.loc (2 ^ 38 + 2 ^ 23) true) := is_met (by decide +kernel)

theorem metConv2_b : recordIn metConv2 (cxOf metConv2 (metMatF 0x1011) 0) (2 ^ 46 + 192) 64 64 = .ok (prm) := by
  have e := recordIn_page metConv2 (cxOf metConv2 (metMatF 0x1011) 0) (2 ^ 46) _ 192 64 64 true metConv2_x (by decide) (by decide) (by decide) (by decide +kernel) (by decide) (by decide)
  rw [show mreadN metConv2.mem.bytes (2 ^ 38 + 2 ^ 23 + 192) 64 = prm by decide +kernel] at e
  exact e

theorem metConv2_o (off : Nat) (t : Tensor) (h : off + 64 ≤ 8192 ∧ off % 64 = 0) (ht : (parseTensor (mreadN metConv2.mem.bytes (2 ^ 38 + 2 ^ 23 + off) 64)).bind (·.withRows none) = some t)
    (hq : ¬ (t.inSeq = true ∨ (isMx t.fmt = true ∧ 2 ^ 47 ≤ t.scale + t.scaleBytes - 1))) : operand metConv2 (cxOf metConv2 (metMatF 0x1011) 0) (2 ^ 46 + off) = .ok t :=
  operand_page metConv2 (cxOf metConv2 (metMatF 0x1011) 0) (2 ^ 46) _ off true t metConv2_x (by decide) (by decide) h.1 (by decide +kernel) (by omega) (by omega) ht hq

theorem metConv2_of (s : State) (d : Nat) (f : Flight) (b : List Byte) (hb : recordIn s (cxOf s f d) (2 ^ 46 + 192) 64 64 = .ok b)
    (hx : operand s (cxOf s f d) (2 ^ 46) = .ok metConv2Plan.x) (hw : operand s (cxOf s f d) (2 ^ 46 + 64) = .ok metConv2Plan.w)
    (hd : operand s (cxOf s f d) (2 ^ 46 + 128) = .ok metConv2Plan.d) (hr : coreRangeOk s f.part 0 0 = true) (ho : f.opcode = 0x1011)
    (hp : f.op 0x20 8 = 2 ^ 46 ∧ f.op 0x28 8 = 2 ^ 46 + 64 ∧ f.op 0x30 8 = 2 ^ 46 + 128 ∧ f.op 0x38 8 = 2 ^ 46 + 192)
    (hf : fld b 0 8 = 0 ∧ fld b 8 8 = 8 ∧ fld b 0x10 8 = 0 ∧ fld b 0x18 1 = 0 ∧ fld b 0x19 1 = 0 ∧ fld b 0x1A 1 = 0 ∧ fld b 0x1C 2 = 0 ∧ fld b 0x1E 2 = 0 ∧ fld b 0x20 2 = 0 ∧
      zeroAt b 0x1B 1 = true ∧ zeroAt b 0x22 30 = true) : matPlan s d f = .ok metConv2Plan := by
  obtain ⟨f0, f1, f2, f3, f4, f5, f6, f7, f8, f9, f10⟩ := hf
  obtain ⟨p0, p1, p2, p3⟩ := hp
  unfold matPlan
  simp only [p0, p1, p2, p3, hb, hx, hw, hd, ho, f0, f1, f2, f3, f4, f5, f6, f7, f8, f9, f10, hr, bind, Except.bind]
  rfl

theorem metConv2_plan : matPlan metConv2 0 (metMatF 0x1011) = .ok metConv2Plan :=
  metConv2_of metConv2 0 (metMatF 0x1011) prm metConv2_b
    (metConv2_o 0 _ (by decide) (by decide +kernel) (by decide)) (metConv2_o 64 _ (by decide) (by decide +kernel) (by decide))
    (metConv2_o 128 _ (by decide) (by decide +kernel) (by decide))
    (coreSet_met (metMat_cores _ _ _ _)).2 (by decide +kernel) (by decide +kernel) ⟨prm_0, prm_1, prm_2, prm_3, prm_4, prm_5, prm_6, prm_7, prm_8, prm_9, prm_10⟩

theorem metConv2_go : granted metConv2 0 0 metConv2Plan = true := by
  unfold granted takingPart
  rw [show coreSet metConv2 0 metConv2Plan.first metConv2Plan.count = [0] from (coreSet_met (metMat_cores _ _ _ _)).1]
  decide +kernel

theorem metConv2_rx : readTP metConv2 (cxOf metConv2 (metMatF 0x1011) 0) metConv2Plan.x = .ok [((3, 0), false)] := is_met (by decide +kernel)

theorem metConv2_rw : readTP metConv2 (cxOf metConv2 (metMatF 0x1011) 0) metConv2Plan.w = .ok [((253, 0), false)] := is_met (by decide +kernel)

theorem metConv2_m : meets (metConv2Plan.d.places metConv2 (cxOf metConv2 (metMatF 0x1011) 0)) (matSources metConv2 (cxOf metConv2 (metMatF 0x1011) 0) metConv2Plan) = false := by decide +kernel

theorem test_met_matrixProductsComplete_3 :
    ∃ (s u : State) (d : Nat) (f : Flight) (w : Work) (p : MatPlan) (xl wl cl sl : List ((Nat × Nat) × Bool)),
      (Runs s d 0x1011 f) ∧
      (matPlan s d f = .ok p) ∧
      (granted s d f.part p = true) ∧
      (f.fTrickle = false) ∧
      ((p.x.ext[1]?).getD 1 ≠ 0) ∧
      (readTP s (cxOf s f d) p.x = .ok xl) ∧
      (readTP s (cxOf s f d) p.w = .ok wl) ∧
      (readOptP s (cxOf s f d) p.c = .ok cl) ∧
      (readOptP s (cxOf s f d) p.side = .ok sl) ∧
      ((xl ++ wl ++ cl ++ sl).any Prod.snd = false) ∧
      (w.faults = []) ∧
      (w.more = false) ∧
      (f.done = []) ∧
      (meets (p.d.places s (cxOf s f d)) (matSources s (cxOf s f d) p) = false) ∧
      (writeMat ((p.x :: p.w :: (p.c.toList ++ p.side.toList)).foldl (fun t x => touchRead t (cxOf s f d) x) s) (cxOf s f d) f p none
      ((List.range p.d.count).map (matElem p (valuesL p.x xl).toArray (valuesL p.w wl).toArray
        (p.c.map (fun t => if iacc p.cvt then cl.map (fun e => e.1.1) else widenL t cl))
        (match p.side with | none => [] | some t => widenL t sl))) = .ok u) :=
  ⟨metConv2, _, 0, (metMatF 0x1011), { cycles := 7, faults := [], drained := [] }, metConv2Plan, [((3, 0), false)], [((253, 0), false)], [], [], by decide +kernel, metConv2_plan, metConv2_go, by decide +kernel, by decide, metConv2_rx, metConv2_rw, rfl, rfl, by decide, rfl, rfl, rfl, metConv2_m, ok_met (by decide +kernel)⟩

def metMode : State := { metMat [1, 1] [1, 1] [1, 1] 0x1001 with flt := { sRun.flt with cores := [(0, { intake := [0], mode := 2 })] } }

theorem metMode_x : xlate metMode 0 (2 ^ 46) = .ok (.loc (2 ^ 38 + 2 ^ 23) true) := is_met (by decide +kernel)

theorem metMode_b : recordIn metMode (cxOf metMode (metMatF 0x1001) 0) (2 ^ 46 + 192) 64 64 = .ok (prm) := by
  have e := recordIn_page metMode (cxOf metMode (metMatF 0x1001) 0) (2 ^ 46) _ 192 64 64 true metMode_x (by decide) (by decide) (by decide) (by decide +kernel) (by decide) (by decide)
  rw [show mreadN metMode.mem.bytes (2 ^ 38 + 2 ^ 23 + 192) 64 = prm by decide +kernel] at e
  exact e

theorem metMode_o (off : Nat) (t : Tensor) (h : off + 64 ≤ 8192 ∧ off % 64 = 0) (ht : (parseTensor (mreadN metMode.mem.bytes (2 ^ 38 + 2 ^ 23 + off) 64)).bind (·.withRows none) = some t)
    (hq : ¬ (t.inSeq = true ∨ (isMx t.fmt = true ∧ 2 ^ 47 ≤ t.scale + t.scaleBytes - 1))) : operand metMode (cxOf metMode (metMatF 0x1001) 0) (2 ^ 46 + off) = .ok t :=
  operand_page metMode (cxOf metMode (metMatF 0x1001) 0) (2 ^ 46) _ off true t metMode_x (by decide) (by decide) h.1 (by decide +kernel) (by omega) (by omega) ht hq

theorem metMode_plan : matPlan metMode 0 (metMatF 0x1001) = .ok metMatmulPlan :=
  metMatmul_of metMode 0 (metMatF 0x1001) prm metMode_b
    (metMode_o 0 _ (by decide) (by decide +kernel) (by decide)) (metMode_o 64 _ (by decide) (by decide +kernel) (by decide))
    (metMode_o 128 _ (by decide) (by decide +kernel) (by decide))
    (coreSet_met (s := metMode) boundCores_sRun).2 (by decide +kernel) (by decide +kernel) ⟨prm_0, prm_1, prm_2, prm_3, prm_4, prm_5, prm_6, prm_7, prm_8, prm_9, prm_10⟩

theorem test_met_matrixProductsComplete_4 :
    ∃ (s : State) (core d : Nat) (f : Flight) (p : MatPlan) (e : Nat × Nat × Nat × Nat),
      (((getCore s core).intake.find? fun d => ((getF s d).map fun f => f.phase == .started && !f.begun).getD false) = some d) ∧
      (getF s d = some f) ∧
      (matPlan s d f = .ok p) ∧
      (((takingPart s f.part p).find? fun e => e.1 == core) = some e) ∧
      (unitsHeld s core d = 0) ∧
      (f.opcode / 4096 = 1) :=
  ⟨metMode, 0, 0, metMatF 0x1001, metMatmulPlan, (0, 0, 1, 0), by decide +kernel, by decide +kernel, metMode_plan, by
    unfold takingPart
    rw [show coreSet metMode (metMatF 0x1001).part metMatmulPlan.first metMatmulPlan.count = [0] from (coreSet_met (s := metMode) boundCores_sRun).1]
    decide +kernel, by decide +kernel, by decide +kernel⟩

/-- A chain of one operation, the maximum with 0 of A's element. -/
def metChRec : List Byte := toLe 24 1 ++ toLe 104 (0x26 + 8 * 2 ^ 12 + 63 * 2 ^ 18 + 63 * 2 ^ 24)

def metCh : Chain :=
  { first := 0, count := 0, cvt := 0, side := 0, ops := [{ code := 0x26, dst := 0, s1 := 8, s2 := 63, s3 := 63 }], ks := [0, 0, 0, 0, 0, 0, 0, 0, 0, 0, 0, 0, 0, 0] }

def metChF : Flight := running 0x2001 [(0x20, 2 ^ 46), (0x30, 2 ^ 46 + 128), (0x38, 2 ^ 46 + 192)]

def metChain : State :=
  sWork [(0, recordOf 0x400 0 [1, 1] [4]), (128, recordOf 0x500 0 [1, 1] [4]), (145, toLe 1 0x22), (192, metChRec), (0x400, toLe 4 0xC0000000)] metChF

def metSet : ChainSet := { a := tensorOf 0x400 0 [1, 1] [4], b := none, side := none, d := { tensorOf 0x500 0 [1, 1] [4] with place := 1 } }

theorem metCh_of (s : State) (d : Nat) (f : Flight) (b : List Byte) (hb : recordIn s (cxOf s f d) (f.op 0x38 8) 128 64 = .ok b)
    (ha : operand s (cxOf s f d) (f.op 0x20 8) = .ok metSet.a) (h0 : f.op 0x28 8 = 0) (hd : operand s (cxOf s f d) (f.op 0x30 8) = .ok metSet.d)
    (hp : parseChain b { a := true, b := false, side := false, acc := false } = some metCh) (hs : chainShapeOk f metCh metSet = true) : chainPlan s d f = .ok (metCh, metSet) := by
  have n0 : operandOpt s (cxOf s f d) (f.op 0x28 8) = .ok none := by rw [h0]; rfl
  have n1 : operandOpt s (cxOf s f d) metCh.side = .ok none := rfl
  have hs' : chainShapeOk f metCh { a := metSet.a, b := none, side := none, d := metSet.d } = true := hs
  unfold chainPlan
  simp only [hb, ha, n0, hd, bind, Except.bind, Option.isSome_none, hp, n1, needs, hs', if_true]
  rfl

theorem metChain_x : xlate metChain 0 (2 ^ 46) = .ok (.loc (2 ^ 38 + 2 ^ 23) true) := is_met (by decide +kernel)

theorem metChain_r : recordIn metChain (cxOf metChain metChF 0) (metChF.op 0x38 8) 128 64 = .ok metChRec := by
  have e := recordIn_page metChain (cxOf metChain metChF 0) (2 ^ 46) _ 192 128 64 true metChain_x (by decide) (by decide) (by decide) (by decide +kernel) (by decide) (by decide)
  rw [show mreadN metChain.mem.bytes (2 ^ 38 + 2 ^ 23 + 192) 128 = metChRec by decide +kernel] at e
  rw [show metChF.op 0x38 8 = 2 ^ 46 + 192 by decide +kernel]
  exact e

theorem metChain_a : operand metChain (cxOf metChain metChF 0) (metChF.op 0x20 8) = .ok metSet.a := by
  rw [show metChF.op 0x20 8 = 2 ^ 46 + 0 by decide +kernel]
  exact operand_page metChain (cxOf metChain metChF 0) (2 ^ 46) _ 0 true metSet.a metChain_x (by decide) (by decide) (by decide) (by decide +kernel) (by decide) (by decide) (by decide +kernel) (by decide)

theorem metChain_d : operand metChain (cxOf metChain metChF 0) (metChF.op 0x30 8) = .ok metSet.d := by
  rw [show metChF.op 0x30 8 = 2 ^ 46 + 128 by decide +kernel]
  exact operand_page metChain (cxOf metChain metChF 0) (2 ^ 46) _ 128 true metSet.d metChain_x (by decide) (by decide) (by decide) (by decide +kernel) (by decide) (by decide) (by decide +kernel) (by decide)

theorem test_met_elementWorkCompletes_1 :
    ∃ (s u : State) (d : Nat) (f : Flight) (w : Work) (ch : Chain) (p : ChainSet) (la lb ls : List ((Nat × Nat) × Bool)),
      (Runs s d 0x2001 f) ∧
      (chainPlan s d f = .ok (ch, p)) ∧
      (nearPlaced s (cxOf s f d) f ch p = false) ∧
      (buffersFree s d ((chainShares s f.part ch p).map Prod.fst) = true) ∧
      (coreRangeOk s f.part ch.first ch.count = true) ∧
      (f.fTrickle = false) ∧
      ((p.a.ext[1]?).getD 1 ≠ 0) ∧
      (readTP s (cxOf s f d) p.a = .ok la) ∧
      (readOptP s (cxOf s f d) p.b = .ok lb) ∧
      (readOptP s (cxOf s f d) p.side = .ok ls) ∧
      ((la ++ lb ++ ls).any Prod.snd = false) ∧
      (w.faults = []) ∧
      (w.more = false) ∧
      (f.done = []) ∧
      (meets (p.d.places s (cxOf s f d)) (chainSources s (cxOf s f d) ch p (chainRecs f ch p)) = false) ∧
      (writeF32 (p.inputs.foldl (fun t x => touchRead t (cxOf s f d) x) s) (cxOf s f d) p.d (cvtSat ch.cvt) (genKeyOf s f ch.cvt p.d)
      (chainVals ch p (ChainIn.mk (widenL p.a la) ((p.b.map (fun x => widenL x lb)).getD []) ((p.side.map (fun x => widenL x ls)).getD []))) = .ok u) :=
  ⟨metChain, _, 0, metChF, { cycles := 3, faults := [], drained := [] }, metCh, metSet, [((0xC0000000, 0), false)], [], [], by decide +kernel,
    metCh_of metChain 0 metChF metChRec metChain_r metChain_a (by decide +kernel) metChain_d (by decide +kernel) (by decide +kernel), by decide +kernel, (by
      unfold chainShares
      rw [show coreSet metChain metChF.part metCh.first metCh.count = [0] from (coreSet_met (s := metChain) boundCores_sRun).1]
      decide +kernel), (coreSet_met (s := metChain) boundCores_sRun).2, by decide +kernel, by decide,
    is_met (by decide +kernel), rfl, rfl, by decide, rfl, rfl, rfl, by decide +kernel, ok_met (by decide +kernel)⟩

def metSmRec : List Byte := fit 64 (toLe 4 0x3F800000)

def metSmF : Flight := running 0x2010 [(0x20, 2 ^ 46), (0x30, 2 ^ 46 + 128), (0x38, 2 ^ 46 + 192)]

def metSoft : State :=
  sWork [(0, recordOf 0x400 0 [1, 1] [4]), (128, recordOf 0x500 0 [1, 1] [4]), (192, metSmRec), (0x400, toLe 4 0x40000000)] metSmF

def metOne : Tensor := tensorOf 0x400 0 [1, 1] [4]

def metTwo : Tensor := tensorOf 0x500 0 [1, 1] [4]

theorem metSoft_x : xlate metSoft 0 (2 ^ 46) = .ok (.loc (2 ^ 38 + 2 ^ 23) true) := is_met (by decide +kernel)

theorem metSoft_r : recordIn metSoft (cxOf metSoft metSmF 0) (metSmF.op 0x38 8) 64 64 = .ok metSmRec := by
  have e := recordIn_page metSoft (cxOf metSoft metSmF 0) (2 ^ 46) _ 192 64 64 true metSoft_x (by decide) (by decide) (by decide) (by decide +kernel) (by decide) (by decide)
  rw [show mreadN metSoft.mem.bytes (2 ^ 38 + 2 ^ 23 + 192) 64 = metSmRec by decide +kernel] at e
  rw [show metSmF.op 0x38 8 = 2 ^ 46 + 192 by decide +kernel]
  exact e

theorem metSoft_a : operand metSoft (cxOf metSoft metSmF 0) (metSmF.op 0x20 8) = .ok metOne := by
  rw [show metSmF.op 0x20 8 = 2 ^ 46 + 0 by decide +kernel]
  exact operand_page metSoft (cxOf metSoft metSmF 0) (2 ^ 46) _ 0 true metOne metSoft_x (by decide) (by decide) (by decide) (by decide +kernel) (by decide) (by decide) (by decide +kernel) (by decide)

theorem metSoft_d : operand metSoft (cxOf metSoft metSmF 0) (metSmF.op 0x30 8) = .ok metTwo := by
  rw [show metSmF.op 0x30 8 = 2 ^ 46 + 128 by decide +kernel]
  exact operand_page metSoft (cxOf metSoft metSmF 0) (2 ^ 46) _ 128 true metTwo metSoft_x (by decide) (by decide) (by decide) (by decide +kernel) (by decide) (by decide) (by decide +kernel) (by decide)

theorem test_met_elementWorkCompletes_2 :
    ∃ (s u : State) (d : Nat) (f : Flight) (w : Work) (b : List Byte) (x o : Tensor) (xl : List ((Nat × Nat) × Bool)),
      (Runs s d 0x2010 f) ∧
      (recordIn s (cxOf s f d) (f.op 0x38 8) 64 64 = .ok b) ∧
      (operand s (cxOf s f d) (f.op 0x20 8) = .ok x) ∧
      (operand s (cxOf s f d) (f.op 0x30 8) = .ok o) ∧
      (f.zero 0x28 8 = true) ∧
      (zeroAt b 4 4 = true) ∧
      (zeroAt b 0x14 44 = true) ∧
      (x.ext = o.ext) ∧
      (x.e0 ≤ 65536) ∧
      (cvtOk f o.fmt o.count (fld b 8 8) = true) ∧
      (coreRangeOk s f.part (fld b 0x10 2) (fld b 0x12 2) = true) ∧
      (buffersFree s d ((sharesOf (coreSet s f.part (fld b 0x10 2) (fld b 0x12 2)) (o.count / o.e0)).map Prod.fst) = true) ∧
      (readTP s (cxOf s f d) x = .ok xl) ∧
      (xl.any Prod.snd = false) ∧
      (w.faults = []) ∧
      (w.more = false) ∧
      (f.done = []) ∧
      (meets (o.places s (cxOf s f d)) ((if sameTensor x o then [] else x.places s (cxOf s f d)) ++ [f.op 0x20 8, f.op 0x30 8, f.op 0x38 8].flatMap (fun a => placesOf s (cxOf s f d) a 64)) = false) ∧
      (writeF32 (touchRead s (cxOf s f d) x) (cxOf s f d) o (cvtSat (fld b 8 8)) (genKeyOf s f (fld b 8 8) o) ((chunks x.e0 (widenL x xl)).flatMap (softRow (fmul (fld b 0 4) l2e))) = .ok u) :=
  ⟨metSoft, _, 0, metSmF, { cycles := 3, faults := [], drained := [] }, metSmRec, metOne, metTwo, [((0x40000000, 0), false)], by decide +kernel, metSoft_r, metSoft_a, metSoft_d,
    by decide, by decide +kernel, by decide +kernel, rfl, by decide, by decide +kernel, (show coreRangeOk metSoft 0 (fld metSmRec 0x10 2) (fld metSmRec 0x12 2) = true by
      rw [show fld metSmRec 0x10 2 = 0 by decide +kernel, show fld metSmRec 0x12 2 = 0 by decide +kernel]
      exact (coreSet_met (s := metSoft) boundCores_sRun).2), (by
      rw [show fld metSmRec 0x10 2 = 0 by decide +kernel, show fld metSmRec 0x12 2 = 0 by decide +kernel,
        show coreSet metSoft metSmF.part 0 0 = [0] from (coreSet_met (s := metSoft) boundCores_sRun).1]
      decide +kernel),
    is_met (by decide +kernel), by decide, rfl, rfl, rfl, by decide +kernel, ok_met (by decide +kernel)⟩

def metSaRec : List Byte := fit 64 (toLe 8 (2 ^ 46 + 0x600) ++ toLe 8 0 ++ toLe 8 7 ++ toLe 1 1)

def metSaF : Flight :=
  { q := 1, part := 0, words := words 0x2020 [(0x20, 2 ^ 46), (0x30, 2 ^ 46 + 128), (0x38, 2 ^ 46 + 192)], phase := .started }

def metSample : State :=
  sWork [(0, recordOf 0x400 0 [2, 1] [8]), (128, recordOf 0x500 6 [1, 1] [4]), (192, metSaRec), (0x400, toLe 8 0x3F80000040000000), (0x600, toLe 16 0x3F8000003F8000003F800000)] metSaF

def metLog : Tensor := tensorOf 0x400 0 [2, 1] [8]

def metTok : Tensor := tensorOf 0x500 6 [1, 1] [4]

theorem metSample_x : xlate metSample 0 (2 ^ 46) = .ok (.loc (2 ^ 38 + 2 ^ 23) true) := is_met (by decide +kernel)

theorem metSample_r : recordIn metSample (cxOf metSample metSaF 0) (metSaF.op 0x38 8) 64 64 = .ok metSaRec := by
  have e := recordIn_page metSample (cxOf metSample metSaF 0) (2 ^ 46) _ 192 64 64 true metSample_x (by decide) (by decide) (by decide) (by decide +kernel) (by decide) (by decide)
  rw [show mreadN metSample.mem.bytes (2 ^ 38 + 2 ^ 23 + 192) 64 = metSaRec by decide +kernel] at e
  rw [show metSaF.op 0x38 8 = 2 ^ 46 + 192 by decide +kernel]
  exact e

theorem metSample_a : operand metSample (cxOf metSample metSaF 0) (metSaF.op 0x20 8) = .ok metLog := by
  rw [show metSaF.op 0x20 8 = 2 ^ 46 + 0 by decide +kernel]
  exact operand_page metSample (cxOf metSample metSaF 0) (2 ^ 46) _ 0 true metLog metSample_x (by decide) (by decide) (by decide) (by decide +kernel) (by decide) (by decide) (by decide +kernel) (by decide)

theorem metSample_d : operand metSample (cxOf metSample metSaF 0) (metSaF.op 0x30 8) = .ok metTok := by
  rw [show metSaF.op 0x30 8 = 2 ^ 46 + 128 by decide +kernel]
  exact operand_page metSample (cxOf metSample metSaF 0) (2 ^ 46) _ 128 true metTok metSample_x (by decide) (by decide) (by decide) (by decide +kernel) (by decide) (by decide) (by decide +kernel) (by decide)

theorem test_met_elementWorkCompletes_3 :
    ∃ (s u : State) (d : Nat) (f : Flight) (w : Work) (b : List Byte) (z o : Tensor) (zs : List Nat) (params : List (List Byte)),
      (Runs s d 0x2020 f) ∧
      (recordIn s (cxOf s f d) (f.op 0x38 8) 64 64 = .ok b) ∧
      (operand s (cxOf s f d) (f.op 0x20 8) = .ok z) ∧
      (f.op 0x28 8 = 0) ∧
      (operand s (cxOf s f d) (f.op 0x30 8) = .ok o) ∧
      (fld b 8 8 = 0) ∧
      (f.stepOf = none) ∧
      (z.fmt = 0 ∨ z.fmt = 1) ∧
      (z.ext.length = 2) ∧
      (z.e0 ≤ 1048576) ∧
      (o.fmt = 6) ∧
      (o.ext = [1, (z.ext[1]?).getD 1]) ∧
      (1 ≤ fld b 0x18 1) ∧
      (fld b 0x18 1 ≤ 16) ∧
      ((if fld b 0x16 2 = 0 then (coreSet s f.part (fld b 0x14 2) 0).length else fld b 0x16 2) % fld b 0x18 1 = 0) ∧
      (zeroAt b 0x19 39 = true) ∧
      (coreRangeOk s f.part (fld b 0x14 2) (fld b 0x16 2) = true) ∧
      (fld b 0 8 ≠ 0) ∧
      (fld b 0 8 % 16 = 0) ∧
      (f.slotF ≠ 0xFFFF) ∧
      (fld b 0x10 4 ≠ 0xFFFFFFFF) ∧
      (buffersFree s d (sampleCores s f.part (fld b 0x14 2) (fld b 0x16 2) (fld b 0x18 1) z.e0 ((z.ext[1]?).getD 1)) = true) ∧
      (widenT s (cxOf s f d) z = .ok zs) ∧
      (seqE ((List.range ((z.ext[1]?).getD 1)).map fun i => if 2 ^ 47 ≤ fld b 0 8 + 16 * i ∧ fld b 0 8 + 16 * i < 2 ^ 48 then .error (.st stPermission) else vread s (cxOf s f d) (fld b 0 8 + 16 * i) 16) = .ok params) ∧
      (((List.range ((z.ext[1]?).getD 1)).all fun i => zeroAt ((params[i]?).getD []) 14 2) = true) ∧
      (w.faults = []) ∧
      (w.more = false) ∧
      (meets (o.places s (cxOf s f d)) (z.places s (cxOf s f d) ++ [f.op 0x20 8, 0, f.op 0x30 8, f.op 0x38 8, 0].flatMap (fun a => if a = 0 then [] else placesOf s (cxOf s f d) a 64)) = false) ∧
      (writeCodes s (cxOf s f d) o (((List.range ((z.ext[1]?).getD 1)).map (fun i => match rowParam ((params[i]?).getD []) 0 with
      | none => noToken
      | some r => sampleRow (penalise ((zs.drop (i * z.e0)).take z.e0) [] r.pen) r (genWord (getSlot s f.slotF).seed (getSlot s f.slotF).ident 0xFF00 (fld b 0x10 4) i))).map (fun x => x.token)) = .ok u) :=
  ⟨metSample, _, 0, metSaF, { cycles := 3, faults := [], drained := [] }, metSaRec, metLog, metTok, [0x40000000, 0x3F800000], [toLe 16 0x3F8000003F8000003F800000], by decide +kernel, metSample_r, metSample_a,
    by decide +kernel, metSample_d, by decide +kernel, rfl, .inl rfl, rfl, by decide, rfl, rfl, by decide +kernel, by decide +kernel, (show (if fld metSaRec 0x16 2 = 0 then (coreSet metSample 0 (fld metSaRec 0x14 2) 0).length else fld metSaRec 0x16 2) % fld metSaRec 0x18 1 = 0 by
      rw [show fld metSaRec 0x18 1 = 1 by decide +kernel]
      exact Nat.mod_one _), by decide +kernel, (show coreRangeOk metSample 0 (fld metSaRec 0x14 2) (fld metSaRec 0x16 2) = true by
      rw [show fld metSaRec 0x14 2 = 0 by decide +kernel, show fld metSaRec 0x16 2 = 0 by decide +kernel]
      exact (coreSet_met (s := metSample) boundCores_sRun).2), by decide +kernel, by decide +kernel, (by decide +kernel), by decide +kernel, (by
      unfold sampleCores
      rw [show fld metSaRec 0x14 2 = 0 by decide +kernel, show fld metSaRec 0x16 2 = 0 by decide +kernel,
        show coreSet metSample metSaF.part 0 0 = [0] from (coreSet_met (s := metSample) boundCores_sRun).1]
      decide +kernel),
    is_met (by decide +kernel), is_met (by decide +kernel), by decide +kernel, rfl, rfl, by decide +kernel, ok_met (by decide +kernel)⟩

theorem accOut_met {e : Except Stop (State × Bool)} (h : (match e with | .ok x => !x.2 | .error _ => false) = true) : e = .ok ((match e with | .ok x => x.1 | .error _ => State.reset), false) := by
  cases e with
  | error _ => cases h
  | ok x => obtain ⟨x, b⟩ := x; cases b <;> first | rfl | cases h

/-- ACC of one FP32 element of 2.0 into one of 1.0. -/
def metSrc : Tensor := tensorOf 0x400 0 [1] []

def metDst : Tensor := tensorOf 0x500 0 [1] []

def metAccF : Flight := running 0x5001 [(0x20, 2 ^ 46), (0x28, 2 ^ 46 + 128), (0x30, 0)]

def metAcc : State :=
  sWork [(0, recordOf 0x400 0 [1] []), (128, recordOf 0x500 0 [1] []), (0x400, toLe 4 0x40000000), (0x500, toLe 4 0x3F800000)] metAccF

theorem metAcc_x : xlate metAcc 0 (2 ^ 46) = .ok (.loc (2 ^ 38 + 2 ^ 23) true) := is_met (by decide +kernel)

theorem metAcc_a : operand metAcc (cxOf metAcc metAccF 0) (metAccF.op 0x20 8) = .ok metSrc := by
  rw [show metAccF.op 0x20 8 = 2 ^ 46 + 0 by decide +kernel]
  exact operand_page metAcc (cxOf metAcc metAccF 0) (2 ^ 46) _ 0 true metSrc metAcc_x (by decide) (by decide) (by decide) (by decide +kernel) (by decide) (by decide) (by decide +kernel) (by decide)

theorem metAcc_b : operand metAcc (cxOf metAcc metAccF 0) (metAccF.op 0x28 8) = .ok metDst := by
  rw [show metAccF.op 0x28 8 = 2 ^ 46 + 128 by decide +kernel]
  exact operand_page metAcc (cxOf metAcc metAccF 0) (2 ^ 46) _ 128 true metDst metAcc_x (by decide) (by decide) (by decide) (by decide +kernel) (by decide) (by decide) (by decide +kernel) (by decide)

theorem test_met_reductionsCombineAtMemory_1 :
    ∃ (s u : State) (d : Nat) (f : Flight) (a b : Tensor) (ra : List (List (Byte × Bool))) (bad : Bool),
      (Runs s d 0x5001 f) ∧
      (f.fEve = false) ∧
      (operand s (cxOf s f d) (f.op 0x20 8) = .ok a) ∧
      (operand s (cxOf s f d) (f.op 0x28 8) = .ok b) ∧
      (bits (f.op 0x30 4) 0 4 ≤ 2) ∧
      (bits (f.op 0x30 4) 5 3 = 0) ∧
      (f.zeroFrom 0x34 = true) ∧
      (a.fmt = b.fmt) ∧
      (a.ext = b.ext) ∧
      ([0, 1, 6, 7].contains b.fmt = true) ∧
      (bit (f.op 0x30 4) 4 = false) ∧
      (bits (f.op 0x30 4) 8 24 = 0) ∧
      (inTierS s (cxOf s f d) b = .ok true) ∧
      (rowsP s (cxOf s f d) a = .ok ra) ∧
      (accEach (cxOf s f d) b.fmt (bits (f.op 0x30 4) 0 4) ((elemVas b).zip (codesP a.fmt ra)) (touchRead s (cxOf s f d) a) false = .ok (u, bad)) :=
  ⟨metAcc, _, 0, metAccF, metSrc, metDst, [[(0, false), (0, false), (0, false), (0x40, false)]], false, by decide +kernel, by decide, metAcc_a, metAcc_b, by decide +kernel, by decide +kernel, by decide +kernel, rfl, rfl, by decide, by decide +kernel, by decide +kernel, is_met (by decide +kernel), is_met (by decide +kernel), accOut_met (by decide +kernel)⟩

def metAccOF : Flight := running 0x5001 [(0x20, 2 ^ 46), (0x28, 2 ^ 46 + 128), (0x30, 0x02000110)]

def metAccO : State :=
  sWork [(0, recordOf 0x400 0 [1] []), (128, recordOf 0x500 0 [1] []), (0x400, toLe 4 0x40000000), (0x500, toLe 4 0x3F800000)] metAccOF

theorem metAccO_x : xlate metAccO 0 (2 ^ 46) = .ok (.loc (2 ^ 38 + 2 ^ 23) true) := is_met (by decide +kernel)

theorem metAccO_a : operand metAccO (cxOf metAccO metAccOF 0) (metAccOF.op 0x20 8) = .ok metSrc := by
  rw [show metAccOF.op 0x20 8 = 2 ^ 46 + 0 by decide +kernel]
  exact operand_page metAccO (cxOf metAccO metAccOF 0) (2 ^ 46) _ 0 true metSrc metAccO_x (by decide) (by decide) (by decide) (by decide +kernel) (by decide) (by decide) (by decide +kernel) (by decide)

theorem metAccO_b : operand metAccO (cxOf metAccO metAccOF 0) (metAccOF.op 0x28 8) = .ok metDst := by
  rw [show metAccOF.op 0x28 8 = 2 ^ 46 + 128 by decide +kernel]
  exact operand_page metAccO (cxOf metAccO metAccOF 0) (2 ^ 46) _ 128 true metDst metAccO_x (by decide) (by decide) (by decide) (by decide +kernel) (by decide) (by decide) (by decide +kernel) (by decide)

theorem test_met_reductionsCombineAtMemory_2 :
    ∃ (s t : State) (d k : Nat) (f : Flight) (a b : Tensor) (ra : List (List (Byte × Bool))),
      (Runs s d 0x5001 f) ∧
      (f.fEve = false) ∧
      (operand s (cxOf s f d) (f.op 0x20 8) = .ok a) ∧
      (operand s (cxOf s f d) (f.op 0x28 8) = .ok b) ∧
      (bits (f.op 0x30 4) 0 4 ≤ 2) ∧
      (bits (f.op 0x30 4) 5 3 = 0) ∧
      (f.zeroFrom 0x34 = true) ∧
      (a.fmt = b.fmt) ∧
      (a.ext = b.ext) ∧
      ([0, 1, 6, 7].contains b.fmt = true) ∧
      (bit (f.op 0x30 4) 4 = true) ∧
      (1 ≤ bits (f.op 0x30 4) 24 8) ∧
      (bits (f.op 0x30 4) 24 8 ≤ 32) ∧
      (bits (f.op 0x30 4) 16 8 < bits (f.op 0x30 4) 24 8) ∧
      (bits (f.op 0x30 4) 24 8 * b.bytes ≤ stagingSize) ∧
      (inTierS s (cxOf s f d) b = .ok true) ∧
      (rowsP s (cxOf s f d) a = .ok ra) ∧
      (bits (f.op 0x30 4) 24 8 ≠ 1) ∧
      (tfind s.mem.groups (256 * f.part + bits (f.op 0x30 4) 8 8) = none) ∧
      (t = touchRead s (cxOf s f d) a) ∧
      (k = stackOfT s (cxOf s f d) b) ∧
      (stagingUsed s k + bits (f.op 0x30 4) 24 8 * b.bytes ≤ stagingSize) :=
  ⟨metAccO, _, 0, 0, metAccOF, metSrc, metDst, [[(0, false), (0, false), (0, false), (0x40, false)]], by decide +kernel, by decide, metAccO_a, metAccO_b, by decide +kernel, by decide +kernel, by decide +kernel, rfl, rfl, by decide, by decide +kernel, by decide +kernel, (by decide +kernel), by decide +kernel, by decide +kernel, is_met (by decide +kernel), is_met (by decide +kernel), by decide +kernel, by decide +kernel, rfl, by decide +kernel, by decide +kernel⟩

def metAccJF : Flight := running 0x5001 [(0x20, 2 ^ 46), (0x28, 2 ^ 46 + 128), (0x30, 0x03000110)]

def metAccJ : State :=
  { sWork [(0, recordOf 0x400 0 [1] []), (128, recordOf 0x500 0 [1] []), (0x400, toLe 4 0x40000000), (0x500, toLe 4 0x3F800000)] metAccJF with
    mem := { (sWork [(0, recordOf 0x400 0 [1] []), (128, recordOf 0x500 0 [1] []), (0x400, toLe 4 0x40000000), (0x500, toLe 4 0x3F800000)] metAccJF).mem with groups := [(1, { op := 0, count := 3, format := 0, dst := [2 ^ 46 + 0x500], e0 := 1, bytes := 4, stack := 0, staged := true, contrib := [(1, 9, [(0x40400000, false)])] })] } }

theorem metAccJ_x : xlate metAccJ 0 (2 ^ 46) = .ok (.loc (2 ^ 38 + 2 ^ 23) true) := is_met (by decide +kernel)

theorem metAccJ_a : operand metAccJ (cxOf metAccJ metAccJF 0) (metAccJF.op 0x20 8) = .ok metSrc := by
  rw [show metAccJF.op 0x20 8 = 2 ^ 46 + 0 by decide +kernel]
  exact operand_page metAccJ (cxOf metAccJ metAccJF 0) (2 ^ 46) _ 0 true metSrc metAccJ_x (by decide) (by decide) (by decide) (by decide +kernel) (by decide) (by decide) (by decide +kernel) (by decide)

theorem metAccJ_b : operand metAccJ (cxOf metAccJ metAccJF 0) (metAccJF.op 0x28 8) = .ok metDst := by
  rw [show metAccJF.op 0x28 8 = 2 ^ 46 + 128 by decide +kernel]
  exact operand_page metAccJ (cxOf metAccJ metAccJF 0) (2 ^ 46) _ 128 true metDst metAccJ_x (by decide) (by decide) (by decide) (by decide +kernel) (by decide) (by decide) (by decide +kernel) (by decide)

theorem test_met_reductionsCombineAtMemory_3 :
    ∃ (s v : State) (g : RGroup) (d : Nat) (f : Flight) (a b : Tensor) (ra : List (List (Byte × Bool))),
      (Runs s d 0x5001 f) ∧
      (f.fEve = false) ∧
      (operand s (cxOf s f d) (f.op 0x20 8) = .ok a) ∧
      (operand s (cxOf s f d) (f.op 0x28 8) = .ok b) ∧
      (bits (f.op 0x30 4) 0 4 ≤ 2) ∧
      (bits (f.op 0x30 4) 5 3 = 0) ∧
      (f.zeroFrom 0x34 = true) ∧
      (a.fmt = b.fmt) ∧
      (a.ext = b.ext) ∧
      ([0, 1, 6, 7].contains b.fmt = true) ∧
      (bit (f.op 0x30 4) 4 = true) ∧
      (1 ≤ bits (f.op 0x30 4) 24 8) ∧
      (bits (f.op 0x30 4) 24 8 ≤ 32) ∧
      (bits (f.op 0x30 4) 16 8 < bits (f.op 0x30 4) 24 8) ∧
      (bits (f.op 0x30 4) 24 8 * b.bytes ≤ stagingSize) ∧
      (inTierS s (cxOf s f d) b = .ok true) ∧
      (rowsP s (cxOf s f d) a = .ok ra) ∧
      (tfind s.mem.groups (256 * f.part + bits (f.op 0x30 4) 8 8) = some g) ∧
      (g.op = bits (f.op 0x30 4) 0 4) ∧
      (g.count = bits (f.op 0x30 4) 24 8) ∧
      (g.format = b.fmt) ∧
      (g.dst = b.rows) ∧
      (g.e0 = b.e0) ∧
      ((g.contrib.any (fun c => c.1 == bits (f.op 0x30 4) 16 8)) = false) ∧
      (v = touchRead s (cxOf s f d) a) ∧
      (g.contrib.length + 1 ≠ g.count) :=
  ⟨metAccJ, _, { op := 0, count := 3, format := 0, dst := [2 ^ 46 + 0x500], e0 := 1, bytes := 4, stack := 0, staged := true, contrib := [(1, 9, [(0x40400000, false)])] }, 0, metAccJF, metSrc, metDst, [[(0, false), (0, false), (0, false), (0x40, false)]], by decide +kernel, by decide, metAccJ_a, metAccJ_b, by decide +kernel, by decide +kernel, by decide +kernel, rfl, rfl, by decide, by decide +kernel, by decide +kernel, (by decide +kernel), by decide +kernel, by decide +kernel, is_met (by decide +kernel), is_met (by decide +kernel), by decide +kernel, by decide +kernel, (by decide +kernel), by decide +kernel, by decide +kernel, (by decide +kernel), by decide +kernel, rfl, by decide⟩

def metAccLF : Flight := running 0x5001 [(0x20, 2 ^ 46), (0x28, 2 ^ 46 + 128), (0x30, 0x02000110)]

def metAccL : State :=
  { sWork [(0, recordOf 0x400 0 [1] []), (128, recordOf 0x500 0 [1] []), (0x400, toLe 4 0x40000000), (0x500, toLe 4 0x3F800000)] metAccLF with
    mem := { (sWork [(0, recordOf 0x400 0 [1] []), (128, recordOf 0x500 0 [1] []), (0x400, toLe 4 0x40000000), (0x500, toLe 4 0x3F800000)] metAccLF).mem with groups := [(1, { op := 0, count := 2, format := 0, dst := [2 ^ 46 + 0x500], e0 := 1, bytes := 4, stack := 0, staged := true, contrib := [(1, 9, [(0x40400000, false)])] })] } }

theorem metAccL_x : xlate metAccL 0 (2 ^ 46) = .ok (.loc (2 ^ 38 + 2 ^ 23) true) := is_met (by decide +kernel)

theorem metAccL_a : operand metAccL (cxOf metAccL metAccLF 0) (metAccLF.op 0x20 8) = .ok metSrc := by
  rw [show metAccLF.op 0x20 8 = 2 ^ 46 + 0 by decide +kernel]
  exact operand_page metAccL (cxOf metAccL metAccLF 0) (2 ^ 46) _ 0 true metSrc metAccL_x (by decide) (by decide) (by decide) (by decide +kernel) (by decide) (by decide) (by decide +kernel) (by decide)

theorem metAccL_b : operand metAccL (cxOf metAccL metAccLF 0) (metAccLF.op 0x28 8) = .ok metDst := by
  rw [show metAccLF.op 0x28 8 = 2 ^ 46 + 128 by decide +kernel]
  exact operand_page metAccL (cxOf metAccL metAccLF 0) (2 ^ 46) _ 128 true metDst metAccL_x (by decide) (by decide) (by decide) (by decide +kernel) (by decide) (by decide) (by decide +kernel) (by decide)

theorem test_met_reductionsCombineAtMemory_4 :
    ∃ (s u t v : State) (g : RGroup) (d : Nat) (f : Flight) (a b : Tensor) (ra : List (List (Byte × Bool))) (old : List (Nat × Bool)) (l : List (List (Nat × Bool))),
      (Runs s d 0x5001 f) ∧
      (f.fEve = false) ∧
      (operand s (cxOf s f d) (f.op 0x20 8) = .ok a) ∧
      (operand s (cxOf s f d) (f.op 0x28 8) = .ok b) ∧
      (bits (f.op 0x30 4) 0 4 ≤ 2) ∧
      (bits (f.op 0x30 4) 5 3 = 0) ∧
      (f.zeroFrom 0x34 = true) ∧
      (a.fmt = b.fmt) ∧
      (a.ext = b.ext) ∧
      ([0, 1, 6, 7].contains b.fmt = true) ∧
      (bit (f.op 0x30 4) 4 = true) ∧
      (1 ≤ bits (f.op 0x30 4) 24 8) ∧
      (bits (f.op 0x30 4) 24 8 ≤ 32) ∧
      (bits (f.op 0x30 4) 16 8 < bits (f.op 0x30 4) 24 8) ∧
      (bits (f.op 0x30 4) 24 8 * b.bytes ≤ stagingSize) ∧
      (inTierS s (cxOf s f d) b = .ok true) ∧
      (rowsP s (cxOf s f d) a = .ok ra) ∧
      (tfind s.mem.groups (256 * f.part + bits (f.op 0x30 4) 8 8) = some g) ∧
      (g.op = bits (f.op 0x30 4) 0 4) ∧
      (g.count = bits (f.op 0x30 4) 24 8) ∧
      (g.format = b.fmt) ∧
      (g.dst = b.rows) ∧
      (g.e0 = b.e0) ∧
      ((g.contrib.any (fun c => c.1 == bits (f.op 0x30 4) 16 8)) = false) ∧
      (v = touchRead s (cxOf s f d) a) ∧
      (g.staged = true) ∧
      (g.contrib.length + 1 = g.count) ∧
      (t = { putF v d { f with phase := .running } with mem := { v.mem with groups := tput v.mem.groups (256 * f.part + bits (f.op 0x30 4) 8 8) { g with contrib := g.contrib ++ [(bits (f.op 0x30 4) 16 8, d, codesP a.fmt ra)] } } }) ∧
      (readRows t { part := f.part, desc := 0, rem := [] } b.fmt b.e0 b.rows = .ok old) ∧
      (l = (List.range g.count).filterMap (fun i => ((g.contrib ++ [(bits (f.op 0x30 4) 16 8, d, codesP a.fmt ra)]).find? (fun c => c.1 == i)).map (fun c => c.2.2))) ∧
      (writeRows { t with mem := { t.mem with groups := tdel t.mem.groups (256 * f.part + bits (f.op 0x30 4) 8 8), staging := tput t.mem.staging g.stack (stagingUsed t g.stack - g.count * g.bytes) } }
      { part := f.part, desc := 0, rem := [] } b.fmt b.e0 b.rows (old.zipIdx.map fun e =>
        (reduceOp b.fmt g.op e.1.1 (orderedTree b.fmt g.op 6 (l.map fun x => ((x[e.2]?).getD (0, false)).1)), e.1.2 || l.any fun x => ((x[e.2]?).getD (0, false)).2)) = .ok u) :=
  ⟨metAccL, _, _, _, { op := 0, count := 2, format := 0, dst := [2 ^ 46 + 0x500], e0 := 1, bytes := 4, stack := 0, staged := true, contrib := [(1, 9, [(0x40400000, false)])] }, 0, metAccLF, metSrc, metDst, [[(0, false), (0, false), (0, false), (0x40, false)]], [(0x3F800000, false)], _, by decide +kernel, by decide, metAccL_a, metAccL_b, by decide +kernel, by decide +kernel, by decide +kernel, rfl, rfl, by decide, by decide +kernel, by decide +kernel, (by decide +kernel), by decide +kernel, by decide +kernel, is_met (by decide +kernel), is_met (by decide +kernel), by decide +kernel, by decide +kernel, (by decide +kernel), by decide +kernel, by decide +kernel, (by decide +kernel), by decide +kernel, rfl, by decide, by decide, rfl, is_met (by decide +kernel), rfl, ok_met (by decide +kernel)⟩

def metGrant : State := { sRun with mem := { sRun.mem with groups := [(1, { op := 0, count := 2, format := 0, dst := [2 ^ 46 + 0x500], e0 := 1, bytes := 2097152, stack := 0, staged := false, contrib := [(1, 9, [(0x40400000, false)])] })] } }

theorem test_met_reductionsCombineAtMemory_5 :
    ∃ (s : State) (stack key : Nat) (g : RGroup),
      (s.mem.groups.filter (fun e => e.2.stack == stack && !e.2.staged) = [(key, g)]) ∧
      (stagingUsed s stack + g.count * g.bytes ≤ stagingSize) ∧
      (g.contrib.length ≠ g.count) :=
  ⟨metGrant, 0, 1, _, rfl, by decide +kernel, by decide⟩

/-- The 8 MiB from virtual address 2^46 at the start of stack 3, with bytes put in it and one descriptor held as number 0. -/
def sNear (l : List (Nat × List Byte)) (f : Flight) : State :=
  { sWork [] f with mem := { (sWork [] f).mem with
    bytes := l.foldl (fun m e => mwriteN m (2 ^ 38 + 3 * 2 ^ 37 + e.1) e.2)
      (mwriteN (sWork [] f).mem.bytes (2 ^ 38 + 8192 + 8 * levelIdx (2 ^ 46) 1) (toLe 8 (mkLeaf (2 ^ 38 + 3 * 2 ^ 37) true false false)))
    grainOwner := [(0, 0), (48, 0)] } }

def metLi : ChainSet := { a := tensorOf 0x400 0 [1] [], b := none, side := none, d := tensorOf 0x500 0 [1] [], recs := [(2 ^ 46 + 0, 64), (2 ^ 46 + 128, 64)] }

def metLiBody : List Byte := toLe 16 (2 ^ 46) ++ toLe 16 (2 ^ 46 + 128)

def metLiBytes : List (Nat × List Byte) := [(0, recordOf 0x400 0 [1] []), (128, recordOf 0x500 0 [1] []), (192, metChRec), (0x400, toLe 4 0x40000000), (0x600, metLiBody)]

def metLiF : Flight := running 0x4001 [(0x20, 2 ^ 46 + 0x600), (0x28, 1), (0x30, 2 ^ 46 + 192)]

def metList : State := sNear metLiBytes metLiF

theorem metList_x : xlate metList 0 (2 ^ 46) = .ok (.loc (2 ^ 38 + 3 * 2 ^ 37) true) := is_met (by decide +kernel)

theorem metList_r : recordIn metList (cxOf metList metLiF 0) (metLiF.op 0x30 8) 128 64 = .ok metChRec := by
  have e := recordIn_page metList (cxOf metList metLiF 0) (2 ^ 46) _ 192 128 64 true metList_x (by decide) (by decide) (by decide) (by decide +kernel) (by decide) (by decide)
  rw [show mreadN metList.mem.bytes ((2 ^ 38 + 3 * 2 ^ 37) + 192) 128 = metChRec by decide +kernel] at e
  rw [show metLiF.op 0x30 8 = 2 ^ 46 + 192 by decide +kernel]
  exact e

theorem metList_l : recordIn metList (cxOf metList metLiF 0) (metLiF.op 0x20 8) 32 64 = .ok metLiBody := by
  have e := recordIn_page metList (cxOf metList metLiF 0) (2 ^ 46) _ 0x600 32 64 true metList_x (by decide) (by decide) (by decide) (by decide +kernel) (by decide) (by decide)
  rw [show mreadN metList.mem.bytes ((2 ^ 38 + 3 * 2 ^ 37) + 0x600) 32 = metLiBody by decide +kernel] at e
  rw [show metLiF.op 0x20 8 = 2 ^ 46 + 0x600 by decide +kernel]
  exact e

theorem metList_o (off : Nat) (t : Tensor) (h : off + 64 ≤ 8192 ∧ off % 64 = 0) (ht : (parseTensor (mreadN metList.mem.bytes (2 ^ 38 + 3 * 2 ^ 37 + off) 64)).bind (·.withRows none) = some t)
    (hq : ¬ (t.inSeq = true ∨ (isMx t.fmt = true ∧ 2 ^ 47 ≤ t.scale + t.scaleBytes - 1))) : operand metList (cxOf metList metLiF 0) (2 ^ 46 + off) = .ok t :=
  operand_page metList (cxOf metList metLiF 0) (2 ^ 46) _ off true t metList_x (by decide) (by decide) h.1 (by decide +kernel) (by omega) (by omega) ht hq

theorem metLi_of (s : State) (d : Nat) (f : Flight) (b l : List Byte) (h0 : f.op 0x28 4 = 1) (h1 : f.zero 0x2C 4 = true) (h2 : f.zero 0x38 8 = true)
    (hb : recordIn s (cxOf s f d) (f.op 0x30 8) 128 64 = .ok b) (hl : recordIn s (cxOf s f d) (f.op 0x20 8) 32 64 = .ok l)
    (hp : parseChain b { a := true, b := true, side := true, acc := false } = some metCh) (l0 : fld l 0 8 = 2 ^ 46 + 0) (l1 : fld l 8 8 = 0) (l2 : fld l 0x10 8 = 2 ^ 46 + 128) (l3 : fld l 0x18 8 = 0)
    (ha : operand s (cxOf s f d) (2 ^ 46 + 0) = .ok metLi.a) (hd : operand s (cxOf s f d) (2 ^ 46 + 128) = .ok metLi.d) (hs : chainShapeOk f metCh metLi = true) :
    listSets s d f = .ok (metCh, [metLi]) := by
  have n0 : operandOpt s (cxOf s f d) 0 = .ok none := rfl
  have hs' : chainShapeOk f metCh { a := metLi.a, b := none, side := none, d := metLi.d, recs := [(2 ^ 46 + 0, 64), (2 ^ 46 + 128, 64)] } = true := hs
  unfold listSets
  simp only [h0, Nat.mul_one, hb, hl, hp, bind, Except.bind, needs, h1, h2, List.range_one, List.map_cons, List.map_nil, Nat.mul_zero, Nat.zero_add, l0, l1, l2, l3, ha, hd, n0, hs']
  rfl

theorem metList_sets : listSets metList 0 metLiF = .ok (metCh, [metLi]) :=
  metLi_of metList 0 metLiF metChRec metLiBody (by decide +kernel) (by decide +kernel) (by decide +kernel) metList_r metList_l (by decide +kernel) (by decide +kernel) (by decide +kernel) (by decide +kernel)
    (by decide +kernel) (metList_o 0 _ (by decide) (by decide +kernel) (by decide)) (metList_o 128 _ (by decide) (by decide +kernel) (by decide)) (by decide +kernel)

theorem test_met_nearBankWorkRunsInWindows_1 :
    ∃ (s : State) (d k : Nat) (f : Flight) (ch : Chain) (sets : List ChainSet) (units : List Unit),
      (Runs s d 0x4001 f) ∧
      (listSets s d f = .ok (ch, sets)) ∧
      (sets ≠ []) ∧
      (∀ p ∈ sets, nearFit s (cxOf s f d) f ch p = some k) ∧
      (nearAllowed s f.part k = true) ∧
      (seqE (sets.map fun p => writable s (cxOf s f d) p.d) = .ok units) :=
  ⟨metList, 0, 3, metLiF, metCh, [metLi], [()], by decide +kernel, metList_sets, by decide, by decide +kernel, by decide +kernel, is_met (by decide +kernel)⟩

def metWiF : Flight := running 0x2001 [(0x20, 2 ^ 46), (0x30, 2 ^ 46 + 128), (0x38, 2 ^ 46 + 192)]

def metWiC : Nat := (2 ^ 38 + 3 * 2 ^ 37 + 0x500) / 32

def metWiW : NearWord := { cw := metWiC, entry := 0, va := 2 ^ 46 + 0x500, elems := [{ d := 2 ^ 38 + 3 * 2 ^ 37 + 0x500, srcs := [2 ^ 38 + 3 * 2 ^ 37 + 0x400, 0, 0] }], need := 0 }

def metWiSet : NearSet := { fmt := 0, fmts := [0, 0, 0], once := [none, some (0, false), some (0, false)], junk := false }

def metWiRun : NearRun := { stack := 3, chain := metCh, sets := [metWiSet], left := [metWiW] }

def metWin (b : BankGroup) : State :=
  { sNear metLiBytes metWiF with mem := { (sNear metLiBytes metWiF).mem with near := [(0, metWiRun)], bank := [(bgKey 3 0 0, b)] }, time := { sRun.time with now := 1000 }
                                 bw := { sRun.bw with waiting := [(5, { req := { master := 0, part := 0, cls := 0, deadline := 900, va := 0, len := 64, write := none, hint := 0, prefetch := false, found := .clean }, use := [], tier := 0, heldSince := some 850 })] } }

theorem pair_met {α : Type} {x : α × Bool} (h : x.2 = false) : x = (x.1, false) := Prod.ext rfl h

def metOpenE6 : State := metWin {}

theorem test_met_nearBankWorkRunsInWindows_2 :
    ∃ (s u : State) (k pc g d n work : Nat) (f : Flight) (r : NearRun) (mine : List NearWord) (dst : List Nat),
      (getF s d = some f) ∧
      (tfind s.mem.near d = some r) ∧
      (mine = groupLeft s d (bgKey k pc g)) ∧
      (mine ≠ []) ∧
      ((getBg s (bgKey k pc g)).open_ = false) ∧
      ((getBg s (bgKey k pc g)).refreshTo ≤ s.time.now) ∧
      (s.time.now + 176 ≤ refreshDue s k (getBg s (bgKey k pc g))) ∧
      (((List.range 8).filter (fun i => (getBg s (bgKey k pc i)).open_)).length < (if s.bw.hotBand.contains k then 1 else 2)) ∧
      (s.bw.throttled.contains k = false) ∧
      (s.bw.noWindow.contains k = false) ∧
      (nearRival s k (bgKey k pc g) d f = false) ∧
      (work = ((List.range 32).map (fun j => ((mine.filter (fun w => workBank s w.cw == j)).map (cwTime s r)).foldl (· + ·) 0)).foldl max 0) ∧
      (n = min 1200 (min (refreshDue s k (getBg s (bgKey k pc g)) - s.time.now - 80) work)) ∧
      (100 ≤ n ∨ work ≤ n) ∧
      (dst = (mine.map (fun w => w.cw / 64)).eraseDups) ∧
      (u = cleanBlocks s (dst ++ mine.flatMap (fun w => w.sources.map (· / 64)))) :=
  ⟨metOpenE6, _, 3, 0, 0, 0, _, _, metWiF, metWiRun, _, _, by decide +kernel, by decide +kernel, rfl, by decide +kernel, by decide +kernel, (by decide +kernel), by decide +kernel, by decide +kernel, (by decide +kernel), by decide +kernel, by decide +kernel, rfl, rfl, by decide +kernel, rfl, rfl⟩

def metClose : State := metWin { open_ := true, desc := 0, openedAt := 800, closeAt := 950 }

theorem test_met_nearBankWorkRunsInWindows_3 :
    ∃ (s u v x : State) (k pc g d : Nat) (f : Flight) (r : NearRun) (t : NearSet) (w : NearWord),
      ((getBg s (bgKey k pc g)).open_ = true) ∧
      ((getBg s (bgKey k pc g)).desc = d) ∧
      (getF s d = some f) ∧
      (tfind s.mem.near d = some r) ∧
      (r.left = [w]) ∧
      (r.poisoned = none) ∧
      (r.sets[w.entry]? = some t) ∧
      (groupLeft s d (bgKey k pc g) = [w]) ∧
      (v = (chargePort s (513 + bgKey k pc g / 65536 / 4) f.part f.cls (bgKey k pc g / 65536, carryCharge s [w])).1) ∧
      (nearWord v r.chain t w = (u, false)) ∧
      (x = dropBlocks u [w.cw / 64]) ∧
      ((getBg s (bgKey k pc g)).closeAt ≤ s.time.now) ∧
      ((getBg s (bgKey k pc g)).openedAt + 80 < (getBg s (bgKey k pc g)).closeAt) :=
  ⟨metClose, _, _, _, 3, 0, 0, 0, metWiF, metWiRun, metWiSet, metWiW, by decide +kernel, by decide +kernel, (by decide +kernel), by decide +kernel, rfl, rfl, rfl, by decide +kernel, rfl, pair_met (by decide +kernel), rfl, by decide +kernel, by decide +kernel⟩

theorem test_met_nearBankWorkRunsInWindows_4 :
    ∃ (s : State) (k pc g : Nat) (x : WindowWork),
      ((getBg s (bgKey k pc g)).open_ = false) :=
  ⟨sRun, 3, 63, 7, { faults := [], found := [] }, by decide⟩

def metCut : State := metWin { open_ := true, desc := 0, openedAt := 800, closeAt := 2000, held := [5] }

theorem test_met_nearBankWorkRunsInWindows_5 :
    ∃ (s u v x : State) (k pc g d : Nat) (f : Flight) (r : NearRun) (t : NearSet) (w : NearWord) (i : Nat) (q : WaitReq),
      ((getBg s (bgKey k pc g)).open_ = true) ∧
      ((getBg s (bgKey k pc g)).desc = d) ∧
      (getF s d = some f) ∧
      (tfind s.mem.near d = some r) ∧
      (r.left = [w]) ∧
      (r.poisoned = none) ∧
      (r.sets[w.entry]? = some t) ∧
      (groupLeft s d (bgKey k pc g) = [w]) ∧
      (v = (chargePort s (513 + bgKey k pc g / 65536 / 4) f.part f.cls (bgKey k pc g / 65536, carryCharge s [w])).1) ∧
      (nearWord v r.chain t w = (u, false)) ∧
      (x = dropBlocks u [w.cw / 64]) ∧
      (i ∈ (getBg s (bgKey k pc g)).held) ∧
      (tfind s.bw.waiting i = some q) ∧
      (q.req.cls ≤ 1) ∧
      (0 < q.req.deadline) ∧
      (q.req.deadline < (getBg s (bgKey k pc g)).closeAt) ∧
      ((getBg s (bgKey k pc g)).openedAt + 40 < s.time.now) :=
  ⟨metCut, _, _, _, 3, 0, 0, 0, metWiF, metWiRun, metWiSet, metWiW, 5, _, by decide +kernel, by decide +kernel, (by decide +kernel), by decide +kernel, rfl, rfl, rfl, by decide +kernel, rfl, pair_met (by decide +kernel), rfl, by decide +kernel, rfl, by decide, by decide, by decide +kernel, by decide +kernel⟩

theorem test_met_nearBankWorkRunsInWindows_6 :
    ∃ (s : State) (k pc g : Nat),
      ((getBg s (bgKey k pc g)).open_ = false) ∧
      (refreshDue s k (getBg s (bgKey k pc g)) < s.time.now + 176) :=
  ⟨{ sRun with time := { sRun.time with now := 4000 } }, 7, 0, 0, by decide, by decide +kernel⟩

/-- A sequence of one layer in slot 0, its first page mapped; ATTEND of one row, one head of 16 elements, a latent of one. -/
def metAtRec : List Byte := toLe 8 (0x3F800000 + 2 ^ 48) ++ toLe 8 (2 ^ 46 + 256) ++ toLe 8 (2 ^ 46 + 320) ++ toLe 8 0 ++ toLe 32 (1 + 16 * 2 ^ 16)

def metAtF : Flight :=
  { q := 1, part := 0, words := words 0x3001 [(0x20, 2 ^ 46), (0x28, 2 ^ 46 + 64), (0x30, 2 ^ 46 + 128), (0x38, 2 ^ 46 + 192)], phase := .started }

def metAtSlot : Slot := { st := .open_, layers := 1, latent := 1, format := 3, chunkPages := 1, pages := [(0, { frame := 0 })] }

def metAtMem : State := sWork [(0, recordOf 0x400 1 [16, 1] [32]), (64, recordOf 0x480 5 [64, 1] [64]), (128, recordOf 0x500 0 [16, 1] [64]), (192, metAtRec), (256, recordOf 0x600 1 [16, 1, 1] [32, 32]),
    (320, recordOf 0x680 1 [1, 16, 1] [2, 32])] metAtF

def metAt : State :=
  { metAtMem with
    mem := { metAtMem.mem with
      bytes := [(2 ^ 38 + 16384, mkTable (2 ^ 38 + 24576)), (2 ^ 38 + 24576, mkTable (2 ^ 38 + 32768)), (2 ^ 38 + 32768, mkLeaf (2 ^ 38 + 2 ^ 23 + 8192) true false true)].foldl
        (fun m e => mwriteN m e.1 (toLe 8 e.2)) metAtMem.mem.bytes
      roots := [(8, mkTable (2 ^ 38)), (16, mkTable (2 ^ 38 + 16384))] }
    kv := { slots := [(0, metAtSlot)], pools := [(0, { frames := [{ where_ := 2 ^ 38 + 2 ^ 23 + 8192, state := 1, refs := 1 }] })] } }

def metAtPlan : AttPlan :=
  { q := tensorOf 0x400 1 [16, 1] [32], new := tensorOf 0x480 5 [64, 1] [64], out := tensorOf 0x500 0 [16, 1] [64], wuk := tensorOf 0x600 1 [16, 1, 1] [32, 32]
    wuv := tensorOf 0x680 1 [1, 16, 1] [2, 32], scale := 0x3F800000, layer := 0, heads := 1, form := 0, cvt := 0, n := 1, hd := 16 }

theorem metAt_x : xlate metAt 0 (2 ^ 46) = .ok (.loc (2 ^ 38 + 2 ^ 23) true) := is_met (by decide +kernel)

theorem metAt_r : recordIn metAt (cxOf metAt metAtF 0) (metAtF.op 0x38 8) 64 64 = .ok metAtRec := by
  have e := recordIn_page metAt (cxOf metAt metAtF 0) (2 ^ 46) _ 192 64 64 true metAt_x (by decide) (by decide) (by decide) (by decide +kernel) (by decide) (by decide)
  rw [show mreadN metAt.mem.bytes (2 ^ 38 + 2 ^ 23 + 192) 64 = metAtRec by decide +kernel] at e
  rw [show metAtF.op 0x38 8 = 2 ^ 46 + 192 by decide +kernel]
  exact e

theorem metAt_o (off : Nat) (t : Tensor) (h : off + 64 ≤ 8192 ∧ off % 64 = 0) (ht : (parseTensor (mreadN metAt.mem.bytes (2 ^ 38 + 2 ^ 23 + off) 64)).bind (·.withRows none) = some t)
    (hq : ¬ (t.inSeq = true ∨ (isMx t.fmt = true ∧ 2 ^ 47 ≤ t.scale + t.scaleBytes - 1))) : operand metAt (cxOf metAt metAtF 0) (2 ^ 46 + off) = .ok t :=
  operand_page metAt (cxOf metAt metAtF 0) (2 ^ 46) _ off true t metAt_x (by decide) (by decide) h.1 (by decide +kernel) (by omega) (by omega) ht hq

theorem metAt_of (s : State) (d : Nat) (f : Flight) (b : List Byte) (hb : recordIn s (cxOf s f d) (f.op 0x38 8) 64 64 = .ok b) (hst : f.stepOf = none)
    (hq : operand s (cxOf s f d) (f.op 0x20 8) = .ok metAtPlan.q) (hn : operand s (cxOf s f d) (f.op 0x28 8) = .ok metAtPlan.new) (ho : operand s (cxOf s f d) (f.op 0x30 8) = .ok metAtPlan.out)
    (hk : operand s (cxOf s f d) (2 ^ 46 + 256) = .ok metAtPlan.wuk) (hv : operand s (cxOf s f d) (2 ^ 46 + 320) = .ok metAtPlan.wuv)
    (hf : fld b 0 4 = 0x3F800000 ∧ fld b 4 2 = 0 ∧ fld b 6 1 = 1 ∧ fld b 7 1 = 0 ∧ fld b 8 8 = 2 ^ 46 + 256 ∧ fld b 0x10 8 = 2 ^ 46 + 320 ∧ fld b 0x18 8 = 0 ∧ fld b 0x20 2 = 1 ∧ fld b 0x22 2 = 16 ∧
      zeroAt b 0x24 28 = true) : attPlan s d f = .ok metAtPlan := by
  obtain ⟨f0, f1, f2, f3, f4, f5, f6, f7, f8, f9⟩ := hf
  unfold attPlan
  simp only [hb, hq, hn, ho, hk, hv, hst, f0, f1, f2, f3, f4, f5, f6, f7, f8, f9, bind, Except.bind]
  rfl

theorem metAt_plan : attPlan metAt 0 metAtF = .ok metAtPlan :=
  metAt_of metAt 0 metAtF metAtRec metAt_r rfl
    (by rw [show metAtF.op 0x20 8 = 2 ^ 46 + 0 by decide +kernel]; exact metAt_o 0 _ (by decide) (by decide +kernel) (by decide))
    (by rw [show metAtF.op 0x28 8 = 2 ^ 46 + 64 by decide +kernel]; exact metAt_o 64 _ (by decide) (by decide +kernel) (by decide))
    (by rw [show metAtF.op 0x30 8 = 2 ^ 46 + 128 by decide +kernel]; exact metAt_o 128 _ (by decide) (by decide +kernel) (by decide))
    (metAt_o 256 _ (by decide) (by decide +kernel) (by decide)) (metAt_o 320 _ (by decide) (by decide +kernel) (by decide)) (by decide +kernel)

theorem none_met {α β : Type} {x : α × Option β} (h : x.2.isNone = true) : x = (x.1, none) := Prod.ext rfl (Option.isNone_iff_eq_none.1 h)

theorem rows_met {l : List (Nat × Except Stop (List Nat))} (h : (l.all fun e => match e.2 with | .ok _ => true | .error _ => false) = true) : ∀ e ∈ l, ∃ v, e.2 = .ok v := by
  intro e he
  have := List.all_eq_true.1 h e he
  revert this
  cases e.2 with
  | ok v => exact fun _ => ⟨v, rfl⟩
  | error x => intro hh; cases hh

def metZeros : List Fv := List.replicate 16 (.fin false 0 (-133))

theorem test_met_attentionAppendsAndAttends_1 :
    ∃ (s s1 u t : State) (d : Nat) (f : Flight) (w : Work) (p : AttPlan) (q uk uv : List Fv) (rows : List (List Byte)) (r : AttOut),
      (Runs s d 0x3001 f) ∧
      (f.stepOf = none) ∧
      (f.fEve = false) ∧
      (f.slotF ≠ 0xFFFF) ∧
      (attPlan s d f = .ok p) ∧
      ((getSlot s f.slotF).st = .open_) ∧
      ((getSlot s f.slotF).inStep = none ∨ (getSlot s f.slotF).inStep = some d) ∧
      (s1 = enterStep s d f) ∧
      (layoutOk s1 f.part p (getSlot s1 f.slotF) p.n = true) ∧
      (p.n = (p.q.ext[1]?).getD 0) ∧
      (valuesT s1 (cxOf s1 f d) p.q = .ok q) ∧
      (valuesT s1 (cxOf s1 f d) p.wuk = .ok uk) ∧
      (valuesT s1 (cxOf s1 f d) p.wuv = .ok uv) ∧
      (seqE (p.new.rows.map fun a => vread s1 (cxOf s1 f d) a p.new.rowBytes) = .ok rows) ∧
      (attAppend s1 (cxOf s1 f d) p rows [(f.slotF, 0, p.n)] = (u, none)) ∧
      (r = attCompute u (cxOf s1 f d) p q.toArray uk.toArray uv.toArray [(f.slotF, 0, p.n)]) ∧
      (∀ e ∈ r.rows, ∃ v, e.2 = .ok v) ∧
      (w.faults = []) ∧
      (writeF32 u (cxOf s1 f d) p.out (cvtSat p.cvt) (genKeyOf s1 f p.cvt p.out) (r.rows.flatMap fun e => match e.2 with | .ok v => v | .error _ => List.replicate p.out.e0 0) = .ok t) :=
  ⟨metAt, _, _, _, 0, metAtF, { cycles := 9, faults := [], drained := [] }, metAtPlan, metZeros, metZeros, metZeros, [toLe 64 0], _, by decide +kernel, rfl, by decide, by decide +kernel, metAt_plan, rfl, .inl rfl, rfl,
    by decide +kernel, rfl, is_met (by decide +kernel), is_met (by decide +kernel), is_met (by decide +kernel), is_met (by decide +kernel), none_met (by decide +kernel), rfl, rows_met (by decide +kernel), rfl, ok_met (by decide +kernel)⟩

def metStopped : State :=
  { sHeld { running 0x3001 [] with phase := .stopped } with kv := { pools := [(0, { frames := [{ where_ := 0 }], stopped := [(0, [0], false)] })] } }

theorem test_met_attentionAppendsAndAttends_2 :
    ∃ (s : State) (d : Nat) (needs : List Nat) (table : Bool) (f : Flight),
      (getF s d = some f) ∧
      ((getPool s f.part).stopped.find? (fun e => e.1 == d) = some (d, needs, table)) ∧
      (f.phase = .stopped) ∧
      (needMet s f.part needs table = true) :=
  ⟨metStopped, 0, [0], false, { running 0x3001 [] with phase := .stopped }, by decide, by decide, by decide, by decide⟩

def metAttEndF : Flight := { q := 1, part := 0, words := words 0x3001 [], phase := .ended }

def metAttEnd : State :=
  { sHeld metAttEndF with kv := { slots := [(0, { st := .open_, layers := 1, latent := 1, settled := 3, inStep := some 0, eve := [(0, 1)] })] } }

theorem test_met_attentionAppendsAndAttends_3 :
    ∃ (s t : State) (d : Nat) (f : Flight),
      (getF s d = some f) ∧
      (f.phase = .ended) ∧
      (hasOut s d = false) ∧
      (recordRoom s f = true) ∧
      (f.opcode = 0x3001) ∧
      (f.stepOf = none) ∧
      (f.status = stOk) ∧
      (f.fCmpl = false) ∧
      (f.fSignal = false) ∧
      (f.q ≠ 0) ∧
      (f.absDeadline = none) ∧
      (s.pwr.drainTo = none) ∧
      ((getSlot s f.slotF).inStep = some d) ∧
      (t = endSequence (putF s d f) { part := f.part, desc := d, rem := [] } f.slotF ((getSlot s f.slotF).settled + (getSlot s f.slotF).eveCount) true) ∧
      (getF t d = some f) :=
  ⟨metAttEnd, _, 0, metAttEndF, by decide, by decide, by decide, by decide +kernel, by decide +kernel, by decide, by decide, by decide +kernel, by decide +kernel, by decide, by decide +kernel, by decide, by decide +kernel, rfl, by decide +kernel⟩

theorem test_met_onAPartWithoutAGuestTheCuffStaysShut_1 :
    ∃ (s t : State),
      (s.guestSite = false) ∧
      (s.cuff.guestReset = true) ∧
      (s.cuff.linkUp = false) ∧
      (s.cuff.wins = []) ∧
      (step s = .next t) :=
  ⟨State.reset, _, rfl, rfl, rfl, rfl, rfl⟩

theorem test_met_blocksOfAStackLieInOnePseudoChannel_1 :
    ∃ (k o : Nat),
      (k < 8) ∧
      (o < 2 ^ 37) :=
  ⟨7, 2 ^ 37 - 1, by decide, by decide⟩

theorem test_met_blocksOfAStackLieInOnePseudoChannel_2 :
    ∃ (j k p q : Nat),
      (p < 64) ∧
      (q < 64) ∧
      (chPc j p = chPc k q) :=
  ⟨7, 7, 63, 63, by decide, by decide, rfl⟩

theorem test_met_blocksOfAStackLieInOnePseudoChannel_3 :
    ∃ (o u : Nat),
      (o / 2048 = u / 2048) :=
  ⟨4096, 6143, by decide⟩

theorem test_met_blocksOfAStackLieInOnePseudoChannel_4 :
    ∃ (b p : Nat),
      (p < 64) :=
  ⟨5, 63, by decide⟩

theorem test_met_aRegistrationIsAdmittedWithinEightyFivePerCent_1 :
    ∃ (s : State) (d : Nat) (f : Flight),
      (Runs s d 0xF120 f) ∧
      (f.op 0x20 1 ≤ 15) ∧
      (f.op 0x21 1 ≤ 5) ∧
      (f.op 0x24 4 ≠ 0) ∧
      (2048 ≤ f.op 0x28 4 ∧ f.op 0x28 4 ≤ 64 * 2 ^ 20 ∧ f.op 0x28 4 % 2048 = 0) ∧
      (resourceOk (f.op 0x22 2) = true) ∧
      (f.zeroFrom 0x2C = true) ∧
      ((getP s (f.op 0x20 1)).isSome = true) ∧
      (s.bw.regs.length < 4096) ∧
      (85 * capacity s (f.op 0x22 2) < 100 * (((s.bw.regs.filter fun e => e.2.res == f.op 0x22 2).map fun e => e.2.rate).foldl (· + ·) 0 + f.op 0x24 4)) :=
  ⟨sHeld (admin 0xF120 [(0x20, 0), (0x24, 0xFFFFFFFF), (0x28, 2048)]), 0, admin 0xF120 [(0x20, 0), (0x24, 0xFFFFFFFF), (0x28, 2048)], by decide⟩

theorem test_met_aRegistrationIsAdmittedWithinEightyFivePerCent_2 :
    ∃ (s : State) (d : Nat) (f : Flight),
      (Runs s d 0xF120 f) ∧
      (f.op 0x20 1 ≤ 15) ∧
      (f.op 0x21 1 ≤ 5) ∧
      (f.op 0x24 4 ≠ 0) ∧
      (2048 ≤ f.op 0x28 4 ∧ f.op 0x28 4 ≤ 64 * 2 ^ 20 ∧ f.op 0x28 4 % 2048 = 0) ∧
      (resourceOk (f.op 0x22 2) = true) ∧
      (f.zeroFrom 0x2C = true) ∧
      ((getP s (f.op 0x20 1)).isSome = true) ∧
      (s.bw.regs.length < 4096) ∧
      (100 * (((s.bw.regs.filter fun e => e.2.res == f.op 0x22 2).map fun e => e.2.rate).foldl (· + ·) 0 + f.op 0x24 4) ≤ 85 * capacity s (f.op 0x22 2)) :=
  ⟨sHeld (admin 0xF120 [(0x20, 0), (0x24, 1000), (0x28, 2048)]), 0, admin 0xF120 [(0x20, 0), (0x24, 1000), (0x28, 2048)], by decide⟩

theorem test_met_resetLeavesWhatTheSpecGives_3 :
    ∃ (p o : Nat) (r : RegVal),
      (partReg State.reset p o = some r) :=
  ⟨15, 0x178, (8, 0), by decide⟩
end

section
/-! SUPPORT. The guest site and the Cuff (R2): what one step of the block keeps, whether it runs a command or idles, and from
it that a part without a guest never opens its Cuff. -/

namespace Sys2Proof.Machine

/-- The parts of the state that the next step may change: those its command reaches, or those the idle tick does. -/
def stepReach (s : State) : Nat :=
  match s.pending with
  | [] => 1836079
  | c :: _ => reach c

/-- The state as its next step finds it, the command at the front taken off the queue. -/
def State.dequeued (s : State) : State := { s with pending := s.pending.tail }

theorem State.dequeued_of_idle {s : State} (h : s.pending = []) : s.dequeued = s := by
  unfold State.dequeued
  rw [h, List.tail_nil, ← h]

theorem State.dequeued_of_cons {s : State} {c : Instr} {rest : List Instr} (h : s.pending = c :: rest) :
    s.dequeued = { s with pending := rest } := by
  unfold State.dequeued
  rw [h, List.tail_cons]

/-- Every step answers a next state that keeps what `Keeps` says. -/
theorem step_keeps {K : Kept} (s : State) (hm : Sub (stepReach s) K) (h0 : Keeps K s.dequeued) :
    ∃ t, step s = .next t ∧ Keeps K t := by
  unfold stepReach at hm
  unfold step
  cases hp : s.pending with
  | nil =>
    rw [hp] at hm
    rw [State.dequeued_of_idle hp] at h0
    exact ⟨tick s, rfl, keeps_tick s hm h0⟩
  | cons c rest =>
    rw [hp] at hm
    rw [State.dequeued_of_cons hp] at h0
    exact exec_keeps c _ hm h0

/-- A part whose guest site is empty and whose Cuff is shut, as R2 has the TMD-P960-B1. -/
def State.guestShut (s : State) : Prop := s.guestSite = false ∧ s.cuff.shut

theorem State.guestShut_iff {s : State} :
    s.guestShut ↔ s.guestSite = false ∧ s.cuff.guestReset = true ∧ s.cuff.linkUp = false ∧ s.cuff.wins = [] := Iff.rfl

theorem State.guestShut_dequeued {s : State} : s.dequeued.guestShut ↔ s.guestShut := Iff.rfl

theorem State.guestShut_reset : State.reset.guestShut := ⟨rfl, rfl, rfl, rfl⟩

/-- What keeps the guest site, and the Cuff shut where that site is empty, keeps the part shut. -/
theorem Keeps.guestShut {w : Bool} {q : List Instr} {m : Nat} {a t : State}
    (h : Keeps ⟨w, a.guestSite, q, m, a⟩ t) (ha : a.guestShut) : t.guestShut := by
  obtain ⟨hsite, hcuff⟩ := ha
  exact ⟨h.site.trans hsite, h.shut hsite hcuff⟩

/-- Every step answers a next state, and from a shut part that state is shut. -/
theorem step_guestShut (s : State) : ∃ t, step s = .next t ∧ (s.guestShut → t.guestShut) := by
  obtain ⟨t, hstep, hkeeps⟩ := step_keeps s (Sub.of (Nat.and_self _)) (Keeps.start s.dequeued (stepReach s))
  exact ⟨t, hstep, fun hs => hkeeps.guestShut (State.guestShut_dequeued.2 hs)⟩

end Sys2Proof.Machine
end

section
/-! The invariant of R2: on a part without a guest the Cuff stays shut. -/

open Sys2Proof Sys2Proof.Machine

/-- Settles O57: every step keeps the guest site and, where that is empty, a shut Cuff (`step_guestShut`); reset is shut. -/
theorem onAPartWithoutAGuestTheCuffStaysShut : Obligations.OnAPartWithoutAGuestTheCuffStaysShut := by
  unfold Obligations.OnAPartWithoutAGuestTheCuffStaysShut
  refine ⟨fun s t hsite hreset hlink hwins hst => ?_, fun s => ?_, State.guestShut_reset.2⟩
  · obtain ⟨u, hu, hshut⟩ := step_guestShut s
    obtain rfl : u = t := Host.Outcome.next.inj (hu.symm.trans hst)
    exact State.guestShut_iff.1 (hshut (State.guestShut_iff.2 ⟨hsite, hreset, hlink, hwins⟩))
  · obtain ⟨t, ht, -⟩ := step_guestShut s
    exact ⟨t, ht⟩
end

section
/-! SUPPORT. The pseudo-channel of a stack offset (R175): that the block number alone decides it, and that a run of 64 blocks
meets every pseudo-channel once. -/

namespace Sys2Proof.Machine

/-- The pseudo-channel of a stack offset: o[16:11] XOR o[22:17] (R175). -/
def stackPc (o : Nat) : Nat := (o / 2 ^ 11 % 64) ^^^ (o / 2 ^ 17 % 64)

/-- `stackPc` is the pseudo-channel at which `bankOf` places a stack's address. -/
theorem bankOf_stackPc {k o pa : Nat} (h : locate pa = .stack k o) :
    ∃ bank row, bankOf pa = some (bank, chPc k (stackPc o), row) := bankOf_stack k o pa h

/-- `stackPc` is the pseudo-channel of the bank group that `groupKey` gives for a stack's address. -/
theorem groupKey_stackPc {k o pa : Nat} (h : locate pa = .stack k o) :
    ∃ g, g < 8 ∧ groupKey pa = some (65536 * k + 8 * stackPc o + g) := groupKey_stack k o pa h

theorem stackPc_lt (o : Nat) : stackPc o < 64 := pcOf_lt o

theorem chPc_inj {j k p q : Nat} (hp : p < 64) (hq : q < 64) (h : chPc j p = chPc k q) : j = k ∧ p = q := by
  unfold chPc at h
  omega

/-- Both fields of R175 are fields of the 2 KiB block number. -/
theorem stackPc_eq_block (o : Nat) : stackPc o = (o / 2048 % 64) ^^^ (o / 2048 / 64 % 64) := by
  unfold stackPc
  rw [Nat.div_div_eq_div_mul]
  rfl

theorem stackPc_eq_of_same_block {o u : Nat} (h : o / 2048 = u / 2048) : stackPc o = stackPc u := by
  rw [stackPc_eq_block, stackPc_eq_block, h]

/-- Within 64 blocks that begin at a multiple of 128 KiB, o[22:17] is constant and o[16:11] counts the blocks. -/
theorem stackPc_run (b : Nat) {i : Nat} (hi : i < 64) : stackPc ((64 * b + i) * 2048) = i ^^^ (b % 64) := by
  have hlow : (64 * b + i) % 64 = i := by omega
  have hhigh : (64 * b + i) / 64 = b := by omega
  rw [stackPc_eq_block, Nat.mul_div_cancel _ (by decide), hlow, hhigh]

/-- XOR with a constant is its own inverse, so a run of 64 blocks meets each pseudo-channel at exactly one block. -/
theorem stackPc_run_existsUnique (b : Nat) {p : Nat} (hp : p < 64) :
    ∃ i, i < 64 ∧ stackPc ((64 * b + i) * 2048) = p ∧ ∀ j, j < 64 → stackPc ((64 * b + j) * 2048) = p → j = i := by
  have hi : p ^^^ (b % 64) < 64 := Nat.xor_lt_two_pow (n := 6) hp (Nat.mod_lt _ (by decide))
  refine ⟨p ^^^ (b % 64), hi, ?_, fun j hj hjp => ?_⟩
  · rw [stackPc_run b hi, Nat.xor_xor_cancel_right]
  · rw [← hjp, stackPc_run b hj, Nat.xor_xor_cancel_right]

end Sys2Proof.Machine
end

section
/-! The pseudo-channel mapping of R175. -/

open Sys2Proof Sys2Proof.Machine

/-- Settles O58: the channel and the bank group are those of `stackPc`, which the block number decides and which a run of
64 blocks permutes. -/
theorem blocksOfAStackLieInOnePseudoChannel : Obligations.BlocksOfAStackLieInOnePseudoChannel := by
  unfold Obligations.BlocksOfAStackLieInOnePseudoChannel
  refine ⟨fun k o hk ho => ?_, fun _ _ _ _ hp hq h => chPc_inj hp hq h, fun _ _ h => stackPc_eq_of_same_block h,
    fun b _ hp => stackPc_run_existsUnique b hp⟩
  have hloc := locate_stack k o hk ho
  exact ⟨stackPc_lt o, bankOf_stackPc hloc, groupKey_stackPc hloc⟩
end

section
/-! SUPPORT. Admission of a bandwidth registration (R350, R351): BW_REGISTER whose fields, partition and handle are in order is
decided by the capacity test alone. -/

namespace Sys2Proof.Machine

variable {s : State} {d : Nat} {f : Flight}

/-- A reason that applies, and is the only one that does, is the one reported. -/
theorem firstRefusal_only {l : List (Nat × Bool)} {r : Nat} (hr : r ∈ refusalOrder) (hmem : (r, true) ∈ l)
    (honly : ∀ e ∈ l, e.2 = true → e.1 = r) : firstRefusal l = some r := by
  unfold firstRefusal
  cases hfind : refusalOrder.find? fun q => l.any fun e => e.1 == q && e.2 with
  | none =>
    have happlies : (l.any fun e => e.1 == r && e.2) = true := List.any_eq_true.2 ⟨(r, true), hmem, by simp⟩
    exact absurd happlies (List.find?_eq_none.1 hfind r hr)
  | some q =>
    have happlies : (l.any fun e => e.1 == q && e.2) = true := List.find?_some (p := fun q => l.any fun e => e.1 == q && e.2) hfind
    obtain ⟨e, he, hq⟩ := List.any_eq_true.1 happlies
    obtain ⟨heq, hon⟩ : e.1 = q ∧ e.2 = true := by simpa using hq
    rw [← heq, honly e he hon]

/-- With one reason tested after tests that all pass, that reason alone decides between the refusal and the command. -/
theorem refuseIf_last {l : List (Nat × Bool)} {r : Nat} (hr : r ∈ refusalOrder) (hl : ∀ e ∈ l, e.2 = false) (b : Bool) (k : State) :
    refuseIf s d (l ++ [(r, b)]) k = if b then refuseF s d r else k := by
  cases b with
  | false => exact refuseIf_pass (by simpa using fun a b hab => hl (a, b) hab) k
  | true =>
    have hfirst : firstRefusal (l ++ [(r, true)]) = some r := firstRefusal_only hr (by simp) fun e he hon => by
      rcases List.mem_append.1 he with hel | hlast
      · exact absurd hon (by simp [hl e hel])
      · rw [List.mem_singleton.1 hlast]
    unfold refuseIf
    rw [hfirst]
    rfl

/-- What R350 asks of a BW_REGISTER before its capacity test: fields in range, a partition that exists, a free handle. -/
structure BwRegisterReady (s : State) (f : Flight) : Prop where
  part : f.op 0x20 1 ≤ 15
  cls : f.op 0x21 1 ≤ 5
  rate : f.op 0x24 4 ≠ 0
  burst : 2048 ≤ f.op 0x28 4 ∧ f.op 0x28 4 ≤ 64 * 2 ^ 20 ∧ f.op 0x28 4 % 2048 = 0
  res : resourceOk (f.op 0x22 2) = true
  tail : f.zeroFrom 0x2C = true
  partExists : (getP s (f.op 0x20 1)).isSome = true
  handleFree : s.bw.regs.length < 4096

/-- The registration that a BW_REGISTER asks for, at its full rate. -/
def askedReg (f : Flight) : Reg :=
  { part := f.op 0x20 1, cls := f.op 0x21 1, res := f.op 0x22 2, rate := f.op 0x24 4, burst := f.op 0x28 4, eff := f.op 0x24 4 }

/-- The state with the asked registration under the lowest free handle, before effective rates are recomputed. -/
def addReg (s : State) (f : Flight) : State :=
  let t := settleBuckets s (f.op 0x22 2)
  { t with bw := { t.bw with regs := tput t.bw.regs (freeHandle s) (askedReg f) } }

/-- The refusals of R350 with whether each applies. -/
def bwFieldChecks (s : State) (f : Flight) : List (Nat × Bool) :=
  [(rBadField, decide (15 < f.op 0x20 1 ∨ 5 < f.op 0x21 1 ∨ f.op 0x24 4 = 0 ∨ f.op 0x28 4 < 2048 ∨ 64 * 2 ^ 20 < f.op 0x28 4 ∨
      f.op 0x28 4 % 2048 ≠ 0) || !resourceOk (f.op 0x22 2) || !f.zeroFrom 0x2C),
    (rNotFound, (getP s (f.op 0x20 1)).isNone), (rNoResource, decide (4096 ≤ s.bw.regs.length))]

/-- R351's test: the rates registered on the resource, with the asked rate, exceed 85% of its current capacity. -/
abbrev OverCapacity (s : State) (f : Flight) : Prop :=
  85 * capacity s (f.op 0x22 2) < 100 * (rateSum (regsOn s (f.op 0x22 2)) + f.op 0x24 4)

/-- A started BW_REGISTER makes R350's tests, then R351's, then adds the registration and recomputes (R352). -/
theorem bwRegister_run (h : Runs s d 0xF120 f) :
    bwRegister d s = refuseIf s d (bwFieldChecks s f ++ [(rCapacity, decide (OverCapacity s f))])
      (endF (recompute (addReg s f) (f.op 0x22 2)) d stOk (freeHandle s)) :=
  withOp_run h _

theorem BwRegisterReady.fieldChecks_pass (h : BwRegisterReady s f) : ∀ e ∈ bwFieldChecks s f, e.2 = false := by
  obtain ⟨hpart, hcls, hrate, ⟨hlow, hhigh, hmod⟩, hres, htail, hexists, hfree⟩ := h
  have hfields : ¬ (15 < f.op 0x20 1 ∨ 5 < f.op 0x21 1 ∨ f.op 0x24 4 = 0 ∨ f.op 0x28 4 < 2048 ∨ 64 * 2 ^ 20 < f.op 0x28 4 ∨
      f.op 0x28 4 % 2048 ≠ 0) := by omega
  unfold bwFieldChecks
  simp only [List.forall_mem_cons]
  refine ⟨?_, ?_, ?_, List.forall_mem_nil _⟩
  · rw [decide_eq_false hfields, hres, htail]
    rfl
  · rw [← Option.not_isSome, hexists]
    rfl
  · exact decide_eq_false (Nat.not_le.2 hfree)

/-- None of R350's refusals applies, so R351's test alone decides. -/
theorem bwRegister_of_ready (h : Runs s d 0xF120 f) (hok : BwRegisterReady s f) :
    bwRegister d s = if OverCapacity s f then refuseF s d rCapacity
      else endF (recompute (addReg s f) (f.op 0x22 2)) d stOk (freeHandle s) := by
  rw [bwRegister_run h, refuseIf_last (by decide) hok.fieldChecks_pass]
  simp only [decide_eq_true_eq]

/-- The recomputation changes effective rates only, so the new handle holds the rate asked for. -/
theorem recompute_addReg_rate (s : State) (f : Flight) :
    (tfind (recompute (addReg s f) (f.op 0x22 2)).bw.regs (freeHandle s)).map (·.rate) = some (f.op 0x24 4) := by
  have hadded : tfind (addReg s f).bw.regs (freeHandle s) = some (askedReg f) := tfind_tput_same _ _ _
  obtain ⟨y, hy, hkept⟩ := recompute_reg (addReg s f) (f.op 0x22 2) (freeHandle s) (askedReg f) hadded
  obtain ⟨-, -, -, hrate, -⟩ : y.part = _ ∧ y.cls = _ ∧ y.res = _ ∧ y.rate = (askedReg f).rate ∧ y.burst = _ := by
    simpa only [Prod.mk.injEq] using hkept rfl
  rw [hy, Option.map_some, hrate]
  rfl

end Sys2Proof.Machine
end

section
/-! The admission test of R351. -/

open Sys2Proof Sys2Proof.Machine

/-- Settles O59: past R350's refusals the capacity test decides (`bwRegister_of_ready`), and an admitted registration holds
the rate asked for (`recompute_addReg_rate`). -/
theorem aRegistrationIsAdmittedWithinEightyFivePerCent : Obligations.ARegistrationIsAdmittedWithinEightyFivePerCent := by
  unfold Obligations.ARegistrationIsAdmittedWithinEightyFivePerCent
  refine ⟨fun s d f hrun hpart hcls hrate hburst hres htail hexists hfree hover => ?_,
    fun s d f hrun hpart hcls hrate hburst hres htail hexists hfree hfits => ⟨_, ?_, recompute_addReg_rate s f⟩⟩
  · have hreg := bwRegister_of_ready hrun ⟨hpart, hcls, hrate, hburst, hres, htail, hexists, hfree⟩
    exact congrArg Host.Outcome.next (hreg.trans (if_pos hover))
  · have hreg := bwRegister_of_ready hrun ⟨hpart, hcls, hrate, hburst, hres, htail, hexists, hfree⟩
    exact congrArg Host.Outcome.next (hreg.trans (if_neg (Nat.not_lt.2 hfits)))
end

section
/-! SUPPORT. The frames of steps and of commands, read off `Keeps`: the parts that a command may change are those of its reach,
and the reach of a command outside a part's list leaves that part out. -/

namespace Sys2Proof.Machine

/-- Every step from canonical memories answers canonical memories. -/
theorem step_memOk {s t : State} (hs : s.memOk) (hst : step s = .next t) : t.memOk := by
  obtain ⟨u, hu, hk⟩ := step_keeps s (Sub.of (Nat.and_self _)) (Keeps.startWf s.dequeued (stepReach s) hs)
  obtain rfl : u = t := Host.Outcome.next.inj (hu.symm.trans hst)
  exact hk.wf rfl

/-- What a command answers keeps every part outside its reach. -/
theorem exec_keeps_start {c : Instr} {s t : State} (h : exec c s = .next t) : Keeps ⟨false, s.guestSite, s.pending, reach c, s⟩ t :=
  keeps_of_exec h (Sub.of (Nat.and_self _)) (Keeps.start s (reach c))

/-- The parts of the state that have a list of commands, by the numbers of `Kept`, each with whether a command is in its list. -/
def listedParts (c : Instr) : List (Nat × Bool) :=
  [(0, reachesDeviceMemory c), (1, reachesDeviceMemory c), (4, reachesCounters c), (6, reachesPolicy c), (7, reachesKeys c),
    (8, reachesRegs c), (9, reachesVfs c), (10, reachesTime c), (11, reachesImages c), (12, reachesPower c), (13, reachesHeat c),
    (14, reachesCuff c), (16, reachesBindings c), (17, reachesHoliday c), (18, reachesFabric c), (21, reachesRecords c)]

/-- Command by command: a part within its reach has the command in its list. -/
theorem listedParts_reach (c : Instr) : ((listedParts c).all fun e => e.2 || !(reach c).testBit e.1) = true := by
  cases c <;> simp only [reach, listedParts, List.all_cons, List.all_nil] <;> rfl

/-- A command outside a part's list does not reach the part. -/
theorem reach_testBit_of_unlisted {c : Instr} {k : Nat} {b : Bool} (hk : (k, b) ∈ listedParts c) (hb : b = false) :
    (reach c).testBit k = false := by
  have hlisted := List.all_eq_true.1 (listedParts_reach c) (k, b) hk
  rwa [hb, Bool.false_or, Bool.not_eq_true'] at hlisted

end Sys2Proof.Machine
end

section
/-! What no step, and what no command outside a list, changes. -/

open Sys2Proof Sys2Proof.Machine

/-- Settles O3: a step is a command or an idle tick, and each keeps the canonical form (`step_memOk`). -/
theorem everyStepKeepsTheMemoriesCanonical : Obligations.EveryStepKeepsTheMemoriesCanonical :=
  fun _ _ hs hst => step_memOk hs hst

/-- Settles O4: `Keeps` holds the queue and the guest site whatever a command reaches. -/
theorem noCommandTouchesTheQueueOrTheGuestSite : Obligations.NoCommandTouchesTheQueueOrTheGuestSite := by
  intro c s t h
  exact ⟨(exec_keeps_start h).queue, (exec_keeps_start h).site⟩

/-- Settles O5: a command outside the list reaches neither the bytes nor the poison of device memory. -/
theorem otherCommandsLeaveDeviceMemoryAlone : Obligations.OtherCommandsLeaveDeviceMemoryAlone := by
  intro c s t hc h
  have hk := exec_keeps_start h
  have hbytes := hk.part0 (reach_testBit_of_unlisted (by simp [listedParts]) hc)
  exact ⟨fun a => by rw [hbytes], hk.part1 (reach_testBit_of_unlisted (by simp [listedParts]) hc)⟩

/-- Settles O6: outside a part's list a command does not reach it (`reach_testBit_of_unlisted`), so `Keeps` holds it. -/
theorem onlyTheNamedCommandsChangeWhatTheOwnerTrusts : Obligations.OnlyTheNamedCommandsChangeWhatTheOwnerTrusts := by
  intro c s t h
  have hk := exec_keeps_start h
  exact ⟨fun hc => hk.part6 (reach_testBit_of_unlisted (by simp [listedParts]) hc),
    fun hc => hk.part7 (reach_testBit_of_unlisted (by simp [listedParts]) hc),
    fun hc => hk.part11 (reach_testBit_of_unlisted (by simp [listedParts]) hc),
    fun hc => hk.part9 (reach_testBit_of_unlisted (by simp [listedParts]) hc),
    fun hc => hk.part21 (reach_testBit_of_unlisted (by simp [listedParts]) hc)⟩

/-- Settles O7: as O6, for the parts of the machine's control state. -/
theorem onlyTheNamedCommandsChangeTheMachinesControls : Obligations.OnlyTheNamedCommandsChangeTheMachinesControls := by
  intro c s t h
  have hk := exec_keeps_start h
  exact ⟨fun hc => hk.part8 (reach_testBit_of_unlisted (by simp [listedParts]) hc),
    fun hc => hk.part10 (reach_testBit_of_unlisted (by simp [listedParts]) hc),
    fun hc => hk.part4 (reach_testBit_of_unlisted (by simp [listedParts]) hc),
    fun hc => hk.part16 (reach_testBit_of_unlisted (by simp [listedParts]) hc),
    fun hc => hk.part12 (reach_testBit_of_unlisted (by simp [listedParts]) hc),
    fun hc => hk.part13 (reach_testBit_of_unlisted (by simp [listedParts]) hc),
    fun hc => hk.part14 (reach_testBit_of_unlisted (by simp [listedParts]) hc),
    fun hc => hk.part17 (reach_testBit_of_unlisted (by simp [listedParts]) hc),
    fun hc => hk.part18 (reach_testBit_of_unlisted (by simp [listedParts]) hc)⟩
end

section
/-! SUPPORT. Device and host memory by physical address: reads after writes, and that ownership is exclusive. -/

namespace Sys2Proof.Machine

theorem pread_pwrite (s : State) (pa : Nat) (bs : List Byte) : pread (pwrite s pa bs) pa bs.length = bs :=
  mreadN_mwriteN bs s.mem.bytes pa

theorem hwrite_bad {s : State} {a : Nat} {bs : List Byte} (h : hostBad s a bs.length = true) : hwrite s a bs = s := by
  unfold hwrite
  rw [if_pos h]

/-- Who may own a grain: the partition that the table names, or where it says ANY the one that claimed it. -/
theorem owns_stack_iff {s : State} {p pa k off : Nat} (h : locate pa = .stack k off) :
    owns s p pa false = true ↔ grainFilling s (grainOf k off) = false ∧
      (grainEntry s (grainOf k off) = p ∨ grainEntry s (grainOf k off) = 0x80 ∧ tfind s.mem.grainOwner (grainOf k off) = some p) := by
  unfold owns
  rw [h]
  dsimp only
  cases tfind s.mem.grainOwner (grainOf k off) <;> simp

theorem owns_slice_iff {s : State} {p pa n off : Nat} (h : locate pa = .slice n off) :
    owns s p pa false = true ↔ coreOwner s n = some p ∧ sliceFilling s n = false := by
  unfold owns
  rw [h]
  simp

/-- The code 0x80 of ANY is no partition, so one rule at most gives a grain its owner. -/
theorem owns_unique {s : State} {p q pa : Nat} (hp : p < 16) (hq : q < 16) (op : owns s p pa false = true)
    (oq : owns s q pa false = true) : p = q := by
  cases h : locate pa with
  | slice n off =>
    obtain ⟨ep, -⟩ := (owns_slice_iff h).1 op
    obtain ⟨eq, -⟩ := (owns_slice_iff h).1 oq
    exact Option.some.inj (ep.symm.trans eq)
  | stack k off =>
    obtain ⟨-, named | ⟨any, claimed⟩⟩ := (owns_stack_iff h).1 op
    · obtain ⟨-, named' | ⟨any', -⟩⟩ := (owns_stack_iff h).1 oq
      · exact named.symm.trans named'
      · omega
    · obtain ⟨-, named' | ⟨-, claimed'⟩⟩ := (owns_stack_iff h).1 oq
      · omega
      · exact Option.some.inj (claimed.symm.trans claimed')
  | unbacked =>
    unfold owns at op
    rw [h] at op
    cases op

end Sys2Proof.Machine
end

section
/-! Reads, writes and ownership of memory. -/

open Sys2Proof Sys2Proof.Machine

/-- Settles O8: the laws of `mwriteN` for both memories, and a failing host range takes nothing. -/
theorem aWriteReadsBackAndLeavesTheRestAlone : Obligations.AWriteReadsBackAndLeavesTheRestAlone :=
  ⟨fun s pa bs => ⟨pread_pwrite s pa bs, mread_mwriteN_outside bs s.mem.bytes pa⟩, fun s a bs h => ⟨hread_hwrite s a bs h, fun i hi => mread_hwrite_outside s a i bs hi⟩,
    fun _ _ _ h => hwrite_bad h⟩

/-- Settles O9: the owner of a slice or of a grain is one (`owns_unique`). -/
theorem memoryBelongsToOnePartition : Obligations.MemoryBelongsToOnePartition :=
  fun _ _ _ _ hp hq op oq => owns_unique hp hq op oq

/-- Settles O10: a byte that changed lies where some written address translates to, writable (`vwrite_changes`), and
translation admits only what R193 allows (`xlate_ok`). -/
theorem aStoreStaysInTheMemoryOfItsPartition : Obligations.AStoreStaysInTheMemoryOfItsPartition := by
  intro s t cx va bs a h hne
  obtain ⟨i, hi, hx⟩ := vwrite_changes s t cx va bs a h hne
  exact ⟨i, hi, hx, xlate_ok s cx.part (va + i) a true hx⟩
end

section
/-! SUPPORT. The idle step, and the state after reset: registers, queues, counters and policy. -/

namespace Sys2Proof.Machine

/-- Without a slew to work off, a nanosecond is one on the time base (R8). -/
theorem passTime_now {t : Time} (h : t.slew = 0) : (passTime t).now = (t.now + 1) % 2 ^ 64 := by
  simp [passTime, h]

/-- With no clock on its way back the tick is the passing of time alone. -/
theorem tick_idle {s : State} (h : s.fab.refBack = []) : tick s = { s with time := passTime s.time } := by
  simp [tick, h]

theorem getP_reset (p : Nat) : getP State.reset p = none := rfl

/-- The entry of an absent partition reads 0 at every offset (R598). -/
theorem partReg_absent {s : State} {p o : Nat} {r : RegVal} (hp : getP s p = none) (hr : partReg s p o = some r) : r.2 = 0 := by
  unfold partReg at hr
  simp only [hp, Option.isSome_none, Bool.false_eq_true, if_false] at hr
  repeat' split at hr
  all_goals cases hr <;> rfl

theorem grainEntry_reset {g : Nat} (h : grainBacked g = true) : grainEntry State.reset g = 0x80 := by
  unfold grainEntry
  rw [h]
  rfl

end Sys2Proof.Machine
end

section
/-! Steps without content of their own, and reset. -/

open Sys2Proof Sys2Proof.Machine

/-- Settles O1: by the definition of a step. -/
theorem aStepRunsTheCommandAtTheFront : Obligations.AStepRunsTheCommandAtTheFront :=
  fun _ _ _ => rfl

/-- Settles O2: a tick with nothing to slew and no clock to lift changes the time alone (`tick_idle`). -/
theorem anIdleStepAdvancesTheTimeBase : Obligations.AnIdleStepAdvancesTheTimeBase := by
  intro s hp hb hs
  refine ⟨{ s with time := passTime s.time }, ?_, passTime_now hs, rfl⟩
  rw [← tick_idle hb, step, hp]

/-- Settles O60: the listed registers compute, and what is said of all partitions, queues and grains holds because reset's
tables are empty. -/
theorem resetLeavesWhatTheSpecGives : Obligations.ResetLeavesWhatTheSpecGives := by
  refine ⟨⟨⟨rfl, rfl⟩, rfl, rfl⟩, by and_intros <;> rfl, fun p o r hr => partReg_absent (getP_reset p) hr,
    fun q p c i => ⟨rfl, rfl, rfl, rfl, rfl⟩, fun p g => ⟨rfl, rfl, fun hg => grainEntry_reset hg, rfl, rfl, rfl, rfl⟩⟩
end

section
/-! SUPPORT. A polling pass that finds its doorbell sectors as they were and checks one hot queue (R47, R53, R56). -/

namespace Sys2Proof.Machine

/-- The entries of a changed table that satisfy a test have the keys of those that satisfied the like test before. -/
theorem filter_tmap_keys {α : Type} {p q : Nat × α → Bool} {g : Nat → α → α} (h : ∀ k v, p (k, g k v) = q (k, v)) (t : Tbl α) :
    ((tmap t g).filter p).map Prod.fst = (t.filter q).map Prod.fst := by
  unfold tmap
  rw [List.filter_map, List.map_map]
  rw [show (p ∘ fun e => (e.1, g e.1 e.2)) = q from funext fun e => h e.1 e.2]
  rfl

/-- A hot queue's context, idle for one pass more (R56). -/
def idledCtx (s : State) (q : Nat) (x : QCtx) : QCtx := if s.qe.hot.contains q then { x with idlePasses := x.idlePasses + 1 } else x

theorem idledCtx_eq (s : State) (q : Nat) (x : QCtx) : ∃ n, idledCtx s q x = { x with idlePasses := n } := by
  unfold idledCtx
  split <;> exact ⟨_, rfl⟩

@[simp] theorem idledCtx_st (s : State) (q : Nat) (x : QCtx) : (idledCtx s q x).st = x.st := by
  obtain ⟨n, h⟩ := idledCtx_eq s q x
  rw [h]

@[simp] theorem idledCtx_checkDue (s : State) (q : Nat) (x : QCtx) : (idledCtx s q x).checkDue = x.checkDue := by
  obtain ⟨n, h⟩ := idledCtx_eq s q x
  rw [h]

/-- A pass before it polls: the host's stores are visible, the pass is counted, and every hot queue has idled one pass more. -/
def pollStart (stores : List HostStore) (failing : List (Nat × Nat)) (s : State) : State :=
  { s with
    host := stores.foldl (fun m x => mwriteN m x.addr x.bytes) s.host
    hostFail := failing
    qe := { s.qe with
      pollPasses := s.qe.pollPasses + 1
      ctx := tmap s.qe.ctx (idledCtx s) } }

/-- The round robin over the hot set has come to queue q. -/
def readNext (s : State) (q : Nat) : State := { s with qe := { s.qe with hotNext := q } }

variable {s : State} {stores : List HostStore} {failing : List (Nat × Nat)}

theorem getQ_pollStart (stores : List HostStore) (failing : List (Nat × Nat)) (s : State) (q : Nat) :
    ∃ n, getQ (pollStart stores failing s) q = { getQ s q with idlePasses := n } := by
  unfold getQ pollStart
  rw [tfind_tmap]
  cases tfind s.qe.ctx q with
  | none => exact ⟨_, rfl⟩
  | some x => exact idledCtx_eq s q x

theorem dueQueues_pollStart (fn : Nat) : dueQueues (pollStart stores failing s) fn = dueQueues s fn := by
  refine filter_tmap_keys (g := idledCtx s) (p := fun e => e.2.st == .enabled && e.2.checkDue && queueFn s e.1 == fn) (fun k v => ?_) s.qe.ctx
  simp

/-- A sector whose counter reads as last seen, with no group undefined, is passed over (R53). -/
theorem pollSector_same {fn sec : Nat} (hu : (getFn s fn).undef = [])
    (hsec : (hread s ((getFn s fn).dbBase + 8 * sec) 8).map leNat = some ((tfind (getFn s fn).seenSec sec).getD 0)) :
    pollSector fn s sec = s := by
  obtain ⟨b, hb, hv⟩ := Option.map_eq_some_iff.1 hsec
  unfold pollSector
  simp [hb, hv, hu]

/-- A function whose sectors are all as last seen, and none of whose queues has a check owed, is left as it is. -/
theorem pollFn_same {fn : Nat} (ha : (getFn s fn).allUndef = false) (hu : (getFn s fn).undef = [])
    (hsec : ∀ sec < 16, (hread s ((getFn s fn).dbBase + 8 * sec) 8).map leNat = some ((tfind (getFn s fn).seenSec sec).getD 0))
    (hdue : dueQueues s fn = []) : pollFn s fn = s := by
  have hall : (List.range 16).foldl (pollSector fn) s = s :=
    foldl_id _ _ _ fun sec hm => pollSector_same hu (hsec sec (List.mem_range.1 hm))
  unfold pollFn
  simp [ha, hall, hdue]

/-- A single hot queue is the next one read, wherever the round robin stands. -/
theorem hotNextQ_single {q : Nat} (h : s.qe.hot = [q]) : hotNextQ s = some q := by
  unfold hotNextQ
  rw [h]
  by_cases hq : s.qe.hotNext < q <;> simp [hq]

/-- The only hot queue, fetched again, stays the hot set, which is not over its size. -/
theorem hotInsert_only {q : Nat} (hh : s.qe.hot = [q]) (hsz : 0 < s.qe.hotSize) (hst : (getQ s q).st ≠ .error) :
    hotInsert s q = (s, none) := by
  have hmake : makeHot s q = s := by
    unfold makeHot
    have hlast : (s.qe.hot.filter (· != q)) ++ [q] = s.qe.hot := by simp [hh]
    rw [if_pos (by simp [hh])]
    dsimp only
    rw [hlast]
  have hfits : ¬ s.qe.hotSize < s.qe.hot.length := by rw [hh, List.length_singleton]; omega
  unfold hotInsert
  rw [if_neg (not_or.2 ⟨by omega, hst⟩), hmake]
  exact if_neg hfits

/-- A write to the control block that the host takes. -/
theorem rcbWrite_ok {q off : Nat} {bs : List Byte} (h : hostBad s ((getQ s q).rcb + off) bs.length = false) :
    rcbWrite s q off bs = hwrite s ((getQ s q).rcb + off) bs := by
  unfold rcbWrite
  simp [h]

/-- The context of a queue whose new descriptors have been taken up to `p`. -/
def fetchedTo (x : QCtx) (p : Nat) : QCtx := { x with sqCons := p, prodSeen := p, idlePasses := 0, checkDue := false }

/-- What taking descriptors leaves: they are held in order from the next number on, and the queue stands at `p`. -/
theorem takeSlots_facts {q p : Nat} (l : List (Nat × List Byte)) (hw : hostBad s ((getQ s q).rcb + 0x20) 4 = false) :
    getQ (takeSlots s q p l) q = fetchedTo (getQ s q) p ∧ (takeSlots s q p l).qe = (putQ (holdSlots s q l) q (fetchedTo (getQ s q) p)).qe ∧
      (takeSlots s q p l).hostFail = s.hostFail := by
  obtain ⟨-, -, -, -, -, -, hfail, -⟩ := holdSlots_facts q l s
  have hbad : hostBad (putQ (holdSlots s q l) q (fetchedTo (getQ s q) p)) ((getQ s q).rcb + 0x20) (toLe 4 p).length = false := by
    rw [toLe_length]
    unfold hostBad at hw ⊢
    rw [putQ_hostFail, hfail]
    exact hw
  have htake : takeSlots s q p l = hwrite (putQ (holdSlots s q l) q (fetchedTo (getQ s q) p)) ((getQ s q).rcb + 0x20) (toLe 4 p) := by
    unfold takeSlots
    exact rcbWrite_ok (by rw [getQ_putQ]; exact hbad) |>.trans (by rw [getQ_putQ]; rfl)
  rw [htake]
  exact ⟨by rw [getQ_hwrite, getQ_putQ], by rw [hwrite_qe], by rw [hwrite_hostFail, putQ_hostFail, hfail]⟩

/-- check(q) of an enabled queue whose producer index has moved by at most its ring, all of whose new slots can be read. -/
theorem checkOnce_fetches {q : Nat} {b : List Byte} {l : List (Nat × List Byte)} (hst : (getQ s q).st = .enabled) (hf : fetchable s q = true)
    (hb : hread s (getQ s q).rcb 4 = some b) (hne : leNat b ≠ (getQ s q).prodSeen)
    (hcount : newCount (leNat b) (getQ s q).sqCons ≤ 2 ^ (getQ s q).sqLog2)
    (hl : fetchSlots s (getQ s q) (newCount (leNat b) (getQ s q).sqCons) = some l) :
    checkOnce s q = hotInsert (takeSlots s q (leNat b) l) q := by
  unfold checkOnce
  simp [hst, hf, hb, hne, Nat.not_lt.2 hcount, hl]

/-- A pass of PF0 alone, with its sectors as last seen and nothing owed, checks the one hot queue. -/
theorem pollingPass_single {q : Nat} (hvf : s.vfs = []) (hhot : s.qe.hot = [q]) (hreads : s.qe.hotReads = 1)
    (ha : (getFn s 0).allUndef = false) (hu : (getFn s 0).undef = [])
    (hsec : ∀ sec < 16, (hread (afterStores stores failing s) ((getFn s 0).dbBase + 8 * sec) 8).map leNat
      = some ((tfind (getFn s 0).seenSec sec).getD 0)) (hdue : dueQueues s 0 = []) :
    pollingPass stores failing s = checkQ (readNext (pollStart stores failing s) q) q := by
  have hfn : pollFn (pollStart stores failing s) 0 = pollStart stores failing s :=
    pollFn_same ha hu hsec ((dueQueues_pollStart 0).trans hdue)
  have hfns : (0 :: ((tkeys (pollStart stores failing s).vfs).filter (· != 0))).foldl pollFn (pollStart stores failing s)
      = pollStart stores failing s := by
    have hnone : (pollStart stores failing s).vfs = [] := hvf
    simp [hnone, tkeys, hfn]
  have hnext : hotNextQ (pollStart stores failing s) = some q := hotNextQ_single hhot
  calc pollingPass stores failing s
      = pollHot s.qe.hotReads (pollStart stores failing s) := by unfold pollingPass; exact congrArg (fun u => pollHot u.qe.hotReads u) hfns
    _ = checkQ (readNext (pollStart stores failing s) q) q := by rw [hreads, pollHot, hnext]; rfl

end Sys2Proof.Machine
end

section
/-! Polling. -/

open Sys2Proof Sys2Proof.Machine

/-- Settles O13: the pass comes down to the check of the one hot queue (`pollingPass_single`), which takes the new slots
(`checkOnce_fetches`, `takeSlots_facts`) and leaves the queue in the hot set. -/
theorem pollingFetchesWhatTheHostHasPlaced : Obligations.PollingFetchesWhatTheHostHasPlaced := by
  intro s stores failing q b hvf hhot hreads hsize _ ha hu hsec hst hfetch hdue hw hb hne hcount hslots
  obtain ⟨n, hn⟩ := getQ_pollStart stores failing s q
  generalize hU : readNext (pollStart stores failing s) q = u
  have hq : getQ u q = { getQ s q with idlePasses := n } := by rw [← hU]; exact hn
  have hread_u : ∀ a k, hread u a k = hread (afterStores stores failing s) a k := by rw [← hU]; exact fun _ _ => rfl
  have hbad_u : ∀ a k, hostBad u a k = hostBad (afterStores stores failing s) a k := by rw [← hU]; exact fun _ _ => rfl
  have hfetch_u : fetchable u q = true := by
    rw [← hfetch, ← hU]
    unfold fetchable
    rw [hU, hq, ← hU]
    rfl
  obtain ⟨l, hl, hlen, hslot⟩ := fetchSlots_ok u (getQ u q) (newCount (leNat b) (getQ s q).sqCons)
    (fun i hi => by rw [hread_u, hq]; exact hslots i hi)
  have hwu : hostBad u ((getQ u q).rcb + 0x20) 4 = false := by rw [hbad_u, hq]; exact hw
  obtain ⟨tq, tqe, tfail⟩ := takeSlots_facts (p := leNat b) l hwu
  obtain ⟨hnext, -, -, hot, hsz, hpass, -, hheld⟩ := holdSlots_facts q l u
  have hcheck : checkOnce u q = (takeSlots u q (leNat b) l, none) := by
    rw [checkOnce_fetches (b := b) (l := l) (by rw [hq]; exact hst) hfetch_u (by rw [hread_u, hq]; exact hb) (by rw [hq]; exact hne)
      (by rw [hq]; exact hcount) (by rw [hq] at hl ⊢; exact hl)]
    refine hotInsert_only ?_ ?_ ?_
    · rw [tqe, putQ_qe_hot, hot, ← hU]; exact hhot
    · rw [tqe, putQ_qe_hotSize, hsz, ← hU]; exact hsize
    · rw [tq, hq]; show (getQ s q).st ≠ _; rw [hst]; decide
  have hrun : pollingPass stores failing s = takeSlots u q (leNat b) l := by
    rw [pollingPass_single hvf hhot hreads ha hu hsec hdue, hU, checkQ, checkQueue, hcheck]
  have hnextU : u.qe.nextFlight = s.qe.nextFlight := by rw [← hU]; rfl
  refine ⟨takeSlots u q (leNat b) l, congrArg _ hrun, by rw [tq]; rfl, by rw [tq]; rfl, ?_, ?_, ?_, fun i hi => ?_⟩
  · rw [tfail, ← hU]; rfl
  · rw [tqe, putQ_qe_pollPasses, hpass, ← hU]; rfl
  · rw [tqe, putQ_qe_nextFlight, hnext, hlen, hnextU]
  · obtain ⟨d, hd, hli⟩ := hslot i hi
    rw [hread_u, hq] at hd
    have hget : getF (takeSlots u q (leNat b) l) (s.qe.nextFlight + i) = getF (holdSlots u q l) (u.qe.nextFlight + i) := by
      unfold getF
      rw [tqe, hnextU]
      rfl
    rw [hget, hheld i (by rw [hlen]; exact hi) _ hli, hd, hq]
    rfl
end

section
/-! SUPPORT. The life of a descriptor in its rings: its start, its completion record, and the hot set and the interrupt of its
queue (R49, R56, R57, R62, R63, R69-R72). -/

namespace Sys2Proof.Machine

/-- Equal states are equal outcomes. -/
theorem next_congr {s t : State} (h : s = t) : (Host.Outcome.next s : Host.Outcome State Fault Refusal) = .next t := congrArg _ h

/-- A descriptor that nothing holds enters the intakes of its cores and has started. -/
theorem descriptorStart_passes {s u : State} {d n : Nat} {f g : Flight} (hf : getF s d = some f) (hph : f.phase = .fetched)
    (hstep : f.stepOf = none) (hhead : headOfQueue s d f = true) (hheld : startHeld s f = false) (hslot : takeSlot s d f = (u, true))
    (hg : getF u d = some g) (hheader : headerCheck u g = none) (htarget : startTarget u d g = .ok n) (hfence : fenceMet u d g = true)
    (hwait : startWait u g n = true) (hcheck : slotCheck u g = none) (hnew : inIntake u d = false) (hroom : intakeFree u d g = true)
    (hop : g.opcode ≠ 0x3001) :
    descriptorStart d s = enterIntake (putF u d { g with phase := .started }) d g := by
  unfold descriptorStart
  simp [hf, hph, hstep, hhead, hheld, hslot, hg, hheader, htarget, hfence, startChecked, hwait, hcheck, hnew, hroom, enterStep, hop]

/-- Entering the intakes changes the cores alone, and each core that the descriptor uses holds it last. -/
theorem enterIntake_facts (s : State) (d : Nat) (f : Flight) :
    (enterIntake s d f).qe = s.qe ∧ enterIntake s d f = { s with flt := { s.flt with cores := (enterIntake s d f).flt.cores } } ∧
      ∀ c ∈ descCores s d f, d ∈ (getCore (enterIntake s d f) c).intake :=
  intake_facts d (descCores s d f) s

theorem takeSlot_free {s : State} {d : Nat} {f : Flight} {b : List Byte} (hr : f.reserved = false)
    (hb : hread s ((getQ s f.q).rcb + 8) 4 = some b) (hroom : slotRoom s f.q (leNat b) = true) :
    takeSlot s d f = (putF s d { f with reserved := true }, true) := by
  unfold takeSlot
  simp [hr, hb, hroom]

theorem takeSlot_reserved (s : State) (d : Nat) {f : Flight} (hr : f.reserved = true) : takeSlot s d f = (s, true) := by
  unfold takeSlot
  simp [hr]

/-- A host write changes host memory alone. -/
theorem hwrite_frame (s : State) (a : Nat) (bs : List Byte) : hwrite s a bs = { s with host := (hwrite s a bs).host } := by
  unfold hwrite
  split <;> rfl

/-- The state with a descriptor's completion record in the next slot of its ring, the count of written records risen by one. -/
def recordWritten (s : State) (f : Flight) : State :=
  let x := getQ s f.q
  putQ (hwrite s (x.cqBase + 16 * (x.written % 2 ^ x.cqLog2)) (recordBytes f (x.written / 2 ^ x.cqLog2 % 2 == 0))) f.q
    { x with written := (x.written + 1) % 2 ^ 32 }

theorem recordWritten_frame (s : State) (f : Flight) :
    recordWritten s f = { s with host := (recordWritten s f).host, qe := (recordWritten s f).qe } := by
  unfold recordWritten
  dsimp only
  rw [hwrite_frame]
  rfl

theorem writeRecord_quiet {s : State} {f : Flight} (hirq : (getQ s f.q).irqEn = false)
    (hw : hostBad s ((getQ s f.q).cqBase + 16 * ((getQ s f.q).written % 2 ^ (getQ s f.q).cqLog2)) 16 = false) :
    writeRecord s f = recordWritten s f := by
  unfold writeRecord countIrq
  simp [hw, hirq, recordWritten]

/-- The state without a descriptor, neither held nor in an intake. -/
def letGo (s : State) (d : Nat) : State :=
  delF { s with flt := { s.flt with cores := tmap s.flt.cores fun _ c => { c with intake := c.intake.filter (· != d) } } } d

theorem endPartReset_tenant {s : State} {f : Flight} (hq : f.q ≠ 0) : endPartReset s f = s := by
  unfold endPartReset
  split
  · exact if_neg hq
  · rfl

theorem settleDrain_none {s : State} (h : s.pwr.drainTo = none) : settleDrain s = s := by
  unfold settleDrain
  rw [h]

/-- An ended descriptor that asks for a record alone has it written and is let go. -/
theorem descriptorComplete_record {s : State} {d : Nat} {f : Flight} (hf : getF s d = some f) (hph : f.phase = .ended)
    (hout : hasOut s d = false) (hroom : recordRoom s f = true) (hatt : f.opcode ≠ 0x3001) (hstep : f.stepOf = none)
    (hrec : f.noRecord = false) (hcmpl : f.fCmpl = true) (hsig : f.fSignal = false) (hq : f.q ≠ 0) (hswap : f.opcode ≠ 0x7021)
    (hdead : f.absDeadline = none) (hdrain : s.pwr.drainTo = none) (hirq : (getQ s f.q).irqEn = false)
    (hw : hostBad s ((getQ s f.q).cqBase + 16 * ((getQ s f.q).written % 2 ^ (getQ s f.q).cqLog2)) 16 = false) :
    descriptorComplete d s = letGo (recordWritten (putF s d f) f) d := by
  have hfinal : { f with status := finalStatus s f } = f := by
    unfold finalStatus
    simp [hsig, hdead]
  have hneeds : needsRecord f = true := by
    unfold needsRecord
    simp [hrec, hcmpl]
  have hsettle : settleAttend (putF s d f) d f = putF s d f := if_pos (.inl hatt)
  have hheader : headerSignal (putF s d f) d f = putF s d f := by
    unfold headerSignal
    simp [hsig]
  have hwrite : writeRecord (putF s d f) f = recordWritten (putF s d f) f := writeRecord_quiet hirq hw
  unfold descriptorComplete
  rw [hf]
  dsimp only
  rw [if_neg (by simp [hph, hout, hroom]), hfinal, hsettle, getF_putF]
  simp only [getF_putF, hheader, hstep, hneeds, if_true, hwrite, endPartReset_tenant hq, hswap, false_and, if_false]
  refine settleDrain_none ?_
  rw [delF_pwr, recordWritten_frame]
  exact hdrain

theorem hread_recordWritten {s : State} {f : Flight}
    (hw : hostBad s ((getQ s f.q).cqBase + 16 * ((getQ s f.q).written % 2 ^ (getQ s f.q).cqLog2)) 16 = false) :
    hread (recordWritten s f) ((getQ s f.q).cqBase + 16 * ((getQ s f.q).written % 2 ^ (getQ s f.q).cqLog2)) 16 =
      some (recordBytes f ((getQ s f.q).written / 2 ^ (getQ s f.q).cqLog2 % 2 == 0)) := by
  have hlen : (recordBytes f ((getQ s f.q).written / 2 ^ (getQ s f.q).cqLog2 % 2 == 0)).length = 16 := by
    simp [recordBytes, toLe_length]
  have h := hread_hwrite s _ _ (by rw [hlen]; exact hw)
  rw [hlen] at h
  exact h

theorem getF_letGo (s : State) (d : Nat) : getF (letGo s d) d = none := tfind_tdel_same s.qe.flights d

/-- What letting a descriptor go changes: the held descriptors and the cores' intakes. -/
theorem letGo_frame (s : State) (d : Nat) :
    letGo s d = { s with qe := { s.qe with flights := tdel s.qe.flights d }, flt := { s.flt with cores := (letGo s d).flt.cores } } := rfl

/-! Eviction of an idle hot queue (R56, R57). -/

/-- A check of an enabled, fetchable queue whose producer index has not moved clears what was owed; of any other it changes at
most whether the check is owed. -/
theorem checkQ_still {s : State} {q : Nat} {b : List Byte} (hb : hread s (getQ s q).rcb 4 = some b) (hp : leNat b = (getQ s q).prodSeen) :
    checkQ s q = s ∨ ∃ due, checkQ s q = putQ s q { getQ s q with checkDue := due } := by
  have hone : (checkOnce s q = (s, none)) ∨ ∃ due, checkOnce s q = (putQ s q { getQ s q with checkDue := due }, none) := by
    unfold checkOnce
    by_cases hst : (getQ s q).st = .enabled
    · cases hf : fetchable s q with
      | false => exact .inr ⟨true, by simp [hst]⟩
      | true => exact .inr ⟨false, by simp [hst, hb, hp]⟩
    · exact .inl (if_pos hst)
  unfold checkQ checkQueue
  rcases hone with h | ⟨due, h⟩
  · exact .inl (by rw [h])
  · exact .inr ⟨due, by rw [h]⟩

/-- A hot queue evicted: HOT = 0 stands in its control block and it is off the hot list. -/
theorem hotEvict_ok {s : State} {q : Nat} (hq : q ∈ s.qe.hot) (hw : hostBad s ((getQ s q).rcb + 0x24) 1 = false) :
    hotEvict s q = { s with host := (hwrite s ((getQ s q).rcb + 0x24) [0]).host, qe := { s.qe with hot := s.qe.hot.filter (· != q) } } := by
  unfold hotEvict hotOff
  rw [hw, if_neg Bool.false_ne_true, if_pos (List.contains_iff_mem.2 hq), hwrite_frame]

/-! The coalescing timer (R72). -/

theorem sendMsix_unmasked {s : State} {fn vec : Nat} (h : bit ((tfind (getFn s fn).msix (4 * vec + 3)).getD 1) 0 = false) :
    sendMsix s fn vec = { putFn s fn { getFn s fn with msgSent := (getFn s fn).msgSent + 1 } with
      qe := { (putFn s fn { getFn s fn with msgSent := (getFn s fn).msgSent + 1 }).qe with msgs := s.qe.msgs ++ [(fn, vec)] } } := by
  unfold sendMsix
  simp only [h]
  rfl

end Sys2Proof.Machine
end

section
/-! Descriptors in their rings. -/

open Sys2Proof Sys2Proof.Machine

/-- Settles O14, clause by clause: `descriptorStart_passes`, `takeSlot_free`, `descriptorComplete_record`, `hotEvict_ok` with
`checkQ_still`, and `sendMsix_unmasked`. -/
theorem descriptorsStartAndCompleteInTheirRings : Obligations.DescriptorsStartAndCompleteInTheirRings := by
  refine ⟨fun s u d n f g hf hph hstep hhead hheld hslot hg hheader htarget hfence hwait hcheck hnew hroom hop => ?_,
    fun s d f b hr hb hroom => ⟨takeSlot_free hr hb hroom, takeSlot_reserved s d rfl⟩,
    fun s d f hf hph hout hroom hatt hstep hrec hcmpl hsig hq hswap hdead hdrain hirq hw => ?_,
    fun s q b hq hidle hb hp hw => ?_, fun s q hirq hpend hcoal hold hmask => ?_⟩
  · obtain ⟨hqe, hframe, hin⟩ := enterIntake_facts (putF u d { g with phase := .started }) d g
    refine ⟨_, next_congr (descriptorStart_passes hf hph hstep hhead hheld hslot hg hheader htarget hfence hwait hcheck hnew hroom hop),
      ?_, ?_, ?_, hin⟩
    · rw [getF, hqe]
      exact getF_putF u d _
    · rw [hqe]
      rfl
    · rw [hframe]
      rfl
  · have hwp : hostBad (putF s d f) ((getQ s f.q).cqBase + 16 * ((getQ s f.q).written % 2 ^ (getQ s f.q).cqLog2)) 16 = false := hw
    refine ⟨_, next_congr (descriptorComplete_record hf hph hout hroom hatt hstep hrec hcmpl hsig hq hswap hdead hdrain hirq hw),
      getF_letGo _ d, hread_recordWritten hwp, ?_, ?_⟩
    · exact congrArg QCtx.written (getQ_putQ _ f.q _)
    · rw [letGo_frame, recordWritten_frame]
      rfl
  · generalize hu : hotEvict s q = u
    have hevict : u = _ := hu.symm.trans (hotEvict_ok hq hw)
    have hread_u : ∀ a n, hread u a n = hread (hwrite s ((getQ s q).rcb + 0x24) [0]) a n := fun a n => by
      rw [hevict, hwrite_frame]
      rfl
    have hgetQ : ∀ j, getQ u j = getQ s j := by rw [hevict]; exact fun _ => rfl
    have hbu : hread u (getQ u q).rcb 4 = some b := by
      rw [hgetQ, hread_u, hread_hwrite_outside s _ _ _ _ (.inl (by omega)), hb]
    have hzero : hread u ((getQ s q).rcb + 0x24) 1 = some [0] := (hread_u _ _).trans (hread_hwrite s _ [0] hw)
    have hrun : hotIdleEvict q s = checkQ u q := by
      unfold hotIdleEvict
      rw [if_pos (by simp [hq, hidle]), hu]
    have hhot : q ∉ u.qe.hot := by rw [hevict]; simp
    have hframe : u = { s with host := u.host, qe := u.qe } := by rw [hevict]
    have hqe : u.qe = { s.qe with hot := u.qe.hot, ctx := u.qe.ctx } := by rw [hevict]
    rcases checkQ_still hbu (by rw [hgetQ]; exact hp) with hstill | ⟨due, hdue⟩
    · refine ⟨u, next_congr (hrun.trans hstill), hhot, hzero, hframe, hqe, ?_, fun j _ => hgetQ j⟩
      rw [hgetQ]
    · refine ⟨_, next_congr (hrun.trans hdue), hhot, hzero, ?_, ?_, ?_, fun j hj => ?_⟩
      · rw [hframe]
        rfl
      · rw [hevict]
        rfl
      · rw [getQ_putQ, hgetQ]
      · rw [getQ_putQ_other _ _ _ _ hj, hgetQ]
  · have hrun : irqCoalTimer q s = fireIrq s q := if_pos ⟨hirq, hpend, hcoal, hold⟩
    refine ⟨_, next_congr (hrun.trans (sendMsix_unmasked hmask)), ?_, rfl, rfl⟩
    exact congrArg QCtx.pendingIrq (getQ_putQ s q _)
end

section
/-! SUPPORT. IDENTIFY, the binding of VFs and EVENT_WAIT (R41, R78-R80, R431, R432). -/

namespace Sys2Proof.Machine

variable {s : State} {d : Nat} {f : Flight}

/-- Bytes put out to a host buffer that takes them. -/
theorem hostOut_ok {a : Nat} {bs : List Byte} (h : hostBad s a bs.length = false) :
    hostOut s d a bs = endF (hwrite s a bs) d stOk bs.length := by
  unfold hostOut
  rw [h]
  rfl

/-- The ending of a descriptor changes the queue engine alone. -/
theorem endF_frame (s : State) (d st e : Nat) : endF s d st e = { s with qe := (endF s d st e).qe } := by
  unfold endF
  split <;> rfl

theorem hread_endF (s : State) (d st e a n : Nat) : hread (endF s d st e) a n = hread s a n := by
  unfold hread hostBad
  rw [endF_host, endF_hostFail]

/-- What the ending of a held descriptor shows, with nothing in its extra field. -/
theorem hasStatus_end (h : getF s d = some f) {st : Nat} : HasStatus (endF s d st 0) d st 0 := hasStatus_endF' h st 0 (Nat.zero_le _)

/-- The page that IDENTIFY gives for a page number of 0 to 3 (R79). -/
def identPage (s : State) (pg : Nat) : List Byte :=
  if pg = 0 then identPage0 s else if pg = 1 then identPage1 s else if pg = 2 then identPage2 s else identPage3 s

theorem identify_run (h : Runs s d 0xF001 f) (hpg : f.op 0x28 1 ≤ 3) (hz : f.zeroFrom 0x29 = true)
    (hw : hostBad s (f.op 0x20 8) (identPage s (f.op 0x28 1)).length = false) :
    identify d s = endF (hwrite s (f.op 0x20 8) (identPage s (f.op 0x28 1))) d stOk (identPage s (f.op 0x28 1)).length := by
  unfold identify
  rw [withOp_run h]
  dsimp only
  rw [refuseIf_pass (by simp [hz]; omega)]
  exact hostOut_ok hw

/-- The groups forgotten by a function: its table of doorbell values alone changes. -/
theorem getFn_forgetGroups_other (s : State) {fn first n j : Nat} (h : j ≠ fn) : getFn (forgetGroups s fn first n) j = getFn s j :=
  getFn_putFn_other s fn _ j h

/-- VF_BIND before its descriptor ends: the binding in CONFIG_UNLOCKED and the partition that names the VF. -/
def vfBound (s : State) (vf p g n : Nat) (x : Part) : State :=
  putP { s with vfs := tput s.vfs vf { part := p, firstGroup := g, groups := n, tdi := 1 } } p { x with vf := vf, hadVf := true }

/-- What R78 and R432 ask of a VF_BIND. -/
structure VfBindReady (s : State) (f : Flight) (x : Part) : Prop where
  tail : f.zeroFrom 0x26 = true
  vfLow : 1 ≤ f.op 0x20 1
  vfHigh : f.op 0x20 1 ≤ 16
  part : f.op 0x21 1 ≤ 15
  first : 1 ≤ f.op 0x22 2
  count : 1 ≤ f.op 0x24 2
  groups : f.op 0x22 2 + f.op 0x24 2 ≤ 1024
  partFound : getP s (f.op 0x21 1) = some x
  unbound : tfind s.vfs (f.op 0x20 1) = none
  noVf : x.vf = 0
  fresh : (x.sealed && x.hadVf) = false
  apart : ∀ e ∈ s.vfs, ¬ (e.2.firstGroup < f.op 0x22 2 + f.op 0x24 2 ∧ f.op 0x22 2 < e.2.firstGroup + e.2.groups)
  idle : ∀ e ∈ s.qe.ctx, e.2.st = .disabled ∨ ¬ (f.op 0x22 2 ≤ e.1 / 64 ∧ e.1 / 64 < f.op 0x22 2 + f.op 0x24 2)

theorem vfBind_run {x : Part} (h : Runs s d 0xF010 f) (hg : s.mgmt.gauntletWdt = false) (hr : VfBindReady s f x) :
    vfBind d s = endF (forgetGroups (forgetGroups (vfBound s (f.op 0x20 1) (f.op 0x21 1) (f.op 0x22 2) (f.op 0x24 2) x)
      0 (f.op 0x22 2) (f.op 0x24 2)) (f.op 0x20 1) (f.op 0x22 2) (f.op 0x24 2)) d stOk 0 := by
  obtain ⟨hz, h1, h2, h3, h4, h5, h6, hp, hv, hx, hfresh, hapart, hidle⟩ := hr
  have hover : (s.vfs.any fun e => decide (e.2.firstGroup < f.op 0x22 2 + f.op 0x24 2 ∧ f.op 0x22 2 < e.2.firstGroup + e.2.groups)) = false :=
    List.any_eq_false.2 fun e he => by simpa using hapart e he
  have hbusy : (s.qe.ctx.any fun e => e.2.st != .disabled && decide (f.op 0x22 2 ≤ e.1 / 64 ∧ e.1 / 64 < f.op 0x22 2 + f.op 0x24 2)) = false :=
    List.any_eq_false.2 fun e he => by
      rcases hidle e he with hst | hout
      · simp [hst]
      · rw [decide_eq_false hout, Bool.and_false]
        exact Bool.false_ne_true
  unfold vfBind
  rw [withGnt_run h hg]
  dsimp only
  rw [hp, Option.getD_some, hover, hbusy]
  refine (refuseIf_pass ?_ _).trans rfl
  have hf : ¬ (16 < f.op 0x20 1 ∨ 15 < f.op 0x21 1 ∨ f.op 0x22 2 = 0 ∨ f.op 0x24 2 = 0 ∨ 1024 < f.op 0x22 2 + f.op 0x24 2) := by omega
  have hvf : f.op 0x20 1 ≠ 0 := by omega
  simp [hz, hv, hx, hfresh, hvf]
  omega

/-- VF_UNBIND's draining of the VF's queues, and the binding that waits for its end. -/
def vfDraining (s : State) (vf d : Nat) : State :=
  let s1 := (activeQueues s vf).foldl drainQueue s
  { s1 with vfs := tmap s1.vfs fun k x => if k = vf then { x with unbindBy := some d } else x }

theorem vfDraining_frame (s : State) (vf d : Nat) :
    vfDraining s vf d = { s with host := (vfDraining s vf d).host, qe := (vfDraining s vf d).qe, vfs := (vfDraining s vf d).vfs } := by
  unfold vfDraining
  rw [(drainAll_facts (activeQueues s vf) s).1]

theorem vfDraining_vf {v : Vf} {vf : Nat} (hv : tfind s.vfs vf = some v) (d : Nat) :
    tfind (vfDraining s vf d).vfs vf = some { v with unbindBy := some d } := by
  unfold vfDraining
  rw [(drainAll_facts (activeQueues s vf) s).1]
  dsimp only
  rw [tfind_tmap, hv, Option.map_some, if_pos rfl]

theorem vfUnbind_run {v : Vf} (h : Runs s d 0xF011 f) (hg : s.mgmt.gauntletWdt = false) (hz : f.zeroFrom 0x21 = true)
    (hv : tfind s.vfs (f.op 0x20 1) = some v) (h2 : v.tdi ≠ 2) (h3 : v.tdi ≠ 3) :
    vfUnbind d s = putF (vfDraining s (f.op 0x20 1) d) d { f with phase := .running } := by
  unfold vfUnbind
  rw [withGnt_run h hg]
  simp [hv, hz, h2, h3, vfDraining]

/-- The end of an unbinding before its descriptor ends: no binding, a partition without a VF, the VF's registers as reset. -/
def vfReleased (s : State) (vf : Nat) (v : Vf) (x : Part) : State :=
  forgetGroups (putFn (putP { s with vfs := tdel s.vfs vf } v.part { x with vf := 0 }) vf {}) 0 v.firstGroup v.groups

theorem vfUnbindDone_run {v : Vf} {x : Part} {vf : Nat} (hv : tfind s.vfs vf = some v) (hby : v.unbindBy = some d)
    (hidle : activeQueues s vf = []) (hp : getP s v.part = some x) : vfUnbindDone vf s = endF (vfReleased s vf v x) d stOk 0 := by
  obtain ⟨part, firstGroup, groups, tdi, unbindBy⟩ := v
  obtain rfl : unbindBy = some d := hby
  have hp1 : getP { s with vfs := tdel s.vfs vf } part = some x := hp
  unfold vfUnbindDone
  simp [hv, hidle, hp1, vfReleased]

/-- EVENT_WAIT with an event to give: the oldest one leaves the log for the host's buffer. -/
theorem eventWait_gives {r : LogRec} {rest : List LogRec} (h : Runs s d 0xF020 f) (hz : f.zeroFrom 0x28 = true)
    (hroom : s.log.parked.length < 16) (hr : s.log.undelivered = r :: rest) (hl : s.log.lost = 0) (hw : hostBad s (f.op 0x20 8) 64 = false) :
    eventWait d s = endF (hwrite { s with log := { s.log with undelivered := rest, lost := 0 } } (f.op 0x20 8) r.bytes) d stOk 0 := by
  unfold eventWait
  rw [withOp_run h]
  dsimp only
  rw [refuseIf_pass (by simp [hz]; omega), hr]
  dsimp only
  rw [if_pos hl]
  refine congrArg (fun st => endF _ d st 0) (if_neg (Bool.eq_false_iff.1 hw))

/-- EVENT_WAIT without an event waits as the youngest. -/
theorem eventWait_parks (h : Runs s d 0xF020 f) (hz : f.zeroFrom 0x28 = true) (hroom : s.log.parked.length < 16)
    (hr : s.log.undelivered = []) :
    eventWait d s = putF { s with log := { s.log with parked := s.log.parked ++ [d] } } d { f with phase := .parked } := by
  unfold eventWait
  rw [withOp_run h]
  dsimp only
  rw [refuseIf_pass (by simp [hz]; omega), hr]

end Sys2Proof.Machine
end

section
/-! Identity, VFs and events. -/

open Sys2Proof Sys2Proof.Machine

/-- Settles O15, clause by clause: `identify_run`, `vfBind_run`, `vfUnbind_run`, `vfUnbindDone_run`, `eventWait_gives` and
`eventWait_parks`. -/
theorem identityAndVirtualFunctions : Obligations.IdentityAndVirtualFunctions := by
  refine ⟨fun s d f page h hpg hz hpage hw => ?_,
    fun s d f x h hg hz h1 h2 h3 h4 h5 h6 hp hv hx hfresh hapart hidle => ?_,
    fun s d f v h hg hz hv h2 h3 => ?_, fun s vf d f v x hv hby hidle hf hp => ?_,
    fun s d f r rest h hz hroom hr hl hw hlen => ?_, fun s d f h hz hroom hr => ⟨_, next_congr (eventWait_parks h hz hroom hr), rfl⟩⟩
  · obtain rfl : page = identPage s (f.op 0x28 1) := hpage
    refine ⟨_, next_congr (identify_run h hpg hz hw), ?_, hasStatus_endF (f := f) ((getF_hwrite s _ _ d).trans h.1) _ _, ?_⟩
    · rw [hread_endF]
      exact hread_hwrite s _ _ hw
    · rw [endF_frame, hwrite_frame]
  · refine ⟨_, next_congr (vfBind_run h hg ⟨hz, h1, h2, h3, h4, h5, h6, hp, hv, hx, hfresh, hapart, hidle⟩), ?_, ?_,
      hasStatus_end (f := f) ?_, ?_⟩
    · rw [endF_vfs]
      exact tfind_tput_same s.vfs _ _
    · rw [getP, endF_parts]
      exact tfind_tput_same s.parts _ _
    · exact h.1
    · rw [endF_frame]
      rfl
  · refine ⟨_, next_congr (vfUnbind_run h hg hz hv h2 h3), vfDraining_vf hv d, getF_putF _ d _,
      (drainAll_facts (activeQueues s (f.op 0x20 1)) s).2, ?_⟩
    rw [vfDraining_frame]
    rfl
  · refine ⟨_, next_congr (vfUnbindDone_run hv hby hidle hp), ?_, ?_, fun h0 => ?_, hasStatus_end (f := f) ?_, ?_⟩
    · rw [endF_vfs]
      exact tfind_tdel_same s.vfs vf
    · rw [getP, endF_parts]
      exact tfind_tput_same s.parts _ _
    · rw [getFn, endF_qe_fns]
      exact (getFn_forgetGroups_other _ h0).trans (getFn_putFn _ vf {})
    · exact hf
    · rw [endF_frame]
      rfl
  · refine ⟨_, next_congr (eventWait_gives h hz hroom hr hl hw), ?_, ?_, hasStatus_end (f := f) ?_, ?_⟩
    · rw [hread_endF, ← hlen]
      exact hread_hwrite { s with log := { s.log with undelivered := rest, lost := 0 } } _ _ (by rw [hlen]; exact hw)
    · rw [endF_log, hwrite_log]
    · rw [getF_hwrite]
      exact h.1
    · rw [endF_frame, hwrite_frame]
end

section
/-! SUPPORT. Partitions created, destroyed, reset and moved between their states (R78, R312, R313, R337, R417, R438). -/

namespace Sys2Proof.Machine

variable {s : State} {d p : Nat} {f : Flight} {x : Part}

/-- What R78 asks of a PART_CREATE, `a` being the block of slots that it gets. -/
structure CreateReady (s : State) (f : Flight) (a : Nat) : Prop where
  part : f.op 0x20 1 ≤ 15
  flags : f.op 0x21 1 ≤ 3
  rows : f.op 0x24 4 ≠ 0
  tail : f.zeroFrom 0x2A = true
  fresh : getP s (f.op 0x20 1) = none
  policy : createPolicy s (f.op 0x20 1) (f.op 0x21 1) (f.op 0x22 1) (f.op 0x23 1) (f.op 0x24 4) (f.op 0x28 2) = false
  rowsFree : ∀ e ∈ s.parts, Nat.land e.2.rows (f.op 0x24 4) = 0
  filled : ∀ x ∈ s.gnt.fills, ∀ c ∈ x.slices, bit (f.op 0x24 4) (c / 16) = false
  waysA : (s.parts.map fun e => e.2.waysA).foldl (· + ·) 0 + f.op 0x22 1 ≤ 24
  waysB : (s.parts.map fun e => e.2.waysB).foldl (· + ·) 0 + f.op 0x23 1 ≤ 24
  slots : slotBlock s (f.op 0x28 2) = some a

/-- The partition that a PART_CREATE asks for, OFFLINE. -/
def askedPart (f : Flight) (a : Nat) : Part :=
  { sealed := bit (f.op 0x21 1) 0, hotSubst := bit (f.op 0x21 1) 1, rows := f.op 0x24 4
    waysA := f.op 0x22 1, waysB := f.op 0x23 1, firstSlot := a, slotCount := f.op 0x28 2 }

/-- The keys that a new partition draws (R417). -/
def drawnKeys (s : State) (f : Flight) : PartKeys :=
  { swap := some (Config.entropy s.gnt.drawn), sealing := if bit (f.op 0x21 1) 0 then some (Config.entropy (s.gnt.drawn + 1)) else none }

/-- The new partition with its keys, before capacities and fences are taken again. -/
def partAdded (s : State) (f : Flight) (a : Nat) : State :=
  let s1 := putP { s with sync := { s.sync with counters := tfilter s.sync.counters fun k _ => k / 1024 != f.op 0x20 1 } } (f.op 0x20 1) (askedPart f a)
  putKeys { s1 with gnt := { s1.gnt with drawn := s1.gnt.drawn + 2 } } (f.op 0x20 1) (drawnKeys s f)

theorem partCreate_run {a : Nat} (h : Runs s d 0xF100 f) (hg : s.mgmt.gauntletWdt = false) (hr : CreateReady s f a) :
    partCreate d s = endF (fencePart stOffline (recapAll (partAdded s f a)) (f.op 0x20 1)) d stOk 0 := by
  obtain ⟨hp, hfl, hrows, hz, hfresh, hpol, hfree, hfill, hA, hB, hslots⟩ := hr
  have hbusy : (s.parts.any fun e => Nat.land e.2.rows (f.op 0x24 4) != 0) = false :=
    List.any_eq_false.2 fun e he => by
      rw [hfree e he]
      decide
  have hfills : (s.gnt.fills.any fun x => x.slices.any fun c => bit (f.op 0x24 4) (c / 16)) = false :=
    List.any_eq_false.2 fun e he => by simpa using hfill e he
  unfold partCreate
  rw [withGnt_run h hg]
  dsimp only
  rw [hbusy, hfills, hslots, hfresh, hpol]
  refine (refuseIf_pass ?_ _).trans rfl
  have hfields : ¬ (15 < f.op 0x20 1 ∨ 3 < f.op 0x21 1 ∨ f.op 0x24 4 = 0) := by omega
  simp only [List.all_cons, List.all_nil, hz, decide_eq_false hfields]
  simp
  omega

/-- While no die is out, no clock lost and the towers are joined, nothing fences a partition (R366, R372). -/
theorem fenceCauses_none (h : s.fab.dieLost = [] ∧ s.fab.dieReset = [] ∧ s.fab.refLost = [] ∧ s.fab.severed = false) (p : Nat) (x : Part) :
    fenceCauses s p x = [] := by
  obtain ⟨h1, h2, h3, h4⟩ := h
  simp [fenceCauses, h1, h2, h3, h4]

/-- A partition without fences that nothing fences stays as it is. -/
theorem fencePart_none (h : s.fab.dieLost = [] ∧ s.fab.dieReset = [] ∧ s.fab.refLost = [] ∧ s.fab.severed = false) {st : Nat}
    (hp : getP s p = some x) (hx : x.fences = []) : fencePart st s p = putP s p { x with fences := [] } := by
  unfold fencePart
  simp [hp, hx, fenceCauses_none h]

/-- Creation ends with the partition added and its neighbours as they were. -/
theorem partAdded_fenced (h : s.fab.dieLost = [] ∧ s.fab.dieReset = [] ∧ s.fab.refLost = [] ∧ s.fab.severed = false) (f : Flight) (a : Nat) :
    fencePart stOffline (recapAll (partAdded s f a)) (f.op 0x20 1) = putP (recapAll (partAdded s f a)) (f.op 0x20 1) (askedPart f a) := by
  have hfab : (recapAll (partAdded s f a)).fab = s.fab := (recapAll_K (partAdded s f a)).part18 rfl
  have hget : getP (recapAll (partAdded s f a)) (f.op 0x20 1) = some (askedPart f a) := by
    rw [getP, (recapAll_K _).part19 rfl]
    exact tfind_tput_same s.parts _ _
  exact fencePart_none (x := askedPart f a) (by rw [hfab]; exact h) hget rfl

theorem partDestroy_run (h : Runs s d 0xF101 f) (hg : s.mgmt.gauntletWdt = false) (hp : f.op 0x20 1 ≤ 15) (hz : f.zeroFrom 0x21 = true)
    (hx : getP s (f.op 0x20 1) = some x) (hst : x.st = .offline) (hvf : x.vf = 0) :
    partDestroy d s = endF (destroyPart s (f.op 0x20 1)) d stOk 0 := by
  unfold partDestroy
  rw [withGnt_run h hg]
  dsimp only
  rw [hx]
  refine refuseIf_pass ?_ _
  simp [hz, hst, hvf, hp]

/-- Destruction takes the partition out of every table, then stores the fills it owes and takes the capacities again. -/
theorem destroyPart_shape (hx : getP s p = some x) : ∃ (s2 s3 : State) (owed : Older → Older),
    destroyPart s p = recapAll (putStored (putOlder s3 owed) 10) ∧ s3.parts = tdel s2.parts p ∧ s3.gnt.keys = tdel s2.gnt.keys p ∧
      s3.kv.pools = tdel s2.kv.pools p ∧ s3.mem.roots = tfilter s2.mem.roots (fun k _ => k / 32 != p) ∧
      s3.plauf.exports = tfilter s2.plauf.exports fun k _ => k / 256 != p := by
  unfold destroyPart
  rw [hx]
  dsimp only
  generalize List.foldl drainQueue _ _ = s2
  exact ⟨s2, _, _, rfl, rfl, rfl, rfl, rfl, rfl⟩

/-- What of a destroyed partition is gone. -/
theorem destroyPart_gone (hx : getP s p = some x) :
    getP (destroyPart s p) p = none ∧ tfind (destroyPart s p).gnt.keys p = none ∧ tfind (destroyPart s p).kv.pools p = none ∧
      (∀ k v, (k, v) ∈ (destroyPart s p).mem.roots → k / 32 ≠ p) ∧ (∀ k v, (k, v) ∈ (destroyPart s p).plauf.exports → k / 256 ≠ p) := by
  obtain ⟨s2, s3, owed, hshape, hparts, hkeys, hpools, hroots, hexports⟩ := destroyPart_shape hx
  rw [hshape]
  refine ⟨?_, ?_, ?_, fun k v hk => ?_, fun k v hk => ?_⟩
  · rw [getP, (recapAll_K _).part19 rfl, (putStored_K _ _).part19 rfl, (putOlder_K _ _).part19 rfl, hparts, tfind_tdel_same]
  · rw [(recapAll_K _).part7 rfl, (putStored_K _ _).part7 rfl, (putOlder_K _ _).part7 rfl, hkeys, tfind_tdel_same]
  · rw [(recapAll_K _).part3 rfl, (putStored_K _ _).part3 rfl, (putOlder_K _ _).part3 rfl, hpools, tfind_tdel_same]
  · rw [(recapAll_K _).part2 rfl, (putStored_K _ _).part2 rfl, (putOlder_K _ _).part2 rfl, hroots] at hk
    simpa using (List.mem_filter.1 hk).2
  · rw [(recapAll_K _).part20 rfl, (putStored_K _ _).part20 rfl, (putOlder_K _ _).part20 rfl, hexports] at hk
    simpa using (List.mem_filter.1 hk).2

theorem partReset_run (h : Runs s d 0xF102 f) (hp : f.op 0x20 1 ≤ 15) (hz : f.zeroFrom 0x21 = true) (hx : getP s (f.op 0x20 1) = some x) :
    partReset d s = endF (clearPart (putP s (f.op 0x20 1) { x with inReset := true }) (f.op 0x20 1)) d stOk 0 := by
  unfold partReset
  rw [withOp_run h]
  dsimp only
  rw [hx]
  refine refuseIf_pass ?_ _
  simp [hz, hp]

/-- The state that a PART_STATE's target code names (R78). -/
def targetState (code : Nat) : PState := if code = 0 then .online else if code = 1 then .parked else .offline

/-- PART_STATE of an unfenced partition none of whose descriptors sleeps: the target stands and the command waits. -/
theorem partState_run (h : Runs s d 0xF103 f) (hp : f.op 0x20 1 ≤ 15) (ht : f.op 0x21 1 ≤ 2) (hz : f.zeroFrom 0x22 = true)
    (hx : getP s (f.op 0x20 1) = some x) (hfence : x.fences = []) (hon : f.op 0x21 1 = 0 → s.pwr.pkg ≠ .trip ∧ 320 ≤ lowestLogic s)
    (hawake : ∀ e ∈ s.qe.flights, e.2.part = f.op 0x20 1 → e.2.trickle.asleep = false) :
    partState d s = putF (putP s (f.op 0x20 1) { x with st := targetState (f.op 0x21 1), target := some (x.st, d) }) d { f with phase := .running } := by
  have hnone : flightsOf (putF (putP s (f.op 0x20 1) { x with st := targetState (f.op 0x21 1), target := some (x.st, d) }) d { f with phase := .running })
      (fun g => g.part == f.op 0x20 1 && g.q != 0 && g.live && g.trickle.asleep) = [] := by
    unfold flightsOf
    rw [List.filter_eq_nil_iff.2 fun e he hsleep => ?_, List.map_nil]
    obtain ⟨⟨⟨hpart, -⟩, -⟩, hasleep⟩ := by simpa using hsleep
    rcases mem_tput _ _ _ _ he with rfl | hold
    · exact absurd (hawake _ (tfind_mem h.1) hpart) (by simpa using hasleep)
    · exact absurd (hawake e hold hpart) (by simpa using hasleep)
  have htrip : (f.op 0x21 1 == 0 && s.pwr.pkg == .trip) = false := by
    by_cases h0 : f.op 0x21 1 = 0
    · simp [(hon h0).1]
    · simp [h0]
  have hcold : (f.op 0x21 1 == 0 && decide (lowestLogic s < 320)) = false := by
    by_cases h0 : f.op 0x21 1 = 0
    · have := (hon h0).2
      simp [this]
    · simp [h0]
  unfold partState
  rw [withOp_run h]
  dsimp only
  rw [hx, htrip, hcold, refuseIf_pass (by simp [hz]; omega)]
  dsimp only
  rw [hfence, if_neg (by simp)]
  exact (ite_congr rfl (fun _ => rfl) fun _ => congrArg (List.foldl _ _) hnone).trans (ite_self _)

theorem partStateDone_run {was : PState} (hx : getP s p = some x) (ht : x.target = some (was, d))
    (hidle : x.st = .online ∨ ∀ e ∈ s.qe.flights, e.2.part = p → e.2.q = 0 ∨ e.2.live = false) :
    partStateDone p s = endF (putP s p { x with target := none }) d stOk 0 := by
  have hquiet : (x.st != .online && s.qe.flights.any (fun e => e.2.part == p && e.2.q != 0 && e.2.live && !e.2.trickle.asleep)) = false := by
    rcases hidle with hon | hall
    · simp [hon]
    · rw [List.any_eq_false.2 fun e he => ?_, Bool.and_false]
      intro hbusy
      obtain ⟨⟨⟨hpart, hq⟩, hlive⟩, -⟩ := by simpa using hbusy
      rcases hall e he hpart with h0 | hdead
      · exact hq h0
      · exact absurd hlive (by simp [hdead])
  unfold partStateDone
  simp [hx, ht, hquiet]

end Sys2Proof.Machine
end

section
/-! Partitions. -/

open Sys2Proof Sys2Proof.Machine

/-- Settles O16, clause by clause: `partCreate_run` with `partAdded_fenced`, `partDestroy_run` with `destroyPart_gone`,
`partReset_run` with `clearPart_facts`, `partState_run` and `partStateDone_run`. -/
theorem partitionsAreCreatedDestroyedResetAndMoved : Obligations.PartitionsAreCreatedDestroyedResetAndMoved := by
  refine ⟨fun s d a f h hg hp hfl hrows hz hfresh hpol hfree hfill hA hB hslots hfab => ?_,
    fun s d f x h hg hp hz hx hst hvf => ?_, fun s d f x h hp hz hx => ?_,
    fun s d f x h hp ht hz hx hfence hon hawake => ⟨_, next_congr (partState_run h hp ht hz hx hfence hon hawake), rfl⟩,
    fun s d p x was hx ht hidle => next_congr (partStateDone_run hx ht hidle)⟩
  · have hrun := partCreate_run h hg ⟨hp, hfl, hrows, hz, hfresh, hpol, hfree, hfill, hA, hB, hslots⟩
    rw [partAdded_fenced hfab] at hrun
    have hparts : (recapAll (partAdded s f a)).parts = tput s.parts (f.op 0x20 1) (askedPart f a) := (recapAll_K _).part19 rfl
    refine ⟨_, next_congr hrun, getP_putP _ _ _, ?_, fun q hq => ?_, ?_, ?_⟩
    · rw [putP_gnt, (recapAll_K _).part7 rfl]
      exact tfind_tput_same _ _ _
    · rw [getP_putP_other _ _ _ _ hq, getP, hparts, tfind_tput_other _ _ _ _ hq]
      rfl
    · rw [putP_mem, (recapAll_K _).part0 rfl]
      rfl
    · rw [putP_vfs, (recapAll_K _).part9 rfl]
      rfl
  · obtain ⟨h1, h2, h3, h4, h5⟩ := destroyPart_gone hx
    exact ⟨_, next_congr (partDestroy_run h hg hp hz hx hst hvf), h1, h2, h3, h4, h5, (destroyPart_K s _).part9 rfl, (destroyPart_K s _).part8 rfl⟩
  · obtain ⟨h1, h2, h3⟩ := clearPart_facts (putP s (f.op 0x20 1) { x with inReset := true }) (f.op 0x20 1)
    exact ⟨_, next_congr (partReset_run h hp hz hx), h1, h2, h3, (clearPart_K _ _).part9 rfl, (clearPart_K _ _).part7 rfl,
      (clearPart_K _ _).part12 rfl⟩
end

section
/-! SUPPORT. Package states, the power cap and the end of a TRIP (R482, R485, R487, R496, R509). -/

namespace Sys2Proof.Machine

variable {s : State} {d : Nat} {f : Flight}

theorem enterPkg_run (s : State) : enterPkg s .run = { s with pwr := { s.pwr with pkg := .run, level := 0, enabled := [0, 1, 2, 3, 4] } } := by
  unfold enterPkg
  simp

/-- PKG_STATE to RUN from any state but RUN and TRIP, warm enough: the package is in RUN at the level asked for. -/
theorem pkgState_enterRun (h : Runs s d 0xF110 f) (ht : f.op 0x20 1 = 3) (hl : f.op 0x21 1 ≤ 7) (hz : f.zeroFrom 0x22 = true)
    (htrip : s.pwr.pkg ≠ .trip) (hrun : s.pwr.pkg ≠ .run) (hwarm : 320 ≤ lowestLogic s) (hslew : s.pwr.slewTo = none)
    (hdrain : s.pwr.drainTo = none) :
    pkgState d s = endF { s with pwr := { s.pwr with pkg := .run, level := f.op 0x21 1, enabled := [0, 1, 2, 3, 4] } } d stOk (f.op 0x21 1) := by
  unfold pkgState
  rw [withOp_run h]
  dsimp only
  rw [ht, refuseIf_pass (by simp [hz, htrip, hrun, hwarm, hl]), if_neg (by simp [hslew, hdrain]), if_neg htrip, if_pos rfl, if_neg hrun, enterPkg_run]

/-- In RUN, PKG_STATE to RUN slews to the level asked for and waits. -/
theorem pkgState_slews (h : Runs s d 0xF110 f) (ht : f.op 0x20 1 = 3) (hl : f.op 0x21 1 ≤ 7) (hz : f.zeroFrom 0x22 = true)
    (hrun : s.pwr.pkg = .run) (hslew : s.pwr.slewTo = none) (hdrain : s.pwr.drainTo = none) :
    pkgState d s = putF { s with pwr := { s.pwr with slewTo := some (f.op 0x21 1, d) } } d { f with phase := .running } := by
  unfold pkgState
  rw [withOp_run h]
  dsimp only
  rw [ht, refuseIf_pass (by simp [hz, hrun, hl]), if_neg (by simp [hslew, hdrain]), if_neg (by rw [hrun]; decide), if_pos rfl, if_pos hrun]

/-- The package draining towards READY or STANDBY: it shows READY, with its deadline and its target (assumption 41). -/
def draining (s : State) (d : Nat) (f : Flight) (dest : Pkg) : State :=
  putF { s with pwr := { s.pwr with pkg := .ready, level := 0, drainAt := some (s.time.now + 5000000), drainTo := some (dest, d) } } d
    { f with phase := .running }

/-- With no sleeper to save, and a tenant's descriptor running, RUN drains. -/
theorem pkgState_drains (h : Runs s d 0xF110 f) (ht : f.op 0x20 1 = 2 ∨ f.op 0x20 1 = 1) (hz : f.zeroFrom 0x22 = true)
    (hrun : s.pwr.pkg = .run) (hon : f.op 0x20 1 = 1 → anyOnline s = false) (hawake : ∀ e ∈ s.qe.flights, e.2.trickle.asleep = false)
    (hlive : ∃ e ∈ s.qe.flights, e.1 ≠ d ∧ e.2.live = true ∧ e.2.q ≠ 0) (hslew : s.pwr.slewTo = none) (hdrain : s.pwr.drainTo = none) :
    pkgState d s = draining s d f (if f.op 0x20 1 = 1 then .standby else .ready) := by
  generalize hdest : (if f.op 0x20 1 = 1 then Pkg.standby else .ready) = dest
  have hsleep : ∀ e ∈ (draining s d f dest).qe.flights, e.2.trickle.asleep = false := fun e he => by
    rcases mem_tput _ _ _ _ he with rfl | hold
    · exact hawake (d, f) (tfind_mem h.1)
    · exact hawake e hold
  have hnone : flightsOf (draining s d f dest) (fun g => g.live && g.trickle.asleep && g.q != 0) = [] := by
    unfold flightsOf
    rw [List.filter_eq_nil_iff.2 fun e he => by simp [hsleep e he], List.map_nil]
  have hwaits : settleDrain (draining s d f dest) = draining s d f dest := by
    obtain ⟨e, he, hne, hl, hq⟩ := hlive
    have hmem : e ∈ (draining s d f dest).qe.flights := mem_tput_of hne he
    exact if_pos (List.any_eq_true.2 ⟨e, hmem, by simp [hl, hq, hawake e he]⟩)
  have hnot3 : f.op 0x20 1 ≠ 3 := by omega
  have hbusy : (f.op 0x20 1 == 1 && anyOnline s) = false := by
    by_cases h1 : f.op 0x20 1 = 1
    · simp [hon h1]
    · simp [h1]
  unfold pkgState
  rw [withOp_run h]
  dsimp only
  rw [hbusy, refuseIf_pass (by simp [hz, hrun, hnot3]; omega), if_neg (by simp [hslew, hdrain]), if_neg (by rw [hrun]; decide), if_neg hnot3,
    if_pos hrun, hdest]
  exact (congrArg (fun l => settleDrain (l.foldl (fun u e => trickleSaveOrStop u e stPreempted) (draining s d f dest))) hnone).trans hwaits

/-- In TRIP the package goes on to STANDBY: the ports are down and only islands 0 and 1 stay enabled. -/
theorem pkgState_tripStandby (h : Runs s d 0xF110 f) (ht : f.op 0x20 1 = 1) (hz : f.zeroFrom 0x22 = true) (htrip : s.pwr.pkg = .trip)
    (hon : anyOnline s = false) (hslew : s.pwr.slewTo = none) (hdrain : s.pwr.drainTo = none) :
    ∃ u, pkgState d s = endF u d stOk 0 ∧ u.pwr.pkg = .trip ∧ u.pwr.tripStandby = true ∧ u.pwr.enabled = s.pwr.enabled.filter (· < 2) := by
  have hp := portsLeave_pwr (List.range 32) s
  unfold pkgState
  rw [withOp_run h]
  dsimp only
  rw [ht, refuseIf_pass (by simp [hz, hon]), if_neg (by simp [hslew, hdrain]), if_pos htrip]
  generalize List.foldl _ s (List.range 32) = u at hp ⊢
  exact ⟨_, rfl, (congrArg Power.pkg hp).trans htrip, rfl, congrArg (fun p => p.enabled.filter (· < 2)) hp⟩

/-- A drain is over when nothing is started but sleepers and the host's own: the package is in its target state. -/
theorem settleDrain_over {p : Pkg} (hdrain : s.pwr.drainTo = some (p, d))
    (hidle : ∀ e ∈ s.qe.flights, e.2.live = true → e.2.q = 0 ∨ e.2.trickle.asleep = true) :
    settleDrain s = endF { enterPkg s p with pwr := { (enterPkg s p).pwr with drainAt := none, drainTo := none } } d stOk 0 := by
  have hnone : (s.qe.flights.any fun e => e.2.live && e.2.q != 0 && !e.2.trickle.asleep) = false :=
    List.any_eq_false.2 fun e he hbusy => by
      obtain ⟨⟨hl, hq⟩, hs⟩ := by simpa using hbusy
      rcases hidle e he hl with h0 | hsl
      · exact hq h0
      · simp [hsl] at hs
  unfold settleDrain
  simp [hdrain, hnone]

/-- Past the deadline with nothing left to stop, the drain is settled. -/
theorem readyDrainTimeout_over {t : Nat} {p : Pkg} (hat : s.pwr.drainAt = some t) (htime : t ≤ s.time.now) (hdrain : s.pwr.drainTo = some (p, d))
    (hidle : ∀ e ∈ s.qe.flights, e.2.live = true → e.2.q = 0 ∨ e.2.trickle.asleep = true) :
    readyDrainTimeout s = endF { enterPkg s p with pwr := { (enterPkg s p).pwr with drainAt := none, drainTo := none } } d stOk 0 := by
  have hnone : flightsOf s (fun f => f.live && f.stepOf.isNone && (f.q != 0 && !f.trickle.asleep)) = [] := by
    unfold flightsOf
    rw [List.filter_eq_nil_iff.2 fun e he hbusy => ?_, List.map_nil]
    obtain ⟨⟨hl, -⟩, hq, hs⟩ := by simpa using hbusy
    rcases hidle e he hl with h0 | hsl
    · exact hq h0
    · simp [hsl] at hs
  have hstop : stopWhere s stPreempted (fun f => f.q != 0 && !f.trickle.asleep) = s := congrArg (List.foldl _ s) hnone
  unfold readyDrainTimeout
  rw [hat]
  dsimp only
  rw [if_neg (Nat.not_lt.2 htime), hstop]
  exact settleDrain_over hdrain hidle

theorem powerCap_run (h : Runs s d 0xF111 f) (hw : f.op 0x20 2 = 0 ∨ 1200 ≤ f.op 0x20 2) (hz : f.zeroFrom 0x22 = true) :
    powerCap d s = endF { s with
      pwr := { s.pwr with hostCap := f.op 0x20 2 }
      th := { s.th with
        a := if f.op 0x20 2 = 0 then { s.th.a with lvlHost := 0 } else s.th.a
        b := if f.op 0x20 2 = 0 then { s.th.b with lvlHost := 0 } else s.th.b } } d stOk 0 := by
  have hfield : ¬ (0 < f.op 0x20 2 ∧ f.op 0x20 2 < 1200) := by omega
  unfold powerCap
  rw [withOp_run h]
  dsimp only
  exact refuseIf_pass (by rw [decide_eq_false hfield, hz]; rfl) _

/-- What leaving TRIP for READY shows, and what it keeps: the fuses due are blown and nothing else follows (R509, R541). -/
theorem leaveTrip_ready (hboot : bootEnded s = true) (hnot : s.pwr.tripStandby = false) :
    (leaveTrip s).pwr.pkg = .ready ∧ (leaveTrip s).pwr.tripCauses = [] ∧ (leaveTrip s).pwr.enabled = [0, 1, 2, 3, 4] ∧
      (4 ∈ s.pwr.tripCauses → (leaveTrip s).th.coolantLoss = false) ∧ (leaveTrip s).parts = s.parts ∧ (leaveTrip s).gnt.keys = s.gnt.keys := by
  refine ⟨?_, ?_, ?_, fun h4 => ?_, (leaveTrip_K s).part19 rfl, (leaveTrip_K s).part7 rfl⟩
  · unfold leaveTrip
    rw [(blowDue_K _).part12 rfl]
    have hended : ¬ (!bootEnded s) = true := by simp [hboot]
    exact (if_neg hended).trans (if_neg (by simp [hnot]))
  · unfold leaveTrip
    rw [(blowDue_K _).part12 rfl]
  · unfold leaveTrip
    rw [(blowDue_K _).part12 rfl]
    dsimp only
    rw [hnot]
    rfl
  · unfold leaveTrip
    rw [(blowDue_K _).part13 rfl]
    exact if_pos (List.contains_iff_mem.2 h4)

theorem tripAck_run (h : Runs s d 0xF112 f) (hz : f.zeroFrom 0x20 = true) (htrip : s.pwr.pkg = .trip) (hclear : tripClear s = true) :
    tripAck d s = endF (leaveTrip s) d stOk 0 := by
  unfold tripAck
  rw [withOp_run h]
  exact refuseIf_pass (by simp [hz, htrip, hclear]) _

end Sys2Proof.Machine
end

section
/-! Package states and power. -/

open Sys2Proof Sys2Proof.Machine

/-- Settles O17, clause by clause: the `pkgState` lemmas, `readyDrainTimeout_over`, `powerCap_run` and `tripAck_run`; the slew's
end is by definition. -/
theorem packageStatesCapsAndTrips : Obligations.PackageStatesCapsAndTrips := by
  refine ⟨fun s d f h ht hl hz htrip hrun hwarm hslew hdrain => ⟨_, next_congr (pkgState_enterRun h ht hl hz htrip hrun hwarm hslew hdrain), rfl⟩,
    fun s d f h ht hl hz hrun hslew hdrain => next_congr (pkgState_slews h ht hl hz hrun hslew hdrain),
    fun s d f h ht hz hrun hon _ hawake hlive hslew hdrain =>
      ⟨_, next_congr (pkgState_drains h ht hz hrun hon hawake hlive hslew hdrain), rfl, rfl, rfl, rfl, getF_putF _ d _⟩,
    fun s d f h ht hz htrip hon hslew hdrain => ?_, fun s l d hslew => ?_, fun s t d p hat htime hdrain hidle => ?_,
    fun s d f h hw hz => ⟨_, next_congr (powerCap_run h hw hz), rfl, fun h0 => ?_, fun h0 => ?_⟩,
    fun s d f h hz htrip hclear hboot hnot => ⟨_, next_congr (tripAck_run h hz htrip hclear), leaveTrip_ready hboot hnot⟩⟩
  · obtain ⟨u, hu, h1⟩ := pkgState_tripStandby h ht hz htrip hon hslew hdrain
    exact ⟨u, next_congr hu, h1⟩
  · refine next_congr ?_
    unfold levelSlewDone
    rw [hslew]
  · obtain ⟨hpkg, hlevel⟩ := enterPkg_pwr s p
    exact ⟨_, next_congr (readyDrainTimeout_over hat htime hdrain hidle), hpkg, hlevel, rfl, rfl⟩
  · dsimp only
    rw [if_neg h0, if_neg h0]
  · dsimp only
    rw [if_pos h0, if_pos h0]
    exact ⟨rfl, rfl⟩
end

section
/-! SUPPORT. Bandwidth: registrations released, classes monitored, capacities recomputed, misses recorded (R350-R357). -/

namespace Sys2Proof.Machine

variable {s : State} {d : Nat} {f : Flight}

/-- A registration as R350 has it, without what follows from the others on its resource. -/
def Reg.asked (r : Reg) : Nat × Nat × Nat × Nat × Nat := (r.part, r.cls, r.res, r.rate, r.burst)

/-- A recomputation keeps what each registration of the resource asked for. -/
theorem recompute_asked {h r : Nat} {x : Reg} (hx : tfind s.bw.regs h = some x) (hr : x.res = r) :
    (tfind (recompute s r).bw.regs h).map Reg.asked = some x.asked := by
  obtain ⟨y, hy, hkept⟩ := recompute_reg s r h x hx
  rw [hy, Option.map_some]
  exact congrArg some (hkept hr)

/-- The admitted registration stands as asked for under the lowest free handle, and the capacity applied is that of now. -/
theorem recompute_addReg (s : State) (f : Flight) :
    (tfind (recompute (addReg s f) (f.op 0x22 2)).bw.regs (freeHandle s)).map Reg.asked = some (askedReg f).asked ∧
      tfind (recompute (addReg s f) (f.op 0x22 2)).bw.capacity (f.op 0x22 2) = some (capacity s (f.op 0x22 2)) := by
  refine ⟨recompute_asked (tfind_tput_same _ _ _) rfl, ?_⟩
  rw [recompute_cap]
  exact congrArg some (settle_capacity s _ _)

/-- The state with a registration taken away, before effective rates are recomputed. -/
def dropReg (s : State) (h r : Nat) : State :=
  let t := settleBuckets s r
  { t with bw := { t.bw with regs := tdel t.bw.regs h } }

theorem bwRelease_run {x : Reg} (h : Runs s d 0xF121 f) (hx : tfind s.bw.regs (f.op 0x20 2) = some x) (hz : f.zeroFrom 0x22 = true) :
    bwRelease d s = endF (recompute (dropReg s (f.op 0x20 2) x.res) x.res) d stOk 0 := by
  unfold bwRelease
  rw [withOp_run h]
  simp [hx, hz, dropReg]

/-- A class whose mode is written. -/
def monitored (x : Part) (cls mode : Nat) : Part := { x with bw := tput x.bw cls { (tfind x.bw cls).getD {} with mode := mode } }

theorem bwMonitor_run {x : Part} (h : Runs s d 0xF122 f) (hp : f.op 0x20 1 ≤ 15) (hc : f.op 0x21 1 ≤ 7) (hm : f.op 0x22 1 ≤ 3)
    (hz : f.zeroFrom 0x23 = true) (hx : getP s (f.op 0x20 1) = some x) :
    bwMonitor d s = endF (putP s (f.op 0x20 1) (monitored x (f.op 0x21 1) (f.op 0x22 1))) d stOk 0 := by
  unfold bwMonitor
  rw [withOp_run h]
  dsimp only
  rw [hx, refuseIf_pass (by simp [hz]; omega)]
  rfl

/-- A recomputation by command applies the capacity of now and keeps what was asked for. -/
theorem recomputeNow_facts (s : State) (r : Nat) : tfind (recomputeNow s r).bw.capacity r = some (capacity s r) ∧
    ∀ h x, tfind s.bw.regs h = some x → x.res = r → (tfind (recomputeNow s r).bw.regs h).map Reg.asked = some x.asked := by
  refine ⟨(recompute_cap _ r).trans (congrArg some (settle_capacity s r r)), fun h x hx hr => recompute_asked ?_ hr⟩
  rw [settle_regs, hx]

/-- An interval in which every waiting registration had what it is guaranteed, or is of class 0 or 1, records nothing. -/
theorem missInterval_none {waited : List (Nat × Nat)}
    (h : ∀ e ∈ waited, ∀ r, tfind s.bw.regs e.1 = some r → r.cls < 2 ∨ r.eff * 100 ≤ e.2 + 2048) : missInterval waited s = s := by
  refine foldl_id _ s waited fun e he => ?_
  cases hr : tfind s.bw.regs e.1 with
  | none => simp
  | some r =>
    have hmet := h e he r hr
    exact if_neg (by omega)

/-- A miss counted in a partition's class (R356). -/
def missCounted (x : Part) (cls : Nat) : Part :=
  { x with bw := tput x.bw cls { (tfind x.bw cls).getD {} with misses := (((tfind x.bw cls).getD {}).misses + 1) % 2 ^ 64 } }

/-- In mode 1 a miss is counted and not recorded. -/
theorem missInterval_counts {h used : Nat} {r : Reg} {x : Part} (hr : tfind s.bw.regs h = some r) (hc : 2 ≤ r.cls)
    (hmiss : used + 2048 < r.eff * 100) (hx : getP s r.part = some x) (hm : ((tfind x.bw r.cls).getD {}).mode = 1) :
    missInterval [(h, used)] s = putP s r.part (missCounted x r.cls) := by
  unfold missInterval
  rw [List.foldl_cons, List.foldl_nil, hr]
  dsimp only
  rw [if_pos ⟨hc, hmiss⟩]
  unfold recordMiss
  simp [hr, hx, hm, missCounted]

theorem guaranteeMissedWindow_clears {h : Nat} {r : Reg} (hr : tfind s.bw.regs h = some r) (h0 : r.missUntil ≠ 0)
    (htime : r.missUntil ≤ s.time.now) (hm : r.missed = 0) :
    guaranteeMissedWindow h s = { s with bw := { s.bw with regs := tput s.bw.regs h { r with missUntil := 0 } } } := by
  unfold guaranteeMissedWindow
  rw [hr]
  dsimp only
  rw [if_neg (by omega), if_pos hm]

end Sys2Proof.Machine
end

section
/-! Bandwidth. -/

open Sys2Proof Sys2Proof.Machine

/-- Settles O18, clause by clause: `bwRegister_of_ready` with `recompute_addReg`, `bwRelease_run`, `bwMonitor_run`,
`recomputeNow_facts`, the `missInterval` lemmas and `guaranteeMissedWindow_clears`. -/
theorem bandwidthIsRegisteredReleasedAndWatched : Obligations.BandwidthIsRegisteredReleasedAndWatched := by
  refine ⟨fun s d f h hp hc hr hb hres hz hx hfree hfits => ?_, fun s d f x h hx hz => ?_,
    fun s d f x h hp hc hm hz hx => next_congr (bwMonitor_run h hp hc hm hz hx), fun s r hr => ?_,
    fun s waited h => next_congr (missInterval_none h), fun s waited h used r x hw hr hc hmiss hx hm => ?_,
    fun s h r hr h0 htime hm => next_congr (guaranteeMissedWindow_clears hr h0 htime hm)⟩
  · obtain ⟨hreg, hcap⟩ := recompute_addReg s f
    have hrun := (bwRegister_of_ready h ⟨hp, hc, hr, hb, hres, hz, hx, hfree⟩).trans (if_neg (Nat.not_lt.2 hfits))
    refine ⟨_, next_congr hrun, hreg, hcap, ?_, ?_⟩
    · exact ((recompute_K (addReg s f) _).part19 rfl).trans ((settleBuckets_K s _).part19 rfl)
    · exact ((recompute_K (addReg s f) _).part18 rfl).trans ((settleBuckets_K s _).part18 rfl)
  · refine ⟨_, next_congr (bwRelease_run h hx hz), recompute_none _ _ _ (tfind_tdel_same _ _), ?_, ?_⟩
    · exact ((recompute_K (dropReg s _ x.res) _).part19 rfl).trans ((settleBuckets_K s _).part19 rfl)
    · exact ((recompute_K (dropReg s _ x.res) _).part18 rfl).trans ((settleBuckets_K s _).part18 rfl)
  · obtain ⟨hcap, hkept⟩ := recomputeNow_facts s r
    exact ⟨_, next_congr (if_pos hr), hcap, (recomputeNow_K s r).part19 rfl, hkept⟩
  · subst hw
    exact next_congr (missInterval_counts hr hc hmiss hx hm)
end

section
/-! SUPPORT. Settings records: stored, edited, read, and LIFETIME's hourly write (R530-R535). -/

namespace Sys2Proof.Machine

variable {s : State} {d : Nat} {f : Flight}

theorem getRec_eq {t u : State} {i : Nat} (h : tfind t.mgmt.records i = tfind u.mgmt.records i) : getRec t i = getRec u i := by
  unfold getRec
  rw [h]

/-- The records that a STORE with a mask writes. -/
def maskedRecs (m : Nat) : List Nat := (List.range 12).filter fun i => isSetting i && bit m i

theorem mem_maskedRecs {m i : Nat} (hi : i < 12) : i ∈ maskedRecs m ↔ isSetting i = true ∧ bit m i = true := by
  simp [maskedRecs, hi]

theorem nodup_maskedRecs (m : Nat) : (maskedRecs m).Nodup := List.Nodup.filter _ List.nodup_range

/-- The end of a STORE: a stored topology settles the ports and lets go of a HELD package that now agrees. -/
def storeEnd (l : List Nat) (s : State) : State :=
  let s3 := if l.contains 3 then evalPorts s else s
  if l.contains 3 && s3.pwr.pkg == .held && (checkResult s3).1 == 0 then { s3 with pwr := { s3.pwr with pkg := .ready } } else s3

theorem storeEnd_keeps (l : List Nat) (s : State) : (storeEnd l s).mgmt.records = s.mgmt.records ∧ (storeEnd l s).parts = s.parts ∧
    (storeEnd l s).gnt.keys = s.gnt.keys := by
  unfold storeEnd
  dsimp only
  generalize hu : (if l.contains 3 then evalPorts s else s) = u
  have h3 : u.mgmt.records = s.mgmt.records ∧ u.parts = s.parts ∧ u.gnt.keys = s.gnt.keys := by
    rw [← hu]
    split
    · exact ⟨(evalPorts_K s).part21 rfl, (evalPorts_K s).part19 rfl, (evalPorts_K s).part7 rfl⟩
    · exact ⟨rfl, rfl, rfl⟩
  split <;> exact h3

/-- The state whose stored records a STORE has counted and written to LIFETIME, with its event. -/
def storeCounted (s : State) : State :=
  emit (writeLife { s with mgmt := { s.mgmt with life := { s.mgmt.life with stores := s.mgmt.life.stores + 1 } } }) 7 5 {} []

theorem getRec_storeCounted (s : State) {i : Nat} (h : i ≠ 6) : getRec (storeCounted s) i = getRec s i := by
  refine getRec_eq ?_
  unfold storeCounted
  rw [emit_mgmt]
  exact (writeLife_facts _).1 i h

theorem store_run (h : Runs s d 0xF130 f) (hz : f.zeroFrom 0x22 = true) (hm : f.op 0x20 2 ≠ 0) :
    store d [] s = endF (storeEnd (maskedRecs (f.op 0x20 2)) (storeCounted (storeList s [] (maskedRecs (f.op 0x20 2))).1)) d stOk 0 := by
  have hl : ((List.range 12).filter fun i => isSetting i && (if f.op 0x20 2 = 0 then isEdited s i else bit (f.op 0x20 2) i)) =
      maskedRecs (f.op 0x20 2) := by
    simp only [if_neg hm]
    rfl
  have hread : (storeList s [] (maskedRecs (f.op 0x20 2))).2 = false := (storeList_facts _ s (nodup_maskedRecs _)).1
  unfold store
  rw [withOp_run h]
  dsimp only
  rw [refuseIf_pass (by simp [hz]), hl, hread]
  rfl

/-- What a STORE leaves of each record but LIFETIME. -/
theorem getRec_stored (s : State) (m : Nat) {i : Nat} (hi : i < 12) (h6 : i ≠ 6) :
    getRec (storeEnd (maskedRecs m) (storeCounted (storeList s [] (maskedRecs m)).1)) i =
      if isSetting i = true ∧ bit m i = true then writeCopy (getRec s i) true else getRec s i := by
  rw [getRec_eq (congrArg (tfind · i) (storeEnd_keeps _ _).1), getRec_storeCounted _ h6,
    (storeList_facts _ s (nodup_maskedRecs _)).2]
  simp only [mem_maskedRecs hi]

theorem storeCounted_parts (s : State) : (storeCounted s).parts = s.parts ∧ (storeCounted s).gnt.keys = s.gnt.keys := by
  unfold storeCounted
  rw [emit_parts, emit_gnt]
  exact ⟨rfl, rfl⟩

/-- SETTING_WRITE of bytes that the record takes: they stand in its shadow. -/
theorem settingWrite_run {data : List Byte} {i : Nat} (h : Runs s d 0xF131 f) (hi : f.op 0x20 1 = i) (hlow : i < 12)
    (hset : isSetting i = true) (h0 : i ≠ 0) (h1 : i ≠ 1) (h2 : i = 2 → bit s.gnt.policy.flags 4 = true)
    (hfit : 64 * f.op 0x22 2 + f.op 0x24 4 ≤ recSize i) (hz : f.zero 0x21 1 = true) (hzf : f.zeroFrom 0x30 = true)
    (hread : hread s (f.op 0x28 8) (f.op 0x24 4) = some data) (hok : editOk s i (64 * f.op 0x22 2) data = true) :
    settingWrite d s = endF (editShadow s i (64 * f.op 0x22 2) data) d stOk 0 := by
  have hpolicy : (!isSetting i || i == 0 || i == 1 || (i == 2 && !bit s.gnt.policy.flags 4)) = false := by
    by_cases hi2 : i = 2
    · simp [hset, h0, h1, h2 hi2]
    · simp [hset, h0, h1, hi2]
  unfold settingWrite
  rw [withOp_run h]
  dsimp only
  rw [hi, if_neg (by simp [hz, hzf, hlow]; omega), hread]
  dsimp only
  rw [hpolicy, hok]
  exact refuseIf_pass (by simp) _

theorem hread_data {a n : Nat} {bs : List Byte} (h : hread s a n = some bs) : bs.length = n := by
  unfold hread at h
  split at h
  · cases h
  · cases h
    simp [mreadN]

/-- A whole record 9 whose fields are in range is a good body (R530). -/
theorem editOk_record9 {data : List Byte} (hlen : data.length = 64) (hv : fld data 0 2 = 1) (ha : fld data 2 2 < 2) (hb : fld data 8 2 ≤ 5000)
    (hz : zeroAt data 10 54 = true) : editOk s 9 0 data = true := by
  have hbody : ((recBytes s 9 false (recSize 9)).1.take 0 ++ data ++ (recBytes s 9 false (recSize 9)).1.drop (0 + data.length)) = data := by
    have hold : (recBytes s 9 false (recSize 9)).1.length = 64 := by simp [recBytes, recSize, mreadN]
    rw [hlen, List.take_zero, List.nil_append, List.drop_eq_nil_of_le (by omega), List.append_nil]
  unfold editOk
  dsimp only
  rw [hbody]
  simp [bodyOk, hv, ha, hb, hz]

/-- SETTING_READ of the shadow of a record kept as bytes. -/
theorem settingRead_run {i : Nat} (h : Runs s d 0xF132 f) (hi : f.op 0x20 1 = i) (hbytes : i = 4 ∨ i = 8 ∨ i = 9) (hsh : f.op 0x21 1 = 0)
    (hn : f.op 0x24 4 ≠ 0) (hfit : f.op 0x24 4 ≤ recSize i) (hz : f.zero 0x22 2 = true) (hzf : f.zeroFrom 0x30 = true)
    (hw : hostBad s (f.op 0x28 8) (f.op 0x24 4) = false) :
    settingRead d s = endF (hwrite s (f.op 0x28 8) (mreadN (getRec s i).shadow 0 (f.op 0x24 4))) d stOk (f.op 0x24 4) := by
  have hrec : recBytes s i false (f.op 0x24 4) = (mreadN (getRec s i).shadow 0 (f.op 0x24 4), s) := by
    rcases hbytes with rfl | rfl | rfl <;> rfl
  have hlen : (mreadN (getRec s i).shadow 0 (f.op 0x24 4)).length = f.op 0x24 4 := by simp [mreadN]
  unfold settingRead
  rw [withOp_run h]
  dsimp only
  rw [hi, hsh, refuseIf_pass (by simp [hz, hzf, hn]; omega), Nat.min_eq_left hfit]
  rw [show ((0 : Nat) == 1) = false from rfl, hrec]
  dsimp only
  rw [hostOut_ok (by rw [hlen]; exact hw), hlen]

end Sys2Proof.Machine
end

section
/-! Settings records. -/

open Sys2Proof Sys2Proof.Machine

/-- Settles O19, clause by clause: `store_run` with `getRec_stored`, `settingWrite_run`, `settingRead_run`, and `writeLife_facts`
for the hourly write. -/
theorem settingsRecordsAreEditedReadAndStored : Obligations.SettingsRecordsAreEditedReadAndStored := by
  refine ⟨fun s d f i h hz hm hi h6 => ⟨_, next_congr (store_run h hz hm), fun hin => ?_, fun hout => ?_, ?_, ?_⟩,
    fun s d f data h hi hpol hz hzf hfit hread => ?_, fun s d f data h hi hoff hn hz hzf hread hv ha hb hzero => ?_,
    fun s d f h hi hsh hn hfit hz hzf hw => next_congr (settingRead_run h rfl hi hsh hn hfit hz hzf hw), fun s => ?_⟩
  · rw [getRec_stored s _ hi h6, if_pos hin]
    exact writeCopy_facts _
  · rw [getRec_stored s _ hi h6, if_neg]
    rintro ⟨h1, h2⟩
    rcases hout with h | h
    · rw [h] at h1; cases h1
    · rw [h] at h2; cases h2
  · rw [(storeEnd_keeps _ _).2.1, (storeCounted_parts _).1, (storeList_K s [] _).part19 rfl]
  · rw [(storeEnd_keeps _ _).2.2, (storeCounted_parts _).2, (storeList_K s [] _).part7 rfl]
  · exact next_congr (settingWrite_run h hi (by decide) rfl (by decide) (by decide) (fun _ => hpol) hfit hz hzf hread rfl)
  · rw [← hn] at hread
    have hrun := settingWrite_run h hi (by decide) rfl (by decide) (by decide) (fun h2 => absurd h2 (by decide)) (by rw [hoff, hn]; decide) hz hzf hread
      (by rw [hoff]; exact editOk_record9 ((hread_data hread).trans hn) hv ha hb hzero)
    rw [hoff] at hrun
    exact next_congr hrun
  · obtain ⟨hother, hparts, -⟩ := writeLife_facts s
    refine ⟨_, rfl, fun i hi => getRec_eq (hother i hi), rfl, ?_, hparts⟩
    have h6 : getRec (writeLife s) 6 = writeCopy (getRec s 6) true := getRec_putRec _ 6 _
    change (inForce (getRec (writeLife s) 6)).map _ = _
    rw [h6, (writeCopy_facts _).2.2]
    rfl
end

section
/-! SUPPORT. Topology read and accepted, firmware staged and activated (R519, R520, R538-R541). -/

namespace Sys2Proof.Machine

variable {s : State} {d : Nat} {f : Flight}

/-- The report of a TOPO_READ (R519). -/
def topoReport (s : State) : List Byte :=
  padTo 0x40 (toLe 1 (checkResult s).1 ++ toLe 1 0 ++ toLe 2 (checkResult s).2.length)
    ++ padTo (0x1000 - 0x40) (((checkResult s).2.take 496).flatMap fun e =>
      toLe 1 e.1 ++ toLe 1 0 ++ toLe 2 e.2.1 ++ toLe 2 e.2.2.1 ++ toLe 2 e.2.2.2)
    ++ topoBytes (discovered s) ++ (match s.mgmt.expected with | some x => topoBytes x | none => List.replicate 4096 0)

theorem topoRead_run (h : Runs s d 0xF190 f) (hz : f.zeroFrom 0x28 = true) (hw : hostBad s (f.op 0x20 8) (topoReport s).length = false) :
    topoRead d s = endF (hwrite s (f.op 0x20 8) (topoReport s)) d stOk 0 := by
  unfold topoRead
  rw [withOp_run h, hz]
  exact (if_neg (by decide)).trans (if_neg (ne_true_of_eq_false hw))

/-- TOPO_ACCEPT in HELD, past its checks, without the store. -/
theorem topoAccept_lets (h : Runs s d 0xF191 f) (hf : f.op 0x20 1 = 0) (hz : f.zeroFrom 0x21 = true) (hheld : s.pwr.pkg = .held) (ok : Bool) :
    topoAccept d ok s = endF { s with pwr := { s.pwr with pkg := .ready } } d stOk 0 := by
  unfold topoAccept
  rw [withOp_run h]
  dsimp only
  rw [hf, refuseIf_pass (by simp [hz, hheld])]
  rfl

/-- TOPO_ACCEPT with the store, before the ports are settled: the discovered topology is expected and its record written. -/
def topoStored (s : State) : State :=
  putRec { s with
    pwr := { s.pwr with pkg := .ready }
    mgmt := { s.mgmt with
      topoShadow := some (discovered s), expected := some (discovered s), older := { s.mgmt.older with expected := s.mgmt.expected } } } 3
    (writeCopy (getRec s 3) true)

theorem topoAccept_stores (h : Runs s d 0xF191 f) (hf : f.op 0x20 1 = 1) (hz : f.zeroFrom 0x21 = true) (hheld : s.pwr.pkg = .held) :
    topoAccept d true s = endF (evalPorts (topoStored s)) d stOk 0 := by
  unfold topoAccept
  rw [withOp_run h]
  dsimp only
  rw [hf, refuseIf_pass (by simp [hz, hheld])]
  exact (if_neg (by decide)).trans (if_pos rfl)

/-- The firmware image that a file's header names. -/
def headImage (b : List Byte) : Image := { version := fld b 8 4, level := fld b 7 1, digest := fld b 0x10 48 }

/-- FW_STAGE of an image whose shape and level pass turns on the signatures alone. -/
theorem fwStage_run {b : List Byte} {n ty : Nat} (h : Runs s d 0xF170 f) (hg : s.mgmt.gauntletWdt = false) (hn : n = f.op 0x28 4)
    (hty : ty = f.op 0x2C 1) (hrec : s.mgmt.recovery = false) (hlen : 128 + sigBytes ≤ n) (hslot : (slotSize ty).isSome = true)
    (hz : f.zeroFrom 0x2D = true) (hread : hread s (f.op 0x20 8) n = some b) (hshape : imageShape b ty n = true)
    (hlevel : (getFw s ty).fuse ≤ fld b 7 1) :
    fwStage d s = if imageSigned b then
        endF (emit (putFw s ty { getFw s ty with slots := tput (getFw s ty).slots (inactiveSlot (getFw s ty)) (headImage b), armed := false }) 7 7 {} []) d stOk 0
      else refuseF s d rAuth := by
  subst hn hty
  have hsome : (slotSize (f.op 0x2C 1)).isNone = false := by
    rw [Option.isSome_iff_exists] at hslot
    obtain ⟨m, hm⟩ := hslot
    rw [hm]
    rfl
  unfold fwStage
  rw [withGnt_run h hg]
  dsimp only
  rw [hread, hsome, hrec, hz, if_neg (by simp), if_neg (by simp; omega)]
  dsimp only
  rw [hshape, if_neg (by simp)]
  cases imageSigned b
  · rfl
  · exact if_neg (Nat.not_lt.2 hlevel)

/-- FW_ACTIVATE of a type whose inactive slot holds an image, past its checks. -/
theorem fwActivate_run (h : Runs s d 0xF171 f) (hg : s.mgmt.gauntletWdt = false) (hslot : (slotSize (f.op 0x20 1)).isSome = true)
    (hlive : f.op 0x21 1 = 0 ∨ f.op 0x21 1 = 1 ∧ f.op 0x20 1 = 2) (hz : f.zeroFrom 0x22 = true)
    (himg : (tfind (getFw s (f.op 0x20 1)).slots (inactiveSlot (getFw s (f.op 0x20 1)))).isSome = true) :
    fwActivate d s = if f.op 0x21 1 = 0 then endF (putFw s (f.op 0x20 1) { getFw s (f.op 0x20 1) with armed := true }) d stOk 0
      else
        let x := getFw s (f.op 0x20 1)
        let s1 := putFw s (f.op 0x20 1) { x with active := inactiveSlot x, armed := false, liveFrom := some x.active, liveAt := s.time.now }
        endF (appendHeld { s1 with mgmt := { s1.mgmt with mittenDown := false } }) d stOk 0 := by
  obtain ⟨m, hm⟩ := Option.isSome_iff_exists.1 hslot
  obtain ⟨i, hi⟩ := Option.isSome_iff_exists.1 himg
  unfold fwActivate
  rw [withGnt_run h hg]
  dsimp only
  rw [refuseIf_pass]
  rcases hlive with h0 | ⟨h1, h2⟩
  · simp [hm, hi, hz, h0]
  · rw [h2] at hm hi
    simp [hm, hi, hz, h1, h2]

theorem getFw_eq {t u : State} (h : t.mgmt = u.mgmt) (i : Nat) : getFw t i = getFw u i := by
  unfold getFw
  rw [h]

/-- A fuse blown leaves the slot in force and where a live activation came from. -/
theorem getFw_blowFuse (s : State) (ty : Nat) : (getFw (blowFuse s ty) ty).liveFrom = (getFw s ty).liveFrom ∧
    (getFw (blowFuse s ty) ty).active = (getFw s ty).active := by
  unfold blowFuse
  dsimp only
  split
  · exact ⟨rfl, rfl⟩
  · split <;> exact ⟨by rw [getFw_putFw], by rw [getFw_putFw]⟩

theorem liveActivationCheck_final {old : Nat} (h : (getFw s 2).liveFrom = some old) (ht : (getFw s 2).liveAt + 60000000000 ≤ s.time.now) :
    liveActivationCheck true s = blowFuse (putFw s 2 { getFw s 2 with liveFrom := none }) 2 := by
  unfold liveActivationCheck
  simp [h, Nat.not_lt.2 ht]

theorem liveActivationCheck_falls {old : Nat} (h : (getFw s 2).liveFrom = some old) (ht : (getFw s 2).liveAt + 5000000000 ≤ s.time.now) :
    liveActivationCheck false s = emit (putFw s 2 { getFw s 2 with active := old, liveFrom := none }) 7 9 {} [] := by
  unfold liveActivationCheck
  simp [h, Nat.not_lt.2 ht]

end Sys2Proof.Machine
end

section
/-! Topology and firmware. -/

open Sys2Proof Sys2Proof.Machine

/-- Settles O20, clause by clause: `topoRead_run`, the two `topoAccept` lemmas, `fwStage_run`, `fwActivate_run` and the two
`liveActivationCheck` lemmas. -/
theorem topologyAndFirmwareAreReadAcceptedAndActivated : Obligations.TopologyAndFirmwareAreReadAcceptedAndActivated := by
  refine ⟨fun s d f bs h hz hbs hw => ?_, fun s d ok f h hf hz hheld => next_congr (topoAccept_lets h hf hz hheld ok),
    fun s d f h hf hz hheld => ⟨_, next_congr (topoAccept_stores h hf hz hheld), (evalPorts_K (topoStored s)).part12 rfl, ?_,
      (evalPorts_K (topoStored s)).part0 rfl, (evalPorts_K (topoStored s)).part7 rfl⟩,
    fun s d n ty f b h hg hn hty hrec hlen hslot hz hread hshape hlevel => ⟨_, next_congr
      (fwStage_run h hg hn hty hrec hlen hslot hz hread hshape hlevel), fun hs => if_neg (by simp [hs]), fun hs => ⟨_, if_pos hs, ?_, ?_⟩⟩,
    fun s d f h hg hslot hlive hz himg => next_congr ((fwActivate_run h hg hslot (.inl hlive) hz himg).trans (if_pos hlive)),
    fun s d f h hg hty hlive hz himg => ?_, fun s old h ht => ⟨_, next_congr (liveActivationCheck_final h ht), ?_, ?_⟩,
    fun s old h ht => ⟨_, next_congr (liveActivationCheck_falls h ht), ?_⟩⟩
  · subst hbs
    exact next_congr (topoRead_run h hz hw)
  · have hrec : getRec (topoStored s) 3 = writeCopy (getRec s 3) true := getRec_putRec _ 3 _
    exact (getRec_eq (congrArg (tfind · 3) ((evalPorts_K (topoStored s)).part21 rfl))).trans hrec
  · rw [getFw_eq (emit_mgmt _ _ _ _ _), getFw_putFw]
    rfl
  · rw [emit_parts]
    rfl
  · have hrun := (fwActivate_run h hg (by rw [hty]; rfl) (.inr ⟨hlive, hty⟩) hz (by rw [hty]; exact himg)).trans (if_neg (by rw [hlive]; decide))
    rw [hty] at hrun
    refine ⟨_, next_congr hrun, ?_, ?_⟩
    · rw [appendHeld_mgmt]
    · rw [getFw_eq (appendHeld_mgmt _)]
      exact getFw_putFw s 2 _
  · rw [(getFw_blowFuse _ 2).1, getFw_putFw]
  · rw [(getFw_blowFuse _ 2).2, getFw_putFw]
  · rw [getFw_eq (emit_mgmt _ _ _ _ _), getFw_putFw]
end

section
/-! SUPPORT. What the messages of the owner leave (R423-R438, R445-R447). -/

namespace Sys2Proof.Machine

variable {s : State} {d : Nat} {f : Flight} {b : List Byte} {m : Owner}

/-- What checks 1 to 5 of R421 ask of a message of a kind, but for its signatures and its sequence. -/
structure OwnerMsgRead (s : State) (d kind : Nat) (f : Flight) (b : List Byte) (m : Owner) : Prop where
  runs : Runs s d 0xF160 f
  up : s.mgmt.gauntletWdt = false
  kind_ : f.op 0x2C 1 = kind
  tail : f.zeroFrom 0x2D = true
  long : 0x40 + sigBytes ≤ f.op 0x28 4
  short : f.op 0x28 4 ≤ 65536
  read : hread s (f.op 0x20 8) (f.op 0x28 4) = some b
  parsed : parseOwner b (f.op 0x20 8) kind = some m
  allowed : kindOk s kind m = true
  device : fld b 0x10 16 = s.mgmt.idHash

/-- A message of kinds 1 to 4, newer than the stored sequence and with a good body: refused where its signatures fail, and
otherwise its effect follows the commit of record OWNER. -/
theorem ownerMsg_commits {kind : Nat} (hr : OwnerMsgRead s d kind f b m) (hseq : s.gnt.policy.ownerSeq < m.seq) (hk : kind ≤ 4)
    {body : Owner → Option State} {t : State} (hbody : body m = some t) (after : Owner → State → List Byte × State) :
    (signedOk s kind m = false → ownerMsg s d kind true body after = refuseF s d rAuth) ∧
      (signedOk s kind m = true → ∃ z : State, z.gnt = t.gnt ∧ z.cuff = t.cuff ∧
        ownerMsg s d kind true body after = ownerReply (after m z).2 d kind m (after m z).1) := by
  obtain ⟨h1, h2, h3, h4, h5, h6, h7, h8, h9, h10⟩ := hr
  obtain ⟨hbad, hgood⟩ := ownerMsg_run4 s d kind body after f b m h1 h2 h3 h4 h5 h6 h7 h8 h9 h10 hseq hk
  exact ⟨hbad, fun hs => hgood hs t hbody⟩

theorem policy_recapAll (s : State) : (recapAll s).gnt.policy = s.gnt.policy := (recapAll_K s).part6 rfl

theorem policy_loadCuff (s : State) : (loadCuff s).gnt.policy = s.gnt.policy := (loadCuff_K s).part6 rfl

/-- The policy of a new owner (R423, R424). -/
def claimedPolicy (s : State) (m : Owner) : Policy :=
  { flags := 1, debugCount := s.gnt.policy.debugCount, ownerSeq := m.seq, ownerHash := ownerHashOf ((m.body.drop 8).take 96)
    ecdsaKey := (m.body.drop 8).take 96, mldsaKey := (m.body.drop 0x68).take 2592 }

/-- The policy after RELEASE. -/
def releasedPolicy (s : State) : Policy := { debugCount := s.gnt.policy.debugCount, ownerSeq := s.gnt.policy.ownerSeq }

/-- The effect of CLAIM, TRANSFER and RELEASE, none where the body breaks its rules. -/
def claimEffect (s : State) (m : Owner) : Option State :=
  if m.body.length ≠ 0xA88 ∨ !zeroAt m.body 1 7 then none
  else if m.op = 2 then if zeroAt m.body 8 2688 then some (setPolicy s (releasedPolicy s)) else none
  else some (setPolicy s (claimedPolicy s m))

def claimAfter (s : State) (m : Owner) (t : State) : List Byte × State :=
  ([], recapAll (loadCuff (if m.op = 0 then t else setPolicy (destroyAll (setPolicy t s.gnt.policy)) t.gnt.policy)))

theorem ownerMsgClaim_eq (s : State) (d : Nat) (ok : Bool) : ownerMsgClaim d ok s = ownerMsg s d 1 ok (claimEffect s) (claimAfter s) := rfl

theorem claimEffect_owner (hlen : m.body.length = 0xA88) (hz : zeroAt m.body 1 7 = true) (hop : m.op = 0 ∨ m.op = 1) :
    claimEffect s m = some (setPolicy s (claimedPolicy s m)) := by
  have hnot : m.op ≠ 2 := by omega
  simp [claimEffect, hlen, hz, hnot]

theorem claimEffect_release (hlen : m.body.length = 0xA88) (hz : zeroAt m.body 1 7 = true) (hop : m.op = 2)
    (hkeys : zeroAt m.body 8 2688 = true) : claimEffect s m = some (setPolicy s (releasedPolicy s)) := by
  simp [claimEffect, hlen, hz, hop, hkeys]

/-- The policy in force after a CLAIM's partitions are gone is the one committed. -/
theorem claimAfter_policy (s : State) (m : Owner) (t : State) : (claimAfter s m t).2.gnt.policy = t.gnt.policy := by
  unfold claimAfter
  rw [policy_recapAll, policy_loadCuff]
  split
  · rfl
  · exact setPolicy_pol _ _

/-- The effect of a policy message, none where the policy does not parse, withdraws what is held or changes an open Cuff. -/
def policyEffect (s : State) (m : Owner) : Option State :=
  match parsePolicy s.gnt.policy m.body with
  | none => none
  | some new =>
    if withdraws s new || (!s.cuff.guestReset && !sameCuff s.gnt.policy new) then none
    else some (setPolicy s { new with ownerSeq := m.seq })

def policyAfter (s t : State) : List Byte × State :=
  ([], recapAll (if s.cuff.guestReset then loadCuff t else if bit t.gnt.policy.flags 2 then t else holdGuest t))

theorem ownerMsgPolicy_eq (s : State) (d : Nat) (ok : Bool) :
    ownerMsgPolicy d ok s = ownerMsg s d 2 ok (policyEffect s) (fun _ t => policyAfter s t) := rfl

theorem policyEffect_good {new : Policy} (hparse : parsePolicy s.gnt.policy m.body = some new) (hkeeps : withdraws s new = false)
    (hcuff : s.cuff.guestReset = true ∨ sameCuff s.gnt.policy new = true) :
    policyEffect s m = some (setPolicy s { new with ownerSeq := m.seq }) := by
  unfold policyEffect
  rw [hparse]
  rcases hcuff with hc | hc <;> exact if_neg (by simp [hkeeps, hc])

theorem policyAfter_policy (s t : State) : (policyAfter s t).2.gnt.policy = t.gnt.policy := by
  unfold policyAfter
  rw [policy_recapAll]
  split
  · exact policy_loadCuff t
  · split <;> rfl

/-- The effect of a pairing message, none where an entry breaks its range, or is there already, or is not there to remove. -/
def pairingEffect (s : State) (m : Owner) : Option State :=
  (pairEntries m.body).bind fun l => (pairStep (fld m.body 0 1 == 1) l s.gnt.policy.pairings).map fun t =>
    setPolicy s { s.gnt.policy with pairings := t, ownerSeq := m.seq }

def pairingAfter (m : Owner) (t : State) : List Byte × State :=
  ([], if fld m.body 0 1 = 1 then ((pairEntries m.body).getD []).foldl (fun u e => unpair u e.1) t else t)

theorem ownerMsgPairing_eq (s : State) (d : Nat) (ok : Bool) :
    ownerMsgPairing d ok s = ownerMsg s d 3 ok (pairingEffect s) pairingAfter := rfl

theorem pairingEffect_good {l : List (Nat × Pairing)} {p : Tbl Pairing} (hl : pairEntries m.body = some l)
    (hp : pairStep (fld m.body 0 1 == 1) l s.gnt.policy.pairings = some p) :
    pairingEffect s m = some (setPolicy s { s.gnt.policy with pairings := p, ownerSeq := m.seq }) := by
  unfold pairingEffect
  rw [hl, Option.bind_some, hp, Option.map_some]

theorem pairingAfter_policy (m : Owner) (t : State) : (pairingAfter m t).2.gnt.policy = t.gnt.policy := by
  unfold pairingAfter
  dsimp only
  split
  · exact foldl_pol (fun u e => unpair u e.1) (fun u e => (unpair_K u e.1).part6 rfl) ((pairEntries m.body).getD []) t
  · rfl

/-- The effect of a debug message, none where its scope or its reserved bytes break R447. -/
def debugEffect (s : State) (m : Owner) : Option State :=
  if m.body.length = 8 ∧ fld m.body 0 1 < 8 ∧ zeroAt m.body 1 7 then
    some (setPolicy s { s.gnt.policy with debugCount := (s.gnt.policy.debugCount + 1) % 2 ^ 32, ownerSeq := m.seq })
  else none

theorem ownerMsgDebug_eq (s : State) (d : Nat) (ok : Bool) :
    ownerMsgDebug d ok s = ownerMsg s d 4 ok (debugEffect s) (fun m t => ([], enterDebug t (fld m.body 0 1))) := rfl

theorem debugEffect_good (hlen : m.body.length = 8) (hscope : fld m.body 0 1 < 8) (hz : zeroAt m.body 1 7 = true) :
    debugEffect s m =
      some (setPolicy s { s.gnt.policy with debugCount := (s.gnt.policy.debugCount + 1) % 2 ^ 32, ownerSeq := m.seq }) :=
  if_pos ⟨hlen, hscope, hz⟩

/-- A key for sealing in, put in its slot (R434). -/
theorem releaseKey_in (t : State) (p slot use key : Nat) (area : List (Nat × Nat)) (h1 : bit use 1 = false) (h2 : bit use 2 = false) :
    releaseKey p (t, area) (slot, use, key) =
      (putKeys t p { getKeys t p with slots := tput (getKeys t p).slots slot { use := use, key := key, nonce := 0 } }, area) := by
  unfold releaseKey
  simp [h1, h2]

/-- What follows a key release's check: its keys put in their slots, and the nonces drawn for them. -/
def keysReleased (m : Owner) (t : State) : List Byte × State :=
  match releaseBody t m.body with
  | none => ([], t)
  | some (p, l) =>
    let r := l.foldl (releaseKey p) (t, [])
    let area := if r.2.isEmpty then [] else (List.range 16).flatMap fun i =>
      toLe 16 (((r.2.find? fun e => e.1 == i).map Prod.snd).getD 0)
    (area, r.1)

/-- A key release for a partition that is not in reset is not held. -/
theorem ownerMsgKeyRelease_now (hr : OwnerMsgRead s d 5 f b m) (hreset : ((getP s (fld m.body 0 1)).map (·.inReset)).getD false = false) :
    ownerMsgKeyRelease d s = ownerMsg s d 5 true (fun m => (releaseBody s m.body).map fun _ => s) keysReleased := by
  unfold ownerMsgKeyRelease
  refine if_neg ?_
  simp [hr.runs.1, Nat.min_eq_right hr.short, hr.read, parse_buf hr.parsed, hreset]

/-- One key for sealing in, released: it stands in its slot, and no area follows. -/
theorem keysReleased_in {p slot use key : Nat} (h : releaseBody s m.body = some (p, [(slot, use, key)])) (h1 : bit use 1 = false)
    (h2 : bit use 2 = false) :
    keysReleased m s = ([], putKeys s p { getKeys s p with slots := tput (getKeys s p).slots slot { use := use, key := key, nonce := 0 } }) := by
  unfold keysReleased
  rw [h]
  dsimp only
  rw [List.foldl_cons, List.foldl_nil, releaseKey_in s p slot use key [] h1 h2]
  rfl

/-- A byte of a filled slice reads 0. -/
theorem fillZero_slice (s : State) (x : Fill) {c a : Nat} (hc : c ∈ x.slices) (h1 : c * 2 ^ 27 ≤ a) (h2 : a < c * 2 ^ 27 + 2 ^ 27) :
    mread (fillZero s x).mem.bytes a = 0 := by
  unfold fillZero
  dsimp only
  exact (foldl_zero _ _ x.grains _ a).1 ((foldl_zero (fun n => n * 2 ^ 27) (fun _ => 2 ^ 27) x.slices s a).2 c hc h1 h2)

theorem zeroFillDone_run {p : Nat} {x : Fill} (htrip : s.pwr.pkg ≠ .trip) (hx : (s.gnt.fills.find? fun y => y.part == p) = some x) :
    zeroFillDone p s = endFill s x := by
  unfold zeroFillDone
  rw [if_neg htrip, hx]

theorem endFill_mem (s : State) (x : Fill) : (endFill s x).mem = (fillZero s x).mem := by
  unfold endFill
  rw [emit_mem]
  rfl

end Sys2Proof.Machine
end

section
/-! Owner messages. -/

open Sys2Proof Sys2Proof.Machine

/-- Settles O21: `ownerMsg_commits` for each of the kinds 1 to 4, `ownerMsgKeyRelease_now` with `ownerMsg_run` for kind 5, and
`fillZero_slice`. -/
theorem ownerMessagesTakeEffectOnlyWhenTheirSignaturesPass : Obligations.OwnerMessagesTakeEffectOnlyWhenTheirSignaturesPass := by
  refine ⟨fun s d f b m h hg hk hz h1 h2 h3 h4 h5 h6 hseq hop hlen hzero => ?_,
    fun s d f b m h hg hk hz h1 h2 h3 h4 h5 h6 hseq hop hlen hzero hbody => ?_,
    fun s d f b m new h hg hk hz h1 h2 h3 h4 h5 h6 hseq hparse hkeeps hcuff => ?_,
    fun s d f b m l p h hg hk hz h1 h2 h3 h4 h5 h6 hseq hent hstep => ?_,
    fun s d f b m h hg hk hz h1 h2 h3 h4 h5 h6 hseq hlen hscope hzero => ?_,
    fun s d f b m h hg hk hz h1 h2 h3 h4 h5 h6 hbody hreset => ?_, fun s hp hf => ?_, fun s p x htrip hx => ?_⟩
  · obtain ⟨hbad, hgood⟩ := ownerMsg_commits ⟨h, hg, hk, hz, h1, h2, h3, h4, h5, h6⟩ hseq (by decide)
      (claimEffect_owner hlen hzero hop) (claimAfter s)
    refine ⟨_, next_congr (ownerMsgClaim_eq s d true), hbad, fun hs => ?_⟩
    obtain ⟨z, hz, -, hrun⟩ := hgood hs
    exact ⟨_, hrun, (claimAfter_policy s m z).trans (congrArg Gauntlet.policy hz)⟩
  · obtain ⟨hbad, hgood⟩ := ownerMsg_commits ⟨h, hg, hk, hz, h1, h2, h3, h4, h5, h6⟩ hseq (by decide)
      (claimEffect_release hlen hzero hop hbody) (claimAfter s)
    refine ⟨_, next_congr (ownerMsgClaim_eq s d true), hbad, fun hs => ?_⟩
    obtain ⟨z, hz, -, hrun⟩ := hgood hs
    exact ⟨_, hrun, (claimAfter_policy s m z).trans (congrArg Gauntlet.policy hz)⟩
  · obtain ⟨hbad, hgood⟩ := ownerMsg_commits ⟨h, hg, hk, hz, h1, h2, h3, h4, h5, h6⟩ hseq (by decide)
      (policyEffect_good hparse hkeeps hcuff) (fun _ t => policyAfter s t)
    refine ⟨_, next_congr (ownerMsgPolicy_eq s d true), hbad, fun hs => ?_⟩
    obtain ⟨z, hz, -, hrun⟩ := hgood hs
    exact ⟨_, hrun, (policyAfter_policy s z).trans (congrArg Gauntlet.policy hz)⟩
  · obtain ⟨hbad, hgood⟩ := ownerMsg_commits ⟨h, hg, hk, hz, h1, h2, h3, h4, h5, h6⟩ hseq (by decide)
      (pairingEffect_good hent hstep) pairingAfter
    refine ⟨_, next_congr (ownerMsgPairing_eq s d true), hbad, fun hs => ?_⟩
    obtain ⟨z, hz, -, hrun⟩ := hgood hs
    exact ⟨_, hrun, (pairingAfter_policy m z).trans (congrArg Gauntlet.policy hz)⟩
  · obtain ⟨hbad, hgood⟩ := ownerMsg_commits ⟨h, hg, hk, hz, h1, h2, h3, h4, h5, h6⟩ hseq (by decide)
      (debugEffect_good hlen hscope hzero) (fun m t => ([], enterDebug t (fld m.body 0 1)))
    refine ⟨_, next_congr (ownerMsgDebug_eq s d true), hbad, fun hs => ?_⟩
    obtain ⟨z, hz, -, hrun⟩ := hgood hs
    exact ⟨_, hrun, rfl, rfl, rfl, rfl, (enterDebug_policy z _).trans (congrArg Gauntlet.policy hz)⟩
  · have hnow := ownerMsgKeyRelease_now ⟨h, hg, hk, hz, h1, h2, h3, h4, h5, h6⟩ hreset
    obtain ⟨hbad, hnone, hgood⟩ := ownerMsg_run s d 5 true (fun m => (releaseBody s m.body).map fun _ => s) keysReleased f b m
      h hg hk hz h1 h2 h3 h4 h5 h6 (.inl (by decide))
    refine ⟨_, next_congr hnow, hbad, fun hs hn => hnone hs (congrArg (Option.map _) hn), fun hs p slot use key hrel hu1 hu2 => ?_⟩
    have hrun := hgood hs s (congrArg (Option.map _) hrel) (fun _ => rfl)
    rw [if_neg (by decide), keysReleased_in hrel hu1 hu2] at hrun
    refine ⟨_, hrun, ?_⟩
    rw [getKeys_putKeys]
    exact tfind_tput_same _ _ _
  · exact next_congr (if_pos (by simp [hp, hf]))
  · refine ⟨_, next_congr (zeroFillDone_run htrip hx), fun c hc a ha1 ha2 => ?_, ?_, ?_, ?_⟩
    · rw [endFill_mem]
      exact fillZero_slice s x hc ha1 ha2
    · exact (endFill_K s x).part19 rfl
    · exact (endFill_K s x).part7 rfl
    · exact (endFill_K s x).part3 rfl
end

section
/-! SUPPORT. Holidays granted and ended, tests started, deferred and ended (R559-R564). -/

namespace Sys2Proof.Machine

variable {s : State} {d : Nat} {f : Flight}

/-- Starting a deferred test changes the Holiday's list of tests alone. -/
theorem startDeferred_frame (s : State) : ∃ r q, startDeferred s = { s with hol := { s.hol with running := r, deferred := q } } := by
  unfold startDeferred
  split
  · exact ⟨_, _, rfl⟩
  · split
    · exact ⟨_, _, rfl⟩
    · exact ⟨_, _, rfl⟩

/-- The Holiday that a grant opens. -/
def grantedHol (s : State) (f : Flight) : Holiday :=
  { s.hol with open_ := true, parts := f.op 0x20 2, stackSet := f.op 0x22 1, ports := f.op 0x24 4
               endAt := s.time.now + 1000 * f.op 0x28 4, testsRun := 0 }

/-- The named ports DOWN under the Holiday's hold. -/
def holidayPorts (s : State) (ports : Nat) : State :=
  (List.range 32).foldl (fun t p => if bit ports p then portLeave t p .down (some 2) else t) s

theorem holidayPorts_keeps (s : State) (ports : Nat) : (holidayPorts s ports).hol = s.hol ∧ (holidayPorts s ports).parts = s.parts := by
  refine ⟨foldl_part (·.hol) _ (fun t p => ?_) _ s, foldl_part (·.parts) _ (fun t p => ?_) _ s⟩
  · split
    · exact (portLeave_K t p .down (some 2)).part17 rfl
    · rfl
  · split
    · exact (portLeave_K t p .down (some 2)).part19 rfl
    · rfl

theorem holidayGrant_opens (h : Runs s d 0xF140 f) (hz : f.zero 0x23 1 = true) (hzf : f.zeroFrom 0x2C = true) (hlow : 1000 ≤ f.op 0x28 4)
    (hhigh : f.op 0x28 4 ≤ 3600000000) (hopen : s.hol.open_ = false) (hoff : ∀ e ∈ s.parts, bit (f.op 0x20 2) e.1 = true → e.2.st ≠ .online)
    (hfree : ∀ k < 8, bit (f.op 0x22 1) k = true → stackHeld s (f.op 0x20 2) k = false) :
    holidayGrant d s = endF (startDeferred (recapAll (holidayPorts { s with hol := grantedHol s f } (f.op 0x24 4)))) d stOk 0 := by
  have hparts : (s.parts.any fun e => e.2.st == .online && bit (f.op 0x20 2) e.1) = false :=
    List.any_eq_false.2 fun e he hbusy => by
      obtain ⟨hst, hb⟩ := by simpa using hbusy
      exact hoff e he hb hst
  have hstacks : ((List.range 8).any fun k => bit (f.op 0x22 1) k && stackHeld s (f.op 0x20 2) k) = false :=
    List.any_eq_false.2 fun k hk hbusy => by
      obtain ⟨hb, hheld⟩ := by simpa using hbusy
      rw [hfree k (List.mem_range.1 hk) hb] at hheld
      cases hheld
  have hdur : (f.op 0x28 4 == 0) = false := by simp; omega
  unfold holidayGrant
  rw [withOp_run h]
  dsimp only
  rw [hparts, hstacks, hdur, hopen, Bool.false_and, Bool.false_and, Bool.false_and, refuseIf_pass (by simp [hz, hzf]; omega),
    if_neg Bool.false_ne_true]
  rfl

theorem holidayGrant_ends (h : Runs s d 0xF140 f) (hz : f.zero 0x23 1 = true) (hzf : f.zeroFrom 0x2C = true)
    (hnone : f.op 0x20 2 = 0 ∧ f.op 0x22 1 = 0 ∧ f.op 0x24 4 = 0 ∧ f.op 0x28 4 = 0) : holidayGrant d s = endF (endHoliday s) d stOk 0 := by
  obtain ⟨h1, h2, h3, h4⟩ := hnone
  unfold holidayGrant
  rw [withOp_run h]
  dsimp only
  rw [h1, h2, h3, h4, refuseIf_pass (by simp [hz, hzf]), if_pos (by decide)]

/-- The test that a SELFTEST or CALIBRATE without FORCE asks for. -/
def askedTest (f : Flight) (cal : Bool) (by_ : Option Nat) : TestRun :=
  { tag := f.tag, set := f.op 0x20 2, calibrate := cal, force := false, parts := f.op 0x24 2, by_ := by_ }

/-- What R560 and R561 ask of a SELFTEST or CALIBRATE without FORCE. -/
structure TestAsked (s : State) (d op : Nat) (cal : Bool) (f : Flight) : Prop where
  runs : Runs s d op f
  sets : f.op 0x20 2 ≤ if cal then 15 else 255
  unforced : f.op 0x22 1 = 0
  zero : f.zero 0x23 1 = true
  tail : f.zeroFrom 0x26 = true
  memory : cal = false → bit (f.op 0x20 2) 3 = true → f.op 0x24 2 = 0

/-- Such a command turns on whether the open Holiday covers it. -/
theorem testCommand_run {op : Nat} {cal c : Bool} (ha : TestAsked s d op cal f) (hc : covered s (askedTest f cal (some d)) = c)
    (hroom : c = false → s.hol.deferred.length < 256) :
    testCommand s d op cal =
      if !c then endF { s with hol := { s.hol with deferred := s.hol.deferred ++ [askedTest f cal none] } } d stDeferred 0
      else if s.hol.running.isSome then s
      else putF { s with hol := { s.hol with running := some (askedTest f cal (some d)) } } d { f with phase := .running } := by
  obtain ⟨h, hset, hforce, hz, hzf, hmem⟩ := ha
  have hrange : decide ((if cal then 15 else 255) < f.op 0x20 2 ∨ 1 < 0) = false := decide_eq_false (by omega)
  have harray : (!cal && bit (f.op 0x20 2) 3 && f.op 0x24 2 != 0) = false := by
    cases cal
    · by_cases hb : bit (f.op 0x20 2) 3 = true
      · simp [hmem rfl hb]
      · simp [hb]
    · rfl
  unfold askedTest at hc
  unfold testCommand
  rw [withOp_run h]
  dsimp only
  rw [hforce, show ((0 : Nat) == 1) = false from rfl, hrange, harray, hz, hzf, hc, Bool.or_false]
  cases c
  · exact (refuseIf_pass (by simp [hroom rfl]) _).trans rfl
  · exact (refuseIf_pass (by simp) _).trans rfl

theorem testCommand_defers {op : Nat} {cal : Bool} (ha : TestAsked s d op cal f) (hc : covered s (askedTest f cal (some d)) = false)
    (hroom : s.hol.deferred.length < 256) :
    testCommand s d op cal = endF { s with hol := { s.hol with deferred := s.hol.deferred ++ [askedTest f cal none] } } d stDeferred 0 :=
  (testCommand_run ha hc fun _ => hroom).trans (if_pos rfl)

theorem testCommand_starts {op : Nat} {cal : Bool} (ha : TestAsked s d op cal f) (hc : covered s (askedTest f cal (some d)) = true)
    (hfree : s.hol.running = none) :
    testCommand s d op cal = putF { s with hol := { s.hol with running := some (askedTest f cal (some d)) } } d { f with phase := .running } :=
  (testCommand_run ha hc nofun).trans ((if_neg (by decide)).trans (if_neg (by simp [hfree])))

/-- A test's end before its report: no test runs, fetching is resumed, its content is kept and its failures charged. -/
def testJudged (s : State) (t : TestRun) (v : TestVerdict) : State :=
  v.failing.foldl chargeFailure (testContent { s with
    hol := { s.hol with running := none, testsRun := s.hol.testsRun + 1 }
    parts := tmap s.parts fun _ x => { x with fetchStopped := false } } t v)

theorem testJudged_keeps (s : State) (t : TestRun) (v : TestVerdict) :
    (testJudged s t v).hol = { s.hol with running := none, testsRun := s.hol.testsRun + 1 } ∧
      (testJudged s t v).parts = tmap s.parts fun _ x => { x with fetchStopped := false } :=
  ⟨(foldl_part (·.hol) _ (fun t e => (chargeFailure_K t e).part17 rfl) _ _).trans ((testContent_K _ t v).part17 rfl),
    (foldl_part (·.parts) _ (fun t e => (chargeFailure_K t e).part19 rfl) _ _).trans ((testContent_K _ t v).part19 rfl)⟩

theorem startDeferred_none (h : s.hol.open_ = false ∨ s.hol.deferred = []) : startDeferred s = s := by
  unfold startDeferred
  rcases h with h | h
  · exact if_pos (by simp [h])
  · rw [h]
    exact ite_self _

theorem testDone_run {v : TestVerdict} {t : TestRun} (hrun : s.hol.running = some t) (hby : t.by_ = some d)
    (hdef : s.hol.open_ = false ∨ s.hol.deferred = []) :
    testDone v s = endF (serveFreed (testJudged s t v)) d stOk
      (min v.failing.length 0xFFF + 0x1000 * b2n v.incomplete + min v.tested 0x3FFF * 2 ^ 14) := by
  have hhol : (serveFreed (testJudged s t v)).hol = { s.hol with running := none, testsRun := s.hol.testsRun + 1 } :=
    ((serveFreed_K _).part17 rfl).trans (testJudged_keeps s t v).1
  have hreport : ∀ u extra, reportTest u t extra = endF u d stOk extra := fun u extra => by
    unfold reportTest
    rw [hby]
  unfold testDone
  rw [hrun]
  dsimp only
  rw [hreport]
  refine startDeferred_none ?_
  rw [endF_hol]
  change (serveFreed (testJudged s t v)).hol.open_ = false ∨ (serveFreed (testJudged s t v)).hol.deferred = []
  rw [hhol]
  exact hdef

end Sys2Proof.Machine
end

section
/-! Holidays and tests. -/

open Sys2Proof Sys2Proof.Machine

/-- Settles O22, clause by clause: the two `holidayGrant` lemmas, `endHoliday_facts`, the two `testCommand` lemmas and
`testDone_run`. -/
theorem holidaysAndTestsRunAndEnd : Obligations.HolidaysAndTestsRunAndEnd := by
  refine ⟨fun s d f h hz hzf hlow hhigh hopen hoff hfree => ?_, fun s d f h hz hzf hnone hopen => ?_, fun s hopen hend => ?_,
    fun s d f h hset hforce hz hzf hmem hcov hrun => ?_, fun s d f h hset hforce hz hzf hmem hcov hroom => ?_,
    fun s d f h hset hforce hz hzf hcov hrun => ?_, fun s d f h hset hforce hz hzf hcov hroom => ?_, fun s v t d hrun hby hdef => ?_⟩
  · refine ⟨_, next_congr (holidayGrant_opens h hz hzf hlow hhigh hopen hoff hfree), ?_⟩
    obtain ⟨r, q, hs⟩ := startDeferred_frame (recapAll (holidayPorts { s with hol := grantedHol s f } (f.op 0x24 4)))
    obtain ⟨hhol, hparts⟩ := holidayPorts_keeps { s with hol := grantedHol s f } (f.op 0x24 4)
    rw [hs]
    dsimp only
    rw [(recapAll_K _).part17 rfl, (recapAll_K _).part19 rfl, hhol, hparts]
    exact ⟨rfl, rfl, rfl, rfl, rfl, rfl⟩
  · obtain ⟨h1, h2, h3, h4, -⟩ := endHoliday_facts s hopen
    exact ⟨_, next_congr (holidayGrant_ends h hz hzf hnone), h1, h2, h3, h4⟩
  · exact ⟨_, next_congr (if_pos (by simp [hopen, hend])), endHoliday_facts s hopen⟩
  · exact next_congr (testCommand_starts ⟨h, hset, hforce, hz, hzf, fun _ => hmem⟩ hcov hrun)
  · exact next_congr (testCommand_defers ⟨h, hset, hforce, hz, hzf, fun _ => hmem⟩ hcov hroom)
  · exact next_congr (testCommand_starts ⟨h, hset, hforce, hz, hzf, nofun⟩ hcov hrun)
  · exact next_congr (testCommand_defers ⟨h, hset, hforce, hz, hzf, nofun⟩ hcov hroom)
  · obtain ⟨hhol, hparts⟩ := testJudged_keeps s t v
    exact ⟨testJudged s t v, next_congr (testDone_run hrun hby hdef), ((serveFreed_K _).part17 rfl).trans hhol, hparts⟩
end

section
/-! SUPPORT. Pages and banks retired (R468-R471, R578). -/

namespace Sys2Proof.Machine

variable {s : State} {d : Nat} {f : Flight}

/-- The pages of a range retired from the pools and reported to the partitions that map them. -/
def rangeRetired (s : State) (lo hi : Nat) : State := reportRange (retireRange s lo hi) lo hi

theorem rangeRetired_keeps (s : State) (lo hi : Nat) : (rangeRetired s lo hi).parts = s.parts ∧ (rangeRetired s lo hi).gnt.keys = s.gnt.keys :=
  ⟨((reportRange_K _ lo hi).part19 rfl).trans ((retireRange_K s lo hi).part19 rfl),
    ((reportRange_K _ lo hi).part7 rfl).trans ((retireRange_K s lo hi).part7 rfl)⟩

/-- RETIRE_PAGE before its advice: the page stands in the table of retired pages. -/
def pageNoted (s : State) (pa : Nat) : State :=
  let s1 := rangeRetired s pa (pa + 8192)
  { s1 with flt := { s1.flt with retiredPages := s1.flt.retiredPages ++ [frameNo pa] } }

/-- What R468 asks of a RETIRE_PAGE. -/
structure PageAsked (s : State) (d : Nat) (f : Flight) : Prop where
  runs : Runs s d 0xF150 f
  aligned : f.op 0x20 8 % 8192 = 0
  backed : arrayAddress s (f.op 0x20 8) = true
  tail : f.zeroFrom 0x28 = true

theorem retirePage_retires (ha : PageAsked s d f) (hnew : s.flt.retiredPages.contains (frameNo (f.op 0x20 8)) = false)
    (hroom : s.flt.retiredPages.length < 4096) : retirePage d s = endF (advise (pageNoted s (f.op 0x20 8))) d stOk 0 := by
  obtain ⟨h, hal, hb, hz⟩ := ha
  unfold retirePage
  rw [withOp_run h]
  dsimp only
  rw [hnew, refuseIf_pass (by simp [hal, hb, hz, hroom])]
  exact if_neg Bool.false_ne_true

theorem retirePage_known (ha : PageAsked s d f) (hknown : s.flt.retiredPages.contains (frameNo (f.op 0x20 8)) = true) :
    retirePage d s = endF s d stOk 0 := by
  obtain ⟨h, hal, hb, hz⟩ := ha
  unfold retirePage
  rw [withOp_run h]
  dsimp only
  rw [hknown, refuseIf_pass (by simp [hal, hb, hz]), if_pos rfl]

/-- RETIRE_BANK before its descriptor waits: the bank is retired and moving. -/
def bankNoted (s : State) (t b d : Nat) : State :=
  let s1 := rangeRetired s (retiringRange s t).1 (retiringRange s t).2
  { s1 with flt := { s1.flt with retiredBanks := s1.flt.retiredBanks ++ [(t, b)], moving := s1.flt.moving ++ [(t, b, d)] } }

theorem retireBank_retires (h : Runs s d 0xF151 f)
    (hrange : (f.op 0x20 2 < 512 ∧ f.op 0x22 2 < 32 ∧ retiredIn s (f.op 0x20 2) < 4) ∨
      (0x8000 ≤ f.op 0x20 2 ∧ f.op 0x20 2 < 0x8008 ∧ f.op 0x22 2 < 64 ∧ retiredIn s (f.op 0x20 2) < 16))
    (hz : f.zeroFrom 0x24 = true) (hsub : (s.flt.subst.any fun u => u.core == f.op 0x20 2) = false)
    (hnew : s.flt.retiredBanks.contains (f.op 0x20 2, f.op 0x22 2) = false) :
    retireBank d s = putF (bankNoted s (f.op 0x20 2) (f.op 0x22 2) d) d { f with phase := .running } := by
  unfold retireBank
  rw [withOp_run h]
  dsimp only
  rw [hsub, hnew, if_neg (by decide)]
  refine (refuseIf_pass ?_ _).trans rfl
  rcases hrange with ⟨h1, h2, h3⟩ | ⟨h1, h2, h3, h4⟩
  · simp [hz, h1, h2, h3]
  · have hn : ¬ f.op 0x20 2 < 512 := by omega
    simp [hz, h1, h2, h3, h4, hn]

theorem recap_or_self_flt (c : Prop) [Decidable c] (s : State) (r : Nat) : (if c then recap s r else s).flt = s.flt := by
  split
  · exact recap_flt s r
  · rfl

theorem recap_or_self_parts (c : Prop) [Decidable c] (s : State) (r : Nat) : (if c then recap s r else s).parts = s.parts := by
  split
  · exact (recap_K s r).part19 rfl
  · rfl

/-- The end of a bank's move, before its descriptor ends. -/
def moveEnded (s : State) (t : Nat) (m : Nat × Nat × Nat) : State :=
  let s1 := { s with flt := { s.flt with moving := s.flt.moving.erase m } }
  advise (if 0x8000 ≤ t then recap s1 (t - 0x8000) else s1)

theorem moveEnded_keeps (s : State) (t : Nat) (m : Nat × Nat × Nat) : (moveEnded s t m).flt.moving = s.flt.moving.erase m ∧
    (moveEnded s t m).flt.retiredBanks = s.flt.retiredBanks ∧ (moveEnded s t m).parts = s.parts := by
  unfold moveEnded
  dsimp only
  generalize hz : ite (32768 ≤ t) _ _ = z
  have hflt : z.flt = { s.flt with moving := s.flt.moving.erase m } := by rw [← hz, recap_or_self_flt]
  have hparts : z.parts = s.parts := by rw [← hz, recap_or_self_parts]
  obtain ⟨l, hl⟩ := advise_flt z
  rw [hl, hflt, (advise_K z).part19 rfl, hparts]
  exact ⟨rfl, rfl, rfl⟩

theorem retireMoveDone_run {t : Nat} {m : Nat × Nat × Nat} (hm : (s.flt.moving.find? fun m => m.1 == t) = some m) (htrip : s.pwr.pkg ≠ .trip) :
    retireMoveDone t s = endF (moveEnded s t m) m.2.2 stOk 0 := by
  unfold retireMoveDone
  rw [hm]
  exact if_neg htrip

end Sys2Proof.Machine
end

section
/-! Retired pages and banks. -/

open Sys2Proof Sys2Proof.Machine

/-- Settles O23, clause by clause: `retirePage_retires`, `retirePage_known`, `retireBank_retires` and `retireMoveDone_run`. -/
theorem pagesAndBanksRetire : Obligations.PagesAndBanksRetire := by
  refine ⟨fun s d f h hal hb hz hnew hroom => ?_, fun s d f h hal hb hz hknown => next_congr (retirePage_known ⟨h, hal, hb, hz⟩ hknown),
    fun s d t b f h ht hbk hrange hz hsub hnew => ?_, fun s t b d hm htrip => ?_⟩
  · obtain ⟨l, hl⟩ := advise_flt (pageNoted s (f.op 0x20 8))
    obtain ⟨hparts, hkeys⟩ := rangeRetired_keeps s (f.op 0x20 8) (f.op 0x20 8 + 8192)
    refine ⟨_, next_congr (retirePage_retires ⟨h, hal, hb, hz⟩ hnew hroom), ?_, ((advise_K _).part19 rfl).trans hparts,
      ((advise_K _).part7 rfl).trans hkeys⟩
    rw [hl]
    exact List.mem_append_right _ (List.mem_singleton_self _)
  · subst ht hbk
    obtain ⟨hparts, hkeys⟩ := rangeRetired_keeps s (retiringRange s (f.op 0x20 2)).1 (retiringRange s (f.op 0x20 2)).2
    exact ⟨_, next_congr (retireBank_retires h hrange hz hsub hnew), List.mem_append_right _ (List.mem_singleton_self _),
      List.mem_append_right _ (List.mem_singleton_self _), hparts, hkeys⟩
  · exact ⟨_, next_congr (retireMoveDone_run hm htrip), moveEnded_keeps s t (t, b, d)⟩
end

section
/-! SUPPORT. Snapshots armed, latched and read (R549-R555). -/

namespace Sys2Proof.Machine

variable {s : State} {d : Nat} {f : Flight}

/-- What R550 asks of a SNAP_ARM. -/
structure ArmAsked (s : State) (d : Nat) (f : Flight) : Prop where
  runs : Runs s d 0xF180 f
  sources : f.op 0x20 1 ≤ 15
  cls : f.op 0x21 1 ≤ 8
  scope : f.op 0x22 1 = 0xFF ∨ (getP s (f.op 0x22 1)).isSome = true
  counter : f.op 0x24 2 < if f.op 0x22 1 = 0xFF then 16384 else 1024
  zero : f.zero 0x23 1 = true
  zero2 : f.zero 0x26 2 = true
  tail : f.zeroFrom 0x30 = true

/-- The snapshot controls that a SNAP_ARM sets. -/
def armedSnap (s : State) (f : Flight) : State :=
  { s with snap := { s.snap with
    armed := f.op 0x20 1, scope := f.op 0x22 1, faultClass := f.op 0x21 1, counter := f.op 0x24 2, value := f.op 0x28 8 } }

theorem snapArm_run (ha : ArmAsked s d f) (hsrc : bit (f.op 0x20 1) 0 = false) : snapArm d s = endF (armedSnap s f) d stOk 0 := by
  obtain ⟨h, h15, h8, hscope, hc, hz, hz2, hzf⟩ := ha
  have hpart : (f.op 0x22 1 == 0xFF || (getP s (f.op 0x22 1)).isSome) = true := by
    rcases hscope with h | h <;> simp [h]
  have hcount : decide (f.op 0x24 2 ≥ if f.op 0x22 1 = 0xFF then 16384 else 1024) = false := decide_eq_false (Nat.not_le.2 hc)
  have hquiet : ∀ p c, counterTrigger (armedSnap s f) p c = armedSnap s f := fun p c => by
    have harm : bit (armedSnap s f).snap.armed 0 = false := hsrc
    unfold counterTrigger
    exact if_neg (by simp [harm])
  unfold snapArm
  rw [withOp_run h]
  dsimp only
  rw [hpart, hcount, refuseIf_pass (by simp [hz, hz2, hzf, h15, h8])]
  exact congrArg (endF · d stOk 0) (hquiet _ _)

theorem snapTrigger_run (h : Runs s d 0xF181 f)
    (hp : f.op 0x20 1 = 0xFF ∨ f.op 0x20 1 ≤ 15 ∧ (getP s (f.op 0x20 1)).isSome = true ∧ inReset s (f.op 0x20 1) = false)
    (hz : f.zeroFrom 0x21 = true) : snapTrigger d s = endF (latch s (f.op 0x20 1) 0 []) d stOk 0 := by
  unfold snapTrigger
  rw [withOp_run h]
  dsimp only
  rcases hp with hall | ⟨h15, hsome, hreset⟩
  · rw [hall, refuseIf_pass (by simp [hz]), if_neg (by simp)]
  · have hnone : (getP s (f.op 0x20 1)).isNone = false := by
      obtain ⟨x, hx⟩ := Option.isSome_iff_exists.1 hsome
      simp [hx]
    rw [hnone, hreset, refuseIf_pass (by simp [hz, h15]), if_neg (by simp)]

/-- The EQUINOX input, armed, latches for the armed scope when that scope is not in reset. -/
theorem equinoxInput_run (ha : bit s.snap.armed 3 = true) (hp : s.snap.scope = 0xFF ∨ inReset s s.snap.scope = false) :
    equinoxInput s = latch { s with snap := { s.snap with armed := s.snap.armed - 8 } } s.snap.scope 4 [] := by
  unfold equinoxInput
  rw [if_pos ha]
  refine if_neg ?_
  rintro ⟨hne, hreset⟩
  rcases hp with h | h
  · exact hne h
  · exact Bool.false_ne_true (h.symm.trans hreset)

/-- What R554 asks of a SNAP_READ. -/
structure SnapAsked (s : State) (d : Nat) (f : Flight) (b : Bank) : Prop where
  runs : Runs s d 0xF182 f
  bank : f.op 0x20 1 ≤ 1
  zero : f.zero 0x21 3 = true
  tail : f.zeroFrom 0x30 = true
  found : s.snap.banks[f.op 0x20 1]? = some b
  latched : b.st ≠ 0
  shown : b.debug = false ∨ s.gnt.debug = true

/-- The state after a bank's image is written and the bank marked READ. -/
def snapTaken (s : State) (f : Flight) (b : Bank) : State :=
  let t := hwrite (imageOf s b).2 (f.op 0x28 8) (imageOf s b).1
  { t with snap := { t.snap with banks := t.snap.banks.set (f.op 0x20 1) { b with st := 2 } } }

theorem snapRead_run (ha : SnapAsked s d f b) :
    snapRead d s = if f.op 0x24 4 < (imageOf s b).1.length then endF s d stOk (imageOf s b).1.length
      else if hostBad s (f.op 0x28 8) (imageOf s b).1.length then endF s d stTranslation 0
      else endF (snapTaken s f b) d stOk (imageOf s b).1.length := by
  obtain ⟨h, h1, hz, hzf, hb, hst, hshown⟩ := ha
  have habove : (b.debug && !s.gnt.debug) = false := by rcases hshown with h | h <;> simp [h]
  unfold snapRead
  rw [withOp_run h]
  dsimp only
  rw [hb, Option.getD_some, habove, if_neg (by simp [hz, hzf, h1]), if_neg hst, if_neg Bool.false_ne_true]
  rfl

theorem host_hwrite_of {a : Nat} {bs : List Byte} (h : hostBad s a bs.length = false) : (hwrite s a bs).host = mwriteN s.host a bs := by
  unfold hwrite
  rw [if_neg (ne_true_of_eq_false h)]

theorem snapTaken_keeps (s : State) (f : Flight) (b : Bank) (hw : hostBad s (f.op 0x28 8) (imageOf s b).1.length = false) :
    (snapTaken s f b).host = mwriteN (imageOf s b).2.host (f.op 0x28 8) (imageOf s b).1 ∧ (snapTaken s f b).parts = s.parts := by
  have hbad : hostBad (imageOf s b).2 (f.op 0x28 8) (imageOf s b).1.length = false := by
    unfold hostBad
    rw [imageOf_hostFail]
    exact hw
  have hparts := (imageOf_K s b).part19 rfl
  unfold snapTaken
  generalize imageOf s b = r at hbad hparts ⊢
  exact ⟨host_hwrite_of hbad, (hwrite_parts _ _ _).trans hparts⟩

end Sys2Proof.Machine
end

section
/-! Snapshots. -/

open Sys2Proof Sys2Proof.Machine

/-- Settles O24, clause by clause: `snapArm_run`, `snapTrigger_run` and `equinoxInput_run` with `latch_facts`, and `snapRead_run`. -/
theorem snapshotsAreArmedLatchedAndRead : Obligations.SnapshotsAreArmedLatchedAndRead := by
  refine ⟨fun s d f h h15 h8 hscope hc hz hz2 hzf hsrc => next_congr (snapArm_run ⟨h, h15, h8, hscope, hc, hz, hz2, hzf⟩ hsrc),
    fun s d i f h hp hz hi => ⟨_, next_congr (snapTrigger_run h hp hz), (latch_facts s _ 0 i [] hi).1, (latch_K s _ 0 []).part19 rfl⟩,
    fun s i ha hp hi => ?_,
    fun s d f b h h1 hz hzf hb hst hshown hshort => next_congr ((snapRead_run ⟨h, h1, hz, hzf, hb, hst, hshown⟩).trans (if_pos hshort)),
    fun s d f b h h1 hz hzf hb hst hshown hfit hw => ?_⟩
  · obtain ⟨hbank, harmed, -⟩ := latch_facts { s with snap := { s.snap with armed := s.snap.armed - 8 } } s.snap.scope 4 i [] hi
    exact ⟨_, next_congr (equinoxInput_run ha hp), harmed, hbank, (latch_K _ _ _ _).part19 rfl⟩
  · obtain ⟨hhost, hparts⟩ := snapTaken_keeps s f b hw
    exact ⟨_, next_congr ((snapRead_run ⟨h, h1, hz, hzf, hb, hst, hshown⟩).trans ((if_neg (Nat.not_lt.2 hfit)).trans
      (if_neg (ne_true_of_eq_false hw)))), hhost, hparts⟩
end

section
/-! SUPPORT. COPY, FILL, TO_HOST, FROM_HOST, MAP, UNMAP, TPOOL_ADD (R197-R201, R461). -/

namespace Sys2Proof.Machine

variable {s v : State} {d : Nat} {f : Flight} {t : Tensor}

@[simp] theorem needs_true : needs true = .ok () := rfl

@[simp] theorem holdsUntil_true : holdsUntil true = .ok () := rfl

@[simp] theorem except_bind {α β : Type} (a : α) (k : α → Except Stop β) : (Except.ok a >>= k) = k a := rfl

/-- COPY of a tensor without scales onto one of its format and extents that lies apart from it and from the records. -/
theorem copyOp_ok {a b : Tensor} {data : List (List (Byte × Bool))} (hz : f.zeroFrom 0x30 = true)
    (ha : operand s (cxOf s f d) (f.op 0x20 8) = .ok a) (hb : operand s (cxOf s f d) (f.op 0x28 8) = .ok b) (hfmt : a.fmt = b.fmt)
    (hext : a.ext = b.ext) (hmx : isMx a.fmt = false) (hdata : rowsP s (cxOf s f d) a = .ok data)
    (hapart : meets (b.places s (cxOf s f d))
      (a.places s (cxOf s f d) ++ (placesOf s (cxOf s f d) (f.op 0x20 8) 64 ++ placesOf s (cxOf s f d) (f.op 0x28 8) 64)) = false)
    (hw : writeRowsP (touchRead s (cxOf s f d) a) (cxOf s f d) b data = .ok v) :
    copyOp s d f = .ok (v, data.any fun r => r.any Prod.snd) := by
  have hmx' : isMx b.fmt = false := hfmt ▸ hmx
  unfold copyOp
  simp [hz, ha, hb, hfmt, hext, hmx', hdata, hapart, hw]

theorem fillOp_ok (hz : f.zero 0x20 8 = true) (hzf : f.zeroFrom 0x38 = true) (ht : operand s (cxOf s f d) (f.op 0x28 8) = .ok t)
    (hapart : meets (t.places s (cxOf s f d)) (placesOf s (cxOf s f d) (f.op 0x28 8) 64) = false)
    (hw : writeCodes s (cxOf s f d) t (fillCodes t (f.op 0x30 8)) = .ok v) : fillOp s d f = .ok v := by
  unfold fillOp
  simp [hz, hzf, ht, hapart, hw]

theorem toHostOp_ok {data : List (List (Byte × Bool))} (hz : f.zeroFrom 0x30 = true) (hseal : isSealed s f.part = false)
    (ht : operand s (cxOf s f d) (f.op 0x20 8) = .ok t) (hdata : rowsP s (cxOf s f d) t = .ok data)
    (hw : hostBad s (f.op 0x28 8) data.flatten.length = false) :
    toHostOp s d f = .ok (hwrite (touchRead s (cxOf s f d) t) (f.op 0x28 8) (data.flatten.map Prod.fst), data.flatten.any Prod.snd) := by
  unfold toHostOp
  simp only [hz, needs_true, except_bind, hseal, ht, hdata, hw, Bool.false_eq_true, if_false]

theorem fromHostOp_ok {bs : List Byte} (hz : f.zeroFrom 0x30 = true) (hseal : isSealed s f.part = false)
    (ht : operand s (cxOf s f d) (f.op 0x28 8) = .ok t) (hr : hread s (f.op 0x20 8) t.bytes = some bs)
    (hapart : meets (t.places s (cxOf s f d)) (placesOf s (cxOf s f d) (f.op 0x28 8) 64) = false)
    (hw : writeCodes s (cxOf s f d) t ((chunks t.rowBytes bs).flatMap (unpack t.fmt)) = .ok v) : fromHostOp s d f = .ok v := by
  unfold fromHostOp
  simp [hz, hseal, ht, hr, hapart, hw]

/-- What R199 asks of a MAP of one local page. -/
structure MapAsked (s : State) (f : Flight) : Prop where
  va : f.op 0x20 8 % pageSize (f.op 0x34 1) = 0
  pa : f.op 0x28 8 % pageSize (f.op 0x34 1) = 0
  one : f.op 0x30 4 = 1
  level : f.op 0x34 1 ≤ 2
  flags : f.op 0x35 1 ≤ 1
  zero : f.zero 0x36 2 = true
  tail : f.zeroFrom 0x38 = true
  low : f.op 0x20 8 + pageSize (f.op 0x34 1) ≤ 0x7F0000000000
  fresh : pteV (entryAt s f.part (f.op 0x20 8) (f.op 0x34 1)) = false
  inside : crosses (f.op 0x28 8) (pageSize (f.op 0x34 1)) = false
  usable : pageOk s f.part (f.op 0x28 8) (pageSize (f.op 0x34 1)) = true

theorem bit_one_of_le {n : Nat} (h : n ≤ 1) : bit n 1 = false := by
  have : n = 0 ∨ n = 1 := by omega
  rcases this with rfl | rfl <;> rfl

theorem mapOp_ok (hm : MapAsked s f)
    (hv : mapLeaf (claimGrain s f.part (f.op 0x28 8)) f.part (f.op 0x20 8) (f.op 0x34 1)
      (mkLeaf (f.op 0x28 8) (bit (f.op 0x35 1) 0) false false) = some v) : mapOp s f = .ok v := by
  obtain ⟨hva, hpa, h1, hl, hfl, hz, hzf, hlow, hfresh, hin, hok⟩ := hm
  have hlocal : bit (f.op 0x35 1) 1 = false := bit_one_of_le hfl
  have hfl4 : f.op 0x35 1 < 4 := by omega
  unfold mapOp
  simp [h1, hlocal, hva, hpa, hl, hfl4, hz, hzf, hlow, hfresh, hin, hok, pagesOf, foldE, hv]

/-- What R200 asks of an UNMAP of one mapped page. -/
structure UnmapAsked (s : State) (f : Flight) (e : Nat) : Prop where
  va : f.op 0x20 8 % pageSize (f.op 0x34 1) = 0
  one : f.op 0x30 4 = 1
  level : f.op 0x34 1 ≤ 2
  zero : f.zero 0x28 8 = true
  zero2 : f.zero 0x35 3 = true
  tail : f.zeroFrom 0x38 = true
  low : f.op 0x20 8 + pageSize (f.op 0x34 1) ≤ 0x7F0000000000
  mapped : pteV (entryAt s f.part (f.op 0x20 8) (f.op 0x34 1)) = true
  leaf : leafOf s f.part (f.op 0x20 8) = some (e, f.op 0x34 1)
  idle : pageInUse s f.part (f.op 0x20 8) (pageSize (f.op 0x34 1)) = false

theorem unmapOp_ok {e : Nat} (hu : UnmapAsked s f e) : unmapOp s f = .ok (unmapLeaf s f.part (f.op 0x20 8)) := by
  obtain ⟨hva, h1, hl, hz, hz2, hzf, hlow, hmapped, hleaf, hidle⟩ := hu
  unfold unmapOp
  simp [h1, hva, hl, hz, hz2, hzf, hlow, hmapped, hleaf, hidle, pagesOf]

/-- The claims of grains by a list of frames leave the table pools, the table tags and the bytes of memory as they are. -/
theorem claims_keep (p : Nat) (frames : List Nat) (s : State) :
    (frames.foldl (fun u fr => claimGrain u p (fr * 8192)) s).mem.tpool = s.mem.tpool ∧
      (frames.foldl (fun u fr => claimGrain u p (fr * 8192)) s).mem.tableTag = s.mem.tableTag ∧
      (frames.foldl (fun u fr => claimGrain u p (fr * 8192)) s).mem.bytes = s.mem.bytes := by
  have hone : ∀ (t : State) (fr : Nat), (claimGrain t p (fr * 8192)).mem.tpool = t.mem.tpool ∧
      (claimGrain t p (fr * 8192)).mem.tableTag = t.mem.tableTag ∧ (claimGrain t p (fr * 8192)).mem.bytes = t.mem.bytes := fun t fr => by
    unfold claimGrain
    split
    · dsimp only
      split <;> exact ⟨rfl, rfl, rfl⟩
    · exact ⟨rfl, rfl, rfl⟩
  exact ⟨foldl_part (·.mem.tpool) _ (fun t fr => (hone t fr).1) frames s, foldl_part (·.mem.tableTag) _ (fun t fr => (hone t fr).2.1) frames s,
    foldl_part (·.mem.bytes) _ (fun t fr => (hone t fr).2.2) frames s⟩

/-- The state after frames are claimed, tagged as tables and added to a partition's table pool. -/
def tablesAdded (s : State) (p : Nat) (frames : List Nat) : State :=
  let s1 := frames.foldl (fun u fr => claimGrain u p (fr * 8192)) s
  { s1 with mem := { s1.mem with
    tableTag := s1.mem.tableTag ++ frames, tpool := tput s1.mem.tpool p ((tfind s1.mem.tpool p).getD [] ++ frames) } }

theorem tpoolAddOp_ok {frames : List Nat} (hn : f.op 0x30 4 ≠ 0) (hpa : f.op 0x20 8 % 8192 = 0) (hz : f.zero 0x28 8 = true)
    (hz2 : f.zero 0x34 4 = true) (hzf : f.zeroFrom 0x38 = true)
    (hframes : frames = (List.range (f.op 0x30 4)).map fun i => f.op 0x20 8 / 8192 + i)
    (hok : ∀ fr ∈ frames, frameOk s f.part (fr * 8192) false false true = true ∧ frameMapped s fr = false) :
    tpoolAddOp s f = .ok (tablesAdded s f.part frames) := by
  have hall : (frames.all fun fr => frameOk s f.part (fr * 8192) false false true && !frameMapped s fr) = true :=
    List.all_eq_true.2 fun fr hfr => by simp [(hok fr hfr).1, (hok fr hfr).2]
  unfold tpoolAddOp
  simp only [hn, hpa, hz, hz2, hzf, ← hframes, hall, ne_eq, not_false_eq_true, and_self, decide_true, Bool.and_self, needs_true, except_bind, if_true]
  rfl

theorem tablesAdded_facts (s : State) (p : Nat) (frames : List Nat) :
    tfind (tablesAdded s p frames).mem.tpool p = some ((tfind s.mem.tpool p).getD [] ++ frames) ∧
      (∀ fr ∈ frames, fr ∈ (tablesAdded s p frames).mem.tableTag) ∧ (tablesAdded s p frames).mem.bytes = s.mem.bytes := by
  obtain ⟨hpool, -, hbytes⟩ := claims_keep p frames s
  refine ⟨?_, fun fr hfr => List.mem_append_right _ hfr, hbytes⟩
  unfold tablesAdded
  dsimp only
  rw [hpool, tfind_tput_same]

end Sys2Proof.Machine
end

section
/-! The MOVE family. -/

open Sys2Proof Sys2Proof.Machine

/-- Settles O25, clause by clause: the work of each operation succeeds (`copyOp_ok` … `tpoolAddOp_ok`) and the operation ends with it. -/
theorem moveOperationsCopyFillAndMap : Obligations.MoveOperationsCopyFillAndMap := by
  refine ⟨fun s v d f a b data h hz ha hb hfmt hext hmx hdata hapart hw => next_congr ((withOp_run h _).trans
      (congrArg (finishP s d) (copyOp_ok hz ha hb hfmt hext hmx hdata hapart hw))),
    fun s v d f t h hz hzf ht hapart hw => next_congr ((withOp_run h _).trans (congrArg (finishE s d 0) (fillOp_ok hz hzf ht hapart hw))),
    fun s d f t data h hz hseal ht hdata hw => next_congr ((withOp_run h _).trans
      (congrArg (finishP s d) (toHostOp_ok hz hseal ht hdata hw))),
    fun s v d f t bs h hz hseal ht hr hapart hw => next_congr ((withOp_run h _).trans
      (congrArg (finishE s d 0) (fromHostOp_ok hz hseal ht hr hapart hw))),
    fun s v d f h hva hpa h1 hl hfl hz hzf hlow hfresh hin hok hv => ?_,
    fun s d f e h hva h1 hl hz hz2 hzf hlow hmapped hleaf hidle => next_congr ((withOp_run h _).trans
      (congrArg (finishE s d 0) (unmapOp_ok ⟨hva, h1, hl, hz, hz2, hzf, hlow, hmapped, hleaf, hidle⟩))),
    fun s d f frames h hn hpa hz hz2 hzf hframes hok => ⟨_, next_congr ((withOp_run h _).trans
      (congrArg (finishE s d 0) (tpoolAddOp_ok hn hpa hz hz2 hzf hframes hok))), tablesAdded_facts s f.part frames⟩⟩
  have hop := mapOp_ok ⟨hva, hpa, h1, hl, hfl, hz, hzf, hlow, hfresh, hin, hok⟩ hv
  refine next_congr ((withOp_run h _).trans ?_)
  rw [hop]
  rfl
end

section
/-! SUPPORT. Wavelengths retired, rings recalibrated, light and lasers lost and restored (R382-R384, R397, R398, R451). -/

namespace Sys2Proof.Machine

variable {s : State}

theorem getPort_eq {t u : State} (h : t.plauf = u.plauf) (p : Nat) : getPort t p = getPort u p := by
  unfold getPort
  rw [h]

/-- A port that leaves its state keeps its retired wavelengths. -/
theorem portLeave_waves (s : State) (p : Nat) (st : PortSt) (hold : Option Nat) :
    (getPort (portLeave s p st hold) p).retiredWaves = (getPort s p).retiredWaves := by
  unfold portLeave
  dsimp only
  split
  · rfl
  generalize hz : putPort s p _ = z
  have hport : (getPort z p).retiredWaves = (getPort s p).retiredWaves := by rw [← hz, getPort_putPort]
  split
  · rw [recap_getPort, (likePort_rerouteFrom z p p).field (·.retiredWaves) fun _ => rfl, hport]
  · exact hport

theorem retirePort_waves (s : State) (p : Nat) : (getPort (retirePort s p) p).retiredWaves = (getPort s p).retiredWaves := by
  unfold retirePort
  split
  · rfl
  · rw [getPort_eq ((advise_K _).part20 rfl), emit_getPort, portLeave_waves]

theorem rerouteFrom_flt (s : State) (p : Nat) : (rerouteFrom s p).flt = s.flt := by
  unfold rerouteFrom pumpOut
  refine foldl_part (·.flt) _ (fun t e => ?_) _ _
  rw [trySend_only]

/-- No channel is charged when a port leaves its state. -/
theorem portLeave_flt (s : State) (p : Nat) (st : PortSt) (hold : Option Nat) : (portLeave s p st hold).flt = s.flt := by
  unfold portLeave
  dsimp only
  split
  · rfl
  split
  · rw [recap_flt, rerouteFrom_flt]
    rfl
  · rfl

/-- A wavelength newly retired stands in its port's list, and fewer than 8 left retire the port (R398). -/
theorem retireWave_facts {port wave : Nat} (hst : (getPort s port).st ≠ .retired) (hw : (getPort s port).retiredWaves.contains wave = false) :
    (getPort (retireWave s port wave) port).retiredWaves = (getPort s port).retiredWaves ++ [wave] ∧
      (getPort (retireWave s port wave) port).st =
        if 9 ≤ (getPort s port).retiredWaves.length + 1 then .retired else (getPort s port).st := by
  unfold retireWave
  dsimp only
  rw [if_neg (by simp only [hw, hst, Bool.false_eq_true, or_self, not_false_eq_true])]
  generalize hz : emit _ 4 0xD _ _ = z
  have hport : getPort z port = { getPort s port with retiredWaves := (getPort s port).retiredWaves ++ [wave] } := by
    rw [← hz, emit_getPort]
    exact getPort_putPort _ port _
  by_cases hfew : 9 ≤ (getPort s port).retiredWaves.length + 1
  · rw [if_pos (by omega), if_pos hfew, retirePort_waves, retirePort_st, hport]
    exact ⟨rfl, rfl⟩
  · rw [if_neg (by omega), if_neg hfew, recap_getPort, hport]
    exact ⟨rfl, rfl⟩

theorem ringRecalibrate_run {port line : Nat} (hp : port < 32) (hl : line < 16) (hr : (getPort s port).st ≠ .retired)
    (hd : (getPort s port).st ≠ .down) (hspare : (getPort s port).spareRing = true) (ok : Bool) :
    ringRecalibrate port line ok s = putPort s port { getPort s port with spareRing := ok, lastRing := line } := by
  unfold ringRecalibrate
  dsimp only
  rw [if_neg (by simp only [hr, hd, or_self, or_false]; omega)]
  generalize getPort s port = x at hspare ⊢
  rw [hspare]
  cases ok <;> rfl

theorem laserLineLow_plauf {e l : Nat} (he : e < 8) (hl : l < 16) (hn : s.plauf.lowLines.contains (e, l) = false) :
    (laserLineLow e l s).plauf = { s.plauf with lowLines := s.plauf.lowLines ++ [(e, l)] } := by
  unfold laserLineLow
  rw [if_neg (by simp only [hn, Bool.false_eq_true, or_false]; omega), recapEngine_plauf]
  dsimp only
  rw [(emit_K _ _ _ _ _).part20 rfl]

theorem laserLineRestored_plauf {e l : Nat} (h : s.plauf.lowLines.contains (e, l) = true) :
    (laserLineRestored e l s).plauf = { s.plauf with lowLines := s.plauf.lowLines.filter (· != (e, l)) } := by
  unfold laserLineRestored
  rw [h, if_neg (by decide), recapEngine_plauf]

/-- The ports of an engine whose laser input is lost go DOWN under its hold. -/
theorem laserLost_port {e q : Nat} (he : e < 8) (hn : s.plauf.laserOut.contains e = false) (h1 : 4 * e ≤ q) (h2 : q < 4 * e + 4)
    (hq : (getPort s q).st ≠ .retired) : (getPort (laserLost e s) q).st = .down ∧ 1 ∈ (getPort (laserLost e s) q).holds := by
  unfold laserLost
  rw [if_neg (by simp only [hn, Bool.false_eq_true, or_false]; omega), emit_getPort]
  exact portsDown_st (4 * e) 1 q 4 _ hq h1 h2

theorem laserInputRestored_port {e q : Nat} (h : s.plauf.laserOut.contains e = true) (h1 : 4 * e ≤ q) (h2 : q < 4 * e + 4) :
    getPort (laserInputRestored e s) q = getPort (portRelease s q 1) q := by
  unfold laserInputRestored
  rw [h, if_neg (by decide), portsBack_holds (4 * e) 1 q 4 _ h1 h2]
  unfold portRelease
  dsimp only
  rw [getPort_putPort, getPort_putPort]
  rfl

/-- A DOWN port whose last hold goes trains. -/
theorem portRelease_trains {q hold : Nat} (hst : (getPort s q).st = .down) (hheld : (getPort s q).holds.contains hold = true)
    (hlast : (getPort (portRelease s q hold) q).holds = []) : (getPort (portRelease s q hold) q).st = .train := by
  rw [portRelease_port] at hlast
  unfold portRelease
  dsimp only
  rw [getPort_putPort]
  exact if_pos (by rw [hst, hheld, hlast]; rfl)

theorem lightDetected_port {p : Nat} (hp : p < 32) : (getPort (lightDetected p s) p).holds = (getPort s p).holds.filter (· != 5) ∧
    (getPort (lightDetected p s) p).st =
      if (getPort s p).st = .down ∧ (getPort s p).holds.filter (· != 5) = [] then .train else (getPort s p).st := by
  unfold lightDetected
  dsimp only
  rw [if_neg (Nat.not_le.2 hp), getPort_putPort]
  refine ⟨rfl, ?_⟩
  simp

end Sys2Proof.Machine
end

section
/-! Light, lines and wavelengths. -/

open Sys2Proof Sys2Proof.Machine

/-- Settles O28, clause by clause: `retireWave_facts`, `ringRecalibrate_run`, the laser lemmas, `portLeave_st` and `lightDetected_port`. -/
theorem lightLinesAndWavelengthsComeAndGo : Obligations.LightLinesAndWavelengthsComeAndGo := by
  refine ⟨fun s port wave hp hw hst hnew => ⟨_, next_congr (if_neg (by omega)), retireWave_facts hst hnew⟩,
    fun s port line ok hp hl hr hd hspare => next_congr (ringRecalibrate_run hp hl hr hd hspare ok),
    fun s e l he hl hn => ⟨_, rfl, laserLineLow_plauf he hl hn⟩, fun s e l h => ⟨_, rfl, laserLineRestored_plauf h⟩,
    fun s e he hn => ⟨_, rfl, fun q h1 h2 hq => laserLost_port he hn h1 h2 hq⟩, fun s e h => ⟨_, rfl, fun q h1 h2 => ?_⟩,
    fun s p hp hst => ⟨_, next_congr (if_neg (Nat.not_le.2 hp)), ?_⟩, fun s p hp => ⟨_, rfl, lightDetected_port hp⟩⟩
  · rw [laserInputRestored_port h h1 h2]
    exact ⟨portRelease_port s q 1, portRelease_trains⟩
  · obtain ⟨hdown, -, hkey, hhold⟩ := portLeave_st s p .down (some 5) hst
    exact ⟨hdown, hhold 5 rfl, hkey (by decide), portLeave_flt s p .down (some 5)⟩
end

section
/-! SUPPORT. Windows exported and imported (R399, R410, R446). -/

namespace Sys2Proof.Machine

variable {s : State} {d : Nat} {f : Flight}

/-- The window that an EXPORT asks for. -/
def askedExport (f : Flight) : Export :=
  { rights := f.op 0x21 1, cls := f.op 0x22 1, sizeLog2 := f.op 0x23 1, handle := f.op 0x24 1, firstCounter := f.op 0x26 2
    base := f.op 0x28 8, counters := f.op 0x30 2 }

/-- What R399 asks of an EXPORT's fields. -/
structure ExportFields (f : Flight) : Prop where
  rights : f.op 0x21 1 < 32
  cls : f.op 0x22 1 ≤ 7
  least : 13 ≤ f.op 0x23 1
  most : f.op 0x23 1 ≤ 40
  handle : f.op 0x24 1 < 64 ∨ f.op 0x24 1 = 0xFF
  aligned : f.op 0x28 8 % 8192 = 0
  low : f.op 0x28 8 + 2 ^ f.op 0x23 1 ≤ 0x7F0000000000
  counters : f.op 0x26 2 + f.op 0x30 2 ≤ 1024
  signals : bit (f.op 0x21 1) 3 = true → f.op 0x30 2 ≠ 0
  zero : f.zero 0x25 1 = true
  tail : f.zeroFrom 0x32 = true

/-- Whether a window's rights lack a pairing (R446). -/
def exportUnpaired (s : State) (f : Flight) : Bool :=
  if f.op 0x24 1 = 0xFF then !anyPairing s f.part
  else match pairingOf s f.part (f.op 0x24 1) with
    | none => true
    | some x => (List.range 5).any fun i => bit (f.op 0x21 1) i && !bit x.ceiling i

theorem exportUnpaired_false (h : if f.op 0x24 1 = 0xFF then anyPairing s f.part = true
      else ∃ x ∈ pairingOf s f.part (f.op 0x24 1), ∀ i < 5, bit (f.op 0x21 1) i = true → bit x.ceiling i = true) :
    exportUnpaired s f = false := by
  unfold exportUnpaired
  split
  · next hall =>
    rw [if_pos hall] at h
    rw [h]
    rfl
  · next hone =>
    rw [if_neg hone] at h
    obtain ⟨x, hx, hceil⟩ := h
    rw [Option.mem_def.1 hx]
    refine List.any_eq_false.2 fun i hi hbad => ?_
    obtain ⟨hb, hc⟩ := by simpa using hbad
    rw [hceil i (List.mem_range.1 hi) hb] at hc
    cases hc

theorem winExport_run (h : Runs s d 0x9010 f) (hf : ExportFields f) (hnew : tfind s.plauf.exports (256 * f.part + f.op 0x20 1) = none)
    (hpair : exportUnpaired s f = false) :
    winExport d s = endF { s with plauf := { s.plauf with
      exports := tput s.plauf.exports (256 * f.part + f.op 0x20 1) (askedExport f) } } d stOk 0 := by
  obtain ⟨h1, h2, h3, h4, h5, h6, h7, h8, h9, hz, hzf⟩ := hf
  have hrange : decide (32 ≤ f.op 0x21 1 ∨ 7 < f.op 0x22 1 ∨ f.op 0x23 1 < 13 ∨ 40 < f.op 0x23 1 ∨ (64 ≤ f.op 0x24 1 ∧ f.op 0x24 1 ≠ 0xFF) ∨
      f.op 0x28 8 % 8192 ≠ 0 ∨ 0x7F0000000000 < f.op 0x28 8 + 2 ^ f.op 0x23 1 ∨ 1024 < f.op 0x26 2 + f.op 0x30 2) = false :=
    decide_eq_false (by omega)
  have hsig : (bit (f.op 0x21 1) 3 && f.op 0x30 2 == 0) = false := by
    cases hb : bit (f.op 0x21 1) 3
    · rfl
    · simp [h9 hb]
  unfold winExport
  rw [withOp_run h]
  dsimp only
  rw [hrange, hsig, hz, hzf, hnew]
  change refuseIf s d [(_, _), (_, _), (_, exportUnpaired s f)] _ = _
  rw [hpair]
  exact refuseIf_pass (by decide) _

theorem winUnexport_run {e : Export} (h : Runs s d 0x9011 f) (hz : f.zeroFrom 0x21 = true)
    (he : tfind s.plauf.exports (256 * f.part + f.op 0x20 1) = some e) (hopen : e.unexportBy = none) :
    winUnexport d s = putF { s with plauf := { s.plauf with
      exports := tput s.plauf.exports (256 * f.part + f.op 0x20 1) { e with open_ := false, unexportBy := some d } } } d
      { f with phase := .running } := by
  unfold winUnexport
  rw [withOp_run h]
  dsimp only
  rw [he]
  exact refuseIf_pass (by simp [hz, hopen]) _

theorem winUnexportDone_run {key : Nat} {e : Export} (he : (s.plauf.exports.find? fun e => e.2.unexportBy == some d) = some (key, e))
    (hidle : e.inUse = 0) :
    winUnexportDone d s = endF { s with plauf := { s.plauf with exports := tdel s.plauf.exports key } } d stOk 0 := by
  unfold winUnexportDone
  rw [he]
  exact if_neg (by rw [hidle]; decide)

/-- An IMPORT with its record bound to the command, before its request leaves. -/
def importAsked (s : State) (d : Nat) (f : Flight) : State :=
  putF { s with plauf := { s.plauf with
    imports := tput s.plauf.imports (256 * f.part + f.op 0x20 1) { handle := f.op 0x21 1, exportId := f.op 0x22 1, by_ := d } } } d
    { f with phase := .running }

theorem winImport_run {pr : Pairing} (h : Runs s d 0x9012 f) (hh : f.op 0x21 1 < 64) (hz : f.zeroFrom 0x23 = true)
    (hnew : tfind s.plauf.imports (256 * f.part + f.op 0x20 1) = none) (hpr : pairingOf s f.part (f.op 0x21 1) = some pr)
    (hport : groupOf s pr.farHash ≠ []) :
    winImport d s = request (importAsked s d f) d f.part (f.op 0x20 1) 0x10 f.cls 4 (f.op 0x20 1) 0 0 0 0 [] := by
  unfold winImport
  rw [withOp_run h]
  dsimp only
  rw [hpr, hnew]
  exact refuseIf_pass (by simp [hz, hh, hport]) _

theorem winUnimport_run {im : Import} (h : Runs s d 0x9013 f) (hz : f.zeroFrom 0x21 = true) (him : importOf s f.part (f.op 0x20 1) = some im)
    (hbound : im.bound = true) (hfree : importUsed s f.part (f.op 0x20 1) = false) :
    winUnimport d s = endF { s with plauf := { s.plauf with imports := tdel s.plauf.imports (256 * f.part + f.op 0x20 1) } } d stOk 0 := by
  unfold winUnimport
  rw [withOp_run h]
  dsimp only
  rw [him, hfree]
  exact refuseIf_pass (by simp [hz, hbound]) _

end Sys2Proof.Machine
end

section
/-! Windows. -/

open Sys2Proof Sys2Proof.Machine

/-- Settles O29, clause by clause: `winExport_run`, `winUnexport_run`, `winUnexportDone_run`, `winImport_run` and `winUnimport_run`. -/
theorem windowsOpenAndClose : Obligations.WindowsOpenAndClose :=
  ⟨fun _ _ _ h h1 h2 h3 h4 h5 h6 h7 h8 h9 hz hzf hnew hpair =>
      ⟨_, next_congr (winExport_run h ⟨h1, h2, h3, h4, h5, h6, h7, h8, h9, hz, hzf⟩ hnew (exportUnpaired_false hpair)), rfl⟩,
    fun _ _ _ _ h hz he hopen => ⟨_, next_congr (winUnexport_run h hz he hopen), rfl⟩,
    fun _ _ _ _ he hidle => next_congr (winUnexportDone_run he hidle),
    fun _ _ _ _ h hh hz hnew hpr hport => ⟨_, next_congr (winImport_run h hh hz hnew hpr hport), rfl⟩,
    fun _ _ _ _ h hz him hbound hfree => next_congr (winUnimport_run h hz him hbound hfree)⟩
end

section
/-! SUPPORT. READ, WRITE, ATOMIC and SIGNAL to a neighbour; sealed transfers (R241, R402, R403, R435-R437, R461). -/

namespace Sys2Proof.Machine

variable {s : State} {d : Nat} {f : Flight} {im : Import}

/-- What R402 asks of the fields of a READ or WRITE, out of the sequence ranges (R241). -/
structure MoveAsked (f : Flight) : Prop where
  eve : f.fEve = false
  zero : f.zero 0x29 7 = true
  tail : f.zeroFrom 0x3C = true
  units : f.op 0x38 4 % 64 = 0
  least : 64 ≤ f.op 0x38 4
  most : f.op 0x38 4 ≤ 2 ^ 26
  near : f.op 0x20 8 % 64 = 0
  far : f.op 0x30 8 % 64 = 0
  range : f.op 0x20 8 + f.op 0x38 4 ≤ 2 ^ 47 ∨ 2 ^ 48 ≤ f.op 0x20 8

theorem MoveAsked.fields (h : MoveAsked f) : moveFields f = true :=
  moveFields_ok h.eve h.zero h.tail h.units h.least h.most h.near h.far

theorem MoveAsked.outOfSeq (h : MoveAsked f) : outOfSeq f = .ok () := by
  obtain hr := h.range
  unfold Machine.outOfSeq
  exact if_neg (by omega)

/-- A bound import that holds a right through a pairing. -/
structure Holds (s : State) (p slot right : Nat) (im : Import) : Prop where
  found : importOf s p slot = some im
  bound : im.bound = true
  right_ : bit im.rights right = true
  paired : (pairingOf s p im.handle).isSome = true

theorem Holds.with_ {p slot right : Nat} (h : Holds s p slot right im) : importWith s p slot right = .ok im :=
  importWith_ok h.found h.bound h.right_ h.paired

/-- The messages of a READ. -/
def readSent (s : State) (d : Nat) (f : Flight) : State :=
  (List.range ((f.op 0x38 4 + 2047) / 2048)).foldl (fun t i =>
    request t d f.part (f.op 0x28 1) 1 f.cls 0 (f.op 0x20 8 + 2048 * i) (f.op 0x30 8 + 2048 * i) 0 0 (min 32 ((f.op 0x38 4 - 2048 * i) / 64)) []) s

/-- The messages that carry a transfer's parts, of a type, to a destination. -/
def partsSent (s : State) (d : Nat) (f : Flight) (ty op fmt : Nat) (bs : List (Byte × Bool)) : State :=
  (transferParts bs).foldl (fun t e =>
    request t d f.part (f.op 0x28 1) ty f.cls 2 0 (f.op 0x30 8 + e.1) op fmt 0 e.2.1 (if e.2.2 then 2 else 0)) s

theorem getF_readSent (s : State) (d : Nat) (f : Flight) (e : Nat) : getF (readSent s d f) e = getF s e :=
  foldl_part (getF · e) _ (fun _ _ => getF_request ..) _ s

theorem getF_partsSent (s : State) (d : Nat) (f : Flight) (ty op fmt : Nat) (bs : List (Byte × Bool)) (e : Nat) :
    getF (partsSent s d f ty op fmt bs) e = getF s e := foldl_part (getF · e) _ (fun _ _ => getF_request ..) _ s

theorem remoteReadOp_ok (hm : MoveAsked f) (hi : Holds s f.part (f.op 0x28 1) 0 im) : remoteReadOp s d f = .ok (endF (readSent s d f) d stOk 0) := by
  unfold remoteReadOp
  simp only [hm.fields, hm.outOfSeq, hi.with_, needs_true, except_bind]
  rfl

theorem remoteWriteOp_ok {bs : List (Byte × Bool)} (hm : MoveAsked f) (hi : Holds s f.part (f.op 0x28 1) 1 im)
    (hbs : vreadP s (cxOf s f d) (f.op 0x20 8) (f.op 0x38 4) = .ok bs) :
    remoteWriteOp s d f = .ok (endF (partsSent s d f 3 0 0 bs) d (if bs.any Prod.snd then stPoisoned else stOk) 0) := by
  unfold remoteWriteOp
  simp only [hm.fields, hm.outOfSeq, hi.with_, hbs, needs_true, except_bind]
  rfl

/-- What R402 asks of an ATOMIC with its source tensor. -/
structure AtomicAsked (s : State) (d : Nat) (f : Flight) (t : Tensor) : Prop where
  eve : f.fEve = false
  zero : f.zero 0x29 7 = true
  tail : f.zeroFrom 0x3A = true
  op : f.op 0x38 1 ≤ 2
  fmt : f.op 0x39 1 ∈ [0, 1, 6, 7]
  far : f.op 0x30 8 % 64 = 0
  source : operand s (cxOf s f d) (f.op 0x20 8) = .ok t
  same : t.fmt = f.op 0x39 1
  whole : t.contiguous = true
  near : t.base % 64 = 0
  units : t.bytes % 64 = 0
  most : t.bytes ≤ 2 ^ 26

theorem remoteAtomicOp_ok {t : Tensor} {bs : List (Byte × Bool)} (ha : AtomicAsked s d f t) (hi : Holds s f.part (f.op 0x28 1) 2 im)
    (hbs : vreadP s (cxOf s f d) t.base t.bytes = .ok bs) :
    remoteAtomicOp s d f =
      .ok (endF (partsSent s d f 5 (f.op 0x38 1) (f.op 0x39 1) bs) d (if bs.any Prod.snd then stPoisoned else stOk) 0) := by
  obtain ⟨he, hz, hzf, hop, hfmt, hfar, ht, hsame, hwhole, hnear, hunits, hmost⟩ := ha
  have hfields : (!f.fEve && f.zero 0x29 7 && f.zeroFrom 0x3A && decide (f.op 0x38 1 ≤ 2) && [0, 1, 6, 7].contains (f.op 0x39 1)
      && f.op 0x30 8 % 64 == 0) = true := by
    rw [he, hz, hzf, decide_eq_true hop, List.contains_iff_mem.2 hfmt, hfar]
    rfl
  have htensor : (t.fmt == f.op 0x39 1 && t.contiguous && t.base % 64 == 0 && t.bytes % 64 == 0 && decide (t.bytes ≤ 2 ^ 26)) = true := by
    rw [hsame, hwhole, hnear, hunits, decide_eq_true hmost]
    simp
  unfold remoteAtomicOp
  simp only [hfields, ht, hi.with_, needs_true, except_bind, htensor, hbs]
  rfl

theorem remoteSignalOp_ok (he : f.fEve = false) (hz : f.zero 0x21 1 = true) (hz2 : f.zero 0x24 4 = true) (hzf : f.zeroFrom 0x30 = true)
    (h1 : 1 ≤ f.op 0x28 8) (h2 : f.op 0x28 8 < 2 ^ 48) (hi : Holds s f.part (f.op 0x20 1) 3 im) (hc : f.op 0x22 2 < im.counters) :
    remoteSignalOp s d f = .ok (endF (request s d f.part (f.op 0x20 1) 7 f.cls 2 0 (f.op 0x22 2) 0 0 (f.op 0x28 8) []) d stOk 0) := by
  have hout : decide (im.counters ≤ f.op 0x22 2) = false := decide_eq_false (Nat.not_le.2 hc)
  unfold remoteSignalOp
  simp only [hi.found, hi.with_, he, hz, hz2, hzf, decide_eq_true (And.intro h1 h2), hout, Bool.and_false, Bool.not_false, Bool.and_self,
    needs_true, except_bind]
  rfl

theorem remoteRead_run {v : State} (h : Runs s d 0x9001 f) (hop : remoteReadOp s d f = .ok v) : remoteRead d s = v := by
  unfold remoteRead
  rw [withOp_run h, hop]

theorem remoteWrite_run {v : State} (h : Runs s d 0x9002 f) (hop : remoteWriteOp s d f = .ok v) : remoteWrite d s = v := by
  unfold remoteWrite
  rw [withOp_run h, hop]

theorem remoteAtomic_run {v : State} (h : Runs s d 0x9003 f) (hop : remoteAtomicOp s d f = .ok v) : remoteAtomic d s = v := by
  unfold remoteAtomic
  rw [withOp_run h, hop]

theorem remoteSignal_run {v : State} (h : Runs s d 0x9004 f) (hop : remoteSignalOp s d f = .ok v) : remoteSignal d s = v := by
  unfold remoteSignal
  rw [withOp_run h, hop]

/-- What R435 asks of a sealed transfer in the direction of a key's use. -/
structure SealAsked (s : State) (d : Nat) (f : Flight) (use : Nat) (b : List Byte) (r : SealRec) (k : KeySlot) : Prop where
  eve : f.fEve = false
  tail : f.zeroFrom 0x28 = true
  read : recordIn s (cxOf s f d) (f.op 0x20 8) 64 64 = .ok b
  parsed : parseSeal b = some r
  low : r.local_ + 8192 * r.cells ≤ 0x7F0000000000
  key : keySlot s f.part r.slot = some k
  sealed_ : isSealed s f.part = true
  use_ : bit k.use use = true

variable {b : List Byte} {r : SealRec} {k : KeySlot}

theorem SealAsked.start {use : Nat} (h : SealAsked s d f use b r k) : sealStart s d f use = .ok (r, k) :=
  sealStart_ok h.eve h.tail h.read h.parsed h.low h.key h.sealed_ h.use_

theorem sealIn_run (h : Runs s d 0x9020 f) (ha : SealAsked s d f 0 b r k) : sealIn d s = sealInCells d f r k r.cells 0 s := by
  unfold sealIn
  rw [withOp_run h, ha.start]

/-- The state with a key's transfer counter raised. -/
def keyCounted (s : State) (p : Nat) (r : SealRec) (k : KeySlot) : State :=
  putKeys s p { getKeys s p with slots := tput (getKeys s p).slots r.slot { k with counter := (k.counter + 1) % 2 ^ 64 } }

theorem sealOut_run {u : State} (h : Runs s d 0x9021 f) (ha : SealAsked s d f 1 b r k)
    (hu : vwrite (keyCounted s f.part r k) (cxOf s f d) (f.op 0x20 8 + 0x18) (toLe 8 k.counter) = .ok u) :
    sealOut d s = sealOutCells d f r k r.cells u := by
  have hcx : cxOf (keyCounted s f.part r k) f d = cxOf s f d := rfl
  unfold sealOut
  rw [withOp_run h, ha.start]
  change (match vwrite (keyCounted s f.part r k) (cxOf (keyCounted s f.part r k) f d) _ _ with
    | .error e => stopWith (keyCounted s f.part r k) d e
    | .ok s2 => sealOutCells d f r k r.cells s2) = _
  rw [hcx, hu]

/-- The one cell of a SEAL_IN, opened. -/
def openedCell (r : SealRec) (k : KeySlot) (ct : List Byte) : List Byte := fit 8192 (gcmCrypt k.key (sealIv r.object r.first) ct)

theorem sealInCells_one {v : State} {ct : List Byte} (hct : hread s r.host 8192 = some ct)
    (htag : hread s r.tags 16 = some (fit 16 (Config.gcmTag k.key (sealIv r.object r.first) [] ct)))
    (hv : vwrite s (cxOf s f d) r.local_ (openedCell r k ct) = .ok v) : sealInCells d f r k 1 0 s = endF v d stOk 0 := by
  unfold sealInCells
  simp only [cellBytes, Nat.mul_zero, Nat.add_zero, hct, htag, if_true]
  rw [show fit 8192 (gcmCrypt k.key (sealIv r.object r.first) ct) = openedCell r k ct from rfl, hv]
  rfl

theorem sealInCells_forged {ct tag : List Byte} (hct : hread s r.host 8192 = some ct) (htag : hread s r.tags 16 = some tag)
    (hne : fit 16 (Config.gcmTag k.key (sealIv r.object r.first) [] ct) ≠ tag) :
    sealInCells d f r k 1 0 s = endF (emit s 6 6 { part := f.part } [(8, r.local_)]) d stPoisoned 0 := by
  unfold sealInCells
  simp only [cellBytes, Nat.mul_zero, Nat.add_zero, hct, htag, hne, if_false]

/-- The one cell of a SEAL_OUT, sealed. -/
def sealedCell (r : SealRec) (k : KeySlot) (bs : List (Byte × Bool)) : List Byte :=
  fit 8192 (gcmCrypt k.key (sealIv k.counter r.first) (bs.map Prod.fst))

/-- The state after a cell and its tag stand in host memory. -/
def cellOut (s : State) (r : SealRec) (k : KeySlot) (bs : List (Byte × Bool)) : State :=
  hwrite (hwrite s r.host (sealedCell r k bs)) r.tags (fit 16 (Config.gcmTag k.key (sealIv k.counter r.first) [] (sealedCell r k bs)))

theorem sealOutCells_one {bs : List (Byte × Bool)} (hbs : vreadP s (cxOf s f d) r.local_ 8192 = .ok bs) (hclean : bs.any Prod.snd = false)
    (hw : hostBad s r.host 8192 = false) (hw2 : hostBad s r.tags 16 = false) : sealOutCells d f r k 1 s = endF (cellOut s r k bs) d stOk 0 := by
  have hcell : sealOutCell d f r k 0 s = (cellOut s r k bs, some false) := by
    unfold sealOutCell
    simp only [cellBytes, Nat.mul_zero, Nat.add_zero, hbs, hw, hw2, Bool.or_self, Bool.false_eq_true, if_false, hclean]
    rfl
  unfold sealOutCells
  rw [List.range_one, List.foldl_cons, List.foldl_nil]
  dsimp only
  rw [hcell]
  rfl

end Sys2Proof.Machine
end

section
/-! Transfers to a neighbour and sealed transfers. -/

open Sys2Proof Sys2Proof.Machine

/-- Settles O30, clause by clause: the work of each operation succeeds (`remoteReadOp_ok` … `remoteSignalOp_ok`), and `sealIn_run`
and `sealOut_run` with the lemmas on one cell. -/
theorem remoteAndSealedTransfersLeave : Obligations.RemoteAndSealedTransfersLeave := by
  refine ⟨fun s d f im h h1 h2 h3 h4 h5 h6 h7 h8 h9 i1 i2 i3 i4 => ?_, fun s d f im h h1 h2 h3 h4 h5 h6 h7 h8 h9 i1 i2 i3 i4 hclean => ?_,
    fun s d f im bs h h1 h2 h3 h4 h5 h6 h7 h8 h9 i1 i2 i3 i4 hbs hbad => ?_,
    fun s d f t im h h1 h2 h3 h4 h5 h6 h7 h8 h9 h10 h11 h12 i1 i2 i3 i4 hclean => ?_,
    fun s d f t im bs h h1 h2 h3 h4 h5 h6 h7 h8 h9 h10 h11 h12 i1 i2 i3 i4 hbs hbad => ?_,
    fun s d f im h h1 h2 h3 h4 h5 h6 i1 i2 i3 i4 hc => ?_,
    fun s d f b r k h h1 h2 h3 h4 h5 h6 h7 h8 => next_congr (sealIn_run h ⟨h1, h2, h3, h4, h5, h6, h7, h8⟩),
    fun s d f b r k ct h h1 h2 h3 h4 h5 h6 h7 h8 hone hct htag hmap => ?_,
    fun s d f b r k ct tag h h1 h2 h3 h4 h5 h6 h7 h8 hone hct htag hne => ?_,
    fun s u d f b r k h h1 h2 h3 h4 h5 h6 h7 h8 hu => next_congr (sealOut_run h ⟨h1, h2, h3, h4, h5, h6, h7, h8⟩ hu),
    fun s u d f b r k h h1 h2 h3 h4 h5 h6 h7 h8 hone hu hclean hw hw2 => ?_⟩
  · refine ⟨_, next_congr (remoteRead_run h (remoteReadOp_ok ⟨h1, h2, h3, h4, h5, h6, h7, h8, h9⟩ ⟨i1, i2, i3, i4⟩)),
      hasStatus_end (f := f) ?_, rfl⟩
    exact (getF_readSent s d f d).trans h.1
  · obtain ⟨bs, hbs, hnone⟩ := vreadP_clean s (cxOf s f d) _ _ hclean
    have hrun := remoteWrite_run h (remoteWriteOp_ok ⟨h1, h2, h3, h4, h5, h6, h7, h8, h9⟩ ⟨i1, i2, i3, i4⟩ hbs)
    rw [hnone] at hrun
    exact ⟨_, bs, next_congr hrun, hasStatus_end (f := f) ((getF_partsSent s d f 3 0 0 bs d).trans h.1), hbs, rfl⟩
  · have hrun := remoteWrite_run h (remoteWriteOp_ok ⟨h1, h2, h3, h4, h5, h6, h7, h8, h9⟩ ⟨i1, i2, i3, i4⟩ hbs)
    rw [hbad] at hrun
    exact ⟨_, next_congr hrun, hasStatus_end (f := f) ((getF_partsSent s d f 3 0 0 bs d).trans h.1), rfl⟩
  · obtain ⟨bs, hbs, hnone⟩ := vreadP_clean s (cxOf s f d) _ _ hclean
    have hrun := remoteAtomic_run h (remoteAtomicOp_ok ⟨h1, h2, h3, h4, h5, h6, h7, h8, h9, h10, h11, h12⟩ ⟨i1, i2, i3, i4⟩ hbs)
    rw [hnone] at hrun
    exact ⟨_, bs, next_congr hrun, hasStatus_end (f := f) ((getF_partsSent s d f 5 _ _ bs d).trans h.1), hbs, rfl⟩
  · have hrun := remoteAtomic_run h (remoteAtomicOp_ok ⟨h1, h2, h3, h4, h5, h6, h7, h8, h9, h10, h11, h12⟩ ⟨i1, i2, i3, i4⟩ hbs)
    rw [hbad] at hrun
    exact ⟨_, next_congr hrun, hasStatus_end (f := f) ((getF_partsSent s d f 5 _ _ bs d).trans h.1), rfl⟩
  · exact ⟨_, next_congr (remoteSignal_run h (remoteSignalOp_ok h1 h2 h3 h4 h5 h6 ⟨i1, i2, i3, i4⟩ hc)),
      hasStatus_end (f := f) ((getF_request ..).trans h.1), rfl⟩
  · have hlen : (openedCell r k ct).length = 8192 := fit_length _ _
    obtain ⟨v, hv⟩ := vwrite_local s (cxOf s f d) r.local_ (openedCell r k ct) (by rw [hlen]; exact hmap)
    have hrun := sealIn_run h ⟨h1, h2, h3, h4, h5, h6, h7, h8⟩
    rw [hone] at hrun
    exact ⟨_, v, next_congr (hrun.trans (sealInCells_one hct htag hv)), hasStatus_end (f := f) ((getF_vwrite hv d).trans h.1), rfl, hv⟩
  · have hrun := sealIn_run h ⟨h1, h2, h3, h4, h5, h6, h7, h8⟩
    rw [hone] at hrun
    exact next_congr (hrun.trans (sealInCells_forged hct htag hne))
  · obtain ⟨bs, hbs, hnone⟩ := vreadP_clean u (cxOf u f d) _ _ hclean
    have hrun := sealOut_run h ⟨h1, h2, h3, h4, h5, h6, h7, h8⟩ hu
    rw [hone] at hrun
    refine ⟨_, bs, next_congr (hrun.trans (sealOutCells_one hbs hnone hw hw2)), hasStatus_end (f := f) ?_, hbs, rfl⟩
    exact (getF_hwrite _ _ _ d).trans ((getF_hwrite _ _ _ d).trans ((getF_vwrite hu d).trans h.1))
end

section
/-! SUPPORT. Requests from a neighbour (R399, R400, R404, R405). -/

namespace Sys2Proof.Machine

variable {s : State} {port : Nat} {m : RemMsg}

theorem rd_run {e : Export} {bs : List (Byte × Bool)} (hup : (getPort s port).st = .up) (hty : m.type = 1)
    (hsev : s.fab.severed = false ∨ port < 16) (he : ingress s (getPort s port).farHash m = .ok e)
    (hbs : vreadP s (ingressCx m) (e.base + m.offset) (reqBytes m) = .ok bs) :
    rd port m s = answerTo s (getPort s port).farHash m (if bs.any Prod.snd then 2 else 0) (if bs.any Prod.snd then [] else bs.map Prod.fst) := by
  have hnear : ¬ (s.fab.severed = true ∧ 16 ≤ port) := by
    rintro ⟨h1, h2⟩
    rcases hsev with h | h
    · rw [h] at h1; cases h1
    · omega
  unfold rd
  dsimp only
  rw [if_neg (by simp [hup, hty]), if_neg hnear, he]
  dsimp only
  rw [hbs]

/-- What a numbered request must meet to reach its number (R404, R405): its port, its package and its epochs. -/
structure Numbered (s : State) (port type : Nat) (m : RemMsg) : Prop where
  up : (getPort s port).st = .up
  type_ : m.type = type
  free : ingressHeld s (getPort s port).farHash m = false
  notTrip : s.pwr.pkg ≠ .trip
  near : s.fab.severed = false ∨ port < 16
  target : m.epochTarget = (tfind s.plauf.targetEpoch m.targetPart).getD 0
  sender : newerHalf (streamIn s (streamKey (getPort s port).farHash m.sendPart m.targetPart)).sender m.epochSender = false

/-- The stream's record as a request of a sender's epoch finds it. -/
def epochStream (s : State) (key : Nat) (m : RemMsg) : StreamIn :=
  if m.epochSender = (streamIn s key).sender then streamIn s key else { sender := m.epochSender }

/-- The stream of a numbered request. -/
def reqKey (s : State) (port : Nat) (m : RemMsg) : Nat := streamKey (getPort s port).farHash m.sendPart m.targetPart

/-- The state with the stream's record as the request finds it. -/
def epochSet (s : State) (port : Nat) (m : RemMsg) : State :=
  putStream s (reqKey s port m) (epochStream s (reqKey s port m) m)

theorem takeNumbered_eq {type : Nat} (h : Numbered s port type m) :
    takeNumbered type port m s =
      if wasApplied (epochStream s (reqKey s port m) m) m.streamSeq then answerTo (epochSet s port m) (getPort s port).farHash m 0 []
      else if m.type = 7 ∧ m.streamSeq ≠ (epochStream s (reqKey s port m) m).applied then
        match ingress (epochSet s port m) (getPort s port).farHash m with
        | .ok _ => if (epochStream s (reqKey s port m) m).held.any fun h => h.streamSeq == m.streamSeq then epochSet s port m
            else countUse (putStream (epochSet s port m) (reqKey s port m)
              { epochStream s (reqKey s port m) m with held := (epochStream s (reqKey s port m) m).held ++ [m] }) m true
        | .error _ => serveSeq (epochSet s port m) (getPort s port).farHash (reqKey s port m) m
      else releaseSignals 4097 (serveSeq (epochSet s port m) (getPort s port).farHash (reqKey s port m) m) (reqKey s port m) := by
  obtain ⟨hup, hty, hfree, htrip, hsev, hte, hse⟩ := h
  have hnear : ¬ (s.fab.severed = true ∧ 16 ≤ port) := by
    rintro ⟨h1, h2⟩
    rcases hsev with h | h
    · rw [h] at h1; cases h1
    · omega
  unfold takeNumbered
  dsimp only
  rw [if_neg (by simp [hup, hty, hfree]), if_neg htrip, if_neg hnear, if_neg (by simp [hte]), if_neg (ne_true_of_eq_false hse)]
  rfl

/-- One applied before is answered 0 without effect. -/
theorem takeNumbered_again {type : Nat} (h : Numbered s port type m)
    (happ : wasApplied (epochStream s (reqKey s port m) m) m.streamSeq = true) :
    takeNumbered type port m s = answerTo (epochSet s port m) (getPort s port).farHash m 0 [] :=
  (takeNumbered_eq h).trans (if_pos happ)

/-- A request that has passed its checks, applied and answered. -/
theorem serveSeq_ok {t : State} {hash key : Nat} {e : Export} (he : ingress t hash m = .ok e) :
    serveSeq t hash key m =
      answerTo (putStream (applyReq t e m).1 key (markSeq (streamIn (applyReq t e m).1 key) m.streamSeq)) hash m (applyReq t e m).2 [] := by
  unfold serveSeq
  rw [he]

/-- One not applied before, and for a signal next in order, that passes the ingress checks is applied. -/
theorem takeNumbered_serves {type : Nat} {e : Export} (h : Numbered s port type m)
    (hnew : wasApplied (epochStream s (reqKey s port m) m) m.streamSeq = false)
    (hnext : m.type = 7 → m.streamSeq = (epochStream s (reqKey s port m) m).applied)
    (he : ingress (epochSet s port m) (getPort s port).farHash m = .ok e) :
    takeNumbered type port m s = releaseSignals 4097 (answerTo
      (putStream (applyReq (epochSet s port m) e m).1 (reqKey s port m)
        (markSeq (streamIn (applyReq (epochSet s port m) e m).1 (reqKey s port m)) m.streamSeq))
      (getPort s port).farHash m (applyReq (epochSet s port m) e m).2 []) (reqKey s port m) := by
  have hturn : ¬ (m.type = 7 ∧ m.streamSeq ≠ (epochStream s (reqKey s port m) m).applied) := fun hx => hx.2 (hnext hx.1)
  rw [← serveSeq_ok he]
  exact (takeNumbered_eq h).trans ((if_neg (ne_true_of_eq_false hnew)).trans (if_neg hturn))

/-- A WR's effect: its bytes written, poison where it says so. -/
theorem applyReq_wr {t v : State} {e : Export} (hty : m.type = 3)
    (hw : vwriteP t (ingressCx m) 1 (e.base + m.offset) (m.data.map fun b => (b, m.status == 2)) = .ok v) : applyReq t e m = (v, 0) := by
  unfold applyReq
  dsimp only
  rw [if_neg (by omega), if_pos hty, hw]

/-- A SIG's effect: the counter's increment. -/
theorem applyReq_sig {t : State} {e : Export} (hty : m.type = 7) :
    applyReq t e m = ((addCounter t m.targetPart (e.firstCounter + m.offset) m.increment (some m.sendPart)).1, 0) := if_pos hty

theorem impQ_run {e : Export} {rights : Nat} (hup : (getPort s port).st = .up) (hty : m.type = 0x10) (htrip : s.pwr.pkg ≠ .trip)
    (he : exportFor s (getPort s port).farHash m = some (e, rights)) :
    impQ port m s = answerTo s (getPort s port).farHash { m with op := e.sizeLog2, format := rights, increment := e.counters } 0 [] := by
  unfold impQ
  dsimp only
  rw [if_neg (by simp [hup, hty]), if_neg htrip, he]

end Sys2Proof.Machine
end

section
/-! Requests from a neighbour. -/

open Sys2Proof Sys2Proof.Machine

/-- Settles O31, clause by clause: `rd_run`, `takeNumbered_serves` with `applyReq_wr` and `applyReq_sig`, `takeNumbered_again`, and
`impQ_run`. -/
theorem requestsFromANeighbourAreServed : Obligations.RequestsFromANeighbourAreServed := by
  refine ⟨fun s port m e bs hup hty hsev he hbs => next_congr (rd_run hup hty hsev he hbs),
    fun s t port hash key m x e hup hty hfree htrip hsev hh hk hte hse hx hnew he hw => ?_,
    fun s port hash key m x e hup hty hfree htrip hsev hh hk hte hse hx hnew he => ?_,
    fun s port hash key m x e hup hty hfree htrip hsev hh hk hte hse hx hnew he hnext => ?_,
    fun s port hash key m x hup hfree htrip hsev hh hk hte hse hx happ => ?_,
    fun s port rights m e hup hty htrip he => next_congr (impQ_run hup hty htrip he)⟩
  · subst hh hk hx
    have hrun := takeNumbered_serves ⟨hup, hty, hfree, htrip, hsev, hte, hse⟩ hnew (fun h7 => by omega) he
    have heff : applyReq (epochSet s port m) e m = (t, 0) := applyReq_wr hty hw
    rw [heff] at hrun
    exact next_congr hrun
  · subst hh hk hx
    exact next_congr (takeNumbered_serves ⟨hup, hty, hfree, htrip, hsev, hte, hse⟩ hnew (fun h7 => by omega) he)
  · subst hh hk hx
    have hrun := takeNumbered_serves ⟨hup, hty, hfree, htrip, hsev, hte, hse⟩ hnew (fun _ => hnext) he
    rw [applyReq_sig hty] at hrun
    exact next_congr hrun
  · subst hh hk hx
    exact ⟨fun hty => next_congr (takeNumbered_again ⟨hup, hty, hfree, htrip, hsev, hte, hse⟩ happ),
      fun hty => next_congr (takeNumbered_again ⟨hup, hty, hfree, htrip, hsev, hte, hse⟩ happ),
      fun hty => next_congr (takeNumbered_again ⟨hup, hty, hfree, htrip, hsev, hte, hse⟩ happ)⟩
end

section
/-! SUPPORT. Answers to what was sent, and their lack (R403-R405, R408). -/

namespace Sys2Proof.Machine

variable {s : State} {port n : Nat} {m : RemMsg} {o : OutReq}

/-- A good answer to an unanswered request. -/
theorem takeAnswer_good {type : Nat} (h : requestOf s port type m.tag = some (n, o)) (hst : m.status = 0) :
    takeAnswer type port m s = pumpOut (goodAnswer s n o m) := by
  unfold takeAnswer
  rw [h]
  dsimp only
  rw [hst]
  rfl

theorem goodAnswer_read {t : State} {f : Flight} (hk : o.kind = 0) (hf : getF s o.desc = some f)
    (hw : vwrite (delOut s n) (cxOf (delOut s n) f o.desc) o.local_ m.data = .ok t) : goodAnswer s n o m = settleF t o.desc := by
  have hf' : getF (delOut s n) o.desc = some f := hf
  unfold goodAnswer
  simp only [hk, hf', hw]

theorem goodAnswer_ack (hk : o.kind = 2) : goodAnswer s n o m = settleF (delOut s n) o.desc := by
  unfold goodAnswer
  rw [hk]
  rfl

/-- The state with an import bound as its answer says, and the stream of its pairing at the target's half. -/
def importBound (s : State) (n : Nat) (o : OutReq) (m : RemMsg) (im : Import) (key : Nat) : State :=
  let s1 := delOut s n
  { s1 with plauf := { s1.plauf with
    imports := tput s1.plauf.imports (256 * o.part + o.local_) { im with bound := true, sizeLog2 := m.op, rights := m.format, counters := m.increment }
    streamsOut := if ((tfind s1.plauf.streamsOut key).getD {}).target = m.epochTarget then s1.plauf.streamsOut
      else tput s1.plauf.streamsOut key { target := m.epochTarget, next := 0 } } }

theorem goodAnswer_import {im : Import} {pr : Pairing} (hk : o.kind = 4) (him : importOf s o.part o.local_ = some im)
    (hpr : pairingOf s o.part o.handle = some pr) :
    goodAnswer s n o m =
      endF (importBound s n o m im (streamKey pr.farHash o.part pr.farPart)) o.desc stOk (m.op + 2 ^ 8 * m.format + 2 ^ 16 * m.increment) := by
  have him' : importOf (delOut s n) o.part o.local_ = some im := him
  have hpr' : pairingOf (delOut s n) o.part o.handle = some pr := hpr
  unfold goodAnswer
  simp only [hk, him', hpr']
  rfl

theorem importBound_import (im : Import) (key : Nat) : importOf (importBound s n o m im key) o.part o.local_ =
    some { im with bound := true, sizeLog2 := m.op, rights := m.format, counters := m.increment } := tfind_tput_same _ _ _

theorem importBound_target (im : Import) (key : Nat) : ((tfind (importBound s n o m im key).plauf.streamsOut key).getD {}).target = m.epochTarget := by
  unfold importBound
  dsimp only
  split
  · assumption
  · rw [tfind_tput_same]
    rfl

/-- The state after a read is sent once more on a port. -/
def readResent (s : State) (req q : Nat) (o : OutReq) : State :=
  let s1 := putOn s q o.msg
  { s1 with plauf := { s1.plauf with out := tput s1.plauf.out req { o with port := q, sentAt := s.time.now, resent := true } } }

theorem readResent_facts (s : State) (req q : Nat) (o : OutReq) :
    tfind (readResent s req q o).plauf.out req = some { o with port := q, sentAt := s.time.now, resent := true } ∧
      (readResent s req q o).plauf.sent = s.plauf.sent ++ [(q, o.msg)] := by
  have hsent := putOn_sent s q o.msg
  unfold readResent
  generalize putOn s q o.msg = u at hsent ⊢
  exact ⟨tfind_tput_same _ _ _, hsent⟩

theorem rdResend_run {req q : Nat} (ho : tfind s.plauf.out req = some o) (hty : o.msg.type = 1) (hre : o.resent = false)
    (hup : (getPort s o.port).st = .up) (hport : o.port ≤ 253) (ht : o.sentAt + 1000000 ≤ s.time.now)
    (hq : nextInGroup (groupOf s (getPort s o.port).farHash) o.port = some q) : rdResend req s = readResent s req q o := by
  unfold rdResend
  rw [ho]
  dsimp only
  rw [if_neg (by simp only [hty, hre, hup]; simp; omega), hq]
  rfl

theorem remoteRetry_run {req t : Nat} (ho : tfind s.plauf.out req = some o) (hr : o.retryFrom = some t) (hport : o.port = 254)
    (ht : o.sentAt + 10000 ≤ s.time.now) :
    remoteRetry req s = if t + 100000000 ≤ s.time.now then failOut s req o stTranslation
      else trySend { s with plauf := { s.plauf with out := tput s.plauf.out req { o with port := 255 } } } req := by
  unfold remoteRetry
  rw [ho]
  dsimp only
  rw [hr]
  exact if_neg (by simp only [hport, ne_eq, not_true_eq_false, false_or]; omega)

/-- With nothing unanswered, a neighbour's loss is recorded and nothing more happens. -/
theorem neighbourLost_idle {hash t : Nat} (ht : tfind s.plauf.lostSince hash = some t) (hg : groupOf s hash = [])
    (hnow : t + 100000000 ≤ s.time.now) (hout : s.plauf.out = []) :
    neighbourLost hash s = emit { s with plauf := { s.plauf with lostSince := tdel s.plauf.lostSince hash } } 4 0xC {} [] := by
  unfold neighbourLost
  rw [ht]
  dsimp only
  rw [if_neg (by simp only [hg, List.isEmpty_nil, Bool.not_true, Bool.false_eq_true, false_or]; omega), hout]
  rfl

end Sys2Proof.Machine
end

section
/-! Answers and their lack. -/

open Sys2Proof Sys2Proof.Machine

/-- Settles O32, clause by clause: `takeAnswer_good` with the `goodAnswer` lemmas, `rdResend_run`, `remoteRetry_run` and
`neighbourLost_idle`. -/
theorem answersSettleWhatWasSent : Obligations.AnswersSettleWhatWasSent := by
  refine ⟨fun s t port n m o f h hst hk hf hw => next_congr ((takeAnswer_good h hst).trans (congrArg pumpOut (goodAnswer_read hk hf hw))),
    fun s port n m o h hst hk => next_congr ((takeAnswer_good h hst).trans (congrArg pumpOut (goodAnswer_ack hk))),
    fun s port n m o h hst hk => next_congr ((takeAnswer_good h hst).trans (congrArg pumpOut (goodAnswer_ack hk))),
    fun s port n m o h hst hk => next_congr ((takeAnswer_good h hst).trans (congrArg pumpOut (goodAnswer_ack hk))),
    fun s port n m o im pr h hst hk him hpr => ⟨_, next_congr ((takeAnswer_good h hst).trans (congrArg pumpOut (goodAnswer_import hk him hpr))),
      importBound_import im _, importBound_target im _⟩,
    fun s req q o ho hty hre hup hport ht hq => ⟨_, next_congr (rdResend_run ho hty hre hup hport ht hq), readResent_facts s req q o⟩,
    fun s req t o ho hr hport ht => next_congr (remoteRetry_run ho hr hport ht),
    fun s hash t ht hg hnow => ⟨_, rfl, neighbourLost_idle ht hg hnow⟩⟩
end

section
/-! SUPPORT. Frames, lanes and messages of the Lining (R22, R359-R363, R368). -/

namespace Sys2Proof.Machine

variable {s : State} {b d : Nat} {f : Frame}

/-- A bundle direction that receives frames (R360). -/
structure Receives (s : State) (b d : Nat) : Prop where
  bundle : b < 24
  dir : d < 2
  live : (getBundle s (2 * b + d)).retired = false
  clocks : s.fab.refLost = []
  dieB : s.fab.dieReset.contains 1 = false

theorem Receives.not_closed (h : Receives s b d) : ¬ (24 ≤ b ∨ 2 ≤ d ∨ (getBundle s (2 * b + d)).retired = true ∨
    (!s.fab.refLost.isEmpty) = true ∨ s.fab.dieReset.contains 1 = true) := by
  obtain ⟨h1, h2, h3, h4, h5⟩ := h
  simp only [h3, h4, h5, List.isEmpty_nil, Bool.not_true, Bool.false_eq_true, or_false]
  omega

/-- A bundle direction after a sound frame in sequence. -/
def frameTaken (x : Bundle) : Bundle :=
  { x with expectSeq := (x.expectSeq + 1) % 4096, nak := false, replays := 0, lastBad := [], delivered := x.delivered + 1 }

theorem frameReceive_takes (h : Receives s b d) (hcrc : frameCrcOk f = true) (hseq : frameSeq f = (getBundle s (2 * b + d)).expectSeq) :
    frameReceive b d f s = putBundle (putBundle s (2 * b + (1 - d)) { getBundle s (2 * b + (1 - d)) with acked := frameAck f }) (2 * b + d)
      (frameTaken (getBundle s (2 * b + d))) := by
  unfold frameReceive
  dsimp only
  rw [if_neg h.not_closed, if_neg (by simp [hcrc]), if_pos hseq]
  rfl

/-- A bundle direction that asks for a corrupt frame again. -/
def frameAsked (x : Bundle) (f : Frame) : Bundle := { x with nak := true, replays := x.replays + 1, lastBad := f.badLanes }

theorem frameReceive_asks (h : Receives s b d) (hcrc : frameCrcOk f = false) (hfew : (getBundle s (2 * b + d)).replays < 8) :
    frameReceive b d f s =
      chargeLanes (putBundle s (2 * b + d) (frameAsked (getBundle s (2 * b + d)) f)) b d f.badLanes (getBundle s (2 * b + d)).lastBad := by
  unfold frameReceive
  dsimp only
  rw [if_neg h.not_closed, if_pos (by simp [hcrc]), if_neg (by omega)]
  rfl

theorem retireLane_bundle {lane : Nat} (hlive : (getBundle s (2 * b + d)).retired = false)
    (hnew : (getBundle s (2 * b + d)).failed.contains lane = false) :
    getBundle (retireLane s b d lane) (2 * b + d) = failLane (getBundle s (2 * b + d)) lane := by
  unfold retireLane
  dsimp only
  rw [if_neg (by simp only [hlive, hnew, Bool.false_eq_true, or_self, not_false_eq_true])]
  split
  · rw [bundleChange_bundle, getBundle_putBundle]
  split
  · rw [bundleChange_bundle, getBundle_putBundle]
  split
  · rw [bundleChange_bundle, getBundle_putBundle]
  · rw [getBundle_putBundle]

theorem getBundle_markPermanent (s : State) (ch k : Nat) : getBundle (markPermanent s ch) k = getBundle s k := by
  unfold getBundle
  rw [(markPermanent_K s ch).part18 rfl]

theorem laneRetire_bundle {lane : Nat} (hb : b < 24) (hd : d < 2) (hl : lane < 68) (hlive : (getBundle s (2 * b + d)).retired = false)
    (hnew : (getBundle s (2 * b + d)).failed.contains lane = false) :
    getBundle (laneRetire b d lane s) (2 * b + d) = failLane (getBundle s (2 * b + d)) lane := by
  have hsame := getBundle_markPermanent s (chLane b d lane) (2 * b + d)
  unfold laneRetire
  rw [if_neg (by omega), retireLane_bundle (by rw [hsame]; exact hlive) (by rw [hsame]; exact hnew), hsame]

/-- A recalibration with a lane already taken over hands it back. -/
theorem laneRecalibration_back {lane : Nat} (hb : b < 24) (hd : d < 2) (hl : lane < 64) (hr : (getBundle s (2 * b + d)).recal.isSome = true) :
    laneRecalibration b d lane s = putBundle s (2 * b + d) { getBundle s (2 * b + d) with recal := none } := by
  obtain ⟨x, hx⟩ := Option.isSome_iff_exists.1 hr
  unfold laneRecalibration
  rw [if_neg (by omega)]
  dsimp only
  rw [hx]

/-- A recalibration with a free spare lets the first of them take the lane over. -/
theorem laneRecalibration_over {lane : Nat} (hb : b < 24) (hd : d < 2) (hl : lane < 64) (hr : (getBundle s (2 * b + d)).recal = none)
    (hlive : (getBundle s (2 * b + d)).retired = false) (hwhole : (getBundle s (2 * b + d)).half = none)
    (hgood : (getBundle s (2 * b + d)).failed.contains lane = false) (hspare : freeSpares (getBundle s (2 * b + d)) ≠ []) :
    laneRecalibration b d lane s = putBundle s (2 * b + d)
      { getBundle s (2 * b + d) with recal := (freeSpares (getBundle s (2 * b + d))).head?.map fun sp => (lane, sp) } := by
  unfold laneRecalibration
  rw [if_neg (by omega)]
  dsimp only
  rw [hr]
  dsimp only
  rw [if_neg (by simp only [hlive, hwhole, hgood, Option.isSome_none, Bool.false_eq_true, or_self, not_false_eq_true])]
  cases hfree : freeSpares (getBundle s (2 * b + d)) with
  | nil => exact absurd hfree hspare
  | cons sp rest => rfl

/-- A link of the Lining after a message with a number. -/
def linkAfter (x : LLink) (seq prio : Nat) (crcOk : Bool) (payload : List Byte) : LLink :=
  if !crcOk ∨ x.expectSeq < seq then { x with nak := true }
  else if seq < x.expectSeq then { x with acked := seq }
  else { expectSeq := seq + 1, acked := seq, nak := false, inbox := inbox x.inbox prio payload }

theorem liningMessage_link {link seq prio : Nat} {crcOk : Bool} {payload : List Byte} (hl : link < 22) (hp : prio ≤ 4)
    (hlen : payload.length ≤ 240) :
    tfind (liningMessage link seq prio crcOk payload s).fab.links link =
      some (linkAfter ((tfind s.fab.links link).getD {}) seq prio crcOk payload) := by
  unfold liningMessage
  rw [if_neg (by omega)]
  exact tfind_tput_same _ _ _

end Sys2Proof.Machine
end

section
/-! Frames, lanes and messages of the Lining. -/

open Sys2Proof Sys2Proof.Machine

/-- Settles O33, clause by clause: `frameReceive_takes`, `frameReceive_asks`, `laneRetire_bundle`, the two `laneRecalibration` lemmas and
`liningMessage_link`. -/
theorem framesLanesAndLiningMessages : Obligations.FramesLanesAndLiningMessages := by
  refine ⟨fun s b d f hb hd hlive href hdie hcrc hseq => ?_, fun s b d f hb hd hlive href hdie hcrc hfew => ?_,
    fun s b d lane hb hd hl hlive hnew => ⟨_, rfl, laneRetire_bundle hb hd hl hlive hnew⟩, fun s b d lane hb hd hl hcase => ?_,
    fun s link seq prio crcOk payload hl hp hlen => ⟨_, rfl, fun hok heq => ?_, fun hok hlt => ?_, fun hbad => ?_⟩⟩
  · refine ⟨_, next_congr (frameReceive_takes ⟨hb, hd, hlive, href, hdie⟩ hcrc hseq), getBundle_putBundle _ _ _, ?_, rfl, rfl⟩
    rw [getBundle_putBundle_other _ _ _ _ (by omega), getBundle_putBundle]
  · refine ⟨_, next_congr (frameReceive_asks ⟨hb, hd, hlive, href, hdie⟩ hcrc hfew), ?_⟩
    rw [chargeLanes_bundle, getBundle_putBundle]
    rfl
  · by_cases hr : (getBundle s (2 * b + d)).recal.isSome = true
    · rw [if_pos hr]
      exact next_congr (laneRecalibration_back hb hd hl hr)
    · obtain ⟨hlive, hwhole, hgood, hspare⟩ := hcase.resolve_left hr
      rw [if_neg hr]
      exact next_congr (laneRecalibration_over hb hd hl (by simpa using hr) hlive hwhole hgood hspare)
  · rw [liningMessage_link hl hp hlen]
    exact congrArg some ((if_neg (by simp [hok]; omega)).trans (if_neg (by omega)))
  · rw [liningMessage_link hl hp hlen]
    exact congrArg some ((if_neg (by simp [hok]; omega)).trans (if_pos hlt))
  · rw [liningMessage_link hl hp hlen]
    exact congrArg some (if_pos (hbad.imp_left fun h => by rw [h]; rfl))
end

section
/-! SUPPORT. Dies and reference clocks lost and restored (R369, R372-R374, R614-R616). -/

namespace Sys2Proof.Machine

variable {s : State} {die tower : Nat}

theorem dieResetInput_fab (h1 : 1 ≤ die) (h3 : die ≤ 3) (hon : s.pwr.pkg ≠ .off) (hup : s.fab.dieReset.contains die = false) :
    (dieResetInput die s).fab.dieReset = s.fab.dieReset ++ [die] ∧ (dieResetInput die s).fab.dieLost = s.fab.dieLost := by
  have hfab : (holdInput s (die + 1)).fab = s.fab := (holdInput_K s (die + 1)).part18 rfl
  unfold dieResetInput
  rw [if_neg (by simp only [hon, or_false]; omega)]
  obtain ⟨hreset, hlost⟩ := startDieReset_fab (holdInput s (die + 1)) die (by rw [hfab]; exact hup)
  exact ⟨hreset.trans (by rw [hfab]), hlost.trans (by rw [hfab])⟩

theorem fab_ports_or_self (c : Prop) [Decidable c] (s t : State) (h : t.fab = s.fab) : (if c then t else s).fab = s.fab := by
  split
  · exact h
  · rfl

/-- Settled fences and advice leave the lists of dies as they are. -/
theorem settled_dies (s : State) (st : Nat) : (settleFences s st).fab.dieReset = s.fab.dieReset ∧ (settleFences s st).fab.dieLost = s.fab.dieLost := by
  obtain ⟨x, hx⟩ := settleFences_fab s st
  rw [hx]
  exact ⟨rfl, rfl⟩

theorem dieLost_fab (h1 : 1 ≤ die) (h20 : die < 20) (hnew : s.fab.dieLost.contains die = false) :
    (dieLost die s).fab.dieLost = s.fab.dieLost ++ [die] ∧ (dieLost die s).fab.dieReset = s.fab.dieReset.filter (· != die) := by
  unfold dieLost
  rw [if_neg (by simp only [hnew, Bool.false_eq_true, or_false]; omega)]
  dsimp only
  generalize hz : emit _ 4 6 _ [] = z
  have hfab : z.fab = { s.fab with dieReset := s.fab.dieReset.filter (· != die), dieLost := s.fab.dieLost ++ [die] } := by
    rw [← hz]
    exact (emit_K _ _ _ _ _).part18 rfl
  generalize hp : (if die = 1 then portsDown z 16 16 8 else if 12 ≤ die then portsDown z (4 * (die - 12)) 4 8 else z) = p
  have hports : p.fab = z.fab := by
    rw [← hp]
    split
    · exact (portsDown_K z _ _ _).part18 rfl
    · exact fab_ports_or_self _ _ _ ((portsDown_K z _ _ _).part18 rfl)
  generalize hr : (if 4 ≤ die ∧ die < 12 then recap p (die - 4) else p) = r
  have hcap : r.fab = z.fab := by
    rw [← hr]
    exact (fab_ports_or_self _ _ _ ((recap_K p _).part18 rfl)).trans hports
  obtain ⟨hend1, hend2⟩ := endDieReset_fab (advise (settleFences r stOffline)) die stAborted
  rw [hend1, hend2, (advise_K _).part18 rfl, (settled_dies r stOffline).1, (settled_dies r stOffline).2, hcap, hfab]
  exact ⟨rfl, rfl⟩

theorem dieBack_fab {failing badSeasons : List Nat} (h1 : 1 ≤ die) (h3 : die ≤ 3)
    (hout : s.fab.dieReset.contains die = true ∨ s.fab.dieLost.contains die = true) (hfree : dieHeld s die = false) :
    (dieBack die failing badSeasons s).fab.dieReset = s.fab.dieReset.filter (· != die) ∧
      (dieBack die failing badSeasons s).fab.dieLost = s.fab.dieLost.filter (· != die) := by
  have hlisted : (s.fab.dieReset.contains die || s.fab.dieLost.contains die) = true := by
    rcases hout with h | h
    · rw [h]
      rfl
    · rw [h, Bool.or_true]
  unfold dieBack
  rw [if_neg (by simp only [hlisted, hfree, Bool.not_true, Bool.false_eq_true, or_false]; omega)]
  dsimp only
  generalize hz : ({ s with fab := _ } : State) = z
  generalize hn : List.foldl (fun u i => newSeason badSeasons u _) z _ = n
  have hseasons : n.fab = z.fab := by
    rw [← hn]
    exact foldl_part (·.fab) _ (fun t i => (newSeason_K badSeasons t _).part18 rfl) _ z
  generalize hc : List.foldl (fun u c => chargeCore u c true) n _ = c
  have hcores : c.fab = n.fab := by
    rw [← hc]
    exact foldl_part (·.fab) _ (fun t i => (chargeCore_K t i true).part18 rfl) _ n
  generalize hp : (if die = 1 then portsBack (emit c 4 8 { die := die } []) 16 16 8 else emit c 4 8 { die := die } []) = p
  have hports : p.fab = c.fab := by
    rw [← hp]
    exact (fab_ports_or_self _ _ _ ((portsBack_K _ _ _ _).part18 rfl)).trans ((emit_K c _ _ _ _).part18 rfl)
  obtain ⟨hend1, hend2⟩ := endDieReset_fab (settleFences p stOffline) die stOk
  rw [hend1, hend2, (settled_dies p stOffline).1, (settled_dies p stOffline).2, hports, hcores, hseasons, ← hz]
  exact ⟨rfl, rfl⟩

/-- The state with a tower's clock out of band, before its ports and fences follow. -/
def clockOut (s : State) (tower : Nat) : State :=
  { s with
    fab := { s.fab with refLost := if s.fab.refLost.contains tower then s.fab.refLost else s.fab.refLost ++ [tower]
                        refBack := tdel s.fab.refBack tower }
    time := { s.time with holdover := s.time.holdover || tower == 0 } }

theorem refclkLost_run (ht : tower < 2) (hnew : s.fab.refLost.contains tower = false ∨ (tfind s.fab.refBack tower).isSome = true) :
    refclkLost tower s = settleFences (portsDown (emit (clockOut s tower) 4 9 { die := tower } []) (16 * tower) 16 7) stOffline := by
  have hgo : ¬ (s.fab.refLost.contains tower = true ∧ (tfind s.fab.refBack tower).isNone = true) := by
    rintro ⟨hl, hb⟩
    rcases hnew with h | h
    · exact absurd hl (ne_true_of_eq_false h)
    · rw [Option.isNone_iff_eq_none.1 hb] at h
      cases h
  unfold refclkLost
  exact if_neg fun h => h.elim (fun h2 => by omega) hgo

theorem mem_clockOut (s : State) (tower : Nat) : tower ∈ (clockOut s tower).fab.refLost := by
  unfold clockOut
  dsimp only
  split
  · next h => exact List.contains_iff_mem.1 h
  · exact List.mem_append_right _ (List.mem_singleton_self _)

theorem refclkRestored_run (ht : tower < 2) (hl : s.fab.refLost.contains tower = true) (hb : tfind s.fab.refBack tower = none) :
    refclkRestored tower s = emit { s with
      fab := { s.fab with refBack := tput s.fab.refBack tower (s.time.now + 50000000) }
      time := { s.time with holdover := s.time.holdover && tower != 0 } } 4 0xA { die := tower } [] := by
  unfold refclkRestored
  exact if_neg (by simp only [hl, hb, Bool.not_true, Bool.false_eq_true, Option.isSome_none, or_false]; omega)

end Sys2Proof.Machine
end

section
/-! Dies and clocks. -/

open Sys2Proof Sys2Proof.Machine

/-- Settles O34, clause by clause: `dieResetInput_fab`, `dieLost_fab`, `dieBack_fab`, `refclkLost_run` and `refclkRestored_run`. -/
theorem diesAndClocksGoAndComeBack : Obligations.DiesAndClocksGoAndComeBack := by
  refine ⟨fun s die h1 h3 hon hup => ⟨_, rfl, dieResetInput_fab h1 h3 hon hup⟩, fun s die h1 h20 hnew => ⟨_, rfl, dieLost_fab h1 h20 hnew⟩,
    fun s die failing bad h1 h3 hout hfree => ⟨_, rfl, dieBack_fab h1 h3 hout hfree⟩, fun s tower ht hnew => ?_, fun s tower ht hl hb => ?_⟩
  · obtain ⟨x, hx⟩ := settleFences_fab (portsDown (emit (clockOut s tower) 4 9 { die := tower } []) (16 * tower) 16 7) stOffline
    have hfab : (portsDown (emit (clockOut s tower) 4 9 { die := tower } []) (16 * tower) 16 7).fab = (clockOut s tower).fab :=
      ((portsDown_K _ _ _ _).part18 rfl).trans ((emit_K _ _ _ _ _).part18 rfl)
    refine ⟨_, next_congr (refclkLost_run ht hnew), ?_, ?_, ?_⟩
    · rw [hx, hfab]
      exact mem_clockOut s tower
    · rw [hx, hfab]
      exact tfind_tdel_same _ _
    · rw [(settleFences_K _ _).part10 rfl, (portsDown_K _ _ _ _).part10 rfl, (emit_K _ _ _ _ _).part10 rfl]
      rfl
  · refine ⟨_, next_congr (refclkRestored_run ht hl hb), ?_, ?_⟩
    · rw [(emit_K _ _ _ _ _).part18 rfl]
    · rw [(emit_K _ _ _ _ _).part10 rfl]
end

section
/-! SUPPORT. The guest's transactions (R2, R376-R380). -/

namespace Sys2Proof.Machine

variable {s : State} {tag p : Nat}

/-- A transaction while the link carries transactions and the designated partition serves. -/
theorem guestOp_serve (hact : guestActive s = true) (hg : gate s = .serve p) (k : Nat → State) : guestOp s tag k = k p := by
  unfold guestOp
  simp [hact, hg]

theorem cuffRead_run {t : State} {win off len va : Nat} {bs : List (Byte × Bool)} (hact : guestActive s = true) (hg : gate s = .serve p)
    (hva : guestVa s win off len false = some va) (hfar : guestFar s p va len = false) (hx : guestXlate s p va len false = true)
    (hbs : vreadP s (guestCx p) va len = .ok bs) (hpass : guestPass s p win va len none = some t) :
    cuffRead tag win off len s = reply t (if bs.any Prod.snd then .poison tag (List.replicate len 0) else .data tag (bs.map Prod.fst)) := by
  unfold cuffRead
  rw [guestOp_serve hact hg, hva]
  dsimp only
  rw [hfar, hx, if_neg (by decide), if_neg (by decide), hbs]
  dsimp only
  rw [hpass]

theorem cuffWrite_run {t u : State} {win off va : Nat} {data : List Byte} (hact : guestActive s = true) (hg : gate s = .serve p)
    (hva : guestVa s win off data.length true = some va) (hfar : guestFar s p va data.length = false)
    (hx : guestXlate s p va data.length true = true) (hw : vwrite s (guestCx p) va data = .ok u)
    (hpass : guestPass s p win va data.length (some data) = some t) : cuffWrite tag win off data s = reply t (.ack tag) := by
  unfold cuffWrite
  rw [guestOp_serve hact hg, hva]
  dsimp only
  rw [hfar, hx, if_neg (by decide), if_neg (by decide), hw]
  dsimp only
  rw [hpass]

theorem guestSlot_right {slot : Nat} {x : CuffSlot} {right : CuffSlot → Bool} (hx : tfind s.cuff.slots slot = some x) (hr : right x = true) :
    guestSlot s slot right = some x.counter := by
  unfold guestSlot
  rw [hx]
  exact if_pos hr

theorem cuffSignal_run {slot inc : Nat} {x : CuffSlot} (hact : guestActive s = true) (hg : gate s = .serve p)
    (hx : tfind s.cuff.slots slot = some x) (hr : x.sig = true) (h1 : 1 ≤ inc) (h2 : inc ≤ 65535) (hfar : counterFar s x.counter = false) :
    cuffSignal tag slot inc s = reply (addCounter s p x.counter inc none).1 (.ack tag) := by
  unfold cuffSignal
  rw [if_neg (by rw [hg]; simp), guestOp_serve hact hg, guestSlot_right hx hr]
  dsimp only
  rw [if_neg (by omega), hfar, if_neg (by decide)]

theorem cuffCread_run {slot : Nat} {x : CuffSlot} (hact : guestActive s = true) (hg : gate s = .serve p)
    (hx : tfind s.cuff.slots slot = some x) (hr : x.rd = true) (hfar : counterFar s x.counter = false) :
    cuffCread tag slot s = reply s (.value tag (ctrOf s p x.counter)) := by
  unfold cuffCread
  rw [guestOp_serve hact hg, guestSlot_right hx hr]
  dsimp only
  rw [hfar, if_neg (by decide)]

/-- The state with a WATCH acknowledged and set. -/
def watchSet (s : State) (tag slot target : Nat) : State :=
  let s1 := reply s (.ack tag)
  { s1 with cuff := { s1.cuff with watches := tput s1.cuff.watches slot target } }

theorem cuffWatch_run {slot target : Nat} {x : CuffSlot} (hact : guestActive s = true) (hg : gate s = .serve p)
    (hx : tfind s.cuff.slots slot = some x) (hr : x.watch = true) (hfar : counterFar s x.counter = false) :
    cuffWatch tag slot target s = notifyWatches (watchSet s tag slot target) p x.counter := by
  unfold cuffWatch
  rw [guestOp_serve hact hg, guestSlot_right hx hr]
  dsimp only
  rw [hfar, if_neg (by decide)]
  rfl

/-- The watches of a counter that are met. -/
def metWatches (s : State) (p c : Nat) : Tbl Nat :=
  s.cuff.watches.filter fun w => ((tfind s.cuff.slots w.1).map (·.counter)) == some c && decide (w.2 ≤ ctrOf s p c)

/-- A new WATCH that is not met stays. -/
theorem watch_stays {slot target c : Nat} (hpart : s.cuff.part = some p) (hrise : rising (tkeys s.cuff.watches) = true)
    (hlow : ctrOf s p c < target) : tfind (notifyWatches (watchSet s tag slot target) p c).cuff.watches slot = some target := by
  have hsorted : rising (tkeys (watchSet s tag slot target).cuff.watches) = true := rising_tput _ _ _ hrise
  have hset : tfind (watchSet s tag slot target).cuff.watches slot = some target := tfind_tput_same _ _ _
  have hunmet : ((metWatches (watchSet s tag slot target) p c).any fun m => m.1 == slot) = false := by
    refine List.any_eq_false.2 fun w hw hslot => ?_
    obtain ⟨hin, hmet⟩ := List.mem_filter.1 hw
    have hkey : w.1 = slot := by simpa using hslot
    have hle : w.2 ≤ ctrOf s p c := of_decide_eq_true (Bool.and_eq_true_iff.1 hmet).2
    have hfind := rising_find _ w hsorted hin
    rw [hkey, hset, Option.some.injEq] at hfind
    omega
  rw [notifyWatches_eq _ _ _ (show (watchSet s tag slot target).cuff.part = some p from hpart)]
  refine rising_find _ (slot, target) (rising_filter _ _ hsorted) (List.mem_filter.2 ⟨tfind_mem hset, ?_⟩)
  change (!(metWatches (watchSet s tag slot target) p c).any fun m => m.1 == slot) = true
  rw [hunmet]
  rfl

/-- A new WATCH that is met is notified. -/
theorem watch_notifies {slot target : Nat} {x : CuffSlot} (hpart : s.cuff.part = some p) (hx : tfind s.cuff.slots slot = some x)
    (hmet : target ≤ ctrOf s p x.counter) :
    CuffReply.notify slot (ctrOf s p x.counter) ∈ (notifyWatches (watchSet s tag slot target) p x.counter).cuff.replies := by
  have hset : tfind (watchSet s tag slot target).cuff.watches slot = some target := tfind_tput_same _ _ _
  have hslot : tfind (watchSet s tag slot target).cuff.slots slot = some x := hx
  have hctr : ctrOf (watchSet s tag slot target) p x.counter = ctrOf s p x.counter := rfl
  rw [notifyWatches_eq _ _ _ (show (watchSet s tag slot target).cuff.part = some p from hpart)]
  refine List.mem_append_right _ (List.mem_map.2 ⟨(slot, target), List.mem_filter.2 ⟨tfind_mem hset, ?_⟩, rfl⟩)
  simp [hslot, hctr, hmet]

theorem notifyWatches_sync (s : State) (p c : Nat) : (notifyWatches s p c).sync = s.sync := (notifyWatches_K s p c).part4 rfl

theorem guestLinkUp_run (hsite : s.guestSite = true) (hreset : s.cuff.guestReset = false) :
    guestLinkUp s = { s with cuff := { s.cuff with linkUp := true } } := if_pos (by simp [hsite, hreset])

end Sys2Proof.Machine
end

section
/-! The guest's transactions. -/

open Sys2Proof Sys2Proof.Machine

/-- Settles O35, clause by clause: `cuffRead_run`, `cuffWrite_run`, `cuffSignal_run`, `cuffCread_run`, `cuffWatch_run` with `watch_stays` and
`watch_notifies`, and `guestLinkUp_run`. -/
theorem guestTransactionsAreServed : Obligations.GuestTransactionsAreServed :=
  ⟨fun _ _ _ _ _ _ _ _ _ hact hg hva hfar hx hbs hpass => next_congr (cuffRead_run hact hg hva hfar hx hbs hpass),
    fun _ _ _ _ _ _ _ _ _ hact hg hva hfar hx hw hpass => next_congr (cuffWrite_run hact hg hva hfar hx hw hpass),
    fun _ _ _ _ _ _ hact hg hx hr h1 h2 hfar => next_congr (cuffSignal_run hact hg hx hr h1 h2 hfar),
    fun _ _ _ _ _ hact hg hx hr hfar => next_congr (cuffCread_run hact hg hx hr hfar),
    fun _ _ _ _ _ _ hact hg hpart hx hr hfar hrise => ⟨_, next_congr (cuffWatch_run hact hg hx hr hfar), notifyWatches_sync _ _ _,
      fun hlow => watch_stays hpart hrise hlow, fun hmet => watch_notifies hpart hx hmet⟩,
    fun _ => ⟨rfl, fun hsite hreset => next_congr (guestLinkUp_run hsite hreset)⟩⟩
end

section
/-! SUPPORT. SPDM connections and sessions (R430-R433, R441, R448). -/

namespace Sys2Proof.Machine

variable {s : State} {path : Nat}

/-- A request on a path whose connection and session have reached its stages is served. -/
theorem spdmAt_serves {stage session : Nat} (hup : spdmUp s = true) (hp : path ≤ 18) (hst : stage ≤ (getSpdm s path).stage)
    (hse : session ≤ (getSpdm s path).session) (k : Spdm → State) : spdmAt s path stage session k = k (getSpdm s path) := by
  unfold spdmAt
  rw [if_neg (by simp [hup, hp])]
  exact if_neg (by omega)

theorem slotChain_long (s : State) : 192 ≤ (slotChain s).length := by
  unfold slotChain
  simp only [List.length_append, fit_length]
  omega

theorem getCertificate_run {offset len : Nat} (hup : spdmUp s = true) (hp : path ≤ 18) (hst : 3 ≤ (getSpdm s path).stage) (ho : offset < 192) :
    getCertificate path 0 offset len s = answer s path 0x02 (((slotChain s).drop offset).take len) := by
  have hlong := slotChain_long s
  unfold getCertificate
  rw [spdmAt_serves hup hp hst (Nat.zero_le _)]
  exact if_neg (by omega)

/-- The measurements that a GET_MEASUREMENTS with an index returns: their number for index 0, otherwise the one asked for. -/
def Measured (s : State) (path index : Nat) (bs : List Byte) : Prop :=
  index = 0 ∧ bs = toLe 1 (pathIndices s path).length ∨
    index ≠ 0 ∧ index ≠ 0xFF ∧ (pathIndices s path).contains index = true ∧ ∃ b ∈ measurement s index, bs = toLe 1 index ++ toLe 2 b.length ++ b

theorem getMeasurements_run {index : Nat} {sign : Bool} {nonce bs : List Byte} (hup : spdmUp s = true) (hp : path ≤ 18)
    (hst : 3 ≤ (getSpdm s path).stage) (hm : Measured s path index bs) :
    getMeasurements path index sign nonce s = answer s path 0x60 (bs ++ if sign then aliasSign s (nonce ++ bs) else []) := by
  unfold getMeasurements
  rw [spdmAt_serves hup hp hst (Nat.zero_le _)]
  dsimp only
  rcases hm with ⟨h0, hbs⟩ | ⟨h0, hff, hin, b, hb, hbs⟩
  · rw [if_pos h0, hbs]
  · rw [if_neg h0, if_neg hff, if_pos hin, Option.mem_def.1 hb, hbs]

theorem keyExchange_run {exchange : List Byte} (hup : spdmUp s = true) (hp : path ≤ 18) (hst : 3 ≤ (getSpdm s path).stage)
    (hd : s.gnt.debug = false) (hz : s.gnt.keysZeroised = false) :
    keyExchange path exchange s = answer (putSpdm { s with gnt := { s.gnt with drawn := s.gnt.drawn + 1 } } path
        { stage := (getSpdm s path).stage, session := 1, secret := Config.ecdh (Config.entropy s.gnt.drawn) exchange
          transcript := exchange ++ fit 96 (Config.publicKey (Config.entropy s.gnt.drawn)) })
      path 0x64 (fit 96 (Config.publicKey (Config.entropy s.gnt.drawn)) ++
        aliasSign s (exchange ++ fit 96 (Config.publicKey (Config.entropy s.gnt.drawn)))) := by
  unfold keyExchange
  rw [spdmAt_serves hup hp hst (Nat.zero_le _)]
  exact if_neg (by simp [hd, hz])

theorem finish_run {sig : List Byte} (hup : spdmUp s = true) (hp : path ≤ 18) (hst : 3 ≤ (getSpdm s path).stage)
    (hse : (getSpdm s path).session = 1) :
    finish path sig (finishMac (getSpdm s path)) s = answer (putSpdm s path { getSpdm s path with
      session := 2, owner := claimed s && Config.ecdsaVerify s.gnt.policy.ecdsaKey (Config.sha384 (getSpdm s path).transcript) sig }) path 0x65 [] := by
  unfold finish
  rw [spdmAt_serves hup hp hst (by omega), if_neg (by simp [hse])]
  exact if_neg fun h => h rfl

/-- What a session on a path must have reached for its requests. -/
structure InSession (s : State) (path : Nat) : Prop where
  up : spdmUp s = true
  path_ : path ≤ 18
  stage : 3 ≤ (getSpdm s path).stage
  session : 2 ≤ (getSpdm s path).session

theorem InSession.serves (h : InSession s path) (k : Spdm → State) : spdmAt s path 3 2 k = k (getSpdm s path) :=
  spdmAt_serves h.up h.path_ h.stage h.session k

theorem vendor_ideKm (h : InSession s path) (arg : Nat) : vendorDefinedRequest path 0 arg s = ideKm s path arg := by
  unfold vendorDefinedRequest
  rw [h.serves]
  rfl

theorem vendor_tdisp (h : InSession s path) (arg : Nat) : vendorDefinedRequest path 1 arg s = tdisp s path arg := by
  unfold vendorDefinedRequest
  rw [h.serves]
  rfl

theorem vendor_power (h : InSession s path) {arg : Nat} {x : Part} (ho : (getSpdm s path).owner = true) (hx : getP s arg = some x) :
    vendorDefinedRequest path 2 arg s = answer s path 0x7E (toLe 8 x.energy ++ toLe 4 x.power) := by
  unfold vendorDefinedRequest
  rw [h.serves, if_neg (by decide), if_neg (by decide), if_pos ⟨rfl, ho⟩, hx]

/-- IDE_KM for a function's selective stream, past its checks. -/
theorem ideKm_selective {arg : Nat} (hfn : vdrVf path arg ≤ 16) (hkind : arg / 65536 % 256 = 0) :
    (arg % 256 = 2 → ideKm s path arg = answer (setStream s (2 * vdrVf path arg) (some
        { key := arg / 2 ^ 24 % 2 ^ 256, path := path, on := streamOn s (vdrVf path arg) })) path 0x7E [3]) ∧
      ∀ x ∈ tfind s.gnt.streams (2 * vdrVf path arg),
        (arg % 256 = 4 → ideKm s path arg = answer (setStream s (2 * vdrVf path arg) (some { x with on := true })) path 0x7E [6]) ∧
        (arg % 256 = 5 → ideKm s path arg = answer (setStream s (2 * vdrVf path arg) (some { x with on := false })) path 0x7E [6]) := by
  have hright : decide (1 < arg / 65536 % 256 ∨ 16 < vdrVf path arg ∨ (arg / 65536 % 256 = 1 ∧ 1 ≤ path ∧ path ≤ 16)) = false :=
    decide_eq_false (by omega)
  unfold ideKm
  dsimp only
  rw [hright, if_neg Bool.false_ne_true, hkind, if_neg (by decide)]
  refine ⟨fun hop => ?_, fun x hx => ⟨fun hop => ?_, fun hop => ?_⟩⟩
  · rw [hop]
    rfl
  · rw [hop, Option.mem_def.1 hx]
    rfl
  · rw [hop, Option.mem_def.1 hx]
    rfl

/-- TDISP of a bound VF, by the request and the TDI's state. -/
theorem tdisp_run {arg : Nat} {v : Vf} (hv : tfind s.vfs (vdrVf path arg) = some v) :
    (arg % 256 = 0x83 → v.tdi = 1 → tdisp s path arg = answer (setTdi s (vdrVf path arg) 2) path 0x7E [3]) ∧
      (arg % 256 = 0x86 → v.tdi = 2 → streamOn s (vdrVf path arg) = true →
        tdisp s path arg = answer (setTdi s (vdrVf path arg) 3) path 0x7E [6]) ∧
      (arg % 256 = 0x87 → tdisp s path arg = answer (setTdi s (vdrVf path arg) 1) path 0x7E [7]) := by
  unfold tdisp
  dsimp only
  rw [hv]
  dsimp only
  refine ⟨fun hop ht => ?_, fun hop ht hon => ?_, fun hop => ?_⟩
  · rw [hop]
    exact if_pos ht
  · rw [hop]
    exact if_pos ⟨ht, hon⟩
  · rw [hop]
    rfl

end Sys2Proof.Machine
end

section
/-! SPDM connections and sessions. -/

open Sys2Proof Sys2Proof.Machine

/-- Settles O36: each request is served (`spdmAt_serves`), the certificate and the measurements by `getCertificate_run` and
`getMeasurements_run`. -/
theorem spdmConnectionsAnswer : Obligations.SpdmConnectionsAnswer :=
  ⟨fun _ _ hup hp => next_congr (spdmAt_serves hup hp (Nat.zero_le _) (Nat.zero_le _) _),
    fun _ _ _ hup hp hst => next_congr (spdmAt_serves hup hp hst (Nat.zero_le _) _),
    fun _ _ hup hp hst => next_congr (spdmAt_serves hup hp hst (Nat.zero_le _) _),
    fun _ _ hup hp hst => next_congr (spdmAt_serves hup hp hst (Nat.zero_le _) _),
    fun _ _ _ _ hup hp hst ho => next_congr (getCertificate_run hup hp hst ho),
    fun _ _ _ hup hp hst => next_congr (spdmAt_serves hup hp hst (Nat.zero_le _) _),
    fun _ _ _ _ _ _ hup hp hst hm => next_congr (getMeasurements_run hup hp hst hm)⟩

/-- Settles O37, clause by clause: `keyExchange_run`, `finish_run`, `InSession.serves`, `ideKm_selective`, `tdisp_run` and `vendor_power`. -/
theorem spdmSessionsAnswer : Obligations.SpdmSessionsAnswer := by
  refine ⟨fun s path exchange hup hp hst hd hz => next_congr (keyExchange_run hup hp hst hd hz),
    fun s path sig hup hp hst hse => next_congr (finish_run hup hp hst hse),
    fun s path hup hp hst hse => ?_, fun s path arg fn hup hp hst hse hfn hle hkind => ?_, fun s path arg v hup hp hst hse hv => ?_,
    fun s path arg x hup hp hst hse ho hx => next_congr (vendor_power ⟨hup, hp, hst, hse⟩ ho hx), fun s vf h => next_congr (if_pos h)⟩
  · have hin : InSession s path := ⟨hup, hp, hst, hse⟩
    exact ⟨next_congr (hin.serves _), next_congr (hin.serves _), next_congr (hin.serves _)⟩
  · subst hfn
    have hvendor := vendor_ideKm ⟨hup, hp, hst, hse⟩ arg
    obtain ⟨hprog, hset⟩ := ideKm_selective (s := s) hle hkind
    exact ⟨fun hop => next_congr (hvendor.trans (hprog hop)),
      fun x hx => ⟨fun hop => next_congr (hvendor.trans ((hset x hx).1 hop)), fun hop => next_congr (hvendor.trans ((hset x hx).2 hop))⟩⟩
  · have hvendor := vendor_tdisp ⟨hup, hp, hst, hse⟩ arg
    obtain ⟨hlock, hstart, hstop⟩ := tdisp_run hv
    exact ⟨fun hop ht => next_congr (hvendor.trans (hlock hop ht)), fun hop ht hon => next_congr (hvendor.trans (hstart hop ht hon)),
      fun hop => next_congr (hvendor.trans (hstop hop))⟩
end

section
/-! SUPPORT. Readings, sensors, telemetry and the time base (R488-R492, R504-R506, R591, R601, R603, R610). -/

namespace Sys2Proof.Machine

variable {s : State}

/-- A vendor message of the tray is answered once Mitten's start is behind it, or waits for its network. -/
theorem sideband_answers (hon : s.pwr.pkg ≠ .off) (hup : s.mgmt.mittenDown = false) (hrec : s.mgmt.recovery = false)
    (hph : s.mgmt.phase ≠ .bootMgmt ∨ s.mgmt.waitNet = true) (bytes : List Byte) : sideband s bytes = answer s 19 0 bytes := by
  unfold sideband
  rw [if_neg hon]
  refine if_neg ?_
  rcases hph with h | h <;> simp [hup, hrec, h]

/-! The thermal model. -/

theorem takeReading_r (s : State) (t : Nat) (r : TowerReading) : (getTower (takeReading s t r) t).r = r := by
  unfold takeReading
  dsimp only
  rw [getTower_putTower]

theorem takeReading_other (s : State) {t u : Nat} (r : TowerReading) (ht : t < 2) (hu : u < 2) (h : u ≠ t) :
    getTower (takeReading s t r) u = getTower s u := getTower_putTower_other s t u _ ht hu h

theorem takeReading_p (s : State) (t : Nat) (r : TowerReading) : (takeReading s t r).th.p = s.th.p := by
  unfold takeReading putTower
  dsimp only
  split <;> rfl

theorem Reads.tower {t u : State} (h : Reads t u) (n : Nat) : (getTower t n).r = (getTower u n).r := by
  obtain ⟨-, ha, hb⟩ := h
  unfold getTower
  split
  · exact ha
  · exact hb

theorem reads_takeExcess (s : State) (t : Nat) : Reads (takeExcess s t) s := by
  unfold takeExcess putTower getTower
  dsimp only
  split <;> exact ⟨rfl, rfl, rfl⟩

/-- The state with an update's nodes and package readings, and then its readings. -/
def nodesSet (s : State) (a b : TowerInput) (p : PkgReading) : State :=
  { s with th := { s.th with p := p, a := { s.th.a with nodes := nodesAfter s 0 a }, b := { s.th.b with nodes := nodesAfter s 1 b } } }

def readingsSet (s : State) (a b : TowerInput) (p : PkgReading) : State :=
  takeReading (takeReading (nodesSet s a b p) 0 (readingOf s 0 a)) 1 (readingOf s 1 b)

theorem reads_takeInputs (s : State) (a b : TowerInput) (p : PkgReading) : Reads (takeInputs s a b p) (readingsSet s a b p) :=
  Reads.trans (b := takeExcess (takeExcess (readingsSet s a b p) 0) 1) (.of_th rfl) ((reads_takeExcess _ 1).trans (reads_takeExcess _ 0))

/-- The inputs of an update: the readings that they give, and the package's. -/
theorem takeInputs_reads (s : State) (a b : TowerInput) (p : PkgReading) : (takeInputs s a b p).th.p = p ∧
    (getTower (takeInputs s a b p) 0).r = readingOf s 0 a ∧ (getTower (takeInputs s a b p) 1).r = readingOf s 1 b := by
  have hr := reads_takeInputs s a b p
  rw [hr.1, hr.tower 0, hr.tower 1]
  unfold readingsSet
  rw [takeReading_p, takeReading_p, takeReading_other _ _ (by decide) (by decide) (by decide), takeReading_r, takeReading_r]
  exact ⟨rfl, rfl, rfl⟩

theorem reads_judgeStack (s : State) (k : Nat) (x : Int) : Reads (judgeStack s k x) s := .of_th ((judgeStack_K s k x).part13 rfl)

theorem reads_judgeEngine (s : State) (e : Nat) (x : Int) : Reads (judgeEngine s e x) s := .of_th ((judgeEngine_K s e x).part13 rfl)

theorem reads_judgeReadings (s : State) (a b : TowerReading) : Reads (judgeReadings s a b) s := by
  unfold judgeReadings
  exact (reads_judgeCoolant _).trans ((reads_judgeInlet _).trans ((reads_foldl _ (fun t e => reads_judgeEngine t _ _) _ _).trans
    (reads_foldl _ (fun t e => reads_judgeStack t _ _) _ _)))

theorem reads_judgeTrip (s : State) (old new : Nat) : Reads (judgeTrip s old new) s := by
  unfold judgeTrip
  refine reads_foldl _ (fun t i => ?_) _ s
  split
  · exact .of_th ((enterTrip_K t _).part13 rfl)
  · exact .of_th rfl

/-- Out of OFF the readings of an update are those in force after it. -/
theorem thermalModelUpdate_reads (a b : TowerInput) (p : PkgReading) (hon : s.pwr.pkg ≠ .off) :
    Reads (thermalModelUpdate a b p s) (takeInputs s a b p) := by
  unfold thermalModelUpdate
  rw [if_neg hon]
  dsimp only
  split
  · exact .of_th rfl
  · exact (reads_endNet _).trans ((reads_judgeTrip _ _ _).trans ((reads_judgeTrip _ _ _).trans ((reads_judgeReadings _ _ _).trans
      ⟨rfl, rfl, rfl⟩)))

/-! Sensors. -/

theorem adjustNode_offset (s : State) (t : Nat) (e : Nat × Int) : tfind (getTower (adjustNode t s e) t).offsets e.1 =
    some (max (-384) (min 384 (nodeOffset s t e.1 + max (-16) (min 16 (e.2 - nodeOffset s t e.1))))) := by
  unfold adjustNode
  dsimp only
  split
  · split
    · rw [emit_tower, getTower_putTower]
      exact tfind_tput_same _ _ _
    · rw [getTower_putTower]
      exact tfind_tput_same _ _ _
  · rw [getTower_putTower]
    exact tfind_tput_same _ _ _

theorem offsetAdjust_one {t node : Nat} {n : NodeValue} {diff : Int} (ht : t < 2) (hnodes : (getTower s t).nodes = [(node, n)])
    (hdiff : nodeDiff s t n = some diff) : offsetAdjust t s = adjustNode t s (node, diff) := by
  unfold offsetAdjust
  rw [if_neg (Nat.not_le.2 ht), hnodes]
  simp [hdiff]

/-- The sensors of a tower in a list of both towers' sensors. -/
def sensorsOf (t : Nat) (l : List Nat) : List Nat := (l.filter fun i => i / 4096 == t).map (· % 4096)

theorem mem_sensorsOf {t i : Nat} {l : List Nat} (hi : i < 4096) (h : 4096 * t + i ∈ l) : i ∈ sensorsOf t l := by
  have hdiv : (4096 * t + i) / 4096 = t := by omega
  have hmod : (4096 * t + i) % 4096 = i := by omega
  exact List.mem_map.2 ⟨4096 * t + i, List.mem_filter.2 ⟨h, by simp [hdiv]⟩, hmod⟩

theorem sensorCheck_towers (disagree agree : List Nat) (hup : s.mgmt.mittenDown = false) :
    sensorCheck disagree agree s =
      checkTower (checkTower s 0 (sensorsOf 0 disagree) (sensorsOf 0 agree)) 1 (sensorsOf 1 disagree) (sensorsOf 1 agree) :=
  if_neg (ne_true_of_eq_false hup)

/-- An unmasked sensor that has disagreed for 1 s and that the hub does not accept is masked. -/
theorem sensorCheck_masks {disagree agree : List Nat} {t i u : Nat} (hup : s.mgmt.mittenDown = false) (ht : t < 2) (hi : i < 4096)
    (hin : 4096 * t + i ∈ disagree) (hfree : (getTower s t).masked.contains i = false) (hsince : tfind (getTower s t).disagree i = some u)
    (hlong : u + 1000000000 ≤ s.time.now) (hhub : hubAccepts s t i = true) : i ∈ (getTower (sensorCheck disagree agree s) t).masked := by
  have hlisted := mem_sensorsOf hi hin
  rw [sensorCheck_towers disagree agree hup]
  rcases (show t = 0 ∨ t = 1 by omega) with rfl | rfl
  · rw [checkTower_other _ 1 0 _ _ (by decide) (by decide) (by decide)]
    exact checkTower_masks s 0 i u _ _ hlisted hfree hsince hlong hhub
  · have hsame := checkTower_other s 0 1 (sensorsOf 0 disagree) (sensorsOf 0 agree) (by decide) (by decide) (by decide)
    have hrecords : (checkTower s 0 (sensorsOf 0 disagree) (sensorsOf 0 agree)).mgmt.records = s.mgmt.records :=
      (checkTower_K s 0 _ _).part21 rfl
    refine checkTower_masks _ 1 i u _ _ hlisted (by rw [hsame]; exact hfree) (by rw [hsame]; exact hsince) ?_ ?_
    · rw [checkTower_time]
      exact hlong
    · rw [hubAccepts_congr hsame hrecords]
      exact hhub

theorem imonSample_currents (a b : Nat) (hon : s.pwr.pkg ≠ .off) (hph : s.mgmt.phase ≠ .bootMgmt) :
    (getTower (imonSample a b s) 0).current = a ∧ (getTower (imonSample a b s) 1).current = b := by
  unfold imonSample
  rw [if_neg (fun h => h.elim hon hph)]
  obtain ⟨h1, hother⟩ := imonTower_current (imonTower s 0 a) 1 b
  refine ⟨?_, h1⟩
  rw [hother 0 (by decide) (by decide) (by decide)]
  exact (imonTower_current s 0 a).1

/-! Telemetry, energy and the time base. -/

theorem telemetryRefresh_facts (ra rb : Nat) (hon : s.pwr.pkg ≠ .off) (hph : s.mgmt.phase ≠ .bootMgmt) (hup : s.mgmt.mittenDown = false)
    (hn : s.th.telem.samples ≠ 0) :
    ∃ t, telemetryRefresh ra rb s = t ∧ t.th.telem.seq = s.th.telem.seq + 2 ∧ t.th.telem.rateA = ra ∧ t.th.telem.rateB = rb ∧
      t.th.telem.powerPkg = (Int.fdiv ((s.th.telem.sums[0]?).getD 0) s.th.telem.samples).toNat ∧
      t.th.telem.inlet = Int.fdiv ((s.th.telem.sums[3]?).getD 0) s.th.telem.samples ∧
      t.th.telem.ladder = [ladderLevel s.th.a, ladderSetter s.th.a, ladderLevel s.th.b, ladderSetter s.th.b] ∧
      t.th.telem.samples = 0 ∧ t.pwr = s.pwr := by
  unfold telemetryRefresh
  rw [if_neg (by simp [hon, hph, hup])]
  exact ⟨_, rfl, rfl, rfl, rfl, congrArg Int.toNat (if_neg hn), if_neg hn, rfl, rfl, rfl⟩

/-- One partition's energy and power, stored. -/
def energyStored (t : State) (e : Nat × Nat × Nat) : State :=
  match getP t e.1 with
  | some x => putP t e.1 { x with energy := e.2.1, power := e.2.2, energySeq := x.energySeq + 2 }
  | none => t

theorem energyRefresh_eq (es : List (Nat × Nat × Nat)) : energyRefresh es s = es.foldl energyStored s := rfl

theorem energyStored_present (t : State) (e : Nat × Nat × Nat) (p : Nat) (h : (getP t p).isSome = true) :
    (getP (energyStored t e) p).isSome = true := by
  unfold energyStored
  split
  · by_cases hp : p = e.1
    · rw [hp, getP_putP]
      rfl
    · rw [getP_putP_other _ _ _ _ hp]
      exact h
  · exact h

theorem energyStored_last {t : State} {p e w : Nat} {x : Part} (h : getP t p = some x) :
    getP (energyStored t (p, e, w)) p = some { x with energy := e, power := w, energySeq := x.energySeq + 2 } := by
  unfold energyStored
  rw [h]
  exact getP_putP _ _ _

theorem energyRefresh_last {es : List (Nat × Nat × Nat)} {p e w : Nat} (h : (getP s p).isSome = true) :
    ∃ x, getP (energyRefresh (es ++ [(p, e, w)]) s) p = some x ∧ x.energy = e ∧ x.power = w := by
  obtain ⟨y, hy⟩ := Option.isSome_iff_exists.1 (foldl_inv (fun t => (getP t p).isSome = true) energyStored
    (fun t e ht => energyStored_present t e p ht) es s h)
  rw [energyRefresh_eq, List.foldl_append, List.foldl_cons, List.foldl_nil, energyStored_last hy]
  exact ⟨_, rfl, rfl, rfl⟩

theorem ptmDialogue_failed (host : Nat) (hen : s.time.ptmEn = true) (hon : s.pwr.pkg ≠ .off) :
    ptmDialogue false host s = { s with time := { s.time with locked := ptmLocked s } } := by
  unfold ptmDialogue
  rw [if_neg (by simp [hen, hon])]
  rfl

theorem ptmDialogue_good (hostTime : Nat) (hen : s.time.ptmEn = true) (hon : s.pwr.pkg ≠ .off) :
    ptmDialogue true hostTime s = { s with time := { s.time with
      now := if s.time.first = true ∧ s.time.now < hostTime % 2 ^ 64 then hostTime % 2 ^ 64 else s.time.now
      slew := if s.time.first = true ∧ s.time.now < hostTime % 2 ^ 64 then 0 else ((hostTime % 2 ^ 64 : Nat) : Int) - s.time.now
      first := false, locked := true, lastAdj := ((hostTime % 2 ^ 64 : Nat) : Int) - s.time.now
      lastAdjTime := if s.time.first = true ∧ s.time.now < hostTime % 2 ^ 64 then hostTime % 2 ^ 64 else s.time.now } } := by
  have hjump : ((s.time.first && decide (0 < ((hostTime % 2 ^ 64 : Nat) : Int) - s.time.now)) = true) ↔
      (s.time.first = true ∧ s.time.now < hostTime % 2 ^ 64) := by
    rw [Bool.and_eq_true, decide_eq_true_iff]
    constructor <;> rintro ⟨h1, h2⟩ <;> exact ⟨h1, by omega⟩
  unfold ptmDialogue
  rw [if_neg (by simp [hen, hon]), if_neg (by decide)]
  simp only [hjump]

end Sys2Proof.Machine
end

section
/-! The tray, readings and sensors. -/

open Sys2Proof Sys2Proof.Machine

/-- Settles O38: each message of the tray is answered (`sideband_answers`). -/
theorem theTrayIsAnswered : Obligations.TheTrayIsAnswered :=
  ⟨fun _ hon hup hrec hph => next_congr (sideband_answers hon hup hrec hph _),
    fun _ hon hup hrec hph => next_congr (sideband_answers hon hup hrec hph _),
    fun _ hon hup hrec hph => next_congr (sideband_answers hon hup hrec hph _),
    fun _ _ hon hup hrec hph => next_congr (sideband_answers hon hup hrec hph _),
    fun _ hon hup hrec hph => next_congr (sideband_answers hon hup hrec hph _)⟩

/-- Settles O39, clause by clause: `thermalModelUpdate_reads` with `takeInputs_reads`, `adjustNode_offset`, `sensorCheck_masks`,
`imonSample_currents`, `telemetryRefresh_facts`, `energyRefresh_last` and the `ptmDialogue` lemmas. -/
theorem readingsAndSensorsAreTaken : Obligations.ReadingsAndSensorsAreTaken := by
  refine ⟨fun s a b p hon => ?_, fun s t node n diff ht hnodes hdiff => ?_,
    fun s dis agr t i u hup ht hi hin hfree hsince hlong hhub => ⟨_, rfl, sensorCheck_masks hup ht hi hin hfree hsince hlong hhub⟩,
    fun s a b hon hph => ⟨_, rfl, imonSample_currents a b hon hph⟩,
    fun s hloss hlong hon hph => next_congr (if_pos (by simp [hloss, hlong, hon, hph])), fun s ra rb hon hph hup hn => ?_,
    fun s es p e w hp => ⟨_, (energyRefresh_last hp).choose, rfl, (energyRefresh_last hp).choose_spec⟩,
    fun s hostTime host hh hen hon => ?_⟩
  · obtain ⟨hp, h0, h1⟩ := takeInputs_reads s a b p
    have hr := thermalModelUpdate_reads a b p hon
    exact ⟨_, rfl, hr.1.trans hp, (hr.tower 0).trans h0, (hr.tower 1).trans h1⟩
  · exact ⟨_, next_congr (offsetAdjust_one ht hnodes hdiff), adjustNode_offset s t (node, diff)⟩
  · obtain ⟨t, ht, hfacts⟩ := telemetryRefresh_facts ra rb hon hph hup hn
    exact ⟨t, next_congr ht, hfacts⟩
  · subst hh
    exact ⟨next_congr (ptmDialogue_failed hostTime hen hon), next_congr (ptmDialogue_good hostTime hen hon)⟩
end

section
/-! SUPPORT. The limiters and their ladders (R483, R494-R498, R503). -/

namespace Sys2Proof.Machine

variable {s : State} {t : Nat}

/-- What a limiter's tick leaves of its tower: the rule's thermal level, and the other two as they were. -/
theorem thermalLimiterTick_levels (ht : t < 2) (hon : s.pwr.pkg ≠ .off) :
    (getTower (thermalLimiterTick t s) t).lvlTh = thermalLevel s t ∧ (getTower (thermalLimiterTick t s) t).lvlHost = (getTower s t).lvlHost ∧
      (getTower (thermalLimiterTick t s) t).lvlAlm = (getTower s t).lvlAlm := by
  unfold thermalLimiterTick
  rw [if_neg (by simp only [hon, or_false]; omega)]
  dsimp only
  rw [getTower_of_th (leftL0_th _ _)]
  split
  · rw [emit_tower, getTower_putTower]
    exact ⟨rfl, rfl, rfl⟩
  · rw [getTower_putTower]
    exact ⟨rfl, rfl, rfl⟩

theorem thermalLevel_loss (h : s.th.coolantLoss = true) : thermalLevel s t = 22 := if_pos h

theorem thermalLevel_over (hloss : s.th.coolantLoss = false) (hover : 95 * 64 < (getTower s t).r.hotLogic ∨ 88 * 64 < (getTower s t).r.hotF ∨
    90 * 64 < hotStackOf (getTower s t).r ∨ 1050 < coreCurrent (getTower s t)) : thermalLevel s t = min ((getTower s t).lvlTh + 1) 22 := by
  unfold thermalLevel
  dsimp only
  rw [if_neg (ne_true_of_eq_false hloss), if_pos (decide_eq_true hover)]

/-- The theta that a cap computation leaves: that of the means where power averaged 300 W, otherwise the last one. -/
def nextTheta (x : Tower) : Option (Frac × Frac) :=
  if decide (0 < x.samples ∧ 300 * x.samples ≤ x.sumPower) = true then
    some ({ num := x.sumLogic - x.sumInlet, den := x.sumPower }, { num := x.sumF - x.sumInlet, den := x.sumPower })
  else x.theta

theorem thermalCapCompute_facts (ht : t < 2) (hon : s.pwr.pkg ≠ .off) :
    (getTower (thermalCapCompute t s) t).theta = nextTheta (getTower s t) ∧
      (getTower (thermalCapCompute t s) t).cap = some (capOf ((nextTheta (getTower s t)).getD (baseTheta s t)) (inletNow s)) ∧
      (getTower (thermalCapCompute t s) t).samples = 0 := by
  obtain ⟨x, b1, b2, th, y, hform, hxy, hcap, hsamples, htheta, hth⟩ := capCompute_form s t (by simp only [hon, or_false]; omega)
  obtain ⟨h1, h2, h3⟩ := ((judgeUnreach_cap _ t 1 b2).trans (judgeUnreach_cap x t 0 b1)).trans hxy
  subst hth
  rw [hform, h1, h2, h3, hcap, hsamples, htheta]
  exact ⟨rfl, rfl, rfl⟩

/-- One tower after a host limiter's tick. -/
def hostStepped (s : State) (x : Tower) : Tower :=
  if s.pwr.hostCap < s.th.p.power ∧ x.lvlHost < 22 ∧ since s x.sinceHost 20000 then
    { x with lvlHost := x.lvlHost + 1, sinceHost := some s.time.now }
  else if 100 * s.th.p.power < 97 * s.pwr.hostCap ∧ 0 < x.lvlHost ∧ since s x.sinceHost 100000 then
    { x with lvlHost := x.lvlHost - 1, sinceHost := some s.time.now }
  else x

theorem hostLimiterTick_tower (hcap : s.pwr.hostCap ≠ 0) : getTower (hostLimiterTick s) t = hostStepped s (getTower s t) := by
  unfold hostLimiterTick
  dsimp only
  rw [if_neg hcap, getTower_of_th (leftL0_th _ _)]
  unfold getTower
  split <;> rfl

theorem hostStepped_th (s : State) (x : Tower) : (hostStepped s x).lvlTh = x.lvlTh := by
  unfold hostStepped
  split
  · rfl
  · split <;> rfl

end Sys2Proof.Machine
end

section
/-! The limiters. -/

open Sys2Proof Sys2Proof.Machine

/-- Settles O40, clause by clause: `thermalLimiterTick_levels`, `thermalCapCompute_facts`, `hostLimiterTick_tower` and the ladder of a
forecast. -/
theorem limitersMoveTheLadders : Obligations.LimitersMoveTheLadders := by
  refine ⟨fun s t ht hon => ?_, fun s t ht hon => ?_, fun s t ht hcap => ⟨_, rfl, ?_⟩, fun s t hl hf idle ht => ?_⟩
  · obtain ⟨hth, hhost, halm⟩ := thermalLimiterTick_levels ht hon
    exact ⟨_, rfl, hth, fun h => hth.trans (thermalLevel_loss h), fun h hover => hth.trans (thermalLevel_over h hover), hhost, halm,
      (thermalLimiterTick_K t s).part12 rfl⟩
  · obtain ⟨htheta, hcap, hsamples⟩ := thermalCapCompute_facts ht hon
    refine ⟨_, _, rfl, htheta, hcap, hsamples, fun hpow hpos => ?_, fun hlow => ?_⟩
    · exact if_pos (decide_eq_true ⟨hpos, hpow⟩)
    · exact if_neg (by rw [decide_eq_true_iff]; omega)
  · rw [hostLimiterTick_tower hcap]
    refine ⟨hostStepped_th s _, fun hover hlow hs => ?_, fun hunder hpos hs => ?_, fun h1 h2 => ?_⟩
    · exact congrArg Tower.lvlHost (if_pos ⟨hover, hlow, hs⟩)
    · exact congrArg Tower.lvlHost ((if_neg (by omega)).trans (if_pos ⟨hunder, hpos, hs⟩))
    · exact congrArg Tower.lvlHost ((if_neg (by omega)).trans (if_neg (by omega)))
  · refine ⟨_, next_congr (if_neg (Nat.not_le.2 ht)), ?_⟩
    rw [getTower_of_th (leftL0_th _ _), getTower_putTower]
end

section
/-! SUPPORT. Resets and power groups (R78, R521, R522, R608, R611-R616). -/

namespace Sys2Proof.Machine

variable {s : State} {d : Nat} {f : Flight}

/-- What a package reset with a cause leaves: no partition, sequence or key; the owner's policy, the time base and the cause. -/
def WarmReset (s t : State) (cause : Nat) : Prop :=
  t.parts = [] ∧ t.kv = {} ∧ t.gnt.policy = s.gnt.policy ∧ t.gnt.keys = [] ∧ t.time.now = s.time.now ∧ t.mgmt.resetCause = cause

theorem packageReset_warm (s : State) (cause : Nat) : WarmReset s (packageReset s cause) cause := by
  obtain ⟨hparts, hkv, -, hpol, hkeys, hcause, -, hnow, -⟩ := packageReset_facts s cause
  exact ⟨hparts, hkv, hpol, hkeys, hnow, hcause⟩

/-- What R78 asks of a RESET. -/
structure ResetAsked (s : State) (d n : Nat) (f : Flight) : Prop where
  runs : Runs s d 0xF1A0 f
  scope : f.op 0x20 1 = n
  known : n ≤ 3
  tail : f.zeroFrom 0x21 = true
  noneBy : s.fab.dieResetBy = []
  none_ : s.fab.dieReset = []

theorem reset_run {n : Nat} (ha : ResetAsked s d n f) :
    reset d s = if n = 0 then packageReset s 1
      else startDieReset (putF { s with fab := { s.fab with dieResetBy := tput s.fab.dieResetBy n d } } d { f with phase := .running }) n := by
  obtain ⟨h, hn, h3, hz, hby, hnone⟩ := ha
  subst hn
  unfold reset
  rw [withOp_run h]
  exact refuseIf_pass (by simp [hz, hby, hnone, h3]) _

/-- An input that puts a package in reset that nothing held before. -/
theorem holdPackage_warm (i cause : Nat) (hon : s.pwr.pkg ≠ .off) (hfree : pkgHeld s = false) :
    WarmReset s (holdPackage s i cause) cause := by
  obtain ⟨-, -, -, hgnt, htime⟩ := holdInput_pwr s i
  unfold holdPackage
  rw [if_neg hon]
  dsimp only
  rw [if_neg (ne_true_of_eq_false hfree)]
  obtain ⟨hparts, hkv, hpol, hkeys, hnow, hcause⟩ := packageReset_warm (holdInput s i) cause
  exact ⟨hparts, hkv, hpol.trans (by rw [hgnt]), hkeys, hnow.trans (by rw [htime]), hcause⟩

/-- The state without a held input. -/
def inputFree (s : State) (i : Nat) : State := { s with pwr := { s.pwr with heldInputs := s.pwr.heldInputs.filter (· != i) } }

theorem resetInputRelease_run {i : Nat} (hi : i ≤ 4) (hheld : s.pwr.heldInputs.contains i = true) :
    resetInputRelease i s = if pkgHeld s && !pkgHeld (inputFree s i) then startMgmt (inputFree s i) else inputFree s i := by
  unfold resetInputRelease releaseInput
  rw [if_neg (Nat.not_lt.2 hi), hheld, if_neg (by decide)]
  rfl

theorem pkgHeld_of_pwr {t u : State} (h : t.pwr = u.pwr) : pkgHeld t = pkgHeld u := by
  unfold pkgHeld
  rw [h]

/-- The state of a cold start, before its management phase begins. -/
def coldStarted (s : State) : State :=
  writeLife { afterReset s with
    log := { critlog := s.log.critlog }
    mgmt := { (afterReset s).mgmt with
      life := { (afterReset s).mgmt.lifeStored with coldStarts := (afterReset s).mgmt.lifeStored.coldStarts + 1 } } }

theorem vaonApplied_run (hoff : s.pwr.pkg = .off) : vaonApplied s = startMgmt (coldStarted s) := if_neg fun h => h hoff

/-- The power groups switched off with a group: BASE and MEM together, any other alone. -/
def offWith (g : Nat) : List Nat := if g < 2 then [0, 1] else [g]

theorem mem_offWith {g x : Nat} : x ∈ offWith g ↔ x = g ∨ g < 2 ∧ x < 2 := by
  unfold offWith
  split
  · simp only [List.mem_cons, List.not_mem_nil, or_false]
    omega
  · simp only [List.mem_cons, List.not_mem_nil, or_false]
    omega

/-- The state with a group's power switched off. -/
def groupsOff (s : State) (g : Nat) : State :=
  { s with pwr := { s.pwr with
    enabled := s.pwr.enabled.filter fun x => !(offWith g).contains x, good := s.pwr.good.filter fun x => !(offWith g).contains x } }

/-- The same, to be tried again in 1 s. -/
def groupsRetry (s : State) (g : Nat) : State :=
  { groupsOff s g with pwr := { (groupsOff s g).pwr with retryAt := some (s.time.now + 1000000000) } }

theorem mem_groupsOff (s : State) (g x : Nat) : x ∈ (groupsOff s g).pwr.enabled ↔ x ∈ s.pwr.enabled ∧ ¬ (x = g ∨ g < 2 ∧ x < 2) := by
  rw [← mem_offWith]
  simp [groupsOff]

theorem powerGoodTimeout_run {g : Nat} (h5 : g < 5) (hen : s.pwr.enabled.contains g = true) (hbad : s.pwr.good.contains g = false)
    (hnet : 2 ≤ g ∨ s.mgmt.waitNet = true) :
    powerGoodTimeout g s = if g < 3 then groupsRetry s g else dieLost (g - 1) (groupsOff s g) := by
  unfold powerGoodTimeout
  rw [if_neg (by simp only [hen, hbad, Bool.not_true, Bool.false_eq_true, or_false]; omega)]
  dsimp only
  by_cases h2 : g < 2
  · rw [if_pos h2, if_pos (hnet.resolve_left (by omega)), if_pos (by omega)]
    unfold groupsRetry groupsOff offWith
    rw [if_pos h2]
  · rw [if_neg h2]
    unfold groupsRetry groupsOff offWith
    rw [if_neg h2]
    by_cases he : g = 2
    · rw [if_pos he, if_pos (by omega), he]
    · rw [if_neg he, if_neg (by omega)]

theorem powerGoodReturn_good {g : Nat} (h5 : g < 5) (hen : s.pwr.enabled.contains g = true) (hbad : s.pwr.good.contains g = false) :
    (powerGoodReturn g s).pwr.good = s.pwr.good ++ [g] := by
  unfold powerGoodReturn
  rw [if_neg (by simp only [hen, hbad, Bool.not_true, Bool.false_eq_true, or_false]; omega)]
  dsimp only
  split
  · rw [portsBack_pwr]
  · rw [startNet_good, releaseInput_pwr]

/-- The state with a group's power-good fallen. -/
def goodLost (s : State) (g : Nat) : State := { s with pwr := { s.pwr with good := s.pwr.good.filter (· != g) } }

theorem powerGoodLost_run {g : Nat} (h5 : g < 5) (hen : s.pwr.enabled.contains g = true) (hgood : s.pwr.good.contains g = true) :
    powerGoodLost g s = if g < 2 then holdPackage (goodLost s g) (10 + g) 2 else if g = 2 then portsDown (goodLost s g) 0 32 6
      else startDieReset (holdInput (goodLost s g) (10 + g)) (g - 1) := by
  unfold powerGoodLost
  exact if_neg (by simp only [hen, hgood, Bool.not_true, Bool.false_eq_true, or_false]; omega)

/-- The state with the next retry set 1 s ahead. -/
def retrySet (s : State) : State := { s with pwr := { s.pwr with retryAt := some (s.time.now + 1000000000) } }

theorem enableRetry_run {t : Nat} (hr : s.pwr.retryAt = some t) (hdue : t ≤ s.time.now)
    (hgo : s.mgmt.phase = .bootMgmt ∨ (s.pwr.pkg ≠ .standby ∧ s.pwr.tripStandby = false)) :
    enableRetry s = if s.mgmt.phase = .bootMgmt then enable (retrySet s) [0, 1] else enable (retrySet s) [2] := by
  unfold enableRetry
  rw [hr]
  dsimp only
  rw [if_neg (Nat.not_lt.2 hdue)]
  by_cases hph : s.mgmt.phase = .bootMgmt
  · rw [if_pos hph, if_pos hph]
    rfl
  · obtain ⟨hst, htrip⟩ := hgo.resolve_left hph
    rw [if_neg hph, if_neg hph, if_neg (by simp [hst, htrip])]
    rfl

theorem enable_retry (s : State) (l : List Nat) : (enable (retrySet s) l).pwr.retryAt = some (s.time.now + 1000000000) := rfl

end Sys2Proof.Machine
end

section
/-! Resets and power groups. -/

open Sys2Proof Sys2Proof.Machine

/-- Settles O41, clause by clause: `reset_run` with `packageReset_warm` and `startDieReset_fab`, `holdPackage_warm`, `resetInputRelease_run`,
`vaonApplied_run`, and the lemmas on power-goods and retries. -/
theorem resetsAndPowerGoods : Obligations.ResetsAndPowerGoods := by
  refine ⟨fun s d f h hn hz hby hnone => ⟨_, next_congr ((reset_run ⟨h, hn, by decide, hz, hby, hnone⟩).trans (if_pos rfl)),
      packageReset_warm s 1⟩,
    fun s d n f h hn h1 h3 hz hby hnone => ?_, fun s hon hfree => ⟨_, rfl, holdPackage_warm 0 2 hon hfree⟩,
    fun s hon hfree => ⟨_, rfl, holdPackage_warm 1 3 hon hfree⟩, fun s i hi hheld => ?_, fun s hoff => ?_,
    fun s => ⟨_, rfl, rfl, rfl, rfl, rfl, rfl⟩, fun s g h5 hen hbad => ⟨_, rfl, powerGoodReturn_good h5 hen hbad⟩,
    fun s g h5 hen hbad hnet => ?_, fun s g h5 hen hgood => ⟨_, rfl, next_congr (powerGoodLost_run h5 hen hgood)⟩,
    fun s t hr hdue hgo => ?_⟩
  · have hrun := (reset_run ⟨h, hn, h3, hz, hby, hnone⟩).trans (if_neg (by omega))
    generalize hu : putF { s with fab := { s.fab with dieResetBy := tput s.fab.dieResetBy n d } } d { f with phase := .running } = u at hrun
    have hreset : u.fab.dieReset = [] := by
      rw [← hu]
      exact hnone
    refine ⟨u, next_congr hrun, ?_, ?_, ?_⟩
    · rw [(startDieReset_fab u n (by rw [hreset]; rfl)).1, hreset]
      rfl
    · rw [← hu]
      exact getF_putF _ _ _
    · rw [← hu]
      change tput s.fab.dieResetBy n d = _
      rw [hby]
      rfl
  · refine ⟨_, next_congr (resetInputRelease_run hi hheld), ?_, fun hheld' hfree => ?_⟩
    · split
      · exact startMgmt_pwr _
      · rfl
    · have hpwr : (if pkgHeld s && !pkgHeld (inputFree s i) then startMgmt (inputFree s i) else inputFree s i).pwr = (inputFree s i).pwr := by
        split
        · exact startMgmt_pwr _
        · rfl
      rw [pkgHeld_of_pwr hpwr] at hfree
      rw [if_pos (by simp [hheld', hfree]), startMgmt_mgmt]
  · refine ⟨_, next_congr (vaonApplied_run hoff), ?_, ?_, ?_, ?_⟩
    · rw [startMgmt_mgmt]
      rfl
    · rw [startMgmt_mgmt]
    · exact ((startMgmt_K _).part19 rfl).trans (writeLife_facts _).2.1
    · exact ((startMgmt_K _).part6 rfl).trans ((congrArg Gauntlet.policy (writeLife_facts _).2.2).trans rfl)
  · by_cases h3 : g < 3
    · exact ⟨groupsRetry s g, mem_groupsOff s g, fun _ => ⟨next_congr ((powerGoodTimeout_run h5 hen hbad hnet).trans (if_pos h3)), rfl⟩,
        fun h => absurd h3 (Nat.not_lt.2 h)⟩
    · exact ⟨groupsOff s g, mem_groupsOff s g, fun h => absurd h h3,
        fun _ => next_congr ((powerGoodTimeout_run h5 hen hbad hnet).trans (if_neg h3))⟩
  · have hrun := enableRetry_run hr hdue hgo
    by_cases hph : s.mgmt.phase = .bootMgmt
    · refine ⟨_, next_congr (hrun.trans (if_pos hph)), enable_retry s _, fun _ => ⟨?_, ?_⟩, fun h => absurd hph h⟩
      · exact mem_enable _ _ 0 (.inl (by decide))
      · exact mem_enable _ _ 1 (.inl (by decide))
    · exact ⟨_, next_congr (hrun.trans (if_neg hph)), enable_retry s _, fun h => absurd h hph, fun _ => mem_enable _ _ 2 (.inl (by decide))⟩
end

section
/-! SUPPORT. The phases of bring-up (R513-R518, R541). -/

namespace Sys2Proof.Machine

variable {s : State}

theorem mgmtWork_ends (bi bc : List (Nat × Nat)) (s : State) :
    (mgmtWork bi bc s).mgmt.recovery = true ∨ 0 ∈ (mgmtWork bi bc s).pwr.enabled ∧ 1 ∈ (mgmtWork bi bc s).pwr.enabled := by
  unfold mgmtWork
  extract_lets v
  split
  · left
    rw [emit_mgmt]
  · right
    exact ⟨startNet_enabled _ 0 (mem_enable _ _ 0 (.inl (by decide))), startNet_enabled _ 1 (mem_enable _ _ 1 (.inl (by decide)))⟩

theorem netWork_ends (an : List (Nat × DieAnswer)) (s : State) :
    (netWork an s).mgmt.netDone = true ∨ (netWork an s).mgmt.phase = .bootMem := by
  unfold netWork
  exact endNet_done _ rfl

theorem enable_mgmt (s : State) (l : List Nat) : (enable s l).mgmt = s.mgmt := rfl

theorem portsBackIf_keeps (c : Bool) (s : State) : (if c then portsBack s 0 32 6 else s).mgmt = s.mgmt ∧
    (if c then portsBack s 0 32 6 else s).pwr = s.pwr := by
  cases c
  · exact ⟨rfl, rfl⟩
  · exact ⟨portsBack_mgmt s 0 32 6, portsBack_pwr s 0 32 6⟩

theorem memWork_ends (rows pcs : List (Nat × Nat)) (s : State) :
    (memWork rows pcs s).mgmt.phase = .bootLink ∧ 2 ∈ (memWork rows pcs s).pwr.enabled := by
  unfold memWork
  dsimp only
  rw [(portsBackIf_keeps _ _).1, (portsBackIf_keeps _ _).2]
  refine ⟨?_, mem_enable _ _ 2 (.inl (by decide))⟩
  rw [enable_mgmt, startPhase_mgmt]

theorem linkWork_phase (lanes : List (Nat × Nat × Nat)) (late : List Nat) (s : State) : (linkWork lanes late s).mgmt.phase = .bootCore :=
  congrArg Mgmt.phase (startPhase_mgmt _ _)

theorem coreWork_phase (failing bad : List Nat) (s : State) : (coreWork failing bad s).mgmt.phase = .check := by
  unfold coreWork
  dsimp only
  rw [advise_mgmt, startPhase_mgmt]

theorem judgeTopo_phase (s : State) : (judgeTopo s).mgmt.phase = s.mgmt.phase := by
  unfold judgeTopo
  dsimp only
  split
  · rfl
  · rw [emit_mgmt]

theorem judgeTopo_pkg (s : State) : (judgeTopo s).pwr.pkg = .ready ∨ (judgeTopo s).pwr.pkg = .held := by
  unfold judgeTopo
  dsimp only
  split
  · exact .inl rfl
  · right
    rw [(emit_K _ _ _ _ _).part12 rfl]

theorem blowFuse_pwr (s : State) (ty : Nat) : (blowFuse s ty).pwr = s.pwr := (blowFuse_K s ty).part12 rfl

theorem blowFuses_phase (s : State) (l : List Nat) : (l.foldl blowFuse s).mgmt.phase = s.mgmt.phase :=
  foldl_part (·.mgmt.phase) blowFuse blowFuse_phase l s

theorem blowFuses_pwr (s : State) (l : List Nat) : (l.foldl blowFuse s).pwr = s.pwr :=
  foldl_part (·.pwr) blowFuse blowFuse_pwr l s

/-- The judged state, with the TRIP that stood kept. -/
def tripKept (trip : Prop) [Decidable trip] (j : State) : State := if trip then { j with pwr := { j.pwr with pkg := .trip } } else j

theorem tripKept_mgmt (trip : Prop) [Decidable trip] (j : State) : (tripKept trip j).mgmt = j.mgmt := by
  unfold tripKept
  split <;> rfl

theorem tripKept_pkg (trip : Prop) [Decidable trip] (j : State) : (tripKept trip j).pwr.pkg = .trip ∨ (tripKept trip j).pwr.pkg = j.pwr.pkg := by
  unfold tripKept
  split
  · exact .inl rfl
  · exact .inr rfl

/-- Bring-up's end before its judgement. -/
def bringUpOver (s : State) : State := { s with mgmt := { s.mgmt with phase := .ended, cold := false } }

theorem checkWork_eq (s : State) : checkWork s = [1, 2, 3, 4].foldl blowFuse (tripKept (s.pwr.pkg = .trip) (judgeTopo (bringUpOver s))) := rfl

theorem checkWork_ends (s : State) : (checkWork s).mgmt.phase = .ended ∧
    ((checkWork s).pwr.pkg = .ready ∨ (checkWork s).pwr.pkg = .held ∨ (checkWork s).pwr.pkg = .trip) := by
  rw [checkWork_eq, blowFuses_phase, blowFuses_pwr, tripKept_mgmt]
  refine ⟨judgeTopo_phase _, ?_⟩
  rcases tripKept_pkg (s.pwr.pkg = .trip) (judgeTopo (bringUpOver s)) with h | h
  · exact .inr (.inr h)
  · rw [h]
    exact (judgeTopo_pkg _).imp_right .inl

theorem bootMemDone_run {rows pcs : List (Nat × Nat)} {trained : List (Nat × List Byte)} {silent : Nat} (hin : inPhase s .bootMem = true)
    (hfall : silent = 3 → fallBack s 3 = none) :
    bootMemDone rows pcs trained silent s = memWork rows pcs (trainFull s 1 520 4096 trained) := by
  unfold bootMemDone
  rw [if_neg (by simp [hin]), ite_none hfall]

theorem bootMemDone_back {t : State} {rows pcs : List (Nat × Nat)} {trained : List (Nat × List Byte)} (hin : inPhase s .bootMem = true)
    (hfall : fallBack s 3 = some t) : bootMemDone rows pcs trained 3 s = t := by
  unfold bootMemDone
  rw [if_neg (by simp [hin]), if_pos rfl, hfall]

theorem bootLinkDone_run {lanes : List (Nat × Nat × Nat)} {late : List Nat} {trained : List (Nat × List Byte)} {silent : Nat}
    (hin : inPhase s .bootLink = true) (hfall : silent = 3 ∨ silent = 4 → fallBack s silent = none) :
    bootLinkDone lanes late trained silent s = linkWork lanes late (trainFull s 0 80 16384 trained) := by
  unfold bootLinkDone
  rw [if_neg (by simp [hin]), ite_none hfall]

theorem bootLinkDone_back {t : State} {lanes : List (Nat × Nat × Nat)} {late : List Nat} {trained : List (Nat × List Byte)} {silent : Nat}
    (hin : inPhase s .bootLink = true) (hty : silent = 3 ∨ silent = 4) (hfall : fallBack s silent = some t) :
    bootLinkDone lanes late trained silent s = t := by
  unfold bootLinkDone
  rw [if_neg (by simp [hin]), if_pos hty, hfall]

/-! The limit of a phase. -/

/-- A bundle direction that BOOT_LINK has not brought into service at its limit. -/
def bundleDark (t : State) (k : Nat) : State :=
  bundleChange (putBundle t k { getBundle t k with retired := true }) (k / 2) (k % 2) 3 0

theorem getBundle_bundleDark_same (t : State) (k : Nat) : (getBundle (bundleDark t k) k).retired = true := by
  unfold bundleDark
  rw [bundleChange_bundle, getBundle_putBundle]

theorem getBundle_bundleDark_other (t : State) {k j : Nat} (hj : j ≠ k) : getBundle (bundleDark t k) j = getBundle t j := by
  unfold bundleDark
  rw [bundleChange_bundle, getBundle_putBundle_other _ _ _ _ hj]

theorem bundleDark_keeps_retired (t : State) (k j : Nat) (h : (getBundle t j).retired = true) : (getBundle (bundleDark t k) j).retired = true := by
  by_cases hj : j = k
  · rw [hj]
    exact getBundle_bundleDark_same t k
  · rw [getBundle_bundleDark_other t hj]
    exact h

theorem bundlesDark_retired (l : List Nat) (t : State) (j : Nat) (h : j ∈ l ∨ (getBundle t j).retired = true) :
    (getBundle (l.foldl bundleDark t) j).retired = true := by
  induction l generalizing t with
  | nil => exact h.resolve_left (List.not_mem_nil)
  | cons k l ih =>
    refine ih _ ?_
    rcases h with h | h
    · rcases List.mem_cons.1 h with rfl | h
      · exact .inr (getBundle_bundleDark_same t j)
      · exact .inl h
    · exact .inr (bundleDark_keeps_retired t k j h)

/-- The phase's work at its limit, the state `u` having the record of it. -/
def limitWork (an : List (Nat × DieAnswer)) (out : List Nat) (u s : State) (p : Phase) : State := match p with
  | .bootMgmt => mgmtWork [] [] u
  | .bootNet => netWork an u
  | .bootMem => memWork [] (out.map fun k => (k / 64, k % 64)) u
  | .bootLink => linkWork [] [] ((out.filter (· < 48)).foldl bundleDark u)
  | .bootCore => coreWork out [] u
  | .check => checkWork u
  | .ended => s

theorem bootPhaseLimit_run {an : List (Nat × DieAnswer)} {out : List Nat} (hin : inPhase s s.mgmt.phase = true) (hw : s.mgmt.waitNet = false)
    (hr : s.mgmt.recovery = false) (hn : s.mgmt.netDone = false) :
    bootPhaseLimit an out s = limitWork an out (emit s 7 3 {} [(1, phaseCode s)]) s s.mgmt.phase := by
  unfold bootPhaseLimit
  dsimp only
  by_cases he : s.mgmt.phase = .ended
  · rw [if_pos (.inl he)]
    rw [he]
    rfl
  · rw [if_neg (by simp [he, hin, hw, hr, hn])]
    rfl

theorem limitWork_bootMem (an : List (Nat × DieAnswer)) (out : List Nat) (u s : State) :
    limitWork an out u s .bootMem = memWork [] (out.map fun k => (k / 64, k % 64)) u := by
  unfold limitWork
  rfl

end Sys2Proof.Machine
end

section
/-! PROOF. The obligation O42, from the lemmas above. -/

open Sys2Proof Sys2Proof.Machine

/-- Settles O42, clause by clause: what each phase's work leaves (`mgmtWork_ends` to `checkWork_ends`), the two ways on from an image that
stopped answering, and `bootPhaseLimit_run`. -/
theorem bringUpGoesPhaseByPhase : Obligations.BringUpGoesPhaseByPhase := by
  unfold Obligations.BringUpGoesPhaseByPhase
  refine ⟨fun s bi bc hin hw hr => ⟨mgmtWork bi bc s, next_congr (if_pos (by simp [hin, hw, hr])), mgmtWork_ends bi bc s⟩,
    fun s an hin hn => ⟨netWork an s, next_congr (if_pos (by simp [hin, hn])), netWork_ends an s⟩,
    fun s rows pcs trained silent hin hfall => ⟨_, next_congr (bootMemDone_run hin hfall), memWork_ends rows pcs _⟩,
    fun s lanes late trained silent hin hfall => ⟨_, next_congr (bootLinkDone_run hin hfall), linkWork_phase lanes late _⟩,
    fun s t a b c e trained silent hfall => ⟨fun hin h3 => ?_, fun hin hty => next_congr (bootLinkDone_back hin hty hfall)⟩,
    fun s failing bad hin => ⟨coreWork failing bad s, next_congr (if_pos hin), coreWork_phase failing bad s⟩,
    fun s hin => ⟨checkWork s, next_congr (if_pos hin), checkWork_ends s⟩,
    fun s an out hin hw hr hn => ⟨_, rfl, ?_⟩⟩
  · subst h3
    exact next_congr (bootMemDone_back hin hfall)
  · have hrun : exec (.bootPhaseLimit an out) s = .next (limitWork an out (emit s 7 3 {} [(1, phaseCode s)]) s s.mgmt.phase) :=
      next_congr (bootPhaseLimit_run hin hw hr hn)
    rw [hrun]
    refine ⟨fun hp => ?_, fun hp => ?_, fun hp => ?_, fun hp => ⟨(out.filter (· < 48)).foldl bundleDark (emit s 7 3 {} [(1, phaseCode s)]), ?_, fun k hk hlt =>
      bundlesDark_retired _ _ _ (.inl (List.mem_filter.2 ⟨hk, by simp [hlt]⟩))⟩, fun hp => ?_, fun hp => ?_⟩
    case refine_3 => rw [hp, limitWork_bootMem]
    all_goals
      rw [hp]
      rfl

end

section
/-! SUPPORT. The registers that commands write (R587-R603). -/

namespace Sys2Proof.Machine

variable {s : State}

theorem setupLockWrite_run {v : Nat} (hlock : s.regs.setupLock = false) (hu : usable s 0 false = true) :
    setupLockWrite v s = { s with regs := { s.regs with setupLock := bit v 0 } } := by
  unfold setupLockWrite
  rw [if_neg (by simp [hlock, hu])]

/-- The doorbell area of a function written. -/
def areaWritten (s : State) (fn v : Nat) : State :=
  putFn s fn { getFn s fn with
    dbValid := bit v 0, dbBase := v % 2 ^ 64 / 2 ^ 14 * 2 ^ 14
    allUndef := (getFn s fn).allUndef || v % 2 ^ 64 / 2 ^ 14 * 2 ^ 14 != (getFn s fn).dbBase }

theorem dbellConfigWrite_base {fn v : Nat} (hfn : fn ≤ 16) (hu : usable s (if fn = 0 then 3 else 11) false = true)
    (hq : queuesActive s fn = false) (hlock : fn ≠ 0 ∨ s.regs.setupLock = false) : dbellConfigWrite fn 0 8 v s = areaWritten s fn v := by
  have hopen : ¬ (fn = 0 ∧ s.regs.setupLock = true) := fun h => hlock.elim (· h.1) (fun hl => by simp [hl] at h)
  unfold dbellConfigWrite
  dsimp only
  rw [if_neg (by simp only [hu, Bool.not_true, Bool.false_eq_true, false_or]; omega), if_pos ⟨rfl, rfl⟩, if_neg (by simp [hq]), if_neg hopen]
  rfl

theorem dbellConfigWrite_poll {v : Nat} (hu : usable s 3 false = true) :
    dbellConfigWrite 0 0x08 4 v s = if 5 ≤ v % 2 ^ 11 ∧ v % 2 ^ 11 ≤ 2000 then { s with qe := { s.qe with pollPeriod := v % 2 ^ 11 } }
      else putFn s 0 { getFn s 0 with dbCfgErr := true } := by
  unfold dbellConfigWrite
  dsimp only
  rw [if_neg (by simp [hu]), if_neg (by omega), if_neg (by omega), if_neg (by omega)]
  simp only [decide_eq_true_eq]

theorem qctlWriteBusy_run {fn : Nat} (hfn : fn ≤ 16) (hu : usable s (if fn = 0 then 2 else 10) false = true) :
    qctlWriteBusy fn s = putFn s fn { getFn s fn with qctlDropped := true } := by
  unfold qctlWriteBusy
  rw [if_neg (by simp only [hu, Bool.not_true, Bool.false_eq_true, false_or]; omega)]

/-- A state with the log's control written, before the ring takes what it missed. -/
def controlWritten (s : State) (v : Nat) : State :=
  let size := if s.log.en || s.regs.setupLock then s.log.sizeLog2 else v % 32
  { s with log := { s.log with
    mask := v / 2 ^ 8 % 2 ^ 8, en := bit v 16, sizeLog2 := size
    cfgErr := s.log.cfgErr || ((s.log.en && v % 32 != s.log.sizeLog2) || (bit v 16 && !decide (6 ≤ size ∧ size ≤ 20)))
    writeErr := s.log.writeErr && !bit v 16 } }

theorem logpControlWrite_run {v : Nat} (hu : usable s 7 false = true) : logpControlWrite v s = ringDrain (controlWritten s v) := by
  unfold logpControlWrite
  rw [if_neg (by simp [hu])]
  rfl

/-- A partition with the bits of its BW_MISS that a write names cleared. -/
def missCleared (x : Part) (v : Nat) : Part :=
  { x with bwMiss := ((List.range 8).filter fun c => bit x.bwMiss c && !bit v c).foldl (fun n c => n + 2 ^ c) 0 }

theorem clearMiss_run {p v : Nat} {x : Part} (hp : getP s p = some x) : clearMiss s p v = putP s p (missCleared x v) := by
  unfold clearMiss
  rw [hp]
  rfl

theorem bwMissClear_run {fn part p v : Nat} (hu : usable s (if fn = 0 then 5 else 13) false = true)
    (hown : if fn = 0 then p = part else (tfind s.vfs fn).map (·.part) = some p) : bwMissClear fn part v s = clearMiss s p v := by
  unfold bwMissClear
  rw [if_neg (by simp [hu])]
  by_cases h0 : fn = 0
  · rw [if_pos h0] at hown ⊢
    rw [hown]
  · rw [if_neg h0] at hown ⊢
    obtain ⟨x, hx, hp⟩ := Option.map_eq_some_iff.1 hown
    rw [hx, ← hp]

/-- A state with the high half of a register latched. -/
def highLatched (s : State) (fn off v : Nat) : State :=
  putFn s fn { getFn s fn with latchHigh := tput (getFn s fn).latchHigh (off + 4) (v / 2 ^ 32 % 2 ^ 32) }

theorem reg64LowRead_run {fn off v : Nat} (hreg : regAt s fn off = some (8, v)) : reg64LowRead fn off s = highLatched s fn off v := by
  unfold reg64LowRead
  rw [hreg]
  rfl

theorem read32_highLatched (s : State) (fn off v : Nat) : read32 (highLatched s fn off v) fn (off + 4) = v / 2 ^ 32 % 2 ^ 32 := by
  unfold read32 highLatched
  rw [getFn_putFn, tfind_tput_same]

theorem registerWrite_time {v : Nat} (hu : usable s 8 false = true) : registerWrite 0 0x800008 4 v s = timeWrite s 8 4 (v % 2 ^ 32) := by
  unfold registerWrite
  dsimp only
  rw [show blockOf 0 0x800008 = (8, 8) from rfl, if_neg (by simp [hu])]
  rfl

theorem timeWrite_control (s : State) (v : Nat) : timeWrite s 8 4 v = { s with time := { s.time with
    ptmEn := bit v 0, ptmPeriod := v / 2 ^ 8 % 2 ^ 8, first := s.time.first || (bit v 0 && !s.time.ptmEn) } } :=
  if_pos ⟨rfl, rfl⟩

theorem registerWrite_adminq {v : Nat} (hu : usable s 1 false = true) : registerWrite 0 0x10000 8 v s = adminqWrite s 0 8 (v % 2 ^ 64) := by
  unfold registerWrite
  dsimp only
  rw [show blockOf 0 0x10000 = (1, 0) from rfl, if_neg (by simp [hu])]
  rfl

/-- A function with its bus-master bit written. -/
def busMasterSet (s : State) (fn : Nat) (on : Bool) : State := putFn s fn { getFn s fn with bme := on }

theorem busMasterEnable_run {fn : Nat} {on : Bool} (hfn : fn ≤ 16) (hon : s.pwr.pkg ≠ .off) :
    busMasterEnable fn on s = if fn = 0 ∧ on then ringDrain (busMasterSet s fn on) else busMasterSet s fn on := by
  unfold busMasterEnable
  rw [if_neg (by simp only [hon, or_false]; omega)]
  rfl

theorem busMasterEnable_sets {fn : Nat} {on : Bool} (hfn : fn ≤ 16) (hon : s.pwr.pkg ≠ .off) :
    getFn (busMasterEnable fn on s) fn = { getFn s fn with bme := on } ∧ (busMasterEnable fn on s).regs = s.regs := by
  have hset : getFn (busMasterSet s fn on) fn = { getFn s fn with bme := on } := getFn_putFn _ _ _
  rw [busMasterEnable_run hfn hon]
  split
  · refine ⟨?_, ((ringDrain_K _).part8 rfl).trans rfl⟩
    unfold getFn at hset ⊢
    rw [ringDrain_qe]
    exact hset
  · exact ⟨hset, rfl⟩

theorem negotiatedWidthChange_keeps (w : Nat) (s : State) : (negotiatedWidthChange w s).regs = { s.regs with linkWidth := w } ∧
    (negotiatedWidthChange w s).parts = s.parts := by
  unfold negotiatedWidthChange
  generalize hz : ({ s with regs := { s.regs with linkWidth := w } } : State) = z
  have hregs : z.regs = { s.regs with linkWidth := w } := by rw [← hz]
  have hparts : z.parts = s.parts := by rw [← hz]
  rw [(recap_K _ 0x201).part8 rfl, (recap_K _ 0x200).part8 rfl, (recap_K _ 0x201).part19 rfl, (recap_K _ 0x200).part19 rfl]
  exact ⟨hregs, hparts⟩

end Sys2Proof.Machine
end

section
/-! PROOF. The obligation O43, from the lemmas above. -/

open Sys2Proof Sys2Proof.Machine

/-- Settles O43, register by register: the write's lemma above gives the next state, and the rules of the state what it holds. -/
theorem registersTakeTheirWrites : Obligations.RegistersTakeTheirWrites := by
  unfold Obligations.RegistersTakeTheirWrites
  refine ⟨fun s v hlock hu => next_congr (setupLockWrite_run hlock hu),
    fun s fn v hfn hu hq hlock => ⟨_, next_congr (dbellConfigWrite_base hfn hu hq hlock), ?_⟩,
    fun s v hu => ⟨fun h1 h2 => next_congr ((dbellConfigWrite_poll hu).trans (if_pos ⟨h1, h2⟩)),
      fun h => next_congr ((dbellConfigWrite_poll hu).trans (if_neg (by omega)))⟩,
    fun s fn hfn hu => next_congr (qctlWriteBusy_run hfn hu),
    fun s v hu => ⟨_, next_congr (logpControlWrite_run hu), ?_⟩,
    fun s fn part p v x hu hown hp => ⟨_, missCleared x v, next_congr ((bwMissClear_run hu hown).trans (clearMiss_run hp)), getP_putP _ _ _,
      fun c hc => missBits _ _ c hc, rfl⟩,
    fun s fn off v hreg => ⟨_, next_congr (reg64LowRead_run hreg), read32_highLatched s fn off v, rfl⟩,
    fun s v hu => next_congr ((registerWrite_time hu).trans (timeWrite_control s _)),
    fun s v hu => next_congr (registerWrite_adminq hu),
    fun s fn on hfn hon => ⟨_, rfl, busMasterEnable_sets hfn hon⟩,
    fun s w => ⟨_, rfl, negotiatedWidthChange_keeps w s⟩⟩
  · unfold areaWritten
    rw [getFn_putFn]
    exact ⟨rfl, rfl⟩
  · obtain ⟨w, e, hlog⟩ := ringDrain_log (controlWritten s v)
    rw [hlog]
    exact ⟨rfl, rfl, rfl, rfl, rfl⟩

end

section
/-! SUPPORT. Substitution, stale speakers, spare tests and watchdogs (R473-R477, R479, R523, R524). -/

namespace Sys2Proof.Machine

variable {s : State} {core old : Nat} {u : Subst}

/-! The end of a slice copy. -/

/-- The core of a substitution bound to its target site, with the unreadable codewords poisoned. -/
def substBound (s : State) (core : Nat) (u : Subst) (l : List Nat) : State :=
  let s1 := l.foldl (fun t o => pwritePoison t (codeword (core * 2 ^ 27 + o % 2 ^ 27))) s
  bindCore { s1 with flt := { s1.flt with subst := s.flt.subst.filter fun v => v.core != core } } core u.column 2

/-- The state in which the substitution has ended, before the requests that waited are served. -/
def substEnded (s : State) (core old : Nat) (u : Subst) (l : List Nat) : State :=
  let s2 := substBound s core u l
  emit (freshCore s2 core) 5 2 (coreWho s2 core (coreOwner s2 core)) [(2, core % 256 / 16 * 17 + old), (2, core % 256 / 16 * 17 + u.column)]

theorem sliceCopyDone_run {l : List Nat} (hu : s.flt.subst.find? (fun u => u.core == core) = some u) (hold : (getBind s core).column = some old)
    (hpkg : s.pwr.pkg ≠ .trip) (hf : (getSite s (siteKey core u.column)).fenced = false)
    (hb : (getSite s (siteKey core u.column)).bad = false) (hn : nextSeason s core ≤ 0xFFFF) :
    sliceCopyDone core l true true s = serveFreed (substEnded s core old u l) := by
  unfold sliceCopyDone
  rw [hu, hold]
  dsimp only
  rw [if_neg hpkg, if_neg (by simp), if_neg (by simp [hf, hb]), if_neg (by simp), if_neg (Nat.not_lt.2 hn)]
  rfl

theorem sliceCopyDone_failed {l : List Nat} {b : Bool} (hu : s.flt.subst.find? (fun u => u.core == core) = some u)
    (hold : (getBind s core).column = some old) (hpkg : s.pwr.pkg ≠ .trip) :
    sliceCopyDone core l false b s = nextSite (fenceSite s (siteKey core u.column)) u := by
  unfold sliceCopyDone
  rw [hu, hold]
  dsimp only
  rw [if_neg hpkg, if_pos (by simp)]

theorem sliceCopyDone_hole {l : List Nat} (hu : s.flt.subst.find? (fun u => u.core == core) = some u)
    (hold : (getBind s core).column = some old) (hpkg : s.pwr.pkg ≠ .trip) (hf : (getSite s (siteKey core u.column)).fenced = false)
    (hb : (getSite s (siteKey core u.column)).bad = false) :
    sliceCopyDone core l true false s = emit (makeHole s core) 7 6 {} [(1, 11)] := by
  unfold sliceCopyDone
  rw [hu, hold]
  dsimp only
  rw [if_neg hpkg, if_neg (by simp), if_neg (by simp [hf, hb]), if_pos (by simp)]

theorem bindCore_flt (s : State) (core col st : Nat) : (bindCore s core col st).flt =
    { s.flt with bindings := tput s.flt.bindings core { column := some col, state := st, season := nextSeason s core } } := rfl

theorem freshCore_flt (s : State) (core : Nat) : (freshCore s core).flt.bindings = s.flt.bindings ∧ (freshCore s core).flt.subst = s.flt.subst :=
  ⟨rfl, rfl⟩

theorem substEnded_flt (s : State) (core old : Nat) (u : Subst) (l : List Nat) :
    (substEnded s core old u l).flt.bindings = (substBound s core u l).flt.bindings ∧
    (substEnded s core old u l).flt.subst = (substBound s core u l).flt.subst := by
  unfold substEnded
  dsimp only
  rw [emit_flt]
  exact freshCore_flt _ core

theorem substBound_bind (s : State) (core : Nat) (u : Subst) (l : List Nat) :
    (getBind (substBound s core u l) core).column = some u.column ∧ (getBind (substBound s core u l) core).state = 2 := by
  unfold substBound getBind
  dsimp only
  rw [bindCore_flt]
  dsimp only
  rw [tfind_tput_same]
  exact ⟨rfl, rfl⟩

theorem substBound_subst (s : State) (core : Nat) (u : Subst) (l : List Nat) :
    (substBound s core u l).flt.subst = s.flt.subst.filter fun v => v.core != core := by
  unfold substBound
  dsimp only
  rw [bindCore_flt]

/-! Stale speakers and spare tests. -/

theorem staleSpeaker_counts {site season : Nat} (hseason : ((siteCore s site).map fun c => (getBind s c).season) ≠ some season) :
    (staleSpeaker site season s).flt.linkStale = s.flt.linkStale + 1 ∧ (staleSpeaker site season s).flt.bindings = s.flt.bindings := by
  unfold staleSpeaker
  rw [if_neg hseason]
  dsimp only
  split
  · rw [if_pos rfl, emit_flt]
    exact ⟨rfl, rfl⟩
  · split
    · rw [emit_flt]
      exact ⟨rfl, rfl⟩
    · exact ⟨rfl, rfl⟩

theorem getSite_of_flt {a b : State} (h : a.flt = b.flt) (site : Nat) : getSite a site = getSite b site := by
  unfold getSite
  rw [h]

theorem spareTest_site {site : Nat} {pass : Bool} (hf : (getSite s site).fenced = true) (hb : (getSite s site).bad = false)
    (hfree : siteCore s site = none) (hm : s.mgmt.mittenDown = false) (hr : s.fab.dieReset.contains (2 + site / 272) = false)
    (hl : s.fab.dieLost.contains (2 + site / 272) = false)
    (hdue : (getSite s site).lastTest = 0 ∨ (getSite s site).lastTest + 600000000000 ≤ s.time.now) :
    getSite (spareTest site pass s) site =
      (if pass = false then { getSite s site with bad := true, passes := 0, lastTest := s.time.now }
        else if (getSite s site).passes + 1 < 3 then { getSite s site with passes := (getSite s site).passes + 1, lastTest := s.time.now }
        else { getSite s site with fenced := false, passes := 0, lastTest := s.time.now }) := by
  unfold spareTest
  dsimp only
  rw [if_neg (by simp only [hf, hb, hfree, hm, hr, hl, Bool.not_true, Bool.false_eq_true, Option.isSome_none, false_or]; omega)]
  cases pass
  · rw [if_pos Bool.not_false, if_pos rfl, getSite_putSite]
  · rw [if_neg (c := (!true) = true) (by decide), if_neg (c := true = false) (by decide)]
    split
    · rw [getSite_putSite]
    · rw [getSite_of_flt (emit_flt _ _ _ _ _), getSite_putSite]

/-! The watchdogs. -/

/-- Mitten's restarts of the last ten minutes. -/
def recentRestarts (s : State) : List Nat := s.mgmt.mittenRestarts.filter fun t => decide (s.time.now < t + 600000000000)

/-- A state without restarts of Mitten on record. -/
def restartsCleared (s : State) : State := { s with mgmt := { s.mgmt with mittenRestarts := [] } }

theorem mittenWatchdog_run (hoff : s.pwr.pkg ≠ .off) (hph : s.mgmt.phase ≠ .bootMgmt) (hd : s.mgmt.mittenDown = false)
    (hr : s.mgmt.recovery = false) (hg : s.mgmt.gauntletWdt = false) :
    mittenWatchdog s = if (recentRestarts s).length < 3 then
        emit { s with mgmt := { s.mgmt with mittenRestarts := recentRestarts s ++ [s.time.now] } } 7 0xA {} []
      else if ((tfind (getFw s 2).slots (inactiveSlot (getFw s 2))).map fun i => decide ((getFw s 2).fuse ≤ i.level)) = some true then
        putFw (restartsCleared s) 2 { getFw s 2 with active := inactiveSlot (getFw s 2), armed := false, liveFrom := none }
      else { restartsCleared s with mgmt := { (restartsCleared s).mgmt with mittenDown := true } } := by
  unfold mittenWatchdog
  rw [if_neg (by simp [hoff, hph, hd, hr, hg])]
  rfl

theorem gauntletWatchdog_run (hoff : s.pwr.pkg ≠ .off) (hg : s.mgmt.gauntletWdt = false) :
    gauntletWatchdog s = emit { s with mgmt := { s.mgmt with gauntletWdt := true } } 7 0xB {} [] := by
  unfold gauntletWatchdog
  rw [if_neg (by simp [hoff, hg])]

end Sys2Proof.Machine
end

section
/-! PROOF. The obligation O44, from the lemmas above. -/

open Sys2Proof Sys2Proof.Machine

/-- Settles O44, clause by clause: the ways `sliceCopyDone` ends, `staleSpeaker_counts`, `spareTest_site` and the two watchdogs' runs. -/
theorem sparesAndWatchdogsAct : Obligations.SparesAndWatchdogsAct := by
  unfold Obligations.SparesAndWatchdogsAct
  refine ⟨fun s core old l u hu hold hpkg hf hb hn => ⟨_, next_congr (sliceCopyDone_run hu hold hpkg hf hb hn), ?_⟩,
    fun s core old l b u hu hold hpkg => ⟨next_congr (sliceCopyDone_failed hu hold hpkg),
      fun hf hb => next_congr (sliceCopyDone_hole hu hold hpkg hf hb)⟩,
    fun s site season hseason => ⟨_, rfl, staleSpeaker_counts hseason⟩,
    fun s site pass hf hb hfree hm hr hl hdue => ⟨_, rfl, spareTest_site hf hb hfree hm hr hl hdue⟩,
    fun s r hoff hph hd hrec hg hr => ⟨_, next_congr (mittenWatchdog_run hoff hph hd hrec hg), ?_⟩,
    fun s hoff hg => ⟨_, next_congr (gauntletWatchdog_run hoff hg), emit_mgmt _ _ _ _ _, emit_gnt _ _ _ _ _⟩⟩
  · obtain ⟨hbind, hsubst⟩ := substEnded_flt s core old u l
    have hget : getBind (substEnded s core old u l) core = getBind (substBound s core u l) core := by
      unfold getBind
      rw [hbind]
    rw [hget, hsubst]
    obtain ⟨hcol, hst⟩ := substBound_bind s core u l
    exact ⟨hcol, hst, substBound_subst s core u l⟩
  · change r = recentRestarts s at hr
    rw [← hr]
    refine ⟨fun h => ?_, fun h hok => ?_, fun h hno => ?_⟩
    · rw [if_pos h, emit_mgmt]
    · rw [if_neg (Nat.not_lt.2 h), if_pos hok, getFw_putFw]
      exact ⟨rfl, hd⟩
    · rw [if_neg (Nat.not_lt.2 h), if_neg hno]

end

section
/-! SUPPORT. Grants and held requests (R345, R347, R348), and the scrubber (R463-R465). -/

namespace Sys2Proof.Machine

variable {s : State}

/-! Requests that wait. -/

/-- A state in which the waiting request of one number is held no longer. -/
def released (s : State) (id : Nat) (w : WaitReq) : State :=
  { s with bw := { s.bw with waiting := tput s.bw.waiting id { w with heldSince := none } } }

theorem serveAll_one {id : Nat} {w : WaitReq} (h : tfind s.bw.waiting id = some w) : serveAll s [id] = serveWaiting s id := by
  unfold serveAll
  simp only [List.filterMap_cons, List.filterMap_nil, h, Option.map_some]
  rfl

theorem serveWaiting_runs {id pa : Nat} {w : WaitReq} {wr : Bool} (h : tfind s.bw.waiting id = some w)
    (hx : xlate s w.req.part w.req.va = .ok (.loc pa wr)) (hc : underCopy s pa = false) (ht : underTest s pa = false)
    (hw : windowHolds s pa = none) :
    serveWaiting s id = serveReq { s with bw := { s.bw with waiting := tdel s.bw.waiting id } } w.req w.use (decide (w.tier ≤ 3)) := by
  unfold serveWaiting
  rw [h]
  dsimp only
  rw [hx]
  dsimp only
  rw [hc, ht, Bool.or_self, if_neg Bool.false_ne_true, hw]

theorem heldRequestRelease_slack {res id : Nat} {w : WaitReq} (hslack : slackOn s res = true)
    (hone : (s.bw.waiting.filter fun e => e.2.use.any fun u => u.1 == res) = [(id, w)]) :
    heldRequestRelease res s = serveAll (released s id w) [id] := by
  unfold heldRequestRelease
  rw [hslack, Bool.not_true, if_neg Bool.false_ne_true]
  dsimp only
  rw [hone]
  rfl

theorem heldRequestRelease_serves {res id pa : Nat} {w : WaitReq} {wr : Bool} (hslack : slackOn s res = true)
    (hone : (s.bw.waiting.filter fun e => e.2.use.any fun u => u.1 == res) = [(id, w)])
    (hx : xlate s w.req.part w.req.va = .ok (.loc pa wr)) (hc : underCopy s pa = false) (ht : underTest s pa = false)
    (hw : windowHolds s pa = none) :
    heldRequestRelease res s = serveReq { s with bw := { s.bw with
      waiting := tdel (tput s.bw.waiting id { w with heldSince := none }) id } } w.req w.use (decide (w.tier ≤ 3)) := by
  have hfind : tfind (released s id w).bw.waiting id = some { w with heldSince := none } := tfind_tput_same _ _ _
  rw [heldRequestRelease_slack hslack hone, serveAll_one hfind, serveWaiting_runs hfind hx hc ht hw]
  rfl

theorem heldRequestRelease_waits {res : Nat} (hslack : slackOn s res = false) : heldRequestRelease res s = s := by
  unfold heldRequestRelease
  rw [hslack, Bool.not_false, if_pos rfl]

/-- A state in which a waiting request is gone. -/
def unqueued (s : State) (id : Nat) : State := { s with bw := { s.bw with waiting := tdel s.bw.waiting id } }

theorem prefetchDrop_drops {id at_ : Nat} {w : WaitReq} {x : Part} (hw : tfind s.bw.waiting id = some w) (hheld : w.heldSince = some at_)
    (hp : w.req.prefetch = true) (hlate : at_ + 200 < s.time.now) (hx : getP s w.req.part = some x) :
    prefetchDrop id s = putP (unqueued s id) w.req.part { x with prefetchDrop := (x.prefetchDrop + 1) % 2 ^ 64 } := by
  obtain ⟨m, use, tier, held⟩ := w
  subst hheld
  unfold prefetchDrop
  rw [hw]
  dsimp only
  rw [if_pos ⟨hp, hlate⟩]
  unfold countDrop
  change (match getP s m.part with
    | some x => putP (unqueued s id) m.part { x with prefetchDrop := (x.prefetchDrop + 1) % 2 ^ 64 }
    | none => unqueued s id) = _
  rw [hx]

theorem requestDeadlinePass_moves {id : Nat} {w : WaitReq} (hw : tfind s.bw.waiting id = some w) (htier : w.tier = 1)
    (hd : 0 < w.req.deadline) (hlate : w.req.deadline < s.time.now) :
    requestDeadlinePass id s = { s with bw := { s.bw with waiting := tput s.bw.waiting id { w with tier := 3 } } } := by
  unfold requestDeadlinePass
  rw [hw]
  dsimp only
  rw [if_pos ⟨htier, by unfold latePast; simp [hd, hlate]⟩]

/-! The scrubber. -/

/-- The scrubber's place moved on from a codeword. -/
def scrubOn (s : State) (pa : Nat) : State := match scrubNext pa with
  | some n => { s with flt := { s.flt with scrubAt := n } }
  | none => scrubEnd { s with flt := { s.flt with scrubAt := scrubTop } }

theorem scrubRead_finds {pa : Nat} {found : EccFinding} (h32 : pa % 32 = 0) (hat : s.flt.scrubAt = pa) (hback : s.flt.scrubBack = [])
    (hw : windowHolds s pa = none) : scrubRead pa found s = scrubOn (scrubFinds s pa found) pa := by
  unfold scrubRead
  dsimp only
  rw [if_neg (by simp [h32]), hback, if_neg (by simp), if_neg (by simp [hat]), hw, if_neg (by simp)]
  rfl

theorem scrubRead_window {pa n : Nat} {found : EccFinding} (h32 : pa % 32 = 0) (hat : s.flt.scrubAt = pa) (hback : pa ∉ s.flt.scrubBack)
    (hw : (windowHolds s pa).isSome = true) (hn : scrubNext pa = some n) :
    scrubRead pa found s = { s with flt := { s.flt with scrubBack := s.flt.scrubBack ++ [pa], scrubAt := n } } := by
  unfold scrubRead
  dsimp only
  rw [if_neg (by simp [h32]), if_neg (by simp [hback]), if_neg (by simp [hat]), if_pos hw, hn]

theorem scrubEnd_done (hback : s.flt.scrubBack = []) :
    (scrubEnd s).flt.scrubAt = 0 ∧ (scrubEnd s).flt.sticky = s.flt.sticky ∧ (scrubEnd s).mem = s.mem := by
  unfold scrubEnd
  rw [hback]
  dsimp only
  rw [if_neg (by simp), emit_flt]
  exact ⟨rfl, rfl, emit_mem _ _ _ _ _⟩

theorem scrubOn_moves {pa : Nat} (hback : s.flt.scrubBack = []) :
    (scrubOn s pa).flt.scrubAt = (scrubNext pa).getD 0 ∧ (scrubOn s pa).flt.sticky = s.flt.sticky ∧ (scrubOn s pa).mem = s.mem := by
  unfold scrubOn
  cases scrubNext pa with
  | some n => exact ⟨rfl, rfl, rfl⟩
  | none => exact scrubEnd_done hback

theorem scrubFinds_clean {pa : Nat} (hpass : scrubPasses s pa = false) (hp : poisoned s pa = false) :
    scrubFinds s pa .clean = { s with flt := { s.flt with sticky := tdel s.flt.sticky (pa / 32) } } := by
  unfold scrubFinds
  rw [if_neg (by simp [hpass]), if_neg (by simp [hp])]

theorem scrubFinds_corrected {pa i : Nat} (hpass : scrubPasses s pa = false) (hp : poisoned s pa = false)
    (hnew : tfind s.flt.sticky (pa / 32) ≠ some i) :
    scrubFinds s pa (.corrected i) =
      { countCe s pa with flt := { (countCe s pa).flt with sticky := tput (countCe s pa).flt.sticky (pa / 32) i } } := by
  unfold scrubFinds
  rw [if_neg (by simp [hpass]), if_neg (by simp [hp])]
  exact if_neg fun h => hnew h.1

theorem scrubLag_marks (hb : polScrubBound s ≠ 0) (hl : s.flt.scrubLagged = false) (hlate : s.flt.scrubStart + polScrubBound s < s.time.now) :
    scrubLag s = emit { s with flt := { s.flt with scrubLagged := true } } 3 0xD {} [] := by
  unfold scrubLag
  rw [if_neg (by simp only [hb, hl, Bool.false_eq_true, false_or]; omega)]

theorem ceLeak_leaks (s : State) (b : Nat) : tfind (ceLeak s).flt.ce b = (tfind s.flt.ce b).map (· - 1) ∧ (ceLeak s).mem = s.mem := by
  unfold ceLeak
  generalize hz : ({ s with flt := { s.flt with ce := tmap s.flt.ce fun _ n => n - 1 } } : State) = z
  have hce : z.flt.ce = tmap s.flt.ce fun _ n => n - 1 := by rw [← hz]
  have hmem : z.mem = s.mem := by rw [← hz]
  rw [foldl_part (·.flt.ce) ceRecord (fun t b => (ceRecord_facts t b).2.2), foldl_part (·.mem) ceRecord (fun t b => (ceRecord_facts t b).1),
    hce, hmem, tfind_tmap]
  exact ⟨rfl, rfl⟩

end Sys2Proof.Machine
end

section
/-! PROOF. The obligation O46, from the lemmas above. -/

open Sys2Proof Sys2Proof.Machine

/-- Settles O46, clause by clause: the lemmas on the requests that wait, then those on the scrubber. -/
theorem waitingRequestsAndTheScrubberMoveOn : Obligations.WaitingRequestsAndTheScrubberMoveOn := by
  unfold Obligations.WaitingRequestsAndTheScrubberMoveOn
  refine ⟨fun s port cls res p g hp hg hold => ⟨_, rfl, grantReturn_facts s port cls res p g hp hg hold⟩,
    fun s res id pa w wr hslack hone hx hc ht hw => next_congr (heldRequestRelease_serves hslack hone hx hc ht hw),
    fun s res hslack => next_congr (heldRequestRelease_waits hslack),
    fun s id at_ w x hw hheld hp hlate hx => ⟨_, next_congr (prefetchDrop_drops hw hheld hp hlate hx), tfind_tdel_same _ _, getP_putP _ _ _, rfl⟩,
    fun s id w hw htier hd hlate => next_congr (requestDeadlinePass_moves hw htier hd hlate),
    fun s pa h32 hat hback hw hpass hp => ⟨_, next_congr (scrubRead_finds h32 hat hback hw), ?_⟩,
    fun s pa i h32 hat hback hw hpass hp hnew => ⟨_, next_congr (scrubRead_finds h32 hat hback hw), ?_⟩,
    fun s pa n found h32 hat hback hw hn => next_congr (scrubRead_window h32 hat hback hw hn),
    fun s hb hl hlate => ⟨_, next_congr (scrubLag_marks hb hl hlate), emit_flt _ _ _ _ _, emit_mem _ _ _ _ _⟩,
    fun s b => ⟨_, rfl, ceLeak_leaks s b⟩⟩
  · rw [scrubFinds_clean hpass hp]
    obtain ⟨hplace, hsticky, hmem⟩ := scrubOn_moves (s := { s with flt := { s.flt with sticky := tdel s.flt.sticky (pa / 32) } }) (pa := pa) hback
    exact ⟨hplace, hsticky ▸ tfind_tdel_same _ _, hmem⟩
  · rw [scrubFinds_corrected hpass hp hnew]
    obtain ⟨hcmem, hcback⟩ := countCe_facts s pa
    generalize hz : ({ countCe s pa with flt := { (countCe s pa).flt with sticky := tput (countCe s pa).flt.sticky (pa / 32) i } } : State) = z
    have hzback : z.flt.scrubBack = [] := by rw [← hz]; exact hcback.trans hback
    have hzmem : z.mem = s.mem := by rw [← hz]; exact hcmem
    have hzsticky : tfind z.flt.sticky (pa / 32) = some i := by rw [← hz]; exact tfind_tput_same _ _ _
    obtain ⟨hplace, hsticky, hmem⟩ := scrubOn_moves (pa := pa) hzback
    rw [hplace, hsticky, hmem]
    exact ⟨rfl, hzsticky, hzmem⟩

end

section
/-! SUPPORT. Operations on sequences (R244-R246, R252-R254, R274). -/

namespace Sys2Proof.Machine

variable {s : State} {d : Nat} {f : Flight}

theorem seqOpen_run {b : List Byte} {x : Slot} (h : Runs s d 0x7001 f) (hslot : kvSlotOk f = true) (hidle : kvBusy s d f = false)
    (hz : f.zeroFrom 0x28 = true) (hrec : recordIn s (cxOf s f d) (f.op 0x20 8) 64 64 = .ok b) (hx : parseSeq s f.part b = some x)
    (hfree : (getSlot s f.slotF).st = .free) : seqOpen d s = endF (putSlot s f.slotF x) d stOk 0 := by
  unfold seqOpen
  rw [kvOp_run h hslot hidle, hz, Bool.not_true, if_neg Bool.false_ne_true, hrec]
  dsimp only
  rw [hx, hfree, refuseIf_pass (by simp) _, Option.getD_some]

theorem slotUsed {x : Slot} (h : x.st ≠ .free) : (x.st == SlotSt.free) = false := by simpa using h

theorem seqClose_run (h : Runs s d 0x7002 f) (hslot : kvSlotOk f = true) (hidle : kvBusy s d f = false) (hz : f.zeroFrom 0x20 = true)
    (hused : (getSlot s f.slotF).st ≠ .free) :
    seqClose d s = if slotStepped s f.slotF then putF s d { f with phase := .held } else endF (closeSeq s f.part f.slotF) d stOk 0 := by
  unfold seqClose
  rw [kvOp_run h hslot hidle, hz, slotUsed hused, refuseIf_pass (by simp) _]

theorem getSlot_closeSeq (s : State) (p slot : Nat) : getSlot (closeSeq s p slot) slot = {} := by
  unfold closeSeq getSlot
  dsimp only
  rw [tfind_tdel_same, Option.getD_none]

/-- A SEQ_FORK from the whole parent, whose child is free. -/
structure ForkAsked (s : State) (d : Nat) (f : Flight) (x : Slot) : Prop where
  run : Runs s d 0x7003 f
  slotOk : kvSlotOk f = true
  idle : kvBusy s d f = false
  parent : f.op 0x20 2 < 0x8000
  own : slotOf s f.part (f.op 0x20 2) = true
  zero : f.zero 0x22 2 = true
  zeros : f.zeroFrom 0x30 = true
  noRecord : f.op 0x28 8 = 0
  slot : x = getSlot s (f.op 0x20 2)
  opened : x.st = .open_
  settled : f.op 0x24 4 ≤ x.settled
  child : (getSlot s f.slotF).st = .free

theorem seqFork_run {t : State} {x : Slot} {bad : Bool} (h : ForkAsked s d f x)
    (hmade : forkPages (putSlot s f.slotF (forkChild s f.part (f.op 0x24 4) x none)) (cxOf s f d) (f.op 0x20 2) f.slotF (f.op 0x24 4)
      (x.pages.filter fun e => decide (e.1 % 2 ^ 32 * 16 < f.op 0x24 4)) = some (t, bad)) :
    seqFork d s = endF t d (if bad then stPoisoned else stOk) 0 := by
  unfold seqFork
  rw [kvOp_run h.run h.slotOk h.idle]
  dsimp only
  rw [if_neg (Nat.not_le.2 h.parent), h.own, Bool.not_true, if_neg Bool.false_ne_true, h.zero, h.zeros, Bool.and_self, Bool.not_true,
    if_neg Bool.false_ne_true, if_pos h.noRecord]
  dsimp only [Option.bind_none, Option.getD_none]
  rw [← h.slot, hmade, h.opened, h.child, refuseIf_pass (by simp [h.settled]) _]

theorem seqRead_run {v : State} (h : Runs s d 0x7004 f) (hslot : kvSlotOk f = true) (hidle : kvBusy s d f = false)
    (hz : f.zeroFrom 0x28 = true) (hused : (getSlot s f.slotF).st ≠ .free)
    (hw : vwrite s (cxOf s f d) (f.op 0x20 8) (readback s f.part f.slotF) = .ok v) : seqRead d s = endF v d stOk 0 := by
  unfold seqRead
  rw [kvOp_run h hslot hidle, hz, slotUsed hused, refuseIf_pass (by simp) _, hw]
  rfl

/-! The operation held behind a step. -/

/-- Whether an operation is the first one held for a slot. -/
def HeldFor (s : State) (slot d : Nat) (f : Flight) : Prop :=
  (s.qe.flights.find? fun e => e.2.phase == .held && (e.2.opcode == 0x7002 || e.2.opcode == 0x7020) && e.2.slotF == slot) = some (d, f)

theorem HeldFor.slot {slot : Nat} (h : HeldFor s slot d f) : f.slotF = slot := by
  have hp := List.find?_some h
  simp only [Bool.and_eq_true, beq_iff_eq] at hp
  exact hp.2

theorem kvHeldResume_run {slot : Nat} (h : HeldFor s slot d f) (hstep : slotStepped s slot = false) (hpkg : s.pwr.pkg ≠ .trip) :
    kvHeldResume slot s =
      if f.opcode = 0x7002 then seqClose d (putF s d { f with phase := .started }) else swapOut d (putF s d { f with phase := .started }) := by
  unfold HeldFor at h
  unfold kvHeldResume
  rw [h]
  dsimp only
  rw [hstep, Bool.false_or, if_neg (by simpa using hpkg)]

theorem kvHeldResume_closes {slot : Nat} (h : HeldFor s slot d f) (hstep : slotStepped s slot = false) (hpkg : s.pwr.pkg ≠ .trip)
    (hop : f.opcode = 0x7002) (hslot : kvSlotOk f = true) (hidle : kvBusy s d f = false) (hz : f.zeroFrom 0x20 = true)
    (hused : (getSlot s slot).st ≠ .free) :
    kvHeldResume slot s = endF (closeSeq (putF s d { f with phase := .started }) f.part slot) d stOk 0 := by
  have hs := h.slot
  rw [kvHeldResume_run h hstep hpkg, if_pos hop,
    seqClose_run (f := { f with phase := .started }) ⟨getF_putF _ _ _, rfl, hop⟩ hslot (kvBusy_putF hidle _) hz (hs ▸ hused)]
  change (if slotStepped s f.slotF then _ else endF (closeSeq _ f.part f.slotF) d stOk 0) = _
  rw [hs, hstep, if_neg Bool.false_ne_true]

end Sys2Proof.Machine
end

section
/-! PROOF. The obligation O47, from the lemmas above. -/

open Sys2Proof Sys2Proof.Machine

/-- Settles O47, operation by operation. -/
theorem sequencesOpenForkReadAndClose : Obligations.SequencesOpenForkReadAndClose := by
  unfold Obligations.SequencesOpenForkReadAndClose
  refine ⟨fun s d f b x h hslot hidle hz hrec hx hfree => next_congr (seqOpen_run h hslot hidle hz hrec hx hfree),
    fun s d f h hslot hidle hz hused hstep => ⟨closeSeq s f.part f.slotF,
      next_congr ((seqClose_run h hslot hidle hz hused).trans (if_neg (ne_true_of_eq_false hstep))), getSlot_closeSeq _ _ _⟩,
    fun s d f h hslot hidle hz hused hstep => next_congr ((seqClose_run h hslot hidle hz hused).trans (if_pos hstep)),
    fun s t d f x bad h hslot hidle hpar hown hz hzf hptr hx hopen hlen hfree hmade =>
      next_congr (seqFork_run ⟨h, hslot, hidle, hpar, hown, hz, hzf, hptr, hx, hopen, hlen, hfree⟩ hmade),
    fun s v d f h hslot hidle hz hused hw => next_congr (seqRead_run h hslot hidle hz hused hw),
    fun s u slot d f h hstep hpkg hu => next_congr (hu ▸ kvHeldResume_run h hstep hpkg),
    fun s slot d f h hstep hpkg hop hslot hidle hz hused =>
      ⟨_, next_congr (kvHeldResume_closes h hstep hpkg hop hslot hidle hz hused), getSlot_closeSeq _ _ _⟩⟩

end

section
/-! SUPPORT. Pools and swap images (R246-R249, R269-R273). -/

namespace Sys2Proof.Machine

variable {s : State} {d : Nat} {f : Flight}

/-! POOL_CONFIG and POOL_ADD. -/

theorem backing_unconfigured {x : Pool} (h : x.configured = false) : backing x = [] := by
  unfold backing
  rw [h, if_neg Bool.false_ne_true]

theorem leaveBacking_unconfigured {x : Pool} (h : x.configured = false) : leaveBacking s x = s := by
  unfold leaveBacking
  rw [h, Bool.not_false, if_pos rfl]

/-- The memory with a pool's backing claimed and tagged as tables. -/
def backingTagged (s : State) (p : Nat) (new : List Nat) : State :=
  let s2 := new.foldl (fun t fr => claimGrain t p (fr * 8192)) s
  { s2 with mem := { s2.mem with tableTag := s2.mem.tableTag ++ new } }

/-- The partition's own range of sequences written. -/
def rangeSet (s : State) (p range : Nat) : State := match getP s p with
  | some q => putP s p { q with rangeLog2 := range }
  | none => s

/-- A pool configured in place of one that was not. -/
def poolConfigured (s : State) (p range : Nat) (y : Pool) : State :=
  rangeSet (putPool (backingTagged s p (backing y)) p { y with hostUsed := [], remoteUsed := [] }) p range

theorem poolConfig_run {b : List Byte} {y : Pool} {range : Nat} (h : Runs s d 0x7010 f) (hslot : kvSlotOk f = true) (hz : f.zeroFrom 0x28 = true)
    (hrec : recordIn s (cxOf s f d) (f.op 0x20 8) 64 64 = .ok b) (hy : parsePool (getPool s f.part) b = some (y, range))
    (hconf : (getPool s f.part).configured = false) (hfree : framesFree s f.part (backing y) = true)
    (hused : (s.kv.slots.any fun e => slotOf s f.part e.1 && e.2.st != .free) = false) :
    poolConfig d s = endF (poolConfigured s f.part range y) d stOk 0 := by
  have htags : s.mem.tableTag.filter (fun fr => !(backing (getPool s f.part)).contains fr) = s.mem.tableTag := by
    rw [backing_unconfigured hconf]
    exact List.filter_eq_self.2 fun _ _ => rfl
  unfold poolConfig
  rw [withOp_run h, hslot, Bool.not_true, if_neg Bool.false_ne_true, hz, Bool.not_true, if_neg Bool.false_ne_true, hrec]
  dsimp only
  rw [hy]
  dsimp only
  rw [htags, hconf, hused, Bool.not_false, Bool.true_or, Bool.true_or, Bool.not_true, if_neg Bool.false_ne_true,
    leaveBacking_unconfigured hconf, refuseIf_pass]
  · rfl
  · simp [hfree]

theorem claims_kv (p : Nat) (l : List Nat) (s : State) : (l.foldl (fun t fr => claimGrain t p (fr * 8192)) s).kv = s.kv :=
  foldl_part (·.kv) (fun t fr => claimGrain t p (fr * 8192)) (fun t _ => (claimGrain_K t p _).part3 rfl) l s

theorem rangeSet_keeps (s : State) (p range : Nat) : (rangeSet s p range).kv = s.kv ∧ (rangeSet s p range).mem = s.mem := by
  unfold rangeSet
  split <;> exact ⟨rfl, rfl⟩

theorem backingTagged_facts (s : State) (p : Nat) (new : List Nat) :
    (backingTagged s p new).kv = s.kv ∧ ∀ fr ∈ new, fr ∈ (backingTagged s p new).mem.tableTag := by
  unfold backingTagged
  exact ⟨claims_kv p new s, fun fr h => List.mem_append_right _ h⟩

theorem poolConfigured_facts (s : State) (p range : Nat) (y : Pool) :
    getPool (poolConfigured s p range y) p = { y with hostUsed := [], remoteUsed := [] } ∧
    (∀ fr ∈ backing y, fr ∈ (poolConfigured s p range y).mem.tableTag) ∧ (poolConfigured s p range y).kv.slots = s.kv.slots := by
  unfold poolConfigured
  obtain ⟨hkv, htags⟩ := backingTagged_facts s p (backing y)
  generalize backingTagged s p (backing y) = z at hkv htags ⊢
  generalize hw : putPool z p { y with hostUsed := [], remoteUsed := [] } = w
  have hpool : getPool w p = { y with hostUsed := [], remoteUsed := [] } := by rw [← hw, getPool_putPool]
  have hslots : w.kv.slots = s.kv.slots := by rw [← hw, ← hkv]; rfl
  have hmem : w.mem = z.mem := by rw [← hw]; rfl
  obtain ⟨hrkv, hrmem⟩ := rangeSet_keeps w p range
  unfold getPool at hpool ⊢
  rw [hrkv, hrmem, hmem]
  exact ⟨hpool, htags, hslots⟩

/-- A state with frames added to a pool of the device's own memory. -/
def framesAdded (s : State) (p : Nat) (x : Pool) (frames : List Nat) : State :=
  let s1 := frames.foldl (fun t fr => claimGrain t p (fr * 8192)) s
  putPool { s1 with mem := { s1.mem with kvTag := s1.mem.kvTag ++ frames } } p
    { x with frames := x.frames ++ frames.map (fun fr => { where_ := fr * 8192 }), extents := x.extents + 1 }

/-- A POOL_ADD of frames of the device's own memory, n from `first` on. -/
structure PoolAddAsked (s : State) (d : Nat) (f : Flight) : Prop where
  run : Runs s d 0x7011 f
  slotOk : kvSlotOk f = true
  some_ : f.op 0x28 4 ≠ 0
  local_ : f.op 0x2C 1 = 0
  zeros : f.zeroFrom 0x2D = true
  aligned : f.op 0x20 8 % 8192 = 0
  configured : (getPool s f.part).configured = true
  fits : (getPool s f.part).frames.length + f.op 0x28 4 ≤ 2048 * (getPool s f.part).ftabFrames
  few : (getPool s f.part).frames.length + f.op 0x28 4 ≤ 2 ^ 22
  extents : (getPool s f.part).extents < 256

theorem poolAdd_run {frames : List Nat} (h : PoolAddAsked s d f) (hframes : frames = (List.range (f.op 0x28 4)).map fun i => f.op 0x20 8 / 8192 + i)
    (hfree : framesFree s f.part frames = true) :
    poolAdd d s = endF (watermarks (framesAdded s f.part (getPool s f.part) frames) f.part) d stOk 0 := by
  obtain ⟨hrun, hslot, hn, hl, hz, ha, hc, hfit, hfew, hext⟩ := h
  unfold poolAdd
  rw [withOp_run hrun]
  dsimp only
  rw [← hframes, hslot, hl, show ((0 : Nat) == 1) = false from rfl, Bool.not_true, if_neg Bool.false_ne_true, refuseIf_pass]
  · simp only [Bool.false_eq_true, if_false]
    rfl
  · simp only [List.all_cons, List.all_nil, hc, hz, ha, hn, hfree, if_true, Bool.false_eq_true, if_false]
    simp
    omega

theorem framesAdded_facts (s : State) (p : Nat) (x : Pool) (frames : List Nat) :
    getPool (framesAdded s p x frames) p =
      { x with frames := x.frames ++ frames.map (fun fr => { where_ := fr * 8192 }), extents := x.extents + 1 } ∧
    ∀ fr ∈ frames, fr ∈ (framesAdded s p x frames).mem.kvTag := by
  unfold framesAdded
  exact ⟨getPool_putPool _ _ _, fun fr h => List.mem_append_right _ h⟩

/-! SWAP_OUT and SWAP_IN. -/

theorem swapOut_runs {t : State} (h : Runs s d 0x7020 f) (hslot : kvSlotOk f = true) (hidle : kvBusy s d f = false)
    (hz : f.zeroFrom 0x20 = true) (hopen : (getSlot s f.slotF).st = .open_) (hstep : slotStepped s f.slotF = false)
    (hstart : startSwap s f.part f.slotF (some d) false = (t, 0)) : swapOut d s = putF t d { f with phase := .running } := by
  unfold swapOut
  rw [kvOp_run h hslot hidle, hz, hopen, refuseIf_pass (by simp) _, hstep, if_neg Bool.false_ne_true]
  unfold swapOutNow
  rw [hstart]
  rfl

theorem swapOutDone_runs {slot : Nat} (hst : (getSlot s slot).st = .swappingOut) (him : (getSlot s slot).imaged = false)
    (hrem : (getSlot s slot).swapRemote = false) (hw : swapWaits s slot 6 = false) (hp : swapPoisoned s (slotPart s slot) (getSlot s slot) = false) :
    swapOutDone slot s = swapAway (writeImage s (slotPart s slot) slot) (slotPart s slot) slot := by
  unfold swapOutDone
  dsimp only
  rw [if_neg (by simp [hst, hw]), him, Bool.not_false, if_pos rfl, hp, if_neg Bool.false_ne_true, hrem, if_neg Bool.false_ne_true]

theorem readRemoteCells_local {p slot : Nat} (h : (getSlot s slot).swapRemote = false) : readRemoteCells s d p slot = s := by
  unfold readRemoteCells
  dsimp only
  rw [h, Bool.not_false, if_pos rfl]

theorem swapIn_runs {x : Slot} (h : Runs s d 0x7021 f) (hslot : kvSlotOk f = true) (hidle : kvBusy s d f = false) (hfl : f.op 0x20 1 ≤ 1)
    (hz : f.zeroFrom 0x21 = true) (hx : x = getSlot s f.slotF) (hst : x.st = .swapped) (hrem : x.swapRemote = false)
    (hmet : needMet s f.part (List.replicate (pagesOfCells x.swapCells.length) (4 + kindOf x false)) false = true) :
    swapIn d s = putF (putSlot s f.slotF { x with st := .swappingIn, swapBy := some d }) d { f with phase := .running } := by
  unfold swapIn
  rw [kvOp_run h hslot hidle]
  dsimp only
  rw [← hx, hz, hst, refuseIf_pass (by simp; omega) _, if_pos hmet]
  refine readRemoteCells_local ?_
  change (getSlot (putSlot s f.slotF _) f.slotF).swapRemote = false
  rw [getSlot_putSlot]
  exact hrem

theorem swapInDone_opens {t : State} {slot : Nat} {head : List Byte} {pages : List (Nat × Nat × List Byte)}
    (hst : (getSlot s slot).st = .swappingIn) (hby : (getSlot s slot).swapBy = some d)
    (hout : (s.plauf.out.any fun e => e.2.desc == d && e.2.kind == 7) = false) (hopen : openImage s (slotPart s slot) slot = some (head, pages))
    (hback : restorePages s { part := slotPart s slot, desc := slot, rem := [] } slot pages = some t) :
    swapInDone slot s = endF (swapInOpen t (slotPart s slot) slot head) d stOk 0 := by
  unfold swapInDone
  dsimp only
  rw [hst, hby]
  dsimp only
  rw [hout, if_neg Bool.false_ne_true, hopen]
  dsimp only
  rw [hback]

theorem swapInDone_fails {slot : Nat} (hst : (getSlot s slot).st = .swappingIn) (hby : (getSlot s slot).swapBy = some d)
    (hout : (s.plauf.out.any fun e => e.2.desc == d && e.2.kind == 7) = false) (hopen : openImage s (slotPart s slot) slot = none) :
    swapInDone slot s =
      endF (emit (putSlot s slot { getSlot s slot with st := .failed }) 6 7 { part := slotPart s slot } []) d stPoisoned 0 := by
  unfold swapInDone
  dsimp only
  rw [hst, hby]
  dsimp only
  rw [hout, if_neg Bool.false_ne_true, hopen]

theorem getSlot_freeImage (s : State) (p slot : Nat) :
    getSlot (freeImage s p slot) slot = { getSlot s slot with swapCells := [], imaged := false, fetched := [] } := by
  unfold freeImage
  dsimp only
  rw [getSlot_putSlot]

theorem swapInOpen_slot (t : State) (p slot : Nat) (head : List Byte) : (getSlot (swapInOpen t p slot head) slot).st = .open_ ∧
    (getSlot (swapInOpen t p slot head) slot).swapCells = [] ∧ (getSlot (swapInOpen t p slot head) slot).settled = fld head 0x40 4 := by
  unfold swapInOpen
  dsimp only
  rw [getSlot_freeImage, getSlot_putSlot]
  exact ⟨rfl, rfl, rfl⟩

end Sys2Proof.Machine
end

section
/-! PROOF. The obligation O48, from the lemmas above. -/

open Sys2Proof Sys2Proof.Machine

/-- Settles O48, operation by operation. -/
theorem poolsAndSwapImagesComplete : Obligations.PoolsAndSwapImagesComplete := by
  unfold Obligations.PoolsAndSwapImagesComplete
  refine ⟨fun s d f b y range h hslot hz hrec hy hconf hfree hused =>
      ⟨_, next_congr (poolConfig_run h hslot hz hrec hy hconf hfree hused), poolConfigured_facts s f.part range y⟩,
    fun s d f x n frames h hslot hx hn hframes hn0 hl hz ha hc hfit hfew hext hfree => ?_,
    fun s t d f h hslot hidle hz hopen hstep hstart =>
      ⟨next_congr (swapOut_runs h hslot hidle hz hopen hstep hstart), startSwap_st _ _ _ _ _ _ hstart⟩,
    fun s slot p x hx hp hst him hrem hw hpois => ?_,
    fun s d f x h hslot hidle hfl hz hx hst hrem hmet => next_congr (swapIn_runs h hslot hidle hfl hz hx hst hrem hmet),
    fun s t slot d head pages hst hby hout hopen hback =>
      ⟨_, next_congr (swapInDone_opens hst hby hout hopen hback), swapInOpen_slot t _ slot head⟩,
    fun s slot d hst hby hout hopen => ⟨_, next_congr (swapInDone_fails hst hby hout hopen), ?_⟩⟩
  · subst hx hn
    obtain ⟨hpool, htags⟩ := framesAdded_facts s f.part (getPool s f.part) frames
    exact ⟨_, next_congr (poolAdd_run ⟨h, hslot, hn0, hl, hz, ha, hc, hfit, hfew, hext⟩ hframes hfree), hpool, htags⟩
  · subst hx hp
    exact ⟨_, next_congr (swapOutDone_runs hst him hrem hw hpois), swapAway_st _ _ _⟩
  · rw [getSlot_of ((emit_K _ _ _ _ _).part3 rfl), getSlot_putSlot]

end

section
/-! SUPPORT. Rotas and steps (R282-R292, R315-R332). -/

namespace Sys2Proof.Machine

variable {s : State} {d : Nat} {f : Flight}

/-! ROTA_BIND and ROTA_UNBIND. -/

/-- Whether the counters that a ROTA_BIND reserves overlap those of another rota of the partition. -/
def privOverlap (s : State) (f : Flight) : Bool :=
  s.steps.rotas.any fun e => e.1 / 256 == f.part && e.1 != 256 * f.part + f.op 0x20 1 && decide (0 < f.op 0x24 2 ∧ 0 < e.2.privCount
    ∧ f.op 0x22 2 < e.2.firstPriv + e.2.privCount ∧ e.2.firstPriv < f.op 0x22 2 + f.op 0x24 2)

/-- The fields of a ROTA_BIND that keep the rules. -/
structure RotaFields (s : State) (f : Flight) : Prop where
  zero : f.zero 0x21 1 = true
  zeros : f.zeroFrom 0x30 = true
  few : f.op 0x24 2 ≤ 64
  last : f.op 0x22 2 + f.op 0x24 2 ≤ 1024
  first : f.op 0x22 2 ≤ 1023
  entries : 1 ≤ f.op 0x26 2
  short : f.op 0x26 2 ≤ 4096
  base : f.op 0x28 8 ≠ 0
  aligned : f.op 0x28 8 % 64 = 0
  outside : f.op 0x28 8 + 64 * f.op 0x26 2 ≤ 2 ^ 47
  own : privOverlap s f = false

/-- The rota that a ROTA_BIND gives. -/
def rotaGiven (f : Flight) : Rota := { base := f.op 0x28 8, entries := f.op 0x26 2, firstPriv := f.op 0x22 2, privCount := f.op 0x24 2 }

/-- A state with that rota bound. -/
def rotaBound (s : State) (f : Flight) : State :=
  { s with steps := { s.steps with rotas := tput s.steps.rotas (256 * f.part + f.op 0x20 1) (rotaGiven f) } }

theorem rotaBind_run {b : List Byte} (h : Runs s d 0x6010 f) (hf : RotaFields s f) (hb : vread s (cxOf s f d) (f.op 0x28 8) (64 * f.op 0x26 2) = .ok b)
    (hgood : badEntry s (cxOf s f d) b (f.op 0x22 2) (f.op 0x24 2) = none) (hnew : tfind s.steps.rotas (256 * f.part + f.op 0x20 1) = none) :
    rotaBind d s = endF (rotaBound s f) d stOk 0 := by
  obtain ⟨hz, hzf, h1, h2, h3, h4, h5, h6, h7, h8, hown⟩ := hf
  have hrange : ¬ (64 < f.op 0x24 2 ∨ 1024 < f.op 0x22 2 + f.op 0x24 2 ∨ 1023 < f.op 0x22 2 ∨ f.op 0x26 2 < 1 ∨ 4096 < f.op 0x26 2 ∨
      f.op 0x28 8 = 0 ∨ f.op 0x28 8 % 64 ≠ 0) := by omega
  have hfield : (!f.zero 0x21 1 || !f.zeroFrom 0x30 || privOverlap s f || decide (64 < f.op 0x24 2 ∨ 1024 < f.op 0x22 2 + f.op 0x24 2 ∨
      1023 < f.op 0x22 2 ∨ f.op 0x26 2 < 1 ∨ 4096 < f.op 0x26 2 ∨ f.op 0x28 8 = 0 ∨ f.op 0x28 8 % 64 ≠ 0)) = false := by
    rw [hown, hz, hzf, decide_eq_false hrange]
    rfl
  unfold rotaBind
  rw [withOp_run h]
  refine (if_neg (ne_true_of_eq_false hfield)).trans ?_
  rw [if_neg (fun h => absurd h.1 (Nat.not_lt.2 h8)), hb]
  dsimp only
  rw [hgood]
  dsimp only
  rw [hnew, refuseIf_pass (by simp) _]
  rfl

theorem rotaUnbind_run {x : Rota} (h : Runs s d 0x6011 f) (hz : f.zeroFrom 0x21 = true)
    (hx : tfind s.steps.rotas (256 * f.part + f.op 0x20 1) = some x) (hidle : rotaRuns s f.part (f.op 0x20 1) = false) :
    rotaUnbind d s = endF { s with steps := { s.steps with rotas := tdel s.steps.rotas (256 * f.part + f.op 0x20 1) } } d stOk 0 := by
  unfold rotaUnbind
  rw [withOp_run h]
  dsimp only
  rw [hz, hx, hidle, refuseIf_pass (by simp) _]

/-! RUN and STEP_RELEASE. -/

theorem beginStep_starts {t : State} {p : StepPlan} (hp : stepPlan s d f = .ok p) (hfree : stepConflict s d f p.run = false)
    (hstart : startStep s d f p = .ok t) : beginStep s d f = t := by
  unfold beginStep
  rw [hp]
  dsimp only
  rw [hfree, if_neg Bool.false_ne_true, hstart]

theorem beginStep_held {p : StepPlan} (hp : stepPlan s d f = .ok p) (hbusy : stepConflict s d f p.run = true) :
    beginStep s d f = putF { s with steps := { s.steps with runs := tput s.steps.runs d p.run } } d { f with phase := .held } := by
  unfold beginStep
  rw [hp]
  dsimp only
  rw [hbusy, if_pos rfl]

theorem run_run (h : Runs s d 0x6001 f) : run d s = beginStep s d f := by
  unfold run
  rw [withOp_run h]

theorem stepRelease_begins {x : Part} {r : StepRun} (hf : getF s d = some f) (hop : f.opcode = 0x6001) (hheld : f.phase = .held)
    (hpkg : s.pwr.pkg = .run) (hx : getP s f.part = some x) (hst : x.st = .online) (hfence : x.fences = [])
    (hr : tfind s.steps.runs d = some r) (hfree : stepConflict s d f r = false) : stepRelease d s = beginStep s d f := by
  unfold stepRelease
  rw [hf]
  dsimp only
  rw [if_pos ⟨hop, hheld, hpkg⟩, hx]
  dsimp only
  rw [if_neg (by simp [hst]), if_neg (by simp [hst, hfence]), hr]
  dsimp only
  rw [hfree, if_neg Bool.false_ne_true]

/-! ROTA_ENTRY_DISPATCH. -/

/-- The descriptor of a step's next entry. -/
def entryChild (d : Nat) (f : Flight) (r : StepRun) (b : List Byte) : Flight :=
  { fn := f.fn, q := f.q, slot := r.next, part := f.part, words := replayWords b f, fetchTime := f.fetchTime, phase := .started
    stepOf := some d, noRecord := true }

/-- A state in which a step's next entry stands as a descriptor of its own. -/
def entryPlaced (s : State) (d : Nat) (r : StepRun) (child : Flight) : State :=
  putF { s with
    qe := { s.qe with nextFlight := s.qe.nextFlight + 1 }
    steps := { s.steps with runs := tput s.steps.runs d { r with next := r.next + 1, live := r.live ++ [(r.next, s.qe.nextFlight)] } } }
    s.qe.nextFlight child

/-- A started step whose next entry is sound, in its turn, without FENCE and WAIT. -/
structure EntryDue (s : State) (d : Nat) (f : Flight) (r : StepRun) (x : Rota) (b : List Byte) : Prop where
  flight : getF s d = some f
  run : tfind s.steps.runs d = some r
  rota : tfind s.steps.rotas (256 * f.part + r.rota) = some x
  started : r.started = true
  running : f.phase = .running
  more : r.next < x.entries
  read : vread s (cxOf s f d) (x.base + 64 * r.next) 64 = .ok b
  sound : rotaEntryBad (entryOf b) x.firstPriv x.privCount = none
  near : acrossFabric s (entryOf b) = false
  turn : mayDispatch s r (entryOf b) = true
  noFence : (entryOf b).fFence = false
  noWait : (entryOf b).fWait = false

theorem rotaEntryDispatch_run {r : StepRun} {x : Rota} {b : List Byte} (h : EntryDue s d f r x b)
    (hfree : intakeFree (entryPlaced s d r (entryChild d f r b)) s.qe.nextFlight (entryChild d f r b) = true) :
    rotaEntryDispatch d s = enterIntake (entryPlaced s d r (entryChild d f r b)) s.qe.nextFlight (entryChild d f r b) := by
  obtain ⟨hf, hr, hx, hst, hph, hmore, hb, hsound, hnear, hturn, hfence, hwait⟩ := h
  unfold rotaEntryDispatch
  rw [hf, hr]
  dsimp only
  rw [hx]
  dsimp only
  rw [if_neg (by simp [hst, hph, hmore]), hb]
  dsimp only
  rw [hsound]
  dsimp only
  rw [hnear, if_neg Bool.false_ne_true, hturn, hfence, hwait, Bool.not_true, Bool.false_and, Bool.false_and, Bool.or_self, Bool.or_self,
    if_neg Bool.false_ne_true]
  exact if_pos hfree

/-! STEP_COMMIT. -/

/-- What a step's sequences accept, from their samples. -/
def acceptAll (s : State) (d : Nat) (f : Flight) (r : StepRun) (samples : List Nat) : Except Stop (List (StepSeq × Accepted)) :=
  seqE ((r.seqs.zip (splitRows (r.seqs.map (seqRows r)) samples)).map fun e => (acceptSeq s (cxOf s f d) r e.1 e.2).map fun v => (e.1, v))

/-- A state with a step's sequences committed and written out, the step gone and its rota holding what it measured. -/
def stepOver (s : State) (d : Nat) (f : Flight) (r : StepRun) (x : Rota) (l : List (StepSeq × Accepted)) (eA eB dur : Nat) : State :=
  let s1 := l.foldl (fun t e => commitSeq t (cxOf s f d) e.1 e.2) s
  let s2 := l.foldl (fun t e => writeOutput t (cxOf s f d) e.1 e.2) s1
  { s2 with steps := { s2.steps with
    runs := tdel s2.steps.runs d
    rotas := tput s2.steps.rotas (256 * f.part + r.rota) { x with learnedA := eA, learnedB := eB, learnedDur := dur } } }

/-- The status of a step at its commit. -/
def commitStatus (r : StepRun) (l : List (StepSeq × Accepted)) (late : Bool) : Nat :=
  if late then stDeadline else if r.verify && l.all (fun e => e.2.a == 0) then stEveRejected else stOk

/-- A started step with every entry ended, whose outputs can be written. -/
structure CommitDue (s : State) (d : Nat) (f : Flight) (r : StepRun) (x : Rota) : Prop where
  flight : getF s d = some f
  run : tfind s.steps.runs d = some r
  rota : tfind s.steps.rotas (256 * f.part + r.rota) = some x
  started : r.started = true
  running : f.phase = .running
  idle : r.live = []
  all_ : x.entries ≤ r.next
  near : (f.fSignal && counterFar s f.sigC) = false
  outputs : r.seqs.findSome? (outputWaits s (cxOf s f d)) = none

theorem late_eq (o : Option Nat) (now : Nat) : (match o with
    | some t => decide (t < now)
    | none => false) = o.any fun t => decide (t < now) := by
  cases o <;> rfl

theorem ite_bind {α β : Type} (c : Prop) [Decidable c] (a b : Except Stop α) (k : α → Except Stop β) :
    (if c then a >>= k else b >>= k) = (if c then a else b) >>= k := by
  split <;> rfl

theorem stepCommit_run {eA eB dur : Nat} {r : StepRun} {x : Rota} {samples : List Nat} {l : List (StepSeq × Accepted)} (h : CommitDue s d f r x)
    (hs : (if r.sample = 0 then .ok [] else intsAt s (cxOf s f d) r.sample r.rows) = .ok samples) (hl : acceptAll s d f r samples = .ok l) :
    stepCommit d eA eB dur s = endF (stepOver s d f r x l eA eB dur) d
      (commitStatus r l (f.absDeadline.any fun t => decide (t < s.time.now))) ((l.map fun e => e.2.tokens.length).foldl (· + ·) 0) := by
  obtain ⟨hf, hr, hx, hst, hph, hidle, hall, hnear, hout⟩ := h
  unfold acceptAll at hl
  unfold stepCommit
  rw [hf, hr]
  dsimp only
  rw [hx]
  dsimp only
  rw [hst, hph, hidle, decide_eq_false (Nat.not_lt.2 hall),
    show (!true || FPhase.running != FPhase.running || !([] : List (Nat × Nat)).isEmpty || false) = false from rfl,
    if_neg Bool.false_ne_true, hnear, if_neg Bool.false_ne_true, ite_bind, hs, except_bind, hl]
  dsimp only
  rw [hout]
  dsimp only
  rw [← late_eq]
  rfl

theorem stepOver_steps (s : State) (d : Nat) (f : Flight) (r : StepRun) (x : Rota) (l : List (StepSeq × Accepted)) (eA eB dur : Nat) :
    tfind (stepOver s d f r x l eA eB dur).steps.runs d = none ∧
    tfind (stepOver s d f r x l eA eB dur).steps.rotas (256 * f.part + r.rota) =
      some { x with learnedA := eA, learnedB := eB, learnedDur := dur } := by
  unfold stepOver
  exact ⟨tfind_tdel_same _ _, tfind_tput_same _ _ _⟩

end Sys2Proof.Machine
end

section
/-! PROOF. The obligation O49, from the lemmas above. -/

open Sys2Proof Sys2Proof.Machine

/-- Settles O49, operation by operation. -/
theorem rotasBindAndStepsRunToTheirCommit : Obligations.RotasBindAndStepsRunToTheirCommit := by
  unfold Obligations.RotasBindAndStepsRunToTheirCommit
  refine ⟨fun s d f b h hz hzf h1 h2 h3 h4 h5 h6 h7 h8 hown hb hgood hnew =>
      next_congr (rotaBind_run h ⟨hz, hzf, h1, h2, h3, h4, h5, h6, h7, h8, hown⟩ hb hgood hnew),
    fun s d f x h hz hx hidle => next_congr (rotaUnbind_run h hz hx hidle),
    fun s t d f p h hp hfree hstart => ⟨next_congr ((run_run h).trans (beginStep_starts hp hfree hstart)), startStep_runs s t d f p hstart⟩,
    fun s d f p h hp hbusy => next_congr ((run_run h).trans (beginStep_held hp hbusy)),
    fun s t d f p x r hf hop hheld hpkg hx hst hfence hr hfreer hp hfree hstart =>
      ⟨next_congr ((stepRelease_begins hf hop hheld hpkg hx hst hfence hr hfreer).trans (beginStep_starts hp hfree hstart)),
        startStep_runs s t d f p hstart⟩,
    fun s d f child r x b u hf hr hx hst hph hmore hb hsound hnear hturn hfence hwait hchild hu hfree => ?_,
    fun s d eA eB dur f r x samples l late hf hr hx hst hph hidle hall hs hl hnear hout hlate => ?_⟩
  · subst hchild hu
    exact next_congr (rotaEntryDispatch_run ⟨hf, hr, hx, hst, hph, hmore, hb, hsound, hnear, hturn, hfence, hwait⟩ hfree)
  · subst hlate
    exact ⟨_, next_congr (stepCommit_run ⟨hf, hr, hx, hst, hph, hidle, hall, hnear, hout⟩ hs hl), stepOver_steps s d f r x l eA eB dur⟩

end

section
/-! SUPPORT. TRICKLE (R333-R337). -/

namespace Sys2Proof.Machine

variable {s : State} {d : Nat} {f : Flight}

/-- The fields of a TRICKLE_CFG that keep the rules. -/
structure TrickleFields (s : State) (f : Flight) : Prop where
  aligned : f.op 0x20 8 % 8192 = 0
  least : 1 ≤ f.op 0x28 4
  most : f.op 0x28 4 ≤ 1000000
  timeout : f.op 0x2C 4 ≤ 86400000
  cells : f.op 0x30 2 ≤ 64
  zeros : f.zeroFrom 0x32 = true
  area : areaOk s f.part (f.op 0x20 8) (f.op 0x30 2) = true

theorem trickleCfg_run (h : Runs s d 0x6020 f) (hf : TrickleFields s f)
    (hsaved : (s.qe.flights.any fun e => e.2.q == f.q && e.2.trickle.cell.isSome) = false) :
    trickleCfg d s = endF (putQ s f.q { getQ s f.q with
      trickArea := f.op 0x20 8, trickSaveAfter := f.op 0x28 4, trickTimeout := f.op 0x2C 4, trickCells := f.op 0x30 2 }) d stOk 0 := by
  obtain ⟨h1, h2, h3, h4, h5, hz, harea⟩ := hf
  have hrange : ¬ (f.op 0x20 8 % 8192 ≠ 0 ∨ f.op 0x28 4 < 1 ∨ 1000000 < f.op 0x28 4 ∨ 86400000 < f.op 0x2C 4 ∨ 64 < f.op 0x30 2) := by omega
  unfold trickleCfg
  rw [withOp_run h]
  dsimp only
  rw [hsaved, decide_eq_false hrange, hz, harea, refuseIf_pass (by simp) _]

theorem trickleSave_run {c : Nat} (hf : getF s d = some f) (hsleep : f.trickle.asleep = true) (hnew : f.trickle.cell = none)
    (hdue : f.trickle.since + 1000 * (getQ s f.q).trickSaveAfter ≤ s.time.now) (hc : freeCell s f.q = some c) :
    trickleSave d s = saveCell s d f c := by
  unfold trickleSave
  rw [hf]
  dsimp only
  rw [if_neg (by simp [hsleep, hnew, hdue]), hc]

/-! The wake of a sleeper. -/

/-- A sleeper that its counter wakes: its partition is online and unfenced, the package in RUN. -/
structure Wakes (s : State) (d : Nat) (f : Flight) (x : Part) : Prop where
  flight : getF s d = some f
  asleep : f.trickle.asleep = true
  running : f.phase = .running
  pkg : s.pwr.pkg = .run
  part : getP s f.part = some x
  online : x.st = .online
  unfenced : x.fences = []
  ready : trickleReady s d f = true

/-- A sleeper started again. -/
def awake (f : Flight) : Flight := { f with phase := .started, trickle := { f.trickle with asleep := false, cell := none } }

theorem trickleResume_run {x : Part} (h : Wakes s d f x) :
    trickleResume d s = match cellChanged s f with
      | none => s
      | some true => endF (emit s 6 8 { part := f.part } []) d stPoisoned 0
      | some false => if f.trickle.cell.isNone then putF s d (awake f)
        else if intakeFree s d f then enterIntake (putF s d (awake f)) d f else s := by
  obtain ⟨hf, hsleep, hph, hpkg, hx, hst, hfence, hready⟩ := h
  unfold trickleResume
  rw [hf]
  dsimp only
  rw [hx]
  dsimp only
  rw [if_neg (by simp [hsleep, hph, hpkg, hst, hfence, hready])]
  rfl

theorem cellChanged_unsaved (h : f.trickle.cell = none) : cellChanged s f = some false := by
  unfold cellChanged
  rw [h]

/-! The sleeper's timeout. -/

theorem trickleTimeout_again (hf : getF s d = some f) (hsleep : f.trickle.asleep = true) (ht : (getQ s f.q).trickTimeout ≠ 0)
    (hnew : f.trickle.seen < ctrOf s f.part f.waitC) :
    trickleTimeout d s = putF s d { f with trickle := { f.trickle with since := s.time.now, seen := ctrOf s f.part f.waitC } } := by
  unfold trickleTimeout
  rw [hf]
  dsimp only
  rw [if_neg (by simp [hsleep, ht]), if_pos hnew]

theorem trickleTimeout_stops (hf : getF s d = some f) (hsleep : f.trickle.asleep = true) (ht : (getQ s f.q).trickTimeout ≠ 0)
    (hold : ctrOf s f.part f.waitC ≤ f.trickle.seen) (hlate : f.trickle.since + 1000000 * (getQ s f.q).trickTimeout ≤ s.time.now) :
    trickleTimeout d s = stopF s d stPreempted := by
  unfold trickleTimeout
  rw [hf]
  dsimp only
  rw [if_neg (by simp [hsleep, ht]), if_neg (Nat.not_lt.2 hold), if_neg (Nat.not_lt.2 hlate)]

end Sys2Proof.Machine
end

section
/-! PROOF. The obligation O50, from the lemmas above. -/

open Sys2Proof Sys2Proof.Machine

/-- Settles O50, operation by operation. -/
theorem trickleSleepsSavesAndWakes : Obligations.TrickleSleepsSavesAndWakes := by
  unfold Obligations.TrickleSleepsSavesAndWakes
  refine ⟨fun s d f h h1 h2 h3 h4 h5 hz harea hsaved => next_congr (trickleCfg_run h ⟨h1, h2, h3, h4, h5, hz, harea⟩ hsaved),
    fun s d c f hf hsleep hnew hdue hc => ⟨_, next_congr (trickleSave_run hf hsleep hnew hdue hc), saveCell_facts s d f c⟩,
    fun s d f x hf hsleep hph hpkg hx hst hfence hready hcell => ?_,
    fun s d c f x hf hsleep hph hpkg hx hst hfence hready hcell => ?_,
    fun s d f hf hsleep ht => ⟨fun hnew => next_congr (trickleTimeout_again hf hsleep ht hnew),
      fun hold hlate => next_congr (trickleTimeout_stops hf hsleep ht hold hlate)⟩⟩
  · refine next_congr ((trickleResume_run ⟨hf, hsleep, hph, hpkg, hx, hst, hfence, hready⟩).trans ?_)
    rw [cellChanged_unsaved hcell]
    dsimp only
    rw [hcell]
    rfl
  · have hrun := trickleResume_run ⟨hf, hsleep, hph, hpkg, hx, hst, hfence, hready⟩
    refine ⟨fun hbad => next_congr (hrun.trans ?_), fun hgood hfree => next_congr (hrun.trans ?_)⟩
    · rw [hbad]
    · rw [hgood]
      dsimp only
      rw [if_neg (by simp [hcell]), if_pos hfree]
      rfl

end

section
/-! SUPPORT. The diagnostics (R566-R571). -/

namespace Sys2Proof.Machine

variable {s : State} {d : Nat} {f : Flight}

theorem katOp_ok {u : State} {failing cores : List Nat} {bad : List (Nat × Nat)} (hz : f.zeroFrom 0x2D = true) (hsel : f.op 0x2C 1 < 8)
    (ha : f.op 0x20 8 % 64 = 0) (hcores : cores = coreSet s f.part (f.op 0x28 2) (f.op 0x2A 2))
    (hin : f.op 0x28 2 + f.op 0x2A 2 ≤ (boundCores s f.part).length) (hsome : cores.isEmpty = false)
    (hbad : bad = cores.zipIdx.filter fun e => failing.contains e.1)
    (hw : vwrite s (cxOf s f d) (f.op 0x20 8) (toLe 64 ((bad.map fun e => 2 ^ e.2).foldl (· + ·) 0)) = .ok u) :
    katOp s d f failing = .ok (bad.foldl (fun t e => chargeCore t e.1 false) (endF u d (if bad.isEmpty then stOk else stArith) 0)) := by
  subst hcores hbad
  unfold katOp
  simp only [hz, hsel, ha, hin, hsome, hw, and_self, decide_true, Bool.not_false, Bool.and_self, needs_true, except_bind]

theorem kat_run {failing : List Nat} {t : State} (h : Runs s d 0xE001 f) (hop : katOp s d f failing = .ok t) : kat d failing s = t := by
  unfold kat
  rw [withOp_run h, hop]

/-- What a REPAIR_READ of a slice's bank writes. -/
def repairBytes (s : State) (t ch : Nat) : List Byte :=
  padTo 16 (toLe 2 t ++ toLe 2 ch ++ toLe 2 ((spareEntries s (bankNo t ch 0) ch).length / 8)) ++ spareEntries s (bankNo t ch 0) ch

theorem repairRead_run (h : Runs s d 0xE010 f) (ht : f.op 0x20 2 < 512) (hch : f.op 0x22 2 < 32) (hz : f.zero 0x24 4 = true)
    (hzf : f.zeroFrom 0x30 = true) (hgood : hostBad s (f.op 0x28 8) (repairBytes s (f.op 0x20 2) (f.op 0x22 2)).length = false) :
    repairRead d s = endF (hwrite s (f.op 0x28 8) (repairBytes s (f.op 0x20 2) (f.op 0x22 2))) d stOk 0 := by
  have hslice : targetSlice (f.op 0x20 2) (f.op 0x22 2) = true := decide_eq_true ⟨ht, hch⟩
  unfold repairRead
  rw [withOp_run h]
  dsimp only
  rw [hslice, hz, hzf, refuseIf_pass (by simp) _, if_pos ht]
  change (if hostBad s (f.op 0x28 8) (repairBytes s (f.op 0x20 2) (f.op 0x22 2)).length then _ else endF _ d stOk 0) = _
  rw [hgood, if_neg Bool.false_ne_true]
  rfl

/-- The address of the row that a diagnostic names. -/
def rowAsked (f : Flight) : Nat := rowAddress (f.op 0x20 2) (f.op 0x22 2) (f.op 0x24 1) (f.op 0x28 4)

theorem rowRemap_run {i : Nat} (h : Runs s d 0xE011 f) (hf : rowFields f false = true) (hpol : bit s.gnt.policy.flags 4 = true)
    (hhol : targetInHoliday s (f.op 0x20 2) = true) (ht : f.op 0x20 2 < 512) (hnew : tfind s.flt.remaps (rowOf (rowAsked f)) = none)
    (hspare : freeSpare s (bankNo (f.op 0x20 2) (f.op 0x22 2) (f.op 0x24 1)) = some i) :
    rowRemap d s = endF (emit (chargeMemory { s with flt := { s.flt with remaps := tput s.flt.remaps (rowOf (rowAsked f)) { spares := [i] } } }
      (chBank (f.op 0x20 2) (f.op 0x22 2)) false) 3 0xE (arrayWho s (rowAsked f)) [(8, rowAsked f / 2048 * 2048)]) d stOk 0 := by
  unfold rowAsked at hnew ⊢
  unfold rowRemap
  rw [withOp_run h]
  dsimp only
  rw [hf, hpol, hhol, refuseIf_pass (by simp) _, hnew, if_pos ht]
  dsimp only [Option.getD_none, List.getLast?_nil, List.length_nil]
  rw [if_pos (by omega), hspare]
  rfl

theorem ppr_run (h : Runs s d 0xE012 f) (hf : rowFields f true = true) (hpol : bit s.gnt.policy.flags 4 = true)
    (hhol : targetInHoliday s (f.op 0x20 2) = true) (hfree : s.flt.pprUsed.contains (bankNo (f.op 0x20 2) (f.op 0x22 2) (f.op 0x24 1)) = false) :
    ppr d true s = endF (emit { s with flt := { s.flt with
      pprUsed := s.flt.pprUsed ++ [bankNo (f.op 0x20 2) (f.op 0x22 2) (f.op 0x24 1)]
      remaps := tput s.flt.remaps (rowOf (rowAsked f)) { spares := [], ppr := true } } } 3 0xE (arrayWho s (rowAsked f))
      [(8, rowAsked f / 2048 * 2048), (1, 1)]) d stOk 0 := by
  unfold ppr
  rw [withOp_run h]
  dsimp only
  rw [hf, hpol, hhol, hfree, refuseIf_pass (by simp) _]
  rfl

/-! Free values: TAP, ENGINE_CTRL and SCAN_DUMP. -/

theorem takeBytes_length (s : State) (n : Nat) : (takeBytes s n).1.length = n := by
  unfold takeBytes
  rw [List.length_map, List.length_range]

theorem takeBytes_state (s : State) (n : Nat) : (takeBytes s n).2 = { s with free := (takeBytes s n).2.free } := rfl

theorem takeBytes_site (s : State) (n k : Nat) : getSite (takeBytes s n).2 k = getSite s k := rfl

theorem takeBytes_mem (s : State) (n : Nat) : (takeBytes s n).2.mem = s.mem := rfl

/-- A TAP that the owner allows, into the open Holiday. -/
structure TapAsked (s : State) (d : Nat) (f : Flight) : Prop where
  run : Runs s d 0xE020 f
  stack : f.op 0x20 1 ≤ 7
  op : f.op 0x21 1 ≤ 1
  some_ : f.op 0x22 2 ≠ 0
  few : f.op 0x22 2 ≤ 4096
  zero : f.zero 0x24 4 = true
  zeros : f.zeroFrom 0x30 = true
  tapAllowed : bit s.gnt.policy.flags 3 = true
  holiday : s.hol.open_ = true
  inHoliday : bit s.hol.stackSet (f.op 0x20 1) = true
  repairAllowed : f.op 0x21 1 = 0 → bit s.gnt.policy.flags 4 = true

theorem tap_run {b : List Byte} (h : TapAsked s d f) (hb : hread s (f.op 0x28 8) ((f.op 0x22 2 + 7) / 8) = some b) :
    tap d s = endF (hwrite (takeBytes s ((f.op 0x22 2 + 7) / 8)).2 (f.op 0x28 8) (takeBytes s ((f.op 0x22 2 + 7) / 8)).1) d stOk 0 := by
  obtain ⟨hrun, h1, h2, h3, h4, hz, hzf, hpol, hopen, hin, hrep⟩ := h
  have hrange : ¬ (7 < f.op 0x20 1 ∨ 1 < f.op 0x21 1 ∨ f.op 0x22 2 = 0 ∨ 4096 < f.op 0x22 2) := by omega
  have hrepair : (f.op 0x21 1 == 0 && Config.tapRepair b && !bit s.gnt.policy.flags 4) = false := by
    by_cases h0 : f.op 0x21 1 = 0
    · rw [hrep h0, Bool.not_true, Bool.and_false]
    · rw [beq_eq_false_iff_ne.2 h0, Bool.false_and, Bool.false_and]
  unfold tap
  rw [withOp_run hrun]
  dsimp only
  rw [hb]
  dsimp only
  rw [hrepair, decide_eq_false hrange, hz, hzf, hpol, hopen, hin, refuseIf_pass (by simp) _]

theorem engineCtrl_run (h : Runs s d 0xE021 f) (h1 : f.op 0x20 1 ≤ 7) (h2 : f.op 0x28 1 ≤ 1) (hz : f.zero 0x21 1 = true)
    (hzf : f.zeroFrom 0x29 = true) (hpol : bit s.gnt.policy.flags 3 = true) (hopen : s.hol.open_ = true)
    (hports : ((List.range 4).all fun i => bit s.hol.ports (4 * f.op 0x20 1 + i)) = true) :
    engineCtrl d s = endF (takeNat s).2 d stOk ((takeNat s).1 % 2 ^ 28) := by
  have hrange : ¬ (7 < f.op 0x20 1 ∨ 1 < f.op 0x28 1) := by omega
  unfold engineCtrl
  rw [withOp_run h]
  dsimp only
  rw [decide_eq_false hrange, hz, hzf, hpol, hopen, hports, refuseIf_pass (by simp) _]

/-- The site that a SCAN_DUMP names. -/
def scanSite (f : Flight) : Nat := f.op 0x20 1 * 272 + f.op 0x21 1 * 17 + f.op 0x22 1

/-- A state with a site fenced and scanned. -/
def scanned (s : State) (site : Nat) : State := putSite s site { getSite s site with fenced := true, scanned := true }

theorem scanDump_run (h : Runs s d 0xE031 f) (h1 : f.op 0x20 1 ≤ 1) (h2 : f.op 0x21 1 ≤ 15) (h3 : f.op 0x22 1 ≤ 16) (hz : f.zero 0x23 5 = true)
    (hzf : f.zeroFrom 0x30 = true) (hdebug : s.gnt.debug = true) (hscope : bit s.gnt.debugScope 2 = true)
    (hsite : (getSite s (scanSite f)).fenced = true ∨ siteInHoliday s (f.op 0x20 1) (f.op 0x21 1) = true)
    (hgood : hostBad s (f.op 0x28 8) 262144 = false) :
    scanDump d s = endF (hwrite (takeBytes (scanned s (scanSite f)) 262144).2 (f.op 0x28 8) (takeBytes (scanned s (scanSite f)) 262144).1) d stOk 0 := by
  have hrange : ¬ (1 < f.op 0x20 1 ∨ 15 < f.op 0x21 1 ∨ 16 < f.op 0x22 1) := by omega
  have hallowed : ((getSite s (scanSite f)).fenced || siteInHoliday s (f.op 0x20 1) (f.op 0x21 1)) = true := by
    rw [Bool.or_eq_true]
    exact hsite
  unfold scanSite at hallowed
  unfold scanDump
  rw [withOp_run h]
  dsimp only
  rw [hallowed, decide_eq_false hrange, hz, hzf, hdebug, hscope, refuseIf_pass (by simp) _, hgood, if_neg Bool.false_ne_true]
  rfl

/-! ARRAY_READ. -/

/-- What an ARRAY_READ writes of a clean codeword: its bytes, its check bytes and status 0. -/
def cleanWord (s : State) (pa : Nat) : List Byte := wordBytes s pa ++ toLe 4 (Config.checkBytes (wordBytes s pa)) ++ toLe 1 0 ++ toLe 3 0

theorem arrayWord_clean {pa : Nat} (heve : inEveFrame s pa = false) (hp : poisoned s pa = false) (hfree : inFreeFrame s pa = false) :
    arrayWord ([], s) pa .clean = (cleanWord s pa, s) := by
  unfold arrayWord
  dsimp only
  rw [heve, if_neg Bool.false_ne_true, hp, if_neg Bool.false_ne_true, hfree, if_neg Bool.false_ne_true, if_neg (by decide)]
  rfl

/-- An ARRAY_READ of one codeword in debug state. -/
structure WordAsked (s : State) (d : Nat) (f : Flight) : Prop where
  run : Runs s d 0xE030 f
  one : f.op 0x28 4 = 1
  aligned : f.op 0x20 8 % 32 = 0
  zero : f.zero 0x2C 4 = true
  zeros : f.zeroFrom 0x38 = true
  array : arrayAddress s (f.op 0x20 8) = true
  debug : s.gnt.debug = true
  scope : bit s.gnt.debugScope 1 = true

theorem arrayRead_run {found : List (Nat × EccFinding)} (h : WordAsked s d f) (hfound : found.find? (fun e => e.1 == 0) = none)
    (hword : arrayWord ([], s) (f.op 0x20 8) .clean = (cleanWord s (f.op 0x20 8), s))
    (hgood : hostBad s (f.op 0x30 8) (cleanWord s (f.op 0x20 8)).length = false) :
    arrayRead d found s = endF (hwrite s (f.op 0x30 8) (cleanWord s (f.op 0x20 8))) d stOk 0 := by
  obtain ⟨hrun, hn, ha, hz, hzf, harr, hdebug, hscope⟩ := h
  have hall : ((List.range 1).any fun i => !arrayAddress s (f.op 0x20 8 + 32 * i)) = false := by
    change (!arrayAddress s (f.op 0x20 8 + 32 * 0) || false) = false
    rw [Nat.mul_zero, Nat.add_zero, harr]
    rfl
  have hfold : (List.range 1).foldl (fun acc i => arrayWord acc (f.op 0x20 8 + 32 * i)
      (((found.find? fun e => e.1 == i).map Prod.snd).getD .clean)) (([], s) : List Byte × State) = (cleanWord s (f.op 0x20 8), s) := by
    change arrayWord ([], s) (f.op 0x20 8 + 32 * 0) (((found.find? fun e => e.1 == 0).map Prod.snd).getD .clean) = _
    rw [Nat.mul_zero, Nat.add_zero, hfound]
    exact hword
  unfold arrayRead
  rw [withOp_run hrun]
  dsimp only
  rw [hn, hall, hfold, ha, hz, hzf, hdebug, hscope, refuseIf_pass (by simp) _]
  dsimp only
  rw [hgood, if_neg Bool.false_ne_true]

end Sys2Proof.Machine
end

section
/-! PROOF. The obligation O51, from the lemmas above. -/

open Sys2Proof Sys2Proof.Machine

/-- Settles O51, operation by operation. -/
theorem diagnosticsAnswer : Obligations.DiagnosticsAnswer := by
  unfold Obligations.DiagnosticsAnswer
  refine ⟨fun s u d f failing cores bad h hz hsel ha hcores hin hsome hbad hw =>
      next_congr (kat_run h (katOp_ok hz hsel ha hcores hin hsome hbad hw)),
    fun s d f bs h ht hch hz hzf hbs hgood => ?_,
    fun s d i f h hf hpol hhol ht hnew hspare => next_congr (rowRemap_run h hf hpol hhol ht hnew hspare),
    fun s d f n pa h hf hpol hhol hn hfree hpa => ?_,
    fun s d f b h h1 h2 h3 h4 hz hzf hb hpol hopen hin hrep => ⟨_, _,
      next_congr (tap_run ⟨h, h1, h2, h3, h4, hz, hzf, hpol, hopen, hin, hrep⟩ hb), takeBytes_length _ _, takeBytes_state _ _⟩,
    fun s d f h h1 h2 hz hzf hpol hopen hports => ⟨_, _, next_congr (engineCtrl_run h h1 h2 hz hzf hpol hopen hports),
      Nat.mod_lt _ (Nat.two_pow_pos 28), rfl⟩,
    fun s d pa f found bs h hfound hpa hn ha hz hzf harr hdebug hscope heve hp hfree hbs hgood => ?_,
    fun s d site f h hsite h1 h2 h3 hz hzf hdebug hscope hallowed hgood => ?_⟩
  · subst hbs
    exact next_congr (repairRead_run h ht hch hz hzf hgood)
  · subst hn hpa
    exact next_congr (ppr_run h hf hpol hhol hfree)
  · subst hpa hbs
    exact next_congr (arrayRead_run ⟨h, hn, ha, hz, hzf, harr, hdebug, hscope⟩ hfound (arrayWord_clean heve hp hfree) hgood)
  · subst hsite
    refine ⟨_, _, next_congr (scanDump_run h h1 h2 h3 hz hzf hdebug hscope hallowed hgood), takeBytes_length _ _, ?_,
      (takeBytes_mem _ _).trans rfl⟩
    rw [takeBytes_site]
    exact getSite_putSite (s := s) _ _

end

section
/-! SUPPORT. The SYNC family (R299-R310). -/

namespace Sys2Proof.Machine

variable {s : State} {d : Nat} {f : Flight}

theorem syncNop_run (h : Runs s d 0x8000 f) (hz : f.zeroFrom 0x20 = true) : syncNop d s = endF s d stOk 0 := by
  unfold syncNop
  rw [withOp_run h, if_pos hz]

/-- Whether every counter that an operation names is one that the fabric reaches. -/
def Reached (s : State) (f : Flight) : Prop := ((syncEntries f).all fun e => decide (e.1 < 1024) && !counterFar s e.1) = true

theorem Reached.ok (h : Reached s f) : ((syncEntries f).any fun e => !counterOk e.1) = false := by
  unfold Reached at h
  rw [List.any_eq_false]
  intro e he
  have hp := List.all_eq_true.1 h e he
  rw [Bool.and_eq_true] at hp
  simpa [counterOk] using hp.1

theorem Reached.near (h : Reached s f) : ((syncEntries f).any fun e => counterFar s e.1) = false := by
  unfold Reached at h
  rw [List.any_eq_false]
  intro e he
  have hp := List.all_eq_true.1 h e he
  rw [Bool.and_eq_true] at hp
  simpa using hp.2

theorem syncEntry_ne_zero {e : Nat × Nat} (h : e ∈ syncEntries f) : e.2 ≠ 0 := by
  have := (List.mem_filter.1 h).2
  simpa using this

/-! SYNC_ADD. -/

/-- One increment of a partition's counter, saturating. -/
def counted (p : Nat) (t : Tbl Nat) (e : Nat × Nat) : Tbl Nat :=
  tput t (physCounter p e.1) (min ((tfind t (physCounter p e.1)).getD 0 + e.2) (2 ^ 64 - 1))

theorem counted_fold (p : Nat) (l : List (Nat × Nat)) (h : ∀ e ∈ l, e.2 ≠ 0) (t : Tbl Nat) :
    l.foldl (fun t e => if e.2 = 0 then t else counted p t e) t = l.foldl (counted p) t :=
  List.foldl_ext _ _ _ fun _ e he => if_neg (h e he)

/-- A state after every increment of a list, with whether one broke a pair's bound. -/
def addedAll (s : State) (p : Nat) (l : List (Nat × Nat)) : State × Bool :=
  l.foldl (fun (acc : State × Bool) e => ((addCounter acc.1 p e.1 e.2 none).1, acc.2 || (addCounter acc.1 p e.1 e.2 none).2)) (s, false)

theorem syncAdd_run (h : Runs s d 0x8001 f) (hr : Reached s f) :
    syncAdd d s = endF (addedAll s f.part (syncEntries f)).1 d (if (addedAll s f.part (syncEntries f)).2 then stOverrun else stOk) 0 := by
  unfold syncAdd
  rw [withOp_run h]
  dsimp only
  rw [hr.ok, if_neg Bool.false_ne_true, hr.near, if_neg Bool.false_ne_true]
  rfl

theorem addedAll_facts (hreset : inReset s f.part = false) :
    (addedAll s f.part (syncEntries f)).1.sync = { s.sync with counters := (syncEntries f).foldl (counted f.part) s.sync.counters } ∧
    (addedAll s f.part (syncEntries f)).1.parts = s.parts ∧ (addedAll s f.part (syncEntries f)).1.mem = s.mem ∧
    (s.sync.pairs = [] → (addedAll s f.part (syncEntries f)).2 = false) := by
  obtain ⟨hsync, hparts, hmem, hpairs⟩ := addAll_sync f.part (syncEntries f) (s, false) hreset
  refine ⟨?_, hparts, hmem, hpairs⟩
  rw [← counted_fold f.part (syncEntries f) (fun _ he => syncEntry_ne_zero he)]
  exact hsync

/-! WAIT_ALL, PAIR, UNPAIR, READ and SIGNAL_ADD. -/

theorem syncWaitAll_run (h : Runs s d 0x8002 f) (hr : Reached s f) (hstep : f.stepOf = none)
    (hmet : ∀ e ∈ syncEntries f, e.2 ≤ ctrOf s f.part e.1) : syncWaitAll d s = endF s d stOk 0 := by
  have hwaits : waitsMet s f = true := by
    unfold waitsMet
    rw [List.all_eq_true]
    intro e he
    have hle := hmet e he
    simpa [waitTarget, hstep, waitMet] using hle
  unfold syncWaitAll
  rw [withOp_run h, hr.ok, if_neg Bool.false_ne_true, hr.near, if_neg Bool.false_ne_true, if_pos hwaits]

theorem counterFar_eq_false {c : Nat} (h : s.fab.severed = false ∨ c < 512) : counterFar s c = false := by
  unfold counterFar
  rcases h with h | h
  · rw [h, Bool.false_and]
  · rw [decide_eq_false (Nat.not_le.2 h), Bool.and_false]

/-- A SYNC_PAIR of two counters a and b of one base die, in no pair, whose difference lies within n. -/
structure PairAsked (s : State) (d : Nat) (f : Flight) (a b n : Nat) : Prop where
  run : Runs s d 0x8010 f
  producer : f.op 0x22 2 = a
  consumer : f.op 0x24 2 = b
  bound_ : f.op 0x26 2 = n
  aLow : a < 1024
  bLow : b < 1024
  distinct_ : a ≠ b
  sameDie : a / 512 = b / 512
  some_ : n ≠ 0
  near : s.fab.severed = false ∨ a < 512
  fresh : tfind s.sync.pairs (256 * f.part + f.op 0x20 1) = none
  aFree : pairOf s f.part a = none
  bFree : pairOf s f.part b = none
  zero : f.zero 0x21 1 = true
  zeros : f.zeroFrom 0x28 = true
  ahead : ctrOf s f.part b ≤ ctrOf s f.part a
  within : ctrOf s f.part a ≤ ctrOf s f.part b + n

theorem syncPair_run {a b n : Nat} (h : PairAsked s d f a b n) :
    syncPair d s = endF { s with sync := { s.sync with
      pairs := tput s.sync.pairs (256 * f.part + f.op 0x20 1) { producer := a, consumer := b, n := n } } } d stOk 0 := by
  obtain ⟨hrun, ha, hb, hn, ha1, hb1, hab, hdie, hn0, hnear, hnew, hpa, hpb, hz, hzf, h1, h2⟩ := h
  have hfar : (counterFar s a || counterFar s b) = false := by
    rw [counterFar_eq_false hnear, counterFar_eq_false (hnear.imp_right fun h => by omega), Bool.or_self]
  have hrange : ¬ (n = 0 ∨ a = b ∨ a / 512 ≠ b / 512) := by omega
  have hstate : ¬ (ctrOf s f.part a < ctrOf s f.part b ∨ ctrOf s f.part b + n < ctrOf s f.part a) := by omega
  unfold syncPair
  rw [withOp_run hrun]
  dsimp only
  rw [ha, hb, hn, if_neg (by simp [counterOk, ha1, hb1]), hfar, if_neg Bool.false_ne_true, hnew, hpa, hpb, hz, hzf, decide_eq_false hrange,
    decide_eq_false hstate, refuseIf_pass (by simp) _]

theorem syncUnpair_run (h : Runs s d 0x8011 f) (hz : f.zeroFrom 0x21 = true)
    (hpair : (tfind s.sync.pairs (256 * f.part + f.op 0x20 1)).isSome = true) :
    syncUnpair d s = endF { s with sync := { s.sync with pairs := tdel s.sync.pairs (256 * f.part + f.op 0x20 1) } } d stOk 0 := by
  have hnone : (tfind s.sync.pairs (256 * f.part + f.op 0x20 1)).isNone = false := by
    rw [← Option.not_isSome, hpair]
    rfl
  unfold syncUnpair
  rw [withOp_run h]
  dsimp only
  rw [hz, hnone, refuseIf_pass (by simp) _]

/-- A SYNC_READ of n counters from c on, within reach. -/
structure CountersAsked (s : State) (d : Nat) (f : Flight) (c n : Nat) : Prop where
  run : Runs s d 0x8020 f
  first : f.op 0x28 2 = c
  count : f.op 0x2A 2 = n
  outside : f.op 0x20 8 < 2 ^ 47 ∨ 2 ^ 48 ≤ f.op 0x20 8
  aligned : f.op 0x20 8 % 8 = 0
  some_ : n ≠ 0
  few : n ≤ 256
  inside : c + n ≤ 1024
  zeros : f.zeroFrom 0x2C = true
  near : s.fab.severed = false ∨ c + n ≤ 512

theorem syncRead_run {v : State} {c n : Nat} (h : CountersAsked s d f c n)
    (hw : vwrite s (cxOf s f d) (f.op 0x20 8) ((List.range n).flatMap fun i => toLe 8 (ctrOf s f.part (c + i))) = .ok v) :
    syncRead d s = endF v d stOk 0 := by
  obtain ⟨hrun, hc, hn, hva, ha, h0, hfew, hin, hz, hnear⟩ := h
  have hva' : ¬ (2 ^ 47 ≤ f.op 0x20 8 ∧ f.op 0x20 8 < 2 ^ 48) := by omega
  have hrange : ¬ (n = 0 ∨ 256 < n ∨ 1024 < c + n ∨ f.op 0x20 8 % 8 ≠ 0) := by omega
  unfold syncRead
  rw [withOp_run hrun]
  dsimp only
  rw [hc, hn, decide_eq_false hva', if_neg (by simp [counterOk]; omega), counterFar_eq_false (hnear.imp_right fun h => by omega),
    if_neg Bool.false_ne_true, decide_eq_false hrange, hz, refuseIf_pass (by simp) _, hw]
  rfl

theorem signalAdd_run {p c n : Nat} (hp : p < 16) (hc : c < 1024) (hnear : counterFar s c = false) :
    signalAdd p c n s = (addCounter s p c n none).1 := if_pos ⟨hp, hc, hnear⟩

end Sys2Proof.Machine
end

section
/-! PROOF. The obligation O26, from the lemmas above. -/

open Sys2Proof Sys2Proof.Machine

/-- Settles O26, operation by operation; what the additions leave is `addedAll_facts` and `addCounter_sync`. -/
theorem countersAddWaitPairAndRead : Obligations.CountersAddWaitPairAndRead := by
  unfold Obligations.CountersAddWaitPairAndRead
  refine ⟨fun s d f h hz => next_congr (syncNop_run h hz),
    fun s d f h hreset hr => ?_,
    fun s d f h hr hstep hmet => next_congr (syncWaitAll_run h hr hstep hmet),
    fun s d a b n f h ha hb hn ha1 hb1 hab hdie hn0 hnear hnew hpa hpb hz hzf h1 h2 =>
      next_congr (syncPair_run ⟨h, ha, hb, hn, ha1, hb1, hab, hdie, hn0, hnear, hnew, hpa, hpb, hz, hzf, h1, h2⟩),
    fun s d f h hz hpair => next_congr (syncUnpair_run h hz hpair),
    fun s v d c n f h hc hn hva ha h0 hfew hin hz hnear hw =>
      next_congr (syncRead_run ⟨h, hc, hn, hva, ha, h0, hfew, hin, hz, hnear⟩ hw),
    fun s p c n hp hc hnear hn hreset => ⟨_, next_congr (signalAdd_run hp hc hnear), ?_⟩⟩
  · obtain ⟨hsync, hparts, hmem, hpairs⟩ := addedAll_facts (s := s) (f := f) hreset
    refine ⟨_, _, next_congr (syncAdd_run h hr), ?_, hsync, hparts, hmem⟩
    by_cases hover : (addedAll s f.part (syncEntries f)).2 = true
    · exact .inr ⟨if_pos hover, fun hnone => by simp [hpairs hnone] at hover⟩
    · exact .inl (if_neg hover)
  · obtain ⟨hsync, hparts, hmem, -⟩ := addCounter_sync hreset c n none
    rw [if_neg hn] at hsync
    exact ⟨hparts, hmem, hsync⟩

end

section
/-! SUPPORT. The requests of masters (R169, R182, R190-R196, R345-R348, R413, R415). -/

namespace Sys2Proof.Machine

variable {s : State} {r m : MemReq} {pa : Nat}

theorem locate_slice (h : pa < 2 ^ 36) : ∃ n off, locate pa = .slice n off := by
  unfold locate
  rw [if_pos h]
  exact ⟨_, _, rfl⟩

/-- A request that goes as its master stamps it, is no prefetch and translates to an address of the device. -/
structure AsStamped (s : State) (r m : MemReq) (pa : Nat) (w : Bool) : Prop where
  noTarget : r.target = none
  master : r.master ≠ 547
  stamped : stamp s r = m
  demand : m.prefetch = false
  place : xlate s m.part m.va = .ok (.loc pa w)

theorem AsStamped.reaches {w : Bool} (h : AsStamped s r m pa w) (hw : (m.write.isSome && !w) = false) :
    memoryAccess r s = memRequest (cacheLeaf s m) m pa := by
  rw [memoryAccess_as h.noTarget h.master h.stamped h.demand h.place, hw, if_neg Bool.false_ne_true]

/-- A clean request to a slice that is not under copy, for which nothing is charged. -/
structure ToSlice (s : State) (m : MemReq) (pa : Nat) : Prop where
  slice : pa < 2 ^ 36
  free : memUse m pa 0 = []
  still : underCopy s pa = false
  clean : m.found = .clean

theorem AsStamped.served {w : Bool} (h : AsStamped s r m pa w) (hs : ToSlice s m pa) (hw : (m.write.isSome && !w) = false) :
    memoryAccess r s = serveReq (cacheLeaf s m) m [] true := by
  rw [h.reaches hw, memRequest_slice _ _ _ hs.slice hs.free (by rw [underCopy_cacheLeaf]; exact hs.still) hs.clean]

theorem serveReq_cacheLeaf_regs (s : State) (m : MemReq) : (serveReq (cacheLeaf s m) m [] true).regs = s.regs :=
  ((serveReq_K _ _ _ _).part8 rfl).trans ((cacheLeaf_K s m).part8 rfl)

/-! A request that waits. -/

theorem chargeAll_unregistered {res n : Nat} (hn : n ≠ 0) (h : 5 < m.cls ∨ (regsOf s m.part m.cls res).isEmpty = true) :
    chargeAll s m [(res, n)] = (s, false) := by
  have hport : chargePort s m.master m.part m.cls (res, n) = (s, false) := by
    unfold chargePort
    rw [if_pos h]
    simp [hn]
  unfold chargeAll
  rw [List.foldl_cons, List.foldl_nil, if_pos rfl, hport]

theorem regsOf_of_bw {a b : State} (h : a.bw = b.bw) (p c res : Nat) : regsOf a p c res = regsOf b p c res := by
  unfold regsOf
  rw [h]

/-- The state in which a request's translation and lines are cached. -/
def cached (s : State) (m : MemReq) (pa : Nat) : State := (memCache (cacheLeaf s m) m pa).1

theorem cacheLeaf_facts (s : State) (m : MemReq) :
    (cacheLeaf s m).bw = s.bw ∧ (cacheLeaf s m).time = s.time ∧ (cacheLeaf s m).mem.bytes = s.mem.bytes := by
  unfold cacheLeaf
  split <;> exact ⟨rfl, rfl, rfl⟩

theorem cached_facts (s : State) (m : MemReq) (pa : Nat) :
    (cached s m pa).bw = s.bw ∧ (cached s m pa).time = s.time ∧ (cached s m pa).mem.bytes = s.mem.bytes := by
  obtain ⟨h1, h2, h3⟩ := memCache_facts (cacheLeaf s m) m pa
  obtain ⟨e1, e2, e3⟩ := cacheLeaf_facts s m
  exact ⟨h1.trans e1, h2.trans e2, h3.trans e3⟩

theorem memRequest_waits {res n : Nat} (hclean : m.found = .clean) (huse : memUse m pa (memCache (cacheLeaf s m) m pa).2 = [(res, n)]) (hn : n ≠ 0)
    (h : 5 < m.cls ∨ (regsOf s m.part m.cls res).isEmpty = true) : memRequest (cacheLeaf s m) m pa =
      (addWaiting (cached s m pa) { req := m, use := [(res, n)], tier := 4, heldSince := some (cached s m pa).time.now }).1 := by
  have hunreg : 5 < m.cls ∨ (regsOf (memCache (cacheLeaf s m) m pa).1 m.part m.cls res).isEmpty = true := by
    rw [show (memCache (cacheLeaf s m) m pa).1 = cached s m pa from rfl, regsOf_of_bw (cached_facts s m pa).1]
    exact h
  have htime : (cacheLeaf s m).time.now = (cached s m pa).time.now := by
    rw [(cacheLeaf_facts s m).2.1, (cached_facts s m pa).2.1]
  unfold memRequest
  rw [cacheFinding_clean _ _ _ hclean]
  dsimp only
  rw [huse, chargeAll_unregistered hn hunreg, if_neg Bool.false_ne_true, htime]
  rfl

theorem addWaiting_facts (s : State) (w : WaitReq) : (addWaiting s w).1.bw.nextReq = s.bw.nextReq + 1 ∧
    tfind (addWaiting s w).1.bw.waiting s.bw.nextReq = some w ∧ (addWaiting s w).1.mem = s.mem :=
  ⟨rfl, tfind_tput_same _ _ _, rfl⟩

/-! A request that is only recorded. -/

theorem memoryAccess_untranslated {a : Nat} (ht : r.target = none) (hm : r.master ≠ 547) (hs : stamp s r = m)
    (hx : xlate s m.part m.va = .error (.trans a)) :
    memoryAccess r s = if m.prefetch then countDrop s m.part else emit s 3 1 { part := m.part } [(8, m.va)] := by
  unfold memoryAccess
  rw [ht]
  dsimp only
  rw [if_neg hm]
  unfold memAccess
  rw [hs]
  dsimp only
  by_cases hp : m.prefetch = true
  · rw [if_pos hp, if_pos hp]
    dsimp only
    rw [hx]
  · rw [if_neg hp, if_neg hp, hx]

theorem memoryAccess_readOnly {bs : List Byte} (h : AsStamped s r m pa false) (hw : m.write = some bs) :
    memoryAccess r s = emit s 3 2 { part := m.part } [(8, m.va)] := by
  rw [memoryAccess_as h.noTarget h.master h.stamped h.demand h.place, hw]
  exact if_pos rfl

/-! The management island. -/

theorem memoryAccess_island {t : Target} (ht : r.target = some t) : memoryAccess r s = islandAccess s r t := by
  unfold memoryAccess
  rw [ht]

theorem islandAccess_recorded {t : Target} (honly : gauntletOnly t = true) (hw : r.write.isSome = true) (hoff : s.pwr.pkg ≠ .off)
    (hup : r.master ≠ 547 ∨ mittenRuns s = true) : islandAccess s r t = emit s 6 1 {} [] := by
  have hopen : ¬ (s.pwr.pkg = .off ∨ (r.master = 547 ∧ (!mittenRuns s) = true)) := by
    rintro (h | ⟨h1, h2⟩)
    · exact hoff h
    · rcases hup with h | h
      · exact h h1
      · rw [h] at h2
        exact absurd h2 (by decide)
  unfold islandAccess
  rw [if_neg hopen, hw, honly, if_pos (by decide)]

theorem islandAccess_read {t : Target} {b : List Byte} (hw : r.write = none) (hm : r.master = 547) (hoff : s.pwr.pkg ≠ .off)
    (hup : mittenRuns s = true) (hb : mittenRead s t r.va r.len = some (b, s)) : islandAccess s r t = answer s 20 (targetCode t) b := by
  unfold islandAccess
  rw [if_neg (by simp [hoff, hup]), hw, if_neg (by simp), if_neg (by simp [hm])]
  dsimp only
  rw [hb]

theorem islandAccess_hidden {t : Target} (hw : r.write = none) (hm : r.master = 547) (hb : mittenRead s t r.va r.len = none) :
    islandAccess s r t = s := by
  unfold islandAccess
  split
  · rfl
  · rw [hw, if_neg (by simp), if_neg (by simp [hm])]
    dsimp only
    rw [hb]

end Sys2Proof.Machine
end

section
/-! PROOF. The obligation O45, from the lemmas above. -/

open Sys2Proof Sys2Proof.Machine

/-- Settles O45, clause by clause: a request is served, waits or is recorded, and what Mitten's fence lets through. -/
theorem requestsReadAndWriteMemory : Obligations.RequestsReadAndWriteMemory := by
  unfold Obligations.RequestsReadAndWriteMemory
  refine ⟨fun s u r m pa bs ht hm hs hp hx hpa huse hcopy hclean hw hv => ?_,
    fun s r m pa w ht hm hs hp hx hpa huse hcopy hclean hw => ?_,
    fun s r m pa res n w ht hm hs hp hclean hx hmay huse hn hunreg => ?_,
    fun s r m a ht hm hs hx => next_congr (memoryAccess_untranslated ht hm hs hx),
    fun s r m pa bs ht hm hs hp hx hw => next_congr (memoryAccess_readOnly ⟨ht, hm, hs, hp, hx⟩ hw),
    fun s r t ht honly hw hoff hup => next_congr ((memoryAccess_island ht).trans (islandAccess_recorded honly hw hoff hup)),
    fun s r i ht hw hm hoff hup => next_congr ((memoryAccess_island ht).trans (islandAccess_read hw hm hoff hup rfl)),
    fun s r ht hw hm => ?_⟩
  · have hplace : xlate (cacheLeaf s m) m.part m.va = .ok (.loc pa true) := (xlate_cacheLeaf s m _ _).trans hx
    exact ⟨_, next_congr (AsStamped.served ⟨ht, hm, hs, hp, hx⟩ ⟨hpa, huse, hcopy, hclean⟩ (by rw [hw]; rfl)),
      serveReq_write _ u m pa true bs hplace hclean hw hv, serveReq_cacheLeaf_regs s m⟩
  · have hplace : xlate (cacheLeaf s m) m.part m.va = .ok (.loc pa w) := (xlate_cacheLeaf s m _ _).trans hx
    obtain ⟨n, off, hl⟩ := locate_slice hpa
    have hmem := serveReq_read _ m pa n off w hplace hclean hw hl
    refine ⟨_, next_congr (AsStamped.served ⟨ht, hm, hs, hp, hx⟩ ⟨hpa, huse, hcopy, hclean⟩ (by rw [hw]; rfl)), ?_, ?_,
      serveReq_cacheLeaf_regs s m⟩
    · rw [hmem]
      exact (cacheLeaf_K s m).part0 rfl
    · rw [hmem]
      exact (cacheLeaf_K s m).part1 rfl
  · have hwrite : (m.write.isSome && !w) = false := by
      rcases hmay with h | h
      · rw [h, Bool.false_and]
      · rw [h, Bool.not_true, Bool.and_false]
    obtain ⟨hbw, htime, hbytes⟩ := cached_facts s m pa
    have hrun := (AsStamped.reaches ⟨ht, hm, hs, hp, hx⟩ hwrite).trans (memRequest_waits hclean huse hn hunreg)
    rw [htime] at hrun
    obtain ⟨hnext, hfind, hmem⟩ := addWaiting_facts (cached s m pa) { req := m, use := [(res, n)], tier := 4, heldSince := some s.time.now }
    rw [hbw] at hnext hfind
    exact ⟨_, next_congr hrun, hnext, hfind, by rw [hmem]; exact hbytes⟩
  · rcases ht with ht | ht | ht
    · exact next_congr ((memoryAccess_island ht).trans (islandAccess_hidden hw hm rfl))
    · exact next_congr ((memoryAccess_island ht).trans (islandAccess_hidden hw hm rfl))
    · refine next_congr ?_
      unfold memoryAccess
      rw [ht]
      exact if_pos hm

end

section
/-! SUPPORT. The lane row's products and its mode changes (R91-R97, R114-R143). -/

namespace Sys2Proof.Machine

variable {s : State} {d : Nat} {f : Flight} {w : Work}

theorem matmul_run {t : State} (h : Runs s d 0x1001 f) (ht : matrixOp s d f w = t) : matmul d w s = t := by
  unfold matmul
  rw [withOp_run h, ht]

theorem conv1d_run {t : State} (h : Runs s d 0x1010 f) (ht : matrixOp s d f w = t) : conv1d d w s = t := by
  unfold conv1d
  rw [withOp_run h, ht]

theorem conv2d_run {t : State} (h : Runs s d 0x1011 f) (ht : matrixOp s d f w = t) : conv2d d w s = t := by
  unfold conv2d
  rw [withOp_run h, ht]

theorem laneModeChange_run {core : Nat} {p : MatPlan} {e : Nat × Nat × Nat × Nat}
    (hnext : ((getCore s core).intake.find? fun d => ((getF s d).map fun f => f.phase == .started && !f.begun).getD false) = some d)
    (hf : getF s d = some f) (hp : matPlan s d f = .ok p) (he : ((takingPart s f.part p).find? fun e => e.1 == core) = some e)
    (hidle : unitsHeld s core d = 0) (hop : f.opcode / 4096 = 1) :
    laneModeChange core s = putCore s core { getCore s core with mode := e.2.2.2 } := by
  unfold laneModeChange
  rw [hnext]
  dsimp only
  rw [hf]
  dsimp only
  rw [if_neg (not_not.2 hop), hp]
  dsimp only
  rw [he]
  exact if_pos hidle

end Sys2Proof.Machine
end

section
/-! PROOF. The obligation O52, from the lemmas above. -/

open Sys2Proof Sys2Proof.Machine

/-- Settles O52: each of the three products is `matrixOp_runs` under its own opcode. -/
theorem matrixProductsComplete : Obligations.MatrixProductsComplete := by
  unfold Obligations.MatrixProductsComplete
  refine ⟨fun s u d f w p xl wl cl sl h h1 h2 h3 h4 h5 h6 h7 h8 h9 h10 h11 h12 h13 h14 => next_congr (matmul_run h ?_),
    fun s u d f w p xl wl cl sl h h1 h2 h3 h4 h5 h6 h7 h8 h9 h10 h11 h12 h13 h14 => next_congr (conv1d_run h ?_),
    fun s u d f w p xl wl cl sl h h1 h2 h3 h4 h5 h6 h7 h8 h9 h10 h11 h12 h13 h14 => next_congr (conv2d_run h ?_),
    fun s core d f p e hnext hf hp he hidle hop => next_congr (laneModeChange_run hnext hf hp he hidle hop)⟩
  all_goals exact matrixOp_runs s u d f w p xl wl cl sl h1 h2 h3 h4 h5 h6 h7 h8 h9 h10 h11 h12 h13 h14

end

section
/-! SUPPORT. The element engine's operations on cores (R144-R168). -/

namespace Sys2Proof.Machine

variable {s u : State} {d : Nat} {f : Flight} {w : Work}

/-! CHAIN. -/

theorem cutTo_whole (e1 : Nat) (t : Tensor) : cutTo e1 e1 t = t := if_neg fun h => Nat.lt_irrefl e1 h.1

/-- An optional operand's values, as a chain takes them. -/
def wideOpt (t : Option Tensor) (l : List ((Nat × Nat) × Bool)) : List Nat := match t with
  | none => []
  | some x => widenL x l

theorem wideOpt_eq (t : Option Tensor) (l : List ((Nat × Nat) × Bool)) : wideOpt t l = (t.map fun x => widenL x l).getD [] := by
  cases t <;> rfl

/-- Work on cores that no fault stops and that writes its whole output at once. -/
structure Whole (f : Flight) (w : Work) : Prop where
  sound : w.faults = []
  last : w.more = false
  first : f.done = []

theorem chainRun_whole {ch : Chain} {p : ChainSet} {la lb ls : List ((Nat × Nat) × Bool)} (hw : Whole f w)
    (hbuf : buffersFree s d ((chainShares s f.part ch p).map Prod.fst) = true) (hcore : coreRangeOk s f.part ch.first ch.count = true)
    (htr : f.fTrickle = false) (hpos : (p.a.ext[1]?).getD 1 ≠ 0) (ha : readTP s (cxOf s f d) p.a = .ok la)
    (hb : readOptP s (cxOf s f d) p.b = .ok lb) (hs : readOptP s (cxOf s f d) p.side = .ok ls) (hclean : (la ++ lb ++ ls).any Prod.snd = false)
    (hapart : meets (p.d.places s (cxOf s f d)) (chainSources s (cxOf s f d) ch p (chainRecs f ch p)) = false)
    (hput : writeF32 (p.inputs.foldl (fun t x => touchRead t (cxOf s f d) x) s) (cxOf s f d) p.d (cvtSat ch.cvt) (genKeyOf s f ch.cvt p.d)
      (chainVals ch p (ChainIn.mk (widenL p.a la) ((p.b.map (fun x => widenL x lb)).getD []) ((p.side.map (fun x => widenL x ls)).getD []))) = .ok u) :
    chainRun s d f ch p w = .ok (endF u d stOk w.cycles) := by
  unfold chainRun
  simp only [hcore, hbuf, Bool.or_true, needs_true, holdsUntil_true, except_bind, presentOf_whole s f _ htr, hpos, if_false, cutTo_whole, ha, hb, hs,
    hclean, Bool.false_and, htr, Bool.false_eq_true]
  refine fillRun_whole s u d f w _ hw.sound hw.last hw.first (fun _ => rfl) hapart rfl (Eq.trans ?_ hput)
  rw [← wideOpt_eq, ← wideOpt_eq]
  rfl

theorem chain_run {ch : Chain} {p : ChainSet} {t : State} (h : Runs s d 0x2001 f) (hp : chainPlan s d f = .ok (ch, p))
    (hcores : nearPlaced s (cxOf s f d) f ch p = false) (hrun : chainRun s d f ch p w = .ok t) : chain d w s = t := by
  unfold chain
  rw [withOp_run h]
  simp only [hp, except_bind, hcores, Bool.false_eq_true, if_false, hrun]

/-! SOFTMAX. -/

/-- The places that a SOFTMAX reads: its source where it is not the output, and its records. -/
def softSources (s : State) (d : Nat) (f : Flight) (x o : Tensor) : List (Nat × Nat) :=
  (if sameTensor x o then [] else x.places s (cxOf s f d)) ++ [f.op 0x20 8, f.op 0x30 8, f.op 0x38 8].flatMap fun a => placesOf s (cxOf s f d) a 64

/-- A SOFTMAX whose records pass the checks. -/
structure SoftAsked (s : State) (d : Nat) (f : Flight) (b : List Byte) (x o : Tensor) : Prop where
  record : recordIn s (cxOf s f d) (f.op 0x38 8) 64 64 = .ok b
  source : operand s (cxOf s f d) (f.op 0x20 8) = .ok x
  output : operand s (cxOf s f d) (f.op 0x30 8) = .ok o
  zero : f.zero 0x28 8 = true
  zeroB : zeroAt b 4 4 = true
  zerosB : zeroAt b 0x14 44 = true
  extents : x.ext = o.ext
  row : x.e0 ≤ 65536
  convert : cvtOk f o.fmt o.count (fld b 8 8) = true
  cores : coreRangeOk s f.part (fld b 0x10 2) (fld b 0x12 2) = true
  buffers : buffersFree s d ((sharesOf (coreSet s f.part (fld b 0x10 2) (fld b 0x12 2)) (o.count / o.e0)).map Prod.fst) = true

theorem softmaxOp_whole {b : List Byte} {x o : Tensor} {xl : List ((Nat × Nat) × Bool)} (hw : Whole f w) (h : SoftAsked s d f b x o)
    (hx : readTP s (cxOf s f d) x = .ok xl) (hclean : xl.any Prod.snd = false)
    (hapart : meets (o.places s (cxOf s f d)) (softSources s d f x o) = false)
    (hput : writeF32 (touchRead s (cxOf s f d) x) (cxOf s f d) o (cvtSat (fld b 8 8)) (genKeyOf s f (fld b 8 8) o)
      ((chunks x.e0 (widenL x xl)).flatMap (softRow (fmul (fld b 0 4) l2e))) = .ok u) :
    softmaxOp s d f w = .ok (endF u d stOk w.cycles) := by
  obtain ⟨h1, h2, h3, h4, h5, h6, h7, h8, h9, h10, h11⟩ := h
  have hext : (x.ext == o.ext) = true := by rw [h7, beq_self_eq_true]
  unfold softmaxOp
  simp only [h1, h2, h3, except_bind, h4, h5, h6, hext, h8, h9, h10, h11, decide_true, Bool.and_self, Bool.or_true, needs_true, holdsUntil_true, hx,
    chunks_clean _ _ hclean]
  exact fillRun_whole s u d f w _ hw.sound hw.last hw.first (fun _ => rfl) hapart rfl hput

theorem softmax_run {t : State} (h : Runs s d 0x2010 f) (ht : softmaxOp s d f w = .ok t) : softmax d w s = t := by
  unfold softmax
  rw [withOp_run h, ht]

/-! SAMPLE. -/

/-- The rows of a SAMPLE's logits. -/
def sampleRows (z : Tensor) : Nat := (z.ext[1]?).getD 1

/-- The address of a row's parameters, read outside the sequence ranges. -/
def rowRecord (s : State) (d : Nat) (f : Flight) (b : List Byte) (i : Nat) : Except Stop (List Byte) :=
  if 2 ^ 47 ≤ fld b 0 8 + 16 * i ∧ fld b 0 8 + 16 * i < 2 ^ 48 then .error (.st stPermission)
  else vread s (cxOf s f d) (fld b 0 8 + 16 * i) 16

/-- What a row samples without penalties, its generator word formed from its sequence. -/
def rowSample (s : State) (f : Flight) (b : List Byte) (z : Tensor) (zs : List Nat) (params : List (List Byte)) (i : Nat) : Sampled :=
  match rowParam ((params[i]?).getD []) 0 with
  | none => noToken
  | some r => sampleRow (penalise ((zs.drop (i * z.e0)).take z.e0) [] r.pen) r
      (genWord (getSlot s f.slotF).seed (getSlot s f.slotF).ident 0xFF00 (fld b 0x10 4) i)

/-- A SAMPLE outside a step, without penalties and without a probability output, whose records pass the checks. -/
structure SampleAsked (s : State) (d : Nat) (f : Flight) (b : List Byte) (z o : Tensor) : Prop where
  record : recordIn s (cxOf s f d) (f.op 0x38 8) 64 64 = .ok b
  logits : operand s (cxOf s f d) (f.op 0x20 8) = .ok z
  noList : f.op 0x28 8 = 0
  output : operand s (cxOf s f d) (f.op 0x30 8) = .ok o
  noProb : fld b 8 8 = 0
  noStep : f.stepOf = none
  format : z.fmt = 0 ∨ z.fmt = 1
  shape : z.ext.length = 2
  vocab : z.e0 ≤ 1048576
  outFormat : o.fmt = 6
  outShape : o.ext = [1, sampleRows z]
  perLeast : 1 ≤ fld b 0x18 1
  perMost : fld b 0x18 1 ≤ 16
  even : (if fld b 0x16 2 = 0 then (coreSet s f.part (fld b 0x14 2) 0).length else fld b 0x16 2) % fld b 0x18 1 = 0
  zeros : zeroAt b 0x19 39 = true
  cores : coreRangeOk s f.part (fld b 0x14 2) (fld b 0x16 2) = true
  params : fld b 0 8 ≠ 0
  aligned : fld b 0 8 % 16 = 0
  slot : f.slotF ≠ 0xFFFF
  position : fld b 0x10 4 ≠ 0xFFFFFFFF
  buffers : buffersFree s d (sampleCores s f.part (fld b 0x14 2) (fld b 0x16 2) (fld b 0x18 1) z.e0 (sampleRows z)) = true

/-- The places that a SAMPLE reads. -/
def sampleSources (s : State) (d : Nat) (f : Flight) (z : Tensor) : List (Nat × Nat) :=
  z.places s (cxOf s f d) ++ [f.op 0x20 8, 0, f.op 0x30 8, f.op 0x38 8, 0].flatMap fun a => if a = 0 then [] else placesOf s (cxOf s f d) a 64

theorem sampleOp_whole {b : List Byte} {z o : Tensor} {zs : List Nat} {params : List (List Byte)} (h : SampleAsked s d f b z o)
    (hsound : w.faults = []) (hlast : w.more = false) (hz : widenT s (cxOf s f d) z = .ok zs)
    (hparams : seqE ((List.range (sampleRows z)).map (rowRecord s d f b)) = .ok params)
    (hzero : ((List.range (sampleRows z)).all fun i => zeroAt ((params[i]?).getD []) 14 2) = true)
    (hapart : meets (o.places s (cxOf s f d)) (sampleSources s d f z) = false)
    (hput : writeCodes s (cxOf s f d) o (((List.range (sampleRows z)).map (rowSample s f b z zs params)).map (·.token)) = .ok u) :
    sampleOp s d f w = .ok (endF (touchRead u (cxOf s f d) z) d stOk w.cycles) := by
  obtain ⟨h1, h2, h3, h4, h5, h6, h7, h8, h9, h10, h11, h12, h13, h14, h15, h16, h17, h18, h19, h20, h21⟩ := h
  unfold sampleRows at *
  unfold rowRecord at hparams
  unfold sampleSources at hapart
  have hfmt : (z.fmt == 0 || z.fmt == 1) = true := by
    rcases h7 with h | h <;> rw [h] <;> rfl
  have hslot : (f.slotF != 0xFFFF && fld b 0x10 4 != 0xFFFFFFFF) = true := by simp [h19, h20]
  unfold sampleOp operandOpt
  simp only [h1, h2, h3, h4, h5, h6, except_bind, if_true, hfmt, h8, h9, h10, h11, h12, h13, h14, h15, h16, h17, h18, h20, hslot, h21, beq_self_eq_true,
    decide_true, Bool.and_self, Bool.or_true, needs_true, holdsUntil_true, Option.bind_none, Option.isSome_none, Bool.false_eq_true, false_and,
    if_false, ne_eq, not_false_eq_true, and_self, hz, hparams, hzero, runFaults_none s d w hsound, hlast, hapart]
  change (writeCodes s (cxOf s f d) o (((List.range ((z.ext[1]?).getD 1)).map (rowSample s f b z zs params)).map (·.token)) >>=
    fun t => .ok (endF (touchRead t (cxOf s f d) z) d stOk w.cycles)) = _
  rw [hput, except_bind]

theorem sample_run {t : State} (h : Runs s d 0x2020 f) (ht : sampleOp s d f w = .ok t) : sample d w s = t := by
  unfold sample
  rw [withOp_run h, ht]

end Sys2Proof.Machine
end

section
/-! PROOF. The obligation O53, from the lemmas above. -/

open Sys2Proof Sys2Proof.Machine

/-- Settles O53: what each operation computes is its `_whole` lemma. -/
theorem elementWorkCompletes : Obligations.ElementWorkCompletes := by
  unfold Obligations.ElementWorkCompletes
  refine ⟨fun s u d f w ch p la lb ls h hp hcores hbuf hcore htr hpos ha hb hs hclean h1 h2 h3 hapart hput =>
      next_congr (chain_run h hp hcores (chainRun_whole ⟨h1, h2, h3⟩ hbuf hcore htr hpos ha hb hs hclean hapart hput)),
    fun s u d f w b x o xl h hb hx ho hz hz1 hz2 hext hrow hcvt hcore hbuf hxl hclean h1 h2 h3 hapart hput =>
      next_congr (softmax_run h (softmaxOp_whole ⟨h1, h2, h3⟩ ⟨hb, hx, ho, hz, hz1, hz2, hext, hrow, hcvt, hcore, hbuf⟩ hxl hclean hapart hput)),
    fun s u d f w b z o zs params h h1 h2 h3 h4 h5 h6 h7 h8 h9 h10 h11 h12 h13 h14 h15 h16 h17 h18 h19 h20 h21 hz hparams hzero hsound hlast
      hapart hput => next_congr (sample_run h (sampleOp_whole ⟨h1, h2, h3, h4, h5, h6, h7, h8, h9, h10, h11, h12, h13, h14, h15, h16, h17, h18,
        h19, h20, h21⟩ hsound hlast hz hparams hzero hapart hput))⟩

end

section
/-! SUPPORT. Reductions at the memory controllers (R204-R209). -/

namespace Sys2Proof.Machine

variable {s : State} {d : Nat} {f : Flight} {a b : Tensor} {ra : List (List (Byte × Bool))}

/-- The key of the group that an ordered ACC contributes to. -/
def accKey (f : Flight) : Nat := 256 * f.part + bits (f.op 0x30 4) 8 8

/-- An ACC of two tensors of one reducible format and one shape, the destination in the local tier S. -/
structure AccAsked (s : State) (d : Nat) (f : Flight) (a b : Tensor) (ra : List (List (Byte × Bool))) : Prop where
  run : Runs s d 0x5001 f
  noEve : f.fEve = false
  source : operand s (cxOf s f d) (f.op 0x20 8) = .ok a
  dest : operand s (cxOf s f d) (f.op 0x28 8) = .ok b
  op : bits (f.op 0x30 4) 0 4 ≤ 2
  reserved : bits (f.op 0x30 4) 5 3 = 0
  zeros : f.zeroFrom 0x34 = true
  format : a.fmt = b.fmt
  extents : a.ext = b.ext
  reducible : [0, 1, 6, 7].contains b.fmt = true
  local_ : inTierS s (cxOf s f d) b = .ok true
  rows : rowsP s (cxOf s f d) a = .ok ra

/-- The fields of ACC's ordered mode that keep the rules. -/
structure OrderedFields (f : Flight) (b : Tensor) : Prop where
  ordered : bit (f.op 0x30 4) 4 = true
  least : 1 ≤ bits (f.op 0x30 4) 24 8
  most : bits (f.op 0x30 4) 24 8 ≤ 32
  index : bits (f.op 0x30 4) 16 8 < bits (f.op 0x30 4) 24 8
  fits : bits (f.op 0x30 4) 24 8 * b.bytes ≤ stagingSize

/-- The count is part of the bits that free mode leaves 0. -/
theorem count_of_free {w : Nat} (h : bits w 8 24 = 0) : bits w 24 8 = 0 := by
  unfold bits at h ⊢
  omega

theorem accOp_free {u : State} {bad : Bool} (h : AccAsked s d f a b ra) (hfree : bit (f.op 0x30 4) 4 = false) (hz : bits (f.op 0x30 4) 8 24 = 0)
    (heach : accEach (cxOf s f d) b.fmt (bits (f.op 0x30 4) 0 4) ((elemVas b).zip (codesP a.fmt ra)) (touchRead s (cxOf s f d) a) false = .ok (u, bad)) :
    accOp s d f = .ok (endF u d (if bad then stPoisoned else stOk) 0) := by
  obtain ⟨-, h1, h2, h3, h4, h5, h6, h7, h8, h9, h10, h11⟩ := h
  have hfits : bits (f.op 0x30 4) 24 8 * b.bytes ≤ stagingSize := by
    rw [count_of_free hz, Nat.zero_mul]
    exact Nat.zero_le _
  rw [h7] at heach
  unfold accOp
  simp only [h1, h2, h3, h4, h5, h6, h7, h8, h9, h10, h11, hfree, hz, hfits, Bool.false_eq_true, if_false, beq_self_eq_true, decide_true, Bool.and_self,
    needs_true, except_bind, heach]

theorem accOp_ordered (h : AccAsked s d f a b ra) (ho : OrderedFields f b) : accOp s d f = .ok (contribute s d f a b (codesP a.fmt ra)) := by
  obtain ⟨-, h1, h2, h3, h4, h5, h6, h7, h8, h9, h10, h11⟩ := h
  obtain ⟨o1, o2, o3, o4, o5⟩ := ho
  unfold accOp
  simp only [h1, h2, h3, h4, h5, h6, h7, h8, h9, h10, h11, o1, o2, o3, o4, o5, Bool.false_eq_true, if_false, if_true, beq_self_eq_true, decide_true,
    and_self, Bool.and_self, needs_true, except_bind]

theorem acc_run {t : State} (h : Runs s d 0x5001 f) (ht : accOp s d f = .ok t) : acc d s = t := by
  unfold acc
  rw [withOp_run h, ht]

/-! A contribution. -/

/-- A state in which a descriptor waits for its group. -/
def contributing (t : State) (d : Nat) (f : Flight) : State := putF t d { f with phase := .running }

/-- The group that the first contribution opens, its bytes reserved. -/
def groupOpened (s : State) (d : Nat) (f : Flight) (b : Tensor) (codes : List (Nat × Bool)) : RGroup :=
  { op := bits (f.op 0x30 4) 0 4, count := bits (f.op 0x30 4) 24 8, format := b.fmt, dst := b.rows, e0 := b.e0, bytes := b.bytes
    stack := stackOfT s (cxOf s f d) b, staged := true, contrib := [(bits (f.op 0x30 4) 16 8, d, codes)] }

theorem contribute_opens {t : State} {codes : List (Nat × Bool)} (ht : t = touchRead s (cxOf s f d) a) (hmany : bits (f.op 0x30 4) 24 8 ≠ 1) (hnew : tfind s.mem.groups (accKey f) = none)
    (hroom : stagingUsed s (stackOfT s (cxOf s f d) b) + bits (f.op 0x30 4) 24 8 * b.bytes ≤ stagingSize) :
    contribute s d f a b codes = { contributing t d f with mem := { t.mem with
      groups := tput t.mem.groups (accKey f) (groupOpened s d f b codes)
      staging := tput t.mem.staging (stackOfT s (cxOf s f d) b)
        (stagingUsed s (stackOfT s (cxOf s f d) b) + bits (f.op 0x30 4) 24 8 * b.bytes) } } := by
  unfold accKey at hnew
  unfold contribute
  dsimp only
  rw [← ht, hnew]
  dsimp only
  rw [decide_eq_true hroom]
  exact finishGroup_waits (g := groupOpened s d f b codes) (tfind_tput_same _ _ _) (.inr hmany.symm)

/-- A group that a contribution fits, and that has none under its index yet. -/
structure Joins (s : State) (f : Flight) (b : Tensor) (g : RGroup) : Prop where
  group : tfind s.mem.groups (accKey f) = some g
  op : g.op = bits (f.op 0x30 4) 0 4
  count : g.count = bits (f.op 0x30 4) 24 8
  format : g.format = b.fmt
  dst : g.dst = b.rows
  e0 : g.e0 = b.e0
  fresh : (g.contrib.any fun c => c.1 == bits (f.op 0x30 4) 16 8) = false

/-- A group with one contribution more. -/
def joined (f : Flight) (d : Nat) (g : RGroup) (codes : List (Nat × Bool)) : RGroup :=
  { g with contrib := g.contrib ++ [(bits (f.op 0x30 4) 16 8, d, codes)] }

/-- The state in which it has joined. -/
def groupJoined (t : State) (d : Nat) (f : Flight) (g : RGroup) (codes : List (Nat × Bool)) : State :=
  { contributing t d f with mem := { t.mem with groups := tput t.mem.groups (accKey f) (joined f d g codes) } }

theorem contribute_joins {t : State} {codes : List (Nat × Bool)} {g : RGroup} (ht : t = touchRead s (cxOf s f d) a) (h : Joins s f b g) :
    contribute s d f a b codes = finishGroup (groupJoined t d f g codes) (accKey f) := by
  obtain ⟨hg, h1, h2, h3, h4, h5, h6⟩ := h
  unfold accKey at hg
  unfold contribute
  dsimp only
  rw [← ht, hg]
  dsimp only
  rw [if_neg (by simp [h1, h2, h3, h4, h5, h6])]
  rfl

theorem groupJoined_group (t : State) (d : Nat) (f : Flight) (g : RGroup) (codes : List (Nat × Bool)) :
    tfind (groupJoined t d f g codes).mem.groups (accKey f) = some (joined f d g codes) := tfind_tput_same _ _ _

theorem joined_length (f : Flight) (d : Nat) (g : RGroup) (codes : List (Nat × Bool)) : (joined f d g codes).contrib.length = g.contrib.length + 1 := by
  unfold joined
  rw [List.length_append, List.length_singleton]

theorem accKey_part (f : Flight) : accKey f / 256 = f.part := by
  unfold accKey bits
  omega

/-! The grant of staging. -/

/-- A group with its bytes reserved. -/
def groupStaged (s : State) (stack key : Nat) (g : RGroup) : State :=
  { s with mem := { s.mem with
    groups := tput s.mem.groups key { g with staged := true }, staging := tput s.mem.staging stack (stagingUsed s stack + g.count * g.bytes) } }

theorem orderedStagingGrant_run {stack key : Nat} {g : RGroup} (hone : s.mem.groups.filter (fun e => e.2.stack == stack && !e.2.staged) = [(key, g)])
    (hroom : stagingUsed s stack + g.count * g.bytes ≤ stagingSize) (hmore : g.contrib.length ≠ g.count) :
    orderedStagingGrant stack s = groupStaged s stack key g := by
  unfold orderedStagingGrant
  dsimp only
  rw [hone]
  dsimp only [List.foldl_cons, List.foldl_nil]
  rw [if_neg (Nat.not_lt.2 hroom)]
  exact finishGroup_waits (g := { g with staged := true }) (tfind_tput_same _ _ _) (.inr hmore)

end Sys2Proof.Machine
end

section
/-! PROOF. The obligation O54, from the lemmas above. -/

open Sys2Proof Sys2Proof.Machine

/-- Settles O54, mode by mode: `accOp_free`; a contribution that opens its group, joins it or completes it; and the grant of staging. -/
theorem reductionsCombineAtMemory : Obligations.ReductionsCombineAtMemory := by
  unfold Obligations.ReductionsCombineAtMemory
  refine ⟨fun s u d f a b ra bad h h1 h2 h3 h4 h5 h6 h7 h8 h9 hfree hz h10 h11 heach =>
      next_congr (acc_run h (accOp_free ⟨h, h1, h2, h3, h4, h5, h6, h7, h8, h9, h10, h11⟩ hfree hz heach)),
    fun s t d k f a b ra h h1 h2 h3 h4 h5 h6 h7 h8 h9 o1 o2 o3 o4 o5 h10 h11 hmany hnew ht hk hroom => ?_,
    fun s v g d f a b ra h h1 h2 h3 h4 h5 h6 h7 h8 h9 o1 o2 o3 o4 o5 h10 h11 hg g1 g2 g3 g4 g5 g6 hv hmore => ?_,
    fun s u t v g d f a b ra old l h h1 h2 h3 h4 h5 h6 h7 h8 h9 o1 o2 o3 o4 o5 h10 h11 hg g1 g2 g3 g4 g5 g6 hv hst hlast ht hold hl hput => ?_,
    fun s stack key g hone hroom hmore => next_congr (orderedStagingGrant_run hone hroom hmore)⟩
  · subst hk
    exact next_congr ((acc_run h (accOp_ordered ⟨h, h1, h2, h3, h4, h5, h6, h7, h8, h9, h10, h11⟩ ⟨o1, o2, o3, o4, o5⟩)).trans
      (contribute_opens ht hmany hnew hroom))
  · have hrun := (acc_run h (accOp_ordered ⟨h, h1, h2, h3, h4, h5, h6, h7, h8, h9, h10, h11⟩ ⟨o1, o2, o3, o4, o5⟩)).trans
      (contribute_joins hv ⟨hg, g1, g2, g3, g4, g5, g6⟩)
    exact next_congr (hrun.trans (finishGroup_waits (groupJoined_group v d f g _) (.inr (by rw [joined_length]; exact hmore))))
  · have hrun := (acc_run h (accOp_ordered ⟨h, h1, h2, h3, h4, h5, h6, h7, h8, h9, h10, h11⟩ ⟨o1, o2, o3, o4, o5⟩)).trans
      (contribute_joins hv ⟨hg, g1, g2, g3, g4, g5, g6⟩)
    change t = groupJoined v d f g (codesP a.fmt ra) at ht
    rw [← ht] at hrun
    have hgroup : tfind t.mem.groups (accKey f) = some (joined f d g (codesP a.fmt ra)) := by
      rw [ht]
      exact groupJoined_group v d f g _
    rw [← g3, ← g4, ← g5] at hold hput
    subst hl
    refine next_congr (hrun.trans (finishGroup_done (u := u) (old := old) hgroup hst ((joined_length f d g _).trans hlast) ?_ ?_))
    · rw [accKey_part]
      exact hold
    · rw [accKey_part]
      exact hput

end

section
/-! SUPPORT. Near-bank work and its windows (R215-R231). -/

namespace Sys2Proof.Machine

variable {s : State} {d k pc g : Nat} {f : Flight}

/-! LIST. -/

theorem nearBegin_starts {ch : Chain} {sets : List ChainSet} {units : List Unit} (hsome : sets ≠ [])
    (hfit : ∀ p ∈ sets, nearFit s (cxOf s f d) f ch p = some k) (hallow : nearAllowed s f.part k = true)
    (hw : seqE (sets.map fun p => writable s (cxOf s f d) p.d) = .ok units) : nearBegin s d f ch sets = .ok (nearStart s d f k ch sets) := by
  have hks : sets.map (fun p => nearFit s (cxOf s f d) f ch p) = sets.map fun _ => some k := List.map_congr_left hfit
  have hhead : ((sets.map fun _ => some k).head?).bind id = some k := by
    cases sets with
    | nil => exact absurd rfl hsome
    | cons p sets => rfl
  have hall : ((sets.map fun _ => some k).any fun x => x != some k) = false := by
    rw [List.any_eq_false]
    intro x hx
    obtain ⟨_, _, rfl⟩ := List.mem_map.1 hx
    simp
  unfold nearBegin
  dsimp only
  rw [hks, hhead]
  dsimp only
  rw [hall, if_neg Bool.false_ne_true, hallow, Bool.not_true, if_neg Bool.false_ne_true, hw, except_bind]

theorem nearList_run {ch : Chain} {sets : List ChainSet} {t : State} (h : Runs s d 0x4001 f) (hsets : listSets s d f = .ok (ch, sets))
    (ht : nearBegin s d f ch sets = .ok t) : nearList d s = t := by
  unfold nearList
  rw [withOp_run h]
  dsimp only
  rw [hsets, except_bind]
  dsimp only
  rw [ht]

/-! WINDOW_OPEN. -/

/-- The longest time that one bank needs for a group's work. -/
def groupWork (s : State) (r : NearRun) (mine : List NearWord) : Nat :=
  ((List.range 32).map fun j => ((mine.filter fun w => workBank s w.cw == j).map (cwTime s r)).foldl (· + ·) 0).foldl max 0

/-- The planned length of a group's window. -/
def windowLength (s : State) (k key : Nat) (r : NearRun) (mine : List NearWord) : Nat :=
  min 1200 (min (refreshDue s k (getBg s key) - s.time.now - 80) (groupWork s r mine))

/-- The blocks that a window's work writes. -/
def windowBlocks (mine : List NearWord) : List Nat := (mine.map fun w => w.cw / 64).eraseDups

/-- A bank group that may take a window for a descriptor's work. -/
structure MayOpen (s : State) (k pc g d : Nat) (f : Flight) (r : NearRun) : Prop where
  flight : getF s d = some f
  near : tfind s.mem.near d = some r
  work : groupLeft s d (bgKey k pc g) ≠ []
  shut : (getBg s (bgKey k pc g)).open_ = false
  fresh : (getBg s (bgKey k pc g)).refreshTo ≤ s.time.now
  early : s.time.now + 176 ≤ refreshDue s k (getBg s (bgKey k pc g))
  few : ((List.range 8).filter fun i => (getBg s (bgKey k pc i)).open_).length < if s.bw.hotBand.contains k then 1 else 2
  cool : s.bw.throttled.contains k = false
  allowed : s.bw.noWindow.contains k = false
  first : nearRival s k (bgKey k pc g) d f = false
  long : 100 ≤ windowLength s k (bgKey k pc g) r (groupLeft s d (bgKey k pc g)) ∨
    groupWork s r (groupLeft s d (bgKey k pc g)) ≤ windowLength s k (bgKey k pc g) r (groupLeft s d (bgKey k pc g))

theorem groupReady_eq_true {key : Nat} (h1 : (getBg s key).open_ = false) (h2 : (getBg s key).refreshTo ≤ s.time.now)
    (h3 : s.time.now + 176 ≤ refreshDue s k (getBg s key)) : groupReady s k key = true := by
  unfold groupReady
  dsimp only
  rw [h1, decide_eq_true ⟨h2, h3⟩]
  rfl

/-- The state in which a window of n ns over some blocks has opened, their lines written back to give u. -/
def windowOpened (s u : State) (key d : Nat) (r : NearRun) (n : Nat) (dst : List Nat) : State :=
  putBg { u with mem := { u.mem with near := tput u.mem.near d { r with begun := some (r.begun.getD s.time.now) } } } key
    { getBg s key with open_ := true, desc := d, openedAt := s.time.now, closeAt := s.time.now + 80 + n, blocks := dst }

theorem windowOpen_run {u : State} {r : NearRun} {mine : List NearWord} {n : Nat} {dst : List Nat} (h : MayOpen s k pc g d f r)
    (hmine : mine = groupLeft s d (bgKey k pc g)) (hn : n = windowLength s k (bgKey k pc g) r mine) (hdst : dst = windowBlocks mine)
    (hu : u = cleanBlocks s (dst ++ mine.flatMap fun w => w.sources.map (· / 64))) :
    windowOpen k pc g d s = windowOpened s u (bgKey k pc g) d r n dst := by
  subst hmine hn hdst hu
  obtain ⟨hf, hr, hsome, h1, h2, h3, hfew, hcool, hallow, hfirst, hlong⟩ := h
  unfold windowOpen
  rw [hf, hr]
  refine if_neg ?_
  rintro (hbad | hbad | hbad | hbad | hbad | hbad | ⟨hshort, hless⟩)
  · exact hsome (List.isEmpty_iff.1 hbad)
  · rw [groupReady_eq_true h1 h2 h3] at hbad
    exact absurd hbad (by decide)
  · exact absurd hfew (Nat.not_lt.2 hbad)
  · exact absurd (hcool.symm.trans hbad) Bool.false_ne_true
  · exact absurd (hallow.symm.trans hbad) Bool.false_ne_true
  · exact absurd (hfirst.symm.trans hbad) Bool.false_ne_true
  · change windowLength s k (bgKey k pc g) r (groupLeft s d (bgKey k pc g)) < 100 at hshort
    change windowLength s k (bgKey k pc g) r (groupLeft s d (bgKey k pc g)) < groupWork s r (groupLeft s d (bgKey k pc g)) at hless
    omega

/-! The end of a window. -/

theorem windowClose_planned {x : WindowWork} (hopen : (getBg s (bgKey k pc g)).open_ = true)
    (hdue : (getBg s (bgKey k pc g)).closeAt ≤ s.time.now) : windowClose k pc g x s =
      releaseHeld (endWindow s (bgKey k pc g) ((getBg s (bgKey k pc g)).closeAt - (getBg s (bgKey k pc g)).openedAt - 80) x) (bgKey k pc g) := by
  unfold windowClose
  dsimp only
  rw [hopen, decide_eq_false (Nat.not_lt.2 hdue), Bool.and_false, if_neg Bool.false_ne_true, if_pos rfl]

theorem windowClose_shut {x : WindowWork} (hshut : (getBg s (bgKey k pc g)).open_ = false) :
    windowClose k pc g x s = releaseHeld s (bgKey k pc g) := by
  unfold windowClose
  dsimp only
  rw [hshut, Bool.false_and, if_neg Bool.false_ne_true, if_neg Bool.false_ne_true]

theorem windowCut_run {x : WindowWork} {i : Nat} {q : WaitReq} (hopen : (getBg s (bgKey k pc g)).open_ = true)
    (hi : i ∈ (getBg s (bgKey k pc g)).held) (hq : tfind s.bw.waiting i = some q) (hcls : q.req.cls ≤ 1) (hd : 0 < q.req.deadline)
    (hlate : q.req.deadline < (getBg s (bgKey k pc g)).closeAt) : windowCut k pc g x s =
      releaseHeld (endWindow s (bgKey k pc g) (s.time.now - (getBg s (bgKey k pc g)).openedAt - 40) x) (bgKey k pc g) := by
  unfold windowCut
  dsimp only
  rw [hopen, Bool.true_and]
  refine if_pos (List.any_eq_true.2 ⟨i, hi, ?_⟩)
  rw [hq]
  exact decide_eq_true ⟨hcls, hd, hlate⟩

theorem bankGroupRefresh_run (hshut : (getBg s (bgKey k pc g)).open_ = false)
    (hdue : refreshDue s k (getBg s (bgKey k pc g)) < s.time.now + 176) : bankGroupRefresh k pc g s =
      putBg s (bgKey k pc g) { getBg s (bgKey k pc g) with lastRefresh := s.time.now, refreshTo := s.time.now + 136 } := by
  unfold bankGroupRefresh
  dsimp only
  exact if_neg (fun h => h.elim (fun h => absurd (hshut.symm.trans h) Bool.false_ne_true) (Nat.not_le.2 hdue))

end Sys2Proof.Machine
end

section
/-! PROOF. The obligation O55, from the lemmas above. -/

open Sys2Proof Sys2Proof.Machine

/-- Settles O55, operation by operation; what a window's end leaves is `endWindow_last`. -/
theorem nearBankWorkRunsInWindows : Obligations.NearBankWorkRunsInWindows := by
  unfold Obligations.NearBankWorkRunsInWindows
  refine ⟨fun s d k f ch sets units h hsets hsome hfit hallow hw => next_congr (nearList_run h hsets (nearBegin_starts hsome hfit hallow hw)),
    fun s u k pc g d n work f r mine dst hf hr hmine hsome h1 h2 h3 hfew hcool hallow hfirst hwork hn hlong hdst hu => ?_,
    fun s u v x k pc g d f r t w hopen hd hf hr hleft hp ht hmine hv hword hx hdue hlen => ?_,
    fun s k pc g x hshut => next_congr (windowClose_shut hshut),
    fun s u v x k pc g d f r t w i q hopen hd hf hr hleft hp ht hmine hv hword hx hi hq hcls hdl hlate hlen => ?_,
    fun s k pc g hshut hdue => next_congr (bankGroupRefresh_run hshut hdue)⟩
  · have hn' : n = windowLength s k (bgKey k pc g) r mine := by
      rw [hn, hwork]
      rfl
    have hlong' : 100 ≤ n ∨ groupWork s r mine ≤ n := by
      rw [hwork] at hlong
      exact hlong
    refine next_congr (windowOpen_run ⟨hf, hr, hmine ▸ hsome, h1, h2, h3, hfew, hcool, hallow, hfirst, ?_⟩ hmine hn' hdst hu)
    rw [← hmine, ← hn']
    exact hlong'
  · subst hv hx
    refine next_congr ((windowClose_planned hopen hdue).trans ?_)
    rw [endWindow_last hd hf hr hleft hp ht hmine (by omega) rfl hword]
  · subst hv hx
    refine next_congr ((windowCut_run hopen hi hq hcls hdl hlate).trans ?_)
    rw [endWindow_last hd hf hr hleft hp ht hmine (by omega) rfl hword]

end

section
/-! SUPPORT. Attention and the restart of stopped work (R256-R267). -/

namespace Sys2Proof.Machine

variable {s : State} {d : Nat} {f : Flight}

/-! ATTEND of one sequence. -/

/-- What an ATTEND reads before it appends: its queries, its weights and its new entries. -/
structure AttReads (s : State) (d : Nat) (f : Flight) (p : AttPlan) (q uk uv : List Fv) (rows : List (List Byte)) : Prop where
  queries : valuesT s (cxOf s f d) p.q = .ok q
  keys : valuesT s (cxOf s f d) p.wuk = .ok uk
  values : valuesT s (cxOf s f d) p.wuv = .ok uv
  entries : seqE (p.new.rows.map fun a => vread s (cxOf s f d) a p.new.rowBytes) = .ok rows

/-- What an ATTEND writes to its output. -/
def attValues (p : AttPlan) (r : AttOut) : List Nat := r.rows.flatMap fun e => match e.2 with
  | .ok v => v
  | .error _ => List.replicate p.out.e0 0

/-- The first row that could not be attended. -/
def firstError (r : AttOut) : Option Stop := r.rows.findSome? fun e => match e.2 with
  | .error x => some x
  | .ok _ => none

theorem firstError_none {r : AttOut} (h : ∀ e ∈ r.rows, ∃ v, e.2 = .ok v) : firstError r = none := by
  unfold firstError
  rw [List.findSome?_eq_none_iff]
  intro e he
  obtain ⟨v, hv⟩ := h e he
  rw [hv]

theorem attRun_whole {u t : State} {w : Work} {p : AttPlan} {q uk uv : List Fv} {rows : List (List Byte)} {r : AttOut} {seqs : List (Nat × Nat × Nat)}
    (h : AttReads s d f p q uk uv rows) (happend : attAppend s (cxOf s f d) p rows seqs = (u, none))
    (hr : r = attCompute u (cxOf s f d) p q.toArray uk.toArray uv.toArray seqs) (hall : ∀ e ∈ r.rows, ∃ v, e.2 = .ok v) (hsound : w.faults = [])
    (hput : writeF32 u (cxOf s f d) p.out (cvtSat p.cvt) (genKeyOf s f p.cvt p.out) (attValues p r) = .ok t) :
    attRun s d f p w seqs =
      endF ([p.q, p.new, p.wuk, p.wuv].foldl (fun x y => touchRead x (cxOf s f d) y) (setIncs t p.layer r.incs)) d stOk w.cycles := by
  obtain ⟨h1, h2, h3, h4⟩ := h
  have hfirst := firstError_none hall
  unfold attRun
  simp only [h1, h2, h3, h4, except_bind, happend, runFaults_none u d w hsound]
  rw [← hr]
  split
  · next herr => exact absurd (herr.symm.trans hfirst) (by simp)
  · next herr => exact absurd (herr.symm.trans hfirst) (by simp)
  · next hrun => exact absurd hrun Bool.false_ne_true
  · split
    · next hfail => exact absurd (hfail.symm.trans hput) (by simp)
    · next hdone =>
      obtain rfl := Except.ok.inj (hdone.symm.trans hput)
      rfl

/-- An ATTEND of one sequence outside a step, whose slot is OPEN and in no other step, with the records that its layout needs. -/
structure AttAsked (s s1 : State) (d : Nat) (f : Flight) (p : AttPlan) : Prop where
  noStep : f.stepOf = none
  noEve : f.fEve = false
  slot : f.slotF ≠ 0xFFFF
  plan : attPlan s d f = .ok p
  opened : (getSlot s f.slotF).st = .open_
  own : (getSlot s f.slotF).inStep = none ∨ (getSlot s f.slotF).inStep = some d
  entered : s1 = enterStep s d f
  layout : layoutOk s1 f.part p (getSlot s1 f.slotF) p.n = true
  rows : p.n = (p.q.ext[1]?).getD 0

theorem attSeqs_one {p : AttPlan} (h : f.stepOf = none) : attSeqs s f p = [(f.slotF, 0, p.n)] := by
  unfold attSeqs
  rw [h]
  rfl

theorem attendOp_run {s1 : State} {w : Work} {p : AttPlan} (h : AttAsked s s1 d f p) :
    attendOp s d f w = attRun s1 d f p w [(f.slotF, 0, p.n)] := by
  obtain ⟨hstep, heve, hslot, hp, hopen, hown, hs1, hlay, hn⟩ := h
  have hstatus : ([(f.slotF, 0, p.n)].findSome? fun e => slotStatus (getSlot s e.1).st) = none := by
    rw [List.findSome?_cons, hopen]
    rfl
  have hfree : ([(f.slotF, 0, p.n)].any fun e => (getSlot s e.1).inStep.isSome && (getSlot s e.1).inStep != some d) = false := by
    rw [List.any_cons, List.any_nil, Bool.or_false]
    rcases hown with h | h
    · rw [h]
      rfl
    · rw [h, bne_self_eq_false, Bool.and_false]
  have hmatch : (!([(f.slotF, 0, p.n)].all fun e => layoutOk s1 f.part p (getSlot s1 e.1) e.2.2) ||
      ([(f.slotF, 0, p.n)].map fun e => e.2.2).foldl (· + ·) 0 != (p.q.ext[1]?).getD 0) = false := by
    rw [List.all_cons, List.all_nil, hlay, List.map_cons, List.map_nil, List.foldl_cons, List.foldl_nil, ← hn]
    simp
  unfold attendOp
  rw [hstep, heve, if_neg (by simp [hslot]), hp]
  dsimp only
  rw [attSeqs_one hstep, hstatus]
  dsimp only [Option.getD_none]
  rw [if_neg (ne_true_of_eq_false hfree), ← hs1, if_neg (ne_true_of_eq_false hmatch)]

theorem attend_run {w : Work} {t : State} (h : Runs s d 0x3001 f) (ht : attendOp s d f w = t) : attend d w s = t := by
  unfold attend
  rw [withOp_run h, ht]

/-! POOL_RESTART. -/

theorem poolRestart_run {needs : List Nat} {table : Bool} (hf : getF s d = some f)
    (hstop : (getPool s f.part).stopped.find? (fun e => e.1 == d) = some (d, needs, table)) (hph : f.phase = .stopped)
    (hmet : needMet s f.part needs table = true) : poolRestart d s =
      if f.opcode = 0x6001 then putF (unstop s f.part d) d { f with phase := .held }
      else enterStep (putF (unstop s f.part d) d { f with phase := .started, remote := [] }) d f := by
  unfold poolRestart
  rw [hf]
  dsimp only
  rw [hstop]
  dsimp only
  rw [if_neg (not_not.2 hph), if_pos hmet]

/-! DESCRIPTOR_COMPLETE of an ATTEND. -/

/-- An ended ATTEND of its own that asks for no record and no signal. -/
structure AttEnded (s : State) (d : Nat) (f : Flight) : Prop where
  flight : getF s d = some f
  ended : f.phase = .ended
  answered : hasOut s d = false
  room : recordRoom s f = true
  op : f.opcode = 0x3001
  noStep : f.stepOf = none
  ok : f.status = stOk
  quiet : f.fCmpl = false
  noSignal : f.fSignal = false
  tenant : f.q ≠ 0
  noDeadline : f.absDeadline = none
  noDrain : s.pwr.drainTo = none
  own : (getSlot s f.slotF).inStep = some d

theorem settleAttend_commits (hop : f.opcode = 0x3001) (hstep : f.stepOf = none) (hok : f.status = stOk)
    (hown : (getSlot s f.slotF).inStep = some d) : settleAttend s d f =
      endSequence s { part := f.part, desc := d, rem := [] } f.slotF ((getSlot s f.slotF).settled + (getSlot s f.slotF).eveCount) true := by
  unfold settleAttend
  dsimp only
  rw [if_neg (by simp [hop, hstep, hown]), if_pos (.inl hok)]

theorem descriptorComplete_attend {t : State} (h : AttEnded s d f)
    (ht : t = endSequence (putF s d f) { part := f.part, desc := d, rem := [] } f.slotF ((getSlot s f.slotF).settled + (getSlot s f.slotF).eveCount) true)
    (hft : getF t d = some f) : descriptorComplete d s = letGo t d := by
  obtain ⟨hf, hph, hout, hroom, hop, hstep, hok, hcmpl, hsig, hq, hdead, hdrain, hown⟩ := h
  have hfinal : { f with status := finalStatus s f } = f := by
    unfold finalStatus
    simp [hsig, hdead]
  have hneeds : needsRecord f = false := by
    unfold needsRecord
    simp [hcmpl, hok, hq]
  have hsettle : settleAttend (putF s d f) d f = t := (settleAttend_commits (s := putF s d f) hop hstep hok hown).trans ht.symm
  have hheader : headerSignal t d f = t := by
    unfold headerSignal
    simp [hsig]
  have hpwr : t.pwr = s.pwr := by
    rw [ht, (endSequence_K _ _ _ _ _).part12 rfl]
    rfl
  clear ht
  unfold descriptorComplete
  rw [hf]
  dsimp only
  rw [if_neg (by simp [hph, hout, hroom]), hfinal, hsettle, hft]
  simp only [hft, hheader, hstep, hneeds, Bool.false_eq_true, if_false, endPartReset_tenant hq, hop, show ¬ ((0x3001 : Nat) = 0x7021) by decide, false_and]
  refine settleDrain_none ?_
  rw [delF_pwr]
  exact (congrArg Power.drainTo hpwr).trans hdrain

end Sys2Proof.Machine
end

section
/-! PROOF. The obligation O56, from the lemmas above. -/

open Sys2Proof Sys2Proof.Machine

/-- Settles O56: `attendOp_run` with `attRun_whole`, `poolRestart_run` and `descriptorComplete_attend`. -/
theorem attentionAppendsAndAttends : Obligations.AttentionAppendsAndAttends := by
  unfold Obligations.AttentionAppendsAndAttends
  refine ⟨fun s s1 u t d f w p q uk uv rows r h hstep heve hslot hp hopen hown hs1 hlay hn h1 h2 h3 h4 happend hr hall hsound hput =>
      next_congr ((attend_run h (attendOp_run ⟨hstep, heve, hslot, hp, hopen, hown, hs1, hlay, hn⟩)).trans
        (attRun_whole ⟨h1, h2, h3, h4⟩ happend hr hall hsound hput)),
    fun s d needs table f hf hstop hph hmet => ⟨next_congr (poolRestart_run hf hstop hph hmet), rfl⟩,
    fun s t d f hf hph hout hroom hop hstep hok hcmpl hsig hq hdead hdrain hown ht hft =>
      next_congr (descriptorComplete_attend ⟨hf, hph, hout, hroom, hop, hstep, hok, hcmpl, hsig, hq, hdead, hdrain, hown⟩ ht hft)⟩

end
